-- ==== Sys2Proof/Word.lean ====
section
/-!
DEFINITION. The machine's word, byte and address types (spec/00_scope.md R3, R4).
-/
namespace Sys2Proof

/-- A 64-bit register value. -/
abbrev Word := BitVec 64
/-- A byte of memory. -/
abbrev Byte := BitVec 8

end Sys2Proof
end

