-- ==== Sys2Proof/Config.lean ====
section
/-!
DEFINITION. What the manual leaves to the implementation or leaves open: free values, as constants without a body.
Each is applied to its operands or to the plain counter `free` of the state (DESIGN CHOICE log 12).
-/
namespace Sys2Proof

/-- A fresh free value for each value of the state's counter (DESIGN CHOICE log 12). -/
opaque Config.freeBits : Nat → Word
/-- Cycles that pass beyond a stall count (interlocks, traffic, permits; R53, R11; DESIGN CHOICE log 5). -/
opaque Config.extraCycles : Nat → BitVec 16
/-- Keyed hash under a boot key (R319, Table 16.8, R396; DESIGN CHOICE log 10). -/
opaque Config.keyedHash : Word → List Byte → Word
/-- Whether the ECDSA P-384 signature of a message verifies against the vendor's key (R497; DESIGN CHOICE log 11). -/
opaque Config.ecdsaVerifies : List Byte → List Byte → Bool
/-- Whether the LMS_SHA256_M32_H10 signature of a message verifies against the vendor's key (R497; DESIGN CHOICE log 11). -/
opaque Config.lmsVerifies : List Byte → List Byte → Bool
/-- The signature bytes of a quote: ECDSA r and s, then LMS (R503; DESIGN CHOICE log 11). -/
opaque Config.quoteSignature : Nat → List Byte → List Byte
/-- The bytes of an image that boot loaded, by its kind and the number of the boot (R498, R503; DESIGN CHOICE log 11). -/
opaque Config.bootImage : Nat → Nat → List Byte
/-- The tag that a pass of the microcode gives a row: of the instruction's word, the pass from 0, and the codes compared
(R218, R237; DESIGN CHOICE log 96). -/
opaque Config.passTag : Word → Nat → List Nat → Bool
/-- What the first passes of the microcode leave in a destination, of the same and the destination's column (R222, R237;
DESIGN CHOICE log 96). -/
opaque Config.passCode : Word → Nat → List Nat → Nat → Nat

end Sys2Proof
end

