-- ==== Sys2Proof/Machine/Sparse.lean ====
section
/-!
DEFINITION. Sparse tables in one canonical form: keys strictly rising, no entry equal to the default. Memory is such a
table from address to byte, with default 0 (R467; DESIGN CHOICE log 3).
-/
namespace Sys2Proof.Machine

/-- A sparse table from a number to a value. -/
abbrev Tab (α : Type) := List (Nat × α)

/-- The entry at `k`, if one is listed. -/
def Tab.find {α : Type} : Tab α → Nat → Option α
  | [], _ => none
  | (i, v) :: t, k => if i == k then some v else Tab.find t k

/-- The value at `k`: `d` where nothing is listed. -/
def Tab.get {α : Type} (d : α) (t : Tab α) (k : Nat) : α := (Tab.find t k).getD d

/-- Removes the entry at `k`. -/
def Tab.erase {α : Type} : Tab α → Nat → Tab α
  | [], _ => []
  | (i, v) :: t, k => if i == k then t else (i, v) :: Tab.erase t k

/-- Lists `v` at `k`, keeping keys rising. -/
def Tab.insert {α : Type} : Tab α → Nat → α → Tab α
  | [], k, v => [(k, v)]
  | (i, w) :: t, k, v =>
    if k < i then (k, v) :: (i, w) :: t
    else if i == k then (k, v) :: t
    else (i, w) :: Tab.insert t k v

/-- Writes `v` at `k`; writing the default removes the entry. -/
def Tab.put {α : Type} [DecidableEq α] (d : α) (t : Tab α) (k : Nat) (v : α) : Tab α :=
  if v = d then Tab.erase t k else Tab.insert t k v

/-- The canonical form. -/
def Tab.wf {α : Type} [DecidableEq α] (d : α) : Tab α → Bool
  | [] => true
  | (_, v) :: [] => decide (v ≠ d)
  | (i, v) :: (j, w) :: t => decide (v ≠ d) && decide (i < j) && Tab.wf d ((j, w) :: t)

/-- Byte memory: address and byte, unlisted addresses reading 0. -/
abbrev Memory := List Host.Cell

/-- The byte at `a`. -/
def Memory.byte (m : Memory) (a : Nat) : Byte := Tab.get 0 m a
/-- Stores one byte. -/
def Memory.setByte (m : Memory) (a : Nat) (b : Byte) : Memory := Tab.put 0 m a b
/-- The `n` bytes from `a` upwards. -/
def Memory.bytes (m : Memory) (a : Nat) : Nat → List Byte
  | 0 => []
  | n + 1 => Memory.byte m a :: Memory.bytes m (a + 1) n
/-- Stores bytes from `a` upwards. -/
def Memory.setBytes (m : Memory) (a : Nat) : List Byte → Memory
  | [] => m
  | b :: bs => Memory.setBytes (Memory.setByte m a b) (a + 1) bs
/-- Zeroes the bytes from `lo` below `hi`. -/
def Memory.zero (m : Memory) (lo hi : Nat) : Memory := m.filter (fun c => decide (c.1 < lo) || decide (hi ≤ c.1))
/-- The canonical form of memory (addresses strictly rising, no zero byte listed). -/
abbrev Memory.wf (m : Memory) : Bool := Tab.wf (0 : Byte) m

/-- Little-endian value of bytes (R4). -/
def leNat : List Byte → Nat
  | [] => 0
  | b :: bs => b.toNat + 256 * leNat bs
/-- Little-endian bytes of a value (R4). -/
def leBytes (v : Nat) : Nat → List Byte
  | 0 => []
  | n + 1 => BitVec.ofNat 8 v :: leBytes (v / 256) n

end Sys2Proof.Machine
end

