-- ==== Sys2Proof/Syntax.lean ====
section
/-!
DEFINITION. The instructions and device events of the Filbin Xanos FX96-8C (spec/opcode_table.json): one constructor
a row. An instruction carries the fields of its word (spec/02_instruction_words.md R36, R42, R46); a device event
carries what the outside world or the policy supplies (DESIGN CHOICE log 1, log 2).
-/
namespace Sys2Proof

/-- Stall count, guard negate and guard predicate of a guarded format (R36, R44). -/
structure Hdr where
  stall : BitVec 4
  neg : BitVec 1
  pred : BitVec 3
  deriving DecidableEq, Repr

/-- Stall count and governing mask of format A (R45). -/
structure AHdr where
  stall : BitVec 4
  mg : BitVec 5
  deriving DecidableEq, Repr

/-- Last operand of a format-A instruction that takes several forms (R46): field, s-register or immediate. -/
inductive AOpnd where
  | vv (fb : BitVec 5)
  | vs (s : BitVec 6)
  | vi (imm : BitVec 24)
  deriving DecidableEq, Repr

/-- Operand of a format-A instruction that takes the VS and VI forms only (R46). -/
inductive SvOpnd where
  | vs (s : BitVec 6)
  | vi (imm : BitVec 24)
  deriving DecidableEq, Repr

/-- Operand of ACMP: in the VS and VI forms bit 30 swaps the sides (R269). -/
inductive CmpOpnd where
  | vv (fb : BitVec 5)
  | vs (rev : BitVec 1) (s : BitVec 6)
  | vi (rev : BitVec 1) (imm : BitVec 24)
  deriving DecidableEq, Repr

/-- What the security processor's boot brings (R498): `failed` is 0 when every step passes, else the failing step. -/
structure BootOutcome where
  failed : BitVec 3
  detail : BitVec 64
  entry : BitVec 64
  root : BitVec 52
  monVersion : BitVec 32
  ucodeVersion : BitVec 32
  bootKey : BitVec 64
  deriving DecidableEq, Repr

/-- Where an inbound PCIe request enters (R484, R485, R496): port, BAR, the TDISP interface it came through, and whether it
came over an IDE stream. -/
structure PcieSource where
  port : BitVec 3
  bar2 : Bool
  tdisp : Option (BitVec 16)
  ide : Bool
  deriving DecidableEq, Repr

/-- Completion of a non-posted request to a peer or the host (R491). -/
inductive RemoteAnswer where
  | data (bytes : List (BitVec 8))
  | poisoned (bytes : List (BitVec 8))
  | error
  deriving DecidableEq, Repr

/-- One constructor for every row of spec/opcode_table.json, in the table's order. -/
inductive Instr where
  /-- MODULE_RESET, event (R498). -/
  | moduleReset (o : BootOutcome)
  /-- MBOXSEQ_WRITE, event (R487). -/
  | mboxseqWrite (v : BitVec 64)
  /-- MGMT_REGISTER_WRITE, event (R486). -/
  | mgmtRegisterWrite (off : BitVec 12) (v : BitVec 64)
  /-- INBOUND_PCIE_WRITE, event (R485). -/
  | inboundPcieWrite (src : PcieSource) (addr : BitVec 64) (data : List (BitVec 8))
  /-- INBOUND_PCIE_READ, event (R485). -/
  | inboundPcieRead (src : PcieSource) (addr : BitVec 64) (len : BitVec 13)
  /-- ATS_INVALIDATION, event (R484). -/
  | atsInvalidation (pasid : BitVec 20) (addr : BitVec 64)
  /-- RAMIR_MESSAGE_ARRIVAL, event (R492). -/
  | ramirMessageArrival (ch frm : BitVec 6) (ctx : BitVec 16) (body : List (BitVec 8))
  /-- PAGE_REQUEST_ANSWER, event (R182). -/
  | pageRequestAnswer (req : BitVec 64) (ok : Bool)
  /-- REMOTE_READ_COMPLETION, event (R491). -/
  | remoteReadCompletion (req : BitVec 64) (ans : RemoteAnswer)
  /-- REMOTE_COMPLETION_TIMEOUT, event (R491). -/
  | remoteCompletionTimeout (req : BitVec 64)
  /-- SYMBOL_RESOLVE, event (R199). -/
  | symbolResolve (n : BitVec 10) (k : BitVec 5)
  /-- SYMBOL_DEADLINE, event (R191). -/
  | symbolDeadline (n : BitVec 10) (k : BitVec 5)
  /-- TAKE_TRAP, event (R109). -/
  | takeTrap (n : BitVec 10)
  /-- ITEM_DISPATCH, event (R416). -/
  | itemDispatch (n : BitVec 10)
  /-- ITEM_RESUME, event (R427). -/
  | itemResume (n : BitVec 10)
  /-- LAUNCH_COMPLETE, event (R413). -/
  | launchComplete (id : BitVec 64)
  /-- LAUNCH_AGEING, event (R420). -/
  | launchAgeing (id : BitVec 64)
  /-- PREEMPT_MARK, event (R423). -/
  | preemptMark (die : BitVec 3)
  /-- PREEMPT_GRACE_EXPIRY, event (R424). -/
  | preemptGraceExpiry (n : BitVec 10)
  /-- WATCHDOG_EXPIRY, event (R428). -/
  | watchdogExpiry (ctx : BitVec 16)
  /-- PERMIT_CHANGE, event (R219). -/
  | permitChange (die : BitVec 3) (permit : BitVec 5)
  /-- ASSOC_DISPATCH, event (R216). -/
  | assocDispatch (n : BitVec 10)
  /-- STREAM_FILL, event (R342). -/
  | streamFill (n : BitVec 10) (z : BitVec 4)
  /-- STREAM_DRAIN, event (R342). -/
  | streamDrain (n : BitVec 10) (z : BitVec 4)
  /-- TRANSFER_COMMAND_START, event (R332). -/
  | transferCommandStart (cl : BitVec 7) (ch : BitVec 4)
  /-- TRANSFER_COMMAND_COMPLETE, event (R333). -/
  | transferCommandComplete (cl : BitVec 7) (ch : BitVec 4)
  /-- MATRIX_COMMAND_RUN, event (R378). -/
  | matrixCommandRun (cl : BitVec 7)
  /-- MATRIX_COMMAND_COMPLETE, event (R372). -/
  | matrixCommandComplete (cl : BitVec 7)
  /-- MATRIX_TASK_ISSUE, event (R394). -/
  | matrixTaskIssue (die : BitVec 3)
  /-- MATRIX_TASK_COMPLETE, event (R394). -/
  | matrixTaskComplete (cl : BitVec 7)
  /-- TREE_OP_APPLY, event (R442). -/
  | treeOpApply (unit : BitVec 4) (slot : BitVec 10)
  /-- SCRUB, event (R471). -/
  | scrub (pa : BitVec 52)
  /-- PROMOTION_INSTALL, event (R483). -/
  | promotionInstall (pa : BitVec 52)
  /-- DEMOTION_REMOVE, event (R483). -/
  | demotionRemove (pa : BitVec 52)
  /-- NOP, opcode 0x00 (R183). -/
  | nop (h : Hdr)
  /-- HALT, opcode 0x01 (R184). -/
  | halt (h : Hdr)
  /-- TRAP, opcode 0x02 (R183). -/
  | trap (h : Hdr) (imm : BitVec 36)
  /-- SYSC, opcode 0x03 (R183). -/
  | sysc (h : Hdr) (imm : BitVec 36)
  /-- ERET, opcode 0x04 (R110). -/
  | eret (h : Hdr)
  /-- BKPT, opcode 0x05 (R183). -/
  | bkpt (h : Hdr) (imm : BitVec 36)
  /-- MFC, opcode 0x06 (R185). -/
  | mfc (h : Hdr) (d : BitVec 6) (r : BitVec 12)
  /-- MFC_FPCSR, opcode 0x06 (R103). -/
  | mfcFpcsr (h : Hdr) (d : BitVec 6)
  /-- MFC_ESTART_FFIDX, opcode 0x06 (R147). -/
  | mfcEstartFfidx (h : Hdr) (d : BitVec 6) (r : BitVec 2)
  /-- MFC_ADIRTY, opcode 0x06 (R147). -/
  | mfcAdirty (h : Hdr) (d : BitVec 6)
  /-- MTC, opcode 0x07 (R185). -/
  | mtc (h : Hdr) (a : BitVec 6) (r : BitVec 12)
  /-- MTC_FPCSR, opcode 0x07 (R103). -/
  | mtcFpcsr (h : Hdr) (a : BitVec 6)
  /-- MTC_TRAPBASE, opcode 0x07 (R105). -/
  | mtcTrapbase (h : Hdr) (a : BitVec 6)
  /-- MTC_ALIMIT, opcode 0x07 (R236). -/
  | mtcAlimit (h : Hdr) (a : BitVec 6)
  /-- MTC_PRIOCUR, opcode 0x07 (R421). -/
  | mtcPriocur (h : Hdr) (a : BitVec 6)
  /-- MTC_WATCHDOG, opcode 0x07 (R428). -/
  | mtcWatchdog (h : Hdr) (a : BitVec 6) (r : BitVec 1)
  /-- WAITE, opcode 0x08 (R186). -/
  | waite (h : Hdr) (d a b : BitVec 6)
  /-- SEV, opcode 0x09 (R186). -/
  | sev (h : Hdr) (sc : BitVec 3)
  /-- WAITM, opcode 0x0A (R187). -/
  | waitm (h : Hdr) (a b : BitVec 6)
  /-- YIELD, opcode 0x0B (R183). -/
  | yield (h : Hdr)
  /-- CACHE_IINV, opcode 0x0C (R181). -/
  | cacheIinv (h : Hdr) (base index : BitVec 6) (disp : BitVec 24)
  /-- CACHE_CLEAN, opcode 0x0C (R181). -/
  | cacheClean (h : Hdr) (base index : BitVec 6) (disp : BitVec 24)
  /-- CACHE_CLINV, opcode 0x0C (R181). -/
  | cacheClinv (h : Hdr) (base index : BitVec 6) (disp : BitVec 24)
  /-- CACHE_INV, opcode 0x0C (R181). -/
  | cacheInv (h : Hdr) (base index : BitVec 6) (disp : BitVec 24)
  /-- CACHE_ZERO, opcode 0x0C (R181). -/
  | cacheZero (h : Hdr) (base index : BitVec 6) (disp : BitVec 24)
  /-- CACHE_IINVALL, opcode 0x0C (R181). -/
  | cacheIinvall (h : Hdr)
  /-- TLBI_ALL, opcode 0x0D (R180). -/
  | tlbiAll (h : Hdr)
  /-- TLBI_CTX, opcode 0x0D (R180). -/
  | tlbiCtx (h : Hdr) (b : BitVec 6)
  /-- TLBI_VA, opcode 0x0D (R180). -/
  | tlbiVa (h : Hdr) (a b : BitVec 6)
  /-- TLBI_VAALL, opcode 0x0D (R180). -/
  | tlbiVaall (h : Hdr) (a : BitVec 6)
  /-- WDOG_SET, opcode 0x0E (R429). -/
  | wdogSet (h : Hdr) (a b c : BitVec 6)
  /-- WDOG_CLR, opcode 0x0E (R429). -/
  | wdogClr (h : Hdr) (a b : BitVec 6)
  /-- WDOG_READ, opcode 0x0E (R429). -/
  | wdogRead (h : Hdr) (a b : BitVec 6)
  /-- ERRINJ_CORR, opcode 0x0F (R478). -/
  | errinjCorr (h : Hdr) (a b : BitVec 6)
  /-- ERRINJ_DET, opcode 0x0F (R478). -/
  | errinjDet (h : Hdr) (a b : BitVec 6)
  /-- ERRINJ_ARR, opcode 0x0F (R478). -/
  | errinjArr (h : Hdr) (a b c : BitVec 6)
  /-- ADD, opcode 0x10 (R117). -/
  | add (h : Hdr) (d a b : BitVec 6)
  /-- SUB, opcode 0x11 (R117). -/
  | sub (h : Hdr) (d a b : BitVec 6)
  /-- MUL, opcode 0x12 (R117). -/
  | mul (h : Hdr) (d a b : BitVec 6)
  /-- MULH, opcode 0x13 (R117). -/
  | mulh (h : Hdr) (d a b : BitVec 6)
  /-- MULHU, opcode 0x14 (R117). -/
  | mulhu (h : Hdr) (d a b : BitVec 6)
  /-- DIV, opcode 0x15 (R118). -/
  | div (h : Hdr) (d a b : BitVec 6)
  /-- DIVU, opcode 0x16 (R118). -/
  | divu (h : Hdr) (d a b : BitVec 6)
  /-- REM, opcode 0x17 (R118). -/
  | rem (h : Hdr) (d a b : BitVec 6)
  /-- REMU, opcode 0x18 (R118). -/
  | remu (h : Hdr) (d a b : BitVec 6)
  /-- AND, opcode 0x19 (R117). -/
  | and (h : Hdr) (d a b : BitVec 6)
  /-- OR, opcode 0x1A (R117). -/
  | or (h : Hdr) (d a b : BitVec 6)
  /-- XOR, opcode 0x1B (R117). -/
  | xor (h : Hdr) (d a b : BitVec 6)
  /-- ANDN, opcode 0x1C (R117). -/
  | andn (h : Hdr) (d a b : BitVec 6)
  /-- SHL, opcode 0x1D (R117). -/
  | shl (h : Hdr) (d a b : BitVec 6)
  /-- SHR, opcode 0x1E (R117). -/
  | shr (h : Hdr) (d a b : BitVec 6)
  /-- SRA, opcode 0x1F (R117). -/
  | sra (h : Hdr) (d a b : BitVec 6)
  /-- ADDI, opcode 0x20 (R119). -/
  | addi (h : Hdr) (d a : BitVec 6) (imm : BitVec 36)
  /-- MULI, opcode 0x21 (R119). -/
  | muli (h : Hdr) (d a : BitVec 6) (imm : BitVec 36)
  /-- ANDI, opcode 0x22 (R119). -/
  | andi (h : Hdr) (d a : BitVec 6) (imm : BitVec 36)
  /-- ORI, opcode 0x23 (R119). -/
  | ori (h : Hdr) (d a : BitVec 6) (imm : BitVec 36)
  /-- XORI, opcode 0x24 (R119). -/
  | xori (h : Hdr) (d a : BitVec 6) (imm : BitVec 36)
  /-- SHLI, opcode 0x25 (R119). -/
  | shli (h : Hdr) (d a k : BitVec 6)
  /-- SHRI, opcode 0x26 (R119). -/
  | shri (h : Hdr) (d a k : BitVec 6)
  /-- SRAI, opcode 0x27 (R119). -/
  | srai (h : Hdr) (d a k : BitVec 6)
  /-- MIN, opcode 0x28 (R117). -/
  | min (h : Hdr) (d a b : BitVec 6)
  /-- MAX, opcode 0x29 (R117). -/
  | max (h : Hdr) (d a b : BitVec 6)
  /-- MINU, opcode 0x2A (R117). -/
  | minu (h : Hdr) (d a b : BitVec 6)
  /-- MAXU, opcode 0x2B (R117). -/
  | maxu (h : Hdr) (d a b : BitVec 6)
  /-- CLZ, opcode 0x2C (R117). -/
  | clz (h : Hdr) (d a : BitVec 6)
  /-- CTZ, opcode 0x2D (R117). -/
  | ctz (h : Hdr) (d a : BitVec 6)
  /-- POPC, opcode 0x2E (R117). -/
  | popc (h : Hdr) (d a : BitVec 6)
  /-- BREV, opcode 0x2F (R117). -/
  | brev (h : Hdr) (d a : BitVec 6)
  /-- SETP, opcode 0x30 (R120). -/
  | setp (h : Hdr) (pd : BitVec 3) (a b cond : BitVec 6)
  /-- SETPI, opcode 0x31 (R120). -/
  | setpi (h : Hdr) (pd : BitVec 3) (a cond : BitVec 6) (imm : BitVec 30)
  /-- PLOG, opcode 0x32 (R121). -/
  | plog (h : Hdr) (pd pa pb : BitVec 3) (tbl : BitVec 4)
  /-- SEL, opcode 0x33 (R122). -/
  | sel (h : Hdr) (d a b : BitVec 6) (inv : BitVec 1) (ps : BitVec 3)
  /-- LEA, opcode 0x34 (R123). -/
  | lea (h : Hdr) (t base : BitVec 6) (size : BitVec 3) (index : BitVec 6) (disp : BitVec 24)
  /-- LEAPC, opcode 0x35 (R124). -/
  | leapc (h : Hdr) (d : BitVec 6) (imm : BitVec 36)
  /-- BFX, opcode 0x36 (R125). -/
  | bfx (h : Hdr) (a b : BitVec 6) (sx : BitVec 1) (lenm1 pos : BitVec 6)
  /-- BFI, opcode 0x37 (R125). -/
  | bfi (h : Hdr) (a b lenm1 pos : BitVec 6)
  /-- ROT, opcode 0x38 (R126). -/
  | rot (h : Hdr) (d a b : BitVec 6)
  /-- ROTI, opcode 0x39 (R126). -/
  | roti (h : Hdr) (d a k : BitVec 6)
  /-- MADD, opcode 0x3A (R127). -/
  | madd (h : Hdr) (a b c e : BitVec 6)
  /-- BSWAP_D, opcode 0x3B (R128). -/
  | bswapD (h : Hdr) (d a : BitVec 6)
  /-- BSWAP_W, opcode 0x3B (R128). -/
  | bswapW (h : Hdr) (d a : BitVec 6)
  /-- BSWAP_H, opcode 0x3B (R128). -/
  | bswapH (h : Hdr) (d a : BitVec 6)
  /-- CRC, opcode 0x3C (R129). -/
  | crc (h : Hdr) (d a b : BitVec 6) (poly : BitVec 1) (size : BitVec 2)
  /-- HASH, opcode 0x3D (R130). -/
  | hash (h : Hdr) (d a b : BitVec 6)
  /-- RDCYC, opcode 0x3E (R131). -/
  | rdcyc (h : Hdr) (d : BitVec 6)
  /-- RDID, opcode 0x3F (R132). -/
  | rdid (h : Hdr) (d : BitVec 6)
  /-- FADD, opcode 0x40 (R137). -/
  | fadd (h : Hdr) (d a b : BitVec 6) (rm : BitVec 3)
  /-- FSUB, opcode 0x41 (R137). -/
  | fsub (h : Hdr) (d a b : BitVec 6) (rm : BitVec 3)
  /-- FMUL, opcode 0x42 (R137). -/
  | fmul (h : Hdr) (d a b : BitVec 6) (rm : BitVec 3)
  /-- FFMA, opcode 0x43 (R138). -/
  | ffma (h : Hdr) (a b c : BitVec 6) (nega negp : BitVec 1) (rm : BitVec 3) (e : BitVec 6)
  /-- FDIV, opcode 0x44 (R137). -/
  | fdiv (h : Hdr) (d a b : BitVec 6) (rm : BitVec 3)
  /-- FSQRT, opcode 0x45 (R137). -/
  | fsqrt (h : Hdr) (d a : BitVec 6) (rm : BitVec 3)
  /-- FMIN, opcode 0x46 (R139). -/
  | fmin (h : Hdr) (d a b : BitVec 6)
  /-- FMAX, opcode 0x47 (R139). -/
  | fmax (h : Hdr) (d a b : BitVec 6)
  /-- FSETP, opcode 0x48 (R140). -/
  | fsetp (h : Hdr) (pd : BitVec 3) (a b : BitVec 6) (cond : BitVec 3)
  /-- FCVT, opcode 0x49 (R142). -/
  | fcvt (h : Hdr) (d a : BitVec 6) (sf df rm : BitVec 3)
  /-- FCVTI, opcode 0x4A (R143). -/
  | fcvti (h : Hdr) (d a : BitVec 6) (w32 sgn : BitVec 1) (rm : BitVec 3)
  /-- ICVTF, opcode 0x4B (R143). -/
  | icvtf (h : Hdr) (d a : BitVec 6) (w32 sgn : BitVec 1) (rm : BitVec 3)
  /-- FABS, opcode 0x4C (R141). -/
  | fabs (h : Hdr) (d a : BitVec 6)
  /-- FNEG, opcode 0x4D (R141). -/
  | fneg (h : Hdr) (d a : BitVec 6)
  /-- FCLASS, opcode 0x4E (R141). -/
  | fclass (h : Hdr) (d a : BitVec 6)
  /-- FRND, opcode 0x4F (R144). -/
  | frnd (h : Hdr) (d a : BitVec 6) (rm : BitVec 3)
  /-- JMP, opcode 0x50 (R151). -/
  | jmp (nst : BitVec 4) (off : BitVec 48)
  /-- BR, opcode 0x51 (R151). -/
  | br (h : Hdr) (off : BitVec 48)
  /-- CALL, opcode 0x52 (R151). -/
  | call (h : Hdr) (off : BitVec 48)
  /-- JR, opcode 0x53 (R152). -/
  | jr (h : Hdr) (a : BitVec 6)
  /-- CALLR, opcode 0x54 (R152). -/
  | callr (h : Hdr) (a : BitVec 6)
  /-- RET, opcode 0x55 (R152). -/
  | ret (h : Hdr)
  /-- LOOP, opcode 0x56 (R151). -/
  | loop (h : Hdr) (a : BitVec 6) (off : BitVec 30)
  /-- BRSYM_RES, opcode 0x57 (R207). -/
  | brsymRes (h : Hdr) (a : BitVec 6) (off : BitVec 30)
  /-- BRSYM_POI, opcode 0x57 (R207). -/
  | brsymPoi (h : Hdr) (a : BitVec 6) (off : BitVec 30)
  /-- BRSYM_PEND, opcode 0x57 (R207). -/
  | brsymPend (h : Hdr) (a : BitVec 6) (off : BitVec 30)
  /-- BRI, opcode 0x58 (R153). -/
  | bri (h : Hdr) (d a b : BitVec 6)
  /-- FRAME, opcode 0x59 (R154). -/
  | frame (h : Hdr) (l : BitVec 1) (imm : BitVec 32)
  /-- BRZ, opcode 0x5A (R151). -/
  | brz (h : Hdr) (a : BitVec 6) (off : BitVec 30)
  /-- BRNZ, opcode 0x5B (R151). -/
  | brnz (h : Hdr) (a : BitVec 6) (off : BitVec 30)
  /-- CBR, opcode 0x5C (R151). -/
  | cbr (h : Hdr) (a b cond : BitVec 6) (off : BitVec 30)
  /-- CBRI, opcode 0x5D (R151). -/
  | cbri (h : Hdr) (a i6 cond : BitVec 6) (off : BitVec 30)
  /-- EXIT, opcode 0x5E (R417). -/
  | exit (h : Hdr)
  /-- NEXTI, opcode 0x5F (R418). -/
  | nexti (h : Hdr) (d : BitVec 6)
  /-- LD, opcode 0x60 (R157). -/
  | ld (h : Hdr) (t base : BitVec 6) (size : BitVec 2) (index : BitVec 6) (disp : BitVec 24)
  /-- LDS, opcode 0x61 (R157). -/
  | lds (h : Hdr) (t base : BitVec 6) (size : BitVec 2) (index : BitVec 6) (disp : BitVec 24)
  /-- ST, opcode 0x62 (R157). -/
  | st (h : Hdr) (t base : BitVec 6) (size : BitVec 2) (index : BitVec 6) (disp : BitVec 24)
  /-- LDL, opcode 0x63 (R204). -/
  | ldl (h : Hdr) (t base : BitVec 6) (size : BitVec 2) (index : BitVec 6) (disp : BitVec 24)
  /-- LDA, opcode 0x64 (R157). -/
  | lda (h : Hdr) (t base : BitVec 6) (size : BitVec 2) (sc : BitVec 3) (index : BitVec 6) (disp : BitVec 24)
  /-- STL, opcode 0x65 (R157). -/
  | stl (h : Hdr) (t base : BitVec 6) (size : BitVec 2) (sc : BitVec 3) (index : BitVec 6) (disp : BitVec 24)
  /-- AMO_ADD, opcode 0x66 (R162). -/
  | amoAdd (h : Hdr) (a b c : BitVec 6) (rel acq : BitVec 1) (size : BitVec 2) (sc : BitVec 3)
  /-- AMO_AND, opcode 0x66 (R162). -/
  | amoAnd (h : Hdr) (a b c : BitVec 6) (rel acq : BitVec 1) (size : BitVec 2) (sc : BitVec 3)
  /-- AMO_OR, opcode 0x66 (R162). -/
  | amoOr (h : Hdr) (a b c : BitVec 6) (rel acq : BitVec 1) (size : BitVec 2) (sc : BitVec 3)
  /-- AMO_XOR, opcode 0x66 (R162). -/
  | amoXor (h : Hdr) (a b c : BitVec 6) (rel acq : BitVec 1) (size : BitVec 2) (sc : BitVec 3)
  /-- AMO_SWAP, opcode 0x66 (R162). -/
  | amoSwap (h : Hdr) (a b c : BitVec 6) (rel acq : BitVec 1) (size : BitVec 2) (sc : BitVec 3)
  /-- AMO_MIN, opcode 0x66 (R162). -/
  | amoMin (h : Hdr) (a b c : BitVec 6) (rel acq : BitVec 1) (size : BitVec 2) (sc : BitVec 3)
  /-- AMO_MAX, opcode 0x66 (R162). -/
  | amoMax (h : Hdr) (a b c : BitVec 6) (rel acq : BitVec 1) (size : BitVec 2) (sc : BitVec 3)
  /-- AMO_MINU, opcode 0x66 (R162). -/
  | amoMinu (h : Hdr) (a b c : BitVec 6) (rel acq : BitVec 1) (size : BitVec 2) (sc : BitVec 3)
  /-- AMO_MAXU, opcode 0x66 (R162). -/
  | amoMaxu (h : Hdr) (a b c : BitVec 6) (rel acq : BitVec 1) (size : BitVec 2) (sc : BitVec 3)
  /-- AMO_MAXRST, opcode 0x66 (R162). -/
  | amoMaxrst (h : Hdr) (a b : BitVec 6) (rel acq : BitVec 1) (size : BitVec 2) (sc : BitVec 3)
  /-- CAS, opcode 0x67 (R163). -/
  | cas (h : Hdr) (a b c n : BitVec 6) (rel acq : BitVec 1) (size : BitVec 2) (sc : BitVec 3)
  /-- AMOL_ADD, opcode 0x68 (R205). -/
  | amolAdd (h : Hdr) (a b c : BitVec 6) (rel acq : BitVec 1) (size : BitVec 2) (sc : BitVec 3)
  /-- AMOL_AND, opcode 0x68 (R205). -/
  | amolAnd (h : Hdr) (a b c : BitVec 6) (rel acq : BitVec 1) (size : BitVec 2) (sc : BitVec 3)
  /-- AMOL_OR, opcode 0x68 (R205). -/
  | amolOr (h : Hdr) (a b c : BitVec 6) (rel acq : BitVec 1) (size : BitVec 2) (sc : BitVec 3)
  /-- AMOL_XOR, opcode 0x68 (R205). -/
  | amolXor (h : Hdr) (a b c : BitVec 6) (rel acq : BitVec 1) (size : BitVec 2) (sc : BitVec 3)
  /-- AMOL_SWAP, opcode 0x68 (R205). -/
  | amolSwap (h : Hdr) (a b c : BitVec 6) (rel acq : BitVec 1) (size : BitVec 2) (sc : BitVec 3)
  /-- AMOL_MIN, opcode 0x68 (R205). -/
  | amolMin (h : Hdr) (a b c : BitVec 6) (rel acq : BitVec 1) (size : BitVec 2) (sc : BitVec 3)
  /-- AMOL_MAX, opcode 0x68 (R205). -/
  | amolMax (h : Hdr) (a b c : BitVec 6) (rel acq : BitVec 1) (size : BitVec 2) (sc : BitVec 3)
  /-- AMOL_MINU, opcode 0x68 (R205). -/
  | amolMinu (h : Hdr) (a b c : BitVec 6) (rel acq : BitVec 1) (size : BitVec 2) (sc : BitVec 3)
  /-- AMOL_MAXU, opcode 0x68 (R205). -/
  | amolMaxu (h : Hdr) (a b c : BitVec 6) (rel acq : BitVec 1) (size : BitVec 2) (sc : BitVec 3)
  /-- AMOL_MAXRST, opcode 0x68 (R205). -/
  | amolMaxrst (h : Hdr) (a b : BitVec 6) (rel acq : BitVec 1) (size : BitVec 2) (sc : BitVec 3)
  /-- PREF, opcode 0x69 (R160). -/
  | pref (h : Hdr) (lvl : BitVec 1) (base index : BitVec 6) (disp : BitVec 24)
  /-- LDX, opcode 0x6A (R157). -/
  | ldx (h : Hdr) (t base : BitVec 6) (size : BitVec 2) (index : BitVec 6) (disp : BitVec 24)
  /-- STX, opcode 0x6B (R157). -/
  | stx (h : Hdr) (t base : BitVec 6) (size : BitVec 2) (index : BitVec 6) (disp : BitVec 24)
  /-- LDP, opcode 0x6C (R159). -/
  | ldp (h : Hdr) (t base index : BitVec 6) (disp : BitVec 24)
  /-- STP, opcode 0x6D (R159). -/
  | stp (h : Hdr) (t base index : BitVec 6) (disp : BitVec 24)
  /-- BAR_INIT, opcode 0x6E (R168). -/
  | barInit (h : Hdr) (a b c : BitVec 6) (sc : BitVec 3)
  /-- BAR_EXPECT, opcode 0x6E (R168). -/
  | barExpect (h : Hdr) (a b c : BitVec 6) (sc : BitVec 3)
  /-- BAR_ARRIVE, opcode 0x6E (R168). -/
  | barArrive (h : Hdr) (a b : BitVec 6) (sc : BitVec 3)
  /-- BAR_ARRIVEB, opcode 0x6E (R168). -/
  | barArriveb (h : Hdr) (a b c : BitVec 6) (sc : BitVec 3)
  /-- BAR_WAIT, opcode 0x6E (R168). -/
  | barWait (h : Hdr) (a b c : BitVec 6) (sc : BitVec 3)
  /-- BAR_TEST, opcode 0x6E (R168). -/
  | barTest (h : Hdr) (a b c : BitVec 6) (sc : BitVec 3)
  /-- OWN, opcode 0x6F (R166). -/
  | own (h : Hdr) (a b : BitVec 6) (ow : BitVec 1)
  /-- FENCE, opcode 0x70 (R164). -/
  | fence (h : Hdr) (kinds sc : BitVec 3)
  /-- FSA, opcode 0x71 (R165). -/
  | fsa (h : Hdr) (sc : BitVec 3)
  /-- FAS, opcode 0x72 (R165). -/
  | fas (h : Hdr) (sc : BitVec 3)
  /-- FAA, opcode 0x73 (R165). -/
  | faa (h : Hdr) (sc : BitVec 3)
  /-- SYMW, opcode 0x74 (R206). -/
  | symw (h : Hdr) (a : BitVec 6)
  /-- SYMQ, opcode 0x75 (R206). -/
  | symq (h : Hdr) (pd : BitVec 3) (a : BitVec 6)
  /-- SYMQ_POI, opcode 0x75 (R206). -/
  | symqPoi (h : Hdr) (pd : BitVec 3) (a : BitVec 6)
  /-- SYMX, opcode 0x76 (R206). -/
  | symx (h : Hdr) (d a b : BitVec 6)
  /-- WMPUB, opcode 0x77 (R171). -/
  | wmpub (h : Hdr) (b c : BitVec 6)
  /-- WMPUB_GEN, opcode 0x77 (R171). -/
  | wmpubGen (h : Hdr) (b c : BitVec 6)
  /-- WMSET, opcode 0x78 (R172). -/
  | wmset (h : Hdr) (a b c : BitVec 6) (k : BitVec 2)
  /-- QWAIT, opcode 0x79 (R174). -/
  | qwait (h : Hdr) (a b c : BitVec 6)
  /-- QTAKE, opcode 0x7A (R175). -/
  | qtake (h : Hdr) (a b c : BitVec 6)
  /-- LAUNCH, opcode 0x7B (R411). -/
  | launch (h : Hdr) (d a b : BitVec 6)
  /-- LWAIT, opcode 0x7C (R414). -/
  | lwait (h : Hdr) (d a : BitVec 6)
  /-- LWAIT_TEST, opcode 0x7C (R414). -/
  | lwaitTest (h : Hdr) (d a : BitVec 6)
  /-- PRIO_GET, opcode 0x7D (R422). -/
  | prioGet (h : Hdr) (d a : BitVec 6)
  /-- PRIO_SET, opcode 0x7D (R422). -/
  | prioSet (h : Hdr) (d a b : BitVec 6)
  /-- PRIO_PEND, opcode 0x7D (R422). -/
  | prioPend (h : Hdr) (d : BitVec 6)
  /-- PRIO_CEIL, opcode 0x7D (R422). -/
  | prioCeil (h : Hdr) (d a b : BitVec 6)
  /-- PRIO_WAKE, opcode 0x7D (R422). -/
  | prioWake (h : Hdr) (d a : BitVec 6)
  /-- PRIO_KILL, opcode 0x7D (R422). -/
  | prioKill (h : Hdr) (d a : BitVec 6)
  /-- CTXSV, opcode 0x7E (R426). -/
  | ctxsv (h : Hdr) (d a b : BitVec 6)
  /-- CTXSV_HOLD, opcode 0x7E (R426). -/
  | ctxsvHold (h : Hdr) (d a b : BitVec 6)
  /-- CTXLD, opcode 0x7F (R427). -/
  | ctxld (h : Hdr) (d a : BitVec 6)
  /-- SBIND, opcode 0x80 (R344). -/
  | sbind (h : Hdr) (z : BitVec 4) (b : BitVec 6)
  /-- SFREE, opcode 0x81 (R344). -/
  | sfree (h : Hdr) (z : BitVec 4)
  /-- XCOPY, opcode 0x82 (R349). -/
  | xcopy (h : Hdr) (a b c : BitVec 6) (ch : BitVec 4)
  /-- XGATH2, opcode 0x83 (R350). -/
  | xgath2 (h : Hdr) (a b c : BitVec 6) (ch : BitVec 4)
  /-- XGATH, opcode 0x84 (R351). -/
  | xgath (h : Hdr) (a b c : BitVec 6) (ch : BitVec 4)
  /-- XSCAT, opcode 0x85 (R351). -/
  | xscat (h : Hdr) (a b c : BitVec 6) (ch : BitVec 4)
  /-- XSLIDE, opcode 0x86 (R352). -/
  | xslide (h : Hdr) (a b c : BitVec 6) (ch : BitVec 4)
  /-- XFILL, opcode 0x87 (R353). -/
  | xfill (h : Hdr) (a b c : BitVec 6) (ch : BitVec 4)
  /-- XWAIT, opcode 0x88 (R359). -/
  | xwait (h : Hdr) (a b : BitVec 6) (ch : BitVec 4)
  /-- XSTAT_DONE, opcode 0x89 (R360). -/
  | xstatDone (h : Hdr) (a b : BitVec 6) (ch : BitVec 4)
  /-- XSTAT_NEXT, opcode 0x89 (R360). -/
  | xstatNext (h : Hdr) (a b : BitVec 6) (ch : BitVec 4)
  /-- XSTAT_VAL, opcode 0x89 (R360). -/
  | xstatVal (h : Hdr) (a b : BitVec 6) (ch : BitVec 4)
  /-- XSTAT_FAULT, opcode 0x89 (R360). -/
  | xstatFault (h : Hdr) (a b : BitVec 6) (ch : BitVec 4)
  /-- XSTAT_FADDR, opcode 0x89 (R360). -/
  | xstatFaddr (h : Hdr) (a b : BitVec 6) (ch : BitVec 4)
  /-- XSTAT_RESUME, opcode 0x89 (R360). -/
  | xstatResume (h : Hdr) (a b : BitVec 6) (ch : BitVec 4)
  /-- XSTAT_ABORT, opcode 0x89 (R360). -/
  | xstatAbort (h : Hdr) (a b : BitVec 6) (ch : BitVec 4)
  /-- XCKPT, opcode 0x8A (R355). -/
  | xckpt (h : Hdr) (a b : BitVec 6) (ch : BitVec 4)
  /-- XPROM_PRO, opcode 0x8B (R356). -/
  | xpromPro (h : Hdr) (a b c : BitVec 6) (ch : BitVec 4)
  /-- XPROM_DEM, opcode 0x8B (R356). -/
  | xpromDem (h : Hdr) (a b c : BitVec 6) (ch : BitVec 4)
  /-- XRED_ADD, opcode 0x8C (R354). -/
  | xredAdd (h : Hdr) (a b c : BitVec 6) (ty : BitVec 3) (ch : BitVec 4)
  /-- XRED_MAX, opcode 0x8C (R354). -/
  | xredMax (h : Hdr) (a b c : BitVec 6) (ty : BitVec 3) (ch : BitVec 4)
  /-- XKV, opcode 0x8D (R357). -/
  | xkv (h : Hdr) (a b c : BitVec 6) (ch : BitVec 4)
  /-- XDENSE, opcode 0x8E (R457). -/
  | xdense (h : Hdr) (a b c : BitVec 6) (ch : BitVec 4)
  /-- XCLASS, opcode 0x8F (R358). -/
  | xclass (h : Hdr) (a b c : BitVec 6) (ch : BitVec 4)
  /-- MCFG, opcode 0x90 (R375). -/
  | mcfg (h : Hdr) (a b : BitVec 6)
  /-- MMA, opcode 0x91 (R378). -/
  | mma (h : Hdr) (a b c : BitVec 6) (frm mem ovw : BitVec 1) (tl : BitVec 3)
  /-- MMAX, opcode 0x92 (R379). -/
  | mmax (h : Hdr) (a b c : BitVec 6) (frm mem ovw : BitVec 1) (tl : BitVec 3)
  /-- MLDA, opcode 0x93 (R384). -/
  | mlda (h : Hdr) (a b c : BitVec 6) (f64 : BitVec 1) (cols rows : BitVec 7) (tl : BitVec 3)
  /-- MSTA, opcode 0x94 (R384). -/
  | msta (h : Hdr) (a b c : BitVec 6) (cols rows : BitVec 7) (tl : BitVec 3)
  /-- MZERO, opcode 0x95 (R385). -/
  | mzero (h : Hdr) (a : BitVec 6) (mask : BitVec 8)
  /-- MCONV, opcode 0x96 (R380). -/
  | mconv (h : Hdr) (a b c : BitVec 6) (frm mem ovw : BitVec 1) (tl : BitVec 3)
  /-- MQUE, opcode 0x97 (R394). -/
  | mque (h : Hdr) (a b c : BitVec 6)
  /-- MWAIT, opcode 0x98 (R390). -/
  | mwait (h : Hdr) (a b : BitVec 6)
  /-- MWAIT_TASK, opcode 0x98 (R395). -/
  | mwaitTask (h : Hdr) (a b c : BitVec 6)
  /-- MSTAT_DONE, opcode 0x99 (R391). -/
  | mstatDone (h : Hdr) (a b : BitVec 6)
  /-- MSTAT_NEXT, opcode 0x99 (R391). -/
  | mstatNext (h : Hdr) (a b : BitVec 6)
  /-- MSTAT_FAULT, opcode 0x99 (R391). -/
  | mstatFault (h : Hdr) (a b : BitVec 6)
  /-- MSTAT_FADDR, opcode 0x99 (R391). -/
  | mstatFaddr (h : Hdr) (a b : BitVec 6)
  /-- MSTAT_ROW, opcode 0x99 (R391). -/
  | mstatRow (h : Hdr) (a b : BitVec 6)
  /-- MSTAT_RESUME, opcode 0x99 (R391). -/
  | mstatResume (h : Hdr) (a b : BitVec 6)
  /-- MSTAT_ABORT, opcode 0x99 (R391). -/
  | mstatAbort (h : Hdr) (a b : BitVec 6)
  /-- MSTAT_EV, opcode 0x99 (R391). -/
  | mstatEv (h : Hdr) (a b : BitVec 6)
  /-- MSTAT_FMT, opcode 0x99 (R391). -/
  | mstatFmt (h : Hdr) (a b : BitVec 6)
  /-- MAMAX, opcode 0x9A (R386). -/
  | mamax (h : Hdr) (a b : BitVec 6) (cols rows : BitVec 7) (tl : BitVec 3)
  /-- MQUANT, opcode 0x9B (R388). -/
  | mquant (h : Hdr) (a b c : BitVec 6) (e4m3 : BitVec 1) (cols rows : BitVec 7) (tl : BitVec 3)
  /-- MSOFT, opcode 0x9C (R389). -/
  | msoft (h : Hdr) (a b c : BitVec 6) (cols rows : BitVec 7) (tl : BitVec 3)
  /-- MTRANS, opcode 0x9D (R385). -/
  | mtrans (h : Hdr) (a : BitVec 6) (ts td : BitVec 3)
  /-- MSAVE, opcode 0x9E (R396). -/
  | msave (h : Hdr) (a b : BitVec 6)
  /-- MREST, opcode 0x9F (R396). -/
  | mrest (h : Hdr) (a b : BitVec 6)
  /-- AFCFG, opcode 0xA0 (R212). -/
  | afcfg (nst : BitVec 4) (fd : BitVec 5) (s : BitVec 6)
  /-- AMODE_AS, opcode 0xA1 (R234). -/
  | amodeAs (nst : BitVec 4) (s : BitVec 6)
  /-- AMODE_ST, opcode 0xA1 (R234). -/
  | amodeSt (nst : BitVec 4) (s : BitVec 6)
  /-- AWHILE, opcode 0xA2 (R267). -/
  | awhile (h : AHdr) (md sb : BitVec 5) (o : SvOpnd)
  /-- ASRCH_SET, opcode 0xA3 (R268). -/
  | asrchSet (h : AHdr) (md fa : BitVec 5) (o : SvOpnd)
  /-- ASRCH_AND, opcode 0xA3 (R268). -/
  | asrchAnd (h : AHdr) (md fa : BitVec 5) (o : SvOpnd)
  /-- ASRCH_OR, opcode 0xA3 (R268). -/
  | asrchOr (h : AHdr) (md fa : BitVec 5) (o : SvOpnd)
  /-- ACMP_EQ, opcode 0xA4 (R269). -/
  | acmpEq (h : AHdr) (md fa : BitVec 5) (o : CmpOpnd)
  /-- ACMP_NE, opcode 0xA4 (R269). -/
  | acmpNe (h : AHdr) (md fa : BitVec 5) (o : CmpOpnd)
  /-- ACMP_LT, opcode 0xA4 (R269). -/
  | acmpLt (h : AHdr) (md fa : BitVec 5) (o : CmpOpnd)
  /-- ACMP_GE, opcode 0xA4 (R269). -/
  | acmpGe (h : AHdr) (md fa : BitVec 5) (o : CmpOpnd)
  /-- MLOG, opcode 0xA5 (R272). -/
  | mlog (h : AHdr) (md ma mb : BitVec 5) (tbl : BitVec 4)
  /-- MSET, opcode 0xA6 (R272). -/
  | mset (h : AHdr) (md : BitVec 5) (v : BitVec 1)
  /-- AWR, opcode 0xA7 (R273). -/
  | awr (h : AHdr) (fd : BitVec 5) (o : SvOpnd)
  /-- AMOV, opcode 0xA8 (R274). -/
  | amov (h : AHdr) (fd fa : BitVec 5)
  /-- APOP_M, opcode 0xA9 (R278). -/
  | apopM (h : AHdr) (ma : BitVec 5) (s : BitVec 6)
  /-- APOP_F, opcode 0xA9 (R278). -/
  | apopF (h : AHdr) (fa : BitVec 5) (s : BitVec 6)
  /-- AFIRST_FIRST, opcode 0xAA (R279). -/
  | afirstFirst (h : AHdr) (ma : BitVec 5) (s : BitVec 6)
  /-- AFIRST_LAST, opcode 0xAA (R279). -/
  | afirstLast (h : AHdr) (ma : BitVec 5) (s : BitVec 6)
  /-- ANEXT_CLR, opcode 0xAB (R279). -/
  | anextClr (h : AHdr) (md ma : BitVec 5)
  /-- ANEXT_ONE, opcode 0xAB (R279). -/
  | anextOne (h : AHdr) (md ma : BitVec 5)
  /-- ATOPK_MAX, opcode 0xAC (R280). -/
  | atopkMax (h : AHdr) (md fa : BitVec 5) (o : SvOpnd)
  /-- ATOPK_MIN, opcode 0xAC (R280). -/
  | atopkMin (h : AHdr) (md fa : BitVec 5) (o : SvOpnd)
  /-- AEXT_MAX, opcode 0xAD (R281). -/
  | aextMax (h : AHdr) (fa : BitVec 5) (s : BitVec 6)
  /-- AEXT_MIN, opcode 0xAD (R281). -/
  | aextMin (h : AHdr) (fa : BitVec 5) (s : BitVec 6)
  /-- AEXT_MAXIDX, opcode 0xAD (R281). -/
  | aextMaxidx (h : AHdr) (fa : BitVec 5) (s : BitVec 6)
  /-- AEXT_MINIDX, opcode 0xAD (R281). -/
  | aextMinidx (h : AHdr) (fa : BitVec 5) (s : BitVec 6)
  /-- ARDROW, opcode 0xAE (R282). -/
  | ardrow (h : AHdr) (fa sb : BitVec 5) (s : BitVec 6)
  /-- AWRROW, opcode 0xAF (R282). -/
  | awrrow (h : AHdr) (fd sb : BitVec 5) (s : BitVec 6)
  /-- AADD, opcode 0xB0 (R296). -/
  | aadd (h : AHdr) (fd fa : BitVec 5) (rc : BitVec 3) (sat : BitVec 1) (o : AOpnd)
  /-- ASUB, opcode 0xB1 (R296). -/
  | asub (h : AHdr) (fd fa : BitVec 5) (rc : BitVec 3) (sat rev : BitVec 1) (o : AOpnd)
  /-- AMUL, opcode 0xB2 (R296). -/
  | amul (h : AHdr) (fd fa : BitVec 5) (rc : BitVec 3) (sat : BitVec 1) (o : AOpnd)
  /-- AFMA, opcode 0xB3 (R296). -/
  | afma (h : AHdr) (fd fa : BitVec 5) (rc : BitVec 3) (sat : BitVec 1) (o : AOpnd)
  /-- ADIV, opcode 0xB4 (R296). -/
  | adiv (h : AHdr) (fd fa : BitVec 5) (rc : BitVec 3) (sat rev : BitVec 1) (o : AOpnd)
  /-- AMIN, opcode 0xB5 (R298). -/
  | amin (h : AHdr) (fd fa : BitVec 5) (o : AOpnd)
  /-- AMAX, opcode 0xB6 (R298). -/
  | amax (h : AHdr) (fd fa : BitVec 5) (o : AOpnd)
  /-- AABS, opcode 0xB7 (R296). -/
  | aabs (h : AHdr) (fd fa : BitVec 5) (rc : BitVec 3) (sat : BitVec 1)
  /-- ANEG, opcode 0xB8 (R296). -/
  | aneg (h : AHdr) (fd fa : BitVec 5) (rc : BitVec 3) (sat : BitVec 1)
  /-- ALOG_AND, opcode 0xB9 (R299). -/
  | alogAnd (h : AHdr) (fd fa : BitVec 5) (o : AOpnd)
  /-- ALOG_OR, opcode 0xB9 (R299). -/
  | alogOr (h : AHdr) (fd fa : BitVec 5) (o : AOpnd)
  /-- ALOG_XOR, opcode 0xB9 (R299). -/
  | alogXor (h : AHdr) (fd fa : BitVec 5) (o : AOpnd)
  /-- ALOG_ANDN, opcode 0xB9 (R299). -/
  | alogAndn (h : AHdr) (fd fa : BitVec 5) (o : AOpnd)
  /-- ASHF_SHL, opcode 0xBA (R299). -/
  | ashfShl (h : AHdr) (fd fa : BitVec 5) (sat : BitVec 1) (o : AOpnd)
  /-- ASHF_SHR, opcode 0xBA (R299). -/
  | ashfShr (h : AHdr) (fd fa : BitVec 5) (sat : BitVec 1) (o : AOpnd)
  /-- ASHF_SRA, opcode 0xBA (R299). -/
  | ashfSra (h : AHdr) (fd fa : BitVec 5) (sat : BitVec 1) (o : AOpnd)
  /-- ASHF_ROT, opcode 0xBA (R299). -/
  | ashfRot (h : AHdr) (fd fa : BitVec 5) (sat : BitVec 1) (o : AOpnd)
  /-- ACVT, opcode 0xBB (R300). -/
  | acvt (h : AHdr) (fd fa : BitVec 5) (rc : BitVec 3) (sat : BitVec 1)
  /-- ACLAMP, opcode 0xBC (R298). -/
  | aclamp (h : AHdr) (fd fa sb : BitVec 5) (s : BitVec 6)
  /-- ASQRT, opcode 0xBD (R296). -/
  | asqrt (h : AHdr) (fd fa : BitVec 5) (rc : BitVec 3) (sat : BitVec 1)
  /-- AHAM, opcode 0xBE (R284). -/
  | aham (h : AHdr) (fd fa : BitVec 5) (sat : BitVec 1) (o : AOpnd)
  /-- AREM, opcode 0xBF (R296). -/
  | arem (h : AHdr) (fd fa : BitVec 5) (sat rev : BitVec 1) (o : AOpnd)
  /-- ALUT, opcode 0xC0 (R303). -/
  | alut (h : AHdr) (fd fa sb : BitVec 5) (s : BitVec 6)
  /-- ASHR, opcode 0xC1 (R304). -/
  | ashr (h : AHdr) (fd fa : BitVec 5) (o : SvOpnd)
  /-- ASCAN_ADD, opcode 0xC2 (R305). -/
  | ascanAdd (h : AHdr) (fd fa : BitVec 5) (rc : BitVec 3) (sat : BitVec 1)
  /-- ASCAN_MIN, opcode 0xC2 (R305). -/
  | ascanMin (h : AHdr) (fd fa : BitVec 5) (rc : BitVec 3) (sat : BitVec 1)
  /-- ASCAN_MAX, opcode 0xC2 (R305). -/
  | ascanMax (h : AHdr) (fd fa : BitVec 5) (rc : BitVec 3) (sat : BitVec 1)
  /-- ASCAN_OR, opcode 0xC2 (R305). -/
  | ascanOr (h : AHdr) (fd fa : BitVec 5) (rc : BitVec 3) (sat : BitVec 1)
  /-- ASEGR_ADD, opcode 0xC3 (R306). -/
  | asegrAdd (h : AHdr) (fd fa mb : BitVec 5) (rc : BitVec 3) (sat : BitVec 1)
  /-- ASEGR_MIN, opcode 0xC3 (R306). -/
  | asegrMin (h : AHdr) (fd fa mb : BitVec 5) (rc : BitVec 3) (sat : BitVec 1)
  /-- ASEGR_MAX, opcode 0xC3 (R306). -/
  | asegrMax (h : AHdr) (fd fa mb : BitVec 5) (rc : BitVec 3) (sat : BitVec 1)
  /-- ASEGR_OR, opcode 0xC3 (R306). -/
  | asegrOr (h : AHdr) (fd fa mb : BitVec 5) (rc : BitVec 3) (sat : BitVec 1)
  /-- ASPI, opcode 0xC4 (R308). -/
  | aspi (h : AHdr) (fd fa fb : BitVec 5) (rc : BitVec 3) (sat : BitVec 1)
  /-- ASPU, opcode 0xC5 (R308). -/
  | aspu (h : AHdr) (fd fa fb : BitVec 5) (rc : BitVec 3) (sat : BitVec 1)
  /-- ASPLEN_SET, opcode 0xC6 (R309). -/
  | asplenSet (h : AHdr) (fd : BitVec 5) (o : SvOpnd)
  /-- ASPLEN_MASK, opcode 0xC6 (R309). -/
  | asplenMask (h : AHdr) (md fa : BitVec 5)
  /-- AAPP_IDX, opcode 0xC7 (R286). -/
  | aappIdx (h : AHdr) (md : BitVec 5) (s : BitVec 6)
  /-- AAPP_VAL, opcode 0xC7 (R286). -/
  | aappVal (h : AHdr) (md fa : BitVec 5) (s : BitVec 6)
  /-- ACONF, opcode 0xC8 (R285). -/
  | aconf (h : AHdr) (md fa : BitVec 5)
  /-- AINTV_CC, opcode 0xC9 (R270). -/
  | aintvCc (h : AHdr) (md fa sb : BitVec 5) (s : BitVec 6)
  /-- AINTV_CO, opcode 0xC9 (R270). -/
  | aintvCo (h : AHdr) (md fa sb : BitVec 5) (s : BitVec 6)
  /-- AINTV_OC, opcode 0xC9 (R270). -/
  | aintvOc (h : AHdr) (md fa sb : BitVec 5) (s : BitVec 6)
  /-- AINTV_OO, opcode 0xC9 (R270). -/
  | aintvOo (h : AHdr) (md fa sb : BitVec 5) (s : BitVec 6)
  /-- AMATCH, opcode 0xCA (R271). -/
  | amatch (h : AHdr) (md fa sb : BitVec 5) (z : BitVec 4)
  /-- ACHK, opcode 0xCB (R239). -/
  | achk (h : AHdr) (md fa : BitVec 5)
  /-- AFILL, opcode 0xCC (R276). -/
  | afill (h : AHdr) (fd : BitVec 5) (sat : BitVec 1) (o : SvOpnd)
  /-- ABCAST, opcode 0xCD (R275). -/
  | abcast (h : AHdr) (fd fa : BitVec 5) (o : SvOpnd)
  /-- AQNT, opcode 0xCE (R301). -/
  | aqnt (h : AHdr) (fd fa : BitVec 5) (o : SvOpnd)
  /-- AQNT_KEEP, opcode 0xCE (R301). -/
  | aqntKeep (h : AHdr) (fd fa : BitVec 5)
  /-- ADQNT, opcode 0xCF (R302). -/
  | adqnt (h : AHdr) (fd fa : BitVec 5) (rc : BitVec 3) (sat : BitVec 1) (o : AOpnd)
  /-- ALD, opcode 0xD0 (R312). -/
  | ald (h : AHdr) (fd : BitVec 5) (ff : BitVec 1) (s : BitVec 6)
  /-- ALDX, opcode 0xD1 (R312). -/
  | aldx (h : AHdr) (fd fb : BitVec 5) (ff : BitVec 1) (s : BitVec 6)
  /-- ALDSEG, opcode 0xD2 (R315). -/
  | aldseg (h : AHdr) (fd sb : BitVec 5) (rc : BitVec 3) (nosat : BitVec 1) (nm1 : BitVec 2) (s : BitVec 6)
  /-- AST, opcode 0xD3 (R313). -/
  | ast (h : AHdr) (fa : BitVec 5) (s : BitVec 6)
  /-- ASTX, opcode 0xD4 (R313). -/
  | astx (h : AHdr) (fa fb : BitVec 5) (s : BitVec 6)
  /-- ASTSEG, opcode 0xD5 (R315). -/
  | astseg (h : AHdr) (fa sb : BitVec 5) (rc : BitVec 3) (nosat : BitVec 1) (nm1 : BitVec 2) (s : BitVec 6)
  /-- ALDS, opcode 0xD6 (R312). -/
  | alds (h : AHdr) (fd sb : BitVec 5) (ff : BitVec 1) (s : BitVec 6)
  /-- ASTS, opcode 0xD7 (R313). -/
  | asts (h : AHdr) (fa sb : BitVec 5) (s : BitVec 6)
  /-- ASAVE_F, opcode 0xD8 (R316). -/
  | asaveF (nst : BitVec 4) (k : BitVec 5) (s : BitVec 6)
  /-- ASAVE_M, opcode 0xD8 (R316). -/
  | asaveM (nst : BitVec 4) (k : BitVec 5) (s : BitVec 6)
  /-- ASAVE_DESC, opcode 0xD8 (R316). -/
  | asaveDesc (nst : BitVec 4) (k : BitVec 5) (s : BitVec 6)
  /-- ASAVE_EV, opcode 0xD8 (R316). -/
  | asaveEv (nst : BitVec 4) (k : BitVec 5) (s : BitVec 6)
  /-- ARSTR_F, opcode 0xD9 (R317). -/
  | arstrF (nst : BitVec 4) (k : BitVec 5) (s : BitVec 6)
  /-- ARSTR_M, opcode 0xD9 (R317). -/
  | arstrM (nst : BitVec 4) (k : BitVec 5) (s : BitVec 6)
  /-- ARSTR_DESC, opcode 0xD9 (R317). -/
  | arstrDesc (nst : BitVec 4) (k : BitVec 5) (s : BitVec 6)
  /-- ARSTR_EV, opcode 0xD9 (R317). -/
  | arstrEv (nst : BitVec 4) (k : BitVec 5) (s : BitVec 6)
  /-- ADUMP, opcode 0xDA (R318). -/
  | adump (h : Hdr) (a b : BitVec 6)
  /-- AUNDMP, opcode 0xDB (R320). -/
  | aundmp (h : Hdr) (a b : BitVec 6)
  /-- AUCODE, opcode 0xDC (R237). -/
  | aucode (h : Hdr) (a b c : BitVec 6)
  /-- AHOLD_STOP, opcode 0xDD (R230). -/
  | aholdStop (h : Hdr)
  /-- AHOLD_GO, opcode 0xDD (R230). -/
  | aholdGo (h : Hdr)
  /-- AHOLD_DROP, opcode 0xDD (R230). -/
  | aholdDrop (h : Hdr)
  /-- AESTAT_STATE, opcode 0xDE (R231). -/
  | aestatState (h : Hdr) (d : BitVec 6)
  /-- AESTAT_ADDR, opcode 0xDE (R231). -/
  | aestatAddr (h : Hdr) (d : BitVec 6)
  /-- AESTAT_DETAIL, opcode 0xDE (R231). -/
  | aestatDetail (h : Hdr) (d : BitVec 6)
  /-- AESTAT_PASS, opcode 0xDE (R231). -/
  | aestatPass (h : Hdr) (d : BitVec 6)
  /-- AWAIT, opcode 0xDF (R232). -/
  | await (h : Hdr)
  /-- SPCFG, opcode 0xE0 (R447). -/
  | spcfg (h : Hdr) (a b : BitVec 6)
  /-- SPLD, opcode 0xE1 (R448). -/
  | spld (h : Hdr) (a b c : BitVec 6)
  /-- SPST, opcode 0xE2 (R448). -/
  | spst (h : Hdr) (a b c : BitVec 6)
  /-- SPAMO_ADD, opcode 0xE3 (R449). -/
  | spamoAdd (h : Hdr) (a b c : BitVec 6) (ty : BitVec 2)
  /-- SPAMO_MIN, opcode 0xE3 (R449). -/
  | spamoMin (h : Hdr) (a b c : BitVec 6) (ty : BitVec 2)
  /-- SPAMO_MAX, opcode 0xE3 (R449). -/
  | spamoMax (h : Hdr) (a b c : BitVec 6) (ty : BitVec 2)
  /-- SPAMO_SWAP, opcode 0xE3 (R449). -/
  | spamoSwap (h : Hdr) (a b c : BitVec 6) (ty : BitVec 2)
  /-- SPNEXT_GT, opcode 0xE4 (R450). -/
  | spnextGt (h : Hdr) (a b c : BitVec 6)
  /-- SPNEXT_GE, opcode 0xE4 (R450). -/
  | spnextGe (h : Hdr) (a b c : BitVec 6)
  /-- SPPREV_LT, opcode 0xE5 (R450). -/
  | spprevLt (h : Hdr) (a b c : BitVec 6)
  /-- SPPREV_LE, opcode 0xE5 (R450). -/
  | spprevLe (h : Hdr) (a b c : BitVec 6)
  /-- SPCNT, opcode 0xE6 (R452). -/
  | spcnt (h : Hdr) (a b c : BitVec 6)
  /-- SPDEL, opcode 0xE7 (R452). -/
  | spdel (h : Hdr) (a b c : BitVec 6)
  /-- SPWAIT, opcode 0xE8 (R453). -/
  | spwait (h : Hdr)
  /-- SPSTAT_KEYS, opcode 0xE9 (R454). -/
  | spstatKeys (h : Hdr) (a b : BitVec 6)
  /-- SPSTAT_NODES, opcode 0xE9 (R454). -/
  | spstatNodes (h : Hdr) (a b : BitVec 6)
  /-- SPSTAT_FREE, opcode 0xE9 (R454). -/
  | spstatFree (h : Hdr) (a b : BitVec 6)
  /-- SPSTAT_DEPTH, opcode 0xE9 (R454). -/
  | spstatDepth (h : Hdr) (a b : BitVec 6)
  /-- SPSTAT_STATUS, opcode 0xE9 (R454). -/
  | spstatStatus (h : Hdr) (a b : BitVec 6)
  /-- SPSTAT_PAGES, opcode 0xE9 (R454). -/
  | spstatPages (h : Hdr) (a b : BitVec 6)
  /-- SPPOOL, opcode 0xEA (R455). -/
  | sppool (h : Hdr) (a b c : BitVec 6) (n : BitVec 16)
  /-- SPFREE, opcode 0xEB (R456). -/
  | spfree (h : Hdr) (a b : BitVec 6)
  /-- RCLASS_SET, opcode 0xEC (R472). -/
  | rclassSet (h : Hdr) (a b c : BitVec 6)
  /-- RCLASS_READ, opcode 0xEC (R472). -/
  | rclassRead (h : Hdr) (a b : BitVec 6)
  /-- EBSET_CORR, opcode 0xED (R475). -/
  | ebsetCorr (h : Hdr) (a b c : BitVec 6)
  /-- EBSET_DET, opcode 0xED (R475). -/
  | ebsetDet (h : Hdr) (a b c : BitVec 6)
  /-- EBSET_RDCORR, opcode 0xED (R475). -/
  | ebsetRdcorr (h : Hdr) (a b : BitVec 6)
  /-- EBSET_RDDET, opcode 0xED (R475). -/
  | ebsetRddet (h : Hdr) (a b : BitVec 6)
  /-- MSCOP_CLEAN, opcode 0xEE (R480). -/
  | mscopClean (h : Hdr) (a b c : BitVec 6)
  /-- MSCOP_CLINV, opcode 0xEE (R480). -/
  | mscopClinv (h : Hdr) (a b c : BitVec 6)
  /-- MSCOP_INV, opcode 0xEE (R480). -/
  | mscopInv (h : Hdr) (a b c : BitVec 6)
  /-- MSCOP_STAT, opcode 0xEE (R480). -/
  | mscopStat (h : Hdr) (a b c : BitVec 6)
  /-- PEERW_OPEN, opcode 0xEF (R490). -/
  | peerwOpen (h : Hdr) (a b c : BitVec 6)
  /-- PEERW_CLOSE, opcode 0xEF (R490). -/
  | peerwClose (h : Hdr) (a b : BitVec 6)
  /-- PEERW_READ, opcode 0xEF (R490). -/
  | peerwRead (h : Hdr) (a b : BitVec 6)
  /-- PEERW_BIND, opcode 0xEF (R490). -/
  | peerwBind (h : Hdr) (a b c : BitVec 6)
  /-- SMC_SETW, opcode 0xF0 (R501). -/
  | smcSetw (h : Hdr) (a b c : BitVec 6)
  /-- SMC_FWLD, opcode 0xF0 (R500). -/
  | smcFwld (h : Hdr) (a b : BitVec 6)
  /-- SMC_VER, opcode 0xF0 (R500). -/
  | smcVer (h : Hdr) (a : BitVec 6)
  /-- PERF_READ, opcode 0xF1 (R500). -/
  | perfRead (h : Hdr) (a b : BitVec 6)
  /-- PERF_CLR, opcode 0xF1 (R500). -/
  | perfClr (h : Hdr) (a b : BitVec 6)
  /-- DBG_HALT, opcode 0xF2 (R500). -/
  | dbgHalt (h : Hdr) (a b : BitVec 6)
  /-- DBG_GO, opcode 0xF2 (R500). -/
  | dbgGo (h : Hdr) (a b : BitVec 6)
  /-- DBG_RD, opcode 0xF2 (R500). -/
  | dbgRd (h : Hdr) (a b c : BitVec 6)
  /-- DBG_WR, opcode 0xF2 (R500). -/
  | dbgWr (h : Hdr) (a b c : BitVec 6)
  /-- DBG_SIG, opcode 0xF2 (R500). -/
  | dbgSig (h : Hdr) (a b c : BitVec 6)
  /-- ATST, opcode 0xF3 (R503). -/
  | atst (h : Hdr) (a b c : BitVec 6)
  /-- PWRQ_MAX, opcode 0xF4 (R504). -/
  | pwrqMax (h : Hdr) (a b : BitVec 6)
  /-- PWRQ_STATE, opcode 0xF4 (R504). -/
  | pwrqState (h : Hdr) (a b c : BitVec 6)
  /-- ALIM, opcode 0xF5 (R236). -/
  | alim (h : Hdr) (a b c : BitVec 6)
  /-- HMSG, opcode 0xF6 (R488). -/
  | hmsg (h : Hdr) (a b : BitVec 6) (vec : BitVec 11)
  /-- PMSG_SEND, opcode 0xF7 (R493). -/
  | pmsgSend (h : Hdr) (a b c ch : BitVec 6)
  /-- PMSG_RECV, opcode 0xF7 (R493). -/
  | pmsgRecv (h : Hdr) (a b ch : BitVec 6)
  /-- PMSG_WAIT, opcode 0xF7 (R493). -/
  | pmsgWait (h : Hdr) (a ch : BitVec 6)
  /-- LI, opcode 0xF8 (R155). -/
  | li (h : Hdr) (d : BitVec 6) (v : BitVec 64)
  /-- JMPX, opcode 0xF9 (R155). -/
  | jmpx (h : Hdr) (v : BitVec 64)
  /-- CALLX, opcode 0xFA (R155). -/
  | callx (h : Hdr) (v : BitVec 64)
  /-- ADDIX, opcode 0xFB (R155). -/
  | addix (h : Hdr) (d a : BitVec 6) (v : BitVec 64)
  /-- LEAX, opcode 0xFC (R155). -/
  | leax (h : Hdr) (d : BitVec 6) (v : BitVec 64)
  /-- AWRX, opcode 0xFD (R273). -/
  | awrx (nst : BitVec 4) (mg fd : BitVec 6) (v : BitVec 64)
  /-- ASRCHX, opcode 0xFE (R268). -/
  | asrchx (nst : BitVec 4) (md fa : BitVec 6) (v : BitVec 64)
  /-- UD, opcode 0xFF (R156). -/
  | ud (x : BitVec 56)
  /-- BLOCK_THROTTLE_CHANGE, event (R35). -/
  | blockThrottleChange (cls : BitVec 3) (inst : BitVec 10) (temp : BitVec 8) (gated : Bool) (level : BitVec 7)
  /-- TDISP_STATE_CHANGE, event (R496). -/
  | tdispStateChange (ifc : BitVec 16) (run : Bool) (ctx : BitVec 16)
  /-- INBOUND_PCIE_ATOMIC, event (R94). -/
  | inboundPcieAtomic (src : PcieSource) (addr : BitVec 64) (op : BitVec 4) (size : BitVec 2) (x y : BitVec 64)
  deriving DecidableEq, Repr

end Sys2Proof
end

