-- ==== Sys2Proof/Machine/State.lean ====
section
/-!
DEFINITION. The state of the module as plain data (04 R99, 07 R210 to R237, 12 R332 to R346, 14 R369 to R396,
16 R407 to R429, 17 R434 to R446, 18 R464 to R493, 19 R496 to R504), the reasons a step can stop, and the state
after reset.
-/
namespace Sys2Proof.Machine

/-- Why the machine stops with a fault: never. R9 says the device has no response but those of the manual, and each of
those is a next state, so this type has no constructor and nothing raises it. -/
inductive Fault where
  deriving DecidableEq, Repr

/-- Why an instruction has no meaning. -/
inductive Refusal where
  /-- Raised by exec for an instruction without a meaning yet; safe. -/
  | notModelled (mnemonic : String)
  deriving DecidableEq, Repr

/-! ### Strand -/

/-- Reason of a poisoned register (R192). -/
inductive Reason where
  | data | timeout | failed
  deriving DecidableEq, Repr

/-- Floating operations that fold (R195). -/
inductive FoldOp where
  | add | sub | mul | fma
  deriving DecidableEq, Repr

/-- One pending floating operation of a symbolic register (R195): the symbol stands at operand `pos`, `x` and `y` are
the other operands in order. -/
structure FOp where
  op : FoldOp
  pos : Nat
  x : Word
  y : Word
  negp : Bool
  nega : Bool
  mode : BitVec 3
  deriving DecidableEq, Repr

/-- State of a scalar register (R192). -/
inductive SVal where
  | conc (v : Word)
  | aff (k : Nat) (alpha beta : Word)
  | flt (k : Nat) (ops : List FOp)
  | poison (r : Reason)
  deriving DecidableEq, Repr

/-- A fixed-latency write not yet landed (R54 to R56): register code as EVAL of STALL_SHORT gives it, counted distance
left, whether a reader interlocks (FSQRT), and of a floating-point instruction the flags that land with it (R136). -/
structure Pend where
  code : Nat
  val : SVal
  left : Nat
  interlock : Bool
  flags : Option Word
  deriving DecidableEq, Repr

/-- Where an access lands: module memory by local PA, a die's scratchpad, an array line byte of a group, a peer
(window number, PA[45:0]) or the host. -/
inductive Place where
  | mem (pa : Nat)
  | scratch (die off : Nat)
  | arr (g : Nat) (off : Nat)
  | mgmt (off : Nat)
  | peer (n : Nat) (addr : Nat)
  | host (addr : Nat)
  deriving DecidableEq, Repr

/-- Read-modify-write applied to bytes (R162, R163). -/
inductive RmwOp where
  | add | and | or | xor | swap | min | max | minu | maxu | maxrst
  deriving DecidableEq, Repr

/-- A bound WMSET slot (R172). -/
structure Slot where
  base : Word
  len : Word
  pennant : Word
  gen : BitVec 32
  esize : BitVec 16
  deriving DecidableEq, Repr

/-- Read-modify-writes of an object: burgees (R168), pennants (R171), append-queue headers (R175, R287). -/
inductive Update where
  | barInit (n : Nat)
  | barExpect (n : Nat)
  | barArrive
  | barArriveb (n : Nat)
  | publish (count : Nat)
  | publishGen (count : Nat)
  | take (n : Nat)
  | lock
  | unlock
  deriving DecidableEq, Repr

/-- What an access asks for; a peer or the host performs it itself (R31). -/
inductive RemoteOp where
  | read
  | rmw (op : RmwOp) (o : Word)
  | cas (old new : Word)
  | update (u : Update)
  | page
  | message (ch : Nat) (body : List Byte)
  deriving DecidableEq, Repr

/-- How the stores of an access use the die L2: they allocate their line; they do not on a miss (STX, R157); their page is
not allocated there (NC, R177). -/
inductive L2Use where
  | alloc | far | nc
  deriving DecidableEq, Repr

/-- What will bring the value of an allocated symbol (R199). -/
inductive SymSrc where
  /-- A load whose read is not yet performed: its address, the place the check found, bytes, and the pennants it waits
  for. -/
  | load (va : Nat) (pl : Place) (n : Nat) (slots : List (Nat × Slot))
  /-- An atomic not yet performed. -/
  | amo (va : Nat) (pl : Place) (n : Nat) (op : RmwOp) (o : Word)
  /-- An ordinary atomic read-modify-write that is held (R93). -/
  | rmw (va : Nat) (pl : Place) (n : Nat) (op : RemoteOp)
  /-- A store that is held (R93). -/
  | store (va : Nat) (pl : Place) (bs : List Byte) (l2 : L2Use)
  /-- A tree operation or an associative instruction, which resolves the symbol itself. -/
  | tree
  | assoc
  deriving DecidableEq, Repr

/-- The registers that a held load or atomic brings its value to (R93): the number they wait under (R55), each with the
offset of its bytes, their count, and whether they are sign-extended. -/
structure LateDst where
  seq : Nat
  regs : List (Nat × Nat)
  len : Nat
  signed : Bool
  deriving DecidableEq, Repr

/-- An allocated entry of the symbol table (R189, R191): its access's ordering kind, whether later S and R accesses are
held behind it (R93), whether it is itself an S or annotated access, whether it is annotated (R71), and the cycle it was
allocated in. Entries from 32 on take no symbol (R189): late accesses with destination s0, and plain accesses that are held
behind a late one, with the registers they bring a value to (R93). -/
structure Sym where
  src : SymSrc
  kind : BitVec 2
  deadline : Option Word
  holds : Bool
  strong : Bool
  ann : Bool
  since : Word
  dst : Option LateDst
  deriving DecidableEq, Repr

/-- How a trap is delivered (R106). -/
inductive TrapKind where
  | instr | assoc | cmd | event
  deriving DecidableEq, Repr

/-- A trap about to be taken (R109): `completed` is set for SYSC and TRAP, whose EPC is the next instruction. -/
structure Trap where
  code : BitVec 8
  sub : BitVec 8
  val : Word
  kind : TrapKind
  completed : Bool
  deriving DecidableEq, Repr

/-- A bound stream register (R335, R341 to R343): the record's eight words, direction, ordinal of the element the strand
handles next, mode of the binding strand, buffered elements, and the failure kept for delivery (cause, subcode, EVAL). -/
structure Stream where
  record : List Word
  out : Bool
  sup : Bool
  next : Nat
  buf : List Word
  fail : Option (BitVec 8 × BitVec 8 × Word)
  deriving DecidableEq, Repr

/-- A pending tree refusal (R446): cause, subcode and handle of the first refused operation. -/
structure TreeRefusal where
  cause : BitVec 8
  sub : BitVec 8
  handle : BitVec 16
  deriving DecidableEq, Repr

/-- Binding of an item to a strand (R416). -/
structure Item where
  launch : Nat
  ord : Nat
  ctx : Nat
  level : BitVec 4
  deriving DecidableEq, Repr

/-- Pending events of a strand with their EVAL (R106, R108). -/
structure Events where
  watchdog : Option Word
  ebudget : Option Word
  preempt : Option Word
  debug : Option Word
  deriving DecidableEq, Repr

/-- Whether a strand issues: it does, HALT keeps it (R184), or the stop of R111 does. -/
inductive Halt where
  | running | halted | stopped
  deriving DecidableEq, Repr

/-- What an instruction that has not issued waits for (R107): `remote` is a request to a peer or the host that has left
the device, during which no trap is taken (R491). -/
inductive Wait where
  | plain | symbol | remote
  deriving DecidableEq, Repr

/-- What an instruction that waits has done already and does not do again when it tries: the lower part of a two-page load,
with its address, bytes and uncorrectable line (R80); the fill QWAIT waits for, and whether its bit in WAITERS is set (R174); and an
associative instruction whose result goes to a stream, with that result once the groups have retired it (R277). -/
inductive Part where
  | lower (va : Word) (bs : List Byte) (bad : Option Nat)
  | fill (m : Word) (marked : Bool)
  | result (v : Option Word)
  deriving DecidableEq, Repr

/-- An instruction that completes before a delivery is taken: FAS, AWAIT or CTXSV before an associative one (R165, R232,
R426), RCLASS before an event (R472). -/
inductive Inside where
  | fence | frame
  deriving DecidableEq, Repr

/-! ### Associative instructions in a queue -/

/-- Second operand of a queued associative instruction: a field, or its scalar or immediate (R46). -/
inductive ASrc where
  | fld (f : Nat)
  | op
  deriving DecidableEq, Repr

/-- Arithmetic of Table 10.4. -/
inductive AFn where
  | add | sub | mul | fma | div | rem | abs | neg | sqrt
  deriving DecidableEq, Repr

/-- Combines of ASCAN and ASEGR (R305). -/
inductive ScanFn where
  | add | min | max | or
  deriving DecidableEq, Repr

/-- Addressing of a field load or store (R312). -/
inductive AAddr where
  | lin
  | idx (fb : Nat)
  | str
  deriving DecidableEq, Repr

/-- Image variants of ASAVE and ARSTR (Table 10.7). -/
inductive AImage where
  | f | m | desc | ev
  deriving DecidableEq, Repr

/-- An associative instruction as the groups' queue holds it (R217): fields and masks by number, 24 for m*. -/
inductive AOp where
  | afcfg (d : Nat)
  | amode (st : Bool)
  | awhile (md : Nat)
  | asrch (comb : BitVec 2) (md fa : Nat)
  | acmp (cond : BitVec 2) (rev : Bool) (md fa : Nat) (src : ASrc)
  | mlog (md ma mb : Nat) (tbl : BitVec 4)
  | mset (md : Nat) (v : Bool)
  | awr (fd : Nat)
  | amov (fd fa : Nat)
  | apopM (ma : Nat)
  | apopF (fa : Nat)
  | afirst (last : Bool) (ma : Nat)
  | anext (one : Bool) (md ma : Nat)
  | atopk (min : Bool) (md fa : Nat)
  | aext (min idx : Bool) (fa : Nat)
  | ardrow (fa : Nat)
  | awrrow (fd : Nat)
  | arith (fn : AFn) (fd fa : Nat) (src : ASrc) (rev sat : Bool)
  | sel (max : Bool) (fd fa : Nat) (src : ASrc)
  | logic (fn : BitVec 2) (fd fa : Nat) (src : ASrc)
  | shift (fn : BitVec 2) (sat : Bool) (fd fa : Nat) (src : ASrc)
  | cvt (nosat : Bool) (fd fa : Nat)
  | clamp (fd fa : Nat)
  | ham (sat : Bool) (fd fa : Nat) (src : ASrc)
  | lut (fd fa : Nat)
  | shr (fd fa : Nat)
  | scan (fn : ScanFn) (sat : Bool) (fd fa : Nat)
  | segr (fn : ScanFn) (sat : Bool) (fd fa ms : Nat)
  | pair (union sat : Bool) (fd fa fb : Nat)
  | plenSet (fd : Nat)
  | plenMask (md fa : Nat)
  | app (val : Option Nat) (md : Nat)
  | conf (md fa : Nat)
  | intv (kind : BitVec 2) (md fa : Nat)
  | amatch (md fa z : Nat)
  | chk (md fa : Nat)
  | fill (sat : Bool) (fd : Nat)
  | bcast (fd fa : Nat)
  | qnt (keep : Bool) (fd fa : Nat)
  | dqnt (nosat : Bool) (fd fa : Nat)
  | ld (ff : Bool) (ad : AAddr) (fd : Nat)
  | ldseg (nosat : Bool) (n fd : Nat)
  | st (ad : AAddr) (fa : Nat)
  | stseg (nosat : Bool) (n fa : Nat)
  | save (v : AImage) (k : Nat)
  | rstr (v : AImage) (k : Nat)
  deriving DecidableEq, Repr

/-- Progress of an instruction within its passes (R217, R222, R225, R226): whether its checks at dispatch have passed, whether
its passes have compared their mirrors, the address of the element that has been read again, the pass it goes on from,
and the rows, by group and group row, as they stood before the passes it has made. -/
structure Prog where
  begun : Bool
  mirrored : Bool
  again : Option Word
  pass : Option Nat
  kept : List (Nat × Nat × BitVec 1024)
  deriving DecidableEq, Repr

/-- No progress. -/
def Prog.fresh : Prog := ⟨false, false, none, none, []⟩

/-- An entry of the replay queue (R217): the instruction and its word or words, address, mode of the issuing strand,
governing mask, rounding mode, the scalar of [23:18] or the immediate, the second scalar, the symbol its result goes to,
or whether it goes to the waiting instruction; its progress: whether it is being resumed, at ESTART (`some none`: a
row-ordered stop) or at a row, the row it goes on from, and what it keeps across a wait or a stop; the pennant slots
bound at its issue (R172); and its progress by pass. -/
structure QEntry where
  op : AOp
  word : Word
  word1 : Word
  pc : BitVec 56
  sup : Bool
  mg : Nat
  mode : BitVec 3
  x : SVal
  y : SVal
  sym : Option Nat
  out : Bool
  resumed : Option (Option Nat)
  row : Option Nat
  acc : List Word
  slots : Tab Slot
  prog : Prog
  deriving DecidableEq, Repr

/-- What AESTAT shows of a stop (R224, R231). -/
structure AStopRec where
  code : BitVec 8
  sub : BitVec 8
  rows : Bool
  detail : Word
  pass : Word
  deriving DecidableEq, Repr

/-- State of a strand (Table 4.1 and what R107, R143 and R416 to R427 attach to it); `outs` names the tree operation or the
held access a register waits for (R93, R445), `part` is what a waiting instruction keeps of what it has done, `paused` tells that the
instruction at `pc` has begun to wait, `unseen` holds what lies below its stores that its groups may not see yet (R76;
DESIGN CHOICE log 6), `inside` tells which of the instructions with a rule of their own for deliveries has begun to
wait, `bars` the groups that an AUCODE which waits keeps from being handed out (R237), `mark` the expiry of a
pre-emption mark and the launch it is for, and `reserve` the launch a strand freed under a mark goes to first (R419,
R423). -/
structure Strand where
  pc : BitVec 56
  s : Tab SVal
  p : BitVec 8
  status : Word
  fpcsr : Word
  epc : Word
  ecause : Word
  eval : Word
  einstr : Word
  hscra : Word
  hscrb : Word
  trapbase : Word
  estart : BitVec 19
  ffidx : BitVec 19
  rad : BitVec 7
  afaultop : Word
  afaultaddr : Word
  adirty : BitVec 32
  mdirty : BitVec 24
  apresent : BitVec 32
  mpresent : BitVec 24
  kclass : BitVec 2
  syms : Tab Sym
  waitfree : Bool
  symlim : BitVec 32
  pend : List Pend
  streams : Tab Stream
  wmset : Tab Slot
  refusal : Option TreeRefusal
  streamErr : Option Word
  events : Events
  item : Option Item
  resumed : Option (Nat × Word)
  mark : Option (Word × Nat)
  markDone : Bool
  reserve : Option Nat
  halt : Halt
  dbg : Bool
  waiting : Option Wait
  paused : Bool
  inWaite : Bool
  sevSeen : Bool
  inside : Option Inside
  part : Option Part
  bars : List Nat
  lastCtx : Option Nat
  lastLaunch : Option Nat
  retired : Word
  symWait : Word
  waitSince : Option Word
  desc : Tab Word
  queue : List QEntry
  astop : Option AStopRec
  ahold : Bool
  adeliver : Option Trap
  outs : Tab Nat
  unseen : Tab Byte
  deriving DecidableEq, Repr

/-- Reset values of R101, R102, Table 4.4, R191 and R228; registers without one are 0 (DESIGN CHOICE log 4). -/
def Strand.reset : Strand where
  pc := 0
  s := []
  p := 0
  status := 1
  fpcsr := 1
  epc := 0
  ecause := 0
  eval := 0
  einstr := 0
  hscra := 0
  hscrb := 0
  trapbase := 0
  estart := 0
  ffidx := 0
  rad := 64
  afaultop := 0
  afaultaddr := 0
  adirty := 0
  mdirty := 0
  apresent := 0xFFFFFFFF
  mpresent := 0xFFFFFF
  kclass := 0
  syms := []
  waitfree := false
  symlim := 0x001AB3F0
  pend := []
  streams := []
  wmset := []
  refusal := none
  streamErr := none
  events := ⟨none, none, none, none⟩
  item := none
  resumed := none
  mark := none
  markDone := false
  reserve := none
  halt := .running
  dbg := false
  waiting := none
  paused := false
  inWaite := false
  sevSeen := false
  inside := none
  part := none
  bars := []
  lastCtx := none
  lastLaunch := none
  retired := 0
  symWait := 0
  waitSince := none
  desc := []
  queue := []
  astop := none
  ahold := false
  adeliver := none
  outs := []
  unseen := []

/-! ### Groups, clusters, dies -/

/-- A group (R12, R21, R221, R234, R236, R295): rows by group row, their hidden parity, array modes and gates, owner
bits, its copies of the field descriptors, event word, holder, the context of the previous holder, passes of the item, microcode
version where it was loaded apart, the launch a group freed under a mark goes to first, and a gate mask that takes effect
when the instruction it executes is over (R236). -/
structure Group where
  rows : Tab (BitVec 1024)
  parity : Tab (BitVec 32)
  storage : BitVec 16
  gated : BitVec 16
  owner : BitVec 16
  desc : Tab Word
  event : BitVec 7
  holder : Option Nat
  prevCtx : Option Nat
  passes : Word
  ucode : Option (BitVec 32)
  reserve : Option Nat
  gating : Option (BitVec 16)
  deriving DecidableEq, Repr

/-- R498, R234, R82, R210. -/
def Group.reset : Group := ⟨[], [], 0, 0, 0, [], 0, none, none, 0, none, none, none⟩

/-- Transfer commands (Table 12.3). -/
inductive XOp where
  | copy | gath2 | gath | scat | slide | fill | ckpt
  | prom (dem : Bool)
  | red (max : Bool) (ty : BitVec 3)
  | kv | dense | xclass
  deriving DecidableEq, Repr

/-- A queued transfer command (R332, R346): identifier, issuing strand, its item (launch and ordinal), context and mode, the
record at b and, where c names one, at c, their addresses or values, the cycle of issue and the instructions its strand had
retired then (DESIGN CHOICE log 113), the element it goes on from, what it keeps, its
completion value once its accesses are made, its stop (cause, subcode, EVAL), whether that has been delivered, the
pennant slots bound at its issue (R172), and what it has read for the element it is at (R357). -/
structure XEntry where
  op : XOp
  id : BitVec 32
  n : Nat
  item : Option (Nat × Nat)
  ctx : Nat
  sup : Bool
  r1 : List Word
  r2 : List Word
  a1 : Word
  a2 : Word
  issued : Word
  since : Word
  elem : Nat
  acc : List Word
  value : Option Word
  stop : Option (BitVec 8 × BitVec 8 × Word)
  told : Bool
  slots : Tab Slot
  part : List (List Byte)
  deriving DecidableEq, Repr

/-- A promotion or a demotion under way (R356, R482, R483): the pool frame taken, the deadline, the context that asked for
it, and the cluster, channel and identifier of its XPROM. -/
structure PromJob where
  frame : Nat
  deadline : Option Word
  ctx : Option Nat
  owner : Option (Nat × Nat × BitVec 32)
  deriving DecidableEq, Repr

/-- A transfer channel (R332 to R334): next identifier, XDONE, queue, the 16 last completion values. -/
structure Chan where
  next : BitVec 32
  done : BitVec 32
  queue : List XEntry
  vals : List (BitVec 32 × Word)
  deriving DecidableEq, Repr

/-- R333. -/
def Chan.reset : Chan := ⟨1, 1, [], []⟩

/-- Products of the matrix engine (R378 to R380). -/
inductive MKind where
  | mma | mmax | mconv
  deriving DecidableEq, Repr

/-- Matrix commands (R375 to R389): regions give ROWS and COLS as Table 14.2 holds them. -/
inductive MOp where
  | cfg (rec : List Word)
  | prod (kind : MKind) (ovw mem : Bool) (tile : Nat)
  | lda (f64 : Bool) (tile rows cols : Nat)
  | sta (tile rows cols : Nat)
  | zero (mask : BitVec 8)
  | trans (dst src : Nat)
  | amax (tile rows cols : Nat)
  | quant (e4m3 : Bool) (tile rows cols : Nat)
  | soft (tile rows cols : Nat)
  deriving DecidableEq, Repr

/-- A queued matrix command (R372, R382): number, the item that issued it, context and mode, operands, start row, stop row,
whether it has done its work, its stop (cause, subcode, EVAL), and whether that has been delivered. -/
structure MCmd where
  op : MOp
  num : BitVec 32
  item : Option (Nat × Nat)
  ctx : Nat
  sup : Bool
  a1 : Word
  a2 : Word
  start : Nat
  row : Nat
  finished : Bool
  stop : Option (BitVec 8 × BitVec 8 × Word)
  told : Bool
  deriving DecidableEq, Repr

/-- An accumulator tile (R369): its format bit and its elements by 96 × row + column. -/
structure MTile where
  f64 : Bool
  cells : Tab Word
  deriving DecidableEq, Repr

/-- R369. -/
def MTile.reset : MTile := ⟨false, []⟩

/-- How a task ended (R394): stop row, events, and its failure (cause, subcode, EVAL). -/
structure MEnd where
  row : Nat
  ev : BitVec 7
  fail : Option (BitVec 8 × BitVec 8 × Word)
  deriving DecidableEq, Repr

/-- A task its queue's HEAD has not passed (R392 to R395): place and address of the queue header, slot 0, slots, ordinal,
the item that queued it, context and mode, the record, the cluster it runs on, how it ended, whether its STATUS is written, and
whether an MWAIT.task has taken its failure. -/
structure MTask where
  q : Place
  hdr : Word
  base : Word
  cap : Nat
  ord : Nat
  item : Option (Nat × Nat)
  ctx : Nat
  sup : Bool
  record : List Word
  on : Option Nat
  ended : Option MEnd
  written : Bool
  taken : Bool
  deriving DecidableEq, Repr

/-- A matrix engine (Table 14.1), and the context it was last bound to (R370). -/
structure Matrix where
  tiles : Tab MTile
  cfg : List Word
  queue : List MCmd
  next : BitVec 32
  done : BitVec 32
  ev : BitVec 7
  bound : Option Nat
  deriving DecidableEq, Repr

/-- R369. -/
def Matrix.reset : Matrix := ⟨[], List.replicate 8 0, [], 1, 1, 0, none⟩

/-- What an engine image holds beside its bytes (R396). -/
structure MImage where
  bytes : List Byte
  mx : Matrix
  deriving DecidableEq, Repr

/-- A cluster (R12, R228, R332, R369): ALIMIT, the words its instruction cache keeps, by physical address (R96, DESIGN CHOICE log 9),
the channels of its transfer engine, its matrix engine, and the strand and mask of an ALIM under way (R236). -/
structure Cluster where
  alimit : Word
  icache : Tab Word
  chans : Tab Chan
  mx : Matrix
  gating : Option (Nat × Word)
  deriving DecidableEq, Repr

/-- R228, R333, R369. -/
def Cluster.reset : Cluster := ⟨0, [], [], Matrix.reset, none⟩

/-- A translation kept by a die (R179, R180): context, virtual address of the page, whether it is a 512 MiB block, the
entry and the address it was read from. -/
structure Tlb where
  ctx : Nat
  page : Nat
  big : Bool
  pte : Word
  loc : Nat
  deriving DecidableEq, Repr

/-- A compute die (R12, R82, R219, R421): owner bits of its scratchpad blocks that name the engines, permit, walker
registers, kept translations, the matrix tasks its scheduler tracks (R392), and the launches served in the present round
of the walker (R419). -/
structure Die where
  owner : List Nat
  apermit : BitVec 5
  grace : BitVec 32
  ageing : BitVec 32
  tlb : List Tlb
  tasks : List MTask
  served : List Nat
  deriving DecidableEq, Repr

/-- R82, R228, R421. -/
def Die.reset : Die := ⟨[], 16, 35000, 0, [], [], []⟩

/-! ### Contexts, launches -/

/-- A kept context (R410, R421, R428, R474): the identity an MTC to CTXID may change is apart; a budget that has run out
stays marked until it is written (R474). -/
structure Ctx where
  pasid : BitVec 20
  root : Word
  sbchk : Bool
  ceil : BitVec 4
  supv : Bool
  sec : Bool
  trapb : Word
  wdogLim : BitVec 48
  wdogCnt : BitVec 48
  wdogArmed : Bool
  ebcorr : Word
  ebdet : Word
  idPasid : BitVec 20
  idCtx : BitVec 16
  spentCorr : Bool
  spentDet : Bool
  deriving DecidableEq, Repr

/-- A nest level (R408). -/
structure Level where
  start : BitVec 32
  extent : Nat
  step : BitVec 32
  kind : BitVec 2
  rank : Nat
  deriving DecidableEq, Repr

/-- A launch (R411 to R415, R419, R420): the values read at issue, how far it has come, since when its items have waited at
its level, and the budget whose end its undispatched items are to be told of (R474). -/
structure Launch where
  ctx : Nat
  die : Nat
  entry : Word
  args : Word
  prio : BitVec 4
  level : BitVec 4
  cls : BitVec 2
  groups : Nat
  after : Nat
  done : Word
  pbind : Option (Word × Word × Word)
  levels : List Level
  next : Tab Nat
  left : Nat
  killed : Bool
  status : Option (BitVec 2)
  since : Word
  owed : Option Word
  deriving DecidableEq, Repr

/-- A suspended item (R425 to R427): image address, whether it is held for prio.wake, and the EBUDGET_EXHAUSTED it is to
take when it resumes (R474). -/
structure Susp where
  item : Item
  die : Nat
  groups : Nat
  image : Word
  hold : Bool
  owed : Option Word
  deriving DecidableEq, Repr

/-! ### Memory side and links -/

/-- A frame class table entry (R467); the reset class is P. -/
structure Frame where
  cls : BitVec 2
  promo : Bool
  world : Bool
  deriving DecidableEq, Repr

/-- R467. -/
def Frame.reset : Frame := ⟨2, false, false⟩

/-- Who waits for a remote answer (R182, R491): `gate` reads the pennants that hold a strand's symbols, `late` is a symbol
that has timed out, `agent` a context's page request or the device itself. -/
inductive Asker where
  | strand (n : Nat)
  | symbol (n k : Nat)
  | fetch (n : Nat)
  | gate (n : Nat)
  | late
  | agent (ctx : Nat)
  | group (n : Nat)
  | stream (n z : Nat)
  | chan (cl ch : Nat)
  | matrix (cl : Nat)
  deriving DecidableEq, Repr

/-- An outstanding request that left the device (R182, R491), with the address it was made at. -/
structure Remote where
  id : Nat
  who : Asker
  ctx : Option Nat
  place : Place
  n : Nat
  op : RemoteOp
  va : Word
  since : Word
  ans : Option RemoteAnswer
  deriving DecidableEq, Repr

/-- An error log record (R476); its SEQ is the key it is kept under. -/
structure LogRec where
  seq : Word
  pa : BitVec 52
  ctx : BitVec 16
  source : BitVec 8
  unit : BitVec 8
  kind : BitVec 8
  cycle : Word
  deriving DecidableEq, Repr

/-- What a husk holds beside its bytes (R233, R318, R320): the queue, the descriptors of the groups and of the strand, the
stop, and the registers that referred to result symbols, each with its form. -/
structure Husk where
  bytes : List Byte
  queue : List QEntry
  desc : Tab Word
  own : Tab Word
  stop : Option AStopRec
  refs : Tab SVal
  deriving DecidableEq, Repr

/-- A node of a region's tree (R438): the pairs of a leaf, or separators and the children by number. -/
structure TNode where
  kvs : List (Nat × Nat)
  seps : List Nat
  kids : List Nat
  deriving DecidableEq, Repr

/-- A sparse-tensor region (R434 to R441): which creation it is, number and world of its context, bytes of an element, coordinate widths of
dimensions 0 to NDIM, pool pages by physical number, its tree, refused inserts, whether a node in use fails its check,
whether it is faulted, and whether an SPFREE of it has been issued. -/
structure Region where
  uid : Nat
  ctx : Nat
  sec : Bool
  esz : Nat
  widths : List Nat
  pages : List Nat
  nodes : Tab TNode
  root : Nat
  depth : Nat
  refused : BitVec 32
  bad : Bool
  faulted : Bool
  closing : Bool
  deriving DecidableEq, Repr

/-- Operations of SPAMO (Table 17.4). -/
inductive TAmo where
  | add | min | max | swap
  deriving DecidableEq, Repr

/-- Items of SPSTAT (Table 17.6). -/
inductive TItem where
  | keys | nodes | free | depth | status | pages
  deriving DecidableEq, Repr

/-- What a tree operation does (R447 to R456); a box is its eight words. -/
inductive TWork where
  | ld (k : Nat)
  | st (k v : Nat)
  | amo (op : TAmo) (ty : BitVec 2) (k o : Nat)
  | next (up eq : Bool) (k : Nat)
  | cnt (box : List Word)
  | del (box : List Word)
  | stat (i : TItem)
  | pool (pages : List Nat)
  | free
  deriving DecidableEq, Repr

/-- A tree operation issued and not yet applied (R442): its number, handle and region, strand, work, the symbols that
take its results, the register of an "out" result, and whether its strand has been freed since (R422). -/
structure TOp where
  seq : Nat
  handle : Nat
  uid : Nat
  n : Nat
  work : TWork
  syms : List Nat
  out : Option Nat
  gone : Bool
  deriving DecidableEq, Repr

/-- What leaves the module (R484, R488, R489, R491, R493): a peer is addressed by port and PCIe address, the host by PASID
and host address; a request carries its number. A message is a posted write of 64 bytes at an offset of a peer's BAR0, then a
read there of no bytes (R492); the peer is named by device number and port. -/
inductive Outbound where
  | peerWrite (port addr : Nat) (bytes : List Byte)
  | peerRequest (id port addr n : Nat) (op : RemoteOp)
  | inboxWrite (peer port off : Nat) (bytes : List Byte)
  | inboxRead (id peer port off : Nat)
  | hostRequest (id : Nat) (pasid : Option (BitVec 20)) (addr n : Nat) (op : RemoteOp)
  | hostWrite (pasid : Option (BitVec 20)) (addr : Nat) (bytes : List Byte)
  | msix (vec : Nat)
  | pageRequest (pasid : BitVec 20) (addr : Nat)
  | completion (data : Option (List Byte)) (poisoned : Bool)
  deriving DecidableEq, Repr

/-- An inbound Ramir channel (R490, R492): bound context, messages in arrival order, last SEQ of each sender. -/
structure Ramir where
  bind : Option Nat
  msgs : List (List Byte)
  seqs : Tab (BitVec 32)
  deriving DecidableEq, Repr

/-- An image in force (R503): one that boot loaded, whose bytes are not given, by its kind and the number of that boot
(DESIGN CHOICE log 11), or the bytes of one loaded since. -/
inductive Image where
  | boot (kind n : Nat)
  | loaded (bytes : List Byte)
  deriving DecidableEq, Repr

/-- Management registers and what the security processor keeps (R486, R497 to R500, R503). -/
structure Mgmt where
  state : BitVec 8
  devno : BitVec 6
  mboxseq : Word
  hrbase : Word
  hrcnt : BitVec 17
  hrtail : Word
  hrhead : Word
  logseq : Word
  failed : BitVec 6
  detail : Word
  answered : Word
  monVer : BitVec 32
  ucodeVer : BitVec 32
  fwVer : BitVec 32
  monImg : Image
  ucodeImg : Image
  fwImg : Image
  bootKey : Option Word
  deriving DecidableEq, Repr

/-- R486, R498, R499. -/
def Mgmt.reset : Mgmt := ⟨0, 0, 0, 0, 0, 0, 0, 0, 0, 0, 0, 0, 0, 0, .boot 1 0, .boot 2 0, .boot 3 0, none⟩

/-- State of a block's throttle (R504). -/
structure Throttle where
  temp : BitVec 8
  gated : Bool
  level : BitVec 7
  deriving DecidableEq, Repr

/-- The errors of a 64-byte line (R468, R478): whether it is poisoned, and its flipped bits. -/
structure LineErr where
  poisoned : Bool
  flips : Option (List Nat)
  deriving DecidableEq, Repr

/-- What moves next: a strand, or a device event. -/
inductive Mover where
  | strand (n : Nat)
  | event (e : Instr)
  deriving DecidableEq, Repr

/-- The module. `promoted` gives the pool frame of a promoted page, `promoting` and `demoting` the moves under way (R482,
R483). Keys of `mem`: a local physical address, or 2^52 + die × 2^25 + offset for die scratchpads. `l2old` and
`mscOld` hold, for each byte whose last write may not have left a die L2 or a memory-side slice, what lies below it
(R181, R480, DESIGN CHOICE log 8). `poisoned` and `flips` list the lines (PA / 64) of R468 and R478, and `l2bad` and `mscBad`
hold, for lines that a store of all 64 bytes replaced, the errors below it. `cur`, `ir`, `agenda`, `turn` and
`free` are the model's own (DESIGN CHOICE log 1, DESIGN CHOICE log 12). -/
structure State where
  strands : Tab Strand
  groups : Tab Group
  clusters : Tab Cluster
  dies : Tab Die
  ctxs : Tab Ctx
  launches : Tab Launch
  nextLaunch : Nat
  susp : List Susp
  mem : Memory
  l2old : Tab Byte
  mscOld : Tab Byte
  poisoned : List Nat
  flips : Tab (List Nat)
  l2bad : Tab LineErr
  mscBad : Tab LineErr
  frames : Tab Frame
  promoted : Tab Nat
  promoting : Tab PromJob
  demoting : Tab PromJob
  promlate : BitVec 32
  log : Tab LogRec
  sliceCorr : Tab Word
  windows : Tab Word
  ramir : Tab Ramir
  ats : List (Nat × Nat)
  refusedPages : List (Nat × Nat)
  remotes : List Remote
  nextReq : Nat
  late : Word
  pageReqs : Word
  out : List Outbound
  mgmt : Mgmt
  throttles : Tab Throttle
  tdisp : Tab Nat
  husks : List Husk
  images : List MImage
  regions : Tab Region
  treeOps : List TOp
  nextTree : Nat
  cycle : Word
  cur : Nat
  ir : Word
  agenda : List Mover
  turn : Nat
  free : Nat
  deriving DecidableEq, Repr

/-- The module right after reset: booting (R498), HBM4 frames of class P holding zeros (R467), every register at its
reset value (R101, R102, R228, R486). -/
def State.reset : State where
  strands := []
  groups := []
  clusters := []
  dies := []
  ctxs := []
  launches := []
  nextLaunch := 1
  susp := []
  mem := []
  l2old := []
  mscOld := []
  poisoned := []
  flips := []
  l2bad := []
  mscBad := []
  frames := []
  promoted := []
  promoting := []
  demoting := []
  promlate := 0
  log := []
  sliceCorr := []
  windows := []
  ramir := []
  ats := []
  refusedPages := []
  remotes := []
  nextReq := 1
  late := 0
  pageReqs := 0
  out := []
  mgmt := Mgmt.reset
  throttles := []
  tdisp := []
  husks := []
  images := []
  regions := []
  treeOps := []
  nextTree := 1
  cycle := 0
  cur := 0
  ir := 0
  agenda := []
  turn := 0
  free := 0

end Sys2Proof.Machine
end

