-- ==== Sys2Proof/Machine/Ops.lean ====
section
/-!
DEFINITION. Shared operations of the control core: strand state, hazards and landing (02 R53 to R56), register reads and
writes (02 R42, R43; 06 R192 to R197), taking a trap and returning from one (04 R106 to R111), time, and the frame every
instruction runs in (02 R47).
-/
namespace Sys2Proof.Machine

/-- The three outcomes of exec. -/
abbrev Out := Host.Outcome State Fault Refusal

/-- Why an instruction does not complete: it waits to issue (R107), or a trap is taken. -/
inductive Stop where
  | wait (w : Wait)
  | trap (t : Trap)
  deriving DecidableEq, Repr

/-- Steps of one instruction. -/
abbrev M := EStateM Stop State

/-! ### Causes (Table 2.10) -/

/-- Trap causes of Table 2.10. -/
inductive Cause where
  | illegalInstr | priv | stallShort | align | xlate | perm | orderKind | world | owner | barOverrun | barRange
  | poisonUse | symTimeout | fieldUnconfig | fieldAbsent | fieldOverlap | reservedCode | assoc | stream | xfer | matrix
  | treeExhausted | tree | ebudget | mirror | uncorrectable | watchdog | preempt | launchInvalid | unbacked | sysc | trap
  | debug
  deriving DecidableEq, Repr

/-- Codes of Table 2.10. -/
def Cause.code : Cause → BitVec 8
  | .illegalInstr => 0x01 | .priv => 0x02 | .stallShort => 0x03 | .align => 0x04 | .xlate => 0x05 | .perm => 0x06
  | .orderKind => 0x07 | .world => 0x08 | .owner => 0x09 | .barOverrun => 0x0A | .barRange => 0x0B
  | .poisonUse => 0x0C | .symTimeout => 0x0D | .fieldUnconfig => 0x0E | .fieldAbsent => 0x0F | .fieldOverlap => 0x10
  | .reservedCode => 0x11 | .assoc => 0x12 | .stream => 0x13 | .xfer => 0x14 | .matrix => 0x15
  | .treeExhausted => 0x16 | .tree => 0x17 | .ebudget => 0x18 | .mirror => 0x19 | .uncorrectable => 0x1A
  | .watchdog => 0x1B | .preempt => 0x1C | .launchInvalid => 0x1D | .unbacked => 0x1E | .sysc => 0x1F | .trap => 0x20
  | .debug => 0x21

/-- Whether a register state is symbolic (R192). -/
def SVal.symbolic : SVal → Bool
  | .aff .. => true | .flt .. => true | _ => false
/-- Whether a register state is poisoned (R192). -/
def SVal.poisoned : SVal → Bool
  | .poison _ => true | _ => false

/-! ### Access to the state -/

/-- Strand `n`. -/
def State.strand (s : State) (n : Nat) : Strand := Tab.get Strand.reset s.strands n
/-- Writes strand `n`. -/
def State.setStrand (s : State) (n : Nat) (st : Strand) : State :=
  { s with strands := Tab.put Strand.reset s.strands n st }
/-- The strand whose instruction runs. -/
def State.here (s : State) : Strand := s.strand s.cur
/-- Writes the strand whose instruction runs. -/
def State.setHere (s : State) (st : Strand) : State := s.setStrand s.cur st
/-- Group `g` of the module. -/
def State.group (s : State) (g : Nat) : Group := Tab.get Group.reset s.groups g
/-- Writes group `g`. -/
def State.setGroup (s : State) (g : Nat) (x : Group) : State := { s with groups := Tab.put Group.reset s.groups g x }
/-- Cluster `c`. -/
def State.cluster (s : State) (c : Nat) : Cluster := Tab.get Cluster.reset s.clusters c
/-- Writes cluster `c`. -/
def State.setCluster (s : State) (c : Nat) (x : Cluster) : State :=
  { s with clusters := Tab.put Cluster.reset s.clusters c x }
/-- Die `d`. -/
def State.die (s : State) (d : Nat) : Die := Tab.get Die.reset s.dies d
/-- Writes die `d`. -/
def State.setDie (s : State) (d : Nat) (x : Die) : State := { s with dies := Tab.put Die.reset s.dies d x }

/-- Cluster of a strand (R13). -/
def clusterOf (n : Nat) : Nat := n / 8
/-- Die of a strand (R13). -/
def dieOf (n : Nat) : Nat := n / 128

/-- The running strand. -/
def getHere : M Strand := do return (← get).here
/-- Changes the running strand. -/
def modHere (f : Strand → Strand) : M Unit := modify fun s => s.setHere (f s.here)

/-- Context a strand runs under; context 0 when it runs no item. -/
def Strand.ctx (st : Strand) : Nat := match st.item with | some i => i.ctx | none => 0

/-- The item a strand runs: launch and ordinal. -/
def Strand.itemId (st : Strand) : Option (Nat × Nat) := st.item.map fun i => (i.launch, i.ord)
/-- Whether a strand has an item and nothing keeps it from issuing. -/
def Strand.issues (st : Strand) : Bool := st.item.isSome && !st.dbg && st.halt == .running
/-- Values of a context that is not kept. -/
def Ctx.none : Ctx := ⟨0, 0, false, 11, false, false, 0, 0, 0, false, 0, 0, 0, 0, false, false⟩
/-- The context `c`. -/
def State.ctxOf (s : State) (c : Nat) : Ctx := (Tab.find s.ctxs c).getD Ctx.none
/-- Writes a kept context. -/
def State.setCtx (s : State) (c : Nat) (x : Ctx) : State := { s with ctxs := Tab.insert s.ctxs c x }

/-- Bit `i` of a word set to `b`. -/
def setBit (w : Word) (i : Nat) (b : Bool) : Word := if b then w ||| ((1 : Word) <<< i) else w &&& ~~~((1 : Word) <<< i)
/-- Bits `lo + n - 1` down to `lo` of a word as a number. -/
def bits (w : Word) (lo n : Nat) : Nat := w.toNat / 2 ^ lo % 2 ^ n

/-- STATUS.MODE (Table 4.2). -/
def Strand.sup (st : Strand) : Bool := st.status.getLsbD 0
/-- STATUS.PMODE. -/
def Strand.pmode (st : Strand) : Bool := st.status.getLsbD 1
/-- STATUS.EVEN. -/
def Strand.even (st : Strand) : Bool := st.status.getLsbD 2
/-- STATUS.PEVEN. -/
def Strand.peven (st : Strand) : Bool := st.status.getLsbD 3
/-- STATUS.SBCHK. -/
def Strand.sbchk (st : Strand) : Bool := st.status.getLsbD 4
/-- STATUS.INTRAP. -/
def Strand.intrap (st : Strand) : Bool := st.status.getLsbD 5
/-- STATUS.WORLD. -/
def Strand.secure (st : Strand) : Bool := st.status.getLsbD 7

/-! ### Registers and landing -/

/-- Register `c` as it has landed: s0 reads 0 (R99). -/
def Strand.reg (st : Strand) (c : Nat) : SVal := if c = 0 then .conc 0 else Tab.get (.conc 0) st.s c
/-- Writes a scalar register; s0 discards (R99). -/
def Strand.setReg (st : Strand) (c : Nat) (v : SVal) : Strand :=
  if c = 0 then st else { st with s := Tab.put (.conc 0) st.s c v }
/-- Predicate `n`: p0 reads 1 (R99). -/
def Strand.pred (st : Strand) (n : Nat) : Bool := n == 0 || st.p.getLsbD n
/-- Writes a predicate; p0 discards (R99). -/
def Strand.setPred (st : Strand) (n : Nat) (b : Bool) : Strand :=
  if n = 0 then st else { st with p := if b then st.p ||| ((1 : BitVec 8) <<< n) else st.p &&& ~~~((1 : BitVec 8) <<< n) }

/-- A pending write takes place with the flags it brings (R136): codes 64 + n are predicates. -/
def Strand.landOne (st : Strand) (p : Pend) : Strand :=
  let st := { st with fpcsr := st.fpcsr ||| p.flags.getD 0 }
  if p.code < 64 then st.setReg p.code p.val
  else st.setPred (p.code - 64) (match p.val with | .conc v => v != 0 | _ => false)

/-- Lands, oldest first, the wanted writes with the older ones of their registers, and what has no distance left and no
older write of its register pending (R54 to R56). Code 0, which only brings flags, blocks nothing. -/
def landGo (want : Pend → Bool) (blocked : List Nat) (keep : List Pend) : List Pend → Strand → Strand
  | [], st => { st with pend := keep.reverse }
  | p :: ps, st =>
    if want p || ps.any (fun q => q.code == p.code && want q) || (p.left = 0 && !blocked.contains p.code) then
      landGo want blocked keep ps (st.landOne p)
    else landGo want (if p.code = 0 then blocked else p.code :: blocked) (p :: keep) ps st
/-- Landing after `n` counted cycles; what a younger write gives a register that waits for a tree operation lands after that
operation's result (R56, R445). -/
def Strand.advance (st : Strand) (n : Nat) : Strand :=
  landGo (fun _ => false) (st.outs.map Prod.fst) [] (st.pend.map fun p => { p with left := p.left - n }) st
/-- Every pending write lands; an older result of a tree operation no longer reaches its register (R56, R109). -/
def Strand.landAll (st : Strand) : Strand :=
  { st.pend.foldl Strand.landOne st with
    pend := []
    outs := st.outs.filter fun o => !st.pend.any fun p => p.code == o.1 }

/-- Whether some write to `code` is pending. -/
def Strand.early (st : Strand) (code : Nat) : Bool := code != 0 && st.pend.any fun p => p.code == code
/-- A reader of `code` stalls until an interlocked write to it lands; a younger one with no distance left lands right
after it (R55, R56). -/
def Strand.settle (st : Strand) (code : Nat) : Strand :=
  if code != 0 && st.pend.any (fun p => p.code == code && p.interlock) then
    landGo (fun p => p.code == code && p.interlock) (st.outs.map Prod.fst) [] st.pend st
  else st
/-- Whether a reader of `code` comes too early: of the writes to it younger than the last one it stalls for, one has distance
left (R54, R55). It depends on the counts alone. -/
def Strand.short (st : Strand) (code : Nat) : Bool :=
  code != 0 && st.pend.foldl (fun b p => if p.code = code then !p.interlock && (b || p.left != 0) else b) false
/-- A wait for a symbol is over: its time counts (Table 19.5). -/
def Strand.countWait (st : Strand) (cycle : Word) : Strand :=
  { st with
    symWait := match st.waitSince with | some c => st.symWait + (cycle - c) | none => st.symWait
    waitSince := none }
/-- What ends with the wait of an instruction. -/
def Strand.endWait (st : Strand) (cycle : Word) : Strand :=
  { st.countWait cycle with
    waiting := none
    paused := false
    inWaite := false
    sevSeen := false
    inside := none
    part := none
    bars := []
    waitfree := false }
/-- An associative instruction that waits for its result to enqueue it has had no effect: the groups drop it; of one that has
stopped the groups keep the stop, and its result goes nowhere (R107, R277). -/
def Strand.unissue (st : Strand) : Strand :=
  { st with queue := if st.astop.isSome then
      (st.queue.take 1).map (fun e => { e with out := false }) ++ (st.queue.drop 1).filter fun e => !e.out
    else st.queue.filter fun e => !e.out }
/-- Every earlier floating-point result has landed its flags (R103); a reader of a register goes by counted distance all
the same (R54). -/
def Strand.settleFloat (st : Strand) : Strand :=
  { st with
    fpcsr := st.pend.foldl (fun w p => w ||| p.flags.getD 0) st.fpcsr
    pend := st.pend.map fun p => { p with flags := p.flags.map fun _ => 0 } }

/-! ### Traps -/

/-- Trap of one instruction (R106). -/
def trapI {α : Type} (c : Cause) (sub : BitVec 8) (val : Word) : M α := throw (.trap ⟨c.code, sub, val, .instr, false⟩)
/-- Trap of a command, delivered at this instruction with IMPR = 1 (R106). -/
def trapC {α : Type} (c : BitVec 8) (sub : BitVec 8) (val : Word) : M α := throw (.trap ⟨c, sub, val, .cmd, false⟩)
/-- The instruction waits to issue (R107). -/
def waitM {α : Type} (w : Wait := .plain) : M α := throw (.wait w)

/-- Whether a delivery sets IMPR (Table 4.4). -/
def TrapKind.imprecise : TrapKind → Bool
  | .assoc => true | .cmd => true | .instr => false | .event => false

/-- Trap entry in cycle `cycle` as one step (R109). -/
def Strand.enter (st : Strand) (t : Trap) (resume word cycle : Word) : Strand :=
  let st := (st.landAll.unissue).endWait cycle
  let entry : Word := if st.intrap then 0x400 else if t.kind = .event then 0x200 else 0
  let s1 := setBit (setBit st.status 1 st.sup) 3 st.even
  let s2 := setBit (setBit s1 0 true) 2 false
  let s3 := setBit (if st.intrap then setBit s2 6 true else s2) 5 true
  { st with
    epc := resume &&& 0x00FFFFFFFFFFFFFF
    ecause := t.code.setWidth 64 ||| (t.sub.setWidth 64 <<< 8) ||| (if t.kind.imprecise then 0x10000 else 0)
      ||| (if t.kind = .event then 0x20000 else 0)
    eval := t.val
    einstr := if t.kind = .instr || t.kind = .cmd then word else 0
    status := s3
    pc := (st.trapbase + entry).setWidth 56
    halt := .running }

/-- Return from a trap as one step (R110); the caller has checked EPC. -/
def Strand.eret (st : Strand) : Strand :=
  { st with status := setBit (setBit (setBit st.status 0 st.pmode) 2 st.peven) 5 false }

/-! ### Time -/

/-- Whether some strand runs an item of context `c` and is not held by the debugger (R428). -/
def resident (s : State) (c : Nat) : Bool :=
  s.strands.any fun (_, st) => !st.dbg && (match st.item with | some i => i.ctx == c | none => false)
/-- Adds to a watchdog count, saturating at 2^48 - 1 (Table 16.5). -/
def satAdd48 (x : BitVec 48) (d : Nat) : BitVec 48 := BitVec.ofNat 48 (Nat.min (2 ^ 48 - 1) (x.toNat + d))
/-- `n` cycles and whatever a delay adds (R53, R131, R428; DESIGN CHOICE log 5). -/
def tick (n : Nat) (s : State) : State :=
  let d := n + (Config.extraCycles s.free).toNat
  { s with
    cycle := s.cycle + BitVec.ofNat 64 d
    free := s.free + 1
    ctxs := s.ctxs.map fun (c, x) => (c, if resident s c then { x with wdogCnt := satAdd48 x.wdogCnt d } else x) }
/-- Every waiting strand tries again after a step that may have changed what it waits for. -/
def wake (s : State) : State := { s with strands := s.strands.map fun (n, st) => (n, { st with waiting := none }) }
/-- A fresh free value (DESIGN CHOICE log 12). -/
def freshFree : M Word := do
  let s ← get
  set { s with free := s.free + 1 }
  return Config.freeBits s.free

/-! ### The frame of an instruction -/

/-- The strand as it stood when the instruction began, but for what deliveries, events and a refused WMSET
left (R107, R343, R382, R446, R172). -/
def Strand.restore (st0 st1 : Strand) : Strand :=
  { st0 with
    estart := st1.estart
    events := st1.events
    refusal := st1.refusal
    streamErr := st1.streamErr
    waitfree := st1.waitfree
    wmset := st1.wmset
    queue := st1.queue
    ahold := st1.ahold
    adirty := st1.adirty
    mdirty := st1.mdirty
    streams := st0.streams.map fun (k, z) => (k, { z with fail := (Tab.find st1.streams k).bind Stream.fail }) }

/-- Counted stall of a word: 0 acts as 1 (R53). -/
def stallOf (n : BitVec 4) : Nat := Nat.max 1 n.toNat

/-- The running strand's requests that left the device are over: their answers are used, or they come too late (R107,
R491). -/
def State.closeAsks (s : State) : State :=
  { s with remotes := s.remotes.filter fun r => r.who != .strand s.cur && r.who != .fetch s.cur }

/-- Retirement: the pc moves on, pending writes come nearer, waiting strands try again, time passes. -/
def retire (stall : BitVec 4) (next : BitVec 56) (s : State) : State :=
  let st := s.here.advance (stallOf stall)
  tick (stallOf stall) (wake (s.closeAsks.setHere { st.endWait s.cycle with
    pc := next
    retired := st.retired + 1 }))

/-- The instruction has not issued: nothing of the strand has changed, what other agents hold stays (R107); what it waits for
now ends the wait for a symbol unless it is one (Table 19.5). -/
def waitAt (w : Wait) (s0 s1 : State) : State :=
  let st := s0.here.restore s1.here
  let st := if w = .symbol then { st with waitSince := some (st.waitSince.getD s0.cycle) } else st.countWait s0.cycle
  tick 1 (s1.setStrand s0.cur { st with
    waiting := some w
    paused := true
    inWaite := s1.here.inWaite
    inside := s1.here.inside
    part := s1.here.part
    bars := s1.here.bars })

/-- The trap of an instruction is taken: EPC is its address, or the next one where it completes (R106, R109). -/
def trapAt (t : Trap) (s0 s1 : State) : State :=
  let st := s0.here.restore s1.here
  let pc : Word := st.pc.setWidth 64
  let st := if t.completed then { st with retired := st.retired + 1 } else st
  tick 1 (wake (s1.closeAsks.setStrand s0.cur (st.enter t (if t.completed then pc + 8 else pc) s0.ir s1.cycle)))

/-- Outcome of an instruction begun in `s0`. -/
def close (stall : BitVec 4) (len : Nat) (s0 : State) : EStateM.Result Stop State (Option (BitVec 56)) → Out
  | .ok none s => .next (retire stall (s0.here.pc + BitVec.ofNat 56 len) s)
  | .ok (some pc) s => .next (retire stall pc s)
  | .error (.wait w) s => .next (waitAt w s0 s)
  | .error (.trap t) s => .next (trapAt t s0 s)

/-- Privilege check of an instruction open to user mode. -/
def user : M Unit := pure ()
/-- Privilege check of a supervisor instruction (R47, R100). -/
def supOnly : M Unit := do
  if !(← getHere).sup then trapI .priv 0 0

/-- Stops a reader that comes too early: STALL_SHORT under SBCHK, else it reads the old value; what it interlocks with lands
(R54, R55). -/
def checkShort (code : Nat) : M Unit := do
  let st ← getHere
  if st.short code && st.sbchk then trapI .stallShort 0 (BitVec.ofNat 64 code)
  if (Tab.find st.outs code).isNone then modHere fun st => st.settle code
/-- The result of a tree operation is waited for (R55, R445). -/
def landed (code : Nat) : M Unit := do
  if (Tab.find (← getHere).outs code).isSome then waitM
/-- The checks of a reader of `code`. -/
def hazard (code : Nat) : M Unit := do
  checkShort code
  landed code

/-- Reads a predicate (R44, R54). -/
def readPred (n : BitVec 3) : M Bool := do
  if n = 0 then return true
  hazard (64 + n.toNat)
  return (← getHere).pred n.toNat

/-- The guard of a word (R44). -/
def guardOk (h : Hdr) : M Bool := do
  return (← readPred h.pred) != (h.neg == 1)

/-- A guarded instruction of `len` bytes: privilege, guard, execution (R47); the body answers a transfer's target. -/
def run (priv : M Unit) (h : Hdr) (len : Nat) (body : M (Option (BitVec 56))) (s : State) : Out :=
  close h.stall len s ((do
    priv
    if ← guardOk h then body else return none : M (Option (BitVec 56))) s)
/-- A guarded one-word instruction that makes no transfer. -/
def runU (priv : M Unit) (h : Hdr) (body : M Unit) (s : State) : Out := run priv h 8 (do body; return none) s
/-- An unguarded instruction with a stall count only. -/
def runS (stall : BitVec 4) (len : Nat) (body : M (Option (BitVec 56))) (s : State) : Out := close stall len s (body s)

/-! ### Streams as operands (R43, R341, R343) -/

/-- Field of a pattern record. -/
def recBits (r : List Word) (i lo n : Nat) : Nat := bits (r.getD i 0) lo n
/-- Number of elements of a pattern (R336). -/
def recCount (r : List Word) : Nat :=
  let nd := recBits r 1 10 2
  let e (k : Nat) : Nat := if k ≤ nd then recBits r (2 + k) 0 24 else 1
  e 0 * e 1 * e 2 * e 3

/-- Whether a queued AMATCH holds stream `z`; one that has stopped does not (R271). -/
def Strand.lent (st : Strand) (z : Nat) : Bool :=
  (if st.astop.isSome then st.queue.tail else st.queue).any fun e => match e.op with | .amatch _ _ k => k == z | _ => false

/-- Stream `z` of the running strand, with the checks every access makes: bound in the wanted direction (R43), elements
left (R341), no failure to deliver (R343). -/
def streamFor (z : Nat) (out : Bool) : M Stream := do
  let st ← getHere
  if st.lent z then waitM
  match Tab.find st.streams z with
  | none => trapI .stream 1 (BitVec.ofNat 64 z)
  | some x =>
    if x.out != out then trapI .stream 1 (BitVec.ofNat 64 z)
    else if recCount x.record ≤ x.next then trapI .stream 2 (BitVec.ofNat 64 z)
    else match x.fail with
      | some (c, sub, val) =>
        if x.buf.isEmpty || out then
          modHere fun st => { st with streams := Tab.insert st.streams z { x with fail := none } }
          trapC c sub val
        else return x
      | none => return x

/-- Takes the next element of an input stream (R43, R341). -/
def takeElem (z : Nat) : M Word := do
  let x ← streamFor z false
  match x.buf with
  | [] => waitM
  | v :: rest =>
    modHere fun st => { st with streams := Tab.insert st.streams z { x with next := x.next + 1, buf := rest } }
    return v

/-- Checks that an output stream takes one more element: 64 are buffered at most (R43, R341). -/
def roomFor (z : Nat) : M Unit := do
  let x ← streamFor z true
  if 64 ≤ x.buf.length then waitM

/-- Enqueues one element (R43, R341). -/
def putElem (z : Nat) (v : Word) : M Unit := do
  let x ← streamFor z true
  modHere fun st => { st with streams := Tab.insert st.streams z { x with next := x.next + 1, buf := x.buf ++ [v] } }

/-! ### Reading operands -/

/-- The checks of a stream that wait for nothing; those of a lent one come when it is back (R43, R271, R341). -/
def checkOpen (z : Nat) (out : Bool) : M Unit := do
  if !(← getHere).lent z then let _ ← streamFor z out
/-- Checks of a source before anything is taken or waited for: distance, or stream binding (R54, R43). -/
def checkSrc (c : BitVec 6) : M Unit :=
  if c.toNat < 48 then checkShort c.toNat else checkOpen (c.toNat - 48) false
/-- What a source is waited for whatever its value: a tree operation's result, or a stream lent to the groups (R271,
R445). -/
def checkLanded (c : BitVec 6) : M Unit :=
  if c.toNat < 48 then landed c.toNat else do let _ ← streamFor (c.toNat - 48) false
/-- Stream binding of a destination (R43). -/
def checkOut (c : BitVec 6) : M Unit := if c.toNat < 48 then pure () else checkOpen (c.toNat - 48) true
/-- Checks of a destination: a stream must take an element. -/
def checkDst (c : BitVec 6) : M Unit := if c.toNat < 48 then pure () else roomFor (c.toNat - 48)
/-- A poisoned source of a waiting use traps (R197). -/
def checkPoison (c : BitVec 6) : M Unit := do
  let st ← getHere
  if c.toNat < 48 && (Tab.find st.outs c.toNat).isNone then
    match st.reg c.toNat with
    | .poison .timeout => trapI .symTimeout 0 (c.setWidth 64)
    | .poison .data => trapI .poisonUse 1 (c.setWidth 64)
    | .poison .failed => trapI .poisonUse 3 (c.setWidth 64)
    | _ => return ()
/-- A symbolic source of a waiting use waits (R197). -/
def checkSym (c : BitVec 6) : M Unit := do
  if c.toNat < 48 then
    match (← getHere).reg c.toNat with
    | .aff .. => waitM .symbol
    | .flt .. => waitM .symbol
    | _ => return ()
/-- The checks of a waiting use over all its sources and its destinations: a poisoned source is not waited with (R43, R54,
R197). -/
def ready (srcs dsts : List (BitVec 6)) : M Unit := do
  srcs.forM checkSrc
  dsts.forM checkOut
  srcs.forM checkPoison
  srcs.forM checkLanded
  dsts.forM checkDst
  srcs.forM checkSym
/-- The value of a source that the checks have passed: a concrete register or the next stream element. -/
def takeVal (c : BitVec 6) : M Word := do
  if c.toNat < 48 then
    match (← getHere).reg c.toNat with
    | .conc v => return v
    | _ => return 0
  else takeElem (c.toNat - 48)
/-- One concrete source. -/
def read1 (a : BitVec 6) (dsts : List (BitVec 6)) : M Word := do
  ready [a] dsts
  takeVal a
/-- Two concrete sources, read in order (R43). -/
def read2 (a b : BitVec 6) (dsts : List (BitVec 6)) : M (Word × Word) := do
  ready [a, b] dsts
  let x ← takeVal a
  let y ← takeVal b
  return (x, y)
/-- Three concrete sources, read in order (R43). -/
def read3 (a b c : BitVec 6) (dsts : List (BitVec 6)) : M (Word × Word × Word) := do
  ready [a, b, c] dsts
  let x ← takeVal a
  let y ← takeVal b
  let z ← takeVal c
  return (x, y, z)
/-- A source as it stands, for the instructions that fold (R194). -/
def takeSVal (c : BitVec 6) : M SVal := do
  if c.toNat < 48 then return (← getHere).reg c.toNat
  else return .conc (← takeElem (c.toNat - 48))

/-! ### Writing results -/

/-- A fixed-latency result (R54): s0 discards, a stream takes it at once. -/
def writeFix (d : BitVec 6) (lat : Nat) (v : SVal) : M Unit := do
  if d = 0 then return ()
  if d.toNat < 48 then
    modHere fun st => { st with pend := st.pend ++ [⟨d.toNat, v, lat, false, none⟩] }
  else match v with
    | .conc x => putElem (d.toNat - 48) x
    | _ => waitM .symbol
/-- A floating-point result with its flags, which land with it (R136): s0 takes the flags alone, a stream takes the result
at once. `lock`: its reader interlocks (R55). -/
def writeFloat (d : BitVec 6) (lat : Nat) (lock : Bool) (v : SVal) (flags : Word) : M Unit :=
  if d.toNat < 48 then
    modHere fun st => { st with pend := st.pend ++ [⟨d.toNat, v, lat, lock, some flags⟩] }
  else match v with
    | .conc x => do
      putElem (d.toNat - 48) x
      modHere fun st => { st with fpcsr := st.fpcsr ||| flags }
    | _ => waitM .symbol
/-- A fixed-latency predicate result (R54). -/
def writePred (n : BitVec 3) (lat : Nat) (b : Bool) : M Unit := do
  if n = 0 then return ()
  modHere fun st => { st with pend := st.pend ++ [⟨64 + n.toNat, .conc (if b then 1 else 0), lat, false, none⟩] }
/-- A predicate result of a floating-point compare with its flags (R136, R140). -/
def writeFloatPred (n : BitVec 3) (lat : Nat) (b : Bool) (flags : Word) : M Unit :=
  modHere fun st => { st with
    pend := st.pend ++ [⟨if n = 0 then 0 else 64 + n.toNat, .conc (if b then 1 else 0), lat, false, some flags⟩] }
/-- Drops pending writes that a variable-latency result to the same register replaces; their flags land (R55, R56,
R136). -/
def Strand.forget (st : Strand) (code : Nat) : Strand :=
  { st with
    fpcsr := (st.pend.filter fun p => p.code == code).foldl (fun w p => w ||| p.flags.getD 0) st.fpcsr
    pend := st.pend.filter fun p => p.code != code
    outs := Tab.erase st.outs code }
/-- A variable-latency result: readers stall until it is there (R55). -/
def writeVar (d : BitVec 6) (v : SVal) : M Unit := do
  if d = 0 then return ()
  if d.toNat < 48 then modHere fun st => (st.forget d.toNat).setReg d.toNat v
  else match v with
    | .conc x => putElem (d.toNat - 48) x
    | _ => return ()
/-- A variable-latency concrete result. -/
def writeVal (d : BitVec 6) (v : Word) : M Unit := writeVar d (.conc v)
/-- A variable-latency predicate result (R206). -/
def writePredVar (n : BitVec 3) (b : Bool) : M Unit := do
  if n = 0 then return ()
  modHere fun st => (st.forget (64 + n.toNat)).setPred n.toNat b

/-! ### Symbols (R189) -/

/-- The lowest free entry below `n + k`, from `k` on. -/
def freeSymGo (t : Tab Sym) : Nat → Nat → Option Nat
  | 0, _ => none
  | n + 1, k => if (Tab.find t k).isNone then some k else freeSymGo t n (k + 1)
/-- The lowest-numbered free entry (R189). -/
def Strand.freeSym (st : Strand) : Option Nat := freeSymGo st.syms 32 0
/-- Allocates a symbol for destination `d`, which becomes symbolic; waits for a free entry, and s0 allocates none
(R189). -/
def allocSym (d : BitVec 6) (x : Sym) : M Unit := do
  if d = 0 then return ()
  let st ← getHere
  match st.freeSym with
  | none => do
    modHere fun st => { st with waitfree := true }
    waitM
  | some k =>
    modHere fun st => ({ st with syms := Tab.insert st.syms k x }.forget d.toNat).setReg d.toNat (.aff k 1 0)

end Sys2Proof.Machine
end

