-- ==== Sys2Proof/Machine/Mem.lean ====
section
/-!
DEFINITION. Shared operations over memory: the physical map (18 R464 to R466), reliability and charging (18 R468 to
R477), translation and the checks of every access (05 R158, R177 to R179; 01 R28, R29, R33), caches (05 R181, 18 R480),
peers and host (05 R182, 18 R489 to R491), pennant gates (05 R172), and the strand's own loads, stores and atomics.
-/
namespace Sys2Proof.Machine

/-- Why an access of an agent does not complete: a cause with subcode and EVAL, or it is held. -/
inductive AStop where
  | fault (code sub : BitVec 8) (val : Word)
  | hold (w : Wait)
  deriving DecidableEq, Repr

/-- Steps of an agent's access. -/
abbrev A := EStateM AStop State

/-- Who makes an access (R65, R158): the context charged and translated for, die, cluster, supervisor mode, whether it
counts as an engine at owner bits, SOURCE of the log, who waits for a remote answer, whether it reads again what it
has read, which meets no second event (R473), and how its stores use the die L2. -/
structure Who where
  ctx : Option Nat
  die : Nat
  cluster : Nat
  sup : Bool
  engine : Bool
  src : BitVec 8
  asker : Asker
  again : Bool
  l2 : L2Use
  deriving DecidableEq, Repr

/-- Kind of an access for the W and X checks (R158). -/
inductive Acc where
  | rd | wr | fetch
  deriving DecidableEq, Repr

/-- A failed access. -/
def failA {α : Type} (c : Cause) (sub : BitVec 8) (val : Word) : A α := throw (.fault c.code sub val)

/-- An agent's access made by a strand: a fault is precise, a hold is a wait (R158, R107). -/
def liftA {α : Type} (x : A α) : M α := fun s =>
  match x s with
  | .ok a s => .ok a s
  | .error (.fault c sub v) s => .error (.trap ⟨c, sub, v, .instr, false⟩) s
  | .error (.hold w) s => .error (.wait w) s

/-! ### Physical map -/

/-- First address past the HBM4 frames (R464). -/
def hbmEnd : Nat := 768 * 2 ^ 30
/-- Capacity tier (R464). -/
def capBase : Nat := 0x100000000000
/-- First address past the capacity tier. -/
def capEnd : Nat := 0x120000000000
/-- Management range (R464, R486). -/
def mgmtBase : Nat := 0x200000000000
/-- Host window (R464). -/
def hostBase : Nat := 0x300000000000
/-- Key of a die scratchpad's bytes in `mem`. -/
def scratchKey (die off : Nat) : Nat := 2 ^ 52 + die * 2 ^ 25 + off

/-- Usable bytes of a frame of a class (R467). -/
def usableBytes (cls : BitVec 2) : Nat := (if cls = 0 then 1024 else if cls = 1 then 960 else 896) * 2 ^ 20
/-- Frame class table entry. -/
def State.frame (s : State) (f : Nat) : Frame := Tab.get Frame.reset s.frames f

/-- Where a physical address lands, or the UNBACKED subcode (R464, R466, Table 18.2). -/
def State.placeOf (s : State) (pa : Nat) : Except (BitVec 8) Place :=
  let dev := pa / 2 ^ 46
  let lo := pa % 2 ^ 46
  if dev ≠ 0 && dev ≠ s.mgmt.devno.toNat then
    if (Tab.get 0 s.windows dev).getLsbD 3 then .ok (.peer dev lo) else .error 4
  else if lo < hbmEnd then
    let f := s.frame (lo / 2 ^ 30)
    if usableBytes f.cls ≤ lo % 2 ^ 30 then .error 1
    else if f.promo then .error 2
    else .ok (.mem lo)
  else if capBase ≤ lo && lo < capEnd then .ok (.mem lo)
  else if mgmtBase ≤ lo && lo < mgmtBase + 0x80000 then .ok (.mgmt (lo - mgmtBase))
  else if hostBase ≤ lo then .ok (.host (lo - hostBase))
  else .error 3

/-- World bit of the frame a local address lies in (R33). -/
def State.worldOf (s : State) (pa : Nat) : Bool :=
  let dev := pa / 2 ^ 46
  (dev == 0 || dev == s.mgmt.devno.toNat) && pa % 2 ^ 46 < hbmEnd && (s.frame (pa % 2 ^ 46 / 2 ^ 30)).world

/-- Whether a strand may make an access to the management range (R486). -/
def mgmtOpen (acc : Acc) (off : Nat) : Bool :=
  match acc with
  | .wr => 0x10000 ≤ off && off < 0x20000
  | _ => off < 0x1000 || (0x10000 ≤ off && off < 0x40000)

/-- Class of the line at a local address: the capacity tier is class P, and a promoted page has the class of the pool
frame that holds its copy (R465, R468, R482). -/
def State.lineClass (s : State) (pa : Nat) : BitVec 2 :=
  if pa < hbmEnd then (s.frame (pa / 2 ^ 30)).cls
  else match Tab.find s.promoted (pa / 65536) with
    | some f => (s.frame f).cls
    | none => 2

/-! ### Budgets and the log -/

/-- An event becomes pending unless one of its cause already is (R106). -/
def pendEvent (old : Option Word) (v : Word) : Option Word := match old with | some w => some w | none => some v

/-- Makes EBUDGET_EXHAUSTED pending on every strand of a context; its suspended items take it when resumed, those not yet
dispatched when dispatched (R474). -/
def State.raiseBudget (s : State) (c : Nat) (v : Word) : State :=
  { s with
    strands := s.strands.map fun (n, st) =>
      (n, if st.item.isSome && st.ctx == c then { st with events := { st.events with ebudget := pendEvent st.events.ebudget v } }
          else st)
    susp := s.susp.map fun x => if x.item.ctx == c then { x with owed := pendEvent x.owed v } else x
    launches := s.launches.map fun (id, l) =>
      (id, if l.ctx == c && l.status.isNone then { l with owed := pendEvent l.owed v } else l) }

/-- Charges one event to a context's counter (R474). -/
def State.charge (s : State) (ctx : Option Nat) (det : Bool) : State :=
  match ctx with
  | none => s
  | some c =>
    match Tab.find s.ctxs c with
    | none => s
    | some x =>
      let n := if det then x.ebdet else x.ebcorr
      if n = 0xFFFFFFFFFFFFFFFF || n = 0 then s
      else
        let done := n - 1 == 0
        let x := if det then { x with ebdet := n - 1, spentDet := x.spentDet || done }
          else { x with ebcorr := n - 1, spentCorr := x.spentCorr || done }
        let s := s.setCtx c x
        if done then s.raiseBudget c (if det then 1 else 0) else s

/-- Writes a log record; a record of KIND 2 or 3 raises MSI-X vector 0 (R476, R477). -/
def State.logEvent (s : State) (pa : Nat) (ctx : Option Nat) (src unit kind : BitVec 8) : State :=
  let seq := s.mgmt.logseq + 1
  let r : LogRec := ⟨seq, BitVec.ofNat 52 pa, match ctx with | some c => BitVec.ofNat 16 c | none => 0xFFFF, src, unit, kind, s.cycle⟩
  { s with
    mgmt := { s.mgmt with logseq := seq }
    log := Tab.insert s.log ((seq - 1).toNat % 4096) r
    out := if kind = 1 then s.out else s.out ++ [.msix 0] }

/-- UNIT of a memory line: its stack, or 12 for the capacity tier (R465, Table 18.5). -/
def unitOf (pa : Nat) : BitVec 8 := if pa < hbmEnd then BitVec.ofNat 8 (pa / 4096 % 12) else 12

/-- A corrected or detected event on a memory line, charged and logged (R473 to R476); of an inbound request `die` is the
port. One line met by one access is one event (R473). -/
def State.lineEvent (s : State) (w : Who) (line : Nat) (det : Bool) : State :=
  if w.again then s else
  let pa := line * 64
  let s := (s.charge w.ctx det).logEvent pa w.ctx w.src (if w.src = 6 then BitVec.ofNat 8 w.die else unitOf pa)
    (if det then 2 else 1)
  if det || hbmEnd ≤ pa then s
  else
    let k := pa / 4096 % 12
    { s with sliceCorr := Tab.put 0 s.sliceCorr k (Tab.get 0 s.sliceCorr k + 1) }

/-! ### Reliability of lines (R468) -/

/-- Flips bit `i` of the line. -/
def flipBit (m : Memory) (line i : Nat) : Memory :=
  let a := line * 64 + i / 8
  Memory.setByte m a (Memory.byte m a ^^^ ((1 : Byte) <<< (i % 8)))

/-- Whether injected errors stay in one 16-bit symbol (R468). -/
def oneSymbol : List Nat → Bool
  | [] => true
  | i :: is => is.all fun j => j / 16 == i / 16

/-- Reads one 64-byte line through its checker: answers whether it is uncorrectable (R468). Memory lists the good data and
`flips` the stored bits that differ from it; of an uncorrectable line memory lists the bits as delivered (R470). -/
def readLine (w : Who) (line : Nat) (s : State) : Bool × State :=
  if s.poisoned.contains line then (true, s.lineEvent w line true)
  else
    match Tab.find s.flips line with
    | none => (false, s)
    | some fs =>
      let s := { s with flips := Tab.erase s.flips line }
      if fs.isEmpty then (false, s)
      else if s.lineClass (line * 64) = 2 && oneSymbol fs then
        (false, s.lineEvent w line false)
      else
        let s := { s with mem := fs.foldl (fun m i => flipBit m line i) s.mem }
        if s.lineClass (line * 64) == 0 then (false, s)
        else (true, { s with poisoned := s.poisoned ++ [line] }.lineEvent w line true)

/-- Reads lines in order; answers the address of the first uncorrectable one. -/
def readLines (w : Who) : Nat → Nat → State → Option Nat × State
  | 0, _, s => (none, s)
  | n + 1, line, s =>
    let (bad, s) := readLine w line s
    let (rest, s) := readLines w n (line + 1) s
    (if bad then some (line * 64) else rest, s)

/-- Lines touched by `n` bytes at `pa`. -/
def lineCount (pa n : Nat) : Nat := if n = 0 then 0 else (pa + n - 1) / 64 - pa / 64 + 1

/-- Checks the lines of `n` bytes at local address `pa` (R468). -/
def checkLines (w : Who) (pa n : Nat) : A (Option Nat) := fun s =>
  let (b, s) := readLines w (lineCount pa n) (pa / 64) s
  .ok b s

/-! ### What lies below the caches (DESIGN CHOICE log 8) -/

/-- Remembers, before a store, the byte below the caches. -/
def noteOld (m : Memory) (old : Tab Byte) (a : Nat) : Nat → Tab Byte
  | 0 => old
  | n + 1 => noteOld m (if (Tab.find old a).isNone then Tab.insert old a (Memory.byte m a) else old) (a + 1) n

/-- A write to a pool page by another path than its unit: whether it touches a node in use is open (R438). -/
def State.touchPool (s : State) (pa : Nat) : State :=
  if s.regions.any fun p => p.2.pages.contains (pa / 65536) then
    { s with
      free := s.free + 1
      regions := s.regions.map fun (k, r) =>
        (k, if r.pages.contains (pa / 65536) && (Config.freeBits s.free).getLsbD 0 then { r with bad := true } else r) }
  else s

/-- The errors a line has. -/
def State.lineErr (s : State) (line : Nat) : Option LineErr :=
  let e : LineErr := ⟨s.poisoned.contains line, Tab.find s.flips line⟩
  if e = ⟨false, none⟩ then none else some e
/-- A line without errors. -/
def State.cleanLine (s : State) (line : Nat) : State :=
  { s with poisoned := s.poisoned.filter (· != line), flips := Tab.erase s.flips line }
/-- The errors below the caches are those of the line again. -/
def State.putErr (s : State) (line : Nat) (e : LineErr) : State :=
  let t := s.cleanLine line
  { t with
    poisoned := if e.poisoned then t.poisoned ++ [line] else t.poisoned
    flips := match e.flips with | some fs => Tab.insert t.flips line fs | none => t.flips }
/-- Entries of a table from key `lo` below `hi`. -/
def Tab.within {α : Type} (t : Tab α) (lo hi : Nat) : Tab α := t.filter fun p => lo ≤ p.1 && p.1 < hi
/-- The other entries. -/
def Tab.without {α : Type} (t : Tab α) (lo hi : Nat) : Tab α := t.filter fun p => !(lo ≤ p.1 && p.1 < hi)
/-- Adds entries where a table has none. -/
def Tab.under {α : Type} (t new : Tab α) : Tab α :=
  new.foldl (fun o c => if (Tab.find o c.1).isNone then Tab.insert o c.1 c.2 else o) t

/-- Writes back what die L2s hold of the lines from `lo` below `hi` (R181). -/
def State.cleanL2 (s : State) (lo hi : Nat) : State :=
  { s with
    l2old := s.l2old.without lo hi
    mscOld := s.mscOld.under (s.l2old.within lo (Nat.min hi hbmEnd))
    l2bad := s.l2bad.without (lo / 64) (hi / 64)
    mscBad := s.mscBad.under (s.l2bad.within (lo / 64) (Nat.min hi hbmEnd / 64)) }
/-- Drops dirty data the die L2s hold of a range (R181): what lies below has its errors again (R468). -/
def State.dropL2 (s : State) (lo hi : Nat) : State :=
  (s.l2bad.within (lo / 64) (hi / 64)).foldl (fun s p => s.putErr p.1 p.2)
    { s with
      l2old := s.l2old.without lo hi
      l2bad := s.l2bad.without (lo / 64) (hi / 64)
      mem := (s.l2old.within lo hi).foldl (fun m c => Memory.setByte m c.1 c.2) s.mem }
/-- Writes back what the memory-side slices hold of a range (R480). -/
def State.cleanMsc (s : State) (lo hi : Nat) : State :=
  { s with mscOld := s.mscOld.without lo hi, mscBad := s.mscBad.without (lo / 64) (hi / 64) }
/-- Drops dirty data the slices hold of a range (R480): what lies below, with its errors (R468), is what a read brings, or
what lies below dirty data of a die L2. -/
def State.dropMsc (s : State) (lo hi : Nat) : State :=
  let held (line : Nat) : Bool := s.l2old.any fun c => c.1 / 64 == line
  let t := (s.mscOld.within lo hi).foldl (fun s c =>
    if (Tab.find s.l2old c.1).isSome then { s with l2old := Tab.insert s.l2old c.1 c.2 }
    else { s with mem := Memory.setByte s.mem c.1 c.2 })
    { s with mscOld := s.mscOld.without lo hi, mscBad := s.mscBad.without (lo / 64) (hi / 64) }
  (s.mscBad.within (lo / 64) (hi / 64)).foldl (fun s p =>
    if held p.1 then { s with l2bad := Tab.insert s.l2bad p.1 p.2 } else s.putErr p.1 p.2) t

/-- Whether a store finds or makes a line of the die L2 for its bytes, with the state after the choice: one that allocates
does; STX and a page with NC do not on a miss, and a hit there is open, but for a page with NC where no die L2 can hold the
line dirty (R157, R177; DESIGN CHOICE log 8). -/
def State.l2Takes (s : State) (use : L2Use) (pa : Nat) : Bool × State :=
  if use = .alloc then (true, s)
  else if use = .nc && !(s.l2old.any fun c => c.1 / 128 == pa / 128) then (false, s)
  else ((Config.freeBits s.free).getLsbD 0, { s with free := s.free + 1 })
/-- Plain storage of bytes of one line in module memory, through the die L2 or past it. -/
def State.storeMem (s : State) (use : L2Use) (pa : Nat) (bs : List Byte) : State :=
  let (hit, s) := s.l2Takes use pa
  let s := if hit then s else s.cleanL2 (pa / 128 * 128) (pa / 128 * 128 + 128)
  { s with
    l2old := if hit then noteOld s.mem s.l2old pa bs.length else s.l2old
    mscOld := if hit || hbmEnd ≤ pa then s.mscOld else noteOld s.mem s.mscOld pa bs.length
    mem := Memory.setBytes s.mem pa bs }.touchPool pa
/-- A store of all 64 bytes replaces the errors of a line; what lies below the caches keeps them (R468, R470, R480). -/
def State.overwrite (s : State) (use : L2Use) (pa : Nat) (bs : List Byte) : State :=
  let line := pa / 64
  match s.lineErr line with
  | none => s.storeMem use pa bs
  | some e =>
    let t := (s.cleanLine line).storeMem use pa bs
    if t.l2old.any fun c => c.1 / 64 == line then { t with l2bad := t.l2bad.under [(line, e)] }
    else if hbmEnd ≤ pa then t else { t with mscBad := t.mscBad.under [(line, e)] }

/-- A store of part of one line, whose new bytes may depend on the `n` it covers: encoding reads the line of a checked class,
and the store is performed on the bits it delivers (R468, R470). -/
def updateLine (w : Who) (pa n : Nat) (f : List Byte → List Byte) (s : State) : State :=
  let s := if s.lineClass pa = 0 then s else (readLine w (pa / 64) s).2
  s.storeMem w.l2 pa (f (Memory.bytes s.mem pa n))
/-- A store of part or all of one line: a store of all 64 bytes replaces a poisoned line (R468, R470). -/
def storeLine (w : Who) (pa : Nat) (bs : List Byte) (s : State) : State :=
  if bs.length = 64 then s.overwrite w.l2 pa bs
  else updateLine w pa bs.length (fun _ => bs) s

/-- Stores bytes line by line; `fuel` bounds the lines. -/
def storeLines (w : Who) : Nat → Nat → List Byte → State → State
  | 0, _, _, s => s
  | fuel + 1, pa, bs, s =>
    if bs.isEmpty then s
    else
      let k := 64 - pa % 64
      storeLines w fuel (pa + k) (bs.drop k) (storeLine w pa (bs.take k) s)

/-! ### Arrays in storage mode (R28, R234) -/

/-- Byte `j` of a group row: columns 8j to 8j + 7. -/
def rowByte (r : BitVec 1024) (j : Nat) : Byte := r.extractLsb' (8 * j) 8
/-- Writes byte `j` of a row. -/
def setRowByte (r : BitVec 1024) (j : Nat) (b : Byte) : BitVec 1024 :=
  (r &&& ~~~((0xFF : BitVec 1024) <<< (8 * j))) ||| (b.setWidth 1024 <<< (8 * j))
/-- A group row. -/
def Group.row (g : Group) (r : Nat) : BitVec 1024 := Tab.get 0 g.rows r
/-- Writes a group row. -/
def Group.setRow (g : Group) (r : Nat) (v : BitVec 1024) : Group := { g with rows := Tab.put 0 g.rows r v }
/-- Bytes of a group's arrays from byte offset `off` (128 bytes a row). -/
def Group.getBytes (g : Group) (off : Nat) : Nat → List Byte
  | 0 => []
  | n + 1 => rowByte (g.row (off / 128)) (off % 128) :: g.getBytes (off + 1) n
/-- Stores bytes into a group's arrays. -/
def Group.setBytes (g : Group) (off : Nat) : List Byte → Group
  | [] => g
  | b :: bs => (g.setRow (off / 128) (setRowByte (g.row (off / 128)) (off % 128) b)).setBytes (off + 1) bs

/-- Clears the parity errors of the parity groups that `n` 4-byte words from word `k` cover whole (R221, DEDUCED log 16). -/
def Group.cleanWords (g : Group) : Nat → Nat → Group
  | 0, _ => g
  | n + 1, k =>
    { g with parity := Tab.put 0 g.parity (k / 32) (Tab.get 0 g.parity (k / 32) &&& ~~~((1 : BitVec 32) <<< (k % 32))) }.cleanWords
      n (k + 1)
/-- A store through the window: bytes, and the parity groups they cover whole. -/
def Group.store (g : Group) (off : Nat) (bs : List Byte) : Group :=
  let lo := (off + 3) / 4
  (g.setBytes off bs).cleanWords ((off + bs.length) / 4 - lo) lo
/-- Class of the kernel that holds a group (R221). -/
def State.groupCls (s : State) (g : Nat) : BitVec 2 :=
  match (s.group g).holder with | some n => (s.strand n).kclass | none => 0
/-- A store to array bytes: in class P both copies receive it (R221, R234). -/
def State.storeArr (s : State) (g off : Nat) (bs : List Byte) : State :=
  let x := (s.group g).store off bs
  s.setGroup g (if s.groupCls g = 2 then x.store (off + 2 ^ 22) bs else x)

/-! ### Management range (R486) -/

/-- Value of a management register (Table 18.6). -/
def Mgmt.reg (m : Mgmt) (off : Nat) : Word :=
  if off = 0x00 then m.state.setWidth 64 else if off = 0x08 then m.devno.setWidth 64
  else if off = 0x10 then m.mboxseq else if off = 0x18 then m.hrbase
  else if off = 0x20 then m.hrcnt.setWidth 64 else if off = 0x28 then m.hrtail
  else if off = 0x30 then m.hrhead else if off = 0x38 then m.logseq else 0
/-- The four words of a log record (Table 18.5). -/
def LogRec.word (r : LogRec) (i : Nat) : Word :=
  if i = 0 then r.seq
  else if i = 1 then r.pa.setWidth 64
  else if i = 2 then (r.ctx.setWidth 64 <<< 48) ||| (r.source.setWidth 64 <<< 40) ||| (r.unit.setWidth 64 <<< 32)
    ||| (r.kind.setWidth 64 <<< 24)
  else r.cycle
/-- One byte of the management range. -/
def State.mgmtByte (s : State) (off : Nat) : Byte :=
  if off < 0x1000 then (s.mgmt.reg (off / 8 * 8)).extractLsb' (off % 8 * 8) 8
  else if 0x10000 ≤ off && off < 0x20000 then Memory.byte s.mem (mgmtBase + off)
  else if 0x20000 ≤ off && off < 0x40000 then
    match Tab.find s.log ((off - 0x20000) / 32) with
    | some r => (r.word (off % 32 / 8)).extractLsb' (off % 8 * 8) 8
    | none => 0
  else 0
/-- Bytes of the management range. -/
def State.mgmtBytes (s : State) (off : Nat) : Nat → List Byte
  | 0 => []
  | n + 1 => s.mgmtByte off :: s.mgmtBytes (off + 1) n

/-! ### What held groups may not see yet (R76, DESIGN CHOICE log 6) -/

/-- A strand whose stores are performed for its groups as for every agent. -/
def Strand.performed (st : Strand) : Strand := { st with unseen := [] }
/-- The stores of strand `n` are performed for its groups as for every agent. -/
def State.seen (s : State) (n : Nat) : State :=
  if (s.strand n).unseen.isEmpty then s else s.setStrand n (s.strand n).performed
/-- The stores of every strand but the one kept are performed for its groups too. -/
def State.alone (s : State) (keep : Option Nat) : State :=
  { s with strands := s.strands.map fun (n, st) => (n, if keep = some n then st else st.performed) }
/-- A store that strand `n` is about to make to module memory: its groups may see it later (R76), where its lines have no
errors. -/
def State.noteUnseen (s : State) (n : Nat) (pl : Place) (k : Nat) : State :=
  match pl with
  | .mem pa =>
    if (List.range (lineCount pa k)).any fun i => (s.lineErr (pa / 64 + i)).isSome then s.seen n
    else if s.groups.any fun p => p.2.holder == some n then
      s.setStrand n { s.strand n with unseen := noteOld s.mem (s.strand n).unseen pa k }
    else s
  | _ => s
/-- What a group reads of module memory, of which `bs` is what stands there: it may read what lies below stores of its strand,
where `may` allows it, until it has seen them. -/
def groupSees (w : Who) (pa : Nat) (bs : List Byte) (may : List Byte → Bool) : A (List Byte) := do
  match w.asker with
  | .group n =>
    let s ← get
    let u := (s.strand n).unseen
    let old := bs.zipIdx.map fun (b, i) => (Tab.find u (pa + i)).getD b
    if (List.range bs.length).any fun i => (Tab.find u (pa + i)).isSome then
      if may old && (Config.freeBits s.free).getLsbD 0 then
        set { s with free := s.free + 1 }
        return old
      else
        set ({ s with free := s.free + 1 }.seen n)
        return bs
    else return bs
  | _ => return bs

/-! ### Translation -/

/-- The fields of a page-table entry (Table 5.10). -/
def pteV (e : Word) : Bool := e.getLsbD 0
/-- LEAF. -/
def pteLeaf (e : Word) : Bool := e.getLsbD 1
/-- KIND. -/
def pteKind (e : Word) : BitVec 2 := e.extractLsb' 2 2
/-- PA[51:16]. -/
def ptePa (e : Word) : Nat := bits e 16 36

/-- One table read of a walk (R178); an entry in a secure frame is not read for a non-secure context (R33, R496; DEDUCED
log 92). A group may find an entry as it was before its strand made it valid (R364). -/
def readTable (w : Who) (pa : Nat) (va : Word) : A Word := do
  let s ← get
  match s.placeOf pa with
  | .ok (.mem lo) =>
    if s.worldOf lo && !(s.ctxOf (w.ctx.getD 0)).sec then failA .world 0 va
    match ← checkLines w lo 8 with
    | some bad => failA .uncorrectable 0 (BitVec.ofNat 64 bad)
    | none =>
      let bs ← groupSees w lo (Memory.bytes (← get).mem lo 8) fun old => leNat old % 2 == 0
      return BitVec.ofNat 64 (leNat bs)
  | _ => failA .xlate 6 va

/-- The walk (R178): the entry, the address it was read from, and whether it is a block. -/
def walk (w : Who) (root va : Word) : A Tlb := do
  let c := w.ctx.getD 0
  let e ← readTable w (root.toNat % 2 ^ 52 + 8 * bits va 42 14) va
  if !pteV e then failA .xlate 1 va
  if pteLeaf e || bits e 2 14 ≠ 0 then failA .xlate 2 va
  let at1 := ptePa e * 2 ^ 16 + 8 * bits va 29 13
  let e ← readTable w at1 va
  if !pteV e then failA .xlate 1 va
  if pteLeaf e then
    if bits e 16 13 ≠ 0 then failA .xlate 2 va
    return ⟨c, bits va 29 27 * 2 ^ 29, true, e, at1⟩
  if bits e 2 14 ≠ 0 then failA .xlate 2 va
  let at2 := ptePa e * 2 ^ 16 + 8 * bits va 16 13
  let e ← readTable w at2 va
  if !pteV e then failA .xlate 1 va
  if !pteLeaf e || bits e 14 2 ≠ 0 then failA .xlate 2 va
  return ⟨c, bits va 16 40 * 2 ^ 16, false, e, at2⟩

/-- Whether a kept translation covers an address. -/
def Tlb.covers (t : Tlb) (c : Nat) (va : Word) : Bool :=
  t.ctx == c && t.page == (if t.big then bits va 29 27 * 2 ^ 29 else bits va 16 40 * 2 ^ 16)
/-- Physical address under a translation. -/
def Tlb.phys (t : Tlb) (va : Word) : Nat :=
  if t.big then bits t.pte 29 23 * 2 ^ 29 + bits va 0 29 else ptePa t.pte * 2 ^ 16 + bits va 0 16

/-- A of an entry, and D for a write (R179). -/
def adBits (write : Bool) : Word := 0x100 ||| (if write then 0x200 else 0)
/-- Whether the use of a translation leaves its entry in memory as it is (R179). -/
def Tlb.settled (t : Tlb) (write : Bool) : Bool := t.pte &&& adBits write == adBits write
/-- Keeps a translation, with A and, for a write, D set in the entry in memory (R179): an 8-byte store to its line (R464,
R468). -/
def keepTlb (w : Who) (t : Tlb) (write : Bool) (s : State) : State :=
  let d := s.die w.die
  let rest := d.tlb.filter fun x => !(x.ctx == t.ctx && x.page == t.page && x.big == t.big)
  let s := s.setDie w.die { d with tlb := { t with pte := t.pte ||| adBits write } :: rest }
  if t.settled write then s
  else
    updateLine w (t.loc % 2 ^ 46) 8 (fun bs => leBytes (BitVec.ofNat 64 (leNat bs) ||| adBits write).toNat 8) s

/-- The lowest pool frame with a free 64 KiB (R482). -/
def State.poolFrame (s : State) : Option Nat :=
  s.frames.findSome? fun p =>
    let used := (s.promoted.filter fun q => q.2 == p.1).length + (s.promoting.filter fun q => q.2.frame == p.1).length
    if p.2.promo && used < usableBytes p.2.cls / 65536 then some p.1 else none
/-- Starts the promotion of a capacity-tier page, unless it is promoted already or the pool is full (R356, R482). -/
def State.promote (s : State) (page : Nat) (deadline : Option Word) (ctx : Option Nat)
    (owner : Option (Nat × Nat × BitVec 32)) : Option State :=
  if (Tab.find s.promoted page).isSome || (Tab.find s.promoting page).isSome then none
  else (s.poolFrame).map fun f => { s with promoting := Tab.insert s.promoting page ⟨f, deadline, ctx, owner⟩ }
/-- An access through a TIER of 11 to a capacity-tier page starts a promotion under its context (R481). -/
def State.tierHint (s : State) (pte : Word) (pa : Nat) (ctx : Option Nat) : State :=
  if bits pte 11 2 = 3 && capBase ≤ pa && pa < capEnd then (s.promote (pa / 65536) none ctx none).getD s else s

/-- Checks 3 to 9 of an access outside the local window (R158); EOWN must be as `owned` says (check 7; R447). A use that
would set A or D in a secure frame for a non-secure context is one it may not make (R496; DEDUCED log 92). -/
def translateAs (owned : Bool) (w : Who) (acc : Acc) (va : Word) : A (Place × BitVec 2) := do
  if bits va 56 8 ≠ 0 then failA .xlate 4 va
  let s ← get
  let x := s.ctxOf (w.ctx.getD 0)
  let t ← match (s.die w.die).tlb.find? (fun t => t.covers (w.ctx.getD 0) va) with
    | some t => pure t
    | none => walk w x.root va
  let pa := t.phys va
  let s ← get
  let dev := pa / 2 ^ 46
  let pa := if dev == s.mgmt.devno.toNat then pa % 2 ^ 46 else pa
  let world := s.worldOf pa
  if t.pte.getLsbD 7 != world || (world && !x.sec) then failA .world 0 va
  if acc = .wr && !t.pte.getLsbD 4 then failA .perm 1 va
  if acc = .fetch && !t.pte.getLsbD 5 then failA .perm 2 va
  if !w.sup && !t.pte.getLsbD 6 then failA .perm 3 va
  if t.pte.getLsbD 13 != owned then failA .owner 0 va
  if pteKind t.pte = 3 then failA .orderKind 0 va
  if !t.settled (acc = .wr) && s.worldOf t.loc && !x.sec then failA .world 0 va
  match s.placeOf pa with
  | .error sub => failA .unbacked sub va
  | .ok (.mgmt off) =>
    if !mgmtOpen acc off then failA .unbacked 3 va
    modify (keepTlb w t (acc = .wr))
    return (.mgmt off, pteKind t.pte)
  | .ok pl =>
    modify fun s => (keepTlb w t (acc = .wr) s).tierHint t.pte pa w.ctx
    return (pl, pteKind t.pte)

/-- Checks 3 to 9 of an access outside the local window (R158). -/
def translate (w : Who) (acc : Acc) (va : Word) : A (Place × BitVec 2) := translateAs false w acc va

/-- Whether an address lies in the local window (R28, R158). -/
def inWindow (va : Word) : Bool := bits va 40 16 == 0xFFFF

/-- Check 2 of an access to the local window (R29, R158). An array belongs to strands and groups or to the matrix and transfer
engines, so that no memory-side unit passes; a block of the die's scratchpad is theirs too where its bit is 1 (R82). -/
def window (w : Who) (va : Word) : A Place := do
  let s ← get
  let o := bits va 0 40
  if o < 2 ^ 25 then
    let g := w.cluster * 4 + o / 2 ^ 23
    let off := o % 2 ^ 23
    let x := s.group g
    let a := off / 2 ^ 19
    if (s.groupCls g = 2 && 8 ≤ a) || !x.storage.getLsbD a || x.gated.getLsbD a || x.owner.getLsbD a != w.engine
      || w.src = 5 then failA .owner 0 va
    return .arr g off
  else if 2 ^ 32 ≤ o && o < 2 ^ 32 + 2 ^ 25 then
    let off := o - 2 ^ 32
    if (s.die w.die).owner.contains (off / 2 ^ 16) != w.engine then failA .owner 0 va
    return .scratch w.die off
  else failA .xlate 5 va

/-- The checks of one access that lies in one page (R158): where it lands and its ordering kind (R66). -/
def check (w : Who) (acc : Acc) (va : Word) : A (Place × BitVec 2) := do
  if inWindow va then
    let pl ← window w va
    if bits va 56 8 ≠ 0 && acc ≠ .fetch then failA .xlate 4 va
    return (pl, 1)
  else translate w acc va

/-! ### Peers and host -/

/-- The request an agent has outstanding for the same access. -/
def findRemote (rs : List Remote) (who : Asker) (pl : Place) (n : Nat) (op : RemoteOp) : Option Remote :=
  rs.find? fun r => r.who == who && r.place == pl && r.n == n && r.op == op

/-- Whether answers to an agent stay until its instruction or element is done. -/
def Asker.keeps : Asker → Bool
  | .strand _ => true | .fetch _ => true
  | .group _ => true | .stream .. => true | .chan .. => true | .matrix _ => true
  | _ => false

/-- Drops the requests of an agent that is gone: an answer that comes later goes nowhere. -/
def dropAsks (who : Asker) (s : State) : State := { s with remotes := s.remotes.filter fun r => r.who != who }
/-- Drops the reads asked for the running strand's streams: no later binding takes them (R342). -/
def State.dropFills (s : State) : State :=
  { s with remotes := s.remotes.filter fun r => match r.who with | .stream n _ => n != s.cur | _ => true }
/-- Drops the answers an engine has used. -/
def dropAnswers (who : Asker) (s : State) : State :=
  { s with remotes := s.remotes.filter fun r => !(r.who == who && r.ans.isSome) }

/-- PCIe address of PA[45:0] at a peer: BASE of its window before it (R489). -/
def State.peerAddr (s : State) (k addr : Nat) : Nat := (Tab.get 0 s.windows k).toNat / 2 ^ 46 * 2 ^ 46 + addr
/-- Port of a peer's window (Table 18.7). -/
def State.peerPort (s : State) (k : Nat) : Nat := (Tab.get 0 s.windows k).toNat % 8
/-- PASID of a context (R484). -/
def State.pasidOf (s : State) (ctx : Option Nat) : Option (BitVec 20) := ctx.map fun c => (s.ctxOf c).pasid
/-- Offset of the inbox of Ramir channel `ch` in a peer's BAR0 (R492). -/
def inboxAt (ch : Nat) : Nat := 0x40000 + 64 * ch
/-- What a request puts on a port (R484, R489): of a message, the write to the peer's inbox and the read that brings the
verdict (R492). -/
def State.wire (s : State) (r : Remote) : List Outbound :=
  match r.place, r.op with
  | .peer k _, .message ch body => [.inboxWrite k (s.peerPort k) (inboxAt ch) body, .inboxRead r.id k (s.peerPort k) (inboxAt ch)]
  | .peer k addr, _ => [.peerRequest r.id (s.peerPort k) (s.peerAddr k addr) r.n r.op]
  | .host addr, _ => [.hostRequest r.id (s.pasidOf r.ctx) addr r.n r.op]
  | _, _ => []
/-- Sends a non-posted request (R491). -/
def State.request (s : State) (who : Asker) (ctx : Option Nat) (pl : Place) (n : Nat) (op : RemoteOp) (va : Word) : State :=
  let r : Remote := ⟨s.nextReq, who, ctx, pl, n, op, va, s.cycle, none⟩
  { s with remotes := s.remotes ++ [r], nextReq := s.nextReq + 1, out := s.out ++ s.wire r }

/-- Sends a non-posted request, or collects its answer; until then the access is held (R491). -/
def ask (w : Who) (pl : Place) (n : Nat) (op : RemoteOp) (va : Word) : A RemoteAnswer := do
  let s ← get
  match findRemote s.remotes w.asker pl n op with
  | some r =>
    match r.ans with
    | some a =>
      if !w.asker.keeps then set { s with remotes := s.remotes.filter fun x => x.id != r.id }
      return a
    | none => throw (.hold .remote)
  | none =>
    set (s.request w.asker w.ctx pl n op va)
    throw (.hold .remote)

/-- A host access waits for the host's translation: a page request is sent once a hold, and a refusal faults (R182). -/
def hostReady (w : Who) (addr : Nat) (va : Word) : A Unit := do
  let s ← get
  let key := (w.ctx.getD 0, addr / 2 ^ 16)
  if s.ats.contains key then return ()
  if s.refusedPages.contains key then
    set { s with refusedPages := s.refusedPages.filter (· != key) }
    failA .xlate 3 va
  let pl := Place.host (addr / 2 ^ 16 * 2 ^ 16)
  if (findRemote s.remotes (.agent key.1) pl 0 .page).isNone then
    set { s with
      remotes := s.remotes ++ [(⟨s.nextReq, .agent key.1, w.ctx, pl, 0, .page, va, s.cycle, none⟩ : Remote)]
      nextReq := s.nextReq + 1
      pageReqs := s.pageReqs + 1
      out := s.out ++ [Outbound.pageRequest (s.ctxOf key.1).pasid (addr / 2 ^ 16 * 2 ^ 16)] }
  throw (.hold .plain)

/-- Physical address a place reports in EVAL and in the log. -/
def Place.pa : Place → Nat
  | .mem pa => pa
  | .scratch _ off => off
  | .arr _ off => off
  | .mgmt off => mgmtBase + off
  | .peer n a => n * 2 ^ 46 + a
  | .host a => hostBase + a

/-- UNIT of an event on a link: the port for a Ramir message, else the die the access came from (Table 18.5). -/
def State.linkUnit (s : State) (w : Who) (pl : Place) : BitVec 8 :=
  match w.src, pl with
  | 8, .peer k _ => BitVec.ofNat 8 (s.peerPort k)
  | _, _ => BitVec.ofNat 8 w.die

/-- What an answer brings: bytes, and whether they are uncorrectable (R491). A poisoned completion is charged, any other
failure is charged to nobody and logged as KIND 3. -/
def State.answered (s : State) (w : Who) (pl : Place) (n : Nat) : RemoteAnswer → (List Byte × Bool) × State
  | .data bs => (((bs ++ List.replicate n 0).take n, false), s)
  | .poisoned bs =>
    (((bs ++ List.replicate n 0).take n, true),
      if w.again then s else (s.charge w.ctx true).logEvent pl.pa w.ctx w.src (s.linkUnit w pl) 2)
  | .error => ((List.replicate n 0, true), if w.again then s else s.logEvent pl.pa none w.src (s.linkUnit w pl) 3)

/-! ### Reads and writes of a place -/

/-- Reads `n` bytes: the data, and the line address when it is uncorrectable (R468, R469, R491). -/
def readPlace (w : Who) (pl : Place) (n : Nat) (va : Word) : A (List Byte × Option Nat) := do
  match pl with
  | .mem pa =>
    let bad ← checkLines w pa n
    let bs ← groupSees w pa (Memory.bytes (← get).mem pa n) fun _ => true
    return (bs, bad)
  | .scratch d off => return (Memory.bytes (← get).mem (scratchKey d off) n, none)
  | .arr g off => return (((← get).group g).getBytes off n, none)
  | .mgmt off =>
    if off < 0x1000 && 0x1000 < off + n then failA .unbacked 3 va
    return ((← get).mgmtBytes off n, none)
  | .peer _ _ =>
    let a ← ask w pl n .read va
    let s ← get
    let ((bs, bad), s) := s.answered w pl n a
    set s
    return (bs, if bad then some (pl.pa / 64 * 64) else none)
  | .host addr =>
    hostReady w addr va
    let a ← ask w pl n .read va
    let s ← get
    let ((bs, bad), s) := s.answered w pl n a
    set s
    return (bs, if bad then some (pl.pa / 64 * 64) else none)

/-- Bytes kept from address `a`, after `new` has been written at address `b`. -/
def patchBytes (a : Nat) (old : List Byte) (b : Nat) (new : List Byte) : List Byte :=
  old.zipIdx.map fun (x, i) => if b ≤ a + i && a + i < b + new.length then new.getD (a + i - b) 0 else x
/-- An answer an agent keeps shows its own later write to the same bytes (R67). -/
def Remote.patch (r : Remote) (who : Asker) (pl : Place) (new : List Byte) : Remote :=
  match r.who == who, r.ans, r.place, pl with
  | true, some (.data old), .peer d a, .peer e b =>
    if d = e then { r with ans := some (.data (patchBytes a old b new)) } else r
  | true, some (.data old), .host a, .host b => { r with ans := some (.data (patchBytes a old b new)) }
  | _, _, _, _ => r
/-- Posts a write to a peer or the host (R489, R491). -/
def State.post (s : State) (w : Who) (pl : Place) (bs : List Byte) : State :=
  let o : List Outbound := match pl with
    | .peer k addr => [.peerWrite (s.peerPort k) (s.peerAddr k addr) bs]
    | .host addr => [.hostWrite (s.pasidOf w.ctx) addr bs]
    | _ => []
  { s with out := s.out ++ o, remotes := s.remotes.map fun r => r.patch w.asker pl bs }
/-- How a write at `va` uses the die L2: NC of its page says that it does not (R177). -/
def State.l2Use (s : State) (w : Who) (va : Word) : L2Use :=
  match w.ctx with
  | some c =>
    match (s.die w.die).tlb.find? fun t => t.covers c va with
    | some t => if t.pte.getLsbD 10 then .nc else w.l2
    | none => w.l2
  | none => w.l2
/-- Writes bytes; a write to a peer or the host is posted (R491). -/
def writePlace (w : Who) (pl : Place) (bs : List Byte) (va : Word) : A Unit := do
  match pl with
  | .mem pa => modify fun s => storeLines { w with l2 := s.l2Use w va } (bs.length + 1) pa bs s
  | .scratch d off => modify fun s => { s with mem := Memory.setBytes s.mem (scratchKey d off) bs }
  | .arr g off => modify fun s => s.storeArr g off bs
  | .mgmt off => modify fun s => { s with mem := Memory.setBytes s.mem (mgmtBase + off) bs }
  | .peer _ _ => modify fun s => s.post w pl bs
  | .host addr =>
    hostReady w addr va
    modify fun s => s.post w pl bs

/-- Offset of a place by `k` bytes. -/
def Place.plus (pl : Place) (k : Nat) : Place :=
  match pl with
  | .mem pa => .mem (pa + k)
  | .scratch d o => .scratch d (o + k)
  | .arr g o => .arr g (o + k)
  | .mgmt o => .mgmt (o + k)
  | .peer n a => .peer n (a + k)
  | .host a => .host (a + k)

/-- Whether two accesses share a byte. -/
def Place.meets (p : Place) (n : Nat) (q : Place) (m : Nat) : Bool :=
  match p, q with
  | .mem a, .mem b => a < b + m && b < a + n
  | .scratch d a, .scratch e b => d == e && a < b + m && b < a + n
  | .arr d a, .arr e b => d == e && a < b + m && b < a + n
  | .mgmt a, .mgmt b => a < b + m && b < a + n
  | .peer d a, .peer e b => d == e && a < b + m && b < a + n
  | .host a, .host b => a < b + m && b < a + n
  | _, _ => false

/-! ### Pennant gates (R172) -/

/-- Bytes of an access that lie in one 64 KiB page, and what is left over (R80). -/
def pageCut (va : Word) (n : Nat) : Nat := Nat.min n (2 ^ 16 - va.toNat % 2 ^ 16)

/-- Reads `n` bytes that lie within one page, for the device's own use. -/
def readOwn (w : Who) (va : Word) (n : Nat) : A (List Byte) := do
  let (pl, _) ← check w .rd va
  let (bs, bad) ← readPlace w pl n va
  match bad with
  | some pa => failA .uncorrectable 0 (BitVec.ofNat 64 pa)
  | none => return bs

/-- The gate of one slot: a read that meets its range is held until the published count covers it or the pennant has been
reused (R172). -/
def gateSlot (w : Who) (x : Slot) (va : Word) (n : Nat) : A Unit := do
  let b := x.base.toNat
  let e := b + x.len.toNat * x.esize.toNat
  let a := va.toNat
  if a < e && b < a + n then
    let last := (Nat.min (a + n) e - 1 - b) / x.esize.toNat
    let bs ← readOwn w x.pennant 16
    let count := leNat (bs.take 8)
    let gen := leNat (bs.drop 8) / 2 ^ 16 % 2 ^ 32
    if gen == x.gen.toNat && count < last + 1 then
      modify (dropAnswers w.asker)
      throw (.hold .plain)
/-- The gates of all bound slots. -/
def gate (w : Who) (slots : Tab Slot) (va : Word) (n : Nat) : A Unit := slots.forM fun p => gateSlot w p.2 va n

/-! ### Accesses of the running strand -/

/-- The running strand as an agent. -/
def State.whoStrand (s : State) : Who :=
  ⟨some s.here.ctx, dieOf s.cur, clusterOf s.cur, s.here.sup, false, 0, .strand s.cur, false, .alloc⟩
/-- The running strand as an agent. -/
def whoHere : M Who := do return (← get).whoStrand

/-- Annotations of an access (R70), and whether its store allocates no line of the die L2 (R157). -/
structure Ann where
  acq : Bool
  rel : Bool
  far : Bool
  deriving DecidableEq, Repr
/-- A plain access. -/
def plainAnn : Ann := ⟨false, false, false⟩

/-- Bytes an outstanding access covers. -/
def SymSrc.range : SymSrc → Option (Place × Nat)
  | .load _ pl n _ => some (pl, n)
  | .amo _ pl n .. => some (pl, n)
  | .rmw _ pl n _ => some (pl, n)
  | .store _ pl bs _ => some (pl, bs.length)
  | .tree => none
  | .assoc => none
/-- Address of an outstanding access. -/
def SymSrc.va : SymSrc → Option Nat
  | .load va .. => some va
  | .amo va .. => some va
  | .rmw va .. => some va
  | .store va .. => some va
  | .tree => none
  | .assoc => none

/-- Whether a place lies in peer or host memory. -/
def Place.isRemote : Place → Bool
  | .peer .. => true | .host _ => true | _ => false
/-- Peer of a place. -/
def Place.peer? : Place → Option Nat
  | .peer n _ => some n
  | _ => none
/-- Whether an outstanding late access is performed before a later access of its strand: one to its bytes (R67); an S or
annotated one after an S or R access (R68, R70); an S or R one after an S load or an acquire, of any page (R73, R93); an
annotated one after an annotated one (R71); an S or annotated one after an S or annotated one at the same peer (R94). -/
def Sym.precedes (x : Sym) (pl : Place) (n : Nat) (kind : BitVec 2) (strong ann : Bool) : Bool :=
  match x.src.range with
  | some (q, m) =>
    q.meets m pl n || (x.kind ≠ 2 && strong) || (x.holds && kind ≠ 2) || (x.ann && ann)
      || (x.strong && strong && q.peer?.isSome && q.peer? == pl.peer?)
  | none => false
/-- Whether an access of the strand comes behind an outstanding one. -/
def Strand.behind (st : Strand) (pl : Place) (n : Nat) (kind : BitVec 2) (ann : Ann) : Bool :=
  st.syms.any fun p => p.2.precedes pl n kind (kind = 0 || ann.acq || ann.rel) (ann.acq || ann.rel)
/-- The stores before an S access or a release are performed for every agent (R68, R70). -/
def orderStores (kind : BitVec 2) (ann : Ann) : M Unit := modify fun s => if kind = 0 || ann.rel then s.seen s.cur else s
/-- An access that is not held apart waits to issue behind the outstanding ones that precede it (R67, R68, R70, R93; DEDUCED
log 32). -/
def symOrder (pl : Place) (n : Nat) (kind : BitVec 2) (ann : Ann) : M Unit := do
  if (← getHere).behind pl n kind ann then waitM
  orderStores kind ann

/-- A number for what the strand holds beside its symbols: above those in use, from 32 on. -/
def Strand.heldKey (st : Strand) : Nat := 1 + st.syms.foldl (fun m p => Nat.max m p.1) 31
/-- The strand holds an access whose checks have passed, and goes on (R93). -/
def holdAccess (src : SymSrc) (kind : BitVec 2) (ann : Ann) (dst : Option LateDst) : M Unit := do
  let x : Sym := ⟨src, kind, none, kind = 0 || ann.acq, kind = 0 || ann.acq || ann.rel, ann.acq || ann.rel, (← get).cycle, dst⟩
  modHere fun st => { st with syms := Tab.insert st.syms st.heldKey x }
/-- Registers wait for the `len` bytes that a held access brings each of them (R55, R93). -/
def holdRegs (regs : List (Nat × Nat)) (len : Nat) (signed : Bool) : M (Option LateDst) := do
  let regs := regs.filter fun r => r.1 != 0
  if regs.isEmpty then return none
  let k := (← get).nextTree
  modify fun s => { s with nextTree := k + 1 }
  modHere fun st => regs.foldl (fun st r => { st.forget r.1 with outs := Tab.insert st.outs r.1 k }) st
  return some ⟨k, regs, len, signed⟩
/-- The result of number `k` reaches the register that waits for it, and after it what younger writes have landed meanwhile
(R55, R56). -/
def Strand.arrive (st : Strand) (d k : Nat) (v : SVal) : Strand :=
  if Tab.find st.outs d = some k then ({ st with outs := Tab.erase st.outs d }.setReg d v).advance 0 else st

/-- A window access to an array that a queued AMODE names waits until the AMODE retires (R235). -/
def modeOrder (va : Word) : M Unit := do
  let s ← get
  let st := s.here
  if inWindow va && bits va 0 40 < 2 ^ 25 then
    let g := clusterOf s.cur * 4 + bits va 23 2
    let held := s.groups.filterMap fun p => if p.2.holder == some s.cur then some p.1 else none
    let bit := held.idxOf g * 16 + bits va 19 4
    if held.contains g && st.queue.any (fun e => match e.op, e.x with
        | .amode _, .conc x => x.getLsbD bit
        | .amode _, _ => true
        | _, _ => false) then waitM

/-- A strand load of bytes within one page. -/
def loadPart (va : Word) (n : Nat) (ann : Ann) : M (List Byte × Option Nat) := do
  modeOrder va
  let w ← whoHere
  let (pl, kind) ← liftA (check w .rd va)
  symOrder pl n kind ann
  liftA (gate w (← getHere).wmset va n)
  liftA (readPlace w pl n va)
/-- A strand load made as two accesses, of `k` bytes and of the rest: the first comes first, and is made once however long
the second waits (R80, R159). -/
def loadTwo (va : Word) (k n : Nat) (ann : Ann) : M ((List Byte × Option Nat) × (List Byte × Option Nat)) := do
  let lo ← match (← getHere).part with
    | some (.lower a bs bad) => if a = va then pure (bs, bad) else loadPart va k ann
    | _ => loadPart va k ann
  modHere fun st => { st with part := some (.lower va lo.1 lo.2) }
  let hi ← loadPart (va + BitVec.ofNat 64 k) (n - k) ann
  modHere fun st => { st with part := none }
  return (lo, hi)
/-- A strand load, split at a page boundary, the lower part first (R79, R80). -/
def loadBytes (va : Word) (n : Nat) (ann : Ann) : M (List Byte × Option Nat) := do
  let k := pageCut va n
  if k < n then
    let (lo, hi) ← loadTwo va k n ann
    return (lo.1 ++ hi.1, lo.2.or hi.2)
  else loadPart va n ann
/-- What an access by the running strand that lies in one page asks for: its checks, and the host's translation. -/
def strandCheck (acc : Acc) (va : Word) : M (Who × Place × BitVec 2) := do
  modeOrder va
  let w ← whoHere
  let (pl, kind) ← liftA (check w acc va)
  match pl with
  | .host addr => liftA (hostReady w addr va)
  | _ => pure ()
  return (w, pl, kind)
/-- A store that has passed its checks is made. -/
def storeOwn (w : Who) (pl : Place) (va : Word) (bs : List Byte) : M Unit := do
  modify fun s => s.noteUnseen s.cur pl bs.length
  liftA (writePlace w pl bs va)
/-- A store that has passed its checks is made, or held where a late access precedes it (R93). -/
def storeMade (w : Who) (pl : Place) (kind : BitVec 2) (va : Word) (bs : List Byte) (ann : Ann) : M Unit := do
  let use : L2Use := if ann.far then .far else .alloc
  if (← getHere).behind pl bs.length kind ann then holdAccess (.store va.toNat pl bs use) kind ann none
  else
    orderStores kind ann
    storeOwn { w with l2 := use } pl va bs
/-- A strand store of bytes within one page. -/
def storePart (va : Word) (bs : List Byte) (ann : Ann) : M Unit := do
  let (w, pl, kind) ← strandCheck .wr va
  storeMade w pl kind va bs ann
/-- What `x` answers, or the trap it takes; a wait stays one. -/
def orTrap {α : Type} (x : M α) : M (Except Trap α) := fun s =>
  match x s with
  | .ok a s => .ok (.ok a) s
  | .error (.trap t) s => .ok (.error t) s
  | .error (.wait w) s => .error (.wait w) s
/-- A strand store made as two accesses, of the first `k` bytes and of the rest: nothing is stored while one of them waits,
and a fault of the second leaves the first performed (R80, R159); the first waits to issue then for what precedes it. -/
def storeTwo (va : Word) (k : Nat) (bs : List Byte) (ann : Ann) : M Unit := do
  let (w, lo, kind) ← strandCheck .wr va
  let hi ← orTrap (strandCheck .wr (va + BitVec.ofNat 64 k))
  match hi with
  | .ok (v, hi, kind') =>
    storeMade w lo kind va (bs.take k) ann
    storeMade v hi kind' (va + BitVec.ofNat 64 k) (bs.drop k) ann
  | .error t =>
    if (← getHere).behind lo k kind ann then waitM
    storeMade w lo kind va (bs.take k) ann
    throw (.trap t)
/-- A strand store, split at a page boundary, the lower part performed first (R79, R80). -/
def storeBytes (va : Word) (bs : List Byte) (ann : Ann) : M Unit := do
  let k := pageCut va bs.length
  if k < bs.length then storeTwo va k bs ann else storePart va bs ann

/-- A read an instruction makes for its own use: uncorrectable data is precise (R469). -/
def loadOwnAs (ann : Ann) (va : Word) (n : Nat) : M (List Byte) := do
  let (bs, bad) ← loadBytes va n ann
  match bad with
  | some pa => trapI .uncorrectable 0 (BitVec.ofNat 64 pa)
  | none => return bs
/-- A plain read an instruction makes for its own use. -/
def loadOwn (va : Word) (n : Nat) : M (List Byte) := loadOwnAs plainAnn va n

/-- A read of `n` bytes the instruction makes for its own use, page by page. -/
def loadRange : Nat → Word → Nat → M (List Byte)
  | 0, _, _ => return []
  | fuel + 1, va, n => do
    if n = 0 then return []
    let k := pageCut va n
    let bs ← loadOwn va k
    return bs ++ (← loadRange fuel (va + BitVec.ofNat 64 k) (n - k))
/-- Checks `n` bytes as a write, page by page, and waits for what their stores would wait for. -/
def checkRange : Nat → Word → Nat → M Unit
  | 0, _, _ => return ()
  | fuel + 1, va, n => do
    if n = 0 then return ()
    let k := pageCut va n
    let (_, pl, kind) ← strandCheck .wr va
    symOrder pl k kind plainAnn
    checkRange fuel (va + BitVec.ofNat 64 k) (n - k)
/-- Plain stores of bytes in ascending address, page by page. -/
def storeRange : Nat → Word → List Byte → M Unit
  | 0, _, _ => return ()
  | fuel + 1, va, bs => do
    if bs.isEmpty then return ()
    let k := pageCut va bs.length
    storePart va (bs.take k) plainAnn
    storeRange fuel (va + BitVec.ofNat 64 k) (bs.drop k)

/-- A load of `n` bytes into registers that a late access of the strand precedes is held: its read is performed later, and the
strand goes on (R93). Answers whether it is; a load of two pages or into a stream is not (DEDUCED log 32). -/
def heldLoad (va : Word) (n : Nat) (ann : Ann) (regs : List (Nat × Nat)) (len : Nat) (signed : Bool) : M Bool := do
  if (← getHere).syms.isEmpty || pageCut va n < n || regs.any fun r => decide (48 ≤ r.1) then return false
  let (_, pl, kind) ← strandCheck .rd va
  if (← getHere).behind pl n kind ann then
    let dst ← holdRegs regs len signed
    holdAccess (.load va.toNat pl n (← getHere).wmset) kind ann dst
    return true
  else return false

/-- Natural alignment (R79). -/
def needAlign (va : Word) (n : Nat) : M Unit :=
  if va.toNat % n ≠ 0 then trapI .align 0 va else pure ()

/-- Writes a loaded value, or poison where its data is uncorrectable (R469). -/
def writeLoaded (d : BitVec 6) (v : Word) (bad : Option Nat) : M Unit := do
  match bad with
  | none => writeVal d v
  | some pa =>
    if d.toNat < 48 then writeVar d (.poison .data)
    else modHere fun st => { st with streamErr := some (BitVec.ofNat 64 pa) }

/-- New bytes of a read-modify-write at access size `n` (Table 5.4). -/
def RmwOp.apply (op : RmwOp) (n : Nat) (m o : Nat) : Nat :=
  let b := 2 ^ (8 * n)
  let sg (x : Nat) : Int := if 2 * x < b then x else (x : Int) - b
  match op with
  | .add => (m + o) % b
  | .and => m &&& o
  | .or => m ||| o
  | .xor => m ^^^ o
  | .swap => o
  | .min => if sg m ≤ sg o then m else o
  | .max => if sg m ≥ sg o then m else o
  | .minu => Nat.min m o
  | .maxu => Nat.max m o
  | .maxrst => 0

/-- An update the running strand has sent to a peer or the host: it is made whatever the strand does. -/
def State.sent (s : State) (n : Nat) : Option Remote :=
  s.remotes.find? fun r => r.who == .strand n && match r.op with | .read => false | .page => false | _ => true
/-- An atomic read-modify-write by the running strand of `n` naturally aligned bytes (R78, R161): `f` gives the new
bytes, or none for no write; D is set in either case (R179; DESIGN CHOICE log 93). A peer or the host performs `op` itself
(R31), and an update that was sent is not checked again. No pennant gates its read (R172; DESIGN CHOICE log 111). Answers the
old bytes. -/
def rmwBytes (va : Word) (n : Nat) (ann : Ann) (op : RemoteOp) (f : List Byte → Option (List Byte)) :
    M (List Byte × Option Nat) := do
  let w ← whoHere
  let remote (pl : Place) : M (List Byte × Option Nat) := do
    let a ← liftA (ask w pl n op va)
    let s ← get
    let ((bs, bad), s) := s.answered w pl n a
    set s
    return (bs, if bad then some (pl.pa / 64 * 64) else none)
  match (← get).sent (← get).cur with
  | some r => remote r.place
  | none =>
    modeOrder va
    let (pl, kind) ← liftA (check w .wr va)
    symOrder pl n kind ann
    match pl with
    | .peer .. => remote pl
    | .host addr =>
      liftA (hostReady w addr va)
      remote pl
    | _ =>
      modify fun s => s.seen s.cur
      let (bs, bad) ← liftA (readPlace w pl n va)
      match bad, f bs with
      | none, some new => liftA (writePlace w pl new va)
      | _, _ => pure ()
      return (bs, bad)

/-- An atomic read-modify-write that a late access of the strand precedes is held, where it brings the first `len` bytes it
finds to register `a` and the rest of it needs none of them (R93; DEDUCED log 32). Answers whether it is. -/
def heldRmw (va : Word) (n : Nat) (ann : Ann) (op : RemoteOp) (a : BitVec 6) (len : Nat) : M Bool := do
  if (← getHere).syms.isEmpty || 48 ≤ a.toNat || ((← get).sent (← get).cur).isSome then return false
  let (_, pl, kind) ← strandCheck .wr va
  if (← getHere).behind pl n kind ann then
    let dst ← holdRegs [(a.toNat, 0)] len false
    holdAccess (.rmw va.toNat pl n op) kind ann dst
    return true
  else return false

end Sys2Proof.Machine
end

