-- ==== Sys2Proof/Machine/Numbers.lean ====
section
/-!
DEFINITION. Number formats and exact arithmetic (08 R241 to R263): decoding of codes to exact values, rounding of exact
values to codes with the events each raises, D8, and the exact operations.
-/
namespace Sys2Proof.Machine

/-- Events of R263: inexact, underflow, overflow, divide-by-zero, invalid. -/
structure Ev where
  nx : Bool
  uf : Bool
  of : Bool
  dz : Bool
  nv : Bool
  deriving DecidableEq, Repr

/-- No event. -/
def Ev.none : Ev := ⟨false, false, false, false, false⟩
/-- Invalid alone. -/
def Ev.invalid : Ev := ⟨false, false, false, false, true⟩
/-- Both events. -/
def Ev.or (x y : Ev) : Ev := ⟨x.nx || y.nx, x.uf || y.uf, x.of || y.of, x.dz || y.dz, x.nv || y.nv⟩

/-- An exact value: a signed rational num/den, an infinity, or a NaN with its quiet or signalling state and its trailing
significand of `width` bits (0 where the source has no payload, R255). -/
inductive FV where
  | fin (neg : Bool) (num den : Nat)
  | inf (neg : Bool)
  | nan (neg sig : Bool) (width payload : Nat)
  deriving DecidableEq, Repr

/-- What a format does with its top exponent: IEEE style; E4M3 with one NaN; FP6 and FP4 with neither. -/
inductive FmtKind where
  | ieee | e4m3 | small
  deriving DecidableEq, Repr

/-- A binary format (Tables 8.1 and 8.2): exponent and significand widths, bias, kind, and whether conversions into it
saturate unless told otherwise. -/
structure Fmt where
  ew : Nat
  mw : Nat
  bias : Nat
  kind : FmtKind
  sat : Bool
  deriving DecidableEq, Repr

/-- binary64. -/
def b64 : Fmt := ⟨11, 52, 1023, .ieee, false⟩
/-- binary32. -/
def b32 : Fmt := ⟨8, 23, 127, .ieee, false⟩
/-- binary16. -/
def b16 : Fmt := ⟨5, 10, 15, .ieee, false⟩
/-- BF16. -/
def bf16 : Fmt := ⟨8, 7, 127, .ieee, false⟩
/-- FP8 E4M3. -/
def e4m3 : Fmt := ⟨4, 3, 7, .e4m3, true⟩
/-- FP8 E5M2. -/
def e5m2 : Fmt := ⟨5, 2, 15, .ieee, true⟩
/-- FP6 E2M3. -/
def e2m3 : Fmt := ⟨2, 3, 1, .small, true⟩
/-- FP6 E3M2. -/
def e3m2 : Fmt := ⟨3, 2, 3, .small, true⟩
/-- FP4 E2M1. -/
def e2m1 : Fmt := ⟨2, 1, 1, .small, true⟩

/-- Bits of a code. -/
def Fmt.width (f : Fmt) : Nat := 1 + f.ew + f.mw
/-- Code of a sign. -/
def Fmt.signBit (f : Fmt) (neg : Bool) : Nat := if neg then 2 ^ (f.ew + f.mw) else 0
/-- Code of the largest finite magnitude. -/
def Fmt.maxCode (f : Fmt) : Nat :=
  match f.kind with
  | .ieee => (2 ^ f.ew - 1) * 2 ^ f.mw - 1
  | .e4m3 => 2 ^ (f.ew + f.mw) - 2
  | .small => 2 ^ (f.ew + f.mw) - 1
/-- Code of an infinity (IEEE-style formats). -/
def Fmt.infCode (f : Fmt) : Nat := (2 ^ f.ew - 1) * 2 ^ f.mw
/-- Code of the default NaN (R242, R244). -/
def Fmt.defNan (f : Fmt) : Nat :=
  match f.kind with
  | .ieee => f.infCode + 2 ^ (f.mw - 1)
  | .e4m3 => 2 ^ (f.ew + f.mw) - 1
  | .small => 0

/-- m × 2^e as a rational. -/
def scale2 (m : Nat) (e : Int) : Nat × Nat := if 0 ≤ e then (m * 2 ^ e.toNat, 1) else (m, 2 ^ (-e).toNat)

/-- Exact value of a code (R242, R244). -/
def Fmt.decode (f : Fmt) (code : Nat) : FV :=
  let neg := code / 2 ^ (f.ew + f.mw) % 2 == 1
  let e := code / 2 ^ f.mw % 2 ^ f.ew
  let m := code % 2 ^ f.mw
  let mag : FV :=
    if e = 0 then
      let (n, d) := scale2 m (1 - (f.bias : Int) - f.mw)
      .fin neg n d
    else
      let (n, d) := scale2 (2 ^ f.mw + m) ((e : Int) - f.bias - f.mw)
      .fin neg n d
  match f.kind with
  | .ieee =>
    if e = 2 ^ f.ew - 1 then if m = 0 then .inf neg else .nan neg (m / 2 ^ (f.mw - 1) == 0) f.mw m
    else mag
  | .e4m3 => if code % 2 ^ (f.ew + f.mw) = 2 ^ (f.ew + f.mw) - 1 then .nan neg false 0 0 else mag
  | .small => mag

/-- Floor of the base-2 logarithm of num/den, both positive. -/
def floorLog2 (num den : Nat) : Int :=
  let e : Int := (num.log2 : Int) - den.log2
  -- 2^(e-1) < num/den < 2^(e+1)
  if 0 ≤ e then (if num < den * 2 ^ e.toNat then e - 1 else e)
  else (if num * 2 ^ (-e).toNat < den then e - 1 else e)

/-- Rounds num/den to an integer in a mode of Table 2.4 (1 RNE, 2 RTZ, 3 RUP, 4 RDN); answers exactness too. -/
def roundNat (mode : BitVec 3) (neg : Bool) (num den : Nat) : Nat × Bool :=
  let q := num / den
  let r := num % den
  if r = 0 then (q, true)
  else
    let up :=
      if mode = 2 then false
      else if mode = 3 then !neg
      else if mode = 4 then neg
      else den < 2 * r || (2 * r = den && q % 2 == 1)
    (if up then q + 1 else q, false)

/-- num/den divided by 2^e. -/
def unscale (num den : Nat) (e : Int) : Nat × Nat :=
  if 0 ≤ e then (num, den * 2 ^ e.toNat) else (num * 2 ^ (-e).toNat, den)

/-- Whether a mode rounds an overflow of this sign away from zero. -/
def awayOnOverflow (mode : BitVec 3) (neg : Bool) : Bool :=
  if mode = 2 then false else if mode = 3 then !neg else if mode = 4 then neg else true

/-- Delivered code of a finite value that overflows (Table 8.5). -/
def Fmt.overflow (f : Fmt) (mode : BitVec 3) (sat neg : Bool) : Nat :=
  match f.kind with
  | .small => f.maxCode
  | .e4m3 => if sat then f.maxCode else if awayOnOverflow mode neg then f.defNan else f.maxCode
  | .ieee => if sat && f.sat then f.maxCode else if awayOnOverflow mode neg then f.infCode else f.maxCode

/-- Rounds a signed rational into a format once (R253, R135): code and events. -/
def Fmt.round (f : Fmt) (mode : BitVec 3) (sat neg : Bool) (num den : Nat) : Nat × Ev :=
  if num = 0 then (f.signBit neg, Ev.none)
  else
    let emin : Int := 1 - (f.bias : Int)
    let e := floorLog2 num den
    let qu : Int := e - f.mw
    let (un, ud) := unscale num den qu
    let (mu, exact1) := roundNat mode neg un ud
    -- rounded with unbounded exponent: mu × 2^qu
    let q : Int := if emin - f.mw ≤ qu then qu else emin - f.mw
    let (bn, bd) := unscale num den q
    let (m, exact) := roundNat mode neg bn bd
    let (m, q) := if m = 2 ^ (f.mw + 1) then (2 ^ f.mw, q + 1) else (m, q)
    let mag : Nat :=
      if m < 2 ^ f.mw then m
      else ((q + f.mw + f.bias).toNat) * 2 ^ f.mw + (m - 2 ^ f.mw)
    let tiny := (if mu = 2 ^ (f.mw + 1) then e + 1 else e) < emin
    if f.maxCode < mag then (f.signBit neg + f.overflow mode sat neg, ⟨true, false, true, false, false⟩)
    else (f.signBit neg + mag, ⟨!exact, tiny && !(exact && exact1), false, false, false⟩)

/-- Quiet NaN of a format made from a NaN (R255). -/
def Fmt.nanFrom (f : Fmt) (neg : Bool) (width payload : Nat) : Nat :=
  match f.kind with
  | .ieee =>
    let p := if f.mw ≤ width then payload / 2 ^ (width - f.mw) else payload * 2 ^ (f.mw - width)
    f.signBit neg + f.infCode + (p ||| 2 ^ (f.mw - 1))
  | .e4m3 => f.signBit neg + f.defNan
  | .small => 0

/-- Converts an exact value into a binary format (Table 8.5); `sat` is set where the form saturates. -/
def Fmt.convert (f : Fmt) (mode : BitVec 3) (sat : Bool) : FV → Nat × Ev
  | .fin neg n d => f.round mode sat neg n d
  | .inf neg =>
    match f.kind with
    | .small => (f.signBit neg + f.maxCode, ⟨true, false, true, false, false⟩)
    | .e4m3 =>
      if sat then (f.signBit neg + f.maxCode, ⟨true, false, true, false, false⟩)
      else (f.signBit neg + f.defNan, Ev.invalid)
    | .ieee =>
      if sat && f.sat then (f.signBit neg + f.maxCode, ⟨true, false, true, false, false⟩)
      else (f.signBit neg + f.infCode, Ev.none)
  | .nan neg sig w p =>
    (f.nanFrom neg w p, if f.kind = .small then Ev.invalid else if sig then Ev.invalid else Ev.none)

/-! ### D8 (R248 to R251) -/

/-- Magnitude of a D8 code c (0 to 127) as a rational (R248). -/
def d8Mag (c : Nat) : Nat × Nat :=
  if c = 0 then (0, 1)
  else
    let p := c.log2
    let low := c - 2 ^ p
    let e := if 2 ≤ p then 2 else p
    let f := p - e
    let base : Int := if p = 6 then 0 else if p = 5 then -4 else if p = 4 then -8 else if p = 3 then -12
      else if p = 2 then -16 else if p = 1 then -18 else -19
    let ex : Int := (low / 2 ^ f : Nat) + base
    let n := 2 ^ f + 9 * (low % 2 ^ f)
    if 0 ≤ ex then (n * 10 ^ ex.toNat, 2 ^ f) else (n, 2 ^ f * 10 ^ (-ex).toNat)

/-- Exact value of a D8 code: 0x80 is NaR (R248, R255). -/
def d8Decode (code : Nat) : FV :=
  if code % 256 = 0x80 then .nan false false 0 0
  else let (n, d) := d8Mag (code % 128); .fin (code / 128 % 2 == 1) n d

/-- Number of codes below the nearest one to num/den: ties go to the even code (R250). -/
def d8Nearest (num den : Nat) : Nat → Nat → Nat
  | 0, _ => 0
  | fuel + 1, c =>
    let (n1, d1) := d8Mag c
    let (n2, d2) := d8Mag (c + 1)
    -- compare num/den with (n1/d1 + n2/d2)/2
    let l := 2 * num * d1 * d2
    let r := (n1 * d2 + n2 * d1) * den
    if r < l || (l = r && c % 2 == 1) then 1 + d8Nearest num den fuel (c + 1) else 0

/-- RoundD8 (R250) with the events of R251. -/
def d8Round : FV → Nat × Ev
  | .nan .. => (0x80, Ev.invalid)
  | .inf neg => ((if neg then 128 else 0) + 127, ⟨true, false, true, false, false⟩)
  | .fin neg n d =>
    if 2 * n > 18875 * d then ((if neg then 128 else 0) + 127, ⟨true, false, true, false, false⟩)
    else
      let c := d8Nearest n d 127 0
      let (cn, cd) := d8Mag c
      let exact := cn * d == n * cd
      (if c = 0 then 0 else (if neg then 128 else 0) + c, ⟨!exact, c == 0 && n != 0, false, false, false⟩)

/-! ### Exact operations -/

/-- Whether a value is a NaN. -/
def FV.isNan : FV → Bool
  | .nan .. => true | _ => false
/-- Whether a value is a signalling NaN. -/
def FV.isSig : FV → Bool
  | .nan _ s _ _ => s | _ => false
/-- Sign bit. -/
def FV.neg : FV → Bool
  | .fin n _ _ => n | .inf n => n | .nan n _ _ _ => n
/-- Negation of everything but a NaN (R138). -/
def FV.flip : FV → FV
  | .fin n x y => .fin (!n) x y | .inf n => .inf (!n) | v => v
/-- Negation where asked. -/
def FV.flipIf (b : Bool) (v : FV) : FV := if b then v.flip else v

/-- Signed numerator of a finite value over `d`. -/
def signed (neg : Bool) (n : Nat) : Int := if neg then -(n : Int) else n

/-- Exact sum of finite values; an exact zero of operands of opposite sign is -0 only in RDN (R135). -/
def addFin (mode : BitVec 3) (n1 : Bool) (a b : Nat) (n2 : Bool) (c d : Nat) : FV :=
  let (l, r, den) := if b = d then (a, c, b) else if d % b = 0 then (a * (d / b), c, d)
    else if b % d = 0 then (a, c * (b / d), b) else (a * d, c * b, b * d)
  let x : Int := signed n1 l + signed n2 r
  if x = 0 then .fin (if n1 == n2 then n1 else mode == 4) 0 1
  else .fin (decide (x < 0)) x.natAbs den

/-- Exact a + b, or none where it is invalid (infinities of opposite sign). -/
def FV.add (mode : BitVec 3) : FV → FV → Option FV
  | .fin n1 a b, .fin n2 c d => some (addFin mode n1 a b n2 c d)
  | .inf n, .fin .. => some (.inf n)
  | .fin .., .inf n => some (.inf n)
  | .inf n, .inf m => if n == m then some (.inf n) else none
  | x, y => if x.isNan then some x else some y
/-- Exact a × b, or none for 0 × ∞. -/
def FV.mul : FV → FV → Option FV
  | .fin n1 a b, .fin n2 c d => some (.fin (n1 != n2) (a * c) (b * d))
  | .inf n, .fin m a _ => if a = 0 then none else some (.inf (n != m))
  | .fin m a _, .inf n => if a = 0 then none else some (.inf (n != m))
  | .inf n, .inf m => some (.inf (n != m))
  | x, y => if x.isNan then some x else some y
/-- Exact a / b with whether it divides by zero, or none for 0 / 0 and ∞ / ∞. -/
def FV.div : FV → FV → Option (FV × Bool)
  | .fin n1 a b, .fin n2 c d =>
    if c = 0 then if a = 0 then none else some (.inf (n1 != n2), true)
    else some (.fin (n1 != n2) (a * d) (b * c), false)
  | .inf n, .fin m _ _ => some (.inf (n != m), false)
  | .fin n .., .inf m => some (.fin (n != m) 0 1, false)
  | .inf _, .inf _ => none
  | x, y => if x.isNan then some (x, false) else some (y, false)

/-- Largest m below 2^(b+1), bit by bit, with m² × den ≤ num. -/
def isqrtGo (num den : Nat) : Nat → Nat → Nat
  | 0, m => m
  | b + 1, m => if (m + 2 ^ b) * (m + 2 ^ b) * den ≤ num then isqrtGo num den b (m + 2 ^ b) else isqrtGo num den b m

/-- Square root of num/den as a rational that rounds as the root does: `prec` bits and a sticky one below. -/
def sqrtRat (prec : Nat) (num den : Nat) : Nat × Nat :=
  if num = 0 then (0, 1)
  else
    let e := floorLog2 num den
    -- scale so that the root has about `prec` bits
    let k : Int := Int.fdiv e 2 - prec
    let (n, d) := unscale num den (2 * k)
    let m := isqrtGo n d (prec + 2) 0
    if m * m * d = n then scale2 m k else scale2 (2 * m + 1) (k - 1)

/-- Exact square root, or none where it is invalid. -/
def FV.sqrt (prec : Nat) : FV → Option FV
  | .fin neg n d =>
    if n = 0 then some (.fin neg 0 1)
    else if neg then none
    else let (a, b) := sqrtRat prec n d; some (.fin false a b)
  | .inf neg => if neg then none else some (.inf false)
  | v => some v

/-- Comparison of reals and infinities: -1, 0 or 1; NaNs count as equal. -/
def FV.cmp : FV → FV → Int
  | .fin n1 a b, .fin n2 c d =>
    let x := signed n1 (a * d) - signed n2 (c * b)
    if x < 0 then -1 else if x = 0 then 0 else 1
  | .inf n, .inf m => if n == m then 0 else if n then -1 else 1
  | .inf n, .fin .. => if n then -1 else 1
  | .fin .., .inf n => if n then 1 else -1
  | _, _ => 0

/-- Rounds an exact value to an integer in a mode (R143): none for a NaN or an infinity. -/
def FV.toInt (mode : BitVec 3) : FV → Option (Int × Bool)
  | .fin neg n d => let (m, ex) := roundNat mode neg n d; some (signed neg m, ex)
  | _ => none

/-- An integer as an exact value. -/
def FV.ofInt (x : Int) : FV := .fin (decide (x < 0)) x.natAbs 1

/-- First NaN operand, quieted in a format (R134, R243). -/
def firstNan (f : Fmt) : List FV → Option Nat
  | [] => none
  | .nan neg _ w p :: _ => some (f.nanFrom neg w p)
  | _ :: vs => firstNan f vs

/-- A rounded result of an operation on operands `vs` into an IEEE-style format: NaN operands first, then the exact
result, or the default NaN where the operation is invalid (R134, R135). -/
def arith (f : Fmt) (mode : BitVec 3) (sat : Bool) (vs : List FV) (r : Option FV) : Nat × Ev :=
  let sig := vs.any FV.isSig
  match firstNan f vs with
  | some c => (c, if sig then Ev.invalid else Ev.none)
  | none =>
    match r with
    | none => (f.defNan, Ev.invalid)
    | some (.fin n a b) => f.round mode sat n a b
    | some (.inf n) => (f.signBit n + (if f.kind = .ieee then f.infCode else f.maxCode), Ev.none)
    | some (.nan ..) => (f.defNan, Ev.none)

end Sys2Proof.Machine
end

