-- ==== Sys2Proof/Machine/Fields.lean ====
section
/-!
DEFINITION. Fields of rows: descriptors (07 R210, R211), the held index space and the rows an instruction reaches
(01 R20, 07 R214), codes and masks in rows, values and order keys (08 R241 to R252), and what goes back into a field
(08 R253 to R257, 10 R295, R297).
-/
namespace Sys2Proof.Machine

/-! ### Descriptors -/

/-- BASE of a descriptor (Table 7.1). -/
def dBase (d : Word) : Nat := bits d 0 10
/-- WIDTH. -/
def dWidth (d : Word) : Nat := bits d 10 7
/-- TAG. -/
def dTag (d : Word) : Nat := bits d 17 5
/-- LINK. -/
def dLink (d : Word) : Nat := bits d 22 5
/-- LEN. -/
def dLen (d : Word) : Nat := bits d 27 18
/-- Whether a descriptor is unconfigured. -/
def dUnconf (d : Word) : Bool := dTag d == 0
/-- MX element tags (Table 7.2). -/
def isMx (tag : Nat) : Bool := 0x0D ≤ tag && tag ≤ 0x10
/-- Integer tags, sparse coordinates among them (R294). -/
def isIntTag (tag : Nat) : Bool := tag == 1 || tag == 2 || tag == 0x12
/-- Whether a tag uses LINK (R211). -/
def usesLink (tag : Nat) : Bool := isMx tag || tag == 0x12
/-- Fixed width of a tag, or none where 1 to 64 are allowed (Table 7.2). -/
def tagWidth (tag : Nat) : Option Nat :=
  if tag = 3 then some 64 else if tag = 4 then some 32 else if tag = 5 || tag = 6 then some 16
  else if tag = 7 || tag = 8 || tag = 0x0C || tag = 0x0D || tag = 0x0E || tag = 0x11 then some 8
  else if tag = 9 || tag = 0x0A || tag = 0x0F then some 6
  else if tag = 0x0B || tag = 0x10 then some 4 else none
/-- Whether a descriptor is acceptable to a strand that holds `rows` rows (R211). -/
def dValid (rows : Nat) (d : Word) : Bool :=
  if dTag d = 0 then d == 0
  else
    dTag d ≤ 0x12 && bits d 45 19 == 0 && 32 ≤ dBase d && dBase d + dWidth d ≤ 1024
      && (match tagWidth (dTag d) with | some w => dWidth d == w | none => 1 ≤ dWidth d && dWidth d ≤ 64)
      && (usesLink (dTag d) || dLink d == 0)
      && (if dTag d = 0x12 then dLen d ≤ rows else dLen d == 0)

/-- Whether two descriptors name the same columns. -/
def dSame (a b : Word) : Bool := dBase a == dBase b && dWidth a == dWidth b
/-- Whether two descriptors share a column. -/
def dMeets (a b : Word) : Bool := dBase a < dBase b + dWidth b && dBase b < dBase a + dWidth a
/-- Whether two descriptors overlap partly (R213). -/
def dPartly (a b : Word) : Bool := dMeets a b && !dSame a b

/-! ### The held index space -/

/-- Groups the item on strand `n` holds, ascending (R20). -/
def State.heldOf (s : State) (n : Nat) : List Nat :=
  s.groups.filterMap fun p => if p.2.holder == some n then some p.1 else none
/-- Rows a held group gives (R20). -/
def rowsPerGroup (cls : BitVec 2) : Nat := if cls = 2 then 32768 else 65536

/-- The held set of a strand: groups in held order, rows each gives, class. -/
structure View where
  n : Nat
  held : List Nat
  per : Nat
  cls : BitVec 2
  deriving DecidableEq, Repr

/-- The held set of strand `n`. -/
def State.view (s : State) (n : Nat) : View :=
  ⟨n, s.heldOf n, rowsPerGroup (s.strand n).kclass, (s.strand n).kclass⟩
/-- Number of held rows. -/
def View.rows (v : View) : Nat := v.held.length * v.per
/-- Group of a held row. -/
def View.grp (v : View) (r : Nat) : Nat := v.held.getD (r / v.per) 0
/-- The held row `r`, lower copy in class P. -/
def View.row (v : View) (s : State) (r : Nat) : BitVec 1024 := (s.group (v.grp r)).row (r % v.per)
/-- Whether an instruction reaches row `r` (R214). -/
def View.reaches (v : View) (s : State) (r : Nat) : Bool :=
  r < v.rows && !(s.group (v.grp r)).storage.getLsbD (r % v.per / 4096)
/-- The rows an instruction reaches, ascending (R214). -/
def View.reached (v : View) (s : State) : List Nat := (List.range v.rows).filter (v.reaches s)
/-- Bit `m` of a row as a mask; m* is set everywhere. -/
def maskBit (row : BitVec 1024) (m : Nat) : Bool := m == 24 || row.getLsbD m
/-- The governed rows, ascending (R45, R214). -/
def View.governed (v : View) (s : State) (mg : Nat) : List Nat :=
  (v.reached s).filter fun r => maskBit (v.row s r) mg

/-- Group copy of descriptor `k` (R210). -/
def View.desc (v : View) (s : State) (k : Nat) : Word := Tab.get 0 (s.group (v.held.headD 0)).desc k
/-- Writes descriptor `k` in every held group. -/
def View.setDesc (v : View) (k : Nat) (d : Word) (s : State) : State :=
  v.held.foldl (fun s g => let x := s.group g; s.setGroup g { x with desc := Tab.put 0 x.desc k d }) s

/-! ### Codes in rows -/

/-- Columns `base` to `base + w - 1` of a row. -/
def getCols (row : BitVec 1024) (base w : Nat) : Nat := row.toNat / 2 ^ base % 2 ^ w
/-- Replaces columns `base` to `base + w - 1`. -/
def setCols (row : BitVec 1024) (base w c : Nat) : BitVec 1024 :=
  (row &&& ~~~(BitVec.ofNat 1024 (2 ^ w - 1) <<< base)) ||| (BitVec.ofNat 1024 (c % 2 ^ w) <<< base)
/-- Code of a field in a row. -/
def fieldCode (d : Word) (row : BitVec 1024) : Nat := getCols row (dBase d) (dWidth d)
/-- Code of field descriptor `d` in held row `r`. -/
def View.code (v : View) (s : State) (d : Word) (r : Nat) : Nat := fieldCode d (v.row s r)

/-- Parity groups that columns `base` to `base + w - 1` meet (R221): group 0 is the mask columns. -/
def parityMeets (base w : Nat) : List Nat :=
  (List.range 32).filter fun j =>
    let lo := if j = 0 then 0 else 32 * j
    let hi := if j = 0 then 24 else 32 * j + 32
    base < hi && lo < base + w
/-- Parity groups that lie wholly in the columns. -/
def parityInside (base w : Nat) : List Nat :=
  (List.range 32).filter fun j => if j = 0 then base == 0 && 24 ≤ w else base ≤ 32 * j && 32 * j + 32 ≤ base + w
/-- Parity errors of a group row. -/
def Group.bad (g : Group) (r : Nat) : BitVec 32 := Tab.get 0 g.parity r
/-- Sets the parity errors of a group row. -/
def Group.setBad (g : Group) (r : Nat) (b : BitVec 32) : Group := { g with parity := Tab.put 0 g.parity r b }
/-- Writes columns of one copy of a row; parity groups covered whole become good (R221, DEDUCED log 16). -/
def Group.writeCols (g : Group) (r base w c : Nat) : Group :=
  let x := g.setRow r (setCols (g.row r) base w c)
  let b := x.bad r
  if b = 0 then x
  else x.setBad r ((parityInside base w).foldl (fun (b : BitVec 32) j => b &&& ~~~((1 : BitVec 32) <<< j)) b)
/-- Writes columns of held row `r`, both copies in class P (R221). -/
def View.write (v : View) (r base w c : Nat) (s : State) : State :=
  let g := v.grp r
  let x := (s.group g).writeCols (r % v.per) base w c
  s.setGroup g (if v.cls = 2 then x.writeCols (r % v.per + 32768) base w c else x)
/-- Writes a field of held row `r`. -/
def View.writeField (v : View) (d : Word) (r c : Nat) (s : State) : State := v.write r (dBase d) (dWidth d) c s
/-- Whether a row keeps no error that a write of what it holds already would mend (R221). -/
def View.sound (v : View) (s : State) (r : Nat) : Bool :=
  v.cls == 0 || (v.cls == 1 && (s.group (v.grp r)).bad (r % v.per) == 0)
/-- Writes fields of many rows. -/
def View.writeFields (v : View) (d : Word) (rs : List (Nat × Nat)) (s : State) : State :=
  rs.foldl (fun s p =>
    if v.code s d p.1 == p.2 % 2 ^ dWidth d && v.sound s p.1 then s else v.writeField d p.1 p.2 s) s
/-- Writes mask `m` of one row. -/
def View.writeMask (v : View) (m r : Nat) (b : Bool) (s : State) : State := v.write r m 1 (if b then 1 else 0) s
/-- Writes mask `m` in every reached row: the value where `p` holds, else 0 (R215). -/
def View.setMask (v : View) (m : Nat) (rs : List (Nat × Bool)) (s : State) : State :=
  rs.foldl (fun s p => if maskBit (v.row s p.1) m == p.2 && v.sound s p.1 then s else v.writeMask m p.1 p.2 s) s

/-! ### Events of rows (Table 10.3) -/

/-- Event bits of row results: NV 0, DZ 1, OF 2, UF 3, NX 4, SAT 5, SPOV 6. -/
abbrev RowEv := BitVec 7
/-- Floating events as row events. -/
def Ev.row (e : Ev) : RowEv :=
  (if e.nv then 1 else 0) ||| (if e.dz then 2 else 0) ||| (if e.of then 4 else 0) ||| (if e.uf then 8 else 0)
    ||| (if e.nx then 16 else 0)
/-- SAT. -/
def evSat : RowEv := 32
/-- SPOV. -/
def evSpov : RowEv := 64
/-- Sets event bits in the groups of the rows that raise them (R295). -/
def View.raise (v : View) (es : List (Nat × RowEv)) (s : State) : State :=
  es.foldl (fun s p =>
    if p.2 = 0 then s
    else let x := s.group (v.grp p.1); s.setGroup (v.grp p.1) { x with event := x.event ||| p.2 }) s

/-! ### Values -/

/-- Binary format of a tag (Table 7.2). -/
def tagFmt (tag : Nat) : Option Fmt :=
  if tag = 3 then some b64 else if tag = 4 then some b32 else if tag = 5 then some b16 else if tag = 6 then some bf16
  else if tag = 7 then some e4m3 else if tag = 8 then some e5m2 else if tag = 9 then some e2m3
  else if tag = 0x0A then some e3m2 else if tag = 0x0B then some e2m1 else none
/-- Two's-complement value of a code of `w` bits. -/
def sInt (w c : Nat) : Int := if 2 * c < 2 ^ w then c else (c : Int) - (2 ^ w : Nat)
/-- Integer value of a code of an integer tag. -/
def intOf (tag w c : Nat) : Int := if tag = 2 then sInt w c else c
/-- A rational times 2^e. -/
def FV.scale (e : Int) : FV → FV
  | .fin neg n d => if 0 ≤ e then .fin neg (n * 2 ^ e.toNat) d else .fin neg n (d * 2 ^ (-e).toNat)
  | v => v
/-- Element value of an MX element code (R245, R246). -/
def mxElem (tag c : Nat) : FV :=
  if tag = 0x0D then let q := sInt 8 c; .fin (decide (q < 0)) q.natAbs 64
  else if tag = 0x0E then e4m3.decode c else if tag = 0x0F then e2m3.decode c else e2m1.decode c
/-- Sign bit of an MX element code (R255). -/
def mxSign (tag c : Nat) : Bool := c.testBit (if tag = 0x0F then 5 else if tag = 0x10 then 3 else 7)
/-- Value of an MX element under scale code `x` (R245, R255). -/
def mxValue (tag x c : Nat) : FV :=
  if x = 0xFF then .nan (mxSign tag c) false 0 0 else (mxElem tag c).scale ((x : Int) - 127)
/-- Exact value of a code (R241 to R249); `x` is the scale code an MX element takes. -/
def codeValue (tag w x c : Nat) : FV :=
  if isIntTag tag then FV.ofInt (intOf tag w c)
  else if isMx tag then mxValue tag x c
  else if tag = 0x0C then d8Decode c
  else if tag = 0x11 then (if c = 0xFF then .nan false false 0 0 else (FV.fin false 1 1).scale ((c : Int) - 127))
  else match tagFmt tag with | some f => f.decode c | none => .fin false 0 1

/-- Scale code that an MX field takes in row `r`: that of row 32j (R245). -/
def View.scaleOf (v : View) (s : State) (d : Word) (r : Nat) : Nat :=
  if isMx (dTag d) then v.code s (v.desc s (dLink d)) (r / 32 * 32) else 0
/-- Exact value of a field in a row. -/
def View.value (v : View) (s : State) (d : Word) (r : Nat) : FV :=
  codeValue (dTag d) (dWidth d) (v.scaleOf s d r) (v.code s d r)
/-- Exact value in row `r` of a scalar that stands for a code of field `d` (R266). -/
def View.opValue (v : View) (s : State) (d : Word) (r c : Nat) : FV :=
  codeValue (dTag d) (dWidth d) (v.scaleOf s d r) (c % 2 ^ dWidth d)

/-- OrderKey of a code (R252), MX elements apart. -/
def orderKey (tag w c : Nat) : Int :=
  if tag = 2 then sInt w c
  else if tag = 0x0C then (if c = 0x80 then -128 else if c < 128 then c else -((c - 128 : Nat) : Int))
  else if 3 ≤ tag && tag ≤ 0x0B then
    let m := c % 2 ^ (w - 1)
    if c / 2 ^ (w - 1) = 0 then m else -(m : Int) - 1
  else c

/-! ### Results into fields -/

/-- An exact result: an integer with no value for a zero divisor, or a real with the events met so far. -/
inductive RVal where
  | int (x : Option Int)
  | real (v : FV) (ev : RowEv)
  deriving DecidableEq, Repr

/-- Reduces an integer to `w` bits (R241): wraps, or clamps; answers the code and whether it clamped. -/
def intReduce (tag w : Nat) (sat : Bool) (x : Int) : Nat × RowEv :=
  let lo : Int := if tag = 2 then -((2 ^ (w - 1) : Nat) : Int) else 0
  let hi : Int := if tag = 2 then ((2 ^ (w - 1) : Nat) : Int) - 1 else ((2 ^ w : Nat) : Int) - 1
  if sat then
    if x < lo then ((lo % ((2 ^ w : Nat) : Int)).toNat, evSat)
    else if hi < x then ((hi % ((2 ^ w : Nat) : Int)).toNat, evSat)
    else ((x % ((2 ^ w : Nat) : Int)).toNat, 0)
  else ((x % ((2 ^ w : Nat) : Int)).toNat, 0)

/-- A real into an integer field (Table 8.5): out of range gives the bound and invalid. -/
def realToInt (tag w : Nat) (mode : BitVec 3) (v : FV) : Nat × RowEv :=
  let lo : Int := if tag = 2 then -((2 ^ (w - 1) : Nat) : Int) else 0
  let hi : Int := if tag = 2 then ((2 ^ (w - 1) : Nat) : Int) - 1 else ((2 ^ w : Nat) : Int) - 1
  let code (x : Int) : Nat := (x % ((2 ^ w : Nat) : Int)).toNat
  match v with
  | .nan .. => (0, 1)
  | .inf neg => (code (if neg then lo else hi), 1)
  | .fin .. =>
    match v.toInt mode with
    | some (x, exact) =>
      if x < lo then (code lo, 1) else if hi < x then (code hi, 1) else (code x, if exact then 0 else 16)
    | none => (0, 1)

/-- Exponent of the power of two a positive rational rounds to on a log scale: a tie goes up (R254). -/
def e8m0Exp (mode : BitVec 3) (n d : Nat) : Int × Bool :=
  let e := floorLog2 n d
  let (un, ud) := unscale n d e
  if un = ud then (e, true)
  else if mode = 2 || mode = 4 then (e, false)
  else if mode = 3 then (e + 1, false)
  else if 2 * ud * ud ≤ un * un then (e + 1, false) else (e, false)
/-- A real into an E8M0 field (R254). -/
def realToE8m0 (mode : BitVec 3) (v : FV) : Nat × RowEv :=
  match v with
  | .nan .. => (0xFF, 1)
  | .inf neg => if neg then (0, 1) else (0xFE, 4 ||| 16)
  | .fin neg n d =>
    if n = 0 || neg then (0, 1)
    else
      let (e, exact) := e8m0Exp mode n d
      if e < -127 then (0, 8 ||| 16)
      else if 127 < e then (0xFE, 4 ||| 16)
      else ((e + 127).toNat, if exact then 0 else 16)

/-- Rounds a real into a field that is not an MX element field (Table 8.5). -/
def realToField (tag w : Nat) (mode : BitVec 3) (sat : Bool) (v : FV) : Nat × RowEv :=
  if isIntTag tag then realToInt tag w mode v
  else if tag = 0x0C then let (c, e) := d8Round v; (c, e.row)
  else if tag = 0x11 then realToE8m0 mode v
  else match tagFmt tag with
    | some f => let (c, e) := f.convert mode sat v; (c, e.row)
    | none => (0, 0)

/-- A result as a real (for MX destinations). -/
def RVal.toFV : RVal → FV
  | .int (some x) => FV.ofInt x
  | .int none => .nan false false 0 0
  | .real v _ => v
/-- Events of a result before rounding. -/
def RVal.ev : RVal → RowEv
  | .int _ => 0
  | .real _ e => e

/-- Puts a result into a field that is not an MX element field (R297): integer results are reduced with `sat`, reals
rounded. `rsat` is set where narrowing saturates. -/
def putCode (tag w : Nat) (mode : BitVec 3) (sat rsat : Bool) : RVal → Nat × RowEv
  | .int none => (2 ^ w - 1, 0)
  | .int (some x) =>
    if isIntTag tag then intReduce tag w sat x else realToField tag w mode rsat (FV.ofInt x)
  | .real v e =>
    let (c, f) := realToField tag w mode rsat v
    (c, e ||| f)

/-! ### MX blocks (R257, R301) -/

/-- Emax of an MX element tag. -/
def mxEmax (tag : Nat) : Int := if tag = 0x0D then 0 else if tag = 0x0E then 8 else 2
/-- An element code under scale code `x`: RNE and saturated (R257). A value -0 keeps its sign in the code (DEDUCED log 121), and
the scale is that of `x` also where the pseudocode has bounded it at 0 (R257, R259; DEDUCED log 122). -/
def mxRound (tag x : Nat) (v : FV) : Nat × RowEv :=
  let u := v.scale (127 - (x : Int))
  if tag = 0x0D then
    match (u.scale 6).toInt 1 with
    | some (q, exact) =>
      let q' : Int := if q < -127 then -127 else if 127 < q then 127 else q
      let ev : RowEv := (if q' = q then 0 else 4) ||| (if exact && q' = q then 0 else 16)
        ||| (if q = 0 && !exact then 8 else 0)
      ((q' % 256).toNat, ev)
    | none => (0, 0)
  else
    let f := if tag = 0x0E then e4m3 else if tag = 0x0F then e2m3 else e2m1
    let (c, e) := f.convert 1 true u
    let zero := c % 2 ^ (f.ew + f.mw) == 0
    (c, (if e.of then 4 else 0) ||| (if e.nx then 16 else 0) ||| (if zero && e.nx then 8 else 0))
/-- Whether a value is finite. -/
def FV.isFin : FV → Bool
  | .fin .. => true | _ => false
/-- Scale code of a block with these values (R257): none where one is not finite. -/
def mxScale (tag : Nat) (vs : List FV) : Option Nat :=
  if vs.all FV.isFin then
    let big (a : FV) (m : Option (Nat × Nat)) : Option (Nat × Nat) :=
      match a with
      | .fin _ n d => if n = 0 then m else match m with
        | none => some (n, d)
        | some (p, q) => if p * d < n * q then some (n, d) else some (p, q)
      | _ => m
    match vs.foldr big none with
    | none => some 0
    | some (n, d) =>
      let x := floorLog2 n d - mxEmax tag + 127
      some (if x < 0 then 0 else if 254 < x then 254 else x.toNat)
  else none

end Sys2Proof.Machine
end

