-- ==== Sys2Proof/Machine/Operands.lean ====
section
/-!
DEFINITION. Operand forms of the scalar instructions: sign extension (04 R116), integer conditions (02 R40), the
register-register, immediate and folding forms (04 R115, 06 R194), effective addresses (02 R39).
-/
namespace Sys2Proof.Machine

/-- SignExt(v, w) to 64 bits (R116). -/
def sx {w : Nat} (v : BitVec w) : Word := v.signExtend 64

/-- Integer condition of Table 2.3. -/
def icc (c : BitVec 6) (x y : Word) : Bool :=
  match c.toNat with
  | 0 => x == y
  | 1 => x != y
  | 2 => x.slt y
  | 3 => !x.slt y
  | 4 => x.ult y
  | 5 => !x.ult y
  | 6 => y.slt x
  | 7 => !y.slt x
  | 8 => y.ult x
  | 9 => !y.ult x
  | _ => false

/-- A two-source instruction that does not fold: fixed latency `lat` (Table 2.11). -/
def alu2 (d a b : BitVec 6) (lat : Nat) (f : Word → Word → Word) : M Unit := do
  let (x, y) ← read2 a b [d]
  writeFix d lat (.conc (f x y))
/-- A one-source instruction that does not fold. -/
def alu1 (d a : BitVec 6) (lat : Nat) (f : Word → Word) : M Unit := do
  let x ← read1 a [d]
  writeFix d lat (.conc (f x))
/-- A two-source instruction of variable latency (R55). -/
def var2 (d a b : BitVec 6) (f : Word → Word → Word) : M Unit := do
  let (x, y) ← read2 a b [d]
  writeVal d (f x y)

/-- Reason of the first poisoned source in the order of R43: what a folding instruction gives its destination (R197;
DESIGN CHOICE log 28 where several are poisoned). -/
def firstPoison : List SVal → Option Reason
  | [] => none
  | .poison r :: _ => some r
  | _ :: xs => firstPoison xs

/-- The sources of a folding instruction and what they fold to, with the flags raised: poison where one is poisoned, else
`fold`; none is a
waiting use, which waits for its symbols. A poisoned result for a stream, which holds concrete values only, traps as a
waiting use of the sources does (R194, R197; DESIGN CHOICE log 28). -/
def foldSources (d : BitVec 6) (srcs : List (BitVec 6)) (fold : List SVal → Option (SVal × Word)) :
    M (SVal × Word) := do
  srcs.forM checkSrc
  checkOut d
  if 48 ≤ d.toNat then srcs.forM checkPoison
  srcs.forM checkLanded
  checkDst d
  let xs ← srcs.mapM takeSVal
  match firstPoison xs with
  | some r => return (.poison r, 0)
  | none =>
    match fold xs with
    | some v => return v
    | none => waitM .symbol

/-- A two-source instruction that may fold: where `f` gives no result it is a waiting use (R194, R197). -/
def fold2 (d a b : BitVec 6) (lat : Nat) (f : SVal → SVal → Option SVal) : M Unit := do
  let (v, _) ← foldSources d [a, b] fun xs => (f (xs.getD 0 (.conc 0)) (xs.getD 1 (.conc 0))).map (·, 0)
  writeFix d lat v
/-- A one-source instruction that may fold. -/
def fold1 (d a : BitVec 6) (lat : Nat) (f : SVal → Option SVal) : M Unit := do
  let (v, _) ← foldSources d [a] fun xs => (f (xs.getD 0 (.conc 0))).map (·, 0)
  writeFix d lat v

/-- ADD (Table 6.3). -/
def foldAdd : SVal → SVal → Option SVal
  | .conc x, .conc y => some (.conc (x + y))
  | .aff k al be, .conc c => some (.aff k al (be + c))
  | .conc c, .aff k al be => some (.aff k al (be + c))
  | .aff k al be, .aff j al' be' => if k = j then some (.aff k (al + al') (be + be')) else none
  | _, _ => none
/-- SUB (Table 6.3). -/
def foldSub : SVal → SVal → Option SVal
  | .conc x, .conc y => some (.conc (x - y))
  | .aff k al be, .conc c => some (.aff k al (be - c))
  | .conc c, .aff k al be => some (.aff k (-al) (c - be))
  | .aff k al be, .aff j al' be' => if k = j then some (.aff k (al - al') (be - be')) else none
  | _, _ => none
/-- MUL (Table 6.3). -/
def foldMul : SVal → SVal → Option SVal
  | .conc x, .conc y => some (.conc (x * y))
  | .aff k al be, .conc c => some (.aff k (c * al) (c * be))
  | .conc c, .aff k al be => some (.aff k (c * al) (c * be))
  | _, _ => none
/-- SHL: the amount must be concrete (Table 6.3). -/
def foldShl : SVal → SVal → Option SVal
  | .conc x, .conc y => some (.conc (x <<< (y.toNat % 64)))
  | .aff k al be, .conc c => some (.aff k (al <<< (c.toNat % 64)) (be <<< (c.toNat % 64)))
  | _, _ => none
/-- ADDI and ADDIX: with immediate 0 they copy the source's state whole (R194). -/
def foldAddImm (i : Word) (x : SVal) : Option SVal := if i = 0 then some x else foldAdd x (.conc i)
/-- LEA of base, index, scale and displacement (Table 6.3). -/
def foldLea (sc disp : Word) : SVal → SVal → Option SVal
  | .conc b, .conc i => some (.conc (b + i * sc + disp))
  | .conc b, .aff k al be => some (.aff k (sc * al) (b + sc * be + disp))
  | .aff k al be, .conc i => some (.aff k al (be + sc * i + disp))
  | .aff k al be, .aff j al' be' => if k = j then some (.aff k (al + sc * al') (be + sc * be' + disp)) else none
  | _, _ => none

/-- Effective address of format M: base + index × size + disp24 (R39). -/
def effAddr (base index : Word) (bytes : Nat) (disp : BitVec 24) : Word :=
  base + index * BitVec.ofNat 64 bytes + sx disp

/-- Bytes of a size code (Table 2.2, R161). -/
def sizeBytes {w : Nat} (sz : BitVec w) : Nat := 2 ^ sz.toNat

end Sys2Proof.Machine
end

