-- ==== Sys2Proof/Machine/Flags.lean ====
section
/-!
DEFINITION. FPCSR: rounding mode, narrowing saturation and the sticky flags of scalar floating point (04 R102, R103,
R135, R136).
-/
namespace Sys2Proof.Machine

/-- Mode of a rounding code: 000 takes FPCSR.RM (R41, R102). -/
def Strand.rmode (st : Strand) (rm : BitVec 3) : BitVec 3 := if rm = 0 then st.fpcsr.extractLsb' 0 3 else rm
/-- FPCSR.NOSAT (R102). -/
def Strand.nosat (st : Strand) : Bool := st.fpcsr.getLsbD 3
/-- Flags as FPCSR holds them: NX 12, UF 11, OF 10, DZ 9, NV 8 (Table 4.3). -/
def Ev.word (e : Ev) : Word :=
  (if e.nx then 0x1000 else 0) ||| (if e.uf then 0x800 else 0) ||| (if e.of then 0x400 else 0)
    ||| (if e.dz then 0x200 else 0) ||| (if e.nv then 0x100 else 0)
/-- Sets sticky flags (R102, R136). -/
def Strand.flag (st : Strand) (e : Ev) : Strand := { st with fpcsr := st.fpcsr ||| e.word }
/-- Value a write of FPCSR stores: RM 000 and 101 to 111 store 001 (R102). -/
def fpcsrWrite (v : Word) : Word :=
  (v &&& 0x1F08) ||| (if v.extractLsb' 0 3 = 0 || 4 < (v.extractLsb' 0 3).toNat then 1 else v &&& 7)
/-- Whether a register, or a pending write, still holds a floating list to be replayed (R196). -/
def SVal.isList : SVal → Bool
  | .flt .. => true | _ => false
/-- FPCSR is read and written after every earlier floating-point instruction has landed, the folded ones replayed (R103,
R196; of a list that only a queued operand still carries see DESIGN CHOICE log 91). -/
def fpSettled : M Unit := do
  let st ← getHere
  if st.s.any (fun p => p.2.isList) || st.pend.any (fun p => p.val.isList) then waitM .symbol
  modHere Strand.settleFloat

end Sys2Proof.Machine
end

