-- ==== Sys2Proof/Machine/Float.lean ====
section
/-!
DEFINITION. Scalar floating point (04 R133 to R144) and the folding of FADD, FSUB, FMUL and FFMA (06 R195, R196).
-/
namespace Sys2Proof.Machine

/-- Exact value of a binary64 pattern. -/
def fv (x : Word) : FV := b64.decode x.toNat
/-- A code as a word. -/
def codeW (r : Nat × Ev) : Word × Ev := (BitVec.ofNat 64 r.1, r.2)

/-- FADD (Table 4.10). -/
def faddW (m : BitVec 3) (x y : Word) : Word × Ev := codeW (arith b64 m false [fv x, fv y] ((fv x).add m (fv y)))
/-- FSUB. -/
def fsubW (m : BitVec 3) (x y : Word) : Word × Ev := codeW (arith b64 m false [fv x, fv y] ((fv x).add m (fv y).flip))
/-- FMUL. -/
def fmulW (m : BitVec 3) (x y : Word) : Word × Ev := codeW (arith b64 m false [fv x, fv y] ((fv x).mul (fv y)))
/-- FDIV: a finite non-zero value by zero sets DZ. -/
def fdivW (m : BitVec 3) (x y : Word) : Word × Ev :=
  match (fv x).div (fv y) with
  | some (v, dz) =>
    let (w, e) := codeW (arith b64 m false [fv x, fv y] (some v))
    (w, { e with dz := dz })
  | none => codeW (arith b64 m false [fv x, fv y] none)
/-- FSQRT. -/
def fsqrtW (m : BitVec 3) (x : Word) : Word × Ev := codeW (arith b64 m false [fv x] ((fv x).sqrt 60))
/-- FFMA: one rounding; 0 × ∞ is invalid even with a NaN addend (R138). -/
def ffmaW (m : BitVec 3) (negp nega : Bool) (x y z : Word) : Word × Ev :=
  let p := (fv x).mul (fv y)
  let r := codeW (arith b64 m false [fv x, fv y, fv z] (p.bind fun v => (v.flipIf negp).add m ((fv z).flipIf nega)))
  if p.isNone then (r.1, { r.2 with nv := true }) else r

/-- One replayed operation on the arrived value (R196). -/
def FOp.run (o : FOp) (v : Word) : Word × Ev :=
  match o.op with
  | .add => if o.pos = 0 then faddW o.mode v o.x else faddW o.mode o.x v
  | .sub => if o.pos = 0 then fsubW o.mode v o.x else fsubW o.mode o.x v
  | .mul => if o.pos = 0 then fmulW o.mode v o.x else fmulW o.mode o.x v
  | .fma =>
    if o.pos = 0 then ffmaW o.mode o.negp o.nega v o.x o.y
    else if o.pos = 1 then ffmaW o.mode o.negp o.nega o.x v o.y
    else ffmaW o.mode o.negp o.nega o.x o.y v
/-- Replay of a list on the arrived value (R196). -/
def replay : List FOp → Word → Word × Ev
  | [], v => (v, Ev.none)
  | o :: os, v =>
    let (x, e) := o.run v
    let (y, e') := replay os x
    (y, e.or e')

/-- Appends an operation to a symbolic source in the floating form with fewer than four pending (R195). -/
def SVal.push (v : SVal) (o : FOp) : Option SVal :=
  match v with
  | .aff k al be => if al = 1 && be = 0 then some (.flt k [o]) else none
  | .flt k ops => if ops.length < 4 then some (.flt k (ops ++ [o])) else none
  | _ => none

/-- A two-source floating instruction that may fold (R195). -/
def ffold2 (d a b : BitVec 6) (op : FoldOp) (rm : BitVec 3) (f : BitVec 3 → Word → Word → Word × Ev) : M Unit := do
  let m := (← getHere).rmode rm
  let (v, flags) ← foldSources d [a, b] fun
    | [.conc x, .conc y] => some (.conc (f m x y).1, (f m x y).2.word)
    | [x, .conc y] => (x.push ⟨op, 0, y, 0, false, false, m⟩).map (·, 0)
    | [.conc x, y] => (y.push ⟨op, 1, x, 0, false, false, m⟩).map (·, 0)
    | _ => none
  writeFloat d 4 false v flags

/-- A concrete two-source floating instruction of latency `lat`. -/
def fop2 (d a b : BitVec 6) (lat : Nat) (rm : BitVec 3) (f : BitVec 3 → Word → Word → Word × Ev) : M Unit := do
  let (x, y) ← read2 a b [d]
  let (v, e) := f ((← getHere).rmode rm) x y
  writeFloat d lat false (.conc v) e.word
/-- A concrete one-source floating instruction of latency `lat`. -/
def fop1 (d a : BitVec 6) (lat : Nat) (rm : BitVec 3) (f : BitVec 3 → Word → Word × Ev) : M Unit := do
  let x ← read1 a [d]
  let (v, e) := f ((← getHere).rmode rm) x
  writeFloat d lat false (.conc v) e.word

/-- FADD (R137). -/
def execFadd (h : Hdr) (d a b : BitVec 6) (rm : BitVec 3) (s : State) : Out := runU user h (ffold2 d a b .add rm faddW) s
/-- FSUB (R137). -/
def execFsub (h : Hdr) (d a b : BitVec 6) (rm : BitVec 3) (s : State) : Out := runU user h (ffold2 d a b .sub rm fsubW) s
/-- FMUL (R137). -/
def execFmul (h : Hdr) (d a b : BitVec 6) (rm : BitVec 3) (s : State) : Out := runU user h (ffold2 d a b .mul rm fmulW) s
/-- FDIV (R137). -/
def execFdiv (h : Hdr) (d a b : BitVec 6) (rm : BitVec 3) (s : State) : Out := runU user h (fop2 d a b 14 rm fdivW) s
/-- FSQRT: its result interlocks (R137, R55). -/
def execFsqrt (h : Hdr) (d a : BitVec 6) (rm : BitVec 3) (s : State) : Out :=
  runU user h (do
    let x ← read1 a [d]
    let (v, e) := fsqrtW ((← getHere).rmode rm) x
    writeFloat d 18 true (.conc v) e.word) s

/-- FFMA: field a is the destination, `e` the addend (R138, R195). -/
def execFfma (h : Hdr) (a b c : BitVec 6) (nega negp : BitVec 1) (rm : BitVec 3) (e : BitVec 6) (s : State) : Out :=
  runU user h (do
    let m := (← getHere).rmode rm
    let np := negp == 1
    let na := nega == 1
    let (v, flags) ← foldSources a [b, c, e] fun
      | [.conc x, .conc y, .conc z] => some (.conc (ffmaW m np na x y z).1, (ffmaW m np na x y z).2.word)
      | [x, .conc y, .conc z] => (x.push ⟨.fma, 0, y, z, np, na, m⟩).map (·, 0)
      | [.conc x, y, .conc z] => (y.push ⟨.fma, 1, x, z, np, na, m⟩).map (·, 0)
      | [.conc x, .conc y, z] => (z.push ⟨.fma, 2, x, y, np, na, m⟩).map (·, 0)
      | _ => none
    writeFloat a 4 false v flags) s

/-- Order of binary64 values with -0 below +0 (R139). -/
def fless (x y : Word) : Bool :=
  let c := (fv x).cmp (fv y)
  c < 0 || (c = 0 && (fv x).neg && !(fv y).neg)
/-- FMIN and FMAX (R139). -/
def fminmaxW (wantMax : Bool) (x y : Word) : Word × Ev :=
  let sig := (fv x).isSig || (fv y).isSig
  let e : Ev := if sig then Ev.invalid else Ev.none
  let q (w : Word) : Word := w ||| 0x0008000000000000
  if (fv x).isNan && (fv y).isNan then (q x, e)
  else if (fv x).isNan then (y, e)
  else if (fv y).isNan then (x, e)
  else if wantMax then (if fless x y then y else x, e)
  else (if fless y x then y else x, e)
/-- FMIN (R139). -/
def execFmin (h : Hdr) (d a b : BitVec 6) (s : State) : Out :=
  runU user h (fop2 d a b 2 0 fun _ => fminmaxW false) s
/-- FMAX (R139). -/
def execFmax (h : Hdr) (d a b : BitVec 6) (s : State) : Out :=
  runU user h (fop2 d a b 2 0 fun _ => fminmaxW true) s

/-- FSETP condition and whether NV is set (Table 4.11). -/
def fcond (c : BitVec 3) (x y : Word) : Bool × Ev :=
  let un := (fv x).isNan || (fv y).isNan
  let sig := (fv x).isSig || (fv y).isSig
  let o := (fv x).cmp (fv y)
  let quiet : Ev := if sig then Ev.invalid else Ev.none
  let loud : Ev := if un then Ev.invalid else Ev.none
  match c.toNat with
  | 0 => (!un && o == 0, quiet)
  | 1 => (un || o != 0, quiet)
  | 2 => (!un && decide (o < 0), loud)
  | 3 => (!un && decide (o ≤ 0), loud)
  | 4 => (!un && decide (0 < o), loud)
  | 5 => (!un && decide (0 ≤ o), loud)
  | 6 => (un, quiet)
  | _ => (!un, quiet)
/-- FSETP (R140). -/
def execFsetp (h : Hdr) (pd : BitVec 3) (a b : BitVec 6) (cond : BitVec 3) (s : State) : Out :=
  runU user h (do
    let (x, y) ← read2 a b []
    let (r, e) := fcond cond x y
    writeFloatPred pd 2 r e.word) s

/-- FABS (R141). -/
def execFabs (h : Hdr) (d a : BitVec 6) (s : State) : Out :=
  runU user h (alu1 d a 2 (· &&& 0x7FFFFFFFFFFFFFFF)) s
/-- FNEG (R141). -/
def execFneg (h : Hdr) (d a : BitVec 6) (s : State) : Out :=
  runU user h (alu1 d a 2 (· ^^^ 0x8000000000000000)) s
/-- FCLASS (Table 4.12). -/
def fclassW (x : Word) : Word :=
  let e := bits x 52 11
  let m := bits x 0 52
  let neg := x.getLsbD 63
  let bit : Nat :=
    if e = 2047 then
      if m = 0 then (if neg then 0 else 7) else if x.getLsbD 51 then 9 else 8
    else if e = 0 then
      if m = 0 then (if neg then 3 else 4) else (if neg then 2 else 5)
    else (if neg then 1 else 6)
  BitVec.ofNat 64 (2 ^ bit)
/-- FCLASS (R141). -/
def execFclass (h : Hdr) (d a : BitVec 6) (s : State) : Out := runU user h (alu1 d a 2 fclassW) s

/-- Formats of Table 4.13; D8 is code 6. -/
def cvtFmt (c : BitVec 3) : Option Fmt :=
  match c.toNat with
  | 0 => some b64 | 1 => some b32 | 2 => some b16 | 3 => some bf16 | 4 => some e4m3 | 5 => some e5m2 | _ => none
/-- FCVT (R142, R253 to R255). -/
def fcvtW (sf df : BitVec 3) (nosat : Bool) (m : BitVec 3) (x : Word) : Word × Ev :=
  let v : FV := match cvtFmt sf with
    | some f => f.decode (x.toNat % 2 ^ f.width)
    | none => d8Decode (x.toNat % 256)
  match cvtFmt df with
  | some f => codeW (f.convert m (f.sat && !nosat) v)
  | none => codeW (d8Round v)
/-- FCVT (R142). -/
def execFcvt (h : Hdr) (d a : BitVec 6) (sf df rm : BitVec 3) (s : State) : Out :=
  runU user h (do
    let ns := (← getHere).nosat
    fop1 d a 4 rm (fcvtW sf df ns)) s

/-- Bounds of an integer type of R143. -/
def intBounds (w32 sgn : Bool) : Int × Int :=
  if sgn then if w32 then (-2 ^ 31, 2 ^ 31 - 1) else (-2 ^ 63, 2 ^ 63 - 1)
  else if w32 then (0, 2 ^ 32 - 1) else (0, 2 ^ 64 - 1)
/-- FCVTI: binary64 to an integer (R143). -/
def fcvtiW (w32 sgn : Bool) (m : BitVec 3) (x : Word) : Word × Ev :=
  let (lo, hi) := intBounds w32 sgn
  match fv x with
  | .nan .. => (0, Ev.invalid)
  | .inf neg => (BitVec.ofInt 64 (if neg then lo else hi), Ev.invalid)
  | v =>
    match v.toInt m with
    | some (i, exact) =>
      if i < lo then (BitVec.ofInt 64 lo, Ev.invalid)
      else if hi < i then (BitVec.ofInt 64 hi, Ev.invalid)
      else (BitVec.ofInt 64 i, if exact then Ev.none else ⟨true, false, false, false, false⟩)
    | none => (0, Ev.invalid)
/-- FCVTI (R143). -/
def execFcvti (h : Hdr) (d a : BitVec 6) (w32 sgn : BitVec 1) (rm : BitVec 3) (s : State) : Out :=
  runU user h (fop1 d a 4 rm (fcvtiW (w32 == 1) (sgn == 1))) s
/-- ICVTF: an integer to binary64 (R143). -/
def icvtfW (w32 sgn : Bool) (m : BitVec 3) (x : Word) : Word × Ev :=
  let v : Int :=
    if w32 then (if sgn then (x.setWidth 32).toInt else (x.setWidth 32).toNat)
    else (if sgn then x.toInt else x.toNat)
  codeW (b64.round m false (decide (v < 0)) v.natAbs 1)
/-- ICVTF (R143). -/
def execIcvtf (h : Hdr) (d a : BitVec 6) (w32 sgn : BitVec 1) (rm : BitVec 3) (s : State) : Out :=
  runU user h (fop1 d a 4 rm (icvtfW (w32 == 1) (sgn == 1))) s

/-- FRND: to an integral value, keeping the sign (R144). -/
def frndW (m : BitVec 3) (x : Word) : Word × Ev :=
  match fv x with
  | .fin neg n d =>
    let (i, exact) := roundNat m neg n d
    let r := b64.round 1 false neg i 1
    (BitVec.ofNat 64 r.1, if exact then Ev.none else ⟨true, false, false, false, false⟩)
  | .inf _ => (x, Ev.none)
  | .nan _ sig _ _ => (x ||| 0x0008000000000000, if sig then Ev.invalid else Ev.none)
/-- FRND (R144). -/
def execFrnd (h : Hdr) (d a : BitVec 6) (rm : BitVec 3) (s : State) : Out := runU user h (fop1 d a 4 rm frndW) s

end Sys2Proof.Machine
end

