-- ==== Sys2Proof/Machine/Groups.lean ====
section
/-!
DEFINITION. What a held group does with the head of its queue: stops (07 R224, R227), array checks (07 R221 to R223),
memory accesses of groups (10 R311 to R314), and symbols (06 R196, R199, R200).
-/
namespace Sys2Proof.Machine

/-! ### Resolution of symbols (R199, R200) -/

/-- A register state when symbol `k` brings `v`. -/
def SVal.arrive (k : Nat) (v : Word) (x : SVal) : SVal × Ev :=
  match x with
  | .aff j al be => if j = k then (.conc (al * v + be), Ev.none) else (x, Ev.none)
  | .flt j ops => if j = k then let (w, e) := replay ops v; (.conc w, e) else (x, Ev.none)
  | _ => (x, Ev.none)
/-- A register state when symbol `k` is poisoned. -/
def SVal.spoil (k : Nat) (r : Reason) (x : SVal) : SVal :=
  match x with
  | .aff j .. => if j = k then .poison r else x
  | .flt j .. => if j = k then .poison r else x
  | _ => x
/-- Register states under a change, with the events it raises; what reads 0 is not listed. -/
def settleRegs (f : SVal → SVal × Ev) : Tab SVal → Tab SVal × Ev
  | [] => ([], Ev.none)
  | (c, x) :: t =>
    let (y, e) := f x
    let (u, e') := settleRegs f t
    (if y = .conc 0 then u else (c, y) :: u, e.or e')
/-- Pending writes under a change. -/
def settlePends (f : SVal → SVal × Ev) : List Pend → List Pend × Ev
  | [] => ([], Ev.none)
  | p :: t =>
    let (y, e) := f p.val
    let (u, e') := settlePends f t
    ({ p with val := y } :: u, e.or e')
/-- Applies a change of register states to registers, pending writes and queued operands, and frees entry `k`. The flags of
a floating list that no register and no pending write carries are not set: one that only a queued operand carries, or that
nothing carries any more (DESIGN CHOICE log 91). -/
def Strand.settleSym (st : Strand) (k : Nat) (f : SVal → SVal × Ev) : Strand :=
  let (regs, e1) := settleRegs f st.s
  let (pends, e2) := settlePends f st.pend
  { st with
    s := regs
    pend := pends
    queue := st.queue.map (fun (e : QEntry) => { e with x := (f e.x).1, y := (f e.y).1 })
    syms := Tab.erase st.syms k }.flag (e1.or e2)
/-- Symbol `k` resolves (R199). -/
def Strand.resolve (st : Strand) (k : Nat) (v : Word) : Strand := st.settleSym k (SVal.arrive k v)
/-- Symbol `k` is poisoned (R200). -/
def Strand.spoil (st : Strand) (k : Nat) (r : Reason) : Strand := st.settleSym k fun x => (x.spoil k r, Ev.none)

/-! ### Stops -/

/-- Why a group does not finish an instruction: a stop with cause, subcode, EVAL and AFAULTADDR, at a row where it is
row-ordered, with its detail and, where it is by pass, the pass; or it is held. -/
inductive GStop where
  | stop (code sub : BitVec 8) (val addr : Word) (row : Option Nat) (detail : Word) (pass : Option Word)
  | hold
  deriving DecidableEq, Repr

/-- Steps of the held groups. -/
abbrev G := EStateM GStop State

/-- A stop at dispatch (R224). -/
def stopAt {α : Type} (c : Cause) (sub : BitVec 8) (val : Word) : G α := throw (.stop c.code sub val 0 none 0 none)
/-- ASSOC_FAULT subcode 7 on a field (Table 7.5). -/
def badType {α : Type} (f : Nat) : G α := stopAt .assoc 7 (BitVec.ofNat 64 f)
/-- A row-ordered stop (R224). -/
def stopRow {α : Type} (r : Nat) (c : Cause) (sub : BitVec 8) (val : Word) (detail : Word) : G α :=
  throw (.stop c.code sub val 0 (some r) detail none)

/-- Changes the head of a strand's queue. -/
def setHead (n : Nat) (f : QEntry → QEntry) : G Unit :=
  modify fun s =>
    let st := s.strand n
    match st.queue with
    | [] => s
    | e :: q => s.setStrand n { st with queue := f e :: q }
/-- Changes the progress by pass of a strand's head. -/
def setProg (n : Nat) (f : Prog → Prog) : G Unit := setHead n fun e => { e with prog := f e.prog }
/-- Remembers the row the head goes on from. -/
def markRow (n r : Nat) : G Unit := do
  modify (dropAnswers (.group n))
  setHead n fun e => { e with row := some r, prog := { e.prog with again := none } }

/-- The held groups of a strand as an agent (R65, R158). -/
def State.whoGroup (s : State) (n : Nat) (sup : Bool) : Who :=
  ⟨some (s.strand n).ctx, dieOf n, clusterOf n, sup, false, 1, .group n, false, .alloc⟩

/-- A memory access of a group: a failure stops it, row-ordered at `row` where it has one; uncorrectable data has a cause of
its own (R312, R227). -/
def liftG {α : Type} (row : Option Nat) (x : A α) : G α := fun s =>
  match x s with
  | .ok a s => .ok a s
  | .error (.fault c sub v) s =>
    if c = Cause.uncorrectable.code then .error (.stop c sub v 0 row 0 none) s
    else .error (.stop Cause.assoc.code (0x40 + c) v v row (sub.setWidth 64) none) s
  | .error (.hold _) s => .error .hold s

/-! ### Array checks -/

/-- An event in an array, charged to the item's context and logged; the record's PA is open (R473, R476). -/
def State.arrayEvent (s : State) (n : Nat) (det : Bool) : State :=
  let ctx := some (s.strand n).ctx
  let pa := (Config.freeBits s.free).toNat % 2 ^ 52
  ({ s with free := s.free + 1 }.charge ctx det).logEvent pa ctx 1 (BitVec.ofNat 8 (dieOf n)) (if det then 2 else 1)

/-- A parity group of a row's lower copy is repaired from the upper copy (R223): its columns (R221), which are then good. -/
def Group.repair (x : Group) (row j : Nat) : Group :=
  let w := if j = 0 then 24 else 32
  (x.setRow row (setCols (x.row row) (32 * j) w (getCols (x.row (row + 32768)) (32 * j) w))).setBad row
    (x.bad row &&& ~~~((1 : BitVec 32) <<< j))
/-- Reads some parity groups in row `r` (R223): the first bad one, after class P has repaired those that fail from a good
upper copy. Where only some have a good one, none is repaired, one detected event is charged and the lowest that fails is
named (DESIGN CHOICE log 119). -/
def View.readGroups (v : View) (js : List Nat) (r : Nat) : G (Option Nat) := do
  if v.cls = 0 then return none
  let s ← get
  let g := v.grp r
  let x := s.group g
  let row := r % v.per
  let fails := js.filter fun j => (x.bad row).getLsbD j
  match fails with
  | [] => return none
  | j :: _ =>
    if v.cls = 2 && fails.all (fun j => !(x.bad (row + 32768)).getLsbD j) then
      set ((s.setGroup g (fails.foldl (fun x j => x.repair row j) x)).arrayEvent v.n false)
      return none
    else
      modify fun s => s.arrayEvent v.n true
      return some j
/-- Reads the parity groups of a field in row `r` (R223). -/
def View.readParity (v : View) (d : Word) (r : Nat) : G (Option Nat) := v.readGroups (parityMeets (dBase d) (dWidth d)) r
/-- A field load checks the parity groups it covers only in part before it merges into them (R223). -/
def View.mergeCheck (v : View) (d : Word) (r : Nat) : G Unit := do
  let inside := parityInside (dBase d) (dWidth d)
  match ← v.readGroups ((parityMeets (dBase d) (dWidth d)).filter fun j => !inside.contains j) r with
  | none => return ()
  | some j => stopRow r .assoc 8 (BitVec.ofNat 64 r) (BitVec.ofNat 64 j)
/-- A readout of one row: a parity failure is a row-ordered stop (R223). -/
def View.readCheck (v : View) (d : Word) (r : Nat) : G Unit := do
  match ← v.readParity d r with
  | none => return ()
  | some j => stopRow r .assoc 8 (BitVec.ofNat 64 r) (BitVec.ofNat 64 j)

/-! ### Elements in memory (R311) -/

/-- Bytes of an element: none for a 4-bit element laid out two to a byte (Table 10.5). -/
def elemBytes (d : Word) : Option Nat :=
  let t := dTag d
  let w := dWidth d
  if t = 0x0B || t = 0x10 then none
  else if w ≤ 8 then some 1 else if w ≤ 16 then some 2 else if w ≤ 32 then some 4 else some 8
/-- Byte offset and size of the element of row `r` laid out linearly. -/
def elemAt (d : Word) (r : Nat) : Nat × Nat :=
  match elemBytes d with | none => (r / 2, 1) | some e => (r * e, e)
/-- Bytes that a scattered or strided element takes: 4-bit elements take one. -/
def elemSize (d : Word) : Nat := (elemBytes d).getD 1
/-- Code extended to `8 e` bits: copies of the top bit for tag 0x02 (R311). -/
def extendCode (d : Word) (e c : Nat) : Nat :=
  if dTag d = 2 then ((sInt (dWidth d) c) % ((2 ^ (8 * e) : Nat) : Int)).toNat else c

/-- Checks a group's access to `n` bytes of one element: alignment, then R158 (R312). -/
def groupCheck (w : Who) (acc : Acc) (va : Word) (n : Nat) : A (Place × BitVec 2) := do
  if va.toNat % n ≠ 0 then failA .align 0 va
  check w acc va
/-- The checks of a group's access and, at the host, the wait for its translation (R182). -/
def groupReady (w : Who) (acc : Acc) (va : Word) (n : Nat) : A Place := do
  let (pl, _) ← groupCheck w acc va n
  match pl with
  | .host addr => hostReady w addr va
  | _ => pure ()
  return pl
/-- Reads one element of a group: check, pennant gate, read (R312). -/
def groupTake (n : Nat) (e : QEntry) (row : Option Nat) (va : Word) (k : Nat) (again : Bool) :
    G (List Byte × Option Nat) := do
  let w := { (← get).whoGroup n e.sup with again := again }
  let (pl, _) ← liftG row (groupCheck w .rd va k)
  liftG row (gate w e.slots va k)
  liftG row (readPlace w pl k va)
/-- Reads one element of a group; marked data is read once more, and still marked it stops the instruction (R226). The second
read meets no event of its own (R473). -/
def groupReadAt (n : Nat) (e : QEntry) (row : Option Nat) (va : Word) (k : Nat) : G (List Byte) := do
  let again : G (List Byte) := do
    let (bs, bad) ← groupTake n e row va k true
    match bad with
    | none => return bs
    | some pa =>
      setProg n fun p => { p with again := none }
      throw (.stop Cause.uncorrectable.code 0 (BitVec.ofNat 64 pa) 0 row 0 none)
  if (((← get).strand n).queue.head?.bind fun e => e.prog.again) = some va then again
  else
    let (bs, bad) ← groupTake n e row va k false
    if bad.isNone then return bs
    modify (dropAnswers (.group n))
    setProg n fun p => { p with again := some va }
    again
/-- Reads one element of row `row` of a group (R226). -/
def groupRead (n : Nat) (e : QEntry) (row : Nat) (va : Word) (k : Nat) : G (List Byte) := groupReadAt n e (some row) va k
/-- A write of a group that has passed its checks is made; stores of its strand that it has not seen come before (DESIGN CHOICE
log 6). -/
def groupPut (n : Nat) (row : Option Nat) (w : Who) (pl : Place) (va : Word) (bs : List Byte) : G Unit := do
  modify fun s => s.seen n
  liftG row (writePlace w pl bs va)
/-- Writes one element of a group. -/
def groupWrite (n : Nat) (sup : Bool) (row : Nat) (va : Word) (bs : List Byte) : G Unit := do
  let w := (← get).whoGroup n sup
  let pl ← liftG (some row) (groupReady w .wr va bs.length)
  groupPut n (some row) w pl va bs

end Sys2Proof.Machine
end

