-- ==== Sys2Proof/Machine/AssocSearch.lean ====
section
/-!
DEFINITION. Search, masks, selection, reduction and append of the held groups (09 R266 to R288; 07 R239).
-/
namespace Sys2Proof.Machine

/-- Columns of a field. -/
def dCols (d : Word) : Nat × Nat := (dBase d, dWidth d)
/-- Columns of a mask as a source: none for m*. -/
def mCols (m : Nat) : List (Nat × Nat) := if m < 24 then [(m, 1)] else []
/-- All ones: no row. -/
def noRow : Word := 0xFFFFFFFFFFFFFFFF
/-- A row index as a result. -/
def rowWord (r : Nat) : Word := BitVec.ofNat 64 r

/-- Writes mask `md`: `f` in governed rows, 0 elsewhere (R215). -/
def writeMd (v : View) (mg md : Nat) (f : Nat → Bool) : G Unit :=
  modify fun s => v.setMask md ((v.reached s).map fun r => (r, maskBit (v.row s r) mg && f r)) s
/-- Code returned to a scalar: sign-extended for tag 0x02 (R277). -/
def scalarCode (d : Word) (c : Nat) : Word :=
  if dTag d = 2 then BitVec.ofInt 64 (sInt (dWidth d) c) else BitVec.ofNat 64 c

/-- AWHILE (R267). -/
def opWhile (v : View) (mg md : Nat) (bound base : Word) : G Unit := do
  writeMd v mg md fun r => base.toNat + r < bound.toNat
  let h := v.rows
  if bound.toNat ≤ base.toNat then
    modify fun s => s.setStrand v.n { s.strand v.n with ffidx := 0 }
  else if bound.toNat - base.toNat < h then
    modify fun s => s.setStrand v.n { s.strand v.n with ffidx := BitVec.ofNat 19 (bound.toNat - base.toNat) }

/-- ASRCH (R268): 0 set, 1 and, 2 or. -/
def opSearch (v : View) (mg : Nat) (comb : BitVec 2) (md fa : Nat) (key : Word) : G Unit := do
  let d := v.desc (← get) fa
  let s ← get
  let k := key.toNat % 2 ^ dWidth d
  writeMd v mg md fun r =>
    let row := v.row s r
    let hit := fieldCode d row == k
    if comb = 0 then hit else if comb = 1 then maskBit row md && hit else maskBit row md || hit

/-- Comparison key of a code: raw for eq and ne, exact value for two integer-class fields, else OrderKey (R269). -/
def cmpKey (ordered ints : Bool) (d : Word) (c : Nat) : Int :=
  if ints then intOf (dTag d) (dWidth d) c else if ordered then orderKey (dTag d) (dWidth d) c else c
/-- The conditions of ACMP: 0 eq, 1 ne, 2 lt, 3 ge (R269). -/
def cmpCond (cond : BitVec 2) (x y : Int) : Bool :=
  if cond = 0 then x == y else if cond = 1 then x != y else if cond = 2 then decide (x < y) else decide (y ≤ x)
/-- ACMP (R269). -/
def opCompare (v : View) (mg : Nat) (cond : BitVec 2) (rev : Bool) (md fa : Nat) (src : ASrc) (op : Word) : G Unit := do
  let s0 ← get
  let d := v.desc s0 fa
  let ordered := 2 ≤ cond.toNat
  let (d2, ints) := match src with
    | .fld fb =>
      let d2 := v.desc s0 fb
      (d2, isIntTag (dTag d) && isIntTag (dTag d2))
    | .op => (d, false)
  let s ← get
  writeMd v mg md fun r =>
    let x := cmpKey ordered ints d (v.code s d r)
    let y := cmpKey ordered ints d2 (match src with | .fld _ => v.code s d2 r | .op => op.toNat % 2 ^ dWidth d)
    if rev then cmpCond cond y x else cmpCond cond x y

/-- AINTV (R270): bit 1 opens the low end, bit 0 the high end. -/
def opInterval (v : View) (mg : Nat) (kind : BitVec 2) (md fa : Nat) (hi lo : Word) : G Unit := do
  let d := v.desc (← get) fa
  let s ← get
  let key (c : Nat) : Int := orderKey (dTag d) (dWidth d) c
  let l := key (lo.toNat % 2 ^ dWidth d)
  let h := key (hi.toNat % 2 ^ dWidth d)
  writeMd v mg md fun r =>
    let x := key (v.code s d r)
    (if kind.getLsbD 1 then decide (l < x) else decide (l ≤ x))
      && (if kind.getLsbD 0 then decide (x < h) else decide (x ≤ h))

/-- Takes the next element of stream `z` for AMATCH; the keys taken stay in the queue entry (R271). A stream that brings no
more elements stops it: one that is unbound or has ended as a read of it would, one whose fill failed with the cause of that
failure, which is then over (DESIGN CHOICE log 48). -/
def takeKey (v : View) (z : Nat) (acc : List Word) : G Word := do
  let s ← get
  let st := s.strand v.n
  let put (x : Stream) (s : State) : State := s.setStrand v.n { st with streams := Tab.insert st.streams z x }
  match Tab.find st.streams z with
  | none => stopAt .stream 1 (BitVec.ofNat 64 z)
  | some x =>
    if recCount x.record ≤ x.next then stopAt .stream 2 (BitVec.ofNat 64 z)
    else match x.buf, x.fail with
      | w :: rest, _ =>
        set (put { x with next := x.next + 1, buf := rest } s)
        setHead v.n fun e => { e with acc := acc ++ [w] }
        return w
      | [], some (c, sub, val) =>
        set (put { x with fail := none } s)
        liftG none (throw (.fault c sub val))
      | [], none => throw .hold
/-- AMATCH with its keys (R271). -/
def opMatch (v : View) (mg md fa : Nat) (keys : List Word) : G Unit := do
  let d := v.desc (← get) fa
  let s ← get
  let ks := keys.map fun k => k.toNat % 2 ^ dWidth d
  writeMd v mg md fun r => ks.contains (v.code s d r)

/-- MLOG (R272). -/
def opMlog (v : View) (mg md ma mb : Nat) (tbl : BitVec 4) : G Unit := do
  let s ← get
  writeMd v mg md fun r =>
    let row := v.row s r
    tbl.getLsbD ((if maskBit row ma then 2 else 0) + (if maskBit row mb then 1 else 0))
/-- MSET (R272). -/
def opMset (v : View) (mg md : Nat) (b : Bool) : G Unit := do
  writeMd v mg md fun _ => b

/-- Governed rows from the row an instruction goes on from. -/
def View.from (v : View) (s : State) (mg start : Nat) : List Nat := (v.governed s mg).filter (start ≤ ·)

/-- Writes raw codes into a field in governed rows from `start` (R215). -/
def writeRaw (v : View) (mg start : Nat) (d : Word) (f : Nat → Nat) : G Unit :=
  modify fun s => v.writeFields d ((v.from s mg start).map fun r => (r, f r)) s
/-- AWR (R273). -/
def opWrite (v : View) (mg fd : Nat) (x : Word) : G Unit := do
  let d := v.desc (← get) fd
  writeRaw v mg 0 d fun _ => x.toNat % 2 ^ dWidth d
/-- AMOV (R274). -/
def opMove (v : View) (mg fd fa : Nat) : G Unit := do
  let d := v.desc (← get) fa
  let s ← get
  writeRaw v mg 0 (v.desc s fd) fun r => v.code s d r
/-- ABCAST (R275, R283). -/
def opBcast (v : View) (mg fd fa : Nat) (src : Word) (start : Nat) : G Unit := do
  let s0 ← get
  let d := v.desc s0 fa
  let ok := v.reaches s0 src.toNat && start == 0
  if ok then
    match ← v.readParity d src.toNat with
    | some j => stopRow 0 .assoc 8 src (BitVec.ofNat 64 j)
    | none => pure ()
  let s ← get
  let c := if ok then v.code s d src.toNat else 0
  writeRaw v mg start (v.desc s fd) fun _ => c
/-- AFILL (R276). -/
def opFill (v : View) (mg : Nat) (sat : Bool) (fd : Nat) (base : Word) : G Unit := do
  let s ← get
  let d := v.desc s fd
  let val (r : Nat) : Int := if dTag d = 2 && sat then base.toInt + r else (base.toNat : Int) + r
  let put (r : Nat) := intReduce (dTag d) (dWidth d) sat (val r)
  writeRaw v mg 0 d fun r => (put r).1
  modify (v.raise ((v.governed s mg).map fun r => (r, (put r).2)))

/-! ### Results returned to scalars -/

/-- APOP.m (R278). -/
def opPopM (v : View) (mg ma : Nat) : G Word := do
  let s ← get
  return BitVec.ofNat 64 ((v.governed s mg).filter fun r => maskBit (v.row s r) ma).length
/-- Reads a field in governed rows from `start` with parity checks, keeping a partial result in the queue entry (R283). -/
def foldRows (v : View) (d : Word) (f : Nat → Nat → List Word → List Word) : List Nat → List Word → G (List Word)
  | [], acc => return acc
  | r :: rs, acc => do
    v.readCheck d r
    let acc' := f r (v.code (← get) d r) acc
    setHead v.n fun e => { e with acc := acc' }
    foldRows v d f rs acc'
/-- APOP.f: the sum of the values modulo 2^64 (R278, R283). -/
def opPopF (v : View) (mg fa : Nat) (start : Nat) (acc : List Word) : G Word := do
  let s ← get
  let d := v.desc s fa
  let add (_ c : Nat) (acc : List Word) : List Word :=
    [acc.headD 0 + BitVec.ofInt 64 (intOf (dTag d) (dWidth d) c)]
  return (← foldRows v d add (v.from s mg start) acc).headD 0
/-- AFIRST (R279). -/
def opFirst (v : View) (mg : Nat) (last : Bool) (ma : Nat) : G Word := do
  let s ← get
  let rs := (v.governed s mg).filter fun r => maskBit (v.row s r) ma
  return match if last then rs.getLast? else rs.head? with | some r => rowWord r | none => noRow
/-- ANEXT (R279). -/
def opNext (v : View) (mg : Nat) (one : Bool) (md ma : Nat) : G Unit := do
  let s ← get
  let low := ((v.governed s mg).filter fun r => maskBit (v.row s r) ma).head?
  writeMd v mg md fun r =>
    match low with
    | none => false
    | some l => if one then r == l else maskBit (v.row s r) ma && r != l

/-- Whether row `p` ranks before row `q` (R280): key, then the lower row. -/
def ranks (min : Bool) (p q : Int × Nat) : Bool :=
  if p.1 = q.1 then decide (p.2 ≤ q.2) else if min then decide (p.1 < q.1) else decide (q.1 < p.1)
/-- ATOPK (R280). -/
def opTopk (v : View) (mg : Nat) (min : Bool) (md fa : Nat) (k : Word) : G Unit := do
  let d := v.desc (← get) fa
  let s ← get
  let ps := (v.governed s mg).map fun r => (orderKey (dTag d) (dWidth d) (v.code s d r), r)
  let top := ((ps.mergeSort (ranks min)).take k.toNat).map Prod.snd
  writeMd v mg md fun r => top.contains r
/-- AEXT (R281, R283): the queue entry keeps the best row and code so far. -/
def opExt (v : View) (mg : Nat) (min idx : Bool) (fa : Nat) (start : Nat) (acc : List Word) : G Word := do
  let s ← get
  let d := v.desc s fa
  let key (c : Nat) : Int := orderKey (dTag d) (dWidth d) c
  let best (r c : Nat) (acc : List Word) : List Word :=
    match acc with
    | [_, b] =>
      let better := if min then decide (key c < key b.toNat) else decide (key b.toNat < key c)
      if better then [rowWord r, BitVec.ofNat 64 c] else acc
    | _ => [rowWord r, BitVec.ofNat 64 c]
  match ← foldRows v d best (v.from s mg start) acc with
  | [r, c] => return if idx then r else scalarCode d c.toNat
  | _ => return if idx then noRow else 0
/-- ARDROW (R282, R283). -/
def opRdrow (v : View) (fa : Nat) (row : Word) (start : Nat) : G Word := do
  let s0 ← get
  let d := v.desc s0 fa
  if v.reaches s0 row.toNat && start = 0 then
    match ← v.readParity d row.toNat with
    | some j => stopRow 0 .assoc 8 row (BitVec.ofNat 64 j)
    | none => return scalarCode d (v.code (← get) d row.toNat)
  else return 0
/-- AWRROW (R282). -/
def opWrrow (v : View) (mg fd : Nat) (x row : Word) : G Unit := do
  let s ← get
  let r := row.toNat
  if v.reaches s r && maskBit (v.row s r) mg then
    set (v.writeField (v.desc s fd) r (x.toNat % 2 ^ dWidth (v.desc s fd)) s)

/-! ### Similarity, duplicates, parity -/

/-- Number of ones among the low `w` bits. -/
def onesOf (x : Nat) : Nat → Nat
  | 0 => 0
  | w + 1 => x % 2 + onesOf (x / 2) w
/-- AHAM (R284). -/
def opHam (v : View) (mg : Nat) (sat : Bool) (fd fa : Nat) (src : ASrc) (key : Word) : G Unit := do
  let s0 ← get
  let da := v.desc s0 fa
  let db := match src with | .fld fb => v.desc s0 fb | .op => 0
  let s ← get
  let d := v.desc s fd
  let put (r : Nat) : Nat × RowEv :=
    let y := match src with | .fld _ => v.code s db r | .op => key.toNat % 2 ^ dWidth da
    intReduce (dTag d) (dWidth d) sat (onesOf (v.code s da r ^^^ y) (dWidth da))
  writeRaw v mg 0 d fun r => (put r).1
  modify (v.raise ((v.governed s mg).map fun r => (r, (put r).2)))
/-- Rows whose code stands already in a lower row (R285). -/
def laterDup : List (Nat × Nat) → List Nat → List Nat
  | [], _ => []
  | (r, c) :: t, seen => if seen.contains c then r :: laterDup t seen else laterDup t (c :: seen)
/-- ACONF (R285). -/
def opConf (v : View) (mg md fa : Nat) : G Unit := do
  let d := v.desc (← get) fa
  let s ← get
  let dup := laterDup ((v.governed s mg).map fun r => (r, v.code s d r)) []
  writeMd v mg md fun r => dup.contains r
/-- ACHK (R239). -/
def opChk (v : View) (mg md fa : Nat) : G Unit := do
  let s ← get
  let d := v.desc s fa
  let js := parityMeets (dBase d) (dWidth d)
  writeMd v mg md fun r =>
    let x := s.group (v.grp r)
    let row := r % v.per
    let bad (q : Nat) := js.any fun j => (x.bad q).getLsbD j
    if v.cls = 0 then false
    else if v.cls = 1 then bad row
    else bad row || bad (row + 32768) || js.any fun j =>
      let b := if j = 0 then 0 else 32 * j
      let w := if j = 0 then 24 else 32
      getCols (x.row row) b w != getCols (x.row (row + 32768)) b w

/-! ### Append queues -/

/-- Reads a header; at a peer or the host the read keeps other updates off it until TAIL is written or it is given back
(R287; DESIGN CHOICE log 33). -/
def lockHeader (w : Who) (pl : Place) (va : Word) : A (List Byte × Option Nat) := do
  let locked : A (List Byte × Option Nat) := do
    let a ← ask w pl 64 (.update .lock) va
    let s ← get
    let ((bs, bad), s) := s.answered w pl 64 a
    set s
    return (bs, if bad then some (pl.pa / 64 * 64) else none)
  match pl with
  | .peer .. => locked
  | .host addr =>
    hostReady w addr va
    locked
  | _ => readPlace w pl 64 va
/-- Gives a header back whose TAIL is not written. -/
def State.unlockHeader (s : State) (w : Who) (pl : Place) : State :=
  let r : Remote := ⟨0, .late, w.ctx, pl, 64, .update .unlock, 0, s.cycle, none⟩
  { s with out := s.out ++ s.wire r }
/-- Header words of the append queue at `va` (R173), read by a group. -/
def readHeader (v : View) (sup : Bool) (row : Nat) (va : Word) : G (List Word) := do
  let s ← get
  let w := s.whoGroup v.n sup
  if va.toNat % 64 ≠ 0 then liftG (some row) (failA .align 0 va)
  let (pl, _) ← liftG (some row) (check w .wr va)
  modify fun s => s.seen v.n
  let (bs, bad) ← liftG (some row) (lockHeader w pl va)
  match bad with
  | some pa =>
    modify fun s => s.unlockHeader w pl
    liftG (some row) (failA .uncorrectable 0 (BitVec.ofNat 64 pa))
  | none => return (List.range 8).map fun i => BitVec.ofNat 64 (leNat ((bs.drop (8 * i)).take 8))
/-- Writes one header word. -/
def writeHeader (v : View) (sup : Bool) (row : Nat) (va : Word) (i : Nat) (x : Word) : G Unit := do
  let s ← get
  let w := s.whoGroup v.n sup
  let a := va + BitVec.ofNat 64 (8 * i)
  let (pl, _) ← liftG (some row) (check w .wr a)
  groupPut v.n (some row) w pl a (leBytes x.toNat 8)
/-- What a group does, with a header given back when it stops. -/
def orUnlock {α : Type} (v : View) (sup : Bool) (va : Word) (x : G α) : G α := fun s =>
  match x s with
  | .error (.stop c sub val addr row detail pass) s =>
    let w := s.whoGroup v.n sup
    .error (.stop c sub val addr row detail pass) (match check w .wr va s with
      | .ok (pl, _) s => s.unlockHeader w pl
      | .error _ s => s)
  | r => r
/-- Checks, then stores, queue entries (R288). -/
def checkEntries (v : View) (sup : Bool) (row : Nat) : List (Word × List Byte) → G Unit
  | [] => return ()
  | (a, bs) :: t => do
    let s ← get
    let _ ← liftG (some row) (groupReady (s.whoGroup v.n sup) .wr a bs.length)
    checkEntries v sup row t
/-- Stores queue entries. -/
def storeEntries (v : View) (sup : Bool) (row : Nat) : List (Word × List Byte) → G Unit
  | [] => return ()
  | (a, bs) :: t => do
    groupWrite v.n sup row a bs
    storeEntries v sup row t
/-- The lowest of the rows whose read fails parity, with its parity group. -/
def firstBadParity (v : View) (d : Word) : List Nat → G (Option (Nat × Nat))
  | [] => return none
  | r :: rs => do
    match ← v.readParity d r with
    | some j => return some (r, j)
    | none => firstBadParity v d rs
/-- AAPP: one atomic step on the header (R286 to R288). -/
def opApp (v : View) (mg : Nat) (sup : Bool) (val : Option Nat) (md : Nat) (va : Word) (start : Nat) : G Unit := do
  let s0 ← get
  let all := v.from s0 mg start
  let row := all.headD v.rows
  let h ← readHeader v sup row va
  let bad ← match val with
    | some fa => firstBadParity v (v.desc s0 fa) all
    | none => pure none
  let rows := match bad with | some (b, _) => all.filter (· < b) | none => all
  let w (i : Nat) : Nat := (h.getD i 0).toNat
  let esz := w 5 % 2 ^ 8
  if !(esz == 1 || esz == 2 || esz == 4 || esz == 8) then orUnlock v sup va (liftG (some row) (failA .align 0 va))
  let cap := w 1
  let tail := w 3
  let room := if cap = 0 then 0 else cap + w 2 - tail
  let n := Nat.min rows.length room
  let s ← get
  let value (r : Nat) : Nat := match val with | some fa => v.code s (v.desc s fa) r | none => r
  let entries := (List.range n).map fun j =>
    (BitVec.ofNat 64 (w 0 + (tail + j) % cap * esz), leBytes (value (rows.getD j 0)) esz)
  orUnlock v sup va (checkEntries v sup row entries)
  storeEntries v sup row entries
  writeHeader v sup row va 7 (BitVec.ofNat 64 (w 7 + rows.length - n))
  writeHeader v sup row va 3 (BitVec.ofNat 64 (tail + n))
  let done := rows.take n
  modify fun s =>
    let stop := match bad with | some (b, _) => b | none => v.rows
    v.setMask md ((v.reached s).filterMap fun r =>
      if stop ≤ r || (r < start && maskBit (v.row s r) mg) then none else some (r, done.contains r)) s
  match bad with
  | some (b, j) => stopRow b .assoc 8 (BitVec.ofNat 64 b) (BitVec.ofNat 64 j)
  | none => return ()

end Sys2Proof.Machine
end

