-- ==== Sys2Proof/Machine/AssocCompute.lean ====
section
/-!
DEFINITION. Arithmetic, conversion, quantisation, row movement, scans and sparse fields of the held groups (10 R296 to
R310; 08 R247, R257, R261).
-/
namespace Sys2Proof.Machine

/-! ### Exact results (Table 10.4) -/

/-- Square root of a rational, exact where the root is rational. -/
def FV.root : FV → Option FV
  | .fin neg n d =>
    let g := Nat.gcd n d
    let a := Nat.sqrt (n / g)
    let b := Nat.sqrt (d / g)
    if !neg && n ≠ 0 && a * a * g = n && b * b * g = d then some (.fin false a b)
    else FV.sqrt 400 (.fin neg n d)
  | v => FV.sqrt 400 v
/-- Absolute value of everything but a NaN. -/
def FV.abs : FV → FV
  | .fin _ n d => .fin false n d | .inf _ => .inf false | v => v
/-- Integer result (R297 case 1): none for a zero divisor or the root of a negative number. -/
def intExact (fn : AFn) (x y z : Int) : Option Int :=
  match fn with
  | .add => some (x + y)
  | .sub => some (x - y)
  | .mul => some (x * y)
  | .fma => some (x * y + z)
  | .div => if y = 0 then none else some (Int.tdiv x y)
  | .rem => if y = 0 then some x else some (x - y * Int.tdiv x y)
  | .abs => some x.natAbs
  | .neg => some (-x)
  | .sqrt => if x < 0 then none else some (Nat.sqrt x.toNat)
/-- Real operation: result with whether it divides by zero, or none where it is invalid (Table 10.4). -/
def realOp (fn : AFn) (mode : BitVec 3) (x y z : FV) : Option (FV × Bool) :=
  match fn with
  | .add => (x.add mode y).map (·, false)
  | .sub => (x.add mode y.flip).map (·, false)
  | .mul => (x.mul y).map (·, false)
  | .fma => ((x.mul y).bind fun p => p.add mode z).map (·, false)
  | .div => x.div y
  | .rem => some (x, false)
  | .abs => some (x.abs, false)
  | .neg => some (x.flip, false)
  | .sqrt => x.root.map (·, false)
/-- First NaN of the operands. -/
def firstNanFV : List FV → Option FV
  | [] => none
  | v :: vs => if v.isNan then some v else firstNanFV vs
/-- The default NaN as a source. -/
def defaultNan : FV := .nan false false 0 0
/-- Operands an operation reads. -/
def opArgs (fn : AFn) (x y z : FV) : List FV :=
  match fn with
  | .abs => [x] | .neg => [x] | .sqrt => [x]
  | .fma => [x, y, z]
  | _ => [x, y]
/-- Real result (R297 cases 2 to 6): NaN operands first, also where AFMA multiplies 0 by ∞ and adds a NaN, which raises
nothing (DESIGN CHOICE log 112); into D8 a zero divisor is invalid (R251). -/
def realExact (fn : AFn) (mode : BitVec 3) (d8 : Bool) (x y z : FV) : RVal :=
  let args := opArgs fn x y z
  match firstNanFV args with
  | some v => .real v (if args.any FV.isSig then 1 else 0)
  | none =>
    let zeroDiv := fn = .div && FV.cmp y (.fin false 0 1) == 0
    if d8 && zeroDiv then .real defaultNan 1
    else match realOp fn mode x y z with
      | none => .real defaultNan 1
      | some (v, dz) => .real v (if dz then 2 else 0)

/-! ### Reserved codes (R247) -/

/-- The lowest of the rows in which one of the MXINT8 fields holds 0x80. -/
def firstReserved (v : View) (s : State) (ds : List Word) (rows : List Nat) : Option Nat :=
  let ms := ds.filter fun d => dTag d == 0x0D
  if ms.isEmpty then none else rows.find? fun r => ms.any fun d => v.code s d r == 0x80
/-- A scalar code 0x80 of an MXINT8 field stops at dispatch (R247). -/
def reservedOp (d : Word) (src : ASrc) (x : Word) : G Unit :=
  if src = .op && dTag d = 0x0D && x.toNat % 256 = 0x80 then stopAt .reservedCode 0 0 else pure ()

/-! ### Putting results -/

/-- Rows of block `j` (R245). -/
def blockRows (j : Nat) : List Nat := (List.range 32).map (32 * j + ·)
/-- Rows of block `j` that an instruction which performed `mine` may zero: those, and the ungoverned ones. A governed row it
has not reached or does not revisit keeps its code (R224, R225; DESIGN CHOICE log 22). -/
def zeroRows (v : View) (s : State) (mg j : Nat) (mine : List (Nat × FV)) : List (Nat × Nat) :=
  ((blockRows j).filter fun r => mine.any (fun p => p.1 == r) || !maskBit (v.row s r) mg).map fun r => (r, 0)
/-- Blocks that hold some of the rows, ascending. -/
def blocksOf : List Nat → List Nat
  | [] => []
  | r :: rs => let t := blocksOf rs; if t.head? = some (r / 32) then t else (r / 32) :: t
/-- Quantises one block (R257): `res` are the results of the rows performed; governed rows not performed keep their
codes (DESIGN CHOICE log 22). -/
def quantBlock (v : View) (d : Word) (mg j : Nat) (res : List (Nat × FV)) (s : State) : State × RowEv :=
  let dx := v.desc s (dLink d)
  let mine := res.filter fun p => p.1 / 32 == j
  let setScale (x : Nat) (s : State) : State := v.writeFields dx ((blockRows j).map fun r => (r, x)) s
  match mxScale (dTag d) (mine.map Prod.snd) with
  | none => (setScale 0xFF (v.writeFields d (zeroRows v s mg j mine) s), 1)
  | some x =>
    let codes : List (Nat × Nat × RowEv) := (blockRows j).filterMap fun r =>
      match mine.find? fun p => p.1 == r with
      | some p =>
        let zero := mine.all fun q => FV.cmp q.2 (.fin false 0 1) == 0
        if zero then some (r, 0, 0) else let (c, e) := mxRound (dTag d) x p.2; some (r, c, e)
      | none => if maskBit (v.row s r) mg then none else some (r, 0, 0)
    (setScale x (v.writeFields d (codes.map fun p => (p.1, p.2.1)) s), codes.foldl (fun e p => e ||| p.2.2) 0)
/-- Puts results of rows into field `fd` (R297), quantising MX destinations block by block. -/
def putRows (v : View) (mg fd : Nat) (mode : BitVec 3) (sat rsat : Bool) (res : List (Nat × RVal)) : G Unit :=
  modify fun s =>
    let d := v.desc s fd
    if isMx (dTag d) then
      let vals := res.map fun p => (p.1, p.2.toFV)
      (blocksOf (res.map Prod.fst)).foldl (fun s j => let (s, e) := quantBlock v d mg j vals s; v.raise [(32 * j, e)] s)
        (v.raise (res.map fun p => (p.1, p.2.ev)) s)
    else
      let codes := res.map fun p => (p.1, putCode (dTag d) (dWidth d) mode sat rsat p.2)
      v.raise (codes.map fun p => (p.1, p.2.2)) (v.writeFields d (codes.map fun p => (p.1, p.2.1)) s)
/-- Performs rows below a reserved code, then stops there (R247). -/
def perRow (v : View) (mg start fd : Nat) (srcs : List Word) (mode : BitVec 3) (sat rsat : Bool)
    (f : State → Nat → RVal) : G Unit := do
  let s ← get
  let rows := v.from s mg start
  let bad := firstReserved v s srcs rows
  let todo := match bad with | some b => rows.filter (· < b) | none => rows
  putRows v mg fd mode sat rsat (todo.map fun r => (r, f s r))
  match bad with
  | some b => stopRow b .reservedCode 0 0 0
  | none => return ()

/-- Columns an MX field's value lies in: its own and its scale's. -/
def valueCols (v : View) (s : State) (d : Word) : List (Nat × Nat) :=
  if isMx (dTag d) then [dCols d, dCols (v.desc s (dLink d))] else [dCols d]

/-- AADD to ASQRT (R296, R297): into E5M2 by the IEEE rules, without saturation (R242, R297 case 3); into E4M3, FP6 and FP4
overflow and infinity give the bound (DESIGN CHOICE log 112). With `.rev` the scalar is the first operand, also where both are
NaN (R243, R296; DEDUCED log 123). -/
def opArith (v : View) (mg start : Nat) (mode : BitVec 3) (fn : AFn) (fd fa : Nat) (src : ASrc) (rev sat : Bool)
    (x : Word) : G Unit := do
  let s0 ← get
  let d := v.desc s0 fd
  let da := v.desc s0 fa
  let db := match src with | .fld fb => v.desc s0 fb | .op => da
  let unary := fn = .abs || fn = .neg || fn = .sqrt
  if !unary then reservedOp da src x
  let srcs := [da] ++ (match src with | .fld _ => [db] | .op => []) ++ (if fn = .fma then [d] else [])
  let rsat := dTag d != 0x08
  let ints := isIntTag (dTag d) && isIntTag (dTag da) && (unary || isIntTag (dTag db))
  perRow v mg start fd srcs mode sat rsat fun s r =>
    let cy := match src with | .fld _ => v.code s db r | .op => x.toNat % 2 ^ dWidth da
    if ints then
      let a := intOf (dTag da) (dWidth da) (v.code s da r)
      let b := intOf (dTag db) (dWidth db) cy
      let z := intOf (dTag d) (dWidth d) (v.code s d r)
      .int (if rev then intExact fn b a z else intExact fn a b z)
    else
      let a := v.value s da r
      let b := match src with | .fld _ => v.value s db r | .op => v.opValue s da r cy
      let z := v.value s d r
      let d8 := dTag d == 0x0C
      if rev then realExact fn mode d8 b a z else realExact fn mode d8 a b z

/-- AMIN and AMAX: a tie writes fa's code (R298). -/
def opSel (v : View) (mg : Nat) (max : Bool) (fd fa : Nat) (src : ASrc) (x : Word) : G Unit := do
  let s0 ← get
  let d := v.desc s0 fa
  let db := match src with | .fld fb => v.desc s0 fb | .op => d
  let s ← get
  let key (c : Nat) : Int := orderKey (dTag d) (dWidth d) c
  writeRaw v mg 0 (v.desc s fd) fun r =>
    let a := v.code s d r
    let b := match src with | .fld _ => v.code s db r | .op => x.toNat % 2 ^ dWidth d
    if max then (if key a < key b then b else a) else (if key b < key a then b else a)
/-- ACLAMP (R298). -/
def opClamp (v : View) (mg fd fa : Nat) (hi lo : Word) : G Unit := do
  let d := v.desc (← get) fa
  let s ← get
  let key (c : Nat) : Int := orderKey (dTag d) (dWidth d) c
  let h := hi.toNat % 2 ^ dWidth d
  let l := lo.toNat % 2 ^ dWidth d
  writeRaw v mg 0 (v.desc s fd) fun r =>
    let a := v.code s d r
    let y := if key h < key a then h else a
    if key y < key l then l else y
/-- ALOG (R299). -/
def opLogic (v : View) (mg : Nat) (fn : BitVec 2) (fd fa : Nat) (src : ASrc) (x : Word) : G Unit := do
  let s0 ← get
  let d := v.desc s0 fa
  let db := match src with | .fld fb => v.desc s0 fb | .op => d
  let s ← get
  let w := dWidth d
  writeRaw v mg 0 (v.desc s fd) fun r =>
    let a := v.code s d r
    let b := match src with | .fld _ => v.code s db r | .op => x.toNat % 2 ^ w
    if fn = 0 then a &&& b else if fn = 1 then a ||| b else if fn = 2 then a ^^^ b else a &&& (2 ^ w - 1 - b)

/-- Shift of a code of `w` bits by `k` (R299): 0 left, 1 right, 2 arithmetic right, 3 rotate left. -/
def shiftCode (fn : BitVec 2) (sat : Bool) (tag w c k : Nat) (td wd : Nat) : Nat × RowEv :=
  if fn = 0 then
    let x := intOf tag w c
    if w ≤ k && !sat then (0, 0)
    else if x = 0 then (0, 0)
    else intReduce td wd sat (x * ((2 ^ Nat.min k 128 : Nat) : Int))
  else if fn = 1 then (if w ≤ k then 0 else c / 2 ^ k, 0)
  else if fn = 2 then
    let x := sInt w c
    ((Int.fdiv x ((2 ^ Nat.min k 64 : Nat) : Int) % ((2 ^ w : Nat) : Int)).toNat, 0)
  else
    let j := k % w
    ((c * 2 ^ j ||| c / 2 ^ (w - j)) % 2 ^ w, 0)
/-- ASHF (R299). -/
def opShift (v : View) (mg : Nat) (fn : BitVec 2) (sat : Bool) (fd fa : Nat) (src : ASrc) (x : Word) : G Unit := do
  let s0 ← get
  let d := v.desc s0 fa
  let db := match src with | .fld fb => v.desc s0 fb | .op => d
  let s ← get
  let dd := v.desc s fd
  let put (r : Nat) : Nat × RowEv :=
    let k := match src with | .fld _ => v.code s db r | .op => x.toNat
    shiftCode fn sat (dTag d) (dWidth d) (v.code s d r) k (dTag dd) (dWidth dd)
  writeRaw v mg 0 dd fun r => (put r).1
  modify (v.raise ((v.governed s mg).map fun r => (r, (put r).2)))

/-! ### Conversion and quantisation -/

/-- A field value as a result: integers stay exact integers. -/
def fieldResult (v : View) (s : State) (d : Word) (r : Nat) : RVal :=
  if isIntTag (dTag d) then .int (some (intOf (dTag d) (dWidth d) (v.code s d r)))
  else
    let x := v.value s d r
    .real x (if x.isSig then 1 else 0)
/-- ACVT (R300). -/
def opCvt (v : View) (mg start : Nat) (mode : BitVec 3) (nosat : Bool) (fd fa : Nat) : G Unit := do
  let s0 ← get
  let d := v.desc s0 fa
  perRow v mg start fd [d] mode false (!nosat) fun s r => fieldResult v s d r
/-- ADQNT (R302). -/
def opDqnt (v : View) (mg start : Nat) (mode : BitVec 3) (nosat : Bool) (fd fa : Nat) (x : Word) : G Unit := do
  let s0 ← get
  let d := v.desc s0 fa
  perRow v mg start fd [d] mode false (!nosat) fun s r =>
    .real ((v.value s d r).scale (if x.toInt < -4096 then -4096 else if 4096 < x.toInt then 4096 else x.toInt)) 0
/-- One block of AQNT (R301): `res` are the rows performed. -/
def qntBlock (v : View) (d : Word) (mg : Nat) (keep : Bool) (x : Nat) (j : Nat) (res : List (Nat × FV)) (s : State) :
    State × RowEv :=
  let dx := v.desc s (dLink d)
  let mine := res.filter fun p => p.1 / 32 == j
  let x := if keep then v.code s dx (32 * j) else x
  let odd := mine.any fun p => !p.2.isFin
  if x = 0xFF || odd then
    (v.writeFields dx ((blockRows j).map fun r => (r, 0xFF)) (v.writeFields d (zeroRows v s mg j mine) s),
      if odd then 1 else 0)
  else
    let codes : List (Nat × Nat × RowEv) := mine.map fun p => let (c, e) := mxRound (dTag d) x p.2; (p.1, c, e)
    (v.writeFields dx ((blockRows j).map fun r => (r, x)) (v.writeFields d (codes.map fun p => (p.1, p.2.1)) s),
      codes.foldl (fun e p => e ||| p.2.2) 0)
/-- AQNT (R301). -/
def opQnt (v : View) (mg start : Nat) (keep : Bool) (fd fa : Nat) (x : Word) : G Unit := do
  let s0 ← get
  let da := v.desc s0 fa
  let s ← get
  let rows := v.from s mg start
  let bad := firstReserved v s [da] rows
  let todo := match bad with | some b => rows.filter (· < b) | none => rows
  let vals := todo.map fun r => (r, v.value s da r)
  let d := v.desc s fd
  set ((blocksOf todo).foldl (fun s j =>
    let (s, e) := qntBlock v d mg keep (x.toNat % 256) j vals s; v.raise [(32 * j, e)] s) s)
  match bad with
  | some b => stopRow b .reservedCode 0 0 0
  | none => return ()

/-! ### Row movement and scans -/

/-- ASHR (R304). -/
def opShr (v : View) (mg fd fa : Nat) (k : Word) : G Unit := do
  let d := v.desc (← get) fa
  let s ← get
  writeRaw v mg 0 (v.desc s fd) fun r =>
    let q : Int := (r : Int) - k.toInt
    if 0 ≤ q && v.reaches s q.toNat then v.code s d q.toNat else 0

/-- One step of ScanTree at distance `d` (R261): positions carry their segment start and their value, or none. -/
def scanStep {α : Type} (comb : α → α → α) (d : Nat) (x : List (Nat × Option α)) : List (Nat × Option α) :=
  let lower := List.replicate d none ++ x.map Prod.snd
  ((x.zip lower).zipIdx).map fun p =>
    let i := p.2
    let (start, y) := p.1.1
    if start + d ≤ i then
      (start, match p.1.2, y with | none, y => y | some a, none => some a | some a, some b => some (comb a b))
    else (start, y)
/-- ScanTree (R261); `fuel` bounds the steps. -/
def scanTree {α : Type} (comb : α → α → α) : Nat → Nat → List (Nat × Option α) → List (Nat × Option α)
  | 0, _, x => x
  | fuel + 1, d, x => if d < x.length then scanTree comb fuel (2 * d) (scanStep comb d x) else x
/-- Combine of a scan over codes with events; integers are summed exactly apart (R305). -/
def scanComb (fn : ScanFn) (tag w : Nat) (mode : BitVec 3) (a b : Int × RowEv) : Int × RowEv :=
  let ev := a.2 ||| b.2
  match fn with
  | .add =>
    if isIntTag tag then (a.1 + b.1, ev)
    else
      let r := realExact .add mode (tag == 0x0C) (codeValue tag w 0 a.1.toNat) (codeValue tag w 0 b.1.toNat)
        (.fin false 0 1)
      let (c, e) := putCode tag w mode false (tag != 0x08) r
      (c, ev ||| e)
  | .min => if orderKey tag w b.1.toNat < orderKey tag w a.1.toNat then (b.1, ev) else (a.1, ev)
  | .max => if orderKey tag w a.1.toNat < orderKey tag w b.1.toNat then (b.1, ev) else (a.1, ev)
  | .or => ((a.1.toNat ||| b.1.toNat : Nat), ev)
/-- The scan of field `d` over held rows with segment starts. -/
def scanRows (v : View) (s : State) (mg : Nat) (d : Word) (fn : ScanFn) (mode : BitVec 3) (starts : List Nat) :
    List (Nat × Option (Int × RowEv)) :=
  let val (r : Nat) : Option (Int × RowEv) :=
    if v.reaches s r && maskBit (v.row s r) mg then
      let c := v.code s d r
      some (if fn = .add && isIntTag (dTag d) then intOf (dTag d) (dWidth d) c else (c : Int), 0)
    else none
  scanTree (scanComb fn (dTag d) (dWidth d) mode) 20 1 ((starts.zipIdx).map fun p => (p.1, val p.2))
/-- Puts a scan's value: integer sums are reduced to fd once, at the end (R305). -/
def putScan (fn : ScanFn) (d dd : Word) (sat : Bool) (x : Int × RowEv) : Nat × RowEv :=
  if fn = .add && isIntTag (dTag d) then intReduce (dTag dd) (dWidth dd) sat x.1 else (x.1.toNat, x.2)
/-- ASCAN (R305). The events are those of the combines that a written value rests on (DESIGN CHOICE log 112). -/
def opScan (v : View) (mg : Nat) (mode : BitVec 3) (fn : ScanFn) (sat : Bool) (fd fa : Nat) : G Unit := do
  let d := v.desc (← get) fa
  let s ← get
  let dd := v.desc s fd
  let out := scanRows v s mg d fn mode (List.replicate v.rows 0)
  let puts : List (Nat × Nat × RowEv) := (out.zipIdx).filterMap fun p =>
    match p.1.2 with
    | some x => if v.reaches s p.2 && maskBit (v.row s p.2) mg then some (p.2, putScan fn d dd sat x) else none
    | none => none
  set (v.raise (puts.map fun p => (p.1, p.2.2)) (v.writeFields dd (puts.map fun p => (p.1, p.2.1)) s))
/-- Segment starts of every held row: the highest start at or below it (R306). -/
def segStarts (isStart : Nat → Bool) : Nat → Nat → Nat → List Nat
  | 0, _, _ => []
  | n + 1, r, cur => let c := if isStart r then r else cur; c :: segStarts isStart n (r + 1) c
/-- ASEGR (R306). The events are those of the combines that a written value rests on (DESIGN CHOICE log 112). -/
def opSegr (v : View) (mg : Nat) (mode : BitVec 3) (fn : ScanFn) (sat : Bool) (fd fa ms : Nat) : G Unit := do
  let d := v.desc (← get) fa
  let s ← get
  let dd := v.desc s fd
  let starts := segStarts (fun r => r == 0 || (v.reaches s r && maskBit (v.row s r) ms)) v.rows 0 0
  let out := (scanRows v s mg d fn mode starts).zipIdx
  -- the value at the last row of a segment, looked up by the segment's start
  let last : Tab (Option (Int × RowEv)) := out.foldl (fun t p =>
    match t with
    | (k, x) :: u => if k = p.1.1 then (k, p.1.2) :: u else (p.1.1, p.1.2) :: (k, x) :: u
    | [] => [(p.1.1, p.1.2)]) []
  let puts : List (Nat × Nat × RowEv) := out.filterMap fun p =>
    if v.reaches s p.2 && maskBit (v.row s p.2) mg then
      match Tab.find last p.1.1 with
      | some (some x) => some (p.2, putScan fn d dd sat x)
      | _ => none
    else none
  set (v.raise (puts.map fun p => (p.1, p.2.2)) (v.writeFields dd (puts.map fun p => (p.1, p.2.1)) s))

/-! ### Sparse fields (R307 to R310) -/

/-- Entries of a sparse field in governed rows: coordinate code and row (R308). -/
def entriesOf (v : View) (s : State) (mg : Nat) (d : Word) : List (Nat × Nat) :=
  ((List.range (Nat.min (dLen d) v.rows)).filter fun r => v.reaches s r && maskBit (v.row s r) mg).map
    fun r => (v.code s d r, r)
/-- Takes the first untaken entry with coordinate `c`; answers its row and the rest. -/
def takeEntry (c : Nat) : List (Nat × Nat) → Option (Nat × List (Nat × Nat))
  | [] => none
  | (k, r) :: t => if k == c then some (r, t) else (takeEntry c t).map fun p => (p.1, (k, r) :: p.2)
/-- Pairs the entries of A with those of B (R308): coordinate, A's row, B's row; entries of B left at the end. -/
def pairUp : List (Nat × Nat) → List (Nat × Nat) → List (Nat × Option Nat × Option Nat)
  | [], b => b.map fun p => (p.1, none, some p.2)
  | (c, r) :: a, b =>
    match takeEntry c b with
    | some (q, rest) => (c, some r, some q) :: pairUp a rest
    | none => (c, some r, none) :: pairUp a b
/-- Result of one pair: the exact product or sum, or the value alone. -/
def pairResult (v : View) (s : State) (fn : AFn) (mode : BitVec 3) (da db dd : Word) (x y : Option Nat) : RVal :=
  match x, y with
  | some r, some q =>
    if isIntTag (dTag da) && isIntTag (dTag db) && isIntTag (dTag dd) then
      .int (intExact fn (intOf (dTag da) (dWidth da) (v.code s da r)) (intOf (dTag db) (dWidth db) (v.code s db q)) 0)
    else realExact fn mode (dTag dd == 0x0C) (v.value s da r) (v.value s db q) (.fin false 0 1)
  | some r, none => fieldResult v s da r
  | none, some q => fieldResult v s db q
  | none, none => .int (some 0)
/-- LEN of a descriptor replaced. -/
def setLen (d : Word) (n : Nat) : Word := (d &&& ~~~((0x3FFFF : Word) <<< 27)) ||| (BitVec.ofNat 64 (n % 2 ^ 18) <<< 27)
/-- A new LEN in every group copy and, on retirement, in the strand's (R310). -/
def newLen (v : View) (fd n : Nat) : G Unit := modify fun s =>
  let s := v.setDesc fd (setLen (v.desc s fd) n) s
  let st := s.strand v.n
  s.setStrand v.n { st with desc := Tab.put 0 st.desc fd (setLen (Tab.get 0 st.desc fd) n) }
/-- The largest LEN that fits (Table 7.1, DESIGN CHOICE log 23). -/
def maxLen (v : View) : Nat := Nat.min v.rows 262143
/-- ASPI and ASPU (R308). Entries lost beyond the held rows raise SPOV in the last held group (R295; DESIGN CHOICE log 97).
-/
def opPair (v : View) (mg : Nat) (mode : BitVec 3) (union sat : Bool) (fd fa fb : Nat) : G Unit := do
  let s0 ← get
  let ca := v.desc s0 fa
  let cb := v.desc s0 fb
  let s ← get
  let cd := v.desc s fd
  let da := v.desc s (dLink ca)
  let db := v.desc s (dLink cb)
  let dd := v.desc s (dLink cd)
  let all := pairUp (entriesOf v s mg ca) (entriesOf v s mg cb)
  let out := if union then all else all.filter fun p => p.2.1.isSome && p.2.2.isSome
  let n := Nat.min out.length (maxLen v)
  let kept : List (Nat × Nat × Option Nat × Option Nat) := ((out.take n).zipIdx).map fun p => (p.2, p.1)
  let fn : AFn := if union then .add else .mul
  let puts : List (Nat × Nat × RowEv) := kept.map fun p =>
    (p.1, putCode (dTag dd) (dWidth dd) mode sat (dTag dd != 0x08) (pairResult v s fn mode da db dd p.2.2.1 p.2.2.2))
  let evs := (v.rows - 1, if n < out.length then evSpov else 0) :: puts.map fun p => (p.1, p.2.2)
  let s := v.writeFields cd (kept.map fun p => (p.1, p.2.1)) s
  set (v.raise evs (v.writeFields dd (puts.map fun p => (p.1, p.2.1)) s))
  newLen v fd n
/-- ASPLEN.mask (R309). -/
def opPlenMask (v : View) (mg md fa : Nat) : G Unit := do
  let s ← get
  writeMd v mg md fun r => r < dLen (v.desc s fa)

end Sys2Proof.Machine
end

