-- ==== Sys2Proof/Machine/AssocMemory.lean ====
section
/-!
DEFINITION. Field memory and table lookup of the held groups (10 R303, R311 to R317), array modes (07 R234, R235).
-/
namespace Sys2Proof.Machine

/-! ### Loads (R312) -/

/-- Address and size of row `r`'s element, and whether it is the upper nibble (R311, R312). -/
def elemAddr (v : View) (s : State) (d : Word) (ad : AAddr) (a stride : Word) (r : Nat) : Word × Nat × Option Bool :=
  let e := elemSize d
  match ad with
  | .lin => let (o, n) := elemAt d r
    (a + BitVec.ofNat 64 o, n, if (elemBytes d).isNone then some (r % 2 == 1) else none)
  | .str => (a + BitVec.ofNat 64 r * stride, e, none)
  | .idx fb =>
    let db := v.desc s fb
    (a + BitVec.ofInt 64 (intOf (dTag db) (dWidth db) (v.code s db r) * e), e, none)
/-- Code of an element read (R311). -/
def elemCode (d : Word) (nib : Option Bool) (bs : List Byte) : Nat :=
  match nib with
  | some hi => (if hi then leNat bs / 16 else leNat bs) % 16
  | none => leNat bs % 2 ^ dWidth d
/-- Whether the checks of a group's read and its pennant gate let it through, with the state they leave; a hold stays a hold
(R312, R172, R182). -/
def tryCheck (n : Nat) (e : QEntry) (va : Word) (k : Nat) : G Bool := fun s =>
  let w := s.whoGroup n e.sup
  match (do let _ ← groupReady w .rd va k; gate w e.slots va k : A Unit) s with
  | .ok _ s => .ok true s
  | .error (.fault ..) s => .ok false s
  | .error (.hold _) s => .error .hold s
/-- Sets FFIDX of the strand (R312). -/
def setFfidx (n r : Nat) : G Unit :=
  modify fun s => s.setStrand n { s.strand n with ffidx := BitVec.ofNat 19 r }
/-- The parity groups of an index field that a row's address is made from are checked as a readout (R223). -/
def AAddr.readCheck (v : View) (ad : AAddr) (r : Nat) : G Unit := do
  match ad with
  | .idx fb => v.readCheck (v.desc (← get) fb) r
  | _ => return ()
/-- Rows of a load in ascending order (R312). -/
def loadRows (v : View) (e : QEntry) (ff : Bool) (d : Word) (ad : AAddr) (a stride : Word) : Bool → List Nat → G Unit
  | _, [] => if ff then setFfidx v.n v.rows else pure ()
  | first, r :: rs => do
    ad.readCheck v r
    let s ← get
    let (va, k, nib) := elemAddr v s d ad a stride r
    let ok ← if ff && !first then tryCheck v.n e va k else pure true
    if !ok then setFfidx v.n r
    else
      let bs ← groupRead v.n e r va k
      v.mergeCheck d r
      modify (v.writeField d r (elemCode d nib bs))
      markRow v.n (r + 1)
      loadRows v e ff d ad a stride false rs
/-- ALD, ALDS, ALDX (R312). -/
def opLd (v : View) (e : QEntry) (ff : Bool) (ad : AAddr) (fd : Nat) (a stride : Word) (start : Nat) : G Unit := do
  let s ← get
  loadRows v e ff (v.desc s fd) ad a stride e.row.isNone (v.from s e.mg start)

/-! ### Stores (R313) -/

/-- Stores one element, the other nibble of a 4-bit element's byte kept (R81, R313). The bits beside an element that has a byte
of its own are written zero, as R311 says, where R81 keeps them as last read (DESIGN CHOICE log 116). -/
def storeElem (v : View) (sup : Bool) (r : Nat) (va : Word) (k : Nat) (nib : Option Bool) (c : Nat) : G Unit := do
  match nib with
  | none => groupWrite v.n sup r va (leBytes c k)
  | some hi =>
    let s ← get
    let w := s.whoGroup v.n sup
    let pl ← liftG (some r) (groupReady w .wr va 1)
    modify fun s => s.seen v.n
    let (bs, _) ← liftG (some r) (readPlace w pl 1 va)
    let old := leNat bs
    let new := if hi then old % 16 + 16 * (c % 16) else old / 16 * 16 + c % 16
    groupPut v.n (some r) w pl va (leBytes new 1)
/-- Rows of a store in ascending order (R313). -/
def storeRows (v : View) (sup : Bool) (d : Word) (ad : AAddr) (a stride : Word) : List Nat → G Unit
  | [] => return ()
  | r :: rs => do
    v.readCheck d r
    ad.readCheck v r
    let s ← get
    let (va, k, nib) := elemAddr v s d ad a stride r
    storeElem v sup r va k nib (extendCode d k (v.code s d r))
    markRow v.n (r + 1)
    storeRows v sup d ad a stride rs
/-- AST, ASTS, ASTX (R313). -/
def opSt (v : View) (e : QEntry) (ad : AAddr) (fa : Nat) (a stride : Word) (start : Nat) : G Unit := do
  let s ← get
  storeRows v e.sup (v.desc s fa) ad a stride (v.from s e.mg start)

/-! ### Segments (R315) -/

/-- Whether a segment word is well formed (Table 10.6). -/
def segOk (w : Word) : Bool :=
  let tag := bits w 0 5
  let mw := bits w 5 7
  bits w 36 28 == 0 && 1 ≤ tag && tag ≤ 0x0C
    && (match tagWidth tag with | some x => mw == x | none => mw == 8 || mw == 16 || mw == 32 || mw == 64)
/-- Memory element as a descriptor: tag and width. -/
def segDesc (w : Word) : Word := BitVec.ofNat 64 (bits w 0 5 * 2 ^ 17 + bits w 5 7 * 2 ^ 10)
/-- Address of element `i` of record `r`. -/
def segAddr (a w : Word) (n r i : Nat) : Word :=
  let e := elemSize (segDesc w)
  let stride := if bits w 12 24 = 0 then n * e else bits w 12 24
  a + BitVec.ofNat 64 (r * stride + i * e)
/-- Checks all elements of a record. -/
def segCheck (v : View) (sup : Bool) (acc : Acc) (r k : Nat) : List Word → G Unit
  | [] => return ()
  | va :: t => do
    let s ← get
    let _ ← liftG (some r) (groupReady (s.whoGroup v.n sup) acc va k)
    segCheck v sup acc r k t
/-- Reads all elements of a record. -/
def segRead (v : View) (e : QEntry) (r k : Nat) : List Word → G (List Nat)
  | [] => return []
  | va :: t => do
    let bs ← groupRead v.n e r va k
    return leNat bs :: (← segRead v e r k t)
/-- Checks the parity groups of fields `fd` upwards that a row's elements merge into (R223, R224). -/
def segMerge (v : View) (r : Nat) : Nat → Nat → G Unit
  | 0, _ => return ()
  | n + 1, fd => do
    v.mergeCheck (v.desc (← get) fd) r
    segMerge v r n (fd + 1)
/-- Value of a code of a descriptor as a result. -/
def codeResult (d : Word) (c : Nat) : RVal :=
  if isIntTag (dTag d) then .int (some (intOf (dTag d) (dWidth d) c))
  else
    let x := codeValue (dTag d) (dWidth d) 0 c
    .real x (if x.isSig then 1 else 0)
/-- Writes converted elements into consecutive fields of row `r`. -/
def segPut (v : View) (mode : BitVec 3) (nosat : Bool) (md : Word) (fd r : Nat) : List Nat → G Unit
  | [] => return ()
  | c :: t => do
    let s ← get
    let d := v.desc s fd
    let (x, ev) := putCode (dTag d) (dWidth d) mode false (!nosat) (codeResult md (c % 2 ^ dWidth md))
    modify fun s => v.raise [(r, ev)] (v.writeField d r x s)
    segPut v mode nosat md (fd + 1) r t
/-- Rows of ALDSEG. -/
def ldsegRows (v : View) (e : QEntry) (nosat : Bool) (n fd : Nat) (a w : Word) : List Nat → G Unit
  | [] => return ()
  | r :: rs => do
    let md := segDesc w
    let k := elemSize md
    let addrs := (List.range n).map (segAddr a w n r)
    segCheck v e.sup .rd r k addrs
    let cs ← segRead v e r k addrs
    segMerge v r n fd
    segPut v e.mode nosat md fd r cs
    markRow v.n (r + 1)
    ldsegRows v e nosat n fd a w rs
/-- ALDSEG (R315). -/
def opLdseg (v : View) (e : QEntry) (nosat : Bool) (n fd : Nat) (a w : Word) (start : Nat) : G Unit := do
  let s ← get
  ldsegRows v e nosat n fd a w (v.from s e.mg start)
/-- Codes of the elements of row `r` to store, with parity checks and events. -/
def segTake (v : View) (mode : BitVec 3) (nosat : Bool) (md : Word) (r : Nat) : Nat → Nat → G (List (Nat × RowEv))
  | 0, _ => return []
  | n + 1, fa => do
    let d := v.desc (← get) fa
    v.readCheck d r
    let s ← get
    let c := putCode (dTag md) (dWidth md) mode false (!nosat) (fieldResult v s d r)
    return c :: (← segTake v mode nosat md r n (fa + 1))
/-- Stores a record's elements. -/
def segStore (v : View) (sup : Bool) (r : Nat) (md : Word) : List (Word × Nat) → G Unit
  | [] => return ()
  | (va, c) :: t => do
    groupWrite v.n sup r va (leBytes (extendCode md (elemSize md) c) (elemSize md))
    segStore v sup r md t
/-- Rows of ASTSEG: all checks of a row come before its stores. -/
def stsegRows (v : View) (e : QEntry) (nosat : Bool) (n fa : Nat) (a w : Word) : List Nat → G Unit
  | [] => return ()
  | r :: rs => do
    let md := segDesc w
    let addrs := (List.range n).map (segAddr a w n r)
    let cs ← segTake v e.mode nosat md r n fa
    segCheck v e.sup .wr r (elemSize md) addrs
    segStore v e.sup r md (addrs.zip (cs.map Prod.fst))
    modify (v.raise (cs.map fun p => (r, p.2)))
    markRow v.n (r + 1)
    stsegRows v e nosat n fa a w rs
/-- ASTSEG (R315). -/
def opStseg (v : View) (e : QEntry) (nosat : Bool) (n fa : Nat) (a w : Word) (start : Nat) : G Unit := do
  let s ← get
  stsegRows v e nosat n fa a w (v.from s e.mg start)

/-! ### Table lookup (R303) -/

/-- Reads bytes of the table from the local window, each through the pennant gates; any failure stops before the first pass
(R172, R303). -/
def tableBytes (v : View) (e : QEntry) : Nat → Word → G (List Byte)
  | 0, _ => return []
  | n + 1, va => do
    if !inWindow va then liftG none (failA .xlate 5 va)
    let (bs, _) ← groupTake v.n e none va 1 false
    return bs ++ (← tableBytes v e n (va + 1))
/-- The table of ALUT (R303). -/
def opLutTable (v : View) (e : QEntry) (fd : Nat) (t n : Word) : G (List Byte) := do
  tableBytes v e (n.toNat * elemSize (v.desc (← get) fd)) t
/-- ALUT with the bytes of its table (R303). -/
def opLut (v : View) (mg fd fa : Nat) (bs : List Byte) (n : Word) : G Unit := do
  let s0 ← get
  let d := v.desc s0 fd
  let da := v.desc s0 fa
  let k := elemSize d
  modify fun s => v.writeFields d (((v.governed s mg).filter fun r => v.code s da r < n.toNat).map fun r =>
    (r, leNat ((bs.drop (v.code s da r * k)).take k) % 2 ^ dWidth d)) s

/-! ### Images (R316, R317) -/

/-- Writes bytes of an image at its base plus `off`, within pages; a failure is row-ordered at `row` where it has one. -/
def imageWrite (v : View) (sup : Bool) (row : Option Nat) (a : Word) : Nat → List Byte → G Unit
  | _, [] => return ()
  | off, bs => do
    let s ← get
    let w := s.whoGroup v.n sup
    let va := a + BitVec.ofNat 64 off
    let (pl, _) ← liftG row (check w .wr va)
    groupPut v.n row w pl va bs
/-- Reads an element or a word of an image (R226). -/
def imageRead (v : View) (e : QEntry) (row : Option Nat) (va : Word) (n : Nat) : G (List Byte) := groupReadAt v.n e row va n
/-- Reads 8-byte words of an image, each under its own page (R317). -/
def imageWords (v : View) (e : QEntry) : Nat → Word → G (List Word)
  | 0, _ => return []
  | n + 1, va => do
    let bs ← imageRead v e none va 8
    return BitVec.ofNat 64 (leNat bs) :: (← imageWords v e n (va + 8))
/-- Elements of ASAVE.f: every row reached is checked as a readout; an excluded row saves as zero (R316, R317). -/
def saveRows (v : View) (sup : Bool) (d : Word) (a : Word) : List Nat → G Unit
  | [] => return ()
  | r :: rs => do
    let s ← get
    let live := v.reaches s r
    if live then v.readCheck d r
    let s ← get
    let (va, k, nib) := elemAddr v s d .lin a 0 r
    storeElem v sup r va k nib (if live then extendCode d k (v.code s d r) else 0)
    markRow v.n (r + 1)
    saveRows v sup d a rs
/-- Bytes of ASAVE.m: eight rows a byte. -/
def saveMask (v : View) (sup : Bool) (m : Nat) (a : Word) : List Nat → G Unit
  | [] => return ()
  | b :: t => do
    let s ← get
    let x := (List.range 8).foldl (fun x i =>
      let r := 8 * b + i
      if v.reaches s r && maskBit (v.row s r) m then x + 2 ^ i else x) 0
    imageWrite v sup (some (8 * b)) a b (leBytes x 1)
    markRow v.n (8 * b + 8)
    saveMask v sup m a t
/-- Words of ASAVE.desc. -/
def saveDescs (v : View) (sup : Bool) (a : Word) : List Nat → G Unit
  | [] => return ()
  | k :: t => do
    let s ← get
    imageWrite v sup none a (8 * k) (leBytes (v.desc s k).toNat 8)
    saveDescs v sup a t
/-- Rows from `start`. -/
def rowsFrom (start n : Nat) : List Nat := (List.range n).filter (start ≤ ·)
/-- ASAVE (R316, R317); bytes +16 to +63 of a mask's image, of which Table 10.7 says nothing, are zero (DESIGN CHOICE log 125). -/
def opSave (v : View) (e : QEntry) (img : AImage) (k : Nat) (a : Word) (start : Nat) : G Unit := do
  let header (w0 : Word) : G Unit :=
    imageWrite v e.sup (some start) a 0 (leBytes w0.toNat 8 ++ leBytes v.rows 8 ++ List.replicate 48 0)
  match img with
  | .f =>
    let d := v.desc (← get) k
    if e.row.isNone then header d
    if !dUnconf d then saveRows v e.sup d (a + 64) (rowsFrom start v.rows)
  | .m =>
    if e.row.isNone then header (BitVec.ofNat 64 k)
    saveMask v e.sup k (a + 64) ((List.range (v.rows / 8)).filter fun b => start < 8 * b + 8)
  | .desc => saveDescs v e.sup a (List.range 32)
  | .ev =>
    let s ← get
    let w := v.held.foldl (fun (x : RowEv) g => x ||| (s.group g).event) 0
    imageWrite v e.sup none a 0 (leBytes w.toNat 8)
    modify fun s => v.held.foldl (fun s g => s.setGroup g { s.group g with event := 0 }) s
/-- Sets ADIRTY for every configured field whose columns meet those written (R229). -/
def dirtyMeets (st : Strand) (d : Word) : BitVec 32 :=
  (List.range 32).foldl (fun (x : BitVec 32) k =>
    let y := Tab.get 0 st.desc k
    if !dUnconf y && dMeets y d then x ||| ((1 : BitVec 32) <<< k) else x) 0
/-- Elements of ARSTR.f: a row written sets ADIRTY for every configured field whose columns it meets (R229). -/
def restoreRows (v : View) (e : QEntry) (d : Word) (a : Word) : List Nat → G Unit
  | [] => return ()
  | r :: rs => do
    let s ← get
    let (va, k, nib) := elemAddr v s d .lin a 0 r
    let bs ← imageRead v e (some r) va k
    if v.reaches s r then
      v.mergeCheck d r
      modify (v.writeField d r (elemCode d nib bs))
      modify fun s =>
        let st := s.strand v.n
        s.setStrand v.n { st with adirty := st.adirty ||| dirtyMeets st d }
    markRow v.n (r + 1)
    restoreRows v e d a rs
/-- Bytes of ARSTR.m. -/
def restoreMask (v : View) (e : QEntry) (m start : Nat) (a : Word) : List Nat → G Unit
  | [] => return ()
  | b :: t => do
    let x := leNat (← imageRead v e (some (Nat.max start (8 * b))) (a + BitVec.ofNat 64 b) 1)
    modify fun s => v.setMask m ((List.range 8).filterMap fun i =>
      let r := 8 * b + i
      if start ≤ r && v.reaches s r then some (r, x / 2 ^ i % 2 == 1) else none) s
    markRow v.n (8 * b + 8)
    restoreMask v e m start a t
/-- A descriptor into every group copy and the strand's (R317). -/
def putDesc (v : View) (k : Nat) (d : Word) : G Unit := modify fun s =>
  let s := v.setDesc k d s
  let st := s.strand v.n
  s.setStrand v.n { st with desc := Tab.put 0 st.desc k d }
/-- ARSTR (R316, R317); word +8 is compared whole with H (DEDUCED log 126). -/
def opRstr (v : View) (e : QEntry) (img : AImage) (k : Nat) (a : Word) (start : Nat) : G Unit := do
  match img with
  | .f =>
    if e.row.isNone then
      let d : Word := BitVec.ofNat 64 (leNat (← imageRead v e (some start) a 8))
      let h ← imageRead v e (some start) (a + 8) 8
      if leNat h ≠ v.rows || !dValid v.rows d then badType k
      putDesc v k d
      markRow v.n start
    let d := v.desc (← get) k
    if !dUnconf d then restoreRows v e d (a + 64) (rowsFrom start v.rows)
  | .m =>
    if e.row.isNone then
      let h ← imageRead v e (some start) (a + 8) 8
      if leNat h ≠ v.rows then badType k
      markRow v.n start
    restoreMask v e k start (a + 64) ((List.range (v.rows / 8)).filter fun b => start < 8 * b + 8)
  | .desc =>
    let ds ← imageWords v e 32 a
    match (ds.zipIdx).find? fun p => !dValid v.rows p.1 with
    | some p => badType p.2
    | none => (ds.zipIdx).forM fun p => putDesc v p.2 p.1
  | .ev =>
    let bs ← imageRead v e none a 8
    let x : RowEv := BitVec.ofNat 7 (leNat bs)
    modify fun s => (v.held.zipIdx).foldl (fun s p =>
      s.setGroup p.1 { s.group p.1 with event := if p.2 = 0 then x else 0 }) s

/-! ### Array modes (R234) -/

/-- Writes zero into columns 24 to 31 of the rows from `r`. -/
def zeroCols (g : Group) (r n : Nat) : Group :=
  { g with rows := (g.rows.map fun p =>
      if r ≤ p.1 && p.1 < r + n then (p.1, setCols p.2 24 8 0) else p).filter fun p => p.2 != 0 }
/-- Switches array `a` of group `g`; in class P with its mirror (R234). An array that is in storage mode already is switched
to it again, byte 3 of its lines and its owner bit with it (DESIGN CHOICE log 98). -/
def switchArray (cls : BitVec 2) (toSt : Bool) (a : Nat) (g : Group) : Group :=
  let bit : BitVec 16 := (1 : BitVec 16) <<< a
  let one (a : Nat) (bit : BitVec 16) (g : Group) : Group :=
    if toSt then { zeroCols g (4096 * a) 4096 with storage := g.storage ||| bit, owner := g.owner &&& ~~~bit }
    else { g with storage := g.storage &&& ~~~bit }
  let g := one a bit g
  if cls = 2 then one (a + 8) (bit <<< 8) g else g
/-- Arrays a scalar of AMODE names: held position and array. -/
def amodeNames (x : Word) : List (Nat × Nat) :=
  ((List.range 64).filter fun i => x.getLsbD i).map fun i => (i / 16, i % 16)
/-- A value the spec leaves open. -/
def openWord : G Word := fun s => .ok (Config.freeBits s.free) { s with free := s.free + 1 }
/-- AMODE at dispatch (R234); the EVAL of its stops, which names no field and no address, is open (Table 7.5). Its own checks
come after those of every instruction, the gated array's among them (R213; DESIGN CHOICE log 98). -/
def opMode (v : View) (toSt : Bool) (x : Word) : G Unit := do
  let names := amodeNames x
  if names.any fun p => v.held.length ≤ p.1 || (v.cls = 2 && 8 ≤ p.2) then stopAt .assoc 7 (← openWord)
  let s ← get
  if (s.strand v.n).syms.any (fun p => match p.2.src.range with
      | some (.arr g _, _) => v.held.contains g
      | _ => false) then throw .hold
  let own (p : Nat × Nat) : Bool := (s.group (v.held.getD p.1 0)).owner.getLsbD p.2
  if !toSt && names.any own then
    let a ← openWord
    throw (.stop Cause.assoc.code 0x49 a a none 0 none)
  set (names.foldl (fun s p =>
    let g := v.held.getD p.1 0
    s.setGroup g (switchArray v.cls toSt p.2 (s.group g))) s)

/-! ### Gating (R236) -/

/-- Sets the gates of one group (R236): an array that is gated loses its contents, one that comes out is in associative
mode with owner bit 0. -/
def gateGroup (new : BitVec 16) (g : Group) : Group :=
  let changed := g.gated ^^^ new
  let freed := g.gated &&& ~~~new
  { g with
    gated := new
    gating := none
    rows := g.rows.filter fun p => !changed.getLsbD (p.1 / 4096)
    parity := g.parity.filter fun p => !changed.getLsbD (p.1 / 4096)
    storage := g.storage &&& ~~~freed
    owner := g.owner &&& ~~~freed }
/-- Gate masks that were waiting for the instruction of strand `n`'s groups take effect (R236). -/
def State.takeGates (s : State) (n : Nat) : State :=
  (s.heldOf n).foldl (fun s g => match (s.group g).gating with
    | some m => s.setGroup g (gateGroup m (s.group g))
    | none => s) s

end Sys2Proof.Machine
end

