-- ==== Sys2Proof/Machine/Control.lean ====
section
/-!
DEFINITION. Control transfer and FRAME (05 R150 to R155), BRSYM (06 R207).
-/
namespace Sys2Proof.Machine

/-- A transfer to `t`: R38 for an indirect or long-form target, then R150. -/
def goto (indirect : Bool) (t : Word) : M (Option (BitVec 56)) := do
  if indirect && bits t 0 3 ≠ 0 then trapI .align 0 t
  if bits t 56 8 ≠ 0 then trapI .xlate 4 t
  return some (t.setWidth 56)
/-- PC of the running instruction. -/
def pcHere : M Word := do return (← getHere).pc.setWidth 64
/-- Target PC + 8 × offset (R38, R151). -/
def branchTo {w : Nat} (off : BitVec w) : M (Option (BitVec 56)) := do
  goto false ((← pcHere) + sx off * 8)
/-- A branch taken when `b`. -/
def branchIf {w : Nat} (b : Bool) (off : BitVec w) : M (Option (BitVec 56)) := if b then branchTo off else return none

/-- JMP (R151). -/
def execJmp (nst : BitVec 4) (off : BitVec 48) (s : State) : Out := runS nst 8 (branchTo off) s
/-- BR (R151). -/
def execBr (h : Hdr) (off : BitVec 48) (s : State) : Out := run user h 8 (branchTo off) s
/-- CALL (R151). -/
def execCall (h : Hdr) (off : BitVec 48) (s : State) : Out :=
  run user h 8 (do
    let t ← branchTo off
    writeVal 47 ((← pcHere) + 8)
    return t) s
/-- JR (R152). -/
def execJr (h : Hdr) (a : BitVec 6) (s : State) : Out :=
  run user h 8 (do
    let t ← read1 a []
    goto true t) s
/-- CALLR: the target is read before s47 is written (R152). -/
def execCallr (h : Hdr) (a : BitVec 6) (s : State) : Out :=
  run user h 8 (do
    let t ← read1 a []
    let t ← goto true t
    writeVal 47 ((← pcHere) + 8)
    return t) s
/-- RET (R152). -/
def execRet (h : Hdr) (s : State) : Out :=
  run user h 8 (do
    let t ← read1 47 []
    goto true t) s
/-- LOOP (R151). -/
def execLoop (h : Hdr) (a : BitVec 6) (off : BitVec 30) (s : State) : Out :=
  run user h 8 (do
    let x ← read1 a []
    let t ← branchIf (x - 1 != 0) off
    writeVal a (x - 1)
    return t) s
/-- BRZ (R151). -/
def execBrz (h : Hdr) (a : BitVec 6) (off : BitVec 30) (s : State) : Out :=
  run user h 8 (do
    let x ← read1 a []
    branchIf (x == 0) off) s
/-- BRNZ (R151). -/
def execBrnz (h : Hdr) (a : BitVec 6) (off : BitVec 30) (s : State) : Out :=
  run user h 8 (do
    let x ← read1 a []
    branchIf (x != 0) off) s
/-- CBR (R151). -/
def execCbr (h : Hdr) (a b cond : BitVec 6) (off : BitVec 30) (s : State) : Out :=
  run user h 8 (do
    let (x, y) ← read2 a b []
    branchIf (icc cond x y) off) s
/-- CBRI: field b is a signed immediate (R40, R151). -/
def execCbri (h : Hdr) (a i6 cond : BitVec 6) (off : BitVec 30) (s : State) : Out :=
  run user h 8 (do
    let x ← read1 a []
    branchIf (icc cond x (sx i6)) off) s

/-- A register's state at issue, without waiting (R206, R207). -/
def stateOf (a : BitVec 6) : M SVal := do
  hazard a.toNat
  return (← getHere).reg a.toNat

/-- BRSYM.res (R207). -/
def execBrsymRes (h : Hdr) (a : BitVec 6) (off : BitVec 30) (s : State) : Out :=
  run user h 8 (do
    let v ← stateOf a
    branchIf (!v.symbolic) off) s
/-- BRSYM.poi (R207). -/
def execBrsymPoi (h : Hdr) (a : BitVec 6) (off : BitVec 30) (s : State) : Out :=
  run user h 8 (do
    let v ← stateOf a
    branchIf v.poisoned off) s
/-- BRSYM.pend (R207). -/
def execBrsymPend (h : Hdr) (a : BitVec 6) (off : BitVec 30) (s : State) : Out :=
  run user h 8 (do
    let v ← stateOf a
    branchIf v.symbolic off) s

/-- BRI: a jump through a table, or the next word when the index is out of range (R153). -/
def execBri (h : Hdr) (d a b : BitVec 6) (s : State) : Out :=
  run user h 8 (do
    let (base, i, n) ← read3 a b d []
    if n.ule i then return none
    needAlign (base + 8 * i) 8
    let bs ← loadOwn (base + 8 * i) 8
    goto true (BitVec.ofNat 64 (leNat bs))) s

/-- FRAME: enters or leaves a stack frame of `imm` × 16 bytes (R154). -/
def execFrame (h : Hdr) (l : BitVec 1) (imm : BitVec 32) (s : State) : Out :=
  runU user h (do
    let n : Word := sx imm * 16
    if imm.slt 0 then
      let (sp, lr) ← if l = 1 then read2 46 47 [] else (do let sp ← read1 46 []; return (sp, 0))
      if bits sp 0 4 ≠ 0 then trapI .align 0 sp
      if l = 1 then storeBytes (sp - 8) (leBytes lr.toNat 8) plainAnn
      writeVal 46 (sp + n)
    else
      let sp ← read1 46 []
      if bits sp 0 4 ≠ 0 then trapI .align 0 sp
      if l = 1 then
        let (bs, bad) ← loadBytes (sp + n - 8) 8 plainAnn
        writeLoaded 47 (BitVec.ofNat 64 (leNat bs)) bad
      writeVal 46 (sp + n)) s

/-- JMPX (R155). -/
def execJmpx (h : Hdr) (v : BitVec 64) (s : State) : Out := run user h 16 (goto true v) s
/-- CALLX (R155). -/
def execCallx (h : Hdr) (v : BitVec 64) (s : State) : Out :=
  run user h 16 (do
    let t ← goto true v
    writeVal 47 ((← pcHere) + 16)
    return t) s

end Sys2Proof.Machine
end

