-- ==== Sys2Proof/Machine/AssocDispatch.lean ====
section
/-!
DEFINITION. What an associative instruction names and writes, the checks of a group at dispatch (07 R213), pass counts
(07 R218, R219; 09 R289; 10 R321), and dispatch of the head of a queue up to retirement or a stop (07 R216, R224 to
R227).
-/
namespace Sys2Proof.Machine

/-! ### What an instruction names -/

/-- Field of a second operand. -/
def ASrc.fields : ASrc → List Nat
  | .fld f => [f] | .op => []
/-- Index field of an address. -/
def AAddr.fields : AAddr → List Nat
  | .idx f => [f] | _ => []
/-- Source fields an instruction names. -/
def AOp.srcs : AOp → List Nat
  | .asrch _ _ fa => [fa]
  | .acmp _ _ _ fa src => fa :: src.fields
  | .amov _ fa => [fa]
  | .apopF fa => [fa]
  | .atopk _ _ fa => [fa]
  | .aext _ _ fa => [fa]
  | .ardrow fa => [fa]
  | .arith fn fd fa src _ _ => fa :: src.fields ++ (if fn = .fma then [fd] else [])
  | .sel _ _ fa src => fa :: src.fields
  | .logic _ _ fa src => fa :: src.fields
  | .shift _ _ _ fa src => fa :: src.fields
  | .cvt _ _ fa => [fa]
  | .clamp _ fa => [fa]
  | .ham _ _ fa src => fa :: src.fields
  | .lut _ fa => [fa]
  | .shr _ fa => [fa]
  | .scan _ _ _ fa => [fa]
  | .segr _ _ _ fa _ => [fa]
  | .pair _ _ _ fa fb => [fa, fb]
  | .plenMask _ fa => [fa]
  | .app (some fa) _ => [fa]
  | .conf _ fa => [fa]
  | .intv _ _ fa => [fa]
  | .amatch _ fa _ => [fa]
  | .chk _ fa => [fa]
  | .bcast _ fa => [fa]
  | .qnt _ _ fa => [fa]
  | .dqnt _ _ fa => [fa]
  | .ld _ ad _ => ad.fields
  | .st ad fa => fa :: ad.fields
  | .stseg _ n fa => (List.range n).map (fa + ·)
  | _ => []
/-- Destination fields an instruction names. -/
def AOp.dests : AOp → List Nat
  | .awr fd => [fd]
  | .amov fd _ => [fd]
  | .awrrow fd => [fd]
  | .arith _ fd _ _ _ _ => [fd]
  | .sel _ fd _ _ => [fd]
  | .logic _ fd _ _ => [fd]
  | .shift _ _ fd _ _ => [fd]
  | .cvt _ fd _ => [fd]
  | .clamp fd _ => [fd]
  | .ham _ fd _ _ => [fd]
  | .lut fd _ => [fd]
  | .shr fd _ => [fd]
  | .scan _ _ fd _ => [fd]
  | .segr _ _ fd _ _ => [fd]
  | .pair _ _ fd _ _ => [fd]
  | .plenSet fd => [fd]
  | .fill _ fd => [fd]
  | .bcast fd _ => [fd]
  | .qnt _ fd _ => [fd]
  | .dqnt _ fd _ => [fd]
  | .ld _ _ fd => [fd]
  | .ldseg _ n fd => (List.range n).map (fd + ·)
  | _ => []
/-- Mask an instruction writes. -/
def AOp.mdest : AOp → Option Nat
  | .awhile md => some md
  | .asrch _ md _ => some md
  | .acmp _ _ md _ _ => some md
  | .mlog md _ _ _ => some md
  | .mset md _ => some md
  | .anext _ md _ => some md
  | .atopk _ md _ => some md
  | .plenMask md _ => some md
  | .app _ md => some md
  | .conf md _ => some md
  | .intv _ md _ => some md
  | .amatch md _ _ => some md
  | .chk md _ => some md
  | .rstr .m k => some k
  | _ => none
/-- Source masks an instruction names beside the governing one. -/
def AOp.msrcs : AOp → List Nat
  | .mlog _ ma mb _ => [ma, mb]
  | .apopM ma => [ma]
  | .afirst _ ma => [ma]
  | .anext _ _ ma => [ma]
  | .segr _ _ _ _ ms => [ms]
  | _ => []
/-- Fields whose presence an instruction needs (R213): AFCFG checks its own, ASAVE and ARSTR none (R316). -/
def AOp.fields (op : AOp) : List Nat := op.srcs ++ op.dests
/-- Masks whose presence an instruction needs. -/
def AOp.masks (op : AOp) : List Nat :=
  match op with
  | .rstr .. => []
  | .save .. => []
  | _ => (op.msrcs ++ op.mdest.toList).filter (· < 24)
/-- Whether an instruction accesses memory (R65). -/
def AOp.isMem : AOp → Bool
  | .ld .. => true | .ldseg .. => true | .st .. => true | .stseg .. => true | .save .. => true | .rstr .. => true
  | .lut .. => true | .app .. => true
  | _ => false
/-- Whether a write into an MX field quantises, and so writes its scale field too (R257, R301). -/
def AOp.quantises : AOp → Bool
  | .arith .. => true | .cvt .. => true | .qnt .. => true | .ldseg .. => true | _ => false
/-- Columns an instruction may write, by the strand's descriptors (R229). -/
def AOp.writes (op : AOp) (st : Strand) : List Word :=
  let d (k : Nat) : Word := Tab.get 0 st.desc k
  op.dests.flatMap fun k =>
    let x := d k
    if (isMx (dTag x) && op.quantises) || (match op with | .pair .. => true | _ => false) then [x, d (dLink x)]
    else match op with | .plenSet _ => [] | _ => [x]

/-! ### Checks at dispatch -/

/-- Whether a field fails the configuration check (R213 check 2). -/
def linkBad (v : View) (s : State) (k : Nat) : Bool :=
  let d := v.desc s k
  let l := v.desc s (dLink d)
  dUnconf d || (isMx (dTag d) && dTag l != 0x11) || (dTag d == 0x12 && (dUnconf l || dTag l == 0x12))
/-- Lowest field of a list. -/
def lowest (l : List Nat) : Option Nat := l.foldl (fun m k => match m with | none => some k | some j => some (Nat.min j k)) none
/-- First destination that overlaps a source partly (R213 check 3); value fields of sparse operands included (R307). -/
def overlapBad (v : View) (s : State) (op : AOp) : Option Nat :=
  let d (k : Nat) : Word := v.desc s k
  let sparse := match op with | .pair .. => true | _ => false
  let cols (k : Nat) : List Word := if sparse then [d k, d (dLink (d k))] else [d k]
  let srcs := op.srcs.flatMap cols
  op.dests.find? fun k => (cols k).any fun x => srcs.any fun y => dPartly x y
/-- Numeric tags (R294). -/
def isNumeric (t : Nat) : Bool := (1 ≤ t && t ≤ 0x10) || t == 0x12
/-- The fields that the failing conditions of a list name. -/
def failing (l : List (Bool × List Nat)) : List Nat := l.flatMap fun (b, ks) => if b then ks else []
/-- Type check of two operands and a destination of one tag and width: a pair that differs names both. -/
def alike (v : View) (s : State) (fa : Nat) (others : List Nat) : List (Bool × List Nat) :=
  let d := v.desc s fa
  others.map fun k => (dTag (v.desc s k) != dTag d || dWidth (v.desc s k) != dWidth d, [fa, k])
/-- Width check: a pair that differs names both. -/
def sameWidth (v : View) (s : State) (fa : Nat) (others : List Nat) : List (Bool × List Nat) :=
  others.map fun k => (dWidth (v.desc s k) != dWidth (v.desc s fa), [fa, k])
/-- Types of ASCAN and ASEGR (Table 10.2). -/
def scanBad (v : View) (s : State) (fn : ScanFn) (fd fa : Nat) : List Nat :=
  let t (k : Nat) : Nat := dTag (v.desc s k)
  match fn with
  | .add =>
    let ok := isIntTag (t fa) || (3 ≤ t fa && t fa ≤ 8) || t fa == 0x0C
    failing ((!ok, [fa]) :: (if isIntTag (t fa) then [(!isIntTag (t fd), [fd])] else alike v s fa [fd]))
  | .or => failing (alike v s fa [fd])
  | _ => failing ((isMx (t fa), [fa]) :: alike v s fa [fd])
/-- The fields that Tables 9.2 and 10.2 or the instruction's own rule refuse (R213 check 4), with the scalars `x` and
`y`; a bad scalar names the instruction's fields. Table 10.2 has no row for ASPLEN, whose field must be of tag 0x12 (R294;
DEDUCED log 124). -/
def typeBad (v : View) (s : State) (op : AOp) (x y : Word) : List Nat :=
  let d (k : Nat) : Word := v.desc s k
  let t (k : Nat) : Nat := dTag (d k)
  let storage := v.held.any fun g => (s.group g).storage != 0
  match op with
  | .acmp cond _ _ fa src =>
    let ordered := decide (2 ≤ cond.toNat)
    let ints := src.fields.all fun k => isIntTag (t k) && isIntTag (t fa)
    failing ((fa :: src.fields).map (fun k => (ordered && isMx (t k), [k])) ++
      (if ints then [] else alike v s fa src.fields))
  | .intv _ _ fa => failing [(isMx (t fa), [fa])]
  | .atopk _ _ fa => failing [(isMx (t fa), [fa])]
  | .aext _ _ fa => failing [(isMx (t fa), [fa])]
  | .amov fd fa => failing (sameWidth v s fa [fd])
  | .bcast fd fa => failing (sameWidth v s fa [fd])
  | .apopF fa => failing [(!isIntTag (t fa), [fa])]
  | .fill _ fd => failing [(!(t fd == 1 || t fd == 2), [fd])]
  | .ham _ fd fa src =>
    failing ((sameWidth v s fa src.fields) ++ [(!(t fd == 1 || t fd == 2), [fd])]
      ++ (fa :: src.fields).map fun k => (dMeets (d fd) (d k), [fd, k]))
  | .arith .rem fd fa src _ _ => failing ((fa :: src.fields ++ [fd]).map fun k => (!isIntTag (t k), [k]))
  | .arith _ fd fa src _ _ => failing ((fa :: src.fields ++ [fd]).map fun k => (!isNumeric (t k), [k]))
  | .sel _ fd fa src => failing ((fa :: src.fields ++ [fd]).map (fun k => (isMx (t k), [k])) ++ alike v s fa (src.fields ++ [fd]))
  | .clamp fd fa => failing ([fa, fd].map (fun k => (isMx (t k), [k])) ++ alike v s fa [fd])
  | .logic _ fd fa src => failing (sameWidth v s fa (src.fields ++ [fd]))
  | .shift _ _ fd fa src =>
    failing ((fa :: src.fields ++ [fd]).map (fun k => (!isIntTag (t k), [k])) ++ sameWidth v s fa [fd])
  | .cvt _ fd fa => failing ([fa, fd].map fun k => (!(isNumeric (t k) || t k == 0x11), [k]))
  | .qnt _ fd fa => failing [(!isNumeric (t fa), [fa]), (!isMx (t fd), [fd])]
  | .dqnt _ fd fa => failing [(!isMx (t fa), [fa]), (!(1 ≤ t fd && t fd ≤ 0x0C), [fd])]
  | .lut fd fa => failing [(decide (4096 < y.toNat), [fa, fd]), (dMeets (d fd) (d fa), [fa, fd])]
  | .shr fd fa => failing (sameWidth v s fa [fd])
  | .scan fn _ fd fa => scanBad v s fn fd fa
  | .segr fn _ fd fa _ => scanBad v s fn fd fa
  | .pair _ _ fd fa fb =>
    let val (k : Nat) : Nat := dLink (d k)
    let notVal (k : Nat) : Bool := !(isNumeric (t (val k))) || isMx (t (val k))
    failing (([fa, fb, fd].map fun k => (t k != 0x12 || notVal k, [k])) ++
      [(storage, [fa, fb, fd])] ++
      ([fa, fb].map fun k => (decide (dWidth (d fd) < dWidth (d k)), [k, fd])) ++
      ([fa, fb].map fun k => ([d k, d (val k)].any fun z => dSame (d fd) z || dSame (d (val fd)) z, [k, fd])) ++
      [(dMeets (d fd) (d (val fd)), [fd])])
  | .plenSet fd =>
    failing [(t fd != 0x12 || storage || decide (maxLen v < x.toNat) || dMeets (d fd) (d (dLink (d fd))), [fd])]
  | .plenMask _ fa => failing [(t fa != 0x12, [fa])]
  | .ld _ ad _ => failing (ad.fields.map fun k => (!isIntTag (t k), [k]))
  | .st ad _ => failing (ad.fields.map fun k => (!isIntTag (t k), [k]))
  | .ldseg _ n fd =>
    let fs := (List.range n).map fun i => fd + i
    failing ((!segOk y, fs) :: fs.map fun k => (0x0D ≤ t k && t k ≤ 0x11, [k]))
  | .stseg _ n fa =>
    let fs := (List.range n).map fun i => fa + i
    failing ((!segOk y, fs) :: fs.map fun k => (0x0D ≤ t k && t k ≤ 0x11, [k]))
  | _ => []
/-- A stop with subcode 7: EVAL is one of the fields refused, which one the spec leaves open (Table 7.5). -/
def refuseType (ks : List Nat) : G Unit := do
  match ks.eraseDups with
  | [] => return ()
  | k :: rest =>
    let w ← openWord
    badType ((k :: rest).getD (w.toNat % (k :: rest).length) k)
/-- First held group with a gated array (R213 check 5). -/
def gatedBad (v : View) (s : State) : Option Nat := v.held.find? fun g => (s.group g).gated != 0

/-- The checks of a group in order (R213, R317). -/
def dispatchChecks (v : View) (op : AOp) (x y : Word) : G Unit := do
  let s ← get
  match lowest (op.fields.filter (linkBad v s)) with
  | some k => stopAt .fieldUnconfig 0 (BitVec.ofNat 64 k)
  | none => pure ()
  match overlapBad v s op with
  | some k => stopAt .fieldOverlap 0 (BitVec.ofNat 64 k)
  | none => pure ()
  refuseType (typeBad v s op x y)
  match gatedBad v s with
  | some g => stopAt .assoc 5 (BitVec.ofNat 64 g)
  | none => pure ()
  let align : Nat := match op with
    | .save .ev _ => 8 | .rstr .ev _ => 8 | .save .. => 64 | .rstr .. => 64 | _ => 1
  if x.toNat % align ≠ 0 then throw (.stop Cause.assoc.code 0x44 x x none 0 none)

/-! ### Pass counts -/

/-- Bits of a number above 0 (Ceil(Log2 (n + 1))). -/
def lenBits (n : Nat) : Nat := if n = 0 then 0 else n.log2 + 1
/-- Ceil(Log2 n). -/
def ceilLog2 (n : Nat) : Nat := lenBits (n - 1)
/-- What an MX destination adds (R321). -/
def mxCost (d : Word) : Nat := if isMx (dTag d) then 4 * dWidth d + 40 else 0
/-- A row of Table 10.9: integer, BF16, FP16, FP32, FP64 counts. A type without a column takes the FP32 count and one ACVT for
each operand that is not FP32. -/
def costBy (ds : List Word) (dd : Word) (int : Option Nat) (bf h f32 f64 : Nat) : Nat :=
  let tags := ds.map dTag
  let base :=
    if tags.all isIntTag && int.isSome then int.getD 0
    else if tags.all (· == 6) then bf
    else if tags.all (· == 5) then h
    else if tags.all (· == 4) then f32
    else if tags.all (· == 3) then f64
    else f32 + (ds.map fun d => if dTag d = 4 then 0 else 2 * dWidth d + 2 * 32 + 24).sum
  base + mxCost dd
/-- Passes of an instruction (Tables 9.3 and 10.9), in the state it finds; `len` is the LEN that ASPI and ASPU leave. D8 is not
one of Table 9.3's floating tags here (DESIGN CHOICE log 17). -/
def AOp.passes (op : AOp) (v : View) (s : State) (mg len : Nat) (x y : Word) : Nat :=
  let d (k : Nat) : Word := v.desc s k
  let w (k : Nat) : Nat := dWidth (d k)
  let flt (k : Nat) : Bool := 3 ≤ dTag (d k) && dTag (d k) ≤ 0x0B
  let addCost (ds : List Word) (dd : Word) (k : Nat) : Nat := costBy ds dd (some (6 * k + 1)) 232 248 516 1140
  let scanCost (fn : ScanFn) (fa fd : Nat) : Nat :=
    let c := match fn with
      | .add => addCost [d fa, d fa, d fd] (d fd) (w fd)
      | .or => 2 * w fd
      | _ => 3 * w fd + 2
    ceilLog2 v.rows * (w fd + c) + w fd
  match op with
  | .afcfg _ => 0
  | .amode _ => 0
  | .awhile _ => 2
  | .asrch .. => 1
  | .acmp cond _ _ fa src =>
    let vv := !src.fields.isEmpty
    if cond.toNat < 2 then if vv then 2 * w fa + 1 else 1
    else (if vv then 3 * w fa + 1 else w fa + 1) + (if flt fa then 2 else 0)
  | .mlog .. => 2
  | .mset .. => 1
  | .awr _ => 1
  | .amov fd _ => 2 * w fd
  | .apopM _ => 1
  | .apopF fa => w fa
  | .afirst .. => 1
  | .anext .. => 2
  | .atopk _ _ fa => 2 * w fa + 2
  | .aext _ idx fa => 3 * w fa + (if idx then 2 else 1)
  | .ardrow _ => 1
  | .awrrow _ => 2
  | .arith fn fd fa src _ _ =>
    let ds := d fa :: src.fields.map d ++ [d fd]
    let k := w fd
    let inPlace := dSame (d fd) (d fa) || src.fields.any fun f => dSame (d fd) (d f)
    match fn with
    | .add => if inPlace then costBy ds (d fd) (some (4 * k + 1)) 200 216 452 1012 else addCost ds (d fd) k
    | .sub => if inPlace then costBy ds (d fd) (some (4 * k + 1)) 200 216 452 1012 else addCost ds (d fd) k
    | .mul => costBy ds (d fd) (some (6 * k * k + 2 * k)) 240 360 1304 5216
    | .fma => costBy (d fd :: ds) (d fd) (some (6 * k * k + 6 * k + 1)) 460 600 1820 6360
    | .div => costBy ds (d fd) (some (8 * k * k + 4 * k)) 420 640 2900 11400
    | .rem => 8 * k * k + 8 * k
    | .sqrt => costBy ds (d fd) none 380 560 2600 10800
    | _ => (if isIntTag (dTag (d fa)) then 4 * k + 1 else 2) + mxCost (d fd)
  | .sel _ fd _ _ => 3 * w fd + 2
  | .logic _ fd _ src => if src.fields.isEmpty then 2 * w fd else 4 * w fd
  | .shift _ _ fd _ src => if src.fields.isEmpty then 2 * w fd else 2 * w fd * ceilLog2 (w fd) + w fd
  | .cvt _ fd fa => 2 * w fa + 2 * w fd + 24 + mxCost (d fd)
  | .clamp fd _ => 6 * w fd + 4
  | .ham _ _ fa src => if src.fields.isEmpty then 8 * w fa else 10 * w fa
  | .lut .. => 2 * y.toNat
  | .shr fd _ =>
    let k := x.toInt.natAbs
    if v.rows ≤ k then w fd else w fd * onesOf k 64 + 1
  | .scan fn _ fd fa => scanCost fn fa fd
  | .segr fn _ fd fa _ => 2 * scanCost fn fa fd + 2
  | .pair union _ fd fa fb =>
    let lb := dLen (d fb)
    let wv := w (dLink (d fd))
    let ds := [d (dLink (d fa)), d (dLink (d fb)), d (dLink (d fd))]
    let dd := d (dLink (d fd))
    let mid := 2 * (w fd + wv) * lenBits len
    if union then 3 * dLen (d fa) + 3 * lb + mid + addCost ds dd wv
    else 3 * lb + mid + costBy ds dd (some (6 * wv * wv + 2 * wv)) 240 360 1304 5216
  | .plenSet _ => 0
  | .plenMask .. => 2
  | .app .. => 1
  | .conf _ fa =>
    let codes := (v.governed s mg).map fun r => v.code s (d fa) r
    1 + codes.eraseDups.length * (3 + (w fa + 15) / 16)
  | .intv _ _ fa => 2 * w fa + 2 + (if flt fa then 4 else 0)
  | .amatch .. => y.toNat
  | .chk _ fa => (parityMeets (dBase (d fa)) (w fa)).length + 2
  | .fill _ fd => if x = 0 then w fd else 5 * w fd + 1
  | .bcast .. => 2
  | .qnt _ fd fa => 2 * w fa + 2 * w fd + 24 + mxCost (d fd)
  | .dqnt _ fd fa => 2 * w fa + 2 * w fd + 32
  | .ld _ _ fd => w fd
  | .st _ fa => w fa
  | .ldseg _ n fd => ((List.range n).map fun i => w (fd + i)).sum + 24 * n
  | .stseg _ n fa => ((List.range n).map fun i => w (fa + i)).sum + 24 * n
  | .save .f k => w k
  | .rstr .f k => w k
  | .save .m _ => 1
  | .rstr .m _ => 1
  | .save .. => 0
  | .rstr .. => 0
/-- Number of set bits among the low `n` of a mask. -/
def countBits (m : BitVec 16) (n : Nat) : Nat := ((List.range n).filter fun i => m.getLsbD i).length
/-- Waves of a pass in a group under permit `p` (R219). -/
def waves (cls : BitVec 2) (p : Nat) (g : Group) : Nat :=
  if cls = 2 then
    let pairs := 8 - countBits g.storage 8
    if p < 2 then 2 * pairs else (pairs + p / 2 - 1) / (p / 2)
  else
    let a := 16 - countBits g.storage 16
    if p < a then (a + p - 1) / p else 1
/-- Counts the passes of an instruction in every held group, all waves (Table 19.5). -/
def countPasses (v : View) (n : Nat) (s : State) : State :=
  let p := (s.die (dieOf v.n)).apermit.toNat
  v.held.foldl (fun s g =>
    let x := s.group g
    s.setGroup g { x with passes := x.passes + BitVec.ofNat 64 (n * waves v.cls p x) }) s

/-! ### Mirrored passes (R222, R324) -/

/-- Columns that the passes of an instruction compare beside its governing mask, or none where it has no pass that
compares (R222). -/
def AOp.compared (op : AOp) (v : View) (s : State) : Option (List (Nat × Nat)) :=
  let d (k : Nat) : Word := v.desc s k
  let col (k : Nat) : Nat × Nat := dCols (d k)
  let with' (fa : Nat) (src : ASrc) : List (Nat × Nat) := col fa :: src.fields.map col
  match op with
  | .afcfg _ => none
  | .amode _ => none
  | .awhile _ => some []
  | .asrch comb md fa => some (col fa :: if comb = 0 then [] else [(md, 1)])
  | .acmp _ _ _ fa src => some (with' fa src)
  | .mlog _ ma mb _ => some (mCols ma ++ mCols mb)
  | .mset .. => some []
  | .awr _ => some []
  | .amov _ fa => some [col fa]
  | .apopM ma => some (mCols ma)
  | .apopF _ => some []
  | .afirst _ ma => some (mCols ma)
  | .anext _ _ ma => some (mCols ma)
  | .atopk _ _ fa => some [col fa]
  | .aext .. => some []
  | .ardrow _ => none
  | .awrrow _ => some []
  | .arith fn fd fa src _ _ =>
    some (((fa :: src.fields) ++ if fn = .fma then [fd] else []).flatMap fun k => valueCols v s (d k))
  | .sel _ _ fa src => some (with' fa src)
  | .logic _ _ fa src => some (with' fa src)
  | .shift _ _ _ fa src => some (with' fa src)
  | .cvt _ _ fa => some (valueCols v s (d fa))
  | .clamp _ fa => some [col fa]
  | .ham _ _ fa src => some (with' fa src)
  | .lut _ fa => some [col fa]
  | .shr _ fa => some [col fa]
  | .scan _ _ _ fa => some [col fa]
  | .segr _ _ _ fa ms => some (col fa :: mCols ms)
  | .pair _ _ _ fa fb => some [col fa, col fb, dCols (d (dLink (d fa))), dCols (d (dLink (d fb)))]
  | .plenSet _ => none
  | .plenMask .. => some []
  | .app .. => some []
  | .conf _ fa => some [col fa]
  | .intv _ _ fa => some [col fa]
  | .amatch _ fa _ => some [col fa]
  | .chk .. => none
  | .fill .. => some []
  | .bcast .. => some []
  | .qnt _ _ fa => some (valueCols v s (d fa))
  | .dqnt _ _ fa => some (valueCols v s (d fa))
  | .ld .. => some []
  | .ldseg .. => some []
  | .st .. => some []
  | .stseg .. => some []
  | .save .. => none
  | .rstr .. => none

/-- Whether pass `p`, from 0, of the in-place AADD tags a governed row that has carry and code `ca` and addend `b`
(Table 11.1). -/
def addTag (b p : Nat) (ca : Bool × Nat) : Bool :=
  if p = 0 then true
  else
    let i := (p - 1) / 4
    let k := (p - 1) % 4
    (ca.1 == (k == 2 || k == 3)) && (b.testBit i == (k == 0 || k == 1)) && (ca.2.testBit i == (k == 0 || k == 3))
/-- Carry and code after that pass (Table 11.1). -/
def addWrite (b p : Nat) (ca : Bool × Nat) : Bool × Nat :=
  if addTag b p ca then
    if p = 0 then (false, ca.2)
    else
      let i := (p - 1) / 4
      let k := (p - 1) % 4
      if k = 0 || k = 3 then (true, ca.2 - 2 ^ i) else (false, ca.2 + 2 ^ i)
  else ca
/-- Carry and code of a governed row after the first passes (R324). -/
def addAfter (b a : Nat) : Nat → Bool × Nat
  | 0 => (false, a)
  | p + 1 => addWrite b p (addAfter b a p)

/-- What the passes of an instruction do to a row of a group, seen from the row as it stood before the first: how many
there are, which columns a pass compares, the tag it gives, the columns written, and the row before a pass. -/
structure Passes where
  count : Nat
  cols : Nat → List (Nat × Nat)
  tag : Nat → BitVec 1024 → Bool
  dest : List (Nat × Nat)
  before : Nat → BitVec 1024 → BitVec 1024

/-- Columns an instruction writes into rows. -/
def AOp.destCols (op : AOp) (v : View) (s : State) : List (Nat × Nat) :=
  op.dests.map (fun k => dCols (v.desc s k)) ++ (op.mdest.map fun m => (m, 1)).toList
/-- The fields of an in-place add that the microcode of the boot ROM makes in a group (R324). -/
def QEntry.adds (e : QEntry) (v : View) (s : State) (g : Nat) : Option (Word × Word) :=
  match e.op with
  | .arith .add fd fa (.fld fb) _ false =>
    let d := v.desc s fd
    let b := v.desc s fb
    if dSame d (v.desc s fa) && !dSame d b && (dTag d == 1 || dTag d == 2) && (dTag b == 1 || dTag b == 2) && dWidth b == dWidth d
      && (s.group g).ucode.isNone then some (d, b) else none
  | _ => none
/-- The passes of an instruction in a group: what the spec lays down of them, else what the microcode makes of the columns
compared (R218, R237, R324; DESIGN CHOICE log 96). -/
def QEntry.microcode (e : QEntry) (v : View) (s : State) (g : Nat) (cols : List (Nat × Nat)) (x y : Word) : Passes :=
  let gov (row : BitVec 1024) : Bool := maskBit row e.mg
  let d (k : Nat) : Word := v.desc s k
  let dest := e.op.destCols v s
  match e.adds v s g with
  | some (dd, db) =>
    { count := 4 * dWidth dd + 1
      cols := fun p => if p = 0 then [] else [(dBase db + (p - 1) / 4, 1), (dBase dd + (p - 1) / 4, 1)]
      tag := fun p row => gov row && addTag (fieldCode db row) p (addAfter (fieldCode db row) (fieldCode dd row) p)
      dest := dest
      before := fun p row =>
        if gov row then setCols row (dBase dd) (dWidth dd) (addAfter (fieldCode db row) (fieldCode dd row) p).2 else row }
  | none =>
    let codes (row : BitVec 1024) : List Nat :=
      (if gov row then 1 else 0) :: cols.map fun c => getCols row c.1 c.2
    { count := Nat.max 1 (e.op.passes v s e.mg 0 x y)
      cols := fun _ => cols
      tag := fun p row => match e.op with
        | .mset .. => gov row
        | .awr _ => gov row
        | .asrch 0 _ fa => gov row && fieldCode (d fa) row == x.toNat % 2 ^ dWidth (d fa)
        | .apopM ma => gov row && maskBit row ma
        | .afirst _ ma => gov row && maskBit row ma
        | _ => Config.passTag e.word p (codes row)
      dest := dest
      before := fun p row =>
        if p = 0 || !gov row then row
        else dest.foldl (fun r c => setCols r c.1 c.2 (Config.passCode e.word p (codes row) c.1)) row }

/-- Mask columns and field columns an instruction compares differ between the copies of a row: those of the governing
mask always, the others where the row is governed in both (R222). -/
def View.differs (v : View) (s : State) (mg : Nat) (cols : List (Nat × Nat)) (r : Nat) : Bool :=
  let x := s.group (v.grp r)
  let lo := x.row (r % v.per)
  let hi := x.row (r % v.per + 32768)
  if maskBit lo mg != maskBit hi mg then true
  else maskBit lo mg && cols.any fun (b, w) => getCols lo b w != getCols hi b w
/-- Writes columns of one copy of a row from another row's, as passes do bit by bit: no parity error is mended (R221). -/
def copyCols (cols : List (Nat × Nat)) (g r : Nat) (row : BitVec 1024) (s : State) : State :=
  let x := s.group g
  s.setGroup g (x.setRow r (cols.foldl (fun y c => setCols y c.1 c.2 (getCols row c.1 c.2)) (x.row r)))
/-- The rows of `rs` whose two copies pass `p` tags apart. -/
def Passes.apart (k : Passes) (x : Group) (p : Nat) (rs : List Nat) : List Nat :=
  rs.filter fun r => k.tag p (x.row r) != k.tag p (x.row (r + 32768))
/-- A mirror mismatch (R222, R224): earlier passes stay written in every held group, this one in none; the entry keeps the
pass and the rows as they stood. -/
def View.mismatch (v : View) (e : QEntry) (k : Passes) (g p : Nat) : G Unit := do
  let s ← get
  let rows : List (Nat × Nat) := if p = 0 then [] else (v.governed s e.mg).flatMap fun r =>
    [(v.grp r, r % v.per), (v.grp r, r % v.per + 32768)]
  setProg v.n fun q => { q with pass := some p, kept := rows.map fun c => (c.1, c.2, (s.group c.1).row c.2) }
  modify fun s =>
    (rows.foldl (fun s c => copyCols k.dest c.1 c.2 (k.before p ((s.group c.1).row c.2)) s) s).arrayEvent v.n true
  throw (.stop Cause.mirror.code 0 (BitVec.ofNat 64 g) 0 none 0 (some (BitVec.ofNat 64 (p + 1))))
/-- PassMirrored of R222 over rows `rs` of group `g`: a retry, repair of the rows one of whose copies has bad parity, and a
second retry. -/
def View.passMirrored (v : View) (e : QEntry) (k : Passes) (g : Nat) (rs : List Nat) (p : Nat) : G Unit := do
  let apart : G (List Nat) := do return k.apart ((← get).group g) p rs
  if (← apart).isEmpty then return ()
  if (← apart).isEmpty then
    modify fun s => s.arrayEvent v.n false
    return ()
  let cols := mCols e.mg ++ k.cols p
  (← apart).forM fun r => do
    let s ← get
    let x := s.group g
    let bad (q : Nat) : Bool := cols.any fun c => (parityMeets c.1 c.2).any fun j => (x.bad q).getLsbD j
    if bad r == bad (r + 32768) then v.mismatch e k g p
    else
      let src := if bad r then r + 32768 else r
      let dst := if bad r then r else r + 32768
      set (s.setGroup g ((x.setRow dst (x.row src)).setBad dst (x.bad src)))
  if (← apart).isEmpty then modify fun s => s.arrayEvent v.n false
  else v.mismatch e k g p
/-- Passes from `p` on over the rows whose copies differ. -/
def View.passesFrom (v : View) (e : QEntry) (k : Passes) (g : Nat) (rs : List Nat) : Nat → Nat → G Unit
  | 0, _ => return ()
  | n + 1, p => do
    v.passMirrored e k g rs p
    v.passesFrom e k g rs n (p + 1)
/-- Passes whose compare is upset and whose retry agrees: one corrected event each (R222, R240 case 6). -/
def View.upsets (v : View) : Nat → G Unit
  | 0 => return ()
  | n + 1 => do
    modify fun s => s.arrayEvent v.n false
    v.upsets n
/-- Mirrored passes `first` to `last - 1` of an instruction in class P, or those to its last one (R222). How many of them are
upset and agree when retried is open (DESIGN CHOICE log 96). -/
def View.mirrorPasses (v : View) (e : QEntry) (x y : Word) (first : Nat) (last : Option Nat) : G Unit := do
  let s ← get
  match e.op.compared v s with
  | none => return ()
  | some cols =>
    v.held.forM fun g => do
      let s ← get
      let k := e.microcode v s g cols x y
      let n := last.getD k.count - first
      let w ← openWord
      v.upsets (w.toNat % (n + 1))
      let rs := ((v.reached s).filter fun r => v.grp r == g && v.differs s e.mg cols r).map (· % v.per)
      if !rs.isEmpty then v.passesFrom e k g rs n first
/-- The rows an instruction that goes on after a mirror mismatch finds are those before its passes. -/
def View.unwind (v : View) (e : QEntry) : G Unit :=
  modify fun s => e.prog.kept.foldl (fun s c => copyCols (e.op.destCols v s) c.1 c.2.1 c.2.2 s) s
/-- The mirrored passes of an instruction in class P, from the pass it goes on from (R222, R225). -/
def View.mirror (v : View) (e : QEntry) (x y : Word) : G Unit := do
  if v.cls ≠ 2 || e.prog.mirrored then return ()
  v.unwind e
  v.mirrorPasses e x y (e.prog.pass.getD 0) none
  setProg v.n fun p => { p with mirrored := true, pass := none, kept := [] }
/-- The keys of AMATCH, one for each pass: a pass that stops has taken its key (R222, R271). -/
def takeKeys (v : View) (e : QEntry) (x y : Word) (z : Nat) : Nat → List Word → G (List Word)
  | 0, acc => return acc
  | n + 1, acc => do
    let w ← takeKey v z acc
    if v.cls = 2 then v.mirrorPasses e x y acc.length (some (acc.length + 1))
    takeKeys v e x y z n (acc ++ [w])
/-- AMATCH; without keys it makes its one write (R271). -/
def opMatchKeys (v : View) (e : QEntry) (md fa z : Nat) (x y : Word) : G Unit := do
  if y = 0 then v.mirror e x y
  else if e.acc.isEmpty && v.cls = 2 then
    v.unwind e
    setProg v.n fun p => { p with kept := [] }
  opMatch v e.mg md fa (← takeKeys v e x y z (y.toNat - e.acc.length) e.acc)
/-- What the passes of an in-place add leave in each copy of a row: a bit that no pass tags stays as it is, and so does a parity
error, which no pass mends (R221, R324, R326). `s0` is the state before the passes. -/
def addRow (dd db : Word) (x0 : Group) (q : Nat) (x : Group) : Group :=
  let row := x0.row q
  (x.setRow q (setCols (x.row q) (dBase dd) (dWidth dd)
    (addAfter (fieldCode db row) (fieldCode dd row) (4 * dWidth dd + 1)).2)).setBad q (x0.bad q)
/-- The in-place adds of the boot ROM's microcode, copy by copy, in the governed rows of checked classes. -/
def QEntry.addRows (e : QEntry) (v : View) (s0 s : State) : State :=
  if v.cls = 0 then s
  else (v.governed s0 e.mg).foldl (fun s r =>
    let g := v.grp r
    match e.adds v s0 g with
    | none => s
    | some (dd, db) =>
      let x := addRow dd db (s0.group g) (r % v.per) (s.group g)
      s.setGroup g (if v.cls = 2 then addRow dd db (s0.group g) (r % v.per + 32768) x else x)) s

/-! ### Dispatch -/

/-- Concrete value of a queued scalar; poison stops the instruction (R198). -/
def opWord (x : SVal) : G Word :=
  match x with
  | .conc w => return w
  | .poison .timeout => stopAt .assoc 2 0
  | .poison _ => stopAt .assoc 1 0
  | _ => throw .hold
/-- AFCFG in a group (R212). -/
def opAfcfg (v : View) (d : Nat) (x : Word) : G Unit := modify (v.setDesc d x)

/-- Executes an instruction from row `start`; answers its scalar result. -/
def runOp (v : View) (e : QEntry) (x y : Word) (start : Nat) : G (Option Word) :=
  let none' (g : G Unit) : G (Option Word) := do g; return none
  let some' (g : G Word) : G (Option Word) := do return some (← g)
  match e.op with
  | .afcfg d => none' (opAfcfg v d x)
  | .amode t => none' (opMode v t x)
  | .awhile md => none' (opWhile v e.mg md x y)
  | .asrch comb md fa => none' (opSearch v e.mg comb md fa x)
  | .acmp cond rev md fa src => none' (opCompare v e.mg cond rev md fa src x)
  | .mlog md ma mb tbl => none' (opMlog v e.mg md ma mb tbl)
  | .mset md b => none' (opMset v e.mg md b)
  | .awr fd => none' (opWrite v e.mg fd x)
  | .amov fd fa => none' (opMove v e.mg fd fa)
  | .apopM ma => some' (opPopM v e.mg ma)
  | .apopF fa => some' (opPopF v e.mg fa start e.acc)
  | .afirst last ma => some' (opFirst v e.mg last ma)
  | .anext one md ma => none' (opNext v e.mg one md ma)
  | .atopk min md fa => none' (opTopk v e.mg min md fa x)
  | .aext min idx fa => some' (opExt v e.mg min idx fa start e.acc)
  | .ardrow fa => some' (opRdrow v fa y start)
  | .awrrow fd => none' (opWrrow v e.mg fd x y)
  | .arith fn fd fa src rev sat => none' (do
      let s0 ← get
      opArith v e.mg start e.mode fn fd fa src rev sat x
      modify (e.addRows v s0))
  | .sel max fd fa src => none' (opSel v e.mg max fd fa src x)
  | .logic fn fd fa src => none' (opLogic v e.mg fn fd fa src x)
  | .shift fn sat fd fa src => none' (opShift v e.mg fn sat fd fa src x)
  | .cvt nosat fd fa => none' (opCvt v e.mg start e.mode nosat fd fa)
  | .clamp fd fa => none' (opClamp v e.mg fd fa x y)
  | .ham sat fd fa src => none' (opHam v e.mg sat fd fa src x)
  | .lut fd fa => none' (do
      let bs ← opLutTable v e fd x y
      v.mirror e x y
      opLut v e.mg fd fa bs y)
  | .shr fd fa => none' (opShr v e.mg fd fa x)
  | .scan fn sat fd fa => none' (opScan v e.mg e.mode fn sat fd fa)
  | .segr fn sat fd fa ms => none' (opSegr v e.mg e.mode fn sat fd fa ms)
  | .pair union sat fd fa fb => none' (opPair v e.mg e.mode union sat fd fa fb)
  | .plenSet fd => none' (newLen v fd x.toNat)
  | .plenMask md fa => none' (opPlenMask v e.mg md fa)
  | .app val md => none' (opApp v e.mg e.sup val md x start)
  | .conf md fa => none' (opConf v e.mg md fa)
  | .intv kind md fa => none' (opInterval v e.mg kind md fa x y)
  | .amatch md fa z => none' (opMatchKeys v e md fa z x y)
  | .chk md fa => none' (opChk v e.mg md fa)
  | .fill sat fd => none' (opFill v e.mg sat fd x)
  | .bcast fd fa => none' (opBcast v e.mg fd fa x start)
  | .qnt keep fd fa => none' (opQnt v e.mg start keep fd fa x)
  | .dqnt nosat fd fa => none' (opDqnt v e.mg start e.mode nosat fd fa x)
  | .ld ff ad fd => none' (opLd v e ff ad fd x y start)
  | .ldseg nosat n fd => none' (opLdseg v e nosat n fd x y start)
  | .st ad fa => none' (opSt v e ad fa x y start)
  | .stseg nosat n fa => none' (opStseg v e nosat n fa x y start)
  | .save img k => none' (opSave v e img k x start)
  | .rstr img k => none' (opRstr v e img k x start)

/-- The row an instruction goes on from (R225): where it was held, ESTART when it resumes a row-ordered stop, the row another
stop recorded, else 0. ESTART is read when the resumed instruction is dispatched (DESIGN CHOICE log 98). -/
def startRow (st : Strand) (e : QEntry) : Nat :=
  match e.row, e.resumed with
  | some r, _ => r
  | none, some none => st.estart.toNat
  | none, some (some r) => r
  | none, none => 0
/-- The head of the queue runs to its end in every held group. -/
def runHead (v : View) (e : QEntry) : G (Option Word) := do
  let x ← opWord e.x
  let y ← opWord e.y
  if !e.prog.begun then
    dispatchChecks v e.op x y
    setProg v.n fun p => { p with begun := true }
  match e.op with
  | .lut .. => pure ()
  | .amatch .. => pure ()
  | _ => v.mirror e x y
  let s ← get
  let r ← runOp v e x y (startRow (s.strand v.n) e)
  let t ← get
  let len := match e.op with | .pair _ _ fd _ _ => dLen (v.desc t fd) | _ => 0
  modify (countPasses v (e.op.passes v s e.mg len x y))
  return r
/-- Retirement (R199, R216, R225, R277), and the gate masks that waited for it (R236). -/
def retireHead (n : Nat) (e : QEntry) (r : Option Word) (s : State) : State :=
  let st := s.strand n
  let st := { st with queue := st.queue.tail, estart := if e.resumed.isSome then 0 else st.estart }
  let st := match r, e.sym with
    | some v, some k => st.resolve k v
    | _, _ => st
  let st := match r, e.out with
    | some v, true => { st with part := some (.result (some v)) }
    | _, _ => st
  (dropAnswers (.group n) (s.setStrand n st)).takeGates n
/-- What a stopped instruction keeps (R224, R225): one that stopped by row the rest of its progress, one that stopped by pass
its row and its pass, one that stopped at dispatch nothing but what undoes its earlier passes. -/
def QEntry.stopped (st : Strand) (row : Option Nat) (pass : Option Word) (x : QEntry) : QEntry :=
  let acc := match x.op with | .amatch .. => [] | _ => if row.isSome || pass.isSome then x.acc else []
  { x with
    resumed := some (if row.isSome then none else some (if pass.isSome then startRow st x else 0))
    row := none
    acc := acc
    prog :=
      { Prog.fresh with
        pass := match x.op with | .amatch .. => none | _ => if pass.isSome then x.prog.pass else none
        kept := x.prog.kept } }
/-- A stop (R224, R227): fault registers, what AESTAT shows, and the delivery to come (R106). Gate masks that waited for the
instruction take effect (R236; DESIGN CHOICE log 97). -/
def stopHead (n : Nat) (e : QEntry) (code sub : BitVec 8) (val addr : Word) (row : Option Nat) (detail : Word)
    (pass : Option Word) (s : State) : State :=
  let st := s.strand n
  let op := e.word.toNat / 2 ^ 56
  (dropAnswers (.group n) (s.setStrand n { st with
    estart := match row with | some r => BitVec.ofNat 19 r | none => 0
    afaultop := e.word
    afaultaddr := if op = 0xFD || op = 0xFE then e.word1 else addr
    astop := some ⟨code, sub, row.isSome, detail, pass.getD 0⟩
    adeliver := some ⟨code, sub, val, .assoc, false⟩
    queue := match st.queue with | x :: q => x.stopped st row pass :: q | [] => [] })).takeGates n
/-- Whether the head of a strand's queue may be dispatched or go on (R216, R198, R230). -/
def canDispatch (st : Strand) : Bool :=
  match st.queue with
  | [] => false
  | e :: _ => st.astop.isNone && (!st.ahold || e.prog.begun) && !e.x.symbolic && !e.y.symbolic
/-- One dispatch of the head of strand `n`'s queue. -/
def dispatch (n : Nat) (s : State) : State :=
  let st := s.strand n
  match st.queue with
  | [] => s
  | e :: _ =>
    if canDispatch st then
      let s := if e.prog.begun then s else s.takeGates n
      match runHead (s.view n) e s with
      | .ok r s => wake (retireHead n e r s)
      | .error (.stop code sub val addr row detail pass) s => wake (stopHead n e code sub val addr row detail pass s)
      | .error .hold s => s
    else s
/-- ASSOC_DISPATCH (R216). -/
def execAssocDispatch (n : BitVec 10) (s : State) : Out := .next (tick 1 (dispatch n.toNat s))

end Sys2Proof.Machine
end

