-- ==== Sys2Proof/Machine/AssocIssue.lean ====
section
/-!
DEFINITION. Issue of associative instructions by a strand (07 R212, R213, R217, R229; 06 R198; 09 R277), and the
instructions of format A and the L forms AWRX and ASRCHX.
-/
namespace Sys2Proof.Machine

/-- A scalar operand at issue: none, a register of Table 2.5, or an immediate. -/
inductive AOper where
  | none
  | reg (c : BitVec 6)
  | imm (v : Word)
  deriving DecidableEq, Repr

/-- The held set must not be empty (R213 check 1, R22). -/
def needHeld : M Unit := do
  let s ← get
  if (s.heldOf s.cur).isEmpty then trapI .assoc 3 0
/-- FIELD_ABSENT for the lowest absent field, else the lowest absent mask (R213 check 2). -/
def needPresent (op : AOp) (mg : Nat) : M Unit := do
  let st ← getHere
  let link (k : Nat) : List Nat :=
    let d := Tab.get 0 st.desc k
    if usesLink (dTag d) then [dLink d] else []
  let fs := op.fields ++ op.fields.flatMap link
  match lowest (fs.filter fun k => !st.apresent.getLsbD k) with
  | some k => trapI .fieldAbsent 0 (BitVec.ofNat 64 k)
  | none =>
    match lowest ((mg :: op.masks).filter fun m => m < 24 && !st.mpresent.getLsbD m) with
    | some m => trapI .fieldAbsent 0 (BitVec.ofNat 64 (32 + m))
    | none => return ()
/-- Room in the queue under RAD (R213 check 3, R217). -/
def needRoom : M Unit := do
  let st ← getHere
  if Nat.min 64 st.rad.toNat ≤ st.queue.length then waitM
/-- Checks of a scalar operand before it is taken (R43, R54). -/
def AOper.check : AOper → M Unit
  | .reg c => do
    checkSrc c
    checkLanded c
  | _ => return ()
/-- The operand as it travels: a value, a symbol with its form, or poison (R198). -/
def AOper.take : AOper → M SVal
  | .none => return .conc 0
  | .reg c => takeSVal c
  | .imm v => return .conc v
/-- ADIRTY and MDIRTY bits an instruction sets at issue (R229). -/
def markDirty (op : AOp) (st : Strand) : Strand :=
  let cols := op.writes st
  let fields := cols.foldl (fun (x : BitVec 32) d => x ||| (if dWidth d = 0 then 0 else dirtyMeets st d)) 0
  let named : BitVec 32 := match op with
    | .afcfg d => (1 : BitVec 32) <<< d
    | .rstr .f k => ((1 : BitVec 32) <<< k) ||| dirtyMeets st (Tab.get 0 st.desc k)
    | _ => 0
  { st with
    adirty := st.adirty ||| fields ||| named
    mdirty := match op.mdest with | some m => st.mdirty ||| ((1 : BitVec 24) <<< m) | none => st.mdirty }
/-- Puts an instruction into the queues of the held groups and its replay entry (R216, R217). -/
def enqueue (op : AOp) (mg : Nat) (mode : BitVec 3) (w1 : Word) (x y : SVal) (sym : Option Nat) (out : Bool) : M Unit := do
  let s ← get
  let st := s.here
  let e : QEntry := ⟨op, s.ir, w1, st.pc, st.sup, mg, mode, x, y, sym, out, none, none, [], st.wmset, Prog.fresh⟩
  set (s.setHere (markDirty op { st with queue := st.queue ++ [e] }))
/-- Issue of an associative instruction (R213). One whose result goes to a stream waits until the groups have retired it
(R277). -/
def aissue (nst : BitVec 4) (len : Nat) (w1 : Word) (mg : Nat) (rc : BitVec 3) (op : AOp) (x y : AOper)
    (dst : Option (BitVec 6)) (s : State) : Out :=
  runS nst len (do
    needHeld
    needPresent op mg
    x.check
    y.check
    let issueWith (sym : Option Nat) (out : Bool) : M Unit := do
      let mode := (← getHere).rmode rc
      let vx ← x.take
      let vy ← y.take
      enqueue op mg mode w1 vx vy sym out
    match dst with
    | none =>
      needRoom
      issueWith none false
    | some d =>
      if d = 0 then
        needRoom
        issueWith none false
      else if d.toNat < 48 then
        needRoom
        match (← getHere).freeSym with
        | none =>
          modHere fun st => { st with waitfree := true }
          waitM
        | some k =>
          issueWith (some k) false
          allocSym d ⟨.assoc, 2, none, false, false, false, 0, none⟩
      else
        match (← getHere).part with
        | some (.result none) => waitM
        | some (.result (some v)) => putElem (d.toNat - 48) v
        | _ =>
          roomFor (d.toNat - 48)
          needRoom
          issueWith none true
          modHere fun st => { st with part := some (.result none) }
          waitM
    return none) s

/-- Sign-extended imm24. -/
def imm24 (i : BitVec 24) : Word := i.signExtend 64
/-- A second scalar s0 to s31 (R264, R292). -/
def sB (c : BitVec 5) : AOper := .reg (c.setWidth 6)
/-- Operand of the VS and VI forms (R46). -/
def svOper : SvOpnd → AOper
  | .vs s => .reg s | .vi i => .imm (imm24 i)
/-- Scalar side of an operand of all three forms (R46). -/
def aOper : AOpnd → AOper
  | .vv _ => .none | .vs s => .reg s | .vi i => .imm (imm24 i)
/-- Field side of an operand. -/
def aSrc : AOpnd → ASrc
  | .vv fb => .fld fb.toNat | _ => .op
/-- Scalar side of ACMP's operand (R269). -/
def cmpOper : CmpOpnd → AOper
  | .vv _ => .none | .vs _ s => .reg s | .vi _ i => .imm (imm24 i)
/-- Field side of ACMP's operand. -/
def cmpSrc : CmpOpnd → ASrc
  | .vv fb => .fld fb.toNat | _ => .op
/-- The rev bit. -/
def cmpRev : CmpOpnd → Bool
  | .vv _ => false | .vs r _ => r == 1 | .vi r _ => r == 1
/-- Issue of a one-word format-A instruction. -/
def aone (h : AHdr) (rc : BitVec 3) (op : AOp) (x y : AOper) (dst : Option (BitVec 6)) (s : State) : Out :=
  aissue h.stall 8 0 h.mg.toNat rc op x y dst s

/-- AFCFG (R212). -/
def execAfcfg (nst : BitVec 4) (fd : BitVec 5) (sa : BitVec 6) (s : State) : Out :=
  runS nst 8 (do
    needHeld
    let st ← getHere
    if !st.apresent.getLsbD fd.toNat then trapI .fieldAbsent 0 (fd.setWidth 64)
    ready [sa] []
    needRoom
    let a ← takeVal sa
    let s ← get
    if !dValid (s.view s.cur).rows a then trapI .fieldUnconfig 0 (fd.setWidth 64)
    modHere fun st => { st with desc := Tab.put 0 st.desc fd.toNat a }
    enqueue (.afcfg fd.toNat) 24 0 0 (.conc a) (.conc 0) none false
    return none) s
/-- AMODE to associative (R234). -/
def execAmodeAs (nst : BitVec 4) (sa : BitVec 6) (s : State) : Out :=
  aissue nst 8 0 24 0 (.amode false) (.reg sa) .none none s
/-- AMODE to storage (R234). -/
def execAmodeSt (nst : BitVec 4) (sa : BitVec 6) (s : State) : Out :=
  aissue nst 8 0 24 0 (.amode true) (.reg sa) .none none s
/-- AWHILE (R267). -/
def execAwhile (h : AHdr) (md sb : BitVec 5) (o : SvOpnd) (s : State) : Out :=
  aone h 0 (.awhile md.toNat) (svOper o) (sB sb) none s
/-- ASRCH.set (R268). -/
def execAsrchSet (h : AHdr) (md fa : BitVec 5) (o : SvOpnd) (s : State) : Out :=
  aone h 0 (.asrch 0 md.toNat fa.toNat) (svOper o) .none none s
/-- ASRCH.and (R268). -/
def execAsrchAnd (h : AHdr) (md fa : BitVec 5) (o : SvOpnd) (s : State) : Out :=
  aone h 0 (.asrch 1 md.toNat fa.toNat) (svOper o) .none none s
/-- ASRCH.or (R268). -/
def execAsrchOr (h : AHdr) (md fa : BitVec 5) (o : SvOpnd) (s : State) : Out :=
  aone h 0 (.asrch 2 md.toNat fa.toNat) (svOper o) .none none s
/-- ACMP of a condition (R269). -/
def acmp (h : AHdr) (cond : BitVec 2) (md fa : BitVec 5) (o : CmpOpnd) (s : State) : Out :=
  aone h 0 (.acmp cond (cmpRev o) md.toNat fa.toNat (cmpSrc o)) (cmpOper o) .none none s
/-- ACMP.eq (R269). -/
def execAcmpEq (h : AHdr) (md fa : BitVec 5) (o : CmpOpnd) (s : State) : Out := acmp h 0 md fa o s
/-- ACMP.ne (R269). -/
def execAcmpNe (h : AHdr) (md fa : BitVec 5) (o : CmpOpnd) (s : State) : Out := acmp h 1 md fa o s
/-- ACMP.lt (R269). -/
def execAcmpLt (h : AHdr) (md fa : BitVec 5) (o : CmpOpnd) (s : State) : Out := acmp h 2 md fa o s
/-- ACMP.ge (R269). -/
def execAcmpGe (h : AHdr) (md fa : BitVec 5) (o : CmpOpnd) (s : State) : Out := acmp h 3 md fa o s
/-- MLOG (R272). -/
def execMlog (h : AHdr) (md ma mb : BitVec 5) (tbl : BitVec 4) (s : State) : Out :=
  aone h 0 (.mlog md.toNat ma.toNat mb.toNat tbl) .none .none none s
/-- MSET (R272). -/
def execMset (h : AHdr) (md : BitVec 5) (v : BitVec 1) (s : State) : Out :=
  aone h 0 (.mset md.toNat (v == 1)) .none .none none s
/-- AWR (R273). -/
def execAwr (h : AHdr) (fd : BitVec 5) (o : SvOpnd) (s : State) : Out := aone h 0 (.awr fd.toNat) (svOper o) .none none s
/-- AMOV (R274). -/
def execAmov (h : AHdr) (fd fa : BitVec 5) (s : State) : Out := aone h 0 (.amov fd.toNat fa.toNat) .none .none none s
/-- APOP.m (R278). -/
def execApopM (h : AHdr) (ma : BitVec 5) (d : BitVec 6) (s : State) : Out :=
  aone h 0 (.apopM ma.toNat) .none .none (some d) s
/-- APOP.f (R278). -/
def execApopF (h : AHdr) (fa : BitVec 5) (d : BitVec 6) (s : State) : Out :=
  aone h 0 (.apopF fa.toNat) .none .none (some d) s
/-- AFIRST.first (R279). -/
def execAfirstFirst (h : AHdr) (ma : BitVec 5) (d : BitVec 6) (s : State) : Out :=
  aone h 0 (.afirst false ma.toNat) .none .none (some d) s
/-- AFIRST.last (R279). -/
def execAfirstLast (h : AHdr) (ma : BitVec 5) (d : BitVec 6) (s : State) : Out :=
  aone h 0 (.afirst true ma.toNat) .none .none (some d) s
/-- ANEXT.clr (R279). -/
def execAnextClr (h : AHdr) (md ma : BitVec 5) (s : State) : Out :=
  aone h 0 (.anext false md.toNat ma.toNat) .none .none none s
/-- ANEXT.one (R279). -/
def execAnextOne (h : AHdr) (md ma : BitVec 5) (s : State) : Out :=
  aone h 0 (.anext true md.toNat ma.toNat) .none .none none s
/-- ATOPK.max (R280). -/
def execAtopkMax (h : AHdr) (md fa : BitVec 5) (o : SvOpnd) (s : State) : Out :=
  aone h 0 (.atopk false md.toNat fa.toNat) (svOper o) .none none s
/-- ATOPK.min (R280). -/
def execAtopkMin (h : AHdr) (md fa : BitVec 5) (o : SvOpnd) (s : State) : Out :=
  aone h 0 (.atopk true md.toNat fa.toNat) (svOper o) .none none s
/-- AEXT.max (R281). -/
def execAextMax (h : AHdr) (fa : BitVec 5) (d : BitVec 6) (s : State) : Out :=
  aone h 0 (.aext false false fa.toNat) .none .none (some d) s
/-- AEXT.min (R281). -/
def execAextMin (h : AHdr) (fa : BitVec 5) (d : BitVec 6) (s : State) : Out :=
  aone h 0 (.aext true false fa.toNat) .none .none (some d) s
/-- AEXT.maxidx (R281). -/
def execAextMaxidx (h : AHdr) (fa : BitVec 5) (d : BitVec 6) (s : State) : Out :=
  aone h 0 (.aext false true fa.toNat) .none .none (some d) s
/-- AEXT.minidx (R281). -/
def execAextMinidx (h : AHdr) (fa : BitVec 5) (d : BitVec 6) (s : State) : Out :=
  aone h 0 (.aext true true fa.toNat) .none .none (some d) s
/-- ARDROW (R282). -/
def execArdrow (h : AHdr) (fa sb : BitVec 5) (d : BitVec 6) (s : State) : Out :=
  aone h 0 (.ardrow fa.toNat) .none (sB sb) (some d) s
/-- AWRROW (R282). -/
def execAwrrow (h : AHdr) (fd sb : BitVec 5) (x : BitVec 6) (s : State) : Out :=
  aone h 0 (.awrrow fd.toNat) (.reg x) (sB sb) none s
/-- Arithmetic with an operand (R296). -/
def aarith (h : AHdr) (fn : AFn) (fd fa : BitVec 5) (rc : BitVec 3) (sat rev : BitVec 1) (o : AOpnd) (s : State) : Out :=
  aone h rc (.arith fn fd.toNat fa.toNat (aSrc o) (rev == 1) (sat == 1)) (aOper o) .none none s
/-- AADD (R296). -/
def execAadd (h : AHdr) (fd fa : BitVec 5) (rc : BitVec 3) (sat : BitVec 1) (o : AOpnd) (s : State) : Out :=
  aarith h .add fd fa rc sat 0 o s
/-- ASUB (R296). -/
def execAsub (h : AHdr) (fd fa : BitVec 5) (rc : BitVec 3) (sat rev : BitVec 1) (o : AOpnd) (s : State) : Out :=
  aarith h .sub fd fa rc sat rev o s
/-- AMUL (R296). -/
def execAmul (h : AHdr) (fd fa : BitVec 5) (rc : BitVec 3) (sat : BitVec 1) (o : AOpnd) (s : State) : Out :=
  aarith h .mul fd fa rc sat 0 o s
/-- AFMA (R296). -/
def execAfma (h : AHdr) (fd fa : BitVec 5) (rc : BitVec 3) (sat : BitVec 1) (o : AOpnd) (s : State) : Out :=
  aarith h .fma fd fa rc sat 0 o s
/-- ADIV (R296). -/
def execAdiv (h : AHdr) (fd fa : BitVec 5) (rc : BitVec 3) (sat rev : BitVec 1) (o : AOpnd) (s : State) : Out :=
  aarith h .div fd fa rc sat rev o s
/-- AREM (R296). -/
def execArem (h : AHdr) (fd fa : BitVec 5) (sat rev : BitVec 1) (o : AOpnd) (s : State) : Out :=
  aarith h .rem fd fa 0 sat rev o s
/-- AMIN (R298). -/
def execAmin (h : AHdr) (fd fa : BitVec 5) (o : AOpnd) (s : State) : Out :=
  aone h 0 (.sel false fd.toNat fa.toNat (aSrc o)) (aOper o) .none none s
/-- AMAX (R298). -/
def execAmax (h : AHdr) (fd fa : BitVec 5) (o : AOpnd) (s : State) : Out :=
  aone h 0 (.sel true fd.toNat fa.toNat (aSrc o)) (aOper o) .none none s
/-- One-operand arithmetic (R296). -/
def aunary (h : AHdr) (fn : AFn) (fd fa : BitVec 5) (rc : BitVec 3) (sat : BitVec 1) (s : State) : Out :=
  aone h rc (.arith fn fd.toNat fa.toNat .op false (sat == 1)) .none .none none s
/-- AABS (R296). -/
def execAabs (h : AHdr) (fd fa : BitVec 5) (rc : BitVec 3) (sat : BitVec 1) (s : State) : Out := aunary h .abs fd fa rc sat s
/-- ANEG (R296). -/
def execAneg (h : AHdr) (fd fa : BitVec 5) (rc : BitVec 3) (sat : BitVec 1) (s : State) : Out := aunary h .neg fd fa rc sat s
/-- ASQRT (R296). -/
def execAsqrt (h : AHdr) (fd fa : BitVec 5) (rc : BitVec 3) (sat : BitVec 1) (s : State) : Out := aunary h .sqrt fd fa rc sat s
/-- ALOG of a function (R299). -/
def alog (h : AHdr) (fn : BitVec 2) (fd fa : BitVec 5) (o : AOpnd) (s : State) : Out :=
  aone h 0 (.logic fn fd.toNat fa.toNat (aSrc o)) (aOper o) .none none s
/-- ALOG.and (R299). -/
def execAlogAnd (h : AHdr) (fd fa : BitVec 5) (o : AOpnd) (s : State) : Out := alog h 0 fd fa o s
/-- ALOG.or (R299). -/
def execAlogOr (h : AHdr) (fd fa : BitVec 5) (o : AOpnd) (s : State) : Out := alog h 1 fd fa o s
/-- ALOG.xor (R299). -/
def execAlogXor (h : AHdr) (fd fa : BitVec 5) (o : AOpnd) (s : State) : Out := alog h 2 fd fa o s
/-- ALOG.andn (R299). -/
def execAlogAndn (h : AHdr) (fd fa : BitVec 5) (o : AOpnd) (s : State) : Out := alog h 3 fd fa o s
/-- ASHF of a function (R299). -/
def ashf (h : AHdr) (fn : BitVec 2) (fd fa : BitVec 5) (sat : BitVec 1) (o : AOpnd) (s : State) : Out :=
  aone h 0 (.shift fn (sat == 1) fd.toNat fa.toNat (aSrc o)) (aOper o) .none none s
/-- ASHF.shl (R299). -/
def execAshfShl (h : AHdr) (fd fa : BitVec 5) (sat : BitVec 1) (o : AOpnd) (s : State) : Out := ashf h 0 fd fa sat o s
/-- ASHF.shr (R299). -/
def execAshfShr (h : AHdr) (fd fa : BitVec 5) (sat : BitVec 1) (o : AOpnd) (s : State) : Out := ashf h 1 fd fa sat o s
/-- ASHF.sra (R299). -/
def execAshfSra (h : AHdr) (fd fa : BitVec 5) (sat : BitVec 1) (o : AOpnd) (s : State) : Out := ashf h 2 fd fa sat o s
/-- ASHF.rot (R299). -/
def execAshfRot (h : AHdr) (fd fa : BitVec 5) (sat : BitVec 1) (o : AOpnd) (s : State) : Out := ashf h 3 fd fa sat o s
/-- ACVT (R300). -/
def execAcvt (h : AHdr) (fd fa : BitVec 5) (rc : BitVec 3) (sat : BitVec 1) (s : State) : Out :=
  aone h rc (.cvt (sat == 1) fd.toNat fa.toNat) .none .none none s
/-- ACLAMP (R298). -/
def execAclamp (h : AHdr) (fd fa sb : BitVec 5) (x : BitVec 6) (s : State) : Out :=
  aone h 0 (.clamp fd.toNat fa.toNat) (.reg x) (sB sb) none s
/-- AHAM (R284). -/
def execAham (h : AHdr) (fd fa : BitVec 5) (sat : BitVec 1) (o : AOpnd) (s : State) : Out :=
  aone h 0 (.ham (sat == 1) fd.toNat fa.toNat (aSrc o)) (aOper o) .none none s
/-- ALUT (R303). -/
def execAlut (h : AHdr) (fd fa sb : BitVec 5) (x : BitVec 6) (s : State) : Out :=
  aone h 0 (.lut fd.toNat fa.toNat) (.reg x) (sB sb) none s
/-- ASHR (R304). -/
def execAshr (h : AHdr) (fd fa : BitVec 5) (o : SvOpnd) (s : State) : Out :=
  aone h 0 (.shr fd.toNat fa.toNat) (svOper o) .none none s
/-- ASCAN of a combine (R305). -/
def ascan (h : AHdr) (fn : ScanFn) (fd fa : BitVec 5) (rc : BitVec 3) (sat : BitVec 1) (s : State) : Out :=
  aone h rc (.scan fn (sat == 1) fd.toNat fa.toNat) .none .none none s
/-- ASCAN.add (R305). -/
def execAscanAdd (h : AHdr) (fd fa : BitVec 5) (rc : BitVec 3) (sat : BitVec 1) (s : State) : Out := ascan h .add fd fa rc sat s
/-- ASCAN.min (R305). -/
def execAscanMin (h : AHdr) (fd fa : BitVec 5) (rc : BitVec 3) (sat : BitVec 1) (s : State) : Out := ascan h .min fd fa rc sat s
/-- ASCAN.max (R305). -/
def execAscanMax (h : AHdr) (fd fa : BitVec 5) (rc : BitVec 3) (sat : BitVec 1) (s : State) : Out := ascan h .max fd fa rc sat s
/-- ASCAN.or (R305). -/
def execAscanOr (h : AHdr) (fd fa : BitVec 5) (rc : BitVec 3) (sat : BitVec 1) (s : State) : Out := ascan h .or fd fa rc sat s
/-- ASEGR of a combine (R306). -/
def asegr (h : AHdr) (fn : ScanFn) (fd fa mb : BitVec 5) (rc : BitVec 3) (sat : BitVec 1) (s : State) : Out :=
  aone h rc (.segr fn (sat == 1) fd.toNat fa.toNat mb.toNat) .none .none none s
/-- ASEGR.add (R306). -/
def execAsegrAdd (h : AHdr) (fd fa mb : BitVec 5) (rc : BitVec 3) (sat : BitVec 1) (s : State) : Out :=
  asegr h .add fd fa mb rc sat s
/-- ASEGR.min (R306). -/
def execAsegrMin (h : AHdr) (fd fa mb : BitVec 5) (rc : BitVec 3) (sat : BitVec 1) (s : State) : Out :=
  asegr h .min fd fa mb rc sat s
/-- ASEGR.max (R306). -/
def execAsegrMax (h : AHdr) (fd fa mb : BitVec 5) (rc : BitVec 3) (sat : BitVec 1) (s : State) : Out :=
  asegr h .max fd fa mb rc sat s
/-- ASEGR.or (R306). -/
def execAsegrOr (h : AHdr) (fd fa mb : BitVec 5) (rc : BitVec 3) (sat : BitVec 1) (s : State) : Out :=
  asegr h .or fd fa mb rc sat s
/-- ASPI (R308). -/
def execAspi (h : AHdr) (fd fa fb : BitVec 5) (rc : BitVec 3) (sat : BitVec 1) (s : State) : Out :=
  aone h rc (.pair false (sat == 1) fd.toNat fa.toNat fb.toNat) .none .none none s
/-- ASPU (R308). -/
def execAspu (h : AHdr) (fd fa fb : BitVec 5) (rc : BitVec 3) (sat : BitVec 1) (s : State) : Out :=
  aone h rc (.pair true (sat == 1) fd.toNat fa.toNat fb.toNat) .none .none none s
/-- ASPLEN.set (R309). -/
def execAsplenSet (h : AHdr) (fd : BitVec 5) (o : SvOpnd) (s : State) : Out :=
  aone h 0 (.plenSet fd.toNat) (svOper o) .none none s
/-- ASPLEN.mask (R309). -/
def execAsplenMask (h : AHdr) (md fa : BitVec 5) (s : State) : Out :=
  aone h 0 (.plenMask md.toNat fa.toNat) .none .none none s
/-- AAPP.idx (R286). -/
def execAappIdx (h : AHdr) (md : BitVec 5) (x : BitVec 6) (s : State) : Out :=
  aone h 0 (.app none md.toNat) (.reg x) .none none s
/-- AAPP.val (R286). -/
def execAappVal (h : AHdr) (md fa : BitVec 5) (x : BitVec 6) (s : State) : Out :=
  aone h 0 (.app (some fa.toNat) md.toNat) (.reg x) .none none s
/-- ACONF (R285). -/
def execAconf (h : AHdr) (md fa : BitVec 5) (s : State) : Out := aone h 0 (.conf md.toNat fa.toNat) .none .none none s
/-- AINTV of an interval kind (R270). -/
def aintv (h : AHdr) (kind : BitVec 2) (md fa sb : BitVec 5) (x : BitVec 6) (s : State) : Out :=
  aone h 0 (.intv kind md.toNat fa.toNat) (.reg x) (sB sb) none s
/-- AINTV.cc (R270). -/
def execAintvCc (h : AHdr) (md fa sb : BitVec 5) (x : BitVec 6) (s : State) : Out := aintv h 0 md fa sb x s
/-- AINTV.co (R270). -/
def execAintvCo (h : AHdr) (md fa sb : BitVec 5) (x : BitVec 6) (s : State) : Out := aintv h 1 md fa sb x s
/-- AINTV.oc (R270). -/
def execAintvOc (h : AHdr) (md fa sb : BitVec 5) (x : BitVec 6) (s : State) : Out := aintv h 2 md fa sb x s
/-- AINTV.oo (R270). -/
def execAintvOo (h : AHdr) (md fa sb : BitVec 5) (x : BitVec 6) (s : State) : Out := aintv h 3 md fa sb x s
/-- AMATCH: the stream is checked at issue, before the presence check of R213, and lent to the groups (R271; DESIGN CHOICE
log 48). -/
def execAmatch (h : AHdr) (md fa sb : BitVec 5) (z : BitVec 4) (s : State) : Out :=
  match Tab.find s.here.streams z.toNat with
  | some x =>
    if x.out && !(s.heldOf s.cur).isEmpty then runS h.stall 8 (trapI .stream 1 (z.setWidth 64)) s
    else aone h 0 (.amatch md.toNat fa.toNat z.toNat) .none (sB sb) none s
  | none =>
    if (s.heldOf s.cur).isEmpty then runS h.stall 8 (trapI .assoc 3 0) s
    else runS h.stall 8 (trapI .stream 1 (z.setWidth 64)) s
/-- ACHK (R239). -/
def execAchk (h : AHdr) (md fa : BitVec 5) (s : State) : Out := aone h 0 (.chk md.toNat fa.toNat) .none .none none s
/-- AFILL (R276). -/
def execAfill (h : AHdr) (fd : BitVec 5) (sat : BitVec 1) (o : SvOpnd) (s : State) : Out :=
  aone h 0 (.fill (sat == 1) fd.toNat) (svOper o) .none none s
/-- ABCAST (R275). -/
def execAbcast (h : AHdr) (fd fa : BitVec 5) (o : SvOpnd) (s : State) : Out :=
  aone h 0 (.bcast fd.toNat fa.toNat) (svOper o) .none none s
/-- AQNT (R301). -/
def execAqnt (h : AHdr) (fd fa : BitVec 5) (o : SvOpnd) (s : State) : Out :=
  aone h 0 (.qnt false fd.toNat fa.toNat) (svOper o) .none none s
/-- AQNT.keep (R301). -/
def execAqntKeep (h : AHdr) (fd fa : BitVec 5) (s : State) : Out :=
  aone h 0 (.qnt true fd.toNat fa.toNat) .none .none none s
/-- ADQNT: n is 0 in the VV form (R302). -/
def execAdqnt (h : AHdr) (fd fa : BitVec 5) (rc : BitVec 3) (sat : BitVec 1) (o : AOpnd) (s : State) : Out :=
  aone h rc (.dqnt (sat == 1) fd.toNat fa.toNat) (aOper o) .none none s
/-- ALD (R312). -/
def execAld (h : AHdr) (fd : BitVec 5) (ff : BitVec 1) (x : BitVec 6) (s : State) : Out :=
  aone h 0 (.ld (ff == 1) .lin fd.toNat) (.reg x) .none none s
/-- ALDX (R312). -/
def execAldx (h : AHdr) (fd fb : BitVec 5) (ff : BitVec 1) (x : BitVec 6) (s : State) : Out :=
  aone h 0 (.ld (ff == 1) (.idx fb.toNat) fd.toNat) (.reg x) .none none s
/-- ALDSEG of nm1 + 1 fields (R315). -/
def execAldseg (h : AHdr) (fd sb : BitVec 5) (rc : BitVec 3) (nosat : BitVec 1) (nm1 : BitVec 2) (x : BitVec 6)
    (s : State) : Out :=
  aone h rc (.ldseg (nosat == 1) (nm1.toNat + 1) fd.toNat) (.reg x) (sB sb) none s
/-- AST (R313). -/
def execAst (h : AHdr) (fa : BitVec 5) (x : BitVec 6) (s : State) : Out := aone h 0 (.st .lin fa.toNat) (.reg x) .none none s
/-- ASTX (R313). -/
def execAstx (h : AHdr) (fa fb : BitVec 5) (x : BitVec 6) (s : State) : Out :=
  aone h 0 (.st (.idx fb.toNat) fa.toNat) (.reg x) .none none s
/-- ASTSEG of nm1 + 1 fields (R315). -/
def execAstseg (h : AHdr) (fa sb : BitVec 5) (rc : BitVec 3) (nosat : BitVec 1) (nm1 : BitVec 2) (x : BitVec 6)
    (s : State) : Out :=
  aone h rc (.stseg (nosat == 1) (nm1.toNat + 1) fa.toNat) (.reg x) (sB sb) none s
/-- ALDS (R312). -/
def execAlds (h : AHdr) (fd sb : BitVec 5) (ff : BitVec 1) (x : BitVec 6) (s : State) : Out :=
  aone h 0 (.ld (ff == 1) .str fd.toNat) (.reg x) (sB sb) none s
/-- ASTS (R313). -/
def execAsts (h : AHdr) (fa sb : BitVec 5) (x : BitVec 6) (s : State) : Out :=
  aone h 0 (.st .str fa.toNat) (.reg x) (sB sb) none s
/-- ASAVE and ARSTR (R316). -/
def aimage (nst : BitVec 4) (op : AOp) (x : BitVec 6) (s : State) : Out := aissue nst 8 0 24 0 op (.reg x) .none none s
/-- ASAVE.f (R317). -/
def execAsaveF (nst : BitVec 4) (k : BitVec 5) (x : BitVec 6) (s : State) : Out := aimage nst (.save .f k.toNat) x s
/-- ASAVE.m (R317). -/
def execAsaveM (nst : BitVec 4) (k : BitVec 5) (x : BitVec 6) (s : State) : Out := aimage nst (.save .m k.toNat) x s
/-- ASAVE.desc (R317). -/
def execAsaveDesc (nst : BitVec 4) (k : BitVec 5) (x : BitVec 6) (s : State) : Out := aimage nst (.save .desc k.toNat) x s
/-- ASAVE.ev (R317). -/
def execAsaveEv (nst : BitVec 4) (k : BitVec 5) (x : BitVec 6) (s : State) : Out := aimage nst (.save .ev k.toNat) x s
/-- ARSTR.f (R317). -/
def execArstrF (nst : BitVec 4) (k : BitVec 5) (x : BitVec 6) (s : State) : Out := aimage nst (.rstr .f k.toNat) x s
/-- ARSTR.m (R317). -/
def execArstrM (nst : BitVec 4) (k : BitVec 5) (x : BitVec 6) (s : State) : Out := aimage nst (.rstr .m k.toNat) x s
/-- ARSTR.desc (R317). -/
def execArstrDesc (nst : BitVec 4) (k : BitVec 5) (x : BitVec 6) (s : State) : Out := aimage nst (.rstr .desc k.toNat) x s
/-- ARSTR.ev (R317). -/
def execArstrEv (nst : BitVec 4) (k : BitVec 5) (x : BitVec 6) (s : State) : Out := aimage nst (.rstr .ev k.toNat) x s
/-- AWRX: the 64-bit value is word 1 (R50, R273). -/
def execAwrx (nst : BitVec 4) (mg fd : BitVec 6) (v : BitVec 64) (s : State) : Out :=
  aissue nst 16 v mg.toNat 0 (.awr fd.toNat) (.imm v) .none none s
/-- ASRCHX: governed by m* (R50, R268). -/
def execAsrchx (nst : BitVec 4) (md fa : BitVec 6) (v : BitVec 64) (s : State) : Out :=
  aissue nst 16 v 24 0 (.asrch 0 md.toNat fa.toNat) (.imm v) .none none s

end Sys2Proof.Machine
end

