-- ==== Sys2Proof/Machine/Nest.lean ====
section
/-!
DEFINITION. Nest walker: enumeration of a launch's items (16 R415), which launches have items waiting (16 R412, R419), and
their levels (16 R420, R422), where an item can be placed (01 R18; 16 R419); contexts kept (16 R410).
-/
namespace Sys2Proof.Machine

/-! ### Enumeration (R415) -/

/-- The spatial levels with their index, rank 0 first. -/
def spatial (ls : List Level) : List (Nat × Level) :=
  (List.range 6).filterMap fun r => (ls.zipIdx.find? fun p => p.1.rank == r && p.1.kind != 0).map fun p => (p.2, p.1)
/-- Whether each spatial level is one over dies, and its extent. -/
def radix (ls : List Level) : List (Bool × Nat) := (spatial ls).map fun p => (p.2.kind == 2, p.2.extent)
/-- Number of items of a launch. -/
def itemCount (ls : List Level) : Nat := (radix ls).foldl (fun n e => n * e.2) 1
/-- Digits of an ordinal, most significant first. -/
def digitsOf : List (Bool × Nat) → Nat → List Nat
  | [], _ => []
  | (_, e) :: t, n => n / (t.foldl (fun m x => m * x.2) 1) % e :: digitsOf t n
/-- The ordinal of digits. -/
def ordinalOf (es : List (Bool × Nat)) (ds : List Nat) : Nat := (es.zip ds).foldl (fun n p => n * p.1.2 + p.2) 0
/-- Number of iterations over dies. -/
def dieCount (es : List (Bool × Nat)) : Nat := es.foldl (fun n e => if e.1 then n * e.2 else n) 1
/-- Digits of the lowest ordinal whose iteration over dies is `x`. -/
def dieDigits : List (Bool × Nat) → Nat → List Nat
  | [], _ => []
  | (die, e) :: t, x => (if die then x / dieCount t % e else 0) :: dieDigits t x
/-- The lowest digits under a prefix with die number `p` that fall to die `d`. -/
def lowestFor (es : List (Bool × Nat)) (p d : Nat) : Option (List Nat) :=
  let n := dieCount es
  let x := (d + 8 - p * n % 8) % 8
  if x < n then some (dieDigits es x) else none
/-- The lowest digits, at or after the given ones, that fall to die `d`. -/
def nextFor : List (Bool × Nat) → List Nat → Nat → Nat → Option (List Nat)
  | [], _, p, d => if p % 8 = d then some [] else none
  | _ :: _, [], _, _ => none
  | (die, e) :: t, a :: as, p, d =>
    let q (x : Nat) : Nat := if die then p * e + x else p
    match nextFor t as (q a) d with
    | some xs => some (a :: xs)
    | none => (List.range 8).findSome? fun i =>
        if e ≤ a + 1 + i then none else (lowestFor t (q (a + 1 + i)) d).map fun xs => (a + 1 + i) :: xs
/-- The next undispatched item of a launch on a die (R17, R415). -/
def Launch.nextItem (l : Launch) (die : Nat) : Option Nat :=
  let es := radix l.levels
  let lo := Tab.get 0 l.next die
  if l.killed || itemCount l.levels ≤ lo then none
  else if es.any (·.1) then (nextFor es (digitsOf es lo) 0 die).map (ordinalOf es)
  else if die = l.die then some lo else none
/-- The values of s1 to s6 for item `o` (R19, R415). -/
def Launch.index (l : Launch) (o : Nat) (k : Nat) : Word :=
  let sp := spatial l.levels
  let ds := digitsOf (radix l.levels) o
  match l.levels[k]? with
  | none => 0
  | some v =>
    match (sp.zip ds).find? fun p => p.1.1 == k with
    | some p => sx v.start + sx v.step * BitVec.ofNat 64 p.2
    | none => sx v.start

/-! ### Items that wait -/

/-- A launch. -/
def State.launch (s : State) (id : Nat) : Option Launch := Tab.find s.launches id
/-- Changes a launch. -/
def State.modLaunch (s : State) (id : Nat) (f : Launch → Launch) : State :=
  match s.launch id with
  | some l => { s with launches := Tab.insert s.launches id (f l) }
  | none => s
/-- Whether a launch's items may start: the launch it waits for has completed (R412). -/
def State.started (s : State) (l : Launch) : Bool :=
  l.after == 0 || match s.launch l.after with | some x => x.status.isSome | none => true
/-- The oldest ready suspended item of a launch on a die (R419). -/
def State.readySusp (s : State) (id die : Nat) : Option Susp :=
  s.susp.find? fun x => x.item.launch == id && x.die == die && !x.hold
/-- Whether a launch has an item to place on a die. -/
def State.waiting (s : State) (id : Nat) (l : Launch) (die : Nat) : Bool :=
  l.status.isNone && ((s.readySusp id die).isSome || (s.started l && (l.nextItem die).isSome))

/-! ### Placement (R18, R419) -/

/-- Whether a strand or group freed under a mark is kept for a launch other than `id` (R419). -/
def State.keptFor (s : State) (r : Option Nat) (id die : Nat) : Bool :=
  match r with
  | none => false
  | some j => j != id && match s.launch j with | some l => s.waiting j l die | none => false
/-- Groups of a cluster that launch `id` may take: none that an AUCODE under way keeps (R237). -/
def State.freeGroups (s : State) (cl id : Nat) : List Nat :=
  ((List.range 4).map (cl * 4 + ·)).filter fun g =>
    (s.group g).holder.isNone && !s.strands.any (fun p => p.2.bars.contains g) && !s.keptFor (s.group g).reserve id (cl / 16)
/-- Whether strand `n` can take an item of launch `id` (R18). -/
def State.canPlace (s : State) (n id : Nat) (l : Launch) : Bool :=
  (s.strand n).item.isNone && !s.keptFor (s.strand n).reserve id (dieOf n)
    && decide (l.groups ≤ (s.freeGroups (clusterOf n) id).length)
/-- Strands of a die. -/
def strandsOf (die : Nat) : List Nat := (List.range 128).map (die * 128 + ·)
/-- Whether an item of a launch can be placed on a die. -/
def State.placeable (s : State) (id : Nat) (l : Launch) (die : Nat) : Bool :=
  (strandsOf die).any fun n => s.canPlace n id l

/-! ### Ageing (R420) -/

/-- Whether an item of a launch waits on some die and can be placed there (R419). -/
def State.waits (s : State) (id : Nat) (l : Launch) : Bool :=
  (List.range 8).any fun d => s.waiting id l d && s.placeable id l d
/-- A launch at cycle `now`: it has risen one level for every whole AGEPERIOD its dispatchable items have waited, up to the ceiling;
the time counts from when they began to wait, and none passes while AGEPERIOD is 0. -/
def Launch.aged (l : Launch) (ceil period : Nat) (now : Word) (waits : Bool) : Launch :=
  if !waits || period = 0 then { l with since := now }
  else
    let k := (now - l.since).toNat / period
    { l with
      level := if l.level.toNat < ceil then BitVec.ofNat 4 (Nat.min ceil (l.level.toNat + k)) else l.level
      since := l.since + BitVec.ofNat 64 (k * period) }
/-- A launch as it has aged by now. -/
def State.agedLaunch (s : State) (id : Nat) (l : Launch) : Launch :=
  if l.status.isSome then l
  else l.aged (s.ctxOf l.ctx).ceil.toNat (s.die l.die).ageing.toNat s.cycle (s.waits id l)
/-- Every launch as it has aged by now: whatever reads a level or changes what waits begins with this. -/
def State.age (s : State) : State := { s with launches := s.launches.map fun p => (p.1, s.agedLaunch p.1 p.2) }
/-- The level a launch falls back to when one of its items is dispatched: the declared priority, under the ceiling of its
context now (R420, R422). -/
def State.baseLevel (s : State) (l : Launch) : BitVec 4 :=
  let c := (s.ctxOf l.ctx).ceil
  if c.toNat < l.prio.toNat then c else l.prio

/-! ### Kept contexts (R410) -/

/-- Whether the walkers keep a context (R410): also while commands or matrix tasks of it are not over, which go on under
its root, PASID and budgets (R332; DEDUCED log 69). -/
def State.keeps (s : State) (c : Nat) : Bool :=
  s.launches.any (fun p => p.2.ctx == c && p.2.status.isNone) || s.susp.any (fun x => x.item.ctx == c)
    || s.strands.any (fun p => match p.2.item with | some i => i.ctx == c | none => false)
    || s.clusters.any (fun p => p.2.chans.any (fun q => q.2.queue.any fun e => e.ctx == c) || p.2.mx.queue.any fun e => e.ctx == c)
    || s.dies.any fun p => p.2.tasks.any fun t => t.ctx == c
/-- An engine bound to no context: nothing of one shows (R370). -/
def Matrix.unbind (x : Matrix) : Matrix := { x with tiles := [], cfg := List.replicate 8 0, ev := 0, bound := none }
/-- A context that is kept no more is forgotten: one created later under its number is another (R21, R101, R370; DEDUCED log
69). -/
def State.forgetCtx (s : State) (c : Nat) : State :=
  { s with
    strands := s.strands.map fun ((n, st) : Nat × Strand) => (n, if st.lastCtx == some c then { st with lastCtx := none } else st)
    groups := s.groups.map fun ((g, x) : Nat × Group) => (g, if x.prevCtx == some c then { x with prevCtx := none } else x)
    clusters := s.clusters.map fun ((k, x) : Nat × Cluster) =>
      (k, if x.mx.bound == some c then { x with mx := x.mx.unbind } else x)
    images := s.images.map fun i => if i.mx.bound == some c then { i with mx := { i.mx with bound := none } } else i
    ats := s.ats.filter fun p => p.1 != c
    refusedPages := s.refusedPages.filter fun p => p.1 != c
    remotes := s.remotes.map fun r => if r.op == .page && r.ctx == some c then { r with who := .late } else r }
/-- Contexts that are kept no more go. -/
def State.prune (s : State) : State :=
  let gone := (s.ctxs.map Prod.fst).filter fun c => !s.keeps c
  gone.foldl State.forgetCtx { s with ctxs := s.ctxs.filter fun p => s.keeps p.1 }

end Sys2Proof.Machine
end

