-- ==== Sys2Proof/Machine/AssocControl.lean ====
section
/-!
DEFINITION. Holding and draining the queue (07 R230 to R232), husks (07 R233; 10 R318 to R320; 06 R203), gating and
microcode (07 R236, R237; 19 R497).
-/
namespace Sys2Proof.Machine

/-- Whether the groups of a strand are in the middle of an instruction: its checks at dispatch have passed and it has neither
stopped nor retired (R230, R236). -/
def headBusy (st : Strand) : Bool :=
  match st.queue with
  | e :: _ => st.astop.isNone && e.prog.begun
  | [] => false
/-- Stops dispatch in the held groups; waits until each has finished its current instruction (R230). -/
def holdGroups : M Unit := do
  modHere fun st => { st with ahold := true }
  if headBusy (← getHere) then waitM
/-- AHOLD.stop (R230); with an empty held set it has no effect (R22). -/
def execAholdStop (h : Hdr) (s : State) : Out :=
  runU user h (do
    let s ← get
    if !(s.heldOf s.cur).isEmpty then holdGroups) s
/-- Ends a hold, or lets a stopped instruction resume (R225, R230). -/
def Strand.release (st : Strand) : Strand := { st with ahold := false, astop := none }
/-- AHOLD.go (R230). -/
def execAholdGo (h : Hdr) (s : State) : Out :=
  runU user h (do
    let s ← get
    if !(s.heldOf s.cur).isEmpty then modHere Strand.release) s
/-- Discards every queued instruction; symbols they would have resolved become poisoned (R230). -/
def Strand.discard (st : Strand) : Strand :=
  let st := st.queue.foldl (fun st e => match e.sym with | some k => st.spoil k .failed | none => st) st
  { st with queue := [], astop := none, adeliver := none }
/-- AHOLD.drop (R230). -/
def execAholdDrop (h : Hdr) (s : State) : Out :=
  runU user h (do
    let s ← get
    if !(s.heldOf s.cur).isEmpty then
      holdGroups
      modHere fun st => { st.discard with estart := 0, ahold := false }
      modify fun s => dropAsks (.group s.cur) s) s

/-- State word of AESTAT (R231). Bits [34:31] show the groups stopped on a fault, as bit 0 does; a hold shows in bit 1
(DESIGN CHOICE log 98). -/
def aestatWord (st : Strand) (groups : Nat) : Word :=
  match st.astop with
  | some r =>
    1 ||| (if st.ahold then 2 else 0) ||| (if r.rows then 4 else 0) ||| (r.code.setWidth 64 <<< 8)
      ||| (r.sub.setWidth 64 <<< 16) ||| (BitVec.ofNat 64 st.queue.length <<< 24)
      ||| (BitVec.ofNat 64 (2 ^ groups - 1) <<< 31)
  | none => (if st.ahold then 2 else 0) ||| (BitVec.ofNat 64 st.queue.length <<< 24)
/-- AESTAT of an item (R231); 0 with an empty held set (R22). -/
def aestat (h : Hdr) (d : BitVec 6) (f : Strand → Nat → Word) (s : State) : Out :=
  runU user h (do
    checkDst d
    let s ← get
    let n := (s.heldOf s.cur).length
    writeVal d (if n = 0 then 0 else f s.here n)) s
/-- AESTAT 0 (R231). -/
def execAestatState (h : Hdr) (d : BitVec 6) (s : State) : Out := aestat h d aestatWord s
/-- AESTAT 1: address of the stopped instruction (R231). -/
def execAestatAddr (h : Hdr) (d : BitVec 6) (s : State) : Out :=
  aestat h d (fun st _ => match st.astop, st.queue with
    | some _, e :: _ => e.pc.setWidth 64
    | _, _ => 0) s
/-- AESTAT 2: detail (R231). -/
def execAestatDetail (h : Hdr) (d : BitVec 6) (s : State) : Out :=
  aestat h d (fun st _ => match st.astop with | some r => r.detail | none => 0) s
/-- AESTAT 3: pass (R231). -/
def execAestatPass (h : Hdr) (d : BitVec 6) (s : State) : Out :=
  aestat h d (fun st _ => match st.astop with | some r => r.pass | none => 0) s
/-- AWAIT (R232): it completes before a delivery that ends its wait is taken. -/
def execAwait (h : Hdr) (s : State) : Out :=
  runU user h (do
    let s ← get
    let st := s.here
    if !(s.heldOf s.cur).isEmpty && !st.queue.isEmpty && st.astop.isNone && !st.ahold then
      modHere fun st => { st with inside := some .fence }
      waitM) s

/-! ### Husks -/

/-- CTXID of a context: its PASID above its number (Table 16.5). -/
def State.ctxid (s : State) (c : Nat) : Word :=
  let x := s.ctxOf c
  (x.idPasid.setWidth 64 <<< 16) ||| x.idCtx.setWidth 64
/-- Whether a state refers to one of some symbols. -/
def SVal.refers (ks : List Nat) : SVal → Bool
  | .aff k .. => ks.contains k
  | .flt k _ => ks.contains k
  | _ => false
/-- Free bytes. -/
def freeBytes (f : Nat) : Nat → List Byte
  | 0 => []
  | n + 1 => (Config.freeBits f).setWidth 8 :: freeBytes (f + 1) n
/-- The bytes of a husk (Table 10.8): the body is opaque, CHECK a keyed hash of every other byte. -/
def huskBytes (s : State) (groups refs : Nat) : List Byte :=
  let st := s.here
  let n := st.queue.length
  let (code, sub) : BitVec 8 × BitVec 8 := match st.astop with | some r => (r.code, r.sub) | none => (0, 0)
  let size := 64 + 256 * groups + 64 * n + 128 * refs
  let w0 : Nat := 2 ^ 48 + groups * 2 ^ 40 + n * 2 ^ 32 + refs * 2 ^ 24 + code.toNat * 2 ^ 16 + sub.toNat * 2 ^ 8
    + st.kclass.toNat
  let head := leBytes w0 8 ++ leBytes st.estart.toNat 8 ++ leBytes st.afaultop.toNat 8 ++ leBytes st.afaultaddr.toNat 8
    ++ leBytes size 8 ++ leBytes (s.ctxid st.ctx).toNat 8
  let body := freeBytes s.free (size - 64)
  let check := Config.keyedHash (s.mgmt.bootKey.getD 0) (head ++ leBytes 0 8 ++ body)
  head ++ leBytes check.toNat 8 ++ leBytes 0 8 ++ body
/-- ADUMP (R318). -/
def execAdump (h : Hdr) (a b : BitVec 6) (s : State) : Out :=
  runU user h (do
    needHeld
    let va ← read1 b [a]
    needAlign va 64
    holdGroups
    modHere Strand.landAll
    let s ← get
    let st := s.here
    let results := st.queue.filterMap QEntry.sym
    let refs := st.s.filter fun p => p.2.refers results
    let groups := (s.heldOf s.cur).length
    let bytes := huskBytes s groups refs.length
    checkRange 3 va bytes.length
    if st.queue.any fun e => (e.x.symbolic && !e.x.refers results) || (e.y.symbolic && !e.y.refers results) then
      waitM .symbol
    storeRange 3 va bytes
    modify fun s =>
      let husk : Husk := ⟨bytes, st.queue, (s.group ((s.heldOf s.cur).headD 0)).desc, st.desc, st.astop, refs⟩
      { s with husks := s.husks ++ [husk], free := s.free + bytes.length }
    modHere fun st => { st with
      s := st.s.filter fun p => !p.2.refers results
      syms := results.foldl (fun t k => Tab.erase t k) st.syms
      queue := []
      astop := none
      adeliver := none
      estart := 0 }
    writeVal a (BitVec.ofNat 64 bytes.length)) s

/-- Renumbers the symbol of a state. -/
def SVal.rename (f : Nat → Nat) : SVal → SVal
  | .aff k al be => .aff (f k) al be
  | .flt k ops => .flt (f k) ops
  | v => v
/-- The `n` lowest free entries of the symbol table. -/
def freeSyms (t : Tab Sym) : Nat → List Nat
  | 0 => []
  | n + 1 =>
    let ks := (List.range 32).filter fun k => (Tab.find t k).isNone
    ks.take (n + 1)
/-- Restores a husk (R203, R320): descriptors and the strand's copies, queue, replay entries, symbols; then resumes (R225).
-/
def restoreHusk (k : Husk) (w1 w2 w3 : Word) (s : State) : Option State :=
  let st := s.here
  let results := k.queue.filterMap QEntry.sym
  let news := freeSyms st.syms results.length
  if news.length < results.length then none
  else
    let f (j : Nat) : Nat := news.getD (results.idxOf j) j
    let q := k.queue.map fun e => { e with x := e.x.rename f, y := e.y.rename f, sym := e.sym.map f }
    let s := (s.heldOf s.cur).foldl (fun s g => let x := s.group g; s.setGroup g { x with desc := k.desc }) s
    let st := k.refs.foldl (fun (st : Strand) p => (st.forget p.1).setReg p.1 (p.2.rename f)) st
    some (s.setHere ({ st with
      desc := k.own
      queue := q
      syms := news.foldl (fun t j => Tab.insert t j ⟨.assoc, 2, none, false, false, false, 0, none⟩) st.syms
      estart := w1.setWidth 19
      afaultop := w2
      afaultaddr := w3 }.release))
/-- Reads the husk at `va` and makes every check of AUNDMP (R320): the lowest status that refuses it, or the husk and
words 1 to 3 of it. -/
def readHusk (va : Word) : M (Except Nat (Husk × Word × Word × Word)) := do
  let head ← loadRange 2 va 64
  let s ← get
  let st := s.here
  let w (i : Nat) : Word := BitVec.ofNat 64 (leNat ((head.drop (8 * i)).take 8))
  let size := Nat.min 11200 (w 4).toNat
  let bytes ← (if size ≤ 64 then pure head else do return head ++ (← loadRange 3 (va + 64) (size - 64)))
  match s.husks.find? fun k => k.bytes == bytes with
  | none => return .error 1
  | some k =>
    if bits (w 0) 40 8 ≠ (s.heldOf s.cur).length then return .error 2
    else if bits (w 0) 0 2 ≠ st.kclass.toNat then return .error 3
    else if !st.queue.isEmpty then return .error 4
    else if w 5 ≠ s.ctxid st.ctx then return .error 5
    else return .ok (k, w 1, w 2, w 3)
/-- AUNDMP (R320). -/
def execAundmp (h : Hdr) (a b : BitVec 6) (s : State) : Out :=
  runU user h (do
    needHeld
    let va ← read1 b [a]
    match ← readHusk va with
    | .error n => writeVal a (BitVec.ofNat 64 n)
    | .ok (k, w1, w2, w3) =>
      match restoreHusk k w1 w2 w3 (← get) with
      | none => waitM
      | some s' =>
        set s'
        writeVal a 0) s

/-! ### Microcode and gating -/

/-- Words of a signed image's header that break its layout (Table 19.1). -/
def imageBad (head : List Byte) (kind : Nat) : Bool :=
  let w (i : Nat) : Word := BitVec.ofNat 64 (leNat ((head.drop (8 * i)).take 8))
  w 0 != 0x4D4C4E4458465331 || bits (w 1) 0 32 != kind || (w 2).toNat % 64 != 0
    || (head.drop 24).any (· != 0)
/-- Whether both signatures of an image verify: ECDSA P-384, r then s, and LMS, over header and body (R497, Table 19.1). -/
def imageSigned (img : List Byte) : Bool :=
  let n := 64 + leNat ((img.drop 16).take 8)
  Config.ecdsaVerifies (img.take n) ((img.drop n).take 96) && Config.lmsVerifies (img.take n) ((img.drop (n + 96)).take 2508)
/-- Reads a signed image at `va` and answers its VERSION and its bytes, or the status that refuses it (R237, R497). -/
def readImage (va : Word) (kind : Nat) (loaded : BitVec 32) : M (Except Word (BitVec 32 × List Byte)) := do
  let head ← loadRange 2 va 64
  if imageBad head kind then return .error 3
  let len := leNat ((head.drop 16).take 8)
  let rest ← loadRange (len / 65536 + 3) (va + 64) (len + 96 + 2508)
  if !imageSigned (head ++ rest) then return .error 1
  let ver := BitVec.ofNat 32 (leNat ((head.drop 12).take 4))
  if ver.toNat < loaded.toNat then return .error 2
  return .ok (ver, head ++ rest)
/-- Microcode version of a group. -/
def State.ucodeOf (s : State) (g : Nat) : BitVec 32 := (s.group g).ucode.getD s.mgmt.ucodeVer
/-- Groups an AUCODE names. -/
def ucodeGroups (c : Word) : Option (List Nat) :=
  if c = 0xFFFFFFFFFFFFFFFF then some (List.range 512) else if c.toNat < 512 then some [c.toNat] else none
/-- AUCODE (R237): a bad c is answered without a read of the image, and of several other statuses the order is 3, 1, 2 (DESIGN
CHOICE log 118); launches are aged while it keeps groups from being handed out, as far as items can be placed (R420). -/
def execAucode (h : Hdr) (a b c : BitVec 6) (s : State) : Out :=
  runU supOnly h (do
    let (va, n) ← read2 b c [a]
    match ucodeGroups n with
    | none => writeVal a 4
    | some gs =>
      let s ← get
      let newest := gs.foldl (fun (m : BitVec 32) g => if m.toNat < (s.ucodeOf g).toNat then s.ucodeOf g else m) 0
      match ← readImage va 2 newest with
      | .error st => writeVal a st
      | .ok (ver, img) =>
        modify State.age
        if gs.any fun g => (s.group g).holder.isSome then
          modHere fun st => { st with bars := gs }
          waitM
        modify fun s => gs.foldl (fun s g => let x := s.group g; s.setGroup g { x with ucode := some ver }) s
        modify fun s => { s with mgmt := { s.mgmt with ucodeImg := .loaded img } }
        writeVal a 0) s

/-- Whether a group is in the middle of an instruction. -/
def State.groupBusy (s : State) (g : Nat) : Bool :=
  match (s.group g).holder with
  | some n => headBusy (s.strand n)
  | none => false
/-- A gate mask for one group: it takes effect at once, or when the instruction the group executes is over (R236). -/
def State.gateOne (s : State) (g : Nat) (m : BitVec 16) : State :=
  let x := s.group g
  s.setGroup g (if s.groupBusy g then { x with gating := some m } else gateGroup m x)
/-- Gate masks of a cluster that wait take effect in the groups that are idle. -/
def State.gateIdle (s : State) (cl : Nat) : State :=
  (List.range 4).foldl (fun s i => match (s.group (cl * 4 + i)).gating with
    | some m => s.gateOne (cl * 4 + i) m
    | none => s) s
/-- Begins to set the gate mask of a cluster (R236). -/
def State.gate (s : State) (cl : Nat) (m : Word) : State :=
  (List.range 4).foldl (fun s i => s.gateOne (cl * 4 + i) (m.extractLsb' (16 * i) 16)) s
/-- Whether some group of a cluster has not taken its gate mask. -/
def State.gating (s : State) (cl : Nat) : Bool := (List.range 4).any fun i => (s.group (cl * 4 + i)).gating.isSome
/-- Sets the gate mask of a cluster and answers the previous one; waits until every group has taken it (R236). A mask that
another strand is setting is completed first. -/
def gateCluster (cl : Nat) (m : Word) : M Word := do
  modify fun s => s.gateIdle cl
  let s ← get
  let finish (m : Word) : M Unit := modify fun s => s.setCluster cl { s.cluster cl with alimit := m, gating := none }
  if s.gating cl then waitM
  let mine := (s.cluster cl).gating = some (s.cur, m)
  match (s.cluster cl).gating with
  | some (_, m') => if !mine then finish m'
  | none => pure ()
  if !mine then modify fun s => s.gate cl m
  if (← get).gating cl then
    modify fun s => s.setCluster cl { s.cluster cl with gating := some (s.cur, m) }
    waitM
  let old := ((← get).cluster cl).alimit
  finish m
  return old
/-- ALIM (R236). -/
def execAlim (h : Hdr) (a b c : BitVec 6) (s : State) : Out :=
  runU supOnly h (do
    let (cl, m) ← read2 b c [a]
    if 128 ≤ cl.toNat then writeVal a 0xFFFFFFFFFFFFFFFF
    else writeVal a (← gateCluster cl.toNat m)) s

end Sys2Proof.Machine
end

