-- ==== Sys2Proof/WellFormed.lean ====
section
/-!
DEFINITION. Which instruction terms stand for a legal word (spec/02_instruction_words.md R42 and R47, and the
encoding limits each instruction's rule states). A term that fails a check here has no word: its word is ILLEGAL_INSTR.
-/
namespace Sys2Proof

/-- A register code that names no stream register (R39, R42, R148; DEDUCED log 20). -/
def ns (r : BitVec 6) : Bool := decide (r.toNat < 48)
/-- A mask an instruction reads: m0 to m23 or m* (R42). -/
def msrc (m : BitVec 5) : Bool := decide (m.toNat ≤ 24)
/-- A mask an instruction writes: m0 to m23 (R42). -/
def mdst (m : BitVec 5) : Bool := decide (m.toNat < 24)
/-- An integer condition code (R40). -/
def icond (c : BitVec 6) : Bool := decide (c.toNat < 10)
/-- A rounding code (R41). -/
def rnd (r : BitVec 3) : Bool := decide (r.toNat ≤ 4)
/-- A scope from strand to system (R39). -/
def scope5 (s : BitVec 3) : Bool := decide (1 ≤ s.toNat) && decide (s.toNat ≤ 5)
/-- A size code up to quad (R39). -/
def size5 (s : BitVec 3) : Bool := decide (s.toNat ≤ 4)
/-- Annotations of an atomic: a scope exactly when ACQ or REL is set (R161). -/
def annot (rel acq : BitVec 1) (sc : BitVec 3) : Bool :=
  if rel == 1 || acq == 1 then scope5 sc else sc == 0
/-- Position and length of BFX and BFI (R125). -/
def bitField (pos lenm1 : BitVec 6) : Bool := decide (pos.toNat + lenm1.toNat + 1 ≤ 64)
/-- First register of a pair (R159, R445). -/
def pairReg (t : BitVec 6) : Bool := decide (t.toNat % 2 = 0) && decide (2 ≤ t.toNat) && decide (t.toNat ≤ 44)
/-- Conversion codes of FCVT (R142): two different formats; a conversion to D8 takes rounding code 000. -/
def cvtOk (sf df rm : BitVec 3) : Bool :=
  sf != 7 && df != 7 && sf != df && rnd rm && (df != 6 || rm == 0)
/-- Tile extents of Table 14.2 (R371). -/
def tileExt (rows cols : BitVec 7) : Bool := decide (rows.toNat ≤ 95) && decide (cols.toNat ≤ 95)
/-- MQUANT takes 32, 64 or 96 columns (R388). -/
def quantCols (cols : BitVec 7) : Bool := cols == 31 || cols == 63 || cols == 95
/-- `.rev` exists in the VS and VI forms only (R292). -/
def revOk (rev : BitVec 1) : AOpnd → Bool
  | .vv _ => rev == 0
  | .vs _ => true
  | .vi _ => true
/-- ADQNT names no second field in its VV form (R292). -/
def vvZero : AOpnd → Bool
  | .vv fb => fb == 0
  | .vs _ => true
  | .vi _ => true
/-- A segment form names fields up to f31 (R292). -/
def segOk (f : BitVec 5) (nm1 : BitVec 2) : Bool := decide (f.toNat + nm1.toNat ≤ 31)
/-- Control registers that the row MFC reads: Table 2.9 but for those with a row of their own (R51). -/
def mfcReg (r : BitVec 12) : Bool :=
  [0x000, 0x001, 0x002, 0x003, 0x004, 0x005, 0x006, 0x013, 0x014, 0x015, 0x020, 0x021, 0x031, 0x032, 0x033, 0x040,
   0x041, 0x042, 0x043, 0x044, 0x045, 0x046, 0x050, 0x051, 0x052, 0x060, 0x070, 0x071, 0x072].contains r.toNat
/-- Control registers that the row MTC writes: Table 2.9 but for those with a row of their own (R51). -/
def mtcReg (r : BitVec 12) : Bool :=
  [0x000, 0x001, 0x002, 0x003, 0x004, 0x005, 0x006, 0x011, 0x012, 0x013, 0x014, 0x015, 0x020, 0x021, 0x030, 0x031,
   0x032, 0x033, 0x040, 0x042, 0x043, 0x046, 0x051, 0x052, 0x060, 0x071, 0x072].contains r.toNat

/-- The encoding limits of every instruction. -/
def Instr.wf : Instr → Bool
  | .moduleReset o => decide (o.failed.toNat ≤ 6)
  | .mboxseqWrite _ => true
  | .mgmtRegisterWrite _ _ => true
  | .inboundPcieWrite _ _ _ => true
  | .inboundPcieRead _ _ _ => true
  | .atsInvalidation _ _ => true
  | .ramirMessageArrival _ _ _ _ => true
  | .pageRequestAnswer _ _ => true
  | .remoteReadCompletion _ _ => true
  | .remoteCompletionTimeout _ => true
  | .symbolResolve _ _ => true
  | .symbolDeadline _ _ => true
  | .takeTrap _ => true
  | .itemDispatch _ => true
  | .itemResume _ => true
  | .launchComplete _ => true
  | .launchAgeing _ => true
  | .preemptMark _ => true
  | .preemptGraceExpiry _ => true
  | .watchdogExpiry _ => true
  | .permitChange _ _ => true
  | .assocDispatch _ => true
  | .streamFill _ _ => true
  | .streamDrain _ _ => true
  | .transferCommandStart _ _ => true
  | .transferCommandComplete _ _ => true
  | .matrixCommandRun _ => true
  | .matrixCommandComplete _ => true
  | .matrixTaskIssue _ => true
  | .matrixTaskComplete _ => true
  | .treeOpApply _ _ => true
  | .scrub _ => true
  | .promotionInstall _ => true
  | .demotionRemove _ => true
  | .nop _ => true
  | .halt _ => true
  | .trap _ _ => true
  | .sysc _ _ => true
  | .eret _ => true
  | .bkpt _ _ => true
  | .mfc _ _ r => mfcReg r
  | .mfcFpcsr _ _ => true
  | .mfcEstartFfidx _ _ r => r == 1 || r == 2
  | .mfcAdirty _ _ => true
  | .mtc _ _ r => mtcReg r
  | .mtcFpcsr _ _ => true
  | .mtcTrapbase _ _ => true
  | .mtcAlimit _ _ => true
  | .mtcPriocur _ _ => true
  | .mtcWatchdog _ _ _ => true
  | .waite _ _ a _ => ns a
  | .sev _ sc => sc == 2 || sc == 3 || sc == 4
  | .waitm _ _ _ => true
  | .yield _ => true
  | .cacheIinv _ base index _ => ns base && ns index
  | .cacheClean _ base index _ => ns base && ns index
  | .cacheClinv _ base index _ => ns base && ns index
  | .cacheInv _ base index _ => ns base && ns index
  | .cacheZero _ base index _ => ns base && ns index
  | .cacheIinvall _ => true
  | .tlbiAll _ => true
  | .tlbiCtx _ _ => true
  | .tlbiVa _ a _ => ns a
  | .tlbiVaall _ a => ns a
  | .wdogSet _ _ _ _ => true
  | .wdogClr _ _ _ => true
  | .wdogRead _ _ _ => true
  | .errinjCorr _ _ _ => true
  | .errinjDet _ _ _ => true
  | .errinjArr _ _ _ _ => true
  | .add _ _ _ _ => true
  | .sub _ _ _ _ => true
  | .mul _ _ _ _ => true
  | .mulh _ _ _ _ => true
  | .mulhu _ _ _ _ => true
  | .div _ _ _ _ => true
  | .divu _ _ _ _ => true
  | .rem _ _ _ _ => true
  | .remu _ _ _ _ => true
  | .and _ _ _ _ => true
  | .or _ _ _ _ => true
  | .xor _ _ _ _ => true
  | .andn _ _ _ _ => true
  | .shl _ _ _ _ => true
  | .shr _ _ _ _ => true
  | .sra _ _ _ _ => true
  | .addi _ _ _ _ => true
  | .muli _ _ _ _ => true
  | .andi _ _ _ _ => true
  | .ori _ _ _ _ => true
  | .xori _ _ _ _ => true
  | .shli _ _ _ _ => true
  | .shri _ _ _ _ => true
  | .srai _ _ _ _ => true
  | .min _ _ _ _ => true
  | .max _ _ _ _ => true
  | .minu _ _ _ _ => true
  | .maxu _ _ _ _ => true
  | .clz _ _ _ => true
  | .ctz _ _ _ => true
  | .popc _ _ _ => true
  | .brev _ _ _ => true
  | .setp _ _ _ _ cond => icond cond
  | .setpi _ _ _ cond _ => icond cond
  | .plog _ _ _ _ _ => true
  | .sel _ _ _ _ _ _ => true
  | .lea _ _ base size index _ => size5 size && ns base && ns index
  | .leapc _ _ _ => true
  | .bfx _ _ _ _ lenm1 pos => bitField pos lenm1
  | .bfi _ a _ lenm1 pos => bitField pos lenm1 && ns a
  | .rot _ _ _ _ => true
  | .roti _ _ _ _ => true
  | .madd _ _ _ _ _ => true
  | .bswapD _ _ _ => true
  | .bswapW _ _ _ => true
  | .bswapH _ _ _ => true
  | .crc _ _ _ _ _ _ => true
  | .hash _ _ _ _ => true
  | .rdcyc _ _ => true
  | .rdid _ _ => true
  | .fadd _ _ _ _ rm => rnd rm
  | .fsub _ _ _ _ rm => rnd rm
  | .fmul _ _ _ _ rm => rnd rm
  | .ffma _ _ _ _ _ _ rm _ => rnd rm
  | .fdiv _ _ _ _ rm => rnd rm
  | .fsqrt _ _ _ rm => rnd rm
  | .fmin _ _ _ _ => true
  | .fmax _ _ _ _ => true
  | .fsetp _ _ _ _ _ => true
  | .fcvt _ _ _ sf df rm => cvtOk sf df rm
  | .fcvti _ _ _ _ _ rm => rnd rm
  | .icvtf _ _ _ _ _ rm => rnd rm
  | .fabs _ _ _ => true
  | .fneg _ _ _ => true
  | .fclass _ _ _ => true
  | .frnd _ _ _ rm => rnd rm
  | .jmp _ _ => true
  | .br _ _ => true
  | .call _ _ => true
  | .jr _ _ => true
  | .callr _ _ => true
  | .ret _ => true
  | .loop _ a _ => ns a
  | .brsymRes _ a _ => ns a
  | .brsymPoi _ a _ => ns a
  | .brsymPend _ a _ => ns a
  | .bri _ _ a b => ns a && ns b
  | .frame _ _ imm => imm != 0
  | .brz _ _ _ => true
  | .brnz _ _ _ => true
  | .cbr _ _ _ cond _ => icond cond
  | .cbri _ _ _ cond _ => icond cond
  | .exit _ => true
  | .nexti _ _ => true
  | .ld _ _ base _ index _ => ns base && ns index
  | .lds _ _ base _ index _ => ns base && ns index
  | .st _ _ base _ index _ => ns base && ns index
  | .ldl _ t base _ index _ => ns base && ns index && ns t
  | .lda _ _ base _ sc index _ => ns base && ns index && scope5 sc
  | .stl _ _ base _ sc index _ => ns base && ns index && scope5 sc
  | .amoAdd _ _ b _ rel acq _ sc => ns b && annot rel acq sc
  | .amoAnd _ _ b _ rel acq _ sc => ns b && annot rel acq sc
  | .amoOr _ _ b _ rel acq _ sc => ns b && annot rel acq sc
  | .amoXor _ _ b _ rel acq _ sc => ns b && annot rel acq sc
  | .amoSwap _ _ b _ rel acq _ sc => ns b && annot rel acq sc
  | .amoMin _ _ b _ rel acq _ sc => ns b && annot rel acq sc
  | .amoMax _ _ b _ rel acq _ sc => ns b && annot rel acq sc
  | .amoMinu _ _ b _ rel acq _ sc => ns b && annot rel acq sc
  | .amoMaxu _ _ b _ rel acq _ sc => ns b && annot rel acq sc
  | .amoMaxrst _ _ b rel acq _ sc => ns b && annot rel acq sc
  | .cas _ _ b _ n rel acq _ sc => ns b && ns n && annot rel acq sc
  | .amolAdd _ a b _ rel acq _ sc => ns a && ns b && annot rel acq sc
  | .amolAnd _ a b _ rel acq _ sc => ns a && ns b && annot rel acq sc
  | .amolOr _ a b _ rel acq _ sc => ns a && ns b && annot rel acq sc
  | .amolXor _ a b _ rel acq _ sc => ns a && ns b && annot rel acq sc
  | .amolSwap _ a b _ rel acq _ sc => ns a && ns b && annot rel acq sc
  | .amolMin _ a b _ rel acq _ sc => ns a && ns b && annot rel acq sc
  | .amolMax _ a b _ rel acq _ sc => ns a && ns b && annot rel acq sc
  | .amolMinu _ a b _ rel acq _ sc => ns a && ns b && annot rel acq sc
  | .amolMaxu _ a b _ rel acq _ sc => ns a && ns b && annot rel acq sc
  | .amolMaxrst _ a b rel acq _ sc => ns a && ns b && annot rel acq sc
  | .pref _ _ base index _ => ns base && ns index
  | .ldx _ _ base _ index _ => ns base && ns index
  | .stx _ _ base _ index _ => ns base && ns index
  | .ldp _ t base index _ => pairReg t && ns base && ns index
  | .stp _ t base index _ => pairReg t && ns base && ns index
  | .barInit _ _ b _ sc => ns b && scope5 sc
  | .barExpect _ _ b _ sc => ns b && scope5 sc
  | .barArrive _ _ b sc => ns b && scope5 sc
  | .barArriveb _ _ b _ sc => ns b && scope5 sc
  | .barWait _ _ b _ sc => ns b && scope5 sc
  | .barTest _ _ b _ sc => ns b && scope5 sc
  | .own _ _ b _ => ns b
  | .fence _ _ sc => scope5 sc
  | .fsa _ sc => scope5 sc
  | .fas _ sc => scope5 sc
  | .faa _ sc => scope5 sc
  | .symw _ a => ns a
  | .symq _ _ a => ns a
  | .symqPoi _ _ a => ns a
  | .symx _ _ a _ => ns a
  | .wmpub _ b _ => ns b
  | .wmpubGen _ b _ => ns b
  | .wmset _ a b _ _ => ns a && ns b
  | .qwait _ _ b _ => ns b
  | .qtake _ _ b _ => ns b
  | .launch _ _ a b => ns a && ns b
  | .lwait _ _ _ => true
  | .lwaitTest _ _ _ => true
  | .prioGet _ _ _ => true
  | .prioSet _ _ _ _ => true
  | .prioPend _ _ => true
  | .prioCeil _ _ _ _ => true
  | .prioWake _ _ a => ns a
  | .prioKill _ _ _ => true
  | .ctxsv _ _ a b => ns a && ns b
  | .ctxsvHold _ _ a b => ns a && ns b
  | .ctxld _ _ a => ns a
  | .sbind _ _ _ => true
  | .sfree _ _ => true
  | .xcopy _ a b c _ => ns a && ns b && ns c
  | .xgath2 _ a b c _ => ns a && ns b && ns c
  | .xgath _ a b c _ => ns a && ns b && ns c
  | .xscat _ a b c _ => ns a && ns b && ns c
  | .xslide _ a b c _ => ns a && ns b && ns c
  | .xfill _ a b c _ => ns a && ns b && ns c
  | .xwait _ _ _ _ => true
  | .xstatDone _ _ _ _ => true
  | .xstatNext _ _ _ _ => true
  | .xstatVal _ _ _ _ => true
  | .xstatFault _ _ _ _ => true
  | .xstatFaddr _ _ _ _ => true
  | .xstatResume _ _ _ _ => true
  | .xstatAbort _ _ _ _ => true
  | .xckpt _ a b _ => ns a && ns b
  | .xpromPro _ a b c _ => ns a && ns b && ns c
  | .xpromDem _ a b c _ => ns a && ns b && ns c
  | .xredAdd _ a b c _ _ => ns a && ns b && ns c
  | .xredMax _ a b c _ _ => ns a && ns b && ns c
  | .xkv _ a b c _ => ns a && ns b && ns c
  | .xdense _ a b c _ => ns a && ns b && ns c
  | .xclass _ a b c _ => ns a && ns b && ns c
  | .mcfg _ a b => ns a && ns b
  | .mma _ a b c _ mem _ tl => ns a && ns b && ns c && (mem == 0 || tl == 0)
  | .mmax _ a b c _ mem _ tl => ns a && ns b && ns c && (mem == 0 || tl == 0)
  | .mlda _ a b c _ cols rows _ => ns a && ns b && ns c && tileExt rows cols
  | .msta _ a b c cols rows _ => ns a && ns b && ns c && tileExt rows cols
  | .mzero _ a _ => ns a
  | .mconv _ a b c _ mem _ tl => ns a && ns b && ns c && (mem == 0 || tl == 0)
  | .mque _ a b c => ns a && ns b && ns c
  | .mwait _ a b => ns a && ns b
  | .mwaitTask _ a b c => ns a && ns b && ns c
  | .mstatDone _ a b => ns a && ns b
  | .mstatNext _ a b => ns a && ns b
  | .mstatFault _ a b => ns a && ns b
  | .mstatFaddr _ a b => ns a && ns b
  | .mstatRow _ a b => ns a && ns b
  | .mstatResume _ a b => ns a && ns b
  | .mstatAbort _ a b => ns a && ns b
  | .mstatEv _ a b => ns a && ns b
  | .mstatFmt _ a b => ns a && ns b
  | .mamax _ a b cols rows _ => ns a && ns b && tileExt rows cols
  | .mquant _ a b c _ cols rows _ => ns a && ns b && ns c && tileExt rows cols && quantCols cols
  | .msoft _ a b c cols rows _ => ns a && ns b && ns c && tileExt rows cols
  | .mtrans _ a _ _ => ns a
  | .msave _ a b => ns a && ns b
  | .mrest _ a b => ns a && ns b
  | .afcfg _ _ _ => true
  | .amodeAs _ _ => true
  | .amodeSt _ _ => true
  | .awhile h md _ _ => msrc h.mg && mdst md
  | .asrchSet h md _ _ => msrc h.mg && mdst md
  | .asrchAnd h md _ _ => msrc h.mg && mdst md
  | .asrchOr h md _ _ => msrc h.mg && mdst md
  | .acmpEq h md _ _ => msrc h.mg && mdst md
  | .acmpNe h md _ _ => msrc h.mg && mdst md
  | .acmpLt h md _ _ => msrc h.mg && mdst md
  | .acmpGe h md _ _ => msrc h.mg && mdst md
  | .mlog h md ma mb _ => msrc h.mg && mdst md && msrc ma && msrc mb
  | .mset h md _ => msrc h.mg && mdst md
  | .awr h _ _ => msrc h.mg
  | .amov h _ _ => msrc h.mg
  | .apopM h ma _ => msrc h.mg && msrc ma
  | .apopF h _ _ => msrc h.mg
  | .afirstFirst h ma _ => msrc h.mg && msrc ma
  | .afirstLast h ma _ => msrc h.mg && msrc ma
  | .anextClr h md ma => msrc h.mg && mdst md && msrc ma
  | .anextOne h md ma => msrc h.mg && mdst md && msrc ma
  | .atopkMax h md _ _ => msrc h.mg && mdst md
  | .atopkMin h md _ _ => msrc h.mg && mdst md
  | .aextMax h _ _ => msrc h.mg
  | .aextMin h _ _ => msrc h.mg
  | .aextMaxidx h _ _ => msrc h.mg
  | .aextMinidx h _ _ => msrc h.mg
  | .ardrow h _ _ _ => msrc h.mg
  | .awrrow h _ _ _ => msrc h.mg
  | .aadd h _ _ rc _ _ => msrc h.mg && rnd rc
  | .asub h _ _ rc _ rev o => msrc h.mg && rnd rc && revOk rev o
  | .amul h _ _ rc _ _ => msrc h.mg && rnd rc
  | .afma h _ _ rc _ _ => msrc h.mg && rnd rc
  | .adiv h _ _ rc _ rev o => msrc h.mg && rnd rc && revOk rev o
  | .amin h _ _ _ => msrc h.mg
  | .amax h _ _ _ => msrc h.mg
  | .aabs h _ _ rc _ => msrc h.mg && rnd rc
  | .aneg h _ _ rc _ => msrc h.mg && rnd rc
  | .alogAnd h _ _ _ => msrc h.mg
  | .alogOr h _ _ _ => msrc h.mg
  | .alogXor h _ _ _ => msrc h.mg
  | .alogAndn h _ _ _ => msrc h.mg
  | .ashfShl h _ _ _ _ => msrc h.mg
  | .ashfShr h _ _ _ _ => msrc h.mg
  | .ashfSra h _ _ _ _ => msrc h.mg
  | .ashfRot h _ _ _ _ => msrc h.mg
  | .acvt h _ _ rc _ => msrc h.mg && rnd rc
  | .aclamp h _ _ _ _ => msrc h.mg
  | .asqrt h _ _ rc _ => msrc h.mg && rnd rc
  | .aham h _ _ _ _ => msrc h.mg
  | .arem h _ _ _ rev o => msrc h.mg && revOk rev o
  | .alut h _ _ _ _ => msrc h.mg
  | .ashr h _ _ _ => msrc h.mg
  | .ascanAdd h _ _ rc _ => msrc h.mg && rnd rc
  | .ascanMin h _ _ rc _ => msrc h.mg && rnd rc
  | .ascanMax h _ _ rc _ => msrc h.mg && rnd rc
  | .ascanOr h _ _ rc _ => msrc h.mg && rnd rc
  | .asegrAdd h _ _ mb rc _ => msrc h.mg && msrc mb && rnd rc
  | .asegrMin h _ _ mb rc _ => msrc h.mg && msrc mb && rnd rc
  | .asegrMax h _ _ mb rc _ => msrc h.mg && msrc mb && rnd rc
  | .asegrOr h _ _ mb rc _ => msrc h.mg && msrc mb && rnd rc
  | .aspi h _ _ _ rc _ => msrc h.mg && rnd rc
  | .aspu h _ _ _ rc _ => msrc h.mg && rnd rc
  | .asplenSet h _ _ => msrc h.mg
  | .asplenMask h md _ => msrc h.mg && mdst md
  | .aappIdx h md _ => msrc h.mg && mdst md
  | .aappVal h md _ _ => msrc h.mg && mdst md
  | .aconf h md _ => msrc h.mg && mdst md
  | .aintvCc h md _ _ _ => msrc h.mg && mdst md
  | .aintvCo h md _ _ _ => msrc h.mg && mdst md
  | .aintvOc h md _ _ _ => msrc h.mg && mdst md
  | .aintvOo h md _ _ _ => msrc h.mg && mdst md
  | .amatch h md _ _ _ => msrc h.mg && mdst md
  | .achk h md _ => msrc h.mg && mdst md
  | .afill h _ _ _ => msrc h.mg
  | .abcast h _ _ _ => msrc h.mg
  | .aqnt h _ _ _ => msrc h.mg
  | .aqntKeep h _ _ => msrc h.mg
  | .adqnt h _ _ rc _ o => msrc h.mg && rnd rc && vvZero o
  | .ald h _ _ _ => msrc h.mg
  | .aldx h _ _ _ _ => msrc h.mg
  | .aldseg h fd _ rc _ nm1 _ => msrc h.mg && rnd rc && segOk fd nm1
  | .ast h _ _ => msrc h.mg
  | .astx h _ _ _ => msrc h.mg
  | .astseg h fa _ rc _ nm1 _ => msrc h.mg && rnd rc && segOk fa nm1
  | .alds h _ _ _ _ => msrc h.mg
  | .asts h _ _ _ => msrc h.mg
  | .asaveF _ _ _ => true
  | .asaveM _ k _ => mdst k
  | .asaveDesc _ _ _ => true
  | .asaveEv _ _ _ => true
  | .arstrF _ _ _ => true
  | .arstrM _ k _ => mdst k
  | .arstrDesc _ _ _ => true
  | .arstrEv _ _ _ => true
  | .adump _ _ _ => true
  | .aundmp _ _ _ => true
  | .aucode _ _ _ _ => true
  | .aholdStop _ => true
  | .aholdGo _ => true
  | .aholdDrop _ => true
  | .aestatState _ _ => true
  | .aestatAddr _ _ => true
  | .aestatDetail _ _ => true
  | .aestatPass _ _ => true
  | .await _ => true
  | .spcfg _ a b => ns a && ns b
  | .spld _ a b c => ns a && ns b && ns c
  | .spst _ a b c => ns a && ns b && ns c
  | .spamoAdd _ a b c ty => ns a && ns b && ns c && ty != 3
  | .spamoMin _ a b c ty => ns a && ns b && ns c && ty != 3
  | .spamoMax _ a b c ty => ns a && ns b && ns c && ty != 3
  | .spamoSwap _ a b c ty => ns a && ns b && ns c && ty != 3
  | .spnextGt _ a b c => pairReg a && ns b && ns c
  | .spnextGe _ a b c => pairReg a && ns b && ns c
  | .spprevLt _ a b c => pairReg a && ns b && ns c
  | .spprevLe _ a b c => pairReg a && ns b && ns c
  | .spcnt _ a b c => ns a && ns b && ns c
  | .spdel _ a b c => ns a && ns b && ns c
  | .spwait _ => true
  | .spstatKeys _ a b => ns a && ns b
  | .spstatNodes _ a b => ns a && ns b
  | .spstatFree _ a b => ns a && ns b
  | .spstatDepth _ a b => ns a && ns b
  | .spstatStatus _ a b => ns a && ns b
  | .spstatPages _ a b => ns a && ns b
  | .sppool _ a b c _ => ns a && ns b && ns c
  | .spfree _ a b => ns a && ns b
  | .rclassSet _ _ _ _ => true
  | .rclassRead _ _ _ => true
  | .ebsetCorr _ _ _ _ => true
  | .ebsetDet _ _ _ _ => true
  | .ebsetRdcorr _ _ _ => true
  | .ebsetRddet _ _ _ => true
  | .mscopClean _ _ _ _ => true
  | .mscopClinv _ _ _ _ => true
  | .mscopInv _ _ _ _ => true
  | .mscopStat _ _ _ _ => true
  | .peerwOpen _ _ _ _ => true
  | .peerwClose _ _ _ => true
  | .peerwRead _ _ _ => true
  | .peerwBind _ _ _ _ => true
  | .smcSetw _ a b c => ns a && ns b && ns c
  | .smcFwld _ a b => ns a && ns b
  | .smcVer _ a => ns a
  | .perfRead _ a b => ns a && ns b
  | .perfClr _ a b => ns a && ns b
  | .dbgHalt _ a b => ns a && ns b
  | .dbgGo _ a b => ns a && ns b
  | .dbgRd _ a b c => ns a && ns b && ns c
  | .dbgWr _ a b c => ns a && ns b && ns c
  | .dbgSig _ a b c => ns a && ns b && ns c
  | .atst _ a b c => ns a && ns b && ns c
  | .pwrqMax _ a b => ns a && ns b
  | .pwrqState _ a b c => ns a && ns b && ns c
  | .alim _ _ _ _ => true
  | .hmsg _ _ _ _ => true
  | .pmsgSend _ _ _ _ _ => true
  | .pmsgRecv _ _ _ _ => true
  | .pmsgWait _ _ _ => true
  | .li _ _ _ => true
  | .jmpx _ _ => true
  | .callx _ _ => true
  | .addix _ _ _ _ => true
  | .leax _ _ _ => true
  | .awrx _ mg fd _ => decide (mg.toNat ≤ 24) && decide (fd.toNat < 32)
  | .asrchx _ md fa _ => decide (md.toNat < 24) && decide (fa.toNat < 32)
  | .ud _ => true
  | .blockThrottleChange _ _ _ _ level => decide (level.toNat ≤ 100)
  | .tdispStateChange _ _ _ => true
  | .inboundPcieAtomic _ _ _ _ _ _ => true

end Sys2Proof
end

