-- ==== Sys2Proof/Decode.lean ====
section
/-!
DEFINITION. Instruction words (spec/02_instruction_words.md R36, R47, R48, Tables 2.1 and 2.7 and each instruction's
own table): a word is a list of fields, lowest bits first, every bit of which belongs to a field, to a fixed code or to
a field marked zero. The decoder is total and refuses by name; the encoder packs the same lists.
-/
noncomputable section

namespace Sys2Proof

/-- Why bytes give no instruction: too few of them, or an illegal encoding (R47 check 2). -/
inductive DecodeReject where
  | truncated
  | illegalEncoding
  deriving DecidableEq, Repr

/-- A word from bit `m` upward. -/
def bitsFrom (m w : Nat) : Nat := w / 2 ^ m

/-- Fields (width, value) packed from bit 0 upward. -/
def packBits : List (Nat × Nat) → Nat
  | [] => 0
  | (k, v) :: r => v % 2 ^ k + 2 ^ k * packBits r

/-- The fields of the given widths, from bit 0 upward. -/
def unpackBits : List Nat → Nat → List Nat
  | [], _ => []
  | k :: ks, w => w % 2 ^ k :: unpackBits ks (w / 2 ^ k)

/-- Field bits [23:0], [34:30] and [51:50] of a format-A operand (Table 2.6). -/
def AOpnd.lo : AOpnd → Nat
  | .vv _ => 0
  | .vs s => s.toNat * 2 ^ 18
  | .vi imm => imm.toNat
def AOpnd.mid : AOpnd → Nat
  | .vv fb => fb.toNat
  | .vs _ => 0
  | .vi _ => 0
def AOpnd.form : AOpnd → Nat
  | .vv _ => 0
  | .vs _ => 1
  | .vi _ => 2
/-- The operand that the three fields name, if any (Table 2.6). -/
def AOpnd.ofBits (form mid lo : Nat) : Option AOpnd :=
  match form with
  | 0 => if lo = 0 then some (.vv (BitVec.ofNat 5 mid)) else none
  | 1 => if mid = 0 ∧ lo % 2 ^ 18 = 0 then some (.vs (BitVec.ofNat 6 (lo / 2 ^ 18))) else none
  | 2 => if mid = 0 then some (.vi (BitVec.ofNat 24 lo)) else none
  | _ => none

def SvOpnd.lo : SvOpnd → Nat
  | .vs s => s.toNat * 2 ^ 18
  | .vi imm => imm.toNat
def SvOpnd.form : SvOpnd → Nat
  | .vs _ => 1
  | .vi _ => 2
def SvOpnd.ofBits (form lo : Nat) : Option SvOpnd :=
  match form with
  | 1 => if lo % 2 ^ 18 = 0 then some (.vs (BitVec.ofNat 6 (lo / 2 ^ 18))) else none
  | 2 => some (.vi (BitVec.ofNat 24 lo))
  | _ => none

def CmpOpnd.lo : CmpOpnd → Nat
  | .vv _ => 0
  | .vs _ s => s.toNat * 2 ^ 18
  | .vi _ imm => imm.toNat
def CmpOpnd.mid : CmpOpnd → Nat
  | .vv fb => fb.toNat
  | .vs rev _ => rev.toNat
  | .vi rev _ => rev.toNat
def CmpOpnd.form : CmpOpnd → Nat
  | .vv _ => 0
  | .vs _ _ => 1
  | .vi _ _ => 2
/-- ACMP's operand: bit 30 is rev in the VS and VI forms, and bits [34:31] are zero there (Table 9.1). -/
def CmpOpnd.ofBits (form mid lo : Nat) : Option CmpOpnd :=
  match form with
  | 0 => if lo = 0 then some (.vv (BitVec.ofNat 5 mid)) else none
  | 1 => if mid < 2 ∧ lo % 2 ^ 18 = 0 then some (.vs (BitVec.ofNat 1 mid) (BitVec.ofNat 6 (lo / 2 ^ 18))) else none
  | 2 => if mid < 2 then some (.vi (BitVec.ofNat 1 mid) (BitVec.ofNat 24 lo)) else none
  | _ => none

/-- NOP: opcode 0x00 (R183). -/
def decOp00 (w : Nat) : Option Instr :=
  match unpackBits [48, 3, 1, 4, 8] w with
  | [0, hpred, hneg, hstall, 0] => some (.nop ⟨BitVec.ofNat 4 hstall, BitVec.ofNat 1 hneg, BitVec.ofNat 3 hpred⟩)
  | _ => none
/-- HALT: opcode 0x01 (R184). -/
def decOp01 (w : Nat) : Option Instr :=
  match unpackBits [48, 3, 1, 4, 8] w with
  | [0, hpred, hneg, hstall, 1] => some (.halt ⟨BitVec.ofNat 4 hstall, BitVec.ofNat 1 hneg, BitVec.ofNat 3 hpred⟩)
  | _ => none
/-- TRAP: opcode 0x02 (R183). -/
def decOp02 (w : Nat) : Option Instr :=
  match unpackBits [36, 12, 3, 1, 4, 8] w with
  | [ximm, 0, hpred, hneg, hstall, 2] => some (.trap ⟨BitVec.ofNat 4 hstall, BitVec.ofNat 1 hneg, BitVec.ofNat 3 hpred⟩ (BitVec.ofNat 36 ximm))
  | _ => none
/-- SYSC: opcode 0x03 (R183). -/
def decOp03 (w : Nat) : Option Instr :=
  match unpackBits [36, 12, 3, 1, 4, 8] w with
  | [ximm, 0, hpred, hneg, hstall, 3] => some (.sysc ⟨BitVec.ofNat 4 hstall, BitVec.ofNat 1 hneg, BitVec.ofNat 3 hpred⟩ (BitVec.ofNat 36 ximm))
  | _ => none
/-- ERET: opcode 0x04 (R110). -/
def decOp04 (w : Nat) : Option Instr :=
  match unpackBits [48, 3, 1, 4, 8] w with
  | [0, hpred, hneg, hstall, 4] => some (.eret ⟨BitVec.ofNat 4 hstall, BitVec.ofNat 1 hneg, BitVec.ofNat 3 hpred⟩)
  | _ => none
/-- BKPT: opcode 0x05 (R183). -/
def decOp05 (w : Nat) : Option Instr :=
  match unpackBits [36, 12, 3, 1, 4, 8] w with
  | [ximm, 0, hpred, hneg, hstall, 5] => some (.bkpt ⟨BitVec.ofNat 4 hstall, BitVec.ofNat 1 hneg, BitVec.ofNat 3 hpred⟩ (BitVec.ofNat 36 ximm))
  | _ => none
/-- MFC: opcode 0x06 (R51, R185). -/
def decOp06 (w : Nat) : Option Instr :=
  match unpackBits [12, 24, 6, 6, 3, 1, 4, 8] w with
  | [n, 0, 0, xd, hpred, hneg, hstall, 6] =>
    if n = 0x010 then some (.mfcFpcsr ⟨BitVec.ofNat 4 hstall, BitVec.ofNat 1 hneg, BitVec.ofNat 3 hpred⟩ (BitVec.ofNat 6 xd))
    else if n = 0x011 ∨ n = 0x012 then some (.mfcEstartFfidx ⟨BitVec.ofNat 4 hstall, BitVec.ofNat 1 hneg, BitVec.ofNat 3 hpred⟩ (BitVec.ofNat 6 xd) (BitVec.ofNat 2 n))
    else if n = 0x030 then some (.mfcAdirty ⟨BitVec.ofNat 4 hstall, BitVec.ofNat 1 hneg, BitVec.ofNat 3 hpred⟩ (BitVec.ofNat 6 xd))
    else some (.mfc ⟨BitVec.ofNat 4 hstall, BitVec.ofNat 1 hneg, BitVec.ofNat 3 hpred⟩ (BitVec.ofNat 6 xd) (BitVec.ofNat 12 n))
  | _ => none
/-- MTC: opcode 0x07 (R51, R185). -/
def decOp07 (w : Nat) : Option Instr :=
  match unpackBits [12, 24, 6, 6, 3, 1, 4, 8] w with
  | [n, 0, xa, 0, hpred, hneg, hstall, 7] =>
    if n = 0x010 then some (.mtcFpcsr ⟨BitVec.ofNat 4 hstall, BitVec.ofNat 1 hneg, BitVec.ofNat 3 hpred⟩ (BitVec.ofNat 6 xa))
    else if n = 0x070 then some (.mtcTrapbase ⟨BitVec.ofNat 4 hstall, BitVec.ofNat 1 hneg, BitVec.ofNat 3 hpred⟩ (BitVec.ofNat 6 xa))
    else if n = 0x050 then some (.mtcAlimit ⟨BitVec.ofNat 4 hstall, BitVec.ofNat 1 hneg, BitVec.ofNat 3 hpred⟩ (BitVec.ofNat 6 xa))
    else if n = 0x041 then some (.mtcPriocur ⟨BitVec.ofNat 4 hstall, BitVec.ofNat 1 hneg, BitVec.ofNat 3 hpred⟩ (BitVec.ofNat 6 xa))
    else if n = 0x044 ∨ n = 0x045 then some (.mtcWatchdog ⟨BitVec.ofNat 4 hstall, BitVec.ofNat 1 hneg, BitVec.ofNat 3 hpred⟩ (BitVec.ofNat 6 xa) (BitVec.ofNat 1 n))
    else some (.mtc ⟨BitVec.ofNat 4 hstall, BitVec.ofNat 1 hneg, BitVec.ofNat 3 hpred⟩ (BitVec.ofNat 6 xa) (BitVec.ofNat 12 n))
  | _ => none
/-- WAITE: opcode 0x08 (R186). -/
def decOp08 (w : Nat) : Option Instr :=
  match unpackBits [30, 6, 6, 6, 3, 1, 4, 8] w with
  | [0, xb, xa, xd, hpred, hneg, hstall, 8] => some (.waite ⟨BitVec.ofNat 4 hstall, BitVec.ofNat 1 hneg, BitVec.ofNat 3 hpred⟩ (BitVec.ofNat 6 xd) (BitVec.ofNat 6 xa) (BitVec.ofNat 6 xb))
  | _ => none
/-- SEV: opcode 0x09 (R186). -/
def decOp09 (w : Nat) : Option Instr :=
  match unpackBits [24, 3, 21, 3, 1, 4, 8] w with
  | [0, xsc, 0, hpred, hneg, hstall, 9] => some (.sev ⟨BitVec.ofNat 4 hstall, BitVec.ofNat 1 hneg, BitVec.ofNat 3 hpred⟩ (BitVec.ofNat 3 xsc))
  | _ => none
/-- WAITM: opcode 0x0A (R187). -/
def decOp0A (w : Nat) : Option Instr :=
  match unpackBits [36, 6, 6, 3, 1, 4, 8] w with
  | [0, xb, xa, hpred, hneg, hstall, 10] => some (.waitm ⟨BitVec.ofNat 4 hstall, BitVec.ofNat 1 hneg, BitVec.ofNat 3 hpred⟩ (BitVec.ofNat 6 xa) (BitVec.ofNat 6 xb))
  | _ => none
/-- YIELD: opcode 0x0B (R183). -/
def decOp0B (w : Nat) : Option Instr :=
  match unpackBits [48, 3, 1, 4, 8] w with
  | [0, hpred, hneg, hstall, 11] => some (.yield ⟨BitVec.ofNat 4 hstall, BitVec.ofNat 1 hneg, BitVec.ofNat 3 hpred⟩)
  | _ => none
/-- CACHE_IINV, CACHE_CLEAN, CACHE_CLINV, CACHE_INV, CACHE_ZERO, CACHE_IINVALL: opcode 0x0C (R181). -/
def decOp0C (w : Nat) : Option Instr :=
  match unpackBits [24, 6, 6, 6, 6, 3, 1, 4, 8] w with
  | [xdisp, xindex, 0, xbase, 0, hpred, hneg, hstall, 12] => some (.cacheIinv ⟨BitVec.ofNat 4 hstall, BitVec.ofNat 1 hneg, BitVec.ofNat 3 hpred⟩ (BitVec.ofNat 6 xbase) (BitVec.ofNat 6 xindex) (BitVec.ofNat 24 xdisp))
  | [xdisp, xindex, 0, xbase, 1, hpred, hneg, hstall, 12] => some (.cacheClean ⟨BitVec.ofNat 4 hstall, BitVec.ofNat 1 hneg, BitVec.ofNat 3 hpred⟩ (BitVec.ofNat 6 xbase) (BitVec.ofNat 6 xindex) (BitVec.ofNat 24 xdisp))
  | [xdisp, xindex, 0, xbase, 2, hpred, hneg, hstall, 12] => some (.cacheClinv ⟨BitVec.ofNat 4 hstall, BitVec.ofNat 1 hneg, BitVec.ofNat 3 hpred⟩ (BitVec.ofNat 6 xbase) (BitVec.ofNat 6 xindex) (BitVec.ofNat 24 xdisp))
  | [xdisp, xindex, 0, xbase, 3, hpred, hneg, hstall, 12] => some (.cacheInv ⟨BitVec.ofNat 4 hstall, BitVec.ofNat 1 hneg, BitVec.ofNat 3 hpred⟩ (BitVec.ofNat 6 xbase) (BitVec.ofNat 6 xindex) (BitVec.ofNat 24 xdisp))
  | [xdisp, xindex, 0, xbase, 4, hpred, hneg, hstall, 12] => some (.cacheZero ⟨BitVec.ofNat 4 hstall, BitVec.ofNat 1 hneg, BitVec.ofNat 3 hpred⟩ (BitVec.ofNat 6 xbase) (BitVec.ofNat 6 xindex) (BitVec.ofNat 24 xdisp))
  | [0, 0, 0, 0, 5, hpred, hneg, hstall, 12] => some (.cacheIinvall ⟨BitVec.ofNat 4 hstall, BitVec.ofNat 1 hneg, BitVec.ofNat 3 hpred⟩)
  | _ => none
/-- TLBI_ALL, TLBI_CTX, TLBI_VA, TLBI_VAALL: opcode 0x0D (R180). -/
def decOp0D (w : Nat) : Option Instr :=
  match unpackBits [36, 6, 6, 3, 1, 4, 8] w with
  | [0, 0, 0, hpred, hneg, hstall, 13] => some (.tlbiAll ⟨BitVec.ofNat 4 hstall, BitVec.ofNat 1 hneg, BitVec.ofNat 3 hpred⟩)
  | [16777216, xb, 0, hpred, hneg, hstall, 13] => some (.tlbiCtx ⟨BitVec.ofNat 4 hstall, BitVec.ofNat 1 hneg, BitVec.ofNat 3 hpred⟩ (BitVec.ofNat 6 xb))
  | [33554432, xb, xa, hpred, hneg, hstall, 13] => some (.tlbiVa ⟨BitVec.ofNat 4 hstall, BitVec.ofNat 1 hneg, BitVec.ofNat 3 hpred⟩ (BitVec.ofNat 6 xa) (BitVec.ofNat 6 xb))
  | [50331648, 0, xa, hpred, hneg, hstall, 13] => some (.tlbiVaall ⟨BitVec.ofNat 4 hstall, BitVec.ofNat 1 hneg, BitVec.ofNat 3 hpred⟩ (BitVec.ofNat 6 xa))
  | _ => none
/-- WDOG_SET, WDOG_CLR, WDOG_READ: opcode 0x0E (R429). -/
def decOp0E (w : Nat) : Option Instr :=
  match unpackBits [30, 6, 6, 6, 3, 1, 4, 8] w with
  | [0, xc, xb, xa, hpred, hneg, hstall, 14] => some (.wdogSet ⟨BitVec.ofNat 4 hstall, BitVec.ofNat 1 hneg, BitVec.ofNat 3 hpred⟩ (BitVec.ofNat 6 xa) (BitVec.ofNat 6 xb) (BitVec.ofNat 6 xc))
  | [16777216, 0, xb, xa, hpred, hneg, hstall, 14] => some (.wdogClr ⟨BitVec.ofNat 4 hstall, BitVec.ofNat 1 hneg, BitVec.ofNat 3 hpred⟩ (BitVec.ofNat 6 xa) (BitVec.ofNat 6 xb))
  | [33554432, 0, xb, xa, hpred, hneg, hstall, 14] => some (.wdogRead ⟨BitVec.ofNat 4 hstall, BitVec.ofNat 1 hneg, BitVec.ofNat 3 hpred⟩ (BitVec.ofNat 6 xa) (BitVec.ofNat 6 xb))
  | _ => none
/-- ERRINJ_CORR, ERRINJ_DET, ERRINJ_ARR: opcode 0x0F (R478). -/
def decOp0F (w : Nat) : Option Instr :=
  match unpackBits [30, 6, 6, 6, 3, 1, 4, 8] w with
  | [0, 0, xb, xa, hpred, hneg, hstall, 15] => some (.errinjCorr ⟨BitVec.ofNat 4 hstall, BitVec.ofNat 1 hneg, BitVec.ofNat 3 hpred⟩ (BitVec.ofNat 6 xa) (BitVec.ofNat 6 xb))
  | [16777216, 0, xb, xa, hpred, hneg, hstall, 15] => some (.errinjDet ⟨BitVec.ofNat 4 hstall, BitVec.ofNat 1 hneg, BitVec.ofNat 3 hpred⟩ (BitVec.ofNat 6 xa) (BitVec.ofNat 6 xb))
  | [33554432, xc, xb, xa, hpred, hneg, hstall, 15] => some (.errinjArr ⟨BitVec.ofNat 4 hstall, BitVec.ofNat 1 hneg, BitVec.ofNat 3 hpred⟩ (BitVec.ofNat 6 xa) (BitVec.ofNat 6 xb) (BitVec.ofNat 6 xc))
  | _ => none
/-- ADD: opcode 0x10 (R117). -/
def decOp10 (w : Nat) : Option Instr :=
  match unpackBits [30, 6, 6, 6, 3, 1, 4, 8] w with
  | [0, xb, xa, xd, hpred, hneg, hstall, 16] => some (.add ⟨BitVec.ofNat 4 hstall, BitVec.ofNat 1 hneg, BitVec.ofNat 3 hpred⟩ (BitVec.ofNat 6 xd) (BitVec.ofNat 6 xa) (BitVec.ofNat 6 xb))
  | _ => none
/-- SUB: opcode 0x11 (R117). -/
def decOp11 (w : Nat) : Option Instr :=
  match unpackBits [30, 6, 6, 6, 3, 1, 4, 8] w with
  | [0, xb, xa, xd, hpred, hneg, hstall, 17] => some (.sub ⟨BitVec.ofNat 4 hstall, BitVec.ofNat 1 hneg, BitVec.ofNat 3 hpred⟩ (BitVec.ofNat 6 xd) (BitVec.ofNat 6 xa) (BitVec.ofNat 6 xb))
  | _ => none
/-- MUL: opcode 0x12 (R117). -/
def decOp12 (w : Nat) : Option Instr :=
  match unpackBits [30, 6, 6, 6, 3, 1, 4, 8] w with
  | [0, xb, xa, xd, hpred, hneg, hstall, 18] => some (.mul ⟨BitVec.ofNat 4 hstall, BitVec.ofNat 1 hneg, BitVec.ofNat 3 hpred⟩ (BitVec.ofNat 6 xd) (BitVec.ofNat 6 xa) (BitVec.ofNat 6 xb))
  | _ => none
/-- MULH: opcode 0x13 (R117). -/
def decOp13 (w : Nat) : Option Instr :=
  match unpackBits [30, 6, 6, 6, 3, 1, 4, 8] w with
  | [0, xb, xa, xd, hpred, hneg, hstall, 19] => some (.mulh ⟨BitVec.ofNat 4 hstall, BitVec.ofNat 1 hneg, BitVec.ofNat 3 hpred⟩ (BitVec.ofNat 6 xd) (BitVec.ofNat 6 xa) (BitVec.ofNat 6 xb))
  | _ => none
/-- MULHU: opcode 0x14 (R117). -/
def decOp14 (w : Nat) : Option Instr :=
  match unpackBits [30, 6, 6, 6, 3, 1, 4, 8] w with
  | [0, xb, xa, xd, hpred, hneg, hstall, 20] => some (.mulhu ⟨BitVec.ofNat 4 hstall, BitVec.ofNat 1 hneg, BitVec.ofNat 3 hpred⟩ (BitVec.ofNat 6 xd) (BitVec.ofNat 6 xa) (BitVec.ofNat 6 xb))
  | _ => none
/-- DIV: opcode 0x15 (R118). -/
def decOp15 (w : Nat) : Option Instr :=
  match unpackBits [30, 6, 6, 6, 3, 1, 4, 8] w with
  | [0, xb, xa, xd, hpred, hneg, hstall, 21] => some (.div ⟨BitVec.ofNat 4 hstall, BitVec.ofNat 1 hneg, BitVec.ofNat 3 hpred⟩ (BitVec.ofNat 6 xd) (BitVec.ofNat 6 xa) (BitVec.ofNat 6 xb))
  | _ => none
/-- DIVU: opcode 0x16 (R118). -/
def decOp16 (w : Nat) : Option Instr :=
  match unpackBits [30, 6, 6, 6, 3, 1, 4, 8] w with
  | [0, xb, xa, xd, hpred, hneg, hstall, 22] => some (.divu ⟨BitVec.ofNat 4 hstall, BitVec.ofNat 1 hneg, BitVec.ofNat 3 hpred⟩ (BitVec.ofNat 6 xd) (BitVec.ofNat 6 xa) (BitVec.ofNat 6 xb))
  | _ => none
/-- REM: opcode 0x17 (R118). -/
def decOp17 (w : Nat) : Option Instr :=
  match unpackBits [30, 6, 6, 6, 3, 1, 4, 8] w with
  | [0, xb, xa, xd, hpred, hneg, hstall, 23] => some (.rem ⟨BitVec.ofNat 4 hstall, BitVec.ofNat 1 hneg, BitVec.ofNat 3 hpred⟩ (BitVec.ofNat 6 xd) (BitVec.ofNat 6 xa) (BitVec.ofNat 6 xb))
  | _ => none
/-- REMU: opcode 0x18 (R118). -/
def decOp18 (w : Nat) : Option Instr :=
  match unpackBits [30, 6, 6, 6, 3, 1, 4, 8] w with
  | [0, xb, xa, xd, hpred, hneg, hstall, 24] => some (.remu ⟨BitVec.ofNat 4 hstall, BitVec.ofNat 1 hneg, BitVec.ofNat 3 hpred⟩ (BitVec.ofNat 6 xd) (BitVec.ofNat 6 xa) (BitVec.ofNat 6 xb))
  | _ => none
/-- AND: opcode 0x19 (R117). -/
def decOp19 (w : Nat) : Option Instr :=
  match unpackBits [30, 6, 6, 6, 3, 1, 4, 8] w with
  | [0, xb, xa, xd, hpred, hneg, hstall, 25] => some (.and ⟨BitVec.ofNat 4 hstall, BitVec.ofNat 1 hneg, BitVec.ofNat 3 hpred⟩ (BitVec.ofNat 6 xd) (BitVec.ofNat 6 xa) (BitVec.ofNat 6 xb))
  | _ => none
/-- OR: opcode 0x1A (R117). -/
def decOp1A (w : Nat) : Option Instr :=
  match unpackBits [30, 6, 6, 6, 3, 1, 4, 8] w with
  | [0, xb, xa, xd, hpred, hneg, hstall, 26] => some (.or ⟨BitVec.ofNat 4 hstall, BitVec.ofNat 1 hneg, BitVec.ofNat 3 hpred⟩ (BitVec.ofNat 6 xd) (BitVec.ofNat 6 xa) (BitVec.ofNat 6 xb))
  | _ => none
/-- XOR: opcode 0x1B (R117). -/
def decOp1B (w : Nat) : Option Instr :=
  match unpackBits [30, 6, 6, 6, 3, 1, 4, 8] w with
  | [0, xb, xa, xd, hpred, hneg, hstall, 27] => some (.xor ⟨BitVec.ofNat 4 hstall, BitVec.ofNat 1 hneg, BitVec.ofNat 3 hpred⟩ (BitVec.ofNat 6 xd) (BitVec.ofNat 6 xa) (BitVec.ofNat 6 xb))
  | _ => none
/-- ANDN: opcode 0x1C (R117). -/
def decOp1C (w : Nat) : Option Instr :=
  match unpackBits [30, 6, 6, 6, 3, 1, 4, 8] w with
  | [0, xb, xa, xd, hpred, hneg, hstall, 28] => some (.andn ⟨BitVec.ofNat 4 hstall, BitVec.ofNat 1 hneg, BitVec.ofNat 3 hpred⟩ (BitVec.ofNat 6 xd) (BitVec.ofNat 6 xa) (BitVec.ofNat 6 xb))
  | _ => none
/-- SHL: opcode 0x1D (R117). -/
def decOp1D (w : Nat) : Option Instr :=
  match unpackBits [30, 6, 6, 6, 3, 1, 4, 8] w with
  | [0, xb, xa, xd, hpred, hneg, hstall, 29] => some (.shl ⟨BitVec.ofNat 4 hstall, BitVec.ofNat 1 hneg, BitVec.ofNat 3 hpred⟩ (BitVec.ofNat 6 xd) (BitVec.ofNat 6 xa) (BitVec.ofNat 6 xb))
  | _ => none
/-- SHR: opcode 0x1E (R117). -/
def decOp1E (w : Nat) : Option Instr :=
  match unpackBits [30, 6, 6, 6, 3, 1, 4, 8] w with
  | [0, xb, xa, xd, hpred, hneg, hstall, 30] => some (.shr ⟨BitVec.ofNat 4 hstall, BitVec.ofNat 1 hneg, BitVec.ofNat 3 hpred⟩ (BitVec.ofNat 6 xd) (BitVec.ofNat 6 xa) (BitVec.ofNat 6 xb))
  | _ => none
/-- SRA: opcode 0x1F (R117). -/
def decOp1F (w : Nat) : Option Instr :=
  match unpackBits [30, 6, 6, 6, 3, 1, 4, 8] w with
  | [0, xb, xa, xd, hpred, hneg, hstall, 31] => some (.sra ⟨BitVec.ofNat 4 hstall, BitVec.ofNat 1 hneg, BitVec.ofNat 3 hpred⟩ (BitVec.ofNat 6 xd) (BitVec.ofNat 6 xa) (BitVec.ofNat 6 xb))
  | _ => none
/-- ADDI: opcode 0x20 (R119). -/
def decOp20 (w : Nat) : Option Instr :=
  match unpackBits [36, 6, 6, 3, 1, 4, 8] w with
  | [ximm, xa, xd, hpred, hneg, hstall, 32] => some (.addi ⟨BitVec.ofNat 4 hstall, BitVec.ofNat 1 hneg, BitVec.ofNat 3 hpred⟩ (BitVec.ofNat 6 xd) (BitVec.ofNat 6 xa) (BitVec.ofNat 36 ximm))
  | _ => none
/-- MULI: opcode 0x21 (R119). -/
def decOp21 (w : Nat) : Option Instr :=
  match unpackBits [36, 6, 6, 3, 1, 4, 8] w with
  | [ximm, xa, xd, hpred, hneg, hstall, 33] => some (.muli ⟨BitVec.ofNat 4 hstall, BitVec.ofNat 1 hneg, BitVec.ofNat 3 hpred⟩ (BitVec.ofNat 6 xd) (BitVec.ofNat 6 xa) (BitVec.ofNat 36 ximm))
  | _ => none
/-- ANDI: opcode 0x22 (R119). -/
def decOp22 (w : Nat) : Option Instr :=
  match unpackBits [36, 6, 6, 3, 1, 4, 8] w with
  | [ximm, xa, xd, hpred, hneg, hstall, 34] => some (.andi ⟨BitVec.ofNat 4 hstall, BitVec.ofNat 1 hneg, BitVec.ofNat 3 hpred⟩ (BitVec.ofNat 6 xd) (BitVec.ofNat 6 xa) (BitVec.ofNat 36 ximm))
  | _ => none
/-- ORI: opcode 0x23 (R119). -/
def decOp23 (w : Nat) : Option Instr :=
  match unpackBits [36, 6, 6, 3, 1, 4, 8] w with
  | [ximm, xa, xd, hpred, hneg, hstall, 35] => some (.ori ⟨BitVec.ofNat 4 hstall, BitVec.ofNat 1 hneg, BitVec.ofNat 3 hpred⟩ (BitVec.ofNat 6 xd) (BitVec.ofNat 6 xa) (BitVec.ofNat 36 ximm))
  | _ => none
/-- XORI: opcode 0x24 (R119). -/
def decOp24 (w : Nat) : Option Instr :=
  match unpackBits [36, 6, 6, 3, 1, 4, 8] w with
  | [ximm, xa, xd, hpred, hneg, hstall, 36] => some (.xori ⟨BitVec.ofNat 4 hstall, BitVec.ofNat 1 hneg, BitVec.ofNat 3 hpred⟩ (BitVec.ofNat 6 xd) (BitVec.ofNat 6 xa) (BitVec.ofNat 36 ximm))
  | _ => none
/-- SHLI: opcode 0x25 (R119). -/
def decOp25 (w : Nat) : Option Instr :=
  match unpackBits [6, 30, 6, 6, 3, 1, 4, 8] w with
  | [xk, 0, xa, xd, hpred, hneg, hstall, 37] => some (.shli ⟨BitVec.ofNat 4 hstall, BitVec.ofNat 1 hneg, BitVec.ofNat 3 hpred⟩ (BitVec.ofNat 6 xd) (BitVec.ofNat 6 xa) (BitVec.ofNat 6 xk))
  | _ => none
/-- SHRI: opcode 0x26 (R119). -/
def decOp26 (w : Nat) : Option Instr :=
  match unpackBits [6, 30, 6, 6, 3, 1, 4, 8] w with
  | [xk, 0, xa, xd, hpred, hneg, hstall, 38] => some (.shri ⟨BitVec.ofNat 4 hstall, BitVec.ofNat 1 hneg, BitVec.ofNat 3 hpred⟩ (BitVec.ofNat 6 xd) (BitVec.ofNat 6 xa) (BitVec.ofNat 6 xk))
  | _ => none
/-- SRAI: opcode 0x27 (R119). -/
def decOp27 (w : Nat) : Option Instr :=
  match unpackBits [6, 30, 6, 6, 3, 1, 4, 8] w with
  | [xk, 0, xa, xd, hpred, hneg, hstall, 39] => some (.srai ⟨BitVec.ofNat 4 hstall, BitVec.ofNat 1 hneg, BitVec.ofNat 3 hpred⟩ (BitVec.ofNat 6 xd) (BitVec.ofNat 6 xa) (BitVec.ofNat 6 xk))
  | _ => none
/-- MIN: opcode 0x28 (R117). -/
def decOp28 (w : Nat) : Option Instr :=
  match unpackBits [30, 6, 6, 6, 3, 1, 4, 8] w with
  | [0, xb, xa, xd, hpred, hneg, hstall, 40] => some (.min ⟨BitVec.ofNat 4 hstall, BitVec.ofNat 1 hneg, BitVec.ofNat 3 hpred⟩ (BitVec.ofNat 6 xd) (BitVec.ofNat 6 xa) (BitVec.ofNat 6 xb))
  | _ => none
/-- MAX: opcode 0x29 (R117). -/
def decOp29 (w : Nat) : Option Instr :=
  match unpackBits [30, 6, 6, 6, 3, 1, 4, 8] w with
  | [0, xb, xa, xd, hpred, hneg, hstall, 41] => some (.max ⟨BitVec.ofNat 4 hstall, BitVec.ofNat 1 hneg, BitVec.ofNat 3 hpred⟩ (BitVec.ofNat 6 xd) (BitVec.ofNat 6 xa) (BitVec.ofNat 6 xb))
  | _ => none
/-- MINU: opcode 0x2A (R117). -/
def decOp2A (w : Nat) : Option Instr :=
  match unpackBits [30, 6, 6, 6, 3, 1, 4, 8] w with
  | [0, xb, xa, xd, hpred, hneg, hstall, 42] => some (.minu ⟨BitVec.ofNat 4 hstall, BitVec.ofNat 1 hneg, BitVec.ofNat 3 hpred⟩ (BitVec.ofNat 6 xd) (BitVec.ofNat 6 xa) (BitVec.ofNat 6 xb))
  | _ => none
/-- MAXU: opcode 0x2B (R117). -/
def decOp2B (w : Nat) : Option Instr :=
  match unpackBits [30, 6, 6, 6, 3, 1, 4, 8] w with
  | [0, xb, xa, xd, hpred, hneg, hstall, 43] => some (.maxu ⟨BitVec.ofNat 4 hstall, BitVec.ofNat 1 hneg, BitVec.ofNat 3 hpred⟩ (BitVec.ofNat 6 xd) (BitVec.ofNat 6 xa) (BitVec.ofNat 6 xb))
  | _ => none
/-- CLZ: opcode 0x2C (R117). -/
def decOp2C (w : Nat) : Option Instr :=
  match unpackBits [36, 6, 6, 3, 1, 4, 8] w with
  | [0, xa, xd, hpred, hneg, hstall, 44] => some (.clz ⟨BitVec.ofNat 4 hstall, BitVec.ofNat 1 hneg, BitVec.ofNat 3 hpred⟩ (BitVec.ofNat 6 xd) (BitVec.ofNat 6 xa))
  | _ => none
/-- CTZ: opcode 0x2D (R117). -/
def decOp2D (w : Nat) : Option Instr :=
  match unpackBits [36, 6, 6, 3, 1, 4, 8] w with
  | [0, xa, xd, hpred, hneg, hstall, 45] => some (.ctz ⟨BitVec.ofNat 4 hstall, BitVec.ofNat 1 hneg, BitVec.ofNat 3 hpred⟩ (BitVec.ofNat 6 xd) (BitVec.ofNat 6 xa))
  | _ => none
/-- POPC: opcode 0x2E (R117). -/
def decOp2E (w : Nat) : Option Instr :=
  match unpackBits [36, 6, 6, 3, 1, 4, 8] w with
  | [0, xa, xd, hpred, hneg, hstall, 46] => some (.popc ⟨BitVec.ofNat 4 hstall, BitVec.ofNat 1 hneg, BitVec.ofNat 3 hpred⟩ (BitVec.ofNat 6 xd) (BitVec.ofNat 6 xa))
  | _ => none
/-- BREV: opcode 0x2F (R117). -/
def decOp2F (w : Nat) : Option Instr :=
  match unpackBits [36, 6, 6, 3, 1, 4, 8] w with
  | [0, xa, xd, hpred, hneg, hstall, 47] => some (.brev ⟨BitVec.ofNat 4 hstall, BitVec.ofNat 1 hneg, BitVec.ofNat 3 hpred⟩ (BitVec.ofNat 6 xd) (BitVec.ofNat 6 xa))
  | _ => none
/-- SETP: opcode 0x30 (R120). -/
def decOp30 (w : Nat) : Option Instr :=
  match unpackBits [24, 6, 6, 6, 3, 3, 3, 1, 4, 8] w with
  | [0, xcond, xb, xa, xpd, 0, hpred, hneg, hstall, 48] => some (.setp ⟨BitVec.ofNat 4 hstall, BitVec.ofNat 1 hneg, BitVec.ofNat 3 hpred⟩ (BitVec.ofNat 3 xpd) (BitVec.ofNat 6 xa) (BitVec.ofNat 6 xb) (BitVec.ofNat 6 xcond))
  | _ => none
/-- SETPI: opcode 0x31 (R120). -/
def decOp31 (w : Nat) : Option Instr :=
  match unpackBits [30, 6, 6, 3, 3, 3, 1, 4, 8] w with
  | [ximm, xcond, xa, xpd, 0, hpred, hneg, hstall, 49] => some (.setpi ⟨BitVec.ofNat 4 hstall, BitVec.ofNat 1 hneg, BitVec.ofNat 3 hpred⟩ (BitVec.ofNat 3 xpd) (BitVec.ofNat 6 xa) (BitVec.ofNat 6 xcond) (BitVec.ofNat 30 ximm))
  | _ => none
/-- PLOG: opcode 0x32 (R121). -/
def decOp32 (w : Nat) : Option Instr :=
  match unpackBits [24, 4, 2, 3, 3, 3, 3, 3, 3, 3, 1, 4, 8] w with
  | [0, xtbl, 0, xpb, 0, xpa, 0, xpd, 0, hpred, hneg, hstall, 50] => some (.plog ⟨BitVec.ofNat 4 hstall, BitVec.ofNat 1 hneg, BitVec.ofNat 3 hpred⟩ (BitVec.ofNat 3 xpd) (BitVec.ofNat 3 xpa) (BitVec.ofNat 3 xpb) (BitVec.ofNat 4 xtbl))
  | _ => none
/-- SEL: opcode 0x33 (R122). -/
def decOp33 (w : Nat) : Option Instr :=
  match unpackBits [24, 3, 1, 2, 6, 6, 6, 3, 1, 4, 8] w with
  | [0, xps, xinv, 0, xb, xa, xd, hpred, hneg, hstall, 51] => some (.sel ⟨BitVec.ofNat 4 hstall, BitVec.ofNat 1 hneg, BitVec.ofNat 3 hpred⟩ (BitVec.ofNat 6 xd) (BitVec.ofNat 6 xa) (BitVec.ofNat 6 xb) (BitVec.ofNat 1 xinv) (BitVec.ofNat 3 xps))
  | _ => none
/-- LEA: opcode 0x34 (R123). -/
def decOp34 (w : Nat) : Option Instr :=
  match unpackBits [24, 6, 3, 3, 6, 6, 3, 1, 4, 8] w with
  | [xdisp, xindex, 0, xsize, xbase, xt, hpred, hneg, hstall, 52] => some (.lea ⟨BitVec.ofNat 4 hstall, BitVec.ofNat 1 hneg, BitVec.ofNat 3 hpred⟩ (BitVec.ofNat 6 xt) (BitVec.ofNat 6 xbase) (BitVec.ofNat 3 xsize) (BitVec.ofNat 6 xindex) (BitVec.ofNat 24 xdisp))
  | _ => none
/-- LEAPC: opcode 0x35 (R124). -/
def decOp35 (w : Nat) : Option Instr :=
  match unpackBits [36, 6, 6, 3, 1, 4, 8] w with
  | [ximm, 0, xd, hpred, hneg, hstall, 53] => some (.leapc ⟨BitVec.ofNat 4 hstall, BitVec.ofNat 1 hneg, BitVec.ofNat 3 hpred⟩ (BitVec.ofNat 6 xd) (BitVec.ofNat 36 ximm))
  | _ => none
/-- BFX: opcode 0x36 (R125). -/
def decOp36 (w : Nat) : Option Instr :=
  match unpackBits [6, 6, 12, 1, 11, 6, 6, 3, 1, 4, 8] w with
  | [xpos, xlenm1, 0, xsx, 0, xb, xa, hpred, hneg, hstall, 54] => some (.bfx ⟨BitVec.ofNat 4 hstall, BitVec.ofNat 1 hneg, BitVec.ofNat 3 hpred⟩ (BitVec.ofNat 6 xa) (BitVec.ofNat 6 xb) (BitVec.ofNat 1 xsx) (BitVec.ofNat 6 xlenm1) (BitVec.ofNat 6 xpos))
  | _ => none
/-- BFI: opcode 0x37 (R125). -/
def decOp37 (w : Nat) : Option Instr :=
  match unpackBits [6, 6, 24, 6, 6, 3, 1, 4, 8] w with
  | [xpos, xlenm1, 0, xb, xa, hpred, hneg, hstall, 55] => some (.bfi ⟨BitVec.ofNat 4 hstall, BitVec.ofNat 1 hneg, BitVec.ofNat 3 hpred⟩ (BitVec.ofNat 6 xa) (BitVec.ofNat 6 xb) (BitVec.ofNat 6 xlenm1) (BitVec.ofNat 6 xpos))
  | _ => none
/-- ROT: opcode 0x38 (R126). -/
def decOp38 (w : Nat) : Option Instr :=
  match unpackBits [30, 6, 6, 6, 3, 1, 4, 8] w with
  | [0, xb, xa, xd, hpred, hneg, hstall, 56] => some (.rot ⟨BitVec.ofNat 4 hstall, BitVec.ofNat 1 hneg, BitVec.ofNat 3 hpred⟩ (BitVec.ofNat 6 xd) (BitVec.ofNat 6 xa) (BitVec.ofNat 6 xb))
  | _ => none
/-- ROTI: opcode 0x39 (R126). -/
def decOp39 (w : Nat) : Option Instr :=
  match unpackBits [6, 30, 6, 6, 3, 1, 4, 8] w with
  | [xk, 0, xa, xd, hpred, hneg, hstall, 57] => some (.roti ⟨BitVec.ofNat 4 hstall, BitVec.ofNat 1 hneg, BitVec.ofNat 3 hpred⟩ (BitVec.ofNat 6 xd) (BitVec.ofNat 6 xa) (BitVec.ofNat 6 xk))
  | _ => none
/-- MADD: opcode 0x3A (R127). -/
def decOp3A (w : Nat) : Option Instr :=
  match unpackBits [6, 24, 6, 6, 6, 3, 1, 4, 8] w with
  | [xe, 0, xc, xb, xa, hpred, hneg, hstall, 58] => some (.madd ⟨BitVec.ofNat 4 hstall, BitVec.ofNat 1 hneg, BitVec.ofNat 3 hpred⟩ (BitVec.ofNat 6 xa) (BitVec.ofNat 6 xb) (BitVec.ofNat 6 xc) (BitVec.ofNat 6 xe))
  | _ => none
/-- BSWAP_D, BSWAP_W, BSWAP_H: opcode 0x3B (R128). -/
def decOp3B (w : Nat) : Option Instr :=
  match unpackBits [36, 6, 6, 3, 1, 4, 8] w with
  | [0, xa, xd, hpred, hneg, hstall, 59] => some (.bswapD ⟨BitVec.ofNat 4 hstall, BitVec.ofNat 1 hneg, BitVec.ofNat 3 hpred⟩ (BitVec.ofNat 6 xd) (BitVec.ofNat 6 xa))
  | [16777216, xa, xd, hpred, hneg, hstall, 59] => some (.bswapW ⟨BitVec.ofNat 4 hstall, BitVec.ofNat 1 hneg, BitVec.ofNat 3 hpred⟩ (BitVec.ofNat 6 xd) (BitVec.ofNat 6 xa))
  | [33554432, xa, xd, hpred, hneg, hstall, 59] => some (.bswapH ⟨BitVec.ofNat 4 hstall, BitVec.ofNat 1 hneg, BitVec.ofNat 3 hpred⟩ (BitVec.ofNat 6 xd) (BitVec.ofNat 6 xa))
  | _ => none
/-- CRC: opcode 0x3C (R129). -/
def decOp3C (w : Nat) : Option Instr :=
  match unpackBits [24, 2, 1, 3, 6, 6, 6, 3, 1, 4, 8] w with
  | [0, xsize, xpoly, 0, xb, xa, xd, hpred, hneg, hstall, 60] => some (.crc ⟨BitVec.ofNat 4 hstall, BitVec.ofNat 1 hneg, BitVec.ofNat 3 hpred⟩ (BitVec.ofNat 6 xd) (BitVec.ofNat 6 xa) (BitVec.ofNat 6 xb) (BitVec.ofNat 1 xpoly) (BitVec.ofNat 2 xsize))
  | _ => none
/-- HASH: opcode 0x3D (R130). -/
def decOp3D (w : Nat) : Option Instr :=
  match unpackBits [30, 6, 6, 6, 3, 1, 4, 8] w with
  | [0, xb, xa, xd, hpred, hneg, hstall, 61] => some (.hash ⟨BitVec.ofNat 4 hstall, BitVec.ofNat 1 hneg, BitVec.ofNat 3 hpred⟩ (BitVec.ofNat 6 xd) (BitVec.ofNat 6 xa) (BitVec.ofNat 6 xb))
  | _ => none
/-- RDCYC: opcode 0x3E (R131). -/
def decOp3E (w : Nat) : Option Instr :=
  match unpackBits [42, 6, 3, 1, 4, 8] w with
  | [0, xd, hpred, hneg, hstall, 62] => some (.rdcyc ⟨BitVec.ofNat 4 hstall, BitVec.ofNat 1 hneg, BitVec.ofNat 3 hpred⟩ (BitVec.ofNat 6 xd))
  | _ => none
/-- RDID: opcode 0x3F (R132). -/
def decOp3F (w : Nat) : Option Instr :=
  match unpackBits [42, 6, 3, 1, 4, 8] w with
  | [0, xd, hpred, hneg, hstall, 63] => some (.rdid ⟨BitVec.ofNat 4 hstall, BitVec.ofNat 1 hneg, BitVec.ofNat 3 hpred⟩ (BitVec.ofNat 6 xd))
  | _ => none
/-- FADD: opcode 0x40 (R137). -/
def decOp40 (w : Nat) : Option Instr :=
  match unpackBits [24, 3, 3, 6, 6, 6, 3, 1, 4, 8] w with
  | [0, xrm, 0, xb, xa, xd, hpred, hneg, hstall, 64] => some (.fadd ⟨BitVec.ofNat 4 hstall, BitVec.ofNat 1 hneg, BitVec.ofNat 3 hpred⟩ (BitVec.ofNat 6 xd) (BitVec.ofNat 6 xa) (BitVec.ofNat 6 xb) (BitVec.ofNat 3 xrm))
  | _ => none
/-- FSUB: opcode 0x41 (R137). -/
def decOp41 (w : Nat) : Option Instr :=
  match unpackBits [24, 3, 3, 6, 6, 6, 3, 1, 4, 8] w with
  | [0, xrm, 0, xb, xa, xd, hpred, hneg, hstall, 65] => some (.fsub ⟨BitVec.ofNat 4 hstall, BitVec.ofNat 1 hneg, BitVec.ofNat 3 hpred⟩ (BitVec.ofNat 6 xd) (BitVec.ofNat 6 xa) (BitVec.ofNat 6 xb) (BitVec.ofNat 3 xrm))
  | _ => none
/-- FMUL: opcode 0x42 (R137). -/
def decOp42 (w : Nat) : Option Instr :=
  match unpackBits [24, 3, 3, 6, 6, 6, 3, 1, 4, 8] w with
  | [0, xrm, 0, xb, xa, xd, hpred, hneg, hstall, 66] => some (.fmul ⟨BitVec.ofNat 4 hstall, BitVec.ofNat 1 hneg, BitVec.ofNat 3 hpred⟩ (BitVec.ofNat 6 xd) (BitVec.ofNat 6 xa) (BitVec.ofNat 6 xb) (BitVec.ofNat 3 xrm))
  | _ => none
/-- FFMA: opcode 0x43 (R138). -/
def decOp43 (w : Nat) : Option Instr :=
  match unpackBits [6, 18, 3, 1, 1, 1, 6, 6, 6, 3, 1, 4, 8] w with
  | [xe, 0, xrm, xnegp, xnega, 0, xc, xb, xa, hpred, hneg, hstall, 67] => some (.ffma ⟨BitVec.ofNat 4 hstall, BitVec.ofNat 1 hneg, BitVec.ofNat 3 hpred⟩ (BitVec.ofNat 6 xa) (BitVec.ofNat 6 xb) (BitVec.ofNat 6 xc) (BitVec.ofNat 1 xnega) (BitVec.ofNat 1 xnegp) (BitVec.ofNat 3 xrm) (BitVec.ofNat 6 xe))
  | _ => none
/-- FDIV: opcode 0x44 (R137). -/
def decOp44 (w : Nat) : Option Instr :=
  match unpackBits [24, 3, 3, 6, 6, 6, 3, 1, 4, 8] w with
  | [0, xrm, 0, xb, xa, xd, hpred, hneg, hstall, 68] => some (.fdiv ⟨BitVec.ofNat 4 hstall, BitVec.ofNat 1 hneg, BitVec.ofNat 3 hpred⟩ (BitVec.ofNat 6 xd) (BitVec.ofNat 6 xa) (BitVec.ofNat 6 xb) (BitVec.ofNat 3 xrm))
  | _ => none
/-- FSQRT: opcode 0x45 (R137). -/
def decOp45 (w : Nat) : Option Instr :=
  match unpackBits [24, 3, 9, 6, 6, 3, 1, 4, 8] w with
  | [0, xrm, 0, xa, xd, hpred, hneg, hstall, 69] => some (.fsqrt ⟨BitVec.ofNat 4 hstall, BitVec.ofNat 1 hneg, BitVec.ofNat 3 hpred⟩ (BitVec.ofNat 6 xd) (BitVec.ofNat 6 xa) (BitVec.ofNat 3 xrm))
  | _ => none
/-- FMIN: opcode 0x46 (R139). -/
def decOp46 (w : Nat) : Option Instr :=
  match unpackBits [30, 6, 6, 6, 3, 1, 4, 8] w with
  | [0, xb, xa, xd, hpred, hneg, hstall, 70] => some (.fmin ⟨BitVec.ofNat 4 hstall, BitVec.ofNat 1 hneg, BitVec.ofNat 3 hpred⟩ (BitVec.ofNat 6 xd) (BitVec.ofNat 6 xa) (BitVec.ofNat 6 xb))
  | _ => none
/-- FMAX: opcode 0x47 (R139). -/
def decOp47 (w : Nat) : Option Instr :=
  match unpackBits [30, 6, 6, 6, 3, 1, 4, 8] w with
  | [0, xb, xa, xd, hpred, hneg, hstall, 71] => some (.fmax ⟨BitVec.ofNat 4 hstall, BitVec.ofNat 1 hneg, BitVec.ofNat 3 hpred⟩ (BitVec.ofNat 6 xd) (BitVec.ofNat 6 xa) (BitVec.ofNat 6 xb))
  | _ => none
/-- FSETP: opcode 0x48 (R140). -/
def decOp48 (w : Nat) : Option Instr :=
  match unpackBits [27, 3, 6, 6, 3, 3, 3, 1, 4, 8] w with
  | [0, xcond, xb, xa, xpd, 0, hpred, hneg, hstall, 72] => some (.fsetp ⟨BitVec.ofNat 4 hstall, BitVec.ofNat 1 hneg, BitVec.ofNat 3 hpred⟩ (BitVec.ofNat 3 xpd) (BitVec.ofNat 6 xa) (BitVec.ofNat 6 xb) (BitVec.ofNat 3 xcond))
  | _ => none
/-- FCVT: opcode 0x49 (R142). -/
def decOp49 (w : Nat) : Option Instr :=
  match unpackBits [24, 3, 3, 3, 3, 6, 6, 3, 1, 4, 8] w with
  | [0, xrm, 0, xdf, xsf, xa, xd, hpred, hneg, hstall, 73] => some (.fcvt ⟨BitVec.ofNat 4 hstall, BitVec.ofNat 1 hneg, BitVec.ofNat 3 hpred⟩ (BitVec.ofNat 6 xd) (BitVec.ofNat 6 xa) (BitVec.ofNat 3 xsf) (BitVec.ofNat 3 xdf) (BitVec.ofNat 3 xrm))
  | _ => none
/-- FCVTI: opcode 0x4A (R143). -/
def decOp4A (w : Nat) : Option Instr :=
  match unpackBits [24, 3, 3, 1, 1, 4, 6, 6, 3, 1, 4, 8] w with
  | [0, xrm, 0, xsgn, xw32, 0, xa, xd, hpred, hneg, hstall, 74] => some (.fcvti ⟨BitVec.ofNat 4 hstall, BitVec.ofNat 1 hneg, BitVec.ofNat 3 hpred⟩ (BitVec.ofNat 6 xd) (BitVec.ofNat 6 xa) (BitVec.ofNat 1 xw32) (BitVec.ofNat 1 xsgn) (BitVec.ofNat 3 xrm))
  | _ => none
/-- ICVTF: opcode 0x4B (R143). -/
def decOp4B (w : Nat) : Option Instr :=
  match unpackBits [24, 3, 3, 1, 1, 4, 6, 6, 3, 1, 4, 8] w with
  | [0, xrm, 0, xsgn, xw32, 0, xa, xd, hpred, hneg, hstall, 75] => some (.icvtf ⟨BitVec.ofNat 4 hstall, BitVec.ofNat 1 hneg, BitVec.ofNat 3 hpred⟩ (BitVec.ofNat 6 xd) (BitVec.ofNat 6 xa) (BitVec.ofNat 1 xw32) (BitVec.ofNat 1 xsgn) (BitVec.ofNat 3 xrm))
  | _ => none
/-- FABS: opcode 0x4C (R141). -/
def decOp4C (w : Nat) : Option Instr :=
  match unpackBits [36, 6, 6, 3, 1, 4, 8] w with
  | [0, xa, xd, hpred, hneg, hstall, 76] => some (.fabs ⟨BitVec.ofNat 4 hstall, BitVec.ofNat 1 hneg, BitVec.ofNat 3 hpred⟩ (BitVec.ofNat 6 xd) (BitVec.ofNat 6 xa))
  | _ => none
/-- FNEG: opcode 0x4D (R141). -/
def decOp4D (w : Nat) : Option Instr :=
  match unpackBits [36, 6, 6, 3, 1, 4, 8] w with
  | [0, xa, xd, hpred, hneg, hstall, 77] => some (.fneg ⟨BitVec.ofNat 4 hstall, BitVec.ofNat 1 hneg, BitVec.ofNat 3 hpred⟩ (BitVec.ofNat 6 xd) (BitVec.ofNat 6 xa))
  | _ => none
/-- FCLASS: opcode 0x4E (R141). -/
def decOp4E (w : Nat) : Option Instr :=
  match unpackBits [36, 6, 6, 3, 1, 4, 8] w with
  | [0, xa, xd, hpred, hneg, hstall, 78] => some (.fclass ⟨BitVec.ofNat 4 hstall, BitVec.ofNat 1 hneg, BitVec.ofNat 3 hpred⟩ (BitVec.ofNat 6 xd) (BitVec.ofNat 6 xa))
  | _ => none
/-- FRND: opcode 0x4F (R144). -/
def decOp4F (w : Nat) : Option Instr :=
  match unpackBits [24, 3, 9, 6, 6, 3, 1, 4, 8] w with
  | [0, xrm, 0, xa, xd, hpred, hneg, hstall, 79] => some (.frnd ⟨BitVec.ofNat 4 hstall, BitVec.ofNat 1 hneg, BitVec.ofNat 3 hpred⟩ (BitVec.ofNat 6 xd) (BitVec.ofNat 6 xa) (BitVec.ofNat 3 xrm))
  | _ => none
/-- JMP: opcode 0x50 (R151). -/
def decOp50 (w : Nat) : Option Instr :=
  match unpackBits [48, 4, 4, 8] w with
  | [xoff, 0, xnst, 80] => some (.jmp (BitVec.ofNat 4 xnst) (BitVec.ofNat 48 xoff))
  | _ => none
/-- BR: opcode 0x51 (R151). -/
def decOp51 (w : Nat) : Option Instr :=
  match unpackBits [48, 3, 1, 4, 8] w with
  | [xoff, hpred, hneg, hstall, 81] => some (.br ⟨BitVec.ofNat 4 hstall, BitVec.ofNat 1 hneg, BitVec.ofNat 3 hpred⟩ (BitVec.ofNat 48 xoff))
  | _ => none
/-- CALL: opcode 0x52 (R151). -/
def decOp52 (w : Nat) : Option Instr :=
  match unpackBits [48, 3, 1, 4, 8] w with
  | [xoff, hpred, hneg, hstall, 82] => some (.call ⟨BitVec.ofNat 4 hstall, BitVec.ofNat 1 hneg, BitVec.ofNat 3 hpred⟩ (BitVec.ofNat 48 xoff))
  | _ => none
/-- JR: opcode 0x53 (R152). -/
def decOp53 (w : Nat) : Option Instr :=
  match unpackBits [36, 6, 6, 3, 1, 4, 8] w with
  | [0, xa, 0, hpred, hneg, hstall, 83] => some (.jr ⟨BitVec.ofNat 4 hstall, BitVec.ofNat 1 hneg, BitVec.ofNat 3 hpred⟩ (BitVec.ofNat 6 xa))
  | _ => none
/-- CALLR: opcode 0x54 (R152). -/
def decOp54 (w : Nat) : Option Instr :=
  match unpackBits [36, 6, 6, 3, 1, 4, 8] w with
  | [0, xa, 0, hpred, hneg, hstall, 84] => some (.callr ⟨BitVec.ofNat 4 hstall, BitVec.ofNat 1 hneg, BitVec.ofNat 3 hpred⟩ (BitVec.ofNat 6 xa))
  | _ => none
/-- RET: opcode 0x55 (R152). -/
def decOp55 (w : Nat) : Option Instr :=
  match unpackBits [48, 3, 1, 4, 8] w with
  | [0, hpred, hneg, hstall, 85] => some (.ret ⟨BitVec.ofNat 4 hstall, BitVec.ofNat 1 hneg, BitVec.ofNat 3 hpred⟩)
  | _ => none
/-- LOOP: opcode 0x56 (R151). -/
def decOp56 (w : Nat) : Option Instr :=
  match unpackBits [30, 12, 6, 3, 1, 4, 8] w with
  | [xoff, 0, xa, hpred, hneg, hstall, 86] => some (.loop ⟨BitVec.ofNat 4 hstall, BitVec.ofNat 1 hneg, BitVec.ofNat 3 hpred⟩ (BitVec.ofNat 6 xa) (BitVec.ofNat 30 xoff))
  | _ => none
/-- BRSYM_RES, BRSYM_POI, BRSYM_PEND: opcode 0x57 (R207, R208). -/
def decOp57 (w : Nat) : Option Instr :=
  match unpackBits [30, 12, 6, 3, 1, 4, 8] w with
  | [xoff, 0, xa, hpred, hneg, hstall, 87] => some (.brsymRes ⟨BitVec.ofNat 4 hstall, BitVec.ofNat 1 hneg, BitVec.ofNat 3 hpred⟩ (BitVec.ofNat 6 xa) (BitVec.ofNat 30 xoff))
  | [xoff, 64, xa, hpred, hneg, hstall, 87] => some (.brsymPoi ⟨BitVec.ofNat 4 hstall, BitVec.ofNat 1 hneg, BitVec.ofNat 3 hpred⟩ (BitVec.ofNat 6 xa) (BitVec.ofNat 30 xoff))
  | [xoff, 128, xa, hpred, hneg, hstall, 87] => some (.brsymPend ⟨BitVec.ofNat 4 hstall, BitVec.ofNat 1 hneg, BitVec.ofNat 3 hpred⟩ (BitVec.ofNat 6 xa) (BitVec.ofNat 30 xoff))
  | _ => none
/-- BRI: opcode 0x58 (R153). -/
def decOp58 (w : Nat) : Option Instr :=
  match unpackBits [30, 6, 6, 6, 3, 1, 4, 8] w with
  | [0, xb, xa, xd, hpred, hneg, hstall, 88] => some (.bri ⟨BitVec.ofNat 4 hstall, BitVec.ofNat 1 hneg, BitVec.ofNat 3 hpred⟩ (BitVec.ofNat 6 xd) (BitVec.ofNat 6 xa) (BitVec.ofNat 6 xb))
  | _ => none
/-- FRAME: opcode 0x59 (R154). -/
def decOp59 (w : Nat) : Option Instr :=
  match unpackBits [4, 32, 6, 1, 5, 3, 1, 4, 8] w with
  | [0, ximm, 0, xl, 0, hpred, hneg, hstall, 89] => some (.frame ⟨BitVec.ofNat 4 hstall, BitVec.ofNat 1 hneg, BitVec.ofNat 3 hpred⟩ (BitVec.ofNat 1 xl) (BitVec.ofNat 32 ximm))
  | _ => none
/-- BRZ: opcode 0x5A (R151). -/
def decOp5A (w : Nat) : Option Instr :=
  match unpackBits [30, 12, 6, 3, 1, 4, 8] w with
  | [xoff, 0, xa, hpred, hneg, hstall, 90] => some (.brz ⟨BitVec.ofNat 4 hstall, BitVec.ofNat 1 hneg, BitVec.ofNat 3 hpred⟩ (BitVec.ofNat 6 xa) (BitVec.ofNat 30 xoff))
  | _ => none
/-- BRNZ: opcode 0x5B (R151). -/
def decOp5B (w : Nat) : Option Instr :=
  match unpackBits [30, 12, 6, 3, 1, 4, 8] w with
  | [xoff, 0, xa, hpred, hneg, hstall, 91] => some (.brnz ⟨BitVec.ofNat 4 hstall, BitVec.ofNat 1 hneg, BitVec.ofNat 3 hpred⟩ (BitVec.ofNat 6 xa) (BitVec.ofNat 30 xoff))
  | _ => none
/-- CBR: opcode 0x5C (R151). -/
def decOp5C (w : Nat) : Option Instr :=
  match unpackBits [30, 6, 6, 6, 3, 1, 4, 8] w with
  | [xoff, xcond, xb, xa, hpred, hneg, hstall, 92] => some (.cbr ⟨BitVec.ofNat 4 hstall, BitVec.ofNat 1 hneg, BitVec.ofNat 3 hpred⟩ (BitVec.ofNat 6 xa) (BitVec.ofNat 6 xb) (BitVec.ofNat 6 xcond) (BitVec.ofNat 30 xoff))
  | _ => none
/-- CBRI: opcode 0x5D (R151). -/
def decOp5D (w : Nat) : Option Instr :=
  match unpackBits [30, 6, 6, 6, 3, 1, 4, 8] w with
  | [xoff, xcond, xi6, xa, hpred, hneg, hstall, 93] => some (.cbri ⟨BitVec.ofNat 4 hstall, BitVec.ofNat 1 hneg, BitVec.ofNat 3 hpred⟩ (BitVec.ofNat 6 xa) (BitVec.ofNat 6 xi6) (BitVec.ofNat 6 xcond) (BitVec.ofNat 30 xoff))
  | _ => none
/-- EXIT: opcode 0x5E (R417). -/
def decOp5E (w : Nat) : Option Instr :=
  match unpackBits [48, 3, 1, 4, 8] w with
  | [0, hpred, hneg, hstall, 94] => some (.exit ⟨BitVec.ofNat 4 hstall, BitVec.ofNat 1 hneg, BitVec.ofNat 3 hpred⟩)
  | _ => none
/-- NEXTI: opcode 0x5F (R418). -/
def decOp5F (w : Nat) : Option Instr :=
  match unpackBits [42, 6, 3, 1, 4, 8] w with
  | [0, xd, hpred, hneg, hstall, 95] => some (.nexti ⟨BitVec.ofNat 4 hstall, BitVec.ofNat 1 hneg, BitVec.ofNat 3 hpred⟩ (BitVec.ofNat 6 xd))
  | _ => none
/-- LD: opcode 0x60 (R157). -/
def decOp60 (w : Nat) : Option Instr :=
  match unpackBits [24, 6, 3, 2, 1, 6, 6, 3, 1, 4, 8] w with
  | [xdisp, xindex, 0, xsize, 0, xbase, xt, hpred, hneg, hstall, 96] => some (.ld ⟨BitVec.ofNat 4 hstall, BitVec.ofNat 1 hneg, BitVec.ofNat 3 hpred⟩ (BitVec.ofNat 6 xt) (BitVec.ofNat 6 xbase) (BitVec.ofNat 2 xsize) (BitVec.ofNat 6 xindex) (BitVec.ofNat 24 xdisp))
  | _ => none
/-- LDS: opcode 0x61 (R157). -/
def decOp61 (w : Nat) : Option Instr :=
  match unpackBits [24, 6, 3, 2, 1, 6, 6, 3, 1, 4, 8] w with
  | [xdisp, xindex, 0, xsize, 0, xbase, xt, hpred, hneg, hstall, 97] => some (.lds ⟨BitVec.ofNat 4 hstall, BitVec.ofNat 1 hneg, BitVec.ofNat 3 hpred⟩ (BitVec.ofNat 6 xt) (BitVec.ofNat 6 xbase) (BitVec.ofNat 2 xsize) (BitVec.ofNat 6 xindex) (BitVec.ofNat 24 xdisp))
  | _ => none
/-- ST: opcode 0x62 (R157). -/
def decOp62 (w : Nat) : Option Instr :=
  match unpackBits [24, 6, 3, 2, 1, 6, 6, 3, 1, 4, 8] w with
  | [xdisp, xindex, 0, xsize, 0, xbase, xt, hpred, hneg, hstall, 98] => some (.st ⟨BitVec.ofNat 4 hstall, BitVec.ofNat 1 hneg, BitVec.ofNat 3 hpred⟩ (BitVec.ofNat 6 xt) (BitVec.ofNat 6 xbase) (BitVec.ofNat 2 xsize) (BitVec.ofNat 6 xindex) (BitVec.ofNat 24 xdisp))
  | _ => none
/-- LDL: opcode 0x63 (R204, R208). -/
def decOp63 (w : Nat) : Option Instr :=
  match unpackBits [24, 6, 3, 2, 1, 6, 6, 3, 1, 4, 8] w with
  | [xdisp, xindex, 0, xsize, 0, xbase, xt, hpred, hneg, hstall, 99] => some (.ldl ⟨BitVec.ofNat 4 hstall, BitVec.ofNat 1 hneg, BitVec.ofNat 3 hpred⟩ (BitVec.ofNat 6 xt) (BitVec.ofNat 6 xbase) (BitVec.ofNat 2 xsize) (BitVec.ofNat 6 xindex) (BitVec.ofNat 24 xdisp))
  | _ => none
/-- LDA: opcode 0x64 (R157). -/
def decOp64 (w : Nat) : Option Instr :=
  match unpackBits [24, 6, 3, 2, 1, 6, 6, 3, 1, 4, 8] w with
  | [xdisp, xindex, xsc, xsize, 0, xbase, xt, hpred, hneg, hstall, 100] => some (.lda ⟨BitVec.ofNat 4 hstall, BitVec.ofNat 1 hneg, BitVec.ofNat 3 hpred⟩ (BitVec.ofNat 6 xt) (BitVec.ofNat 6 xbase) (BitVec.ofNat 2 xsize) (BitVec.ofNat 3 xsc) (BitVec.ofNat 6 xindex) (BitVec.ofNat 24 xdisp))
  | _ => none
/-- STL: opcode 0x65 (R157). -/
def decOp65 (w : Nat) : Option Instr :=
  match unpackBits [24, 6, 3, 2, 1, 6, 6, 3, 1, 4, 8] w with
  | [xdisp, xindex, xsc, xsize, 0, xbase, xt, hpred, hneg, hstall, 101] => some (.stl ⟨BitVec.ofNat 4 hstall, BitVec.ofNat 1 hneg, BitVec.ofNat 3 hpred⟩ (BitVec.ofNat 6 xt) (BitVec.ofNat 6 xbase) (BitVec.ofNat 2 xsize) (BitVec.ofNat 3 xsc) (BitVec.ofNat 6 xindex) (BitVec.ofNat 24 xdisp))
  | _ => none
/-- AMO_ADD, AMO_AND, AMO_OR, AMO_XOR, AMO_SWAP, AMO_MIN, AMO_MAX, AMO_MINU, AMO_MAXU, AMO_MAXRST: opcode 0x66 (R162). -/
def decOp66 (w : Nat) : Option Instr :=
  match unpackBits [3, 2, 1, 1, 23, 6, 6, 6, 3, 1, 4, 8] w with
  | [xsc, xsize, xacq, xrel, 0, xc, xb, xa, hpred, hneg, hstall, 102] => some (.amoAdd ⟨BitVec.ofNat 4 hstall, BitVec.ofNat 1 hneg, BitVec.ofNat 3 hpred⟩ (BitVec.ofNat 6 xa) (BitVec.ofNat 6 xb) (BitVec.ofNat 6 xc) (BitVec.ofNat 1 xrel) (BitVec.ofNat 1 xacq) (BitVec.ofNat 2 xsize) (BitVec.ofNat 3 xsc))
  | [xsc, xsize, xacq, xrel, 131072, xc, xb, xa, hpred, hneg, hstall, 102] => some (.amoAnd ⟨BitVec.ofNat 4 hstall, BitVec.ofNat 1 hneg, BitVec.ofNat 3 hpred⟩ (BitVec.ofNat 6 xa) (BitVec.ofNat 6 xb) (BitVec.ofNat 6 xc) (BitVec.ofNat 1 xrel) (BitVec.ofNat 1 xacq) (BitVec.ofNat 2 xsize) (BitVec.ofNat 3 xsc))
  | [xsc, xsize, xacq, xrel, 262144, xc, xb, xa, hpred, hneg, hstall, 102] => some (.amoOr ⟨BitVec.ofNat 4 hstall, BitVec.ofNat 1 hneg, BitVec.ofNat 3 hpred⟩ (BitVec.ofNat 6 xa) (BitVec.ofNat 6 xb) (BitVec.ofNat 6 xc) (BitVec.ofNat 1 xrel) (BitVec.ofNat 1 xacq) (BitVec.ofNat 2 xsize) (BitVec.ofNat 3 xsc))
  | [xsc, xsize, xacq, xrel, 393216, xc, xb, xa, hpred, hneg, hstall, 102] => some (.amoXor ⟨BitVec.ofNat 4 hstall, BitVec.ofNat 1 hneg, BitVec.ofNat 3 hpred⟩ (BitVec.ofNat 6 xa) (BitVec.ofNat 6 xb) (BitVec.ofNat 6 xc) (BitVec.ofNat 1 xrel) (BitVec.ofNat 1 xacq) (BitVec.ofNat 2 xsize) (BitVec.ofNat 3 xsc))
  | [xsc, xsize, xacq, xrel, 524288, xc, xb, xa, hpred, hneg, hstall, 102] => some (.amoSwap ⟨BitVec.ofNat 4 hstall, BitVec.ofNat 1 hneg, BitVec.ofNat 3 hpred⟩ (BitVec.ofNat 6 xa) (BitVec.ofNat 6 xb) (BitVec.ofNat 6 xc) (BitVec.ofNat 1 xrel) (BitVec.ofNat 1 xacq) (BitVec.ofNat 2 xsize) (BitVec.ofNat 3 xsc))
  | [xsc, xsize, xacq, xrel, 655360, xc, xb, xa, hpred, hneg, hstall, 102] => some (.amoMin ⟨BitVec.ofNat 4 hstall, BitVec.ofNat 1 hneg, BitVec.ofNat 3 hpred⟩ (BitVec.ofNat 6 xa) (BitVec.ofNat 6 xb) (BitVec.ofNat 6 xc) (BitVec.ofNat 1 xrel) (BitVec.ofNat 1 xacq) (BitVec.ofNat 2 xsize) (BitVec.ofNat 3 xsc))
  | [xsc, xsize, xacq, xrel, 786432, xc, xb, xa, hpred, hneg, hstall, 102] => some (.amoMax ⟨BitVec.ofNat 4 hstall, BitVec.ofNat 1 hneg, BitVec.ofNat 3 hpred⟩ (BitVec.ofNat 6 xa) (BitVec.ofNat 6 xb) (BitVec.ofNat 6 xc) (BitVec.ofNat 1 xrel) (BitVec.ofNat 1 xacq) (BitVec.ofNat 2 xsize) (BitVec.ofNat 3 xsc))
  | [xsc, xsize, xacq, xrel, 917504, xc, xb, xa, hpred, hneg, hstall, 102] => some (.amoMinu ⟨BitVec.ofNat 4 hstall, BitVec.ofNat 1 hneg, BitVec.ofNat 3 hpred⟩ (BitVec.ofNat 6 xa) (BitVec.ofNat 6 xb) (BitVec.ofNat 6 xc) (BitVec.ofNat 1 xrel) (BitVec.ofNat 1 xacq) (BitVec.ofNat 2 xsize) (BitVec.ofNat 3 xsc))
  | [xsc, xsize, xacq, xrel, 1048576, xc, xb, xa, hpred, hneg, hstall, 102] => some (.amoMaxu ⟨BitVec.ofNat 4 hstall, BitVec.ofNat 1 hneg, BitVec.ofNat 3 hpred⟩ (BitVec.ofNat 6 xa) (BitVec.ofNat 6 xb) (BitVec.ofNat 6 xc) (BitVec.ofNat 1 xrel) (BitVec.ofNat 1 xacq) (BitVec.ofNat 2 xsize) (BitVec.ofNat 3 xsc))
  | [xsc, xsize, xacq, xrel, 1179648, 0, xb, xa, hpred, hneg, hstall, 102] => some (.amoMaxrst ⟨BitVec.ofNat 4 hstall, BitVec.ofNat 1 hneg, BitVec.ofNat 3 hpred⟩ (BitVec.ofNat 6 xa) (BitVec.ofNat 6 xb) (BitVec.ofNat 1 xrel) (BitVec.ofNat 1 xacq) (BitVec.ofNat 2 xsize) (BitVec.ofNat 3 xsc))
  | _ => none
/-- CAS: opcode 0x67 (R163). -/
def decOp67 (w : Nat) : Option Instr :=
  match unpackBits [3, 2, 1, 1, 17, 6, 6, 6, 6, 3, 1, 4, 8] w with
  | [xsc, xsize, xacq, xrel, 0, xn, xc, xb, xa, hpred, hneg, hstall, 103] => some (.cas ⟨BitVec.ofNat 4 hstall, BitVec.ofNat 1 hneg, BitVec.ofNat 3 hpred⟩ (BitVec.ofNat 6 xa) (BitVec.ofNat 6 xb) (BitVec.ofNat 6 xc) (BitVec.ofNat 6 xn) (BitVec.ofNat 1 xrel) (BitVec.ofNat 1 xacq) (BitVec.ofNat 2 xsize) (BitVec.ofNat 3 xsc))
  | _ => none
/-- AMOL_ADD, AMOL_AND, AMOL_OR, AMOL_XOR, AMOL_SWAP, AMOL_MIN, AMOL_MAX, AMOL_MINU, AMOL_MAXU, AMOL_MAXRST: opcode 0x68 (R205, R208). -/
def decOp68 (w : Nat) : Option Instr :=
  match unpackBits [3, 2, 1, 1, 23, 6, 6, 6, 3, 1, 4, 8] w with
  | [xsc, xsize, xacq, xrel, 0, xc, xb, xa, hpred, hneg, hstall, 104] => some (.amolAdd ⟨BitVec.ofNat 4 hstall, BitVec.ofNat 1 hneg, BitVec.ofNat 3 hpred⟩ (BitVec.ofNat 6 xa) (BitVec.ofNat 6 xb) (BitVec.ofNat 6 xc) (BitVec.ofNat 1 xrel) (BitVec.ofNat 1 xacq) (BitVec.ofNat 2 xsize) (BitVec.ofNat 3 xsc))
  | [xsc, xsize, xacq, xrel, 131072, xc, xb, xa, hpred, hneg, hstall, 104] => some (.amolAnd ⟨BitVec.ofNat 4 hstall, BitVec.ofNat 1 hneg, BitVec.ofNat 3 hpred⟩ (BitVec.ofNat 6 xa) (BitVec.ofNat 6 xb) (BitVec.ofNat 6 xc) (BitVec.ofNat 1 xrel) (BitVec.ofNat 1 xacq) (BitVec.ofNat 2 xsize) (BitVec.ofNat 3 xsc))
  | [xsc, xsize, xacq, xrel, 262144, xc, xb, xa, hpred, hneg, hstall, 104] => some (.amolOr ⟨BitVec.ofNat 4 hstall, BitVec.ofNat 1 hneg, BitVec.ofNat 3 hpred⟩ (BitVec.ofNat 6 xa) (BitVec.ofNat 6 xb) (BitVec.ofNat 6 xc) (BitVec.ofNat 1 xrel) (BitVec.ofNat 1 xacq) (BitVec.ofNat 2 xsize) (BitVec.ofNat 3 xsc))
  | [xsc, xsize, xacq, xrel, 393216, xc, xb, xa, hpred, hneg, hstall, 104] => some (.amolXor ⟨BitVec.ofNat 4 hstall, BitVec.ofNat 1 hneg, BitVec.ofNat 3 hpred⟩ (BitVec.ofNat 6 xa) (BitVec.ofNat 6 xb) (BitVec.ofNat 6 xc) (BitVec.ofNat 1 xrel) (BitVec.ofNat 1 xacq) (BitVec.ofNat 2 xsize) (BitVec.ofNat 3 xsc))
  | [xsc, xsize, xacq, xrel, 524288, xc, xb, xa, hpred, hneg, hstall, 104] => some (.amolSwap ⟨BitVec.ofNat 4 hstall, BitVec.ofNat 1 hneg, BitVec.ofNat 3 hpred⟩ (BitVec.ofNat 6 xa) (BitVec.ofNat 6 xb) (BitVec.ofNat 6 xc) (BitVec.ofNat 1 xrel) (BitVec.ofNat 1 xacq) (BitVec.ofNat 2 xsize) (BitVec.ofNat 3 xsc))
  | [xsc, xsize, xacq, xrel, 655360, xc, xb, xa, hpred, hneg, hstall, 104] => some (.amolMin ⟨BitVec.ofNat 4 hstall, BitVec.ofNat 1 hneg, BitVec.ofNat 3 hpred⟩ (BitVec.ofNat 6 xa) (BitVec.ofNat 6 xb) (BitVec.ofNat 6 xc) (BitVec.ofNat 1 xrel) (BitVec.ofNat 1 xacq) (BitVec.ofNat 2 xsize) (BitVec.ofNat 3 xsc))
  | [xsc, xsize, xacq, xrel, 786432, xc, xb, xa, hpred, hneg, hstall, 104] => some (.amolMax ⟨BitVec.ofNat 4 hstall, BitVec.ofNat 1 hneg, BitVec.ofNat 3 hpred⟩ (BitVec.ofNat 6 xa) (BitVec.ofNat 6 xb) (BitVec.ofNat 6 xc) (BitVec.ofNat 1 xrel) (BitVec.ofNat 1 xacq) (BitVec.ofNat 2 xsize) (BitVec.ofNat 3 xsc))
  | [xsc, xsize, xacq, xrel, 917504, xc, xb, xa, hpred, hneg, hstall, 104] => some (.amolMinu ⟨BitVec.ofNat 4 hstall, BitVec.ofNat 1 hneg, BitVec.ofNat 3 hpred⟩ (BitVec.ofNat 6 xa) (BitVec.ofNat 6 xb) (BitVec.ofNat 6 xc) (BitVec.ofNat 1 xrel) (BitVec.ofNat 1 xacq) (BitVec.ofNat 2 xsize) (BitVec.ofNat 3 xsc))
  | [xsc, xsize, xacq, xrel, 1048576, xc, xb, xa, hpred, hneg, hstall, 104] => some (.amolMaxu ⟨BitVec.ofNat 4 hstall, BitVec.ofNat 1 hneg, BitVec.ofNat 3 hpred⟩ (BitVec.ofNat 6 xa) (BitVec.ofNat 6 xb) (BitVec.ofNat 6 xc) (BitVec.ofNat 1 xrel) (BitVec.ofNat 1 xacq) (BitVec.ofNat 2 xsize) (BitVec.ofNat 3 xsc))
  | [xsc, xsize, xacq, xrel, 1179648, 0, xb, xa, hpred, hneg, hstall, 104] => some (.amolMaxrst ⟨BitVec.ofNat 4 hstall, BitVec.ofNat 1 hneg, BitVec.ofNat 3 hpred⟩ (BitVec.ofNat 6 xa) (BitVec.ofNat 6 xb) (BitVec.ofNat 1 xrel) (BitVec.ofNat 1 xacq) (BitVec.ofNat 2 xsize) (BitVec.ofNat 3 xsc))
  | _ => none
/-- PREF: opcode 0x69 (R160). -/
def decOp69 (w : Nat) : Option Instr :=
  match unpackBits [24, 6, 6, 6, 1, 5, 3, 1, 4, 8] w with
  | [xdisp, xindex, 0, xbase, xlvl, 0, hpred, hneg, hstall, 105] => some (.pref ⟨BitVec.ofNat 4 hstall, BitVec.ofNat 1 hneg, BitVec.ofNat 3 hpred⟩ (BitVec.ofNat 1 xlvl) (BitVec.ofNat 6 xbase) (BitVec.ofNat 6 xindex) (BitVec.ofNat 24 xdisp))
  | _ => none
/-- LDX: opcode 0x6A (R157). -/
def decOp6A (w : Nat) : Option Instr :=
  match unpackBits [24, 6, 3, 2, 1, 6, 6, 3, 1, 4, 8] w with
  | [xdisp, xindex, 0, xsize, 0, xbase, xt, hpred, hneg, hstall, 106] => some (.ldx ⟨BitVec.ofNat 4 hstall, BitVec.ofNat 1 hneg, BitVec.ofNat 3 hpred⟩ (BitVec.ofNat 6 xt) (BitVec.ofNat 6 xbase) (BitVec.ofNat 2 xsize) (BitVec.ofNat 6 xindex) (BitVec.ofNat 24 xdisp))
  | _ => none
/-- STX: opcode 0x6B (R157). -/
def decOp6B (w : Nat) : Option Instr :=
  match unpackBits [24, 6, 3, 2, 1, 6, 6, 3, 1, 4, 8] w with
  | [xdisp, xindex, 0, xsize, 0, xbase, xt, hpred, hneg, hstall, 107] => some (.stx ⟨BitVec.ofNat 4 hstall, BitVec.ofNat 1 hneg, BitVec.ofNat 3 hpred⟩ (BitVec.ofNat 6 xt) (BitVec.ofNat 6 xbase) (BitVec.ofNat 2 xsize) (BitVec.ofNat 6 xindex) (BitVec.ofNat 24 xdisp))
  | _ => none
/-- LDP: opcode 0x6C (R159). -/
def decOp6C (w : Nat) : Option Instr :=
  match unpackBits [24, 6, 6, 6, 6, 3, 1, 4, 8] w with
  | [xdisp, xindex, 32, xbase, xt, hpred, hneg, hstall, 108] => some (.ldp ⟨BitVec.ofNat 4 hstall, BitVec.ofNat 1 hneg, BitVec.ofNat 3 hpred⟩ (BitVec.ofNat 6 xt) (BitVec.ofNat 6 xbase) (BitVec.ofNat 6 xindex) (BitVec.ofNat 24 xdisp))
  | _ => none
/-- STP: opcode 0x6D (R159). -/
def decOp6D (w : Nat) : Option Instr :=
  match unpackBits [24, 6, 6, 6, 6, 3, 1, 4, 8] w with
  | [xdisp, xindex, 32, xbase, xt, hpred, hneg, hstall, 109] => some (.stp ⟨BitVec.ofNat 4 hstall, BitVec.ofNat 1 hneg, BitVec.ofNat 3 hpred⟩ (BitVec.ofNat 6 xt) (BitVec.ofNat 6 xbase) (BitVec.ofNat 6 xindex) (BitVec.ofNat 24 xdisp))
  | _ => none
/-- BAR_INIT, BAR_EXPECT, BAR_ARRIVE, BAR_ARRIVEB, BAR_WAIT, BAR_TEST: opcode 0x6E (R168). -/
def decOp6E (w : Nat) : Option Instr :=
  match unpackBits [3, 27, 6, 6, 6, 3, 1, 4, 8] w with
  | [xsc, 0, xc, xb, xa, hpred, hneg, hstall, 110] => some (.barInit ⟨BitVec.ofNat 4 hstall, BitVec.ofNat 1 hneg, BitVec.ofNat 3 hpred⟩ (BitVec.ofNat 6 xa) (BitVec.ofNat 6 xb) (BitVec.ofNat 6 xc) (BitVec.ofNat 3 xsc))
  | [xsc, 2097152, xc, xb, xa, hpred, hneg, hstall, 110] => some (.barExpect ⟨BitVec.ofNat 4 hstall, BitVec.ofNat 1 hneg, BitVec.ofNat 3 hpred⟩ (BitVec.ofNat 6 xa) (BitVec.ofNat 6 xb) (BitVec.ofNat 6 xc) (BitVec.ofNat 3 xsc))
  | [xsc, 4194304, 0, xb, xa, hpred, hneg, hstall, 110] => some (.barArrive ⟨BitVec.ofNat 4 hstall, BitVec.ofNat 1 hneg, BitVec.ofNat 3 hpred⟩ (BitVec.ofNat 6 xa) (BitVec.ofNat 6 xb) (BitVec.ofNat 3 xsc))
  | [xsc, 6291456, xc, xb, xa, hpred, hneg, hstall, 110] => some (.barArriveb ⟨BitVec.ofNat 4 hstall, BitVec.ofNat 1 hneg, BitVec.ofNat 3 hpred⟩ (BitVec.ofNat 6 xa) (BitVec.ofNat 6 xb) (BitVec.ofNat 6 xc) (BitVec.ofNat 3 xsc))
  | [xsc, 8388608, xc, xb, xa, hpred, hneg, hstall, 110] => some (.barWait ⟨BitVec.ofNat 4 hstall, BitVec.ofNat 1 hneg, BitVec.ofNat 3 hpred⟩ (BitVec.ofNat 6 xa) (BitVec.ofNat 6 xb) (BitVec.ofNat 6 xc) (BitVec.ofNat 3 xsc))
  | [xsc, 10485760, xc, xb, xa, hpred, hneg, hstall, 110] => some (.barTest ⟨BitVec.ofNat 4 hstall, BitVec.ofNat 1 hneg, BitVec.ofNat 3 hpred⟩ (BitVec.ofNat 6 xa) (BitVec.ofNat 6 xb) (BitVec.ofNat 6 xc) (BitVec.ofNat 3 xsc))
  | _ => none
/-- OWN: opcode 0x6F (R166). -/
def decOp6F (w : Nat) : Option Instr :=
  match unpackBits [24, 1, 11, 6, 6, 3, 1, 4, 8] w with
  | [0, xow, 0, xb, xa, hpred, hneg, hstall, 111] => some (.own ⟨BitVec.ofNat 4 hstall, BitVec.ofNat 1 hneg, BitVec.ofNat 3 hpred⟩ (BitVec.ofNat 6 xa) (BitVec.ofNat 6 xb) (BitVec.ofNat 1 xow))
  | _ => none
/-- FENCE: opcode 0x70 (R164). -/
def decOp70 (w : Nat) : Option Instr :=
  match unpackBits [3, 21, 3, 21, 3, 1, 4, 8] w with
  | [xsc, 0, xkinds, 0, hpred, hneg, hstall, 112] => some (.fence ⟨BitVec.ofNat 4 hstall, BitVec.ofNat 1 hneg, BitVec.ofNat 3 hpred⟩ (BitVec.ofNat 3 xkinds) (BitVec.ofNat 3 xsc))
  | _ => none
/-- FSA: opcode 0x71 (R165). -/
def decOp71 (w : Nat) : Option Instr :=
  match unpackBits [24, 3, 21, 3, 1, 4, 8] w with
  | [0, xsc, 0, hpred, hneg, hstall, 113] => some (.fsa ⟨BitVec.ofNat 4 hstall, BitVec.ofNat 1 hneg, BitVec.ofNat 3 hpred⟩ (BitVec.ofNat 3 xsc))
  | _ => none
/-- FAS: opcode 0x72 (R165). -/
def decOp72 (w : Nat) : Option Instr :=
  match unpackBits [24, 3, 21, 3, 1, 4, 8] w with
  | [0, xsc, 0, hpred, hneg, hstall, 114] => some (.fas ⟨BitVec.ofNat 4 hstall, BitVec.ofNat 1 hneg, BitVec.ofNat 3 hpred⟩ (BitVec.ofNat 3 xsc))
  | _ => none
/-- FAA: opcode 0x73 (R165). -/
def decOp73 (w : Nat) : Option Instr :=
  match unpackBits [24, 3, 21, 3, 1, 4, 8] w with
  | [0, xsc, 0, hpred, hneg, hstall, 115] => some (.faa ⟨BitVec.ofNat 4 hstall, BitVec.ofNat 1 hneg, BitVec.ofNat 3 hpred⟩ (BitVec.ofNat 3 xsc))
  | _ => none
/-- SYMW: opcode 0x74 (R206, R208). -/
def decOp74 (w : Nat) : Option Instr :=
  match unpackBits [36, 6, 6, 3, 1, 4, 8] w with
  | [0, xa, 0, hpred, hneg, hstall, 116] => some (.symw ⟨BitVec.ofNat 4 hstall, BitVec.ofNat 1 hneg, BitVec.ofNat 3 hpred⟩ (BitVec.ofNat 6 xa))
  | _ => none
/-- SYMQ, SYMQ_POI: opcode 0x75 (R206, R208). -/
def decOp75 (w : Nat) : Option Instr :=
  match unpackBits [36, 6, 3, 3, 3, 1, 4, 8] w with
  | [0, xa, xpd, 0, hpred, hneg, hstall, 117] => some (.symq ⟨BitVec.ofNat 4 hstall, BitVec.ofNat 1 hneg, BitVec.ofNat 3 hpred⟩ (BitVec.ofNat 3 xpd) (BitVec.ofNat 6 xa))
  | [16777216, xa, xpd, 0, hpred, hneg, hstall, 117] => some (.symqPoi ⟨BitVec.ofNat 4 hstall, BitVec.ofNat 1 hneg, BitVec.ofNat 3 hpred⟩ (BitVec.ofNat 3 xpd) (BitVec.ofNat 6 xa))
  | _ => none
/-- SYMX: opcode 0x76 (R206, R208). -/
def decOp76 (w : Nat) : Option Instr :=
  match unpackBits [30, 6, 6, 6, 3, 1, 4, 8] w with
  | [0, xb, xa, xd, hpred, hneg, hstall, 118] => some (.symx ⟨BitVec.ofNat 4 hstall, BitVec.ofNat 1 hneg, BitVec.ofNat 3 hpred⟩ (BitVec.ofNat 6 xd) (BitVec.ofNat 6 xa) (BitVec.ofNat 6 xb))
  | _ => none
/-- WMPUB, WMPUB_GEN: opcode 0x77 (R171). -/
def decOp77 (w : Nat) : Option Instr :=
  match unpackBits [30, 6, 6, 6, 3, 1, 4, 8] w with
  | [0, xc, xb, 0, hpred, hneg, hstall, 119] => some (.wmpub ⟨BitVec.ofNat 4 hstall, BitVec.ofNat 1 hneg, BitVec.ofNat 3 hpred⟩ (BitVec.ofNat 6 xb) (BitVec.ofNat 6 xc))
  | [16777216, xc, xb, 0, hpred, hneg, hstall, 119] => some (.wmpubGen ⟨BitVec.ofNat 4 hstall, BitVec.ofNat 1 hneg, BitVec.ofNat 3 hpred⟩ (BitVec.ofNat 6 xb) (BitVec.ofNat 6 xc))
  | _ => none
/-- WMSET: opcode 0x78 (R172). -/
def decOp78 (w : Nat) : Option Instr :=
  match unpackBits [2, 28, 6, 6, 6, 3, 1, 4, 8] w with
  | [xk, 0, xc, xb, xa, hpred, hneg, hstall, 120] => some (.wmset ⟨BitVec.ofNat 4 hstall, BitVec.ofNat 1 hneg, BitVec.ofNat 3 hpred⟩ (BitVec.ofNat 6 xa) (BitVec.ofNat 6 xb) (BitVec.ofNat 6 xc) (BitVec.ofNat 2 xk))
  | _ => none
/-- QWAIT: opcode 0x79 (R174). -/
def decOp79 (w : Nat) : Option Instr :=
  match unpackBits [30, 6, 6, 6, 3, 1, 4, 8] w with
  | [0, xc, xb, xa, hpred, hneg, hstall, 121] => some (.qwait ⟨BitVec.ofNat 4 hstall, BitVec.ofNat 1 hneg, BitVec.ofNat 3 hpred⟩ (BitVec.ofNat 6 xa) (BitVec.ofNat 6 xb) (BitVec.ofNat 6 xc))
  | _ => none
/-- QTAKE: opcode 0x7A (R175). -/
def decOp7A (w : Nat) : Option Instr :=
  match unpackBits [30, 6, 6, 6, 3, 1, 4, 8] w with
  | [0, xc, xb, xa, hpred, hneg, hstall, 122] => some (.qtake ⟨BitVec.ofNat 4 hstall, BitVec.ofNat 1 hneg, BitVec.ofNat 3 hpred⟩ (BitVec.ofNat 6 xa) (BitVec.ofNat 6 xb) (BitVec.ofNat 6 xc))
  | _ => none
/-- LAUNCH: opcode 0x7B (R411). -/
def decOp7B (w : Nat) : Option Instr :=
  match unpackBits [30, 6, 6, 6, 3, 1, 4, 8] w with
  | [0, xb, xa, xd, hpred, hneg, hstall, 123] => some (.launch ⟨BitVec.ofNat 4 hstall, BitVec.ofNat 1 hneg, BitVec.ofNat 3 hpred⟩ (BitVec.ofNat 6 xd) (BitVec.ofNat 6 xa) (BitVec.ofNat 6 xb))
  | _ => none
/-- LWAIT, LWAIT_TEST: opcode 0x7C (R414). -/
def decOp7C (w : Nat) : Option Instr :=
  match unpackBits [36, 6, 6, 3, 1, 4, 8] w with
  | [0, xa, xd, hpred, hneg, hstall, 124] => some (.lwait ⟨BitVec.ofNat 4 hstall, BitVec.ofNat 1 hneg, BitVec.ofNat 3 hpred⟩ (BitVec.ofNat 6 xd) (BitVec.ofNat 6 xa))
  | [16777216, xa, xd, hpred, hneg, hstall, 124] => some (.lwaitTest ⟨BitVec.ofNat 4 hstall, BitVec.ofNat 1 hneg, BitVec.ofNat 3 hpred⟩ (BitVec.ofNat 6 xd) (BitVec.ofNat 6 xa))
  | _ => none
/-- PRIO_GET, PRIO_SET, PRIO_PEND, PRIO_CEIL, PRIO_WAKE, PRIO_KILL: opcode 0x7D (R422). -/
def decOp7D (w : Nat) : Option Instr :=
  match unpackBits [30, 6, 6, 6, 3, 1, 4, 8] w with
  | [0, 0, xa, xd, hpred, hneg, hstall, 125] => some (.prioGet ⟨BitVec.ofNat 4 hstall, BitVec.ofNat 1 hneg, BitVec.ofNat 3 hpred⟩ (BitVec.ofNat 6 xd) (BitVec.ofNat 6 xa))
  | [16777216, xb, xa, xd, hpred, hneg, hstall, 125] => some (.prioSet ⟨BitVec.ofNat 4 hstall, BitVec.ofNat 1 hneg, BitVec.ofNat 3 hpred⟩ (BitVec.ofNat 6 xd) (BitVec.ofNat 6 xa) (BitVec.ofNat 6 xb))
  | [33554432, 0, 0, xd, hpred, hneg, hstall, 125] => some (.prioPend ⟨BitVec.ofNat 4 hstall, BitVec.ofNat 1 hneg, BitVec.ofNat 3 hpred⟩ (BitVec.ofNat 6 xd))
  | [50331648, xb, xa, xd, hpred, hneg, hstall, 125] => some (.prioCeil ⟨BitVec.ofNat 4 hstall, BitVec.ofNat 1 hneg, BitVec.ofNat 3 hpred⟩ (BitVec.ofNat 6 xd) (BitVec.ofNat 6 xa) (BitVec.ofNat 6 xb))
  | [67108864, 0, xa, xd, hpred, hneg, hstall, 125] => some (.prioWake ⟨BitVec.ofNat 4 hstall, BitVec.ofNat 1 hneg, BitVec.ofNat 3 hpred⟩ (BitVec.ofNat 6 xd) (BitVec.ofNat 6 xa))
  | [83886080, 0, xa, xd, hpred, hneg, hstall, 125] => some (.prioKill ⟨BitVec.ofNat 4 hstall, BitVec.ofNat 1 hneg, BitVec.ofNat 3 hpred⟩ (BitVec.ofNat 6 xd) (BitVec.ofNat 6 xa))
  | _ => none
/-- CTXSV, CTXSV_HOLD: opcode 0x7E (R426). -/
def decOp7E (w : Nat) : Option Instr :=
  match unpackBits [30, 6, 6, 6, 3, 1, 4, 8] w with
  | [0, xb, xa, xd, hpred, hneg, hstall, 126] => some (.ctxsv ⟨BitVec.ofNat 4 hstall, BitVec.ofNat 1 hneg, BitVec.ofNat 3 hpred⟩ (BitVec.ofNat 6 xd) (BitVec.ofNat 6 xa) (BitVec.ofNat 6 xb))
  | [16777216, xb, xa, xd, hpred, hneg, hstall, 126] => some (.ctxsvHold ⟨BitVec.ofNat 4 hstall, BitVec.ofNat 1 hneg, BitVec.ofNat 3 hpred⟩ (BitVec.ofNat 6 xd) (BitVec.ofNat 6 xa) (BitVec.ofNat 6 xb))
  | _ => none
/-- CTXLD: opcode 0x7F (R427). -/
def decOp7F (w : Nat) : Option Instr :=
  match unpackBits [36, 6, 6, 3, 1, 4, 8] w with
  | [0, xa, xd, hpred, hneg, hstall, 127] => some (.ctxld ⟨BitVec.ofNat 4 hstall, BitVec.ofNat 1 hneg, BitVec.ofNat 3 hpred⟩ (BitVec.ofNat 6 xd) (BitVec.ofNat 6 xa))
  | _ => none
/-- SBIND: opcode 0x80 (R344). -/
def decOp80 (w : Nat) : Option Instr :=
  match unpackBits [36, 6, 4, 2, 3, 1, 4, 8] w with
  | [0, xb, xz, 3, hpred, hneg, hstall, 128] => some (.sbind ⟨BitVec.ofNat 4 hstall, BitVec.ofNat 1 hneg, BitVec.ofNat 3 hpred⟩ (BitVec.ofNat 4 xz) (BitVec.ofNat 6 xb))
  | _ => none
/-- SFREE: opcode 0x81 (R344). -/
def decOp81 (w : Nat) : Option Instr :=
  match unpackBits [36, 4, 2, 6, 3, 1, 4, 8] w with
  | [0, xz, 3, 0, hpred, hneg, hstall, 129] => some (.sfree ⟨BitVec.ofNat 4 hstall, BitVec.ofNat 1 hneg, BitVec.ofNat 3 hpred⟩ (BitVec.ofNat 4 xz))
  | _ => none
/-- XCOPY: opcode 0x82 (R349). -/
def decOp82 (w : Nat) : Option Instr :=
  match unpackBits [4, 26, 6, 6, 6, 3, 1, 4, 8] w with
  | [xch, 0, xc, xb, xa, hpred, hneg, hstall, 130] => some (.xcopy ⟨BitVec.ofNat 4 hstall, BitVec.ofNat 1 hneg, BitVec.ofNat 3 hpred⟩ (BitVec.ofNat 6 xa) (BitVec.ofNat 6 xb) (BitVec.ofNat 6 xc) (BitVec.ofNat 4 xch))
  | _ => none
/-- XGATH2: opcode 0x83 (R350). -/
def decOp83 (w : Nat) : Option Instr :=
  match unpackBits [4, 26, 6, 6, 6, 3, 1, 4, 8] w with
  | [xch, 0, xc, xb, xa, hpred, hneg, hstall, 131] => some (.xgath2 ⟨BitVec.ofNat 4 hstall, BitVec.ofNat 1 hneg, BitVec.ofNat 3 hpred⟩ (BitVec.ofNat 6 xa) (BitVec.ofNat 6 xb) (BitVec.ofNat 6 xc) (BitVec.ofNat 4 xch))
  | _ => none
/-- XGATH: opcode 0x84 (R351). -/
def decOp84 (w : Nat) : Option Instr :=
  match unpackBits [4, 26, 6, 6, 6, 3, 1, 4, 8] w with
  | [xch, 0, xc, xb, xa, hpred, hneg, hstall, 132] => some (.xgath ⟨BitVec.ofNat 4 hstall, BitVec.ofNat 1 hneg, BitVec.ofNat 3 hpred⟩ (BitVec.ofNat 6 xa) (BitVec.ofNat 6 xb) (BitVec.ofNat 6 xc) (BitVec.ofNat 4 xch))
  | _ => none
/-- XSCAT: opcode 0x85 (R351). -/
def decOp85 (w : Nat) : Option Instr :=
  match unpackBits [4, 26, 6, 6, 6, 3, 1, 4, 8] w with
  | [xch, 0, xc, xb, xa, hpred, hneg, hstall, 133] => some (.xscat ⟨BitVec.ofNat 4 hstall, BitVec.ofNat 1 hneg, BitVec.ofNat 3 hpred⟩ (BitVec.ofNat 6 xa) (BitVec.ofNat 6 xb) (BitVec.ofNat 6 xc) (BitVec.ofNat 4 xch))
  | _ => none
/-- XSLIDE: opcode 0x86 (R352). -/
def decOp86 (w : Nat) : Option Instr :=
  match unpackBits [4, 26, 6, 6, 6, 3, 1, 4, 8] w with
  | [xch, 0, xc, xb, xa, hpred, hneg, hstall, 134] => some (.xslide ⟨BitVec.ofNat 4 hstall, BitVec.ofNat 1 hneg, BitVec.ofNat 3 hpred⟩ (BitVec.ofNat 6 xa) (BitVec.ofNat 6 xb) (BitVec.ofNat 6 xc) (BitVec.ofNat 4 xch))
  | _ => none
/-- XFILL: opcode 0x87 (R353). -/
def decOp87 (w : Nat) : Option Instr :=
  match unpackBits [4, 26, 6, 6, 6, 3, 1, 4, 8] w with
  | [xch, 0, xc, xb, xa, hpred, hneg, hstall, 135] => some (.xfill ⟨BitVec.ofNat 4 hstall, BitVec.ofNat 1 hneg, BitVec.ofNat 3 hpred⟩ (BitVec.ofNat 6 xa) (BitVec.ofNat 6 xb) (BitVec.ofNat 6 xc) (BitVec.ofNat 4 xch))
  | _ => none
/-- XWAIT: opcode 0x88 (R359). -/
def decOp88 (w : Nat) : Option Instr :=
  match unpackBits [4, 32, 6, 6, 3, 1, 4, 8] w with
  | [xch, 0, xb, xa, hpred, hneg, hstall, 136] => some (.xwait ⟨BitVec.ofNat 4 hstall, BitVec.ofNat 1 hneg, BitVec.ofNat 3 hpred⟩ (BitVec.ofNat 6 xa) (BitVec.ofNat 6 xb) (BitVec.ofNat 4 xch))
  | _ => none
/-- XSTAT_DONE, XSTAT_NEXT, XSTAT_VAL, XSTAT_FAULT, XSTAT_FADDR, XSTAT_RESUME, XSTAT_ABORT: opcode 0x89 (R360). -/
def decOp89 (w : Nat) : Option Instr :=
  match unpackBits [4, 32, 6, 6, 3, 1, 4, 8] w with
  | [xch, 0, xb, xa, hpred, hneg, hstall, 137] => some (.xstatDone ⟨BitVec.ofNat 4 hstall, BitVec.ofNat 1 hneg, BitVec.ofNat 3 hpred⟩ (BitVec.ofNat 6 xa) (BitVec.ofNat 6 xb) (BitVec.ofNat 4 xch))
  | [xch, 1048576, xb, xa, hpred, hneg, hstall, 137] => some (.xstatNext ⟨BitVec.ofNat 4 hstall, BitVec.ofNat 1 hneg, BitVec.ofNat 3 hpred⟩ (BitVec.ofNat 6 xa) (BitVec.ofNat 6 xb) (BitVec.ofNat 4 xch))
  | [xch, 2097152, xb, xa, hpred, hneg, hstall, 137] => some (.xstatVal ⟨BitVec.ofNat 4 hstall, BitVec.ofNat 1 hneg, BitVec.ofNat 3 hpred⟩ (BitVec.ofNat 6 xa) (BitVec.ofNat 6 xb) (BitVec.ofNat 4 xch))
  | [xch, 3145728, xb, xa, hpred, hneg, hstall, 137] => some (.xstatFault ⟨BitVec.ofNat 4 hstall, BitVec.ofNat 1 hneg, BitVec.ofNat 3 hpred⟩ (BitVec.ofNat 6 xa) (BitVec.ofNat 6 xb) (BitVec.ofNat 4 xch))
  | [xch, 4194304, xb, xa, hpred, hneg, hstall, 137] => some (.xstatFaddr ⟨BitVec.ofNat 4 hstall, BitVec.ofNat 1 hneg, BitVec.ofNat 3 hpred⟩ (BitVec.ofNat 6 xa) (BitVec.ofNat 6 xb) (BitVec.ofNat 4 xch))
  | [xch, 5242880, xb, xa, hpred, hneg, hstall, 137] => some (.xstatResume ⟨BitVec.ofNat 4 hstall, BitVec.ofNat 1 hneg, BitVec.ofNat 3 hpred⟩ (BitVec.ofNat 6 xa) (BitVec.ofNat 6 xb) (BitVec.ofNat 4 xch))
  | [xch, 6291456, xb, xa, hpred, hneg, hstall, 137] => some (.xstatAbort ⟨BitVec.ofNat 4 hstall, BitVec.ofNat 1 hneg, BitVec.ofNat 3 hpred⟩ (BitVec.ofNat 6 xa) (BitVec.ofNat 6 xb) (BitVec.ofNat 4 xch))
  | _ => none
/-- XCKPT: opcode 0x8A (R355). -/
def decOp8A (w : Nat) : Option Instr :=
  match unpackBits [4, 32, 6, 6, 3, 1, 4, 8] w with
  | [xch, 0, xb, xa, hpred, hneg, hstall, 138] => some (.xckpt ⟨BitVec.ofNat 4 hstall, BitVec.ofNat 1 hneg, BitVec.ofNat 3 hpred⟩ (BitVec.ofNat 6 xa) (BitVec.ofNat 6 xb) (BitVec.ofNat 4 xch))
  | _ => none
/-- XPROM_PRO, XPROM_DEM: opcode 0x8B (R356). -/
def decOp8B (w : Nat) : Option Instr :=
  match unpackBits [4, 26, 6, 6, 6, 3, 1, 4, 8] w with
  | [xch, 0, xc, xb, xa, hpred, hneg, hstall, 139] => some (.xpromPro ⟨BitVec.ofNat 4 hstall, BitVec.ofNat 1 hneg, BitVec.ofNat 3 hpred⟩ (BitVec.ofNat 6 xa) (BitVec.ofNat 6 xb) (BitVec.ofNat 6 xc) (BitVec.ofNat 4 xch))
  | [xch, 1048576, xc, xb, xa, hpred, hneg, hstall, 139] => some (.xpromDem ⟨BitVec.ofNat 4 hstall, BitVec.ofNat 1 hneg, BitVec.ofNat 3 hpred⟩ (BitVec.ofNat 6 xa) (BitVec.ofNat 6 xb) (BitVec.ofNat 6 xc) (BitVec.ofNat 4 xch))
  | _ => none
/-- XRED_ADD, XRED_MAX: opcode 0x8C (R354). -/
def decOp8C (w : Nat) : Option Instr :=
  match unpackBits [4, 20, 3, 3, 6, 6, 6, 3, 1, 4, 8] w with
  | [xch, 0, xty, 0, xc, xb, xa, hpred, hneg, hstall, 140] => some (.xredAdd ⟨BitVec.ofNat 4 hstall, BitVec.ofNat 1 hneg, BitVec.ofNat 3 hpred⟩ (BitVec.ofNat 6 xa) (BitVec.ofNat 6 xb) (BitVec.ofNat 6 xc) (BitVec.ofNat 3 xty) (BitVec.ofNat 4 xch))
  | [xch, 0, xty, 1, xc, xb, xa, hpred, hneg, hstall, 140] => some (.xredMax ⟨BitVec.ofNat 4 hstall, BitVec.ofNat 1 hneg, BitVec.ofNat 3 hpred⟩ (BitVec.ofNat 6 xa) (BitVec.ofNat 6 xb) (BitVec.ofNat 6 xc) (BitVec.ofNat 3 xty) (BitVec.ofNat 4 xch))
  | _ => none
/-- XKV: opcode 0x8D (R357). -/
def decOp8D (w : Nat) : Option Instr :=
  match unpackBits [4, 26, 6, 6, 6, 3, 1, 4, 8] w with
  | [xch, 0, xc, xb, xa, hpred, hneg, hstall, 141] => some (.xkv ⟨BitVec.ofNat 4 hstall, BitVec.ofNat 1 hneg, BitVec.ofNat 3 hpred⟩ (BitVec.ofNat 6 xa) (BitVec.ofNat 6 xb) (BitVec.ofNat 6 xc) (BitVec.ofNat 4 xch))
  | _ => none
/-- XDENSE: opcode 0x8E (R457). -/
def decOp8E (w : Nat) : Option Instr :=
  match unpackBits [4, 26, 6, 6, 6, 3, 1, 4, 8] w with
  | [xch, 0, xc, xb, xa, hpred, hneg, hstall, 142] => some (.xdense ⟨BitVec.ofNat 4 hstall, BitVec.ofNat 1 hneg, BitVec.ofNat 3 hpred⟩ (BitVec.ofNat 6 xa) (BitVec.ofNat 6 xb) (BitVec.ofNat 6 xc) (BitVec.ofNat 4 xch))
  | _ => none
/-- XCLASS: opcode 0x8F (R358). -/
def decOp8F (w : Nat) : Option Instr :=
  match unpackBits [4, 26, 6, 6, 6, 3, 1, 4, 8] w with
  | [xch, 0, xc, xb, xa, hpred, hneg, hstall, 143] => some (.xclass ⟨BitVec.ofNat 4 hstall, BitVec.ofNat 1 hneg, BitVec.ofNat 3 hpred⟩ (BitVec.ofNat 6 xa) (BitVec.ofNat 6 xb) (BitVec.ofNat 6 xc) (BitVec.ofNat 4 xch))
  | _ => none
/-- MCFG: opcode 0x90 (R375). -/
def decOp90 (w : Nat) : Option Instr :=
  match unpackBits [36, 6, 6, 3, 1, 4, 8] w with
  | [0, xb, xa, hpred, hneg, hstall, 144] => some (.mcfg ⟨BitVec.ofNat 4 hstall, BitVec.ofNat 1 hneg, BitVec.ofNat 3 hpred⟩ (BitVec.ofNat 6 xa) (BitVec.ofNat 6 xb))
  | _ => none
/-- MMA: opcode 0x91 (R378). -/
def decOp91 (w : Nat) : Option Instr :=
  match unpackBits [3, 21, 1, 1, 1, 3, 6, 6, 6, 3, 1, 4, 8] w with
  | [xtl, 0, xovw, xmem, xfrm, 0, xc, xb, xa, hpred, hneg, hstall, 145] => some (.mma ⟨BitVec.ofNat 4 hstall, BitVec.ofNat 1 hneg, BitVec.ofNat 3 hpred⟩ (BitVec.ofNat 6 xa) (BitVec.ofNat 6 xb) (BitVec.ofNat 6 xc) (BitVec.ofNat 1 xfrm) (BitVec.ofNat 1 xmem) (BitVec.ofNat 1 xovw) (BitVec.ofNat 3 xtl))
  | _ => none
/-- MMAX: opcode 0x92 (R379). -/
def decOp92 (w : Nat) : Option Instr :=
  match unpackBits [3, 21, 1, 1, 1, 3, 6, 6, 6, 3, 1, 4, 8] w with
  | [xtl, 0, xovw, xmem, xfrm, 0, xc, xb, xa, hpred, hneg, hstall, 146] => some (.mmax ⟨BitVec.ofNat 4 hstall, BitVec.ofNat 1 hneg, BitVec.ofNat 3 hpred⟩ (BitVec.ofNat 6 xa) (BitVec.ofNat 6 xb) (BitVec.ofNat 6 xc) (BitVec.ofNat 1 xfrm) (BitVec.ofNat 1 xmem) (BitVec.ofNat 1 xovw) (BitVec.ofNat 3 xtl))
  | _ => none
/-- MLDA: opcode 0x93 (R384). -/
def decOp93 (w : Nat) : Option Instr :=
  match unpackBits [3, 1, 7, 7, 6, 1, 5, 6, 6, 6, 3, 1, 4, 8] w with
  | [xtl, 0, xrows, xcols, 0, xf64, 0, xc, xb, xa, hpred, hneg, hstall, 147] => some (.mlda ⟨BitVec.ofNat 4 hstall, BitVec.ofNat 1 hneg, BitVec.ofNat 3 hpred⟩ (BitVec.ofNat 6 xa) (BitVec.ofNat 6 xb) (BitVec.ofNat 6 xc) (BitVec.ofNat 1 xf64) (BitVec.ofNat 7 xcols) (BitVec.ofNat 7 xrows) (BitVec.ofNat 3 xtl))
  | _ => none
/-- MSTA: opcode 0x94 (R384). -/
def decOp94 (w : Nat) : Option Instr :=
  match unpackBits [3, 1, 7, 7, 12, 6, 6, 6, 3, 1, 4, 8] w with
  | [xtl, 0, xrows, xcols, 0, xc, xb, xa, hpred, hneg, hstall, 148] => some (.msta ⟨BitVec.ofNat 4 hstall, BitVec.ofNat 1 hneg, BitVec.ofNat 3 hpred⟩ (BitVec.ofNat 6 xa) (BitVec.ofNat 6 xb) (BitVec.ofNat 6 xc) (BitVec.ofNat 7 xcols) (BitVec.ofNat 7 xrows) (BitVec.ofNat 3 xtl))
  | _ => none
/-- MZERO: opcode 0x95 (R385). -/
def decOp95 (w : Nat) : Option Instr :=
  match unpackBits [8, 34, 6, 3, 1, 4, 8] w with
  | [xmask, 0, xa, hpred, hneg, hstall, 149] => some (.mzero ⟨BitVec.ofNat 4 hstall, BitVec.ofNat 1 hneg, BitVec.ofNat 3 hpred⟩ (BitVec.ofNat 6 xa) (BitVec.ofNat 8 xmask))
  | _ => none
/-- MCONV: opcode 0x96 (R380). -/
def decOp96 (w : Nat) : Option Instr :=
  match unpackBits [3, 21, 1, 1, 1, 3, 6, 6, 6, 3, 1, 4, 8] w with
  | [xtl, 0, xovw, xmem, xfrm, 0, xc, xb, xa, hpred, hneg, hstall, 150] => some (.mconv ⟨BitVec.ofNat 4 hstall, BitVec.ofNat 1 hneg, BitVec.ofNat 3 hpred⟩ (BitVec.ofNat 6 xa) (BitVec.ofNat 6 xb) (BitVec.ofNat 6 xc) (BitVec.ofNat 1 xfrm) (BitVec.ofNat 1 xmem) (BitVec.ofNat 1 xovw) (BitVec.ofNat 3 xtl))
  | _ => none
/-- MQUE: opcode 0x97 (R394). -/
def decOp97 (w : Nat) : Option Instr :=
  match unpackBits [30, 6, 6, 6, 3, 1, 4, 8] w with
  | [0, xc, xb, xa, hpred, hneg, hstall, 151] => some (.mque ⟨BitVec.ofNat 4 hstall, BitVec.ofNat 1 hneg, BitVec.ofNat 3 hpred⟩ (BitVec.ofNat 6 xa) (BitVec.ofNat 6 xb) (BitVec.ofNat 6 xc))
  | _ => none
/-- MWAIT, MWAIT_TASK: opcode 0x98 (R390, R395). -/
def decOp98 (w : Nat) : Option Instr :=
  match unpackBits [30, 6, 6, 6, 3, 1, 4, 8] w with
  | [0, 0, xb, xa, hpred, hneg, hstall, 152] => some (.mwait ⟨BitVec.ofNat 4 hstall, BitVec.ofNat 1 hneg, BitVec.ofNat 3 hpred⟩ (BitVec.ofNat 6 xa) (BitVec.ofNat 6 xb))
  | [16777216, xc, xb, xa, hpred, hneg, hstall, 152] => some (.mwaitTask ⟨BitVec.ofNat 4 hstall, BitVec.ofNat 1 hneg, BitVec.ofNat 3 hpred⟩ (BitVec.ofNat 6 xa) (BitVec.ofNat 6 xb) (BitVec.ofNat 6 xc))
  | _ => none
/-- MSTAT_DONE, MSTAT_NEXT, MSTAT_FAULT, MSTAT_FADDR, MSTAT_ROW, MSTAT_RESUME, MSTAT_ABORT, MSTAT_EV, MSTAT_FMT: opcode 0x99 (R391). -/
def decOp99 (w : Nat) : Option Instr :=
  match unpackBits [36, 6, 6, 3, 1, 4, 8] w with
  | [0, xb, xa, hpred, hneg, hstall, 153] => some (.mstatDone ⟨BitVec.ofNat 4 hstall, BitVec.ofNat 1 hneg, BitVec.ofNat 3 hpred⟩ (BitVec.ofNat 6 xa) (BitVec.ofNat 6 xb))
  | [16777216, xb, xa, hpred, hneg, hstall, 153] => some (.mstatNext ⟨BitVec.ofNat 4 hstall, BitVec.ofNat 1 hneg, BitVec.ofNat 3 hpred⟩ (BitVec.ofNat 6 xa) (BitVec.ofNat 6 xb))
  | [33554432, xb, xa, hpred, hneg, hstall, 153] => some (.mstatFault ⟨BitVec.ofNat 4 hstall, BitVec.ofNat 1 hneg, BitVec.ofNat 3 hpred⟩ (BitVec.ofNat 6 xa) (BitVec.ofNat 6 xb))
  | [50331648, xb, xa, hpred, hneg, hstall, 153] => some (.mstatFaddr ⟨BitVec.ofNat 4 hstall, BitVec.ofNat 1 hneg, BitVec.ofNat 3 hpred⟩ (BitVec.ofNat 6 xa) (BitVec.ofNat 6 xb))
  | [67108864, xb, xa, hpred, hneg, hstall, 153] => some (.mstatRow ⟨BitVec.ofNat 4 hstall, BitVec.ofNat 1 hneg, BitVec.ofNat 3 hpred⟩ (BitVec.ofNat 6 xa) (BitVec.ofNat 6 xb))
  | [83886080, xb, xa, hpred, hneg, hstall, 153] => some (.mstatResume ⟨BitVec.ofNat 4 hstall, BitVec.ofNat 1 hneg, BitVec.ofNat 3 hpred⟩ (BitVec.ofNat 6 xa) (BitVec.ofNat 6 xb))
  | [100663296, xb, xa, hpred, hneg, hstall, 153] => some (.mstatAbort ⟨BitVec.ofNat 4 hstall, BitVec.ofNat 1 hneg, BitVec.ofNat 3 hpred⟩ (BitVec.ofNat 6 xa) (BitVec.ofNat 6 xb))
  | [117440512, xb, xa, hpred, hneg, hstall, 153] => some (.mstatEv ⟨BitVec.ofNat 4 hstall, BitVec.ofNat 1 hneg, BitVec.ofNat 3 hpred⟩ (BitVec.ofNat 6 xa) (BitVec.ofNat 6 xb))
  | [134217728, xb, xa, hpred, hneg, hstall, 153] => some (.mstatFmt ⟨BitVec.ofNat 4 hstall, BitVec.ofNat 1 hneg, BitVec.ofNat 3 hpred⟩ (BitVec.ofNat 6 xa) (BitVec.ofNat 6 xb))
  | _ => none
/-- MAMAX: opcode 0x9A (R386). -/
def decOp9A (w : Nat) : Option Instr :=
  match unpackBits [3, 1, 7, 7, 18, 6, 6, 3, 1, 4, 8] w with
  | [xtl, 0, xrows, xcols, 0, xb, xa, hpred, hneg, hstall, 154] => some (.mamax ⟨BitVec.ofNat 4 hstall, BitVec.ofNat 1 hneg, BitVec.ofNat 3 hpred⟩ (BitVec.ofNat 6 xa) (BitVec.ofNat 6 xb) (BitVec.ofNat 7 xcols) (BitVec.ofNat 7 xrows) (BitVec.ofNat 3 xtl))
  | _ => none
/-- MQUANT: opcode 0x9B (R388). -/
def decOp9B (w : Nat) : Option Instr :=
  match unpackBits [3, 1, 7, 7, 6, 1, 5, 6, 6, 6, 3, 1, 4, 8] w with
  | [xtl, 0, xrows, xcols, 0, xe4m3, 0, xc, xb, xa, hpred, hneg, hstall, 155] => some (.mquant ⟨BitVec.ofNat 4 hstall, BitVec.ofNat 1 hneg, BitVec.ofNat 3 hpred⟩ (BitVec.ofNat 6 xa) (BitVec.ofNat 6 xb) (BitVec.ofNat 6 xc) (BitVec.ofNat 1 xe4m3) (BitVec.ofNat 7 xcols) (BitVec.ofNat 7 xrows) (BitVec.ofNat 3 xtl))
  | _ => none
/-- MSOFT: opcode 0x9C (R389). -/
def decOp9C (w : Nat) : Option Instr :=
  match unpackBits [3, 1, 7, 7, 12, 6, 6, 6, 3, 1, 4, 8] w with
  | [xtl, 0, xrows, xcols, 0, xc, xb, xa, hpred, hneg, hstall, 156] => some (.msoft ⟨BitVec.ofNat 4 hstall, BitVec.ofNat 1 hneg, BitVec.ofNat 3 hpred⟩ (BitVec.ofNat 6 xa) (BitVec.ofNat 6 xb) (BitVec.ofNat 6 xc) (BitVec.ofNat 7 xcols) (BitVec.ofNat 7 xrows) (BitVec.ofNat 3 xtl))
  | _ => none
/-- MTRANS: opcode 0x9D (R385). -/
def decOp9D (w : Nat) : Option Instr :=
  match unpackBits [3, 3, 36, 6, 3, 1, 4, 8] w with
  | [xtd, xts, 0, xa, hpred, hneg, hstall, 157] => some (.mtrans ⟨BitVec.ofNat 4 hstall, BitVec.ofNat 1 hneg, BitVec.ofNat 3 hpred⟩ (BitVec.ofNat 6 xa) (BitVec.ofNat 3 xts) (BitVec.ofNat 3 xtd))
  | _ => none
/-- MSAVE: opcode 0x9E (R396). -/
def decOp9E (w : Nat) : Option Instr :=
  match unpackBits [36, 6, 6, 3, 1, 4, 8] w with
  | [0, xb, xa, hpred, hneg, hstall, 158] => some (.msave ⟨BitVec.ofNat 4 hstall, BitVec.ofNat 1 hneg, BitVec.ofNat 3 hpred⟩ (BitVec.ofNat 6 xa) (BitVec.ofNat 6 xb))
  | _ => none
/-- MREST: opcode 0x9F (R396). -/
def decOp9F (w : Nat) : Option Instr :=
  match unpackBits [36, 6, 6, 3, 1, 4, 8] w with
  | [0, xb, xa, hpred, hneg, hstall, 159] => some (.mrest ⟨BitVec.ofNat 4 hstall, BitVec.ofNat 1 hneg, BitVec.ofNat 3 hpred⟩ (BitVec.ofNat 6 xa) (BitVec.ofNat 6 xb))
  | _ => none
/-- AFCFG: opcode 0xA0 (R212). -/
def decOpA0 (w : Nat) : Option Instr :=
  match unpackBits [18, 6, 16, 5, 7, 4, 8] w with
  | [0, xs, 0, xfd, 56, xnst, 160] => some (.afcfg (BitVec.ofNat 4 xnst) (BitVec.ofNat 5 xfd) (BitVec.ofNat 6 xs))
  | _ => none
/-- AMODE_AS, AMODE_ST: opcode 0xA1 (R234). -/
def decOpA1 (w : Nat) : Option Instr :=
  match unpackBits [18, 6, 28, 4, 8] w with
  | [0, xs, 117440512, xnst, 161] => some (.amodeAs (BitVec.ofNat 4 xnst) (BitVec.ofNat 6 xs))
  | [0, xs, 117440513, xnst, 161] => some (.amodeSt (BitVec.ofNat 4 xnst) (BitVec.ofNat 6 xs))
  | _ => none
/-- AWHILE: opcode 0xA2 (R267). -/
def decOpA2 (w : Nat) : Option Instr :=
  match unpackBits [24, 6, 5, 5, 5, 5, 2, 4, 8] w with
  | [olo, 0, xsb, 0, xmd, hmg, oform, hstall, 162] => (SvOpnd.ofBits oform olo).map fun o => .awhile ⟨BitVec.ofNat 4 hstall, BitVec.ofNat 5 hmg⟩ (BitVec.ofNat 5 xmd) (BitVec.ofNat 5 xsb) o
  | _ => none
/-- ASRCH_SET, ASRCH_AND, ASRCH_OR: opcode 0xA3 (R268). -/
def decOpA3 (w : Nat) : Option Instr :=
  match unpackBits [24, 11, 5, 5, 5, 2, 4, 8] w with
  | [olo, 0, xfa, xmd, hmg, oform, hstall, 163] => (SvOpnd.ofBits oform olo).map fun o => .asrchSet ⟨BitVec.ofNat 4 hstall, BitVec.ofNat 5 hmg⟩ (BitVec.ofNat 5 xmd) (BitVec.ofNat 5 xfa) o
  | [olo, 1, xfa, xmd, hmg, oform, hstall, 163] => (SvOpnd.ofBits oform olo).map fun o => .asrchAnd ⟨BitVec.ofNat 4 hstall, BitVec.ofNat 5 hmg⟩ (BitVec.ofNat 5 xmd) (BitVec.ofNat 5 xfa) o
  | [olo, 2, xfa, xmd, hmg, oform, hstall, 163] => (SvOpnd.ofBits oform olo).map fun o => .asrchOr ⟨BitVec.ofNat 4 hstall, BitVec.ofNat 5 hmg⟩ (BitVec.ofNat 5 xmd) (BitVec.ofNat 5 xfa) o
  | _ => none
/-- ACMP_EQ, ACMP_NE, ACMP_LT, ACMP_GE: opcode 0xA4 (R269). -/
def decOpA4 (w : Nat) : Option Instr :=
  match unpackBits [24, 6, 5, 5, 5, 5, 2, 4, 8] w with
  | [olo, 0, omid, xfa, xmd, hmg, oform, hstall, 164] => (CmpOpnd.ofBits oform omid olo).map fun o => .acmpEq ⟨BitVec.ofNat 4 hstall, BitVec.ofNat 5 hmg⟩ (BitVec.ofNat 5 xmd) (BitVec.ofNat 5 xfa) o
  | [olo, 1, omid, xfa, xmd, hmg, oform, hstall, 164] => (CmpOpnd.ofBits oform omid olo).map fun o => .acmpNe ⟨BitVec.ofNat 4 hstall, BitVec.ofNat 5 hmg⟩ (BitVec.ofNat 5 xmd) (BitVec.ofNat 5 xfa) o
  | [olo, 2, omid, xfa, xmd, hmg, oform, hstall, 164] => (CmpOpnd.ofBits oform omid olo).map fun o => .acmpLt ⟨BitVec.ofNat 4 hstall, BitVec.ofNat 5 hmg⟩ (BitVec.ofNat 5 xmd) (BitVec.ofNat 5 xfa) o
  | [olo, 3, omid, xfa, xmd, hmg, oform, hstall, 164] => (CmpOpnd.ofBits oform omid olo).map fun o => .acmpGe ⟨BitVec.ofNat 4 hstall, BitVec.ofNat 5 hmg⟩ (BitVec.ofNat 5 xmd) (BitVec.ofNat 5 xfa) o
  | _ => none
/-- MLOG: opcode 0xA5 (R272). -/
def decOpA5 (w : Nat) : Option Instr :=
  match unpackBits [4, 26, 5, 5, 5, 5, 2, 4, 8] w with
  | [xtbl, 0, xmb, xma, xmd, hmg, 2, hstall, 165] => some (.mlog ⟨BitVec.ofNat 4 hstall, BitVec.ofNat 5 hmg⟩ (BitVec.ofNat 5 xmd) (BitVec.ofNat 5 xma) (BitVec.ofNat 5 xmb) (BitVec.ofNat 4 xtbl))
  | _ => none
/-- MSET: opcode 0xA6 (R272). -/
def decOpA6 (w : Nat) : Option Instr :=
  match unpackBits [1, 39, 5, 5, 2, 4, 8] w with
  | [xv, 0, xmd, hmg, 2, hstall, 166] => some (.mset ⟨BitVec.ofNat 4 hstall, BitVec.ofNat 5 hmg⟩ (BitVec.ofNat 5 xmd) (BitVec.ofNat 1 xv))
  | _ => none
/-- AWR: opcode 0xA7 (R273). -/
def decOpA7 (w : Nat) : Option Instr :=
  match unpackBits [24, 16, 5, 5, 2, 4, 8] w with
  | [olo, 0, xfd, hmg, oform, hstall, 167] => (SvOpnd.ofBits oform olo).map fun o => .awr ⟨BitVec.ofNat 4 hstall, BitVec.ofNat 5 hmg⟩ (BitVec.ofNat 5 xfd) o
  | _ => none
/-- AMOV: opcode 0xA8 (R274). -/
def decOpA8 (w : Nat) : Option Instr :=
  match unpackBits [35, 5, 5, 5, 2, 4, 8] w with
  | [0, xfa, xfd, hmg, 0, hstall, 168] => some (.amov ⟨BitVec.ofNat 4 hstall, BitVec.ofNat 5 hmg⟩ (BitVec.ofNat 5 xfd) (BitVec.ofNat 5 xfa))
  | _ => none
/-- APOP_M, APOP_F: opcode 0xA9 (R278). -/
def decOpA9 (w : Nat) : Option Instr :=
  match unpackBits [18, 6, 11, 5, 5, 5, 2, 4, 8] w with
  | [0, xs, 0, xma, 0, hmg, 1, hstall, 169] => some (.apopM ⟨BitVec.ofNat 4 hstall, BitVec.ofNat 5 hmg⟩ (BitVec.ofNat 5 xma) (BitVec.ofNat 6 xs))
  | [0, xs, 1, xfa, 0, hmg, 1, hstall, 169] => some (.apopF ⟨BitVec.ofNat 4 hstall, BitVec.ofNat 5 hmg⟩ (BitVec.ofNat 5 xfa) (BitVec.ofNat 6 xs))
  | _ => none
/-- AFIRST_FIRST, AFIRST_LAST: opcode 0xAA (R279). -/
def decOpAA (w : Nat) : Option Instr :=
  match unpackBits [18, 6, 11, 5, 5, 5, 2, 4, 8] w with
  | [0, xs, 0, xma, 0, hmg, 1, hstall, 170] => some (.afirstFirst ⟨BitVec.ofNat 4 hstall, BitVec.ofNat 5 hmg⟩ (BitVec.ofNat 5 xma) (BitVec.ofNat 6 xs))
  | [0, xs, 1, xma, 0, hmg, 1, hstall, 170] => some (.afirstLast ⟨BitVec.ofNat 4 hstall, BitVec.ofNat 5 hmg⟩ (BitVec.ofNat 5 xma) (BitVec.ofNat 6 xs))
  | _ => none
/-- ANEXT_CLR, ANEXT_ONE: opcode 0xAB (R279). -/
def decOpAB (w : Nat) : Option Instr :=
  match unpackBits [35, 5, 5, 5, 2, 4, 8] w with
  | [0, xma, xmd, hmg, 0, hstall, 171] => some (.anextClr ⟨BitVec.ofNat 4 hstall, BitVec.ofNat 5 hmg⟩ (BitVec.ofNat 5 xmd) (BitVec.ofNat 5 xma))
  | [16777216, xma, xmd, hmg, 0, hstall, 171] => some (.anextOne ⟨BitVec.ofNat 4 hstall, BitVec.ofNat 5 hmg⟩ (BitVec.ofNat 5 xmd) (BitVec.ofNat 5 xma))
  | _ => none
/-- ATOPK_MAX, ATOPK_MIN: opcode 0xAC (R280). -/
def decOpAC (w : Nat) : Option Instr :=
  match unpackBits [24, 11, 5, 5, 5, 2, 4, 8] w with
  | [olo, 0, xfa, xmd, hmg, oform, hstall, 172] => (SvOpnd.ofBits oform olo).map fun o => .atopkMax ⟨BitVec.ofNat 4 hstall, BitVec.ofNat 5 hmg⟩ (BitVec.ofNat 5 xmd) (BitVec.ofNat 5 xfa) o
  | [olo, 1, xfa, xmd, hmg, oform, hstall, 172] => (SvOpnd.ofBits oform olo).map fun o => .atopkMin ⟨BitVec.ofNat 4 hstall, BitVec.ofNat 5 hmg⟩ (BitVec.ofNat 5 xmd) (BitVec.ofNat 5 xfa) o
  | _ => none
/-- AEXT_MAX, AEXT_MIN, AEXT_MAXIDX, AEXT_MINIDX: opcode 0xAD (R281). -/
def decOpAD (w : Nat) : Option Instr :=
  match unpackBits [18, 6, 11, 5, 5, 5, 2, 4, 8] w with
  | [0, xs, 0, xfa, 0, hmg, 1, hstall, 173] => some (.aextMax ⟨BitVec.ofNat 4 hstall, BitVec.ofNat 5 hmg⟩ (BitVec.ofNat 5 xfa) (BitVec.ofNat 6 xs))
  | [0, xs, 1, xfa, 0, hmg, 1, hstall, 173] => some (.aextMin ⟨BitVec.ofNat 4 hstall, BitVec.ofNat 5 hmg⟩ (BitVec.ofNat 5 xfa) (BitVec.ofNat 6 xs))
  | [0, xs, 2, xfa, 0, hmg, 1, hstall, 173] => some (.aextMaxidx ⟨BitVec.ofNat 4 hstall, BitVec.ofNat 5 hmg⟩ (BitVec.ofNat 5 xfa) (BitVec.ofNat 6 xs))
  | [0, xs, 3, xfa, 0, hmg, 1, hstall, 173] => some (.aextMinidx ⟨BitVec.ofNat 4 hstall, BitVec.ofNat 5 hmg⟩ (BitVec.ofNat 5 xfa) (BitVec.ofNat 6 xs))
  | _ => none
/-- ARDROW: opcode 0xAE (R282). -/
def decOpAE (w : Nat) : Option Instr :=
  match unpackBits [18, 6, 6, 5, 5, 5, 5, 2, 4, 8] w with
  | [0, xs, 0, xsb, xfa, 0, hmg, 1, hstall, 174] => some (.ardrow ⟨BitVec.ofNat 4 hstall, BitVec.ofNat 5 hmg⟩ (BitVec.ofNat 5 xfa) (BitVec.ofNat 5 xsb) (BitVec.ofNat 6 xs))
  | _ => none
/-- AWRROW: opcode 0xAF (R282). -/
def decOpAF (w : Nat) : Option Instr :=
  match unpackBits [18, 6, 6, 5, 5, 5, 5, 2, 4, 8] w with
  | [0, xs, 0, xsb, 0, xfd, hmg, 1, hstall, 175] => some (.awrrow ⟨BitVec.ofNat 4 hstall, BitVec.ofNat 5 hmg⟩ (BitVec.ofNat 5 xfd) (BitVec.ofNat 5 xsb) (BitVec.ofNat 6 xs))
  | _ => none
/-- AADD: opcode 0xB0 (R296). -/
def decOpB0 (w : Nat) : Option Instr :=
  match unpackBits [24, 2, 1, 3, 5, 5, 5, 5, 2, 4, 8] w with
  | [olo, 0, xsat, xrc, omid, xfa, xfd, hmg, oform, hstall, 176] => (AOpnd.ofBits oform omid olo).map fun o => .aadd ⟨BitVec.ofNat 4 hstall, BitVec.ofNat 5 hmg⟩ (BitVec.ofNat 5 xfd) (BitVec.ofNat 5 xfa) (BitVec.ofNat 3 xrc) (BitVec.ofNat 1 xsat) o
  | _ => none
/-- ASUB: opcode 0xB1 (R296). -/
def decOpB1 (w : Nat) : Option Instr :=
  match unpackBits [24, 1, 1, 1, 3, 5, 5, 5, 5, 2, 4, 8] w with
  | [olo, xrev, 0, xsat, xrc, omid, xfa, xfd, hmg, oform, hstall, 177] => (AOpnd.ofBits oform omid olo).map fun o => .asub ⟨BitVec.ofNat 4 hstall, BitVec.ofNat 5 hmg⟩ (BitVec.ofNat 5 xfd) (BitVec.ofNat 5 xfa) (BitVec.ofNat 3 xrc) (BitVec.ofNat 1 xsat) (BitVec.ofNat 1 xrev) o
  | _ => none
/-- AMUL: opcode 0xB2 (R296). -/
def decOpB2 (w : Nat) : Option Instr :=
  match unpackBits [24, 2, 1, 3, 5, 5, 5, 5, 2, 4, 8] w with
  | [olo, 0, xsat, xrc, omid, xfa, xfd, hmg, oform, hstall, 178] => (AOpnd.ofBits oform omid olo).map fun o => .amul ⟨BitVec.ofNat 4 hstall, BitVec.ofNat 5 hmg⟩ (BitVec.ofNat 5 xfd) (BitVec.ofNat 5 xfa) (BitVec.ofNat 3 xrc) (BitVec.ofNat 1 xsat) o
  | _ => none
/-- AFMA: opcode 0xB3 (R296). -/
def decOpB3 (w : Nat) : Option Instr :=
  match unpackBits [24, 2, 1, 3, 5, 5, 5, 5, 2, 4, 8] w with
  | [olo, 0, xsat, xrc, omid, xfa, xfd, hmg, oform, hstall, 179] => (AOpnd.ofBits oform omid olo).map fun o => .afma ⟨BitVec.ofNat 4 hstall, BitVec.ofNat 5 hmg⟩ (BitVec.ofNat 5 xfd) (BitVec.ofNat 5 xfa) (BitVec.ofNat 3 xrc) (BitVec.ofNat 1 xsat) o
  | _ => none
/-- ADIV: opcode 0xB4 (R296). -/
def decOpB4 (w : Nat) : Option Instr :=
  match unpackBits [24, 1, 1, 1, 3, 5, 5, 5, 5, 2, 4, 8] w with
  | [olo, xrev, 0, xsat, xrc, omid, xfa, xfd, hmg, oform, hstall, 180] => (AOpnd.ofBits oform omid olo).map fun o => .adiv ⟨BitVec.ofNat 4 hstall, BitVec.ofNat 5 hmg⟩ (BitVec.ofNat 5 xfd) (BitVec.ofNat 5 xfa) (BitVec.ofNat 3 xrc) (BitVec.ofNat 1 xsat) (BitVec.ofNat 1 xrev) o
  | _ => none
/-- AMIN: opcode 0xB5 (R298). -/
def decOpB5 (w : Nat) : Option Instr :=
  match unpackBits [24, 6, 5, 5, 5, 5, 2, 4, 8] w with
  | [olo, 0, omid, xfa, xfd, hmg, oform, hstall, 181] => (AOpnd.ofBits oform omid olo).map fun o => .amin ⟨BitVec.ofNat 4 hstall, BitVec.ofNat 5 hmg⟩ (BitVec.ofNat 5 xfd) (BitVec.ofNat 5 xfa) o
  | _ => none
/-- AMAX: opcode 0xB6 (R298). -/
def decOpB6 (w : Nat) : Option Instr :=
  match unpackBits [24, 6, 5, 5, 5, 5, 2, 4, 8] w with
  | [olo, 0, omid, xfa, xfd, hmg, oform, hstall, 182] => (AOpnd.ofBits oform omid olo).map fun o => .amax ⟨BitVec.ofNat 4 hstall, BitVec.ofNat 5 hmg⟩ (BitVec.ofNat 5 xfd) (BitVec.ofNat 5 xfa) o
  | _ => none
/-- AABS: opcode 0xB7 (R296). -/
def decOpB7 (w : Nat) : Option Instr :=
  match unpackBits [26, 1, 3, 5, 5, 5, 5, 2, 4, 8] w with
  | [0, xsat, xrc, 0, xfa, xfd, hmg, 0, hstall, 183] => some (.aabs ⟨BitVec.ofNat 4 hstall, BitVec.ofNat 5 hmg⟩ (BitVec.ofNat 5 xfd) (BitVec.ofNat 5 xfa) (BitVec.ofNat 3 xrc) (BitVec.ofNat 1 xsat))
  | _ => none
/-- ANEG: opcode 0xB8 (R296). -/
def decOpB8 (w : Nat) : Option Instr :=
  match unpackBits [26, 1, 3, 5, 5, 5, 5, 2, 4, 8] w with
  | [0, xsat, xrc, 0, xfa, xfd, hmg, 0, hstall, 184] => some (.aneg ⟨BitVec.ofNat 4 hstall, BitVec.ofNat 5 hmg⟩ (BitVec.ofNat 5 xfd) (BitVec.ofNat 5 xfa) (BitVec.ofNat 3 xrc) (BitVec.ofNat 1 xsat))
  | _ => none
/-- ALOG_AND, ALOG_OR, ALOG_XOR, ALOG_ANDN: opcode 0xB9 (R299). -/
def decOpB9 (w : Nat) : Option Instr :=
  match unpackBits [24, 6, 5, 5, 5, 5, 2, 4, 8] w with
  | [olo, 0, omid, xfa, xfd, hmg, oform, hstall, 185] => (AOpnd.ofBits oform omid olo).map fun o => .alogAnd ⟨BitVec.ofNat 4 hstall, BitVec.ofNat 5 hmg⟩ (BitVec.ofNat 5 xfd) (BitVec.ofNat 5 xfa) o
  | [olo, 1, omid, xfa, xfd, hmg, oform, hstall, 185] => (AOpnd.ofBits oform omid olo).map fun o => .alogOr ⟨BitVec.ofNat 4 hstall, BitVec.ofNat 5 hmg⟩ (BitVec.ofNat 5 xfd) (BitVec.ofNat 5 xfa) o
  | [olo, 2, omid, xfa, xfd, hmg, oform, hstall, 185] => (AOpnd.ofBits oform omid olo).map fun o => .alogXor ⟨BitVec.ofNat 4 hstall, BitVec.ofNat 5 hmg⟩ (BitVec.ofNat 5 xfd) (BitVec.ofNat 5 xfa) o
  | [olo, 3, omid, xfa, xfd, hmg, oform, hstall, 185] => (AOpnd.ofBits oform omid olo).map fun o => .alogAndn ⟨BitVec.ofNat 4 hstall, BitVec.ofNat 5 hmg⟩ (BitVec.ofNat 5 xfd) (BitVec.ofNat 5 xfa) o
  | _ => none
/-- ASHF_SHL, ASHF_SHR, ASHF_SRA, ASHF_ROT: opcode 0xBA (R299). -/
def decOpBA (w : Nat) : Option Instr :=
  match unpackBits [24, 2, 1, 3, 5, 5, 5, 5, 2, 4, 8] w with
  | [olo, 0, xsat, 0, omid, xfa, xfd, hmg, oform, hstall, 186] => (AOpnd.ofBits oform omid olo).map fun o => .ashfShl ⟨BitVec.ofNat 4 hstall, BitVec.ofNat 5 hmg⟩ (BitVec.ofNat 5 xfd) (BitVec.ofNat 5 xfa) (BitVec.ofNat 1 xsat) o
  | [olo, 1, xsat, 0, omid, xfa, xfd, hmg, oform, hstall, 186] => (AOpnd.ofBits oform omid olo).map fun o => .ashfShr ⟨BitVec.ofNat 4 hstall, BitVec.ofNat 5 hmg⟩ (BitVec.ofNat 5 xfd) (BitVec.ofNat 5 xfa) (BitVec.ofNat 1 xsat) o
  | [olo, 2, xsat, 0, omid, xfa, xfd, hmg, oform, hstall, 186] => (AOpnd.ofBits oform omid olo).map fun o => .ashfSra ⟨BitVec.ofNat 4 hstall, BitVec.ofNat 5 hmg⟩ (BitVec.ofNat 5 xfd) (BitVec.ofNat 5 xfa) (BitVec.ofNat 1 xsat) o
  | [olo, 3, xsat, 0, omid, xfa, xfd, hmg, oform, hstall, 186] => (AOpnd.ofBits oform omid olo).map fun o => .ashfRot ⟨BitVec.ofNat 4 hstall, BitVec.ofNat 5 hmg⟩ (BitVec.ofNat 5 xfd) (BitVec.ofNat 5 xfa) (BitVec.ofNat 1 xsat) o
  | _ => none
/-- ACVT: opcode 0xBB (R300). -/
def decOpBB (w : Nat) : Option Instr :=
  match unpackBits [26, 1, 3, 5, 5, 5, 5, 2, 4, 8] w with
  | [0, xsat, xrc, 0, xfa, xfd, hmg, 0, hstall, 187] => some (.acvt ⟨BitVec.ofNat 4 hstall, BitVec.ofNat 5 hmg⟩ (BitVec.ofNat 5 xfd) (BitVec.ofNat 5 xfa) (BitVec.ofNat 3 xrc) (BitVec.ofNat 1 xsat))
  | _ => none
/-- ACLAMP: opcode 0xBC (R298). -/
def decOpBC (w : Nat) : Option Instr :=
  match unpackBits [18, 6, 6, 5, 5, 5, 5, 2, 4, 8] w with
  | [0, xs, 0, xsb, xfa, xfd, hmg, 1, hstall, 188] => some (.aclamp ⟨BitVec.ofNat 4 hstall, BitVec.ofNat 5 hmg⟩ (BitVec.ofNat 5 xfd) (BitVec.ofNat 5 xfa) (BitVec.ofNat 5 xsb) (BitVec.ofNat 6 xs))
  | _ => none
/-- ASQRT: opcode 0xBD (R296). -/
def decOpBD (w : Nat) : Option Instr :=
  match unpackBits [26, 1, 3, 5, 5, 5, 5, 2, 4, 8] w with
  | [0, xsat, xrc, 0, xfa, xfd, hmg, 0, hstall, 189] => some (.asqrt ⟨BitVec.ofNat 4 hstall, BitVec.ofNat 5 hmg⟩ (BitVec.ofNat 5 xfd) (BitVec.ofNat 5 xfa) (BitVec.ofNat 3 xrc) (BitVec.ofNat 1 xsat))
  | _ => none
/-- AHAM: opcode 0xBE (R284). -/
def decOpBE (w : Nat) : Option Instr :=
  match unpackBits [24, 2, 1, 3, 5, 5, 5, 5, 2, 4, 8] w with
  | [olo, 0, xsat, 0, omid, xfa, xfd, hmg, oform, hstall, 190] => (AOpnd.ofBits oform omid olo).map fun o => .aham ⟨BitVec.ofNat 4 hstall, BitVec.ofNat 5 hmg⟩ (BitVec.ofNat 5 xfd) (BitVec.ofNat 5 xfa) (BitVec.ofNat 1 xsat) o
  | _ => none
/-- AREM: opcode 0xBF (R296). -/
def decOpBF (w : Nat) : Option Instr :=
  match unpackBits [24, 1, 1, 1, 3, 5, 5, 5, 5, 2, 4, 8] w with
  | [olo, xrev, 0, xsat, 0, omid, xfa, xfd, hmg, oform, hstall, 191] => (AOpnd.ofBits oform omid olo).map fun o => .arem ⟨BitVec.ofNat 4 hstall, BitVec.ofNat 5 hmg⟩ (BitVec.ofNat 5 xfd) (BitVec.ofNat 5 xfa) (BitVec.ofNat 1 xsat) (BitVec.ofNat 1 xrev) o
  | _ => none
/-- ALUT: opcode 0xC0 (R303). -/
def decOpC0 (w : Nat) : Option Instr :=
  match unpackBits [18, 6, 6, 5, 5, 5, 5, 2, 4, 8] w with
  | [0, xs, 0, xsb, xfa, xfd, hmg, 1, hstall, 192] => some (.alut ⟨BitVec.ofNat 4 hstall, BitVec.ofNat 5 hmg⟩ (BitVec.ofNat 5 xfd) (BitVec.ofNat 5 xfa) (BitVec.ofNat 5 xsb) (BitVec.ofNat 6 xs))
  | _ => none
/-- ASHR: opcode 0xC1 (R304). -/
def decOpC1 (w : Nat) : Option Instr :=
  match unpackBits [24, 11, 5, 5, 5, 2, 4, 8] w with
  | [olo, 0, xfa, xfd, hmg, oform, hstall, 193] => (SvOpnd.ofBits oform olo).map fun o => .ashr ⟨BitVec.ofNat 4 hstall, BitVec.ofNat 5 hmg⟩ (BitVec.ofNat 5 xfd) (BitVec.ofNat 5 xfa) o
  | _ => none
/-- ASCAN_ADD, ASCAN_MIN, ASCAN_MAX, ASCAN_OR: opcode 0xC2 (R305). -/
def decOpC2 (w : Nat) : Option Instr :=
  match unpackBits [26, 1, 3, 5, 5, 5, 5, 2, 4, 8] w with
  | [0, xsat, xrc, 0, xfa, xfd, hmg, 0, hstall, 194] => some (.ascanAdd ⟨BitVec.ofNat 4 hstall, BitVec.ofNat 5 hmg⟩ (BitVec.ofNat 5 xfd) (BitVec.ofNat 5 xfa) (BitVec.ofNat 3 xrc) (BitVec.ofNat 1 xsat))
  | [16777216, xsat, xrc, 0, xfa, xfd, hmg, 0, hstall, 194] => some (.ascanMin ⟨BitVec.ofNat 4 hstall, BitVec.ofNat 5 hmg⟩ (BitVec.ofNat 5 xfd) (BitVec.ofNat 5 xfa) (BitVec.ofNat 3 xrc) (BitVec.ofNat 1 xsat))
  | [33554432, xsat, xrc, 0, xfa, xfd, hmg, 0, hstall, 194] => some (.ascanMax ⟨BitVec.ofNat 4 hstall, BitVec.ofNat 5 hmg⟩ (BitVec.ofNat 5 xfd) (BitVec.ofNat 5 xfa) (BitVec.ofNat 3 xrc) (BitVec.ofNat 1 xsat))
  | [50331648, xsat, xrc, 0, xfa, xfd, hmg, 0, hstall, 194] => some (.ascanOr ⟨BitVec.ofNat 4 hstall, BitVec.ofNat 5 hmg⟩ (BitVec.ofNat 5 xfd) (BitVec.ofNat 5 xfa) (BitVec.ofNat 3 xrc) (BitVec.ofNat 1 xsat))
  | _ => none
/-- ASEGR_ADD, ASEGR_MIN, ASEGR_MAX, ASEGR_OR: opcode 0xC3 (R306). -/
def decOpC3 (w : Nat) : Option Instr :=
  match unpackBits [26, 1, 3, 5, 5, 5, 5, 2, 4, 8] w with
  | [0, xsat, xrc, xmb, xfa, xfd, hmg, 0, hstall, 195] => some (.asegrAdd ⟨BitVec.ofNat 4 hstall, BitVec.ofNat 5 hmg⟩ (BitVec.ofNat 5 xfd) (BitVec.ofNat 5 xfa) (BitVec.ofNat 5 xmb) (BitVec.ofNat 3 xrc) (BitVec.ofNat 1 xsat))
  | [16777216, xsat, xrc, xmb, xfa, xfd, hmg, 0, hstall, 195] => some (.asegrMin ⟨BitVec.ofNat 4 hstall, BitVec.ofNat 5 hmg⟩ (BitVec.ofNat 5 xfd) (BitVec.ofNat 5 xfa) (BitVec.ofNat 5 xmb) (BitVec.ofNat 3 xrc) (BitVec.ofNat 1 xsat))
  | [33554432, xsat, xrc, xmb, xfa, xfd, hmg, 0, hstall, 195] => some (.asegrMax ⟨BitVec.ofNat 4 hstall, BitVec.ofNat 5 hmg⟩ (BitVec.ofNat 5 xfd) (BitVec.ofNat 5 xfa) (BitVec.ofNat 5 xmb) (BitVec.ofNat 3 xrc) (BitVec.ofNat 1 xsat))
  | [50331648, xsat, xrc, xmb, xfa, xfd, hmg, 0, hstall, 195] => some (.asegrOr ⟨BitVec.ofNat 4 hstall, BitVec.ofNat 5 hmg⟩ (BitVec.ofNat 5 xfd) (BitVec.ofNat 5 xfa) (BitVec.ofNat 5 xmb) (BitVec.ofNat 3 xrc) (BitVec.ofNat 1 xsat))
  | _ => none
/-- ASPI: opcode 0xC4 (R308). -/
def decOpC4 (w : Nat) : Option Instr :=
  match unpackBits [26, 1, 3, 5, 5, 5, 5, 2, 4, 8] w with
  | [0, xsat, xrc, xfb, xfa, xfd, hmg, 0, hstall, 196] => some (.aspi ⟨BitVec.ofNat 4 hstall, BitVec.ofNat 5 hmg⟩ (BitVec.ofNat 5 xfd) (BitVec.ofNat 5 xfa) (BitVec.ofNat 5 xfb) (BitVec.ofNat 3 xrc) (BitVec.ofNat 1 xsat))
  | _ => none
/-- ASPU: opcode 0xC5 (R308). -/
def decOpC5 (w : Nat) : Option Instr :=
  match unpackBits [26, 1, 3, 5, 5, 5, 5, 2, 4, 8] w with
  | [0, xsat, xrc, xfb, xfa, xfd, hmg, 0, hstall, 197] => some (.aspu ⟨BitVec.ofNat 4 hstall, BitVec.ofNat 5 hmg⟩ (BitVec.ofNat 5 xfd) (BitVec.ofNat 5 xfa) (BitVec.ofNat 5 xfb) (BitVec.ofNat 3 xrc) (BitVec.ofNat 1 xsat))
  | _ => none
/-- ASPLEN_SET, ASPLEN_MASK: opcode 0xC6 (R309). -/
def decOpC6 (w : Nat) : Option Instr :=
  match unpackBits [24, 11, 5, 5, 5, 2, 4, 8] w with
  | [olo, 0, 0, xfd, hmg, oform, hstall, 198] => (SvOpnd.ofBits oform olo).map fun o => .asplenSet ⟨BitVec.ofNat 4 hstall, BitVec.ofNat 5 hmg⟩ (BitVec.ofNat 5 xfd) o
  | [0, 1, xfa, xmd, hmg, 0, hstall, 198] => some (.asplenMask ⟨BitVec.ofNat 4 hstall, BitVec.ofNat 5 hmg⟩ (BitVec.ofNat 5 xmd) (BitVec.ofNat 5 xfa))
  | _ => none
/-- AAPP_IDX, AAPP_VAL: opcode 0xC7 (R286). -/
def decOpC7 (w : Nat) : Option Instr :=
  match unpackBits [18, 6, 11, 5, 5, 5, 2, 4, 8] w with
  | [0, xs, 0, 0, xmd, hmg, 1, hstall, 199] => some (.aappIdx ⟨BitVec.ofNat 4 hstall, BitVec.ofNat 5 hmg⟩ (BitVec.ofNat 5 xmd) (BitVec.ofNat 6 xs))
  | [0, xs, 1, xfa, xmd, hmg, 1, hstall, 199] => some (.aappVal ⟨BitVec.ofNat 4 hstall, BitVec.ofNat 5 hmg⟩ (BitVec.ofNat 5 xmd) (BitVec.ofNat 5 xfa) (BitVec.ofNat 6 xs))
  | _ => none
/-- ACONF: opcode 0xC8 (R285). -/
def decOpC8 (w : Nat) : Option Instr :=
  match unpackBits [35, 5, 5, 5, 2, 4, 8] w with
  | [0, xfa, xmd, hmg, 0, hstall, 200] => some (.aconf ⟨BitVec.ofNat 4 hstall, BitVec.ofNat 5 hmg⟩ (BitVec.ofNat 5 xmd) (BitVec.ofNat 5 xfa))
  | _ => none
/-- AINTV_CC, AINTV_CO, AINTV_OC, AINTV_OO: opcode 0xC9 (R270). -/
def decOpC9 (w : Nat) : Option Instr :=
  match unpackBits [18, 6, 6, 5, 5, 5, 5, 2, 4, 8] w with
  | [0, xs, 0, xsb, xfa, xmd, hmg, 1, hstall, 201] => some (.aintvCc ⟨BitVec.ofNat 4 hstall, BitVec.ofNat 5 hmg⟩ (BitVec.ofNat 5 xmd) (BitVec.ofNat 5 xfa) (BitVec.ofNat 5 xsb) (BitVec.ofNat 6 xs))
  | [0, xs, 1, xsb, xfa, xmd, hmg, 1, hstall, 201] => some (.aintvCo ⟨BitVec.ofNat 4 hstall, BitVec.ofNat 5 hmg⟩ (BitVec.ofNat 5 xmd) (BitVec.ofNat 5 xfa) (BitVec.ofNat 5 xsb) (BitVec.ofNat 6 xs))
  | [0, xs, 2, xsb, xfa, xmd, hmg, 1, hstall, 201] => some (.aintvOc ⟨BitVec.ofNat 4 hstall, BitVec.ofNat 5 hmg⟩ (BitVec.ofNat 5 xmd) (BitVec.ofNat 5 xfa) (BitVec.ofNat 5 xsb) (BitVec.ofNat 6 xs))
  | [0, xs, 3, xsb, xfa, xmd, hmg, 1, hstall, 201] => some (.aintvOo ⟨BitVec.ofNat 4 hstall, BitVec.ofNat 5 hmg⟩ (BitVec.ofNat 5 xmd) (BitVec.ofNat 5 xfa) (BitVec.ofNat 5 xsb) (BitVec.ofNat 6 xs))
  | _ => none
/-- AMATCH: opcode 0xCA (R271). -/
def decOpCA (w : Nat) : Option Instr :=
  match unpackBits [18, 4, 8, 5, 5, 5, 5, 2, 4, 8] w with
  | [0, xz, 3, xsb, xfa, xmd, hmg, 1, hstall, 202] => some (.amatch ⟨BitVec.ofNat 4 hstall, BitVec.ofNat 5 hmg⟩ (BitVec.ofNat 5 xmd) (BitVec.ofNat 5 xfa) (BitVec.ofNat 5 xsb) (BitVec.ofNat 4 xz))
  | _ => none
/-- ACHK: opcode 0xCB (R239). -/
def decOpCB (w : Nat) : Option Instr :=
  match unpackBits [35, 5, 5, 5, 2, 4, 8] w with
  | [0, xfa, xmd, hmg, 0, hstall, 203] => some (.achk ⟨BitVec.ofNat 4 hstall, BitVec.ofNat 5 hmg⟩ (BitVec.ofNat 5 xmd) (BitVec.ofNat 5 xfa))
  | _ => none
/-- AFILL: opcode 0xCC (R276). -/
def decOpCC (w : Nat) : Option Instr :=
  match unpackBits [24, 2, 1, 13, 5, 5, 2, 4, 8] w with
  | [olo, 0, xsat, 0, xfd, hmg, oform, hstall, 204] => (SvOpnd.ofBits oform olo).map fun o => .afill ⟨BitVec.ofNat 4 hstall, BitVec.ofNat 5 hmg⟩ (BitVec.ofNat 5 xfd) (BitVec.ofNat 1 xsat) o
  | _ => none
/-- ABCAST: opcode 0xCD (R275). -/
def decOpCD (w : Nat) : Option Instr :=
  match unpackBits [24, 11, 5, 5, 5, 2, 4, 8] w with
  | [olo, 0, xfa, xfd, hmg, oform, hstall, 205] => (SvOpnd.ofBits oform olo).map fun o => .abcast ⟨BitVec.ofNat 4 hstall, BitVec.ofNat 5 hmg⟩ (BitVec.ofNat 5 xfd) (BitVec.ofNat 5 xfa) o
  | _ => none
/-- AQNT, AQNT_KEEP: opcode 0xCE (R301). -/
def decOpCE (w : Nat) : Option Instr :=
  match unpackBits [24, 11, 5, 5, 5, 2, 4, 8] w with
  | [olo, 0, xfa, xfd, hmg, oform, hstall, 206] => (SvOpnd.ofBits oform olo).map fun o => .aqnt ⟨BitVec.ofNat 4 hstall, BitVec.ofNat 5 hmg⟩ (BitVec.ofNat 5 xfd) (BitVec.ofNat 5 xfa) o
  | [0, 1, xfa, xfd, hmg, 0, hstall, 206] => some (.aqntKeep ⟨BitVec.ofNat 4 hstall, BitVec.ofNat 5 hmg⟩ (BitVec.ofNat 5 xfd) (BitVec.ofNat 5 xfa))
  | _ => none
/-- ADQNT: opcode 0xCF (R302). -/
def decOpCF (w : Nat) : Option Instr :=
  match unpackBits [24, 2, 1, 3, 5, 5, 5, 5, 2, 4, 8] w with
  | [olo, 0, xsat, xrc, omid, xfa, xfd, hmg, oform, hstall, 207] => (AOpnd.ofBits oform omid olo).map fun o => .adqnt ⟨BitVec.ofNat 4 hstall, BitVec.ofNat 5 hmg⟩ (BitVec.ofNat 5 xfd) (BitVec.ofNat 5 xfa) (BitVec.ofNat 3 xrc) (BitVec.ofNat 1 xsat) o
  | _ => none
/-- ALD: opcode 0xD0 (R312). -/
def decOpD0 (w : Nat) : Option Instr :=
  match unpackBits [18, 6, 1, 15, 5, 5, 2, 4, 8] w with
  | [0, xs, xff, 0, xfd, hmg, 1, hstall, 208] => some (.ald ⟨BitVec.ofNat 4 hstall, BitVec.ofNat 5 hmg⟩ (BitVec.ofNat 5 xfd) (BitVec.ofNat 1 xff) (BitVec.ofNat 6 xs))
  | _ => none
/-- ALDX: opcode 0xD1 (R312). -/
def decOpD1 (w : Nat) : Option Instr :=
  match unpackBits [18, 6, 1, 5, 5, 5, 5, 5, 2, 4, 8] w with
  | [0, xs, xff, 0, xfb, 0, xfd, hmg, 1, hstall, 209] => some (.aldx ⟨BitVec.ofNat 4 hstall, BitVec.ofNat 5 hmg⟩ (BitVec.ofNat 5 xfd) (BitVec.ofNat 5 xfb) (BitVec.ofNat 1 xff) (BitVec.ofNat 6 xs))
  | _ => none
/-- ALDSEG: opcode 0xD2 (R315). -/
def decOpD2 (w : Nat) : Option Instr :=
  match unpackBits [18, 6, 2, 1, 3, 5, 5, 5, 5, 2, 4, 8] w with
  | [0, xs, xnm1, xnosat, xrc, xsb, 0, xfd, hmg, 1, hstall, 210] => some (.aldseg ⟨BitVec.ofNat 4 hstall, BitVec.ofNat 5 hmg⟩ (BitVec.ofNat 5 xfd) (BitVec.ofNat 5 xsb) (BitVec.ofNat 3 xrc) (BitVec.ofNat 1 xnosat) (BitVec.ofNat 2 xnm1) (BitVec.ofNat 6 xs))
  | _ => none
/-- AST: opcode 0xD3 (R313). -/
def decOpD3 (w : Nat) : Option Instr :=
  match unpackBits [18, 6, 11, 5, 5, 5, 2, 4, 8] w with
  | [0, xs, 0, xfa, 0, hmg, 1, hstall, 211] => some (.ast ⟨BitVec.ofNat 4 hstall, BitVec.ofNat 5 hmg⟩ (BitVec.ofNat 5 xfa) (BitVec.ofNat 6 xs))
  | _ => none
/-- ASTX: opcode 0xD4 (R313). -/
def decOpD4 (w : Nat) : Option Instr :=
  match unpackBits [18, 6, 6, 5, 5, 5, 5, 2, 4, 8] w with
  | [0, xs, 0, xfb, xfa, 0, hmg, 1, hstall, 212] => some (.astx ⟨BitVec.ofNat 4 hstall, BitVec.ofNat 5 hmg⟩ (BitVec.ofNat 5 xfa) (BitVec.ofNat 5 xfb) (BitVec.ofNat 6 xs))
  | _ => none
/-- ASTSEG: opcode 0xD5 (R315). -/
def decOpD5 (w : Nat) : Option Instr :=
  match unpackBits [18, 6, 2, 1, 3, 5, 5, 5, 5, 2, 4, 8] w with
  | [0, xs, xnm1, xnosat, xrc, xsb, xfa, 0, hmg, 1, hstall, 213] => some (.astseg ⟨BitVec.ofNat 4 hstall, BitVec.ofNat 5 hmg⟩ (BitVec.ofNat 5 xfa) (BitVec.ofNat 5 xsb) (BitVec.ofNat 3 xrc) (BitVec.ofNat 1 xnosat) (BitVec.ofNat 2 xnm1) (BitVec.ofNat 6 xs))
  | _ => none
/-- ALDS: opcode 0xD6 (R312). -/
def decOpD6 (w : Nat) : Option Instr :=
  match unpackBits [18, 6, 1, 5, 5, 5, 5, 5, 2, 4, 8] w with
  | [0, xs, xff, 0, xsb, 0, xfd, hmg, 1, hstall, 214] => some (.alds ⟨BitVec.ofNat 4 hstall, BitVec.ofNat 5 hmg⟩ (BitVec.ofNat 5 xfd) (BitVec.ofNat 5 xsb) (BitVec.ofNat 1 xff) (BitVec.ofNat 6 xs))
  | _ => none
/-- ASTS: opcode 0xD7 (R313). -/
def decOpD7 (w : Nat) : Option Instr :=
  match unpackBits [18, 6, 6, 5, 5, 5, 5, 2, 4, 8] w with
  | [0, xs, 0, xsb, xfa, 0, hmg, 1, hstall, 215] => some (.asts ⟨BitVec.ofNat 4 hstall, BitVec.ofNat 5 hmg⟩ (BitVec.ofNat 5 xfa) (BitVec.ofNat 5 xsb) (BitVec.ofNat 6 xs))
  | _ => none
/-- ASAVE_F, ASAVE_M, ASAVE_DESC, ASAVE_EV: opcode 0xD8 (R316). -/
def decOpD8 (w : Nat) : Option Instr :=
  match unpackBits [18, 6, 16, 5, 7, 4, 8] w with
  | [0, xs, 0, xk, 56, xnst, 216] => some (.asaveF (BitVec.ofNat 4 xnst) (BitVec.ofNat 5 xk) (BitVec.ofNat 6 xs))
  | [0, xs, 1, xk, 56, xnst, 216] => some (.asaveM (BitVec.ofNat 4 xnst) (BitVec.ofNat 5 xk) (BitVec.ofNat 6 xs))
  | [0, xs, 2, xk, 56, xnst, 216] => some (.asaveDesc (BitVec.ofNat 4 xnst) (BitVec.ofNat 5 xk) (BitVec.ofNat 6 xs))
  | [0, xs, 3, xk, 56, xnst, 216] => some (.asaveEv (BitVec.ofNat 4 xnst) (BitVec.ofNat 5 xk) (BitVec.ofNat 6 xs))
  | _ => none
/-- ARSTR_F, ARSTR_M, ARSTR_DESC, ARSTR_EV: opcode 0xD9 (R317). -/
def decOpD9 (w : Nat) : Option Instr :=
  match unpackBits [18, 6, 16, 5, 7, 4, 8] w with
  | [0, xs, 0, xk, 56, xnst, 217] => some (.arstrF (BitVec.ofNat 4 xnst) (BitVec.ofNat 5 xk) (BitVec.ofNat 6 xs))
  | [0, xs, 1, xk, 56, xnst, 217] => some (.arstrM (BitVec.ofNat 4 xnst) (BitVec.ofNat 5 xk) (BitVec.ofNat 6 xs))
  | [0, xs, 2, xk, 56, xnst, 217] => some (.arstrDesc (BitVec.ofNat 4 xnst) (BitVec.ofNat 5 xk) (BitVec.ofNat 6 xs))
  | [0, xs, 3, xk, 56, xnst, 217] => some (.arstrEv (BitVec.ofNat 4 xnst) (BitVec.ofNat 5 xk) (BitVec.ofNat 6 xs))
  | _ => none
/-- ADUMP: opcode 0xDA (R318). -/
def decOpDA (w : Nat) : Option Instr :=
  match unpackBits [36, 6, 6, 3, 1, 4, 8] w with
  | [0, xb, xa, hpred, hneg, hstall, 218] => some (.adump ⟨BitVec.ofNat 4 hstall, BitVec.ofNat 1 hneg, BitVec.ofNat 3 hpred⟩ (BitVec.ofNat 6 xa) (BitVec.ofNat 6 xb))
  | _ => none
/-- AUNDMP: opcode 0xDB (R320). -/
def decOpDB (w : Nat) : Option Instr :=
  match unpackBits [36, 6, 6, 3, 1, 4, 8] w with
  | [0, xb, xa, hpred, hneg, hstall, 219] => some (.aundmp ⟨BitVec.ofNat 4 hstall, BitVec.ofNat 1 hneg, BitVec.ofNat 3 hpred⟩ (BitVec.ofNat 6 xa) (BitVec.ofNat 6 xb))
  | _ => none
/-- AUCODE: opcode 0xDC (R237). -/
def decOpDC (w : Nat) : Option Instr :=
  match unpackBits [30, 6, 6, 6, 3, 1, 4, 8] w with
  | [0, xc, xb, xa, hpred, hneg, hstall, 220] => some (.aucode ⟨BitVec.ofNat 4 hstall, BitVec.ofNat 1 hneg, BitVec.ofNat 3 hpred⟩ (BitVec.ofNat 6 xa) (BitVec.ofNat 6 xb) (BitVec.ofNat 6 xc))
  | _ => none
/-- AHOLD_STOP, AHOLD_GO, AHOLD_DROP: opcode 0xDD (R230). -/
def decOpDD (w : Nat) : Option Instr :=
  match unpackBits [48, 3, 1, 4, 8] w with
  | [0, hpred, hneg, hstall, 221] => some (.aholdStop ⟨BitVec.ofNat 4 hstall, BitVec.ofNat 1 hneg, BitVec.ofNat 3 hpred⟩)
  | [16777216, hpred, hneg, hstall, 221] => some (.aholdGo ⟨BitVec.ofNat 4 hstall, BitVec.ofNat 1 hneg, BitVec.ofNat 3 hpred⟩)
  | [33554432, hpred, hneg, hstall, 221] => some (.aholdDrop ⟨BitVec.ofNat 4 hstall, BitVec.ofNat 1 hneg, BitVec.ofNat 3 hpred⟩)
  | _ => none
/-- AESTAT_STATE, AESTAT_ADDR, AESTAT_DETAIL, AESTAT_PASS: opcode 0xDE (R231). -/
def decOpDE (w : Nat) : Option Instr :=
  match unpackBits [42, 6, 3, 1, 4, 8] w with
  | [0, xd, hpred, hneg, hstall, 222] => some (.aestatState ⟨BitVec.ofNat 4 hstall, BitVec.ofNat 1 hneg, BitVec.ofNat 3 hpred⟩ (BitVec.ofNat 6 xd))
  | [16777216, xd, hpred, hneg, hstall, 222] => some (.aestatAddr ⟨BitVec.ofNat 4 hstall, BitVec.ofNat 1 hneg, BitVec.ofNat 3 hpred⟩ (BitVec.ofNat 6 xd))
  | [33554432, xd, hpred, hneg, hstall, 222] => some (.aestatDetail ⟨BitVec.ofNat 4 hstall, BitVec.ofNat 1 hneg, BitVec.ofNat 3 hpred⟩ (BitVec.ofNat 6 xd))
  | [50331648, xd, hpred, hneg, hstall, 222] => some (.aestatPass ⟨BitVec.ofNat 4 hstall, BitVec.ofNat 1 hneg, BitVec.ofNat 3 hpred⟩ (BitVec.ofNat 6 xd))
  | _ => none
/-- AWAIT: opcode 0xDF (R232). -/
def decOpDF (w : Nat) : Option Instr :=
  match unpackBits [48, 3, 1, 4, 8] w with
  | [0, hpred, hneg, hstall, 223] => some (.await ⟨BitVec.ofNat 4 hstall, BitVec.ofNat 1 hneg, BitVec.ofNat 3 hpred⟩)
  | _ => none
/-- SPCFG: opcode 0xE0 (R447). -/
def decOpE0 (w : Nat) : Option Instr :=
  match unpackBits [36, 6, 6, 3, 1, 4, 8] w with
  | [0, xb, xa, hpred, hneg, hstall, 224] => some (.spcfg ⟨BitVec.ofNat 4 hstall, BitVec.ofNat 1 hneg, BitVec.ofNat 3 hpred⟩ (BitVec.ofNat 6 xa) (BitVec.ofNat 6 xb))
  | _ => none
/-- SPLD: opcode 0xE1 (R448). -/
def decOpE1 (w : Nat) : Option Instr :=
  match unpackBits [30, 6, 6, 6, 3, 1, 4, 8] w with
  | [0, xc, xb, xa, hpred, hneg, hstall, 225] => some (.spld ⟨BitVec.ofNat 4 hstall, BitVec.ofNat 1 hneg, BitVec.ofNat 3 hpred⟩ (BitVec.ofNat 6 xa) (BitVec.ofNat 6 xb) (BitVec.ofNat 6 xc))
  | _ => none
/-- SPST: opcode 0xE2 (R448). -/
def decOpE2 (w : Nat) : Option Instr :=
  match unpackBits [30, 6, 6, 6, 3, 1, 4, 8] w with
  | [0, xc, xb, xa, hpred, hneg, hstall, 226] => some (.spst ⟨BitVec.ofNat 4 hstall, BitVec.ofNat 1 hneg, BitVec.ofNat 3 hpred⟩ (BitVec.ofNat 6 xa) (BitVec.ofNat 6 xb) (BitVec.ofNat 6 xc))
  | _ => none
/-- SPAMO_ADD, SPAMO_MIN, SPAMO_MAX, SPAMO_SWAP: opcode 0xE3 (R449). -/
def decOpE3 (w : Nat) : Option Instr :=
  match unpackBits [26, 2, 2, 6, 6, 6, 3, 1, 4, 8] w with
  | [0, xty, 0, xc, xb, xa, hpred, hneg, hstall, 227] => some (.spamoAdd ⟨BitVec.ofNat 4 hstall, BitVec.ofNat 1 hneg, BitVec.ofNat 3 hpred⟩ (BitVec.ofNat 6 xa) (BitVec.ofNat 6 xb) (BitVec.ofNat 6 xc) (BitVec.ofNat 2 xty))
  | [16777216, xty, 0, xc, xb, xa, hpred, hneg, hstall, 227] => some (.spamoMin ⟨BitVec.ofNat 4 hstall, BitVec.ofNat 1 hneg, BitVec.ofNat 3 hpred⟩ (BitVec.ofNat 6 xa) (BitVec.ofNat 6 xb) (BitVec.ofNat 6 xc) (BitVec.ofNat 2 xty))
  | [33554432, xty, 0, xc, xb, xa, hpred, hneg, hstall, 227] => some (.spamoMax ⟨BitVec.ofNat 4 hstall, BitVec.ofNat 1 hneg, BitVec.ofNat 3 hpred⟩ (BitVec.ofNat 6 xa) (BitVec.ofNat 6 xb) (BitVec.ofNat 6 xc) (BitVec.ofNat 2 xty))
  | [50331648, xty, 0, xc, xb, xa, hpred, hneg, hstall, 227] => some (.spamoSwap ⟨BitVec.ofNat 4 hstall, BitVec.ofNat 1 hneg, BitVec.ofNat 3 hpred⟩ (BitVec.ofNat 6 xa) (BitVec.ofNat 6 xb) (BitVec.ofNat 6 xc) (BitVec.ofNat 2 xty))
  | _ => none
/-- SPNEXT_GT, SPNEXT_GE: opcode 0xE4 (R450). -/
def decOpE4 (w : Nat) : Option Instr :=
  match unpackBits [30, 6, 6, 6, 3, 1, 4, 8] w with
  | [0, xc, xb, xa, hpred, hneg, hstall, 228] => some (.spnextGt ⟨BitVec.ofNat 4 hstall, BitVec.ofNat 1 hneg, BitVec.ofNat 3 hpred⟩ (BitVec.ofNat 6 xa) (BitVec.ofNat 6 xb) (BitVec.ofNat 6 xc))
  | [16777216, xc, xb, xa, hpred, hneg, hstall, 228] => some (.spnextGe ⟨BitVec.ofNat 4 hstall, BitVec.ofNat 1 hneg, BitVec.ofNat 3 hpred⟩ (BitVec.ofNat 6 xa) (BitVec.ofNat 6 xb) (BitVec.ofNat 6 xc))
  | _ => none
/-- SPPREV_LT, SPPREV_LE: opcode 0xE5 (R450). -/
def decOpE5 (w : Nat) : Option Instr :=
  match unpackBits [30, 6, 6, 6, 3, 1, 4, 8] w with
  | [0, xc, xb, xa, hpred, hneg, hstall, 229] => some (.spprevLt ⟨BitVec.ofNat 4 hstall, BitVec.ofNat 1 hneg, BitVec.ofNat 3 hpred⟩ (BitVec.ofNat 6 xa) (BitVec.ofNat 6 xb) (BitVec.ofNat 6 xc))
  | [16777216, xc, xb, xa, hpred, hneg, hstall, 229] => some (.spprevLe ⟨BitVec.ofNat 4 hstall, BitVec.ofNat 1 hneg, BitVec.ofNat 3 hpred⟩ (BitVec.ofNat 6 xa) (BitVec.ofNat 6 xb) (BitVec.ofNat 6 xc))
  | _ => none
/-- SPCNT: opcode 0xE6 (R452). -/
def decOpE6 (w : Nat) : Option Instr :=
  match unpackBits [30, 6, 6, 6, 3, 1, 4, 8] w with
  | [0, xc, xb, xa, hpred, hneg, hstall, 230] => some (.spcnt ⟨BitVec.ofNat 4 hstall, BitVec.ofNat 1 hneg, BitVec.ofNat 3 hpred⟩ (BitVec.ofNat 6 xa) (BitVec.ofNat 6 xb) (BitVec.ofNat 6 xc))
  | _ => none
/-- SPDEL: opcode 0xE7 (R452). -/
def decOpE7 (w : Nat) : Option Instr :=
  match unpackBits [30, 6, 6, 6, 3, 1, 4, 8] w with
  | [0, xc, xb, xa, hpred, hneg, hstall, 231] => some (.spdel ⟨BitVec.ofNat 4 hstall, BitVec.ofNat 1 hneg, BitVec.ofNat 3 hpred⟩ (BitVec.ofNat 6 xa) (BitVec.ofNat 6 xb) (BitVec.ofNat 6 xc))
  | _ => none
/-- SPWAIT: opcode 0xE8 (R453). -/
def decOpE8 (w : Nat) : Option Instr :=
  match unpackBits [48, 3, 1, 4, 8] w with
  | [0, hpred, hneg, hstall, 232] => some (.spwait ⟨BitVec.ofNat 4 hstall, BitVec.ofNat 1 hneg, BitVec.ofNat 3 hpred⟩)
  | _ => none
/-- SPSTAT_KEYS, SPSTAT_NODES, SPSTAT_FREE, SPSTAT_DEPTH, SPSTAT_STATUS, SPSTAT_PAGES: opcode 0xE9 (R454). -/
def decOpE9 (w : Nat) : Option Instr :=
  match unpackBits [36, 6, 6, 3, 1, 4, 8] w with
  | [0, xb, xa, hpred, hneg, hstall, 233] => some (.spstatKeys ⟨BitVec.ofNat 4 hstall, BitVec.ofNat 1 hneg, BitVec.ofNat 3 hpred⟩ (BitVec.ofNat 6 xa) (BitVec.ofNat 6 xb))
  | [16777216, xb, xa, hpred, hneg, hstall, 233] => some (.spstatNodes ⟨BitVec.ofNat 4 hstall, BitVec.ofNat 1 hneg, BitVec.ofNat 3 hpred⟩ (BitVec.ofNat 6 xa) (BitVec.ofNat 6 xb))
  | [33554432, xb, xa, hpred, hneg, hstall, 233] => some (.spstatFree ⟨BitVec.ofNat 4 hstall, BitVec.ofNat 1 hneg, BitVec.ofNat 3 hpred⟩ (BitVec.ofNat 6 xa) (BitVec.ofNat 6 xb))
  | [50331648, xb, xa, hpred, hneg, hstall, 233] => some (.spstatDepth ⟨BitVec.ofNat 4 hstall, BitVec.ofNat 1 hneg, BitVec.ofNat 3 hpred⟩ (BitVec.ofNat 6 xa) (BitVec.ofNat 6 xb))
  | [67108864, xb, xa, hpred, hneg, hstall, 233] => some (.spstatStatus ⟨BitVec.ofNat 4 hstall, BitVec.ofNat 1 hneg, BitVec.ofNat 3 hpred⟩ (BitVec.ofNat 6 xa) (BitVec.ofNat 6 xb))
  | [83886080, xb, xa, hpred, hneg, hstall, 233] => some (.spstatPages ⟨BitVec.ofNat 4 hstall, BitVec.ofNat 1 hneg, BitVec.ofNat 3 hpred⟩ (BitVec.ofNat 6 xa) (BitVec.ofNat 6 xb))
  | _ => none
/-- SPPOOL: opcode 0xEA (R455). -/
def decOpEA (w : Nat) : Option Instr :=
  match unpackBits [16, 14, 6, 6, 6, 3, 1, 4, 8] w with
  | [xn, 0, xc, xb, xa, hpred, hneg, hstall, 234] => some (.sppool ⟨BitVec.ofNat 4 hstall, BitVec.ofNat 1 hneg, BitVec.ofNat 3 hpred⟩ (BitVec.ofNat 6 xa) (BitVec.ofNat 6 xb) (BitVec.ofNat 6 xc) (BitVec.ofNat 16 xn))
  | _ => none
/-- SPFREE: opcode 0xEB (R456). -/
def decOpEB (w : Nat) : Option Instr :=
  match unpackBits [36, 6, 6, 3, 1, 4, 8] w with
  | [0, xb, xa, hpred, hneg, hstall, 235] => some (.spfree ⟨BitVec.ofNat 4 hstall, BitVec.ofNat 1 hneg, BitVec.ofNat 3 hpred⟩ (BitVec.ofNat 6 xa) (BitVec.ofNat 6 xb))
  | _ => none
/-- RCLASS_SET, RCLASS_READ: opcode 0xEC (R472). -/
def decOpEC (w : Nat) : Option Instr :=
  match unpackBits [30, 6, 6, 6, 3, 1, 4, 8] w with
  | [0, xc, xb, xa, hpred, hneg, hstall, 236] => some (.rclassSet ⟨BitVec.ofNat 4 hstall, BitVec.ofNat 1 hneg, BitVec.ofNat 3 hpred⟩ (BitVec.ofNat 6 xa) (BitVec.ofNat 6 xb) (BitVec.ofNat 6 xc))
  | [16777216, 0, xb, xa, hpred, hneg, hstall, 236] => some (.rclassRead ⟨BitVec.ofNat 4 hstall, BitVec.ofNat 1 hneg, BitVec.ofNat 3 hpred⟩ (BitVec.ofNat 6 xa) (BitVec.ofNat 6 xb))
  | _ => none
/-- EBSET_CORR, EBSET_DET, EBSET_RDCORR, EBSET_RDDET: opcode 0xED (R475). -/
def decOpED (w : Nat) : Option Instr :=
  match unpackBits [30, 6, 6, 6, 3, 1, 4, 8] w with
  | [0, xc, xb, xa, hpred, hneg, hstall, 237] => some (.ebsetCorr ⟨BitVec.ofNat 4 hstall, BitVec.ofNat 1 hneg, BitVec.ofNat 3 hpred⟩ (BitVec.ofNat 6 xa) (BitVec.ofNat 6 xb) (BitVec.ofNat 6 xc))
  | [16777216, xc, xb, xa, hpred, hneg, hstall, 237] => some (.ebsetDet ⟨BitVec.ofNat 4 hstall, BitVec.ofNat 1 hneg, BitVec.ofNat 3 hpred⟩ (BitVec.ofNat 6 xa) (BitVec.ofNat 6 xb) (BitVec.ofNat 6 xc))
  | [33554432, 0, xb, xa, hpred, hneg, hstall, 237] => some (.ebsetRdcorr ⟨BitVec.ofNat 4 hstall, BitVec.ofNat 1 hneg, BitVec.ofNat 3 hpred⟩ (BitVec.ofNat 6 xa) (BitVec.ofNat 6 xb))
  | [50331648, 0, xb, xa, hpred, hneg, hstall, 237] => some (.ebsetRddet ⟨BitVec.ofNat 4 hstall, BitVec.ofNat 1 hneg, BitVec.ofNat 3 hpred⟩ (BitVec.ofNat 6 xa) (BitVec.ofNat 6 xb))
  | _ => none
/-- MSCOP_CLEAN, MSCOP_CLINV, MSCOP_INV, MSCOP_STAT: opcode 0xEE (R480). -/
def decOpEE (w : Nat) : Option Instr :=
  match unpackBits [30, 6, 6, 6, 3, 1, 4, 8] w with
  | [0, xc, xb, xa, hpred, hneg, hstall, 238] => some (.mscopClean ⟨BitVec.ofNat 4 hstall, BitVec.ofNat 1 hneg, BitVec.ofNat 3 hpred⟩ (BitVec.ofNat 6 xa) (BitVec.ofNat 6 xb) (BitVec.ofNat 6 xc))
  | [16777216, xc, xb, xa, hpred, hneg, hstall, 238] => some (.mscopClinv ⟨BitVec.ofNat 4 hstall, BitVec.ofNat 1 hneg, BitVec.ofNat 3 hpred⟩ (BitVec.ofNat 6 xa) (BitVec.ofNat 6 xb) (BitVec.ofNat 6 xc))
  | [33554432, xc, xb, xa, hpred, hneg, hstall, 238] => some (.mscopInv ⟨BitVec.ofNat 4 hstall, BitVec.ofNat 1 hneg, BitVec.ofNat 3 hpred⟩ (BitVec.ofNat 6 xa) (BitVec.ofNat 6 xb) (BitVec.ofNat 6 xc))
  | [50331648, xc, xb, xa, hpred, hneg, hstall, 238] => some (.mscopStat ⟨BitVec.ofNat 4 hstall, BitVec.ofNat 1 hneg, BitVec.ofNat 3 hpred⟩ (BitVec.ofNat 6 xa) (BitVec.ofNat 6 xb) (BitVec.ofNat 6 xc))
  | _ => none
/-- PEERW_OPEN, PEERW_CLOSE, PEERW_READ, PEERW_BIND: opcode 0xEF (R490). -/
def decOpEF (w : Nat) : Option Instr :=
  match unpackBits [30, 6, 6, 6, 3, 1, 4, 8] w with
  | [0, xc, xb, xa, hpred, hneg, hstall, 239] => some (.peerwOpen ⟨BitVec.ofNat 4 hstall, BitVec.ofNat 1 hneg, BitVec.ofNat 3 hpred⟩ (BitVec.ofNat 6 xa) (BitVec.ofNat 6 xb) (BitVec.ofNat 6 xc))
  | [16777216, 0, xb, xa, hpred, hneg, hstall, 239] => some (.peerwClose ⟨BitVec.ofNat 4 hstall, BitVec.ofNat 1 hneg, BitVec.ofNat 3 hpred⟩ (BitVec.ofNat 6 xa) (BitVec.ofNat 6 xb))
  | [33554432, 0, xb, xa, hpred, hneg, hstall, 239] => some (.peerwRead ⟨BitVec.ofNat 4 hstall, BitVec.ofNat 1 hneg, BitVec.ofNat 3 hpred⟩ (BitVec.ofNat 6 xa) (BitVec.ofNat 6 xb))
  | [50331648, xc, xb, xa, hpred, hneg, hstall, 239] => some (.peerwBind ⟨BitVec.ofNat 4 hstall, BitVec.ofNat 1 hneg, BitVec.ofNat 3 hpred⟩ (BitVec.ofNat 6 xa) (BitVec.ofNat 6 xb) (BitVec.ofNat 6 xc))
  | _ => none
/-- SMC_SETW, SMC_FWLD, SMC_VER: opcode 0xF0 (R501, R500). -/
def decOpF0 (w : Nat) : Option Instr :=
  match unpackBits [30, 6, 6, 6, 3, 1, 4, 8] w with
  | [0, xc, xb, xa, hpred, hneg, hstall, 240] => some (.smcSetw ⟨BitVec.ofNat 4 hstall, BitVec.ofNat 1 hneg, BitVec.ofNat 3 hpred⟩ (BitVec.ofNat 6 xa) (BitVec.ofNat 6 xb) (BitVec.ofNat 6 xc))
  | [16777216, 0, xb, xa, hpred, hneg, hstall, 240] => some (.smcFwld ⟨BitVec.ofNat 4 hstall, BitVec.ofNat 1 hneg, BitVec.ofNat 3 hpred⟩ (BitVec.ofNat 6 xa) (BitVec.ofNat 6 xb))
  | [33554432, 0, 0, xa, hpred, hneg, hstall, 240] => some (.smcVer ⟨BitVec.ofNat 4 hstall, BitVec.ofNat 1 hneg, BitVec.ofNat 3 hpred⟩ (BitVec.ofNat 6 xa))
  | _ => none
/-- PERF_READ, PERF_CLR: opcode 0xF1 (R500). -/
def decOpF1 (w : Nat) : Option Instr :=
  match unpackBits [36, 6, 6, 3, 1, 4, 8] w with
  | [0, xb, xa, hpred, hneg, hstall, 241] => some (.perfRead ⟨BitVec.ofNat 4 hstall, BitVec.ofNat 1 hneg, BitVec.ofNat 3 hpred⟩ (BitVec.ofNat 6 xa) (BitVec.ofNat 6 xb))
  | [16777216, xb, xa, hpred, hneg, hstall, 241] => some (.perfClr ⟨BitVec.ofNat 4 hstall, BitVec.ofNat 1 hneg, BitVec.ofNat 3 hpred⟩ (BitVec.ofNat 6 xa) (BitVec.ofNat 6 xb))
  | _ => none
/-- DBG_HALT, DBG_GO, DBG_RD, DBG_WR, DBG_SIG: opcode 0xF2 (R500). -/
def decOpF2 (w : Nat) : Option Instr :=
  match unpackBits [30, 6, 6, 6, 3, 1, 4, 8] w with
  | [0, 0, xb, xa, hpred, hneg, hstall, 242] => some (.dbgHalt ⟨BitVec.ofNat 4 hstall, BitVec.ofNat 1 hneg, BitVec.ofNat 3 hpred⟩ (BitVec.ofNat 6 xa) (BitVec.ofNat 6 xb))
  | [16777216, 0, xb, xa, hpred, hneg, hstall, 242] => some (.dbgGo ⟨BitVec.ofNat 4 hstall, BitVec.ofNat 1 hneg, BitVec.ofNat 3 hpred⟩ (BitVec.ofNat 6 xa) (BitVec.ofNat 6 xb))
  | [33554432, xc, xb, xa, hpred, hneg, hstall, 242] => some (.dbgRd ⟨BitVec.ofNat 4 hstall, BitVec.ofNat 1 hneg, BitVec.ofNat 3 hpred⟩ (BitVec.ofNat 6 xa) (BitVec.ofNat 6 xb) (BitVec.ofNat 6 xc))
  | [50331648, xc, xb, xa, hpred, hneg, hstall, 242] => some (.dbgWr ⟨BitVec.ofNat 4 hstall, BitVec.ofNat 1 hneg, BitVec.ofNat 3 hpred⟩ (BitVec.ofNat 6 xa) (BitVec.ofNat 6 xb) (BitVec.ofNat 6 xc))
  | [67108864, xc, xb, xa, hpred, hneg, hstall, 242] => some (.dbgSig ⟨BitVec.ofNat 4 hstall, BitVec.ofNat 1 hneg, BitVec.ofNat 3 hpred⟩ (BitVec.ofNat 6 xa) (BitVec.ofNat 6 xb) (BitVec.ofNat 6 xc))
  | _ => none
/-- ATST: opcode 0xF3 (R503). -/
def decOpF3 (w : Nat) : Option Instr :=
  match unpackBits [30, 6, 6, 6, 3, 1, 4, 8] w with
  | [0, xc, xb, xa, hpred, hneg, hstall, 243] => some (.atst ⟨BitVec.ofNat 4 hstall, BitVec.ofNat 1 hneg, BitVec.ofNat 3 hpred⟩ (BitVec.ofNat 6 xa) (BitVec.ofNat 6 xb) (BitVec.ofNat 6 xc))
  | _ => none
/-- PWRQ_MAX, PWRQ_STATE: opcode 0xF4 (R504). -/
def decOpF4 (w : Nat) : Option Instr :=
  match unpackBits [30, 6, 6, 6, 3, 1, 4, 8] w with
  | [0, 0, xb, xa, hpred, hneg, hstall, 244] => some (.pwrqMax ⟨BitVec.ofNat 4 hstall, BitVec.ofNat 1 hneg, BitVec.ofNat 3 hpred⟩ (BitVec.ofNat 6 xa) (BitVec.ofNat 6 xb))
  | [16777216, xc, xb, xa, hpred, hneg, hstall, 244] => some (.pwrqState ⟨BitVec.ofNat 4 hstall, BitVec.ofNat 1 hneg, BitVec.ofNat 3 hpred⟩ (BitVec.ofNat 6 xa) (BitVec.ofNat 6 xb) (BitVec.ofNat 6 xc))
  | _ => none
/-- ALIM: opcode 0xF5 (R236). -/
def decOpF5 (w : Nat) : Option Instr :=
  match unpackBits [30, 6, 6, 6, 3, 1, 4, 8] w with
  | [0, xc, xb, xa, hpred, hneg, hstall, 245] => some (.alim ⟨BitVec.ofNat 4 hstall, BitVec.ofNat 1 hneg, BitVec.ofNat 3 hpred⟩ (BitVec.ofNat 6 xa) (BitVec.ofNat 6 xb) (BitVec.ofNat 6 xc))
  | _ => none
/-- HMSG: opcode 0xF6 (R488). -/
def decOpF6 (w : Nat) : Option Instr :=
  match unpackBits [11, 25, 6, 6, 3, 1, 4, 8] w with
  | [xvec, 0, xb, xa, hpred, hneg, hstall, 246] => some (.hmsg ⟨BitVec.ofNat 4 hstall, BitVec.ofNat 1 hneg, BitVec.ofNat 3 hpred⟩ (BitVec.ofNat 6 xa) (BitVec.ofNat 6 xb) (BitVec.ofNat 11 xvec))
  | _ => none
/-- PMSG_SEND, PMSG_RECV, PMSG_WAIT: opcode 0xF7 (R493). -/
def decOpF7 (w : Nat) : Option Instr :=
  match unpackBits [6, 24, 6, 6, 6, 3, 1, 4, 8] w with
  | [xch, 0, xc, xb, xa, hpred, hneg, hstall, 247] => some (.pmsgSend ⟨BitVec.ofNat 4 hstall, BitVec.ofNat 1 hneg, BitVec.ofNat 3 hpred⟩ (BitVec.ofNat 6 xa) (BitVec.ofNat 6 xb) (BitVec.ofNat 6 xc) (BitVec.ofNat 6 xch))
  | [xch, 262144, 0, xb, xa, hpred, hneg, hstall, 247] => some (.pmsgRecv ⟨BitVec.ofNat 4 hstall, BitVec.ofNat 1 hneg, BitVec.ofNat 3 hpred⟩ (BitVec.ofNat 6 xa) (BitVec.ofNat 6 xb) (BitVec.ofNat 6 xch))
  | [xch, 524288, 0, 0, xa, hpred, hneg, hstall, 247] => some (.pmsgWait ⟨BitVec.ofNat 4 hstall, BitVec.ofNat 1 hneg, BitVec.ofNat 3 hpred⟩ (BitVec.ofNat 6 xa) (BitVec.ofNat 6 xch))
  | _ => none
/-- LI: opcode 0xF8 (R155). -/
def decOpF8 (w w1 : Nat) : Option Instr :=
  match unpackBits [42, 6, 3, 1, 4, 8] w with
  | [0, xd, hpred, hneg, hstall, 248] => some (.li ⟨BitVec.ofNat 4 hstall, BitVec.ofNat 1 hneg, BitVec.ofNat 3 hpred⟩ (BitVec.ofNat 6 xd) (BitVec.ofNat 64 w1))
  | _ => none
/-- JMPX: opcode 0xF9 (R155). -/
def decOpF9 (w w1 : Nat) : Option Instr :=
  match unpackBits [48, 3, 1, 4, 8] w with
  | [0, hpred, hneg, hstall, 249] => some (.jmpx ⟨BitVec.ofNat 4 hstall, BitVec.ofNat 1 hneg, BitVec.ofNat 3 hpred⟩ (BitVec.ofNat 64 w1))
  | _ => none
/-- CALLX: opcode 0xFA (R155). -/
def decOpFA (w w1 : Nat) : Option Instr :=
  match unpackBits [48, 3, 1, 4, 8] w with
  | [0, hpred, hneg, hstall, 250] => some (.callx ⟨BitVec.ofNat 4 hstall, BitVec.ofNat 1 hneg, BitVec.ofNat 3 hpred⟩ (BitVec.ofNat 64 w1))
  | _ => none
/-- ADDIX: opcode 0xFB (R155). -/
def decOpFB (w w1 : Nat) : Option Instr :=
  match unpackBits [36, 6, 6, 3, 1, 4, 8] w with
  | [0, xa, xd, hpred, hneg, hstall, 251] => some (.addix ⟨BitVec.ofNat 4 hstall, BitVec.ofNat 1 hneg, BitVec.ofNat 3 hpred⟩ (BitVec.ofNat 6 xd) (BitVec.ofNat 6 xa) (BitVec.ofNat 64 w1))
  | _ => none
/-- LEAX: opcode 0xFC (R155). -/
def decOpFC (w w1 : Nat) : Option Instr :=
  match unpackBits [42, 6, 3, 1, 4, 8] w with
  | [0, xd, hpred, hneg, hstall, 252] => some (.leax ⟨BitVec.ofNat 4 hstall, BitVec.ofNat 1 hneg, BitVec.ofNat 3 hpred⟩ (BitVec.ofNat 6 xd) (BitVec.ofNat 64 w1))
  | _ => none
/-- AWRX: opcode 0xFD (R273). -/
def decOpFD (w w1 : Nat) : Option Instr :=
  match unpackBits [36, 6, 6, 4, 4, 8] w with
  | [0, xfd, xmg, 0, xnst, 253] => some (.awrx (BitVec.ofNat 4 xnst) (BitVec.ofNat 6 xmg) (BitVec.ofNat 6 xfd) (BitVec.ofNat 64 w1))
  | _ => none
/-- ASRCHX: opcode 0xFE (R268). -/
def decOpFE (w w1 : Nat) : Option Instr :=
  match unpackBits [36, 6, 6, 4, 4, 8] w with
  | [0, xfa, xmd, 0, xnst, 254] => some (.asrchx (BitVec.ofNat 4 xnst) (BitVec.ofNat 6 xmd) (BitVec.ofNat 6 xfa) (BitVec.ofNat 64 w1))
  | _ => none
/-- UD: opcode 0xFF (R156). -/
def decOpFF (w : Nat) : Option Instr :=
  match unpackBits [56, 8] w with
  | [xx, 255] => some (.ud (BitVec.ofNat 56 xx))
  | _ => none
/-- Opcodes 0x00 to 0x0F (Table 2.7). -/
def decHi0 (lo w _w1 : Nat) : Option Instr :=
  match lo with
  | 0 => decOp00 w
  | 1 => decOp01 w
  | 2 => decOp02 w
  | 3 => decOp03 w
  | 4 => decOp04 w
  | 5 => decOp05 w
  | 6 => decOp06 w
  | 7 => decOp07 w
  | 8 => decOp08 w
  | 9 => decOp09 w
  | 10 => decOp0A w
  | 11 => decOp0B w
  | 12 => decOp0C w
  | 13 => decOp0D w
  | 14 => decOp0E w
  | 15 => decOp0F w
  | _ => none
/-- Opcodes 0x10 to 0x1F (Table 2.7). -/
def decHi1 (lo w _w1 : Nat) : Option Instr :=
  match lo with
  | 0 => decOp10 w
  | 1 => decOp11 w
  | 2 => decOp12 w
  | 3 => decOp13 w
  | 4 => decOp14 w
  | 5 => decOp15 w
  | 6 => decOp16 w
  | 7 => decOp17 w
  | 8 => decOp18 w
  | 9 => decOp19 w
  | 10 => decOp1A w
  | 11 => decOp1B w
  | 12 => decOp1C w
  | 13 => decOp1D w
  | 14 => decOp1E w
  | 15 => decOp1F w
  | _ => none
/-- Opcodes 0x20 to 0x2F (Table 2.7). -/
def decHi2 (lo w _w1 : Nat) : Option Instr :=
  match lo with
  | 0 => decOp20 w
  | 1 => decOp21 w
  | 2 => decOp22 w
  | 3 => decOp23 w
  | 4 => decOp24 w
  | 5 => decOp25 w
  | 6 => decOp26 w
  | 7 => decOp27 w
  | 8 => decOp28 w
  | 9 => decOp29 w
  | 10 => decOp2A w
  | 11 => decOp2B w
  | 12 => decOp2C w
  | 13 => decOp2D w
  | 14 => decOp2E w
  | 15 => decOp2F w
  | _ => none
/-- Opcodes 0x30 to 0x3F (Table 2.7). -/
def decHi3 (lo w _w1 : Nat) : Option Instr :=
  match lo with
  | 0 => decOp30 w
  | 1 => decOp31 w
  | 2 => decOp32 w
  | 3 => decOp33 w
  | 4 => decOp34 w
  | 5 => decOp35 w
  | 6 => decOp36 w
  | 7 => decOp37 w
  | 8 => decOp38 w
  | 9 => decOp39 w
  | 10 => decOp3A w
  | 11 => decOp3B w
  | 12 => decOp3C w
  | 13 => decOp3D w
  | 14 => decOp3E w
  | 15 => decOp3F w
  | _ => none
/-- Opcodes 0x40 to 0x4F (Table 2.7). -/
def decHi4 (lo w _w1 : Nat) : Option Instr :=
  match lo with
  | 0 => decOp40 w
  | 1 => decOp41 w
  | 2 => decOp42 w
  | 3 => decOp43 w
  | 4 => decOp44 w
  | 5 => decOp45 w
  | 6 => decOp46 w
  | 7 => decOp47 w
  | 8 => decOp48 w
  | 9 => decOp49 w
  | 10 => decOp4A w
  | 11 => decOp4B w
  | 12 => decOp4C w
  | 13 => decOp4D w
  | 14 => decOp4E w
  | 15 => decOp4F w
  | _ => none
/-- Opcodes 0x50 to 0x5F (Table 2.7). -/
def decHi5 (lo w _w1 : Nat) : Option Instr :=
  match lo with
  | 0 => decOp50 w
  | 1 => decOp51 w
  | 2 => decOp52 w
  | 3 => decOp53 w
  | 4 => decOp54 w
  | 5 => decOp55 w
  | 6 => decOp56 w
  | 7 => decOp57 w
  | 8 => decOp58 w
  | 9 => decOp59 w
  | 10 => decOp5A w
  | 11 => decOp5B w
  | 12 => decOp5C w
  | 13 => decOp5D w
  | 14 => decOp5E w
  | 15 => decOp5F w
  | _ => none
/-- Opcodes 0x60 to 0x6F (Table 2.7). -/
def decHi6 (lo w _w1 : Nat) : Option Instr :=
  match lo with
  | 0 => decOp60 w
  | 1 => decOp61 w
  | 2 => decOp62 w
  | 3 => decOp63 w
  | 4 => decOp64 w
  | 5 => decOp65 w
  | 6 => decOp66 w
  | 7 => decOp67 w
  | 8 => decOp68 w
  | 9 => decOp69 w
  | 10 => decOp6A w
  | 11 => decOp6B w
  | 12 => decOp6C w
  | 13 => decOp6D w
  | 14 => decOp6E w
  | 15 => decOp6F w
  | _ => none
/-- Opcodes 0x70 to 0x7F (Table 2.7). -/
def decHi7 (lo w _w1 : Nat) : Option Instr :=
  match lo with
  | 0 => decOp70 w
  | 1 => decOp71 w
  | 2 => decOp72 w
  | 3 => decOp73 w
  | 4 => decOp74 w
  | 5 => decOp75 w
  | 6 => decOp76 w
  | 7 => decOp77 w
  | 8 => decOp78 w
  | 9 => decOp79 w
  | 10 => decOp7A w
  | 11 => decOp7B w
  | 12 => decOp7C w
  | 13 => decOp7D w
  | 14 => decOp7E w
  | 15 => decOp7F w
  | _ => none
/-- Opcodes 0x80 to 0x8F (Table 2.7). -/
def decHi8 (lo w _w1 : Nat) : Option Instr :=
  match lo with
  | 0 => decOp80 w
  | 1 => decOp81 w
  | 2 => decOp82 w
  | 3 => decOp83 w
  | 4 => decOp84 w
  | 5 => decOp85 w
  | 6 => decOp86 w
  | 7 => decOp87 w
  | 8 => decOp88 w
  | 9 => decOp89 w
  | 10 => decOp8A w
  | 11 => decOp8B w
  | 12 => decOp8C w
  | 13 => decOp8D w
  | 14 => decOp8E w
  | 15 => decOp8F w
  | _ => none
/-- Opcodes 0x90 to 0x9F (Table 2.7). -/
def decHi9 (lo w _w1 : Nat) : Option Instr :=
  match lo with
  | 0 => decOp90 w
  | 1 => decOp91 w
  | 2 => decOp92 w
  | 3 => decOp93 w
  | 4 => decOp94 w
  | 5 => decOp95 w
  | 6 => decOp96 w
  | 7 => decOp97 w
  | 8 => decOp98 w
  | 9 => decOp99 w
  | 10 => decOp9A w
  | 11 => decOp9B w
  | 12 => decOp9C w
  | 13 => decOp9D w
  | 14 => decOp9E w
  | 15 => decOp9F w
  | _ => none
/-- Opcodes 0xA0 to 0xAF (Table 2.7). -/
def decHiA (lo w _w1 : Nat) : Option Instr :=
  match lo with
  | 0 => decOpA0 w
  | 1 => decOpA1 w
  | 2 => decOpA2 w
  | 3 => decOpA3 w
  | 4 => decOpA4 w
  | 5 => decOpA5 w
  | 6 => decOpA6 w
  | 7 => decOpA7 w
  | 8 => decOpA8 w
  | 9 => decOpA9 w
  | 10 => decOpAA w
  | 11 => decOpAB w
  | 12 => decOpAC w
  | 13 => decOpAD w
  | 14 => decOpAE w
  | 15 => decOpAF w
  | _ => none
/-- Opcodes 0xB0 to 0xBF (Table 2.7). -/
def decHiB (lo w _w1 : Nat) : Option Instr :=
  match lo with
  | 0 => decOpB0 w
  | 1 => decOpB1 w
  | 2 => decOpB2 w
  | 3 => decOpB3 w
  | 4 => decOpB4 w
  | 5 => decOpB5 w
  | 6 => decOpB6 w
  | 7 => decOpB7 w
  | 8 => decOpB8 w
  | 9 => decOpB9 w
  | 10 => decOpBA w
  | 11 => decOpBB w
  | 12 => decOpBC w
  | 13 => decOpBD w
  | 14 => decOpBE w
  | 15 => decOpBF w
  | _ => none
/-- Opcodes 0xC0 to 0xCF (Table 2.7). -/
def decHiC (lo w _w1 : Nat) : Option Instr :=
  match lo with
  | 0 => decOpC0 w
  | 1 => decOpC1 w
  | 2 => decOpC2 w
  | 3 => decOpC3 w
  | 4 => decOpC4 w
  | 5 => decOpC5 w
  | 6 => decOpC6 w
  | 7 => decOpC7 w
  | 8 => decOpC8 w
  | 9 => decOpC9 w
  | 10 => decOpCA w
  | 11 => decOpCB w
  | 12 => decOpCC w
  | 13 => decOpCD w
  | 14 => decOpCE w
  | 15 => decOpCF w
  | _ => none
/-- Opcodes 0xD0 to 0xDF (Table 2.7). -/
def decHiD (lo w _w1 : Nat) : Option Instr :=
  match lo with
  | 0 => decOpD0 w
  | 1 => decOpD1 w
  | 2 => decOpD2 w
  | 3 => decOpD3 w
  | 4 => decOpD4 w
  | 5 => decOpD5 w
  | 6 => decOpD6 w
  | 7 => decOpD7 w
  | 8 => decOpD8 w
  | 9 => decOpD9 w
  | 10 => decOpDA w
  | 11 => decOpDB w
  | 12 => decOpDC w
  | 13 => decOpDD w
  | 14 => decOpDE w
  | 15 => decOpDF w
  | _ => none
/-- Opcodes 0xE0 to 0xEF (Table 2.7). -/
def decHiE (lo w _w1 : Nat) : Option Instr :=
  match lo with
  | 0 => decOpE0 w
  | 1 => decOpE1 w
  | 2 => decOpE2 w
  | 3 => decOpE3 w
  | 4 => decOpE4 w
  | 5 => decOpE5 w
  | 6 => decOpE6 w
  | 7 => decOpE7 w
  | 8 => decOpE8 w
  | 9 => decOpE9 w
  | 10 => decOpEA w
  | 11 => decOpEB w
  | 12 => decOpEC w
  | 13 => decOpED w
  | 14 => decOpEE w
  | 15 => decOpEF w
  | _ => none
/-- Opcodes 0xF0 to 0xFF (Table 2.7). -/
def decHiF (lo w w1 : Nat) : Option Instr :=
  match lo with
  | 0 => decOpF0 w
  | 1 => decOpF1 w
  | 2 => decOpF2 w
  | 3 => decOpF3 w
  | 4 => decOpF4 w
  | 5 => decOpF5 w
  | 6 => decOpF6 w
  | 7 => decOpF7 w
  | 8 => decOpF8 w w1
  | 9 => decOpF9 w w1
  | 10 => decOpFA w w1
  | 11 => decOpFB w w1
  | 12 => decOpFC w w1
  | 13 => decOpFD w w1
  | 14 => decOpFE w w1
  | 15 => decOpFF w
  | _ => none
/-- The instruction a word stands for, before the limits of `Instr.wf`; `w1` is the second word of an L form. -/
def decodeRaw (w w1 : Nat) : Option Instr :=
  match bitsFrom 60 w with
  | 0 => decHi0 (bitsFrom 56 w % 16) w w1
  | 1 => decHi1 (bitsFrom 56 w % 16) w w1
  | 2 => decHi2 (bitsFrom 56 w % 16) w w1
  | 3 => decHi3 (bitsFrom 56 w % 16) w w1
  | 4 => decHi4 (bitsFrom 56 w % 16) w w1
  | 5 => decHi5 (bitsFrom 56 w % 16) w w1
  | 6 => decHi6 (bitsFrom 56 w % 16) w w1
  | 7 => decHi7 (bitsFrom 56 w % 16) w w1
  | 8 => decHi8 (bitsFrom 56 w % 16) w w1
  | 9 => decHi9 (bitsFrom 56 w % 16) w w1
  | 10 => decHiA (bitsFrom 56 w % 16) w w1
  | 11 => decHiB (bitsFrom 56 w % 16) w w1
  | 12 => decHiC (bitsFrom 56 w % 16) w w1
  | 13 => decHiD (bitsFrom 56 w % 16) w w1
  | 14 => decHiE (bitsFrom 56 w % 16) w w1
  | 15 => decHiF (bitsFrom 56 w % 16) w w1
  | _ => none

/-- Decoding of a word and the word after it (R47 check 2): total, and refused by name. -/
def decode (w w1 : BitVec 64) : Except DecodeReject Instr :=
  match decodeRaw w.toNat w1.toNat with
  | some i => if i.wf then .ok i else .error .illegalEncoding
  | none => .error .illegalEncoding

/-- Opcodes of format L (R155, R50). -/
def isLong (w : BitVec 64) : Bool :=
  decide (0xF8 ≤ w.toNat / 2 ^ 56) && decide (w.toNat / 2 ^ 56 ≤ 0xFE)

/-- Eight bytes, lowest address first, as a little-endian word (R4). -/
def wordOfBytes : List (BitVec 8) → Nat
  | [] => 0
  | b :: r => b.toNat + 256 * wordOfBytes r

/-- Decoding of bytes as they lie in memory: one word, or two for format L, and the bytes left over. -/
def decodeBytes (bs : List (BitVec 8)) : Except DecodeReject (Instr × List (BitVec 8)) :=
  if bs.length < 8 then .error .truncated
  else
    let w := BitVec.ofNat 64 (wordOfBytes (bs.take 8))
    let rest := bs.drop 8
    if isLong w then
      if rest.length < 8 then .error .truncated
      else (decode w (BitVec.ofNat 64 (wordOfBytes (rest.take 8)))).map fun i => (i, rest.drop 8)
    else (decode w 0).map fun i => (i, rest)

/-- Fields of word 0 of an instruction, lowest bits first; a device event has no word. -/
def Instr.fields : Instr → List (Nat × Nat)
  | .moduleReset _ => []
  | .mboxseqWrite _ => []
  | .mgmtRegisterWrite _ _ => []
  | .inboundPcieWrite _ _ _ => []
  | .inboundPcieRead _ _ _ => []
  | .atsInvalidation _ _ => []
  | .ramirMessageArrival _ _ _ _ => []
  | .pageRequestAnswer _ _ => []
  | .remoteReadCompletion _ _ => []
  | .remoteCompletionTimeout _ => []
  | .symbolResolve _ _ => []
  | .symbolDeadline _ _ => []
  | .takeTrap _ => []
  | .itemDispatch _ => []
  | .itemResume _ => []
  | .launchComplete _ => []
  | .launchAgeing _ => []
  | .preemptMark _ => []
  | .preemptGraceExpiry _ => []
  | .watchdogExpiry _ => []
  | .permitChange _ _ => []
  | .assocDispatch _ => []
  | .streamFill _ _ => []
  | .streamDrain _ _ => []
  | .transferCommandStart _ _ => []
  | .transferCommandComplete _ _ => []
  | .matrixCommandRun _ => []
  | .matrixCommandComplete _ => []
  | .matrixTaskIssue _ => []
  | .matrixTaskComplete _ => []
  | .treeOpApply _ _ => []
  | .scrub _ => []
  | .promotionInstall _ => []
  | .demotionRemove _ => []
  | .nop h => [(48, 0), (3, h.pred.toNat), (1, h.neg.toNat), (4, h.stall.toNat), (8, 0)]
  | .halt h => [(48, 0), (3, h.pred.toNat), (1, h.neg.toNat), (4, h.stall.toNat), (8, 1)]
  | .trap h imm => [(36, imm.toNat), (12, 0), (3, h.pred.toNat), (1, h.neg.toNat), (4, h.stall.toNat), (8, 2)]
  | .sysc h imm => [(36, imm.toNat), (12, 0), (3, h.pred.toNat), (1, h.neg.toNat), (4, h.stall.toNat), (8, 3)]
  | .eret h => [(48, 0), (3, h.pred.toNat), (1, h.neg.toNat), (4, h.stall.toNat), (8, 4)]
  | .bkpt h imm => [(36, imm.toNat), (12, 0), (3, h.pred.toNat), (1, h.neg.toNat), (4, h.stall.toNat), (8, 5)]
  | .mfc h d r => [(12, r.toNat), (24, 0), (6, 0), (6, d.toNat), (3, h.pred.toNat), (1, h.neg.toNat), (4, h.stall.toNat), (8, 6)]
  | .mfcFpcsr h d => [(12, 0x010), (24, 0), (6, 0), (6, d.toNat), (3, h.pred.toNat), (1, h.neg.toNat), (4, h.stall.toNat), (8, 6)]
  | .mfcEstartFfidx h d r => [(12, 0x010 + r.toNat), (24, 0), (6, 0), (6, d.toNat), (3, h.pred.toNat), (1, h.neg.toNat), (4, h.stall.toNat), (8, 6)]
  | .mfcAdirty h d => [(12, 0x030), (24, 0), (6, 0), (6, d.toNat), (3, h.pred.toNat), (1, h.neg.toNat), (4, h.stall.toNat), (8, 6)]
  | .mtc h a r => [(12, r.toNat), (24, 0), (6, a.toNat), (6, 0), (3, h.pred.toNat), (1, h.neg.toNat), (4, h.stall.toNat), (8, 7)]
  | .mtcFpcsr h a => [(12, 0x010), (24, 0), (6, a.toNat), (6, 0), (3, h.pred.toNat), (1, h.neg.toNat), (4, h.stall.toNat), (8, 7)]
  | .mtcTrapbase h a => [(12, 0x070), (24, 0), (6, a.toNat), (6, 0), (3, h.pred.toNat), (1, h.neg.toNat), (4, h.stall.toNat), (8, 7)]
  | .mtcAlimit h a => [(12, 0x050), (24, 0), (6, a.toNat), (6, 0), (3, h.pred.toNat), (1, h.neg.toNat), (4, h.stall.toNat), (8, 7)]
  | .mtcPriocur h a => [(12, 0x041), (24, 0), (6, a.toNat), (6, 0), (3, h.pred.toNat), (1, h.neg.toNat), (4, h.stall.toNat), (8, 7)]
  | .mtcWatchdog h a r => [(12, 0x044 + r.toNat), (24, 0), (6, a.toNat), (6, 0), (3, h.pred.toNat), (1, h.neg.toNat), (4, h.stall.toNat), (8, 7)]
  | .waite h d a b => [(30, 0), (6, b.toNat), (6, a.toNat), (6, d.toNat), (3, h.pred.toNat), (1, h.neg.toNat), (4, h.stall.toNat), (8, 8)]
  | .sev h sc => [(24, 0), (3, sc.toNat), (21, 0), (3, h.pred.toNat), (1, h.neg.toNat), (4, h.stall.toNat), (8, 9)]
  | .waitm h a b => [(36, 0), (6, b.toNat), (6, a.toNat), (3, h.pred.toNat), (1, h.neg.toNat), (4, h.stall.toNat), (8, 0xa)]
  | .yield h => [(48, 0), (3, h.pred.toNat), (1, h.neg.toNat), (4, h.stall.toNat), (8, 0xb)]
  | .cacheIinv h base index disp => [(24, disp.toNat), (6, index.toNat), (6, 0), (6, base.toNat), (6, 0), (3, h.pred.toNat), (1, h.neg.toNat), (4, h.stall.toNat), (8, 0xc)]
  | .cacheClean h base index disp => [(24, disp.toNat), (6, index.toNat), (6, 0), (6, base.toNat), (6, 1), (3, h.pred.toNat), (1, h.neg.toNat), (4, h.stall.toNat), (8, 0xc)]
  | .cacheClinv h base index disp => [(24, disp.toNat), (6, index.toNat), (6, 0), (6, base.toNat), (6, 2), (3, h.pred.toNat), (1, h.neg.toNat), (4, h.stall.toNat), (8, 0xc)]
  | .cacheInv h base index disp => [(24, disp.toNat), (6, index.toNat), (6, 0), (6, base.toNat), (6, 3), (3, h.pred.toNat), (1, h.neg.toNat), (4, h.stall.toNat), (8, 0xc)]
  | .cacheZero h base index disp => [(24, disp.toNat), (6, index.toNat), (6, 0), (6, base.toNat), (6, 4), (3, h.pred.toNat), (1, h.neg.toNat), (4, h.stall.toNat), (8, 0xc)]
  | .cacheIinvall h => [(24, 0), (6, 0), (6, 0), (6, 0), (6, 5), (3, h.pred.toNat), (1, h.neg.toNat), (4, h.stall.toNat), (8, 0xc)]
  | .tlbiAll h => [(36, 0), (6, 0), (6, 0), (3, h.pred.toNat), (1, h.neg.toNat), (4, h.stall.toNat), (8, 0xd)]
  | .tlbiCtx h b => [(36, 16777216), (6, b.toNat), (6, 0), (3, h.pred.toNat), (1, h.neg.toNat), (4, h.stall.toNat), (8, 0xd)]
  | .tlbiVa h a b => [(36, 33554432), (6, b.toNat), (6, a.toNat), (3, h.pred.toNat), (1, h.neg.toNat), (4, h.stall.toNat), (8, 0xd)]
  | .tlbiVaall h a => [(36, 50331648), (6, 0), (6, a.toNat), (3, h.pred.toNat), (1, h.neg.toNat), (4, h.stall.toNat), (8, 0xd)]
  | .wdogSet h a b c => [(30, 0), (6, c.toNat), (6, b.toNat), (6, a.toNat), (3, h.pred.toNat), (1, h.neg.toNat), (4, h.stall.toNat), (8, 0xe)]
  | .wdogClr h a b => [(30, 16777216), (6, 0), (6, b.toNat), (6, a.toNat), (3, h.pred.toNat), (1, h.neg.toNat), (4, h.stall.toNat), (8, 0xe)]
  | .wdogRead h a b => [(30, 33554432), (6, 0), (6, b.toNat), (6, a.toNat), (3, h.pred.toNat), (1, h.neg.toNat), (4, h.stall.toNat), (8, 0xe)]
  | .errinjCorr h a b => [(30, 0), (6, 0), (6, b.toNat), (6, a.toNat), (3, h.pred.toNat), (1, h.neg.toNat), (4, h.stall.toNat), (8, 0xf)]
  | .errinjDet h a b => [(30, 16777216), (6, 0), (6, b.toNat), (6, a.toNat), (3, h.pred.toNat), (1, h.neg.toNat), (4, h.stall.toNat), (8, 0xf)]
  | .errinjArr h a b c => [(30, 33554432), (6, c.toNat), (6, b.toNat), (6, a.toNat), (3, h.pred.toNat), (1, h.neg.toNat), (4, h.stall.toNat), (8, 0xf)]
  | .add h d a b => [(30, 0), (6, b.toNat), (6, a.toNat), (6, d.toNat), (3, h.pred.toNat), (1, h.neg.toNat), (4, h.stall.toNat), (8, 0x10)]
  | .sub h d a b => [(30, 0), (6, b.toNat), (6, a.toNat), (6, d.toNat), (3, h.pred.toNat), (1, h.neg.toNat), (4, h.stall.toNat), (8, 0x11)]
  | .mul h d a b => [(30, 0), (6, b.toNat), (6, a.toNat), (6, d.toNat), (3, h.pred.toNat), (1, h.neg.toNat), (4, h.stall.toNat), (8, 0x12)]
  | .mulh h d a b => [(30, 0), (6, b.toNat), (6, a.toNat), (6, d.toNat), (3, h.pred.toNat), (1, h.neg.toNat), (4, h.stall.toNat), (8, 0x13)]
  | .mulhu h d a b => [(30, 0), (6, b.toNat), (6, a.toNat), (6, d.toNat), (3, h.pred.toNat), (1, h.neg.toNat), (4, h.stall.toNat), (8, 0x14)]
  | .div h d a b => [(30, 0), (6, b.toNat), (6, a.toNat), (6, d.toNat), (3, h.pred.toNat), (1, h.neg.toNat), (4, h.stall.toNat), (8, 0x15)]
  | .divu h d a b => [(30, 0), (6, b.toNat), (6, a.toNat), (6, d.toNat), (3, h.pred.toNat), (1, h.neg.toNat), (4, h.stall.toNat), (8, 0x16)]
  | .rem h d a b => [(30, 0), (6, b.toNat), (6, a.toNat), (6, d.toNat), (3, h.pred.toNat), (1, h.neg.toNat), (4, h.stall.toNat), (8, 0x17)]
  | .remu h d a b => [(30, 0), (6, b.toNat), (6, a.toNat), (6, d.toNat), (3, h.pred.toNat), (1, h.neg.toNat), (4, h.stall.toNat), (8, 0x18)]
  | .and h d a b => [(30, 0), (6, b.toNat), (6, a.toNat), (6, d.toNat), (3, h.pred.toNat), (1, h.neg.toNat), (4, h.stall.toNat), (8, 0x19)]
  | .or h d a b => [(30, 0), (6, b.toNat), (6, a.toNat), (6, d.toNat), (3, h.pred.toNat), (1, h.neg.toNat), (4, h.stall.toNat), (8, 0x1a)]
  | .xor h d a b => [(30, 0), (6, b.toNat), (6, a.toNat), (6, d.toNat), (3, h.pred.toNat), (1, h.neg.toNat), (4, h.stall.toNat), (8, 0x1b)]
  | .andn h d a b => [(30, 0), (6, b.toNat), (6, a.toNat), (6, d.toNat), (3, h.pred.toNat), (1, h.neg.toNat), (4, h.stall.toNat), (8, 0x1c)]
  | .shl h d a b => [(30, 0), (6, b.toNat), (6, a.toNat), (6, d.toNat), (3, h.pred.toNat), (1, h.neg.toNat), (4, h.stall.toNat), (8, 0x1d)]
  | .shr h d a b => [(30, 0), (6, b.toNat), (6, a.toNat), (6, d.toNat), (3, h.pred.toNat), (1, h.neg.toNat), (4, h.stall.toNat), (8, 0x1e)]
  | .sra h d a b => [(30, 0), (6, b.toNat), (6, a.toNat), (6, d.toNat), (3, h.pred.toNat), (1, h.neg.toNat), (4, h.stall.toNat), (8, 0x1f)]
  | .addi h d a imm => [(36, imm.toNat), (6, a.toNat), (6, d.toNat), (3, h.pred.toNat), (1, h.neg.toNat), (4, h.stall.toNat), (8, 0x20)]
  | .muli h d a imm => [(36, imm.toNat), (6, a.toNat), (6, d.toNat), (3, h.pred.toNat), (1, h.neg.toNat), (4, h.stall.toNat), (8, 0x21)]
  | .andi h d a imm => [(36, imm.toNat), (6, a.toNat), (6, d.toNat), (3, h.pred.toNat), (1, h.neg.toNat), (4, h.stall.toNat), (8, 0x22)]
  | .ori h d a imm => [(36, imm.toNat), (6, a.toNat), (6, d.toNat), (3, h.pred.toNat), (1, h.neg.toNat), (4, h.stall.toNat), (8, 0x23)]
  | .xori h d a imm => [(36, imm.toNat), (6, a.toNat), (6, d.toNat), (3, h.pred.toNat), (1, h.neg.toNat), (4, h.stall.toNat), (8, 0x24)]
  | .shli h d a k => [(6, k.toNat), (30, 0), (6, a.toNat), (6, d.toNat), (3, h.pred.toNat), (1, h.neg.toNat), (4, h.stall.toNat), (8, 0x25)]
  | .shri h d a k => [(6, k.toNat), (30, 0), (6, a.toNat), (6, d.toNat), (3, h.pred.toNat), (1, h.neg.toNat), (4, h.stall.toNat), (8, 0x26)]
  | .srai h d a k => [(6, k.toNat), (30, 0), (6, a.toNat), (6, d.toNat), (3, h.pred.toNat), (1, h.neg.toNat), (4, h.stall.toNat), (8, 0x27)]
  | .min h d a b => [(30, 0), (6, b.toNat), (6, a.toNat), (6, d.toNat), (3, h.pred.toNat), (1, h.neg.toNat), (4, h.stall.toNat), (8, 0x28)]
  | .max h d a b => [(30, 0), (6, b.toNat), (6, a.toNat), (6, d.toNat), (3, h.pred.toNat), (1, h.neg.toNat), (4, h.stall.toNat), (8, 0x29)]
  | .minu h d a b => [(30, 0), (6, b.toNat), (6, a.toNat), (6, d.toNat), (3, h.pred.toNat), (1, h.neg.toNat), (4, h.stall.toNat), (8, 0x2a)]
  | .maxu h d a b => [(30, 0), (6, b.toNat), (6, a.toNat), (6, d.toNat), (3, h.pred.toNat), (1, h.neg.toNat), (4, h.stall.toNat), (8, 0x2b)]
  | .clz h d a => [(36, 0), (6, a.toNat), (6, d.toNat), (3, h.pred.toNat), (1, h.neg.toNat), (4, h.stall.toNat), (8, 0x2c)]
  | .ctz h d a => [(36, 0), (6, a.toNat), (6, d.toNat), (3, h.pred.toNat), (1, h.neg.toNat), (4, h.stall.toNat), (8, 0x2d)]
  | .popc h d a => [(36, 0), (6, a.toNat), (6, d.toNat), (3, h.pred.toNat), (1, h.neg.toNat), (4, h.stall.toNat), (8, 0x2e)]
  | .brev h d a => [(36, 0), (6, a.toNat), (6, d.toNat), (3, h.pred.toNat), (1, h.neg.toNat), (4, h.stall.toNat), (8, 0x2f)]
  | .setp h pd a b cond => [(24, 0), (6, cond.toNat), (6, b.toNat), (6, a.toNat), (3, pd.toNat), (3, 0), (3, h.pred.toNat), (1, h.neg.toNat), (4, h.stall.toNat), (8, 0x30)]
  | .setpi h pd a cond imm => [(30, imm.toNat), (6, cond.toNat), (6, a.toNat), (3, pd.toNat), (3, 0), (3, h.pred.toNat), (1, h.neg.toNat), (4, h.stall.toNat), (8, 0x31)]
  | .plog h pd pa pb tbl => [(24, 0), (4, tbl.toNat), (2, 0), (3, pb.toNat), (3, 0), (3, pa.toNat), (3, 0), (3, pd.toNat), (3, 0), (3, h.pred.toNat), (1, h.neg.toNat), (4, h.stall.toNat), (8, 0x32)]
  | .sel h d a b inv ps => [(24, 0), (3, ps.toNat), (1, inv.toNat), (2, 0), (6, b.toNat), (6, a.toNat), (6, d.toNat), (3, h.pred.toNat), (1, h.neg.toNat), (4, h.stall.toNat), (8, 0x33)]
  | .lea h t base size index disp => [(24, disp.toNat), (6, index.toNat), (3, 0), (3, size.toNat), (6, base.toNat), (6, t.toNat), (3, h.pred.toNat), (1, h.neg.toNat), (4, h.stall.toNat), (8, 0x34)]
  | .leapc h d imm => [(36, imm.toNat), (6, 0), (6, d.toNat), (3, h.pred.toNat), (1, h.neg.toNat), (4, h.stall.toNat), (8, 0x35)]
  | .bfx h a b sx lenm1 pos => [(6, pos.toNat), (6, lenm1.toNat), (12, 0), (1, sx.toNat), (11, 0), (6, b.toNat), (6, a.toNat), (3, h.pred.toNat), (1, h.neg.toNat), (4, h.stall.toNat), (8, 0x36)]
  | .bfi h a b lenm1 pos => [(6, pos.toNat), (6, lenm1.toNat), (24, 0), (6, b.toNat), (6, a.toNat), (3, h.pred.toNat), (1, h.neg.toNat), (4, h.stall.toNat), (8, 0x37)]
  | .rot h d a b => [(30, 0), (6, b.toNat), (6, a.toNat), (6, d.toNat), (3, h.pred.toNat), (1, h.neg.toNat), (4, h.stall.toNat), (8, 0x38)]
  | .roti h d a k => [(6, k.toNat), (30, 0), (6, a.toNat), (6, d.toNat), (3, h.pred.toNat), (1, h.neg.toNat), (4, h.stall.toNat), (8, 0x39)]
  | .madd h a b c e => [(6, e.toNat), (24, 0), (6, c.toNat), (6, b.toNat), (6, a.toNat), (3, h.pred.toNat), (1, h.neg.toNat), (4, h.stall.toNat), (8, 0x3a)]
  | .bswapD h d a => [(36, 0), (6, a.toNat), (6, d.toNat), (3, h.pred.toNat), (1, h.neg.toNat), (4, h.stall.toNat), (8, 0x3b)]
  | .bswapW h d a => [(36, 16777216), (6, a.toNat), (6, d.toNat), (3, h.pred.toNat), (1, h.neg.toNat), (4, h.stall.toNat), (8, 0x3b)]
  | .bswapH h d a => [(36, 33554432), (6, a.toNat), (6, d.toNat), (3, h.pred.toNat), (1, h.neg.toNat), (4, h.stall.toNat), (8, 0x3b)]
  | .crc h d a b poly size => [(24, 0), (2, size.toNat), (1, poly.toNat), (3, 0), (6, b.toNat), (6, a.toNat), (6, d.toNat), (3, h.pred.toNat), (1, h.neg.toNat), (4, h.stall.toNat), (8, 0x3c)]
  | .hash h d a b => [(30, 0), (6, b.toNat), (6, a.toNat), (6, d.toNat), (3, h.pred.toNat), (1, h.neg.toNat), (4, h.stall.toNat), (8, 0x3d)]
  | .rdcyc h d => [(42, 0), (6, d.toNat), (3, h.pred.toNat), (1, h.neg.toNat), (4, h.stall.toNat), (8, 0x3e)]
  | .rdid h d => [(42, 0), (6, d.toNat), (3, h.pred.toNat), (1, h.neg.toNat), (4, h.stall.toNat), (8, 0x3f)]
  | .fadd h d a b rm => [(24, 0), (3, rm.toNat), (3, 0), (6, b.toNat), (6, a.toNat), (6, d.toNat), (3, h.pred.toNat), (1, h.neg.toNat), (4, h.stall.toNat), (8, 0x40)]
  | .fsub h d a b rm => [(24, 0), (3, rm.toNat), (3, 0), (6, b.toNat), (6, a.toNat), (6, d.toNat), (3, h.pred.toNat), (1, h.neg.toNat), (4, h.stall.toNat), (8, 0x41)]
  | .fmul h d a b rm => [(24, 0), (3, rm.toNat), (3, 0), (6, b.toNat), (6, a.toNat), (6, d.toNat), (3, h.pred.toNat), (1, h.neg.toNat), (4, h.stall.toNat), (8, 0x42)]
  | .ffma h a b c nega negp rm e => [(6, e.toNat), (18, 0), (3, rm.toNat), (1, negp.toNat), (1, nega.toNat), (1, 0), (6, c.toNat), (6, b.toNat), (6, a.toNat), (3, h.pred.toNat), (1, h.neg.toNat), (4, h.stall.toNat), (8, 0x43)]
  | .fdiv h d a b rm => [(24, 0), (3, rm.toNat), (3, 0), (6, b.toNat), (6, a.toNat), (6, d.toNat), (3, h.pred.toNat), (1, h.neg.toNat), (4, h.stall.toNat), (8, 0x44)]
  | .fsqrt h d a rm => [(24, 0), (3, rm.toNat), (9, 0), (6, a.toNat), (6, d.toNat), (3, h.pred.toNat), (1, h.neg.toNat), (4, h.stall.toNat), (8, 0x45)]
  | .fmin h d a b => [(30, 0), (6, b.toNat), (6, a.toNat), (6, d.toNat), (3, h.pred.toNat), (1, h.neg.toNat), (4, h.stall.toNat), (8, 0x46)]
  | .fmax h d a b => [(30, 0), (6, b.toNat), (6, a.toNat), (6, d.toNat), (3, h.pred.toNat), (1, h.neg.toNat), (4, h.stall.toNat), (8, 0x47)]
  | .fsetp h pd a b cond => [(27, 0), (3, cond.toNat), (6, b.toNat), (6, a.toNat), (3, pd.toNat), (3, 0), (3, h.pred.toNat), (1, h.neg.toNat), (4, h.stall.toNat), (8, 0x48)]
  | .fcvt h d a sf df rm => [(24, 0), (3, rm.toNat), (3, 0), (3, df.toNat), (3, sf.toNat), (6, a.toNat), (6, d.toNat), (3, h.pred.toNat), (1, h.neg.toNat), (4, h.stall.toNat), (8, 0x49)]
  | .fcvti h d a w32 sgn rm => [(24, 0), (3, rm.toNat), (3, 0), (1, sgn.toNat), (1, w32.toNat), (4, 0), (6, a.toNat), (6, d.toNat), (3, h.pred.toNat), (1, h.neg.toNat), (4, h.stall.toNat), (8, 0x4a)]
  | .icvtf h d a w32 sgn rm => [(24, 0), (3, rm.toNat), (3, 0), (1, sgn.toNat), (1, w32.toNat), (4, 0), (6, a.toNat), (6, d.toNat), (3, h.pred.toNat), (1, h.neg.toNat), (4, h.stall.toNat), (8, 0x4b)]
  | .fabs h d a => [(36, 0), (6, a.toNat), (6, d.toNat), (3, h.pred.toNat), (1, h.neg.toNat), (4, h.stall.toNat), (8, 0x4c)]
  | .fneg h d a => [(36, 0), (6, a.toNat), (6, d.toNat), (3, h.pred.toNat), (1, h.neg.toNat), (4, h.stall.toNat), (8, 0x4d)]
  | .fclass h d a => [(36, 0), (6, a.toNat), (6, d.toNat), (3, h.pred.toNat), (1, h.neg.toNat), (4, h.stall.toNat), (8, 0x4e)]
  | .frnd h d a rm => [(24, 0), (3, rm.toNat), (9, 0), (6, a.toNat), (6, d.toNat), (3, h.pred.toNat), (1, h.neg.toNat), (4, h.stall.toNat), (8, 0x4f)]
  | .jmp nst off => [(48, off.toNat), (4, 0), (4, nst.toNat), (8, 0x50)]
  | .br h off => [(48, off.toNat), (3, h.pred.toNat), (1, h.neg.toNat), (4, h.stall.toNat), (8, 0x51)]
  | .call h off => [(48, off.toNat), (3, h.pred.toNat), (1, h.neg.toNat), (4, h.stall.toNat), (8, 0x52)]
  | .jr h a => [(36, 0), (6, a.toNat), (6, 0), (3, h.pred.toNat), (1, h.neg.toNat), (4, h.stall.toNat), (8, 0x53)]
  | .callr h a => [(36, 0), (6, a.toNat), (6, 0), (3, h.pred.toNat), (1, h.neg.toNat), (4, h.stall.toNat), (8, 0x54)]
  | .ret h => [(48, 0), (3, h.pred.toNat), (1, h.neg.toNat), (4, h.stall.toNat), (8, 0x55)]
  | .loop h a off => [(30, off.toNat), (12, 0), (6, a.toNat), (3, h.pred.toNat), (1, h.neg.toNat), (4, h.stall.toNat), (8, 0x56)]
  | .brsymRes h a off => [(30, off.toNat), (12, 0), (6, a.toNat), (3, h.pred.toNat), (1, h.neg.toNat), (4, h.stall.toNat), (8, 0x57)]
  | .brsymPoi h a off => [(30, off.toNat), (12, 64), (6, a.toNat), (3, h.pred.toNat), (1, h.neg.toNat), (4, h.stall.toNat), (8, 0x57)]
  | .brsymPend h a off => [(30, off.toNat), (12, 128), (6, a.toNat), (3, h.pred.toNat), (1, h.neg.toNat), (4, h.stall.toNat), (8, 0x57)]
  | .bri h d a b => [(30, 0), (6, b.toNat), (6, a.toNat), (6, d.toNat), (3, h.pred.toNat), (1, h.neg.toNat), (4, h.stall.toNat), (8, 0x58)]
  | .frame h l imm => [(4, 0), (32, imm.toNat), (6, 0), (1, l.toNat), (5, 0), (3, h.pred.toNat), (1, h.neg.toNat), (4, h.stall.toNat), (8, 0x59)]
  | .brz h a off => [(30, off.toNat), (12, 0), (6, a.toNat), (3, h.pred.toNat), (1, h.neg.toNat), (4, h.stall.toNat), (8, 0x5a)]
  | .brnz h a off => [(30, off.toNat), (12, 0), (6, a.toNat), (3, h.pred.toNat), (1, h.neg.toNat), (4, h.stall.toNat), (8, 0x5b)]
  | .cbr h a b cond off => [(30, off.toNat), (6, cond.toNat), (6, b.toNat), (6, a.toNat), (3, h.pred.toNat), (1, h.neg.toNat), (4, h.stall.toNat), (8, 0x5c)]
  | .cbri h a i6 cond off => [(30, off.toNat), (6, cond.toNat), (6, i6.toNat), (6, a.toNat), (3, h.pred.toNat), (1, h.neg.toNat), (4, h.stall.toNat), (8, 0x5d)]
  | .exit h => [(48, 0), (3, h.pred.toNat), (1, h.neg.toNat), (4, h.stall.toNat), (8, 0x5e)]
  | .nexti h d => [(42, 0), (6, d.toNat), (3, h.pred.toNat), (1, h.neg.toNat), (4, h.stall.toNat), (8, 0x5f)]
  | .ld h t base size index disp => [(24, disp.toNat), (6, index.toNat), (3, 0), (2, size.toNat), (1, 0), (6, base.toNat), (6, t.toNat), (3, h.pred.toNat), (1, h.neg.toNat), (4, h.stall.toNat), (8, 0x60)]
  | .lds h t base size index disp => [(24, disp.toNat), (6, index.toNat), (3, 0), (2, size.toNat), (1, 0), (6, base.toNat), (6, t.toNat), (3, h.pred.toNat), (1, h.neg.toNat), (4, h.stall.toNat), (8, 0x61)]
  | .st h t base size index disp => [(24, disp.toNat), (6, index.toNat), (3, 0), (2, size.toNat), (1, 0), (6, base.toNat), (6, t.toNat), (3, h.pred.toNat), (1, h.neg.toNat), (4, h.stall.toNat), (8, 0x62)]
  | .ldl h t base size index disp => [(24, disp.toNat), (6, index.toNat), (3, 0), (2, size.toNat), (1, 0), (6, base.toNat), (6, t.toNat), (3, h.pred.toNat), (1, h.neg.toNat), (4, h.stall.toNat), (8, 0x63)]
  | .lda h t base size sc index disp => [(24, disp.toNat), (6, index.toNat), (3, sc.toNat), (2, size.toNat), (1, 0), (6, base.toNat), (6, t.toNat), (3, h.pred.toNat), (1, h.neg.toNat), (4, h.stall.toNat), (8, 0x64)]
  | .stl h t base size sc index disp => [(24, disp.toNat), (6, index.toNat), (3, sc.toNat), (2, size.toNat), (1, 0), (6, base.toNat), (6, t.toNat), (3, h.pred.toNat), (1, h.neg.toNat), (4, h.stall.toNat), (8, 0x65)]
  | .amoAdd h a b c rel acq size sc => [(3, sc.toNat), (2, size.toNat), (1, acq.toNat), (1, rel.toNat), (23, 0), (6, c.toNat), (6, b.toNat), (6, a.toNat), (3, h.pred.toNat), (1, h.neg.toNat), (4, h.stall.toNat), (8, 0x66)]
  | .amoAnd h a b c rel acq size sc => [(3, sc.toNat), (2, size.toNat), (1, acq.toNat), (1, rel.toNat), (23, 131072), (6, c.toNat), (6, b.toNat), (6, a.toNat), (3, h.pred.toNat), (1, h.neg.toNat), (4, h.stall.toNat), (8, 0x66)]
  | .amoOr h a b c rel acq size sc => [(3, sc.toNat), (2, size.toNat), (1, acq.toNat), (1, rel.toNat), (23, 262144), (6, c.toNat), (6, b.toNat), (6, a.toNat), (3, h.pred.toNat), (1, h.neg.toNat), (4, h.stall.toNat), (8, 0x66)]
  | .amoXor h a b c rel acq size sc => [(3, sc.toNat), (2, size.toNat), (1, acq.toNat), (1, rel.toNat), (23, 393216), (6, c.toNat), (6, b.toNat), (6, a.toNat), (3, h.pred.toNat), (1, h.neg.toNat), (4, h.stall.toNat), (8, 0x66)]
  | .amoSwap h a b c rel acq size sc => [(3, sc.toNat), (2, size.toNat), (1, acq.toNat), (1, rel.toNat), (23, 524288), (6, c.toNat), (6, b.toNat), (6, a.toNat), (3, h.pred.toNat), (1, h.neg.toNat), (4, h.stall.toNat), (8, 0x66)]
  | .amoMin h a b c rel acq size sc => [(3, sc.toNat), (2, size.toNat), (1, acq.toNat), (1, rel.toNat), (23, 655360), (6, c.toNat), (6, b.toNat), (6, a.toNat), (3, h.pred.toNat), (1, h.neg.toNat), (4, h.stall.toNat), (8, 0x66)]
  | .amoMax h a b c rel acq size sc => [(3, sc.toNat), (2, size.toNat), (1, acq.toNat), (1, rel.toNat), (23, 786432), (6, c.toNat), (6, b.toNat), (6, a.toNat), (3, h.pred.toNat), (1, h.neg.toNat), (4, h.stall.toNat), (8, 0x66)]
  | .amoMinu h a b c rel acq size sc => [(3, sc.toNat), (2, size.toNat), (1, acq.toNat), (1, rel.toNat), (23, 917504), (6, c.toNat), (6, b.toNat), (6, a.toNat), (3, h.pred.toNat), (1, h.neg.toNat), (4, h.stall.toNat), (8, 0x66)]
  | .amoMaxu h a b c rel acq size sc => [(3, sc.toNat), (2, size.toNat), (1, acq.toNat), (1, rel.toNat), (23, 1048576), (6, c.toNat), (6, b.toNat), (6, a.toNat), (3, h.pred.toNat), (1, h.neg.toNat), (4, h.stall.toNat), (8, 0x66)]
  | .amoMaxrst h a b rel acq size sc => [(3, sc.toNat), (2, size.toNat), (1, acq.toNat), (1, rel.toNat), (23, 1179648), (6, 0), (6, b.toNat), (6, a.toNat), (3, h.pred.toNat), (1, h.neg.toNat), (4, h.stall.toNat), (8, 0x66)]
  | .cas h a b c n rel acq size sc => [(3, sc.toNat), (2, size.toNat), (1, acq.toNat), (1, rel.toNat), (17, 0), (6, n.toNat), (6, c.toNat), (6, b.toNat), (6, a.toNat), (3, h.pred.toNat), (1, h.neg.toNat), (4, h.stall.toNat), (8, 0x67)]
  | .amolAdd h a b c rel acq size sc => [(3, sc.toNat), (2, size.toNat), (1, acq.toNat), (1, rel.toNat), (23, 0), (6, c.toNat), (6, b.toNat), (6, a.toNat), (3, h.pred.toNat), (1, h.neg.toNat), (4, h.stall.toNat), (8, 0x68)]
  | .amolAnd h a b c rel acq size sc => [(3, sc.toNat), (2, size.toNat), (1, acq.toNat), (1, rel.toNat), (23, 131072), (6, c.toNat), (6, b.toNat), (6, a.toNat), (3, h.pred.toNat), (1, h.neg.toNat), (4, h.stall.toNat), (8, 0x68)]
  | .amolOr h a b c rel acq size sc => [(3, sc.toNat), (2, size.toNat), (1, acq.toNat), (1, rel.toNat), (23, 262144), (6, c.toNat), (6, b.toNat), (6, a.toNat), (3, h.pred.toNat), (1, h.neg.toNat), (4, h.stall.toNat), (8, 0x68)]
  | .amolXor h a b c rel acq size sc => [(3, sc.toNat), (2, size.toNat), (1, acq.toNat), (1, rel.toNat), (23, 393216), (6, c.toNat), (6, b.toNat), (6, a.toNat), (3, h.pred.toNat), (1, h.neg.toNat), (4, h.stall.toNat), (8, 0x68)]
  | .amolSwap h a b c rel acq size sc => [(3, sc.toNat), (2, size.toNat), (1, acq.toNat), (1, rel.toNat), (23, 524288), (6, c.toNat), (6, b.toNat), (6, a.toNat), (3, h.pred.toNat), (1, h.neg.toNat), (4, h.stall.toNat), (8, 0x68)]
  | .amolMin h a b c rel acq size sc => [(3, sc.toNat), (2, size.toNat), (1, acq.toNat), (1, rel.toNat), (23, 655360), (6, c.toNat), (6, b.toNat), (6, a.toNat), (3, h.pred.toNat), (1, h.neg.toNat), (4, h.stall.toNat), (8, 0x68)]
  | .amolMax h a b c rel acq size sc => [(3, sc.toNat), (2, size.toNat), (1, acq.toNat), (1, rel.toNat), (23, 786432), (6, c.toNat), (6, b.toNat), (6, a.toNat), (3, h.pred.toNat), (1, h.neg.toNat), (4, h.stall.toNat), (8, 0x68)]
  | .amolMinu h a b c rel acq size sc => [(3, sc.toNat), (2, size.toNat), (1, acq.toNat), (1, rel.toNat), (23, 917504), (6, c.toNat), (6, b.toNat), (6, a.toNat), (3, h.pred.toNat), (1, h.neg.toNat), (4, h.stall.toNat), (8, 0x68)]
  | .amolMaxu h a b c rel acq size sc => [(3, sc.toNat), (2, size.toNat), (1, acq.toNat), (1, rel.toNat), (23, 1048576), (6, c.toNat), (6, b.toNat), (6, a.toNat), (3, h.pred.toNat), (1, h.neg.toNat), (4, h.stall.toNat), (8, 0x68)]
  | .amolMaxrst h a b rel acq size sc => [(3, sc.toNat), (2, size.toNat), (1, acq.toNat), (1, rel.toNat), (23, 1179648), (6, 0), (6, b.toNat), (6, a.toNat), (3, h.pred.toNat), (1, h.neg.toNat), (4, h.stall.toNat), (8, 0x68)]
  | .pref h lvl base index disp => [(24, disp.toNat), (6, index.toNat), (6, 0), (6, base.toNat), (1, lvl.toNat), (5, 0), (3, h.pred.toNat), (1, h.neg.toNat), (4, h.stall.toNat), (8, 0x69)]
  | .ldx h t base size index disp => [(24, disp.toNat), (6, index.toNat), (3, 0), (2, size.toNat), (1, 0), (6, base.toNat), (6, t.toNat), (3, h.pred.toNat), (1, h.neg.toNat), (4, h.stall.toNat), (8, 0x6a)]
  | .stx h t base size index disp => [(24, disp.toNat), (6, index.toNat), (3, 0), (2, size.toNat), (1, 0), (6, base.toNat), (6, t.toNat), (3, h.pred.toNat), (1, h.neg.toNat), (4, h.stall.toNat), (8, 0x6b)]
  | .ldp h t base index disp => [(24, disp.toNat), (6, index.toNat), (6, 32), (6, base.toNat), (6, t.toNat), (3, h.pred.toNat), (1, h.neg.toNat), (4, h.stall.toNat), (8, 0x6c)]
  | .stp h t base index disp => [(24, disp.toNat), (6, index.toNat), (6, 32), (6, base.toNat), (6, t.toNat), (3, h.pred.toNat), (1, h.neg.toNat), (4, h.stall.toNat), (8, 0x6d)]
  | .barInit h a b c sc => [(3, sc.toNat), (27, 0), (6, c.toNat), (6, b.toNat), (6, a.toNat), (3, h.pred.toNat), (1, h.neg.toNat), (4, h.stall.toNat), (8, 0x6e)]
  | .barExpect h a b c sc => [(3, sc.toNat), (27, 2097152), (6, c.toNat), (6, b.toNat), (6, a.toNat), (3, h.pred.toNat), (1, h.neg.toNat), (4, h.stall.toNat), (8, 0x6e)]
  | .barArrive h a b sc => [(3, sc.toNat), (27, 4194304), (6, 0), (6, b.toNat), (6, a.toNat), (3, h.pred.toNat), (1, h.neg.toNat), (4, h.stall.toNat), (8, 0x6e)]
  | .barArriveb h a b c sc => [(3, sc.toNat), (27, 6291456), (6, c.toNat), (6, b.toNat), (6, a.toNat), (3, h.pred.toNat), (1, h.neg.toNat), (4, h.stall.toNat), (8, 0x6e)]
  | .barWait h a b c sc => [(3, sc.toNat), (27, 8388608), (6, c.toNat), (6, b.toNat), (6, a.toNat), (3, h.pred.toNat), (1, h.neg.toNat), (4, h.stall.toNat), (8, 0x6e)]
  | .barTest h a b c sc => [(3, sc.toNat), (27, 10485760), (6, c.toNat), (6, b.toNat), (6, a.toNat), (3, h.pred.toNat), (1, h.neg.toNat), (4, h.stall.toNat), (8, 0x6e)]
  | .own h a b ow => [(24, 0), (1, ow.toNat), (11, 0), (6, b.toNat), (6, a.toNat), (3, h.pred.toNat), (1, h.neg.toNat), (4, h.stall.toNat), (8, 0x6f)]
  | .fence h kinds sc => [(3, sc.toNat), (21, 0), (3, kinds.toNat), (21, 0), (3, h.pred.toNat), (1, h.neg.toNat), (4, h.stall.toNat), (8, 0x70)]
  | .fsa h sc => [(24, 0), (3, sc.toNat), (21, 0), (3, h.pred.toNat), (1, h.neg.toNat), (4, h.stall.toNat), (8, 0x71)]
  | .fas h sc => [(24, 0), (3, sc.toNat), (21, 0), (3, h.pred.toNat), (1, h.neg.toNat), (4, h.stall.toNat), (8, 0x72)]
  | .faa h sc => [(24, 0), (3, sc.toNat), (21, 0), (3, h.pred.toNat), (1, h.neg.toNat), (4, h.stall.toNat), (8, 0x73)]
  | .symw h a => [(36, 0), (6, a.toNat), (6, 0), (3, h.pred.toNat), (1, h.neg.toNat), (4, h.stall.toNat), (8, 0x74)]
  | .symq h pd a => [(36, 0), (6, a.toNat), (3, pd.toNat), (3, 0), (3, h.pred.toNat), (1, h.neg.toNat), (4, h.stall.toNat), (8, 0x75)]
  | .symqPoi h pd a => [(36, 16777216), (6, a.toNat), (3, pd.toNat), (3, 0), (3, h.pred.toNat), (1, h.neg.toNat), (4, h.stall.toNat), (8, 0x75)]
  | .symx h d a b => [(30, 0), (6, b.toNat), (6, a.toNat), (6, d.toNat), (3, h.pred.toNat), (1, h.neg.toNat), (4, h.stall.toNat), (8, 0x76)]
  | .wmpub h b c => [(30, 0), (6, c.toNat), (6, b.toNat), (6, 0), (3, h.pred.toNat), (1, h.neg.toNat), (4, h.stall.toNat), (8, 0x77)]
  | .wmpubGen h b c => [(30, 16777216), (6, c.toNat), (6, b.toNat), (6, 0), (3, h.pred.toNat), (1, h.neg.toNat), (4, h.stall.toNat), (8, 0x77)]
  | .wmset h a b c k => [(2, k.toNat), (28, 0), (6, c.toNat), (6, b.toNat), (6, a.toNat), (3, h.pred.toNat), (1, h.neg.toNat), (4, h.stall.toNat), (8, 0x78)]
  | .qwait h a b c => [(30, 0), (6, c.toNat), (6, b.toNat), (6, a.toNat), (3, h.pred.toNat), (1, h.neg.toNat), (4, h.stall.toNat), (8, 0x79)]
  | .qtake h a b c => [(30, 0), (6, c.toNat), (6, b.toNat), (6, a.toNat), (3, h.pred.toNat), (1, h.neg.toNat), (4, h.stall.toNat), (8, 0x7a)]
  | .launch h d a b => [(30, 0), (6, b.toNat), (6, a.toNat), (6, d.toNat), (3, h.pred.toNat), (1, h.neg.toNat), (4, h.stall.toNat), (8, 0x7b)]
  | .lwait h d a => [(36, 0), (6, a.toNat), (6, d.toNat), (3, h.pred.toNat), (1, h.neg.toNat), (4, h.stall.toNat), (8, 0x7c)]
  | .lwaitTest h d a => [(36, 16777216), (6, a.toNat), (6, d.toNat), (3, h.pred.toNat), (1, h.neg.toNat), (4, h.stall.toNat), (8, 0x7c)]
  | .prioGet h d a => [(30, 0), (6, 0), (6, a.toNat), (6, d.toNat), (3, h.pred.toNat), (1, h.neg.toNat), (4, h.stall.toNat), (8, 0x7d)]
  | .prioSet h d a b => [(30, 16777216), (6, b.toNat), (6, a.toNat), (6, d.toNat), (3, h.pred.toNat), (1, h.neg.toNat), (4, h.stall.toNat), (8, 0x7d)]
  | .prioPend h d => [(30, 33554432), (6, 0), (6, 0), (6, d.toNat), (3, h.pred.toNat), (1, h.neg.toNat), (4, h.stall.toNat), (8, 0x7d)]
  | .prioCeil h d a b => [(30, 50331648), (6, b.toNat), (6, a.toNat), (6, d.toNat), (3, h.pred.toNat), (1, h.neg.toNat), (4, h.stall.toNat), (8, 0x7d)]
  | .prioWake h d a => [(30, 67108864), (6, 0), (6, a.toNat), (6, d.toNat), (3, h.pred.toNat), (1, h.neg.toNat), (4, h.stall.toNat), (8, 0x7d)]
  | .prioKill h d a => [(30, 83886080), (6, 0), (6, a.toNat), (6, d.toNat), (3, h.pred.toNat), (1, h.neg.toNat), (4, h.stall.toNat), (8, 0x7d)]
  | .ctxsv h d a b => [(30, 0), (6, b.toNat), (6, a.toNat), (6, d.toNat), (3, h.pred.toNat), (1, h.neg.toNat), (4, h.stall.toNat), (8, 0x7e)]
  | .ctxsvHold h d a b => [(30, 16777216), (6, b.toNat), (6, a.toNat), (6, d.toNat), (3, h.pred.toNat), (1, h.neg.toNat), (4, h.stall.toNat), (8, 0x7e)]
  | .ctxld h d a => [(36, 0), (6, a.toNat), (6, d.toNat), (3, h.pred.toNat), (1, h.neg.toNat), (4, h.stall.toNat), (8, 0x7f)]
  | .sbind h z b => [(36, 0), (6, b.toNat), (4, z.toNat), (2, 3), (3, h.pred.toNat), (1, h.neg.toNat), (4, h.stall.toNat), (8, 0x80)]
  | .sfree h z => [(36, 0), (4, z.toNat), (2, 3), (6, 0), (3, h.pred.toNat), (1, h.neg.toNat), (4, h.stall.toNat), (8, 0x81)]
  | .xcopy h a b c ch => [(4, ch.toNat), (26, 0), (6, c.toNat), (6, b.toNat), (6, a.toNat), (3, h.pred.toNat), (1, h.neg.toNat), (4, h.stall.toNat), (8, 0x82)]
  | .xgath2 h a b c ch => [(4, ch.toNat), (26, 0), (6, c.toNat), (6, b.toNat), (6, a.toNat), (3, h.pred.toNat), (1, h.neg.toNat), (4, h.stall.toNat), (8, 0x83)]
  | .xgath h a b c ch => [(4, ch.toNat), (26, 0), (6, c.toNat), (6, b.toNat), (6, a.toNat), (3, h.pred.toNat), (1, h.neg.toNat), (4, h.stall.toNat), (8, 0x84)]
  | .xscat h a b c ch => [(4, ch.toNat), (26, 0), (6, c.toNat), (6, b.toNat), (6, a.toNat), (3, h.pred.toNat), (1, h.neg.toNat), (4, h.stall.toNat), (8, 0x85)]
  | .xslide h a b c ch => [(4, ch.toNat), (26, 0), (6, c.toNat), (6, b.toNat), (6, a.toNat), (3, h.pred.toNat), (1, h.neg.toNat), (4, h.stall.toNat), (8, 0x86)]
  | .xfill h a b c ch => [(4, ch.toNat), (26, 0), (6, c.toNat), (6, b.toNat), (6, a.toNat), (3, h.pred.toNat), (1, h.neg.toNat), (4, h.stall.toNat), (8, 0x87)]
  | .xwait h a b ch => [(4, ch.toNat), (32, 0), (6, b.toNat), (6, a.toNat), (3, h.pred.toNat), (1, h.neg.toNat), (4, h.stall.toNat), (8, 0x88)]
  | .xstatDone h a b ch => [(4, ch.toNat), (32, 0), (6, b.toNat), (6, a.toNat), (3, h.pred.toNat), (1, h.neg.toNat), (4, h.stall.toNat), (8, 0x89)]
  | .xstatNext h a b ch => [(4, ch.toNat), (32, 1048576), (6, b.toNat), (6, a.toNat), (3, h.pred.toNat), (1, h.neg.toNat), (4, h.stall.toNat), (8, 0x89)]
  | .xstatVal h a b ch => [(4, ch.toNat), (32, 2097152), (6, b.toNat), (6, a.toNat), (3, h.pred.toNat), (1, h.neg.toNat), (4, h.stall.toNat), (8, 0x89)]
  | .xstatFault h a b ch => [(4, ch.toNat), (32, 3145728), (6, b.toNat), (6, a.toNat), (3, h.pred.toNat), (1, h.neg.toNat), (4, h.stall.toNat), (8, 0x89)]
  | .xstatFaddr h a b ch => [(4, ch.toNat), (32, 4194304), (6, b.toNat), (6, a.toNat), (3, h.pred.toNat), (1, h.neg.toNat), (4, h.stall.toNat), (8, 0x89)]
  | .xstatResume h a b ch => [(4, ch.toNat), (32, 5242880), (6, b.toNat), (6, a.toNat), (3, h.pred.toNat), (1, h.neg.toNat), (4, h.stall.toNat), (8, 0x89)]
  | .xstatAbort h a b ch => [(4, ch.toNat), (32, 6291456), (6, b.toNat), (6, a.toNat), (3, h.pred.toNat), (1, h.neg.toNat), (4, h.stall.toNat), (8, 0x89)]
  | .xckpt h a b ch => [(4, ch.toNat), (32, 0), (6, b.toNat), (6, a.toNat), (3, h.pred.toNat), (1, h.neg.toNat), (4, h.stall.toNat), (8, 0x8a)]
  | .xpromPro h a b c ch => [(4, ch.toNat), (26, 0), (6, c.toNat), (6, b.toNat), (6, a.toNat), (3, h.pred.toNat), (1, h.neg.toNat), (4, h.stall.toNat), (8, 0x8b)]
  | .xpromDem h a b c ch => [(4, ch.toNat), (26, 1048576), (6, c.toNat), (6, b.toNat), (6, a.toNat), (3, h.pred.toNat), (1, h.neg.toNat), (4, h.stall.toNat), (8, 0x8b)]
  | .xredAdd h a b c ty ch => [(4, ch.toNat), (20, 0), (3, ty.toNat), (3, 0), (6, c.toNat), (6, b.toNat), (6, a.toNat), (3, h.pred.toNat), (1, h.neg.toNat), (4, h.stall.toNat), (8, 0x8c)]
  | .xredMax h a b c ty ch => [(4, ch.toNat), (20, 0), (3, ty.toNat), (3, 1), (6, c.toNat), (6, b.toNat), (6, a.toNat), (3, h.pred.toNat), (1, h.neg.toNat), (4, h.stall.toNat), (8, 0x8c)]
  | .xkv h a b c ch => [(4, ch.toNat), (26, 0), (6, c.toNat), (6, b.toNat), (6, a.toNat), (3, h.pred.toNat), (1, h.neg.toNat), (4, h.stall.toNat), (8, 0x8d)]
  | .xdense h a b c ch => [(4, ch.toNat), (26, 0), (6, c.toNat), (6, b.toNat), (6, a.toNat), (3, h.pred.toNat), (1, h.neg.toNat), (4, h.stall.toNat), (8, 0x8e)]
  | .xclass h a b c ch => [(4, ch.toNat), (26, 0), (6, c.toNat), (6, b.toNat), (6, a.toNat), (3, h.pred.toNat), (1, h.neg.toNat), (4, h.stall.toNat), (8, 0x8f)]
  | .mcfg h a b => [(36, 0), (6, b.toNat), (6, a.toNat), (3, h.pred.toNat), (1, h.neg.toNat), (4, h.stall.toNat), (8, 0x90)]
  | .mma h a b c frm mem ovw tl => [(3, tl.toNat), (21, 0), (1, ovw.toNat), (1, mem.toNat), (1, frm.toNat), (3, 0), (6, c.toNat), (6, b.toNat), (6, a.toNat), (3, h.pred.toNat), (1, h.neg.toNat), (4, h.stall.toNat), (8, 0x91)]
  | .mmax h a b c frm mem ovw tl => [(3, tl.toNat), (21, 0), (1, ovw.toNat), (1, mem.toNat), (1, frm.toNat), (3, 0), (6, c.toNat), (6, b.toNat), (6, a.toNat), (3, h.pred.toNat), (1, h.neg.toNat), (4, h.stall.toNat), (8, 0x92)]
  | .mlda h a b c f64 cols rows tl => [(3, tl.toNat), (1, 0), (7, rows.toNat), (7, cols.toNat), (6, 0), (1, f64.toNat), (5, 0), (6, c.toNat), (6, b.toNat), (6, a.toNat), (3, h.pred.toNat), (1, h.neg.toNat), (4, h.stall.toNat), (8, 0x93)]
  | .msta h a b c cols rows tl => [(3, tl.toNat), (1, 0), (7, rows.toNat), (7, cols.toNat), (12, 0), (6, c.toNat), (6, b.toNat), (6, a.toNat), (3, h.pred.toNat), (1, h.neg.toNat), (4, h.stall.toNat), (8, 0x94)]
  | .mzero h a mask => [(8, mask.toNat), (34, 0), (6, a.toNat), (3, h.pred.toNat), (1, h.neg.toNat), (4, h.stall.toNat), (8, 0x95)]
  | .mconv h a b c frm mem ovw tl => [(3, tl.toNat), (21, 0), (1, ovw.toNat), (1, mem.toNat), (1, frm.toNat), (3, 0), (6, c.toNat), (6, b.toNat), (6, a.toNat), (3, h.pred.toNat), (1, h.neg.toNat), (4, h.stall.toNat), (8, 0x96)]
  | .mque h a b c => [(30, 0), (6, c.toNat), (6, b.toNat), (6, a.toNat), (3, h.pred.toNat), (1, h.neg.toNat), (4, h.stall.toNat), (8, 0x97)]
  | .mwait h a b => [(30, 0), (6, 0), (6, b.toNat), (6, a.toNat), (3, h.pred.toNat), (1, h.neg.toNat), (4, h.stall.toNat), (8, 0x98)]
  | .mwaitTask h a b c => [(30, 16777216), (6, c.toNat), (6, b.toNat), (6, a.toNat), (3, h.pred.toNat), (1, h.neg.toNat), (4, h.stall.toNat), (8, 0x98)]
  | .mstatDone h a b => [(36, 0), (6, b.toNat), (6, a.toNat), (3, h.pred.toNat), (1, h.neg.toNat), (4, h.stall.toNat), (8, 0x99)]
  | .mstatNext h a b => [(36, 16777216), (6, b.toNat), (6, a.toNat), (3, h.pred.toNat), (1, h.neg.toNat), (4, h.stall.toNat), (8, 0x99)]
  | .mstatFault h a b => [(36, 33554432), (6, b.toNat), (6, a.toNat), (3, h.pred.toNat), (1, h.neg.toNat), (4, h.stall.toNat), (8, 0x99)]
  | .mstatFaddr h a b => [(36, 50331648), (6, b.toNat), (6, a.toNat), (3, h.pred.toNat), (1, h.neg.toNat), (4, h.stall.toNat), (8, 0x99)]
  | .mstatRow h a b => [(36, 67108864), (6, b.toNat), (6, a.toNat), (3, h.pred.toNat), (1, h.neg.toNat), (4, h.stall.toNat), (8, 0x99)]
  | .mstatResume h a b => [(36, 83886080), (6, b.toNat), (6, a.toNat), (3, h.pred.toNat), (1, h.neg.toNat), (4, h.stall.toNat), (8, 0x99)]
  | .mstatAbort h a b => [(36, 100663296), (6, b.toNat), (6, a.toNat), (3, h.pred.toNat), (1, h.neg.toNat), (4, h.stall.toNat), (8, 0x99)]
  | .mstatEv h a b => [(36, 117440512), (6, b.toNat), (6, a.toNat), (3, h.pred.toNat), (1, h.neg.toNat), (4, h.stall.toNat), (8, 0x99)]
  | .mstatFmt h a b => [(36, 134217728), (6, b.toNat), (6, a.toNat), (3, h.pred.toNat), (1, h.neg.toNat), (4, h.stall.toNat), (8, 0x99)]
  | .mamax h a b cols rows tl => [(3, tl.toNat), (1, 0), (7, rows.toNat), (7, cols.toNat), (18, 0), (6, b.toNat), (6, a.toNat), (3, h.pred.toNat), (1, h.neg.toNat), (4, h.stall.toNat), (8, 0x9a)]
  | .mquant h a b c e4m3 cols rows tl => [(3, tl.toNat), (1, 0), (7, rows.toNat), (7, cols.toNat), (6, 0), (1, e4m3.toNat), (5, 0), (6, c.toNat), (6, b.toNat), (6, a.toNat), (3, h.pred.toNat), (1, h.neg.toNat), (4, h.stall.toNat), (8, 0x9b)]
  | .msoft h a b c cols rows tl => [(3, tl.toNat), (1, 0), (7, rows.toNat), (7, cols.toNat), (12, 0), (6, c.toNat), (6, b.toNat), (6, a.toNat), (3, h.pred.toNat), (1, h.neg.toNat), (4, h.stall.toNat), (8, 0x9c)]
  | .mtrans h a ts td => [(3, td.toNat), (3, ts.toNat), (36, 0), (6, a.toNat), (3, h.pred.toNat), (1, h.neg.toNat), (4, h.stall.toNat), (8, 0x9d)]
  | .msave h a b => [(36, 0), (6, b.toNat), (6, a.toNat), (3, h.pred.toNat), (1, h.neg.toNat), (4, h.stall.toNat), (8, 0x9e)]
  | .mrest h a b => [(36, 0), (6, b.toNat), (6, a.toNat), (3, h.pred.toNat), (1, h.neg.toNat), (4, h.stall.toNat), (8, 0x9f)]
  | .afcfg nst fd s => [(18, 0), (6, s.toNat), (16, 0), (5, fd.toNat), (7, 56), (4, nst.toNat), (8, 0xa0)]
  | .amodeAs nst s => [(18, 0), (6, s.toNat), (28, 117440512), (4, nst.toNat), (8, 0xa1)]
  | .amodeSt nst s => [(18, 0), (6, s.toNat), (28, 117440513), (4, nst.toNat), (8, 0xa1)]
  | .awhile h md sb o => [(24, o.lo), (6, 0), (5, sb.toNat), (5, 0), (5, md.toNat), (5, h.mg.toNat), (2, o.form), (4, h.stall.toNat), (8, 0xa2)]
  | .asrchSet h md fa o => [(24, o.lo), (11, 0), (5, fa.toNat), (5, md.toNat), (5, h.mg.toNat), (2, o.form), (4, h.stall.toNat), (8, 0xa3)]
  | .asrchAnd h md fa o => [(24, o.lo), (11, 1), (5, fa.toNat), (5, md.toNat), (5, h.mg.toNat), (2, o.form), (4, h.stall.toNat), (8, 0xa3)]
  | .asrchOr h md fa o => [(24, o.lo), (11, 2), (5, fa.toNat), (5, md.toNat), (5, h.mg.toNat), (2, o.form), (4, h.stall.toNat), (8, 0xa3)]
  | .acmpEq h md fa o => [(24, o.lo), (6, 0), (5, o.mid), (5, fa.toNat), (5, md.toNat), (5, h.mg.toNat), (2, o.form), (4, h.stall.toNat), (8, 0xa4)]
  | .acmpNe h md fa o => [(24, o.lo), (6, 1), (5, o.mid), (5, fa.toNat), (5, md.toNat), (5, h.mg.toNat), (2, o.form), (4, h.stall.toNat), (8, 0xa4)]
  | .acmpLt h md fa o => [(24, o.lo), (6, 2), (5, o.mid), (5, fa.toNat), (5, md.toNat), (5, h.mg.toNat), (2, o.form), (4, h.stall.toNat), (8, 0xa4)]
  | .acmpGe h md fa o => [(24, o.lo), (6, 3), (5, o.mid), (5, fa.toNat), (5, md.toNat), (5, h.mg.toNat), (2, o.form), (4, h.stall.toNat), (8, 0xa4)]
  | .mlog h md ma mb tbl => [(4, tbl.toNat), (26, 0), (5, mb.toNat), (5, ma.toNat), (5, md.toNat), (5, h.mg.toNat), (2, 2), (4, h.stall.toNat), (8, 0xa5)]
  | .mset h md v => [(1, v.toNat), (39, 0), (5, md.toNat), (5, h.mg.toNat), (2, 2), (4, h.stall.toNat), (8, 0xa6)]
  | .awr h fd o => [(24, o.lo), (16, 0), (5, fd.toNat), (5, h.mg.toNat), (2, o.form), (4, h.stall.toNat), (8, 0xa7)]
  | .amov h fd fa => [(35, 0), (5, fa.toNat), (5, fd.toNat), (5, h.mg.toNat), (2, 0), (4, h.stall.toNat), (8, 0xa8)]
  | .apopM h ma s => [(18, 0), (6, s.toNat), (11, 0), (5, ma.toNat), (5, 0), (5, h.mg.toNat), (2, 1), (4, h.stall.toNat), (8, 0xa9)]
  | .apopF h fa s => [(18, 0), (6, s.toNat), (11, 1), (5, fa.toNat), (5, 0), (5, h.mg.toNat), (2, 1), (4, h.stall.toNat), (8, 0xa9)]
  | .afirstFirst h ma s => [(18, 0), (6, s.toNat), (11, 0), (5, ma.toNat), (5, 0), (5, h.mg.toNat), (2, 1), (4, h.stall.toNat), (8, 0xaa)]
  | .afirstLast h ma s => [(18, 0), (6, s.toNat), (11, 1), (5, ma.toNat), (5, 0), (5, h.mg.toNat), (2, 1), (4, h.stall.toNat), (8, 0xaa)]
  | .anextClr h md ma => [(35, 0), (5, ma.toNat), (5, md.toNat), (5, h.mg.toNat), (2, 0), (4, h.stall.toNat), (8, 0xab)]
  | .anextOne h md ma => [(35, 16777216), (5, ma.toNat), (5, md.toNat), (5, h.mg.toNat), (2, 0), (4, h.stall.toNat), (8, 0xab)]
  | .atopkMax h md fa o => [(24, o.lo), (11, 0), (5, fa.toNat), (5, md.toNat), (5, h.mg.toNat), (2, o.form), (4, h.stall.toNat), (8, 0xac)]
  | .atopkMin h md fa o => [(24, o.lo), (11, 1), (5, fa.toNat), (5, md.toNat), (5, h.mg.toNat), (2, o.form), (4, h.stall.toNat), (8, 0xac)]
  | .aextMax h fa s => [(18, 0), (6, s.toNat), (11, 0), (5, fa.toNat), (5, 0), (5, h.mg.toNat), (2, 1), (4, h.stall.toNat), (8, 0xad)]
  | .aextMin h fa s => [(18, 0), (6, s.toNat), (11, 1), (5, fa.toNat), (5, 0), (5, h.mg.toNat), (2, 1), (4, h.stall.toNat), (8, 0xad)]
  | .aextMaxidx h fa s => [(18, 0), (6, s.toNat), (11, 2), (5, fa.toNat), (5, 0), (5, h.mg.toNat), (2, 1), (4, h.stall.toNat), (8, 0xad)]
  | .aextMinidx h fa s => [(18, 0), (6, s.toNat), (11, 3), (5, fa.toNat), (5, 0), (5, h.mg.toNat), (2, 1), (4, h.stall.toNat), (8, 0xad)]
  | .ardrow h fa sb s => [(18, 0), (6, s.toNat), (6, 0), (5, sb.toNat), (5, fa.toNat), (5, 0), (5, h.mg.toNat), (2, 1), (4, h.stall.toNat), (8, 0xae)]
  | .awrrow h fd sb s => [(18, 0), (6, s.toNat), (6, 0), (5, sb.toNat), (5, 0), (5, fd.toNat), (5, h.mg.toNat), (2, 1), (4, h.stall.toNat), (8, 0xaf)]
  | .aadd h fd fa rc sat o => [(24, o.lo), (2, 0), (1, sat.toNat), (3, rc.toNat), (5, o.mid), (5, fa.toNat), (5, fd.toNat), (5, h.mg.toNat), (2, o.form), (4, h.stall.toNat), (8, 0xb0)]
  | .asub h fd fa rc sat rev o => [(24, o.lo), (1, rev.toNat), (1, 0), (1, sat.toNat), (3, rc.toNat), (5, o.mid), (5, fa.toNat), (5, fd.toNat), (5, h.mg.toNat), (2, o.form), (4, h.stall.toNat), (8, 0xb1)]
  | .amul h fd fa rc sat o => [(24, o.lo), (2, 0), (1, sat.toNat), (3, rc.toNat), (5, o.mid), (5, fa.toNat), (5, fd.toNat), (5, h.mg.toNat), (2, o.form), (4, h.stall.toNat), (8, 0xb2)]
  | .afma h fd fa rc sat o => [(24, o.lo), (2, 0), (1, sat.toNat), (3, rc.toNat), (5, o.mid), (5, fa.toNat), (5, fd.toNat), (5, h.mg.toNat), (2, o.form), (4, h.stall.toNat), (8, 0xb3)]
  | .adiv h fd fa rc sat rev o => [(24, o.lo), (1, rev.toNat), (1, 0), (1, sat.toNat), (3, rc.toNat), (5, o.mid), (5, fa.toNat), (5, fd.toNat), (5, h.mg.toNat), (2, o.form), (4, h.stall.toNat), (8, 0xb4)]
  | .amin h fd fa o => [(24, o.lo), (6, 0), (5, o.mid), (5, fa.toNat), (5, fd.toNat), (5, h.mg.toNat), (2, o.form), (4, h.stall.toNat), (8, 0xb5)]
  | .amax h fd fa o => [(24, o.lo), (6, 0), (5, o.mid), (5, fa.toNat), (5, fd.toNat), (5, h.mg.toNat), (2, o.form), (4, h.stall.toNat), (8, 0xb6)]
  | .aabs h fd fa rc sat => [(26, 0), (1, sat.toNat), (3, rc.toNat), (5, 0), (5, fa.toNat), (5, fd.toNat), (5, h.mg.toNat), (2, 0), (4, h.stall.toNat), (8, 0xb7)]
  | .aneg h fd fa rc sat => [(26, 0), (1, sat.toNat), (3, rc.toNat), (5, 0), (5, fa.toNat), (5, fd.toNat), (5, h.mg.toNat), (2, 0), (4, h.stall.toNat), (8, 0xb8)]
  | .alogAnd h fd fa o => [(24, o.lo), (6, 0), (5, o.mid), (5, fa.toNat), (5, fd.toNat), (5, h.mg.toNat), (2, o.form), (4, h.stall.toNat), (8, 0xb9)]
  | .alogOr h fd fa o => [(24, o.lo), (6, 1), (5, o.mid), (5, fa.toNat), (5, fd.toNat), (5, h.mg.toNat), (2, o.form), (4, h.stall.toNat), (8, 0xb9)]
  | .alogXor h fd fa o => [(24, o.lo), (6, 2), (5, o.mid), (5, fa.toNat), (5, fd.toNat), (5, h.mg.toNat), (2, o.form), (4, h.stall.toNat), (8, 0xb9)]
  | .alogAndn h fd fa o => [(24, o.lo), (6, 3), (5, o.mid), (5, fa.toNat), (5, fd.toNat), (5, h.mg.toNat), (2, o.form), (4, h.stall.toNat), (8, 0xb9)]
  | .ashfShl h fd fa sat o => [(24, o.lo), (2, 0), (1, sat.toNat), (3, 0), (5, o.mid), (5, fa.toNat), (5, fd.toNat), (5, h.mg.toNat), (2, o.form), (4, h.stall.toNat), (8, 0xba)]
  | .ashfShr h fd fa sat o => [(24, o.lo), (2, 1), (1, sat.toNat), (3, 0), (5, o.mid), (5, fa.toNat), (5, fd.toNat), (5, h.mg.toNat), (2, o.form), (4, h.stall.toNat), (8, 0xba)]
  | .ashfSra h fd fa sat o => [(24, o.lo), (2, 2), (1, sat.toNat), (3, 0), (5, o.mid), (5, fa.toNat), (5, fd.toNat), (5, h.mg.toNat), (2, o.form), (4, h.stall.toNat), (8, 0xba)]
  | .ashfRot h fd fa sat o => [(24, o.lo), (2, 3), (1, sat.toNat), (3, 0), (5, o.mid), (5, fa.toNat), (5, fd.toNat), (5, h.mg.toNat), (2, o.form), (4, h.stall.toNat), (8, 0xba)]
  | .acvt h fd fa rc sat => [(26, 0), (1, sat.toNat), (3, rc.toNat), (5, 0), (5, fa.toNat), (5, fd.toNat), (5, h.mg.toNat), (2, 0), (4, h.stall.toNat), (8, 0xbb)]
  | .aclamp h fd fa sb s => [(18, 0), (6, s.toNat), (6, 0), (5, sb.toNat), (5, fa.toNat), (5, fd.toNat), (5, h.mg.toNat), (2, 1), (4, h.stall.toNat), (8, 0xbc)]
  | .asqrt h fd fa rc sat => [(26, 0), (1, sat.toNat), (3, rc.toNat), (5, 0), (5, fa.toNat), (5, fd.toNat), (5, h.mg.toNat), (2, 0), (4, h.stall.toNat), (8, 0xbd)]
  | .aham h fd fa sat o => [(24, o.lo), (2, 0), (1, sat.toNat), (3, 0), (5, o.mid), (5, fa.toNat), (5, fd.toNat), (5, h.mg.toNat), (2, o.form), (4, h.stall.toNat), (8, 0xbe)]
  | .arem h fd fa sat rev o => [(24, o.lo), (1, rev.toNat), (1, 0), (1, sat.toNat), (3, 0), (5, o.mid), (5, fa.toNat), (5, fd.toNat), (5, h.mg.toNat), (2, o.form), (4, h.stall.toNat), (8, 0xbf)]
  | .alut h fd fa sb s => [(18, 0), (6, s.toNat), (6, 0), (5, sb.toNat), (5, fa.toNat), (5, fd.toNat), (5, h.mg.toNat), (2, 1), (4, h.stall.toNat), (8, 0xc0)]
  | .ashr h fd fa o => [(24, o.lo), (11, 0), (5, fa.toNat), (5, fd.toNat), (5, h.mg.toNat), (2, o.form), (4, h.stall.toNat), (8, 0xc1)]
  | .ascanAdd h fd fa rc sat => [(26, 0), (1, sat.toNat), (3, rc.toNat), (5, 0), (5, fa.toNat), (5, fd.toNat), (5, h.mg.toNat), (2, 0), (4, h.stall.toNat), (8, 0xc2)]
  | .ascanMin h fd fa rc sat => [(26, 16777216), (1, sat.toNat), (3, rc.toNat), (5, 0), (5, fa.toNat), (5, fd.toNat), (5, h.mg.toNat), (2, 0), (4, h.stall.toNat), (8, 0xc2)]
  | .ascanMax h fd fa rc sat => [(26, 33554432), (1, sat.toNat), (3, rc.toNat), (5, 0), (5, fa.toNat), (5, fd.toNat), (5, h.mg.toNat), (2, 0), (4, h.stall.toNat), (8, 0xc2)]
  | .ascanOr h fd fa rc sat => [(26, 50331648), (1, sat.toNat), (3, rc.toNat), (5, 0), (5, fa.toNat), (5, fd.toNat), (5, h.mg.toNat), (2, 0), (4, h.stall.toNat), (8, 0xc2)]
  | .asegrAdd h fd fa mb rc sat => [(26, 0), (1, sat.toNat), (3, rc.toNat), (5, mb.toNat), (5, fa.toNat), (5, fd.toNat), (5, h.mg.toNat), (2, 0), (4, h.stall.toNat), (8, 0xc3)]
  | .asegrMin h fd fa mb rc sat => [(26, 16777216), (1, sat.toNat), (3, rc.toNat), (5, mb.toNat), (5, fa.toNat), (5, fd.toNat), (5, h.mg.toNat), (2, 0), (4, h.stall.toNat), (8, 0xc3)]
  | .asegrMax h fd fa mb rc sat => [(26, 33554432), (1, sat.toNat), (3, rc.toNat), (5, mb.toNat), (5, fa.toNat), (5, fd.toNat), (5, h.mg.toNat), (2, 0), (4, h.stall.toNat), (8, 0xc3)]
  | .asegrOr h fd fa mb rc sat => [(26, 50331648), (1, sat.toNat), (3, rc.toNat), (5, mb.toNat), (5, fa.toNat), (5, fd.toNat), (5, h.mg.toNat), (2, 0), (4, h.stall.toNat), (8, 0xc3)]
  | .aspi h fd fa fb rc sat => [(26, 0), (1, sat.toNat), (3, rc.toNat), (5, fb.toNat), (5, fa.toNat), (5, fd.toNat), (5, h.mg.toNat), (2, 0), (4, h.stall.toNat), (8, 0xc4)]
  | .aspu h fd fa fb rc sat => [(26, 0), (1, sat.toNat), (3, rc.toNat), (5, fb.toNat), (5, fa.toNat), (5, fd.toNat), (5, h.mg.toNat), (2, 0), (4, h.stall.toNat), (8, 0xc5)]
  | .asplenSet h fd o => [(24, o.lo), (11, 0), (5, 0), (5, fd.toNat), (5, h.mg.toNat), (2, o.form), (4, h.stall.toNat), (8, 0xc6)]
  | .asplenMask h md fa => [(24, 0), (11, 1), (5, fa.toNat), (5, md.toNat), (5, h.mg.toNat), (2, 0), (4, h.stall.toNat), (8, 0xc6)]
  | .aappIdx h md s => [(18, 0), (6, s.toNat), (11, 0), (5, 0), (5, md.toNat), (5, h.mg.toNat), (2, 1), (4, h.stall.toNat), (8, 0xc7)]
  | .aappVal h md fa s => [(18, 0), (6, s.toNat), (11, 1), (5, fa.toNat), (5, md.toNat), (5, h.mg.toNat), (2, 1), (4, h.stall.toNat), (8, 0xc7)]
  | .aconf h md fa => [(35, 0), (5, fa.toNat), (5, md.toNat), (5, h.mg.toNat), (2, 0), (4, h.stall.toNat), (8, 0xc8)]
  | .aintvCc h md fa sb s => [(18, 0), (6, s.toNat), (6, 0), (5, sb.toNat), (5, fa.toNat), (5, md.toNat), (5, h.mg.toNat), (2, 1), (4, h.stall.toNat), (8, 0xc9)]
  | .aintvCo h md fa sb s => [(18, 0), (6, s.toNat), (6, 1), (5, sb.toNat), (5, fa.toNat), (5, md.toNat), (5, h.mg.toNat), (2, 1), (4, h.stall.toNat), (8, 0xc9)]
  | .aintvOc h md fa sb s => [(18, 0), (6, s.toNat), (6, 2), (5, sb.toNat), (5, fa.toNat), (5, md.toNat), (5, h.mg.toNat), (2, 1), (4, h.stall.toNat), (8, 0xc9)]
  | .aintvOo h md fa sb s => [(18, 0), (6, s.toNat), (6, 3), (5, sb.toNat), (5, fa.toNat), (5, md.toNat), (5, h.mg.toNat), (2, 1), (4, h.stall.toNat), (8, 0xc9)]
  | .amatch h md fa sb z => [(18, 0), (4, z.toNat), (8, 3), (5, sb.toNat), (5, fa.toNat), (5, md.toNat), (5, h.mg.toNat), (2, 1), (4, h.stall.toNat), (8, 0xca)]
  | .achk h md fa => [(35, 0), (5, fa.toNat), (5, md.toNat), (5, h.mg.toNat), (2, 0), (4, h.stall.toNat), (8, 0xcb)]
  | .afill h fd sat o => [(24, o.lo), (2, 0), (1, sat.toNat), (13, 0), (5, fd.toNat), (5, h.mg.toNat), (2, o.form), (4, h.stall.toNat), (8, 0xcc)]
  | .abcast h fd fa o => [(24, o.lo), (11, 0), (5, fa.toNat), (5, fd.toNat), (5, h.mg.toNat), (2, o.form), (4, h.stall.toNat), (8, 0xcd)]
  | .aqnt h fd fa o => [(24, o.lo), (11, 0), (5, fa.toNat), (5, fd.toNat), (5, h.mg.toNat), (2, o.form), (4, h.stall.toNat), (8, 0xce)]
  | .aqntKeep h fd fa => [(24, 0), (11, 1), (5, fa.toNat), (5, fd.toNat), (5, h.mg.toNat), (2, 0), (4, h.stall.toNat), (8, 0xce)]
  | .adqnt h fd fa rc sat o => [(24, o.lo), (2, 0), (1, sat.toNat), (3, rc.toNat), (5, o.mid), (5, fa.toNat), (5, fd.toNat), (5, h.mg.toNat), (2, o.form), (4, h.stall.toNat), (8, 0xcf)]
  | .ald h fd ff s => [(18, 0), (6, s.toNat), (1, ff.toNat), (15, 0), (5, fd.toNat), (5, h.mg.toNat), (2, 1), (4, h.stall.toNat), (8, 0xd0)]
  | .aldx h fd fb ff s => [(18, 0), (6, s.toNat), (1, ff.toNat), (5, 0), (5, fb.toNat), (5, 0), (5, fd.toNat), (5, h.mg.toNat), (2, 1), (4, h.stall.toNat), (8, 0xd1)]
  | .aldseg h fd sb rc nosat nm1 s => [(18, 0), (6, s.toNat), (2, nm1.toNat), (1, nosat.toNat), (3, rc.toNat), (5, sb.toNat), (5, 0), (5, fd.toNat), (5, h.mg.toNat), (2, 1), (4, h.stall.toNat), (8, 0xd2)]
  | .ast h fa s => [(18, 0), (6, s.toNat), (11, 0), (5, fa.toNat), (5, 0), (5, h.mg.toNat), (2, 1), (4, h.stall.toNat), (8, 0xd3)]
  | .astx h fa fb s => [(18, 0), (6, s.toNat), (6, 0), (5, fb.toNat), (5, fa.toNat), (5, 0), (5, h.mg.toNat), (2, 1), (4, h.stall.toNat), (8, 0xd4)]
  | .astseg h fa sb rc nosat nm1 s => [(18, 0), (6, s.toNat), (2, nm1.toNat), (1, nosat.toNat), (3, rc.toNat), (5, sb.toNat), (5, fa.toNat), (5, 0), (5, h.mg.toNat), (2, 1), (4, h.stall.toNat), (8, 0xd5)]
  | .alds h fd sb ff s => [(18, 0), (6, s.toNat), (1, ff.toNat), (5, 0), (5, sb.toNat), (5, 0), (5, fd.toNat), (5, h.mg.toNat), (2, 1), (4, h.stall.toNat), (8, 0xd6)]
  | .asts h fa sb s => [(18, 0), (6, s.toNat), (6, 0), (5, sb.toNat), (5, fa.toNat), (5, 0), (5, h.mg.toNat), (2, 1), (4, h.stall.toNat), (8, 0xd7)]
  | .asaveF nst k s => [(18, 0), (6, s.toNat), (16, 0), (5, k.toNat), (7, 56), (4, nst.toNat), (8, 0xd8)]
  | .asaveM nst k s => [(18, 0), (6, s.toNat), (16, 1), (5, k.toNat), (7, 56), (4, nst.toNat), (8, 0xd8)]
  | .asaveDesc nst k s => [(18, 0), (6, s.toNat), (16, 2), (5, k.toNat), (7, 56), (4, nst.toNat), (8, 0xd8)]
  | .asaveEv nst k s => [(18, 0), (6, s.toNat), (16, 3), (5, k.toNat), (7, 56), (4, nst.toNat), (8, 0xd8)]
  | .arstrF nst k s => [(18, 0), (6, s.toNat), (16, 0), (5, k.toNat), (7, 56), (4, nst.toNat), (8, 0xd9)]
  | .arstrM nst k s => [(18, 0), (6, s.toNat), (16, 1), (5, k.toNat), (7, 56), (4, nst.toNat), (8, 0xd9)]
  | .arstrDesc nst k s => [(18, 0), (6, s.toNat), (16, 2), (5, k.toNat), (7, 56), (4, nst.toNat), (8, 0xd9)]
  | .arstrEv nst k s => [(18, 0), (6, s.toNat), (16, 3), (5, k.toNat), (7, 56), (4, nst.toNat), (8, 0xd9)]
  | .adump h a b => [(36, 0), (6, b.toNat), (6, a.toNat), (3, h.pred.toNat), (1, h.neg.toNat), (4, h.stall.toNat), (8, 0xda)]
  | .aundmp h a b => [(36, 0), (6, b.toNat), (6, a.toNat), (3, h.pred.toNat), (1, h.neg.toNat), (4, h.stall.toNat), (8, 0xdb)]
  | .aucode h a b c => [(30, 0), (6, c.toNat), (6, b.toNat), (6, a.toNat), (3, h.pred.toNat), (1, h.neg.toNat), (4, h.stall.toNat), (8, 0xdc)]
  | .aholdStop h => [(48, 0), (3, h.pred.toNat), (1, h.neg.toNat), (4, h.stall.toNat), (8, 0xdd)]
  | .aholdGo h => [(48, 16777216), (3, h.pred.toNat), (1, h.neg.toNat), (4, h.stall.toNat), (8, 0xdd)]
  | .aholdDrop h => [(48, 33554432), (3, h.pred.toNat), (1, h.neg.toNat), (4, h.stall.toNat), (8, 0xdd)]
  | .aestatState h d => [(42, 0), (6, d.toNat), (3, h.pred.toNat), (1, h.neg.toNat), (4, h.stall.toNat), (8, 0xde)]
  | .aestatAddr h d => [(42, 16777216), (6, d.toNat), (3, h.pred.toNat), (1, h.neg.toNat), (4, h.stall.toNat), (8, 0xde)]
  | .aestatDetail h d => [(42, 33554432), (6, d.toNat), (3, h.pred.toNat), (1, h.neg.toNat), (4, h.stall.toNat), (8, 0xde)]
  | .aestatPass h d => [(42, 50331648), (6, d.toNat), (3, h.pred.toNat), (1, h.neg.toNat), (4, h.stall.toNat), (8, 0xde)]
  | .await h => [(48, 0), (3, h.pred.toNat), (1, h.neg.toNat), (4, h.stall.toNat), (8, 0xdf)]
  | .spcfg h a b => [(36, 0), (6, b.toNat), (6, a.toNat), (3, h.pred.toNat), (1, h.neg.toNat), (4, h.stall.toNat), (8, 0xe0)]
  | .spld h a b c => [(30, 0), (6, c.toNat), (6, b.toNat), (6, a.toNat), (3, h.pred.toNat), (1, h.neg.toNat), (4, h.stall.toNat), (8, 0xe1)]
  | .spst h a b c => [(30, 0), (6, c.toNat), (6, b.toNat), (6, a.toNat), (3, h.pred.toNat), (1, h.neg.toNat), (4, h.stall.toNat), (8, 0xe2)]
  | .spamoAdd h a b c ty => [(26, 0), (2, ty.toNat), (2, 0), (6, c.toNat), (6, b.toNat), (6, a.toNat), (3, h.pred.toNat), (1, h.neg.toNat), (4, h.stall.toNat), (8, 0xe3)]
  | .spamoMin h a b c ty => [(26, 16777216), (2, ty.toNat), (2, 0), (6, c.toNat), (6, b.toNat), (6, a.toNat), (3, h.pred.toNat), (1, h.neg.toNat), (4, h.stall.toNat), (8, 0xe3)]
  | .spamoMax h a b c ty => [(26, 33554432), (2, ty.toNat), (2, 0), (6, c.toNat), (6, b.toNat), (6, a.toNat), (3, h.pred.toNat), (1, h.neg.toNat), (4, h.stall.toNat), (8, 0xe3)]
  | .spamoSwap h a b c ty => [(26, 50331648), (2, ty.toNat), (2, 0), (6, c.toNat), (6, b.toNat), (6, a.toNat), (3, h.pred.toNat), (1, h.neg.toNat), (4, h.stall.toNat), (8, 0xe3)]
  | .spnextGt h a b c => [(30, 0), (6, c.toNat), (6, b.toNat), (6, a.toNat), (3, h.pred.toNat), (1, h.neg.toNat), (4, h.stall.toNat), (8, 0xe4)]
  | .spnextGe h a b c => [(30, 16777216), (6, c.toNat), (6, b.toNat), (6, a.toNat), (3, h.pred.toNat), (1, h.neg.toNat), (4, h.stall.toNat), (8, 0xe4)]
  | .spprevLt h a b c => [(30, 0), (6, c.toNat), (6, b.toNat), (6, a.toNat), (3, h.pred.toNat), (1, h.neg.toNat), (4, h.stall.toNat), (8, 0xe5)]
  | .spprevLe h a b c => [(30, 16777216), (6, c.toNat), (6, b.toNat), (6, a.toNat), (3, h.pred.toNat), (1, h.neg.toNat), (4, h.stall.toNat), (8, 0xe5)]
  | .spcnt h a b c => [(30, 0), (6, c.toNat), (6, b.toNat), (6, a.toNat), (3, h.pred.toNat), (1, h.neg.toNat), (4, h.stall.toNat), (8, 0xe6)]
  | .spdel h a b c => [(30, 0), (6, c.toNat), (6, b.toNat), (6, a.toNat), (3, h.pred.toNat), (1, h.neg.toNat), (4, h.stall.toNat), (8, 0xe7)]
  | .spwait h => [(48, 0), (3, h.pred.toNat), (1, h.neg.toNat), (4, h.stall.toNat), (8, 0xe8)]
  | .spstatKeys h a b => [(36, 0), (6, b.toNat), (6, a.toNat), (3, h.pred.toNat), (1, h.neg.toNat), (4, h.stall.toNat), (8, 0xe9)]
  | .spstatNodes h a b => [(36, 16777216), (6, b.toNat), (6, a.toNat), (3, h.pred.toNat), (1, h.neg.toNat), (4, h.stall.toNat), (8, 0xe9)]
  | .spstatFree h a b => [(36, 33554432), (6, b.toNat), (6, a.toNat), (3, h.pred.toNat), (1, h.neg.toNat), (4, h.stall.toNat), (8, 0xe9)]
  | .spstatDepth h a b => [(36, 50331648), (6, b.toNat), (6, a.toNat), (3, h.pred.toNat), (1, h.neg.toNat), (4, h.stall.toNat), (8, 0xe9)]
  | .spstatStatus h a b => [(36, 67108864), (6, b.toNat), (6, a.toNat), (3, h.pred.toNat), (1, h.neg.toNat), (4, h.stall.toNat), (8, 0xe9)]
  | .spstatPages h a b => [(36, 83886080), (6, b.toNat), (6, a.toNat), (3, h.pred.toNat), (1, h.neg.toNat), (4, h.stall.toNat), (8, 0xe9)]
  | .sppool h a b c n => [(16, n.toNat), (14, 0), (6, c.toNat), (6, b.toNat), (6, a.toNat), (3, h.pred.toNat), (1, h.neg.toNat), (4, h.stall.toNat), (8, 0xea)]
  | .spfree h a b => [(36, 0), (6, b.toNat), (6, a.toNat), (3, h.pred.toNat), (1, h.neg.toNat), (4, h.stall.toNat), (8, 0xeb)]
  | .rclassSet h a b c => [(30, 0), (6, c.toNat), (6, b.toNat), (6, a.toNat), (3, h.pred.toNat), (1, h.neg.toNat), (4, h.stall.toNat), (8, 0xec)]
  | .rclassRead h a b => [(30, 16777216), (6, 0), (6, b.toNat), (6, a.toNat), (3, h.pred.toNat), (1, h.neg.toNat), (4, h.stall.toNat), (8, 0xec)]
  | .ebsetCorr h a b c => [(30, 0), (6, c.toNat), (6, b.toNat), (6, a.toNat), (3, h.pred.toNat), (1, h.neg.toNat), (4, h.stall.toNat), (8, 0xed)]
  | .ebsetDet h a b c => [(30, 16777216), (6, c.toNat), (6, b.toNat), (6, a.toNat), (3, h.pred.toNat), (1, h.neg.toNat), (4, h.stall.toNat), (8, 0xed)]
  | .ebsetRdcorr h a b => [(30, 33554432), (6, 0), (6, b.toNat), (6, a.toNat), (3, h.pred.toNat), (1, h.neg.toNat), (4, h.stall.toNat), (8, 0xed)]
  | .ebsetRddet h a b => [(30, 50331648), (6, 0), (6, b.toNat), (6, a.toNat), (3, h.pred.toNat), (1, h.neg.toNat), (4, h.stall.toNat), (8, 0xed)]
  | .mscopClean h a b c => [(30, 0), (6, c.toNat), (6, b.toNat), (6, a.toNat), (3, h.pred.toNat), (1, h.neg.toNat), (4, h.stall.toNat), (8, 0xee)]
  | .mscopClinv h a b c => [(30, 16777216), (6, c.toNat), (6, b.toNat), (6, a.toNat), (3, h.pred.toNat), (1, h.neg.toNat), (4, h.stall.toNat), (8, 0xee)]
  | .mscopInv h a b c => [(30, 33554432), (6, c.toNat), (6, b.toNat), (6, a.toNat), (3, h.pred.toNat), (1, h.neg.toNat), (4, h.stall.toNat), (8, 0xee)]
  | .mscopStat h a b c => [(30, 50331648), (6, c.toNat), (6, b.toNat), (6, a.toNat), (3, h.pred.toNat), (1, h.neg.toNat), (4, h.stall.toNat), (8, 0xee)]
  | .peerwOpen h a b c => [(30, 0), (6, c.toNat), (6, b.toNat), (6, a.toNat), (3, h.pred.toNat), (1, h.neg.toNat), (4, h.stall.toNat), (8, 0xef)]
  | .peerwClose h a b => [(30, 16777216), (6, 0), (6, b.toNat), (6, a.toNat), (3, h.pred.toNat), (1, h.neg.toNat), (4, h.stall.toNat), (8, 0xef)]
  | .peerwRead h a b => [(30, 33554432), (6, 0), (6, b.toNat), (6, a.toNat), (3, h.pred.toNat), (1, h.neg.toNat), (4, h.stall.toNat), (8, 0xef)]
  | .peerwBind h a b c => [(30, 50331648), (6, c.toNat), (6, b.toNat), (6, a.toNat), (3, h.pred.toNat), (1, h.neg.toNat), (4, h.stall.toNat), (8, 0xef)]
  | .smcSetw h a b c => [(30, 0), (6, c.toNat), (6, b.toNat), (6, a.toNat), (3, h.pred.toNat), (1, h.neg.toNat), (4, h.stall.toNat), (8, 0xf0)]
  | .smcFwld h a b => [(30, 16777216), (6, 0), (6, b.toNat), (6, a.toNat), (3, h.pred.toNat), (1, h.neg.toNat), (4, h.stall.toNat), (8, 0xf0)]
  | .smcVer h a => [(30, 33554432), (6, 0), (6, 0), (6, a.toNat), (3, h.pred.toNat), (1, h.neg.toNat), (4, h.stall.toNat), (8, 0xf0)]
  | .perfRead h a b => [(36, 0), (6, b.toNat), (6, a.toNat), (3, h.pred.toNat), (1, h.neg.toNat), (4, h.stall.toNat), (8, 0xf1)]
  | .perfClr h a b => [(36, 16777216), (6, b.toNat), (6, a.toNat), (3, h.pred.toNat), (1, h.neg.toNat), (4, h.stall.toNat), (8, 0xf1)]
  | .dbgHalt h a b => [(30, 0), (6, 0), (6, b.toNat), (6, a.toNat), (3, h.pred.toNat), (1, h.neg.toNat), (4, h.stall.toNat), (8, 0xf2)]
  | .dbgGo h a b => [(30, 16777216), (6, 0), (6, b.toNat), (6, a.toNat), (3, h.pred.toNat), (1, h.neg.toNat), (4, h.stall.toNat), (8, 0xf2)]
  | .dbgRd h a b c => [(30, 33554432), (6, c.toNat), (6, b.toNat), (6, a.toNat), (3, h.pred.toNat), (1, h.neg.toNat), (4, h.stall.toNat), (8, 0xf2)]
  | .dbgWr h a b c => [(30, 50331648), (6, c.toNat), (6, b.toNat), (6, a.toNat), (3, h.pred.toNat), (1, h.neg.toNat), (4, h.stall.toNat), (8, 0xf2)]
  | .dbgSig h a b c => [(30, 67108864), (6, c.toNat), (6, b.toNat), (6, a.toNat), (3, h.pred.toNat), (1, h.neg.toNat), (4, h.stall.toNat), (8, 0xf2)]
  | .atst h a b c => [(30, 0), (6, c.toNat), (6, b.toNat), (6, a.toNat), (3, h.pred.toNat), (1, h.neg.toNat), (4, h.stall.toNat), (8, 0xf3)]
  | .pwrqMax h a b => [(30, 0), (6, 0), (6, b.toNat), (6, a.toNat), (3, h.pred.toNat), (1, h.neg.toNat), (4, h.stall.toNat), (8, 0xf4)]
  | .pwrqState h a b c => [(30, 16777216), (6, c.toNat), (6, b.toNat), (6, a.toNat), (3, h.pred.toNat), (1, h.neg.toNat), (4, h.stall.toNat), (8, 0xf4)]
  | .alim h a b c => [(30, 0), (6, c.toNat), (6, b.toNat), (6, a.toNat), (3, h.pred.toNat), (1, h.neg.toNat), (4, h.stall.toNat), (8, 0xf5)]
  | .hmsg h a b vec => [(11, vec.toNat), (25, 0), (6, b.toNat), (6, a.toNat), (3, h.pred.toNat), (1, h.neg.toNat), (4, h.stall.toNat), (8, 0xf6)]
  | .pmsgSend h a b c ch => [(6, ch.toNat), (24, 0), (6, c.toNat), (6, b.toNat), (6, a.toNat), (3, h.pred.toNat), (1, h.neg.toNat), (4, h.stall.toNat), (8, 0xf7)]
  | .pmsgRecv h a b ch => [(6, ch.toNat), (24, 262144), (6, 0), (6, b.toNat), (6, a.toNat), (3, h.pred.toNat), (1, h.neg.toNat), (4, h.stall.toNat), (8, 0xf7)]
  | .pmsgWait h a ch => [(6, ch.toNat), (24, 524288), (6, 0), (6, 0), (6, a.toNat), (3, h.pred.toNat), (1, h.neg.toNat), (4, h.stall.toNat), (8, 0xf7)]
  | .li h d _ => [(42, 0), (6, d.toNat), (3, h.pred.toNat), (1, h.neg.toNat), (4, h.stall.toNat), (8, 0xf8)]
  | .jmpx h _ => [(48, 0), (3, h.pred.toNat), (1, h.neg.toNat), (4, h.stall.toNat), (8, 0xf9)]
  | .callx h _ => [(48, 0), (3, h.pred.toNat), (1, h.neg.toNat), (4, h.stall.toNat), (8, 0xfa)]
  | .addix h d a _ => [(36, 0), (6, a.toNat), (6, d.toNat), (3, h.pred.toNat), (1, h.neg.toNat), (4, h.stall.toNat), (8, 0xfb)]
  | .leax h d _ => [(42, 0), (6, d.toNat), (3, h.pred.toNat), (1, h.neg.toNat), (4, h.stall.toNat), (8, 0xfc)]
  | .awrx nst mg fd _ => [(36, 0), (6, fd.toNat), (6, mg.toNat), (4, 0), (4, nst.toNat), (8, 0xfd)]
  | .asrchx nst md fa _ => [(36, 0), (6, fa.toNat), (6, md.toNat), (4, 0), (4, nst.toNat), (8, 0xfe)]
  | .ud x => [(56, x.toNat), (8, 0xff)]
  | .blockThrottleChange _ _ _ _ _ => []
  | .tdispStateChange _ _ _ => []
  | .inboundPcieAtomic _ _ _ _ _ _ => []

/-- Word 1 of a format-L instruction (R37). -/
def Instr.second : Instr → Option (BitVec 64)
  | .moduleReset _ => none
  | .mboxseqWrite _ => none
  | .mgmtRegisterWrite _ _ => none
  | .inboundPcieWrite _ _ _ => none
  | .inboundPcieRead _ _ _ => none
  | .atsInvalidation _ _ => none
  | .ramirMessageArrival _ _ _ _ => none
  | .pageRequestAnswer _ _ => none
  | .remoteReadCompletion _ _ => none
  | .remoteCompletionTimeout _ => none
  | .symbolResolve _ _ => none
  | .symbolDeadline _ _ => none
  | .takeTrap _ => none
  | .itemDispatch _ => none
  | .itemResume _ => none
  | .launchComplete _ => none
  | .launchAgeing _ => none
  | .preemptMark _ => none
  | .preemptGraceExpiry _ => none
  | .watchdogExpiry _ => none
  | .permitChange _ _ => none
  | .assocDispatch _ => none
  | .streamFill _ _ => none
  | .streamDrain _ _ => none
  | .transferCommandStart _ _ => none
  | .transferCommandComplete _ _ => none
  | .matrixCommandRun _ => none
  | .matrixCommandComplete _ => none
  | .matrixTaskIssue _ => none
  | .matrixTaskComplete _ => none
  | .treeOpApply _ _ => none
  | .scrub _ => none
  | .promotionInstall _ => none
  | .demotionRemove _ => none
  | .nop _ => none
  | .halt _ => none
  | .trap _ _ => none
  | .sysc _ _ => none
  | .eret _ => none
  | .bkpt _ _ => none
  | .mfc _ _ _ => none
  | .mfcFpcsr _ _ => none
  | .mfcEstartFfidx _ _ _ => none
  | .mfcAdirty _ _ => none
  | .mtc _ _ _ => none
  | .mtcFpcsr _ _ => none
  | .mtcTrapbase _ _ => none
  | .mtcAlimit _ _ => none
  | .mtcPriocur _ _ => none
  | .mtcWatchdog _ _ _ => none
  | .waite _ _ _ _ => none
  | .sev _ _ => none
  | .waitm _ _ _ => none
  | .yield _ => none
  | .cacheIinv _ _ _ _ => none
  | .cacheClean _ _ _ _ => none
  | .cacheClinv _ _ _ _ => none
  | .cacheInv _ _ _ _ => none
  | .cacheZero _ _ _ _ => none
  | .cacheIinvall _ => none
  | .tlbiAll _ => none
  | .tlbiCtx _ _ => none
  | .tlbiVa _ _ _ => none
  | .tlbiVaall _ _ => none
  | .wdogSet _ _ _ _ => none
  | .wdogClr _ _ _ => none
  | .wdogRead _ _ _ => none
  | .errinjCorr _ _ _ => none
  | .errinjDet _ _ _ => none
  | .errinjArr _ _ _ _ => none
  | .add _ _ _ _ => none
  | .sub _ _ _ _ => none
  | .mul _ _ _ _ => none
  | .mulh _ _ _ _ => none
  | .mulhu _ _ _ _ => none
  | .div _ _ _ _ => none
  | .divu _ _ _ _ => none
  | .rem _ _ _ _ => none
  | .remu _ _ _ _ => none
  | .and _ _ _ _ => none
  | .or _ _ _ _ => none
  | .xor _ _ _ _ => none
  | .andn _ _ _ _ => none
  | .shl _ _ _ _ => none
  | .shr _ _ _ _ => none
  | .sra _ _ _ _ => none
  | .addi _ _ _ _ => none
  | .muli _ _ _ _ => none
  | .andi _ _ _ _ => none
  | .ori _ _ _ _ => none
  | .xori _ _ _ _ => none
  | .shli _ _ _ _ => none
  | .shri _ _ _ _ => none
  | .srai _ _ _ _ => none
  | .min _ _ _ _ => none
  | .max _ _ _ _ => none
  | .minu _ _ _ _ => none
  | .maxu _ _ _ _ => none
  | .clz _ _ _ => none
  | .ctz _ _ _ => none
  | .popc _ _ _ => none
  | .brev _ _ _ => none
  | .setp _ _ _ _ _ => none
  | .setpi _ _ _ _ _ => none
  | .plog _ _ _ _ _ => none
  | .sel _ _ _ _ _ _ => none
  | .lea _ _ _ _ _ _ => none
  | .leapc _ _ _ => none
  | .bfx _ _ _ _ _ _ => none
  | .bfi _ _ _ _ _ => none
  | .rot _ _ _ _ => none
  | .roti _ _ _ _ => none
  | .madd _ _ _ _ _ => none
  | .bswapD _ _ _ => none
  | .bswapW _ _ _ => none
  | .bswapH _ _ _ => none
  | .crc _ _ _ _ _ _ => none
  | .hash _ _ _ _ => none
  | .rdcyc _ _ => none
  | .rdid _ _ => none
  | .fadd _ _ _ _ _ => none
  | .fsub _ _ _ _ _ => none
  | .fmul _ _ _ _ _ => none
  | .ffma _ _ _ _ _ _ _ _ => none
  | .fdiv _ _ _ _ _ => none
  | .fsqrt _ _ _ _ => none
  | .fmin _ _ _ _ => none
  | .fmax _ _ _ _ => none
  | .fsetp _ _ _ _ _ => none
  | .fcvt _ _ _ _ _ _ => none
  | .fcvti _ _ _ _ _ _ => none
  | .icvtf _ _ _ _ _ _ => none
  | .fabs _ _ _ => none
  | .fneg _ _ _ => none
  | .fclass _ _ _ => none
  | .frnd _ _ _ _ => none
  | .jmp _ _ => none
  | .br _ _ => none
  | .call _ _ => none
  | .jr _ _ => none
  | .callr _ _ => none
  | .ret _ => none
  | .loop _ _ _ => none
  | .brsymRes _ _ _ => none
  | .brsymPoi _ _ _ => none
  | .brsymPend _ _ _ => none
  | .bri _ _ _ _ => none
  | .frame _ _ _ => none
  | .brz _ _ _ => none
  | .brnz _ _ _ => none
  | .cbr _ _ _ _ _ => none
  | .cbri _ _ _ _ _ => none
  | .exit _ => none
  | .nexti _ _ => none
  | .ld _ _ _ _ _ _ => none
  | .lds _ _ _ _ _ _ => none
  | .st _ _ _ _ _ _ => none
  | .ldl _ _ _ _ _ _ => none
  | .lda _ _ _ _ _ _ _ => none
  | .stl _ _ _ _ _ _ _ => none
  | .amoAdd _ _ _ _ _ _ _ _ => none
  | .amoAnd _ _ _ _ _ _ _ _ => none
  | .amoOr _ _ _ _ _ _ _ _ => none
  | .amoXor _ _ _ _ _ _ _ _ => none
  | .amoSwap _ _ _ _ _ _ _ _ => none
  | .amoMin _ _ _ _ _ _ _ _ => none
  | .amoMax _ _ _ _ _ _ _ _ => none
  | .amoMinu _ _ _ _ _ _ _ _ => none
  | .amoMaxu _ _ _ _ _ _ _ _ => none
  | .amoMaxrst _ _ _ _ _ _ _ => none
  | .cas _ _ _ _ _ _ _ _ _ => none
  | .amolAdd _ _ _ _ _ _ _ _ => none
  | .amolAnd _ _ _ _ _ _ _ _ => none
  | .amolOr _ _ _ _ _ _ _ _ => none
  | .amolXor _ _ _ _ _ _ _ _ => none
  | .amolSwap _ _ _ _ _ _ _ _ => none
  | .amolMin _ _ _ _ _ _ _ _ => none
  | .amolMax _ _ _ _ _ _ _ _ => none
  | .amolMinu _ _ _ _ _ _ _ _ => none
  | .amolMaxu _ _ _ _ _ _ _ _ => none
  | .amolMaxrst _ _ _ _ _ _ _ => none
  | .pref _ _ _ _ _ => none
  | .ldx _ _ _ _ _ _ => none
  | .stx _ _ _ _ _ _ => none
  | .ldp _ _ _ _ _ => none
  | .stp _ _ _ _ _ => none
  | .barInit _ _ _ _ _ => none
  | .barExpect _ _ _ _ _ => none
  | .barArrive _ _ _ _ => none
  | .barArriveb _ _ _ _ _ => none
  | .barWait _ _ _ _ _ => none
  | .barTest _ _ _ _ _ => none
  | .own _ _ _ _ => none
  | .fence _ _ _ => none
  | .fsa _ _ => none
  | .fas _ _ => none
  | .faa _ _ => none
  | .symw _ _ => none
  | .symq _ _ _ => none
  | .symqPoi _ _ _ => none
  | .symx _ _ _ _ => none
  | .wmpub _ _ _ => none
  | .wmpubGen _ _ _ => none
  | .wmset _ _ _ _ _ => none
  | .qwait _ _ _ _ => none
  | .qtake _ _ _ _ => none
  | .launch _ _ _ _ => none
  | .lwait _ _ _ => none
  | .lwaitTest _ _ _ => none
  | .prioGet _ _ _ => none
  | .prioSet _ _ _ _ => none
  | .prioPend _ _ => none
  | .prioCeil _ _ _ _ => none
  | .prioWake _ _ _ => none
  | .prioKill _ _ _ => none
  | .ctxsv _ _ _ _ => none
  | .ctxsvHold _ _ _ _ => none
  | .ctxld _ _ _ => none
  | .sbind _ _ _ => none
  | .sfree _ _ => none
  | .xcopy _ _ _ _ _ => none
  | .xgath2 _ _ _ _ _ => none
  | .xgath _ _ _ _ _ => none
  | .xscat _ _ _ _ _ => none
  | .xslide _ _ _ _ _ => none
  | .xfill _ _ _ _ _ => none
  | .xwait _ _ _ _ => none
  | .xstatDone _ _ _ _ => none
  | .xstatNext _ _ _ _ => none
  | .xstatVal _ _ _ _ => none
  | .xstatFault _ _ _ _ => none
  | .xstatFaddr _ _ _ _ => none
  | .xstatResume _ _ _ _ => none
  | .xstatAbort _ _ _ _ => none
  | .xckpt _ _ _ _ => none
  | .xpromPro _ _ _ _ _ => none
  | .xpromDem _ _ _ _ _ => none
  | .xredAdd _ _ _ _ _ _ => none
  | .xredMax _ _ _ _ _ _ => none
  | .xkv _ _ _ _ _ => none
  | .xdense _ _ _ _ _ => none
  | .xclass _ _ _ _ _ => none
  | .mcfg _ _ _ => none
  | .mma _ _ _ _ _ _ _ _ => none
  | .mmax _ _ _ _ _ _ _ _ => none
  | .mlda _ _ _ _ _ _ _ _ => none
  | .msta _ _ _ _ _ _ _ => none
  | .mzero _ _ _ => none
  | .mconv _ _ _ _ _ _ _ _ => none
  | .mque _ _ _ _ => none
  | .mwait _ _ _ => none
  | .mwaitTask _ _ _ _ => none
  | .mstatDone _ _ _ => none
  | .mstatNext _ _ _ => none
  | .mstatFault _ _ _ => none
  | .mstatFaddr _ _ _ => none
  | .mstatRow _ _ _ => none
  | .mstatResume _ _ _ => none
  | .mstatAbort _ _ _ => none
  | .mstatEv _ _ _ => none
  | .mstatFmt _ _ _ => none
  | .mamax _ _ _ _ _ _ => none
  | .mquant _ _ _ _ _ _ _ _ => none
  | .msoft _ _ _ _ _ _ _ => none
  | .mtrans _ _ _ _ => none
  | .msave _ _ _ => none
  | .mrest _ _ _ => none
  | .afcfg _ _ _ => none
  | .amodeAs _ _ => none
  | .amodeSt _ _ => none
  | .awhile _ _ _ _ => none
  | .asrchSet _ _ _ _ => none
  | .asrchAnd _ _ _ _ => none
  | .asrchOr _ _ _ _ => none
  | .acmpEq _ _ _ _ => none
  | .acmpNe _ _ _ _ => none
  | .acmpLt _ _ _ _ => none
  | .acmpGe _ _ _ _ => none
  | .mlog _ _ _ _ _ => none
  | .mset _ _ _ => none
  | .awr _ _ _ => none
  | .amov _ _ _ => none
  | .apopM _ _ _ => none
  | .apopF _ _ _ => none
  | .afirstFirst _ _ _ => none
  | .afirstLast _ _ _ => none
  | .anextClr _ _ _ => none
  | .anextOne _ _ _ => none
  | .atopkMax _ _ _ _ => none
  | .atopkMin _ _ _ _ => none
  | .aextMax _ _ _ => none
  | .aextMin _ _ _ => none
  | .aextMaxidx _ _ _ => none
  | .aextMinidx _ _ _ => none
  | .ardrow _ _ _ _ => none
  | .awrrow _ _ _ _ => none
  | .aadd _ _ _ _ _ _ => none
  | .asub _ _ _ _ _ _ _ => none
  | .amul _ _ _ _ _ _ => none
  | .afma _ _ _ _ _ _ => none
  | .adiv _ _ _ _ _ _ _ => none
  | .amin _ _ _ _ => none
  | .amax _ _ _ _ => none
  | .aabs _ _ _ _ _ => none
  | .aneg _ _ _ _ _ => none
  | .alogAnd _ _ _ _ => none
  | .alogOr _ _ _ _ => none
  | .alogXor _ _ _ _ => none
  | .alogAndn _ _ _ _ => none
  | .ashfShl _ _ _ _ _ => none
  | .ashfShr _ _ _ _ _ => none
  | .ashfSra _ _ _ _ _ => none
  | .ashfRot _ _ _ _ _ => none
  | .acvt _ _ _ _ _ => none
  | .aclamp _ _ _ _ _ => none
  | .asqrt _ _ _ _ _ => none
  | .aham _ _ _ _ _ => none
  | .arem _ _ _ _ _ _ => none
  | .alut _ _ _ _ _ => none
  | .ashr _ _ _ _ => none
  | .ascanAdd _ _ _ _ _ => none
  | .ascanMin _ _ _ _ _ => none
  | .ascanMax _ _ _ _ _ => none
  | .ascanOr _ _ _ _ _ => none
  | .asegrAdd _ _ _ _ _ _ => none
  | .asegrMin _ _ _ _ _ _ => none
  | .asegrMax _ _ _ _ _ _ => none
  | .asegrOr _ _ _ _ _ _ => none
  | .aspi _ _ _ _ _ _ => none
  | .aspu _ _ _ _ _ _ => none
  | .asplenSet _ _ _ => none
  | .asplenMask _ _ _ => none
  | .aappIdx _ _ _ => none
  | .aappVal _ _ _ _ => none
  | .aconf _ _ _ => none
  | .aintvCc _ _ _ _ _ => none
  | .aintvCo _ _ _ _ _ => none
  | .aintvOc _ _ _ _ _ => none
  | .aintvOo _ _ _ _ _ => none
  | .amatch _ _ _ _ _ => none
  | .achk _ _ _ => none
  | .afill _ _ _ _ => none
  | .abcast _ _ _ _ => none
  | .aqnt _ _ _ _ => none
  | .aqntKeep _ _ _ => none
  | .adqnt _ _ _ _ _ _ => none
  | .ald _ _ _ _ => none
  | .aldx _ _ _ _ _ => none
  | .aldseg _ _ _ _ _ _ _ => none
  | .ast _ _ _ => none
  | .astx _ _ _ _ => none
  | .astseg _ _ _ _ _ _ _ => none
  | .alds _ _ _ _ _ => none
  | .asts _ _ _ _ => none
  | .asaveF _ _ _ => none
  | .asaveM _ _ _ => none
  | .asaveDesc _ _ _ => none
  | .asaveEv _ _ _ => none
  | .arstrF _ _ _ => none
  | .arstrM _ _ _ => none
  | .arstrDesc _ _ _ => none
  | .arstrEv _ _ _ => none
  | .adump _ _ _ => none
  | .aundmp _ _ _ => none
  | .aucode _ _ _ _ => none
  | .aholdStop _ => none
  | .aholdGo _ => none
  | .aholdDrop _ => none
  | .aestatState _ _ => none
  | .aestatAddr _ _ => none
  | .aestatDetail _ _ => none
  | .aestatPass _ _ => none
  | .await _ => none
  | .spcfg _ _ _ => none
  | .spld _ _ _ _ => none
  | .spst _ _ _ _ => none
  | .spamoAdd _ _ _ _ _ => none
  | .spamoMin _ _ _ _ _ => none
  | .spamoMax _ _ _ _ _ => none
  | .spamoSwap _ _ _ _ _ => none
  | .spnextGt _ _ _ _ => none
  | .spnextGe _ _ _ _ => none
  | .spprevLt _ _ _ _ => none
  | .spprevLe _ _ _ _ => none
  | .spcnt _ _ _ _ => none
  | .spdel _ _ _ _ => none
  | .spwait _ => none
  | .spstatKeys _ _ _ => none
  | .spstatNodes _ _ _ => none
  | .spstatFree _ _ _ => none
  | .spstatDepth _ _ _ => none
  | .spstatStatus _ _ _ => none
  | .spstatPages _ _ _ => none
  | .sppool _ _ _ _ _ => none
  | .spfree _ _ _ => none
  | .rclassSet _ _ _ _ => none
  | .rclassRead _ _ _ => none
  | .ebsetCorr _ _ _ _ => none
  | .ebsetDet _ _ _ _ => none
  | .ebsetRdcorr _ _ _ => none
  | .ebsetRddet _ _ _ => none
  | .mscopClean _ _ _ _ => none
  | .mscopClinv _ _ _ _ => none
  | .mscopInv _ _ _ _ => none
  | .mscopStat _ _ _ _ => none
  | .peerwOpen _ _ _ _ => none
  | .peerwClose _ _ _ => none
  | .peerwRead _ _ _ => none
  | .peerwBind _ _ _ _ => none
  | .smcSetw _ _ _ _ => none
  | .smcFwld _ _ _ => none
  | .smcVer _ _ => none
  | .perfRead _ _ _ => none
  | .perfClr _ _ _ => none
  | .dbgHalt _ _ _ => none
  | .dbgGo _ _ _ => none
  | .dbgRd _ _ _ _ => none
  | .dbgWr _ _ _ _ => none
  | .dbgSig _ _ _ _ => none
  | .atst _ _ _ _ => none
  | .pwrqMax _ _ _ => none
  | .pwrqState _ _ _ _ => none
  | .alim _ _ _ _ => none
  | .hmsg _ _ _ _ => none
  | .pmsgSend _ _ _ _ _ => none
  | .pmsgRecv _ _ _ _ => none
  | .pmsgWait _ _ _ => none
  | .li _ _ v => some v
  | .jmpx _ v => some v
  | .callx _ v => some v
  | .addix _ _ _ v => some v
  | .leax _ _ v => some v
  | .awrx _ _ _ v => some v
  | .asrchx _ _ _ v => some v
  | .ud _ => none
  | .blockThrottleChange _ _ _ _ _ => none
  | .tdispStateChange _ _ _ => none
  | .inboundPcieAtomic _ _ _ _ _ _ => none

/-- Word 0 of an instruction. -/
def Instr.word0 (i : Instr) : BitVec 64 := BitVec.ofNat 64 (packBits i.fields)

/-- The words of an instruction (R36, R37); a device event has none. -/
def encode (i : Instr) : List (BitVec 64) :=
  if i.fields = [] then [] else i.word0 :: i.second.toList

/-- True of the rows of the opcode table that are device events. -/
def Instr.isEvent (i : Instr) : Bool := i.fields.isEmpty

/-- Little-endian bytes of a word (R4). -/
def bytesOfWord (n : Nat) (w : Nat) : List (BitVec 8) :=
  match n with
  | 0 => []
  | n + 1 => BitVec.ofNat 8 w :: bytesOfWord n (w / 256)

/-- The decoder on a table row's bits: the bits above `nbits` are zero, the words lie as the hardware stores them. -/
def decodeTableWord (nbits w : Nat) : Option Instr :=
  match decodeBytes (bytesOfWord 16 (w % 2 ^ nbits)) with
  | .ok (i, _) => some i
  | .error _ => none

end Sys2Proof

end
end

