-- ==== Sys2Proof/Machine/Fetch.lean ====
section
/-!
DEFINITION. Instruction fetch (05 R158, 03 R96) and what a strand does at an instruction boundary (04 R106 to R111).
-/
namespace Sys2Proof.Machine

/-- The running strand as a fetching agent. -/
def State.whoFetch (s : State) : Who := { s.whoStrand with asker := .fetch s.cur }

/-- Fetches the word at `va`: from a peer or the host as a read of the page's kind, as a load is (R94, R96); the cluster's instruction cache may keep a local word (R96, DESIGN CHOICE log 9). A fetch from
the window waits like any other access for an AMODE that names its array (R235). -/
def fetchWord (va : Word) : M Word := do
  modeOrder va
  let s ← get
  let w := s.whoFetch
  let (pl, kind) ← liftA (check w .fetch va)
  match pl with
  | .mem pa =>
    let c := clusterOf s.cur
    match Tab.find ((← get).cluster c).icache pa with
    | some v => return v
    | none =>
      let (bs, bad) ← liftA (readPlace w pl 8 va)
      match bad with
      | some line => trapI .uncorrectable 0 (BitVec.ofNat 64 line)
      | none =>
        let v := BitVec.ofNat 64 (leNat bs)
        modify fun s => s.setCluster c { s.cluster c with icache := Tab.insert (s.cluster c).icache pa v }
        return v
  | _ =>
    if pl.isRemote then symOrder pl 8 kind plainAnn
    let (bs, bad) ← liftA (readPlace w pl 8 va)
    match bad with
    | some line => trapI .uncorrectable 0 (BitVec.ofNat 64 line)
    | none => return BitVec.ofNat 64 (leNat bs)

/-- Fetches word 0 into the instruction register, and word 1 of a format-L instruction (R37, R47). -/
def fetchInstr : M (Word × Word) := do
  let pc : Word := (← getHere).pc.setWidth 64
  modify fun s => { s with ir := 0 }
  let w0 ← fetchWord pc
  modify fun s => { s with ir := w0 }
  let w1 ← if isLong w0 then fetchWord (pc + 8) else pure 0
  return (w0, w1)

/-- The trap a strand takes at an instruction boundary before its next instruction (R108): an enabled pending event. -/
def Strand.eventTrap (st : Strand) : Option (Trap × Strand) :=
  if !st.even then none
  else
    let mk (c : Cause) (v : Word) : Trap := ⟨c.code, 0, v, .event, false⟩
    match st.events.watchdog, st.events.ebudget, st.events.preempt, st.events.debug with
    | some v, _, _, _ => some (mk .watchdog v, { st with events := { st.events with watchdog := none } })
    | none, some v, _, _ => some (mk .ebudget v, { st with events := { st.events with ebudget := none } })
    | none, none, some v, _ => some (mk .preempt v, { st with events := { st.events with preempt := none } })
    | none, none, none, some v => some (mk .debug v, { st with events := { st.events with debug := none } })
    | none, none, none, none => none

/-- A fetch fault at the double-trap vector while INTRAP is 1 stops the strand (R111). -/
def doubleStop (st : Strand) : Bool := st.intrap && st.pc == (st.trapbase + 0x400).setWidth 56

/-- A failed fetch. -/
def fetchTrap (t : Trap) (s0 s1 : State) : State :=
  if doubleStop s0.here then
    tick 1 (s1.setHere { s0.here.restore s1.here with status := setBit s0.here.status 6 true, halt := .stopped })
  else trapAt t { s0 with ir := s1.ir } s1

/-- An ILLEGAL_INSTR trap of a word that no instruction has (R47). -/
def illegalTrap (s : State) : State := trapAt ⟨Cause.illegalInstr.code, 0, 0, .instr, false⟩ s s

end Sys2Proof.Machine
end

