-- ==== Sys2Proof/Machine/ExpLn.lean ====
section
/-!
DEFINITION. Correctly rounded exponential and logarithm of exact values (14 R389), by bounds that close on the real value
until both round alike (DESIGN CHOICE log 14).
-/
namespace Sys2Proof.Machine

/-- Lower and upper bound of a non-negative real, times 2^P. -/
structure Bnd where
  lo : Nat
  hi : Nat
  deriving DecidableEq, Repr

/-- Bounds of a product. -/
def Bnd.mul (prec : Nat) (x y : Bnd) : Bnd := ⟨x.lo * y.lo / 2 ^ prec, x.hi * y.hi / 2 ^ prec + 1⟩
/-- Bounds of a power. -/
def Bnd.pow (prec : Nat) (x : Bnd) : Nat → Bnd
  | 0 => ⟨2 ^ prec, 2 ^ prec⟩
  | n + 1 => (x.pow prec n).mul prec x
/-- Bounds of num/den. -/
def Bnd.ofRat (prec num den : Nat) : Bnd := ⟨num * 2 ^ prec / den, num * 2 ^ prec / den + 1⟩

/-- Alternating series of exp(-x) for x in [0, 1], from term `i`: bounds of the sum so far, as integers. -/
def expSeries (prec : Nat) (x : Bnd) : Nat → Nat → Bnd → Int × Int → Int × Int
  | 0, _, t, (lo, hi) => (lo - t.hi, hi + t.hi)
  | n + 1, i, t, (lo, hi) =>
    let sum : Int × Int := if i % 2 = 0 then (lo + t.lo, hi + t.hi) else (lo - t.hi, hi - t.lo)
    let u := t.mul prec x
    expSeries prec x n (i + 1) ⟨u.lo / (i + 1), u.hi / (i + 1) + 1⟩ sum
/-- Bounds of exp(-x) for x in [0, 1]. -/
def expSmall (prec : Nat) (x : Bnd) : Bnd :=
  let (lo, hi) := expSeries prec x (prec / 2) 0 ⟨2 ^ prec, 2 ^ prec⟩ (0, 0)
  ⟨lo.toNat, hi.toNat⟩
/-- Bounds of exp(-num/den). -/
def expNeg (prec num den : Nat) : Bnd :=
  let n := num / den
  if 200 < n then ⟨0, 2 ^ prec / 2 ^ 280 + 1⟩
  else ((expSmall prec ⟨2 ^ prec, 2 ^ prec⟩).pow prec n).mul prec (expSmall prec (Bnd.ofRat prec (num % den) den))

/-- Series of atanh z, z at most 1/3: `p` is the power of z, `z2` its square. -/
def atanhSeries (prec : Nat) (z2 : Bnd) : Nat → Nat → Bnd → Bnd → Bnd
  | 0, _, p, acc => ⟨acc.lo, acc.hi + 2 * p.hi⟩
  | n + 1, i, p, acc =>
    atanhSeries prec z2 n (i + 1) (p.mul prec z2) ⟨acc.lo + p.lo / (2 * i + 1), acc.hi + p.hi / (2 * i + 1) + 1⟩
/-- Bounds of ln(num/den) for num/den in [1, 2]. -/
def lnSmall (prec num den : Nat) : Bnd :=
  let z := Bnd.ofRat prec (num - den) (num + den)
  let a := atanhSeries prec (z.mul prec z) (prec / 2) 0 z ⟨0, 0⟩
  ⟨2 * a.lo, 2 * a.hi⟩
/-- Bounds of ln(num/den) for num/den at least 1. -/
def lnBnd (prec num den : Nat) : Bnd :=
  let k := (floorLog2 num den).toNat
  let l2 := lnSmall prec 2 1
  let m := lnSmall prec num (den * 2 ^ k)
  ⟨k * l2.lo + m.lo, k * l2.hi + m.hi⟩

/-- Rounds to binary32 a real of which bounds are known at growing precision. -/
def roundBetween (f : Nat → FV × FV) : Nat → Nat → Nat × Ev
  | 0, prec => b32.convert 1 false (f prec).1
  | n + 1, prec =>
    let (lo, hi) := f prec
    let x := b32.convert 1 false lo
    let y := b32.convert 1 false hi
    if x.1 = y.1 then y else roundBetween f n (2 * prec)

/-- RoundRNE(exp(-num/den), binary32). -/
def expRound (num den : Nat) : Nat × Ev :=
  if num = 0 then b32.round 1 false false 1 1
  else roundBetween (fun prec =>
    let b := expNeg prec num den
    (.fin false b.lo (2 ^ prec), .fin false b.hi (2 ^ prec))) 3 256
/-- RoundRNE(x + ln(num/den), binary32) for a finite x. -/
def addLnRound (neg : Bool) (xn xd num den : Nat) : Nat × Ev :=
  let plus (n d : Nat) : FV := addFin 1 neg xn xd false n d
  if num = den then b32.convert 1 false (plus 0 1)
  else roundBetween (fun prec =>
    let b := lnBnd prec num den
    (plus b.lo (2 ^ prec), plus b.hi (2 ^ prec))) 3 256

end Sys2Proof.Machine
end

