-- ==== Sys2Proof/Machine/Engine.lean ====
section
/-!
DEFINITION. What engines share: pattern records (12 R335 to R337), reads and writes of an engine (12 R338, R339; 03 R81,
R86), and the identifiers of commands (12 R333).
-/
namespace Sys2Proof.Machine

/-! ### Accesses of an engine -/

/-- An engine at work: who makes its accesses, and the pennants its reads wait for (R339). -/
structure Eng where
  w : Who
  slots : Tab Slot
  deriving DecidableEq, Repr

/-- Reads `n` bytes, page by page; uncorrectable data fails with the address of its line (R469). -/
def Eng.readGo (g : Eng) : Nat → Word → Nat → A (List Byte)
  | 0, _, _ => return []
  | fuel + 1, va, n => do
    if n = 0 then return []
    let k := pageCut va n
    let (pl, _) ← check g.w .rd va
    gate g.w g.slots va k
    let (bs, bad) ← readPlace g.w pl k va
    match bad with
    | some pa => failA .uncorrectable 0 (BitVec.ofNat 64 pa)
    | none => return bs ++ (← g.readGo fuel (va + BitVec.ofNat 64 k) (n - k))
/-- Pages that `n` bytes can touch. -/
def pagesOf (n : Nat) : Nat := n / 65536 + 2
/-- Reads `n` bytes. -/
def Eng.read (g : Eng) (va : Word) (n : Nat) : A (List Byte) := g.readGo (pagesOf n) va n
/-- Reads `n` bytes as a little-endian number. -/
def Eng.readNat (g : Eng) (va : Word) (n : Nat) : A Nat := do return leNat (← g.read va n)

/-- Checks `n` bytes as a write; a host page waits for its translation here (R158, R182). -/
def Eng.checkGo (g : Eng) : Nat → Word → Nat → A Unit
  | 0, _, _ => return ()
  | fuel + 1, va, n => do
    if n = 0 then return ()
    let k := pageCut va n
    let (pl, _) ← check g.w .wr va
    match pl with
    | .host addr => hostReady g.w addr va
    | _ => pure ()
    g.checkGo fuel (va + BitVec.ofNat 64 k) (n - k)
/-- Checks `n` bytes as a write. -/
def Eng.check (g : Eng) (va : Word) (n : Nat) : A Unit := g.checkGo (pagesOf n) va n
/-- Writes bytes page by page. -/
def Eng.writeGo (g : Eng) : Nat → Word → List Byte → A Unit
  | 0, _, _ => return ()
  | fuel + 1, va, bs => do
    if bs.isEmpty then return ()
    let k := pageCut va bs.length
    let (pl, _) ← Machine.check g.w .wr va
    writePlace g.w pl (bs.take k) va
    g.writeGo fuel (va + BitVec.ofNat 64 k) (bs.drop k)
/-- Checks all of some bytes and writes them: of an element across two pages whose upper part fails nothing is written, as R346
has it for the failing ordinal, where R80 has the lower part of a store performed (DESIGN CHOICE log 115). -/
def Eng.write (g : Eng) (va : Word) (bs : List Byte) : A Unit := do
  g.check va bs.length
  g.writeGo (pagesOf bs.length) va bs
/-- Writes a number as `n` little-endian bytes. -/
def Eng.writeNat (g : Eng) (va : Word) (v n : Nat) : A Unit := g.write va (leBytes v n)

/-! ### Pattern records (R335, R336) -/

/-- BAREN. -/
def patBaren (r : List Word) : Bool := recBits r 1 15 1 == 1
/-- FMODE. -/
def patFmode (r : List Word) : Nat := recBits r 1 14 1
/-- DIR. -/
def patDir (r : List Word) : Nat := recBits r 1 12 2
/-- NDIM, the number of dimensions minus 1. -/
def patNdim (r : List Word) : Nat := recBits r 1 10 2
/-- SIGN. -/
def patSign (r : List Word) : Bool := recBits r 1 9 1 == 1
/-- ESIZE. -/
def patEsize (r : List Word) : Nat := recBits r 1 0 4
/-- EXTENT of dimension `k`. -/
def patExtent (r : List Word) (k : Nat) : Nat := recBits r (2 + k) 0 24
/-- STRIDE of dimension `k`. -/
def patStride (r : List Word) (k : Nat) : Int := ((r.getD (2 + k) 0).extractLsb' 24 40).toInt
/-- BASE. -/
def patBase (r : List Word) : Word := r.getD 0 0
/-- BAR. -/
def patBar (r : List Word) : Word := r.getD 6 0
/-- AUX. -/
def patAux (r : List Word) : Word := r.getD 7 0
/-- Bytes of a code of ESIZE above 0; a 4-bit element is read from one byte. -/
def sizeOfCode (e : Nat) : Nat := 2 ^ (e - 1)
/-- Bytes read for one element. -/
def patBytes (r : List Word) : Nat := sizeOfCode (patEsize r)
/-- Bytes of `n` elements, a 4-bit element counting half a byte (R348). -/
def patTotal (r : List Word) (n : Nat) : Nat := if patEsize r = 0 then (n + 1) / 2 else n * patBytes r
/-- Bits of one element. -/
def patBits (r : List Word) : Nat := if patEsize r = 0 then 4 else 8 * patBytes r

/-- The offset of ordinal `e`, dimension 0 fastest. -/
def patOffset (r : List Word) : Nat → Nat → Nat → Int
  | 0, _, _ => 0
  | n + 1, k, e =>
    if patExtent r k = 0 then 0
    else ((e % patExtent r k : Nat) : Int) * patStride r k + patOffset r n (k + 1) (e / patExtent r k)
/-- Address of an element's byte, and the bit the element starts at (R336). -/
def patAddr (r : List Word) (e : Nat) : Word × Nat :=
  let x := patOffset r (patNdim r + 1) 0 e
  if patEsize r = 0 then
    let n : Int := 2 * ((patBase r).toNat : Int) + x
    (BitVec.ofInt 64 (Int.fdiv n 2), 4 * (Int.fmod n 2).toNat)
  else (patBase r + BitVec.ofInt 64 x, 0)

/-- Reads a value of ESIZE `size` at a byte address and bit: 16 bytes are two accesses, the lower first (R338). -/
def Eng.getAt (g : Eng) (size : Nat) (va : Word) (bit : Nat) : A Nat := do
  if size = 0 then return (← g.readNat va 1) / 2 ^ bit % 16
  else if size = 5 then
    let lo ← g.readNat va 8
    let hi ← g.readNat (va + 8) 8
    return lo + 2 ^ 64 * hi
  else g.readNat va (sizeOfCode size)
/-- What a store of 4 bits asks for before it is performed: its checks and, at a peer or the host, the byte (R81, R158). -/
def Eng.nibbleReady (g : Eng) (va : Word) : A (Place × List Byte) := do
  g.check va 1
  let (pl, _) ← Machine.check g.w .wr va
  match pl with
  | .peer .. => return (pl, ← { g with slots := [] }.read va 1)
  | .host _ => return (pl, ← { g with slots := [] }.read va 1)
  | _ => return (pl, [])
/-- Byte `bs` with 4 bits replaced. -/
def putNibble (bit v : Nat) (bs : List Byte) : List Byte :=
  let old := leNat bs
  leBytes ((if bit = 0 then old / 16 * 16 else old % 16) + v % 16 * 2 ^ bit) 1
/-- Writes 4 bits: the other bits of the byte stay as read, those of an uncorrectable line as delivered (R81, R470). -/
def Eng.putNibble (g : Eng) (va : Word) (bit v : Nat) : A Unit := do
  let (pl, bs) ← g.nibbleReady va
  match pl with
  | .mem pa => modify (updateLine g.w pa 1 (Machine.putNibble bit v))
  | .peer .. => writePlace g.w pl (Machine.putNibble bit v bs) va
  | .host _ => writePlace g.w pl (Machine.putNibble bit v bs) va
  | _ => do
    let (bs, _) ← readPlace g.w pl 1 va
    writePlace g.w pl (Machine.putNibble bit v bs) va
/-- Writes a value of ESIZE `size`: a 4-bit element keeps the other bits of its byte as last read (R81). -/
def Eng.putAt (g : Eng) (size : Nat) (va : Word) (bit v : Nat) : A Unit := do
  if size = 0 then g.putNibble va bit v
  else if size = 5 then
    g.check va 8
    g.check (va + 8) 8
    g.writeNat va v 8
    g.writeNat (va + 8) (v / 2 ^ 64) 8
  else g.writeNat va v (sizeOfCode size)
/-- Reads element `e`. -/
def Eng.get (g : Eng) (r : List Word) (e : Nat) : A Nat := do
  let (va, bit) := patAddr r e
  g.getAt (patEsize r) va bit
/-- Writes element `e`. -/
def Eng.put (g : Eng) (r : List Word) (e v : Nat) : A Unit := do
  let (va, bit) := patAddr r e
  g.putAt (patEsize r) va bit v
/-- Reads elements from ordinal `e` on. -/
def Eng.gets (g : Eng) (r : List Word) (e : Nat) : Nat → A (List Nat)
  | 0 => return []
  | n + 1 => do
    let v ← g.get r e
    return v :: (← g.gets r (e + 1) n)
/-- Checks elements as writes from ordinal `e` on. -/
def Eng.checks (g : Eng) (r : List Word) (e : Nat) : Nat → A Unit
  | 0 => return ()
  | n + 1 => do
    g.check (patAddr r e).1 (patBytes r)
    g.checks r (e + 1) n
/-- What the writes of 4-bit elements from ordinal `e` on ask for. -/
def Eng.nibblesReady (g : Eng) (r : List Word) (e : Nat) : Nat → A Unit
  | 0 => return ()
  | n + 1 => do
    let _ ← g.nibbleReady (patAddr r e).1
    g.nibblesReady r (e + 1) n
/-- Writes elements from ordinal `e` on. -/
def Eng.puts (g : Eng) (r : List Word) (e : Nat) : List Nat → A Unit
  | [] => return ()
  | v :: vs => do
    g.put r e v
    g.puts r (e + 1) vs

/-! ### Records read at issue (R337) -/

/-- Reads a 64-byte record at issue: ALIGN, then the causes of the read itself. -/
def readRecord (va : Word) : M (List Word) := do
  needAlign va 64
  let bs ← loadOwn va 64
  return (List.range 8).map fun i => BitVec.ofNat 64 (leNat ((bs.drop (8 * i)).take 8))

/-- A check of records: subcode, address of the record it names, whether it is broken. -/
abbrev RecCheck := BitVec 8 × Word × Bool

/-- The broken check of lowest subcode, the first listed among equals. -/
def worst : List RecCheck → Option (BitVec 8 × Word)
  | [] => none
  | (sub, va, bad) :: t =>
    match worst t with
    | some (sub', va') => if bad && sub.toNat ≤ sub'.toNat then some (sub, va) else some (sub', va')
    | none => if bad then some (sub, va) else none
/-- XFER_FAULT of the lowest subcode among broken checks, a command delivery of this instruction (R337). -/
def passChecks (cs : List RecCheck) : M Unit :=
  match worst cs with
  | some (sub, va) => trapC Cause.xfer.code sub va
  | none => return ()

/-- What Table 12.1 asks of a pattern record in the role DIR `dir`; `bar` is set where the command takes its burgee. -/
def patChecks (va : Word) (r : List Word) (dir : Nat) (bar : Bool) : List RecCheck :=
  [(0x41, va, recBits r 1 16 48 != 0 || recBits r 1 4 5 != 0 || decide (5 < patEsize r) || decide (1 < patDir r)
      || (List.range 4).any fun k => decide (patNdim r < k) && r.getD (2 + k) 0 != 0),
    (0x42, va, patDir r != dir),
    (0x45, va, if patBaren r then !bar || (patBar r).toNat % 16 != 0 else patBar r != 0)]

/-- Earlier S and R accesses of the strand are performed before a command is issued: the issue is a release (R86). -/
def releaseWait : M Unit := do
  let s ← get
  if s.here.syms.any fun p => p.2.src.range.isSome && p.2.kind != 2 then waitM
  set (s.seen s.cur)

/-! ### Channels (R332 to R334) -/

/-- A channel of a cluster's transfer engine. -/
def State.chan (s : State) (cl ch : Nat) : Chan := Tab.get Chan.reset (s.cluster cl).chans ch
/-- Writes a channel. -/
def State.setChan (s : State) (cl ch : Nat) (x : Chan) : State :=
  s.setCluster cl { s.cluster cl with chans := Tab.put Chan.reset (s.cluster cl).chans ch x }
/-- Changes the head of a channel's queue. -/
def State.modEntry (s : State) (cl ch : Nat) (f : XEntry → XEntry) : State :=
  let c := s.chan cl ch
  match c.queue with
  | [] => s
  | e :: q => s.setChan cl ch { c with queue := f e :: q }
/-- Whether `d` is at or behind `x`, counting identifiers modulo 2^32 (R333, R359). -/
def notAfter (d x : BitVec 32) : Bool := (x - d).toNat < 2 ^ 31
/-- Complete (R333). -/
def Chan.complete (c : Chan) (d : BitVec 32) : Bool := (c.done - 1 - d).toNat < 2 ^ 31
/-- The oldest command completes with value `v`; 16 values are kept (R333, R334). -/
def Chan.finish (c : Chan) (v : Word) : Chan :=
  match c.queue with
  | [] => c
  | e :: q =>
    let vs := c.vals ++ [(e.id, v)]
    { c with queue := q, done := c.done + 1, vals := vs.drop (vs.length - 16) }
/-- Every queued command completes, in order, with all ones (R347). -/
def Chan.abort (c : Chan) : Nat → Chan
  | 0 => c
  | n + 1 => (c.finish 0xFFFFFFFFFFFFFFFF).abort n

end Sys2Proof.Machine
end

