-- ==== Sys2Proof/Machine/MatrixProduct.lean ====
section
/-!
DEFINITION. Matrix engine: tiles, operand accesses (14 R369, R374, R376), and the products by panels (08 R258, R260;
14 R378 to R382).
-/
namespace Sys2Proof.Machine

/-! ### State of an engine -/

/-- The matrix engine of a cluster. -/
def State.mx (s : State) (cl : Nat) : Matrix := (s.cluster cl).mx
/-- Writes the matrix engine of a cluster. -/
def State.setMx (s : State) (cl : Nat) (x : Matrix) : State := s.setCluster cl { s.cluster cl with mx := x }
/-- Changes the matrix engine of a cluster. -/
def State.modMx (s : State) (cl : Nat) (f : Matrix → Matrix) : State := s.setMx cl (f (s.mx cl))
/-- Changes the command at the head of the queue. -/
def Matrix.modHead (x : Matrix) (f : MCmd → MCmd) : Matrix :=
  match x.queue with
  | [] => x
  | c :: q => { x with queue := f c :: q }
/-- Tile `t`. -/
def Matrix.tile (x : Matrix) (t : Nat) : MTile := Tab.get MTile.reset x.tiles t
/-- Writes tile `t`. -/
def Matrix.setTile (x : Matrix) (t : Nat) (v : MTile) : Matrix := { x with tiles := Tab.put MTile.reset x.tiles t v }
/-- Element (i, j) of a tile. -/
def MTile.get (t : MTile) (i j : Nat) : Word := Tab.get 0 t.cells (96 * i + j)
/-- Writes element (i, j) of a tile. -/
def MTile.put (t : MTile) (i j : Nat) (v : Word) : MTile := { t with cells := Tab.put 0 t.cells (96 * i + j) v }
/-- Gives a tile a format: one that changes becomes +0 (R378, R384). -/
def MTile.setFormat (t : MTile) (f64 : Bool) : MTile := if t.f64 == f64 then t else ⟨f64, []⟩
/-- Bytes of a tile's elements. -/
def MTile.bytes (t : MTile) : Nat := if t.f64 then 8 else 4
/-- Writes rows of elements from row `i` on. -/
def MTile.putRows (t : MTile) (i : Nat) : List (List Nat) → MTile
  | [] => t
  | r :: rs => (r.zipIdx.foldl (fun (t : MTile) p => t.put i p.2 (BitVec.ofNat 64 p.1)) t).putRows (i + 1) rs

/-! ### Configuration (Table 14.3) -/

/-- M. -/
def mcfgM (r : List Word) : Nat := recBits r 0 0 13
/-- N. -/
def mcfgN (r : List Word) : Nat := recBits r 0 16 13
/-- K. -/
def mcfgK (r : List Word) : Nat := recBits r 0 32 13
/-- ATYPE. -/
def mcfgA (r : List Word) : Nat := recBits r 1 0 5
/-- BTYPE. -/
def mcfgB (r : List Word) : Nat := recBits r 1 8 5
/-- ACC: whether the accumulator is FP64. -/
def mcfgAcc (r : List Word) : Bool := recBits r 1 16 1 == 1
/-- ASTRIDE. -/
def mcfgAStride (r : List Word) : Nat := recBits r 2 0 32
/-- BSTRIDE. -/
def mcfgBStride (r : List Word) : Nat := recBits r 2 32 32
/-- CSTRIDE. -/
def mcfgCStride (r : List Word) : Nat := recBits r 4 0 32
/-- A signed offset of Table 14.3. -/
def mcfgOff (r : List Word) (lo : Nat) : Word := ((r.getD 5 0).extractLsb' lo 32).signExtend 64
/-- Panel height P (R378). -/
def mcfgP (r : List Word) : Nat := if mcfgAcc r then 48 else 96
/-- Whether a tag is an operand type of R376. -/
def mxTag (acc : Bool) (t : Nat) : Bool :=
  if acc then t == 3 else t == 1 || t == 2 || (decide (4 ≤ t) && decide (t ≤ 0x10))
/-- Whether a record breaks Table 14.3 or R376. -/
def mcfgBad (r : List Word) : Bool :=
  recBits r 0 45 19 != 0 || recBits r 0 29 3 != 0 || recBits r 0 13 3 != 0
    || decide (4096 < mcfgM r) || decide (4096 < mcfgN r) || decide (4096 < mcfgK r)
    || recBits r 1 17 47 != 0 || recBits r 1 13 3 != 0 || recBits r 1 5 3 != 0 || recBits r 4 32 32 != 0
    || r.getD 7 0 != 0 || !mxTag (mcfgAcc r) (mcfgA r) || !mxTag (mcfgAcc r) (mcfgB r)

/-- Width of an operand element (R376): integers are 8 bits. -/
def mxWidth (tag : Nat) : Nat :=
  if tag = 3 then 64 else if tag = 4 then 32 else if tag = 5 || tag = 6 then 16
  else if tag = 9 || tag = 0x0A || tag = 0x0F then 6 else if tag = 0x0B || tag = 0x10 then 4 else 8
/-- Half-bytes an operand element takes in memory (Table 10.5): FP4 one, FP6 two. -/
def mxHalves (tag : Nat) : Nat := if mxWidth tag = 4 then 1 else Nat.max 2 (mxWidth tag / 4)

/-! ### Operand accesses (R374) -/

/-- Who works: its accesses, and whether it is a task, which reaches the die scratchpad only (R393). -/
structure MxWho where
  w : Who
  task : Bool
  deriving DecidableEq, Repr

/-- The checks of an operand access of `n` bytes: the parts of the window, alignment, owner and mode. -/
def MxWho.check (g : MxWho) (va : Word) (n : Nat) : A Place := do
  let o := bits va 0 40
  let scratch := decide (2 ^ 32 ≤ o) && decide (o < 2 ^ 32 + 2 ^ 25)
  if va.toNat / 2 ^ 40 ≠ 0xFFFF || !(scratch || (decide (o < 2 ^ 25) && !g.task)) then failA .matrix 5 va
  if va.toNat % n ≠ 0 then failA .align 0 va
  window g.w va
/-- Reads `n` bytes. -/
def MxWho.read (g : MxWho) (va : Word) (n : Nat) : A Nat := do
  let pl ← g.check va n
  let (bs, bad) ← readPlace g.w pl n va
  match bad with
  | some pa => failA .uncorrectable 0 (BitVec.ofNat 64 pa)
  | none => return leNat bs
/-- Writes `n` bytes. -/
def MxWho.write (g : MxWho) (va : Word) (v n : Nat) : A Unit := do
  let pl ← g.check va n
  writePlace g.w pl (leBytes v n) va
/-- Reads the element of a tag that lies `k` elements from `base`. -/
def MxWho.elem (g : MxWho) (tag : Nat) (base : Word) (k : Nat) : A Nat := do
  if mxHalves tag = 1 then return (← g.read (base + BitVec.ofNat 64 (k / 2)) 1) / 2 ^ (4 * (k % 2)) % 16
  else
    let e := mxHalves tag / 2
    return (← g.read (base + BitVec.ofNat 64 (k * e)) e) % 2 ^ mxWidth tag
/-- Elements by a function of the index. -/
def collect {α : Type} (f : Nat → A α) (k : Nat) : Nat → A (List α)
  | 0 => return []
  | n + 1 => do
    let v ← f k
    return v :: (← collect f (k + 1) n)

/-! ### Sum orders (R258, R260) -/

/-- Exact sum of the products of a chunk, or none where it is invalid; the sign of a sum of zeros is IEEE's (DESIGN CHOICE log
58). -/
def chunkSum : Option FV → List (FV × FV) → Option FV
  | acc, [] => some (acc.getD (.fin false 0 1))
  | acc, (a, b) :: t =>
    if a.isNan || b.isNan then none
    else match a.mul b with
      | none => none
      | some p =>
        match acc with
        | none => chunkSum (some p) t
        | some x =>
          match x.add 1 p with
          | some y => chunkSum (some y) t
          | none => none
/-- One rounding of an accumulator code and an exact addend into a format; a NaN accumulator becomes the default NaN
(R243). -/
def accAdd (f : Fmt) (acc : Nat) (t : Option FV) : Nat × Ev :=
  match t with
  | none => (f.defNan, Ev.invalid)
  | some x =>
    let c := f.decode acc
    if c.isNan then (f.defNan, if c.isSig then Ev.invalid else Ev.none) else arith f 1 false [c, x] (c.add 1 x)
/-- The FP32 order over chunks; an absent chunk contributes 0 (R380). -/
def sum32 : Nat → Ev → List (Option (List (FV × FV))) → Nat × Ev
  | acc, e, [] => (acc, e)
  | acc, e, c :: cs =>
    let (acc, e') := accAdd b32 acc (match c with | some ps => chunkSum none ps | none => some (.fin false 0 1))
    sum32 acc (e.or e') cs
/-- The FP64 order. -/
def sum64 : Nat → Ev → List (FV × FV) → Nat × Ev
  | acc, e, [] => (acc, e)
  | acc, e, (a, b) :: ps =>
    let t := if a.isNan || b.isNan then none else a.mul b
    let (acc, e') := accAdd b64 acc t
    sum64 acc (e.or e') ps
/-- Consecutive parts of 32. -/
def by32 {α : Type} : Nat → List α → List (List α)
  | 0, _ => []
  | n + 1, l => if l.isEmpty then [] else l.take 32 :: by32 n (l.drop 32)

/-! ### Products -/

/-- What a product works on. -/
structure MProd where
  g : MxWho
  kind : MKind
  ovw : Bool
  a : Word
  b : Word
  start : Nat
  cfg : List Word
  deriving DecidableEq, Repr

/-- Fields of the convolution word (Table 14.5). -/
def MProd.conv (p : MProd) (lo n : Nat) : Nat := recBits p.cfg 6 lo n
/-- CIN. -/
def MProd.cin (p : MProd) : Nat := p.conv 16 16
/-- Whether the convolution word breaks R380. -/
def MProd.convBad (p : MProd) : Bool :=
  let wd := p.conv 48 16
  let xs := p.conv 32 8
  let s := p.conv 8 8
  let r := p.conv 0 8
  let mx := isMx (mcfgA p.cfg)
  wd == 0 || decide (4096 < wd) || decide (15 < p.conv 40 8) || xs == 0 || decide (16 < xs) || p.cin == 0
    || decide (4096 < p.cin) || s == 0 || decide (16 < s) || r == 0 || decide (16 < r)
    || mcfgK p.cfg != r * s * p.cin
    || (mx && (p.cin % 32 != 0 || 2 * mcfgAStride p.cfg % (32 * mxHalves (mcfgA p.cfg)) != 0))
/-- Of column `k` of A's row `m` in the window: its row and its element number, or none in the padding (R380). -/
def MProd.window (p : MProd) (m k : Nat) : Option (Nat × Nat) :=
  let s := p.conv 8 8
  let pos := k / p.cin
  let x : Int := (m * p.conv 32 8 + pos % s : Nat) - (p.conv 40 8 : Nat)
  if 0 ≤ x ∧ x < p.conv 48 16 then some (pos / s, x.toNat * p.cin + k % p.cin) else none
/-- Blocks of a row. -/
def MProd.blocks (p : MProd) : Nat := (mcfgK p.cfg + 31) / 32
/-- Element k of A's row `m` (`row` is the row in memory that MMAX chose): none in the padding. -/
def MProd.aElem (p : MProd) (m row k : Nat) : A (Option Nat) := do
  let tag := mcfgA p.cfg
  match p.kind with
  | .mconv =>
    match p.window m k with
    | none => return none
    | some (r, e) => return some (← p.g.elem tag (p.a + BitVec.ofNat 64 (r * mcfgAStride p.cfg)) e)
  | _ => return some (← p.g.elem tag (p.a + BitVec.ofNat 64 (row * mcfgAStride p.cfg)) k)
/-- Scale of block `j` of A's row: 0 where it is not read. -/
def MProd.aScale (p : MProd) (m row j : Nat) : A Nat := do
  let tag := mcfgA p.cfg
  if !isMx tag then return 0
  let sc := p.a + mcfgOff p.cfg 0
  match p.kind with
  | .mconv =>
    match p.window m (32 * j) with
    | none => return 0
    | some (r, e) =>
      let h := mxHalves tag
      p.g.read (sc + BitVec.ofNat 64 ((2 * r * mcfgAStride p.cfg + e * h) / (32 * h))) 1
  | _ => p.g.read (sc + BitVec.ofNat 64 (row * p.blocks + j)) 1
/-- A row of A: its codes and its scales. -/
def MProd.aRow (p : MProd) (m row : Nat) : A (List (Option Nat) × List Nat) := do
  let es ← collect (p.aElem m row) 0 (mcfgK p.cfg)
  let ss ← collect (p.aScale m row) 0 p.blocks
  return (es, ss)
/-- A column of B: its codes and its scales. -/
def MProd.bCol (p : MProd) (n : Nat) : A (List Nat × List Nat) := do
  let tag := mcfgB p.cfg
  let es ← collect (fun k => p.g.elem tag (p.b + BitVec.ofNat 64 (k * mcfgBStride p.cfg)) n) 0 (mcfgK p.cfg)
  let ss ← (if isMx tag then
      collect (fun j => p.g.read (p.b + mcfgOff p.cfg 32 + BitVec.ofNat 64 (n * p.blocks + j)) 1) 0 p.blocks
    else pure [])
  return (es, ss)
/-- Exact values of codes with their block scales; a padded element is 0. -/
def mxValues (tag : Nat) (es : List (Option Nat)) (ss : List Nat) : List FV :=
  es.zipIdx.map fun (e, k) =>
    match e with
    | some c => codeValue tag (mxWidth tag) (ss.getD (k / 32) 0) c
    | none => .fin false 0 1
/-- Rows of an index list (R379). -/
def MProd.rows (p : MProd) (p0 n : Nat) : A (List Nat) :=
  match p.kind with
  | .mmax => collect (fun m => p.g.read (p.cfg.getD 6 0 + BitVec.ofNat 64 (4 * m)) 4) p0 n
  | _ => return (List.range n).map (p0 + ·)
/-- Whether some block of an MXINT8 operand holds 0x80. -/
def holds80 (tag : Nat) (es : List (Option Nat)) : Bool := tag == 0x0D && es.any fun e => e == some 0x80
/-- The dot product of a row and a column on an accumulator. -/
def MProd.dot (p : MProd) (acc : Nat) (row : List (Option Nat) × List Nat) (col : List FV) : Nat × Ev :=
  let tag := mcfgA p.cfg
  let ps := (mxValues tag row.1 row.2).zip col
  if mcfgAcc p.cfg then sum64 acc Ev.none ps
  else
    let pads := (by32 ps.length row.1).map fun c => isMx tag && c.all Option.isNone
    sum32 acc Ev.none (((by32 ps.length ps).zip pads).map fun (c, pad) => if pad then none else some c)
/-- New rows of a panel from the old: `old m n` is the accumulator. -/
def MProd.compute (p : MProd) (rows : List (List (Option Nat) × List Nat)) (cols : List (List FV))
    (old : List (List Nat)) : List (List Nat) × Ev :=
  rows.zipIdx.foldr (fun (row, i) (acc : List (List Nat) × Ev) =>
    let r := cols.zipIdx.map fun (col, j) => p.dot ((old.getD i []).getD j 0) row col
    (r.map Prod.fst :: acc.1, (r.foldl (fun (e : Ev) x => e.or x.2) Ev.none).or acc.2)) ([], Ev.none)
/-- Address of element (m, n) of C in memory. -/
def MProd.cAddr (p : MProd) (m n : Nat) : Word :=
  p.cfg.getD 3 0 + BitVec.ofNat 64 (m * mcfgCStride p.cfg + n * (if mcfgAcc p.cfg then 8 else 4))
/-- Reads what a panel of `n` rows from `p0` needs, C apart: the operands are read, and MXINT8 blocks searched after
`more` has made the remaining checks (R378). -/
def MProd.operands (p : MProd) (p0 n : Nat) (more : A Unit) : A (List (List (Option Nat) × List Nat) × List (List FV)) := do
  let idx ← p.rows p0 n
  let rows ← collect (fun i => p.aRow (p0 + i) (idx.getD i 0)) 0 n
  let cols ← collect p.bCol 0 (mcfgN p.cfg)
  more
  if rows.any (fun r => holds80 (mcfgA p.cfg) r.1) || cols.any (fun c => holds80 (mcfgB p.cfg) (c.1.map some)) then
    failA .matrix 2 0
  return (rows, cols.map fun c => mxValues (mcfgB p.cfg) (c.1.map some) c.2)
/-- A panel in the memory form. -/
def MProd.memPanel (p : MProd) (p0 n : Nat) : A Ev := do
  let e := if mcfgAcc p.cfg then 8 else 4
  let nn := mcfgN p.cfg
  let (rows, cols) ← p.operands p0 n (do
    let _ ← collect (fun i => collect (fun j => p.g.check (p.cAddr (p0 + i) j) e) 0 nn) 0 n)
  let old ← (if p.ovw then pure [] else collect (fun i => collect (fun j => p.g.read (p.cAddr (p0 + i) j) e) 0 nn) 0 n)
  let (new, ev) := p.compute rows cols old
  let _ ← collect (fun i => collect (fun j => p.g.write (p.cAddr (p0 + i) j) ((new.getD i []).getD j 0) e) 0 nn) 0 n
  return ev
/-- A panel in the tile form, which holds the whole of C. -/
def MProd.tilePanel (p : MProd) (cl tl p0 n : Nat) : A Ev := do
  let (rows, cols) ← p.operands p0 n (pure ())
  let t := ((← get).mx cl).tile tl
  let old := if p.ovw then [] else
    (List.range n).map fun i => (List.range (mcfgN p.cfg)).map fun j => (t.get (p0 + i) j).toNat
  let (new, ev) := p.compute rows cols old
  modify fun s => s.modMx cl fun x => x.setTile tl ((t.setFormat (mcfgAcc p.cfg)).putRows p0 new)
  return ev
/-- What runs a product tells its holder: the row it has come to, and the events raised. -/
structure MTell where
  row : Nat → State → State
  ev : Ev → State → State
/-- Panels from row `p0` on (R378). -/
def MProd.panels (p : MProd) (tell : MTell) (panel : Nat → Nat → A Ev) : Nat → Nat → A Unit
  | 0, _ => return ()
  | fuel + 1, p0 => do
    let m := mcfgM p.cfg
    if m ≤ p0 then return ()
    let n := Nat.min (mcfgP p.cfg) (m - p0)
    let ev ← panel p0 n
    modify (tell.ev ev)
    modify (tell.row (p0 + n))
    p.panels tell panel fuel (p0 + n)
/-- ProductCommand (R378): refusals stop with the start row. `tile` is the tile of the tile form. -/
def MProd.run (p : MProd) (tell : MTell) (cl : Nat) (tile : Option Nat) : A Unit := do
  let m := mcfgM p.cfg
  let n := mcfgN p.cfg
  if m = 0 || n = 0 then return ()
  let ph := mcfgP p.cfg
  modify (tell.row p.start)
  if p.kind = .mconv && p.convBad then failA .matrix 1 0
  let x := (← get).mx cl
  match tile with
  | some t =>
    if ph < m || ph < n || (!p.ovw && (x.tile t).f64 != mcfgAcc p.cfg) then failA .matrix 4 0
  | none => pure ()
  if p.start % ph ≠ 0 || m < p.start then failA .matrix 4 0
  p.panels tell (match tile with | some t => p.tilePanel cl t | none => p.memPanel) (m / ph + 1) p.start

end Sys2Proof.Machine
end

