-- ==== Sys2Proof/Machine/MatrixRun.lean ====
section
/-!
DEFINITION. Matrix engine: what each command does (14 R384 to R389), running and completing a command (14 R372, R381,
R382).
-/
namespace Sys2Proof.Machine

/-! ### Tile commands -/

/-- Address of element (i, j) of a region in memory (R384). -/
def regionAddr (b c : Word) (e i j : Nat) : Word := b + BitVec.ofNat 64 i * c + BitVec.ofNat 64 (j * e)
/-- MLDA. -/
def mxLoad (g : MxWho) (cl : Nat) (f64 : Bool) (t rows cols : Nat) (b c : Word) : A Unit := do
  let e := if f64 then 8 else 4
  if f64 && (47 < rows || 47 < cols) then failA .matrix 4 0
  let vs ← collect (fun i => collect (fun j => g.read (regionAddr b c e i j) e) 0 (cols + 1)) 0 (rows + 1)
  modify fun s => s.modMx cl fun x => x.setTile t (((x.tile t).setFormat f64).putRows 0 vs)
/-- MSTA. -/
def mxStore (g : MxWho) (cl t rows cols : Nat) (b c : Word) : A Unit := do
  let x := ((← get).mx cl).tile t
  let e := x.bytes
  if x.f64 && (47 < rows || 47 < cols) then failA .matrix 4 0
  let _ ← collect (fun i => collect (fun j => g.check (regionAddr b c e i j) e) 0 (cols + 1)) 0 (rows + 1)
  let _ ← collect (fun i => collect (fun j => g.write (regionAddr b c e i j) (x.get i j).toNat e) 0 (cols + 1)) 0 (rows + 1)
/-- MZERO. -/
def Matrix.zero (x : Matrix) (mask : BitVec 8) : Matrix :=
  { x with tiles := x.tiles.filter fun p => !mask.getLsbD p.1 }
/-- The transpose of a tile. -/
def MTile.transpose (t : MTile) : MTile :=
  (t.cells.filter fun p => decide (p.1 < 9216)).foldl (fun (r : MTile) p => r.put (p.1 % 96) (p.1 / 96) p.2) ⟨t.f64, []⟩
/-- Greatest magnitude code of a region (R386). -/
def MTile.amax (t : MTile) (rows cols : Nat) : Nat :=
  let mask := if t.f64 then 2 ^ 63 else 2 ^ 31
  (List.range (rows + 1)).foldl (fun m i => (List.range (cols + 1)).foldl (fun m j => Nat.max m ((t.get i j).toNat % mask)) m) 0
/-- MAMAX: one read-modify-write of the word, made by a peer or the host itself (R31, R386). -/
def mxAmax (g : MxWho) (cl t rows cols : Nat) (va : Word) : A Unit := do
  let x := ((← get).mx cl).tile t
  let n := x.bytes
  if x.f64 && (47 < rows || 47 < cols) then failA .matrix 4 0
  let m := x.amax rows cols
  if va.toNat % n ≠ 0 then failA .align 0 va
  let (pl, _) ← Machine.check g.w .wr va
  let remote : A Unit := do
    let a ← ask g.w pl n (.rmw .maxu (BitVec.ofNat 64 m)) va
    let s ← get
    let ((_, bad), s) := s.answered g.w pl n a
    set s
    if bad then failA .uncorrectable 0 (BitVec.ofNat 64 (pl.pa / 64 * 64))
  match pl with
  | .peer .. => remote
  | .host addr => do
    hostReady g.w addr va
    remote
  | _ =>
    let (bs, bad) ← readPlace g.w pl n va
    match bad with
    | some pa => failA .uncorrectable 0 (BitVec.ofNat 64 pa)
    | none => writePlace g.w pl (leBytes (RmwOp.maxu.apply n (leNat bs) m) n) va

/-! ### MQUANT (R257, R259, R388) -/

/-- Codes and scale of a block of FP32 codes, with events. -/
def mxQuantBlock (tag : Nat) (cs : List Nat) : List Nat × Nat × RowEv :=
  let vs := cs.map b32.decode
  match mxScale tag vs with
  | none => (cs.map fun _ => 0, 0xFF, 1)
  | some x =>
    if vs.all (fun v => v.cmp (.fin false 0 1) == 0) then (cs.map fun _ => 0, 0, 0)
    else
    let rs := vs.map (mxRound tag x)
    (rs.map Prod.fst, x, rs.foldl (fun e r => e ||| r.2) 0)
/-- MQUANT. -/
def mxQuant (g : MxWho) (cl : Nat) (fp8 : Bool) (t rows cols : Nat) (b c : Word) : A Unit := do
  let x := ((← get).mx cl).tile t
  if x.f64 then failA .matrix 4 0
  let nb := (cols + 1) / 32
  let code (i j : Nat) : Word := b + BitVec.ofNat 64 (i * (cols + 1) + j)
  let scale (i j : Nat) : Word := c + BitVec.ofNat 64 (i * nb + j)
  let _ ← collect (fun i => do
    let _ ← collect (fun j => g.check (code i j) 1) 0 (cols + 1)
    collect (fun j => g.check (scale i j) 1) 0 nb) 0 (rows + 1)
  let _ ← collect (fun i => collect (fun j => do
    let (cs, sc, ev) := mxQuantBlock (if fp8 then 0x0E else 0x0D) ((List.range 32).map fun k => (x.get i (32 * j + k)).toNat)
    let _ ← collect (fun k => g.write (code i (32 * j + k)) (cs.getD k 0) 1) 0 32
    g.write (scale i j) sc 1
    modify fun s => s.modMx cl fun y => { y with ev := y.ev ||| ev }) 0 nb) 0 (rows + 1)

/-! ### MSOFT (R389) -/

/-- Softmax of a row from its columns and which are kept: new columns, log-sum-exp, whether the row is empty, events. -/
def softRow (cs : List Nat) (keep : List Bool) : List Nat × Nat × Bool × Ev :=
  let v := cs.map b32.decode
  let inV := (v.zip keep).map fun (x, k) => k && x != .inf true
  let vals := (v.zip inV).filterMap fun (x, k) => if k then some x else none
  if vals.isEmpty then (cs.map fun _ => 0, 0xFF800000, true, Ev.none)
  else if vals.any FV.isNan then (cs.map fun _ => b32.defNan, b32.defNan, false, Ev.invalid)
  else if vals.any (· == .inf false) then
    let n := (vals.filter (· == .inf false)).length
    let (c, e) := b32.round 1 false false 1 n
    ((v.zip inV).map fun (x, k) => if k && x == .inf false then c else 0, 0x7F800000, false, e)
  else
    let mx := vals.foldl (fun (m : FV) x => if m.cmp x < 0 then x else m) (vals.headD (.inf true))
    match mx with
    | .fin mn a b =>
      let es := (v.zip inV).map fun (x, k) =>
        match k, x with
        | true, .fin n p q =>
          match addFin 1 mn a b (!n) p q with
          | .fin _ y z => some (expRound y z)
          | _ => none
        | _, _ => none
      let e1 := es.foldl (fun (e : Ev) r => match r with | some (_, f) => e.or f | none => e) Ev.none
      let sum := es.foldl (fun (s : FV) r =>
        match r, s with
        | some (c, _), .fin n p q => match b32.decode c with | .fin _ y z => addFin 1 n p q false y z | _ => s
        | _, _ => s) (.fin false 0 1)
      match sum with
      | .fin _ sn sd =>
        let cols := es.map fun r =>
          match r with
          | some (c, _) => match b32.decode c with | .fin _ y z => b32.round 1 false false (y * sd) (z * sn) | _ => (0, Ev.none)
          | none => (0, Ev.none)
        let (l, e2) := addLnRound mn a b sn sd
        (cols.map Prod.fst, l, false, (cols.foldl (fun (e : Ev) x => e.or x.2) e1).or e2)
      | _ => (cs, 0, false, Ev.none)
    | _ => (cs, 0, false, Ev.none)
/-- MSOFT: every address is checked before the first write. -/
def mxSoft (g : MxWho) (cl t rows cols : Nat) (b c : Word) : A Unit := do
  let x := ((← get).mx cl).tile t
  if x.f64 then failA .matrix 4 0
  let masks ← collect (fun i => g.read (b + BitVec.ofNat 64 (16 * i)) 16) 0 (rows + 1)
  let _ ← g.check c 16
  let _ ← collect (fun i => g.check (c + BitVec.ofNat 64 (4 * i)) 4) 0 (rows + 1)
  let _ ← g.check (c + 384) 16
  let rs := (List.range (rows + 1)).map fun i =>
    softRow ((List.range (cols + 1)).map fun j => (x.get i j).toNat)
      ((List.range (cols + 1)).map fun j => (masks.getD i 0).testBit j)
  let _ ← collect (fun i => g.write (c + BitVec.ofNat 64 (4 * i)) ((rs.getD i ([], 0, false, Ev.none)).2.1) 4) 0 (rows + 1)
  g.write (c + 384) (rs.zipIdx.foldl (fun m (r, i) => if r.2.2.1 then m + 2 ^ i else m) 0) 16
  let ev := rs.foldl (fun (e : Ev) r => e.or r.2.2.2) Ev.none
  modify fun s => s.modMx cl fun y =>
    { y.setTile t (x.putRows 0 (rs.map Prod.fst)) with ev := y.ev ||| ev.row }

/-! ### Running a command (R372, R381, R382) -/

/-- The engine of a cluster at work for a context, on its own die (R24). -/
def mxWho (cl ctx : Nat) (sup task : Bool) : MxWho := ⟨⟨some ctx, cl / 16, cl, sup, true, 3, .matrix cl, false, .alloc⟩, task⟩
/-- The work of a command. -/
def mxCommand (cl : Nat) (c : MCmd) (cfg : List Word) : A Unit := do
  let g := mxWho cl c.ctx c.sup false
  let put (f : Matrix → Matrix) : A Unit := modify fun s => s.modMx cl f
  match c.op with
  | .cfg r => put fun x => { x with cfg := r }
  | .prod kind ovw mem tile =>
    let tell : MTell :=
      { row := fun r s => s.modMx cl fun x => x.modHead fun (y : MCmd) => { y with row := r }
        ev := fun e s => s.modMx cl fun x => { x with ev := x.ev ||| e.row } }
    MProd.run ⟨g, kind, ovw, c.a1, c.a2, c.start, cfg⟩ tell cl (if mem then none else some tile)
  | .lda f64 t rows cols => mxLoad g cl f64 t rows cols c.a1 c.a2
  | .sta t rows cols => mxStore g cl t rows cols c.a1 c.a2
  | .zero mask => put fun x => x.zero mask
  | .trans d src => put fun x => x.setTile d (x.tile src).transpose
  | .amax t rows cols => mxAmax g cl t rows cols c.a1
  | .quant f t rows cols => mxQuant g cl f t rows cols c.a1 c.a2
  | .soft t rows cols => mxSoft g cl t rows cols c.a1 c.a2
/-- The task that runs on a cluster's engine. -/
def State.taskOn (s : State) (cl : Nat) : Option MTask :=
  (s.die (cl / 16)).tasks.find? fun t => t.on == some cl && t.ended.isNone
/-- Changes the tasks a die tracks. -/
def State.modTasks (s : State) (d : Nat) (f : MTask → MTask) : State :=
  s.setDie d { s.die d with tasks := (s.die d).tasks.map f }
/-- The work of a task: its record's configuration is read first (R393, R394). -/
def mxTask (cl : Nat) (t : MTask) (tell : MTell) : A Unit := do
  let g := mxWho cl t.ctx t.sup true
  let e : Eng := ⟨g.w, []⟩
  let kind := recBits t.record 0 0 8
  let at_ := t.record.getD 1 0
  if at_.toNat % 64 ≠ 0 then failA .align 0 at_
  let bs ← e.read at_ 64
  let cfg := (List.range 8).map fun i => BitVec.ofNat 64 (leNat ((bs.drop (8 * i)).take 8))
  if mcfgBad cfg then failA .matrix 1 at_
  MProd.run ⟨g, if kind = 0x91 then .mma else if kind = 0x92 then .mmax else .mconv, recBits t.record 0 8 1 == 1,
    t.record.getD 2 0, t.record.getD 3 0, recBits t.record 0 32 13, cfg⟩ tell cl none
/-- Runs the engine's task to its end: what it has done so far stands in `ended`. -/
def runTask (cl : Nat) (t : MTask) (s : State) : State :=
  let upd (f : MEnd → MEnd) (s : State) : State :=
    s.modTasks (cl / 16) fun (u : MTask) =>
      if u.on == some cl && !u.written then { u with ended := some (f (u.ended.getD ⟨0, 0, none⟩)) } else u
  let tell : MTell :=
    { row := fun r => upd fun (x : MEnd) => { x with row := r }
      ev := fun e => upd fun (x : MEnd) => { x with ev := x.ev ||| e.row } }
  match mxTask cl t tell s with
  | .ok _ s => wake (dropAnswers (.matrix cl) (upd (fun (x : MEnd) => { x with row := 0 }) s))
  | .error (.fault c sub v) s =>
    wake (dropAnswers (.matrix cl) (upd (fun (x : MEnd) => { x with fail := some (c, sub, v) }) s))
  | .error (.hold _) s => s.modTasks (cl / 16) fun (u : MTask) => if u.on == some cl && !u.written then { u with ended := none } else u
/-- One run of the engine: its task, or else the command at the head of its queue (R372, R394). -/
def matrixRun (cl : Nat) (s : State) : State :=
  match s.taskOn cl with
  | some t => runTask cl t s
  | none =>
    if (s.die (cl / 16)).tasks.any (fun t => t.on == some cl && !t.written) then s
    else
      match (s.mx cl).queue with
      | [] => s
      | c :: _ =>
        if c.finished || c.stop.isSome then s
        else
          let clear (s : State) : State := wake (dropAnswers (.matrix cl) s)
          match mxCommand cl c (s.mx cl).cfg s with
          | .ok _ s => clear (s.modMx cl fun x => x.modHead fun (y : MCmd) => { y with finished := true })
          | .error (.fault k sub v) s =>
            clear (s.modMx cl fun x => x.modHead fun (y : MCmd) => { y with stop := some (k, sub, v), told := false })
          | .error (.hold _) s => s
/-- A command that has done its work completes (R372). -/
def matrixComplete (cl : Nat) (s : State) : State :=
  let x := s.mx cl
  match x.queue with
  | c :: q => if c.finished then (wake (s.setMx cl { x with queue := q, done := x.done + 1 })).prune else s
  | [] => s
/-- MATRIX_COMMAND_RUN (R378). -/
def execMatrixCommandRun (cl : BitVec 7) (s : State) : Out := .next (tick 1 (matrixRun cl.toNat s))
/-- MATRIX_COMMAND_COMPLETE (R372). -/
def execMatrixCommandComplete (cl : BitVec 7) (s : State) : Out := .next (tick 1 (matrixComplete cl.toNat s))

end Sys2Proof.Machine
end

