-- ==== Sys2Proof/Machine/MatrixIssue.lean ====
section
/-!
DEFINITION. Matrix engine: issue of commands (14 R370 to R389), MWAIT and MSTAT (14 R382, R383, R390, R391), MSAVE and
MREST (14 R396).
-/
namespace Sys2Proof.Machine

/-- ESTART and FFIDX are read when every associative instruction issued has retired, or one has faulted (R147). -/
def estartSettled : M Unit := do
  let st ← getHere
  if !st.queue.isEmpty && st.astop.isNone then waitM

/-- A stopped command is delivered to its context: at an MWAIT for a number at or after it (R390), and at a command issued to
the engine where it has not been delivered before (R382); ESTART receives the stop row. -/
def deliverMatrix (cl : Nat) (upTo : Option (BitVec 32)) : M Unit := do
  let s ← get
  match (s.mx cl).queue with
  | c :: _ =>
    match c.stop with
    | some (k, sub, v) =>
      if c.ctx == s.here.ctx && (match upTo with | none => !c.told | some d => notAfter c.num d) then
        modify fun s => s.modMx cl fun x => x.modHead fun (y : MCmd) => { y with told := true }
        modHere fun st => { st with estart := BitVec.ofNat 19 c.row }
        trapC k sub v
    | none => return ()
  | [] => return ()
/-- An engine that accepts a command of a context other than the last starts clean (R370). -/
def Matrix.bind (x : Matrix) (ctx : Nat) : Matrix :=
  if x.bound == some ctx then x
  else { x.unbind with bound := some ctx }
/-- A command enters the engine's queue and its number goes to `a` (R370 to R373). -/
def macceptAt (op : MOp) (a : BitVec 6) (a1 a2 : Word) (start : Nat) : M Unit := do
  let s ← get
  let cl := clusterOf s.cur
  let ctx := s.here.ctx
  let x := s.mx cl
  if x.queue.any (fun c => c.ctx != ctx) || 16 ≤ x.queue.length then waitM
  releaseWait
  let s ← get
  let x := x.bind ctx
  let c : MCmd := ⟨op, x.next, s.here.itemId, ctx, s.here.sup, a1, a2, start, 0, false, none, false⟩
  set (s.setMx cl { x with next := x.next + 1, queue := x.queue ++ [c] })
  writeVal a (x.next.setWidth 64)
/-- A command with operands in b and c. -/
def missue (h : Hdr) (op : MOp) (a b c : BitVec 6) (s : State) : Out :=
  runU user h (do
    let (vb, vc) ← read2 b c [a]
    deliverMatrix (clusterOf s.cur) none
    macceptAt op a vb vc 0) s
/-- A product: `.from` reads ESTART at issue (R378). -/
def mproduct (h : Hdr) (kind : MKind) (a b c : BitVec 6) (frm mem ovw : BitVec 1) (tl : BitVec 3) (s : State) : Out :=
  runU user h (do
    let (vb, vc) ← read2 b c [a]
    deliverMatrix (clusterOf s.cur) none
    if frm = 1 then estartSettled
    let st ← getHere
    let start := if frm = 1 then st.estart.toNat else 0
    macceptAt (.prod kind (ovw == 1) (mem == 1) tl.toNat) a vb vc start) s

/-- MCFG (R375). -/
def execMcfg (h : Hdr) (a b : BitVec 6) (s : State) : Out :=
  runU user h (do
    let vb ← read1 b [a]
    deliverMatrix (clusterOf s.cur) none
    let r ← readRecord vb
    if mcfgBad r then trapC Cause.matrix.code 1 vb
    macceptAt (.cfg r) a vb 0 0) s
/-- MMA (R378). -/
def execMma (h : Hdr) (a b c : BitVec 6) (frm mem ovw : BitVec 1) (tl : BitVec 3) (s : State) : Out :=
  mproduct h .mma a b c frm mem ovw tl s
/-- MMAX (R379). -/
def execMmax (h : Hdr) (a b c : BitVec 6) (frm mem ovw : BitVec 1) (tl : BitVec 3) (s : State) : Out :=
  mproduct h .mmax a b c frm mem ovw tl s
/-- MCONV (R380). -/
def execMconv (h : Hdr) (a b c : BitVec 6) (frm mem ovw : BitVec 1) (tl : BitVec 3) (s : State) : Out :=
  mproduct h .mconv a b c frm mem ovw tl s
/-- MLDA (R384). -/
def execMlda (h : Hdr) (a b c : BitVec 6) (f64 : BitVec 1) (cols rows : BitVec 7) (tl : BitVec 3) (s : State) : Out :=
  missue h (.lda (f64 == 1) tl.toNat rows.toNat cols.toNat) a b c s
/-- MSTA (R384). -/
def execMsta (h : Hdr) (a b c : BitVec 6) (cols rows : BitVec 7) (tl : BitVec 3) (s : State) : Out :=
  missue h (.sta tl.toNat rows.toNat cols.toNat) a b c s
/-- MZERO (R385). -/
def execMzero (h : Hdr) (a : BitVec 6) (mask : BitVec 8) (s : State) : Out := missue h (.zero mask) a 0 0 s
/-- MTRANS (R385). -/
def execMtrans (h : Hdr) (a : BitVec 6) (ts td : BitVec 3) (s : State) : Out :=
  missue h (.trans td.toNat ts.toNat) a 0 0 s
/-- MAMAX (R386). -/
def execMamax (h : Hdr) (a b : BitVec 6) (cols rows : BitVec 7) (tl : BitVec 3) (s : State) : Out :=
  missue h (.amax tl.toNat rows.toNat cols.toNat) a b 0 s
/-- MQUANT (R388). -/
def execMquant (h : Hdr) (a b c : BitVec 6) (e4m3 : BitVec 1) (cols rows : BitVec 7) (tl : BitVec 3) (s : State) : Out :=
  missue h (.quant (e4m3 == 1) tl.toNat rows.toNat cols.toNat) a b c s
/-- MSOFT (R389). -/
def execMsoft (h : Hdr) (a b c : BitVec 6) (cols rows : BitVec 7) (tl : BitVec 3) (s : State) : Out :=
  missue h (.soft tl.toNat rows.toNat cols.toNat) a b c s

/-! ### Waiting and status -/

/-- Whether number `d` is complete (R372). -/
def Matrix.complete (x : Matrix) (d : BitVec 32) : Bool := (x.done - 1 - d).toNat < 2 ^ 31
/-- MWAIT (R390). -/
def execMwait (h : Hdr) (a b : BitVec 6) (s : State) : Out :=
  runU user h (do
    let v ← read1 b [a]
    let cl := clusterOf s.cur
    let x := (← get).mx cl
    let d := if notAfter (v.setWidth 32) (x.next - 1) then v.setWidth 32 else x.next - 1
    deliverMatrix cl (some d)
    if !x.complete d then waitM
    writeVal a (x.done.setWidth 64)) s
/-- The stop of an engine. -/
def Matrix.stopped (x : Matrix) : Option (MCmd × BitVec 8 × BitVec 8 × Word) :=
  match x.queue with
  | c :: _ => c.stop.map fun t => (c, t)
  | [] => none
/-- A status function of the engine (R391). -/
def mstat (h : Hdr) (a b : BitVec 6) (f : Matrix → Word) (s : State) : Out :=
  runU user h (do
    let _ ← read1 b [a]
    writeVal a (f ((← get).mx (clusterOf s.cur)))) s
/-- MSTAT.done (R391). -/
def execMstatDone (h : Hdr) (a b : BitVec 6) (s : State) : Out := mstat h a b (fun x => x.done.setWidth 64) s
/-- MSTAT.next (R391). -/
def execMstatNext (h : Hdr) (a b : BitVec 6) (s : State) : Out := mstat h a b (fun x => x.next.setWidth 64) s
/-- MSTAT.fault (R391). -/
def execMstatFault (h : Hdr) (a b : BitVec 6) (s : State) : Out :=
  mstat h a b (fun x => match x.stopped with
    | some (c, k, sub, _) => (c.num.setWidth 64 <<< 32) ||| (sub.setWidth 64 <<< 8) ||| k.setWidth 64
    | none => 0) s
/-- MSTAT.faddr (R391). -/
def execMstatFaddr (h : Hdr) (a b : BitVec 6) (s : State) : Out :=
  mstat h a b (fun x => match x.stopped with | some (_, _, _, v) => v | none => 0) s
/-- MSTAT.row (R391). -/
def execMstatRow (h : Hdr) (a b : BitVec 6) (s : State) : Out :=
  mstat h a b (fun x => match x.stopped with | some (c, _) => BitVec.ofNat 64 c.row | none => 0) s
/-- A function that acts on a stopped command: another context's raises PRIV in user mode (R383, R391). -/
def msteer (h : Hdr) (a b : BitVec 6) (act : Matrix → M (Word × Matrix)) (s : State) : Out :=
  runU user h (do
    let _ ← read1 b [a]
    let cl := clusterOf s.cur
    let x := (← get).mx cl
    match x.stopped with
    | none => writeVal a 0
    | some (c, _) =>
      if c.ctx != (← getHere).ctx && !(← getHere).sup then trapI .priv 0 0
      let (v, x) ← act x
      modify fun s => (s.setMx cl x).prune
      writeVal a v) s
/-- MSTAT.resume: the command restarts at ESTART (R383). -/
def execMstatResume (h : Hdr) (a b : BitVec 6) (s : State) : Out :=
  msteer h a b (fun x => do
    estartSettled
    let start := (← getHere).estart.toNat
    return (1, x.modHead fun (c : MCmd) => { c with start := start, stop := none, told := false })) s
/-- MSTAT.abort (R383). -/
def execMstatAbort (h : Hdr) (a b : BitVec 6) (s : State) : Out :=
  msteer h a b (fun x => return (BitVec.ofNat 64 x.queue.length, { x with queue := [], done := x.next })) s
/-- Whether the engine of cluster `cl` shows its events and formats to context `ctx`: it was not last bound to another, and
no task of another, which binds it while it runs, is on it (R370, R391). -/
def State.engineMine (s : State) (cl ctx : Nat) : Bool :=
  ((s.mx cl).bound.isNone || (s.mx cl).bound == some ctx)
    && !(s.die (cl / 16)).tasks.any fun t => t.on == some cl && !t.written && t.ctx != ctx
/-- MSTAT.ev: the event word is then cleared (R391). -/
def execMstatEv (h : Hdr) (a b : BitVec 6) (s : State) : Out :=
  runU user h (do
    let _ ← read1 b [a]
    let cl := clusterOf s.cur
    let x := (← get).mx cl
    if (← get).engineMine cl s.here.ctx then
      modify fun s => s.setMx cl { x with ev := 0 }
      writeVal a (x.ev.setWidth 64)
    else writeVal a 0) s
/-- MSTAT.fmt (R391). -/
def execMstatFmt (h : Hdr) (a b : BitVec 6) (s : State) : Out :=
  mstat h a b (fun x => if s.engineMine (clusterOf s.cur) s.here.ctx then
    BitVec.ofNat 64 ((List.range 8).foldl (fun m k => if (x.tile k).f64 then m + 2 ^ k else m) 0) else 0) s

/-! ### Saving and restoring (R396) -/

/-- Size of an engine image. -/
def imageSize : Nat := 296064
/-- Bytes of a tile in an image. -/
def MTile.image (t : MTile) : List Byte :=
  let n := if t.f64 then 48 else 96
  let body := (List.range n).flatMap fun i => (List.range n).flatMap fun j => leBytes (t.get i j).toNat t.bytes
  body ++ List.replicate (36864 - body.length) 0
/-- Bytes of the image of an engine (Table 14.10): the command records are opaque, CHECK a keyed hash. -/
def mxImageBytes (key : Word) (x : Matrix) (ctxid : Word) (opaq : List Byte) : List Byte :=
  let fmt := x.tiles.foldl (fun m p => if p.2.f64 then m + 2 ^ p.1 else m) 0
  let head := leBytes (2 ^ 48 + x.queue.length * 2 ^ 40 + fmt * 2 ^ 32 + x.ev.toNat % 32) 8
    ++ leBytes (x.next.toNat * 2 ^ 32 + x.done.toNat) 8 ++ leBytes ctxid.toNat 8
  let rest := List.replicate 32 0 ++ x.cfg.flatMap (fun w => leBytes w.toNat 8) ++ opaq
    ++ (List.range 8).flatMap fun t => (x.tile t).image
  let check := Config.keyedHash key (head ++ leBytes 0 8 ++ rest)
  head ++ leBytes check.toNat 8 ++ rest
/-- MSAVE (R396). -/
def execMsave (h : Hdr) (a b : BitVec 6) (s : State) : Out :=
  runU user h (do
    let va ← read1 b [a]
    let cl := clusterOf s.cur
    let s ← get
    let x := s.mx cl
    if !s.here.sup && x.queue.any (fun c => c.ctx != s.here.ctx) then trapI .priv 0 0
    needAlign va 64
    if (s.die (cl / 16)).tasks.any fun t => t.on == some cl && !t.written then waitM
    checkRange 7 va imageSize
    let x := { x with queue := x.queue.filter fun c => !c.finished
                      done := match x.queue.find? fun c => !c.finished with | some c => c.num | none => x.next }
    let bytes := mxImageBytes (s.mgmt.bootKey.getD 0) x (s.ctxid s.here.ctx) (freeBytes s.free 1024)
    storeRange 7 va bytes
    let image : MImage := ⟨bytes, x⟩
    modify fun s => ({ s with images := s.images ++ [image], free := s.free + 1024 }.setMx cl
      { x with queue := [], done := x.next }).prune
    writeVal a (BitVec.ofNat 64 imageSize)) s
/-- MREST (R396): the engine is bound to the context it was bound to at the save (R370). -/
def execMrest (h : Hdr) (a b : BitVec 6) (s : State) : Out :=
  runU user h (do
    let va ← read1 b [a]
    needAlign va 64
    let bytes ← loadRange 7 va imageSize
    let cl := clusterOf s.cur
    let s ← get
    match s.images.find? fun i => i.bytes == bytes with
    | none => writeVal a 1
    | some i =>
      if BitVec.ofNat 64 (leNat ((bytes.drop 16).take 8)) ≠ s.ctxid s.here.ctx then writeVal a 2
      else if !(s.mx cl).queue.isEmpty then writeVal a 3
      else
        set (s.setMx cl { i.mx with bound := i.mx.bound.or (some s.here.ctx) })
        writeVal a 0) s

end Sys2Proof.Machine
end

