-- ==== Sys2Proof/Machine/MatrixTask.lean ====
section
/-!
DEFINITION. The matrix task queue: MQUE and MWAIT.task, and a die's scheduler (14 R392 to R395).
-/
namespace Sys2Proof.Machine

/-! ### Memory of a queue -/

/-- The scheduler as an agent of a task: ordinary memory is reached as the task's engine reaches it. -/
def MTask.eng (d : Nat) (t : MTask) : Eng :=
  let cl := t.on.getD (d * 16)
  ⟨⟨some t.ctx, d, cl, t.sup, true, 3, .matrix cl, false, .alloc⟩, []⟩
/-- Address of the slot of an ordinal (R392). -/
def MTask.slot (t : MTask) (ord : Nat) : Word := t.base + BitVec.ofNat 64 (ord % t.cap * 64)
/-- HEAD of the task's queue. -/
def MTask.head (d : Nat) (t : MTask) : A Nat := (t.eng d).readNat (t.hdr + 16) 8
/-- STATUS of an ordinal's slot. -/
def MTask.status (d : Nat) (t : MTask) (ord : Nat) : A Word := do
  return BitVec.ofNat 64 (← (t.eng d).readNat (t.slot ord + 48) 8)
/-- STATUS of a task that has ended (Table 14.9). -/
def MEnd.word (x : MEnd) : Word :=
  let low : Word := BitVec.ofNat 64 (x.row % 8192 * 2 ^ 32 + x.ev.toNat % 32 * 2 ^ 16)
  match x.fail with
  | some (c, sub, _) => 0xC000000000000000 ||| low ||| (sub.setWidth 64 <<< 8) ||| c.setWidth 64
  | none => 0x8000000000000000 ||| low
/-- DONE. -/
def taskDone (w : Word) : Bool := w.getLsbD 63
/-- FAIL. -/
def taskFail (w : Word) : Bool := w.getLsbD 62

/-! ### HEAD (R394) -/

/-- Whether an MWAIT.task has taken the failure of an ordinal of a queue. -/
def State.failureTaken (s : State) (q : Place) (ord : Nat) : Bool :=
  s.dies.any fun d => d.2.tasks.any fun t => t.q == q && t.ord == ord && t.taken
/-- Where HEAD stops: at the first task not done, or failed and not taken. -/
def headStop (d : Nat) (t : MTask) (tail : Nat) : Nat → Nat → A Nat
  | 0, h => return h
  | n + 1, h => do
    if tail ≤ h then return h
    let w ← t.status d h
    if taskDone w && (!taskFail w || (← get).failureTaken t.q h) then headStop d t tail n (h + 1) else return h
/-- Drops the tasks of a queue that HEAD has passed. -/
def State.dropPassed (s : State) (q : Place) (head : Nat) : State :=
  { s with dies := s.dies.map fun (k, d) => (k, { d with tasks := d.tasks.filter fun t => !(t.q == q && t.ord < head) }) }
/-- Advances HEAD of a task's queue. -/
def advanceHead (d : Nat) (t : MTask) : A Unit := do
  let head ← t.head d
  let tail ← (t.eng d).readNat (t.hdr + 24) 8
  let h ← headStop d t tail t.cap head
  if h ≠ head then (t.eng d).writeNat (t.hdr + 16) h 8
  modify fun s => (s.dropPassed t.q h).prune

/-! ### MQUE and MWAIT.task -/

/-- Whether a header breaks Table 14.8. -/
def taskHeaderBad (r : List Word) : Bool :=
  let cap := recBits r 1 0 17
  (r.getD 0 0).toNat % 64 != 0 || recBits r 1 17 47 != 0 || cap == 0 || decide (65536 < cap)
    || (r.drop 4).any (· != 0)
/-- Whether a record breaks Table 14.9, or names a predecessor at or above its ordinal. -/
def taskRecordBad (r : List Word) (ord : Word) : Bool :=
  let kind := recBits r 0 0 8
  let none_ : Word := 0xFFFFFFFFFFFFFFFF
  let pred (i : Nat) : Bool := r.getD i 0 != none_ && decide (ord.toNat ≤ (r.getD i 0).toNat)
  recBits r 0 45 19 != 0 || recBits r 0 9 23 != 0 || (kind != 0x91 && kind != 0x92 && kind != 0x96)
    || pred 4 || pred 5 || recBits r 6 45 17 != 0 || recBits r 6 21 11 != 0 || r.getD 7 0 != 0
/-- Queues with a task that HEAD has not passed (R392). -/
def Die.queues (d : Die) : List Place := (d.tasks.map MTask.q).eraseDups
/-- The place of a header. -/
def headerPlace (va : Word) : M Place := do
  let w ← whoHere
  return (← liftA (check w .wr va)).1
/-- MQUE (R394). -/
def execMque (h : Hdr) (a b c : BitVec 6) (s : State) : Out :=
  runU user h (do
    let (vb, vc) ← read2 b c [a]
    needAlign vb 64
    needAlign vc 64
    let rec_ ← readRecord vc
    let hd ← readRecord vb
    let head := hd.getD 2 0
    let tail := hd.getD 3 0
    if taskRecordBad rec_ tail then trapC Cause.matrix.code 6 vc
    if taskHeaderBad hd then trapC Cause.matrix.code 6 vb
    let cap := recBits hd 1 0 17
    if head.toNat + cap ≤ tail.toNat then waitM
    let q ← headerPlace vb
    let d := dieOf s.cur
    let die := (← get).die d
    if !die.queues.contains q && 64 ≤ die.queues.length then waitM
    releaseWait
    let slot := hd.getD 0 0 + BitVec.ofNat 64 (tail.toNat % cap * 64)
    let stored := rec_.set 6 0
    checkRange 2 slot 64
    storeBytes slot (stored.flatMap fun w => leBytes w.toNat 8) plainAnn
    storeBytes (vb + 24) (leBytes (tail.toNat + 1) 8) plainAnn
    modify fun s =>
      let t : MTask := ⟨q, vb, hd.getD 0 0, cap, tail.toNat, s.here.itemId, s.here.ctx, s.here.sup, stored, none, none, false, false⟩
      s.setDie d { s.die d with tasks := (s.die d).tasks ++ [t] }
    writeVal a tail) s
/-- MWAIT.task: a failure is delivered with ESTART := ROW and the address it met, and HEAD may then pass the task (R113,
R395). -/
def execMwaitTask (h : Hdr) (a b c : BitVec 6) (s : State) : Out :=
  runU user h (do
    let (vb, ord) ← read2 b c [a]
    let hd ← readRecord vb
    if taskHeaderBad hd then trapC Cause.matrix.code 6 vb
    let head := hd.getD 2 0
    if ord.toNat < head.toNat then writeVal a 0x8000000000000000
    else if (hd.getD 3 0).toNat ≤ ord.toNat then waitM
    else
      let slot := hd.getD 0 0 + BitVec.ofNat 64 (ord.toNat % recBits hd 1 0 17 * 64)
      let w : Word := BitVec.ofNat 64 (leNat (← loadOwn (slot + 48) 8))
      if !taskDone w then waitM
      else if taskFail w then
        let q ← headerPlace vb
        modify fun s => { s with dies := s.dies.map fun (k, d) =>
          (k, { d with tasks := d.tasks.map fun (t : MTask) =>
            if t.q == q && t.ord == ord.toNat then { t with taken := true } else t }) }
        let s ← get
        let mine := s.dies.findSome? fun d => (d.2.tasks.find? fun t => t.q == q && t.ord == ord.toNat).map fun t => (d.1, t)
        match mine with
        | some (d, t) => set (match advanceHead d t s with | .ok _ s => s | .error _ s => s)
        | none => pure ()
        modHere fun st => { st with estart := (w.extractLsb' 32 13).setWidth 19 }
        let v := (mine.bind fun p => p.2.ended).bind fun x => x.fail.map fun f => f.2.2
        trapC (w.extractLsb' 0 8) (w.extractLsb' 8 8) (v.getD 0)
      else writeVal a w) s

/-! ### The scheduler (R394) -/

/-- Whether a predecessor is met: `some false` where it has failed. -/
def predMet (d : Nat) (t : MTask) (head : Nat) (p : Word) : A (Option Bool) := do
  if p = 0xFFFFFFFFFFFFFFFF || p.toNat < head then return some true
  let w ← t.status d p.toNat
  if !taskDone w then return none
  return some (!taskFail w)
/-- Whether a task is ready, `some false` where a predecessor has failed; a queue that cannot be read leaves it waiting.
What the reads meet stays met (R468). -/
def taskReady (d : Nat) (t : MTask) (s : State) : Option Bool × State :=
  match (do
    let head ← t.head d
    let x ← predMet d t head (t.record.getD 4 0)
    let y ← predMet d t head (t.record.getD 5 0)
    return (x, y) : A (Option Bool × Option Bool)) s with
  | .ok (some false, _) s => (some false, s)
  | .ok (_, some false) s => (some false, s)
  | .ok (some true, some true) s => (some true, s)
  | .ok _ s => (none, s)
  | .error _ s => (none, s)
/-- The first of some tasks that is ready, or whose predecessor has failed. -/
def firstReady (d : Nat) (want : Bool) : List MTask → State → Option MTask × State
  | [], s => (none, s)
  | t :: ts, s =>
    match taskReady d t s with
    | (r, s) => if r == some want then (some t, s) else firstReady d want ts s
/-- Whether a cluster's engine is free. -/
def State.engineFree (s : State) (cl : Nat) : Bool :=
  (s.mx cl).queue.isEmpty && !(s.die (cl / 16)).tasks.any fun t => t.on == some cl && !t.written
/-- Changes one task of a die. -/
def State.modTask (s : State) (d : Nat) (q : Place) (ord : Nat) (f : MTask → MTask) : State :=
  s.modTasks d fun (t : MTask) => if t.q == q && t.ord == ord then f t else t
/-- Writes the STATUS of a task that has ended, and lets HEAD advance; where memory refuses, nothing changes. -/
def writeStatus (d : Nat) (t : MTask) (x : MEnd) (s : State) : State :=
  match (do
    (t.eng d).writeNat (t.slot t.ord + 48) x.word.toNat 8
    modify fun s => s.modTask d t.q t.ord fun (u : MTask) => { u with written := true, ended := some x }
    advanceHead d t : A Unit) s with
  | .ok _ s => s
  | .error (.hold _) s => s
  | .error (.fault ..) s => s
/-- Tasks that have not been issued, oldest first. -/
def Die.waiting (d : Die) : List MTask := d.tasks.filter fun t => t.on.isNone && t.ended.isNone
/-- Fails, without running them, the tasks that wait for a failed one; a failure may fail others. -/
def failDependants (d : Nat) : Nat → State → State
  | 0, s => s
  | n + 1, s =>
    match firstReady d false (s.die d).waiting s with
    | (none, s) => s
    | (some t, s) => failDependants d n (writeStatus d t ⟨0, 0, some (Cause.matrix.code, 7, 0)⟩ s)
/-- Issues the ready task of lowest ordinal in each queue's order to the free engine of the lowest cluster. -/
def taskIssue (d : Nat) (s : State) : State :=
  let s := failDependants d (s.die d).waiting.length s
  match (List.range 16).find? fun i => s.engineFree (d * 16 + i) with
  | none => s
  | some i =>
    match firstReady d true (s.die d).waiting s with
    | (none, s) => s
    | (some t, s) => wake (s.modTask d t.q t.ord fun (u : MTask) => { u with on := some (d * 16 + i) })
/-- A task that has ended writes its STATUS; its dependants fail where it has failed. -/
def taskComplete (cl : Nat) (s : State) : State :=
  let d := cl / 16
  match (s.die d).tasks.find? fun t => t.on == some cl && !t.written with
  | none => s
  | some t =>
    match t.ended with
    | none => s
    | some x => wake (failDependants d (s.die d).waiting.length (writeStatus d t x s))
/-- MATRIX_TASK_ISSUE (R394). -/
def execMatrixTaskIssue (die : BitVec 3) (s : State) : Out := .next (tick 1 (taskIssue die.toNat s))
/-- MATRIX_TASK_COMPLETE (R394). -/
def execMatrixTaskComplete (cl : BitVec 7) (s : State) : Out := .next (tick 1 (taskComplete cl.toNat s))

end Sys2Proof.Machine
end

