-- ==== Sys2Proof/Machine/LoadStore.lean ====
section
/-!
DEFINITION. Loads, stores and prefetch (05 R157 to R160), late loads and atomics (06 R204, R205), atomics (05 R161 to
R163).
-/
namespace Sys2Proof.Machine

/-- Zero or sign extension of an `n`-byte value. -/
def extend (signed : Bool) (n v : Nat) : Word :=
  if signed && 2 ^ (8 * n - 1) ≤ v then BitVec.ofInt 64 ((v : Int) - 2 ^ (8 * n)) else BitVec.ofNat 64 v
/-- A load of `size` bytes into t, sign-extended or not (R157), or held behind a late access (R93). -/
def loadReg (t base : BitVec 6) (size : BitVec 2) (index : BitVec 6) (disp : BitVec 24) (aligned : Bool) (ann : Ann)
    (signed : Bool) : M Unit := do
  let (b, i) ← read2 base index [t]
  let n := sizeBytes size
  let ea := effAddr b i n disp
  if aligned then needAlign ea n
  if ← heldLoad ea n ann [(t.toNat, 0)] n signed then return ()
  let (bs, bad) ← loadBytes ea n ann
  writeLoaded t (extend signed n (leNat bs)) bad
/-- A store of the low bytes of t (R157). Of several poisoned registers the trap names base, then index, then t, which R43
places nowhere (R197; DESIGN CHOICE log 114). -/
def storeReg (t base : BitVec 6) (size : BitVec 2) (index : BitVec 6) (disp : BitVec 24) (aligned : Bool) (ann : Ann) :
    M Unit := do
  let (b, i, v) ← read3 base index t []
  let n := sizeBytes size
  let ea := effAddr b i n disp
  if aligned then needAlign ea n
  storeBytes ea (leBytes v.toNat n) ann

/-- LD (R157). -/
def execLd (h : Hdr) (t base : BitVec 6) (size : BitVec 2) (index : BitVec 6) (disp : BitVec 24) (s : State) : Out :=
  runU user h (loadReg t base size index disp false plainAnn false) s
/-- LDS (R157). -/
def execLds (h : Hdr) (t base : BitVec 6) (size : BitVec 2) (index : BitVec 6) (disp : BitVec 24) (s : State) : Out :=
  runU user h (loadReg t base size index disp false plainAnn true) s
/-- ST (R157). -/
def execSt (h : Hdr) (t base : BitVec 6) (size : BitVec 2) (index : BitVec 6) (disp : BitVec 24) (s : State) : Out :=
  runU user h (storeReg t base size index disp false plainAnn) s
/-- LDA: an acquire, naturally aligned (R157, R79). -/
def execLda (h : Hdr) (t base : BitVec 6) (size : BitVec 2) (_sc : BitVec 3) (index : BitVec 6) (disp : BitVec 24)
    (s : State) : Out :=
  runU user h (loadReg t base size index disp true { plainAnn with acq := true } false) s
/-- STL: a release, naturally aligned (R157, R79). -/
def execStl (h : Hdr) (t base : BitVec 6) (size : BitVec 2) (_sc : BitVec 3) (index : BitVec 6) (disp : BitVec 24)
    (s : State) : Out :=
  runU user h (storeReg t base size index disp true { plainAnn with rel := true }) s
/-- LDX: as LD; allocation is time only (R157). -/
def execLdx (h : Hdr) (t base : BitVec 6) (size : BitVec 2) (index : BitVec 6) (disp : BitVec 24) (s : State) : Out :=
  runU user h (loadReg t base size index disp false plainAnn false) s
/-- STX: as ST, but it allocates no line of the die L2 on a miss (R157). -/
def execStx (h : Hdr) (t base : BitVec 6) (size : BitVec 2) (index : BitVec 6) (disp : BitVec 24) (s : State) : Out :=
  runU user h (storeReg t base size index disp false { plainAnn with far := true }) s

/-- LDP: one 16-byte access, or two of 8 bytes; each register is poisoned by its own line (R159). Where a late access holds
back the first of two, the second is made or held in its turn (R93). -/
def execLdp (h : Hdr) (t base index : BitVec 6) (disp : BitVec 24) (s : State) : Out :=
  runU user h (do
    let (b, i) ← read2 base index []
    let ea := effAddr b i 16 disp
    needAlign ea 8
    if ea.toNat % 16 = 0 then
      if ← heldLoad ea 16 plainAnn [(t.toNat, 0), ((t + 1).toNat, 8)] 8 false then return ()
      let (bs, bad) ← loadBytes ea 16 plainAnn
      writeLoaded t (BitVec.ofNat 64 (leNat (bs.take 8))) bad
      writeLoaded (t + 1) (BitVec.ofNat 64 (leNat (bs.drop 8))) bad
    else if ← heldLoad ea 8 plainAnn [(t.toNat, 0)] 8 false then
      if ← heldLoad (ea + 8) 8 plainAnn [((t + 1).toNat, 0)] 8 false then return ()
      let (bs, bad) ← loadPart (ea + 8) 8 plainAnn
      writeLoaded (t + 1) (BitVec.ofNat 64 (leNat bs)) bad
    else
      let (lo, hi) ← loadTwo ea 8 16 plainAnn
      writeLoaded t (BitVec.ofNat 64 (leNat lo.1)) lo.2
      writeLoaded (t + 1) (BitVec.ofNat 64 (leNat hi.1)) hi.2) s
/-- STP: one 16-byte access, or two of 8 bytes, the lower first (R159). -/
def execStp (h : Hdr) (t base index : BitVec 6) (disp : BitVec 24) (s : State) : Out :=
  runU user h (do
    ready [base, index, t, t + 1] []
    let b ← takeVal base
    let i ← takeVal index
    let x ← takeVal t
    let y ← takeVal (t + 1)
    let ea := effAddr b i 16 disp
    needAlign ea 8
    let bs := leBytes x.toNat 8 ++ leBytes y.toNat 8
    if ea.toNat % 16 = 0 then storePart ea bs plainAnn else storeTwo ea 8 bs plainAnn) s

/-- PREF: no visible effect; its address registers are waited for, and a poisoned one drops it (R149, R160). -/
def execPref (h : Hdr) (_lvl : BitVec 1) (base index : BitVec 6) (_disp : BitVec 24) (s : State) : Out :=
  runU user h (do
    checkSrc base
    checkSrc index
    let st ← getHere
    if !(st.reg base.toNat).poisoned && !(st.reg index.toNat).poisoned then
      checkLanded base
      checkLanded index
      checkSym base
      checkSym index
    let _ ← takeVal base
    let _ ← takeVal index) s

/-! ### Atomics (R161 to R163) -/

/-- AMO: field a receives the old value (R161, R162). -/
def amo (op : RmwOp) (a b : BitVec 6) (c : Option (BitVec 6)) (rel acq : BitVec 1) (size : BitVec 2) : M Unit := do
  let (va, o) ← match c with
    | some c => read2 b c [a]
    | none => (do let va ← read1 b [a]; return (va, 0))
  let n := sizeBytes size
  needAlign va n
  let o := o.toNat % 2 ^ (8 * n)
  let ann : Ann := ⟨acq == 1, rel == 1, false⟩
  if ← heldRmw va n ann (.rmw op (BitVec.ofNat 64 o)) a n then return ()
  let (old, bad) ← rmwBytes va n ann (.rmw op (BitVec.ofNat 64 o))
    (fun bs => some (leBytes (op.apply n (leNat bs) o) n))
  writeLoaded a (BitVec.ofNat 64 (leNat old)) bad

/-- AMO.add (R162). -/
def execAmoAdd (h : Hdr) (a b c : BitVec 6) (rel acq : BitVec 1) (size : BitVec 2) (_sc : BitVec 3) (s : State) : Out :=
  runU user h (amo .add a b (some c) rel acq size) s
/-- AMO.and (R162). -/
def execAmoAnd (h : Hdr) (a b c : BitVec 6) (rel acq : BitVec 1) (size : BitVec 2) (_sc : BitVec 3) (s : State) : Out :=
  runU user h (amo .and a b (some c) rel acq size) s
/-- AMO.or (R162). -/
def execAmoOr (h : Hdr) (a b c : BitVec 6) (rel acq : BitVec 1) (size : BitVec 2) (_sc : BitVec 3) (s : State) : Out :=
  runU user h (amo .or a b (some c) rel acq size) s
/-- AMO.xor (R162). -/
def execAmoXor (h : Hdr) (a b c : BitVec 6) (rel acq : BitVec 1) (size : BitVec 2) (_sc : BitVec 3) (s : State) : Out :=
  runU user h (amo .xor a b (some c) rel acq size) s
/-- AMO.swap (R162). -/
def execAmoSwap (h : Hdr) (a b c : BitVec 6) (rel acq : BitVec 1) (size : BitVec 2) (_sc : BitVec 3) (s : State) : Out :=
  runU user h (amo .swap a b (some c) rel acq size) s
/-- AMO.min (R162). -/
def execAmoMin (h : Hdr) (a b c : BitVec 6) (rel acq : BitVec 1) (size : BitVec 2) (_sc : BitVec 3) (s : State) : Out :=
  runU user h (amo .min a b (some c) rel acq size) s
/-- AMO.max (R162). -/
def execAmoMax (h : Hdr) (a b c : BitVec 6) (rel acq : BitVec 1) (size : BitVec 2) (_sc : BitVec 3) (s : State) : Out :=
  runU user h (amo .max a b (some c) rel acq size) s
/-- AMO.minu (R162). -/
def execAmoMinu (h : Hdr) (a b c : BitVec 6) (rel acq : BitVec 1) (size : BitVec 2) (_sc : BitVec 3) (s : State) : Out :=
  runU user h (amo .minu a b (some c) rel acq size) s
/-- AMO.maxu (R162). -/
def execAmoMaxu (h : Hdr) (a b c : BitVec 6) (rel acq : BitVec 1) (size : BitVec 2) (_sc : BitVec 3) (s : State) : Out :=
  runU user h (amo .maxu a b (some c) rel acq size) s
/-- AMO.maxrst (R162). -/
def execAmoMaxrst (h : Hdr) (a b : BitVec 6) (rel acq : BitVec 1) (size : BitVec 2) (_sc : BitVec 3) (s : State) : Out :=
  runU user h (amo .maxrst a b none rel acq size) s
/-- CAS: `n` names the register of the new value (R163). -/
def execCas (h : Hdr) (a b c n : BitVec 6) (rel acq : BitVec 1) (size : BitVec 2) (_sc : BitVec 3) (s : State) : Out :=
  runU user h (do
    let (va, x, y) ← read3 b c n [a]
    let k := sizeBytes size
    needAlign va k
    let old := leBytes x.toNat k
    let new := leBytes y.toNat k
    let ann : Ann := ⟨acq == 1, rel == 1, false⟩
    let op : RemoteOp := .cas (BitVec.ofNat 64 (leNat old)) (BitVec.ofNat 64 (leNat new))
    if ← heldRmw va k ann op a k then return ()
    let (m, bad) ← rmwBytes va k ann op
      (fun bs => if bs = old then some new else none)
    writeLoaded a (BitVec.ofNat 64 (leNat m)) bad) s

/-! ### Late loads and atomics (R201, R204, R205) -/

/-- Deadline of a remote symbol (R191). -/
def deadlineOf (st : Strand) (cycle : Word) : Option Word :=
  if st.symlim = 0 then none else some (cycle + st.symlim.setWidth 64)

/-- Whether a gate lets a read through now; a fault of its own read is precise (R172). -/
def gateOpen (w : Who) (slots : Tab Slot) (va : Word) (n : Nat) : M Bool := fun s =>
  match gate { w with asker := .gate s.cur } slots va n s with
  | .ok _ s => .ok true s
  | .error (.hold _) s => .ok false s
  | .error (.fault c sub v) s => .error (.trap ⟨c, sub, v, .instr, false⟩) s
/-- The entry a late access takes: a free symbol, or, with destination s0, a number from 32 on, which is no symbol (R189). -/
def Strand.lateEntry (st : Strand) (d : BitVec 6) : Option Nat := if d = 0 then some st.heldKey else st.freeSym
/-- Allocates the entry of a late access whose checks have passed; a remote one that no pennant and no earlier late access
holds sends its request at once (R189, R201). -/
def lateAccess (d : BitVec 6) (va : Word) (pl : Place) (kind : BitVec 2) (holds : Bool) (ann : Bool) (n : Nat)
    (src : SymSrc) (op : RemoteOp) (go : Bool) : M Unit := do
  let s ← get
  let strong := kind = 0 || ann
  let after := s.here.syms.any fun p => p.2.precedes pl n kind strong ann
  let dl := if pl.isRemote && d ≠ 0 then deadlineOf s.here s.cycle else none
  match s.here.lateEntry d with
  | none => do
    modHere fun st => { st with waitfree := true }
    waitM
  | some k =>
    let x : Sym := ⟨src, kind, dl, holds, strong, ann, s.cycle, none⟩
    if d = 0 then modHere fun st => { st with syms := Tab.insert st.syms k x } else allocSym d x
    if pl.isRemote && go && !after then modify fun s => s.request (.symbol s.cur k) (some s.here.ctx) pl n op va

/-- LDL: checks, then a symbol whose read is performed later (R201, R204). -/
def execLdl (h : Hdr) (t base : BitVec 6) (size : BitVec 2) (index : BitVec 6) (disp : BitVec 24) (s : State) : Out :=
  runU user h (do
    let (b, i) ← read2 base index []
    let n := sizeBytes size
    let ea := effAddr b i n disp
    needAlign ea n
    modeOrder ea
    let w ← whoHere
    let (pl, kind) ← liftA (check w .rd ea)
    match pl with
    | .host addr => liftA (hostReady w addr ea)
    | _ => pure ()
    let slots := (← getHere).wmset
    let go ← (if pl.isRemote then gateOpen w slots ea n else pure true)
    lateAccess t ea pl kind (kind = 0) false n (.load ea.toNat pl n slots) .read go) s

/-- AMOL: as AMO, the old value arriving later (R205). -/
def amol (op : RmwOp) (a b : BitVec 6) (c : Option (BitVec 6)) (rel acq : BitVec 1) (size : BitVec 2) : M Unit := do
  let (va, o) ← match c with
    | some c => read2 b c []
    | none => (do let va ← read1 b []; return (va, 0))
  let n := sizeBytes size
  needAlign va n
  let o : Word := BitVec.ofNat 64 (o.toNat % 2 ^ (8 * n))
  modeOrder va
  let w ← whoHere
  let (pl, kind) ← liftA (check w .wr va)
  match pl with
  | .host addr => liftA (hostReady w addr va)
  | _ => pure ()
  lateAccess a va pl kind (kind = 0 || acq == 1) (acq == 1 || rel == 1) n (.amo va.toNat pl n op o) (.rmw op o) true

/-- AMOL.add (R205). -/
def execAmolAdd (h : Hdr) (a b c : BitVec 6) (rel acq : BitVec 1) (size : BitVec 2) (_sc : BitVec 3) (s : State) : Out :=
  runU user h (amol .add a b (some c) rel acq size) s
/-- AMOL.and (R205). -/
def execAmolAnd (h : Hdr) (a b c : BitVec 6) (rel acq : BitVec 1) (size : BitVec 2) (_sc : BitVec 3) (s : State) : Out :=
  runU user h (amol .and a b (some c) rel acq size) s
/-- AMOL.or (R205). -/
def execAmolOr (h : Hdr) (a b c : BitVec 6) (rel acq : BitVec 1) (size : BitVec 2) (_sc : BitVec 3) (s : State) : Out :=
  runU user h (amol .or a b (some c) rel acq size) s
/-- AMOL.xor (R205). -/
def execAmolXor (h : Hdr) (a b c : BitVec 6) (rel acq : BitVec 1) (size : BitVec 2) (_sc : BitVec 3) (s : State) : Out :=
  runU user h (amol .xor a b (some c) rel acq size) s
/-- AMOL.swap (R205). -/
def execAmolSwap (h : Hdr) (a b c : BitVec 6) (rel acq : BitVec 1) (size : BitVec 2) (_sc : BitVec 3) (s : State) : Out :=
  runU user h (amol .swap a b (some c) rel acq size) s
/-- AMOL.min (R205). -/
def execAmolMin (h : Hdr) (a b c : BitVec 6) (rel acq : BitVec 1) (size : BitVec 2) (_sc : BitVec 3) (s : State) : Out :=
  runU user h (amol .min a b (some c) rel acq size) s
/-- AMOL.max (R205). -/
def execAmolMax (h : Hdr) (a b c : BitVec 6) (rel acq : BitVec 1) (size : BitVec 2) (_sc : BitVec 3) (s : State) : Out :=
  runU user h (amol .max a b (some c) rel acq size) s
/-- AMOL.minu (R205). -/
def execAmolMinu (h : Hdr) (a b c : BitVec 6) (rel acq : BitVec 1) (size : BitVec 2) (_sc : BitVec 3) (s : State) : Out :=
  runU user h (amol .minu a b (some c) rel acq size) s
/-- AMOL.maxu (R205). -/
def execAmolMaxu (h : Hdr) (a b c : BitVec 6) (rel acq : BitVec 1) (size : BitVec 2) (_sc : BitVec 3) (s : State) : Out :=
  runU user h (amol .maxu a b (some c) rel acq size) s
/-- AMOL.maxrst (R205). -/
def execAmolMaxrst (h : Hdr) (a b : BitVec 6) (rel acq : BitVec 1) (size : BitVec 2) (_sc : BitVec 3) (s : State) : Out :=
  runU user h (amol .maxrst a b none rel acq size) s

end Sys2Proof.Machine
end

