-- ==== Sys2Proof/Machine/Sync.lean ====
section
/-!
DEFINITION. Burgees (05 R167 to R169), pennants (05 R170 to R172), append queues (05 R173 to R175), waits and events
between strands (05 R186, R187), symbol instructions (06 R206).
-/
namespace Sys2Proof.Machine

/-! ### Burgees (R167, R168) -/

/-- A burgee taken apart (Table 5.5). -/
structure Burgee where
  overrun : Bool
  phase : Nat
  parr : Nat
  pbytes : Nat
  narr : Nat
  deriving DecidableEq, Repr

/-- Reads a burgee from its 16 bytes. -/
def Burgee.ofBytes (bs : List Byte) : Burgee :=
  let w0 : Word := BitVec.ofNat 64 (leNat (bs.take 8))
  ⟨w0.getLsbD 63, bits w0 59 4, bits w0 35 24, bits w0 0 31, leNat (bs.drop 8) % 2 ^ 24⟩
/-- Word 0 of a burgee; bits [34:31] are 0. -/
def Burgee.word0 (b : Burgee) : Nat :=
  (if b.overrun then 2 ^ 63 else 0) + b.phase % 16 * 2 ^ 59 + b.parr % 2 ^ 24 * 2 ^ 35 + b.pbytes % 2 ^ 31
/-- TryComplete (R168). -/
def Burgee.tryComplete (b : Burgee) : Burgee :=
  if !b.overrun && b.parr == 0 && b.pbytes == 0 then { b with phase := (b.phase + 1) % 16, parr := b.narr } else b
/-- BAR ARRIVE (R168). -/
def Burgee.arrive (b : Burgee) : Burgee :=
  (if b.parr = 0 then { b with overrun := true } else { b with parr := b.parr - 1 }).tryComplete
/-- BAR ARRIVEB of `n` bytes (R168). -/
def Burgee.arriveb (b : Burgee) (n : Nat) : Burgee :=
  (if b.pbytes < n then { b with pbytes := 0, overrun := true } else { b with pbytes := b.pbytes - n }).tryComplete
/-- Bytes after an operation that leaves word 1 as it was. -/
def Burgee.put (b : Burgee) (bs : List Byte) : List Byte := leBytes b.word0 8 ++ bs.drop 8

/-- A pennant after an operation on its count and generation (R170, R171). -/
def pennantPut (f : Nat → Nat → Nat × Nat) (bs : List Byte) : List Byte :=
  let w1 := leNat (bs.drop 8)
  let (count, gen) := f (leNat (bs.take 8)) (w1 / 2 ^ 16 % 2 ^ 32)
  leBytes count 8 ++ leBytes (w1 / 2 ^ 48 * 2 ^ 48 + gen * 2 ^ 16 + w1 % 2 ^ 16) 8
/-- Word `i` of a queue header. -/
def hdrWord (bs : List Byte) (i : Nat) : Word := BitVec.ofNat 64 (leNat ((bs.drop (8 * i)).take 8))
/-- TAIL - HEAD, where HEAD has not passed TAIL: integers of unbounded width (R7, R173). -/
def queueFill (bs : List Byte) : Option Nat :=
  let head := (hdrWord bs 2).toNat
  let tail := (hdrWord bs 3).toNat
  if head ≤ tail then some (tail - head) else none
/-- Whether a queue holds at least `n` entries. -/
def fillAtLeast (bs : List Byte) (n : Nat) : Bool := match queueFill bs with | some f => decide (n ≤ f) | none => false
/-- Whether QTAKE of `n` entries takes them (R175). -/
def takeFits (n : Nat) (bs : List Byte) : Bool := decide (n ≤ (hdrWord bs 1).toNat) && fillAtLeast bs n

/-- New bytes of an object's read-modify-write, or none for no write (R168, R171, R175). -/
def Update.apply : Update → List Byte → Option (List Byte)
  | .barInit n, _ => some (leBytes (Burgee.word0 ⟨false, 0, n, 0, n⟩) 8 ++ leBytes n 8)
  | .barExpect n, bs =>
    let x := Burgee.ofBytes bs
    if 2 ^ 31 - 1 < x.pbytes + n then none else some ({ x with pbytes := x.pbytes + n }.put bs)
  | .barArrive, bs => some ((Burgee.ofBytes bs).arrive.put bs)
  | .barArriveb n, bs => some (((Burgee.ofBytes bs).arriveb n).put bs)
  | .publish n, bs => some (pennantPut (fun count gen => (Nat.max count n, gen)) bs)
  | .publishGen n, bs => some (pennantPut (fun _ gen => (n, (gen + 1) % 2 ^ 32)) bs)
  | .take n, bs =>
    if n ≠ 0 && takeFits n bs then some (bs.take 16 ++ leBytes (hdrWord bs 2 + BitVec.ofNat 64 n).toNat 8 ++ bs.drop 24)
    else none
  | .lock, _ => none
  | .unlock, _ => none
/-- One atomic read-modify-write of an object of `n` bytes by the running strand (R78). -/
def updateBytes (va : Word) (n : Nat) (ann : Ann) (u : Update) : M (List Byte × Option Nat) :=
  rmwBytes va n ann (.update u) u.apply

/-- A read-modify-write of a burgee that needs nothing of what it finds may be held behind a late access (R93); else it is made
at once. -/
def barHeld (a : BitVec 6) (va : Word) (rel : Bool) (u : Update) : M Unit := do
  needAlign va 16
  if ← heldRmw va 16 { plainAnn with rel } (.update u) a 8 then return ()
  let (bs, bad) ← updateBytes va 16 { plainAnn with rel } u
  writeLoaded a (BitVec.ofNat 64 (leNat (bs.take 8))) bad
/-- A read-modify-write function of BAR on the burgee at `va`: a receives word 0 as it stood (R168, R469). -/
def barRmw (a : BitVec 6) (va : Word) (rel : Bool) (u : Update) : M (List Byte × Option Nat) := do
  needAlign va 16
  let (bs, bad) ← updateBytes va 16 { plainAnn with rel } u
  writeLoaded a (BitVec.ofNat 64 (leNat (bs.take 8))) bad
  return (bs, bad)

/-- BAR.init (R168). -/
def execBarInit (h : Hdr) (a b c : BitVec 6) (_sc : BitVec 3) (s : State) : Out :=
  runU user h (do
    let (va, n) ← read2 b c [a]
    needAlign va 16
    if 2 ^ 24 ≤ n.toNat then trapI .barRange 0 va
    barHeld a va false (.barInit n.toNat)) s
/-- BAR.expect (R168). -/
def execBarExpect (h : Hdr) (a b c : BitVec 6) (_sc : BitVec 3) (s : State) : Out :=
  runU user h (do
    let (va, n) ← read2 b c [a]
    let (bs, bad) ← barRmw a va false (.barExpect n.toNat)
    if bad.isNone && ((Update.barExpect n.toNat).apply bs).isNone then trapI .barRange 0 va) s
/-- BAR.arrive: a release (R168, R90). -/
def execBarArrive (h : Hdr) (a b : BitVec 6) (_sc : BitVec 3) (s : State) : Out :=
  runU user h (do
    let va ← read1 b [a]
    barHeld a va true .barArrive) s
/-- BAR.arriveb: a release (R168, R90). -/
def execBarArriveb (h : Hdr) (a b c : BitVec 6) (_sc : BitVec 3) (s : State) : Out :=
  runU user h (do
    let (va, n) ← read2 b c [a]
    barHeld a va true (.barArriveb n.toNat)) s
/-- The object is read anew when the instruction tries again. -/
def poll {α : Type} : M α := do
  modify State.closeAsks
  waitM
/-- One read of a burgee by WAIT or TEST, an acquire where it finds the phase over, and ordered as one (R71, R90): an
overrun traps (R168). -/
def barRead (va : Word) : M (Word × Burgee) := do
  needAlign va 16
  let bs ← loadOwnAs { plainAnn with acq := true } va 16
  let x := Burgee.ofBytes bs
  if x.overrun then trapI .barOverrun 0 va
  return (BitVec.ofNat 64 (leNat (bs.take 8)), x)
/-- BAR.wait (R168). -/
def execBarWait (h : Hdr) (a b c : BitVec 6) (_sc : BitVec 3) (s : State) : Out :=
  runU user h (do
    let (va, n) ← read2 b c [a]
    let (w, x) ← barRead va
    if x.phase = n.toNat % 16 then poll
    writeVal a w) s
/-- BAR.test (R168). -/
def execBarTest (h : Hdr) (a b c : BitVec 6) (_sc : BitVec 3) (s : State) : Out :=
  runU user h (do
    let (va, _) ← read2 b c [a]
    let (w, _) ← barRead va
    writeVal a w) s

/-! ### Pennants (R170 to R172) -/

/-- A publication: a release at system scope (R171). -/
def publish (va : Word) (u : Update) : M Unit := do
  needAlign va 16
  if ← heldRmw va 16 { plainAnn with rel := true } (.update u) 0 0 then return ()
  let _ ← updateBytes va 16 { plainAnn with rel := true } u
/-- WMPUB: a count never goes down (R171). -/
def execWmpub (h : Hdr) (b c : BitVec 6) (s : State) : Out :=
  runU user h (do
    let (va, n) ← read2 b c []
    publish va (.publish n.toNat)) s
/-- WMPUB.gen (R171). -/
def execWmpubGen (h : Hdr) (b c : BitVec 6) (s : State) : Out :=
  runU user h (do
    let (va, n) ← read2 b c []
    publish va (.publishGen n.toNat)) s

/-- Binds slot `k` to the pennant at `pen`, whose word 1 is read now; an ESIZE of 0 leaves it unbound and raises ALIGN
(R172). -/
def bindSlot (k : Nat) (base pen len : Word) : M Unit := do
  let bs ← loadOwn (pen + 8) 8
  let w1 : Word := BitVec.ofNat 64 (leNat bs)
  if bits w1 0 16 = 0 then
    modHere fun st => { st with wmset := Tab.erase st.wmset k }
    trapI .align 0 pen
  modHere fun st => { st with wmset := Tab.insert st.wmset k ⟨base, len, pen, w1.extractLsb' 16 32, w1.extractLsb' 0 16⟩ }
/-- WMSET (R172): c is looked at before a and b, which a c of 0 leaves unread; R43 orders a, b, c (DESIGN CHOICE log 117). -/
def execWmset (h : Hdr) (a b c : BitVec 6) (k : BitVec 2) (s : State) : Out :=
  runU user h (do
    let n ← read1 c []
    if n = 0 then modHere fun st => { st with wmset := Tab.erase st.wmset k.toNat }
    else
      let (base, pen) ← read2 a b []
      bindSlot k.toNat base pen n) s

/-! ### Append queues (R173 to R175) -/

/-- What QWAIT does once, however long it waits: it takes m, the operand or else THRESH, and sets its bit of WAITERS
(R174). Answers m. -/
def qwaitBegin (va n : Word) : M Word := do
  match (← getHere).part with
  | some (.fill m true) => return m
  | p =>
    let m ← (match p with
      | some (.fill m _) => pure m
      | _ => if n = 0 then (do return BitVec.ofNat 64 (leNat (← loadOwn (va + 32) 8)) : M Word) else pure n)
    modHere fun st => { st with part := some (.fill m false) }
    let bit := 1 <<< ((← get).cur % 64)
    let _ ← rmwBytes (va + 48) 8 plainAnn (.rmw .or (BitVec.ofNat 64 bit)) fun w => some (leBytes (leNat w ||| bit) 8)
    modHere fun st => { st with part := some (.fill m true) }
    modify State.closeAsks
    return m
/-- QWAIT: m and its bit, then the fill; the read that ends it is an acquire (R71, R174). -/
def execQwait (h : Hdr) (a b c : BitVec 6) (s : State) : Out :=
  runU user h (do
    let (va, n) ← read2 b c [a]
    needAlign va 64
    let m ← qwaitBegin va n
    let bs ← loadOwnAs { plainAnn with acq := true } va 64
    if !fillAtLeast bs m.toNat then poll
    writeVal a (BitVec.ofNat 64 ((queueFill bs).getD 0))) s
/-- QTAKE: one atomic read-modify-write of the header (R175). -/
def execQtake (h : Hdr) (a b c : BitVec 6) (s : State) : Out :=
  runU user h (do
    let (va, n) ← read2 b c [a]
    needAlign va 64
    let (bs, bad) ← updateBytes va 64 { plainAnn with acq := true } (.take n.toNat)
    writeLoaded a (if n = 0 || takeFits n.toNat bs then hdrWord bs 2 else 0xFFFFFFFFFFFFFFFF) bad) s

/-! ### Waits (R186, R187) -/

/-- WAITE: returns when the word differs from b or an SEV in scope came since it issued (R186). -/
def execWaite (h : Hdr) (d a b : BitVec 6) (s : State) : Out :=
  runU user h (do
    let (va, x) ← read2 a b [d]
    needAlign va 8
    modHere fun st => { st with inWaite := true }
    let v : Word := BitVec.ofNat 64 (leNat (← loadOwn va 8))
    if v = x && !(← getHere).sevSeen then poll
    writeVal d v) s
/-- Whether strand `n` lies in a scope of strand `m` (Table 3.2): cluster, die, or more. -/
def inScope (sc : BitVec 3) (m n : Nat) : Bool :=
  if sc = 2 then clusterOf m == clusterOf n else if sc = 3 then dieOf m == dieOf n else true
/-- SEV (R186). -/
def execSev (h : Hdr) (sc : BitVec 3) (s : State) : Out :=
  runU user h (modify fun s => { s with strands := s.strands.map fun (n, st) =>
    (n, if st.inWaite && inScope sc s.cur n then { st with sevSeen := true } else st) }) s
/-- WAITM: waits for the host mailbox (R187). -/
def execWaitm (h : Hdr) (a b : BitVec 6) (s : State) : Out :=
  runU supOnly h (do
    let x ← read1 b [a]
    let v := (← get).mgmt.mboxseq
    if v = x then waitM
    writeVal a v) s

/-! ### Symbols (R206) -/

/-- SYMW (R206). -/
def execSymw (h : Hdr) (a : BitVec 6) (s : State) : Out :=
  runU user h (do let _ ← read1 a []) s
/-- SYMQ (R206). -/
def execSymq (h : Hdr) (pd : BitVec 3) (a : BitVec 6) (s : State) : Out :=
  runU user h (do
    let v ← stateOf a
    writePredVar pd (!v.symbolic)) s
/-- SYMQ.poi (R206). -/
def execSymqPoi (h : Hdr) (pd : BitVec 3) (a : BitVec 6) (s : State) : Out :=
  runU user h (do
    let v ← stateOf a
    writePredVar pd v.poisoned) s
/-- SYMX: a where it arrived, b, as it stands, where it is poisoned; b is waited for only then. Poison enqueues nothing in a
stream (R192, R206; DESIGN CHOICE log 28). -/
def execSymx (h : Hdr) (d a b : BitVec 6) (s : State) : Out :=
  runU user h (do
    checkSrc a
    checkSrc b
    checkLanded a
    checkLanded b
    checkDst d
    checkSym a
    let x := (← getHere).reg a.toNat
    if x.poisoned then checkSym b
    let y ← takeSVal b
    let v := if x.poisoned then y else x
    writeVar d v) s

end Sys2Proof.Machine
end

