-- ==== Sys2Proof/Machine/Sha.lean ====
section
/-!
DEFINITION. SHA-256 (12 R355: XCKPT hashes blocks with SHA256) and SHA-384 (19 R503: digests of a quote) over bytes, as FIPS
180-4 defines them: one scheme over words of 32 or of 64 bits.
-/
namespace Sys2Proof.Machine

/-- The primes up to 409, the first 80 there are: none of the others below 21² = 441 has no divisor below 21. -/
def shaPrimes : List Nat :=
  (List.range 410).filter fun p => decide (2 ≤ p) && (List.range 21).all fun d => decide (d < 2) || d == p || p % d != 0
/-- The greatest root with `r ^ e ≤ n`, bit by bit from bit `k` down. -/
def rootBits (e n : Nat) : Nat → Nat → Nat
  | 0, r => r
  | k + 1, r => rootBits e n k (if (r + 2 ^ k) ^ e ≤ n then r + 2 ^ k else r)
/-- The first `w` bits of the fraction of a prime's `e`-th root. -/
def rootFrac (w e p : Nat) : BitVec w := BitVec.ofNat w (rootBits e (p * 2 ^ (w * e)) (w + 8) 0)
/-- The eight working words. -/
structure Sha (w : Nat) where
  a : BitVec w
  b : BitVec w
  c : BitVec w
  d : BitVec w
  e : BitVec w
  f : BitVec w
  g : BitVec w
  h : BitVec w
  deriving DecidableEq, Repr
/-- What differs between the hashes: the number of rounds, which is that of the round constants, the amounts of the rotations
and of the shifts, and the place among the primes from which the initial value comes. -/
structure ShaKind where
  rounds : Nat
  big1 : Nat × Nat × Nat
  big0 : Nat × Nat × Nat
  small0 : Nat × Nat × Nat
  small1 : Nat × Nat × Nat
  first : Nat
  deriving DecidableEq, Repr
/-- SHA-256. -/
def kind256 : ShaKind := ⟨64, (6, 11, 25), (2, 13, 22), (7, 18, 3), (17, 19, 10), 0⟩
/-- SHA-384. -/
def kind384 : ShaKind := ⟨80, (14, 18, 41), (28, 34, 39), (1, 8, 7), (19, 61, 6), 8⟩
/-- Round constants: from the cube roots of the primes. -/
def ShaKind.constants (p : ShaKind) (w : Nat) : List (BitVec w) := (shaPrimes.take p.rounds).map (rootFrac w 3)
/-- Initial hash value: from the square roots of eight primes. -/
def ShaKind.init (p : ShaKind) (w : Nat) : Sha w :=
  let r (i : Nat) : BitVec w := rootFrac w 2 (shaPrimes.getD (p.first + i) 0)
  ⟨r 0, r 1, r 2, r 3, r 4, r 5, r 6, r 7⟩
/-- Three rotations. -/
def rotations {w : Nat} (x : BitVec w) (n : Nat × Nat × Nat) : BitVec w :=
  x.rotateRight n.1 ^^^ x.rotateRight n.2.1 ^^^ x.rotateRight n.2.2
/-- Two rotations and a shift. -/
def rotationsShift {w : Nat} (x : BitVec w) (n : Nat × Nat × Nat) : BitVec w :=
  x.rotateRight n.1 ^^^ x.rotateRight n.2.1 ^^^ (x >>> n.2.2)
/-- One round. -/
def Sha.round {w : Nat} (p : ShaKind) (x : Sha w) (k v : BitVec w) : Sha w :=
  let ch := (x.e &&& x.f) ^^^ (~~~x.e &&& x.g)
  let t1 := x.h + rotations x.e p.big1 + ch + k + v
  let maj := (x.a &&& x.b) ^^^ (x.a &&& x.c) ^^^ (x.b &&& x.c)
  ⟨t1 + (rotations x.a p.big0 + maj), x.a, x.b, x.c, x.d + t1, x.e, x.f, x.g⟩
/-- Rounds with a sliding window of 16 schedule words. -/
def shaRounds {w : Nat} (p : ShaKind) : List (BitVec w) → List (BitVec w) → Sha w → Sha w
  | [], _, x => x
  | k :: ks, ws, x =>
    let v := ws.headD 0
    let new := v + rotationsShift (ws.getD 1 0) p.small0 + ws.getD 9 0 + rotationsShift (ws.getD 14 0) p.small1
    shaRounds p ks (ws.drop 1 ++ [new]) (x.round p k v)
/-- Sum of two states. -/
def Sha.plus {w : Nat} (x y : Sha w) : Sha w :=
  ⟨x.a + y.a, x.b + y.b, x.c + y.c, x.d + y.d, x.e + y.e, x.f + y.f, x.g + y.g, x.h + y.h⟩
/-- Number of big-endian bytes. -/
def beNat (bs : List Byte) : Nat := bs.foldl (fun n b => n * 256 + b.toNat) 0
/-- Big-endian words of bytes. -/
def beWords (w : Nat) : Nat → List Byte → List (BitVec w)
  | 0, _ => []
  | n + 1, bs => BitVec.ofNat w (beNat (bs.take (w / 8))) :: beWords w n (bs.drop (w / 8))
/-- Blocks of 16 words in order. -/
def shaBlocks {w : Nat} (p : ShaKind) (ks : List (BitVec w)) : Nat → List Byte → Sha w → Sha w
  | 0, _, x => x
  | n + 1, bs, x => shaBlocks p ks n (bs.drop (2 * w)) (x.plus (shaRounds p ks (beWords w 16 (bs.take (2 * w))) x))
/-- The low `n` bytes of a number, big-endian. -/
def beBytes (n x : Nat) : List Byte := (List.range n).map fun i => BitVec.ofNat 8 (x / 256 ^ (n - 1 - i))
/-- The bytes of the hash of `bs` over words of `w` bits: a one bit, zeros and the length in bits, in two words, end the last
block. -/
def shaHash (p : ShaKind) (w : Nat) (bs : List Byte) : List Byte :=
  let n := bs.length
  let block := 2 * w
  let pad := (2 * block - 1 - w / 4 - n % block) % block
  let full := bs ++ 0x80 :: List.replicate pad 0 ++ beBytes (w / 4) (8 * n)
  let x := shaBlocks p (p.constants w) (full.length / block) full (p.init w)
  [x.a, x.b, x.c, x.d, x.e, x.f, x.g, x.h].flatMap fun v => beBytes (w / 8) v.toNat
/-- SHA-256 of bytes: 32 bytes. -/
def sha256 (bs : List Byte) : List Byte := shaHash kind256 32 bs
/-- SHA-384 of bytes: the first 48 bytes of the scheme over 64-bit words. -/
def sha384 (bs : List Byte) : List Byte := (shaHash kind384 64 bs).take 48

end Sys2Proof.Machine
end

