-- ==== Sys2Proof/Machine/Transfer.lean ====
section
/-!
DEFINITION. Transfer engine: what each command does with its elements (12 R338, R346 to R358).
-/
namespace Sys2Proof.Machine

/-- A command at work: the engine, its cluster and channel. -/
structure Job where
  g : Eng
  cl : Nat
  ch : Nat
  deriving DecidableEq, Repr

/-- Changes the running command. -/
def Job.mod (j : Job) (f : XEntry → XEntry) : A Unit := modify fun s => s.modEntry j.cl j.ch f
/-- The command goes on from ordinal `e`. -/
def Job.mark (j : Job) (e : Nat) : A Unit := do
  modify (dropAsks j.g.w.asker)
  j.mod fun x => { x with elem := e, part := [] }
/-- The running command. -/
def Job.entry (j : Job) : A (Option XEntry) := do return ((← get).chan j.cl j.ch).queue.head?
/-- The read number `i` of the present element, made once however long a later one waits. -/
def Job.once (j : Job) (i : Nat) (x : A (List Byte)) : A (List Byte) := do
  match (← j.entry).bind fun e => e.part[i]? with
  | some bs => return bs
  | none =>
    let bs ← x
    modify (dropAnswers j.g.w.asker)
    j.mod fun e => { e with part := e.part ++ [bs] }
    return bs
/-- Does `n` elements from ordinal `e` on, in ascending order (R338). -/
def Job.each (j : Job) (f : Nat → A Unit) : Nat → Nat → A Unit
  | 0, _ => return ()
  | n + 1, e => do
    f e
    j.mark (e + 1)
    j.each f n (e + 1)
/-- Does the elements below `n` that are left, and answers `n`. -/
def Job.all (j : Job) (e : XEntry) (n : Nat) (f : Nat → A Unit) : A Word := do
  j.each f (n - e.elem) e.elem
  return BitVec.ofNat 64 n
/-- A failure changes the state by `f`. -/
def onFault {α : Type} (x : A α) (f : State → State) : A α := fun s =>
  match x s with
  | .error (.fault c sub v) s => .error (.fault c sub v) (f s)
  | r => r

/-! ### XCOPY, XFILL (R349, R353) -/

/-- XCOPY. -/
def Job.copy (j : Job) (e : XEntry) : A Word :=
  j.all e (recCount e.r2) fun i => do
    let v ← j.g.get e.r1 i
    j.g.put e.r2 i v
/-- XFILL. -/
def Job.fill (j : Job) (e : XEntry) : A Word :=
  let c := e.a2.toNat
  j.all e (recCount e.r1) fun i => j.g.put e.r1 i (c + 2 ^ 64 * c)

/-! ### XGATH2 (R350) -/

/-- The signed value of 32 bits. -/
def s32 (x : Nat) : Int := (BitVec.ofNat 32 x).toInt
/-- XGATH2: a failed origin read stops the command at the first element of its patch. -/
def Job.gath2 (j : Job) (e : XEntry) : A Word :=
  let img := e.r1
  let dst := e.r2
  let pw := patExtent dst 0
  let ph := patExtent dst 1
  j.all e (recCount dst) fun i => do
    let p := i / (pw * ph)
    let o ← onFault (j.g.readNat (patAux dst + BitVec.ofNat 64 (8 * p)) 8)
      fun s => s.modEntry j.cl j.ch fun (x : XEntry) => { x with elem := p * (pw * ph) }
    let x : Int := s32 o + (i % pw : Nat)
    let y : Int := s32 (o / 2 ^ 32) + (i / pw % ph : Nat)
    let w := patExtent img 0
    let v ← (if 0 ≤ x ∧ x < w ∧ 0 ≤ y ∧ y < patExtent img 1 then j.g.get img (x.toNat + w * y.toNat)
      else pure (patAux img).toNat)
    j.g.put dst i v

/-! ### XGATH, XSCAT (R351) -/

/-- Address of the indexed table element of ESIZE `size`, and the bit it starts at. -/
def tableAddr (idx : List Word) (size v : Nat) : Word × Nat :=
  let x : Int := if patSign idx then (sx (BitVec.ofNat (patBits idx) v)).toInt else v
  if size = 0 then (patAux idx + BitVec.ofInt 64 (Int.fdiv x 2), 4 * (Int.fmod x 2).toNat)
  else (patAux idx + BitVec.ofInt 64 (x * sizeOfCode size), 0)
/-- XGATH. -/
def Job.gath (j : Job) (e : XEntry) : A Word :=
  j.all e (recCount e.r2) fun i => do
    let x ← j.g.get e.r1 i
    let (va, bit) := tableAddr e.r1 (patEsize e.r2) x
    let v ← j.g.getAt (patEsize e.r2) va bit
    j.g.put e.r2 i v
/-- XSCAT. -/
def Job.scat (j : Job) (e : XEntry) : A Word :=
  j.all e (recCount e.r2) fun i => do
    let x ← j.g.get e.r1 i
    let v ← j.g.get e.r2 i
    let (va, bit) := tableAddr e.r1 (patEsize e.r2) x
    j.g.putAt (patEsize e.r2) va bit v

/-! ### XSLIDE (R352) -/

/-- Elements that share one outermost index. -/
def rowOf (r : List Word) : Nat :=
  let k := patNdim r
  (if 0 < k then patExtent r 0 else 1) * (if 1 < k then patExtent r 1 else 1) * (if 2 < k then patExtent r 2 else 1)
/-- XSLIDE: everything is checked and read before the first write; 4-bit elements also have theirs read then at a peer or the host. -/
def Job.slide (j : Job) (e : XEntry) : A Word := do
  let t := e.r1
  let w := e.r2
  let gone := patExtent t (patNdim t) * rowOf w
  let n := recCount w
  let tail ← j.g.gets t 0 (recCount t)
  j.g.checks w 0 n
  if patEsize w = 0 then
    j.g.nibblesReady w 0 n
  let old ← j.g.gets w gone (n - gone)
  j.g.puts w 0 (old ++ tail)
  return BitVec.ofNat 64 n

/-! ### XRED (R354) -/

/-- Format of a floating type of Table 12.4. -/
def redFmt (ty : BitVec 3) : Fmt := if ty = 4 then b64 else if ty = 5 then b32 else if ty = 6 then bf16 else b16
/-- ESIZE of a type of Table 12.4. -/
def redSize (ty : BitVec 3) : Nat :=
  match ty.toNat with
  | 0 => 1 | 1 => 2 | 2 => 3 | 3 => 4 | 4 => 4 | 5 => 3 | _ => 2
/-- FMIN and FMAX of R139 in a format: -0 lies below +0. -/
def fselIn (f : Fmt) (max : Bool) (x y : Nat) : Nat × Ev :=
  let a := f.decode x
  let b := f.decode y
  let e : Ev := if a.isSig || b.isSig then Ev.invalid else Ev.none
  if a.isNan then if b.isNan then ((firstNan f [a]).getD 0, e) else (y, e)
  else if b.isNan then (x, e)
  else
    let c := a.cmp b
    let less := c < 0 || (c = 0 && a.neg && !b.neg)
    let more := 0 < c || (c = 0 && b.neg && !a.neg)
    (if (if max then less else more) then y else x, e)
/-- One reduction of `w`-bit codes: result and events. -/
def redOp (max : Bool) (ty : BitVec 3) (sign : Bool) (d v : Nat) : Nat × Ev :=
  let w := 8 * sizeOfCode (redSize ty)
  if ty.toNat < 4 then
    let val (x : Nat) : Int := if sign && 2 ^ (w - 1) ≤ x then (x : Int) - (2 ^ w : Nat) else x
    (if max then (if val d < val v then v else d) else (d + v) % 2 ^ w, Ev.none)
  else
    let f := redFmt ty
    if max then fselIn f true d v
    else arith f 1 false [f.decode d, f.decode v] ((f.decode d).add 1 (f.decode v))
/-- Adds an element to a checksum and to the sum of magnitudes (R354). -/
def redSum (ty : BitVec 3) (sign : Bool) (sum mag : Word) (v : Nat) : Word × Word :=
  let w := 8 * sizeOfCode (redSize ty)
  if ty.toNat < 4 then (sum + (if sign then sx (BitVec.ofNat w v) else BitVec.ofNat 64 v), 0)
  else
    let x := (redFmt ty).decode v
    let a : FV := match x with | .fin _ n d => .fin false n d | .inf _ => .inf false | y => y
    let plus (s : Word) (y : FV) : Word := (codeW (arith b64 1 false [fv s, y] ((fv s).add 1 y))).1
    (plus sum x, plus mag a)
/-- Whether a received sum and the sender's checksum differ (R354). -/
def redMismatch (ty : BitVec 3) (n : Nat) (sum mag c : Word) : Bool :=
  if ty.toNat < 4 then sum != c
  else
    match fv sum, fv c, fv mag with
    | .fin s1 a b, .fin s2 p q, .fin _ u v =>
      let d := addFin 1 s1 a b (!s2) p q
      let d : FV := match d with | .fin _ x y => .fin false x y | z => z
      decide (0 < d.cmp (.fin false (n * u) (v * 2 ^ 50)))
    | .fin .., .fin .., _ => false
    | _, _, _ => sum != c
/-- Events as the outgoing record holds them. -/
def Ev.red (e : Ev) : Word :=
  (if e.nv then 1 else 0) ||| (if e.dz then 2 else 0) ||| (if e.of then 4 else 0) ||| (if e.uf then 8 else 0)
    ||| (if e.nx then 16 else 0)
/-- A mismatch is one detected-uncorrected event of the context, logged; its address is open (R354, R473, R476). -/
def State.mismatch (s : State) (w : Who) : State :=
  let pa := (Config.freeBits s.free).toNat % 2 ^ 52
  ({ s with free := s.free + 1 }.charge w.ctx true).logEvent pa w.ctx w.src (BitVec.ofNat 8 w.die) 2
/-- XRED: `acc` keeps the received sum, its magnitudes, the sum of results, its magnitudes, and the events. -/
def Job.red (j : Job) (e : XEntry) (max : Bool) (ty : BitVec 3) : A Word := do
  let n := recCount e.r2
  j.each (fun i => do
    let d ← j.g.get e.r2 i
    let v ← j.g.get e.r1 i
    let (r, ev) := redOp max ty (patSign e.r1) d v
    j.g.put e.r2 i r
    j.mod fun x =>
      let k (i : Nat) : Word := x.acc.getD i 0
      let (sx, ax) := redSum ty (patSign e.r1) (k 0) (k 1) v
      let (sr, ar) := redSum ty (patSign e.r2) (k 2) (k 3) r
      { x with acc := [sx, ax, sr, ar, k 4 ||| ev.red] }) (n - e.elem) e.elem
  let s ← get
  let k (i : Nat) : Word := match (s.chan j.cl j.ch).queue with | x :: _ => x.acc.getD i 0 | [] => 0
  let bad ← (if patAux e.r1 = 0 then pure false else do
    let c ← j.g.readNat (patAux e.r1) 8
    return redMismatch ty n (k 0) (k 1) (BitVec.ofNat 64 c))
  if patAux e.r2 ≠ 0 then
    j.g.write (patAux e.r2) (leBytes (k 2).toNat 8 ++ leBytes (k 3).toNat 8
      ++ leBytes (k 4 ||| (if bad then 0x100 else 0)).toNat 8 ++ leBytes 0 8)
  if bad then modify fun s => s.mismatch j.g.w
  return BitVec.ofNat 64 n ||| (if bad then 0x8000000000000000 else 0)

/-! ### XCKPT (R355) -/

/-- Fails where an address does not lie on this device (subcode 0x48). -/
def Job.local (j : Job) (acc : Acc) (va : Word) : A Place := do
  let (pl, _) ← check j.g.w acc va
  match pl with
  | .peer .. => failA .xfer 0x48 va
  | .host _ => failA .xfer 0x48 va
  | _ => return pl
/-- XCKPT: the count of changed blocks is kept in `acc`; the place of every block's copy is checked (DESIGN CHOICE log 99). -/
def Job.ckpt (j : Job) (e : XEntry) : A Word := do
  let at_ (i b k : Nat) : Word := e.r1.getD i 0 + BitVec.ofNat 64 (k * b)
  let n := recBits e.r1 1 0 32
  j.each (fun k => do
    let src := at_ 0 65536 k
    let hash := at_ 2 32 k
    let dst := at_ 3 65536 k
    let _ ← j.local .rd src
    let _ ← j.local .rd hash
    let _ ← j.local .rd dst
    let b ← j.g.read src 65536
    let h := sha256 b
    let old ← j.g.read hash 32
    if h ≠ old then
      let _ ← j.local .wr dst
      j.g.check hash 32
      j.g.write dst b
      j.g.write hash h
      j.mod fun x => { x with acc := [x.acc.getD 0 0 + 1] }) (n - e.elem) e.elem
  let s ← get
  return match (s.chan j.cl j.ch).queue with | x :: _ => x.acc.getD 0 0 | [] => 0

/-! ### XPROM (R356, R482, R483) -/

/-- One page of an XPROM: what it starts is credited to the command when it is done. -/
def State.movePage (s : State) (dem : Bool) (page : Nat) (deadline : Option Word) (ctx : Option Nat)
    (who : Nat × Nat × BitVec 32) : State :=
  if dem then
    if (Tab.find s.promoting page).isSome then { s with promoting := Tab.erase s.promoting page }
    else if (Tab.find s.promoted page).isSome && (Tab.find s.demoting page).isNone then
      { s with demoting := Tab.insert s.demoting page ⟨0, none, ctx, some who⟩ }
    else s
  else (s.promote page deadline ctx (some who)).getD s
/-- XPROM: completes when every move it started is over; `acc` counts the pages changed. -/
def Job.prom (j : Job) (e : XEntry) (dem : Bool) : A Word := do
  let n := bits e.a2 0 24
  let span := bits e.a2 24 40
  let deadline := if span = 0 then none else some (e.issued + BitVec.ofNat 64 span)
  let who := (j.cl, j.ch, e.id)
  j.each (fun i => do
    let va := e.a1 + BitVec.ofNat 64 (65536 * i)
    match ← j.local .rd va with
    | .mem pa => if capBase ≤ pa then modify fun s => s.movePage dem (pa / 65536) deadline j.g.w.ctx who
    | _ => return ()) (n - e.elem) e.elem
  let s ← get
  if s.promoting.any (fun p => p.2.owner == some who) || s.demoting.any (fun p => p.2.owner == some who) then
    throw (.hold .plain)
  return match (s.chan j.cl j.ch).queue with | x :: _ => x.acc.getD 0 0 | [] => 0
/-- Credits a finished move to the XPROM that started it. -/
def State.creditMove (s : State) (owner : Option (Nat × Nat × BitVec 32)) : State :=
  match owner with
  | none => s
  | some (cl, ch, id) =>
    s.modEntry cl ch fun (x : XEntry) => if x.id = id then { x with acc := [x.acc.getD 0 0 + 1] } else x

/-! ### XKV (R357) -/

/-- The slot a position names: its bytes, or none where it is rejected; the tag, the data and the tag again are read in
this order, each once. -/
def Job.slot (j : Job) (r : List Word) (pos : Nat) : A (Option (List Byte)) := do
  let b := recBits r 4 0 32
  let l := recBits r 1 0 32
  let w := recBits r 1 32 32
  if pos < l then return some (← j.once 1 (j.g.read (r.getD 0 0 + BitVec.ofNat 64 (pos * b)) b))
  if w = 0 then return none
  let k := (pos - l) % w
  let gen := (pos - l) / w % 2 ^ 32
  let tag := r.getD 3 0 + BitVec.ofNat 64 (4 * k)
  let g1 ← j.once 1 (j.g.read tag 4)
  let data ← j.once 2 (j.g.read (r.getD 2 0 + BitVec.ofNat 64 (k * b)) b)
  let g2 ← j.once 3 (j.g.read tag 4)
  return if leNat g1 = gen && leNat g2 = gen then some data else none
/-- Bytes of a mask of bits. -/
def maskBytes : Nat → List Word → List Byte
  | 0, _ => []
  | n + 1, bs =>
    BitVec.ofNat 8 ((bs.take 8).foldr (fun b a => (if b = 0 then 0 else 1) + 2 * a) 0) :: maskBytes n (bs.drop 8)
/-- XKV: `acc` keeps what each position gave. -/
def Job.kv (j : Job) (e : XEntry) : A Word := do
  let r := e.r1
  let n := recBits r 6 0 13
  let b := recBits r 4 0 32
  j.each (fun i => do
    let pos ← j.once 0 (j.g.read (r.getD 5 0 + BitVec.ofNat 64 (8 * i)) 8)
    let x ← j.slot r (leNat pos)
    j.g.write (e.a2 + BitVec.ofNat 64 (i * b)) (x.getD (List.replicate b 0))
    j.mod fun y => { y with acc := y.acc ++ [if x.isSome then 1 else 0] }) (n - e.elem) e.elem
  let s ← get
  let oks := match (s.chan j.cl j.ch).queue with | x :: _ => x.acc | [] => []
  j.g.write (r.getD 7 0) (maskBytes ((n + 7) / 8) oks)
  return oks.foldl (· + ·) 0

/-! ### XCLASS (R358) -/

/-- Source bytes of XCLASS lie on this device in class P or D. -/
def Job.classSource (j : Job) : Nat → Word → Nat → A Unit
  | 0, _, _ => return ()
  | fuel + 1, va, n => do
    if n = 0 then return ()
    let k := pageCut va n
    match ← j.local .rd va with
    | .mem pa =>
      if (← get).lineClass pa = 0 then failA .xfer 0x47 va
    | _ => failA .xfer 0x47 va
    j.classSource fuel (va + BitVec.ofNat 64 k) (n - k)
/-- Every source element is checked. -/
def Job.classSources (j : Job) (r : List Word) (e : Nat) : Nat → A Unit
  | 0 => return ()
  | n + 1 => do
    j.classSource 2 (patAddr r e).1 (patBytes r)
    j.classSources r (e + 1) n
/-- XCLASS: checks and reads come before any write. -/
def Job.xclass (j : Job) (e : XEntry) : A Word := do
  let n := recCount e.r2
  j.classSources e.r1 0 n
  j.g.checks e.r2 0 n
  let vs ← j.g.gets e.r1 0 n
  if patEsize e.r2 = 0 then
    j.g.nibblesReady e.r2 0 n
  j.g.puts e.r2 0 vs
  return BitVec.ofNat 64 n

end Sys2Proof.Machine
end

