-- ==== Sys2Proof/Machine/TransferIssue.lean ====
section
/-!
DEFINITION. Transfer engine: issue of commands (12 R337, R345, R349 to R358), waiting and status (12 R346, R347, R359,
R360), streams (12 R341 to R344), installs and removals of promoted pages (12 R356; 18 R482, R483).
-/
namespace Sys2Proof.Machine

/-! ### Issue (R345) -/

/-- A stopped command is delivered to its context: at an instruction that waits for an identifier at or after it (R359), and
at a command issued to its channel where it has not been delivered before (R346). -/
def deliverStop (cl ch : Nat) (upTo : Option (BitVec 32)) : M Unit := do
  let s ← get
  match (s.chan cl ch).queue with
  | e :: _ =>
    match e.stop with
    | some (c, sub, v) =>
      if e.ctx == s.here.ctx && (match upTo with | none => !e.told | some d => notAfter e.id d) then
        set (s.modEntry cl ch fun (x : XEntry) => { x with told := true })
        trapC c sub v
    | none => return ()
  | [] => return ()
/-- A command enters its channel's queue and its identifier goes to `a` (R332, R333, R345). -/
def accept (op : XOp) (a : BitVec 6) (ch : Nat) (r1 r2 : List Word) (a1 a2 : Word) : M Unit := do
  let s ← get
  let cl := clusterOf s.cur
  let c := s.chan cl ch
  if 16 ≤ c.queue.length then waitM
  releaseWait
  let s ← get
  let e : XEntry := ⟨op, c.next, s.cur, s.here.itemId, s.here.ctx, s.here.sup, r1, r2, a1, a2, s.cycle, s.here.retired, 0,
    [], none, none, false, s.here.wmset, []⟩
  set (s.setChan cl ch { c with next := c.next + 1, queue := c.queue ++ [e] })
  writeVal a (c.next.setWidth 64)
/-- A command with records at b and c. -/
def issue2 (h : Hdr) (op : XOp) (a b c : BitVec 6) (ch : BitVec 4)
    (checks : Word → Word → List Word → List Word → List RecCheck) (s : State) : Out :=
  runU user h (do
    let (vb, vc) ← read2 b c [a]
    deliverStop (clusterOf s.cur) ch.toNat none
    let r1 ← readRecord vb
    let r2 ← readRecord vc
    passChecks (checks vb vc r1 r2)
    accept op a ch.toNat r1 r2 vb vc) s
/-- A command with a record at b and a value in c. -/
def issue1 (h : Hdr) (op : XOp) (a b c : BitVec 6) (ch : BitVec 4) (checks : Word → List Word → List RecCheck)
    (s : State) : Out :=
  runU user h (do
    let (vb, vc) ← read2 b c [a]
    deliverStop (clusterOf s.cur) ch.toNat none
    let r ← readRecord vb
    passChecks (checks vb r)
    accept op a ch.toNat r [] vb vc) s
/-- Checks of two patterns, with the directions of their roles, the one that gives the burgee, and whether
fault-only-first is taken (Tables 12.2 and 12.3). -/
def pairChecks (d1 d2 : Nat) (bar1 fof : Bool) (vb vc : Word) (r1 r2 : List Word) : List RecCheck :=
  patChecks vb r1 d1 bar1 ++ patChecks vc r2 d2 (!bar1)
    ++ [(0x43, vb, !fof && patFmode r1 == 1), (0x43, vc, (!fof && patFmode r2 == 1) || patFmode r1 != patFmode r2)]

/-- XCOPY (R349). -/
def execXcopy (h : Hdr) (a b c : BitVec 6) (ch : BitVec 4) (s : State) : Out :=
  issue2 h .copy a b c ch (fun vb vc r1 r2 => pairChecks 0 1 false true vb vc r1 r2
    ++ [(0x44, vc, patEsize r1 != patEsize r2 || recCount r1 != recCount r2)]) s
/-- XGATH2 (R350). -/
def execXgath2 (h : Hdr) (a b c : BitVec 6) (ch : BitVec 4) (s : State) : Out :=
  issue2 h .gath2 a b c ch (fun vb vc r1 r2 => pairChecks 0 1 false false vb vc r1 r2
    ++ [(0x46, vb, patNdim r1 != 1),
      (0x46, vc, patNdim r2 != 2 || patEsize r1 != patEsize r2 || (patAux r2).toNat % 8 != 0)]) s
/-- Index patterns have ESIZE 3 or 4, and counts agree (R351). -/
def indexChecks (vb vc : Word) (r1 r2 : List Word) : List RecCheck :=
  [(0x46, vb, patEsize r1 != 3 && patEsize r1 != 4), (0x44, vc, recCount r1 != recCount r2)]
/-- XGATH (R351). -/
def execXgath (h : Hdr) (a b c : BitVec 6) (ch : BitVec 4) (s : State) : Out :=
  issue2 h .gath a b c ch (fun vb vc r1 r2 => pairChecks 0 1 false true vb vc r1 r2 ++ indexChecks vb vc r1 r2) s
/-- XSCAT (R351). -/
def execXscat (h : Hdr) (a b c : BitVec 6) (ch : BitVec 4) (s : State) : Out :=
  issue2 h .scat a b c ch (fun vb vc r1 r2 => pairChecks 0 0 true true vb vc r1 r2 ++ indexChecks vb vc r1 r2) s
/-- XSLIDE (R352). -/
def execXslide (h : Hdr) (a b c : BitVec 6) (ch : BitVec 4) (s : State) : Out :=
  issue2 h .slide a b c ch (fun vb vc r1 r2 =>
    let k := patNdim r1
    let q := patExtent r2 (patNdim r2)
    let n := patExtent r1 k
    pairChecks 0 1 false false vb vc r1 r2
      ++ [(0x44, vc, k != patNdim r2 || patEsize r1 != patEsize r2
          || (List.range 3).any fun i => decide (i < k) && patExtent r1 i != patExtent r2 i),
        (0x46, vb, n == 0 || decide (2 ^ 20 < patTotal r1 (recCount r1))),
        (0x46, vc, decide (q < n))]) s
/-- XFILL (R353). -/
def execXfill (h : Hdr) (a b c : BitVec 6) (ch : BitVec 4) (s : State) : Out :=
  issue1 h .fill a b c ch (fun vb r => patChecks vb r 1 true) s
/-- XRED (R354). -/
def issueRed (h : Hdr) (max : Bool) (a b c : BitVec 6) (ty : BitVec 3) (ch : BitVec 4) (s : State) : Out :=
  issue2 h (.red max ty) a b c ch (fun vb vc r1 r2 => pairChecks 0 1 false false vb vc r1 r2
    ++ [(0x44, vb, patEsize r1 != redSize ty), (0x44, vc, patEsize r2 != redSize ty || recCount r1 != recCount r2),
      (0x46, vb, (patAux r1).toNat % 16 != 0), (0x46, vc, (patAux r2).toNat % 32 != 0)]) s
/-- XRED.add (R354). -/
def execXredAdd (h : Hdr) (a b c : BitVec 6) (ty : BitVec 3) (ch : BitVec 4) (s : State) : Out :=
  issueRed h false a b c ty ch s
/-- XRED.max (R354). -/
def execXredMax (h : Hdr) (a b c : BitVec 6) (ty : BitVec 3) (ch : BitVec 4) (s : State) : Out :=
  issueRed h true a b c ty ch s
/-- XCKPT (R355, Table 12.5). -/
def execXckpt (h : Hdr) (a b : BitVec 6) (ch : BitVec 4) (s : State) : Out :=
  issue1 h .ckpt a b 0 ch (fun vb r =>
    let n := recBits r 1 0 32
    [(0x46, vb, n == 0 || decide (65536 < n) || recBits r 1 32 32 != 0 || (r.drop 4).any (· != 0)
      || (r.getD 0 0).toNat % 65536 != 0 || (r.getD 2 0).toNat % 32 != 0 || (r.getD 3 0).toNat % 65536 != 0)]) s
/-- XPROM (R356): a refusal of the count names the operand b, as the command has no record. -/
def issueProm (h : Hdr) (dem : Bool) (a b c : BitVec 6) (ch : BitVec 4) (s : State) : Out :=
  runU user h (do
    let (vb, vc) ← read2 b c [a]
    deliverStop (clusterOf s.cur) ch.toNat none
    needAlign vb 65536
    passChecks [(0x46, vb, bits vc 0 24 == 0)]
    accept (.prom dem) a ch.toNat [] [] vb vc) s
/-- XPROM.pro (R356). -/
def execXpromPro (h : Hdr) (a b c : BitVec 6) (ch : BitVec 4) (s : State) : Out := issueProm h false a b c ch s
/-- XPROM.dem (R356). -/
def execXpromDem (h : Hdr) (a b c : BitVec 6) (ch : BitVec 4) (s : State) : Out := issueProm h true a b c ch s
/-- XKV (R357, Table 12.6). -/
def execXkv (h : Hdr) (a b c : BitVec 6) (ch : BitVec 4) (s : State) : Out :=
  issue1 h .kv a b c ch (fun vb r =>
    let slot := recBits r 4 0 32
    [(0x41, vb, recBits r 4 32 32 != 0 || recBits r 6 13 51 != 0),
      (0x46, vb, decide (4096 < recBits r 6 0 13) || slot % 16 != 0 || slot == 0 || decide (65536 < slot)
        || (r.getD 3 0).toNat % 4 != 0 || (r.getD 5 0).toNat % 8 != 0)]) s
/-- XCLASS (R358). -/
def execXclass (h : Hdr) (a b c : BitVec 6) (ch : BitVec 4) (s : State) : Out :=
  issue2 h .xclass a b c ch (fun vb vc r1 r2 => pairChecks 0 1 false false vb vc r1 r2
    ++ [(0x44, vc, patEsize r1 != patEsize r2 || recCount r1 != recCount r2),
      (0x46, vb, decide (2 ^ 20 < patTotal r1 (recCount r1)))]) s

/-! ### Waiting and status -/

/-- XWAIT (R359). -/
def execXwait (h : Hdr) (a b : BitVec 6) (ch : BitVec 4) (s : State) : Out :=
  runU user h (do
    let x ← read1 b [a]
    let cl := clusterOf s.cur
    let c := (← get).chan cl ch.toNat
    let d := if notAfter (x.setWidth 32) (c.next - 1) then x.setWidth 32 else c.next - 1
    deliverStop cl ch.toNat (some d)
    if !c.complete d then waitM
    writeVal a (c.done.setWidth 64)) s
/-- A status function of a channel (R360). -/
def xstat (h : Hdr) (a b : BitVec 6) (ch : BitVec 4) (f : Chan → Word → Word) (s : State) : Out :=
  runU user h (do
    let x ← read1 b [a]
    writeVal a (f ((← get).chan (clusterOf s.cur) ch.toNat) x)) s
/-- The stop of a channel: its command, cause, subcode and EVAL. -/
def Chan.stopped (c : Chan) : Option (XEntry × BitVec 8 × BitVec 8 × Word) :=
  match c.queue with
  | e :: _ => e.stop.map fun x => (e, x)
  | [] => none
/-- XSTAT.done (R360). -/
def execXstatDone (h : Hdr) (a b : BitVec 6) (ch : BitVec 4) (s : State) : Out :=
  xstat h a b ch (fun c _ => c.done.setWidth 64) s
/-- XSTAT.next (R360). -/
def execXstatNext (h : Hdr) (a b : BitVec 6) (ch : BitVec 4) (s : State) : Out :=
  xstat h a b ch (fun c _ => c.next.setWidth 64) s
/-- XSTAT.val (R360, R334). -/
def execXstatVal (h : Hdr) (a b : BitVec 6) (ch : BitVec 4) (s : State) : Out :=
  xstat h a b ch (fun c x => match c.vals.find? fun p => p.1.setWidth 64 == x with
    | some p => p.2
    | none => 0xFFFFFFFFFFFFFFFF) s
/-- XSTAT.fault (R360). -/
def execXstatFault (h : Hdr) (a b : BitVec 6) (ch : BitVec 4) (s : State) : Out :=
  xstat h a b ch (fun c _ => match c.stopped with
    | some (e, code, sub, _) => (e.id.setWidth 64 <<< 32) ||| (sub.setWidth 64 <<< 8) ||| code.setWidth 64
    | none => 0) s
/-- XSTAT.faddr (R360). -/
def execXstatFaddr (h : Hdr) (a b : BitVec 6) (ch : BitVec 4) (s : State) : Out :=
  xstat h a b ch (fun c _ => match c.stopped with | some (_, _, _, v) => v | none => 0) s
/-- A function that acts on a stopped command: another context's raises PRIV in user mode (R347, R360). What the command had
asked of a peer or the host ends with its stop. -/
def xsteer (h : Hdr) (a b : BitVec 6) (ch : BitVec 4) (f : Chan → Word × Chan) (s : State) : Out :=
  runU user h (do
    let _ ← read1 b [a]
    let cl := clusterOf s.cur
    let c := (← get).chan cl ch.toNat
    match c.stopped with
    | none => writeVal a 0
    | some (e, _) =>
      if e.ctx != (← getHere).ctx && !(← getHere).sup then trapI .priv 0 0
      let (v, c) := f c
      modify fun s => (dropAsks (.chan cl ch.toNat) (s.setChan cl ch.toNat c)).prune
      writeVal a v) s
/-- XSTAT.resume (R347, R360). -/
def execXstatResume (h : Hdr) (a b : BitVec 6) (ch : BitVec 4) (s : State) : Out :=
  xsteer h a b ch (fun c => (1, match c.queue with
    | e :: q => { c with queue := { e with stop := none, told := false } :: q }
    | [] => c)) s
/-- XSTAT.abort (R347, R360). -/
def execXstatAbort (h : Hdr) (a b : BitVec 6) (ch : BitVec 4) (s : State) : Out :=
  xsteer h a b ch (fun c => (BitVec.ofNat 64 c.queue.length, c.abort c.queue.length)) s

/-! ### Streams -/

/-- SfreeSteps: an output stream is unbound when all it holds is written; a failure of it is delivered (R343, R344). Reads
asked for an input stream are discarded with what is buffered: no later binding takes them (R342). -/
def sfreeSteps (z : Nat) : M Unit := do
  let st ← getHere
  if st.lent z then waitM
  match Tab.find st.streams z with
  | none => return ()
  | some x =>
    if x.out then
      match x.fail with
      | some (c, sub, val) =>
        modHere fun st => { st with streams := Tab.insert st.streams z { x with fail := none } }
        trapC c sub val
      | none => if !x.buf.isEmpty then waitM
    modify fun s => dropAsks (.stream s.cur z) s
    modHere fun st => { st with streams := Tab.erase st.streams z }
/-- SBIND (R341, R344). -/
def execSbind (h : Hdr) (z : BitVec 4) (b : BitVec 6) (s : State) : Out :=
  runU user h (do
    let vb ← read1 b []
    let r ← readRecord vb
    passChecks (patChecks vb r (patDir r) false ++ [(0x43, vb, patFmode r == 1), (0x46, vb, patEsize r == 5)])
    sfreeSteps z.toNat
    releaseWait
    modHere fun st =>
      { st with streams := Tab.insert st.streams z.toNat ⟨r, patDir r == 1, st.sup, 0, [], none⟩ }) s
/-- SFREE (R344). -/
def execSfree (h : Hdr) (z : BitVec 4) (s : State) : Out := runU user h (sfreeSteps z.toNat) s

/-- The engine of stream `z` of strand `n`: it checks against the mode of the binding strand (R158). -/
def State.streamEng (s : State) (n z : Nat) (sup : Bool) : Eng :=
  let st := s.strand n
  ⟨⟨some st.ctx, dieOf n, clusterOf n, sup, true, 2, .stream n z, false, .alloc⟩, st.wmset⟩
/-- The first pages, after those in `seen`, that the elements of a pattern from ordinal `e` on lie in, two at most. -/
def nextPages (r : List Word) : Nat → Nat → List Nat → List Nat
  | 0, _, seen => seen
  | n + 1, e, seen =>
    if 3 ≤ seen.length then seen
    else
      let p := bits (patAddr r e).1 16 40
      nextPages r n (e + 1) (if seen.contains p then seen else seen ++ [p])
/-- A translation is made ready in the die's unit: its entry keeps A until it is used (R179, R340). -/
def prepare (w : Who) (va : Word) (s : State) : State :=
  if bits va 56 8 ≠ 0 || inWindow va || (s.die w.die).tlb.any (fun t => t.covers (w.ctx.getD 0) va) then s
  else match walk w (s.ctxOf (w.ctx.getD 0)).root va s with
    | .ok t s => s.setDie w.die { s.die w.die with tlb := t :: (s.die w.die).tlb }
    | .error _ s => s
/-- A stream keeps the translations of the next two pages of its pattern ready (R340). -/
def prepareStream (w : Who) (r : List Word) (e : Nat) (s : State) : State :=
  ((nextPages r (recCount r - e) e []).drop 1).foldl (fun s p => prepare w (BitVec.ofNat 64 (p * 65536)) s) s
/-- An element as a 64-bit value (R341). -/
def elemValue (r : List Word) (v : Nat) : Word :=
  if patSign r then sx (BitVec.ofNat (patBits r) v) else BitVec.ofNat 64 v
/-- What a failure leaves for delivery: EVAL holds the element address, or the line of uncorrectable data (R343, R469). -/
def streamFail (r : List Word) (e : Nat) (c sub : BitVec 8) (v : Word) : BitVec 8 × BitVec 8 × Word :=
  (c, sub, if c = Cause.uncorrectable.code then v else (patAddr r e).1)
/-- STREAM_FILL: reads the next element, 64 ahead at most (R341 to R343). -/
def streamFill (n z : Nat) (s : State) : State :=
  match Tab.find (s.strand n).streams z with
  | none => s
  | some x =>
    let e := x.next + x.buf.length
    if x.out || x.fail.isSome || 64 ≤ x.buf.length || recCount x.record ≤ e then s
    else
      let put (s : State) (y : Stream) : State :=
        wake (dropAnswers (.stream n z)
          (s.setStrand n { s.strand n with streams := Tab.insert (s.strand n).streams z y }))
      let s := prepareStream (s.streamEng n z x.sup).w x.record e s
      match (s.streamEng n z x.sup).get x.record e s with
      | .ok v s => put s { x with buf := x.buf ++ [elemValue x.record v] }
      | .error (.fault c sub v) s => put s { x with fail := some (streamFail x.record e c sub v) }
      | .error (.hold _) s => s
/-- STREAM_DRAIN: writes the oldest element enqueued (R341 to R343). -/
def streamDrain (n z : Nat) (s : State) : State :=
  match Tab.find (s.strand n).streams z with
  | none => s
  | some x =>
    match x.buf with
    | [] => s
    | v :: rest =>
      let e := x.next - x.buf.length
      if !x.out || x.fail.isSome then s
      else
        let put (s : State) (y : Stream) : State :=
          wake (dropAnswers (.stream n z)
            (s.setStrand n { s.strand n with streams := Tab.insert (s.strand n).streams z y }))
        let s := prepareStream (s.streamEng n z x.sup).w x.record e s
        match (s.streamEng n z x.sup).put x.record e v.toNat s with
        | .ok _ s => put s { x with buf := rest }
        | .error (.fault c sub w) s => put s { x with fail := some (streamFail x.record e c sub w) }
        | .error (.hold _) s => s
/-- STREAM_FILL (R342). -/
def execStreamFill (n : BitVec 10) (z : BitVec 4) (s : State) : Out := .next (tick 1 (streamFill n.toNat z.toNat s))
/-- STREAM_DRAIN (R342). -/
def execStreamDrain (n : BitVec 10) (z : BitVec 4) (s : State) : Out := .next (tick 1 (streamDrain n.toNat z.toNat s))

/-! ### Promotion and demotion (R356, R482, R483) -/

/-- The memory-side units as an agent that copies a page for a context. -/
def copyWho (ctx : Option Nat) : Who := ⟨ctx, 0, 0, true, true, 5, .agent 0x10000, false, .alloc⟩
/-- A page is read where it lies and encoded anew where it goes: corrected lines are clean there, uncorrectable ones stay
poisoned (R468, R473, R482). -/
def State.copyPage (s : State) (ctx : Option Nat) (page : Nat) : State :=
  (((s.poisoned ++ s.flips.map Prod.fst).eraseDups.filter fun l => l / 1024 == page).foldl
    (fun s l => (readLine (copyWho ctx) l s).2) s)
/-- An install: one instant at the memory-side unit; a late one adds to PROMLATE, which saturates. -/
def promotionInstall (page : Nat) (s : State) : State :=
  match Tab.find s.promoting page with
  | none => s
  | some p =>
    let late := match p.deadline with | some d => decide (d.toNat < s.cycle.toNat) | none => false
    let s := s.copyPage p.ctx page
    wake ({ s with
      promoting := Tab.erase s.promoting page
      promoted := Tab.insert s.promoted page p.frame
      promlate := if late && s.promlate != 0xFFFFFFFF then s.promlate + 1 else s.promlate }.creditMove p.owner)
/-- A removal: one instant at the memory-side unit. -/
def demotionRemove (page : Nat) (s : State) : State :=
  match Tab.find s.demoting page with
  | none => s
  | some p =>
    let s := s.copyPage p.ctx page
    wake ({ s with
      demoting := Tab.erase s.demoting page
      promoted := Tab.erase s.promoted page }.creditMove p.owner)
/-- PROMOTION_INSTALL (R483). -/
def execPromotionInstall (pa : BitVec 52) (s : State) : Out := .next (tick 1 (promotionInstall (pa.toNat / 65536) s))
/-- DEMOTION_REMOVE (R483). -/
def execDemotionRemove (pa : BitVec 52) (s : State) : Out := .next (tick 1 (demotionRemove (pa.toNat / 65536) s))

end Sys2Proof.Machine
end

