-- ==== Sys2Proof/Machine/BTree.lean ====
section
/-!
DEFINITION. The tree of a region: lookup, insertion with its splits, removal with its merges (17 R438 to R440), and the
keys of a box (17 R436, R451).
-/
namespace Sys2Proof.Machine

/-- An absent node. -/
def TNode.none : TNode := ⟨[], [], []⟩
/-- Node `i`. -/
def Region.node (r : Region) (i : Nat) : TNode := (Tab.find r.nodes i).getD TNode.none
/-- Writes node `i`. -/
def Region.setNode (r : Region) (i : Nat) (x : TNode) : Region := { r with nodes := Tab.insert r.nodes i x }
/-- Returns node `i` to the pool. -/
def Region.freeNode (r : Region) (i : Nat) : Region := { r with nodes := Tab.erase r.nodes i }
/-- A number no node has. -/
def Region.freshNode (r : Region) : Nat := match r.nodes.getLast? with | some p => p.1 + 1 | none => 0
/-- Free nodes of the pool. -/
def Region.free (r : Region) : Nat := 256 * r.pages.length - r.nodes.length
/-- Whether a node is a leaf. -/
def TNode.isLeaf (x : TNode) : Bool := x.kids.isEmpty
/-- Number of the child that a key belongs to: separators are the lowest keys of the nodes to their right. -/
def TNode.child (x : TNode) (k : Nat) : Nat := (x.seps.filter (· ≤ k)).length

/-- Every pair below a node, in ascending key. -/
def Region.pairsAt (r : Region) : Nat → Nat → List (Nat × Nat)
  | 0, _ => []
  | fuel + 1, i =>
    let x := r.node i
    if x.isLeaf then x.kvs else x.kids.flatMap (r.pairsAt fuel)
/-- Every pair of the region. -/
def Region.pairs (r : Region) : List (Nat × Nat) := r.pairsAt r.depth r.root
/-- Nodes on the way from a node down to the leaf of a key. -/
def Region.pathAt (r : Region) (k : Nat) : Nat → Nat → List Nat
  | 0, _ => []
  | fuel + 1, i =>
    let x := r.node i
    if x.isLeaf then [i] else i :: r.pathAt k fuel (x.kids.getD (x.child k) 0)
/-- Nodes on the way from the root to the leaf of a key. -/
def Region.path (r : Region) (k : Nat) : List Nat := r.pathAt k r.depth r.root
/-- The pattern of a key, 0 where it is absent (R437). -/
def Region.get (r : Region) (k : Nat) : Nat :=
  let leaf := r.node ((r.path k).getLast?.getD 0)
  match leaf.kvs.find? fun p => p.1 == k with | some p => p.2 | none => 0
/-- Whether a node has no room. -/
def TNode.full (x : TNode) : Bool := if x.isLeaf then x.kvs.length == 15 else x.kids.length == 16
/-- Needed(k) of R440. -/
def Region.needed (r : Region) (k : Nat) : Nat :=
  let up := (r.path k).reverse
  let run := (up.takeWhile fun i => (r.node i).full).length
  if run = up.length then run + 1 else run

/-- A pair put in its place among the pairs of a leaf. -/
def putPair (k v : Nat) : List (Nat × Nat) → List (Nat × Nat)
  | [] => [(k, v)]
  | p :: t => if k < p.1 then (k, v) :: p :: t else if p.1 = k then (k, v) :: t else p :: putPair k v t
/-- Writes a pair below node `i`; answers the separator and the node of a split (R439). -/
def Region.insertAt (k v : Nat) : Nat → Nat → Region → Region × Option (Nat × Nat)
  | 0, _, r => (r, none)
  | fuel + 1, i, r =>
    let x := r.node i
    if x.isLeaf then
      let kvs := putPair k v x.kvs
      if kvs.length ≤ 15 then (r.setNode i { x with kvs := kvs }, none)
      else
        let j := r.freshNode
        let up := kvs.drop 8
        ((r.setNode i { x with kvs := kvs.take 8 }).setNode j { x with kvs := up }, some ((up.headD (0, 0)).1, j))
    else
      let c := x.child k
      match Region.insertAt k v fuel (x.kids.getD c 0) r with
      | (r, none) => (r, none)
      | (r, some (sep, j)) =>
        let seps := x.seps.take c ++ [sep] ++ x.seps.drop c
        let kids := x.kids.take (c + 1) ++ [j] ++ x.kids.drop (c + 1)
        if kids.length ≤ 16 then (r.setNode i { x with seps := seps, kids := kids }, none)
        else
          let n := r.freshNode
          ((r.setNode i { x with seps := seps.take 7, kids := kids.take 8 }).setNode n
            { x with seps := seps.drop 8, kids := kids.drop 8 }, some (seps.getD 7 0, n))
/-- Writes a pair (R439). -/
def Region.insert (k v : Nat) (r : Region) : Region :=
  match Region.insertAt k v r.depth r.root r with
  | (r, none) => r
  | (r, some (sep, j)) =>
    let n := r.freshNode
    { r.setNode n ⟨[], [sep], [r.root, j]⟩ with root := n, depth := r.depth + 1 }

/-- Whether a node that is not the root is left too small. -/
def TNode.small (x : TNode) : Bool := if x.isLeaf then decide (x.kvs.length < 4) else decide (x.kids.length < 4)
/-- Merges the children `c` and `c + 1` of node `i` where they fit into one node; an only child has no neighbour (R439). -/
def Region.merge (r : Region) (i c : Nat) : Region :=
  let x := r.node i
  let a := x.kids.getD c 0
  let b := x.kids.getD (c + 1) 0
  let l := r.node a
  let h := r.node b
  let parent : TNode := { x with seps := x.seps.eraseIdx c, kids := x.kids.eraseIdx (c + 1) }
  if l.isLeaf then
    if l.kvs.length + h.kvs.length ≤ 15 then
      ((r.setNode a { l with kvs := l.kvs ++ h.kvs }).freeNode b).setNode i parent
    else r
  else if l.kids.length + h.kids.length ≤ 16 then
    ((r.setNode a { l with seps := l.seps ++ [x.seps.getD c 0] ++ h.seps, kids := l.kids ++ h.kids }).freeNode b).setNode i parent
  else r
/-- Removes a key below node `i`, with the merges this leads to (R439). -/
def Region.removeAt (k : Nat) : Nat → Nat → Region → Region
  | 0, _, r => r
  | fuel + 1, i, r =>
    let x := r.node i
    if x.isLeaf then r.setNode i { x with kvs := x.kvs.filter fun p => p.1 != k }
    else
      let c := x.child k
      let r := Region.removeAt k fuel (x.kids.getD c 0) r
      if 1 < x.kids.length && (r.node (x.kids.getD c 0)).small then r.merge i (if c + 1 = x.kids.length then c - 1 else c) else r
/-- Removes a key that is present; a root left with one child gives way to it (R439). -/
def Region.remove (k : Nat) (r : Region) : Region :=
  let r := Region.removeAt k r.depth r.root r
  let x := r.node r.root
  match x.kids with
  | [c] => { r.freeNode r.root with root := c, depth := r.depth - 1 }
  | _ => r

/-! ### Keys and boxes (R436, R451) -/

/-- Width of the key. -/
def Region.width (r : Region) : Nat := r.widths.foldl (· + ·) 0
/-- Whether the coordinates of a key lie in a box, dimension by dimension from the last. -/
def inBoxGo (k : Nat) : List (Nat × Word × Word) → Bool
  | [] => true
  | (w, lo, hi) :: t =>
    let c := k % 2 ^ w
    decide (lo.toNat ≤ c) && decide (c ≤ hi.toNat) && inBoxGo (k / 2 ^ w) t
/-- Dimensions of a box with their widths. -/
def Region.dims (r : Region) (box : List Word) : List (Nat × Word × Word) :=
  r.widths.zipIdx.map fun (w, d) => (w, box.getD d 0, box.getD (4 + d) 0)
/-- Whether a key's coordinates lie in a box. -/
def Region.inBox (r : Region) (box : List Word) (k : Nat) : Bool := inBoxGo k (r.dims box).reverse
/-- Whether a box record breaks R451. -/
def Region.boxBad (r : Region) (box : List Word) : Bool :=
  (r.dims box).any (fun (w, lo, hi) => decide (2 ^ w ≤ lo.toNat) || decide (2 ^ w ≤ hi.toNat))
    || (List.range 4).any fun d => decide (r.widths.length ≤ d) && (box.getD d 0 != 0 || box.getD (4 + d) 0 != 0)
/-- Bounds HI - LO + 1 of the dimensions. -/
def boxSpan (lo hi : Word) : Nat := hi.toNat + 1 - lo.toNat
/-- Volume of a box (R451). -/
def Region.volume (r : Region) (box : List Word) : Nat :=
  (r.dims box).foldl (fun v (_, lo, hi) => v * boxSpan lo hi) 1
/-- Key of the e-th coordinates of a box, the last dimension fastest; dimensions come from the last. -/
def boxKeyGo (e : Nat) : List (Nat × Word × Word) → Nat
  | [] => 0
  | (w, lo, hi) :: t =>
    let n := boxSpan lo hi
    lo.toNat + e % n + 2 ^ w * boxKeyGo (e / n) t
/-- Key of the e-th coordinates of a box (R457). -/
def Region.boxKey (r : Region) (box : List Word) (e : Nat) : Nat := boxKeyGo e (r.dims box).reverse

end Sys2Proof.Machine
end

