-- ==== Sys2Proof/Machine/Tree.lean ====
section
/-!
DEFINITION. Index-tree engine: issue of tree instructions (17 R445 to R456), their application at the home unit (17 R440
to R442), pending refusals (17 R446).
-/
namespace Sys2Proof.Machine

/-! ### Issue (R445) -/

/-- TREE_FAULT at issue: a command delivery of the instruction itself. -/
def treeRefuse {α : Type} (sub : BitVec 8) (val : Word) : M α := trapC Cause.tree.code sub val
/-- Whether a region belongs to context `c` as it is now: its number, in its world (R434). -/
def Region.ofCtx (r : Region) (s : State) (c : Nat) : Bool := r.ctx == c && r.sec == (s.ctxOf c).sec
/-- The region a handle names, configured and not freed, of the running context; `any` lets another context's through. -/
def regionOf (h : Word) (any : Bool) : M Region := do
  let s ← get
  match Tab.find s.regions h.toNat with
  | some r => if r.closing || (!r.ofCtx s s.here.ctx && !any) then treeRefuse 1 h else return r
  | none => treeRefuse 1 h
/-- A key has no bit at or above W (R436). -/
def checkKey (r : Region) (h k : Word) : M Unit := if 2 ^ r.width ≤ k.toNat then treeRefuse 2 h else return ()
/-- Sends an operation to its home unit (R445 step 4). -/
def sendTree (h : Word) (r : Region) (work : TWork) (syms : List Nat) (out : Option (BitVec 6)) : M Unit := do
  let s ← get
  let op : TOp := ⟨s.nextTree, h.toNat, r.uid, s.cur, work, syms, out.map BitVec.toNat, false⟩
  set { s with treeOps := s.treeOps ++ [op], nextTree := s.nextTree + 1 }
  match out with
  | some d =>
    if d ≠ 0 then modHere fun st => { st.forget d.toNat with outs := Tab.insert st.outs d.toNat op.seq }
  | none => return ()
/-- Allocates the symbol of a tree result; s0 takes none (R189). -/
def treeSym (d : BitVec 6) : M (List Nat) := do
  if d = 0 then return []
  let k := (← getHere).freeSym
  allocSym d ⟨.tree, 2, none, false, false, false, 0, none⟩
  return k.toList
/-- An instruction on one key that brings no symbol. -/
def treeKey (h : Hdr) (a b c : BitVec 6) (bad : Region → Bool) (work : Nat → Word → TWork) (s : State) : Out :=
  runU user h (do
    let (v, hd, k) ← read3 a b c []
    let r ← regionOf hd false
    checkKey r hd k
    if bad r then treeRefuse 9 hd
    sendTree hd r (work k.toNat v) [] none) s

/-- SPLD (R448). -/
def execSpld (h : Hdr) (a b c : BitVec 6) (s : State) : Out :=
  runU user h (do
    let (hd, k) ← read2 b c []
    let r ← regionOf hd false
    checkKey r hd k
    let ks ← treeSym a
    sendTree hd r (.ld k.toNat) ks none) s
/-- SPST (R448). -/
def execSpst (h : Hdr) (a b c : BitVec 6) (s : State) : Out :=
  treeKey h a b c (fun _ => false) (fun k v => .st k v.toNat) s
/-- SPAMO: .f does not go with 1-byte elements (R449). -/
def spamo (h : Hdr) (op : TAmo) (a b c : BitVec 6) (ty : BitVec 2) (s : State) : Out :=
  treeKey h a b c (fun r => ty == 2 && r.esz == 1) (fun k v => .amo op ty k v.toNat) s
/-- SPAMO.add (R449). -/
def execSpamoAdd (h : Hdr) (a b c : BitVec 6) (ty : BitVec 2) (s : State) : Out := spamo h .add a b c ty s
/-- SPAMO.min (R449). -/
def execSpamoMin (h : Hdr) (a b c : BitVec 6) (ty : BitVec 2) (s : State) : Out := spamo h .min a b c ty s
/-- SPAMO.max (R449). -/
def execSpamoMax (h : Hdr) (a b c : BitVec 6) (ty : BitVec 2) (s : State) : Out := spamo h .max a b c ty s
/-- SPAMO.swap (R449). -/
def execSpamoSwap (h : Hdr) (a b c : BitVec 6) (ty : BitVec 2) (s : State) : Out := spamo h .swap a b c ty s
/-- SPNEXT and SPPREV: two symbols, the lower-numbered for a (R450). -/
def neighbour (h : Hdr) (up eq : Bool) (a b c : BitVec 6) (s : State) : Out :=
  runU user h (do
    let (hd, k) ← read2 b c []
    let r ← regionOf hd false
    checkKey r hd k
    let x ← treeSym a
    let y ← treeSym (a + 1)
    sendTree hd r (.next up eq k.toNat) (x ++ y) none) s
/-- SPNEXT.gt (R450). -/
def execSpnextGt (h : Hdr) (a b c : BitVec 6) (s : State) : Out := neighbour h true false a b c s
/-- SPNEXT.ge (R450). -/
def execSpnextGe (h : Hdr) (a b c : BitVec 6) (s : State) : Out := neighbour h true true a b c s
/-- SPPREV.lt (R450). -/
def execSpprevLt (h : Hdr) (a b c : BitVec 6) (s : State) : Out := neighbour h false false a b c s
/-- SPPREV.le (R450). -/
def execSpprevLe (h : Hdr) (a b c : BitVec 6) (s : State) : Out := neighbour h false true a b c s
/-- SPCNT and SPDEL: the box record is read and checked (R451, R452). -/
def boxOp (h : Hdr) (a b c : BitVec 6) (work : List Word → TWork) (s : State) : Out :=
  runU user h (do
    let (hd, vb) ← read2 b c [a]
    let box ← readRecord vb
    let r ← regionOf hd false
    if r.boxBad box then treeRefuse 3 hd
    sendTree hd r (work box) [] (some a)) s
/-- SPCNT (R452). -/
def execSpcnt (h : Hdr) (a b c : BitVec 6) (s : State) : Out := boxOp h a b c .cnt s
/-- SPDEL (R452). -/
def execSpdel (h : Hdr) (a b c : BitVec 6) (s : State) : Out := boxOp h a b c .del s
/-- SPSTAT (R454). -/
def spstat (h : Hdr) (i : TItem) (a b : BitVec 6) (s : State) : Out :=
  runU user h (do
    let hd ← read1 b [a]
    let r ← regionOf hd false
    sendTree hd r (.stat i) [] (some a)) s
/-- SPSTAT.keys (R454). -/
def execSpstatKeys (h : Hdr) (a b : BitVec 6) (s : State) : Out := spstat h .keys a b s
/-- SPSTAT.nodes (R454). -/
def execSpstatNodes (h : Hdr) (a b : BitVec 6) (s : State) : Out := spstat h .nodes a b s
/-- SPSTAT.free (R454). -/
def execSpstatFree (h : Hdr) (a b : BitVec 6) (s : State) : Out := spstat h .free a b s
/-- SPSTAT.depth (R454). -/
def execSpstatDepth (h : Hdr) (a b : BitVec 6) (s : State) : Out := spstat h .depth a b s
/-- SPSTAT.status (R454). -/
def execSpstatStatus (h : Hdr) (a b : BitVec 6) (s : State) : Out := spstat h .status a b s
/-- SPSTAT.pages (R454). -/
def execSpstatPages (h : Hdr) (a b : BitVec 6) (s : State) : Out := spstat h .pages a b s

/-- Whether a physical page lies in a pool, or is on its way into one. -/
def State.pooled (s : State) (page : Nat) : Bool :=
  s.regions.any (fun p => p.2.pages.contains page)
    || s.treeOps.any fun o => match o.work with | .pool ps => ps.contains page | _ => false
/-- Checks `n` pool pages from `va`: R158 as a write with EOWN required; answers their physical numbers. What is no page
of this device, not engine-owned, or in a pool already is refused with subcode 7 and `ev` of the page (R447). -/
def poolPages (ev : Word → Word) : Nat → Word → List Nat → M (List Nat)
  | 0, _, acc => return acc
  | n + 1, va, acc => do
    let w ← whoHere
    let s ← get
    match (if inWindow va then check w .wr va else translateAs true w .wr va) s with
    | .ok (.mem pa, _) s =>
      set s
      if s.pooled (pa / 65536) || acc.contains (pa / 65536) then treeRefuse 7 (ev va)
      poolPages ev n (va + 65536) (acc ++ [pa / 65536])
    | .ok _ s =>
      set s
      treeRefuse 7 (ev va)
    | .error (.fault c sub v) s =>
      set s
      if c = Cause.owner.code then treeRefuse 7 (ev va)
      throw (.trap ⟨c, sub, v, .instr, false⟩)
    | .error (.hold w) s =>
      set s
      waitM w
/-- Whether a region descriptor breaks Table 17.1. -/
def descriptorBad (r : List Word) : Bool :=
  let nd := recBits r 2 32 2
  let w (d : Nat) : Nat := recBits r 2 (8 * d) 8
  (r.getD 0 0).toNat % 65536 != 0 || recBits r 1 16 48 != 0 || recBits r 1 0 16 == 0 || recBits r 2 38 26 != 0
    || recBits r 2 34 2 != 0 || recBits r 3 4 60 != 0 || decide (11 < recBits r 3 0 4) || (r.drop 4).any (· != 0)
    || ((List.range 4).any fun d => if d ≤ nd then w d == 0 || decide (64 < w d) else w d != 0)
    || decide (64 < (List.range (nd + 1)).foldl (fun t d => t + w d) 0)
/-- The lowest free slot of a unit. -/
def State.freeSlot (s : State) (unit : Nat) : Option Nat :=
  (List.range 1024).find? fun i => (Tab.find s.regions (unit * 4096 + i)).isNone
/-- SPCFG (R447). -/
def execSpcfg (h : Hdr) (a b : BitVec 6) (s : State) : Out :=
  runU user h (do
    let vb ← read1 b [a]
    let d ← readRecord vb
    if descriptorBad d then treeRefuse 6 vb
    let pages ← poolPages id (recBits d 1 0 16) (d.getD 0 0) []
    let s ← get
    let unit := recBits d 3 0 4
    match s.freeSlot unit with
    | none => treeRefuse 8 vb
    | some i =>
      let r : Region := ⟨s.nextTree, s.here.ctx, (s.ctxOf s.here.ctx).sec, 2 ^ recBits d 2 36 2,
        (List.range (recBits d 2 32 2 + 1)).map fun k => recBits d 2 (8 * k) 8, pages, [(0, TNode.none)], 0, 1, 0, false,
        false, false⟩
      set { s with regions := Tab.insert s.regions (unit * 4096 + i) r, nextTree := s.nextTree + 1 }
      writeVal a (BitVec.ofNat 64 (unit * 4096 + i))) s
/-- SPPOOL (R455). -/
def execSppool (h : Hdr) (a b c : BitVec 6) (n : BitVec 16) (s : State) : Out :=
  runU user h (do
    let (hd, va) ← read2 b c [a]
    let r ← regionOf hd false
    if n = 0 || va.toNat % 65536 ≠ 0 then treeRefuse 7 hd
    let pages ← poolPages (fun _ => hd) n.toNat va []
    sendTree hd r (.pool pages) [] (some a)) s
/-- SPFREE: a supervisor frees any region (R456). -/
def execSpfree (h : Hdr) (a b : BitVec 6) (s : State) : Out :=
  runU user h (do
    let hd ← read1 b [a]
    let r ← regionOf hd (← getHere).sup
    modify fun s => { s with regions := Tab.insert s.regions hd.toNat { r with closing := true } }
    sendTree hd r .free [] (some a)) s

/-! ### Pending refusals (R446) -/

/-- Whether a strand has tree operations not yet applied. -/
def State.treeBusy (s : State) (n : Nat) : Bool := s.treeOps.any fun o => o.n == n && !o.gone
/-- Delivers a pending refusal. -/
def deliverTree : M Unit := do
  match (← getHere).refusal with
  | some x =>
    modHere fun st => { st with refusal := none }
    trapC x.cause x.sub (x.handle.setWidth 64)
  | none => return ()
/-- SPWAIT (R453). -/
def execSpwait (h : Hdr) (s : State) : Out :=
  runU user h (do
    let s ← get
    if s.treeBusy s.cur then waitM
    deliverTree) s
/-- A refusal or fault becomes pending; the first to be reported stays (R446). -/
def Strand.pendTree (st : Strand) (c : Cause) (sub : BitVec 8) (handle : Nat) : Strand :=
  { st with refusal := some (st.refusal.getD ⟨c.code, sub, BitVec.ofNat 16 handle⟩) }

/-! ### Application (R440 to R442) -/

/-- SPAMO's new pattern (Table 17.4). -/
def treeAmo (op : TAmo) (ty : BitVec 2) (esz m o : Nat) : Nat :=
  let w := 8 * esz
  let f := if esz = 2 then b16 else if esz = 4 then b32 else b64
  let val (x : Nat) : Int := if ty = 0 && 2 ^ (w - 1) ≤ x then (x : Int) - (2 ^ w : Nat) else x
  match op with
  | .swap => o
  | .add => if ty = 2 then (arith f 1 false [f.decode m, f.decode o] ((f.decode m).add 1 (f.decode o))).1 else (m + o) % 2 ^ w
  | .min => if ty = 2 then (fselIn f false m o).1 else if val o < val m then o else m
  | .max => if ty = 2 then (fselIn f true m o).1 else if val m < val o then o else m
/-- Writes a pattern under R437 and R440; answers whether the pool was too small. -/
def Region.write (r : Region) (k v : Nat) : Region × Bool :=
  let old := r.get k
  if v = 0 then (if old = 0 then r else r.remove k, false)
  else if old ≠ 0 then (r.insert k v, false)
  else if r.free < r.needed k then ({ r with refused := if r.refused = 0xFFFFFFFF then r.refused else r.refused + 1 }, true)
  else (r.insert k v, false)
/-- The neighbour SPNEXT and SPPREV find (R450). -/
def Region.neighbour (r : Region) (up eq : Bool) (k : Nat) : Option (Nat × Nat) :=
  if up then r.pairs.find? fun p => decide (k < p.1) || (eq && p.1 == k)
  else r.pairs.reverse.find? fun p => decide (p.1 < k) || (eq && p.1 == k)
/-- An item of SPSTAT. -/
def Region.item (r : Region) (i : TItem) : Nat :=
  match i with
  | .keys => r.pairs.length
  | .nodes => r.nodes.length
  | .free => r.free
  | .depth => r.depth
  | .status => r.refused.toNat * 2 ^ 32 + (if r.faulted then 1 else 0)
  | .pages => r.pages.length
/-- The region after an operation, its results, and whether an insert was refused. -/
def Region.apply (r : Region) : TWork → Region × List Nat × Bool
  | .ld k => (r, [r.get k], false)
  | .st k v => let (r, full) := r.write k (v % 2 ^ (8 * r.esz)); (r, [], full)
  | .amo op ty k o =>
    let (r, full) := r.write k (treeAmo op ty r.esz (r.get k) (o % 2 ^ (8 * r.esz)))
    (r, [], full)
  | .next up eq k => match r.neighbour up eq k with | some p => (r, [p.1, p.2], false) | none => (r, [k, 0], false)
  | .cnt box => (r, [(r.pairs.filter fun p => r.inBox box p.1).length], false)
  | .del box =>
    let ks := (r.pairs.filter fun p => r.inBox box p.1).map Prod.fst
    (ks.foldl (fun r k => r.remove k) r, [ks.length], false)
  | .stat i => (r, [r.item i], false)
  | .pool ps => let r := { r with pages := r.pages ++ ps }; (r, [r.free], false)
  | .free => (r, [r.pages.length], false)
/-- Results of an operation reach its strand: symbols resolve, a waiting register receives its value, and after it what
younger writes have landed meanwhile (R56). -/
def deliverResults (o : TOp) (vs : List Nat) (st : Strand) : Strand :=
  let st := (o.syms.zip vs).foldl (fun (st : Strand) p => st.resolve p.1 (BitVec.ofNat 64 p.2)) st
  match o.out with
  | some d => st.arrive d o.seq (.conc (BitVec.ofNat 64 (vs.headD 0)))
  | none => st
/-- An operation that is not applied: its results are poisoned and its strand's tree fault becomes pending (R441, R456). -/
def failTree (o : TOp) (sub : BitVec 8) (s : State) : State :=
  let st := s.strand o.n
  let st := o.syms.foldl (fun (st : Strand) k => st.spoil k .failed) st
  let st := match o.out with
    | some d => st.arrive d o.seq (.poison .failed)
    | none => st
  if o.gone then s else s.setStrand o.n (st.pendTree .tree sub o.handle)
/-- A node that fails its check faults the region; one detected event is charged to its context, where that is kept, at an
open line of its pool (R441, R473, R476). -/
def State.meetRegion (s : State) (h : Nat) (r : Region) : Region × State :=
  if r.bad && !r.faulted then
    let r := { r with faulted := true }
    let page := r.pages.getD ((Config.freeBits s.free).toNat % r.pages.length) 0
    let pa := page * 65536 + (Config.freeBits (s.free + 1)).toNat % 65536
    let s := { s with regions := Tab.insert s.regions h r, free := s.free + 2 }
    let c := if r.ofCtx s r.ctx then some r.ctx else none
    (r, (s.charge c true).logEvent pa c 4 (unitOf pa) 2)
  else (r, s)
/-- Whether an operation is applied to a faulted region too. -/
def TWork.always : TWork → Bool
  | .stat _ => true | .free => true | _ => false
/-- An operation meets its region. -/
def applyTree (o : TOp) (s : State) : State :=
  match Tab.find s.regions o.handle with
  | none => failTree o 5 s
  | some r =>
    if r.uid ≠ o.uid then failTree o 5 s
    else
      let (r, s) := if o.work.always then (r, s) else s.meetRegion o.handle r
      if r.faulted && !o.work.always then failTree o 4 s
      else
        let (r, vs, full) := r.apply o.work
        let regions := if o.work = .free then Tab.erase s.regions o.handle else Tab.insert s.regions o.handle r
        let st := deliverResults o vs (s.strand o.n)
        let st := if full && !o.gone then st.pendTree .treeExhausted 0 o.handle else st
        { s with regions := regions }.setStrand o.n st
/-- TREE_OP_APPLY: the operation that arrives next at a region; which strand's is open, one strand's arrive in program
order (R442). -/
def treeOpApply (unit slot : Nat) (s : State) : State :=
  let h := unit * 4096 + slot
  let ops := s.treeOps.filter fun o => o.handle == h
  let ns := (ops.map TOp.n).eraseDups
  let n := if ns.length ≤ 1 then ns.headD 0 else ns.getD ((Config.freeBits s.free).toNat % ns.length) 0
  let s := if ns.length ≤ 1 then s else { s with free := s.free + 1 }
  match ops.find? fun o => o.n == n with
  | none => s
  | some o => wake (applyTree o { s with treeOps := s.treeOps.filter fun x => x.seq != o.seq })
/-- TREE_OP_APPLY (R442). -/
def execTreeOpApply (unit : BitVec 4) (slot : BitVec 10) (s : State) : Out :=
  .next (tick 1 (treeOpApply unit.toNat slot.toNat s))

end Sys2Proof.Machine
end

