-- ==== Sys2Proof/Machine/TransferRun.lean ====
section
/-!
DEFINITION. XDENSE (17 R457), and a channel's start and completion of a command (12 R332, R333, R346, R348).
-/
namespace Sys2Proof.Machine

/-- XDENSE: what the chapter of the engine asks of the pattern comes with what the region asks, the lowest subcode first;
a refusal of the region is taken where the pattern itself stands (R337, R445, R457). -/
def execXdense (h : Hdr) (a b c : BitVec 6) (ch : BitVec 4) (s : State) : Out :=
  runU user h (do
    let (vb, vc) ← read2 b c [a]
    deliverStop (clusterOf s.cur) ch.toNat none
    let box ← readRecord vb
    let pat ← readRecord vc
    let own := patChecks vc pat 1 true ++ [(0x41, vc, bits (patAux pat) 16 48 != 0), (0x43, vc, patFmode pat == 1)]
    let hd : Word := patAux pat &&& 0xFFFF
    let s ← get
    match Tab.find s.regions hd.toNat with
    | none =>
      passChecks own
      treeRefuse 1 hd
    | some r =>
      if r.closing || !r.ofCtx s s.here.ctx then
        passChecks own
        treeRefuse 1 hd
      if r.boxBad box then
        passChecks own
        treeRefuse 3 hd
      passChecks (own ++ [(0x44, vc, patEsize pat == 0 || patBytes pat != r.esz || recCount pat != r.volume box)])
      accept .dense a ch.toNat box pat vb vc
      modify fun s =>
        let cl := clusterOf s.cur
        let x := s.chan cl ch.toNat
        s.setChan cl ch.toNat { x with queue := x.queue.mapIdx fun i (e : XEntry) =>
          if i + 1 = x.queue.length then { e with acc := [BitVec.ofNat 64 r.uid, BitVec.ofNat 64 s.nextTree] } else e }) s
/-- XDENSE's work: it begins when the tree operations its strand issued before it are applied. -/
def Job.dense (j : Job) (e : XEntry) : A Word := do
  let h := bits (patAux e.r2) 0 16
  let uid := (e.acc.getD 0 0).toNat
  let upTo := (e.acc.getD 1 0).toNat
  let s ← get
  if s.treeOps.any fun o => o.n == e.n && o.handle == h && decide (o.seq < upTo) then throw (.hold .plain)
  j.all e (recCount e.r2) fun i => do
    let s ← get
    match Tab.find s.regions h with
    | none => failA .tree 5 (BitVec.ofNat 64 h)
    | some r =>
      if r.uid ≠ uid then failA .tree 5 (BitVec.ofNat 64 h)
      let (r, s) := s.meetRegion h r
      set s
      if r.faulted then failA .tree 4 (BitVec.ofNat 64 h)
      j.g.put e.r2 i (r.get (r.boxKey e.r1 i))

/-- The engine of a command (R332): its own context and mode, with the pennants bound when it was issued (R172); the
memory-side units make the accesses of XCKPT and XPROM. -/
def XEntry.eng (e : XEntry) (cl ch : Nat) : Eng :=
  let src : BitVec 8 := match e.op with | .ckpt => 5 | .prom _ => 5 | _ => 2
  ⟨⟨some e.ctx, cl / 16, cl, e.sup, true, src, .chan cl ch, false, .alloc⟩, e.slots⟩
/-- The work of a command. -/
def Job.work (j : Job) (e : XEntry) : A Word :=
  match e.op with
  | .copy => j.copy e
  | .gath2 => j.gath2 e
  | .gath => j.gath e
  | .scat => j.scat e
  | .slide => j.slide e
  | .fill => j.fill e
  | .ckpt => j.ckpt e
  | .prom dem => j.prom e dem
  | .red max ty => j.red e max ty
  | .kv => j.kv e
  | .dense => j.dense e
  | .xclass => j.xclass e
/-- The record a command takes its burgee from (Table 12.3), where it has one. -/
def XEntry.burgee (e : XEntry) : Option (List Word) :=
  let r : Option (List Word) := match e.op with
    | .fill => some e.r1
    | .scat => some e.r1
    | .ckpt => none
    | .prom _ => none
    | .kv => none
    | _ => some e.r2
  r.filter patBaren
/-- Whether a command takes fault-only-first (R346). -/
def XEntry.fof (e : XEntry) : Bool :=
  match e.op with
  | .copy => patFmode e.r1 == 1
  | .gath => patFmode e.r1 == 1
  | .scat => patFmode e.r1 == 1
  | .fill => patFmode e.r1 == 1
  | _ => false
/-- Bytes a command has written, which its burgee counts (R348). -/
def XEntry.written (e : XEntry) (v : Word) : Nat :=
  let n := v.toNat % 2 ^ 63
  match e.op with
  | .fill => patTotal e.r1 n
  | _ => patTotal e.r2 n
/-- EVAL of a failure is `v`. -/
def withEval (v : Word) (x : A Unit) : A Unit := fun s =>
  match x s with
  | .error (.fault c sub _) s => .error (.fault c sub v) s
  | r => r
/-- BAR is checked as a write before the first element access; a failure stops the command whatever FMODE holds. -/
def Job.checkBar (j : Job) (e : XEntry) : A Unit :=
  match e.burgee with
  | some r => if e.elem = 0 then withEval (patBar r) (j.g.check (patBar r) 16) else return ()
  | none => return ()
/-- Whether a command has been issued so lately that it does not stop yet: its strand goes on and has retired no 8
instructions since (R402; DESIGN CHOICE log 113). -/
def XEntry.young (e : XEntry) (s : State) : Bool :=
  let st := s.strand e.n
  st.issues && !st.paused && st.itemId == e.item && decide ((st.retired - e.since).toNat < 8)
/-- A command stops (R346): what it has asked of a peer or the host is over. -/
def stopChan (cl ch : Nat) (c sub : BitVec 8) (v : Word) (s : State) : State :=
  wake (dropAsks (.chan cl ch)
    (s.modEntry cl ch fun (x : XEntry) => { x with stop := some (c, sub, v), told := false, part := [] }))
/-- TRANSFER_COMMAND_START: the command at the head of a channel does its work (R332, R346); one that would stop too early
begins again later (log 113). -/
def transferStart (cl ch : Nat) (s : State) : State :=
  match (s.chan cl ch).queue with
  | [] => s
  | e :: _ =>
    if e.stop.isSome || e.value.isSome then s
    else
      let j : Job := ⟨e.eng cl ch, cl, ch⟩
      let done (v : Word) (s : State) : State :=
        wake (dropAsks (.chan cl ch) (s.modEntry cl ch fun (x : XEntry) => { x with value := some v }))
      let stop (c sub : BitVec 8) (v : Word) (t : State) : State := if e.young s then s else stopChan cl ch c sub v t
      match j.checkBar e s with
      | .error (.fault c sub v) s => stop c sub v s
      | .error (.hold _) s => s
      | .ok _ s =>
        match j.work e s with
        | .ok v s => done v s
        | .error (.hold _) s => s
        | .error (.fault c sub v) s =>
          let i := match (s.chan cl ch).queue with | x :: _ => x.elem | [] => 0
          if e.fof && i ≠ 0 then done (BitVec.ofNat 64 i) s else stop c sub v s
/-- The arrival of a completed command: one read-modify-write of the burgee, which a peer or the host performs itself
(R31, R90, R348). -/
def Job.arrive (j : Job) (bar : Word) (n : Nat) : A Unit := do
  let (pl, _) ← Machine.check j.g.w .wr bar
  let u : Update := .barArriveb n
  let bad (x : Option Nat) : A Unit :=
    match x with
    | some pa => failA .uncorrectable 0 (BitVec.ofNat 64 pa)
    | none => return ()
  let remote : A Unit := do
    let a ← ask j.g.w pl 16 (.update u) bar
    let s ← get
    let ((_, b), s) := s.answered j.g.w pl 16 a
    set s
    bad (if b then some (pl.pa / 64 * 64) else none)
  match pl with
  | .peer .. => remote
  | .host addr => do
    hostReady j.g.w addr bar
    remote
  | _ => do
    let (bs, b) ← readPlace j.g.w pl 16 bar
    bad b
    match u.apply bs with
    | some new => writePlace j.g.w pl new bar
    | none => return ()
/-- TRANSFER_COMMAND_COMPLETE: the burgee arrival is made, the value is kept and XDONE advances (R333, R334, R348); a
failed arrival stops the command, and its resumption makes only the arrival. -/
def transferComplete (cl ch : Nat) (s : State) : State :=
  let x := s.chan cl ch
  match x.queue with
  | [] => s
  | e :: _ =>
    match e.value, e.stop with
    | some v, none =>
      let finish (s : State) : State :=
        wake (dropAsks (.chan cl ch) (s.setChan cl ch ((s.chan cl ch).finish v))).prune
      match e.burgee with
      | none => finish s
      | some r =>
        let j : Job := ⟨e.eng cl ch, cl, ch⟩
        match (do
          j.g.check (patBar r) 16
          j.arrive (patBar r) (e.written v) : A Unit) s with
        | .ok _ s => finish s
        | .error (.fault c sub _) s => stopChan cl ch c sub (patBar r) s
        | .error (.hold _) s => s
    | _, _ => s
/-- TRANSFER_COMMAND_START (R332). -/
def execTransferCommandStart (cl : BitVec 7) (ch : BitVec 4) (s : State) : Out :=
  .next (tick 1 (transferStart cl.toNat ch.toNat s))
/-- TRANSFER_COMMAND_COMPLETE (R333). -/
def execTransferCommandComplete (cl : BitVec 7) (ch : BitVec 4) (s : State) : Out :=
  .next (tick 1 (transferComplete cl.toNat ch.toNat s))

end Sys2Proof.Machine
end

