-- ==== Sys2Proof/Machine/System.lean ====
section
/-!
DEFINITION. System instructions of a strand: traps and waits (05 R183, R184; 04 R110), control registers (02 R51; 04 R101
to R105, R147; 06 R190, R191; 07 R228; 16 R421; 18 R474), caches and translations (05 R180, R181), fences (03 R75, R76; 05
R164, R165) and owner bits (03 R82 to R85; 05 R166).
-/
namespace Sys2Proof.Machine

/-! ### Traps and no-operations (R183) -/

/-- NOP (R183). -/
def execNop (h : Hdr) (s : State) : Out := runU user h (pure ()) s
/-- HALT: the strand issues nothing until an enabled event, the debugger or a reset (R184). -/
def execHalt (h : Hdr) (s : State) : Out := runU supOnly h (modHere fun st => { st with halt := .halted }) s
/-- A completed trap: EPC is the next instruction (R106). -/
def trapDone (c : Cause) (imm : BitVec 36) : M Unit := throw (.trap ⟨c.code, 0, imm.signExtend 64, .instr, true⟩)
/-- TRAP (R183). -/
def execTrap (h : Hdr) (imm : BitVec 36) (s : State) : Out := runU user h (trapDone .trap imm) s
/-- SYSC (R183). -/
def execSysc (h : Hdr) (imm : BitVec 36) (s : State) : Out := runU user h (trapDone .sysc imm) s
/-- ERET (R110): a misaligned EPC makes no return. -/
def execEret (h : Hdr) (s : State) : Out :=
  run supOnly h 8 (do
    let st ← getHere
    if st.epc.toNat % 8 ≠ 0 then trapI .align 0 st.epc
    modHere Strand.eret
    return some (st.epc.setWidth 56)) s
/-- BKPT: DEBUG at the BKPT, EVAL the sign-extended number (R183, R502). -/
def execBkpt (h : Hdr) (imm : BitVec 36) (s : State) : Out := runU user h (trapI .debug 0 (imm.signExtend 64)) s
/-- YIELD: nothing issues for 16 cycles (R183). -/
def execYield (h : Hdr) (s : State) : Out := runU user h (modify (tick 16)) s
/-- UD (R156). -/
def execUd (_x : BitVec 56) (s : State) : Out := close 1 8 s ((trapI .illegalInstr 0 0 : M (Option (BitVec 56))) s)

/-! ### Control registers (Table 2.9) -/

/-- Registers that user mode may not access. -/
def cregClosed (r : Nat) : Bool :=
  [0x001, 0x002, 0x003, 0x004, 0x005, 0x006, 0x014, 0x015, 0x030, 0x031, 0x032, 0x033, 0x050, 0x070, 0x071, 0x072].contains r
/-- The mode check of a register; EVAL of PRIV is its number (R51, Table 4.6). -/
def cregMode (r : Nat) : M Unit := do
  if cregClosed r && !(← getHere).sup then trapI .priv 0 (BitVec.ofNat 64 r)

/-- SYMSTAT (Table 6.1). -/
def Strand.symstat (st : Strand) : Word :=
  let busy := st.syms.filter fun p => decide (p.1 < 32)
  (if st.waitfree then 1 <<< 38 else 0) ||| (BitVec.ofNat 64 busy.length <<< 32)
    ||| busy.foldl (fun w p => w ||| ((1 : Word) <<< p.1)) 0
/-- Priority level of the item at dispatch. -/
def Strand.level (st : Strand) : BitVec 4 := match st.item with | some i => i.level | none => 0
/-- Value of a control register as MFC reads it (Table 2.9). -/
def State.creg (s : State) (r : Nat) : Word :=
  let st := s.here
  let x := s.ctxOf st.ctx
  let d := s.die (dieOf s.cur)
  match r with
  | 0x000 => st.status
  | 0x001 => st.epc
  | 0x002 => st.ecause
  | 0x003 => st.eval
  | 0x004 => st.einstr
  | 0x005 => st.hscra
  | 0x006 => st.hscrb
  | 0x010 => st.fpcsr
  | 0x011 => st.estart.setWidth 64
  | 0x012 => st.ffidx.setWidth 64
  | 0x013 => st.rad.setWidth 64
  | 0x014 => st.afaultop
  | 0x015 => st.afaultaddr
  | 0x020 => st.symstat
  | 0x021 => st.symlim.setWidth 64
  | 0x030 => st.adirty.setWidth 64
  | 0x031 => st.mdirty.setWidth 64
  | 0x032 => st.apresent.setWidth 64
  | 0x033 => st.mpresent.setWidth 64
  | 0x040 => s.ctxid st.ctx
  | 0x041 => (x.ceil.setWidth 64 <<< 8) ||| st.level.setWidth 64
  | 0x042 => x.ebcorr
  | 0x043 => x.ebdet
  | 0x044 => x.wdogLim.setWidth 64
  | 0x045 => x.wdogCnt.setWidth 64
  | 0x046 => st.kclass.setWidth 64
  | 0x050 => (s.cluster (clusterOf s.cur)).alimit
  | 0x051 => d.apermit.setWidth 64
  | 0x052 => s.promlate.setWidth 64
  | 0x060 => s.cycle
  | 0x070 => st.trapbase
  | 0x071 => d.grace.setWidth 64
  | 0x072 => d.ageing.setWidth 64
  | _ => 0
/-- MFC of register `r` (R185): latency 1 (Table 2.11). -/
def readCreg (h : Hdr) (d : BitVec 6) (r : Nat) (settle : M Unit) (s : State) : Out :=
  runU (cregMode r) h (do
    checkDst d
    settle
    writeFix d 1 (.conc ((← get).creg r))) s
/-- MFC (R185). -/
def execMfc (h : Hdr) (d : BitVec 6) (r : BitVec 12) (s : State) : Out := readCreg h d r.toNat (pure ()) s
/-- MFC of FPCSR (R103). -/
def execMfcFpcsr (h : Hdr) (d : BitVec 6) (s : State) : Out := readCreg h d 0x010 fpSettled s
/-- MFC of ESTART or FFIDX (R147). -/
def execMfcEstartFfidx (h : Hdr) (d : BitVec 6) (r : BitVec 2) (s : State) : Out :=
  readCreg h d (0x010 + r.toNat) estartSettled s
/-- ADIRTY is read when no ARSTR.f of the strand is outstanding, or one has stopped (R147). -/
def adirtySettled : M Unit := do
  let st ← getHere
  if st.astop.isNone && st.queue.any fun e => match e.op with | .rstr .f _ => true | _ => false then waitM
/-- MFC of ADIRTY (R147). -/
def execMfcAdirty (h : Hdr) (d : BitVec 6) (s : State) : Out := readCreg h d 0x030 adirtySettled s

/-- Changes a kept context. -/
def State.modCtx (s : State) (c : Nat) (f : Ctx → Ctx) : State :=
  match Tab.find s.ctxs c with
  | some x => s.setCtx c (f x)
  | none => s
/-- STATUS after a write: MODE and WORLD are read-only, DTRAP clears on 1 (Table 4.2). -/
def statusWrite (old v : Word) : Word := (old &&& 0x81) ||| (v &&& 0x3E) ||| (old &&& 0x40 &&& ~~~v)
/-- A register written through the Access column of its map, by a mode that may write it. DIST of RAD takes bits [6:0] of what
is written, and bounds those (R228; DEDUCED log 120). -/
def State.setCreg (s : State) (r : Nat) (v : Word) : State :=
  let st := s.here
  let die := dieOf s.cur
  match r with
  | 0x000 => s.setHere { st with status := statusWrite st.status v }
  | 0x001 => s.setHere { st with epc := v &&& 0x00FFFFFFFFFFFFFF }
  | 0x002 => s.setHere { st with ecause := v &&& 0x3FFFF }
  | 0x003 => s.setHere { st with eval := v }
  | 0x005 => s.setHere { st with hscra := v }
  | 0x006 => s.setHere { st with hscrb := v }
  | 0x011 => s.setHere { st with estart := v.setWidth 19 }
  | 0x012 => s.setHere { st with ffidx := v.setWidth 19 }
  | 0x013 => s.setHere { st with rad := BitVec.ofNat 7 (Nat.max 1 (Nat.min 64 (bits v 0 7))) }
  | 0x014 => s.setHere { st with afaultop := v }
  | 0x015 => s.setHere { st with afaultaddr := v }
  | 0x021 => s.setHere { st with symlim := v.setWidth 32 }
  | 0x030 => s.setHere { st with adirty := v.setWidth 32 }
  | 0x031 => s.setHere { st with mdirty := v.setWidth 24 }
  | 0x032 => s.setHere { st with apresent := v.setWidth 32 }
  | 0x033 => s.setHere { st with mpresent := v.setWidth 24 }
  | 0x040 => s.modCtx st.ctx fun x => { x with idPasid := v.extractLsb' 16 20, idCtx := v.extractLsb' 0 16 }
  | 0x042 => s.modCtx st.ctx fun x => { x with ebcorr := v, spentCorr := false }
  | 0x043 => s.modCtx st.ctx fun x => { x with ebdet := v, spentDet := false }
  | 0x052 => { s with promlate := v.setWidth 32 }
  | 0x071 => s.setDie die { s.die die with grace := v.setWidth 32 }
  | 0x072 => s.age.setDie die { s.die die with ageing := v.setWidth 32 }
  | _ => s
/-- Registers that user mode writes. -/
def cregUser (r : Nat) : Bool := [0x010, 0x011, 0x012, 0x013].contains r
/-- MTC of register `r`: a write by a mode that only reads it is ignored (R51, R185). -/
def writeCreg (h : Hdr) (a : BitVec 6) (r : Nat) (act : Word → M Unit) (s : State) : Out :=
  runU (cregMode r) h (do
    let v ← read1 a []
    if cregUser r || (← getHere).sup then act v) s
/-- MTC (R185). -/
def execMtc (h : Hdr) (a : BitVec 6) (r : BitVec 12) (s : State) : Out :=
  writeCreg h a r.toNat (fun v => modify fun s => s.setCreg r.toNat v) s
/-- MTC to FPCSR (R102, R103). -/
def execMtcFpcsr (h : Hdr) (a : BitVec 6) (s : State) : Out :=
  writeCreg h a 0x010 (fun v => do
    fpSettled
    modHere fun st => { st with fpcsr := fpcsrWrite v }) s
/-- MTC to TRAPBASE: also the value kept for the context (R105). -/
def execMtcTrapbase (h : Hdr) (a : BitVec 6) (s : State) : Out :=
  writeCreg h a 0x070 (fun v => do
    let base := v &&& 0x00FFFFFFFFFFF000
    modHere fun st => { st with trapbase := base }
    modify fun s => s.modCtx s.here.ctx fun x => { x with trapb := base }) s
/-- MTC to ALIMIT acts as ALIM on the strand's own cluster (R236). -/
def execMtcAlimit (h : Hdr) (a : BitVec 6) (s : State) : Out :=
  writeCreg h a 0x050 (fun v => do
    let _ ← gateCluster (clusterOf (← get).cur) v) s
/-- A ceiling that a context may have (R422). -/
def ceilOk (x : Ctx) (v : Word) : Bool := decide (v.toNat ≤ (if x.supv then 11 else 10))
/-- MTC to PRIOCUR acts as prio.ceil on the strand's context (R421). -/
def execMtcPriocur (h : Hdr) (a : BitVec 6) (s : State) : Out :=
  writeCreg h a 0x041 (fun v => modify fun s => s.age.modCtx s.here.ctx fun x =>
    let c : Word := BitVec.ofNat 64 (bits v 8 4)
    if ceilOk x c then { x with ceil := c.setWidth 4 } else x) s
/-- MTC to WDOGLIM or WDOGCNT: the comparison is armed again (R428). -/
def execMtcWatchdog (h : Hdr) (a : BitVec 6) (r : BitVec 1) (s : State) : Out :=
  writeCreg h a (0x044 + r.toNat) (fun v => modify fun s => s.modCtx s.here.ctx fun x =>
    if r = 0 then { x with wdogLim := v.setWidth 48, wdogArmed := true }
    else { x with wdogCnt := v.setWidth 48, wdogArmed := true }) s

/-! ### Caches (R181) -/

/-- A CACHE function on the line of an address: checked as a read; in the local window it does nothing and checks nothing
(R181; DESIGN CHOICE log 94). -/
def cacheOp (priv : M Unit) (h : Hdr) (base index : BitVec 6) (disp : BitVec 24) (f : Nat → State → State) (s : State) :
    Out :=
  runU priv h (do
    let (b, i) ← read2 base index []
    let ea := effAddr b i 1 disp
    if !inWindow ea then
      let w ← whoHere
      let (pl, _) ← liftA (check w .rd ea)
      match pl with
      | .mem pa => modify (f (pa / 128 * 128))
      | _ => return ()) s
/-- CACHE.iinv: the instruction cache of the cluster drops the line (R181). -/
def execCacheIinv (h : Hdr) (base index : BitVec 6) (disp : BitVec 24) (s : State) : Out :=
  cacheOp user h base index disp (fun pa s =>
    let c := clusterOf s.cur
    let x := s.cluster c
    s.setCluster c { x with icache := x.icache.filter fun p => decide (p.1 < pa) || decide (pa + 128 ≤ p.1) }) s
/-- CACHE.clean (R181). -/
def execCacheClean (h : Hdr) (base index : BitVec 6) (disp : BitVec 24) (s : State) : Out :=
  cacheOp user h base index disp (fun pa s => s.cleanL2 pa (pa + 128)) s
/-- CACHE.clinv (R181). -/
def execCacheClinv (h : Hdr) (base index : BitVec 6) (disp : BitVec 24) (s : State) : Out :=
  cacheOp user h base index disp (fun pa s => s.cleanL2 pa (pa + 128)) s
/-- CACHE.inv: dirty data is discarded, unless it has left the caches before, which is open (R181; DESIGN CHOICE log 8). -/
def execCacheInv (h : Hdr) (base index : BitVec 6) (disp : BitVec 24) (s : State) : Out :=
  cacheOp supOnly h base index disp (fun pa s =>
    let t := { s with free := s.free + 1 }
    if (Config.freeBits s.free).getLsbD 0 then t.dropL2 pa (pa + 128) else t.cleanL2 pa (pa + 128)) s
/-- CACHE.zero: 128 zero bytes are stored (R181). -/
def execCacheZero (h : Hdr) (base index : BitVec 6) (disp : BitVec 24) (s : State) : Out :=
  runU user h (do
    let (b, i) ← read2 base index []
    let ea := effAddr b i 1 disp
    modeOrder ea
    let w ← whoHere
    let _ ← liftA (check w .wr ea)
    storePart (ea &&& ~~~127) (List.replicate 128 0) plainAnn) s
/-- CACHE.iinvall (R181). -/
def execCacheIinvall (h : Hdr) (s : State) : Out :=
  runU user h (modify fun s =>
    let c := clusterOf s.cur
    s.setCluster c { s.cluster c with icache := [] }) s

/-! ### Translations (R180) -/

/-- Drops the kept translations of every die that `f` names. -/
def State.dropTlb (s : State) (f : Tlb → Bool) : State :=
  { s with dies := s.dies.filterMap fun (d, x) =>
      let y := { x with tlb := x.tlb.filter fun t => !f t }
      if y = Die.reset then none else some (d, y) }
/-- Whether an access accepted through a named translation is not yet performed: a symbol's, or one whose request has left
the device without an answer. -/
def State.lateUse (s : State) (f : Nat → Word → Bool) : Bool :=
  (s.strands.any fun (_, st) => st.syms.any fun (_, x) =>
    match x.src.va with
    | some va => f st.ctx (BitVec.ofNat 64 va)
    | none => false)
  || s.remotes.any fun r => r.ans.isNone && r.op != .page && match r.ctx with | some c => f c r.va | none => false
/-- Whether two addresses lie in one 512 MiB block, the largest part one translation covers. -/
def samePage (x y : Word) : Bool := bits x 29 27 == bits y 29 27
/-- TLBI: the invalidation is made at once, and is complete when the accesses that used it are performed. -/
def tlbi (h : Hdr) (operands : M (Word × Word)) (f : Word → Word → Tlb → Bool) (g : Word → Word → Nat → Word → Bool)
    (s : State) : Out :=
  runU supOnly h (do
    let (a, b) ← operands
    modify fun s => s.dropTlb (f a b)
    if (← get).lateUse (g a b) then waitM) s
/-- TLBI.all (R180). -/
def execTlbiAll (h : Hdr) (s : State) : Out :=
  tlbi h (return (0, 0)) (fun _ _ _ => true) (fun _ _ _ _ => true) s
/-- TLBI.ctx (R180). -/
def execTlbiCtx (h : Hdr) (b : BitVec 6) (s : State) : Out :=
  tlbi h (do let y ← read1 b []; return (0, y)) (fun _ b t => t.ctx == b.toNat) (fun _ b c _ => c == b.toNat) s
/-- TLBI.va (R180). -/
def execTlbiVa (h : Hdr) (a b : BitVec 6) (s : State) : Out :=
  tlbi h (read2 a b []) (fun a b t => t.covers b.toNat a) (fun a b c va => c == b.toNat && samePage a va) s
/-- TLBI.vaall (R180). -/
def execTlbiVaall (h : Hdr) (a : BitVec 6) (s : State) : Out :=
  tlbi h (do let x ← read1 a []; return (x, 0)) (fun a _ t => t.covers t.ctx a) (fun a _ _ va => samePage a va) s

/-! ### Fences (R75, R76, R164, R165) -/

/-- Waits until no symbol of the strand is allocated. -/
def symsDone : M Unit := do
  if !(← getHere).syms.isEmpty then waitM
/-- Waits until every tree operation of the strand has been applied (R91, R446). -/
def treesDone : M Unit := do
  let s ← get
  if s.treeBusy s.cur then waitM
/-- Waits until every load and atomic of the strand that brings a symbol is performed; its groups see its stores (R76). -/
def accessesDone : M Unit := do
  let s ← get
  if s.here.syms.any fun p => p.2.src.range.isSome then waitM
  set (s.seen s.cur)
/-- FENCE: accesses are performed in order here, but for those of symbols, which it waits for, and stores that the strand's
groups may not see yet; at package or system scope it waits for tree operations; a pending refusal is delivered (R75, R91,
R446). -/
def execFence (h : Hdr) (_kinds sc : BitVec 3) (s : State) : Out :=
  runU user h (do
    symsDone
    modify fun s => s.seen s.cur
    if 4 ≤ sc.toNat then treesDone
    deliverTree) s
/-- FSA: earlier accesses of the strand are performed before what is queued from now on (R76). -/
def execFsa (h : Hdr) (_sc : BitVec 3) (s : State) : Out := runU user h accessesDone s
/-- FAS: waits until every queued memory access is performed, or one has ended in a fault (R76, R165). -/
def execFas (h : Hdr) (_sc : BitVec 3) (s : State) : Out :=
  runU user h (do
    let st ← getHere
    if st.astop.isNone && st.queue.any (fun e => e.op.isMem) then
      modHere fun st => { st with inside := some .fence }
      waitM) s
/-- FAA: a queue performs its accesses in order (R76, R216). -/
def execFaa (h : Hdr) (_sc : BitVec 3) (s : State) : Out := runU user h (pure ()) s

/-! ### Owner bits (R82 to R85, R166) -/

/-- A block with an owner bit. -/
inductive Block where
  | arr (g a : Nat)
  | scratch (die k : Nat)
  deriving DecidableEq, Repr
/-- The block that holds an address, or the trap OWN takes (R166). -/
def blockOf (va : Word) : M Block := do
  let s ← get
  let o := bits va 0 40
  if inWindow va && o < 2 ^ 25 then
    let g := clusterOf s.cur * 4 + o / 2 ^ 23
    let a := o % 2 ^ 23 / 2 ^ 19
    let x := s.group g
    if (s.groupCls g = 2 && 8 ≤ a) || !x.storage.getLsbD a || x.gated.getLsbD a then trapI .owner 0 va
    return .arr g a
  else if inWindow va && 2 ^ 32 ≤ o && o < 2 ^ 32 + 2 ^ 25 then return .scratch (dieOf s.cur) ((o - 2 ^ 32) / 2 ^ 16)
  else trapI .xlate 5 va
/-- Owner bit of a block. -/
def State.ownerBit (s : State) : Block → Bool
  | .arr g a => (s.group g).owner.getLsbD a
  | .scratch d k => (s.die d).owner.contains k
/-- Sets the owner bit of a block. -/
def State.setOwner (s : State) (b : Block) (v : Bool) : State :=
  match b with
  | .arr g a =>
    let x := s.group g
    s.setGroup g { x with owner := if v then x.owner ||| ((1 : BitVec 16) <<< a) else x.owner &&& ~~~((1 : BitVec 16) <<< a) }
  | .scratch d k =>
    let x := s.die d
    let rest := x.owner.filter (· != k)
    s.setDie d { x with owner := if v then rest ++ [k] else rest }
/-- OWN: to the engines when the strand's and its groups' accesses are performed; to the strands at once, engine accesses
accepted before being performed (R83, R84). -/
def execOwn (h : Hdr) (a b : BitVec 6) (ow : BitVec 1) (s : State) : Out :=
  runU user h (do
    let va ← read1 b [a]
    let k ← blockOf va
    if ow = 1 then
      accessesDone
      if (← getHere).queue.any (fun e => e.op.isMem) then waitM
    let s ← get
    writeVal a (if s.ownerBit k then 1 else 0)
    modify fun s => s.setOwner k (ow == 1)) s

end Sys2Proof.Machine
end

