-- ==== Sys2Proof/Machine/Walker.lean ====
section
/-!
DEFINITION. Nest walker: launch records (16 R407 to R411), LWAIT (16 R413, R414), dispatch (01 R17 to R21; 04 R101, R105;
16 R416), priorities (16 R419 to R422), pre-emption (16 R423, R424), resumption (16 R427),
watchdogs (16 R428, R429) and permits (07 R219). Enumeration and ageing stand in Nest.
-/
namespace Sys2Proof.Machine

/-! ### LAUNCH (R407 to R411) -/

/-- A nest level entry (Table 16.2). -/
def levelOf (bs : List Byte) (k : Nat) : Level :=
  let x := hdrWord bs (2 * k)
  let y := hdrWord bs (2 * k + 1)
  ⟨x.extractLsb' 32 32, bits x 0 32, y.extractLsb' 0 32, y.extractLsb' 32 2, bits y 34 3⟩
/-- Whether the level entries of a nest table break R408. -/
def levelsBad (bs : List Byte) (n : Nat) : Bool :=
  let ls := (List.range n).map (levelOf bs)
  (List.range n).any (fun k => bits (hdrWord bs (2 * k + 1)) 37 27 != 0) || ls.any (fun v => v.kind == 3 || v.step == 0)
    || (List.range n).any fun r => (ls.filter fun v => v.rank == r).length != 1
/-- Reads a nest table: its levels, or that it breaks R408. -/
def readNest (va : Word) : M (Option (List Level)) := do
  if va.toNat % 8 ≠ 0 then return none
  let h : Word := BitVec.ofNat 64 (leNat (← loadOwn va 8))
  let n := bits h 0 3
  if n = 0 || 6 < n || bits h 3 61 ≠ 0 then return none
  let bs ← loadRange 2 (va + 8) (16 * n)
  if levelsBad bs n then return none else return some ((List.range n).map (levelOf bs))
/-- Reads a pennant binding: base, length and pennant, or that it breaks Table 16.4 subcode 9. -/
def readBinding (va : Word) : M (Option (Word × Word × Word)) := do
  if va.toNat % 32 ≠ 0 then return none
  let bs ← loadRange 2 va 32
  let pen := hdrWord bs 2
  if hdrWord bs 3 ≠ 0 then return none
  let w1 : Word := BitVec.ofNat 64 (leNat (← loadRange 2 (pen + 8) 8))
  if bits w1 0 16 = 0 then return none else return some (hdrWord bs 0, hdrWord bs 1, pen)
/-- The context a descriptor describes (Table 16.3). -/
def descCtx (bs : List Byte) : Ctx :=
  let w := hdrWord bs
  ⟨(w 0).extractLsb' 16 20, w 1, (w 2).getLsbD 6, (w 2).extractLsb' 2 4, (w 2).getLsbD 1, (w 2).getLsbD 0, w 6,
    (w 3).setWidth 48, 0, true, w 4, w 5, (w 0).extractLsb' 16 20, (w 0).extractLsb' 0 16, false, false⟩
/-- Whether a context descriptor breaks R410. -/
def descBad (s : State) (bs : List Byte) : Bool :=
  let w := hdrWord bs
  let x := descCtx bs
  bits (w 0) 36 28 != 0 || x.idCtx == 0 || (w 1).toNat % 2 ^ 17 != 0 || bits (w 2) 7 57 != 0
    || !ceilOk x (x.ceil.setWidth 64) || bits (w 3) 48 16 != 0 || bits (w 6) 56 8 != 0 || bits (w 6) 0 12 != 0 || w 7 != 0
    || match Tab.find s.ctxs x.idCtx.toNat with
      | some y => y.pasid != x.pasid || y.root != x.root || y.sbchk != x.sbchk || y.ceil != x.ceil || y.supv != x.supv
          || y.sec != x.sec
      | none => false
/-- The context a LAUNCH works in: its own, or the one a descriptor names; none where subcode 10 refuses it. -/
def launchCtx (b : BitVec 6) (vb : Word) : M (Option (Nat × Ctx)) := do
  let s ← get
  if b = 0 then return some (s.here.ctx, s.ctxOf s.here.ctx)
  if !s.here.sup || vb.toNat % 64 ≠ 0 then return none
  let bs ← loadRange 2 vb 64
  let s ← get
  let x := descCtx bs
  if descBad s bs then return none
  else return some (x.idCtx.toNat, (Tab.find s.ctxs x.idCtx.toNat).getD x)
/-- LAUNCH (R411, Table 16.4). -/
def execLaunch (h : Hdr) (d a b : BitVec 6) (s : State) : Out :=
  runU user h (do
    let (va, vb) ← read2 a b [d]
    needAlign va 128
    let bs ← loadRange 2 va 128
    let w := hdrWord bs
    let nest ← readNest (w 2)
    let bind ← (if w 6 = 0 then pure (some (0, 0, 0)) else readBinding (w 6))
    let ctx ← launchCtx b vb
    let s ← get
    let x := match ctx with | some p => p.2 | none => s.ctxOf s.here.ctx
    let prio := bits (w 3) 0 4
    match worst [(1, va, bits (w 3) 25 39 != 0 || (bs.drop 56).any (· != 0) || (w 0).toNat % 8 != 0),
        (2, va, decide (11 < prio) || decide (x.ceil.toNat < prio)),
        (3, va, bits (w 3) 4 2 == 3),
        (4, va, decide (4 < bits (w 3) 6 3) || decide (992 < bits (w 3) 10 10) || decide (16 < bits (w 3) 20 5)),
        (5, va, (w 3).getLsbD 9 != x.sec),
        (6, va, nest.isNone),
        (7, va, decide (s.nextLaunch ≤ (w 4).toNat)),
        (8, va, (w 5).toNat % 8 != 0),
        (9, va, bind.isNone),
        (10, va, ctx.isNone)] with
    | some (sub, v) => trapI .launchInvalid sub v
    | none => pure ()
    let die := dieOf s.cur
    if 256 ≤ (s.launches.filter fun p => p.2.die == die && p.2.status.isNone).length then waitM
    accessesDone
    let s ← get
    let ls := nest.getD []
    let c := (ctx.map Prod.fst).getD 0
    let l : Launch := ⟨c, die, w 0, w 1, BitVec.ofNat 4 prio, BitVec.ofNat 4 prio, (w 3).extractLsb' 4 2, bits (w 3) 6 3,
      (w 4).toNat, w 5, if w 6 = 0 then none else bind, ls, [], itemCount ls, false, none, s.cycle,
      if x.spentCorr then some 0 else if x.spentDet then some 1 else none⟩
    let id := s.nextLaunch
    set ({ s with launches := Tab.insert s.launches id l, nextLaunch := id + 1 }.setCtx c x)
    writeVal d (BitVec.ofNat 64 id)) s

/-! ### LWAIT (R413, R414) -/

/-- Result of LWAIT for an identifier, where 0 is not complete. -/
def State.launchStatus (s : State) (id : Nat) : Word :=
  match s.launch id with
  | none => 0xFFFFFFFFFFFFFFFF
  | some l =>
    if s.nextLaunch ≤ id || id + 4096 < s.nextLaunch then 0xFFFFFFFFFFFFFFFF
    else match l.status with
      | some v => v.setWidth 64
      | none =>
        if s.strands.any fun p => p.2.halt == .stopped && (match p.2.item with | some i => i.launch == id | none => false)
        then 4 else 0
/-- LWAIT (R414). -/
def execLwait (h : Hdr) (d a : BitVec 6) (s : State) : Out :=
  runU user h (do
    let id ← read1 a [d]
    let v := (← get).launchStatus id.toNat
    if v = 0 then waitM
    writeVal d v) s
/-- LWAIT.test (R414). -/
def execLwaitTest (h : Hdr) (d a : BitVec 6) (s : State) : Out :=
  runU user h (do
    let id ← read1 a [d]
    writeVal d ((← get).launchStatus id.toNat)) s
/-- The walker as an agent of a context (R413). -/
def walkerWho (s : State) (c die cl : Nat) : Who := ⟨some c, die, cl, (s.ctxOf c).supv, false, 0, .agent c, false, .alloc⟩
/-- LAUNCH_COMPLETE: the walker writes DONE; a store that fails is dropped (R413). -/
def launchComplete (id : Nat) (s : State) : State :=
  match s.launch id with
  | none => s
  | some l =>
    if l.left ≠ 0 || l.status.isSome then s
    else
      let ends (v : BitVec 2) (s : State) : State := wake (s.age.modLaunch id fun (x : Launch) => { x with status := some v }).prune
      if l.killed then ends 3 s
      else if l.done = 0 then ends 1 s
      else
        match (({ w := walkerWho s l.ctx l.die (l.die * 16), slots := [] } : Eng).write l.done (leBytes id 8)) s with
        | .ok _ s => ends 1 s
        | .error (.fault ..) s => ends 2 s
        | .error (.hold _) s => s
/-- LAUNCH_COMPLETE (R413). -/
def execLaunchComplete (id : BitVec 64) (s : State) : Out := .next (tick 1 (launchComplete id.toNat s))

/-! ### Placement (R18, R419) -/

/-- The launch that a die's walker serves next: the highest level that can place an item, rounds within it, oldest first
(R419); with the launches of that level that can place one. -/
def State.chosen (s : State) (die : Nat) : Option (Nat × Launch × List Nat) :=
  let cs := s.launches.filter fun p => s.waiting p.1 p.2 die && s.placeable p.1 p.2 die
  let top := cs.foldl (fun m p => Nat.max m p.2.level.toNat) 0
  let cs := cs.filter fun p => p.2.level.toNat == top
  let served := (s.die die).served
  match cs.find? fun p => !served.contains p.1 with
  | some p => some (p.1, p.2, cs.map Prod.fst)
  | none => cs.head?.map fun p => (p.1, p.2, cs.map Prod.fst)
/-- The launch strand `n` takes an item of: one it is kept for comes first. -/
def State.chosenFor (s : State) (n : Nat) : Option (Nat × Launch) :=
  let die := dieOf n
  let own : Option (Nat × Launch) := match (s.strand n).reserve with
    | some j => match s.launch j with
      | some l => if s.waiting j l die && s.canPlace n j l then some (j, l) else none
      | none => none
    | none => none
  match own with
  | some p => some p
  | none =>
    match s.chosen die with
    | some (id, l, _) => if s.canPlace n id l then some (id, l) else none
    | none => none
/-- Remembers that a launch has been served in the round (R419). -/
def State.serve (s : State) (die id : Nat) : State :=
  let cs := match s.chosen die with | some (_, _, cs) => cs | none => []
  let x := s.die die
  let served := if cs.all (x.served.contains ·) then x.served.filter (fun j => !cs.contains j) else x.served
  s.setDie die { x with served := served.filter (· != id) ++ [id] }
/-- A mark is withdrawn: a PREEMPT not yet taken is cancelled (R423, R424). -/
def Strand.unmark (st : Strand) : Strand :=
  { st with mark := none, markDone := false, events := { st.events with preempt := none } }
/-- Marks and reservations for a launch go when it has placed an item on the die (R423). -/
def State.withdraw (s : State) (die id : Nat) : State :=
  let s := { s with strands := s.strands.map fun ((n, st) : Nat × Strand) =>
    (n, if dieOf n == die then
        let st := if st.reserve == some id then { st with reserve := none } else st
        match st.mark with
        | some (_, j) => if j == id then st.unmark else st
        | none => st
      else st) }
  { s with groups := s.groups.map fun ((g, x) : Nat × Group) =>
    (g, if g / 64 == die && x.reserve == some id then { x with reserve := none } else x) }

/-! ### Dispatch (R416) and resumption (R427) -/

/-- A group handed to a strand: cleared when its previous holder was of another context (R21), with the strand's
descriptors (DEDUCED log 29). -/
def handGroup (n c : Nat) (desc : Tab Word) (s : State) (g : Nat) : State :=
  let x := s.group g
  let x := if x.prevCtx == some c then x else { x with rows := [], parity := [], storage := 0, owner := 0, event := 0 }
  s.setGroup g { x with holder := some n, prevCtx := some c, desc := desc, passes := 0, reserve := none }
/-- What is left of a strand for an item of context `c` and launch `id`: all of it in the same context, FPCSR only in the
same launch (R101). -/
def Strand.leftFor (st : Strand) (c id : Nat) : Strand :=
  let st := st.landAll
  let base := if st.lastCtx == some c then st
    else { Strand.reset with
      retired := st.retired, symWait := st.symWait, dbg := st.dbg, lastLaunch := st.lastLaunch
      events := { st.events with watchdog := none, ebudget := none, preempt := none } }
  { base with
    fpcsr := if st.lastLaunch == some id then base.fpcsr else 1
    streams := []
    syms := []
    outs := []
    unseen := []
    queue := []
    astop := none
    ahold := false
    adeliver := none
    streamErr := none
    halt := .running
    waiting := none
    paused := false
    inWaite := false
    sevSeen := false
    waitfree := false
    waitSince := none
    inside := none
    part := none
    bars := []
    reserve := none
    mark := none
    markDone := false
    lastCtx := some c
    lastLaunch := some id }
/-- STATUS at dispatch (R101): PMODE and PEVEN stay. -/
def dispatchStatus (x : Ctx) (old : Word) : Word :=
  setBit (setBit (setBit (setBit (setBit (setBit old 0 x.supv) 2 true) 5 false) 6 false) 7 x.sec) 4 x.sbchk
/-- Events of a strand that takes an item: the end of a budget that the item has not been told of is pending (R474). -/
def dispatchEvents (owed : Option Word) (old : Events) : Events := ⟨none, owed, none, old.debug⟩
/-- Writes s1 to s9 (R19). -/
def Strand.preload (st : Strand) (id : Nat) (l : Launch) (o : Nat) : Strand :=
  let regs := (List.range 6).map (fun k => (k + 1, l.index o k))
    ++ [(7, l.args), (8, BitVec.ofNat 64 o), (9, BitVec.ofNat 64 id)]
  regs.foldl (fun (st : Strand) p => (st.forget p.1).setReg p.1 (.conc p.2)) st
/-- WMSET slot 0 as the launch's pennant binding gives it now; none while its read is held (R409; DESIGN CHOICE log 25). -/
def bindSlot0 (n : Nat) (l : Launch) (s : State) : Option (Option Slot) × State :=
  match l.pbind with
  | none => (some none, s)
  | some (base, len, pen) =>
    if len = 0 then (some none, s)
    else
      match ({ w := walkerWho s l.ctx (dieOf n) (clusterOf n), slots := [] } : Eng).read (pen + 8) 8 s with
      | .ok bs s =>
        let w1 : Word := BitVec.ofNat 64 (leNat bs)
        (some (if bits w1 0 16 = 0 then none
          else some ⟨base, len, pen, w1.extractLsb' 16 32, w1.extractLsb' 0 16⟩), s)
      | .error (.fault ..) s => (some none, s)
      | .error (.hold _) s => (none, s)
/-- Sets or clears slot 0. -/
def Strand.setSlot0 (st : Strand) (x : Option Slot) : Strand :=
  { st with wmset := match x with | some v => Tab.insert st.wmset 0 v | none => Tab.erase st.wmset 0 }
/-- An item of a launch starts on strand `n` (R416). -/
def dispatchItem (n id : Nat) (l : Launch) (o : Nat) (s : State) : State :=
  match bindSlot0 n l s with
  | (none, s) => s
  | (some slot, s) =>
    let x := s.ctxOf l.ctx
    let die := dieOf n
    let st := ((s.strand n).leftFor l.ctx id).setSlot0 slot
    let gs := (s.freeGroups (clusterOf n) id).take l.groups
    let s := s.serve die id
    let s := gs.foldl (handGroup n l.ctx st.desc) s
    let s := s.modLaunch id fun (y : Launch) =>
      { y with next := Tab.insert y.next die (o + 1), level := s.baseLevel y, since := s.cycle }
    let st := { st with
      status := dispatchStatus x st.status
      events := dispatchEvents l.owed st.events
      kclass := l.cls
      trapbase := x.trapb
      pc := l.entry.setWidth 56
      item := some ⟨id, o, l.ctx, l.level⟩
      resumed := none }.preload id l o
    wake ((s.setStrand n st).withdraw die id)
/-- ITEM_DISPATCH: the walker's next item goes to strand `n`, where it can take it (R416, R419). -/
def itemDispatch (n : Nat) (s : State) : State :=
  let s := s.age
  match s.chosenFor n with
  | none => s
  | some (id, l) =>
    if (s.readySusp id (dieOf n)).isSome then s
    else match l.nextItem (dieOf n) with
      | some o => dispatchItem n id l o s
      | none => s
/-- ITEM_DISPATCH (R416). -/
def execItemDispatch (n : BitVec 10) (s : State) : Out := .next (tick 1 (itemDispatch n.toNat s))

/-- A suspended item goes on at its context's resume vector on strand `n` (R427). -/
def resumeItem (n id : Nat) (l : Launch) (p : Susp) (s : State) : State :=
  let c := p.item.ctx
  let x := s.ctxOf c
  let die := dieOf n
  let st := (s.strand n).leftFor c id
  let gs := (s.freeGroups (clusterOf n) id).take p.groups
  let s := s.serve die id
  let s := gs.foldl (handGroup n c st.desc) { s with susp := s.susp.erase p }
  let s := s.modLaunch id fun (y : Launch) => { y with level := s.baseLevel y, since := s.cycle }
  let st := { st with
    s := []
    p := 0
    pend := []
    epc := 0
    ecause := 0
    eval := 0
    status := setBit (setBit (setBit (dispatchStatus x st.status) 0 true) 2 false) 5 true
    events := dispatchEvents p.owed st.events
    hscra := p.image
    kclass := l.cls
    trapbase := x.trapb
    pc := (x.trapb + 0x600).setWidth 56
    item := some { p.item with level := l.level }
    resumed := some (id, p.image) }
  wake ((s.setStrand n st).withdraw die id)
/-- ITEM_RESUME: the oldest ready suspended item of the launch served next goes to strand `n` (R427, R419). -/
def itemResume (n : Nat) (s : State) : State :=
  let s := s.age
  match s.chosenFor n with
  | none => s
  | some (id, l) =>
    match s.readySusp id (dieOf n) with
    | some p => resumeItem n id l p s
    | none => s
/-- ITEM_RESUME (R427). -/
def execItemResume (n : BitVec 10) (s : State) : Out := .next (tick 1 (itemResume n.toNat s))

/-- Requests of a strand that is freed are over: an answer to a symbol comes late, any other goes nowhere (R189, R200,
R230). -/
def Remote.orphan (n : Nat) (r : Remote) : Option Remote :=
  match r.who with
  | .symbol m _ => some (if m == n then { r with who := .late } else r)
  | .strand m => if m == n then none else some r
  | .fetch m => if m == n then none else some r
  | .gate m => if m == n then none else some r
  | .group m => if m == n then none else some r
  | .stream m _ => if m == n then none else some r
  | _ => some r
/-- Symbols that are still allocated are poisoned and their entries free (R189). -/
def Strand.spoilAll (st : Strand) : Strand := st.syms.foldl (fun st p => st.spoil p.1 .failed) st
/-- The item of strand `n` ends there: its groups become free and keep their rows, what a mark frees is kept for the
launch that caused it (R417, R419, R423), and launches are aged before their items find room there (R420); what a strand
freed by prio.kill had outstanding is dropped (R422). -/
def State.vacate (s : State) (n : Nat) : State :=
  let s := s.age.takeGates n
  let st := s.strand n
  let r := st.mark.map Prod.snd
  let s := (s.heldOf n).foldl (fun s g => s.setGroup g { s.group g with holder := none, reserve := r }) s
  let s := { s with
    remotes := s.remotes.filterMap (Remote.orphan n)
    treeOps := s.treeOps.map fun (o : TOp) => if o.n == n then { o with syms := [], out := none, gone := true } else o }
  s.setStrand n { st.landAll.spoilAll.countWait s.cycle with
    item := none
    resumed := none
    streams := []
    queue := []
    astop := none
    ahold := false
    adeliver := none
    outs := []
    unseen := []
    refusal := none
    mark := none
    markDone := false
    reserve := r
    events := ⟨none, none, none, st.events.debug⟩ }
/-- An item of a launch has ended. -/
def State.itemOver (s : State) (id : Nat) : State :=
  (s.modLaunch id fun (l : Launch) => { l with left := l.left - 1 }).prune

/-! ### Priorities (R420, R422) -/

/-- LAUNCH_AGEING: a launch is raised for the time its items have waited (R420). -/
def launchAgeing (id : Nat) (s : State) : State := s.modLaunch id fun (x : Launch) => s.agedLaunch id x
/-- LAUNCH_AGEING (R420). -/
def execLaunchAgeing (id : BitVec 64) (s : State) : Out := .next (tick 1 (launchAgeing id.toNat s))
/-- An incomplete launch of the running context. -/
def ownLaunch (id : Word) : M (Option Launch) := do
  let s ← get
  match s.launch id.toNat with
  | some l => return if l.ctx == s.here.ctx && l.status.isNone then some l else none
  | none => return none
/-- prio.get (R422). -/
def execPrioGet (h : Hdr) (d a : BitVec 6) (s : State) : Out :=
  runU user h (do
    let id ← read1 a [d]
    modify State.age
    match ← ownLaunch id with
    | some l => writeVal d (l.level.setWidth 64)
    | none => writeVal d 0xFFFFFFFFFFFFFFFF) s
/-- A launch under a new declared priority: only ageing holds its level above it; at a new level its items wait from now
(R420). -/
def Launch.declare (l : Launch) (p : BitVec 4) (now : Word) : Launch :=
  let v := if l.prio.toNat < l.level.toNat && p.toNat ≤ l.level.toNat then l.level else p
  { l with prio := p, level := v, since := if v == l.level then l.since else now }
/-- prio.set (R422). -/
def execPrioSet (h : Hdr) (d a b : BitVec 6) (s : State) : Out :=
  runU user h (do
    let (id, p) ← read2 a b [d]
    modify State.age
    match ← ownLaunch id with
    | some l =>
      if ((← get).ctxOf l.ctx).ceil.toNat < p.toNat then writeVal d 0xFFFFFFFFFFFFFFFF
      else
        modify fun s => s.modLaunch id.toNat fun (x : Launch) => x.declare (p.setWidth 4) s.cycle
        writeVal d (l.prio.setWidth 64)
    | none => writeVal d 0xFFFFFFFFFFFFFFFF) s
/-- prio.pend (R422). -/
def execPrioPend (h : Hdr) (d : BitVec 6) (s : State) : Out :=
  runU user h (do
    checkDst d
    writeVal d (if (← getHere).mark.isSome then 1 else 0)) s
/-- prio.ceil (R422). -/
def execPrioCeil (h : Hdr) (d a b : BitVec 6) (s : State) : Out :=
  runU supOnly h (do
    let (c, v) ← read2 a b [d]
    match Tab.find (← get).ctxs c.toNat with
    | some x =>
      if ceilOk x v then
        modify fun s => s.age.setCtx c.toNat { x with ceil := v.setWidth 4 }
        writeVal d (x.ceil.setWidth 64)
      else writeVal d 0xFFFFFFFFFFFFFFFF
    | none => writeVal d 0xFFFFFFFFFFFFFFFF) s
/-- Makes the first held suspended item with an image at `va` ready. -/
def wakeSusp (va : Word) : List Susp → Option (List Susp)
  | [] => none
  | x :: t => if x.hold && x.image == va then some ({ x with hold := false } :: t) else (wakeSusp va t).map (x :: ·)
/-- prio.wake: a release (R422). -/
def execPrioWake (h : Hdr) (d a : BitVec 6) (s : State) : Out :=
  runU supOnly h (do
    let va ← read1 a [d]
    accessesDone
    match wakeSusp va (← get).susp with
    | some q =>
      modify fun s => { s.age with susp := q }
      writeVal d 1
    | none => writeVal d 0) s
/-- Strands that run an item of a launch. -/
def State.runners (s : State) (id : Nat) : List Nat :=
  s.strands.filterMap fun p => match p.2.item with | some i => if i.launch == id then some p.1 else none | none => none
/-- prio.kill: undispatched and suspended items are discarded, stopped strands freed (R422). -/
def State.kill (s : State) (id : Nat) : Word × State :=
  match s.launch id with
  | none => (0, s)
  | some l =>
    if l.status.isSome then (0, s)
    else
      let s := s.age
      let run := (s.runners id).length
      let stopped := (s.runners id).filter fun n => (s.strand n).halt == .stopped
      let s := stopped.foldl (fun s n => s.vacate n) s
      let s := { s with susp := s.susp.filter fun x => x.item.launch != id }
      (BitVec.ofNat 64 (l.left - run),
        (s.modLaunch id fun (x : Launch) => { x with killed := true, left := run - stopped.length }))
/-- prio.kill (R422). -/
def execPrioKill (h : Hdr) (d a : BitVec 6) (s : State) : Out :=
  runU supOnly h (do
    let id ← read1 a [d]
    let (v, s) := (← get).kill id.toNat
    set s
    writeVal d v) s

/-! ### Pre-emption (R423, R424) -/

/-- A strand that may be marked: number, level and age of its launch, ordinal, groups it holds. -/
structure Victim where
  n : Nat
  level : Nat
  launch : Nat
  ord : Nat
  groups : Nat
  deriving DecidableEq, Repr

/-- Order of marking: lowest level, youngest launch, highest ordinal first (R423). -/
def Victim.before (x y : Victim) : Bool :=
  if x.level ≠ y.level then decide (x.level < y.level)
  else if x.launch ≠ y.launch then decide (y.launch < x.launch)
  else decide (y.ord < x.ord)
/-- Puts a strand in its place in the order of marking. -/
def Victim.place (x : Victim) : List Victim → List Victim
  | [] => [x]
  | y :: t => if y.before x then y :: x.place t else x :: y :: t
/-- Strands of a cluster that run items of launches below `level` and carry no mark, in the order of marking. -/
def State.victims (s : State) (cl level : Nat) : List Victim :=
  let vs := ((List.range 8).map (cl * 8 + ·)).filterMap fun n =>
    let st := s.strand n
    match st.item with
    | some i =>
      match s.launch i.launch with
      | some l =>
        if l.level.toNat < level && st.mark.isNone then some (⟨n, l.level.toNat, i.launch, i.ord, (s.heldOf n).length⟩ : Victim)
        else none
      | none => none
    | none => none
  vs.foldr Victim.place []
/-- All choices from a list, in its order. -/
def choices : List Victim → List (List Victim)
  | [] => [[]]
  | x :: t => let r := choices t; r.map (x :: ·) ++ r
/-- Whether one choice comes before another of the same size. -/
def choiceBefore : List Victim → List Victim → Bool
  | x :: t, y :: u => if x.before y then true else if y.before x then false else choiceBefore t u
  | _, _ => false
/-- The fewest strands that free one placement of a launch on a die (R423). -/
def State.toMark (s : State) (id : Nat) (l : Launch) (die : Nat) : Option (List Victim) :=
  ((List.range 16).map (die * 16 + ·)).foldl (fun best cl =>
    let free := (s.freeGroups cl id).length
    let room := ((List.range 8).map (cl * 8 + ·)).any fun n =>
      (s.strand n).item.isNone && !s.keptFor (s.strand n).reserve id die
    (choices (s.victims cl l.level.toNat)).foldl (fun (best : Option (List Victim)) c =>
      if c.isEmpty || free + (c.foldl (fun m v => m + v.groups) 0) < l.groups || (!room && c.isEmpty) then best
      else match best with
        | none => some c
        | some b => if c.length < b.length || (c.length == b.length && choiceBefore c b) then some c else best) best) none
/-- Whether strands are marked, or freed and kept, for a launch on a die. -/
def State.pursued (s : State) (id die : Nat) : Bool :=
  s.strands.any fun p => dieOf p.1 == die
    && (p.2.reserve == some id || match p.2.mark with | some (_, j) => j == id | none => false)
/-- PREEMPT_MARK: for the highest, oldest launch that cannot place its item (R423). -/
def preemptMark (die : Nat) (s : State) : State :=
  let s := s.age
  let cs := s.launches.filter fun p =>
    s.waiting p.1 p.2 die && !s.placeable p.1 p.2 die && !s.pursued p.1 die && (s.toMark p.1 p.2 die).isSome
  let top := cs.foldl (fun m p => Nat.max m p.2.level.toNat) 0
  match cs.find? fun p => p.2.level.toNat == top with
  | none => s
  | some (id, l) =>
    let due := s.cycle + (s.die die).grace.setWidth 64
    ((s.toMark id l die).getD []).foldl (fun s v => s.setStrand v.n { s.strand v.n with mark := some (due, id), markDone := false }) s
/-- PREEMPT_MARK (R423). -/
def execPreemptMark (die : BitVec 3) (s : State) : Out := .next (tick 1 (preemptMark die.toNat s))
/-- PREEMPT_GRACE_EXPIRY: PREEMPT becomes pending, once a mark (R424). -/
def preemptGraceExpiry (n : Nat) (s : State) : State :=
  let st := s.strand n
  match st.mark with
  | some (due, _) =>
    if st.markDone || s.cycle.toNat < due.toNat then s
    else wake (s.setStrand n { st with markDone := true, events := { st.events with preempt := pendEvent st.events.preempt 0 } })
  | none => s
/-- PREEMPT_GRACE_EXPIRY (R424). -/
def execPreemptGraceExpiry (n : BitVec 10) (s : State) : Out := .next (tick 1 (preemptGraceExpiry n.toNat s))

/-! ### Watchdogs (R428, R429) -/

/-- WATCHDOG_EXPIRY: WATCHDOG becomes pending on every resident strand of the context (R428). -/
def watchdogExpiry (c : Nat) (s : State) : State :=
  match Tab.find s.ctxs c with
  | none => s
  | some x =>
    if !x.wdogArmed || x.wdogLim = 0 || x.wdogCnt.toNat < x.wdogLim.toNat then s
    else
      let v : Word := x.wdogCnt.setWidth 64
      wake { s with
        ctxs := Tab.insert s.ctxs c { x with wdogArmed := false }
        strands := s.strands.map fun (n, st) =>
          (n, if st.item.isSome && st.ctx == c then { st with events := { st.events with watchdog := pendEvent st.events.watchdog v } }
              else st) }
/-- WATCHDOG_EXPIRY (R428). -/
def execWatchdogExpiry (c : BitVec 16) (s : State) : Out := .next (tick 1 (watchdogExpiry c.toNat s))
/-- A function on a kept context: all ones where it is not kept. -/
def onCtx (h : Hdr) (a : BitVec 6) (operands : M (Word × Word)) (f : Word → Ctx → Word × Ctx) (s : State) : Out :=
  runU supOnly h (do
    let (c, v) ← operands
    match Tab.find (← get).ctxs c.toNat with
    | none => writeVal a 0xFFFFFFFFFFFFFFFF
    | some x =>
      let (old, y) := f v x
      modify fun s => s.setCtx c.toNat y
      writeVal a old) s
/-- One operand, the context. -/
def oneCtx (a b : BitVec 6) : M (Word × Word) := do
  let c ← read1 b [a]
  return (c, 0)
/-- WDOG.set (R429). -/
def execWdogSet (h : Hdr) (a b c : BitVec 6) (s : State) : Out :=
  onCtx h a (read2 b c [a]) (fun v x => (x.wdogLim.setWidth 64, { x with wdogLim := v.setWidth 48, wdogArmed := true })) s
/-- WDOG.clr (R429). -/
def execWdogClr (h : Hdr) (a b : BitVec 6) (s : State) : Out :=
  onCtx h a (oneCtx a b) (fun _ x => (x.wdogCnt.setWidth 64, { x with wdogCnt := 0, wdogArmed := true })) s
/-- WDOG.read (R429). -/
def execWdogRead (h : Hdr) (a b : BitVec 6) (s : State) : Out :=
  onCtx h a (oneCtx a b) (fun _ x => (x.wdogCnt.setWidth 64, x)) s

/-! ### Permits (R219) -/

/-- PERMIT_CHANGE: a permit is 1 to 16. -/
def permitChange (die : Nat) (p : BitVec 5) (s : State) : State :=
  if p = 0 || 16 < p.toNat then s else s.setDie die { s.die die with apermit := p }
/-- PERMIT_CHANGE (R219). -/
def execPermitChange (die : BitVec 3) (p : BitVec 5) (s : State) : Out := .next (tick 1 (permitChange die.toNat p s))

end Sys2Proof.Machine
end

