-- ==== Sys2Proof/Machine/Switch.lean ====
section
/-!
DEFINITION. The end of an item and its suspension: EXIT (16 R417), NEXTI (16 R418), the strand image, CTXSV and CTXLD
(16 R425 to R427).
-/
namespace Sys2Proof.Machine

/-! ### EXIT and NEXTI -/

/-- Waits until an output stream holds nothing; its failure is delivered as SFREE delivers it (R344, R417). -/
def streamDone (p : Nat × Stream) : M Unit := do
  let (z, x) := p
  if x.out then
    match x.fail with
    | some (c, sub, val) =>
      modHere fun st => { st with streams := Tab.insert st.streams z { x with fail := none } }
      trapC c sub val
    | none => if !x.buf.isEmpty then waitM
/-- The last command an item has in a channel's queue (R417). -/
def Chan.lastOf (c : Chan) (item : Option (Nat × Nat)) : Option (BitVec 32) :=
  ((c.queue.filter fun e => e.item == item).getLast?).map XEntry.id
/-- An XWAIT on a channel for what the running item issued to it (R417); an item that has been resumed may have issued it on
another cluster (R427). -/
def chanDone (cl ch : Nat) : M Unit := do
  let s ← get
  match (s.chan cl ch).lastOf s.here.itemId with
  | some d =>
    deliverStop cl ch (some d)
    waitM
  | none => return ()
/-- An MWAIT on the engine for what the running item issued to it (R417). -/
def matrixDone (cl : Nat) : M Unit := do
  let s ← get
  match (((s.mx cl).queue.filter fun c => c.item == s.here.itemId).getLast?).map MCmd.num with
  | some d =>
    deliverMatrix cl (some d)
    waitM
  | none => return ()
/-- The waits for transfer and matrix commands, cluster by cluster (R417). -/
def commandsDone : M Unit := do
  ((← get).clusters.map Prod.fst).forM fun cl => do
    (List.range 16).forM (chanDone cl)
    matrixDone cl
/-- Waits for the running item's matrix tasks (R417). -/
def tasksDone : M Unit := do
  let s ← get
  if s.dies.any fun (p : Nat × Die) => p.2.tasks.any fun t => t.item == s.here.itemId && !t.written then waitM
/-- The waits of R417, with the deliveries of R346 and R382; those of R446 for tree operations are EXIT's alone. -/
def itemWaits (trees : Bool) : M Unit := do
  if !(← getHere).syms.isEmpty then waitM .symbol
  (← getHere).streams.forM streamDone
  if trees then
    treesDone
    deliverTree
  if !(← getHere).queue.isEmpty then waitM
  commandsDone
  tasksDone
/-- EXIT (R417). -/
def execExit (h : Hdr) (s : State) : Out :=
  runU user h (do
    itemWaits true
    let s ← get
    set (s.vacate s.cur)
    match s.here.item with
    | some i => modify fun s => s.itemOver i.launch
    | none => return ()) s

/-- The next item of the running strand's launch on its die, unless the strand is marked (R418). -/
def State.follower (s : State) : Option (Item × Launch × Nat) :=
  let st := s.here
  if st.mark.isSome then none
  else st.item.bind fun i => (s.launch i.launch).bind fun l => (l.nextItem (dieOf s.cur)).map fun o => (i, l, o)
/-- NEXTI (R418). -/
def execNexti (h : Hdr) (d : BitVec 6) (s : State) : Out :=
  runU user h (do
    checkDst d
    match (← get).follower with
    | none => writeVal d 0
    | some _ =>
      itemWaits false
      match (← get).follower with
      | none => writeVal d 0
      | some (i, l, o) =>
        modify fun s => (s.seen s.cur).age
        let s ← get
        match bindSlot0 s.cur l s with
        | (none, s) =>
          set s
          waitM
        | (some slot, s) =>
          set s.dropFills
          let die := dieOf s.cur
          modHere fun st =>
            let st := { (st.landAll.setSlot0 slot).preload i.launch l o with streams := [] }
            { st with item := some { i with ord := o } }
          modify fun s => s.modLaunch i.launch fun (y : Launch) =>
            { y with next := Tab.insert y.next die (o + 1), left := y.left - 1 }
          modify fun s => s.withdraw die i.launch
          writeVal d 1) s

/-! ### The strand image (Table 16.8) -/

/-- Size of a strand image. -/
def strandImage : Nat := 2048
/-- Eight bytes of a word. -/
def wordBytes (w : Word) : List Byte := leBytes w.toNat 8
/-- Code of a poisoned state. -/
def Reason.code : Reason → Nat
  | .data => 1 | .timeout => 2 | .failed => 3
/-- SK and STK of a register. -/
def SVal.image : SVal → Word × Nat
  | .conc v => (v, 0)
  | .poison r => (0, r.code)
  | _ => (0, 0)
/-- The state a slot of an image gives. -/
def slotState (v : Word) (k : Nat) : SVal :=
  if k = 1 then .poison .data else if k = 2 then .poison .timeout else if k = 3 then .poison .failed else .conc v
/-- State and value of `sk` in the image: the registers that `a` and `b` name give HSCRA and HSCRB (R426). -/
def Strand.slotOf (st : Strand) (a b : BitVec 6) (k : Nat) : Word × Nat :=
  if b.toNat = k then (st.hscrb, 0) else if a.toNat = k then (st.hscra, 0) else (st.reg k).image
/-- Bytes +456: WORLD, SBCHK, EVEN from PEVEN and MODE from PMODE. -/
def Strand.stateByte (st : Strand) : Word :=
  (st.status &&& 0x90) ||| (if st.peven then 4 else 0) ||| (if st.pmode then 1 else 0)
/-- Bytes of stream `z` in the image. -/
def Strand.streamImage (st : Strand) (z : Nat) : List Byte :=
  match Tab.find st.streams z with
  | none => List.replicate 72 0
  | some x => (List.range 8).flatMap (fun i => wordBytes (x.record.getD i 0)) ++ wordBytes ((if x.out then 2 else 1) * 2 ^ 62 + BitVec.ofNat 64 x.next)
/-- Bytes of WMSET slot `k` in the image. -/
def Strand.slotImage (st : Strand) (k : Nat) : List Byte :=
  match Tab.find st.wmset k with
  | none => List.replicate 32 0
  | some x => wordBytes x.base ++ wordBytes x.len ++ wordBytes x.pennant
      ++ wordBytes ((x.gen.setWidth 64 <<< 16) ||| x.esize.setWidth 64)
/-- The bytes that CHECK covers: +0 to +535, +568 to +599, and +608 on. -/
def imageCovered (bs : List Byte) : List Byte := bs.take 536 ++ (bs.drop 568).take 32 ++ bs.drop 608
/-- The image without its CHECK. -/
def Strand.imageBody (st : Strand) (groups : Nat) (a b : BitVec 6) (husk : Word) : List Byte :=
  let i := st.item.getD ⟨0, 0, 0, 0⟩
  leBytes (2 ^ 48 + groups * 2 ^ 40) 8
    ++ (List.range 47).flatMap (fun k => wordBytes (st.slotOf a b (k + 1)).1)
    ++ (List.range 47).map (fun k => BitVec.ofNat 8 (st.slotOf a b (k + 1)).2)
    ++ List.replicate 17 0
    ++ leBytes (st.p.toNat / 2 * 2) 8 ++ wordBytes st.stateByte
    ++ wordBytes st.epc ++ wordBytes st.ecause ++ wordBytes st.eval ++ wordBytes st.fpcsr
    ++ leBytes st.estart.toNat 8 ++ leBytes st.ffidx.toNat 8 ++ leBytes st.rad.toNat 8
    ++ wordBytes st.afaultop ++ wordBytes st.afaultaddr
    ++ leBytes st.adirty.toNat 8 ++ leBytes st.mdirty.toNat 8 ++ leBytes st.apresent.toNat 8 ++ leBytes st.mpresent.toNat 8
    ++ leBytes st.symlim.toNat 8 ++ leBytes i.launch 8 ++ leBytes i.ord 8 ++ wordBytes husk
    ++ List.replicate 8 0
    ++ (match st.refusal with
      | none => List.replicate 8 0
      | some x => leBytes (x.handle.toNat + x.cause.toNat * 2 ^ 16 + x.sub.toNat * 2 ^ 24) 8)
    ++ List.replicate 88 0
    ++ (List.range 16).flatMap st.streamImage
    ++ (List.range 4).flatMap st.slotImage
    ++ List.replicate 64 0
/-- The image (Table 16.8). -/
def Strand.image (st : Strand) (key : Word) (groups : Nat) (a b : BitVec 6) (husk : Word) : List Byte :=
  let bs := st.imageBody groups a b husk
  bs.take 600 ++ wordBytes (Config.keyedHash key (imageCovered bs)) ++ bs.drop 608

/-! ### CTXSV (R426) -/

/-- Suspends the running strand's item with an image: its groups become free and the strand runs no item (R426); an
EBUDGET_EXHAUSTED not yet taken goes with the item (R474). -/
def State.suspend (s : State) (image : Word) (hold : Bool) : State :=
  match s.here.item with
  | none => s
  | some i =>
    let x : Susp := ⟨i, dieOf s.cur, (s.heldOf s.cur).length, image, hold, s.here.events.ebudget⟩
    { s.age with susp := s.susp ++ [x] }.vacate s.cur
/-- CTXSV; a and b are aligned to 64 bytes, and EVAL of ALIGN is the first that is not. It completes before the delivery of a
stop that comes during its wait. -/
def saveCtx (h : Hdr) (hold : Bool) (d a b : BitVec 6) (s : State) : Out :=
  runU supOnly h (do
    let (va, vb) ← read2 a b [d]
    needAlign va 64
    needAlign vb 64
    let st ← getHere
    if st.astop.isSome || (st.ahold && !st.queue.isEmpty) then writeVal d 1
    else
      modHere fun st => { st with inside := some .fence }
      if !st.syms.isEmpty then waitM .symbol
      treesDone
      if !st.queue.isEmpty then waitM
      checkRange 2 va strandImage
      st.streams.forM streamDone
      modHere Strand.landAll
      let s ← get
      let st := s.here
      storeRange 2 va (st.image (s.mgmt.bootKey.getD 0) (s.heldOf s.cur).length a b vb)
      modHere fun st => { st with refusal := none }
      modify fun s => s.suspend va hold) s
/-- CTXSV (R426). -/
def execCtxsv (h : Hdr) (d a b : BitVec 6) (s : State) : Out := saveCtx h false d a b s
/-- CTXSV.hold (R426). -/
def execCtxsvHold (h : Hdr) (d a b : BitVec 6) (s : State) : Out := saveCtx h true d a b s

/-! ### CTXLD (R427) -/

/-- The stream that an image binds as `z`: an input stream refills from its ordinal; accesses check against the mode the
item goes on in. -/
def imageStream (bs : List Byte) (sup : Bool) (z : Nat) : Option Stream :=
  let w (i : Nat) : Word := hdrWord (bs.drop (704 + 72 * z)) i
  let dir := bits (w 8) 62 2
  if dir = 0 then none else some ⟨(List.range 8).map w, dir == 2, sup, bits (w 8) 0 48, [], none⟩
/-- The WMSET slot `k` of an image. -/
def imageSlot (bs : List Byte) (k : Nat) : Option Slot :=
  let w (i : Nat) : Word := hdrWord (bs.drop (1856 + 32 * k)) i
  if w 1 = 0 then none else some ⟨w 0, w 1, w 2, (w 3).extractLsb' 16 32, (w 3).extractLsb' 0 16⟩
/-- A table of what `f` gives for the keys below `n`. -/
def tabOf {α : Type} (n : Nat) (f : Nat → Option α) : Tab α := (List.range n).filterMap fun k => (f k).map fun v => (k, v)
/-- What CTXLD restores of the strand (Table 16.8). -/
def Strand.reload (st : Strand) (bs : List Byte) : Strand :=
  let w := hdrWord bs
  let q := w 57
  let t := w 76
  let status := setBit (setBit (setBit (setBit st.status 0 (q.getLsbD 0)) 2 (q.getLsbD 2)) 4 (q.getLsbD 4)) 5 false
  let regs := (List.range 47).foldl (fun (x : Strand) k =>
    x.setReg (k + 1) (slotState (w (k + 1)) (bs.getD (384 + k) 0).toNat)) { st with s := [] }
  { regs with
    p := (w 56).setWidth 8 &&& 0xFE
    pend := []
    outs := []
    status := status
    epc := w 58 &&& 0x00FFFFFFFFFFFFFF
    ecause := w 59
    eval := w 60
    fpcsr := w 61
    estart := (w 62).setWidth 19
    ffidx := (w 63).setWidth 19
    rad := (w 64).setWidth 7
    afaultop := w 65
    afaultaddr := w 66
    adirty := (w 67).setWidth 32
    mdirty := (w 68).setWidth 24
    apresent := (w 69).setWidth 32
    mpresent := (w 70).setWidth 24
    symlim := (w 71).setWidth 32
    streams := tabOf 16 (imageStream bs (q.getLsbD 0))
    wmset := tabOf 4 (imageSlot bs)
    refusal := if bits t 16 8 = 0 then none else some ⟨t.extractLsb' 16 8, t.extractLsb' 24 8, t.extractLsb' 0 16⟩
    resumed := none }
/-- The status of the checks on an image before its husk: 1 or 2, or 0 (R427). -/
def imageStatus (s : State) (bs : List Byte) : Nat :=
  let w := hdrWord bs
  if bits (w 0) 48 16 ≠ 1 || bits (w 0) 40 8 ≠ (s.heldOf s.cur).length
      || w 75 ≠ Config.keyedHash (s.mgmt.bootKey.getD 0) (imageCovered bs) then 1
  else match s.here.resumed, s.here.item with
    | some _, some i => if (w 72).toNat = i.launch && (w 73).toNat = i.ord then 0 else 2
    | _, _ => 2
/-- The image goes into the strand, with the husk where there is one. -/
def loadImage (bs : List Byte) (husk : Option (Husk × Word × Word × Word)) : M (Option (BitVec 56)) := do
  let epc := hdrWord bs 58 &&& 0x00FFFFFFFFFFFFFF
  if epc.toNat % 8 ≠ 0 then trapI .align 0 epc
  modify State.dropFills
  modHere fun st => st.reload bs
  match husk with
  | none => return some (epc.setWidth 56)
  | some (k, w1, w2, w3) =>
    match restoreHusk k w1 w2 w3 (← get) with
    | none => waitM
    | some s' =>
      set s'
      return some (epc.setWidth 56)
/-- CTXLD (R427): on a refusal d holds the lowest status and nothing is restored. -/
def execCtxld (h : Hdr) (d a : BitVec 6) (s : State) : Out :=
  run supOnly h 8 (do
    let va ← read1 a [d]
    needAlign va 64
    if !(← getHere).queue.isEmpty then waitM
    let bs ← loadRange 2 va strandImage
    let n := imageStatus (← get) bs
    let vh := hdrWord bs 74
    if n ≠ 0 then
      writeVal d (BitVec.ofNat 64 n)
      return none
    else if vh = 0 then loadImage bs none
    else
      match ← readHusk vh with
      | .error k =>
        writeVal d (BitVec.ofNat 64 (8 + k))
        return none
      | .ok k => loadImage bs (some k)) s

end Sys2Proof.Machine
end

