-- ==== Sys2Proof/Machine/MemorySide.lean ====
section
/-!
DEFINITION. Memory-side units: frame classes and worlds (18 R467, R472; 19 R501), budgets (18 R475), injected errors (18
R478), the memory-side cache (18 R480), scrubbing (18 R471), and peer windows and channels (18 R489, R490).
-/
namespace Sys2Proof.Machine

/-- All ones, the answer of a function that is refused. -/
def allOnes : Word := 0xFFFFFFFFFFFFFFFF
/-- Offset in the local map of a physical address that names this device (R464). -/
def State.localPa (s : State) (w : Word) : Option Nat :=
  let dev := w.toNat / 2 ^ 46
  if dev = 0 || dev = s.mgmt.devno.toNat then some (w.toNat % 2 ^ 46) else none

/-! ### Frames (R467, R472) -/

/-- Frame of a place in HBM4. -/
def Place.frame : Place → Option Nat
  | .mem pa => if pa < hbmEnd then some (pa / 2 ^ 30) else none
  | _ => none
/-- Whether an access accepted to a frame is not yet performed: a symbol's. -/
def State.frameBusy (s : State) (f : Nat) : Bool :=
  s.strands.any fun p => p.2.syms.any fun q => match q.2.src.range with | some (pl, _) => pl.frame == some f | none => false
/-- The page or block a kept translation leads to. -/
def Tlb.target (t : Tlb) : Nat := if t.big then bits t.pte 29 23 * 2 ^ 29 else ptePa t.pte * 2 ^ 16
/-- Whether a translation into a frame of this device is held (status 1). -/
def State.frameMapped (s : State) (f : Nat) : Bool :=
  s.dies.any fun (p : Nat × Die) => p.2.tlb.any fun t =>
    match s.localPa (BitVec.ofNat 64 t.target) with
    | some pa => pa / 2 ^ 30 == f
    | none => false
/-- Whether a tree pool page lies in a frame (status 2). -/
def State.framePooled (s : State) (f : Nat) : Bool :=
  s.regions.any fun (p : Nat × Region) => p.2.pages.any fun g => g / 16384 == f
/-- Whether a promotion copy lies in a frame (status 3). -/
def State.framePromoted (s : State) (f : Nat) : Bool :=
  s.promoted.any (fun p => p.2 == f) || s.promoting.any fun p => p.2.frame == f
/-- Every byte of a frame becomes zero and clean; what caches held of it is discarded, and no agent reads an older byte
(R472). -/
def State.zeroFrame (s : State) (f : Nat) : State :=
  let lo := f * 2 ^ 30
  let hi := lo + 2 ^ 30
  let out (k : Nat) : Bool := decide (k < lo) || decide (hi ≤ k)
  { s.alone none with
    mem := Memory.zero s.mem lo hi
    l2old := s.l2old.filter fun c => out c.1
    mscOld := s.mscOld.filter fun c => out c.1
    poisoned := s.poisoned.filter fun l => out (l * 64)
    flips := s.flips.filter fun c => out (c.1 * 64)
    l2bad := s.l2bad.filter fun c => out (c.1 * 64)
    mscBad := s.mscBad.filter fun c => out (c.1 * 64) }
/-- Writes a frame class table entry. -/
def State.setFrame (s : State) (f : Nat) (x : Frame) : State := { s with frames := Tab.put Frame.reset s.frames f x }
/-- The refusals and the change that RCLASS.set and SMC.setw share (R472, R501): waits for accesses to the frame, during
which no event is taken, then statuses 1 to 3, then zeroes it and writes its entry. -/
def changeFrame (a : BitVec 6) (f : Nat) (new : Frame → Frame) : M Unit := do
  let s ← get
  if s.frameBusy f then
    modHere fun st => { st with inside := some .frame }
    waitM
  if s.frameMapped f then writeVal a 1
  else if s.framePooled f then writeVal a 2
  else if s.framePromoted f then writeVal a 3
  else
    set ((s.zeroFrame f).setFrame f (new (s.frame f)))
    writeVal a 0
/-- RCLASS.set (R472). -/
def execRclassSet (h : Hdr) (a b c : BitVec 6) (s : State) : Out :=
  runU supOnly h (do
    let (f, v) ← read2 b c [a]
    let s ← get
    if 768 ≤ f.toNat || bits v 0 2 = 3 || bits v 3 61 ≠ 0 then writeVal a 5
    else if !s.here.secure && (s.frame f.toNat).world then writeVal a 4
    else changeFrame a f.toNat fun x => { x with cls := v.extractLsb' 0 2, promo := v.getLsbD 2 }) s
/-- The entry as RCLASS.read returns it (Table 18.3). -/
def Frame.word (x : Frame) : Word :=
  (BitVec.ofNat 64 (usableBytes x.cls / 2 ^ 20) <<< 16) ||| (if x.world then 8 else 0) ||| (if x.promo then 4 else 0)
    ||| x.cls.setWidth 64
/-- RCLASS.read (R472). -/
def execRclassRead (h : Hdr) (a b : BitVec 6) (s : State) : Out :=
  runU supOnly h (do
    let f ← read1 b [a]
    let s ← get
    writeVal a (if 768 ≤ f.toNat then allOnes else (s.frame f.toNat).word)) s

/-! ### Budgets (R475) -/

/-- EBSET.corr (R475). -/
def execEbsetCorr (h : Hdr) (a b c : BitVec 6) (s : State) : Out :=
  onCtx h a (read2 b c [a]) (fun v x => (x.ebcorr, { x with ebcorr := v, spentCorr := false })) s
/-- EBSET.det (R475). -/
def execEbsetDet (h : Hdr) (a b c : BitVec 6) (s : State) : Out :=
  onCtx h a (read2 b c [a]) (fun v x => (x.ebdet, { x with ebdet := v, spentDet := false })) s
/-- EBSET.rdcorr (R475). -/
def execEbsetRdcorr (h : Hdr) (a b : BitVec 6) (s : State) : Out :=
  onCtx h a (oneCtx a b) (fun _ x => (x.ebcorr, x)) s
/-- EBSET.rddet (R475). -/
def execEbsetRddet (h : Hdr) (a b : BitVec 6) (s : State) : Out :=
  onCtx h a (oneCtx a b) (fun _ x => (x.ebdet, x)) s

/-! ### Injected errors (R478) -/

/-- Toggles the flip of bit `i` of a line: class U delivers the stored bit changed. -/
def State.flip (s : State) (line i : Nat) : State :=
  if s.lineClass (line * 64) = 0 then { s with mem := flipBit s.mem line i }
  else
    let fs := Tab.get [] s.flips line
    { s with flips := Tab.put [] s.flips line (if fs.contains i then fs.filter (· != i) else fs ++ [i]) }
/-- The line an error may be injected into, or none for status 1. -/
def State.errLine (s : State) (v : Word) : Option Nat :=
  match s.localPa v with
  | none => none
  | some pa =>
    match s.placeOf pa with
    | .ok (.mem pa) => if s.worldOf pa && !s.here.secure then none else some (pa / 64)
    | _ => none
/-- An error at PA b: one bit, or one bit in each of two symbols, which bits being open (DESIGN CHOICE log 15); the nodes of a pool page
fail their check unless class P corrects the line. -/
def injectLine (h : Hdr) (det : Bool) (a b : BitVec 6) (s : State) : Out :=
  runU supOnly h (do
    let v ← read1 b [a]
    match (← get).errLine v with
    | none => writeVal a 1
    | some line =>
      let x ← freshFree
      let i := bits x 0 9
      let j := (i / 16 + 1 + bits x 16 5 % 31) % 32 * 16 + bits x 24 4
      modify fun s =>
        let s := (s.cleanL2 (line * 64) (line * 64 + 64)).cleanMsc (line * 64) (line * 64 + 64)
        let s := if det then (s.flip line i).flip line j else s.flip line i
        if !det && s.lineClass (line * 64) = 2 then s else s.touchPool (line * 64)
      writeVal a 0) s
/-- ERRINJ.corr (R478). -/
def execErrinjCorr (h : Hdr) (a b : BitVec 6) (s : State) : Out := injectLine h false a b s
/-- ERRINJ.det (R478). -/
def execErrinjDet (h : Hdr) (a b : BitVec 6) (s : State) : Out := injectLine h true a b s
/-- Flips one bit of an array; the hidden parity stays, so that its group no longer agrees; columns 24 to 31 have no parity
bit (R221, R223, R478). -/
def Group.inject (g : Group) (cls : BitVec 2) (row col : Nat) : Group :=
  let g := g.setRow row (g.row row ^^^ ((1 : BitVec 1024) <<< col))
  if cls = 0 || (24 ≤ col && col < 32) then g
  else { g with parity := Tab.put 0 g.parity row (Tab.get 0 g.parity row ^^^ ((1 : BitVec 32) <<< (col / 32))) }
/-- ERRINJ.arr (R478). -/
def execErrinjArr (h : Hdr) (a b c : BitVec 6) (s : State) : Out :=
  runU supOnly h (do
    let (g, v) ← read2 b c [a]
    let s ← get
    let row := bits v 0 16 + (if v.getLsbD 26 then 32768 else 0)
    let secret := match (s.group g.toNat).holder with | some n => (s.strand n).secure | none => false
    if 512 ≤ g.toNat || bits v 27 37 ≠ 0 || 65536 ≤ row || (secret && !s.here.secure) then writeVal a 1
    else
      set (s.setGroup g.toNat ((s.group g.toNat).inject (s.groupCls g.toNat) row (bits v 16 10)))
      writeVal a 0) s

/-! ### The memory-side cache (R480) -/

/-- Lines of 128 bytes of a range that the slices hold dirty and the issuer may act on. -/
def State.dirtyLines (s : State) (lo hi : Nat) : List Nat :=
  (s.mscOld.filterMap fun c =>
    if lo ≤ c.1 && c.1 < hi && (s.here.secure || !s.worldOf c.1) then some (c.1 / 128) else none).eraseDups
/-- Lines of a local range that the issuer may act on: a non-secure one skips those of secure frames. -/
def State.openLines (s : State) (lo hi : Nat) : Nat :=
  (List.range 768).foldl (fun n f =>
    let a := Nat.max lo (f * 2 ^ 30)
    let b := Nat.min hi ((f + 1) * 2 ^ 30)
    if a < b && (s.here.secure || !(s.frame f).world) then n + (b - a) / 128 else n) 0
/-- A line the slices may hold dirty: whether they still do is open (DESIGN CHOICE log 8); dirty data is written to HBM4, or
discarded. Counts the lines that were dirty. -/
def actLine (drop : Bool) (p : State × Nat) (l : Nat) : State × Nat :=
  let s := p.1
  let t := { s with free := s.free + 1 }
  if (Config.freeBits s.free).getLsbD 0 then
    (if drop then t.dropMsc (l * 128) (l * 128 + 128) else t.cleanMsc (l * 128) (l * 128 + 128), p.2 + 1)
  else (t.cleanMsc (l * 128) (l * 128 + 128), p.2)
/-- A range form: it answers how many lines it affected, the dirty ones and, where lines are dropped, those held clean,
whose number is open (R479, R480; DESIGN CHOICE log 8). -/
def mscop (h : Hdr) (a b c : BitVec 6) (drops discards : Bool) (s : State) : Out :=
  runU supOnly h (do
    let (v, n) ← read2 b c [a]
    let s ← get
    match s.localPa v with
    | none => writeVal a allOnes
    | some pa =>
      if v.toNat % 128 ≠ 0 || n.toNat % 128 ≠ 0 || hbmEnd < pa + n.toNat then writeVal a allOnes
      else
        let (s', k) := (s.dirtyLines pa (pa + n.toNat)).foldl (actLine discards) (s, 0)
        set s'
        if drops then
          let x ← freshFree
          writeVal a (BitVec.ofNat 64 (k + x.toNat % (s.openLines pa (pa + n.toNat) - k + 1)))
        else writeVal a (BitVec.ofNat 64 k)) s
/-- MSCOP.clean (R480). -/
def execMscopClean (h : Hdr) (a b c : BitVec 6) (s : State) : Out := mscop h a b c false false s
/-- MSCOP.clinv (R480). -/
def execMscopClinv (h : Hdr) (a b c : BitVec 6) (s : State) : Out := mscop h a b c true false s
/-- MSCOP.inv: dirty data is discarded (R480). -/
def execMscopInv (h : Hdr) (a b c : BitVec 6) (s : State) : Out := mscop h a b c true true s
/-- MSCOP.stat: hits, misses and write-backs are open, corrected events are counted (R480, R473). -/
def execMscopStat (h : Hdr) (a b c : BitVec 6) (s : State) : Out :=
  runU supOnly h (do
    let (k, i) ← read2 b c [a]
    if 12 ≤ k.toNat || 4 ≤ i.toNat then writeVal a allOnes
    else if i = 3 then writeVal a (Tab.get 0 (← get).sliceCorr k.toNat)
    else writeVal a (← freshFree)) s

/-! ### Scrubbing (R471) -/

/-- The agent of a scrub: charged to no context. -/
def scrubWho : Who := ⟨none, 0, 0, true, true, 7, .agent 0x10000, false, .alloc⟩
/-- SCRUB: reads a line of class P or of the capacity tier; a page that is served from a copy of another class is left alone
(R471; DEDUCED log 127). -/
def scrub (pa : Nat) (s : State) : State :=
  if ((pa < hbmEnd && decide (pa % 2 ^ 30 < usableBytes (s.frame (pa / 2 ^ 30)).cls)) || (capBase ≤ pa && pa < capEnd))
      && s.lineClass pa = 2 then (readLine scrubWho (pa / 64) s).2
  else s
/-- SCRUB (R471). -/
def execScrub (pa : BitVec 52) (s : State) : Out := .next (tick 1 (scrub pa.toNat s))

/-! ### Peers (R489, R490) -/

/-- Whether an entry number names an entry that can be opened. -/
def windowOk (n : Word) : Bool := decide (1 ≤ n.toNat) && decide (n.toNat < 64)
/-- PEERW.open (R490). -/
def execPeerwOpen (h : Hdr) (a b c : BitVec 6) (s : State) : Out :=
  runU supOnly h (do
    let (n, v) ← read2 b c [a]
    if !windowOk n || bits v 3 43 ≠ 0 then writeVal a allOnes
    else
      let s ← get
      writeVal a (Tab.get 0 s.windows n.toNat)
      modify fun s => { s with windows := Tab.put 0 s.windows n.toNat (v ||| 8) }) s
/-- Whether an access accepted through window `n` is not yet performed. -/
def State.windowBusy (s : State) (n : Nat) : Bool :=
  s.remotes.any (fun r => r.ans.isNone && match r.place with | .peer k _ => k == n | _ => false)
    || s.strands.any fun p => p.2.syms.any fun q => match q.2.src.range with | some (.peer k _, _) => k == n | _ => false
/-- PEERW.close (R490). -/
def execPeerwClose (h : Hdr) (a b : BitVec 6) (s : State) : Out :=
  runU supOnly h (do
    let n ← read1 b [a]
    if !windowOk n then writeVal a allOnes
    else
      let s ← get
      if s.windowBusy n.toNat then waitM
      let old := Tab.get 0 s.windows n.toNat
      writeVal a old
      modify fun s => { s with windows := Tab.put 0 s.windows n.toNat (old &&& ~~~(8 : Word)) }) s
/-- PEERW.read (R490). -/
def execPeerwRead (h : Hdr) (a b : BitVec 6) (s : State) : Out :=
  runU supOnly h (do
    let n ← read1 b [a]
    let s ← get
    writeVal a (if windowOk n then Tab.get 0 s.windows n.toNat else allOnes)) s
/-- An inbound channel. -/
def State.ramirOf (s : State) (k : Nat) : Ramir := Tab.get ⟨none, [], []⟩ s.ramir k
/-- Writes an inbound channel. -/
def State.setRamir (s : State) (k : Nat) (x : Ramir) : State := { s with ramir := Tab.put ⟨none, [], []⟩ s.ramir k x }
/-- A binding as PEERW.bind gives it. -/
def Ramir.bindWord (x : Ramir) : Word := match x.bind with | some c => 0x10000 ||| BitVec.ofNat 64 c | none => 0
/-- PEERW.bind (R490). -/
def execPeerwBind (h : Hdr) (a b c : BitVec 6) (s : State) : Out :=
  runU supOnly h (do
    let (k, v) ← read2 b c [a]
    if 64 ≤ k.toNat || bits v 17 47 ≠ 0 then writeVal a allOnes
    else
      let x := (← get).ramirOf k.toNat
      writeVal a x.bindWord
      modify fun s => s.setRamir k.toNat { x with bind := if v.getLsbD 16 then some (bits v 0 16) else none }) s

end Sys2Proof.Machine
end

