-- ==== Sys2Proof/Machine/Links.lean ====
section
/-!
DEFINITION. PCIe, peers and late answers: host messages (18 R488), Ramir messages (18 R492, R493), inbound requests (18
R484, R485; 19 R496, R499; 03 R94, R95), host writes to registers (18 R486, R487; 19 R499), answers from peers and the host
(05 R182; 18 R491), and symbols (06 R191, R199, R200).
-/
namespace Sys2Proof.Machine

/-! ### Messages to the host (R488) -/

/-- HMSG (R488): a release at system scope. -/
def execHmsg (h : Hdr) (a b : BitVec 6) (vec : BitVec 11) (s : State) : Out :=
  runU supOnly h (do
    let va ← read1 b [a]
    needAlign va 64
    accessesDone
    let bs ← loadOwn va 64
    let m := (← get).mgmt
    if m.hrcnt = 0 then writeVal a 2
    else if m.hrhead.toNat + m.hrcnt.toNat ≤ m.hrtail.toNat then writeVal a 1
    else
      let addr := m.hrbase.toNat / 64 * 64 + m.hrtail.toNat % m.hrcnt.toNat * 64
      modify fun s => { s with
        out := s.out ++ [.hostWrite none addr bs, .msix vec.toNat]
        mgmt := { s.mgmt with hrtail := s.mgmt.hrtail + 1 } }
      writeVal a 0) s

/-! ### Ramir messages (R492, R493) -/

/-- Whether an outstanding request of a strand is a message. -/
def Remote.isMessage (r : Remote) (n : Nat) : Bool :=
  r.who == .strand n && match r.op with | .message .. => true | _ => false
/-- The verdict an answer carries: 3 where the peer refused or timed out (R493). -/
def verdictOf (bs : List Byte) (bad : Bool) : Word :=
  if bad then 3
  else match bs with
    | v :: _ => if v.toNat ≤ 2 then v.setWidth 64 else 3
    | [] => 3
/-- PMSG.send: a message on the path to the peer's inbox (R492); it waits for the verdict (R493). -/
def execPmsgSend (h : Hdr) (a b c ch : BitVec 6) (s : State) : Out :=
  runU user h (do
    let (va, peer) ← read2 b c [a]
    let s ← get
    match s.remotes.find? fun r => r.isMessage s.cur with
    | some r =>
      match r.ans with
      | none => waitM .remote
      | some x =>
        let ((bs, bad), s) := s.answered { s.whoStrand with src := 8 } r.place 1 x
        set s
        writeVal a (verdictOf bs bad)
    | none =>
      needAlign va 64
      accessesDone
      let bs ← loadOwn va 64
      let s ← get
      if !windowOk peer || !(Tab.get 0 s.windows peer.toNat).getLsbD 3 then writeVal a 3
      else
        set (s.request (.strand s.cur) (some s.here.ctx) (.peer peer.toNat (mgmtBase + inboxAt ch.toNat)) 1
          (.message ch.toNat bs) va)
        waitM .remote) s
/-- PMSG.recv: takes the oldest message of a channel bound to the context (R493). -/
def execPmsgRecv (h : Hdr) (a b ch : BitVec 6) (s : State) : Out :=
  runU user h (do
    let va ← read1 b [a]
    let s ← get
    let x := s.ramirOf ch.toNat
    if x.bind ≠ some s.here.ctx then writeVal a allOnes
    else match x.msgs with
      | [] => writeVal a 0
      | m :: rest =>
        checkRange 2 va 64
        storeRange 2 va m
        modify fun s => s.setRamir ch.toNat { s.ramirOf ch.toNat with msgs := rest }
        writeVal a (hdrWord m 0)) s
/-- PMSG.wait (R493). -/
def execPmsgWait (h : Hdr) (a ch : BitVec 6) (s : State) : Out :=
  runU user h (do
    checkDst a
    let s ← get
    let x := s.ramirOf ch.toNat
    if x.bind ≠ some s.here.ctx then writeVal a allOnes
    else if x.msgs.isEmpty then waitM
    else writeVal a (BitVec.ofNat 64 x.msgs.length)) s
/-- A completion that leaves for a requester. -/
def State.complete (s : State) (data : Option (List Byte)) (bad : Bool) : State :=
  { s with out := s.out ++ [.completion data bad] }
/-- The next sequence number: 0 is skipped on wrap (R492). -/
def nextSeq (x : BitVec 32) : BitVec 32 := if x + 1 = 0 then 1 else x + 1
/-- A message arrives: the receiver writes its header, and the completion carries the verdict (R492). -/
def ramirArrival (ch frm : Nat) (ctx : BitVec 16) (body : List Byte) (s : State) : State :=
  let x := s.ramirOf ch
  let verdict (v : Byte) (s : State) : State := s.complete (some [v]) false
  if x.bind.isNone then verdict 2 s
  else if 16 ≤ x.msgs.length then verdict 1 s
  else
    let seq := nextSeq (Tab.get 0 x.seqs frm)
    let head := leBytes (seq.toNat * 2 ^ 32 + ctx.toNat * 2 ^ 16 + frm) 8
    let m := head ++ ((body ++ List.replicate 64 0).take 64).drop 8
    verdict 0 (wake (s.setRamir ch { x with msgs := x.msgs ++ [m], seqs := Tab.insert x.seqs frm seq }))
/-- RAMIR_MESSAGE_ARRIVAL (R492). -/
def execRamirMessageArrival (ch frm : BitVec 6) (ctx : BitVec 16) (body : List (BitVec 8)) (s : State) : Out :=
  .next (tick 1 (ramirArrival ch.toNat frm.toNat ctx body s))

/-! ### Host writes to registers (R486, R487, R499) -/

/-- The status record of Table 19.3. -/
def Mgmt.status (m : Mgmt) : List Byte := leBytes m.failed.toNat 8 ++ leBytes m.detail.toNat 8 ++ leBytes m.answered.toNat 8
/-- A host write to MBOXSEQ: WAITM sees it; in the safe state the security processor answers it (R487, R499). -/
def writeMboxseq (v : Word) (s : State) : State :=
  if s.mgmt.state = 2 && v != s.mgmt.mboxseq then
    let m := { s.mgmt with mboxseq := v, answered := s.mgmt.answered + 1 }
    { s with mgmt := m, mem := Memory.setBytes s.mem (mgmtBase + 0x10F00) m.status, out := s.out ++ [.msix 0] }
  else wake { s with mgmt := { s.mgmt with mboxseq := v } }
/-- A host write to the register at an offset, through its Access column (Table 18.6). -/
def writeMgmt (off : Nat) (v : Word) (s : State) : State :=
  if off = 0x08 then { s with mgmt := { s.mgmt with devno := v.setWidth 6 } }
  else if off = 0x10 then writeMboxseq v s
  else if off = 0x18 then { s with mgmt := { s.mgmt with hrbase := v &&& ~~~63 } }
  else if off = 0x20 then { s with mgmt := { s.mgmt with hrcnt := v.setWidth 17 } }
  else if off = 0x30 then { s with mgmt := { s.mgmt with hrhead := v } }
  else s
/-- MBOXSEQ_WRITE (R487). -/
def execMboxseqWrite (v : BitVec 64) (s : State) : Out := .next (tick 1 (writeMboxseq v s))
/-- MGMT_REGISTER_WRITE (R486). -/
def execMgmtRegisterWrite (off : BitVec 12) (v : BitVec 64) (s : State) : Out := .next (tick 1 (writeMgmt off.toNat v s))

/-! ### Inbound requests (R484, R485, R496, R499) -/

/-- An inbound request as an agent: charged to no context. -/
def inboundWho (src : PcieSource) : Who := ⟨none, src.port.toNat, 0, true, false, 6, .agent 0x10000, false, .alloc⟩
/-- Whether a request comes over an IDE stream through a TDISP interface in RUN for a secure context (R496). -/
def State.trusted (s : State) (src : PcieSource) : Bool :=
  match if src.ide then src.tdisp else none with
  | none => false
  | some i => match Tab.find s.tdisp i.toNat with
    | some c => match Tab.find s.ctxs c with | some x => x.sec | none => false
    | none => false
/-- Whether a byte of BAR2 is reached: backed by memory of this device, and not secure to the requester (R485, R496). -/
def State.bar2Byte (s : State) (src : PcieSource) (x : Nat) : Bool :=
  decide (x < 2 ^ 46) && (match s.placeOf x with | .ok (.mem _) => true | _ => false)
    && (!s.worldOf x || s.trusted src)
/-- Whether a request of `n` bytes through BAR2 is served: every line of it is reached, in the running state. -/
def State.bar2Open (s : State) (src : PcieSource) (x n : Nat) : Bool :=
  s.mgmt.state == 1 && s.bar2Byte src x && (List.range (lineCount x n)).all fun k => s.bar2Byte src ((x / 64 + k) * 64)
/-- An Unsupported Request: not performed, logged as KIND 3 (R485). -/
def State.unsupported (s : State) (src : PcieSource) (x : Nat) : State :=
  s.logEvent x none 6 (src.port.setWidth 8) 3
/-- Stores the bytes of a write into BAR0, one by one: registers take a word whose byte changes; the rest of the mailbox
page is memory. -/
def bar0Write (off : Nat) (bs : List Byte) (s : State) : State :=
  let inPage := (bs.zipIdx.filter fun p => 0x10000 ≤ off + p.2 && off + p.2 < 0x20000)
  let s := { s with mem := inPage.foldl (fun m p => Memory.setByte m (mgmtBase + off + p.2) p.1) s.mem }
  let regs := ((List.range bs.length).filterMap fun i => if off + i < 0x1000 then some ((off + i) / 8 * 8) else none).eraseDups
  regs.foldl (fun s r =>
    let old := leBytes (s.mgmt.reg r).toNat 8
    let new := (List.range 8).map fun k => if off ≤ r + k && r + k < off + bs.length then bs.getD (r + k - off) 0 else old.getD k 0
    writeMgmt r (BitVec.ofNat 64 (leNat new)) s) s
/-- INBOUND_PCIE_WRITE (R485). -/
def inboundWrite (src : PcieSource) (x : Nat) (bs : List Byte) (s : State) : State :=
  if !src.bar2 then wake (bar0Write x bs s)
  else if s.bar2Open src x bs.length then wake (storeLines (inboundWho src) (bs.length + 1) x bs s)
  else s.unsupported src x
/-- INBOUND_PCIE_WRITE (R485). -/
def execInboundPcieWrite (src : PcieSource) (addr : BitVec 64) (data : List (BitVec 8)) (s : State) : Out :=
  .next (tick 1 (inboundWrite src addr.toNat data s))
/-- INBOUND_PCIE_READ: a completion with the data, poisoned where a line is, or Unsupported Request (R485). -/
def inboundRead (src : PcieSource) (x n : Nat) (s : State) : State :=
  if !src.bar2 then s.complete (some (s.mgmtBytes x n)) false
  else if s.bar2Open src x n then
    let (bad, s) := readLines (inboundWho src) (lineCount x n) (x / 64) s
    s.complete (some (Memory.bytes s.mem x n)) bad.isSome
  else (s.unsupported src x).complete none false
/-- INBOUND_PCIE_READ (R485). -/
def execInboundPcieRead (src : PcieSource) (addr : BitVec 64) (len : BitVec 13) (s : State) : Out :=
  .next (tick 1 (inboundRead src addr.toNat len.toNat s))
/-- The function a code of Table 5.4 names; code 10 stands for CAS. -/
def rmwOf (op : Nat) : Option RmwOp :=
  [RmwOp.add, .and, .or, .xor, .swap, .min, .max, .minu, .maxu, .maxrst][op]?
/-- The new bytes of an inbound atomic; a failed CAS writes nothing. -/
def atomicNew (op n old x y : Nat) : Option (List Byte) :=
  match rmwOf op with
  | some f => some (leBytes (f.apply n old (x % 2 ^ (8 * n))) n)
  | none => if old = x % 2 ^ (8 * n) then some (leBytes y n) else none
/-- INBOUND_PCIE_ATOMIC: performed as one atomic access; no write where the line is uncorrectable (R94, R469). -/
def inboundAtomic (src : PcieSource) (a op n x y : Nat) (s : State) : State :=
  if !src.bar2 || 10 < op || a % n ≠ 0 || !s.bar2Open src a n then (s.unsupported src a).complete none false
  else
    let w := inboundWho src
    let (bad, s) := readLines w (lineCount a n) (a / 64) s
    let bs := Memory.bytes s.mem a n
    let s := match bad, atomicNew op n (leNat bs) x y with
      | none, some new => wake (storeLines w (n + 1) a new s)
      | _, _ => s
    s.complete (some bs) bad.isSome
/-- INBOUND_PCIE_ATOMIC (R94). -/
def execInboundPcieAtomic (src : PcieSource) (addr : BitVec 64) (op : BitVec 4) (size : BitVec 2) (x y : BitVec 64)
    (s : State) : Out :=
  .next (tick 1 (inboundAtomic src addr.toNat op.toNat (sizeBytes size) x.toNat y.toNat s))
/-- ATS_INVALIDATION: the translation goes, and is complete when no access that used it is outstanding (R484). -/
def atsInvalidation (pasid : BitVec 20) (addr : Nat) (s : State) : State :=
  let page := addr / 2 ^ 16
  let mine (c : Nat) : Bool := (s.ctxOf c).pasid == pasid
  let used := s.remotes.any fun r => r.ans.isNone && (match r.op with | .page => false | _ => true)
    && (match r.place, r.ctx with | .host a, some c => a / 2 ^ 16 == page && mine c | _, _ => false)
  if used then s else { s with ats := s.ats.filter fun p => !(p.2 == page && mine p.1) }
/-- ATS_INVALIDATION (R484). -/
def execAtsInvalidation (pasid : BitVec 20) (addr : BitVec 64) (s : State) : Out :=
  .next (tick 1 (atsInvalidation pasid addr.toNat s))

/-! ### Answers (R182, R491) -/

/-- An outstanding request by number. -/
def State.remote (s : State) (id : Nat) : Option Remote := s.remotes.find? fun r => r.id == id && r.ans.isNone
/-- A request is answered for good. -/
def State.dropRemote (s : State) (id : Nat) : State := { s with remotes := s.remotes.filter fun r => r.id != id }
/-- Whether a request is a page request. -/
def Remote.isPage (r : Remote) : Bool := match r.op with | .page => true | _ => false
/-- PAGE_REQUEST_ANSWER: installs or refuses the translation; an answer for a context that is no more is counted, also where
another has its number (R182; DEDUCED log 69). -/
def pageAnswer (id : Nat) (ok : Bool) (s : State) : State :=
  match s.remote id with
  | none => s
  | some r =>
    if !r.isPage then s
    else
      let c := r.ctx.getD 0
      let key := (c, match r.place with | .host a => a / 2 ^ 16 | _ => 0)
      let s := s.dropRemote id
      if r.who == .late || (Tab.find s.ctxs c).isNone then { s with late := s.late + 1 }
      else if ok then wake { s with ats := s.ats ++ [key] }
      else wake { s with refusedPages := s.refusedPages ++ [key] }
/-- PAGE_REQUEST_ANSWER (R182). -/
def execPageRequestAnswer (req : BitVec 64) (ok : Bool) (s : State) : Out := .next (tick 1 (pageAnswer req.toNat ok s))

/-- Strand `n` as an agent. -/
def State.whoLate (s : State) (n : Nat) : Who :=
  let st := s.strand n
  ⟨some st.ctx, dieOf n, clusterOf n, st.sup, false, 0, .gate n, false, .alloc⟩
/-- What a held access brings reaches its registers (R93, R157, R159, R469). -/
def LateDst.bring (d : LateDst) (bs : List Byte) (bad : Bool) (st : Strand) : Strand :=
  d.regs.foldl (fun st r =>
    st.arrive r.1 d.seq (if bad then .poison .data else .conc (extend d.signed d.len (leNat ((bs.drop r.2).take d.len))))) st
/-- Entry `k` is done: the value of a symbol arrives, or poisons it (R199, R200); that of a held access reaches its registers
(R93). -/
def State.settle (s : State) (n k : Nat) (bs : List Byte) (bad : Bool) : State :=
  let st := s.strand n
  wake (s.setStrand n (match (Tab.find st.syms k).bind Sym.dst with
    | some d => d.bring bs bad { st with syms := Tab.erase st.syms k }
    | none => if bad then st.spoil k .data else st.resolve k (BitVec.ofNat 64 (leNat bs))))
/-- Whether a symbol is past its deadline (R191, R200). -/
def State.overdue (s : State) (x : Sym) : Bool :=
  match x.deadline with | some d => decide (d.toNat ≤ s.cycle.toNat) | none => false
/-- Symbol `k` of strand `n` times out: it is poisoned, and an answer that comes later counts as late (R200). -/
def State.timeOut (s : State) (n k : Nat) : State :=
  wake { s.setStrand n ((s.strand n).spoil k .timeout) with
    remotes := s.remotes.map fun (r : Remote) => if r.who == .symbol n k then { r with who := .late } else r }
/-- An answer to a read or an atomic reaches the one who asked: a symbol resolves or is poisoned, an answer past the
deadline is dropped and counted (R199, R200, R491). -/
def remoteAnswer (id : Nat) (x : RemoteAnswer) (s : State) : State :=
  match s.remote id with
  | none => s
  | some r =>
    if r.isPage then s
    else match r.who with
      | .symbol n k =>
        if ((Tab.find (s.strand n).syms k).map s.overdue).getD false then
          { (s.dropRemote id).timeOut n k with late := s.late + 1 }
        else
          let ((bs, bad), s) := (s.dropRemote id).answered (s.whoLate n) r.place r.n x
          s.settle n k bs bad
      | .late => { s.dropRemote id with late := s.late + 1 }
      | _ => wake { s with remotes := s.remotes.map fun q => if q.id == id then { q with ans := some x } else q }
/-- REMOTE_READ_COMPLETION (R491). -/
def execRemoteReadCompletion (req : BitVec 64) (ans : RemoteAnswer) (s : State) : Out :=
  .next (tick 1 (remoteAnswer req.toNat ans s))
/-- 10 ms in cycles (R491, R11). -/
def completionLimit : Nat := 17500000
/-- REMOTE_COMPLETION_TIMEOUT: acts as an error answer once 10 ms have passed (R491); of a request that was abandoned, or is
past its deadline, no answer has come that would count as late (R200). -/
def remoteTimeout (id : Nat) (s : State) : State :=
  match s.remote id with
  | none => s
  | some r =>
    if r.isPage || s.cycle.toNat < r.since.toNat + completionLimit then s
    else match r.who with
      | .late => s.dropRemote id
      | .symbol n k =>
        if ((Tab.find (s.strand n).syms k).map s.overdue).getD false then (s.dropRemote id).timeOut n k
        else remoteAnswer id .error s
      | _ => remoteAnswer id .error s
/-- REMOTE_COMPLETION_TIMEOUT (R491). -/
def execRemoteCompletionTimeout (req : BitVec 64) (s : State) : Out := .next (tick 1 (remoteTimeout req.toNat s))

/-! ### Symbols (R191, R199, R200) -/

/-- Whether a symbol's request is outstanding. -/
def State.symAsked (s : State) (n k : Nat) : Bool := s.remotes.any fun r => r.who == .symbol n k
/-- The new bytes of a read-modify-write, or none for no write (R162, R163, R168, R171). -/
def RemoteOp.new (op : RemoteOp) (n : Nat) (bs : List Byte) : Option (List Byte) :=
  match op with
  | .rmw f o => some (leBytes (f.apply n (leNat bs) o.toNat) n)
  | .cas old new => if leNat bs = old.toNat then some (leBytes new.toNat n) else none
  | .update u => u.apply bs
  | _ => none
/-- Performs the read of a symbol at its place, or sends its request where the pennants let it and it has not gone; none
while it is held. -/
def performSym (n k : Nat) (va : Word) (pl : Place) (size : Nat) (slots : Tab Slot) (op : RemoteOp) (s : State) : State :=
  let w := s.whoLate n
  match gate w slots va size s with
  | .error (.hold _) s => s
  | .error (.fault ..) s => s.settle n k [] true
  | .ok _ s =>
    if pl.isRemote then if s.symAsked n k then s else s.request (.symbol n k) w.ctx pl size op va
    else
      match readPlace w pl size va s with
      | .error _ s => s
      | .ok (bs, bad) s =>
        let s := match op.new size bs, bad with
          | some new, none =>
            let s := s.seen n
            match writePlace w pl new va s with
            | .ok _ s => s
            | .error _ s => s
          | _, _ => s
        s.settle n k bs bad.isSome
/-- Performs a held store (R93): one to a peer or the host is posted. -/
def performStore (n k : Nat) (va : Word) (pl : Place) (bs : List Byte) (l2 : L2Use) (s : State) : State :=
  let w := { s.whoLate n with l2 }
  if pl.isRemote then (s.post w pl bs).settle n k [] false
  else
    match writePlace w pl bs va s with
    | .ok _ s => s.settle n k [] false
    | .error _ s => s
/-- Whether an earlier entry of a strand holds entry `k` back (R67, R93). -/
def Strand.symHeld (st : Strand) (k : Nat) (x : Sym) : Bool :=
  match x.src.range with
  | some (pl, n) => st.syms.any fun p =>
      (decide (p.2.since < x.since) || (p.2.since == x.since && decide (p.1 < k))) && p.2.precedes pl n x.kind x.strong x.ann
  | none => false
/-- The access of entry `k` of strand `n` is performed, unless an earlier one holds it back; one past its deadline is abandoned
(R92, R93, R199, R200). -/
def resolveEntry (n k : Nat) (s : State) : State :=
  match Tab.find (s.strand n).syms k with
  | none => s
  | some x =>
    if (s.strand n).symHeld k x then s
    else if s.overdue x then s.timeOut n k
    else match x.src with
    | .load va pl size slots => performSym n k (BitVec.ofNat 64 va) pl size slots .read s
    | .amo va pl size op o => performSym n k (BitVec.ofNat 64 va) pl size [] (.rmw op o) s
    | .rmw va pl size op => performSym n k (BitVec.ofNat 64 va) pl size [] op s
    | .store va pl bs l2 => performStore n k (BitVec.ofNat 64 va) pl bs l2 s
    | .tree => s
    | .assoc => s
/-- SYMBOL_RESOLVE: entry `k` of strand `n`, and what the strand holds under a number that is `k` modulo 32 (R189; DEDUCED
log 37). -/
def symbolResolve (n k : Nat) (s : State) : State :=
  ((s.strand n).syms.filter fun p => p.1 % 32 == k).foldl (fun s p => resolveEntry n p.1 s) s
/-- SYMBOL_RESOLVE (R199). -/
def execSymbolResolve (n : BitVec 10) (k : BitVec 5) (s : State) : Out := .next (tick 1 (symbolResolve n.toNat k.toNat s))
/-- SYMBOL_DEADLINE: a remote symbol past its deadline is poisoned; an answer that comes later counts as late (R191,
R200). -/
def symbolDeadline (n k : Nat) (s : State) : State :=
  match Tab.find (s.strand n).syms k with
  | none => s
  | some x => if s.overdue x then s.timeOut n k else s
/-- SYMBOL_DEADLINE (R191). -/
def execSymbolDeadline (n : BitVec 10) (k : BitVec 5) (s : State) : Out := .next (tick 1 (symbolDeadline n.toNat k.toNat s))

end Sys2Proof.Machine
end

