-- ==== Sys2Proof/Machine/Secure.lean ====
section
/-!
DEFINITION. Worlds and images (19 R496, R497, R501), bring-up and the safe state (19 R498, R499), performance counters (19
R500), the debugger (19 R502), attestation (19 R503) and power (01 R35; 19 R504).
-/
namespace Sys2Proof.Machine

/-! ### SMC (R500, R501) -/

/-- SMC.setw: it refuses with the statuses of RCLASS .set, 5 for the same b and c (R472, R501). -/
def execSmcSetw (h : Hdr) (a b c : BitVec 6) (s : State) : Out :=
  runU supOnly h (do
    let (f, v) ← read2 b c [a]
    if !(← getHere).secure then writeVal a 4
    else if 768 ≤ f.toNat || bits v 0 2 = 3 || bits v 3 61 ≠ 0 then writeVal a 5
    else changeFrame a f.toNat fun x => { x with world := v.getLsbD 0 }) s
/-- SMC.fwld (R497, R500). -/
def execSmcFwld (h : Hdr) (a b : BitVec 6) (s : State) : Out :=
  runU supOnly h (do
    let va ← read1 b [a]
    if !(← getHere).secure then writeVal a 4
    else
      match ← readImage va 3 (← get).mgmt.fwVer with
      | .error st => writeVal a st
      | .ok (ver, img) =>
        modify fun s => { s with mgmt := { s.mgmt with fwVer := ver, fwImg := .loaded img } }
        writeVal a 0) s
/-- SMC.ver (R500). -/
def execSmcVer (h : Hdr) (a : BitVec 6) (s : State) : Out :=
  runU supOnly h (do
    checkDst a
    writeVal a ((← get).mgmt.monVer.setWidth 64)) s

/-! ### Performance counters (Table 19.5) -/

/-- A counter, all ones above 4. -/
def State.counter (s : State) (k : Nat) : Word :=
  match k with
  | 0 => s.here.retired
  | 1 => (s.heldOf s.cur).foldl (fun n g => n + (s.group g).passes) 0
  | 2 => s.here.symWait
  | 3 => s.late
  | 4 => s.pageReqs
  | _ => allOnes
/-- Clears a counter. -/
def State.clearCounter (s : State) (k : Nat) : State :=
  match k with
  | 0 => s.setHere { s.here with retired := 0 }
  | 1 => (s.heldOf s.cur).foldl (fun s g => s.setGroup g { s.group g with passes := 0 }) s
  | 2 => s.setHere { s.here with symWait := 0 }
  | 3 => { s with late := 0 }
  | 4 => { s with pageReqs := 0 }
  | _ => s
/-- PERF.read: counters 3 and 4 are the supervisor's, which is checked where the operand is read, after the guard (R49, R500;
DESIGN CHOICE log 100). -/
def execPerfRead (h : Hdr) (a b : BitVec 6) (s : State) : Out :=
  runU user h (do
    let k ← read1 b [a]
    if (k = 3 || k = 4) && !(← getHere).sup then trapI .priv 0 0
    writeVal a ((← get).counter k.toNat)) s
/-- PERF.clr (R500). -/
def execPerfClr (h : Hdr) (a b : BitVec 6) (s : State) : Out :=
  runU supOnly h (do
    let k ← read1 b [a]
    writeVal a ((← get).counter k.toNat)
    modify fun s => s.clearCounter k.toNat) s

/-! ### Debugger (R500, R502) -/

/-- Whether a strand is halted: by the debugger, or by HALT (R184). -/
def Strand.held (st : Strand) : Bool := st.dbg || st.halt == .halted
/-- The strand an operand names, if it exists. -/
def strandNo (v : Word) : Option Nat := if v.toNat < 1024 then some v.toNat else none
/-- The strand an operand names, if it is halted. -/
def State.heldStrand (s : State) (v : Word) : Option Nat := (strandNo v).filter fun n => (s.strand n).held
/-- What DBG.halt and DBG.sig answer: all ones for a strand that is not halted; of a halted one the spec gives no result
(R500). -/
def dbgAnswer (a : BitVec 6) (v : Word) : M Unit := do
  match (← get).heldStrand v with
  | none => writeVal a allOnes
  | some _ => writeVal a (← freshFree)
/-- A strand the debugger halts at its boundary: an instruction that waits has not issued, and EPC names it (R107, R502);
`own` is set for the strand that issues DBG.halt, where no instruction waits. -/
def Strand.dbgHalt (st : Strand) (cycle : Word) (own : Bool) : Strand :=
  let st := if st.paused && !own then { (st.landAll.unissue).endWait cycle with epc := st.pc.setWidth 64 } else st.landAll
  { st with dbg := true }
/-- DBG.halt (R502): the reads that a waiting instruction has asked of a peer or the host are over, an update it has sent
stays (DESIGN CHOICE log 71). -/
def execDbgHalt (h : Hdr) (a b : BitVec 6) (s : State) : Out :=
  runU supOnly h (do
    let v ← read1 b [a]
    dbgAnswer a v
    match strandNo v with
    | none => return ()
    | some n =>
      modify fun s => { s.setStrand n ((s.strand n).dbgHalt s.cycle (n == s.cur)) with
        remotes := s.remotes.filter fun r => !((r.who == .strand n || r.who == .fetch n) && r.op == .read) }) s
/-- DBG.go (R184, R502); a strand that has stopped stays so (R111). -/
def execDbgGo (h : Hdr) (a b : BitVec 6) (s : State) : Out :=
  runU supOnly h (do
    let v ← read1 b [a]
    match (← get).heldStrand v with
    | none => writeVal a allOnes
    | some n =>
      writeVal a (← freshFree)
      modify fun s =>
        let st := s.strand n
        s.setStrand n { st with dbg := false, halt := if st.halt = .stopped then .stopped else .running, waiting := none }) s
/-- DBG.rd: what a poisoned or symbolic register, a stream or a code without a register gives is open. -/
def execDbgRd (h : Hdr) (a b c : BitVec 6) (s : State) : Out :=
  runU supOnly h (do
    let (v, k) ← read2 b c [a]
    match (← get).heldStrand v with
    | none => writeVal a allOnes
    | some n =>
      let st := ((← get).strand n).landAll
      if k.toNat < 48 then
        match st.reg k.toNat with
        | .conc x => writeVal a x
        | _ => writeVal a (← freshFree)
      else if 64 ≤ k.toNat && k.toNat < 72 then writeVal a (if st.pred (k.toNat - 64) then 1 else 0)
      else writeVal a (← freshFree)) s
/-- Register `code` of a halted strand as DBG.wr writes it: a stream register takes the element where it is bound for output
and has room (R146, R193, R500; DESIGN CHOICE log 71). -/
def Strand.dbgWrite (st : Strand) (code : Nat) (x : Word) : Strand :=
  if code < 48 then (st.forget code).setReg code (.conc x)
  else if 64 ≤ code && code < 72 then st.setPred (code - 64) (x.getLsbD 0)
  else match Tab.find st.streams (code - 48) with
    | some z =>
      if code < 64 && z.out && z.fail.isNone && z.buf.length < 64 && z.next < recCount z.record then
        { st with streams := Tab.insert st.streams (code - 48) { z with next := z.next + 1, buf := z.buf ++ [x] } }
      else st
    | none => st
/-- DBG.wr: HSCRA of the issuer goes to the register that c[63:57] names of a strand the debugger has halted (R500;
DESIGN CHOICE log 71). -/
def execDbgWr (h : Hdr) (a b c : BitVec 6) (s : State) : Out :=
  runU supOnly h (do
    let (v, k) ← read2 b c [a]
    let s ← get
    match (strandNo v).filter fun n => (s.strand n).dbg with
    | none => writeVal a allOnes
    | some n =>
      if bits k 0 57 ≠ 0 then writeVal a allOnes
      else
        let code := bits k 57 7
        let x := (← getHere).hscra
        modify fun s =>
          let st := (s.strand n).landAll
          s.setStrand n (st.dbgWrite code x)
        writeVal a 0) s
/-- DBG.sig (R502). -/
def execDbgSig (h : Hdr) (a b c : BitVec 6) (s : State) : Out :=
  runU supOnly h (do
    let (v, x) ← read2 b c [a]
    dbgAnswer a v
    match strandNo v with
    | none => return ()
    | some n =>
      modify fun s =>
        let st := s.strand n
        s.setStrand n { st with events := { st.events with debug := pendEvent st.events.debug x } }) s

/-! ### Attestation (R503) -/

/-- The bytes of an image (DESIGN CHOICE log 11). -/
def Image.bytes : Image → List Byte
  | .boot kind n => Config.bootImage kind n
  | .loaded bs => bs
/-- The signed part of a quote (Table 19.7), with the issuer's context number (R503): what the table does not state of bytes 2
to 5 and 8 to 63 is open. -/
def quoteBody (s : State) (nonce : List Byte) : List Byte :=
  let w0 : Word := 0x0001000000000000 ||| ((Config.freeBits s.free &&& 0x7FFFFFFF) <<< 17)
    ||| (if s.here.secure then 0x10000 else 0) ||| BitVec.ofNat 64 (s.here.ctx % 2 ^ 16)
  leBytes w0.toNat 8 ++ freeBytes (s.free + 1) 56 ++ (nonce ++ List.replicate 64 0).take 64
    ++ sha384 s.mgmt.monImg.bytes ++ sha384 s.mgmt.ucodeImg.bytes ++ sha384 s.mgmt.fwImg.bytes ++ List.replicate 864 0
/-- A quote, 3,744 bytes. -/
def quote (s : State) (nonce : List Byte) : List Byte :=
  let body := quoteBody s nonce
  body ++ (Config.quoteSignature (s.free + 57) body ++ List.replicate 2604 0).take 2604 ++ List.replicate 4 0
/-- ATST (R503). -/
def execAtst (h : Hdr) (a b c : BitVec 6) (s : State) : Out :=
  runU supOnly h (do
    let (vb, vc) ← read2 b c [a]
    needAlign vc 64
    let nonce ← loadRange 2 vb 64
    checkRange 2 vc 3744
    let q := quote (← get) nonce
    storeRange 2 vc q
    modify fun s => { s with free := s.free + 58 }
    writeVal a 3744) s

/-! ### Power (R504, R35) -/

/-- Instances and maximum in mW of each block class (Table 19.6). -/
def blockClasses : List (Nat × Nat) :=
  [(128, 11500), (512, 1900), (8, 85000), (1, 220000), (12, 32000), (1, 120000), (8, 12000), (1, 455200)]
/-- Throttle of an instance. -/
def State.throttle (s : State) (cls i : Nat) : Throttle := Tab.get ⟨0, false, 100⟩ s.throttles (cls * 1024 + i)
/-- What PWRQ reports of an instance: a group's level is its die's permit (R504). -/
def State.blockState (s : State) (cls i : Nat) : Throttle :=
  let x := s.throttle cls i
  if cls = 1 then
    { x with gated := (s.group i).gated == 0xFFFF, level := BitVec.ofNat 7 ((s.die (i / 64)).apermit.toNat * 100 / 16) }
  else x
/-- The state word. -/
def Throttle.word (x : Throttle) : Word :=
  (x.temp.setWidth 64 <<< 16) ||| (if x.gated then 0x80 else 0) ||| x.level.setWidth 64
/-- PWRQ.max (R504). -/
def execPwrqMax (h : Hdr) (a b : BitVec 6) (s : State) : Out :=
  runU user h (do
    let k ← read1 b [a]
    writeVal a (match blockClasses[k.toNat]? with | some p => BitVec.ofNat 64 p.2 | none => allOnes)) s
/-- PWRQ.state (R504). -/
def execPwrqState (h : Hdr) (a b c : BitVec 6) (s : State) : Out :=
  runU user h (do
    let (k, i) ← read2 b c [a]
    let s ← get
    writeVal a (match blockClasses[k.toNat]? with
      | some p => if i.toNat < p.1 then (s.blockState k.toNat i.toNat).word else allOnes
      | none => allOnes)) s
/-- BLOCK_THROTTLE_CHANGE: a block's sensor, throttle and gate change (R35). -/
def throttleChange (cls i : Nat) (x : Throttle) (s : State) : State :=
  match blockClasses[cls]? with
  | some p =>
    if i < p.1 && x.level.toNat ≤ 100 then
      { s with throttles := Tab.put ⟨0, false, 100⟩ s.throttles (cls * 1024 + i) x }
    else s
  | none => s
/-- BLOCK_THROTTLE_CHANGE (R35). -/
def execBlockThrottleChange (cls : BitVec 3) (inst : BitVec 10) (temp : BitVec 8) (gated : Bool) (level : BitVec 7)
    (s : State) : Out := .next (tick 1 (throttleChange cls.toNat inst.toNat ⟨temp, gated, level⟩ s))

/-- TDISP_STATE_CHANGE: an interface enters RUN for a context, or leaves it (R496). -/
def tdispChange (i : Nat) (run : Bool) (c : Nat) (s : State) : State :=
  { s with tdisp := if run then Tab.insert s.tdisp i c else Tab.erase s.tdisp i }
/-- TDISP_STATE_CHANGE (R496). -/
def execTdispStateChange (ifc : BitVec 16) (run : Bool) (ctx : BitVec 16) (s : State) : Out :=
  .next (tick 1 (tdispChange ifc.toNat run ctx.toNat s))

/-! ### Bring-up (R498, R499) -/

/-- Context 0: secure, supervisor, ceiling 11, budgets all ones (R498). -/
def bootCtx (root : BitVec 52) : Ctx :=
  ⟨0, root.setWidth 64, false, 11, true, true, 0, 0, 0, true, allOnes, allOnes, 0, 0, false, false⟩
/-- The module as boot finds it; what leaves it, the agenda and the free values go on. -/
def State.power (s : State) : State := { State.reset with out := s.out, agenda := s.agenda, turn := s.turn, free := s.free + 3 }
/-- The safe state after step `n` of boot failed: a KIND 2 record whose place is open (R499). -/
def State.safe (s : State) (n : Nat) (detail : Word) (f : Nat) : State :=
  let s := { s with mgmt := { s.mgmt with state := 2, failed := (1 : BitVec 6) <<< (n - 1), detail := detail } }
  s.logEvent (Config.freeBits f).toNat none ((Config.freeBits (f + 1)).setWidth 8) ((Config.freeBits (f + 2)).setWidth 8) 2
/-- The last step: the boot key is drawn, and context 0 starts on strand 0 of die 0 (R498), at a multiple of 8 (R99). -/
def State.start (s : State) (o : BootOutcome) : State :=
  let m := { s.mgmt with
    state := 1, monVer := o.monVersion, ucodeVer := o.ucodeVersion, bootKey := some o.bootKey
    monImg := .boot 1 s.free, ucodeImg := .boot 2 s.free, fwImg := .boot 3 s.free }
  ({ s with mgmt := m, ctxs := [(0, bootCtx o.root)] }).setStrand 0
    { Strand.reset with status := 0x81, pc := o.entry.setWidth 56 &&& ~~~7, item := some ⟨0, 0, 0, 0⟩, lastCtx := some 0, lastLaunch := some 0 }
/-- MODULE_RESET: boot, as one step (R498, R499). -/
def moduleReset (o : BootOutcome) (s : State) : State :=
  let p := s.power
  if 1 ≤ o.failed.toNat && o.failed.toNat ≤ 6 then p.safe o.failed.toNat o.detail s.free else p.start o
/-- MODULE_RESET (R498). -/
def execModuleReset (o : BootOutcome) (s : State) : Out := .next (tick 1 (moduleReset o s))

end Sys2Proof.Machine
end

