-- ==== Sys2Proof/Machine/Boundary.lean ====
section
/-!
DEFINITION. What a strand does at an instruction boundary before its next instruction (04 R106 to R108; 05 R184; 18 R469).
-/
namespace Sys2Proof.Machine

/-- The trap a strand takes at an instruction boundary, and the strand without it: a pending associative delivery, then an
enabled event (R108). A strand that HALT keeps takes events only (R184); a FAS or AWAIT that waits completes before the
delivery is taken (R165, R232), and a RCLASS before an event (R472). -/
def Strand.boundary (st : Strand) : Option (Trap × Strand) :=
  if st.item.isNone || st.dbg || st.halt == .stopped then none
  else match st.halt, st.adeliver with
    | .running, some t => if st.inside = some .fence then none else some (t, { st with adeliver := none })
    | _, _ => if st.inside = some .frame then none else st.eventTrap
/-- The trap strand `n` takes: none between instructions where the one it is at has sent an update that a peer or the host
performs (R107; DEDUCED log 31). -/
def State.boundary (s : State) (n : Nat) : Option (Trap × Strand) :=
  if (s.sent n).isSome then none else (s.strand n).boundary
/-- Strand `n` takes the trap of its boundary (R109). -/
def takeBoundary (n : Nat) (t : Trap) (st : Strand) (s : State) : State :=
  let s := ({ s with cur := n } : State).setStrand n st
  trapAt t s s
/-- TAKE_TRAP: strand `n` takes what its boundary holds (R108, R109). -/
def takeTrap (n : Nat) (s : State) : State :=
  match s.boundary n with
  | some (t, st) => takeBoundary n t st s
  | none => tick 1 s
/-- TAKE_TRAP (R109). -/
def execTakeTrap (n : BitVec 10) (s : State) : Out := .next (takeTrap n.toNat s)

/-- The command delivery of a stream load that met uncorrectable data, at the next instruction (R469). -/
def streamTrap (s : State) : Option State :=
  match s.here.streamErr with
  | none => none
  | some v =>
    let s := s.setHere { s.here with streamErr := none }
    some (trapAt ⟨Cause.uncorrectable.code, 0, v, .cmd, false⟩ s s)

end Sys2Proof.Machine
end

