-- ==== Sys2Proof/Machine/Scalar.lean ====
section
/-!
DEFINITION. Scalar integer, predicate, address, bit-field, checksum and identity instructions (04 R117 to R132) and the
long forms LI, ADDIX and LEAX (05 R155).
-/
namespace Sys2Proof.Machine

/-! ### Integer functions (Table 4.7) -/

/-- MULH: Floor(S(a) × S(b) / 2^64). -/
def mulhW (x y : Word) : Word := BitVec.ofInt 64 (Int.fdiv (x.toInt * y.toInt) (2 ^ 64))
/-- MULHU: Floor(U(a) × U(b) / 2^64). -/
def mulhuW (x y : Word) : Word := BitVec.ofNat 64 (x.toNat * y.toNat / 2 ^ 64)
/-- The most negative value, whose quotient by -1 does not fit (R118). -/
def minInt : Word := 0x8000000000000000
/-- DIV (R118). -/
def divW (x y : Word) : Word :=
  if y = 0 then 0xFFFFFFFFFFFFFFFF
  else if x = minInt && y = 0xFFFFFFFFFFFFFFFF then x
  else BitVec.ofInt 64 (Int.tdiv x.toInt y.toInt)
/-- REM (R118). -/
def remW (x y : Word) : Word :=
  if y = 0 then x
  else if x = minInt && y = 0xFFFFFFFFFFFFFFFF then 0
  else BitVec.ofInt 64 (x.toInt - y.toInt * Int.tdiv x.toInt y.toInt)
/-- DIVU (R118). -/
def divuW (x y : Word) : Word := if y = 0 then 0xFFFFFFFFFFFFFFFF else BitVec.ofNat 64 (x.toNat / y.toNat)
/-- REMU (R118). -/
def remuW (x y : Word) : Word := if y = 0 then x else BitVec.ofNat 64 (x.toNat % y.toNat)
/-- SHR. -/
def shrW (x y : Word) : Word := x >>> (y.toNat % 64)
/-- SRA. -/
def sraW (x y : Word) : Word := x.sshiftRight (y.toNat % 64)
/-- CLZ: zero bits above the highest 1. -/
def clzW (x : Word) : Word := if x = 0 then 64 else BitVec.ofNat 64 (63 - x.toNat.log2)
/-- CTZ: zero bits below the lowest 1. -/
def ctzW (x : Word) : Word := if x = 0 then 64 else BitVec.ofNat 64 (x &&& -x).toNat.log2
/-- Number of 1 bits among the lowest `n`. -/
def countOnes (x : Nat) : Nat → Nat
  | 0 => 0
  | n + 1 => x % 2 + countOnes (x / 2) n
/-- POPC. -/
def popcW (x : Word) : Word := BitVec.ofNat 64 (countOnes x.toNat 64)
/-- Reverses the lowest `n` bits onto `acc`. -/
def reverseBits (x acc : Nat) : Nat → Nat
  | 0 => acc
  | n + 1 => reverseBits (x / 2) (2 * acc + x % 2) n
/-- BREV. -/
def brevW (x : Word) : Word := BitVec.ofNat 64 (reverseBits x.toNat 0 64)
/-- Rotation left by `k` mod 64 (R126). -/
def rotW (x : Word) (k : Nat) : Word := x.rotateLeft (k % 64)
/-- BFX of `len` bits at `pos` (R125). -/
def bfxW (sxt : Bool) (pos len : Nat) (b : Word) : Word :=
  let v := b.toNat / 2 ^ pos % 2 ^ len
  if sxt && 2 ^ (len - 1) ≤ v then BitVec.ofInt 64 ((v : Int) - 2 ^ len) else BitVec.ofNat 64 v
/-- BFI (R125). -/
def bfiW (pos len : Nat) (d b : Word) : Word :=
  let m : Word := BitVec.ofNat 64 ((2 ^ len - 1) * 2 ^ pos)
  (d &&& ~~~m) ||| ((b <<< pos) &&& m)
/-- Reverses the bytes of each `k`-byte part of a list of bytes. -/
def swapParts (k : Nat) : Nat → List Byte → List Byte
  | 0, _ => []
  | n + 1, bs => (bs.take k).reverse ++ swapParts k n (bs.drop k)
/-- BSWAP within parts of `k` bytes (R128). -/
def bswapW (k : Nat) (x : Word) : Word := BitVec.ofNat 64 (leNat (swapParts k (8 / k) (leBytes x.toNat 8)))
/-- One bit of the CRC (R129). -/
def crcBit (poly c bit : Nat) : Nat := if (c % 2) ^^^ bit = 1 then (c / 2) ^^^ poly else c / 2
/-- The lowest `n` bits of `b` through the CRC, lowest first. -/
def crcGo (poly c b : Nat) : Nat → Nat
  | 0 => c
  | n + 1 => crcGo poly (crcBit poly c (b % 2)) (b / 2) n
/-- CRC over `bytes` bytes of `b` (R129). -/
def crcW (castag : Bool) (bytes : Nat) (a b : Word) : Word :=
  BitVec.ofNat 64 (crcGo (if castag then 0x82F63B78 else 0xEDB88320) (a.toNat % 2 ^ 32) b.toNat (8 * bytes))
/-- HASH (R130). -/
def hashW (a b : Word) : Word :=
  let x := a ^^^ b
  let x := x ^^^ (x >>> 31)
  let x := x * 0x9E6D55A341F28C17
  let x := x ^^^ (x >>> 29)
  let x := x * 0xC2B71E94D3A50F6B
  x ^^^ (x >>> 32)

/-- Whether strand `n` holds group `g` (R20). -/
def State.holds (s : State) (n g : Nat) : Bool := (s.group g).holder == some n
/-- RDID result (Table 4.9). -/
def rdidW (s : State) : Word :=
  let c := clusterOf s.cur * 4
  let held := (if s.holds s.cur c then 1 else 0) + (if s.holds s.cur (c + 1) then 2 else 0)
    + (if s.holds s.cur (c + 2) then 4 else 0) + (if s.holds s.cur (c + 3) then 8 else 0)
  BitVec.ofNat 64 (s.mgmt.devno.toNat * 2 ^ 16 + held * 2 ^ 10 + s.cur % 1024)

/-! ### Register-register (R117, R118) -/

/-- ADD (R117, R194). -/
def execAdd (h : Hdr) (d a b : BitVec 6) (s : State) : Out := runU user h (fold2 d a b 1 foldAdd) s
/-- SUB (R117, R194). -/
def execSub (h : Hdr) (d a b : BitVec 6) (s : State) : Out := runU user h (fold2 d a b 1 foldSub) s
/-- MUL (R117, R194). -/
def execMul (h : Hdr) (d a b : BitVec 6) (s : State) : Out := runU user h (fold2 d a b 3 foldMul) s
/-- MULH (R117). -/
def execMulh (h : Hdr) (d a b : BitVec 6) (s : State) : Out := runU user h (alu2 d a b 3 mulhW) s
/-- MULHU (R117). -/
def execMulhu (h : Hdr) (d a b : BitVec 6) (s : State) : Out := runU user h (alu2 d a b 3 mulhuW) s
/-- DIV (R118). -/
def execDiv (h : Hdr) (d a b : BitVec 6) (s : State) : Out := runU user h (var2 d a b divW) s
/-- DIVU (R118). -/
def execDivu (h : Hdr) (d a b : BitVec 6) (s : State) : Out := runU user h (var2 d a b divuW) s
/-- REM (R118). -/
def execRem (h : Hdr) (d a b : BitVec 6) (s : State) : Out := runU user h (var2 d a b remW) s
/-- REMU (R118). -/
def execRemu (h : Hdr) (d a b : BitVec 6) (s : State) : Out := runU user h (var2 d a b remuW) s
/-- AND (R117). -/
def execAnd (h : Hdr) (d a b : BitVec 6) (s : State) : Out := runU user h (alu2 d a b 1 (· &&& ·)) s
/-- OR (R117). -/
def execOr (h : Hdr) (d a b : BitVec 6) (s : State) : Out := runU user h (alu2 d a b 1 (· ||| ·)) s
/-- XOR (R117). -/
def execXor (h : Hdr) (d a b : BitVec 6) (s : State) : Out := runU user h (alu2 d a b 1 (· ^^^ ·)) s
/-- ANDN (R117). -/
def execAndn (h : Hdr) (d a b : BitVec 6) (s : State) : Out := runU user h (alu2 d a b 1 fun x y => x &&& ~~~y) s
/-- SHL (R117, R194). -/
def execShl (h : Hdr) (d a b : BitVec 6) (s : State) : Out := runU user h (fold2 d a b 1 foldShl) s
/-- SHR (R117). -/
def execShr (h : Hdr) (d a b : BitVec 6) (s : State) : Out := runU user h (alu2 d a b 1 shrW) s
/-- SRA (R117). -/
def execSra (h : Hdr) (d a b : BitVec 6) (s : State) : Out := runU user h (alu2 d a b 1 sraW) s
/-- MIN (R117). -/
def execMin (h : Hdr) (d a b : BitVec 6) (s : State) : Out :=
  runU user h (alu2 d a b 1 fun x y => if x.sle y then x else y) s
/-- MAX (R117). -/
def execMax (h : Hdr) (d a b : BitVec 6) (s : State) : Out :=
  runU user h (alu2 d a b 1 fun x y => if y.sle x then x else y) s
/-- MINU (R117). -/
def execMinu (h : Hdr) (d a b : BitVec 6) (s : State) : Out :=
  runU user h (alu2 d a b 1 fun x y => if x.ule y then x else y) s
/-- MAXU (R117). -/
def execMaxu (h : Hdr) (d a b : BitVec 6) (s : State) : Out :=
  runU user h (alu2 d a b 1 fun x y => if y.ule x then x else y) s
/-- CLZ (R117). -/
def execClz (h : Hdr) (d a : BitVec 6) (s : State) : Out := runU user h (alu1 d a 1 clzW) s
/-- CTZ (R117). -/
def execCtz (h : Hdr) (d a : BitVec 6) (s : State) : Out := runU user h (alu1 d a 1 ctzW) s
/-- POPC (R117). -/
def execPopc (h : Hdr) (d a : BitVec 6) (s : State) : Out := runU user h (alu1 d a 1 popcW) s
/-- BREV (R117). -/
def execBrev (h : Hdr) (d a : BitVec 6) (s : State) : Out := runU user h (alu1 d a 1 brevW) s

/-! ### Immediate (R119) -/

/-- ADDI (R119, R194). -/
def execAddi (h : Hdr) (d a : BitVec 6) (imm : BitVec 36) (s : State) : Out :=
  runU user h (fold1 d a 1 (foldAddImm (sx imm))) s
/-- MULI (R119, R194). -/
def execMuli (h : Hdr) (d a : BitVec 6) (imm : BitVec 36) (s : State) : Out :=
  runU user h (fold1 d a 3 fun x => foldMul x (.conc (sx imm))) s
/-- ANDI (R119). -/
def execAndi (h : Hdr) (d a : BitVec 6) (imm : BitVec 36) (s : State) : Out :=
  runU user h (alu1 d a 1 (· &&& sx imm)) s
/-- ORI (R119). -/
def execOri (h : Hdr) (d a : BitVec 6) (imm : BitVec 36) (s : State) : Out :=
  runU user h (alu1 d a 1 (· ||| sx imm)) s
/-- XORI (R119). -/
def execXori (h : Hdr) (d a : BitVec 6) (imm : BitVec 36) (s : State) : Out :=
  runU user h (alu1 d a 1 (· ^^^ sx imm)) s
/-- SHLI (R119, R194). -/
def execShli (h : Hdr) (d a k : BitVec 6) (s : State) : Out :=
  runU user h (fold1 d a 1 fun x => foldShl x (.conc (k.setWidth 64))) s
/-- SHRI (R119). -/
def execShri (h : Hdr) (d a k : BitVec 6) (s : State) : Out :=
  runU user h (alu1 d a 1 fun x => shrW x (k.setWidth 64)) s
/-- SRAI (R119). -/
def execSrai (h : Hdr) (d a k : BitVec 6) (s : State) : Out :=
  runU user h (alu1 d a 1 fun x => sraW x (k.setWidth 64)) s

/-! ### Predicates and selection (R120 to R122) -/

/-- SETP (R120). -/
def execSetp (h : Hdr) (pd : BitVec 3) (a b cond : BitVec 6) (s : State) : Out :=
  runU user h (do
    let (x, y) ← read2 a b []
    writePred pd 1 (icc cond x y)) s
/-- SETPI (R120). -/
def execSetpi (h : Hdr) (pd : BitVec 3) (a cond : BitVec 6) (imm : BitVec 30) (s : State) : Out :=
  runU user h (do
    let x ← read1 a []
    writePred pd 1 (icc cond x (sx imm))) s
/-- PLOG (R121). -/
def execPlog (h : Hdr) (pd pa pb : BitVec 3) (tbl : BitVec 4) (s : State) : Out :=
  runU user h (do
    let x ← readPred pa
    let y ← readPred pb
    writePred pd 1 (tbl.getLsbD (2 * x.toNat + y.toNat))) s
/-- SEL: both sources are read, only the selected one is waited for (R122). -/
def execSel (h : Hdr) (d a b : BitVec 6) (inv : BitVec 1) (ps : BitVec 3) (s : State) : Out :=
  runU user h (do
    checkSrc a
    checkSrc b
    checkOut d
    let p ← readPred ps
    let first := p != (inv == 1)
    checkPoison (if first then a else b)
    checkLanded a
    checkLanded b
    checkDst d
    checkSym (if first then a else b)
    let x ← takeSVal a
    let y ← takeSVal b
    writeFix d 1 (if first then x else y)) s

/-! ### Addresses, bit fields, byte order (R123 to R128) -/

/-- LEA (R123, R194). -/
def execLea (h : Hdr) (t base : BitVec 6) (size : BitVec 3) (index : BitVec 6) (disp : BitVec 24) (s : State) : Out :=
  runU user h (fold2 t base index 1 (foldLea (BitVec.ofNat 64 (sizeBytes size)) (sx disp))) s
/-- LEAPC (R124). -/
def execLeapc (h : Hdr) (d : BitVec 6) (imm : BitVec 36) (s : State) : Out :=
  runU user h (do
    checkDst d
    writeFix d 1 (.conc ((← getHere).pc.setWidth 64 + sx imm))) s
/-- BFX: field a is the destination (R125). -/
def execBfx (h : Hdr) (a b : BitVec 6) (sx : BitVec 1) (lenm1 pos : BitVec 6) (s : State) : Out :=
  runU user h (alu1 a b 1 (bfxW (sx == 1) pos.toNat (lenm1.toNat + 1))) s
/-- BFI: field a is read and written (R125). -/
def execBfi (h : Hdr) (a b lenm1 pos : BitVec 6) (s : State) : Out :=
  runU user h (alu2 a a b 1 (bfiW pos.toNat (lenm1.toNat + 1))) s
/-- ROT (R126). -/
def execRot (h : Hdr) (d a b : BitVec 6) (s : State) : Out := runU user h (alu2 d a b 1 fun x y => rotW x y.toNat) s
/-- ROTI (R126). -/
def execRoti (h : Hdr) (d a k : BitVec 6) (s : State) : Out := runU user h (alu1 d a 1 fun x => rotW x k.toNat) s
/-- MADD: field a is the destination, `e` the addend (R127). -/
def execMadd (h : Hdr) (a b c e : BitVec 6) (s : State) : Out :=
  runU user h (do
    let (x, y, z) ← read3 b c e [a]
    writeFix a 3 (.conc (x * y + z))) s
/-- BSWAP.d (R128). -/
def execBswapD (h : Hdr) (d a : BitVec 6) (s : State) : Out := runU user h (alu1 d a 1 (bswapW 8)) s
/-- BSWAP.w (R128). -/
def execBswapW (h : Hdr) (d a : BitVec 6) (s : State) : Out := runU user h (alu1 d a 1 (bswapW 4)) s
/-- BSWAP.h (R128). -/
def execBswapH (h : Hdr) (d a : BitVec 6) (s : State) : Out := runU user h (alu1 d a 1 (bswapW 2)) s

/-! ### Checksums, hashing, identity (R129 to R132) -/

/-- CRC (R129). -/
def execCrc (h : Hdr) (d a b : BitVec 6) (poly : BitVec 1) (size : BitVec 2) (s : State) : Out :=
  runU user h (alu2 d a b 3 (crcW (poly == 1) (sizeBytes size))) s
/-- HASH (R130). -/
def execHash (h : Hdr) (d a b : BitVec 6) (s : State) : Out := runU user h (alu2 d a b 3 hashW) s
/-- RDCYC (R131). -/
def execRdcyc (h : Hdr) (d : BitVec 6) (s : State) : Out :=
  runU user h (do
    checkDst d
    writeFix d 1 (.conc (← get).cycle)) s
/-- RDID (R132). -/
def execRdid (h : Hdr) (d : BitVec 6) (s : State) : Out :=
  runU user h (do
    checkDst d
    writeFix d 1 (.conc (rdidW (← get)))) s

/-! ### Long forms (R155) -/

/-- A guarded two-word instruction that makes no transfer (R37). -/
def runL (h : Hdr) (body : M Unit) (s : State) : Out := run user h 16 (do body; return none) s

/-- LI (R155). -/
def execLi (h : Hdr) (d : BitVec 6) (v : BitVec 64) (s : State) : Out :=
  runL h (do
    checkDst d
    writeFix d 1 (.conc v)) s
/-- ADDIX (R155, R194). -/
def execAddix (h : Hdr) (d a : BitVec 6) (v : BitVec 64) (s : State) : Out := runL h (fold1 d a 1 (foldAddImm v)) s
/-- LEAX (R155). -/
def execLeax (h : Hdr) (d : BitVec 6) (v : BitVec 64) (s : State) : Out :=
  runL h (do
    checkDst d
    writeFix d 1 (.conc ((← getHere).pc.setWidth 64 + v))) s

end Sys2Proof.Machine
end

