-- ==== Sys2Proof/Machine/Dispatch.lean ====
section
/-!
DEFINITION. The meaning of every instruction and device event: one direct call an arm.
-/
namespace Sys2Proof.Machine

/-- Executes one instruction by the strand `s.cur`, or one device event. -/
def exec (i : Instr) (s : State) : Host.Outcome State Fault Refusal :=
  match i with
  | .moduleReset o => Sys2Proof.Machine.execModuleReset o s
  | .mboxseqWrite v => Sys2Proof.Machine.execMboxseqWrite v s
  | .mgmtRegisterWrite off v => Sys2Proof.Machine.execMgmtRegisterWrite off v s
  | .inboundPcieWrite src addr data => Sys2Proof.Machine.execInboundPcieWrite src addr data s
  | .inboundPcieRead src addr len => Sys2Proof.Machine.execInboundPcieRead src addr len s
  | .atsInvalidation pasid addr => Sys2Proof.Machine.execAtsInvalidation pasid addr s
  | .ramirMessageArrival ch frm ctx body => Sys2Proof.Machine.execRamirMessageArrival ch frm ctx body s
  | .pageRequestAnswer req ok => Sys2Proof.Machine.execPageRequestAnswer req ok s
  | .remoteReadCompletion req ans => Sys2Proof.Machine.execRemoteReadCompletion req ans s
  | .remoteCompletionTimeout req => Sys2Proof.Machine.execRemoteCompletionTimeout req s
  | .symbolResolve n k => Sys2Proof.Machine.execSymbolResolve n k s
  | .symbolDeadline n k => Sys2Proof.Machine.execSymbolDeadline n k s
  | .takeTrap n => Sys2Proof.Machine.execTakeTrap n s
  | .itemDispatch n => Sys2Proof.Machine.execItemDispatch n s
  | .itemResume n => Sys2Proof.Machine.execItemResume n s
  | .launchComplete id => Sys2Proof.Machine.execLaunchComplete id s
  | .launchAgeing id => Sys2Proof.Machine.execLaunchAgeing id s
  | .preemptMark die => Sys2Proof.Machine.execPreemptMark die s
  | .preemptGraceExpiry n => Sys2Proof.Machine.execPreemptGraceExpiry n s
  | .watchdogExpiry ctx => Sys2Proof.Machine.execWatchdogExpiry ctx s
  | .permitChange die permit => Sys2Proof.Machine.execPermitChange die permit s
  | .assocDispatch n => Sys2Proof.Machine.execAssocDispatch n s
  | .streamFill n z => Sys2Proof.Machine.execStreamFill n z s
  | .streamDrain n z => Sys2Proof.Machine.execStreamDrain n z s
  | .transferCommandStart cl ch => Sys2Proof.Machine.execTransferCommandStart cl ch s
  | .transferCommandComplete cl ch => Sys2Proof.Machine.execTransferCommandComplete cl ch s
  | .matrixCommandRun cl => Sys2Proof.Machine.execMatrixCommandRun cl s
  | .matrixCommandComplete cl => Sys2Proof.Machine.execMatrixCommandComplete cl s
  | .matrixTaskIssue die => Sys2Proof.Machine.execMatrixTaskIssue die s
  | .matrixTaskComplete cl => Sys2Proof.Machine.execMatrixTaskComplete cl s
  | .treeOpApply unit slot => Sys2Proof.Machine.execTreeOpApply unit slot s
  | .scrub pa => Sys2Proof.Machine.execScrub pa s
  | .promotionInstall pa => Sys2Proof.Machine.execPromotionInstall pa s
  | .demotionRemove pa => Sys2Proof.Machine.execDemotionRemove pa s
  | .nop h => Sys2Proof.Machine.execNop h s
  | .halt h => Sys2Proof.Machine.execHalt h s
  | .trap h imm => Sys2Proof.Machine.execTrap h imm s
  | .sysc h imm => Sys2Proof.Machine.execSysc h imm s
  | .eret h => Sys2Proof.Machine.execEret h s
  | .bkpt h imm => Sys2Proof.Machine.execBkpt h imm s
  | .mfc h d r => Sys2Proof.Machine.execMfc h d r s
  | .mfcFpcsr h d => Sys2Proof.Machine.execMfcFpcsr h d s
  | .mfcEstartFfidx h d r => Sys2Proof.Machine.execMfcEstartFfidx h d r s
  | .mfcAdirty h d => Sys2Proof.Machine.execMfcAdirty h d s
  | .mtc h a r => Sys2Proof.Machine.execMtc h a r s
  | .mtcFpcsr h a => Sys2Proof.Machine.execMtcFpcsr h a s
  | .mtcTrapbase h a => Sys2Proof.Machine.execMtcTrapbase h a s
  | .mtcAlimit h a => Sys2Proof.Machine.execMtcAlimit h a s
  | .mtcPriocur h a => Sys2Proof.Machine.execMtcPriocur h a s
  | .mtcWatchdog h a r => Sys2Proof.Machine.execMtcWatchdog h a r s
  | .waite h d a b => Sys2Proof.Machine.execWaite h d a b s
  | .sev h sc => Sys2Proof.Machine.execSev h sc s
  | .waitm h a b => Sys2Proof.Machine.execWaitm h a b s
  | .yield h => Sys2Proof.Machine.execYield h s
  | .cacheIinv h base index disp => Sys2Proof.Machine.execCacheIinv h base index disp s
  | .cacheClean h base index disp => Sys2Proof.Machine.execCacheClean h base index disp s
  | .cacheClinv h base index disp => Sys2Proof.Machine.execCacheClinv h base index disp s
  | .cacheInv h base index disp => Sys2Proof.Machine.execCacheInv h base index disp s
  | .cacheZero h base index disp => Sys2Proof.Machine.execCacheZero h base index disp s
  | .cacheIinvall h => Sys2Proof.Machine.execCacheIinvall h s
  | .tlbiAll h => Sys2Proof.Machine.execTlbiAll h s
  | .tlbiCtx h b => Sys2Proof.Machine.execTlbiCtx h b s
  | .tlbiVa h a b => Sys2Proof.Machine.execTlbiVa h a b s
  | .tlbiVaall h a => Sys2Proof.Machine.execTlbiVaall h a s
  | .wdogSet h a b c => Sys2Proof.Machine.execWdogSet h a b c s
  | .wdogClr h a b => Sys2Proof.Machine.execWdogClr h a b s
  | .wdogRead h a b => Sys2Proof.Machine.execWdogRead h a b s
  | .errinjCorr h a b => Sys2Proof.Machine.execErrinjCorr h a b s
  | .errinjDet h a b => Sys2Proof.Machine.execErrinjDet h a b s
  | .errinjArr h a b c => Sys2Proof.Machine.execErrinjArr h a b c s
  | .add h d a b => Sys2Proof.Machine.execAdd h d a b s
  | .sub h d a b => Sys2Proof.Machine.execSub h d a b s
  | .mul h d a b => Sys2Proof.Machine.execMul h d a b s
  | .mulh h d a b => Sys2Proof.Machine.execMulh h d a b s
  | .mulhu h d a b => Sys2Proof.Machine.execMulhu h d a b s
  | .div h d a b => Sys2Proof.Machine.execDiv h d a b s
  | .divu h d a b => Sys2Proof.Machine.execDivu h d a b s
  | .rem h d a b => Sys2Proof.Machine.execRem h d a b s
  | .remu h d a b => Sys2Proof.Machine.execRemu h d a b s
  | .and h d a b => Sys2Proof.Machine.execAnd h d a b s
  | .or h d a b => Sys2Proof.Machine.execOr h d a b s
  | .xor h d a b => Sys2Proof.Machine.execXor h d a b s
  | .andn h d a b => Sys2Proof.Machine.execAndn h d a b s
  | .shl h d a b => Sys2Proof.Machine.execShl h d a b s
  | .shr h d a b => Sys2Proof.Machine.execShr h d a b s
  | .sra h d a b => Sys2Proof.Machine.execSra h d a b s
  | .addi h d a imm => Sys2Proof.Machine.execAddi h d a imm s
  | .muli h d a imm => Sys2Proof.Machine.execMuli h d a imm s
  | .andi h d a imm => Sys2Proof.Machine.execAndi h d a imm s
  | .ori h d a imm => Sys2Proof.Machine.execOri h d a imm s
  | .xori h d a imm => Sys2Proof.Machine.execXori h d a imm s
  | .shli h d a k => Sys2Proof.Machine.execShli h d a k s
  | .shri h d a k => Sys2Proof.Machine.execShri h d a k s
  | .srai h d a k => Sys2Proof.Machine.execSrai h d a k s
  | .min h d a b => Sys2Proof.Machine.execMin h d a b s
  | .max h d a b => Sys2Proof.Machine.execMax h d a b s
  | .minu h d a b => Sys2Proof.Machine.execMinu h d a b s
  | .maxu h d a b => Sys2Proof.Machine.execMaxu h d a b s
  | .clz h d a => Sys2Proof.Machine.execClz h d a s
  | .ctz h d a => Sys2Proof.Machine.execCtz h d a s
  | .popc h d a => Sys2Proof.Machine.execPopc h d a s
  | .brev h d a => Sys2Proof.Machine.execBrev h d a s
  | .setp h pd a b cond => Sys2Proof.Machine.execSetp h pd a b cond s
  | .setpi h pd a cond imm => Sys2Proof.Machine.execSetpi h pd a cond imm s
  | .plog h pd pa pb tbl => Sys2Proof.Machine.execPlog h pd pa pb tbl s
  | .sel h d a b inv ps => Sys2Proof.Machine.execSel h d a b inv ps s
  | .lea h t base size index disp => Sys2Proof.Machine.execLea h t base size index disp s
  | .leapc h d imm => Sys2Proof.Machine.execLeapc h d imm s
  | .bfx h a b sx lenm1 pos => Sys2Proof.Machine.execBfx h a b sx lenm1 pos s
  | .bfi h a b lenm1 pos => Sys2Proof.Machine.execBfi h a b lenm1 pos s
  | .rot h d a b => Sys2Proof.Machine.execRot h d a b s
  | .roti h d a k => Sys2Proof.Machine.execRoti h d a k s
  | .madd h a b c e => Sys2Proof.Machine.execMadd h a b c e s
  | .bswapD h d a => Sys2Proof.Machine.execBswapD h d a s
  | .bswapW h d a => Sys2Proof.Machine.execBswapW h d a s
  | .bswapH h d a => Sys2Proof.Machine.execBswapH h d a s
  | .crc h d a b poly size => Sys2Proof.Machine.execCrc h d a b poly size s
  | .hash h d a b => Sys2Proof.Machine.execHash h d a b s
  | .rdcyc h d => Sys2Proof.Machine.execRdcyc h d s
  | .rdid h d => Sys2Proof.Machine.execRdid h d s
  | .fadd h d a b rm => Sys2Proof.Machine.execFadd h d a b rm s
  | .fsub h d a b rm => Sys2Proof.Machine.execFsub h d a b rm s
  | .fmul h d a b rm => Sys2Proof.Machine.execFmul h d a b rm s
  | .ffma h a b c nega negp rm e => Sys2Proof.Machine.execFfma h a b c nega negp rm e s
  | .fdiv h d a b rm => Sys2Proof.Machine.execFdiv h d a b rm s
  | .fsqrt h d a rm => Sys2Proof.Machine.execFsqrt h d a rm s
  | .fmin h d a b => Sys2Proof.Machine.execFmin h d a b s
  | .fmax h d a b => Sys2Proof.Machine.execFmax h d a b s
  | .fsetp h pd a b cond => Sys2Proof.Machine.execFsetp h pd a b cond s
  | .fcvt h d a sf df rm => Sys2Proof.Machine.execFcvt h d a sf df rm s
  | .fcvti h d a w32 sgn rm => Sys2Proof.Machine.execFcvti h d a w32 sgn rm s
  | .icvtf h d a w32 sgn rm => Sys2Proof.Machine.execIcvtf h d a w32 sgn rm s
  | .fabs h d a => Sys2Proof.Machine.execFabs h d a s
  | .fneg h d a => Sys2Proof.Machine.execFneg h d a s
  | .fclass h d a => Sys2Proof.Machine.execFclass h d a s
  | .frnd h d a rm => Sys2Proof.Machine.execFrnd h d a rm s
  | .jmp nst off => Sys2Proof.Machine.execJmp nst off s
  | .br h off => Sys2Proof.Machine.execBr h off s
  | .call h off => Sys2Proof.Machine.execCall h off s
  | .jr h a => Sys2Proof.Machine.execJr h a s
  | .callr h a => Sys2Proof.Machine.execCallr h a s
  | .ret h => Sys2Proof.Machine.execRet h s
  | .loop h a off => Sys2Proof.Machine.execLoop h a off s
  | .brsymRes h a off => Sys2Proof.Machine.execBrsymRes h a off s
  | .brsymPoi h a off => Sys2Proof.Machine.execBrsymPoi h a off s
  | .brsymPend h a off => Sys2Proof.Machine.execBrsymPend h a off s
  | .bri h d a b => Sys2Proof.Machine.execBri h d a b s
  | .frame h l imm => Sys2Proof.Machine.execFrame h l imm s
  | .brz h a off => Sys2Proof.Machine.execBrz h a off s
  | .brnz h a off => Sys2Proof.Machine.execBrnz h a off s
  | .cbr h a b cond off => Sys2Proof.Machine.execCbr h a b cond off s
  | .cbri h a i6 cond off => Sys2Proof.Machine.execCbri h a i6 cond off s
  | .exit h => Sys2Proof.Machine.execExit h s
  | .nexti h d => Sys2Proof.Machine.execNexti h d s
  | .ld h t base size index disp => Sys2Proof.Machine.execLd h t base size index disp s
  | .lds h t base size index disp => Sys2Proof.Machine.execLds h t base size index disp s
  | .st h t base size index disp => Sys2Proof.Machine.execSt h t base size index disp s
  | .ldl h t base size index disp => Sys2Proof.Machine.execLdl h t base size index disp s
  | .lda h t base size sc index disp => Sys2Proof.Machine.execLda h t base size sc index disp s
  | .stl h t base size sc index disp => Sys2Proof.Machine.execStl h t base size sc index disp s
  | .amoAdd h a b c rel acq size sc => Sys2Proof.Machine.execAmoAdd h a b c rel acq size sc s
  | .amoAnd h a b c rel acq size sc => Sys2Proof.Machine.execAmoAnd h a b c rel acq size sc s
  | .amoOr h a b c rel acq size sc => Sys2Proof.Machine.execAmoOr h a b c rel acq size sc s
  | .amoXor h a b c rel acq size sc => Sys2Proof.Machine.execAmoXor h a b c rel acq size sc s
  | .amoSwap h a b c rel acq size sc => Sys2Proof.Machine.execAmoSwap h a b c rel acq size sc s
  | .amoMin h a b c rel acq size sc => Sys2Proof.Machine.execAmoMin h a b c rel acq size sc s
  | .amoMax h a b c rel acq size sc => Sys2Proof.Machine.execAmoMax h a b c rel acq size sc s
  | .amoMinu h a b c rel acq size sc => Sys2Proof.Machine.execAmoMinu h a b c rel acq size sc s
  | .amoMaxu h a b c rel acq size sc => Sys2Proof.Machine.execAmoMaxu h a b c rel acq size sc s
  | .amoMaxrst h a b rel acq size sc => Sys2Proof.Machine.execAmoMaxrst h a b rel acq size sc s
  | .cas h a b c n rel acq size sc => Sys2Proof.Machine.execCas h a b c n rel acq size sc s
  | .amolAdd h a b c rel acq size sc => Sys2Proof.Machine.execAmolAdd h a b c rel acq size sc s
  | .amolAnd h a b c rel acq size sc => Sys2Proof.Machine.execAmolAnd h a b c rel acq size sc s
  | .amolOr h a b c rel acq size sc => Sys2Proof.Machine.execAmolOr h a b c rel acq size sc s
  | .amolXor h a b c rel acq size sc => Sys2Proof.Machine.execAmolXor h a b c rel acq size sc s
  | .amolSwap h a b c rel acq size sc => Sys2Proof.Machine.execAmolSwap h a b c rel acq size sc s
  | .amolMin h a b c rel acq size sc => Sys2Proof.Machine.execAmolMin h a b c rel acq size sc s
  | .amolMax h a b c rel acq size sc => Sys2Proof.Machine.execAmolMax h a b c rel acq size sc s
  | .amolMinu h a b c rel acq size sc => Sys2Proof.Machine.execAmolMinu h a b c rel acq size sc s
  | .amolMaxu h a b c rel acq size sc => Sys2Proof.Machine.execAmolMaxu h a b c rel acq size sc s
  | .amolMaxrst h a b rel acq size sc => Sys2Proof.Machine.execAmolMaxrst h a b rel acq size sc s
  | .pref h lvl base index disp => Sys2Proof.Machine.execPref h lvl base index disp s
  | .ldx h t base size index disp => Sys2Proof.Machine.execLdx h t base size index disp s
  | .stx h t base size index disp => Sys2Proof.Machine.execStx h t base size index disp s
  | .ldp h t base index disp => Sys2Proof.Machine.execLdp h t base index disp s
  | .stp h t base index disp => Sys2Proof.Machine.execStp h t base index disp s
  | .barInit h a b c sc => Sys2Proof.Machine.execBarInit h a b c sc s
  | .barExpect h a b c sc => Sys2Proof.Machine.execBarExpect h a b c sc s
  | .barArrive h a b sc => Sys2Proof.Machine.execBarArrive h a b sc s
  | .barArriveb h a b c sc => Sys2Proof.Machine.execBarArriveb h a b c sc s
  | .barWait h a b c sc => Sys2Proof.Machine.execBarWait h a b c sc s
  | .barTest h a b c sc => Sys2Proof.Machine.execBarTest h a b c sc s
  | .own h a b ow => Sys2Proof.Machine.execOwn h a b ow s
  | .fence h kinds sc => Sys2Proof.Machine.execFence h kinds sc s
  | .fsa h sc => Sys2Proof.Machine.execFsa h sc s
  | .fas h sc => Sys2Proof.Machine.execFas h sc s
  | .faa h sc => Sys2Proof.Machine.execFaa h sc s
  | .symw h a => Sys2Proof.Machine.execSymw h a s
  | .symq h pd a => Sys2Proof.Machine.execSymq h pd a s
  | .symqPoi h pd a => Sys2Proof.Machine.execSymqPoi h pd a s
  | .symx h d a b => Sys2Proof.Machine.execSymx h d a b s
  | .wmpub h b c => Sys2Proof.Machine.execWmpub h b c s
  | .wmpubGen h b c => Sys2Proof.Machine.execWmpubGen h b c s
  | .wmset h a b c k => Sys2Proof.Machine.execWmset h a b c k s
  | .qwait h a b c => Sys2Proof.Machine.execQwait h a b c s
  | .qtake h a b c => Sys2Proof.Machine.execQtake h a b c s
  | .launch h d a b => Sys2Proof.Machine.execLaunch h d a b s
  | .lwait h d a => Sys2Proof.Machine.execLwait h d a s
  | .lwaitTest h d a => Sys2Proof.Machine.execLwaitTest h d a s
  | .prioGet h d a => Sys2Proof.Machine.execPrioGet h d a s
  | .prioSet h d a b => Sys2Proof.Machine.execPrioSet h d a b s
  | .prioPend h d => Sys2Proof.Machine.execPrioPend h d s
  | .prioCeil h d a b => Sys2Proof.Machine.execPrioCeil h d a b s
  | .prioWake h d a => Sys2Proof.Machine.execPrioWake h d a s
  | .prioKill h d a => Sys2Proof.Machine.execPrioKill h d a s
  | .ctxsv h d a b => Sys2Proof.Machine.execCtxsv h d a b s
  | .ctxsvHold h d a b => Sys2Proof.Machine.execCtxsvHold h d a b s
  | .ctxld h d a => Sys2Proof.Machine.execCtxld h d a s
  | .sbind h z b => Sys2Proof.Machine.execSbind h z b s
  | .sfree h z => Sys2Proof.Machine.execSfree h z s
  | .xcopy h a b c ch => Sys2Proof.Machine.execXcopy h a b c ch s
  | .xgath2 h a b c ch => Sys2Proof.Machine.execXgath2 h a b c ch s
  | .xgath h a b c ch => Sys2Proof.Machine.execXgath h a b c ch s
  | .xscat h a b c ch => Sys2Proof.Machine.execXscat h a b c ch s
  | .xslide h a b c ch => Sys2Proof.Machine.execXslide h a b c ch s
  | .xfill h a b c ch => Sys2Proof.Machine.execXfill h a b c ch s
  | .xwait h a b ch => Sys2Proof.Machine.execXwait h a b ch s
  | .xstatDone h a b ch => Sys2Proof.Machine.execXstatDone h a b ch s
  | .xstatNext h a b ch => Sys2Proof.Machine.execXstatNext h a b ch s
  | .xstatVal h a b ch => Sys2Proof.Machine.execXstatVal h a b ch s
  | .xstatFault h a b ch => Sys2Proof.Machine.execXstatFault h a b ch s
  | .xstatFaddr h a b ch => Sys2Proof.Machine.execXstatFaddr h a b ch s
  | .xstatResume h a b ch => Sys2Proof.Machine.execXstatResume h a b ch s
  | .xstatAbort h a b ch => Sys2Proof.Machine.execXstatAbort h a b ch s
  | .xckpt h a b ch => Sys2Proof.Machine.execXckpt h a b ch s
  | .xpromPro h a b c ch => Sys2Proof.Machine.execXpromPro h a b c ch s
  | .xpromDem h a b c ch => Sys2Proof.Machine.execXpromDem h a b c ch s
  | .xredAdd h a b c ty ch => Sys2Proof.Machine.execXredAdd h a b c ty ch s
  | .xredMax h a b c ty ch => Sys2Proof.Machine.execXredMax h a b c ty ch s
  | .xkv h a b c ch => Sys2Proof.Machine.execXkv h a b c ch s
  | .xdense h a b c ch => Sys2Proof.Machine.execXdense h a b c ch s
  | .xclass h a b c ch => Sys2Proof.Machine.execXclass h a b c ch s
  | .mcfg h a b => Sys2Proof.Machine.execMcfg h a b s
  | .mma h a b c frm mem ovw tl => Sys2Proof.Machine.execMma h a b c frm mem ovw tl s
  | .mmax h a b c frm mem ovw tl => Sys2Proof.Machine.execMmax h a b c frm mem ovw tl s
  | .mlda h a b c f64 cols rows tl => Sys2Proof.Machine.execMlda h a b c f64 cols rows tl s
  | .msta h a b c cols rows tl => Sys2Proof.Machine.execMsta h a b c cols rows tl s
  | .mzero h a mask => Sys2Proof.Machine.execMzero h a mask s
  | .mconv h a b c frm mem ovw tl => Sys2Proof.Machine.execMconv h a b c frm mem ovw tl s
  | .mque h a b c => Sys2Proof.Machine.execMque h a b c s
  | .mwait h a b => Sys2Proof.Machine.execMwait h a b s
  | .mwaitTask h a b c => Sys2Proof.Machine.execMwaitTask h a b c s
  | .mstatDone h a b => Sys2Proof.Machine.execMstatDone h a b s
  | .mstatNext h a b => Sys2Proof.Machine.execMstatNext h a b s
  | .mstatFault h a b => Sys2Proof.Machine.execMstatFault h a b s
  | .mstatFaddr h a b => Sys2Proof.Machine.execMstatFaddr h a b s
  | .mstatRow h a b => Sys2Proof.Machine.execMstatRow h a b s
  | .mstatResume h a b => Sys2Proof.Machine.execMstatResume h a b s
  | .mstatAbort h a b => Sys2Proof.Machine.execMstatAbort h a b s
  | .mstatEv h a b => Sys2Proof.Machine.execMstatEv h a b s
  | .mstatFmt h a b => Sys2Proof.Machine.execMstatFmt h a b s
  | .mamax h a b cols rows tl => Sys2Proof.Machine.execMamax h a b cols rows tl s
  | .mquant h a b c e4m3 cols rows tl => Sys2Proof.Machine.execMquant h a b c e4m3 cols rows tl s
  | .msoft h a b c cols rows tl => Sys2Proof.Machine.execMsoft h a b c cols rows tl s
  | .mtrans h a ts td => Sys2Proof.Machine.execMtrans h a ts td s
  | .msave h a b => Sys2Proof.Machine.execMsave h a b s
  | .mrest h a b => Sys2Proof.Machine.execMrest h a b s
  | .afcfg nst fd r => Sys2Proof.Machine.execAfcfg nst fd r s
  | .amodeAs nst r => Sys2Proof.Machine.execAmodeAs nst r s
  | .amodeSt nst r => Sys2Proof.Machine.execAmodeSt nst r s
  | .awhile h md sb o => Sys2Proof.Machine.execAwhile h md sb o s
  | .asrchSet h md fa o => Sys2Proof.Machine.execAsrchSet h md fa o s
  | .asrchAnd h md fa o => Sys2Proof.Machine.execAsrchAnd h md fa o s
  | .asrchOr h md fa o => Sys2Proof.Machine.execAsrchOr h md fa o s
  | .acmpEq h md fa o => Sys2Proof.Machine.execAcmpEq h md fa o s
  | .acmpNe h md fa o => Sys2Proof.Machine.execAcmpNe h md fa o s
  | .acmpLt h md fa o => Sys2Proof.Machine.execAcmpLt h md fa o s
  | .acmpGe h md fa o => Sys2Proof.Machine.execAcmpGe h md fa o s
  | .mlog h md ma mb tbl => Sys2Proof.Machine.execMlog h md ma mb tbl s
  | .mset h md v => Sys2Proof.Machine.execMset h md v s
  | .awr h fd o => Sys2Proof.Machine.execAwr h fd o s
  | .amov h fd fa => Sys2Proof.Machine.execAmov h fd fa s
  | .apopM h ma r => Sys2Proof.Machine.execApopM h ma r s
  | .apopF h fa r => Sys2Proof.Machine.execApopF h fa r s
  | .afirstFirst h ma r => Sys2Proof.Machine.execAfirstFirst h ma r s
  | .afirstLast h ma r => Sys2Proof.Machine.execAfirstLast h ma r s
  | .anextClr h md ma => Sys2Proof.Machine.execAnextClr h md ma s
  | .anextOne h md ma => Sys2Proof.Machine.execAnextOne h md ma s
  | .atopkMax h md fa o => Sys2Proof.Machine.execAtopkMax h md fa o s
  | .atopkMin h md fa o => Sys2Proof.Machine.execAtopkMin h md fa o s
  | .aextMax h fa r => Sys2Proof.Machine.execAextMax h fa r s
  | .aextMin h fa r => Sys2Proof.Machine.execAextMin h fa r s
  | .aextMaxidx h fa r => Sys2Proof.Machine.execAextMaxidx h fa r s
  | .aextMinidx h fa r => Sys2Proof.Machine.execAextMinidx h fa r s
  | .ardrow h fa sb r => Sys2Proof.Machine.execArdrow h fa sb r s
  | .awrrow h fd sb r => Sys2Proof.Machine.execAwrrow h fd sb r s
  | .aadd h fd fa rc sat o => Sys2Proof.Machine.execAadd h fd fa rc sat o s
  | .asub h fd fa rc sat rev o => Sys2Proof.Machine.execAsub h fd fa rc sat rev o s
  | .amul h fd fa rc sat o => Sys2Proof.Machine.execAmul h fd fa rc sat o s
  | .afma h fd fa rc sat o => Sys2Proof.Machine.execAfma h fd fa rc sat o s
  | .adiv h fd fa rc sat rev o => Sys2Proof.Machine.execAdiv h fd fa rc sat rev o s
  | .amin h fd fa o => Sys2Proof.Machine.execAmin h fd fa o s
  | .amax h fd fa o => Sys2Proof.Machine.execAmax h fd fa o s
  | .aabs h fd fa rc sat => Sys2Proof.Machine.execAabs h fd fa rc sat s
  | .aneg h fd fa rc sat => Sys2Proof.Machine.execAneg h fd fa rc sat s
  | .alogAnd h fd fa o => Sys2Proof.Machine.execAlogAnd h fd fa o s
  | .alogOr h fd fa o => Sys2Proof.Machine.execAlogOr h fd fa o s
  | .alogXor h fd fa o => Sys2Proof.Machine.execAlogXor h fd fa o s
  | .alogAndn h fd fa o => Sys2Proof.Machine.execAlogAndn h fd fa o s
  | .ashfShl h fd fa sat o => Sys2Proof.Machine.execAshfShl h fd fa sat o s
  | .ashfShr h fd fa sat o => Sys2Proof.Machine.execAshfShr h fd fa sat o s
  | .ashfSra h fd fa sat o => Sys2Proof.Machine.execAshfSra h fd fa sat o s
  | .ashfRot h fd fa sat o => Sys2Proof.Machine.execAshfRot h fd fa sat o s
  | .acvt h fd fa rc sat => Sys2Proof.Machine.execAcvt h fd fa rc sat s
  | .aclamp h fd fa sb r => Sys2Proof.Machine.execAclamp h fd fa sb r s
  | .asqrt h fd fa rc sat => Sys2Proof.Machine.execAsqrt h fd fa rc sat s
  | .aham h fd fa sat o => Sys2Proof.Machine.execAham h fd fa sat o s
  | .arem h fd fa sat rev o => Sys2Proof.Machine.execArem h fd fa sat rev o s
  | .alut h fd fa sb r => Sys2Proof.Machine.execAlut h fd fa sb r s
  | .ashr h fd fa o => Sys2Proof.Machine.execAshr h fd fa o s
  | .ascanAdd h fd fa rc sat => Sys2Proof.Machine.execAscanAdd h fd fa rc sat s
  | .ascanMin h fd fa rc sat => Sys2Proof.Machine.execAscanMin h fd fa rc sat s
  | .ascanMax h fd fa rc sat => Sys2Proof.Machine.execAscanMax h fd fa rc sat s
  | .ascanOr h fd fa rc sat => Sys2Proof.Machine.execAscanOr h fd fa rc sat s
  | .asegrAdd h fd fa mb rc sat => Sys2Proof.Machine.execAsegrAdd h fd fa mb rc sat s
  | .asegrMin h fd fa mb rc sat => Sys2Proof.Machine.execAsegrMin h fd fa mb rc sat s
  | .asegrMax h fd fa mb rc sat => Sys2Proof.Machine.execAsegrMax h fd fa mb rc sat s
  | .asegrOr h fd fa mb rc sat => Sys2Proof.Machine.execAsegrOr h fd fa mb rc sat s
  | .aspi h fd fa fb rc sat => Sys2Proof.Machine.execAspi h fd fa fb rc sat s
  | .aspu h fd fa fb rc sat => Sys2Proof.Machine.execAspu h fd fa fb rc sat s
  | .asplenSet h fd o => Sys2Proof.Machine.execAsplenSet h fd o s
  | .asplenMask h md fa => Sys2Proof.Machine.execAsplenMask h md fa s
  | .aappIdx h md r => Sys2Proof.Machine.execAappIdx h md r s
  | .aappVal h md fa r => Sys2Proof.Machine.execAappVal h md fa r s
  | .aconf h md fa => Sys2Proof.Machine.execAconf h md fa s
  | .aintvCc h md fa sb r => Sys2Proof.Machine.execAintvCc h md fa sb r s
  | .aintvCo h md fa sb r => Sys2Proof.Machine.execAintvCo h md fa sb r s
  | .aintvOc h md fa sb r => Sys2Proof.Machine.execAintvOc h md fa sb r s
  | .aintvOo h md fa sb r => Sys2Proof.Machine.execAintvOo h md fa sb r s
  | .amatch h md fa sb z => Sys2Proof.Machine.execAmatch h md fa sb z s
  | .achk h md fa => Sys2Proof.Machine.execAchk h md fa s
  | .afill h fd sat o => Sys2Proof.Machine.execAfill h fd sat o s
  | .abcast h fd fa o => Sys2Proof.Machine.execAbcast h fd fa o s
  | .aqnt h fd fa o => Sys2Proof.Machine.execAqnt h fd fa o s
  | .aqntKeep h fd fa => Sys2Proof.Machine.execAqntKeep h fd fa s
  | .adqnt h fd fa rc sat o => Sys2Proof.Machine.execAdqnt h fd fa rc sat o s
  | .ald h fd ff r => Sys2Proof.Machine.execAld h fd ff r s
  | .aldx h fd fb ff r => Sys2Proof.Machine.execAldx h fd fb ff r s
  | .aldseg h fd sb rc nosat nm1 r => Sys2Proof.Machine.execAldseg h fd sb rc nosat nm1 r s
  | .ast h fa r => Sys2Proof.Machine.execAst h fa r s
  | .astx h fa fb r => Sys2Proof.Machine.execAstx h fa fb r s
  | .astseg h fa sb rc nosat nm1 r => Sys2Proof.Machine.execAstseg h fa sb rc nosat nm1 r s
  | .alds h fd sb ff r => Sys2Proof.Machine.execAlds h fd sb ff r s
  | .asts h fa sb r => Sys2Proof.Machine.execAsts h fa sb r s
  | .asaveF nst k r => Sys2Proof.Machine.execAsaveF nst k r s
  | .asaveM nst k r => Sys2Proof.Machine.execAsaveM nst k r s
  | .asaveDesc nst k r => Sys2Proof.Machine.execAsaveDesc nst k r s
  | .asaveEv nst k r => Sys2Proof.Machine.execAsaveEv nst k r s
  | .arstrF nst k r => Sys2Proof.Machine.execArstrF nst k r s
  | .arstrM nst k r => Sys2Proof.Machine.execArstrM nst k r s
  | .arstrDesc nst k r => Sys2Proof.Machine.execArstrDesc nst k r s
  | .arstrEv nst k r => Sys2Proof.Machine.execArstrEv nst k r s
  | .adump h a b => Sys2Proof.Machine.execAdump h a b s
  | .aundmp h a b => Sys2Proof.Machine.execAundmp h a b s
  | .aucode h a b c => Sys2Proof.Machine.execAucode h a b c s
  | .aholdStop h => Sys2Proof.Machine.execAholdStop h s
  | .aholdGo h => Sys2Proof.Machine.execAholdGo h s
  | .aholdDrop h => Sys2Proof.Machine.execAholdDrop h s
  | .aestatState h d => Sys2Proof.Machine.execAestatState h d s
  | .aestatAddr h d => Sys2Proof.Machine.execAestatAddr h d s
  | .aestatDetail h d => Sys2Proof.Machine.execAestatDetail h d s
  | .aestatPass h d => Sys2Proof.Machine.execAestatPass h d s
  | .await h => Sys2Proof.Machine.execAwait h s
  | .spcfg h a b => Sys2Proof.Machine.execSpcfg h a b s
  | .spld h a b c => Sys2Proof.Machine.execSpld h a b c s
  | .spst h a b c => Sys2Proof.Machine.execSpst h a b c s
  | .spamoAdd h a b c ty => Sys2Proof.Machine.execSpamoAdd h a b c ty s
  | .spamoMin h a b c ty => Sys2Proof.Machine.execSpamoMin h a b c ty s
  | .spamoMax h a b c ty => Sys2Proof.Machine.execSpamoMax h a b c ty s
  | .spamoSwap h a b c ty => Sys2Proof.Machine.execSpamoSwap h a b c ty s
  | .spnextGt h a b c => Sys2Proof.Machine.execSpnextGt h a b c s
  | .spnextGe h a b c => Sys2Proof.Machine.execSpnextGe h a b c s
  | .spprevLt h a b c => Sys2Proof.Machine.execSpprevLt h a b c s
  | .spprevLe h a b c => Sys2Proof.Machine.execSpprevLe h a b c s
  | .spcnt h a b c => Sys2Proof.Machine.execSpcnt h a b c s
  | .spdel h a b c => Sys2Proof.Machine.execSpdel h a b c s
  | .spwait h => Sys2Proof.Machine.execSpwait h s
  | .spstatKeys h a b => Sys2Proof.Machine.execSpstatKeys h a b s
  | .spstatNodes h a b => Sys2Proof.Machine.execSpstatNodes h a b s
  | .spstatFree h a b => Sys2Proof.Machine.execSpstatFree h a b s
  | .spstatDepth h a b => Sys2Proof.Machine.execSpstatDepth h a b s
  | .spstatStatus h a b => Sys2Proof.Machine.execSpstatStatus h a b s
  | .spstatPages h a b => Sys2Proof.Machine.execSpstatPages h a b s
  | .sppool h a b c n => Sys2Proof.Machine.execSppool h a b c n s
  | .spfree h a b => Sys2Proof.Machine.execSpfree h a b s
  | .rclassSet h a b c => Sys2Proof.Machine.execRclassSet h a b c s
  | .rclassRead h a b => Sys2Proof.Machine.execRclassRead h a b s
  | .ebsetCorr h a b c => Sys2Proof.Machine.execEbsetCorr h a b c s
  | .ebsetDet h a b c => Sys2Proof.Machine.execEbsetDet h a b c s
  | .ebsetRdcorr h a b => Sys2Proof.Machine.execEbsetRdcorr h a b s
  | .ebsetRddet h a b => Sys2Proof.Machine.execEbsetRddet h a b s
  | .mscopClean h a b c => Sys2Proof.Machine.execMscopClean h a b c s
  | .mscopClinv h a b c => Sys2Proof.Machine.execMscopClinv h a b c s
  | .mscopInv h a b c => Sys2Proof.Machine.execMscopInv h a b c s
  | .mscopStat h a b c => Sys2Proof.Machine.execMscopStat h a b c s
  | .peerwOpen h a b c => Sys2Proof.Machine.execPeerwOpen h a b c s
  | .peerwClose h a b => Sys2Proof.Machine.execPeerwClose h a b s
  | .peerwRead h a b => Sys2Proof.Machine.execPeerwRead h a b s
  | .peerwBind h a b c => Sys2Proof.Machine.execPeerwBind h a b c s
  | .smcSetw h a b c => Sys2Proof.Machine.execSmcSetw h a b c s
  | .smcFwld h a b => Sys2Proof.Machine.execSmcFwld h a b s
  | .smcVer h a => Sys2Proof.Machine.execSmcVer h a s
  | .perfRead h a b => Sys2Proof.Machine.execPerfRead h a b s
  | .perfClr h a b => Sys2Proof.Machine.execPerfClr h a b s
  | .dbgHalt h a b => Sys2Proof.Machine.execDbgHalt h a b s
  | .dbgGo h a b => Sys2Proof.Machine.execDbgGo h a b s
  | .dbgRd h a b c => Sys2Proof.Machine.execDbgRd h a b c s
  | .dbgWr h a b c => Sys2Proof.Machine.execDbgWr h a b c s
  | .dbgSig h a b c => Sys2Proof.Machine.execDbgSig h a b c s
  | .atst h a b c => Sys2Proof.Machine.execAtst h a b c s
  | .pwrqMax h a b => Sys2Proof.Machine.execPwrqMax h a b s
  | .pwrqState h a b c => Sys2Proof.Machine.execPwrqState h a b c s
  | .alim h a b c => Sys2Proof.Machine.execAlim h a b c s
  | .hmsg h a b vec => Sys2Proof.Machine.execHmsg h a b vec s
  | .pmsgSend h a b c ch => Sys2Proof.Machine.execPmsgSend h a b c ch s
  | .pmsgRecv h a b ch => Sys2Proof.Machine.execPmsgRecv h a b ch s
  | .pmsgWait h a ch => Sys2Proof.Machine.execPmsgWait h a ch s
  | .li h d v => Sys2Proof.Machine.execLi h d v s
  | .jmpx h v => Sys2Proof.Machine.execJmpx h v s
  | .callx h v => Sys2Proof.Machine.execCallx h v s
  | .addix h d a v => Sys2Proof.Machine.execAddix h d a v s
  | .leax h d v => Sys2Proof.Machine.execLeax h d v s
  | .awrx nst mg fd v => Sys2Proof.Machine.execAwrx nst mg fd v s
  | .asrchx nst md fa v => Sys2Proof.Machine.execAsrchx nst md fa v s
  | .ud x => Sys2Proof.Machine.execUd x s
  | .blockThrottleChange cls inst temp gated level => Sys2Proof.Machine.execBlockThrottleChange cls inst temp gated level s
  | .tdispStateChange ifc run ctx => Sys2Proof.Machine.execTdispStateChange ifc run ctx s
  | .inboundPcieAtomic src addr op size x y => Sys2Proof.Machine.execInboundPcieAtomic src addr op size x y s

end Sys2Proof.Machine
end

