-- ==== Sys2Proof/Machine/Policy.lean ====
section
/-!
DEFINITION. Which agent moves when the agenda names none (DESIGN CHOICE log 1): the strands that issue and the device's own events,
visited in turn. The order is the model's choice; the spec leaves it open.
-/
namespace Sys2Proof.Machine

/-- Moves of a strand, its queue, streams, symbols and timers. -/
def strandMoves (n : Nat) (st : Strand) (traps : Bool) : List Mover :=
  let k : BitVec 10 := BitVec.ofNat 10 n
  (if st.issues then [.strand n] else [])
    ++ (if traps then [.event (.takeTrap k)] else [])
    ++ (if st.queue.isEmpty then [] else [.event (.assocDispatch k)])
    ++ st.streams.map (fun p => .event (if p.2.out then .streamDrain k (BitVec.ofNat 4 p.1) else .streamFill k (BitVec.ofNat 4 p.1)))
    ++ st.syms.flatMap (fun p => [.event (.symbolResolve k (BitVec.ofNat 5 p.1)), .event (.symbolDeadline k (BitVec.ofNat 5 p.1))])
    ++ (if st.mark.isSome then [.event (.preemptGraceExpiry k)] else [])
/-- Moves of a cluster's engines. -/
def clusterMoves (c : Nat) (x : Cluster) : List Mover :=
  let k : BitVec 7 := BitVec.ofNat 7 c
  x.chans.flatMap (fun p => if p.2.queue.isEmpty then []
      else [.event (.transferCommandStart k (BitVec.ofNat 4 p.1)), .event (.transferCommandComplete k (BitVec.ofNat 4 p.1))])
    ++ (if x.mx.queue.isEmpty then [] else [.event (.matrixCommandRun k), .event (.matrixCommandComplete k)])
/-- Moves of a die's matrix scheduler, and of the engines that run its tasks. -/
def dieMoves (d : Nat) (x : Die) : List Mover :=
  if x.tasks.isEmpty then []
  else .event (.matrixTaskIssue (BitVec.ofNat 3 d))
    :: x.tasks.flatMap fun t => match t.on with
      | some c => [.event (.matrixCommandRun (BitVec.ofNat 7 c)), .event (.matrixTaskComplete (BitVec.ofNat 7 c))]
      | none => []
/-- Moves of the walkers. -/
def walkerMoves (s : State) : List Mover :=
  let open' := s.launches.filter fun p => p.2.status.isNone
  if open'.isEmpty then []
  else
    open'.flatMap (fun p => [.event (.launchComplete (BitVec.ofNat 64 p.1)), .event (.launchAgeing (BitVec.ofNat 64 p.1))])
      ++ (List.range 8).flatMap fun d =>
        .event (.preemptMark (BitVec.ofNat 3 d)) ::
          match (strandsOf d).find? fun n => (s.chosenFor n).isSome with
          | some n => [.event (.itemDispatch (BitVec.ofNat 10 n)), .event (.itemResume (BitVec.ofNat 10 n))]
          | none => []
/-- Moves of the index-tree units and of the promotion unit. -/
def unitMoves (s : State) : List Mover :=
  s.treeOps.map (fun o => .event (.treeOpApply (BitVec.ofNat 4 (o.handle / 4096)) (BitVec.ofNat 10 (o.handle % 4096))))
    ++ s.promoting.map (fun p => .event (.promotionInstall (BitVec.ofNat 52 (p.1 * 65536))))
    ++ s.demoting.map (fun p => .event (.demotionRemove (BitVec.ofNat 52 (p.1 * 65536))))
/-- What may move. -/
def State.moves (s : State) : List Mover :=
  s.strands.flatMap (fun p => strandMoves p.1 p.2 (s.boundary p.1).isSome) ++ s.clusters.flatMap (fun p => clusterMoves p.1 p.2)
    ++ s.dies.flatMap (fun p => dieMoves p.1 p.2) ++ walkerMoves s ++ unitMoves s
    ++ s.ctxs.map fun p => .event (.watchdogExpiry (BitVec.ofNat 16 p.1))
/-- What the security processor finds at boot, which is open (DESIGN CHOICE log 2). -/
def bootFound (f : Nat) : BootOutcome :=
  let w (i : Nat) : Word := Config.freeBits (f + i)
  ⟨(w 0).setWidth 3, w 1, w 2, (w 3).setWidth 52, (w 4).setWidth 32, (w 5).setWidth 32, w 6⟩
/-- The mover the policy names: boot while STATE is 0, else the next in turn. -/
def State.nextMover (s : State) : Option Mover :=
  if s.mgmt.state = 0 then some (.event (.moduleReset (bootFound s.free)))
  else s.moves[s.turn % s.moves.length]?

end Sys2Proof.Machine
end

