-- ==== Sys2Proof/Machine/Issue.lean ====
section
/-!
DEFINITION. A strand's move (02 R47; 04 R108) and the moves of the other agents (DESIGN CHOICE log 1).
-/
namespace Sys2Proof.Machine

noncomputable section

/-- The running strand fetches, decodes and executes one instruction (R47). The UNCORRECTABLE a stream load has left (R469)
is taken after the fetch and before the encoding is looked at (DESIGN CHOICE log 95). -/
def issue (s : State) : Out :=
  match fetchInstr s with
  | .error (.wait w) s1 => .next (waitAt w s s1)
  | .error (.trap t) s1 => .next (fetchTrap t s s1)
  | .ok (w0, w1) s1 =>
    match streamTrap s1 with
    | some s2 => .next s2
    | none =>
      match decode w0 w1 with
      | .error _ => .next (illegalTrap s1)
      | .ok i => exec i s1

/-- Strand `n` moves: the trap of its boundary, else its next instruction (R108). -/
def moveStrand (n : Nat) (s : State) : Out :=
  let s := { s with cur := n }
  if s.mgmt.state ≠ 1 then .next (tick 1 s)
  else match s.boundary n with
    | some (t, st) => .next (takeBoundary n t st s)
    | none => if s.here.issues then issue s else .next (tick 1 s)

/-- The strand that moves with a mover: itself, its groups, or its trap. -/
def Mover.strand? : Mover → Option Nat
  | .strand n => some n
  | .event (.assocDispatch n) => some n.toNat
  | .event (.takeTrap n) => some n.toNat
  | _ => none
/-- What is named moves; the stores of every other strand are performed for its groups too by then (DESIGN CHOICE log 6). -/
def move (m : Mover) (s : State) : Out :=
  let s := s.alone m.strand?
  match m with
  | .strand n => moveStrand n s
  | .event e => exec e s

/-- One step: the agenda first, then the policy; time passes where nothing can move. -/
def advance (s : State) : Out :=
  match s.agenda with
  | m :: rest => move m { s with agenda := rest }
  | [] =>
    match s.nextMover with
    | some m => move m { s with turn := s.turn + 1 }
    | none => .next (tick 1 s)

/-- `s` with the instruction of `nbits` bits `w` where the next step fetches: in block 0 of die 0's scratchpad, owned by
the strands, with strand 0 running an item of context 0 and nothing pending at its boundary (DESIGN CHOICE log 2). -/
def placeWord (s : State) (nbits w : Nat) : State :=
  let st := s.strand 0
  let d := s.die 0
  let s := { s with
    mgmt := { s.mgmt with state := 1 }
    mem := Memory.setBytes s.mem (scratchKey 0 0) (bytesOfWord 16 (w % 2 ^ nbits))
    agenda := [.strand 0] }
  (s.setDie 0 { d with owner := d.owner.filter (· != 0) }).setStrand 0 { st with
    pc := 0xFFFF0100000000
    item := some ⟨0, 0, 0, 0⟩
    halt := .running
    dbg := false
    waiting := none
    adeliver := none
    streamErr := none
    events := ⟨none, none, none, none⟩ }

end

end Sys2Proof.Machine
end

