-- ==== Sys2Proof/Machine/Step.lean ====
section
/-!
DEFINITION. One step of the module (DESIGN CHOICE log 1), and a state whose next step runs a given instruction (DESIGN CHOICE log 2).
-/
namespace Sys2Proof.Machine

noncomputable section

/-- One step. -/
def step (s : State) : Out := advance s

/-- `s` with the instruction of `nbits` bits `w` where the next step fetches it (DESIGN CHOICE log 2). -/
def State.withFetchWord (s : State) (nbits w : Nat) : State := placeWord s nbits w

end

end Sys2Proof.Machine
end

