-- ==== Sys2Proof/Safety.lean ====
section
/-!
DEFINITION. What counts as a safe run: no step is refused, and the machine never faults (R9). And the terms in which
claims speak of the operands and results of an instruction: when a strand runs and a guard holds (02 R44, R47), what a
source register or stream gives (02 R43, R54; 12 R341), what a result leaves (02 R54 to R56), and which bytes of a die
scratchpad an access reaches (01 R28, R29; 05 R158).
-/
namespace Sys2Proof

/-- A step that answers a next state. -/
def Safe (s : Machine.State) : Prop := ∃ t, Machine.step s = .next t

open Machine in
/-- The header of a guarded instruction (R44), and whether supervisor mode alone may issue it (R100, Table 2.8, and for MFC
and MTC Table 2.9); none for what has no guard. -/
def Instr.header : Instr → Option (Hdr × Bool)
  | .moduleReset _ => none
  | .mboxseqWrite _ => none
  | .mgmtRegisterWrite _ _ => none
  | .inboundPcieWrite _ _ _ => none
  | .inboundPcieRead _ _ _ => none
  | .atsInvalidation _ _ => none
  | .ramirMessageArrival _ _ _ _ => none
  | .pageRequestAnswer _ _ => none
  | .remoteReadCompletion _ _ => none
  | .remoteCompletionTimeout _ => none
  | .symbolResolve _ _ => none
  | .symbolDeadline _ _ => none
  | .takeTrap _ => none
  | .itemDispatch _ => none
  | .itemResume _ => none
  | .launchComplete _ => none
  | .launchAgeing _ => none
  | .preemptMark _ => none
  | .preemptGraceExpiry _ => none
  | .watchdogExpiry _ => none
  | .permitChange _ _ => none
  | .assocDispatch _ => none
  | .streamFill _ _ => none
  | .streamDrain _ _ => none
  | .transferCommandStart _ _ => none
  | .transferCommandComplete _ _ => none
  | .matrixCommandRun _ => none
  | .matrixCommandComplete _ => none
  | .matrixTaskIssue _ => none
  | .matrixTaskComplete _ => none
  | .treeOpApply _ _ => none
  | .scrub _ => none
  | .promotionInstall _ => none
  | .demotionRemove _ => none
  | .nop h => some (h, false)
  | .halt h => some (h, true)
  | .trap h _ => some (h, false)
  | .sysc h _ => some (h, false)
  | .eret h => some (h, true)
  | .bkpt h _ => some (h, false)
  | .mfc h _ r => some (h, cregClosed r.toNat)
  | .mfcFpcsr h _ => some (h, false)
  | .mfcEstartFfidx h _ _ => some (h, false)
  | .mfcAdirty h _ => some (h, true)
  | .mtc h _ r => some (h, cregClosed r.toNat)
  | .mtcFpcsr h _ => some (h, false)
  | .mtcTrapbase h _ => some (h, true)
  | .mtcAlimit h _ => some (h, true)
  | .mtcPriocur h _ => some (h, false)
  | .mtcWatchdog h _ _ => some (h, false)
  | .waite h _ _ _ => some (h, false)
  | .sev h _ => some (h, false)
  | .waitm h _ _ => some (h, true)
  | .yield h => some (h, false)
  | .cacheIinv h _ _ _ => some (h, false)
  | .cacheClean h _ _ _ => some (h, false)
  | .cacheClinv h _ _ _ => some (h, false)
  | .cacheInv h _ _ _ => some (h, true)
  | .cacheZero h _ _ _ => some (h, false)
  | .cacheIinvall h => some (h, false)
  | .tlbiAll h => some (h, true)
  | .tlbiCtx h _ => some (h, true)
  | .tlbiVa h _ _ => some (h, true)
  | .tlbiVaall h _ => some (h, true)
  | .wdogSet h _ _ _ => some (h, true)
  | .wdogClr h _ _ => some (h, true)
  | .wdogRead h _ _ => some (h, true)
  | .errinjCorr h _ _ => some (h, true)
  | .errinjDet h _ _ => some (h, true)
  | .errinjArr h _ _ _ => some (h, true)
  | .add h _ _ _ => some (h, false)
  | .sub h _ _ _ => some (h, false)
  | .mul h _ _ _ => some (h, false)
  | .mulh h _ _ _ => some (h, false)
  | .mulhu h _ _ _ => some (h, false)
  | .div h _ _ _ => some (h, false)
  | .divu h _ _ _ => some (h, false)
  | .rem h _ _ _ => some (h, false)
  | .remu h _ _ _ => some (h, false)
  | .and h _ _ _ => some (h, false)
  | .or h _ _ _ => some (h, false)
  | .xor h _ _ _ => some (h, false)
  | .andn h _ _ _ => some (h, false)
  | .shl h _ _ _ => some (h, false)
  | .shr h _ _ _ => some (h, false)
  | .sra h _ _ _ => some (h, false)
  | .addi h _ _ _ => some (h, false)
  | .muli h _ _ _ => some (h, false)
  | .andi h _ _ _ => some (h, false)
  | .ori h _ _ _ => some (h, false)
  | .xori h _ _ _ => some (h, false)
  | .shli h _ _ _ => some (h, false)
  | .shri h _ _ _ => some (h, false)
  | .srai h _ _ _ => some (h, false)
  | .min h _ _ _ => some (h, false)
  | .max h _ _ _ => some (h, false)
  | .minu h _ _ _ => some (h, false)
  | .maxu h _ _ _ => some (h, false)
  | .clz h _ _ => some (h, false)
  | .ctz h _ _ => some (h, false)
  | .popc h _ _ => some (h, false)
  | .brev h _ _ => some (h, false)
  | .setp h _ _ _ _ => some (h, false)
  | .setpi h _ _ _ _ => some (h, false)
  | .plog h _ _ _ _ => some (h, false)
  | .sel h _ _ _ _ _ => some (h, false)
  | .lea h _ _ _ _ _ => some (h, false)
  | .leapc h _ _ => some (h, false)
  | .bfx h _ _ _ _ _ => some (h, false)
  | .bfi h _ _ _ _ => some (h, false)
  | .rot h _ _ _ => some (h, false)
  | .roti h _ _ _ => some (h, false)
  | .madd h _ _ _ _ => some (h, false)
  | .bswapD h _ _ => some (h, false)
  | .bswapW h _ _ => some (h, false)
  | .bswapH h _ _ => some (h, false)
  | .crc h _ _ _ _ _ => some (h, false)
  | .hash h _ _ _ => some (h, false)
  | .rdcyc h _ => some (h, false)
  | .rdid h _ => some (h, false)
  | .fadd h _ _ _ _ => some (h, false)
  | .fsub h _ _ _ _ => some (h, false)
  | .fmul h _ _ _ _ => some (h, false)
  | .ffma h _ _ _ _ _ _ _ => some (h, false)
  | .fdiv h _ _ _ _ => some (h, false)
  | .fsqrt h _ _ _ => some (h, false)
  | .fmin h _ _ _ => some (h, false)
  | .fmax h _ _ _ => some (h, false)
  | .fsetp h _ _ _ _ => some (h, false)
  | .fcvt h _ _ _ _ _ => some (h, false)
  | .fcvti h _ _ _ _ _ => some (h, false)
  | .icvtf h _ _ _ _ _ => some (h, false)
  | .fabs h _ _ => some (h, false)
  | .fneg h _ _ => some (h, false)
  | .fclass h _ _ => some (h, false)
  | .frnd h _ _ _ => some (h, false)
  | .jmp _ _ => none
  | .br h _ => some (h, false)
  | .call h _ => some (h, false)
  | .jr h _ => some (h, false)
  | .callr h _ => some (h, false)
  | .ret h => some (h, false)
  | .loop h _ _ => some (h, false)
  | .brsymRes h _ _ => some (h, false)
  | .brsymPoi h _ _ => some (h, false)
  | .brsymPend h _ _ => some (h, false)
  | .bri h _ _ _ => some (h, false)
  | .frame h _ _ => some (h, false)
  | .brz h _ _ => some (h, false)
  | .brnz h _ _ => some (h, false)
  | .cbr h _ _ _ _ => some (h, false)
  | .cbri h _ _ _ _ => some (h, false)
  | .exit h => some (h, false)
  | .nexti h _ => some (h, false)
  | .ld h _ _ _ _ _ => some (h, false)
  | .lds h _ _ _ _ _ => some (h, false)
  | .st h _ _ _ _ _ => some (h, false)
  | .ldl h _ _ _ _ _ => some (h, false)
  | .lda h _ _ _ _ _ _ => some (h, false)
  | .stl h _ _ _ _ _ _ => some (h, false)
  | .amoAdd h _ _ _ _ _ _ _ => some (h, false)
  | .amoAnd h _ _ _ _ _ _ _ => some (h, false)
  | .amoOr h _ _ _ _ _ _ _ => some (h, false)
  | .amoXor h _ _ _ _ _ _ _ => some (h, false)
  | .amoSwap h _ _ _ _ _ _ _ => some (h, false)
  | .amoMin h _ _ _ _ _ _ _ => some (h, false)
  | .amoMax h _ _ _ _ _ _ _ => some (h, false)
  | .amoMinu h _ _ _ _ _ _ _ => some (h, false)
  | .amoMaxu h _ _ _ _ _ _ _ => some (h, false)
  | .amoMaxrst h _ _ _ _ _ _ => some (h, false)
  | .cas h _ _ _ _ _ _ _ _ => some (h, false)
  | .amolAdd h _ _ _ _ _ _ _ => some (h, false)
  | .amolAnd h _ _ _ _ _ _ _ => some (h, false)
  | .amolOr h _ _ _ _ _ _ _ => some (h, false)
  | .amolXor h _ _ _ _ _ _ _ => some (h, false)
  | .amolSwap h _ _ _ _ _ _ _ => some (h, false)
  | .amolMin h _ _ _ _ _ _ _ => some (h, false)
  | .amolMax h _ _ _ _ _ _ _ => some (h, false)
  | .amolMinu h _ _ _ _ _ _ _ => some (h, false)
  | .amolMaxu h _ _ _ _ _ _ _ => some (h, false)
  | .amolMaxrst h _ _ _ _ _ _ => some (h, false)
  | .pref h _ _ _ _ => some (h, false)
  | .ldx h _ _ _ _ _ => some (h, false)
  | .stx h _ _ _ _ _ => some (h, false)
  | .ldp h _ _ _ _ => some (h, false)
  | .stp h _ _ _ _ => some (h, false)
  | .barInit h _ _ _ _ => some (h, false)
  | .barExpect h _ _ _ _ => some (h, false)
  | .barArrive h _ _ _ => some (h, false)
  | .barArriveb h _ _ _ _ => some (h, false)
  | .barWait h _ _ _ _ => some (h, false)
  | .barTest h _ _ _ _ => some (h, false)
  | .own h _ _ _ => some (h, false)
  | .fence h _ _ => some (h, false)
  | .fsa h _ => some (h, false)
  | .fas h _ => some (h, false)
  | .faa h _ => some (h, false)
  | .symw h _ => some (h, false)
  | .symq h _ _ => some (h, false)
  | .symqPoi h _ _ => some (h, false)
  | .symx h _ _ _ => some (h, false)
  | .wmpub h _ _ => some (h, false)
  | .wmpubGen h _ _ => some (h, false)
  | .wmset h _ _ _ _ => some (h, false)
  | .qwait h _ _ _ => some (h, false)
  | .qtake h _ _ _ => some (h, false)
  | .launch h _ _ _ => some (h, false)
  | .lwait h _ _ => some (h, false)
  | .lwaitTest h _ _ => some (h, false)
  | .prioGet h _ _ => some (h, false)
  | .prioSet h _ _ _ => some (h, false)
  | .prioPend h _ => some (h, false)
  | .prioCeil h _ _ _ => some (h, true)
  | .prioWake h _ _ => some (h, true)
  | .prioKill h _ _ => some (h, true)
  | .ctxsv h _ _ _ => some (h, true)
  | .ctxsvHold h _ _ _ => some (h, true)
  | .ctxld h _ _ => some (h, true)
  | .sbind h _ _ => some (h, false)
  | .sfree h _ => some (h, false)
  | .xcopy h _ _ _ _ => some (h, false)
  | .xgath2 h _ _ _ _ => some (h, false)
  | .xgath h _ _ _ _ => some (h, false)
  | .xscat h _ _ _ _ => some (h, false)
  | .xslide h _ _ _ _ => some (h, false)
  | .xfill h _ _ _ _ => some (h, false)
  | .xwait h _ _ _ => some (h, false)
  | .xstatDone h _ _ _ => some (h, false)
  | .xstatNext h _ _ _ => some (h, false)
  | .xstatVal h _ _ _ => some (h, false)
  | .xstatFault h _ _ _ => some (h, false)
  | .xstatFaddr h _ _ _ => some (h, false)
  | .xstatResume h _ _ _ => some (h, false)
  | .xstatAbort h _ _ _ => some (h, false)
  | .xckpt h _ _ _ => some (h, false)
  | .xpromPro h _ _ _ _ => some (h, false)
  | .xpromDem h _ _ _ _ => some (h, false)
  | .xredAdd h _ _ _ _ _ => some (h, false)
  | .xredMax h _ _ _ _ _ => some (h, false)
  | .xkv h _ _ _ _ => some (h, false)
  | .xdense h _ _ _ _ => some (h, false)
  | .xclass h _ _ _ _ => some (h, false)
  | .mcfg h _ _ => some (h, false)
  | .mma h _ _ _ _ _ _ _ => some (h, false)
  | .mmax h _ _ _ _ _ _ _ => some (h, false)
  | .mlda h _ _ _ _ _ _ _ => some (h, false)
  | .msta h _ _ _ _ _ _ => some (h, false)
  | .mzero h _ _ => some (h, false)
  | .mconv h _ _ _ _ _ _ _ => some (h, false)
  | .mque h _ _ _ => some (h, false)
  | .mwait h _ _ => some (h, false)
  | .mwaitTask h _ _ _ => some (h, false)
  | .mstatDone h _ _ => some (h, false)
  | .mstatNext h _ _ => some (h, false)
  | .mstatFault h _ _ => some (h, false)
  | .mstatFaddr h _ _ => some (h, false)
  | .mstatRow h _ _ => some (h, false)
  | .mstatResume h _ _ => some (h, false)
  | .mstatAbort h _ _ => some (h, false)
  | .mstatEv h _ _ => some (h, false)
  | .mstatFmt h _ _ => some (h, false)
  | .mamax h _ _ _ _ _ => some (h, false)
  | .mquant h _ _ _ _ _ _ _ => some (h, false)
  | .msoft h _ _ _ _ _ _ => some (h, false)
  | .mtrans h _ _ _ => some (h, false)
  | .msave h _ _ => some (h, false)
  | .mrest h _ _ => some (h, false)
  | .afcfg _ _ _ => none
  | .amodeAs _ _ => none
  | .amodeSt _ _ => none
  | .awhile _ _ _ _ => none
  | .asrchSet _ _ _ _ => none
  | .asrchAnd _ _ _ _ => none
  | .asrchOr _ _ _ _ => none
  | .acmpEq _ _ _ _ => none
  | .acmpNe _ _ _ _ => none
  | .acmpLt _ _ _ _ => none
  | .acmpGe _ _ _ _ => none
  | .mlog _ _ _ _ _ => none
  | .mset _ _ _ => none
  | .awr _ _ _ => none
  | .amov _ _ _ => none
  | .apopM _ _ _ => none
  | .apopF _ _ _ => none
  | .afirstFirst _ _ _ => none
  | .afirstLast _ _ _ => none
  | .anextClr _ _ _ => none
  | .anextOne _ _ _ => none
  | .atopkMax _ _ _ _ => none
  | .atopkMin _ _ _ _ => none
  | .aextMax _ _ _ => none
  | .aextMin _ _ _ => none
  | .aextMaxidx _ _ _ => none
  | .aextMinidx _ _ _ => none
  | .ardrow _ _ _ _ => none
  | .awrrow _ _ _ _ => none
  | .aadd _ _ _ _ _ _ => none
  | .asub _ _ _ _ _ _ _ => none
  | .amul _ _ _ _ _ _ => none
  | .afma _ _ _ _ _ _ => none
  | .adiv _ _ _ _ _ _ _ => none
  | .amin _ _ _ _ => none
  | .amax _ _ _ _ => none
  | .aabs _ _ _ _ _ => none
  | .aneg _ _ _ _ _ => none
  | .alogAnd _ _ _ _ => none
  | .alogOr _ _ _ _ => none
  | .alogXor _ _ _ _ => none
  | .alogAndn _ _ _ _ => none
  | .ashfShl _ _ _ _ _ => none
  | .ashfShr _ _ _ _ _ => none
  | .ashfSra _ _ _ _ _ => none
  | .ashfRot _ _ _ _ _ => none
  | .acvt _ _ _ _ _ => none
  | .aclamp _ _ _ _ _ => none
  | .asqrt _ _ _ _ _ => none
  | .aham _ _ _ _ _ => none
  | .arem _ _ _ _ _ _ => none
  | .alut _ _ _ _ _ => none
  | .ashr _ _ _ _ => none
  | .ascanAdd _ _ _ _ _ => none
  | .ascanMin _ _ _ _ _ => none
  | .ascanMax _ _ _ _ _ => none
  | .ascanOr _ _ _ _ _ => none
  | .asegrAdd _ _ _ _ _ _ => none
  | .asegrMin _ _ _ _ _ _ => none
  | .asegrMax _ _ _ _ _ _ => none
  | .asegrOr _ _ _ _ _ _ => none
  | .aspi _ _ _ _ _ _ => none
  | .aspu _ _ _ _ _ _ => none
  | .asplenSet _ _ _ => none
  | .asplenMask _ _ _ => none
  | .aappIdx _ _ _ => none
  | .aappVal _ _ _ _ => none
  | .aconf _ _ _ => none
  | .aintvCc _ _ _ _ _ => none
  | .aintvCo _ _ _ _ _ => none
  | .aintvOc _ _ _ _ _ => none
  | .aintvOo _ _ _ _ _ => none
  | .amatch _ _ _ _ _ => none
  | .achk _ _ _ => none
  | .afill _ _ _ _ => none
  | .abcast _ _ _ _ => none
  | .aqnt _ _ _ _ => none
  | .aqntKeep _ _ _ => none
  | .adqnt _ _ _ _ _ _ => none
  | .ald _ _ _ _ => none
  | .aldx _ _ _ _ _ => none
  | .aldseg _ _ _ _ _ _ _ => none
  | .ast _ _ _ => none
  | .astx _ _ _ _ => none
  | .astseg _ _ _ _ _ _ _ => none
  | .alds _ _ _ _ _ => none
  | .asts _ _ _ _ => none
  | .asaveF _ _ _ => none
  | .asaveM _ _ _ => none
  | .asaveDesc _ _ _ => none
  | .asaveEv _ _ _ => none
  | .arstrF _ _ _ => none
  | .arstrM _ _ _ => none
  | .arstrDesc _ _ _ => none
  | .arstrEv _ _ _ => none
  | .adump h _ _ => some (h, false)
  | .aundmp h _ _ => some (h, false)
  | .aucode h _ _ _ => some (h, true)
  | .aholdStop h => some (h, false)
  | .aholdGo h => some (h, false)
  | .aholdDrop h => some (h, false)
  | .aestatState h _ => some (h, false)
  | .aestatAddr h _ => some (h, false)
  | .aestatDetail h _ => some (h, false)
  | .aestatPass h _ => some (h, false)
  | .await h => some (h, false)
  | .spcfg h _ _ => some (h, false)
  | .spld h _ _ _ => some (h, false)
  | .spst h _ _ _ => some (h, false)
  | .spamoAdd h _ _ _ _ => some (h, false)
  | .spamoMin h _ _ _ _ => some (h, false)
  | .spamoMax h _ _ _ _ => some (h, false)
  | .spamoSwap h _ _ _ _ => some (h, false)
  | .spnextGt h _ _ _ => some (h, false)
  | .spnextGe h _ _ _ => some (h, false)
  | .spprevLt h _ _ _ => some (h, false)
  | .spprevLe h _ _ _ => some (h, false)
  | .spcnt h _ _ _ => some (h, false)
  | .spdel h _ _ _ => some (h, false)
  | .spwait h => some (h, false)
  | .spstatKeys h _ _ => some (h, false)
  | .spstatNodes h _ _ => some (h, false)
  | .spstatFree h _ _ => some (h, false)
  | .spstatDepth h _ _ => some (h, false)
  | .spstatStatus h _ _ => some (h, false)
  | .spstatPages h _ _ => some (h, false)
  | .sppool h _ _ _ _ => some (h, false)
  | .spfree h _ _ => some (h, false)
  | .rclassSet h _ _ _ => some (h, true)
  | .rclassRead h _ _ => some (h, true)
  | .ebsetCorr h _ _ _ => some (h, true)
  | .ebsetDet h _ _ _ => some (h, true)
  | .ebsetRdcorr h _ _ => some (h, true)
  | .ebsetRddet h _ _ => some (h, true)
  | .mscopClean h _ _ _ => some (h, true)
  | .mscopClinv h _ _ _ => some (h, true)
  | .mscopInv h _ _ _ => some (h, true)
  | .mscopStat h _ _ _ => some (h, true)
  | .peerwOpen h _ _ _ => some (h, true)
  | .peerwClose h _ _ => some (h, true)
  | .peerwRead h _ _ => some (h, true)
  | .peerwBind h _ _ _ => some (h, true)
  | .smcSetw h _ _ _ => some (h, true)
  | .smcFwld h _ _ => some (h, true)
  | .smcVer h _ => some (h, true)
  | .perfRead h _ _ => some (h, false)
  | .perfClr h _ _ => some (h, true)
  | .dbgHalt h _ _ => some (h, true)
  | .dbgGo h _ _ => some (h, true)
  | .dbgRd h _ _ _ => some (h, true)
  | .dbgWr h _ _ _ => some (h, true)
  | .dbgSig h _ _ _ => some (h, true)
  | .atst h _ _ _ => some (h, true)
  | .pwrqMax h _ _ => some (h, false)
  | .pwrqState h _ _ _ => some (h, false)
  | .alim h _ _ _ => some (h, true)
  | .hmsg h _ _ _ => some (h, true)
  | .pmsgSend h _ _ _ _ => some (h, false)
  | .pmsgRecv h _ _ _ => some (h, false)
  | .pmsgWait h _ _ => some (h, false)
  | .li h _ _ => some (h, false)
  | .jmpx h _ => some (h, false)
  | .callx h _ => some (h, false)
  | .addix h _ _ _ => some (h, false)
  | .leax h _ _ => some (h, false)
  | .awrx _ _ _ _ => none
  | .asrchx _ _ _ _ => none
  | .ud _ => none
  | .blockThrottleChange _ _ _ _ _ => none
  | .tdispStateChange _ _ _ => none
  | .inboundPcieAtomic _ _ _ _ _ _ => none

namespace Machine

/-- Keys of a table rise strictly. -/
def Tab.rising {α : Type} : Tab α → Bool
  | [] => true
  | (_, _) :: [] => true
  | (i, _) :: (j, w) :: t => decide (i < j) && Tab.rising ((j, w) :: t)

/-- The strand `s.cur` runs an item. -/
def State.running (s : State) : Bool := Tab.rising s.strands && s.here.item.isSome

/-- A guard that can be read gives `b` (R44, R54): under p0 it is the negate bit's. -/
def Strand.guardIs (st : Strand) (h : Hdr) (b : Bool) : Bool :=
  if h.pred = 0 then (h.neg == 0) == b
  else !st.early (64 + h.pred.toNat) && (Tab.find st.outs (64 + h.pred.toNat)).isNone
    && ((st.pred h.pred.toNat != (h.neg == 1)) == b)

/-- The strand `s.cur` runs and the guard of its instruction holds. -/
def State.guarded (s : State) (h : Hdr) : Bool := s.running && s.here.guardIs h true

/-- Nothing pending and no tree operation holds register `c` (R54, R445). -/
def Strand.landed (st : Strand) (c : BitVec 6) : Bool := !st.early c.toNat && (Tab.find st.outs c.toNat).isNone

/-- What source `c` gives now, and the strand after it (R43, R54, R341): a concrete register that no write or tree
operation has pending, or the next buffered element of an input stream. -/
def Strand.source (st : Strand) (c : BitVec 6) : Option (Word × Strand) :=
  if c.toNat < 48 then
    match st.reg c.toNat with
    | .conc v => if st.early c.toNat || (Tab.find st.outs c.toNat).isSome then none else some (v, st)
    | _ => none
  else
    match Tab.find st.streams (c.toNat - 48) with
    | some x =>
      if x.out || st.lent (c.toNat - 48) || decide (recCount x.record ≤ x.next) then none
      else match x.buf with
        | [] => none
        | v :: rest =>
          some (v, { st with streams := Tab.insert st.streams (c.toNat - 48) { x with next := x.next + 1, buf := rest } })
    | none => none

/-- What several sources give, read in order (R43). -/
def Strand.sources (st : Strand) : List (BitVec 6) → Option (List Word × Strand)
  | [] => some ([], st)
  | c :: cs =>
    match st.source c with
    | none => none
    | some (v, st) =>
      match st.sources cs with
      | none => none
      | some (vs, st) => some (v :: vs, st)

/-- Whether destination `d` takes a result now: an s-register does, an output stream needs room (R43, R341). -/
def Strand.takes (st : Strand) (d : BitVec 6) : Bool :=
  decide (d.toNat < 48) || match Tab.find st.streams (d.toNat - 48) with
    | some x =>
      x.out && !st.lent (d.toNat - 48) && decide (x.next < recCount x.record) && x.fail.isNone && decide (x.buf.length < 64)
    | none => false

/-- A value enters output stream `z` (R341). -/
def Strand.enqueue (st : Strand) (z : Nat) (v : Word) : Strand :=
  match Tab.find st.streams z with
  | some x => { st with streams := Tab.insert st.streams z { x with next := x.next + 1, buf := x.buf ++ [v] } }
  | none => st

/-- What a fixed-latency result leaves: it lands in an s-register `lat` counted cycles later; s0 discards it (R54). -/
def Strand.fixed (st : Strand) (d : BitVec 6) (lat : Nat) (v : Word) : Strand :=
  if d = 0 then st
  else if d.toNat < 48 then { st with pend := st.pend ++ [⟨d.toNat, .conc v, lat, false, none⟩] }
  else st.enqueue (d.toNat - 48) v

/-- What FSQRT leaves: as a fixed-latency result, but a reader of the register interlocks (R55). -/
def Strand.locked (st : Strand) (d : BitVec 6) (lat : Nat) (v : Word) : Strand :=
  if d = 0 then st
  else if d.toNat < 48 then { st with pend := st.pend ++ [⟨d.toNat, .conc v, lat, true, none⟩] }
  else st.enqueue (d.toNat - 48) v

/-- What a floating-point result leaves: it lands with its flags `lat` counted cycles later, and s0 takes the flags alone; a
reader interlocks where `lock` is set (R55, R136). -/
def Strand.floated (st : Strand) (d : BitVec 6) (lat : Nat) (lock : Bool) (v : Word) (flags : Word) : Strand :=
  if d.toNat < 48 then
    { st with pend := st.pend ++ [⟨d.toNat, .conc v, lat, lock, some flags⟩] }
  else { st.enqueue (d.toNat - 48) v with fpcsr := st.fpcsr ||| flags }

/-- What a floating-point compare leaves: its predicate lands with its flags; p0 takes the flags alone (R136, R140). -/
def Strand.floatedPred (st : Strand) (p : BitVec 3) (lat : Nat) (b : Bool) (flags : Word) : Strand :=
  { st with pend := st.pend
      ++ [⟨if p = 0 then 0 else 64 + p.toNat, .conc (if b then 1 else 0), lat, false, some flags⟩] }

/-- What a variable-latency result leaves: the register holds it for every later reader (R55). -/
def Strand.variable (st : Strand) (d : BitVec 6) (v : Word) : Strand :=
  if d = 0 then st
  else if d.toNat < 48 then (st.forget d.toNat).setReg d.toNat (.conc v)
  else st.enqueue (d.toNat - 48) v

/-- A fixed-latency predicate result; p0 discards it. -/
def Strand.fixedPred (st : Strand) (p : BitVec 3) (lat : Nat) (b : Bool) : Strand :=
  if p = 0 then st else { st with pend := st.pend ++ [⟨64 + p.toNat, .conc (if b then 1 else 0), lat, false, none⟩] }

/-- The next state where an instruction of `len` bytes completes and leaves its strand as `st`. -/
def State.completes (s : State) (h : Hdr) (len : Nat) (st : Strand) : State :=
  retire h.stall (s.here.pc + BitVec.ofNat 56 len) (s.setHere st)

/-- The next state where an instruction makes a transfer to `pc` and leaves its strand as `st`. -/
def State.jumps (s : State) (h : Hdr) (pc : Word) (st : Strand) : State := retire h.stall (pc.setWidth 56) (s.setHere st)

/-- The next state where an instruction traps with cause `c`, subcode and EVAL, precisely and without effect (R106). -/
def State.traps (s : State) (c : Cause) (sub : BitVec 8) (v : Word) : State := trapAt ⟨c.code, sub, v, .instr, false⟩ s s

/-- Where a branch of `off` words goes (R38). -/
def State.target (s : State) {w : Nat} (off : BitVec w) : Word := s.here.pc.setWidth 64 + off.signExtend 64 * 8

/-- The address of byte `off` of the die's scratchpad in the local window (R28). -/
def scratchAddr (off : Nat) : Word := BitVec.ofNat 64 (0xFFFF0100000000 + off)

/-- An access of the running strand to `n` bytes of its die's scratchpad passes its checks (R29, R158). -/
def State.reaches (s : State) (va : Word) (off n : Nat) : Bool :=
  va == scratchAddr off && decide (off + n ≤ 2 ^ 25) && decide (off % 65536 + n ≤ 65536)
    && !(s.die (dieOf s.cur)).owner.contains (off / 65536)

/-- As `State.reaches`, no earlier access of the strand precedes it and no pennant of a WMSET slot holds it (R70, R172), and
the strand is not within an instruction that has made a part of its accesses or sent an update (R80, R107). -/
def State.local (s : State) (va : Word) (off n : Nat) : Bool :=
  s.reaches va off n && s.here.syms.isEmpty && s.here.wmset.isEmpty && s.here.part.isNone && (s.sent s.cur).isNone

/-- The bytes of the die's scratchpad. -/
def State.scratch (s : State) (off n : Nat) : List Byte := Memory.bytes s.mem (scratchKey (dieOf s.cur) off) n

/-- The state with bytes stored in the die's scratchpad. -/
def State.putScratch (s : State) (off : Nat) (bs : List Byte) : State :=
  { s with mem := Memory.setBytes s.mem (scratchKey (dieOf s.cur) off) bs }

/-- The state where an instruction of `len` bytes stores bytes in the die's scratchpad and leaves its strand as `st`. -/
def State.stores (s : State) (h : Hdr) (len : Nat) (st : Strand) (off : Nat) (bs : List Byte) : State :=
  retire h.stall (s.here.pc + BitVec.ofNat 56 len) ((s.setHere st).putScratch off bs)

/-- The state where a one-word instruction leaves its strand as `st` and changes the rest of the module by `f`. -/
def State.acts (s : State) (h : Hdr) (st : Strand) (f : State → State) : State :=
  retire h.stall (s.here.pc + 8) (f (s.setHere st))

/-- Nothing of the running strand's item is outstanding: what EXIT, NEXTI and CTXSV wait for has been done, and nothing is
to be delivered (R417, R446). -/
def State.quiet (s : State) : Bool :=
  s.here.syms.isEmpty && (s.here.streams.all fun p => !p.2.out || (p.2.fail.isNone && p.2.buf.isEmpty)) && !s.treeBusy s.cur
    && s.here.refusal.isNone && s.here.queue.isEmpty
    && (s.clusters.all fun p => ((List.range 16).all fun ch => ((s.chan p.1 ch).lastOf s.here.itemId).isNone)
      && (s.mx p.1).queue.all fun c => c.item != s.here.itemId)
    && s.dies.all fun p => p.2.tasks.all fun t => t.item != s.here.itemId || t.written

/-- Word `i` of what lies from byte `off` of the die's scratchpad. -/
def State.scratchWord (s : State) (off i : Nat) : Word := BitVec.ofNat 64 (leNat (s.scratch (off + 8 * i) 8))

/-- The eight words of the record at byte `off` of the die's scratchpad (R335). -/
def State.record (s : State) (off : Nat) : List Word := (List.range 8).map fun i => s.scratchWord off i

/-- A pattern record keeps Table 12.1 in the role DIR `dir`; `bar` where its command may take its burgee. -/
def recordFits (r : List Word) (dir : Nat) (bar : Bool) : Bool :=
  recBits r 1 16 48 == 0 && recBits r 1 4 5 == 0 && decide (patEsize r ≤ 5) && decide (dir ≤ 1) && patDir r == dir
    && ((List.range 4).all fun k => decide (k ≤ patNdim r) || r.getD (2 + k) 0 == 0)
    && (if patBaren r then bar && (patBar r).toNat % 16 == 0 else patBar r == 0)

/-- A channel takes a command now: it is not stopped, and its queue has room (R332, R346). -/
def Chan.isOpen (c : Chan) : Bool := c.queue.all (fun e => e.stop.isNone) && decide (c.queue.length < 16)

/-- The bytes of die `d`'s scratchpad. -/
def State.pad (s : State) (d off n : Nat) : List Byte := Memory.bytes s.mem (scratchKey d off) n

/-- An engine of die `d` reaches `n` bytes of its scratchpad at `va`: they lie in one block that belongs to the engines
(R29, R83). -/
def State.engineLocal (s : State) (d : Nat) (va : Word) (off n : Nat) : Bool :=
  va == scratchAddr off && decide (off + n ≤ 2 ^ 25) && decide (off % 65536 + n ≤ 65536)
    && (s.die d).owner.contains (off / 65536)

/-- What a scalar operand of an associative instruction carries now, and the strand after it (R43, R198): the state of a
register that nothing has pending, a symbolic one included, or the next element of an input stream. -/
def Strand.carried (st : Strand) (c : BitVec 6) : Option (SVal × Strand) :=
  if c.toNat < 48 then if st.landed c then some (st.reg c.toNat, st) else none
  else (st.source c).map fun p => (.conc p.1, p.2)

/-- What an operand of the VS and VI forms carries (R46). -/
def Strand.sv (st : Strand) : SvOpnd → Option (SVal × Strand)
  | .vs c => st.carried c
  | .vi i => some (.conc (i.signExtend 64), st)

/-- What an operand of all three forms carries; a field carries nothing (R46). -/
def Strand.ao (st : Strand) : AOpnd → Option (SVal × Strand)
  | .vv _ => some (.conc 0, st)
  | .vs c => st.carried c
  | .vi i => some (.conc (i.signExtend 64), st)

/-- What the operand of ACMP carries (R269). -/
def Strand.co (st : Strand) : CmpOpnd → Option (SVal × Strand)
  | .vv _ => some (.conc 0, st)
  | .vs _ c => st.carried c
  | .vi _ i => some (.conc (i.signExtend 64), st)

/-- The fields an instruction names, with those they link to, and its masks are present (R213 check 2). -/
def Strand.present (st : Strand) (op : AOp) (mg : Nat) : Bool :=
  (op.fields.all fun k => st.apresent.getLsbD k
    && (!usesLink (dTag (Tab.get 0 st.desc k)) || st.apresent.getLsbD (dLink (Tab.get 0 st.desc k))))
    && (mg :: op.masks).all fun m => decide (24 ≤ m) || st.mpresent.getLsbD m

/-- An associative instruction can be issued: a held set, the fields and masks present, and room in the queue (R213, R217). -/
def State.queues (s : State) (op : AOp) (mg : Nat) : Bool :=
  s.running && !(s.heldOf s.cur).isEmpty && s.here.present op mg
    && decide (s.here.queue.length < Nat.min 64 s.here.rad.toNat)

/-- The entry an associative instruction enters in the queue (R216, R217). -/
def State.entry (s : State) (w1 : Word) (mg : Nat) (mode : BitVec 3) (op : AOp) (x y : SVal) (sym : Option Nat) (out : Bool) :
    QEntry :=
  ⟨op, s.ir, w1, s.here.pc, s.here.sup, mg, mode, x, y, sym, out, none, none, [], s.here.wmset, Prog.fresh⟩

/-- The strand `st` with an instruction in its queue, and the ADIRTY and MDIRTY bits that sets (R229). -/
def Strand.withEntry (st : Strand) (e : QEntry) : Strand := markDirty e.op { st with queue := st.queue ++ [e] }

/-- The next state where an associative instruction without a scalar result is issued. -/
def State.queued (s : State) (stall : BitVec 4) (len : Nat) (w1 : Word) (mg : Nat) (mode : BitVec 3) (op : AOp) (x y : SVal)
    (st : Strand) : State :=
  retire stall (s.here.pc + BitVec.ofNat 56 len) (s.setHere (st.withEntry (s.entry w1 mg mode op x y none false)))

/-- The tables of a group are listed in order. -/
def Group.listed (g : Group) : Bool := Tab.rising g.rows && Tab.rising g.desc

/-! ### What a dispatch of an associative instruction leaves (07 R213 to R217) -/

/-- Instruction `e` heads the queue of strand `n` and can be dispatched for the first time: the kernel has class 0, its groups
are held, not stopped, not on hold and with no gated array, `x` and `y` are the scalars, and no access of the groups is
outstanding. -/
def State.heads (s : State) (n : Nat) (e : QEntry) (rest : List QEntry) (x y : Word) : Prop :=
  let st := s.strand n
  st.queue = e :: rest ∧ st.kclass = 0 ∧ st.astop = none ∧ st.ahold = false ∧ e.x = .conc x ∧ e.y = .conc y
    ∧ e.row = none ∧ e.acc = [] ∧ e.resumed = none ∧ e.prog = Prog.fresh ∧ s.remotes = []
    ∧ Tab.rising s.groups = true ∧ Tab.rising s.strands = true ∧ s.heldOf n ≠ []
    ∧ ∀ g ∈ s.heldOf n, (s.group g).gated = 0 ∧ (s.group g).gating = none ∧ (s.group g).listed = true

/-- The checks of a group at dispatch find nothing (R213 checks 2 to 4). -/
def State.admits (s : State) (n : Nat) (op : AOp) (x y : Word) : Prop :=
  (∀ k ∈ op.fields, linkBad (s.view n) s k = false) ∧ overlapBad (s.view n) s op = none ∧ typeBad (s.view n) s op x y = []

/-- The dispatch of strand `n` answers the state `u` with a cycle's work done; of the module, only memory, the strand and the
groups it holds may differ from before, and `P` says how. -/
def State.runsHead (s : State) (n : BitVec 10) (P : State → Prop) : Prop :=
  ∃ u : State, exec (.assocDispatch n) s = .next (tick 1 (wake u))
    ∧ u = { s with strands := u.strands, groups := u.groups, mem := u.mem }
    ∧ (∀ m, m ≠ n.toNat → u.strand m = s.strand m) ∧ (∀ g, g ∉ s.heldOf n.toNat → u.group g = s.group g) ∧ P u

/-- The held groups keep all but their rows, parity errors, events and passes. -/
def View.keeps (v : View) (s u : State) : Prop :=
  ∀ g ∈ v.held, u.group g = { s.group g with
    rows := (u.group g).rows, parity := (u.group g).parity, event := (u.group g).event, passes := (u.group g).passes }

/-- Field `d` takes the codes `f` gives, in the rows it gives one for; no other column of a row changes (R215). -/
def View.puts (v : View) (s u : State) (d : Word) (f : Nat → Option Nat) : Prop :=
  ∀ r, r < v.rows → ∀ k, k < 1024 → (v.row u r).getLsbD k = match f r with
    | some c => if dBase d ≤ k ∧ k < dBase d + dWidth d then c.testBit (k - dBase d) else (v.row s r).getLsbD k
    | none => (v.row s r).getLsbD k

/-- Mask `m` takes `f` in the rows reached, and no other column of a row changes (R214, R215). -/
def View.masks (v : View) (s u : State) (m : Nat) (f : Nat → Bool) : Prop :=
  ∀ r, r < v.rows → ∀ k, k < 1024 → (v.row u r).getLsbD k =
    if k = m ∧ v.reaches s r = true then f r else (v.row s r).getLsbD k

/-- Each held group adds to its events those that `ev` gives for its rows (R295). -/
def View.raises (v : View) (s u : State) (ev : Nat → RowEv) : Prop :=
  ∀ g ∈ v.held, ∀ b, (u.group g).event.getLsbD b =
    ((s.group g).event.getLsbD b || (List.range v.rows).any fun r => v.grp r == g && (ev r).getLsbD b)

/-- A governed row (R45, R214). -/
def View.gov (v : View) (s : State) (mg r : Nat) : Bool := v.reaches s r && maskBit (v.row s r) mg

/-- The groups of strand `n` reach `k` bytes at `va`, byte `off` of their die's scratchpad (R29, R158, R312). -/
def State.groupReaches (s : State) (n : Nat) (va : Word) (off k : Nat) : Prop :=
  va = scratchAddr off ∧ off + k ≤ 2 ^ 25 ∧ va.toNat % k = 0 ∧ off % 65536 + k ≤ 65536
    ∧ (s.die (dieOf n)).owner.contains (off / 65536) = false

/-- Of memory, only the `k i` bytes at `off i` of die `d`'s scratchpad change, for the `i` that `p` holds of, to `bs i`. -/
def State.padStores (s u : State) (d : Nat) (p : Nat → Prop) (off k : Nat → Nat) (bs : Nat → List Byte) : Prop :=
  (∀ i, p i → u.pad d (off i) (k i) = bs i)
    ∧ ∀ a, (∀ i, p i → a < scratchKey d (off i) ∨ scratchKey d (off i) + k i ≤ a) → Memory.byte u.mem a = Memory.byte s.mem a

/-- The local physical address a translation gives (R60, R464). -/
def State.physical (s : State) (t : Tlb) (va : Word) : Nat :=
  if t.phys va / 2 ^ 46 = s.mgmt.devno.toNat then t.phys va % 2 ^ 46 else t.phys va

/-- The running strand's die keeps translation `t` of `va`, outside the local window (R158 checks 2 to 4, R180). -/
def State.translated (s : State) (va : Word) (t : Tlb) : Bool :=
  !inWindow va && bits va 56 8 == 0 && (s.die (dieOf s.cur)).tlb.find? (fun t => t.covers s.here.ctx va) == some t

/-- That translation grants the strand an access of kind `acc` to module memory at `lo` (R158 checks 5 to 9), EOWN being
`owned`, with no A or D bit left to set (R179) and no promotion to start (R481). -/
def State.granted (s : State) (acc : Acc) (owned : Bool) (va : Word) (t : Tlb) (lo : Nat) : Bool :=
  s.translated va t && !t.pte.getLsbD 7 && !s.worldOf (s.physical t va)
    && (acc != .wr || t.pte.getLsbD 4) && (acc != .fetch || t.pte.getLsbD 5) && (s.here.sup || t.pte.getLsbD 6)
    && t.pte.getLsbD 13 == owned && pteKind t.pte != 3
    && (match s.placeOf (s.physical t va) with | .ok (.mem pa) => pa == lo | _ => false)
    && t.pte.getLsbD 8 && (acc != .wr || t.pte.getLsbD 9) && bits t.pte 11 2 != 3

/-- The state after that translation is used: it is the most recent one (R180). -/
def State.recent (s : State) (t : Tlb) : State :=
  let d := s.die (dieOf s.cur)
  s.setDie (dieOf s.cur) { d with
    tlb := t :: d.tlb.filter fun x => !(x.ctx == t.ctx && x.page == t.page && x.big == t.big) }

/-- No line that `n` bytes at `lo` touch has an error (R468), and no region's pool holds it (R438). -/
def State.sound (s : State) (lo n : Nat) : Bool :=
  ((List.range (lineCount lo n)).all fun i => !s.poisoned.contains (lo / 64 + i) && (Tab.find s.flips (lo / 64 + i)).isNone)
    && s.regions.all fun p => !p.2.pages.contains (lo / 65536)

/-- The tables of a matrix engine are listed in order. -/
def Matrix.listed (m : Matrix) : Bool := Tab.rising m.tiles && m.tiles.all fun p => Tab.rising p.2.cells

/-- The other tables that statements read are listed in order: groups, clusters, dies and regions, and what strands,
groups, matrix engines and saved images list. -/
def State.listed (s : State) : Bool :=
  Tab.rising s.groups && Tab.rising s.clusters && Tab.rising s.dies && Tab.rising s.regions
    && (s.groups.all fun p => p.2.listed) && (s.clusters.all fun p => p.2.mx.listed) && (s.images.all fun i => i.mx.listed)
    && (s.husks.all fun k => Tab.rising k.desc && Tab.rising k.own) && s.strands.all fun p => Tab.rising p.2.s && Tab.rising p.2.desc

/-- What every step keeps: the strands are listed in order, and memory has its canonical form. -/
def State.wf (s : State) : Bool := Tab.rising s.strands && Memory.wf s.mem

end Machine

end Sys2Proof
end

