-- ==== Sys2Proof/Certificates/Slice0/Obligations.lean ====
section
/-!
DEFINITION. The statements for the provers (OBLIGATIONS.json). A statement that an instruction completes gives its next
state in full, so that everything it does not name is unchanged but for what `retire` does: the terms are those of
Sys2Proof/Safety.lean.
-/

open Sys2Proof Sys2Proof.Machine

/-! ### Scalar instructions -/

/-- R117 (Table 4.7): results of the two-source integer instructions at the latencies of R54, for sources that are
concrete registers or input streams and destinations of every form; ROT is R126. R119, R126 (ROTI): results of the
immediate instructions; the immediate is sign-extended from 36 bits. -/
def Obligations.IntegerResults : Prop :=
  (∀ (s : State) (h : Hdr) (d a b : BitVec 6) (x y : Word) (st : Strand), s.guarded h = true →
      s.here.sources [a, b] = some ([x, y], st) → s.here.takes d = true →
      exec (.add h d a b) s = .next (s.completes h 8 (st.fixed d 1 (x + y)))
      ∧ exec (.sub h d a b) s = .next (s.completes h 8 (st.fixed d 1 (x - y)))
      ∧ exec (.mul h d a b) s = .next (s.completes h 8 (st.fixed d 3 (x * y)))
      ∧ exec (.mulh h d a b) s
          = .next (s.completes h 8 (st.fixed d 3 (BitVec.ofInt 64 (Int.fdiv (x.toInt * y.toInt) (2 ^ 64)))))
      ∧ exec (.mulhu h d a b) s = .next (s.completes h 8 (st.fixed d 3 (BitVec.ofNat 64 (x.toNat * y.toNat / 2 ^ 64))))
      ∧ exec (.and h d a b) s = .next (s.completes h 8 (st.fixed d 1 (x &&& y)))
      ∧ exec (.or h d a b) s = .next (s.completes h 8 (st.fixed d 1 (x ||| y)))
      ∧ exec (.xor h d a b) s = .next (s.completes h 8 (st.fixed d 1 (x ^^^ y)))
      ∧ exec (.andn h d a b) s = .next (s.completes h 8 (st.fixed d 1 (x &&& ~~~y)))
      ∧ exec (.shl h d a b) s = .next (s.completes h 8 (st.fixed d 1 (x <<< (y.toNat % 64))))
      ∧ exec (.shr h d a b) s = .next (s.completes h 8 (st.fixed d 1 (x >>> (y.toNat % 64))))
      ∧ exec (.sra h d a b) s
          = .next (s.completes h 8 (st.fixed d 1 (BitVec.ofInt 64 (Int.fdiv x.toInt (2 ^ (y.toNat % 64))))))
      ∧ exec (.min h d a b) s = .next (s.completes h 8 (st.fixed d 1 (if x.toInt ≤ y.toInt then x else y)))
      ∧ exec (.max h d a b) s = .next (s.completes h 8 (st.fixed d 1 (if y.toInt ≤ x.toInt then x else y)))
      ∧ exec (.minu h d a b) s = .next (s.completes h 8 (st.fixed d 1 (if x.toNat ≤ y.toNat then x else y)))
      ∧ exec (.maxu h d a b) s = .next (s.completes h 8 (st.fixed d 1 (if y.toNat ≤ x.toNat then x else y)))
      ∧ exec (.rot h d a b) s = .next (s.completes h 8 (st.fixed d 1 (BitVec.ofNat 64
          ((x.toNat * 2 ^ (y.toNat % 64) % 2 ^ 64) ||| (x.toNat / 2 ^ (64 - y.toNat % 64)))))))
  ∧ (∀ (s : State) (h : Hdr) (d a k : BitVec 6) (imm : BitVec 36) (x : Word) (st : Strand), s.guarded h = true →
      s.here.sources [a] = some ([x], st) → s.here.takes d = true →
      exec (.addi h d a imm) s = .next (s.completes h 8 (st.fixed d 1 (x + imm.signExtend 64)))
      ∧ exec (.muli h d a imm) s = .next (s.completes h 8 (st.fixed d 3 (x * imm.signExtend 64)))
      ∧ exec (.andi h d a imm) s = .next (s.completes h 8 (st.fixed d 1 (x &&& imm.signExtend 64)))
      ∧ exec (.ori h d a imm) s = .next (s.completes h 8 (st.fixed d 1 (x ||| imm.signExtend 64)))
      ∧ exec (.xori h d a imm) s = .next (s.completes h 8 (st.fixed d 1 (x ^^^ imm.signExtend 64)))
      ∧ exec (.shli h d a k) s = .next (s.completes h 8 (st.fixed d 1 (x <<< k.toNat)))
      ∧ exec (.shri h d a k) s = .next (s.completes h 8 (st.fixed d 1 (x >>> k.toNat)))
      ∧ exec (.srai h d a k) s = .next (s.completes h 8 (st.fixed d 1 (BitVec.ofInt 64 (Int.fdiv x.toInt (2 ^ k.toNat)))))
      ∧ exec (.roti h d a k) s = .next (s.completes h 8 (st.fixed d 1 (BitVec.ofNat 64
          ((x.toNat * 2 ^ k.toNat % 2 ^ 64) ||| (x.toNat / 2 ^ (64 - k.toNat)))))))

/-- R118: quotients and remainders, truncated towards zero, with their corners; no division traps. -/
def Obligations.DivisionResults : Prop :=
  ∀ (s : State) (h : Hdr) (d a b : BitVec 6) (x y : Word) (st : Strand), s.guarded h = true →
    s.here.sources [a, b] = some ([x, y], st) → s.here.takes d = true →
    exec (.div h d a b) s = .next (s.completes h 8 (st.variable d (
        if y = 0 then 0xFFFFFFFFFFFFFFFF
        else if x.toInt = -2 ^ 63 ∧ y.toInt = -1 then x else BitVec.ofInt 64 (Int.tdiv x.toInt y.toInt))))
    ∧ exec (.rem h d a b) s = .next (s.completes h 8 (st.variable d (
        if y = 0 then x
        else if x.toInt = -2 ^ 63 ∧ y.toInt = -1 then 0
        else BitVec.ofInt 64 (x.toInt - y.toInt * Int.tdiv x.toInt y.toInt))))
    ∧ exec (.divu h d a b) s = .next (s.completes h 8 (st.variable d (
        if y = 0 then 0xFFFFFFFFFFFFFFFF else BitVec.ofNat 64 (x.toNat / y.toNat))))
    ∧ exec (.remu h d a b) s = .next (s.completes h 8 (st.variable d (
        if y = 0 then x else BitVec.ofNat 64 (x.toNat - y.toNat * (x.toNat / y.toNat)))))

/-- R117, R128, R141: results of the one-source instructions; counts and reversals are given bit by bit. -/
def Obligations.OneSourceResults : Prop :=
  ∀ (s : State) (h : Hdr) (d a : BitVec 6) (x : Word) (st : Strand), s.guarded h = true →
    s.here.sources [a] = some ([x], st) → s.here.takes d = true →
    (∃ n : Word, exec (.clz h d a) s = .next (s.completes h 8 (st.fixed d 1 n)) ∧ n.toNat ≤ 64
      ∧ (∀ i, 64 - n.toNat ≤ i → x.getLsbD i = false) ∧ (n.toNat < 64 → x.getLsbD (63 - n.toNat) = true))
    ∧ (∃ n : Word, exec (.ctz h d a) s = .next (s.completes h 8 (st.fixed d 1 n)) ∧ n.toNat ≤ 64
      ∧ (∀ i, i < n.toNat → x.getLsbD i = false) ∧ (n.toNat < 64 → x.getLsbD n.toNat = true))
    ∧ exec (.popc h d a) s
        = .next (s.completes h 8 (st.fixed d 1 (BitVec.ofNat 64 ((List.range 64).filter fun i => x.getLsbD i).length)))
    ∧ (∃ v : Word, exec (.brev h d a) s = .next (s.completes h 8 (st.fixed d 1 v))
      ∧ ∀ i, i < 64 → v.getLsbD i = x.getLsbD (63 - i))
    ∧ (∃ v : Word, exec (.bswapD h d a) s = .next (s.completes h 8 (st.fixed d 1 v))
      ∧ ∀ i, i < 8 → v.extractLsb' (8 * i) 8 = x.extractLsb' (8 * (7 - i)) 8)
    ∧ (∃ v : Word, exec (.bswapW h d a) s = .next (s.completes h 8 (st.fixed d 1 v))
      ∧ ∀ i, i < 8 → v.extractLsb' (8 * i) 8 = x.extractLsb' (8 * (i / 4 * 4 + (3 - i % 4))) 8)
    ∧ (∃ v : Word, exec (.bswapH h d a) s = .next (s.completes h 8 (st.fixed d 1 v))
      ∧ ∀ i, i < 8 → v.extractLsb' (8 * i) 8 = x.extractLsb' (8 * (i / 2 * 2 + (1 - i % 2))) 8)
    ∧ exec (.fabs h d a) s = .next (s.completes h 8 (st.fixed d 2 (x &&& 0x7FFFFFFFFFFFFFFF)))
    ∧ exec (.fneg h d a) s = .next (s.completes h 8 (st.fixed d 2 (x ^^^ 0x8000000000000000)))

/-- R123, R125, R127: address arithmetic, bit fields and multiply-add; `pos + len` is at most 64, as the encoding
requires. R124, R131, R132, R155: instructions without a scalar source. R155: ADDIX adds its 64-bit immediate. -/
def Obligations.AddressFieldAndConstantResults : Prop :=
  (∀ (s : State) (h : Hdr) (d a b c : BitVec 6) (size : BitVec 3) (disp : BitVec 24) (pos lenm1 : BitVec 6)
      (x y z : Word) (st : Strand), s.guarded h = true → s.here.takes d = true →
      (s.here.sources [a, b] = some ([x, y], st) →
        exec (.lea h d a size b disp) s
          = .next (s.completes h 8 (st.fixed d 1 (x + y * BitVec.ofNat 64 (2 ^ size.toNat) + disp.signExtend 64))))
      ∧ (s.here.sources [a, b, c] = some ([x, y, z], st) →
        exec (.madd h d a b c) s = .next (s.completes h 8 (st.fixed d 3 (x * y + z))))
      ∧ (s.here.sources [a] = some ([x], st) → bitField pos lenm1 = true →
        exec (.bfx h d a 0 lenm1 pos) s
            = .next (s.completes h 8 (st.fixed d 1 (BitVec.ofNat 64 (x.toNat / 2 ^ pos.toNat % 2 ^ (lenm1.toNat + 1)))))
        ∧ exec (.bfx h d a 1 lenm1 pos) s = .next (s.completes h 8 (st.fixed d 1
            ((BitVec.ofNat (lenm1.toNat + 1) (x.toNat / 2 ^ pos.toNat)).signExtend 64))))
      ∧ (s.here.sources [d, b] = some ([x, y], st) → bitField pos lenm1 = true →
        ∃ v : Word, exec (.bfi h d b lenm1 pos) s = .next (s.completes h 8 (st.fixed d 1 v))
          ∧ ∀ i, i < 64 → v.getLsbD i
            = if pos.toNat ≤ i ∧ i < pos.toNat + lenm1.toNat + 1 then y.getLsbD (i - pos.toNat) else x.getLsbD i))
  ∧ (∀ (s : State) (h : Hdr) (d : BitVec 6) (imm : BitVec 36) (v : Word), s.guarded h = true → s.here.takes d = true →
      exec (.li h d v) s = .next (s.completes h 16 (s.here.fixed d 1 v))
      ∧ exec (.leax h d v) s = .next (s.completes h 16 (s.here.fixed d 1 (s.here.pc.setWidth 64 + v)))
      ∧ exec (.leapc h d imm) s = .next (s.completes h 8 (s.here.fixed d 1 (s.here.pc.setWidth 64 + imm.signExtend 64)))
      ∧ exec (.rdcyc h d) s = .next (s.completes h 8 (s.here.fixed d 1 s.cycle))
      ∧ ∃ held : Nat, (∀ g, g < 4 → held.testBit g = ((s.group (s.cur / 8 * 4 + g)).holder == some s.cur)) ∧ held < 16
        ∧ exec (.rdid h d) s = .next (s.completes h 8 (s.here.fixed d 1
            (BitVec.ofNat 64 (s.mgmt.devno.toNat * 2 ^ 16 + held * 2 ^ 10 + s.cur % 1024)))))
  ∧ (∀ (s : State) (h : Hdr) (d a : BitVec 6) (v x : Word) (st : Strand), s.guarded h = true →
      s.here.sources [a] = some ([x], st) → s.here.takes d = true →
      exec (.addix h d a v) s = .next (s.completes h 16 (st.fixed d 1 (x + v))))

/-- R129, R130: the checksum advances bit by bit from the lowest, and the hash is the mix of R130. R130: for a fixed seed
HASH is a bijection on 64-bit values. -/
def Obligations.ChecksumAndHash : Prop :=
  (∀ (s : State) (h : Hdr) (d a b : BitVec 6) (poly : BitVec 1) (size : BitVec 2) (x y : Word) (st : Strand),
      s.guarded h = true → s.here.sources [a, b] = some ([x, y], st) → s.here.takes d = true →
      exec (.crc h d a b poly size) s = .next (s.completes h 8 (st.fixed d 3 (BitVec.ofNat 64
        ((List.range (8 * 2 ^ size.toNat)).foldl (fun (c : Nat) i =>
          if (c % 2 == 1) != y.getLsbD i then (c / 2) ^^^ (if poly = 1 then 0x82F63B78 else 0xEDB88320) else c / 2)
          (x.toNat % 2 ^ 32)))))
      ∧ ∃ v1 v2 v3 : Word, v1 = (x ^^^ y) ^^^ ((x ^^^ y) >>> 31)
        ∧ v2 = v1 * 0x9E6D55A341F28C17 ^^^ ((v1 * 0x9E6D55A341F28C17) >>> 29)
        ∧ v3 = v2 * 0xC2B71E94D3A50F6B ^^^ ((v2 * 0xC2B71E94D3A50F6B) >>> 32)
        ∧ exec (.hash h d a b) s = .next (s.completes h 8 (st.fixed d 3 v3)))
  ∧ (∀ a : Word, Function.Injective (hashW a) ∧ Function.Surjective (hashW a))

/-- R120, R121, R122: predicates and selection. -/
def Obligations.PredicateResults : Prop :=
  ∀ (s : State) (h : Hdr) (d a b : BitVec 6) (pd pa pb ps : BitVec 3) (tbl : BitVec 4) (inv : BitVec 1)
    (imm : BitVec 30) (x y : Word) (st : Strand), s.guarded h = true →
    (s.here.sources [a, b] = some ([x, y], st) →
      (∀ p ∈ [((0 : BitVec 6), decide (x = y)), (1, decide (x ≠ y)), (2, decide (x.toInt < y.toInt)),
          (3, decide (y.toInt ≤ x.toInt)), (4, decide (x.toNat < y.toNat)), (5, decide (y.toNat ≤ x.toNat)),
          (6, decide (y.toInt < x.toInt)), (7, decide (x.toInt ≤ y.toInt)), (8, decide (y.toNat < x.toNat)),
          (9, decide (x.toNat ≤ y.toNat))],
        exec (.setp h pd a b p.1) s = .next (s.completes h 8 (st.fixedPred pd 1 p.2)))
      ∧ (s.here.takes d = true → s.here.guardIs ⟨0, 0, ps⟩ true = true →
        exec (.sel h d a b 0 ps) s = .next (s.completes h 8 (st.fixed d 1 x))
        ∧ exec (.sel h d a b 1 ps) s = .next (s.completes h 8 (st.fixed d 1 y)))
      ∧ (s.here.takes d = true → s.here.guardIs ⟨0, 0, ps⟩ false = true →
        exec (.sel h d a b 0 ps) s = .next (s.completes h 8 (st.fixed d 1 y))
        ∧ exec (.sel h d a b 1 ps) s = .next (s.completes h 8 (st.fixed d 1 x))))
    ∧ (s.here.sources [a] = some ([x], st) →
      ∀ p ∈ [((0 : BitVec 6), decide (x = imm.signExtend 64)), (1, decide (x ≠ imm.signExtend 64)),
          (2, decide (x.toInt < imm.toInt)), (3, decide (imm.toInt ≤ x.toInt)),
          (4, decide (x.toNat < (imm.signExtend 64).toNat)), (5, decide ((imm.signExtend 64).toNat ≤ x.toNat)),
          (6, decide (imm.toInt < x.toInt)), (7, decide (x.toInt ≤ imm.toInt)),
          (8, decide ((imm.signExtend 64).toNat < x.toNat)), (9, decide (x.toNat ≤ (imm.signExtend 64).toNat))],
        exec (.setpi h pd a p.1 imm) s = .next (s.completes h 8 (st.fixedPred pd 1 p.2)))
    ∧ (∀ u v : Bool, s.here.guardIs ⟨0, 0, pa⟩ u = true → s.here.guardIs ⟨0, 0, pb⟩ v = true →
      exec (.plog h pd pa pb tbl) s
        = .next (s.completes h 8 (s.here.fixedPred pd 1 (tbl.getLsbD (2 * u.toNat + v.toNat)))))

/-- R194 (Table 6.3): every folding instruction, with one symbolic source or two over one symbol, in the form α × symbol +
β, gives its destination the symbolic form that has the same value once the symbol arrives, and the strand does not
wait; s0 discards it. A stream holds concrete values only, so a form for a stream waits (R192; log 28). R195: FADD,
FSUB, FMUL and FFMA with one late source, a symbol as it comes or a list of fewer than four operations, give their
destination its list with their own operation appended, and the strand does not wait; with four operations, with two
late sources, or with another form of a symbol they wait. A stream holds concrete values only, so a form for a stream
waits (R192; log 28, DESIGN CHOICE). -/
def Obligations.SymbolFolds : Prop :=
  (∀ (s : State) (h : Hdr) (d a b c : BitVec 6) (k : Nat) (al be al' be' y : Word) (imm : BitVec 36) (n : BitVec 6)
      (size : BitVec 3) (disp : BitVec 24) (v : Word) (st : Strand),
      s.guarded h = true → a.toNat < 48 → s.here.landed a = true → s.here.reg a.toNat = .aff k al be →
      let i : Word := imm.signExtend 64
      let sc : Word := BitVec.ofNat 64 (2 ^ size.toNat)
      let dp : Word := disp.signExtend 64
      let folds (i : Instr) (len lat : Nat) (al be : Word) (st : Strand) : Prop :=
        (d.toNat < 48 → exec i s = .next (s.completes h len
          (if d = 0 then st else { st with pend := st.pend ++ [⟨d.toNat, .aff k al be, lat, false, none⟩] })))
        ∧ (48 ≤ d.toNat → s.here.takes d = true → st = s.here → exec i s = .next (waitAt .symbol s s))
      (s.here.source b = some (y, st) →
        folds (.add h d a b) 8 1 al (be + y) st ∧ folds (.add h d b a) 8 1 al (be + y) st
        ∧ folds (.sub h d a b) 8 1 al (be - y) st ∧ folds (.sub h d b a) 8 1 (-al) (y - be) st
        ∧ folds (.mul h d a b) 8 3 (y * al) (y * be) st ∧ folds (.mul h d b a) 8 3 (y * al) (y * be) st
        ∧ folds (.shl h d a b) 8 1 (al <<< (y.toNat % 64)) (be <<< (y.toNat % 64)) st
        ∧ folds (.lea h d b size a disp) 8 1 (sc * al) (y + sc * be + dp) st
        ∧ folds (.lea h d a size b disp) 8 1 al (be + sc * y + dp) st)
      ∧ (c.toNat < 48 → s.here.landed c = true → s.here.reg c.toNat = .aff k al' be' →
        folds (.add h d a c) 8 1 (al + al') (be + be') s.here ∧ folds (.sub h d a c) 8 1 (al - al') (be - be') s.here
        ∧ folds (.lea h d a size c disp) 8 1 (al + sc * al') (be + sc * be' + dp) s.here)
      ∧ folds (.addi h d a imm) 8 1 al (be + i) s.here ∧ folds (.addix h d a v) 16 1 al (be + v) s.here
      ∧ folds (.muli h d a imm) 8 3 (i * al) (i * be) s.here
      ∧ folds (.shli h d a n) 8 1 (al <<< n.toNat) (be <<< n.toNat) s.here)
  ∧ (∀ (s : State) (h : Hdr) (d a b c : BitVec 6) (k : Nat) (ops : List FOp) (rm : BitVec 3) (nega negp : BitVec 1) (y z : Word)
      (st : Strand), s.guarded h = true → a.toNat < 48 → s.here.landed a = true →
      let m := if rm = 0 then s.here.fpcsr.extractLsb' 0 3 else rm
      let folds (i : Instr) (f : FOp) (st : Strand) : Prop :=
        (ops.length < 4 → d.toNat < 48 → exec i s = .next (s.completes h 8
          { st with pend := st.pend ++ [⟨d.toNat, .flt k (ops ++ [f]), 4, false, some 0⟩] }))
        ∧ (ops.length = 4 ∨ 48 ≤ d.toNat → s.here.takes d = true → st = s.here → exec i s = .next (waitAt .symbol s s))
      let late (r : BitVec 6) : Prop := (∃ j al be, s.here.reg r.toNat = .aff j al be) ∨ ∃ j l, s.here.reg r.toNat = .flt j l
      (s.here.reg a.toNat = (if ops = [] then .aff k 1 0 else .flt k ops) →
        (s.here.source b = some (y, st) →
          folds (.fadd h d a b rm) ⟨.add, 0, y, 0, false, false, m⟩ st ∧ folds (.fadd h d b a rm) ⟨.add, 1, y, 0, false, false, m⟩ st
          ∧ folds (.fsub h d a b rm) ⟨.sub, 0, y, 0, false, false, m⟩ st
          ∧ folds (.fsub h d b a rm) ⟨.sub, 1, y, 0, false, false, m⟩ st
          ∧ folds (.fmul h d a b rm) ⟨.mul, 0, y, 0, false, false, m⟩ st
          ∧ folds (.fmul h d b a rm) ⟨.mul, 1, y, 0, false, false, m⟩ st)
        ∧ (s.here.sources [b, c] = some ([y, z], st) →
          folds (.ffma h d a b nega negp rm c) ⟨.fma, 0, y, z, negp == 1, nega == 1, m⟩ st
          ∧ folds (.ffma h d b a nega negp rm c) ⟨.fma, 1, y, z, negp == 1, nega == 1, m⟩ st
          ∧ folds (.ffma h d b c nega negp rm a) ⟨.fma, 2, y, z, negp == 1, nega == 1, m⟩ st))
      ∧ (s.here.takes d = true →
        (c.toNat < 48 → s.here.landed c = true → late a → late c →
          ∀ i ∈ [Instr.fadd h d a c rm, .fsub h d a c rm, .fmul h d a c rm], exec i s = .next (waitAt .symbol s s))
        ∧ ((∃ al be, s.here.reg a.toNat = .aff k al be ∧ (al ≠ 1 ∨ be ≠ 0)) → s.here.source b = some (y, s.here) →
          ∀ i ∈ [Instr.fadd h d a b rm, .fadd h d b a rm, .fsub h d a b rm, .fsub h d b a rm, .fmul h d a b rm,
            .fmul h d b a rm], exec i s = .next (waitAt .symbol s s))))

/-- R197: a register that is read and not folded is waited for while it is symbolic, and traps where it is poisoned; DIV
stands for every such instruction. R54: a register read before its fixed-latency write has landed traps STALL_SHORT
under SBCHK = 1, and gives its old value under SBCHK = 0. -/
def Obligations.LateAndEarlyReads : Prop :=
  (∀ (s : State) (h : Hdr) (d a b : BitVec 6) (y : Word), s.guarded h = true → d.toNat < 48 → a.toNat < 48 →
      s.here.early a.toNat = false → Tab.find s.here.outs a.toNat = none → s.here.source b = some (y, s.here) → b.toNat < 48 →
      ((∃ k al be, s.here.reg a.toNat = .aff k al be) → exec (.div h d a b) s = .next (waitAt .symbol s s))
      ∧ (s.here.reg a.toNat = .poison .timeout →
        exec (.div h d a b) s = .next (trapAt ⟨Cause.symTimeout.code, 0, a.setWidth 64, .instr, false⟩ s s))
      ∧ (s.here.reg a.toNat = .poison .data →
        exec (.div h d a b) s = .next (trapAt ⟨Cause.poisonUse.code, 1, a.setWidth 64, .instr, false⟩ s s))
      ∧ (s.here.reg a.toNat = .poison .failed →
        exec (.div h d a b) s = .next (trapAt ⟨Cause.poisonUse.code, 3, a.setWidth 64, .instr, false⟩ s s)))
  ∧ (∀ (s : State) (h : Hdr) (d a b : BitVec 6) (x y : Word) (p : Pend), s.guarded h = true → d.toNat < 48 →
      a.toNat < 48 → b.toNat < 48 → s.here.pend = [p] → p.code = a.toNat → p.interlock = false → p.left ≠ 0 →
      Tab.find s.here.outs a.toNat = none → s.here.reg a.toNat = .conc x → s.here.source b = some (y, s.here) →
      (s.here.sbchk = true →
        exec (.and h d a b) s = .next (trapAt ⟨Cause.stallShort.code, 0, a.setWidth 64, .instr, false⟩ s s))
      ∧ (s.here.sbchk = false → exec (.and h d a b) s = .next (s.completes h 8 (s.here.fixed d 1 (x &&& y)))))

/-! ### Encoding, steps, traps, reset -/

/-- R36, R37: the words `encode` gives a well-formed instruction decode to that instruction, whatever follows a
one-word instruction, and a second word stands exactly where format L asks for one. -/
def Obligations.DecodeEncodeAgree : Prop :=
  ∀ (i : Instr) (w : BitVec 64), i.isEvent = false → i.wf = true →
    decode i.word0 (i.second.getD w) = .ok i ∧ isLong i.word0 = i.second.isSome ∧ encode i = i.word0 :: i.second.toList

/-- R36 (Table 2.1), R47, R208 (Table 6.5): words written out from the formats, and the manual's own six words, decode to
what they stand for, and words with a reserved code or a bit that must be zero do not decode. -/
def Obligations.SampleWordsDecode : Prop :=
  decode (0x10#8 ++ 1#4 ++ 0#1 ++ 0#3 ++ 3#6 ++ 1#6 ++ 2#6 ++ 0#6 ++ 0#24) 0 = .ok (.add ⟨1, 0, 0⟩ 3 1 2)
  ∧ decode (0x20#8 ++ 2#4 ++ 1#1 ++ 5#3 ++ 63#6 ++ 47#6 ++ 0xFFFFFFFFF#36) 0 = .ok (.addi ⟨2, 1, 5⟩ 63 47 0xFFFFFFFFF)
  ∧ decode (0x60#8 ++ 15#4 ++ 0#1 ++ 0#3 ++ 10#6 ++ 46#6 ++ 3#3 ++ 0#3 ++ 7#6 ++ 0x800000#24) 0
      = .ok (.ld ⟨15, 0, 0⟩ 10 46 3 7 0x800000)
  ∧ decode (0x51#8 ++ 1#4 ++ 0#1 ++ 1#3 ++ 0xFFFFFFFFFFFF#48) 0 = .ok (.br ⟨1, 0, 1⟩ 0xFFFFFFFFFFFF)
  ∧ decode (0x5C#8 ++ 1#4 ++ 0#1 ++ 0#3 ++ 1#6 ++ 2#6 ++ 9#6 ++ 5#30) 0 = .ok (.cbr ⟨1, 0, 0⟩ 1 2 9 5)
  ∧ decode (0xB0#8 ++ 1#4 ++ 0#2 ++ 24#5 ++ 31#5 ++ 0#5 ++ 7#5 ++ 0#6 ++ 0#24) 0
      = .ok (.aadd ⟨1, 24⟩ 31 0 0 0 (.vv 7))
  ∧ decode (0xF8#8 ++ 1#4 ++ 0#1 ++ 0#3 ++ 9#6 ++ 0#6 ++ 0#36) 0x123456789ABCDEF0
      = .ok (.li ⟨1, 0, 0⟩ 9 0x123456789ABCDEF0)
  ∧ decode 0x63109A2600000040 0 = .ok (.ldl ⟨1, 0, 0⟩ 38 34 3 0 64)
  ∧ decode 0x681051558000003D 0 = .ok (.amolAdd ⟨1, 0, 0⟩ 20 21 22 0 1 3 5)
  ∧ decode 0x7410026000000000 0 = .ok (.symw ⟨1, 0, 0⟩ 38)
  ∧ decode 0x75100AC001000000 0 = .ok (.symqPoi ⟨1, 0, 0⟩ 2 44)
  ∧ decode 0x76103AA480000000 0 = .ok (.symx ⟨1, 0, 0⟩ 14 42 18)
  ∧ decode 0x5710AC203FFFFFFD 0 = .ok (.brsymPend ⟨1, 0, 0⟩ 43 (-3))
  ∧ decode (0x10#8 ++ 1#4 ++ 0#1 ++ 0#3 ++ 3#6 ++ 1#6 ++ 2#6 ++ 0#6 ++ 1#24) 0 = .error .illegalEncoding
  ∧ decode (0x5C#8 ++ 1#4 ++ 0#1 ++ 0#3 ++ 1#6 ++ 2#6 ++ 10#6 ++ 5#30) 0 = .error .illegalEncoding
  ∧ decode (0xB0#8 ++ 1#4 ++ 0#2 ++ 25#5 ++ 31#5 ++ 0#5 ++ 7#5 ++ 0#6 ++ 0#24) 0 = .error .illegalEncoding

/-- R47: a strand that moves with nothing pending at its boundary executes what the bytes at its pc decode to, in the
state that holds the word in the instruction register; shown for a pc in the die's scratchpad, with two words for
format L. A word that no instruction has takes ILLEGAL_INSTR at its address. That the groups of every other strand have
seen its stores by then is the model's choice (log 6). -/
def Obligations.StepRunsDecodedInstruction : Prop :=
  ∀ (s : State) (n : Nat) (rest : List Mover) (off : Nat) (w0 w1 : Word),
    let u : State := { s.alone (some n) with agenda := rest, cur := n }
    s.agenda = .strand n :: rest → s.mgmt.state = 1 → u.here.boundary = none → u.here.issues = true →
    u.here.streamErr = none → u.here.pc = (scratchAddr off).setWidth 56 → off % 8 = 0 → off + 16 ≤ 2 ^ 25 →
    (s.die (dieOf n)).owner.contains (off / 65536) = false → (s.die (dieOf n)).owner.contains ((off + 8) / 65536) = false →
    w0 = BitVec.ofNat 64 (leNat (u.scratch off 8)) →
    w1 = (if isLong w0 then BitVec.ofNat 64 (leNat (u.scratch (off + 8) 8)) else 0) →
    (∀ i, decode w0 w1 = .ok i → step s = exec i { u with ir := w0 })
    ∧ (∀ e, decode w0 w1 = .error e → step s
        = .next (trapAt ⟨Cause.illegalInstr.code, 0, 0, .instr, false⟩ { u with ir := w0 } { u with ir := w0 }))

/-- R9: the device has no response but those of the manual: no step is refused or ends in a fault, in any state. -/
def Obligations.NoStepStops : Prop := (∀ s : State, Safe s) ∧ ∀ (i : Instr) (s : State), ∃ t, exec i s = .next t

/-- Every step keeps the form of the state: strands are listed in order and memory lists rising addresses and no zero
byte (the model's own form, log 3). -/
def Obligations.StateFormKept : Prop := ∀ s t : State, s.wf = true → step s = .next t → t.wf = true

/-- Every step keeps the other tables that statements read listed in order (the model's own form, log 3). -/
def Obligations.TablesKept : Prop := ∀ s t : State, s.wf = true → s.listed = true → step s = .next t → t.listed = true

/-- The state after reset has the forms that every step keeps (the model's own, log 3). -/
def Obligations.ResetHasForm : Prop := State.reset.wf = true ∧ State.reset.listed = true

/-- R101, R102, R191, R228, R333, R467, R498, Table 4.2: what reset leaves. That every s-register holds 0 (log 4) and that
every byte of memory reads 0 (log 3) are the model's choices: the manual gives no value there. -/
def Obligations.ResetValues : Prop :=
  (∀ n, let st := State.reset.strand n
    st.sup = true ∧ st.even = false ∧ st.intrap = false ∧ st.sbchk = false ∧ st.fpcsr = 1 ∧ st.rad = 64 ∧ st.estart = 0
    ∧ st.ffidx = 0 ∧ st.adirty = 0 ∧ st.mdirty = 0 ∧ st.apresent = 0xFFFFFFFF ∧ st.mpresent = 0xFFFFFF ∧ st.kclass = 0
    ∧ st.item = none ∧ st.symlim = 0x001AB3F0 ∧ (∀ c, st.reg c = .conc 0))
  ∧ (∀ c, (State.reset.cluster c).alimit = 0)
  ∧ (∀ d, (State.reset.die d).apermit = 16)
  ∧ Chan.reset.next = 1 ∧ Chan.reset.done = 1
  ∧ (∀ f, (State.reset.frame f).cls = 2 ∧ (State.reset.frame f).world = false ∧ (State.reset.frame f).promo = false)
  ∧ (∀ a, Memory.byte State.reset.mem a = 0)
  ∧ State.reset.mgmt.state = 0

/-- R44, R47: an instruction whose guard is false does nothing but advance past its words, unless its privilege check
fails first. R47, R51, R100: what is reserved to supervisor mode takes PRIV in user mode, whether the guard is true or
false; EVAL is the number of the register for MFC and MTC and 0 for every other form (Table 4.6). -/
def Obligations.GuardAndPrivilege : Prop :=
  (∀ (i : Instr) (h : Hdr) (sup : Bool) (s : State), i.header = some (h, sup) → (sup = true → s.here.sup = true) →
      (h.pred = 0 → s.here.guardIs h (h.neg == 0) = true ∧ s.here.guardIs h (h.neg == 1) = false)
      ∧ (s.running = true → s.here.guardIs h false = true →
        exec i s = .next (retire h.stall (s.here.pc + if i.second.isSome then 16 else 8) s)))
  ∧ (∀ (i : Instr) (h : Hdr) (s : State), i.header = some (h, true) → s.here.sup = false →
      let v : Word := match i with
        | .mfc _ _ r => r.setWidth 64
        | .mfcAdirty _ _ => 0x030
        | .mtc _ _ r => r.setWidth 64
        | .mtcTrapbase _ _ => 0x070
        | .mtcAlimit _ _ => 0x050
        | _ => 0
      exec i s = .next (trapAt ⟨Cause.priv.code, 0, v, .instr, false⟩ s s))

/-- R109: what trap entry leaves in the strand; a queue that holds no instruction waiting to enqueue its result in a
stream stays as it is (R107, R277). R106, R156, R183, R502: TRAP and SYSC take their traps as completed, BKPT and UD
at their own address. -/
def Obligations.TrapsAreTaken : Prop :=
  (∀ (s : State) (t : Trap), s.running = true →
      let st := s.here
      let u := (trapAt t s s).strand s.cur
      u.epc = (if t.completed then (st.pc + 8).setWidth 64 else st.pc.setWidth 64)
      ∧ u.ecause.toNat = t.code.toNat + t.sub.toNat * 2 ^ 8 + (if t.kind = .assoc ∨ t.kind = .cmd then 2 ^ 16 else 0)
          + (if t.kind = .event then 2 ^ 17 else 0)
      ∧ u.eval = t.val
      ∧ u.einstr = (if t.kind = .instr ∨ t.kind = .cmd then s.ir else 0)
      ∧ u.sup = true ∧ u.even = false ∧ u.pmode = st.sup ∧ u.peven = st.even ∧ u.intrap = true
      ∧ u.status.getLsbD 6 = (st.status.getLsbD 6 || st.intrap)
      ∧ u.sbchk = st.sbchk ∧ u.secure = st.secure
      ∧ u.pc = (if st.intrap then st.trapbase + 0x400 else if t.kind = .event then st.trapbase + 0x200
          else st.trapbase).setWidth 56
      ∧ u.s = st.landAll.s ∧ u.p = st.landAll.p ∧ u.pend = [] ∧ u.fpcsr = st.landAll.fpcsr ∧ u.hscra = st.hscra
      ∧ u.trapbase = st.trapbase ∧ u.item = st.item ∧ (st.queue.all (fun e => !e.out) = true → u.queue = st.queue)
      ∧ u.syms = st.syms
      ∧ (let v := trapAt t s s
        v.groups = s.groups ∧ v.clusters = s.clusters ∧ v.dies = s.dies ∧ v.mem = s.mem ∧ v.regions = s.regions
        ∧ v.treeOps = s.treeOps ∧ v.launches = s.launches ∧ ∀ n, n ≠ s.cur → v.strand n = { s.strand n with waiting := none }))
  ∧ (∀ (s : State) (h : Hdr) (imm : BitVec 36) (x : BitVec 56), s.guarded h = true →
      exec (.trap h imm) s = .next (trapAt ⟨Cause.trap.code, 0, imm.signExtend 64, .instr, true⟩ s s)
      ∧ exec (.sysc h imm) s = .next (trapAt ⟨Cause.sysc.code, 0, imm.signExtend 64, .instr, true⟩ s s)
      ∧ exec (.bkpt h imm) s = .next (trapAt ⟨Cause.code .debug, 0, imm.signExtend 64, .instr, false⟩ s s)
      ∧ exec (.ud x) s = .next (trapAt ⟨Cause.illegalInstr.code, 0, 0, .instr, false⟩ s s))

/-- R108: what a strand takes at a boundary: the pending associative delivery, then an enabled event in the order
WATCHDOG, EBUDGET_EXHAUSTED, PREEMPT, DEBUG; what is not taken stays pending. R38, R110: ERET resumes at EPC with the
mode and the event enable of the trap; a misaligned EPC takes ALIGN. -/
def Obligations.BoundaryTrapsAndReturn : Prop :=
  (∀ (s : State) (n : BitVec 10), let st := s.strand n.toNat
      st.item.isSome = true → st.dbg = false → st.halt = .running → st.inside = none → s.sent n.toNat = none →
      (∀ t, st.adeliver = some t →
        exec (.takeTrap n) s = .next (takeBoundary n.toNat t { st with adeliver := none } s))
      ∧ (st.adeliver = none → st.even = true →
        (∀ v, st.events.watchdog = some v → exec (.takeTrap n) s = .next (takeBoundary n.toNat
            ⟨Cause.watchdog.code, 0, v, .event, false⟩ { st with events := { st.events with watchdog := none } } s))
        ∧ (∀ v, st.events.watchdog = none → st.events.ebudget = some v → exec (.takeTrap n) s = .next (takeBoundary n.toNat
            ⟨Cause.ebudget.code, 0, v, .event, false⟩ { st with events := { st.events with ebudget := none } } s))
        ∧ (∀ v, st.events.watchdog = none → st.events.ebudget = none → st.events.preempt = some v →
          exec (.takeTrap n) s = .next (takeBoundary n.toNat
            ⟨Cause.preempt.code, 0, v, .event, false⟩ { st with events := { st.events with preempt := none } } s))
        ∧ (∀ v, st.events.watchdog = none → st.events.ebudget = none → st.events.preempt = none →
          st.events.debug = some v → exec (.takeTrap n) s = .next (takeBoundary n.toNat
            ⟨Cause.code .debug, 0, v, .event, false⟩ { st with events := { st.events with debug := none } } s)))
      ∧ (st.adeliver = none → st.even = false → exec (.takeTrap n) s = .next (tick 1 s)))
  ∧ (∀ (s : State) (h : Hdr), s.guarded h = true → s.here.sup = true →
      (s.here.epc.toNat % 8 = 0 → ∃ st : Strand,
        exec (.eret h) s = .next (retire h.stall (s.here.epc.setWidth 56) (s.setHere st))
        ∧ st = { s.here with status := st.status } ∧ st.sup = s.here.pmode ∧ st.even = s.here.peven ∧ st.intrap = false
        ∧ ∀ k, k ≠ 0 → k ≠ 2 → k ≠ 5 → st.status.getLsbD k = s.here.status.getLsbD k)
      ∧ (s.here.epc.toNat % 8 ≠ 0 →
        exec (.eret h) s = .next (trapAt ⟨Cause.align.code, 0, s.here.epc, .instr, false⟩ s s)))

/-- What completing an instruction does beside its effect (R53, R131; the cycles it takes and the bookkeeping of waits and
of requests that left the device are the model's: logs 5, 12, 31, 39): the pc moves, the strand's pending writes come
nearer, time passes, and waiting strands try again; memory, every other unit and every other strand stay as they are.
R53, R54, R56: a pending fixed-latency result lands once the counted distance reaches its latency, and not before; the
stall count 0 counts as 1. -/
def Obligations.RetirementAndLatency : Prop :=
  (∀ (s : State) (k : BitVec 4) (pc : BitVec 56), s.running = true →
      let t := retire k pc s
      (∃ (cy : Word) (c : Tab Ctx) (ss : Tab Strand),
          t = { s with strands := ss, cycle := cy, ctxs := c, free := s.free + 1, remotes := s.closeAsks.remotes }
        ∧ (cy - s.cycle).toNat % 2 ^ 64 = ((if k = 0 then 1 else k.toNat) + (Config.extraCycles s.free).toNat) % 2 ^ 64
        ∧ (∀ i x, Tab.find s.ctxs i = some x → ∃ y, Tab.find c i = some y ∧ { y with wdogCnt := x.wdogCnt } = x)
        ∧ ∀ i, Tab.find s.ctxs i = none → Tab.find c i = none)
      ∧ t.here.pc = pc ∧ t.here.item = s.here.item ∧ t.here.status = s.here.status
      ∧ (s.here.pend = [] → t.here.s = s.here.s ∧ t.here.p = s.here.p ∧ t.here.fpcsr = s.here.fpcsr ∧ t.here.pend = [])
      ∧ ∀ n, n ≠ s.cur → t.strand n = { s.strand n with waiting := none })
  ∧ (∀ (s : State) (k : BitVec 4) (pc : BitVec 56) (c lat : Nat) (v : Word), s.running = true → 0 < c → c < 48 →
      s.here.pend = [⟨c, .conc v, lat, false, none⟩] → (s.here.outs.map Prod.fst).contains c = false →
      let n := if k = 0 then 1 else k.toNat
      let st := (retire k pc s).here
      (lat ≤ n → st.s = (s.here.setReg c (.conc v)).s ∧ st.pend = []
        ∧ (v ≠ 0 ∨ Tab.rising s.here.s = true → st.reg c = .conc v))
      ∧ (n < lat → st.reg c = s.here.reg c ∧ st.pend = [⟨c, .conc v, lat - n, false, none⟩])
      ∧ ∀ j, j ≠ c → st.reg j = s.here.reg j)

/-! ### Floating point -/

/-- R137, R138 (Table 4.10): the exact result of the exact operands, rounded once in the mode the code selects, at the
latencies of R54; the flags land with the result (R136), and FSQRT's reader interlocks (R55). -/
def Obligations.FloatArithmeticResults : Prop :=
  ∀ (s : State) (h : Hdr) (d a b c : BitVec 6) (rm : BitVec 3) (nega negp : BitVec 1) (x y z : Word) (st : Strand),
    s.guarded h = true → s.here.takes d = true →
    let m := if rm = 0 then st.fpcsr.extractLsb' 0 3 else rm
    let put (lat : Nat) (r : Nat × Ev) : Strand := st.floated d lat false (BitVec.ofNat 64 r.1) r.2.word
    (s.here.sources [a, b] = some ([x, y], st) →
      exec (.fadd h d a b rm) s
        = .next (s.completes h 8 (put 4 (arith b64 m false [fv x, fv y] ((fv x).add m (fv y)))))
      ∧ exec (.fsub h d a b rm) s
        = .next (s.completes h 8 (put 4 (arith b64 m false [fv x, fv y] ((fv x).add m (fv y).flip))))
      ∧ exec (.fmul h d a b rm) s
        = .next (s.completes h 8 (put 4 (arith b64 m false [fv x, fv y] ((fv x).mul (fv y)))))
      ∧ (∀ v dz, (fv x).div (fv y) = some (v, dz) → exec (.fdiv h d a b rm) s
        = .next (s.completes h 8 (put 14 ((arith b64 m false [fv x, fv y] (some v)).1,
            { (arith b64 m false [fv x, fv y] (some v)).2 with dz := dz }))))
      ∧ ((fv x).div (fv y) = none → exec (.fdiv h d a b rm) s
        = .next (s.completes h 8 (put 14 (arith b64 m false [fv x, fv y] none)))))
    ∧ (s.here.sources [a] = some ([x], st) →
      exec (.fsqrt h d a rm) s = .next (s.completes h 8
        (st.floated d 18 true (BitVec.ofNat 64 (arith b64 m false [fv x] ((fv x).sqrt 60)).1)
          (arith b64 m false [fv x] ((fv x).sqrt 60)).2.word)))
    ∧ (s.here.sources [a, b, c] = some ([x, y, z], st) →
      (∀ p, (fv x).mul (fv y) = some p → exec (.ffma h d a b nega negp rm c) s = .next (s.completes h 8 (put 4
        (arith b64 m false [fv x, fv y, fv z] ((p.flipIf (negp == 1)).add m ((fv z).flipIf (nega == 1)))))))
      ∧ ((fv x).mul (fv y) = none → exec (.ffma h d a b nega negp rm c) s = .next (s.completes h 8 (put 4
        ((arith b64 m false [fv x, fv y, fv z] none).1, { (arith b64 m false [fv x, fv y, fv z] none).2 with nv := true })))))

/-- R134: the first NaN operand with bit 51 set is the result, an invalid operation without one gives the default NaN, and
a signalling NaN or an invalid operation sets NV. R133, R253: rounding the exact value of a finite code in any mode
gives that code back and raises nothing. -/
def Obligations.NanInvalidAndExactResults : Prop :=
  (∀ (m : BitVec 3) (x y : Word),
      let nan (w : Word) : Prop := bits w 52 11 = 2047 ∧ bits w 0 52 ≠ 0
      let sig (w : Word) : Prop := nan w ∧ w.getLsbD 51 = false
      ∀ f ∈ [faddW m, fsubW m, fmulW m, fdivW m],
        (nan x → (f x y).1 = x ||| 0x0008000000000000)
        ∧ (¬ nan x → nan y → (f x y).1 = y ||| 0x0008000000000000)
        ∧ (nan x ∨ nan y → ((f x y).2.nv = true ↔ sig x ∨ sig y))
        ∧ (∀ n : Bool, (x = if n then 0xFFF0000000000000 else 0x7FF0000000000000) →
          (y = if n then 0x7FF0000000000000 else 0xFFF0000000000000) →
            faddW m x y = (0x7FF8000000000000, ⟨false, false, false, false, true⟩)
            ∧ fsubW m x x = (0x7FF8000000000000, ⟨false, false, false, false, true⟩)
            ∧ fmulW m x 0 = (0x7FF8000000000000, ⟨false, false, false, false, true⟩)
            ∧ fdivW m x y = (0x7FF8000000000000, ⟨false, false, false, false, true⟩)
            ∧ fdivW m 0 0 = (0x7FF8000000000000, ⟨false, false, false, false, true⟩)
            ∧ (fsqrtW m 0xFFF0000000000000).1 = 0x7FF8000000000000))
  ∧ (∀ (m : BitVec 3) (sat : Bool) (x : Word), bits x 52 11 ≠ 2047 →
      ∃ neg n d, fv x = .fin neg n d ∧ b64.round m sat neg n d = (x.toNat, Ev.none))

/-- R139, R140, R141 (Tables 4.11, 4.12): selection, comparison and class. R142, R143, R144: conversions round once from
the exact value; integer conversions clamp. -/
def Obligations.FloatCompareAndConversionResults : Prop :=
  (∀ (s : State) (h : Hdr) (d a b : BitVec 6) (pd : BitVec 3) (x y : Word) (st : Strand), s.guarded h = true →
      let un := (fv x).isNan || (fv y).isNan
      let sig : Ev := if (fv x).isSig || (fv y).isSig then Ev.invalid else Ev.none
      let any : Ev := if un then Ev.invalid else Ev.none
      (s.here.sources [a, b] = some ([x, y], st) →
        (s.here.takes d = true →
          (∃ lo hi : Word, exec (.fmin h d a b) s = .next (s.completes h 8 (st.floated d 2 false lo sig.word))
            ∧ exec (.fmax h d a b) s = .next (s.completes h 8 (st.floated d 2 false hi sig.word))
            ∧ ((fv x).isNan = true → (fv y).isNan = true → lo = x ||| 0x0008000000000000 ∧ hi = lo)
            ∧ ((fv x).isNan = true → (fv y).isNan = false → lo = y ∧ hi = y)
            ∧ ((fv x).isNan = false → (fv y).isNan = true → lo = x ∧ hi = x)
            ∧ (un = false → (fv x).cmp (fv y) < 0 → lo = x ∧ hi = y)
            ∧ (un = false → 0 < (fv x).cmp (fv y) → lo = y ∧ hi = x)
            ∧ (un = false → x = y → lo = x ∧ hi = x)
            ∧ (x = 0 → y = 0x8000000000000000 → lo = y ∧ hi = x) ∧ (y = 0 → x = 0x8000000000000000 → lo = x ∧ hi = y)))
        ∧ ∀ p ∈ [((0 : BitVec 3), !un && decide ((fv x).cmp (fv y) = 0), sig), (1, un || decide ((fv x).cmp (fv y) ≠ 0), sig),
            (2, !un && decide ((fv x).cmp (fv y) < 0), any), (3, !un && decide ((fv x).cmp (fv y) ≤ 0), any),
            (4, !un && decide (0 < (fv x).cmp (fv y)), any), (5, !un && decide (0 ≤ (fv x).cmp (fv y)), any),
            (6, un, sig), (7, !un, sig)],
          exec (.fsetp h pd a b p.1) s = .next (s.completes h 8 (st.floatedPred pd 2 p.2.1 p.2.2.word)))
      ∧ (s.here.sources [a] = some ([x], st) → s.here.takes d = true →
        ∃ k : Nat, exec (.fclass h d a) s = .next (s.completes h 8 (st.fixed d 2 (BitVec.ofNat 64 (2 ^ k))))
          ∧ (x = 0xFFF0000000000000 → k = 0) ∧ (x = 0x7FF0000000000000 → k = 7)
          ∧ (x = 0x8000000000000000 → k = 3) ∧ (x = 0 → k = 4)
          ∧ (0 < bits x 52 11 → bits x 52 11 < 2047 → k = if x.getLsbD 63 then 1 else 6)
          ∧ (bits x 52 11 = 0 → bits x 0 52 ≠ 0 → k = if x.getLsbD 63 then 2 else 5)
          ∧ (bits x 52 11 = 2047 → bits x 0 52 ≠ 0 → k = if x.getLsbD 51 then 9 else 8)))
  ∧ (∀ (s : State) (h : Hdr) (d a : BitVec 6) (sf df rm : BitVec 3) (w32 sgn : BitVec 1) (x : Word) (st : Strand),
      s.guarded h = true → s.here.takes d = true → s.here.sources [a] = some ([x], st) →
      let m := if rm = 0 then st.fpcsr.extractLsb' 0 3 else rm
      let put (r : Word × Ev) : Strand := st.floated d 4 false r.1 r.2.word
      let code (r : Nat × Ev) : Word × Ev := (BitVec.ofNat 64 r.1, r.2)
      let lo : Int := if sgn = 0 then 0 else if w32 = 1 then -2 ^ 31 else -2 ^ 63
      let hi : Int := if sgn = 0 then (if w32 = 1 then 2 ^ 32 - 1 else 2 ^ 64 - 1) else if w32 = 1 then 2 ^ 31 - 1 else 2 ^ 63 - 1
      let i : Int := if w32 = 1 then (if sgn = 1 then (x.setWidth 32).toInt else ((x.setWidth 32).toNat : Int))
        else if sgn = 1 then x.toInt else (x.toNat : Int)
      (∀ f g, cvtFmt sf = some f → cvtFmt df = some g → exec (.fcvt h d a sf df rm) s
          = .next (s.completes h 8 (put (code (g.convert m (g.sat && !st.nosat) (f.decode (x.toNat % 2 ^ f.width)))))))
      ∧ (∀ g, sf = 6 → cvtFmt df = some g → exec (.fcvt h d a sf df rm) s
          = .next (s.completes h 8 (put (code (g.convert m (g.sat && !st.nosat) (d8Decode (x.toNat % 256)))))))
      ∧ (∀ f, df = 6 → cvtFmt sf = some f → exec (.fcvt h d a sf df rm) s
          = .next (s.completes h 8 (put (code (d8Round (f.decode (x.toNat % 2 ^ f.width)))))))
      ∧ ((fv x).isNan = true → exec (.fcvti h d a w32 sgn rm) s = .next (s.completes h 8 (put (0, Ev.invalid))))
      ∧ (∀ n, fv x = .inf n → exec (.fcvti h d a w32 sgn rm) s
          = .next (s.completes h 8 (put (BitVec.ofInt 64 (if n then lo else hi), Ev.invalid))))
      ∧ (∀ n p q, fv x = .fin n p q →
        let r : Int := if n then -((roundNat m n p q).1 : Int) else (roundNat m n p q).1
        (r < lo → exec (.fcvti h d a w32 sgn rm) s = .next (s.completes h 8 (put (BitVec.ofInt 64 lo, Ev.invalid))))
        ∧ (hi < r → exec (.fcvti h d a w32 sgn rm) s = .next (s.completes h 8 (put (BitVec.ofInt 64 hi, Ev.invalid))))
        ∧ (lo ≤ r → r ≤ hi → exec (.fcvti h d a w32 sgn rm) s = .next (s.completes h 8
            (put (BitVec.ofInt 64 r, ⟨!(roundNat m n p q).2, false, false, false, false⟩)))))
      ∧ exec (.icvtf h d a w32 sgn rm) s
          = .next (s.completes h 8 (put (code (b64.round m false (decide (i < 0)) i.natAbs 1))))
      ∧ (∀ n p q, fv x = .fin n p q → exec (.frnd h d a rm) s = .next (s.completes h 8
          (put (BitVec.ofNat 64 (b64.round 1 false n (roundNat m n p q).1 1).1,
            ⟨!(roundNat m n p q).2, false, false, false, false⟩))))
      ∧ (∀ n, fv x = .inf n → exec (.frnd h d a rm) s = .next (s.completes h 8 (put (x, Ev.none))))
      ∧ (∀ n g w p, fv x = .nan n g w p → exec (.frnd h d a rm) s
          = .next (s.completes h 8 (put (x ||| 0x0008000000000000, if g then Ev.invalid else Ev.none)))))

/-! ### Control transfer and symbols -/

/-- R38, R150, R151, R152, R155: where jumps and calls go, and that a call links the word after it. R38, R150: a transfer
to a misaligned or too high address is not made; ALIGN comes first. -/
def Obligations.TransfersOfControl : Prop :=
  (∀ (s : State) (h : Hdr) (nst : BitVec 4) (off : BitVec 48) (a : BitVec 6) (v : Word) (st : Strand),
      let t := s.target off
      let pc : Word := s.here.pc.setWidth 64
      (bits t 56 8 = 0 → exec (.jmp nst off) s = .next (retire nst (t.setWidth 56) s))
      ∧ (s.guarded h = true → bits t 56 8 = 0 →
        exec (.br h off) s = .next (s.jumps h t s.here)
        ∧ exec (.call h off) s = .next (s.jumps h t (s.here.variable 47 (pc + 8))))
      ∧ (s.guarded h = true → v.toNat % 8 = 0 → bits v 56 8 = 0 →
        exec (.jmpx h v) s = .next (s.jumps h v s.here)
        ∧ exec (.callx h v) s = .next (s.jumps h v (s.here.variable 47 (pc + 16)))
        ∧ (s.here.sources [a] = some ([v], st) →
          exec (.jr h a) s = .next (s.jumps h v st)
          ∧ exec (.callr h a) s = .next (s.jumps h v (st.variable 47 (pc + 8))))
        ∧ (s.here.sources [47] = some ([v], st) → exec (.ret h) s = .next (s.jumps h v st))))
  ∧ (∀ (s : State) (h : Hdr) (nst : BitVec 4) (off : BitVec 48) (a : BitVec 6) (v : Word), s.guarded h = true →
      (bits (s.target off) 56 8 ≠ 0 →
        exec (.jmp nst off) s = .next (s.traps .xlate 4 (s.target off))
        ∧ exec (.br h off) s = .next (s.traps .xlate 4 (s.target off))
        ∧ exec (.call h off) s = .next (s.traps .xlate 4 (s.target off)))
      ∧ (a.toNat < 48 → s.here.source a = some (v, s.here) →
        (v.toNat % 8 ≠ 0 → exec (.jr h a) s = .next (s.traps .align 0 v) ∧ exec (.callr h a) s = .next (s.traps .align 0 v))
        ∧ (v.toNat % 8 = 0 → bits v 56 8 ≠ 0 → exec (.jr h a) s = .next (s.traps .xlate 4 v)
          ∧ exec (.callr h a) s = .next (s.traps .xlate 4 v))))

/-- R40, R151: conditional branches, LOOP counting its register down. R153: BRI goes to the entry of the table, read from
the die's scratchpad here, or to the next word where the index is out of range. -/
def Obligations.BranchesAndTables : Prop :=
  (∀ (s : State) (h : Hdr) (a b i6 : BitVec 6) (off : BitVec 30) (x y : Word) (st : Strand), s.guarded h = true →
      bits (s.target off) 56 8 = 0 →
      let go (c : Prop) [Decidable c] (st : Strand) : State :=
        s.jumps h (if c then s.target off else (s.here.pc + 8).setWidth 64) st
      (s.here.sources [a] = some ([x], st) →
        exec (.brz h a off) s = .next (go (x = 0) st)
        ∧ exec (.brnz h a off) s = .next (go (x ≠ 0) st)
        ∧ (a.toNat < 48 → exec (.loop h a off) s = .next (go (x ≠ 1) (st.variable a (x - 1))))
        ∧ exec (.cbri h a i6 0 off) s = .next (go (x = i6.signExtend 64) st)
        ∧ exec (.cbri h a i6 1 off) s = .next (go (x ≠ i6.signExtend 64) st)
        ∧ exec (.cbri h a i6 2 off) s = .next (go (x.toInt < i6.toInt) st)
        ∧ exec (.cbri h a i6 3 off) s = .next (go (i6.toInt ≤ x.toInt) st)
        ∧ exec (.cbri h a i6 4 off) s = .next (go (x.toNat < (i6.signExtend 64).toNat) st)
        ∧ exec (.cbri h a i6 5 off) s = .next (go ((i6.signExtend 64).toNat ≤ x.toNat) st)
        ∧ exec (.cbri h a i6 6 off) s = .next (go (i6.toInt < x.toInt) st)
        ∧ exec (.cbri h a i6 7 off) s = .next (go (x.toInt ≤ i6.toInt) st)
        ∧ exec (.cbri h a i6 8 off) s = .next (go ((i6.signExtend 64).toNat < x.toNat) st)
        ∧ exec (.cbri h a i6 9 off) s = .next (go (x.toNat ≤ (i6.signExtend 64).toNat) st))
      ∧ (s.here.sources [a, b] = some ([x, y], st) →
        exec (.cbr h a b 0 off) s = .next (go (x = y) st)
        ∧ exec (.cbr h a b 1 off) s = .next (go (x ≠ y) st)
        ∧ exec (.cbr h a b 2 off) s = .next (go (x.toInt < y.toInt) st)
        ∧ exec (.cbr h a b 3 off) s = .next (go (y.toInt ≤ x.toInt) st)
        ∧ exec (.cbr h a b 4 off) s = .next (go (x.toNat < y.toNat) st)
        ∧ exec (.cbr h a b 5 off) s = .next (go (y.toNat ≤ x.toNat) st)
        ∧ exec (.cbr h a b 6 off) s = .next (go (y.toInt < x.toInt) st)
        ∧ exec (.cbr h a b 7 off) s = .next (go (x.toInt ≤ y.toInt) st)
        ∧ exec (.cbr h a b 8 off) s = .next (go (y.toNat < x.toNat) st)
        ∧ exec (.cbr h a b 9 off) s = .next (go (x.toNat ≤ y.toNat) st)))
  ∧ (∀ (s : State) (h : Hdr) (d a b : BitVec 6) (base i n v : Word) (off : Nat) (st : Strand), s.guarded h = true →
      s.here.sources [a, b, d] = some ([base, i, n], st) →
      (n.toNat ≤ i.toNat → exec (.bri h d a b) s = .next (s.completes h 8 st))
      ∧ (i.toNat < n.toNat → base.toNat % 8 = 0 → s.local (base + 8 * i) off 8 = true →
        v = BitVec.ofNat 64 (leNat (s.scratch off 8)) → v.toNat % 8 = 0 → bits v 56 8 = 0 →
        exec (.bri h d a b) s = .next (s.jumps h v st)))

/-- R206, R207: what the state of a register decides, without waiting for it; s0 and every concrete register count as
arrived. R206: SYMW waits for its register and traps where it is poisoned (R197), SYMX gives the second source where
the first is poisoned; with a first source that is symbolic it waits, into a stream too. -/
def Obligations.SymbolStateInstructions : Prop :=
  (∀ (s : State) (h : Hdr) (a : BitVec 6) (pd : BitVec 3) (off : BitVec 30), s.guarded h = true →
      s.here.landed a = true → bits (s.target off) 56 8 = 0 →
      let put (b : Bool) : Strand := if pd = 0 then s.here else (s.here.forget (64 + pd.toNat)).setPred pd.toNat b
      let there := s.jumps h (s.target off) s.here
      let next := s.completes h 8 s.here
      ((∃ v, s.here.reg a.toNat = .conc v) →
        exec (.symq h pd a) s = .next (s.completes h 8 (put true)) ∧ exec (.symqPoi h pd a) s = .next (s.completes h 8 (put false))
        ∧ exec (.brsymRes h a off) s = .next there ∧ exec (.brsymPoi h a off) s = .next next
        ∧ exec (.brsymPend h a off) s = .next next)
      ∧ ((∃ k x y, s.here.reg a.toNat = .aff k x y) ∨ (∃ k l, s.here.reg a.toNat = .flt k l) →
        exec (.symq h pd a) s = .next (s.completes h 8 (put false)) ∧ exec (.symqPoi h pd a) s = .next (s.completes h 8 (put false))
        ∧ exec (.brsymRes h a off) s = .next next ∧ exec (.brsymPoi h a off) s = .next next
        ∧ exec (.brsymPend h a off) s = .next there)
      ∧ ((∃ r, s.here.reg a.toNat = .poison r) →
        exec (.symq h pd a) s = .next (s.completes h 8 (put true)) ∧ exec (.symqPoi h pd a) s = .next (s.completes h 8 (put true))
        ∧ exec (.brsymRes h a off) s = .next there ∧ exec (.brsymPoi h a off) s = .next there
        ∧ exec (.brsymPend h a off) s = .next next))
  ∧ (∀ (s : State) (h : Hdr) (d a b : BitVec 6) (x : Word) (st : Strand), s.guarded h = true →
      let late : Prop := (∃ k y z, s.here.reg a.toNat = .aff k y z) ∨ ∃ k l, s.here.reg a.toNat = .flt k l
      (s.here.sources [a] = some ([x], st) → exec (.symw h a) s = .next (s.completes h 8 st))
      ∧ (a.toNat < 48 → s.here.landed a = true →
        (late → exec (.symw h a) s = .next (waitAt .symbol s s))
        ∧ (s.here.reg a.toNat = .poison .timeout → exec (.symw h a) s = .next (s.traps .symTimeout 0 (a.setWidth 64)))
        ∧ (s.here.reg a.toNat = .poison .data → exec (.symw h a) s = .next (s.traps .poisonUse 1 (a.setWidth 64)))
        ∧ (s.here.reg a.toNat = .poison .failed → exec (.symw h a) s = .next (s.traps .poisonUse 3 (a.setWidth 64))))
      ∧ (a.toNat < 48 → b.toNat < 48 → s.here.takes d = true → s.here.landed a = true → s.here.landed b = true →
        (s.here.reg a.toNat = .conc x → exec (.symx h d a b) s = .next (s.completes h 8 (s.here.variable d x)))
        ∧ ((∃ r, s.here.reg a.toNat = .poison r) → s.here.reg b.toNat = .conc x →
          exec (.symx h d a b) s = .next (s.completes h 8 (s.here.variable d x)))
        ∧ (late → exec (.symx h d a b) s = .next (waitAt .symbol s s))))

/-! ### Loads, stores and atomics, shown on the die's scratchpad -/

/-- R39, R157, R159, R160: loads bring the bytes at base + index × size + disp, zero- or sign-extended; LDP brings two
registers; PREF has no visible effect. R154: FRAME moves the stack pointer by 16-byte units, saving the link register
on entry and restoring it on leaving where its l bit asks for it; a misaligned stack pointer takes ALIGN. -/
def Obligations.LoadsAndFrames : Prop :=
  (∀ (s : State) (h : Hdr) (t base index : BitVec 6) (size : BitVec 2) (sc : BitVec 3) (lvl : BitVec 1) (disp : BitVec 24)
      (b i : Word) (off : Nat) (st : Strand), s.guarded h = true → s.here.sources [base, index] = some ([b, i], st) →
      let n := 2 ^ size.toNat
      let ea : Word := b + i * BitVec.ofNat 64 n + disp.signExtend 64
      let va : Word := b + i * 16 + disp.signExtend 64
      let v : Word := BitVec.ofNat 64 (leNat (s.scratch off n))
      (s.here.takes t = true → s.local ea off n = true →
        exec (.ld h t base size index disp) s = .next (s.completes h 8 (st.variable t v))
        ∧ exec (.ldx h t base size index disp) s = .next (s.completes h 8 (st.variable t v))
        ∧ exec (.lds h t base size index disp) s
            = .next (s.completes h 8 (st.variable t ((v.setWidth (8 * n)).signExtend 64)))
        ∧ (ea.toNat % n = 0 → exec (.lda h t base size sc index disp) s = .next (s.completes h 8 (st.variable t v))))
      ∧ (pairReg t = true → va.toNat % 8 = 0 → s.local va off 16 = true →
        exec (.ldp h t base index disp) s = .next (s.completes h 8
          ((st.variable t (BitVec.ofNat 64 (leNat (s.scratch off 8)))).variable (t + 1)
            (BitVec.ofNat 64 (leNat (s.scratch (off + 8) 8))))))
      ∧ exec (.pref h lvl base index disp) s = .next (s.completes h 8 st))
  ∧ (∀ (s : State) (h : Hdr) (imm : BitVec 32) (sp lr : Word) (off : Nat) (st : Strand), s.guarded h = true →
      let n : Word := imm.signExtend 64 * 16
      (sp.toNat % 16 = 0 →
        (s.here.sources [46] = some ([sp], st) → exec (.frame h 0 imm) s = .next (s.completes h 8 (st.variable 46 (sp + n))))
        ∧ (imm.toInt < 0 → s.here.sources [46, 47] = some ([sp, lr], st) → s.local (sp - 8) off 8 = true →
          exec (.frame h 1 imm) s = .next (s.stores h 8 (st.variable 46 (sp + n)) off (leBytes lr.toNat 8)))
        ∧ (0 ≤ imm.toInt → s.here.sources [46] = some ([sp], st) → s.local (sp + n - 8) off 8 = true →
          exec (.frame h 1 imm) s = .next (s.completes h 8
            ((st.variable 47 (BitVec.ofNat 64 (leNat (s.scratch off 8)))).variable 46 (sp + n)))))
      ∧ (s.here.sources [46] = some ([sp], s.here) → sp.toNat % 16 ≠ 0 →
        exec (.frame h 0 imm) s = .next (s.traps .align 0 sp)))

/-- R39, R157, R159: stores put the low bytes of the register, lowest first, at base + index × size + disp. R3, R4: what a
store to the die's scratchpad leaves: the bytes it stores at the address it computes, and every other byte of memory,
every other unit and every register but the strand's own as they were. -/
def Obligations.StoreResultsAndFrame : Prop :=
  (∀ (s : State) (h : Hdr) (t base index : BitVec 6) (size : BitVec 2) (sc : BitVec 3) (disp : BitVec 24) (b i x y : Word)
      (off : Nat) (st : Strand), s.guarded h = true →
      let n := 2 ^ size.toNat
      let ea : Word := b + i * BitVec.ofNat 64 n + disp.signExtend 64
      let va : Word := b + i * 16 + disp.signExtend 64
      (s.here.sources [base, index, t] = some ([b, i, x], st) → s.local ea off n = true →
        exec (.st h t base size index disp) s = .next (s.stores h 8 st off (leBytes x.toNat n))
        ∧ exec (.stx h t base size index disp) s = .next (s.stores h 8 st off (leBytes x.toNat n))
        ∧ (ea.toNat % n = 0 →
          exec (.stl h t base size sc index disp) s = .next (s.stores h 8 st.performed off (leBytes x.toNat n))))
      ∧ (s.here.sources [base, index, t, t + 1] = some ([b, i, x, y], st) → pairReg t = true → va.toNat % 8 = 0 →
        s.local va off 16 = true →
        exec (.stp h t base index disp) s = .next (s.stores h 8 st off (leBytes x.toNat 8 ++ leBytes y.toNat 8))))
  ∧ (∀ (s : State) (h : Hdr) (st : Strand) (off : Nat) (bs : List Byte), s.running = true → st.item.isSome = true →
      Memory.wf s.mem = true →
      let t := s.stores h 8 st off bs
      let k := scratchKey (dieOf s.cur) off
      (∀ j, j < bs.length → Memory.byte t.mem (k + j) = bs.getD j 0)
      ∧ (∀ a, a < k ∨ k + bs.length ≤ a → Memory.byte t.mem a = Memory.byte s.mem a)
      ∧ Memory.wf t.mem = true
      ∧ t.groups = s.groups ∧ t.clusters = s.clusters ∧ t.dies = s.dies ∧ t.regions = s.regions ∧ t.remotes = s.closeAsks.remotes
      ∧ t.mgmt = s.mgmt ∧ t.out = s.out ∧ t.launches = s.launches
      ∧ (st.pend = [] → t.here.s = st.s ∧ t.here.p = st.p)
      ∧ ∀ n, n ≠ s.cur → t.strand n = { s.strand n with waiting := none })

/-- R161, R162 (Table 5.4): an atomic gives the old value and leaves the new one; the strand's groups see its earlier
stores then (R76; the model's choice of when, log 6). R163: CAS stores the new value where memory holds the expected
one, and gives what memory held. -/
def Obligations.AtomicsAndCompareAndSwap : Prop :=
  (∀ (s : State) (h : Hdr) (a b c : BitVec 6) (rel acq : BitVec 1) (size : BitVec 2) (sc : BitVec 3) (va o : Word)
      (off : Nat) (st : Strand), s.guarded h = true → s.here.takes a = true →
      let n := 2 ^ size.toNat
      let w := 8 * n
      let m : BitVec w := BitVec.ofNat w (leNat (s.scratch off n))
      let x : BitVec w := o.setWidth w
      let put (v : BitVec w) : State := s.stores h 8 (st.performed.variable a (m.setWidth 64)) off (leBytes v.toNat n)
      va.toNat % n = 0 → s.local va off n = true →
      (s.here.sources [b, c] = some ([va, o], st) →
        exec (.amoAdd h a b c rel acq size sc) s = .next (put (m + x))
        ∧ exec (.amoAnd h a b c rel acq size sc) s = .next (put (m &&& x))
        ∧ exec (.amoOr h a b c rel acq size sc) s = .next (put (m ||| x))
        ∧ exec (.amoXor h a b c rel acq size sc) s = .next (put (m ^^^ x))
        ∧ exec (.amoSwap h a b c rel acq size sc) s = .next (put x)
        ∧ exec (.amoMin h a b c rel acq size sc) s = .next (put (if m.toInt ≤ x.toInt then m else x))
        ∧ exec (.amoMax h a b c rel acq size sc) s = .next (put (if x.toInt ≤ m.toInt then m else x))
        ∧ exec (.amoMinu h a b c rel acq size sc) s = .next (put (if m.toNat ≤ x.toNat then m else x))
        ∧ exec (.amoMaxu h a b c rel acq size sc) s = .next (put (if x.toNat ≤ m.toNat then m else x)))
      ∧ (s.here.sources [b] = some ([va], st) → exec (.amoMaxrst h a b rel acq size sc) s = .next (put 0)))
  ∧ (∀ (s : State) (h : Hdr) (a b c k : BitVec 6) (rel acq : BitVec 1) (size : BitVec 2) (sc : BitVec 3) (va x y : Word)
      (off : Nat) (st : Strand), s.guarded h = true → s.here.takes a = true →
      s.here.sources [b, c, k] = some ([va, x, y], st) →
      let n := 2 ^ size.toNat
      let m := leNat (s.scratch off n)
      va.toNat % n = 0 → s.local va off n = true →
      (m = x.toNat % 2 ^ (8 * n) → exec (.cas h a b c k rel acq size sc) s
        = .next (s.stores h 8 (st.performed.variable a (BitVec.ofNat 64 m)) off (leBytes y.toNat n)))
      ∧ (m ≠ x.toNat % 2 ^ (8 * n) → exec (.cas h a b c k rel acq size sc) s
        = .next (s.completes h 8 (st.performed.variable a (BitVec.ofNat 64 m)))))

/-- R79, R153, R159, R167, R171, R173, R186: what must be aligned takes ALIGN with the address where it is not, and does
nothing else: to its size, a pair to 8 bytes, a burgee and a pennant to 16, an append queue to 64, WAITE's word and
BRI's entry to 8. R189, R201, R204, R205: LDL and AMOL give their destination a symbol in the lowest free entry and
complete; what they will read or change is kept with it. With destination s0 they keep it under a number above those
in use, from 32 on, no symbol of the table (log 37, DEDUCED); with no entry free they wait. The access here is to the
die's scratchpad, of ordering kind 1; what it holds back is the model's reading (log 32, DEDUCED). R93, R157, R161:
behind a late S load or acquire that is outstanding, loads, stores and atomics pass their checks, are kept, and the
strand goes on: a load and an atomic make their register wait for what they will bring. Which instructions do so, and
what an access holds back, is the model's reading (log 32, DEDUCED), as is the number they are kept under (log 37,
DEDUCED). Shown on the die's scratchpad, of ordering kind 1. -/
def Obligations.AlignmentAndLateAccesses : Prop :=
  (∀ (s : State) (h : Hdr) (t base index a b c k : BitVec 6) (size : BitVec 2) (sc : BitVec 3) (rel acq : BitVec 1)
      (disp : BitVec 24) (x i v w : Word), s.guarded h = true →
      base.toNat < 48 → index.toNat < 48 → t.toNat < 47 → a.toNat < 48 → b.toNat < 48 → c.toNat < 48 → k.toNat < 48 →
      let n := 2 ^ size.toNat
      let ea : Word := x + i * BitVec.ofNat 64 n + disp.signExtend 64
      let ep : Word := x + i * 16 + disp.signExtend 64
      (s.here.source base = some (x, s.here) → s.here.source index = some (i, s.here) →
        (ea.toNat % n ≠ 0 →
          exec (.lda h t base size sc index disp) s = .next (s.traps .align 0 ea)
          ∧ exec (.ldl h t base size index disp) s = .next (s.traps .align 0 ea)
          ∧ (s.here.source t = some (v, s.here) → exec (.stl h t base size sc index disp) s = .next (s.traps .align 0 ea)))
        ∧ (ep.toNat % 8 ≠ 0 →
          exec (.ldp h t base index disp) s = .next (s.traps .align 0 ep)
          ∧ (s.here.source t = some (v, s.here) → s.here.source (t + 1) = some (w, s.here) →
            exec (.stp h t base index disp) s = .next (s.traps .align 0 ep)))
        ∧ (s.here.source t = some (v, s.here) → i.toNat < v.toNat → (x + 8 * i).toNat % 8 ≠ 0 →
          exec (.bri h t base index) s = .next (s.traps .align 0 (x + 8 * i))))
      ∧ (s.here.source b = some (x, s.here) → s.here.source c = some (v, s.here) →
        (x.toNat % n ≠ 0 →
          ∀ e ∈ [Instr.amoAdd h a b c rel acq size sc, .amoAnd h a b c rel acq size sc, .amoOr h a b c rel acq size sc,
              .amoXor h a b c rel acq size sc, .amoSwap h a b c rel acq size sc, .amoMin h a b c rel acq size sc,
              .amoMax h a b c rel acq size sc, .amoMinu h a b c rel acq size sc, .amoMaxu h a b c rel acq size sc,
              .amoMaxrst h a b rel acq size sc, .amolAdd h a b c rel acq size sc, .amolAnd h a b c rel acq size sc,
              .amolOr h a b c rel acq size sc, .amolXor h a b c rel acq size sc, .amolSwap h a b c rel acq size sc,
              .amolMin h a b c rel acq size sc, .amolMax h a b c rel acq size sc, .amolMinu h a b c rel acq size sc,
              .amolMaxu h a b c rel acq size sc, .amolMaxrst h a b rel acq size sc],
            exec e s = .next (s.traps .align 0 x))
        ∧ (x.toNat % n ≠ 0 → s.here.source k = some (w, s.here) →
          exec (.cas h a b c k rel acq size sc) s = .next (s.traps .align 0 x))
        ∧ (x.toNat % 16 ≠ 0 →
          ∀ e ∈ [Instr.barInit h a b c sc, .barExpect h a b c sc, .barArrive h a b sc, .barArriveb h a b c sc,
              .barWait h a b c sc, .barTest h a b c sc, .wmpub h b c, .wmpubGen h b c],
            exec e s = .next (s.traps .align 0 x))
        ∧ (x.toNat % 64 ≠ 0 →
          exec (.qwait h a b c) s = .next (s.traps .align 0 x) ∧ exec (.qtake h a b c) s = .next (s.traps .align 0 x))
        ∧ (x.toNat % 8 ≠ 0 → exec (.waite h a b c) s = .next (s.traps .align 0 x))))
  ∧ (∀ (s : State) (h : Hdr) (t base index : BitVec 6) (size : BitVec 2) (sc : BitVec 3) (rel acq : BitVec 1)
      (disp : BitVec 24) (x i o : Word) (off k : Nat) (st : Strand), s.guarded h = true → t.toNat < 48 →
      let n := 2 ^ size.toNat
      let ea : Word := x + i * BitVec.ofNat 64 n + disp.signExtend 64
      let pl : Place := .scratch (dieOf s.cur) off
      let taken (j : Nat) : Prop := (Tab.find s.here.syms j).isSome = true
      let aboveAll : Prop := 32 ≤ k ∧ (∀ p ∈ s.here.syms, p.1 < k) ∧ (k = 32 ∨ ∃ p ∈ s.here.syms, p.1 + 1 = k)
      let late (e : Instr) (y : Sym) : Prop :=
        ((t = 0 → aboveAll) → (t ≠ 0 → k < 32 ∧ ¬ taken k ∧ ∀ j, j < k → taken j) →
          exec e s = .next (s.completes h 8 (if t = 0 then { st with syms := Tab.insert st.syms k y }
            else ({ st with syms := Tab.insert st.syms k y }.forget t.toNat).setReg t.toNat (.aff k 1 0))))
        ∧ (t ≠ 0 → (∀ j, j < 32 → taken j) → st = s.here →
          exec e s = .next (waitAt .plain s (s.setHere { s.here with waitfree := true })))
      (s.here.sources [base, index] = some ([x, i], st) → ea.toNat % n = 0 → s.reaches ea off n = true →
        late (.ldl h t base size index disp) ⟨.load ea.toNat pl n s.here.wmset, 1, none, false, false, false, s.cycle, none⟩)
      ∧ (x.toNat % n = 0 → s.reaches x off n = true →
        let y (op : RmwOp) (v : Word) : Sym :=
          ⟨.amo x.toNat pl n op v, 1, none, acq == 1, acq == 1 || rel == 1, acq == 1 || rel == 1, s.cycle, none⟩
        let v : Word := BitVec.ofNat 64 (o.toNat % 2 ^ (8 * n))
        (s.here.sources [base, index] = some ([x, o], st) →
          late (.amolAdd h t base index rel acq size sc) (y .add v) ∧ late (.amolAnd h t base index rel acq size sc) (y .and v)
          ∧ late (.amolOr h t base index rel acq size sc) (y .or v) ∧ late (.amolXor h t base index rel acq size sc) (y .xor v)
          ∧ late (.amolSwap h t base index rel acq size sc) (y .swap v)
          ∧ late (.amolMin h t base index rel acq size sc) (y .min v)
          ∧ late (.amolMax h t base index rel acq size sc) (y .max v)
          ∧ late (.amolMinu h t base index rel acq size sc) (y .minu v)
          ∧ late (.amolMaxu h t base index rel acq size sc) (y .maxu v))
        ∧ (s.here.sources [base] = some ([x], st) → late (.amolMaxrst h t base rel acq size sc) (y .maxrst 0))))
  ∧ (∀ (s : State) (h : Hdr) (t base index : BitVec 6) (size : BitVec 2) (sc : BitVec 3) (rel acq : BitVec 1)
      (disp : BitVec 24) (x i v : Word) (off k : Nat) (st : Strand), s.guarded h = true → t.toNat < 48 →
      (∃ p ∈ s.here.syms, p.2.holds = true ∧ p.2.src.range.isSome = true) →
      32 ≤ k → (∀ p ∈ s.here.syms, p.1 < k) → (k = 32 ∨ ∃ p ∈ s.here.syms, p.1 + 1 = k) →
      let n := 2 ^ size.toNat
      let ea : Word := x + i * BitVec.ofNat 64 n + disp.signExtend 64
      let pl : Place := .scratch (dieOf s.cur) off
      let brings (signed : Bool) (y : Option LateDst → Sym) : State :=
        if t = 0 then s.completes h 8 { st with syms := Tab.insert st.syms k (y none) }
        else { s with nextTree := s.nextTree + 1 }.completes h 8 { st.forget t.toNat with
          outs := Tab.insert st.outs t.toNat s.nextTree
          syms := Tab.insert st.syms k (y (some ⟨s.nextTree, [(t.toNat, 0)], n, signed⟩)) }
      (s.here.sources [base, index, t] = some ([x, i, v], st) → s.reaches ea off n = true →
        exec (.st h t base size index disp) s = .next (s.completes h 8 { st with
          syms := Tab.insert st.syms k ⟨.store ea.toNat pl (leBytes v.toNat n) .alloc, 1, none, false, false, false, s.cycle, none⟩ })
        ∧ exec (.stx h t base size index disp) s = .next (s.completes h 8 { st with
          syms := Tab.insert st.syms k ⟨.store ea.toNat pl (leBytes v.toNat n) .far, 1, none, false, false, false, s.cycle, none⟩ })
        ∧ (ea.toNat % n = 0 → exec (.stl h t base size sc index disp) s = .next (s.completes h 8 { st with
          syms := Tab.insert st.syms k ⟨.store ea.toNat pl (leBytes v.toNat n) .alloc, 1, none, false, true, true, s.cycle, none⟩ })))
      ∧ (s.here.sources [base, index] = some ([x, i], st) → s.reaches ea off n = true →
        let y (acq : Bool) (d : Option LateDst) : Sym :=
          ⟨.load ea.toNat pl n st.wmset, 1, none, acq, acq, acq, s.cycle, d⟩
        exec (.ld h t base size index disp) s = .next (brings false (y false))
        ∧ exec (.lds h t base size index disp) s = .next (brings true (y false))
        ∧ exec (.ldx h t base size index disp) s = .next (brings false (y false))
        ∧ (ea.toNat % n = 0 → exec (.lda h t base size sc index disp) s = .next (brings false (y true))))
      ∧ (s.here.sources [base, index] = some ([x, v], st) → x.toNat % n = 0 → s.reaches x off n = true →
        s.sent s.cur = none →
        let y (op : RmwOp) (v : Word) (d : Option LateDst) : Sym :=
          ⟨.rmw x.toNat pl n (.rmw op v), 1, none, acq == 1, acq == 1 || rel == 1, acq == 1 || rel == 1, s.cycle, d⟩
        let o : Word := BitVec.ofNat 64 (v.toNat % 2 ^ (8 * n))
        ∀ p ∈ [(Instr.amoAdd h t base index rel acq size sc, RmwOp.add), (.amoAnd h t base index rel acq size sc, .and),
            (.amoOr h t base index rel acq size sc, .or), (.amoXor h t base index rel acq size sc, .xor),
            (.amoSwap h t base index rel acq size sc, .swap), (.amoMin h t base index rel acq size sc, .min),
            (.amoMax h t base index rel acq size sc, .max), (.amoMinu h t base index rel acq size sc, .minu),
            (.amoMaxu h t base index rel acq size sc, .maxu)],
          exec p.1 s = .next (brings false (y p.2 o))))

/-! ### Synchronisation -/

/-- R167, R168: the burgee functions on 16 bytes of the die's scratchpad: what each leaves in memory and in its
destination, when WAIT waits, and the traps. That INIT and EXPECT make the strand's groups see its earlier stores is
the model's choice (log 6). R170, R171, R172: publishing raises the count of a pennant, or starts a new generation;
WMSET binds and unbinds a slot, and a pennant of ESIZE 0 leaves it unbound and takes ALIGN. WMSET takes a pennant that
is not aligned as it takes any other (log 34, DEDUCED), and reads c before a and b (log 117, DESIGN CHOICE). -/
def Obligations.BurgeesAndPennants : Prop :=
  (∀ (s : State) (h : Hdr) (a b c : BitVec 6) (sc : BitVec 3) (va n : Word) (off : Nat) (st : Strand), s.guarded h = true →
      s.here.takes a = true → va.toNat % 16 = 0 → s.local va off 16 = true →
      let w0 : Word := BitVec.ofNat 64 (leNat (s.scratch off 8))
      let x := Burgee.ofBytes (s.scratch off 16)
      let done (y : Burgee) : Burgee := if y.overrun = false ∧ y.parr = 0 ∧ y.pbytes = 0
        then { y with phase := (y.phase + 1) % 16, parr := y.narr } else y
      let put (y : Burgee) (w1 : List Byte) : State := s.stores h 8 (st.performed.variable a w0) off (leBytes y.word0 8 ++ w1)
      let keep := s.scratch (off + 8) 8
      x = ⟨w0.getLsbD 63, bits w0 59 4, bits w0 35 24, bits w0 0 31, leNat keep % 2 ^ 24⟩
      ∧ (s.here.sources [b, c] = some ([va, n], st) →
        (n.toNat < 2 ^ 24 →
          exec (.barInit h a b c sc) s = .next (put ⟨false, 0, n.toNat, 0, n.toNat⟩ (leBytes n.toNat 8)))
        ∧ (2 ^ 24 ≤ n.toNat → st = s.here → exec (.barInit h a b c sc) s = .next (s.traps .barRange 0 va))
        ∧ (x.pbytes + n.toNat ≤ 2 ^ 31 - 1 →
          exec (.barExpect h a b c sc) s = .next (put { x with pbytes := x.pbytes + n.toNat } keep))
        ∧ (2 ^ 31 - 1 < x.pbytes + n.toNat → st = s.here → exec (.barExpect h a b c sc) s = .next (s.traps .barRange 0 va))
        ∧ exec (.barArriveb h a b c sc) s = .next (put (done (if x.pbytes < n.toNat then
            { x with pbytes := 0, overrun := true } else { x with pbytes := x.pbytes - n.toNat })) keep)
        ∧ (x.overrun = false →
          (x.phase ≠ n.toNat % 16 → exec (.barWait h a b c sc) s = .next (s.completes h 8 (st.variable a w0)))
          ∧ (x.phase = n.toNat % 16 → st = s.here → exec (.barWait h a b c sc) s = .next (waitAt .plain s s.closeAsks))
          ∧ exec (.barTest h a b c sc) s = .next (s.completes h 8 (st.variable a w0)))
        ∧ (x.overrun = true → st = s.here → exec (.barWait h a b c sc) s = .next (s.traps .barOverrun 0 va)
          ∧ exec (.barTest h a b c sc) s = .next (s.traps .barOverrun 0 va)))
      ∧ (s.here.sources [b] = some ([va], st) →
        exec (.barArrive h a b sc) s = .next (put (done (if x.parr = 0 then { x with overrun := true }
            else { x with parr := x.parr - 1 })) keep)))
  ∧ (∀ (s : State) (h : Hdr) (a b c : BitVec 6) (k : BitVec 2) (va n pen : Word) (off : Nat) (st : Strand), s.guarded h = true →
      (va.toNat % 16 = 0 → s.local va off 16 = true → s.here.sources [b, c] = some ([va, n], st) →
        let count := leNat (s.scratch off 8)
        let w1 := leNat (s.scratch (off + 8) 8)
        exec (.wmpub h b c) s = .next (s.stores h 8 st.performed off
          (leBytes (if count ≤ n.toNat then n.toNat else count) 8 ++ s.scratch (off + 8) 8))
        ∧ ∃ w : Word, exec (.wmpubGen h b c) s = .next (s.stores h 8 st.performed off (leBytes n.toNat 8 ++ leBytes w.toNat 8))
          ∧ w.extractLsb' 16 32 = BitVec.ofNat 32 (w1 / 2 ^ 16) + 1 ∧ w.extractLsb' 0 16 = BitVec.ofNat 16 w1
          ∧ w.extractLsb' 48 16 = BitVec.ofNat 16 (w1 / 2 ^ 48))
      ∧ (s.here.sources [c] = some ([0], st) →
        exec (.wmset h a b c k) s = .next (s.completes h 8 { st with wmset := Tab.erase st.wmset k.toNat }))
      ∧ (s.here.sources [c, a, b] = some ([n, va, pen], st) → n ≠ 0 → s.reaches (pen + 8) off 8 = true → s.here.syms = [] →
        (∀ p ∈ s.here.wmset, p.2.base.toNat + p.2.len.toNat * p.2.esize.toNat ≤ (pen + 8).toNat
          ∨ (pen + 8).toNat + 8 ≤ p.2.base.toNat) →
        let w1 : Word := BitVec.ofNat 64 (leNat (s.scratch off 8))
        (w1.extractLsb' 0 16 ≠ 0 → exec (.wmset h a b c k) s = .next (s.completes h 8 { st with
          wmset := Tab.insert st.wmset k.toNat ⟨va, n, pen, w1.extractLsb' 16 32, w1.extractLsb' 0 16⟩ }))
        ∧ (w1.extractLsb' 0 16 = 0 → st = s.here →
          exec (.wmset h a b c k) s = .next (trapAt ⟨Cause.align.code, 0, pen, .instr, false⟩ s
            (s.setHere { s.here with wmset := Tab.erase s.here.wmset k.toNat })))))

/-- R173, R174, R175: QWAIT marks its strand in the header and gives the number of records, or waits with its mark left where
there are fewer than it asks for; QTAKE takes as many records as it asks for, or none. That both make the strand's groups
see its earlier stores is the model's choice (log 6). -/
def Obligations.AppendQueueResults : Prop :=
  ∀ (s : State) (h : Hdr) (a b c : BitVec 6) (va n : Word) (off : Nat) (st : Strand), s.guarded h = true →
    s.here.takes a = true → va.toNat % 64 = 0 → s.local va off 64 = true → s.here.sources [b, c] = some ([va, n], st) →
    let word (i : Nat) : Word := BitVec.ofNat 64 (leNat (s.scratch (off + 8 * i) 8))
    let holds (k : Word) : Prop := (word 2).toNat + k.toNat ≤ (word 3).toNat
    (holds (if n = 0 then word 4 else n) →
      exec (.qwait h a b c) s = .next (s.stores h 8 (st.performed.variable a (word 3 - word 2)) (off + 48)
        (leBytes ((word 6).toNat ||| 2 ^ (s.cur % 64)) 8)))
    ∧ (¬ holds (if n = 0 then word 4 else n) → st = s.here →
      exec (.qwait h a b c) s = .next (waitAt .plain s ((s.closeAsks.putScratch (off + 48)
        (leBytes ((word 6).toNat ||| 2 ^ (s.cur % 64)) 8)).setHere
          { s.here with part := some (.fill (if n = 0 then word 4 else n) true) })))
    ∧ (n ≠ 0 → n.toNat ≤ (word 1).toNat → holds n →
      exec (.qtake h a b c) s = .next (s.stores h 8 (st.performed.variable a (word 2)) off
        (s.scratch off 16 ++ leBytes (word 2 + n).toNat 8 ++ s.scratch (off + 24) 40)))
    ∧ (n = 0 → exec (.qtake h a b c) s = .next (s.completes h 8 (st.performed.variable a (word 2))))
    ∧ (n ≠ 0 → ((word 1).toNat < n.toNat ∨ ¬ holds n) →
      exec (.qtake h a b c) s = .next (s.completes h 8 (st.performed.variable a 0xFFFFFFFFFFFFFFFF)))

/-- R75, R76, R164, R165, R183, R184, R186, R187: instructions that wait, signal or order; FENCE and FSA make the strand's
groups see its earlier stores, of any mask and at any scope, which is the model's choice (log 6). R82, R83, R84, R166:
OWN gives the old owner bit of a block of the die's scratchpad and sets the new one; to the engines, when the strand
has nothing outstanding; its groups see its earlier stores then (the model's choice, log 6). -/
def Obligations.WaitsFencesAndOwnerBits : Prop :=
  (∀ (s : State) (h : Hdr) (d a b : BitVec 6) (kinds sc : BitVec 3) (va x : Word) (off : Nat) (st : Strand),
      s.guarded h = true →
      exec (.nop h) s = .next (s.completes h 8 s.here)
      ∧ exec (.faa h sc) s = .next (s.completes h 8 s.here)
      ∧ exec (.yield h) s = .next (retire h.stall (s.here.pc + 8) (tick 16 s))
      ∧ (s.here.sup = true → exec (.halt h) s = .next (s.completes h 8 { s.here with halt := .halted }))
      ∧ (s.here.syms = [] → s.treeBusy s.cur = false → s.here.refusal = none →
        exec (.fence h kinds sc) s = .next (s.completes h 8 s.here.performed))
      ∧ (s.here.syms = [] → exec (.fsa h sc) s = .next (s.completes h 8 s.here.performed))
      ∧ (s.here.queue = [] → exec (.fas h sc) s = .next (s.completes h 8 s.here))
      ∧ (∃ t : State, exec (.sev h sc) s = .next (retire h.stall (s.here.pc + 8) t)
        ∧ t = { s with strands := t.strands }
        ∧ ∀ n, t.strand n = if (s.strand n).inWaite = true ∧ (sc = 2 → n / 8 = s.cur / 8) ∧ (sc = 3 → n / 128 = s.cur / 128)
            then { s.strand n with sevSeen := true } else s.strand n)
      ∧ (s.here.sources [a, b] = some ([va, x], st) → s.here.takes d = true → va.toNat % 8 = 0 → s.local va off 8 = true →
        let v : Word := BitVec.ofNat 64 (leNat (s.scratch off 8))
        v ≠ x ∨ s.here.sevSeen = true → exec (.waite h d a b) s = .next (s.completes h 8 (st.variable d v)))
      ∧ (s.here.sources [b] = some ([x], st) → s.here.takes a = true → s.here.sup = true → s.mgmt.mboxseq ≠ x →
        exec (.waitm h a b) s = .next (s.completes h 8 (st.variable a s.mgmt.mboxseq))))
  ∧ (∀ (s : State) (h : Hdr) (a b : BitVec 6) (off : Nat) (st : Strand), s.guarded h = true → s.here.takes a = true →
      s.here.sources [b] = some ([scratchAddr off], st) → off < 2 ^ 25 →
      let k := off / 65536
      let d := s.die (dieOf s.cur)
      let st' := st.variable a (if d.owner.contains k then 1 else 0)
      exec (.own h a b 0) s = .next (retire h.stall (s.here.pc + 8)
        ((s.setHere st').setDie (dieOf s.cur) { d with owner := d.owner.filter (· != k) }))
      ∧ (s.here.syms = [] → s.here.queue = [] → exec (.own h a b 1) s = .next (retire h.stall (s.here.pc + 8)
        ((s.setHere st'.performed).setDie (dieOf s.cur) { d with owner := d.owner.filter (· != k) ++ [k] }))))

/-! ### Control registers, caches, translations, watchdogs, budgets, injected errors -/

/-- R51, R103, R147, R185 (Table 2.9): MFC of every control register gives its value, in user mode where the register is open
to it; of FPCSR with the flags of every earlier floating-point instruction, and of ESTART, FFIDX and ADIRTY once the
associative instructions they wait for are done. -/
def Obligations.ControlRegisterReads : Prop :=
  ∀ (s : State) (h : Hdr) (d : BitVec 6), s.guarded h = true → s.here.takes d = true →
    let st := s.here
    let x := s.ctxOf st.ctx
    (st.sup = true → ∀ p ∈ [((0x001 : BitVec 12), st.epc), (0x002, st.ecause), (0x003, st.eval), (0x004, st.einstr),
        (0x005, st.hscra), (0x006, st.hscrb), (0x014, st.afaultop), (0x015, st.afaultaddr), (0x031, st.mdirty.setWidth 64),
        (0x032, st.apresent.setWidth 64), (0x033, st.mpresent.setWidth 64), (0x050, (s.cluster (s.cur / 8)).alimit),
        (0x070, st.trapbase), (0x071, (s.die (s.cur / 128)).grace.setWidth 64),
        (0x072, (s.die (s.cur / 128)).ageing.setWidth 64)],
      exec (.mfc h d p.1) s = .next (s.completes h 8 (st.fixed d 1 p.2)))
    ∧ (∀ p ∈ [((0x000 : BitVec 12), st.status), (0x013, st.rad.setWidth 64), (0x021, st.symlim.setWidth 64),
        (0x040, (x.idPasid.setWidth 64 <<< 16) ||| x.idCtx.setWidth 64),
        (0x041, (x.ceil.setWidth 64 <<< 8) ||| st.level.setWidth 64), (0x042, x.ebcorr), (0x043, x.ebdet),
        (0x044, x.wdogLim.setWidth 64), (0x045, x.wdogCnt.setWidth 64), (0x046, st.kclass.setWidth 64),
        (0x051, (s.die (s.cur / 128)).apermit.setWidth 64), (0x052, s.promlate.setWidth 64), (0x060, s.cycle)],
      exec (.mfc h d p.1) s = .next (s.completes h 8 (st.fixed d 1 p.2)))
    ∧ (∃ v : Word, exec (.mfc h d 0x020) s = .next (s.completes h 8 (st.fixed d 1 v))
      ∧ (st.syms = [] → v = if st.waitfree then 0x4000000000 else 0)
      ∧ ∀ k y, k < 32 → st.syms = [(k, y)] → v.toNat = (if st.waitfree then 2 ^ 38 else 0) + 2 ^ 32 + 2 ^ k)
    ∧ ((st.s.any fun p => p.2.isList) = false → (st.pend.any fun p => p.val.isList) = false →
      exec (.mfcFpcsr h d) s = .next (s.completes h 8 (st.settleFloat.fixed d 1 st.settleFloat.fpcsr))
      ∧ st.settleFloat.fpcsr = st.pend.foldl (fun w p => w ||| p.flags.getD 0) st.fpcsr)
    ∧ (st.queue = [] ∨ st.astop.isSome = true →
      exec (.mfcEstartFfidx h d 1) s = .next (s.completes h 8 (st.fixed d 1 (st.estart.setWidth 64)))
      ∧ exec (.mfcEstartFfidx h d 2) s = .next (s.completes h 8 (st.fixed d 1 (st.ffidx.setWidth 64)))
      ∧ (st.sup = true → exec (.mfcAdirty h d) s = .next (s.completes h 8 (st.fixed d 1 (st.adirty.setWidth 64)))))

/-- R51, R102, R103, R105, R185, R236, R421, R428, Table 4.2, Table 7.6: what MTC leaves in every register it may write; a
write by a mode that only reads the register is ignored. -/
def Obligations.ControlRegisterWrites : Prop :=
  ∀ (s : State) (h : Hdr) (a : BitVec 6) (v : Word) (st : Strand), s.guarded h = true →
    s.here.sources [a] = some ([v], st) →
    ((∀ p ∈ [((0x011 : BitVec 12), { st with estart := v.setWidth 19 }), (0x012, { st with ffidx := v.setWidth 19 }),
        (0x013, { st with rad := if bits v 0 7 = 0 then 1 else if 64 < bits v 0 7 then 64 else v.setWidth 7 })],
        exec (.mtc h a p.1) s = .next (s.completes h 8 p.2))
      ∧ ((st.s.any fun p => p.2.isList) = false → (st.pend.any fun p => p.val.isList) = false →
        exec (.mtcFpcsr h a) s = .next (s.completes h 8 { st.settleFloat with fpcsr := (v &&& 0x1F08) |||
          (if v.extractLsb' 0 3 = 0 ∨ 4 < (v.extractLsb' 0 3).toNat then 1 else v &&& 7) })))
    ∧ (st.sup = true →
      (∀ p ∈ [((0x000 : BitVec 12),
            { st with status := (st.status &&& 0x81) ||| (v &&& 0x3E) ||| (st.status &&& 0x40 &&& ~~~v) }),
          (0x001, { st with epc := v &&& 0x00FFFFFFFFFFFFFF }), (0x002, { st with ecause := v &&& 0x3FFFF }),
          (0x003, { st with eval := v }), (0x004, st), (0x005, { st with hscra := v }), (0x006, { st with hscrb := v }),
          (0x014, { st with afaultop := v }), (0x015, { st with afaultaddr := v }),
          (0x021, { st with symlim := v.setWidth 32 }), (0x030, { st with adirty := v.setWidth 32 }),
          (0x031, { st with mdirty := v.setWidth 24 }), (0x032, { st with apresent := v.setWidth 32 }),
          (0x033, { st with mpresent := v.setWidth 24 }), (0x020, st), (0x046, st), (0x051, st), (0x060, st)],
        exec (.mtc h a p.1) s = .next (s.completes h 8 p.2))
      ∧ exec (.mtc h a 0x052) s = .next (s.acts h st fun s => { s with promlate := v.setWidth 32 })
      ∧ exec (.mtc h a 0x071) s
        = .next (s.acts h st fun s => s.setDie (s.cur / 128) { s.die (s.cur / 128) with grace := v.setWidth 32 })
      ∧ exec (.mtc h a 0x072) s
        = .next (s.acts h st fun s => s.age.setDie (s.cur / 128) { s.die (s.cur / 128) with ageing := v.setWidth 32 })
      ∧ (∀ x, Tab.find s.ctxs s.here.ctx = some x →
        (∀ p ∈ [((0x040 : BitVec 12), { x with idPasid := v.extractLsb' 16 20, idCtx := v.extractLsb' 0 16 }),
            (0x042, { x with ebcorr := v, spentCorr := false }), (0x043, { x with ebdet := v, spentDet := false })],
          exec (.mtc h a p.1) s = .next (s.acts h st fun s => s.setCtx s.here.ctx p.2))
        ∧ (∀ p ∈ [((0 : BitVec 1), { x with wdogLim := v.setWidth 48, wdogArmed := true }),
            (1, { x with wdogCnt := v.setWidth 48, wdogArmed := true })],
          exec (.mtcWatchdog h a p.1) s = .next (s.acts h st fun s => s.setCtx s.here.ctx p.2))
        ∧ exec (.mtcPriocur h a) s = .next (s.acts h st fun s => s.age.setCtx s.here.ctx
          (if bits v 8 4 ≤ (if x.supv = true then 11 else 10) then { x with ceil := BitVec.ofNat 4 (bits v 8 4) } else x))
        ∧ exec (.mtcTrapbase h a) s = .next (s.acts h { st with trapbase := v &&& 0x00FFFFFFFFFFF000 } fun s =>
          s.setCtx s.here.ctx { x with trapb := v &&& 0x00FFFFFFFFFFF000 }))
      ∧ ((s.cluster (s.cur / 8)).gating = none → ((List.range 4).all fun i =>
          (s.group (s.cur / 8 * 4 + i)).gating.isNone && !s.groupBusy (s.cur / 8 * 4 + i)) = true →
        exec (.mtcAlimit h a) s = .next (s.acts h st fun s => (s.gate (s.cur / 8) v).setCluster (s.cur / 8)
          { s.cluster (s.cur / 8) with alimit := v })))
    ∧ (st.sup = false → ∀ i ∈ [Instr.mtc h a 0x000, .mtc h a 0x020, .mtc h a 0x021, .mtc h a 0x040, .mtc h a 0x042,
        .mtc h a 0x043, .mtc h a 0x046, .mtc h a 0x051, .mtc h a 0x052, .mtc h a 0x060, .mtcWatchdog h a 0,
        .mtcWatchdog h a 1, .mtcPriocur h a], exec i s = .next (s.completes h 8 st))

/-- R181: the cache functions act on the 128-byte line of an address that passes its checks; on the local window the line
functions do nothing, and CACHE.zero stores 128 zero bytes. That a line CACHE.inv names may be lost or cleaned, freely
(log 8), and that on the window no other check is made (log 94) are the model's choices. R180: TLBI drops the
translations it names from every die; with no access outstanding it completes at once. -/
def Obligations.CachesAndTranslations : Prop :=
  (∀ (s t : State) (h : Hdr) (base index : BitVec 6) (disp : BitVec 24) (b i : Word) (pa e : Nat) (kind : BitVec 2),
      s.guarded h = true → s.here.sources [base, index] = some ([b, i], s.here) →
      let ea : Word := b + i + disp.signExtend 64
      let lo := pa / 128 * 128
      let goes (x : Instr) (u : State) : Prop := exec x s = .next (retire h.stall (s.here.pc + 8) u)
      (inWindow ea = true → (∀ x ∈ [Instr.cacheIinv h base index disp, .cacheClean h base index disp,
          .cacheClinv h base index disp], goes x s) ∧ (s.here.sup = true → goes (.cacheInv h base index disp) s))
      ∧ (inWindow ea = false → check s.whoStrand .rd ea s = .ok (.mem pa, kind) t →
        goes (.cacheIinv h base index disp) (t.setCluster (t.cur / 8) { t.cluster (t.cur / 8) with
          icache := (t.cluster (t.cur / 8)).icache.filter fun p => decide (p.1 < lo) || decide (lo + 128 ≤ p.1) })
        ∧ goes (.cacheClean h base index disp) (t.cleanL2 lo (lo + 128))
        ∧ goes (.cacheClinv h base index disp) (t.cleanL2 lo (lo + 128))
        ∧ (s.here.sup = true → ∃ lost : Bool, goes (.cacheInv h base index disp)
          (if lost then { t with free := t.free + 1 }.dropL2 lo (lo + 128)
            else { t with free := t.free + 1 }.cleanL2 lo (lo + 128))))
      ∧ (ea = scratchAddr e → s.local (scratchAddr (e / 128 * 128)) (e / 128 * 128) 128 = true →
        exec (.cacheZero h base index disp) s = .next (s.stores h 8 s.here (e / 128 * 128) (List.replicate 128 0)))
      ∧ exec (.cacheIinvall h) s = .next (s.acts h s.here fun s =>
          s.setCluster (s.cur / 8) { s.cluster (s.cur / 8) with icache := [] }))
  ∧ ((∀ (s : State) (f : Tlb → Bool), (∀ p ∈ (s.dropTlb f).dies, ∀ e ∈ p.2.tlb, f e = false)
      ∧ ∀ p ∈ s.dies, (∀ e ∈ p.2.tlb, f e = false) → p.2 ≠ Die.reset → p ∈ (s.dropTlb f).dies)
    ∧ ∀ (s : State) (h : Hdr) (a b : BitVec 6) (x y : Word) (st : Strand), s.guarded h = true → s.here.sup = true →
      s.lateUse (fun _ _ => true) = false →
      exec (.tlbiAll h) s = .next (s.acts h s.here fun s => s.dropTlb fun _ => true)
      ∧ (s.here.sources [b] = some ([y], st) →
        exec (.tlbiCtx h b) s = .next (s.acts h st fun s => s.dropTlb fun t => t.ctx == y.toNat))
      ∧ (s.here.sources [a, b] = some ([x, y], st) →
        exec (.tlbiVa h a b) s = .next (s.acts h st fun s => s.dropTlb fun t => t.covers y.toNat x))
      ∧ (s.here.sources [a] = some ([x], st) →
        exec (.tlbiVaall h a) s = .next (s.acts h st fun s => s.dropTlb fun t => t.covers t.ctx x)))

/-- R429, R475: functions on a kept context give its old value and change it; a context that is not kept answers all ones.
R478: an injected error changes stored bits of the line it names, or one bit of an array; which bits of the line is
open (log 15). Which row of an array c names and in which world a free or held group is are the model's reading (log
82, DEDUCED), as is the parity a flipped bit leaves (log 16, DEDUCED). -/
def Obligations.ContextsAndInjectedErrors : Prop :=
  (∀ (s : State) (h : Hdr) (a b c : BitVec 6) (k v : Word) (st : Strand), s.guarded h = true → s.here.sup = true →
      s.here.takes a = true →
      (∀ x, Tab.find s.ctxs k.toNat = some x →
        let gives (i : Instr) (old : Word) (y : Ctx) : Prop :=
          exec i s = .next (s.acts h (st.variable a old) fun s => s.setCtx k.toNat y)
        (s.here.sources [b, c] = some ([k, v], st) →
          gives (.wdogSet h a b c) (x.wdogLim.setWidth 64) { x with wdogLim := v.setWidth 48, wdogArmed := true }
          ∧ gives (.ebsetCorr h a b c) x.ebcorr { x with ebcorr := v, spentCorr := false }
          ∧ gives (.ebsetDet h a b c) x.ebdet { x with ebdet := v, spentDet := false })
        ∧ (s.here.sources [b] = some ([k], st) →
          gives (.wdogClr h a b) (x.wdogCnt.setWidth 64) { x with wdogCnt := 0, wdogArmed := true }
          ∧ gives (.wdogRead h a b) (x.wdogCnt.setWidth 64) x
          ∧ gives (.ebsetRdcorr h a b) x.ebcorr x
          ∧ gives (.ebsetRddet h a b) x.ebdet x))
      ∧ (Tab.find s.ctxs k.toNat = none →
        (s.here.sources [b, c] = some ([k, v], st) → ∀ i ∈ [Instr.wdogSet h a b c, .ebsetCorr h a b c, .ebsetDet h a b c],
          exec i s = .next (s.completes h 8 (st.variable a 0xFFFFFFFFFFFFFFFF)))
        ∧ (s.here.sources [b] = some ([k], st) → ∀ i ∈ [Instr.wdogClr h a b, .wdogRead h a b, .ebsetRdcorr h a b, .ebsetRddet h a b],
          exec i s = .next (s.completes h 8 (st.variable a 0xFFFFFFFFFFFFFFFF)))))
  ∧ (∀ (s : State) (h : Hdr) (a b c : BitVec 6) (v g : Word) (line : Nat) (st : Strand), s.guarded h = true →
      s.here.sup = true → s.here.takes a = true →
      (s.here.sources [b] = some ([v], st) → s.errLine v = some line →
        (s.regions.any fun p => p.2.pages.contains (line * 64 / 65536)) = false →
        let clean (s : State) : State :=
          ({ s with free := s.free + 1 }.cleanL2 (line * 64) (line * 64 + 64)).cleanMsc (line * 64) (line * 64 + 64)
        (∃ i, i < 512 ∧ exec (.errinjCorr h a b) s
          = .next (s.acts h (st.variable a 0) fun s => (clean s).flip line i))
        ∧ (∃ i j, i < 512 ∧ j < 512 ∧ i / 16 ≠ j / 16 ∧ exec (.errinjDet h a b) s
          = .next (s.acts h (st.variable a 0) fun s => ((clean s).flip line i).flip line j)))
      ∧ (s.here.sources [b, c] = some ([g, v], st) → g.toNat < 512 → bits v 27 37 = 0 →
        (s.here.secure = true ∨ ∀ n, (s.group g.toNat).holder = some n → (s.strand n).secure = false) →
        let x := s.group g.toNat
        let row := bits v 0 16 + (if v.getLsbD 26 then 32768 else 0)
        row < 65536 → exec (.errinjArr h a b c) s = .next (s.acts h (st.variable a 0) fun s => s.setGroup g.toNat { x with
            rows := Tab.put 0 x.rows row (x.row row ^^^ ((1 : BitVec 1024) <<< bits v 16 10))
            parity := if s.groupCls g.toNat = 0 ∨ (24 ≤ bits v 16 10 ∧ bits v 16 10 < 32) then x.parity
              else Tab.put 0 x.parity row (Tab.get 0 x.parity row ^^^ ((1 : BitVec 32) <<< (bits v 16 10 / 32))) })))

/-! ### Launches, items, priorities and context switch -/

/-- R407, R408, R409, R411: a launch record that passes every check of Table 16.4 makes a launch of the issuer's context
and gives its identifier; the record and the nest table lie in the die's scratchpad here, and the strand's earlier
stores are performed (R76, log 6). R413, R414: LWAIT gives the status of a launch once it has completed and waits
until then; LWAIT.test answers 0 at once; an identifier that names no launch of the last 4096 gives all ones. -/
def Obligations.LaunchesAndTheirStatus : Prop :=
  (∀ (s : State) (h : Hdr) (d a : BitVec 6) (va : Word) (off noff n : Nat) (st : Strand), s.guarded h = true →
      s.here.takes d = true → s.here.sources [a, 0] = some ([va, 0], st) → va.toNat % 128 = 0 → s.local va off 128 = true →
      let w := s.scratchWord off
      let x := s.ctxOf s.here.ctx
      let levels := (List.range n).map (levelOf (s.scratch (noff + 8) (16 * n)))
      bits (w 3) 25 39 = 0 → (∀ b ∈ s.scratch (off + 56) 72, b = 0) → (w 0).toNat % 8 = 0 →
      bits (w 3) 0 4 ≤ 11 → bits (w 3) 0 4 ≤ x.ceil.toNat → bits (w 3) 4 2 ≠ 3 → bits (w 3) 6 3 ≤ 4 →
      bits (w 3) 10 10 ≤ 992 → bits (w 3) 20 5 ≤ 16 → (w 3).getLsbD 9 = x.sec → (w 4).toNat < s.nextLaunch →
      (w 5).toNat % 8 = 0 → w 6 = 0 →
      (w 2).toNat % 8 = 0 → s.local (w 2) noff (8 + 16 * n) = true → bits (s.scratchWord noff 0) 0 3 = n → 1 ≤ n → n ≤ 6 →
      bits (s.scratchWord noff 0) 3 61 = 0 → levelsBad (s.scratch (noff + 8) (16 * n)) n = false →
      (s.launches.filter fun p => p.2.die == s.cur / 128 && p.2.status.isNone).length < 256 →
      exec (.launch h d a 0) s = .next (s.acts h (st.performed.variable d (BitVec.ofNat 64 s.nextLaunch)) fun s =>
        { s with
          launches := Tab.insert s.launches s.nextLaunch
            ⟨s.here.ctx, s.cur / 128, w 0, w 1, BitVec.ofNat 4 (bits (w 3) 0 4), BitVec.ofNat 4 (bits (w 3) 0 4),
              (w 3).extractLsb' 4 2, bits (w 3) 6 3, (w 4).toNat, w 5, none, levels, [], itemCount levels, false, none, s.cycle,
              if x.spentCorr = true then some 0 else if x.spentDet = true then some 1 else none⟩
          nextLaunch := s.nextLaunch + 1 }.setCtx s.here.ctx x))
  ∧ (∀ (s : State) (h : Hdr) (d a : BitVec 6) (id : Word) (st : Strand) (l : Launch), s.guarded h = true →
      s.here.takes d = true → s.here.sources [a] = some ([id], st) →
      (Tab.find s.launches id.toNat = some l → id.toNat < s.nextLaunch → s.nextLaunch ≤ id.toNat + 4096 →
        (∀ v, l.status = some v → v ≠ 0 →
          exec (.lwait h d a) s = .next (s.completes h 8 (st.variable d (v.setWidth 64)))
          ∧ exec (.lwaitTest h d a) s = .next (s.completes h 8 (st.variable d (v.setWidth 64))))
        ∧ (l.status = none → (∀ p ∈ s.strands, p.2.halt ≠ .stopped) → s.here.halt ≠ .stopped →
          exec (.lwaitTest h d a) s = .next (s.completes h 8 (st.variable d 0))
          ∧ (st = s.here → exec (.lwait h d a) s = .next (waitAt .plain s s))))
      ∧ (Tab.find s.launches id.toNat = none →
        exec (.lwait h d a) s = .next (s.completes h 8 (st.variable d 0xFFFFFFFFFFFFFFFF))
        ∧ exec (.lwaitTest h d a) s = .next (s.completes h 8 (st.variable d 0xFFFFFFFFFFFFFFFF))))

/-- R421, R422: the functions of PRIO on an incomplete launch of the issuer's context, on the issuer's mark, on a kept
context, on a suspended item and on a launch none of whose items runs. That levels rise by whole periods at once and
that what reads a level or changes what waits ages every launch first (log 68), and which item prio.wake takes and
what prio.kill returns (log 69), are the model's readings (DEDUCED). R219, R413, R420, R423, R424, R428: what the
walkers' and timers' own events do where they apply; a launch that is over writes its number where its record asks for
it, shown for the scratchpad of its die. How launches age (log 68), when a watchdog is armed and what becomes of its
event (log 67), when a context goes with its last launch (log 69), and which launch is pursued with which marks (log
74) are the model's readings (DEDUCED). -/
def Obligations.PrioritiesAndWalkerEvents : Prop :=
  (∀ (s : State) (h : Hdr) (d a b : BitVec 6) (v p : Word) (st : Strand), s.guarded h = true → s.here.takes d = true →
      (∀ l, Tab.find s.launches v.toNat = some l → l.ctx = s.here.ctx → l.status = none →
        let m := s.agedLaunch v.toNat l
        (s.here.sources [a] = some ([v], st) →
          exec (.prioGet h d a) s = .next (s.acts h (st.variable d (m.level.setWidth 64)) State.age))
        ∧ (s.here.sources [a, b] = some ([v, p], st) → p.toNat ≤ (s.ctxOf l.ctx).ceil.toNat →
          exec (.prioSet h d a b) s = .next (s.acts h (st.variable d (l.prio.setWidth 64)) fun s =>
            let level := (if l.prio.toNat < m.level.toNat ∧ p.toNat ≤ m.level.toNat then m.level else p.setWidth 4)
              let since := (if level = m.level then m.since else s.cycle)
              { s.age with launches := Tab.insert s.age.launches v.toNat { m with prio := p.setWidth 4, level, since } })))
      ∧ exec (.prioPend h d) s = .next (s.completes h 8 (s.here.variable d (if s.here.mark.isSome then 1 else 0)))
      ∧ (s.here.sup = true →
        (∀ x, Tab.find s.ctxs v.toNat = some x → s.here.sources [a, b] = some ([v, p], st) →
          p.toNat ≤ (if x.supv = true then 11 else 10) → exec (.prioCeil h d a b) s
            = .next (s.acts h (st.variable d (x.ceil.setWidth 64)) fun s => s.age.setCtx v.toNat { x with ceil := p.setWidth 4 }))
        ∧ (∀ l x r, s.here.sources [a] = some ([v], st) → s.susp = l ++ x :: r → x.hold = true → x.image = v →
          (∀ y ∈ l, y.hold = false ∨ y.image ≠ v) → s.here.syms = [] →
          exec (.prioWake h d a) s = .next (s.acts h (st.performed.variable d 1) fun s =>
            { s.age with susp := l ++ { x with hold := false } :: r }))
        ∧ (∀ l, s.here.sources [a] = some ([v], st) → Tab.find s.launches v.toNat = some l → l.status = none →
          (∀ q ∈ s.strands, ∀ i, q.2.item = some i → i.launch ≠ v.toNat) →
          (∀ i, s.here.item = some i → i.launch ≠ v.toNat) →
          exec (.prioKill h d a) s = .next (s.acts h (st.variable d (BitVec.ofNat 64 l.left)) fun s =>
            let l' : Launch := { s.agedLaunch v.toNat l with killed := true, left := 0 }
            { s with susp := s.susp.filter (fun x => x.item.launch != v.toNat),
                     launches := Tab.insert s.age.launches v.toNat l' }))))
  ∧ (∀ (s : State) (die : BitVec 3) (pm : BitVec 5) (c : BitVec 16) (n : BitVec 10) (id : BitVec 64),
      (1 ≤ pm.toNat → pm.toNat ≤ 16 → exec (.permitChange die pm) s
        = .next (tick 1 (s.setDie die.toNat { s.die die.toNat with apermit := pm })))
      ∧ (∀ x, Tab.find s.ctxs c.toNat = some x → x.wdogArmed = true → x.wdogLim ≠ 0 → x.wdogLim.toNat ≤ x.wdogCnt.toNat →
        ∃ u : State, exec (.watchdogExpiry c) s = .next (tick 1 u) ∧ u = { s with strands := u.strands, ctxs := u.ctxs }
          ∧ u.ctxs = Tab.insert s.ctxs c.toNat { x with wdogArmed := false }
          ∧ ∀ m, u.strand m = if (s.strand m).item.isSome = true ∧ (s.strand m).ctx = c.toNat
            then { s.strand m with waiting := none, events := { (s.strand m).events with
              watchdog := some ((s.strand m).events.watchdog.getD (x.wdogCnt.setWidth 64)) } }
            else { s.strand m with waiting := none })
      ∧ (∀ due j, (s.strand n.toNat).mark = some (due, j) → (s.strand n.toNat).markDone = false → due.toNat ≤ s.cycle.toNat →
        exec (.preemptGraceExpiry n) s = .next (tick 1 (wake (s.setStrand n.toNat { s.strand n.toNat with
          markDone := true
          events := { (s.strand n.toNat).events with preempt := some ((s.strand n.toNat).events.preempt.getD 0) } }))))
      ∧ (let s' := s.age
        ∀ k l vs, (s'.launches.filter fun p => s'.waiting p.1 p.2 die.toNat && !s'.placeable p.1 p.2 die.toNat
          && !s'.pursued p.1 die.toNat && (s'.toMark p.1 p.2 die.toNat).isSome) = [(k, l)] → s'.toMark k l die.toNat = some vs →
        exec (.preemptMark die) s = .next (tick 1 (vs.foldl (fun t v => t.setStrand v.n { t.strand v.n with
          mark := some (s.cycle + (s.die die.toNat).grace.setWidth 64, k), markDone := false }) s')))
      ∧ (∀ l, Tab.find s.launches id.toNat = some l → l.status = none → (s.die l.die).ageing ≠ 0 →
        ((List.range 8).any fun d => s.waiting id.toNat l d && s.placeable id.toNat l d) = true → l.level.toNat < (s.ctxOf l.ctx).ceil.toNat →
        let k := (s.cycle - l.since).toNat / (s.die l.die).ageing.toNat
        exec (.launchAgeing id) s = .next (tick 1 { s with
          launches := Tab.insert s.launches id.toNat { l with
            level := BitVec.ofNat 4 (Nat.min (s.ctxOf l.ctx).ceil.toNat (l.level.toNat + k))
            since := l.since + BitVec.ofNat 64 (k * (s.die l.die).ageing.toNat) } }))
      ∧ (∀ l, Tab.find s.launches id.toNat = some l → l.left = 0 → l.status = none →
        let ends (v : BitVec 2) : State :=
          wake { s.age with
            launches := Tab.insert s.age.launches id.toNat { s.agedLaunch id.toNat l with status := some v } }.prune
        (l.killed = true → exec (.launchComplete id) s = .next (tick 1 (ends 3)))
        ∧ (l.killed = false →
          (l.done = 0 → exec (.launchComplete id) s = .next (tick 1 (ends 1)))
          ∧ (∀ off, l.done ≠ 0 → off % 8 = 0 → l.done = scratchAddr off → off + 8 ≤ 2 ^ 25 →
            (s.die l.die).owner.contains (off / 65536) = false → exec (.launchComplete id) s
              = .next (tick 1 { ends 1 with mem := Memory.setBytes s.mem (scratchKey l.die off) (leBytes id.toNat 8) }))
          ∧ (inWindow l.done = false → bits l.done 56 8 ≠ 0 → exec (.launchComplete id) s = .next (tick 1 (ends 2))))))

/-- R417, R418: EXIT ends the item of a strand that has nothing outstanding: the strand runs no item, its groups are free
and keep their rows (but for a gate mask that waited for them, R236), and the launch has one item less to go. NEXTI
starts the next item of the launch in place, its groups seeing what the item before stored, or answers 0; that pending
writes land first is the model's reading (log 47, DEDUCED). R425, R426, R427: CTXSV writes the strand image and
suspends the item; CTXLD brings an image back that passes its checks and goes on at its EPC, and refuses another with
a status. That pending writes land before CTXSV reads the registers (log 47), that streams are bound again with the
mode the item goes on in (log 76) and which register the image's slot holds where a and b name one (log 77) are the
model's readings (DEDUCED). R426, R427 (Table 16.8): where the strand image holds each field, and what CTXLD brings
back from it. The keyed hash of CHECK is a free function (log 10). -/
def Obligations.ItemEndsAndContextSwitch : Prop :=
  (∀ (s : State) (h : Hdr) (d : BitVec 6), s.guarded h = true →
      (∀ i, s.here.item = some i → s.quiet = true →
        exec (.exit h) s = .next (retire h.stall (s.here.pc + 8) ((s.vacate s.cur).itemOver i.launch)))
      ∧ (let t := s.vacate s.cur
        t.here.item = none ∧ t.here.streams = [] ∧ t.mem = s.mem ∧ t.launches = s.age.launches
        ∧ ∀ g, (g ∉ s.heldOf s.cur → t.group g = s.group g) ∧ (Tab.rising s.groups = true →
          ((s.group g).gating = none → (t.group g).rows = (s.group g).rows) ∧ (t.group g).desc = (s.group g).desc
          ∧ (g ∈ s.heldOf s.cur → (t.group g).holder = none)))
      ∧ (s.here.takes d = true → (s.here.mark.isSome = true ∨ s.follower = none) →
        exec (.nexti h d) s = .next (s.completes h 8 (s.here.variable d 0)))
      ∧ (∀ i l o, d.toNat < 48 → s.quiet = true → s.follower = some (i, l, o) → l.pbind = none →
        Tab.find s.launches i.launch = some l →
        exec (.nexti h d) s = .next (s.acts h
          ({ (s.here.performed.landAll.setSlot0 none).preload i.launch l o with streams := [], item := some { i with ord := o } }.variable d 1)
          fun t =>
            let l' : Launch := { s.agedLaunch i.launch l with next := Tab.insert l.next (s.cur / 128) (o + 1), left := l.left - 1 }
            (({ t with launches := Tab.insert s.age.launches i.launch l' }).withdraw (s.cur / 128) i.launch).dropFills)))
  ∧ (∀ (s : State) (h : Hdr) (d a b : BitVec 6) (va vb : Word) (off : Nat), s.guarded h = true → s.here.sup = true →
      s.here.takes d = true → va.toNat % 64 = 0 → s.local va off strandImage = true →
      (s.here.sources [a, b] = some ([va, vb], s.here) → vb.toNat % 64 = 0 → s.quiet = true → s.here.astop = none →
        let st := s.here.landAll
        let image := st.image (s.mgmt.bootKey.getD 0) (s.heldOf s.cur).length a b vb
        let kept := ((s.setHere { st with refusal := none }).putScratch off image)
        image.length = strandImage
        ∧ exec (.ctxsv h d a b) s = .next (retire h.stall (s.here.pc + 8) (kept.suspend va false))
        ∧ exec (.ctxsvHold h d a b) s = .next (retire h.stall (s.here.pc + 8) (kept.suspend va true)))
      ∧ (s.here.sources [a] = some ([va], s.here) → s.here.queue = [] →
        let bs := s.scratch off strandImage
        let epc : Word := s.scratchWord off 58 &&& 0x00FFFFFFFFFFFFFF
        (imageStatus s bs = 0 → s.scratchWord off 74 = 0 → epc.toNat % 8 = 0 →
          exec (.ctxld h d a) s = .next (s.dropFills.jumps h epc (s.here.reload bs)))
        ∧ (imageStatus s bs ≠ 0 → exec (.ctxld h d a) s
          = .next (s.completes h 8 (s.here.variable d (BitVec.ofNat 64 (imageStatus s bs)))))))
  ∧ ((∀ (st : Strand) (key : Word) (groups : Nat) (a b : BitVec 6) (husk : Word),
      let bs := st.image key groups a b husk
      let w (off : Nat) : Word := BitVec.ofNat 64 (leNat ((bs.drop off).take 8))
      let named (k : Nat) : Prop := a.toNat = k ∨ b.toNat = k
      bs.length = 2048 ∧ w 0 = BitVec.ofNat 64 (2 ^ 48 + groups * 2 ^ 40)
      ∧ (∀ k, 1 ≤ k → k ≤ 47 →
        (b.toNat = k → w (8 * k) = st.hscrb) ∧ (a.toNat = k → b.toNat ≠ k → w (8 * k) = st.hscra)
        ∧ (named k → bs.getD (383 + k) 0 = 0)
        ∧ (∀ v, ¬ named k → st.reg k = .conc v → w (8 * k) = v ∧ bs.getD (383 + k) 0 = 0)
        ∧ (∀ r, ¬ named k → st.reg k = .poison r → w (8 * k) = 0
          ∧ bs.getD (383 + k) 0 = match r with | .data => 1 | .timeout => 2 | .failed => 3))
      ∧ w 448 = (st.p &&& 0xFE).setWidth 64
      ∧ (∀ j, (w 456).getLsbD j = ((j == 0 && st.pmode) || (j == 2 && st.peven) || (j == 4 && st.sbchk) || (j == 7 && st.secure)))
      ∧ w 464 = st.epc ∧ w 472 = st.ecause ∧ w 480 = st.eval ∧ w 488 = st.fpcsr ∧ w 496 = st.estart.setWidth 64
      ∧ w 504 = st.ffidx.setWidth 64 ∧ w 512 = st.rad.setWidth 64 ∧ w 520 = st.afaultop ∧ w 528 = st.afaultaddr
      ∧ w 536 = st.adirty.setWidth 64 ∧ w 544 = st.mdirty.setWidth 64 ∧ w 552 = st.apresent.setWidth 64
      ∧ w 560 = st.mpresent.setWidth 64 ∧ w 568 = st.symlim.setWidth 64
      ∧ (∀ i, st.item = some i → w 576 = BitVec.ofNat 64 i.launch ∧ w 584 = BitVec.ofNat 64 i.ord)
      ∧ w 592 = husk ∧ w 600 = Config.keyedHash key (bs.take 536 ++ (bs.drop 568).take 32 ++ bs.drop 608)
      ∧ w 608 = (match st.refusal with | none => 0 | some x => (0 : BitVec 32) ++ x.sub ++ x.cause ++ x.handle)
      ∧ (∀ z i, z < 16 → i < 8 → w (704 + 72 * z + 8 * i) = match Tab.find st.streams z with
        | none => 0 | some x => x.record.getD i 0)
      ∧ (∀ z, z < 16 → (Tab.find st.streams z = none → w (704 + 72 * z + 64) = 0)
        ∧ ∀ x, Tab.find st.streams z = some x → x.next < 2 ^ 48 →
          w (704 + 72 * z + 64) = (if x.out then 2 else 1 : BitVec 2) ++ (0 : BitVec 14) ++ BitVec.ofNat 48 x.next)
      ∧ (∀ k x, k < 4 → Tab.find st.wmset k = some x → let off := 1856 + 32 * k
        w off = x.base ∧ w (off + 8) = x.len ∧ w (off + 16) = x.pennant
        ∧ w (off + 24) = (0 : BitVec 16) ++ x.gen.setWidth 32 ++ x.esize.setWidth 16))
    ∧ ∀ (st : Strand) (bs : List Byte),
      let w (off : Nat) : Word := BitVec.ofNat 64 (leNat ((bs.drop off).take 8))
      let u := st.reload bs
      (∀ k, 1 ≤ k → k ≤ 47 → u.reg k = match (bs.getD (383 + k) 0).toNat with
        | 1 => .poison .data | 2 => .poison .timeout | 3 => .poison .failed | _ => .conc (w (8 * k)))
      ∧ u.p = (w 448).setWidth 8 &&& 0xFE ∧ u.sup = (w 456).getLsbD 0 ∧ u.even = (w 456).getLsbD 2
      ∧ u.sbchk = (w 456).getLsbD 4 ∧ u.intrap = false ∧ u.secure = st.secure
      ∧ u.epc = w 464 &&& 0x00FFFFFFFFFFFFFF ∧ u.ecause = w 472 ∧ u.eval = w 480 ∧ u.fpcsr = w 488
      ∧ u.estart = (w 496).setWidth 19 ∧ u.ffidx = (w 504).setWidth 19 ∧ u.rad = (w 512).setWidth 7
      ∧ u.afaultop = w 520 ∧ u.afaultaddr = w 528 ∧ u.adirty = (w 536).setWidth 32 ∧ u.mdirty = (w 544).setWidth 24
      ∧ u.apresent = (w 552).setWidth 32 ∧ u.mpresent = (w 560).setWidth 24 ∧ u.symlim = (w 568).setWidth 32
      ∧ (∀ r, u.refusal = some r ↔ bits (w 608) 16 8 ≠ 0
        ∧ r = ⟨(w 608).extractLsb' 16 8, (w 608).extractLsb' 24 8, (w 608).extractLsb' 0 16⟩)
      ∧ (∀ z, z < 16 → let off := 704 + 72 * z
        (bits (w (off + 64)) 62 2 = 0 → Tab.find u.streams z = none)
        ∧ (bits (w (off + 64)) 62 2 ≠ 0 → Tab.find u.streams z = some ⟨(List.range 8).map fun i => w (off + 8 * i),
          bits (w (off + 64)) 62 2 == 2, u.sup, bits (w (off + 64)) 0 48, [], none⟩))
      ∧ (∀ k, k < 4 → let off := 1856 + 32 * k
        (w (off + 8) = 0 → Tab.find u.wmset k = none)
        ∧ (w (off + 8) ≠ 0 → Tab.find u.wmset k
          = some ⟨w off, w (off + 8), w (off + 16), (w (off + 24)).extractLsb' 16 32, (w (off + 24)).extractLsb' 0 16⟩))
      ∧ u.resumed = none ∧ u.item = st.item ∧ u.queue = st.queue ∧ u.pend = [])

/-- R101, R105, R416: dispatch of an item to a strand: STATUS, the preloaded s1 to s9 and where it starts; a strand that
last ran another context has all else cleared, one of the same context keeps its registers (and FPCSR within a
launch). R427: a suspended item goes on at the resume vector of its context, in supervisor mode inside a trap, with
its image in HSCRA. -/
def Obligations.ItemsDispatchedAndResumed : Prop :=
  (∀ (s : State) (n : BitVec 10) (id o : Nat) (l : Launch), s.age.chosenFor n.toNat = some (id, l) →
      s.age.readySusp id (dieOf n.toNat) = none → l.nextItem (dieOf n.toNat) = some o → l.pbind = none →
      exec (.itemDispatch n) s = .next (tick 1 (dispatchItem n.toNat id l o s.age))
      ∧ (let x := s.ctxOf l.ctx
        let u := (dispatchItem n.toNat id l o s.age).strand n.toNat
        u.item = some ⟨id, o, l.ctx, l.level⟩ ∧ u.pc = l.entry.setWidth 56 ∧ u.trapbase = x.trapb ∧ u.kclass = l.cls
        ∧ u.sup = x.supv ∧ u.even = true ∧ u.intrap = false ∧ u.status.getLsbD 6 = false ∧ u.secure = x.sec ∧ u.sbchk = x.sbchk
        ∧ u.streams = [] ∧ u.syms = [] ∧ u.queue = [] ∧ u.mark = none ∧ u.events.ebudget = l.owed
        ∧ ((s.strand n.toNat).lastLaunch ≠ some id → u.fpcsr = 1)
        ∧ (Tab.rising (s.strand n.toNat).s = true → u.reg 7 = .conc l.args ∧ u.reg 8 = .conc (BitVec.ofNat 64 o)
          ∧ u.reg 9 = .conc (BitVec.ofNat 64 id) ∧ ∀ k, k < 6 → u.reg (k + 1) = .conc (l.index o k))
        ∧ ((s.strand n.toNat).lastCtx ≠ some l.ctx → (∀ k, 9 < k → u.reg k = .conc 0)
          ∧ u.p = 0 ∧ u.epc = 0 ∧ u.ecause = 0 ∧ u.eval = 0 ∧ u.hscra = 0 ∧ u.desc = [])
        ∧ (let old := (s.strand n.toNat).landAll
          old.lastCtx = some l.ctx → Tab.rising (s.strand n.toNat).s = true → (∀ k, 9 < k → u.reg k = old.reg k)
            ∧ u.p = old.p ∧ u.epc = old.epc ∧ u.ecause = old.ecause ∧ u.eval = old.eval ∧ u.hscra = old.hscra
            ∧ u.desc = old.desc ∧ u.apresent = old.apresent ∧ (old.lastLaunch = some id → u.fpcsr = old.fpcsr))))
  ∧ (∀ (s : State) (n : BitVec 10) (id : Nat) (l : Launch) (p : Susp), s.age.chosenFor n.toNat = some (id, l) →
      s.age.readySusp id (dieOf n.toNat) = some p →
      exec (.itemResume n) s = .next (tick 1 (resumeItem n.toNat id l p s.age))
      ∧ (let x := s.ctxOf p.item.ctx
        let t := resumeItem n.toNat id l p s.age
        let u := t.strand n.toNat
        t.susp = s.susp.erase p ∧ u.item = some { p.item with level := l.level } ∧ u.pc = (x.trapb + 0x600).setWidth 56
        ∧ u.hscra = p.image ∧ u.sup = true ∧ u.even = false ∧ u.intrap = true ∧ u.secure = x.sec ∧ u.s = [] ∧ u.p = 0
        ∧ u.trapbase = x.trapb ∧ u.events.ebudget = p.owed))

/-! ### Transfer engine -/

/-- R333, R337, R345, R349 to R358, R457: a command whose records, in the die's scratchpad here, keep the rules of its
description enters the queue of its channel under the channel's next identifier, which its destination receives; the
issue is a release (R86), so the strand's groups see its earlier stores (log 6). R333, R334, R347, R359, R360: XWAIT
gives XDONE once its identifier is complete and waits until then; the functions of XSTAT read a channel, and restart
or discard what stopped it. -/
def Obligations.TransferIssueAndChannels : Prop :=
  (∀ (s : State) (h : Hdr) (a b c : BitVec 6) (ch : BitVec 4) (ty : BitVec 3) (x y : Word) (off off' : Nat) (st : Strand),
      s.guarded h = true → s.here.takes a = true → s.here.sources [b, c] = some ([x, y], st) →
      let q := s.chan (s.cur / 8) ch.toNat
      q.isOpen = true →
      let r := s.record off
      let r' := s.record off'
      let issued (op : XOp) (r1 r2 acc : List Word) : Host.Outcome State Fault Refusal :=
        .next (s.acts h (st.performed.variable a (q.next.setWidth 64)) fun t => t.setChan (s.cur / 8) ch.toNat
          { q with next := q.next + 1, queue := q.queue
              ++ [⟨op, q.next, s.cur, s.here.itemId, s.here.ctx, s.here.sup, r1, r2, x, y, s.cycle, s.here.retired, 0, acc, none, none,
                false, s.here.wmset, []⟩] })
      (s.here.syms = [] → x.toNat % 65536 = 0 → bits y 0 24 ≠ 0 →
        exec (.xpromPro h a b c ch) s = issued (.prom false) [] [] [] ∧ exec (.xpromDem h a b c ch) s = issued (.prom true) [] [] [])
      ∧ (x.toNat % 64 = 0 → s.local x off 64 = true →
        (recordFits r 1 true = true → exec (.xfill h a b c ch) s = issued .fill r [] [])
        ∧ (c = 0 → 1 ≤ bits (r.getD 1 0) 0 32 → bits (r.getD 1 0) 0 32 ≤ 65536 → bits (r.getD 1 0) 32 32 = 0 →
          (∀ w ∈ r.drop 4, w = 0) → (r.getD 0 0).toNat % 65536 = 0 → (r.getD 2 0).toNat % 32 = 0 →
          (r.getD 3 0).toNat % 65536 = 0 → exec (.xckpt h a b ch) s = issued .ckpt r [] [])
        ∧ (bits (r.getD 4 0) 32 32 = 0 → bits (r.getD 6 0) 13 51 = 0 → bits (r.getD 6 0) 0 13 ≤ 4096 →
          bits (r.getD 4 0) 0 32 % 16 = 0 → 0 < bits (r.getD 4 0) 0 32 → bits (r.getD 4 0) 0 32 ≤ 65536 →
          (r.getD 3 0).toNat % 4 = 0 → (r.getD 5 0).toNat % 8 = 0 → exec (.xkv h a b c ch) s = issued .kv r [] [])
        ∧ (y.toNat % 64 = 0 → s.local y off' 64 = true →
          (patFmode r = patFmode r' → recCount r = recCount r' →
            (recordFits r 0 false = true → recordFits r' 1 true = true →
              (patEsize r = patEsize r' → exec (.xcopy h a b c ch) s = issued .copy r r' [])
              ∧ (patEsize r = 3 ∨ patEsize r = 4 → exec (.xgath h a b c ch) s = issued .gath r r' []))
            ∧ (recordFits r 0 true = true → recordFits r' 0 false = true → patEsize r = 3 ∨ patEsize r = 4 →
              exec (.xscat h a b c ch) s = issued .scat r r' []))
          ∧ (recordFits r 0 false = true → recordFits r' 1 true = true → patFmode r = 0 → patFmode r' = 0 →
            (patEsize r = patEsize r' → patNdim r = 1 → patNdim r' = 2 → (patAux r').toNat % 8 = 0 →
              exec (.xgath2 h a b c ch) s = issued .gath2 r r' [])
            ∧ (patEsize r = patEsize r' → patNdim r = patNdim r' → (∀ i, i < patNdim r → patExtent r i = patExtent r' i) →
              0 < patExtent r (patNdim r) → patTotal r (recCount r) ≤ 2 ^ 20 →
              patExtent r (patNdim r) ≤ patExtent r' (patNdim r) → exec (.xslide h a b c ch) s = issued .slide r r' [])
            ∧ (patEsize r = patEsize r' → recCount r = recCount r' → patTotal r (recCount r) ≤ 2 ^ 20 →
              exec (.xclass h a b c ch) s = issued .xclass r r' [])
            ∧ (patEsize r = redSize ty → patEsize r' = redSize ty → recCount r = recCount r' → (patAux r).toNat % 16 = 0 →
              (patAux r').toNat % 32 = 0 →
              exec (.xredAdd h a b c ty ch) s = issued (.red false ty) r r' []
              ∧ exec (.xredMax h a b c ty ch) s = issued (.red true ty) r r' []))
          ∧ (∀ g : Region, recordFits r' 1 true = true → patFmode r' = 0 → bits (patAux r') 16 48 = 0 →
            Tab.find s.regions (patAux r').toNat = some g → g.closing = false →
            g.ctx = s.here.ctx → g.sec = (s.ctxOf s.here.ctx).sec → g.boxBad r = false →
            patEsize r' ≠ 0 → patBytes r' = g.esz → recCount r' = g.volume r →
            exec (.xdense h a b c ch) s = issued .dense r r' [BitVec.ofNat 64 g.uid, BitVec.ofNat 64 s.nextTree]))))
  ∧ (∀ (s : State) (h : Hdr) (a b : BitVec 6) (ch : BitVec 4) (x : Word) (st : Strand), s.guarded h = true →
      s.here.takes a = true → s.here.sources [b] = some ([x], st) →
      let q := s.chan (s.cur / 8) ch.toNat
      let give (v : Word) : Host.Outcome State Fault Refusal := .next (s.completes h 8 (st.variable a v))
      let left (v : Word) (q' : Chan) : Host.Outcome State Fault Refusal :=
        .next (s.acts h (st.variable a v) fun t =>
          (dropAsks (.chan (s.cur / 8) ch.toNat) (t.setChan (s.cur / 8) ch.toNat q')).prune)
      let d := if (q.next - 1 - x.setWidth 32).toNat < 2 ^ 31 then x.setWidth 32 else q.next - 1
      ((∀ e ∈ q.queue, e.stop = none) →
        ((q.done - 1 - d).toNat < 2 ^ 31 → exec (.xwait h a b ch) s = give (q.done.setWidth 64))
        ∧ (2 ^ 31 ≤ (q.done - 1 - d).toNat → st = s.here → exec (.xwait h a b ch) s = .next (waitAt .plain s s)))
      ∧ exec (.xstatDone h a b ch) s = give (q.done.setWidth 64)
      ∧ exec (.xstatNext h a b ch) s = give (q.next.setWidth 64)
      ∧ (∀ l d v l', q.vals = l ++ (d, v) :: l' → d.setWidth 64 = x → (∀ p ∈ l, p.1 ≠ d) → exec (.xstatVal h a b ch) s = give v)
      ∧ ((∀ p ∈ q.vals, p.1.setWidth 64 ≠ x) → exec (.xstatVal h a b ch) s = give 0xFFFFFFFFFFFFFFFF)
      ∧ ((∀ e ∈ q.queue, e.stop = none) →
        exec (.xstatFault h a b ch) s = give 0 ∧ exec (.xstatFaddr h a b ch) s = give 0
        ∧ exec (.xstatResume h a b ch) s = give 0 ∧ exec (.xstatAbort h a b ch) s = give 0)
      ∧ (∀ e rest code sub v, q.queue = e :: rest → e.stop = some (code, sub, v) →
        exec (.xstatFault h a b ch) s = give (e.id ++ (0 : BitVec 16) ++ sub ++ code)
        ∧ exec (.xstatFaddr h a b ch) s = give v
        ∧ (e.ctx = s.here.ctx ∨ s.here.sup = true →
          exec (.xstatResume h a b ch) s = left 1 { q with queue := { e with stop := none, told := false } :: rest }
          ∧ ∃ q' : Chan, exec (.xstatAbort h a b ch) s = left (BitVec.ofNat 64 q.queue.length) q'
            ∧ q'.queue = [] ∧ q'.next = q.next ∧ q'.done = q.done + BitVec.ofNat 32 q.queue.length
            ∧ q'.vals.length ≤ 16 ∧ ∃ l, q'.vals = l ++ (q.queue.drop (q.queue.length - 16)).map fun e => (e.id, 0xFFFFFFFFFFFFFFFF))
        ∧ (e.ctx ≠ s.here.ctx → s.here.sup = false → st = s.here →
          exec (.xstatResume h a b ch) s = .next (s.traps .priv 0 0) ∧ exec (.xstatAbort h a b ch) s = .next (s.traps .priv 0 0))))

/-- R341, R342, R344: SBIND binds a stream to a record that suits it, SFREE unbinds one whose elements are all written; a
fill buffers the next element of an input stream, a drain writes the oldest of an output stream. The record of SBIND and
the elements lie in the die's scratchpad here. -/
def Obligations.StreamResults : Prop :=
  ∀ (s : State) (h : Hdr) (b : BitVec 6) (z : BitVec 4) (va : Word) (off : Nat) (st : Strand) (n : BitVec 10) (x : Stream),
    let free := { s.here with streams := Tab.erase s.here.streams z.toNat }
    let drops (t : Strand) : Host.Outcome State Fault Refusal := .next (s.acts h t (dropAsks (.stream s.cur z.toNat)))
    (s.guarded h = true → s.here.lent z.toNat = false →
      (Tab.find s.here.streams z.toNat = none → exec (.sfree h z) s = .next (s.completes h 8 s.here))
      ∧ (Tab.find s.here.streams z.toNat = some x → x.out = false ∨ (x.fail = none ∧ x.buf = []) →
        exec (.sfree h z) s = drops free)
      ∧ (Tab.find s.here.streams z.toNat = some x → x.out = true → x.fail = none → x.buf ≠ [] →
        exec (.sfree h z) s = .next (waitAt .plain s s))
      ∧ (b.toNat < 48 → s.here.sources [b] = some ([va], s.here) → va.toNat % 64 = 0 → s.local va off 64 = true →
        let r := s.record off
        recordFits r (patDir r) false = true → patFmode r = 0 → patEsize r ≤ 4 →
        (Tab.find s.here.streams z.toNat = none → exec (.sbind h z b) s = .next (s.completes h 8
          { s.here.performed with streams := Tab.insert s.here.streams z.toNat ⟨r, patDir r == 1, s.here.sup, 0, [], none⟩ }))
        ∧ (Tab.find s.here.streams z.toNat = some x → x.out = false ∨ (x.fail = none ∧ x.buf = []) →
          exec (.sbind h z b) s = drops
            { free.performed with streams := Tab.insert free.streams z.toNat ⟨r, patDir r == 1, s.here.sup, 0, [], none⟩ })))
    ∧ (let u := s.strand n.toNat
      let r := x.record
      let m := 2 ^ (patEsize r - 1)
      let put (y : Stream) (t : State) : Host.Outcome State Fault Refusal :=
        .next (tick 1 (wake (t.setStrand n.toNat { u with streams := Tab.insert u.streams z.toNat y })))
      Tab.find u.streams z.toNat = some x → x.fail = none → 1 ≤ patEsize r → patEsize r ≤ 4 → u.wmset = [] → s.remotes = [] →
      (∀ i, i < recCount r → inWindow (patAddr r i).1 = true) →
      (x.out = false → x.buf.length < 64 → x.next + x.buf.length < recCount r →
        s.engineLocal (n.toNat / 128) (patAddr r (x.next + x.buf.length)).1 off m = true →
        let v := leNat (s.pad (n.toNat / 128) off m)
        exec (.streamFill n z) s = put { x with buf := x.buf
          ++ [if patSign r then (BitVec.ofNat (8 * m) v).signExtend 64 else BitVec.ofNat 64 v] } s)
      ∧ (∀ v rest, x.out = true → x.buf = v :: rest →
        s.engineLocal (n.toNat / 128) (patAddr r (x.next - x.buf.length)).1 off m = true →
        exec (.streamDrain n z) s = put { x with buf := rest }
          { s with mem := Memory.setBytes s.mem (scratchKey (n.toNat / 128) off) (leBytes v.toNat m) }))

/-- R332, R333, R334, R338, R349, R353: a command at the head of its channel does its work, here XFILL and XCOPY over any
pattern of whole bytes whose elements lie in the die's scratchpad, element by element in ordinal order; then it
completes with its value, XDONE moves on and the latest 16 values are kept. R338, R350 to R355, R357, R358, R457: what
every other command of a channel does where its elements of whole bytes lie in the die's scratchpad (XCLASS reads its
source outside it): the bytes it stores, element by element in ordinal order, what it counts, and its value. `f`, `g`
and `k` give the offsets of the elements of its two records and of the table entries its indices name; XRED is shown
for integers. R482, R483: an install puts a promoted page in its frame at one instant, a late one counts in PROMLATE;
a removal takes it out. The page holds no line with an error here, and no XPROM asked for the move. -/
def Obligations.TransferCommandsAndPromotions : Prop :=
  (∀ (s : State) (cl : BitVec 7) (ch : BitVec 4) (e : XEntry) (rest : List XEntry) (f g : Nat → Nat),
      let q := s.chan cl.toNat ch.toNat
      let d := cl.toNat / 16
      q.queue = e :: rest → e.stop = none → s.remotes = [] → s.wf = true →
      (e.value = none → e.elem = 0 → e.slots = [] → e.part = [] →
        let writes (r : List Word) (step : Memory → Nat → Memory) : Prop :=
          1 ≤ patEsize r → patEsize r ≤ 4 → patBaren r = false →
          (∀ i, i < recCount r → s.engineLocal d (patAddr r i).1 (f i) (patBytes r) = true) →
          ∃ t : State, exec (.transferCommandStart cl ch) s = .next (tick 1 (wake t))
            ∧ t = { s with mem := (List.range (recCount r)).foldl step s.mem, clusters := t.clusters }
            ∧ t.chan cl.toNat ch.toNat
              = { q with queue := { e with elem := recCount r, value := some (BitVec.ofNat 64 (recCount r)) } :: rest }
            ∧ ∀ k j, (k ≠ cl.toNat ∨ j ≠ ch.toNat) → t.chan k j = s.chan k j
        (e.op = .fill → writes e.r1 fun m i => Memory.setBytes m (scratchKey d (f i)) (leBytes e.a2.toNat (patBytes e.r1)))
        ∧ (e.op = .copy → patEsize e.r1 = patEsize e.r2 → recCount e.r1 = recCount e.r2 →
          (∀ i, i < recCount e.r1 → s.engineLocal d (patAddr e.r1 i).1 (g i) (patBytes e.r1) = true) →
          writes e.r2 fun m i => Memory.setBytes m (scratchKey d (f i)) (Memory.bytes m (scratchKey d (g i)) (patBytes e.r2))))
      ∧ (∀ v, e.value = some v → (e.burgee = none) →
        exec (.transferCommandComplete cl ch) s = .next (tick 1 (wake (s.setChan cl.toNat ch.toNat { q with
          queue := rest
          done := q.done + 1
          vals := (q.vals ++ [(e.id, v)]).drop (q.vals.length + 1 - 16) }).prune))))
  ∧ (∀ (s : State) (cl : BitVec 7) (ch : BitVec 4) (e : XEntry) (rest : List XEntry) (f g k l x : Nat → Nat),
      let q := s.chan cl.toNat ch.toNat
      let d := cl.toNat / 16
      q.queue = e :: rest → e.stop = none → e.value = none → e.elem = 0 → e.slots = [] → e.part = [] →
      s.remotes = [] → s.wf = true → e.burgee = none →
      let r1 := e.r1
      let r2 := e.r2
      let w := patBytes r2
      let n := recCount r2
      let lies (va : Word) (off k : Nat) : Prop := s.engineLocal d va off k = true
      let rd (m : Memory) (off k : Nat) : Nat := leNat (Memory.bytes m (scratchKey d off) k)
      let put (m : Memory) (off : Nat) (bs : List Byte) : Memory := Memory.setBytes m (scratchKey d off) bs
      let upTo (step : Memory → Nat → Memory) (n : Nat) : Memory := (List.range n).foldl step s.mem
      let ends (elem : Nat) (acc : List Word) (v : Word) (m : Memory) : Prop :=
        ∃ t : State, exec (.transferCommandStart cl ch) s = .next (tick 1 (wake t))
          ∧ t = { s with mem := m, clusters := t.clusters }
          ∧ t.chan cl.toNat ch.toNat = { q with queue := { e with elem := elem, acc := acc, value := some v } :: rest }
          ∧ ∀ i j, (i ≠ cl.toNat ∨ j ≠ ch.toNat) → t.chan i j = s.chan i j
      let whole (r : List Word) : Prop := 1 ≤ patEsize r ∧ patEsize r ≤ 4
      let index (v : Nat) : Int := if patSign r1 then (BitVec.ofNat (8 * patBytes r1) v).toInt else v
      let entry (v : Nat) : Word := patAux r1 + BitVec.ofInt 64 (index v * w)
      (whole r1 → whole r2 → (∀ i, i < n → lies (patAddr r2 i).1 (g i) w) →
        ((∀ i, i < n → lies (patAddr r1 i).1 (f i) (patBytes r1)) →
          (e.op = .gath → (∀ i, i < n → lies (entry (x i)) (k i) w) →
            let step (m : Memory) (i : Nat) : Memory := put m (g i) (Memory.bytes m (scratchKey d (k i)) w)
            (∀ i, i < n → rd (upTo step i) (f i) (patBytes r1) = x i) → ends n e.acc (BitVec.ofNat 64 n) (upTo step n))
          ∧ (e.op = .scat → (∀ i, i < n → lies (entry (x i)) (k i) w) →
            let step (m : Memory) (i : Nat) : Memory := put m (k i) (Memory.bytes m (scratchKey d (g i)) w)
            (∀ i, i < n → rd (upTo step i) (f i) (patBytes r1) = x i) → ends n e.acc (BitVec.ofNat 64 n) (upTo step n))
          ∧ (∀ b ty, e.op = .red b ty → ty.toNat < 4 → patEsize r1 = redSize ty → patEsize r2 = redSize ty →
            let num (sign : Bool) (v : Nat) : Int := if sign then (BitVec.ofNat (8 * w) v).toInt else v
            let res (m : Memory) (i : Nat) : Nat :=
              let v := rd m (f i) w
              let o := rd m (g i) w
              if b then (if num (patSign r1) o < num (patSign r1) v then v else o) else (o + v) % 2 ^ (8 * w)
            let step (m : Memory) (i : Nat) : Memory := put m (g i) (leBytes (res m i) w)
            let sum (y : Nat → Int) : Word := (List.range n).foldl (fun a i => a + BitVec.ofInt 64 (y i)) 0
            let sumIn := sum fun i => num (patSign r1) (rd (upTo step i) (f i) w)
            let sumOut := sum fun i => num (patSign r2) (res (upTo step i) i)
            let told : Word := BitVec.ofNat 64 (rd (upTo step n) (k 0) 8)
            let bad : Bool := patAux r1 != 0 && sumIn != told
            let record : List Byte := leBytes sumOut.toNat 8 ++ leBytes 0 8 ++ leBytes (if bad = true then 0x100 else 0) 8 ++ leBytes 0 8
            let m := if patAux r2 = 0 then upTo step n else put (upTo step n) (k 1) record
            e.acc = [] → 0 < n → (patAux r1 ≠ 0 → lies (patAux r1) (k 0) 8) → (patAux r2 ≠ 0 → lies (patAux r2) (k 1) 32) →
              (bad = false → ends n [sumIn, 0, sumOut, 0, 0] (BitVec.ofNat 64 n) m)
              ∧ (bad = true → ∃ t : State, exec (.transferCommandStart cl ch) s = .next (tick 1 (wake t)) ∧ t.mem = m
                ∧ t.chan cl.toNat ch.toNat = { q with queue := { e with
                    elem := n, acc := [sumIn, 0, sumOut, 0, 0], value := some (BitVec.ofNat 64 n ||| 0x8000000000000000) } :: rest })))
        ∧ (e.op = .gath2 → patEsize r1 = patEsize r2 → patNdim r2 = 2 →
          let pw := patExtent r2 0
          let ph := patExtent r2 1
          let col (i : Nat) : Int := (BitVec.ofNat 32 (x i)).toInt + (i % pw : Nat)
          let row (i : Nat) : Int := (BitVec.ofNat 32 (x i / 2 ^ 32)).toInt + (i / pw % ph : Nat)
          let inside (i : Nat) : Prop := 0 ≤ col i ∧ col i < patExtent r1 0 ∧ 0 ≤ row i ∧ row i < patExtent r1 1
          let step (m : Memory) (i : Nat) : Memory :=
            put m (g i) (if 0 ≤ col i ∧ col i < patExtent r1 0 ∧ 0 ≤ row i ∧ row i < patExtent r1 1
              then Memory.bytes m (scratchKey d (f i)) w else leBytes (patAux r1).toNat w)
          (∀ i, i < n → inside i → lies (patAddr r1 ((col i).toNat + patExtent r1 0 * (row i).toNat)).1 (f i) w) →
          (∀ i, i < n → lies (patAux r2 + BitVec.ofNat 64 (8 * (i / (pw * ph)))) (k i) 8) →
          (∀ i, i < n → rd (upTo step i) (k i) 8 = x i) → ends n e.acc (BitVec.ofNat 64 n) (upTo step n))
        ∧ (e.op = .slide → patEsize r1 = patEsize r2 → (∀ i, i < recCount r1 → lies (patAddr r1 i).1 (f i) w) →
          let gone := recCount r1
          gone = patExtent r1 (patNdim r1) * rowOf r2 → gone ≤ n →
          ends 0 e.acc (BitVec.ofNat 64 n) (upTo (fun m i => put m (g i) (Memory.bytes s.mem
            (scratchKey d (if i < n - gone then g (i + gone) else f (i - (n - gone)))) w)) n))
        ∧ (e.op = .xclass → patEsize r1 = patEsize r2 → recCount r1 = n →
          let who := (e.eng cl.toNat ch.toNat).w
          (∀ i, i < n → (patAddr r1 i).1.toNat % 65536 + w ≤ 65536 ∧ s.lineClass (f i) ≠ 0
            ∧ (∃ kd, check who .rd (patAddr r1 i).1 s = .ok (.mem (f i), kd) s)
            ∧ ∃ bs, readPlace who (.mem (f i)) w (patAddr r1 i).1 s = .ok (bs, none) s ∧ leNat bs = x i) →
          ends 0 e.acc (BitVec.ofNat 64 n) (upTo (fun m i => put m (g i) (leBytes (x i) w)) n))
        ∧ (∀ b : Region, e.op = .dense → Tab.find s.regions (bits (patAux r2) 0 16) = some b → b.bad = false →
          b.faulted = false → b.uid = (e.acc.getD 0 0).toNat → s.treeOps = [] →
          ends n e.acc (BitVec.ofNat 64 n) (upTo (fun m i => put m (g i) (leBytes (b.get (b.boxKey r1 i)) w)) n)))
      ∧ (e.op = .kv → e.acc = [] →
        let b := bits (r1.getD 4 0) 0 32
        let pre := bits (r1.getD 1 0) 0 32
        let ring := bits (r1.getD 1 0) 32 32
        let m := bits (r1.getD 6 0) 0 13
        let slot (i : Nat) : Nat := (x i - pre) % ring
        let tagged (mm : Memory) (i : Nat) : Bool := decide (rd mm (l i) 4 = (x i - pre) / ring % 2 ^ 32)
        let ok (mm : Memory) (i : Nat) : Bool := decide (x i < pre) || (decide (ring ≠ 0) && tagged mm i)
        let step (mm : Memory) (i : Nat) : Memory :=
          put mm (g i) (if ok mm i = true then Memory.bytes mm (scratchKey d (k i)) b else List.replicate b 0)
        let oks : List Bool := (List.range m).map fun i => ok (upTo step i) i
        let count := (oks.filter id).length
        (∀ i, i < m → lies (r1.getD 5 0 + BitVec.ofNat 64 (8 * i)) (f i) 8 ∧ rd (upTo step i) (f i) 8 = x i
          ∧ lies (e.a2 + BitVec.ofNat 64 (i * b)) (g i) b ∧ (x i < pre → lies (r1.getD 0 0 + BitVec.ofNat 64 (x i * b)) (k i) b)
          ∧ (pre ≤ x i → ring ≠ 0 → lies (r1.getD 3 0 + BitVec.ofNat 64 (4 * slot i)) (l i) 4
            ∧ lies (r1.getD 2 0 + BitVec.ofNat 64 (slot i * b)) (k i) b)) →
        lies (r1.getD 7 0) (g m) ((m + 7) / 8) →
        ∃ mask : List Byte, mask.length = (m + 7) / 8
          ∧ (∀ i, i < 8 * mask.length → (mask.getD (i / 8) 0).getLsbD (i % 8) = oks.getD i false)
          ∧ ends m (oks.map fun o => if o then 1 else 0) (BitVec.ofNat 64 count) (put (upTo step m) (g m) mask))
      ∧ (e.op = .ckpt → e.acc = [] →
        let m := bits (r1.getD 1 0) 0 32
        let page (j i : Nat) : Word := r1.getD j 0 + BitVec.ofNat 64 (i * 65536)
        (∀ i, i < m → lies (page 0 i) (f i) 65536 ∧ lies (r1.getD 2 0 + BitVec.ofNat 64 (i * 32)) (k i) 32
          ∧ lies (page 3 i) (g i) 65536) →
        let block (mm : Memory) (i : Nat) : List Byte := Memory.bytes mm (scratchKey d (f i)) 65536
        let same (mm : Memory) (i : Nat) : Bool := sha256 (block mm i) == Memory.bytes mm (scratchKey d (k i)) 32
        let step (mm : Memory) (i : Nat) : Memory :=
          if same mm i = true then mm else put (put mm (g i) (block mm i)) (k i) (sha256 (block mm i))
        let count := ((List.range m).filter fun i => !same (upTo step i) i).length
        ends m (if count = 0 then [] else [BitVec.ofNat 64 count]) (BitVec.ofNat 64 count) (upTo step m)))
  ∧ (∀ (s : State) (pa : BitVec 52) (j : PromJob), let page := pa.toNat / 65536
      (∀ l ∈ s.poisoned ++ s.flips.map Prod.fst, l / 1024 ≠ page) → j.owner = none →
      (Tab.find s.promoting page = some j →
        let late := ∃ x, j.deadline = some x ∧ x.toNat < s.cycle.toNat
        ∃ t : State, exec (.promotionInstall pa) s = .next (tick 1 (wake t))
          ∧ t = { s with promoting := Tab.erase s.promoting page, promoted := Tab.insert s.promoted page j.frame,
                         promlate := t.promlate }
          ∧ (late → s.promlate ≠ 0xFFFFFFFF → t.promlate = s.promlate + 1) ∧ (¬ late → t.promlate = s.promlate))
      ∧ (Tab.find s.demoting page = some j → exec (.demotionRemove pa) s = .next (tick 1 (wake
          { s with demoting := Tab.erase s.demoting page, promoted := Tab.erase s.promoted page }))))

/-! ### Matrix engine -/

/-- R370, R372, R375, R378 to R380, R384 to R386, R388, R389: a matrix command enters the queue of its engine under the
engine's next number, which its destination receives; an engine last bound to another context starts clean. The record
of MCFG lies in the die's scratchpad here. The issue is a release, so the strand's groups see its earlier stores (R86,
log 6). R372, R382, R383, R390, R391: MWAIT gives MDONE once its number is complete and waits until then; the
functions of MSTAT read an engine, and restart or complete what stopped it. -/
def Obligations.MatrixIssueAndEngineFunctions : Prop :=
  (∀ (s : State) (h : Hdr) (a b c : BitVec 6) (frm mem ovw f : BitVec 1) (tl tl' : BitVec 3) (rows cols : BitVec 7)
      (mask : BitVec 8) (x y : Word) (off : Nat) (st : Strand),
      s.guarded h = true → s.here.takes a = true → s.here.sources [b, c] = some ([x, y], st) → s.here.syms = [] →
      let m := s.mx (s.cur / 8)
      (∀ e ∈ m.queue, e.ctx = s.here.ctx ∧ e.stop = none) → m.queue.length < 16 →
      let clean : Matrix := if m.bound = some s.here.ctx then m
        else { m with tiles := [], cfg := List.replicate 8 0, ev := 0, bound := some s.here.ctx }
      let issued (op : MOp) (start : Nat) : Host.Outcome State Fault Refusal :=
        .next (s.acts h (st.performed.variable a (m.next.setWidth 64)) fun t => t.setMx (s.cur / 8)
          { clean with next := m.next + 1, queue := m.queue
              ++ [⟨op, m.next, s.here.itemId, s.here.ctx, s.here.sup, x, y, start, 0, false, none, false⟩] })
      (∀ kind exec',
        (kind = MKind.mma ∧ exec' = exec (.mma h a b c frm mem ovw tl)) ∨ (kind = .mmax ∧ exec' = exec (.mmax h a b c frm mem ovw tl))
          ∨ (kind = .mconv ∧ exec' = exec (.mconv h a b c frm mem ovw tl)) →
        (frm = 0 → exec' s = issued (.prod kind (ovw == 1) (mem == 1) tl.toNat) 0)
        ∧ (frm = 1 → s.here.queue = [] → exec' s = issued (.prod kind (ovw == 1) (mem == 1) tl.toNat) s.here.estart.toNat))
      ∧ exec (.mlda h a b c f cols rows tl) s = issued (.lda (f == 1) tl.toNat rows.toNat cols.toNat) 0
      ∧ exec (.msta h a b c cols rows tl) s = issued (.sta tl.toNat rows.toNat cols.toNat) 0
      ∧ exec (.mquant h a b c f cols rows tl) s = issued (.quant (f == 1) tl.toNat rows.toNat cols.toNat) 0
      ∧ exec (.msoft h a b c cols rows tl) s = issued (.soft tl.toNat rows.toNat cols.toNat) 0
      ∧ (c = 0 → exec (.mamax h a b cols rows tl) s = issued (.amax tl.toNat rows.toNat cols.toNat) 0)
      ∧ (b = 0 → c = 0 → exec (.mzero h a mask) s = issued (.zero mask) 0
        ∧ exec (.mtrans h a tl tl') s = issued (.trans tl'.toNat tl.toNat) 0)
      ∧ (c = 0 → x.toNat % 64 = 0 → s.local x off 64 = true → mcfgBad (s.record off) = false →
        exec (.mcfg h a b) s = issued (.cfg (s.record off)) 0))
  ∧ (∀ (s : State) (h : Hdr) (a b : BitVec 6) (x : Word) (st : Strand), s.guarded h = true →
      s.here.takes a = true → s.here.sources [b] = some ([x], st) →
      let m := s.mx (s.cur / 8)
      let give (v : Word) : Host.Outcome State Fault Refusal := .next (s.completes h 8 (st.variable a v))
      let left (v : Word) (m' : Matrix) : Host.Outcome State Fault Refusal :=
        .next (s.acts h (st.variable a v) fun t => (t.setMx (s.cur / 8) m').prune)
      let other (t : MTask) : Prop := t.on = some (s.cur / 8) ∧ t.written = false ∧ t.ctx ≠ s.here.ctx
      let d := if (m.next - 1 - x.setWidth 32).toNat < 2 ^ 31 then x.setWidth 32 else m.next - 1
      ((∀ e ∈ m.queue, e.stop = none) →
        ((m.done - 1 - d).toNat < 2 ^ 31 → exec (.mwait h a b) s = give (m.done.setWidth 64))
        ∧ (2 ^ 31 ≤ (m.done - 1 - d).toNat → st = s.here → exec (.mwait h a b) s = .next (waitAt .plain s s))
        ∧ exec (.mstatFault h a b) s = give 0 ∧ exec (.mstatFaddr h a b) s = give 0 ∧ exec (.mstatRow h a b) s = give 0
        ∧ exec (.mstatResume h a b) s = give 0 ∧ exec (.mstatAbort h a b) s = give 0)
      ∧ exec (.mstatDone h a b) s = give (m.done.setWidth 64)
      ∧ exec (.mstatNext h a b) s = give (m.next.setWidth 64)
      ∧ (∀ e rest code sub v, m.queue = e :: rest → e.stop = some (code, sub, v) →
        exec (.mstatFault h a b) s = give (e.num ++ (0 : BitVec 16) ++ sub ++ code)
        ∧ exec (.mstatFaddr h a b) s = give v ∧ exec (.mstatRow h a b) s = give (BitVec.ofNat 64 e.row)
        ∧ (e.ctx = s.here.ctx ∨ s.here.sup = true →
          (s.here.queue = [] → exec (.mstatResume h a b) s = left 1
            { m with queue := { e with start := s.here.estart.toNat, stop := none, told := false } :: rest })
          ∧ exec (.mstatAbort h a b) s = left (BitVec.ofNat 64 m.queue.length) { m with queue := [], done := m.next })
        ∧ (e.ctx ≠ s.here.ctx → s.here.sup = false → st = s.here →
          exec (.mstatResume h a b) s = .next (s.traps .priv 0 0) ∧ exec (.mstatAbort h a b) s = .next (s.traps .priv 0 0)))
      ∧ (m.bound = none ∨ m.bound = some s.here.ctx → (∀ t ∈ (s.die (s.cur / 128)).tasks, ¬ other t) →
        exec (.mstatEv h a b) s
          = .next (s.acts h (st.variable a (m.ev.setWidth 64)) fun t => t.setMx (s.cur / 8) { m with ev := 0 })
        ∧ ∃ w : Word, exec (.mstatFmt h a b) s = give w ∧ w.toNat < 256 ∧ ∀ k, k < 8 → w.getLsbD k = (m.tile k).f64)
      ∧ ((∃ c, m.bound = some c ∧ c ≠ s.here.ctx) ∨ (∃ t ∈ (s.die (s.cur / 128)).tasks, other t) →
        exec (.mstatEv h a b) s = give 0 ∧ exec (.mstatFmt h a b) s = give 0))

/-- R392, R393, R394, R395: MQUE stores a record in the slot of the queue's tail ordinal, raises the tail and gives the
ordinal; MWAIT.task gives the status of a task that has ended. Header, record and slot lie in the die's scratchpad
here. R396: MSAVE writes the image of an engine that holds no command and gives its size; MREST restores an engine
from an image this boot made for the same context, bound to the context whose tiles it holds (R370), and answers 1, 2
or 3 otherwise. The command records of the image are free values (log 12), its check a hash that is left open (log
10). -/
def Obligations.TaskQueuesAndEngineImages : Prop :=
  (∀ (s : State) (h : Hdr) (a b c : BitVec 6) (x y : Word) (off off' so : Nat) (st : Strand), s.guarded h = true →
      s.here.takes a = true → s.here.sources [b, c] = some ([x, y], st) → x.toNat % 64 = 0 → s.local x off 64 = true →
      let hd := s.record off
      let cap := bits (hd.getD 1 0) 0 17
      let head := hd.getD 2 0
      let tail := hd.getD 3 0
      let slot (ord : Word) : Word := hd.getD 0 0 + BitVec.ofNat 64 (ord.toNat % cap * 64)
      taskHeaderBad hd = false →
      (y.toNat % 64 = 0 → s.local y off' 64 = true → s.local (slot tail) so 64 = true → taskRecordBad (s.record off') tail = false →
        tail.toNat < head.toNat + cap → ((s.die (s.cur / 128)).queues.contains (.scratch (s.cur / 128) off) = true
          ∨ (s.die (s.cur / 128)).queues.length < 64) →
        let stored := (s.record off').set 6 0
        exec (.mque h a b c) s = .next (s.acts h (st.performed.variable a tail) fun t =>
          let u := (t.putScratch so (stored.flatMap fun w => leBytes w.toNat 8)).putScratch (off + 24) (leBytes (tail.toNat + 1) 8)
          u.setDie (s.cur / 128) { s.die (s.cur / 128) with tasks := (s.die (s.cur / 128)).tasks
            ++ [⟨.scratch (s.cur / 128) off, x, hd.getD 0 0, cap, tail.toNat, s.here.itemId, s.here.ctx, s.here.sup, stored, none,
              none, false, false⟩] }))
      ∧ (y.toNat < head.toNat → exec (.mwaitTask h a b c) s = .next (s.completes h 8 (st.variable a 0x8000000000000000)))
      ∧ (head.toNat ≤ y.toNat → y.toNat < tail.toNat → s.local (slot y + 48) so 8 = true →
        let w := s.scratchWord so 0
        (w.getLsbD 63 = true → w.getLsbD 62 = false → exec (.mwaitTask h a b c) s = .next (s.completes h 8 (st.variable a w)))
        ∧ (w.getLsbD 63 = false → st = s.here → exec (.mwaitTask h a b c) s = .next (waitAt .plain s s))))
  ∧ (∀ (s : State) (h : Hdr) (a b : BitVec 6) (off : Nat) (st : Strand), s.guarded h = true → s.here.takes a = true →
      s.here.sources [b] = some ([scratchAddr off], st) → off % 64 = 0 → off + imageSize ≤ 2 ^ 25 →
      (∀ k ∈ (s.die (s.cur / 128)).owner, k < off / 65536 ∨ (off + imageSize) / 65536 < k) →
      s.here.syms = [] → s.here.wmset = [] →
      let m := s.mx (s.cur / 8)
      (m.queue = [] → m.cfg.length = 8 → (∀ t ∈ (s.die (s.cur / 128)).tasks, t.on ≠ some (s.cur / 8)) →
        ∃ bytes : List Byte, ∃ m' : Matrix, m' = { m with done := m.next }
          ∧ bytes = mxImageBytes (s.mgmt.bootKey.getD 0) m' (s.ctxid s.here.ctx) (freeBytes s.free 1024)
          ∧ exec (.msave h a b) s = .next (s.acts h (st.variable a (BitVec.ofNat 64 imageSize)) fun t =>
            let image : MImage := ⟨bytes, m'⟩
            let u : State := { t.putScratch off bytes with images := s.images ++ [image], free := s.free + 1024 }
            (u.setMx (s.cur / 8) m').prune))
      ∧ (let bytes := s.scratch off imageSize
        let give (v : Word) : Host.Outcome State Fault Refusal := .next (s.completes h 8 (st.variable a v))
        ((∀ i ∈ s.images, i.bytes ≠ bytes) → exec (.mrest h a b) s = give 1)
        ∧ (∀ l i r, s.images = l ++ i :: r → i.bytes = bytes → (∀ j ∈ l, j.bytes ≠ bytes) →
          (s.scratchWord off 2 ≠ s.ctxid s.here.ctx → exec (.mrest h a b) s = give 2)
          ∧ (s.scratchWord off 2 = s.ctxid s.here.ctx → m.queue ≠ [] → exec (.mrest h a b) s = give 3)
          ∧ (s.scratchWord off 2 = s.ctxid s.here.ctx → m.queue = [] → exec (.mrest h a b) s
            = .next (s.acts h (st.variable a 0) fun t => t.setMx (s.cur / 8) { i.mx with
                bound := if i.mx.bound.isSome then i.mx.bound else some s.here.ctx })))))

/-- R372, R375, R378, R381, R384, R385: a matrix engine runs the command at the head of its queue: MCFG, MZERO, MTRANS,
MLDA of a region of the die's scratchpad, and MMA in FP64 of one element, which rounds the exact sum once; a command
that has done its work completes and MDONE moves on. R374, R378 to R380, R384, R386, R388, R389: the other commands,
on regions and operands in the die's scratchpad: MSTA stores a region, MAMAX raises a word to the greatest magnitude,
MQUANT and MSOFT work row by row, and MMA, MMAX and MCONV in the tile form, for operands of whole bytes without block
scales, give each element of C the sum of the products of a row of A and a column of B, in the order R258 and R260
give. R257, R259, R260, R388, R389: what the numbers of the commands are, apart from the model's own functions: the
block of R388's example and others worked out by hand from R257, an all-zero block and one that is not finite; the sum
orders of R260, chunk by chunk and step by step, with R259's sum; and the rows of R389's example and the special rows. -/
def Obligations.MatrixCommandRuns : Prop :=
  (∀ (s : State) (cl : BitVec 7) (e : MCmd) (rest : List MCmd), let m := s.mx cl.toNat
      m.queue = e :: rest →
      (e.finished = true → exec (.matrixCommandComplete cl) s
        = .next (tick 1 (wake (s.setMx cl.toNat { m with queue := rest, done := m.done + 1 })).prune))
      ∧ (e.finished = false → e.stop = none → s.remotes = [] →
        (∀ t ∈ (s.die (cl.toNat / 16)).tasks, t.on ≠ some cl.toNat) →
        let did (m' : Matrix) (row : Nat) : Host.Outcome State Fault Refusal := .next (tick 1 (wake (s.setMx cl.toNat
          { m' with queue := { e with row := row, finished := true } :: rest })))
        (∀ r, e.op = .cfg r → exec (.matrixCommandRun cl) s = did { m with cfg := r } e.row)
        ∧ (∀ mask, e.op = .zero mask → ∃ m' : Matrix, exec (.matrixCommandRun cl) s = did m' e.row
          ∧ m' = { m with tiles := m'.tiles } ∧ ∀ t, m'.tile t = if mask.getLsbD t then MTile.reset else m.tile t)
        ∧ (∀ i j, e.op = .trans j i → Tab.rising (m.tile i).cells = true → Tab.rising m.tiles = true →
          ∃ m' : Matrix, exec (.matrixCommandRun cl) s = did m' e.row ∧ m' = { m with tiles := m'.tiles }
            ∧ (∀ t, t ≠ j → m'.tile t = m.tile t) ∧ (m'.tile j).f64 = (m.tile i).f64
            ∧ ∀ r c, r < 96 → c < 96 → (m'.tile j).get r c = (m.tile i).get c r)
        ∧ (∀ f64 t rows cols (o : Nat → Nat → Nat), e.op = .lda f64 t rows cols → rows < 96 → cols < 96 →
          (f64 = true → rows < 48 ∧ cols < 48) → Tab.rising m.tiles = true → Tab.rising (m.tile t).cells = true →
          let n := if f64 then 8 else 4
          (∀ i j, i ≤ rows → j ≤ cols → o i j % n = 0
            ∧ s.engineLocal (cl.toNat / 16) (e.a1 + BitVec.ofNat 64 i * e.a2 + BitVec.ofNat 64 (j * n)) (o i j) n = true) →
          ∃ m' : Matrix, exec (.matrixCommandRun cl) s = did m' e.row ∧ m' = { m with tiles := m'.tiles }
            ∧ (∀ u, u ≠ t → m'.tile u = m.tile u) ∧ (m'.tile t).f64 = f64
            ∧ ∀ r c, r < 96 → c < 96 → (m'.tile t).get r c
              = if r ≤ rows ∧ c ≤ cols then BitVec.ofNat 64 (leNat (s.pad (cl.toNat / 16) (o r c) n))
                else if (m.tile t).f64 = f64 then (m.tile t).get r c else 0)
        ∧ (∀ t oa ob, e.op = .prod .mma false false t → e.start = 0 → mcfgM m.cfg = 1 → mcfgN m.cfg = 1 → mcfgK m.cfg = 1 →
          mcfgAcc m.cfg = true → mcfgA m.cfg = 3 → mcfgB m.cfg = 3 → (m.tile t).f64 = true → Tab.rising m.tiles = true →
          Tab.rising (m.tile t).cells = true → oa % 8 = 0 → ob % 8 = 0 →
          s.engineLocal (cl.toNat / 16) e.a1 oa 8 = true → s.engineLocal (cl.toNat / 16) e.a2 ob 8 = true →
          let x := fv (BitVec.ofNat 64 (leNat (s.pad (cl.toNat / 16) oa 8)))
          let y := fv (BitVec.ofNat 64 (leNat (s.pad (cl.toNat / 16) ob 8)))
          let z := fv ((m.tile t).get 0 0)
          ∀ p, x.isNan = false → y.isNan = false → z.isNan = false → x.mul y = some p →
            let r := arith b64 1 false [z, p] (z.add 1 p)
            ∃ m' : Matrix, exec (.matrixCommandRun cl) s = did m' 1 ∧ m' = { m with tiles := m'.tiles, ev := m.ev ||| r.2.row }
              ∧ (m'.tile t).get 0 0 = BitVec.ofNat 64 r.1 ∧ (m'.tile t).f64 = true
              ∧ (∀ u, u ≠ t → m'.tile u = m.tile u) ∧ ∀ i j, j < 96 → (i ≠ 0 ∨ j ≠ 0) → (m'.tile t).get i j = (m.tile t).get i j)))
  ∧ (∀ (s : State) (cl : BitVec 7) (e : MCmd) (rest : List MCmd) (o p : Nat → Nat → Nat) (x y : Nat → Nat),
      let m := s.mx cl.toNat
      let d := cl.toNat / 16
      m.queue = e :: rest → e.finished = false → e.stop = none → s.remotes = [] → s.wf = true →
      (∀ t ∈ (s.die d).tasks, t.on ≠ some cl.toNat) → Tab.rising m.tiles = true →
      let lies (va : Word) (off n : Nat) : Prop := off % n = 0 ∧ s.engineLocal d va off n = true
      let did (mem : Memory) (m' : Matrix) (row : Nat) : Prop := exec (.matrixCommandRun cl) s = .next (tick 1 (wake
        (({ s with mem := mem } : State).setMx cl.toNat { m' with queue := { e with row := row, finished := true } :: rest })))
      let put (off v n : Nat) (mem : Memory) : Memory := Memory.setBytes mem (scratchKey d off) (leBytes v n)
      let each (rows cols : Nat) (f : Nat → Nat → Memory → Memory) (mem : Memory) : Memory :=
        (List.range rows).foldl (fun mem i => (List.range cols).foldl (fun mem j => f i j mem) mem) mem
      (∀ t rows cols, let n := if (m.tile t).f64 then 8 else 4
        rows < 96 → cols < 96 → ((m.tile t).f64 = true → rows < 48 ∧ cols < 48) →
        (e.op = .sta t rows cols → (∀ i j, i ≤ rows → j ≤ cols →
            lies (e.a1 + BitVec.ofNat 64 i * e.a2 + BitVec.ofNat 64 (j * n)) (o i j) n) →
          did (each (rows + 1) (cols + 1) (fun i j => put (o i j) ((m.tile t).get i j).toNat n) s.mem) m e.row)
        ∧ (∀ v, e.op = .amax t rows cols → lies e.a1 (x 0) n →
          (∀ i j, i ≤ rows → j ≤ cols → ((m.tile t).get i j).toNat % 2 ^ (8 * n - 1) ≤ v) →
          (∃ i j, i ≤ rows ∧ j ≤ cols ∧ ((m.tile t).get i j).toNat % 2 ^ (8 * n - 1) = v) →
          did (put (x 0) (Nat.max (leNat (s.pad d (x 0) n)) v) n s.mem) m e.row))
      ∧ (∀ f t rows cols, e.op = .quant f t rows cols → rows < 96 → cols < 96 → (m.tile t).f64 = false →
        let blocks := (cols + 1) / 32
        let block (i j : Nat) := mxQuantBlock (if f then 0x0E else 0x0D) ((List.range 32).map fun k => ((m.tile t).get i (32 * j + k)).toNat)
        (cols + 1) % 32 = 0 →
        (∀ i j, i ≤ rows → j ≤ cols → lies (e.a1 + BitVec.ofNat 64 (i * (cols + 1) + j)) (o i j) 1) →
        (∀ i j, i ≤ rows → j < blocks → lies (e.a2 + BitVec.ofNat 64 (i * blocks + j)) (p i j) 1) →
        ∃ m' : Matrix, did (each (rows + 1) blocks (fun i j mem => put (p i j) (block i j).2.1 1
            ((List.range 32).foldl (fun mem k => put (o i (32 * j + k)) ((block i j).1.getD k 0) 1 mem) mem)) s.mem) m' e.row
          ∧ m' = { m with ev := m'.ev } ∧ ∀ b, m'.ev.getLsbD b = true ↔
            m.ev.getLsbD b = true ∨ ∃ i j, i ≤ rows ∧ j < blocks ∧ (block i j).2.2.getLsbD b = true)
      ∧ (∀ t rows cols, e.op = .soft t rows cols → rows < 96 → cols < 96 → (m.tile t).f64 = false →
        Tab.rising (m.tile t).cells = true →
        let row (i : Nat) := softRow ((List.range (cols + 1)).map fun j => ((m.tile t).get i j).toNat)
          ((List.range (cols + 1)).map fun j => (leNat (s.pad d (o i 0) 16)).testBit j)
        (∀ i, i ≤ rows → lies (e.a1 + BitVec.ofNat 64 (16 * i)) (o i 0) 16 ∧ lies (e.a2 + BitVec.ofNat 64 (4 * i)) (p i 0) 4) →
        lies e.a2 (p 0 0) 16 → lies (e.a2 + 384) (x 0) 16 →
        ∃ m' : Matrix, ∃ empty : Nat, did (put (x 0) empty 16 (each (rows + 1) 1 (fun i _ => put (p i 0) (row i).2.1 4) s.mem)) m' e.row
          ∧ (∀ i, empty.testBit i = (decide (i ≤ rows) && (row i).2.2.1)) ∧ m' = { m with tiles := m'.tiles, ev := m'.ev }
          ∧ (∀ u, u ≠ t → m'.tile u = m.tile u) ∧ (m'.tile t).f64 = false
          ∧ (∀ b, m'.ev.getLsbD b = true ↔ m.ev.getLsbD b = true ∨ ∃ i, i ≤ rows ∧ (row i).2.2.2.row.getLsbD b = true)
          ∧ ∀ i j, i < 96 → j < 96 → (m'.tile t).get i j
            = if i ≤ rows ∧ j ≤ cols then BitVec.ofNat 64 ((row i).1.getD j 0) else (m.tile t).get i j)
      ∧ (∀ kind ovw t, e.op = .prod kind ovw false t → e.start = 0 →
        let c := m.cfg
        let acc := mcfgAcc c
        let ta := mcfgA c
        let tb := mcfgB c
        let ea := mxHalves ta / 2
        let eb := mxHalves tb / 2
        let side := if acc then 48 else 96
        1 ≤ mcfgM c → mcfgM c ≤ side → 1 ≤ mcfgN c → mcfgN c ≤ side → isMx ta = false → isMx tb = false →
        2 ≤ mxHalves ta → 2 ≤ mxHalves tb → (ovw = false → (m.tile t).f64 = acc) → Tab.rising (m.tile t).cells = true →
        (kind = .mconv → MProd.convBad ⟨mxWho cl.toNat e.ctx e.sup false, kind, ovw, e.a1, e.a2, 0, c⟩ = false) →
        (kind = .mma → ∀ i, x i = i) →
        (kind = .mmax → ∀ i, i < mcfgM c → lies (c.getD 6 0 + BitVec.ofNat 64 (4 * i)) (y i) 4 ∧ leNat (s.pad d (y i) 4) = x i) →
        let span := recBits c 6 8 8
        let cin := recBits c 6 16 16
        let col (i k : Nat) : Int := (i * recBits c 6 32 8 + k / cin % span : Nat) - (recBits c 6 40 8 : Nat)
        let src (i k : Nat) : Option Word :=
          if kind = .mconv then
            if 0 ≤ col i k ∧ col i k < recBits c 6 48 16 then
              some (e.a1 + BitVec.ofNat 64 (k / cin / span * mcfgAStride c) + BitVec.ofNat 64 (((col i k).toNat * cin + k % cin) * ea))
            else none
          else some (e.a1 + BitVec.ofNat 64 (x i * mcfgAStride c) + BitVec.ofNat 64 (k * ea))
        (∀ i k va, i < mcfgM c → k < mcfgK c → src i k = some va → lies va (o i k) ea) →
        (∀ k j, k < mcfgK c → j < mcfgN c →
          lies (e.a2 + BitVec.ofNat 64 (k * mcfgBStride c) + BitVec.ofNat 64 (j * eb)) (p k j) eb) →
        let code (tag off n : Nat) : FV := codeValue tag (mxWidth tag) 0 (leNat (s.pad d off n) % 2 ^ mxWidth tag)
        let a (i k : Nat) : FV := if (src i k).isSome then code ta (o i k) ea else .fin false 0 1
        let products (i j : Nat) : List (FV × FV) := (List.range (mcfgK c)).map fun k => (a i k, code tb (p k j) eb)
        let was (i j : Nat) : Nat := if ovw then 0 else ((m.tile t).get i j).toNat
        let sum (i j : Nat) : Nat × Ev := if acc then sum64 (was i j) Ev.none (products i j)
          else sum32 (was i j) Ev.none ((by32 (mcfgK c) (products i j)).map some)
        ∃ m' : Matrix, did s.mem m' (mcfgM c) ∧ m' = { m with tiles := m'.tiles, ev := m'.ev }
          ∧ (∀ u, u ≠ t → m'.tile u = m.tile u) ∧ (m'.tile t).f64 = acc
          ∧ (∀ i j, i < 96 → j < 96 → (m'.tile t).get i j = if i < mcfgM c ∧ j < mcfgN c then BitVec.ofNat 64 (sum i j).1
              else if (m.tile t).f64 = acc then (m.tile t).get i j else 0)
          ∧ ∀ b, m'.ev.getLsbD b = true ↔
            m.ev.getLsbD b = true ∨ ∃ i j, i < mcfgM c ∧ j < mcfgN c ∧ (sum i j).2.row.getLsbD b = true))
  ∧ (let zeros (n : Nat) : List Nat := List.replicate n 0
    let one : FV := .fin false 1 1
    let inexact : Ev := ⟨true, false, false, false, false⟩
    let invalid : Ev := ⟨false, false, false, false, true⟩
    (∀ tag cs, (∃ c ∈ cs, (b32.decode c).isFin = false) → mxQuantBlock tag cs = (cs.map fun _ => 0, 0xFF, 1))
    ∧ (∀ tag cs, (∀ c ∈ cs, c = 0 ∨ c = 0x80000000) → mxQuantBlock tag cs = (cs.map fun _ => 0, 0, 0))
    ∧ mxQuantBlock 0x0D ([0x40A9999A, 0xBF333333, 0x3CF5C28F, 0x3F800000] ++ zeros 28)
      = ([0x55, 0xF5, 0x00, 0x10] ++ zeros 28, 0x81, 0x18)
    ∧ mxQuantBlock 0x0D (0x40FFAE14 :: zeros 31) = (127 :: zeros 31, 0x81, 0x14)
    ∧ mxQuantBlock 0x0E ([0x3F800000, 0xBF000000] ++ zeros 30) = ([0x78, 0xF0] ++ zeros 30, 0x77, 0)
    ∧ (∀ (n : Nat) (l : List (FV × FV)), l.length ≤ n → (by32 n l).flatten = l ∧ (by32 n l).length = (l.length + 31) / 32
      ∧ ∀ k, k < (by32 n l).length → (by32 n l).getD k [] = (l.drop (32 * k)).take 32)
    ∧ (∀ acc e ps qs, sum64 acc e (ps ++ qs) = sum64 (sum64 acc e ps).1 (sum64 acc e ps).2 qs)
    ∧ (∀ acc e cs ds, sum32 acc e (cs ++ ds) = sum32 (sum32 acc e cs).1 (sum32 acc e cs).2 ds)
    ∧ sum32 0x4B800000 Ev.none [some [(.fin true 13781 1, .fin false 1 16384)]] = (0x4B7FFFFF, inexact)
    ∧ sum32 0 Ev.none [some [(.fin false 16777216 1, one), (one, one), (one, one)]] = (0x4B800001, Ev.none)
    ∧ sum32 0 Ev.none [some [(.fin false 16777216 1, one)], some [(one, one)], some [(one, one)]] = (0x4B800000, inexact)
    ∧ sum32 0 Ev.none [some [(.inf false, .fin false 0 1)], some [(one, one)]] = (0x7FC00000, invalid)
    ∧ sum32 0 Ev.none [some [(.inf false, one), (.inf true, one)]] = (0x7FC00000, invalid)
    ∧ sum32 0 Ev.none [some [(.inf false, one)], some [(one, one)]] = (0x7F800000, Ev.none)
    ∧ sum64 0xBFF0000000000000 Ev.none [(.fin false 1073741825 1073741824, .fin false 1073741825 1073741824)]
      = (0x3E20000000200000, Ev.none)
    ∧ sum64 0 Ev.none [(.inf false, .fin false 0 1), (one, one)] = (0x7FF8000000000000, invalid)
    ∧ softRow [0x40000000, 0x40000000, 0x40A00000, 0x40000000] [true, true, false, true]
      = ([0x3EAAAAAB, 0x3EAAAAAB, 0, 0x3EAAAAAB], 0x40464FAA, false, inexact)
    ∧ softRow [0x7F800000, 0x7F800000, 0x3F800000] [true, true, true] = ([0x3F000000, 0x3F000000, 0], 0x7F800000, false, Ev.none)
    ∧ softRow [0xC1200000, 0x40E00000] [true, false] = ([0x3F800000, 0], 0xC1200000, false, Ev.none)
    ∧ ∀ cs keep, cs.length = keep.length →
      ((∀ i, keep.getD i false = true → cs.getD i 0 = 0xFF800000) → softRow cs keep = (cs.map fun _ => 0, 0xFF800000, true, Ev.none))
      ∧ ((∃ i, keep.getD i false = true ∧ (b32.decode (cs.getD i 0)).isNan = true) →
        softRow cs keep = (cs.map fun _ => 0x7FC00000, 0x7FC00000, false, invalid)))

/-- R394: a die's scheduler gives the first ready task (the one MQUE made first, where several queues have one ready: log 61)
to its free engine of the lowest cluster; a task that has ended
writes its status word, and the queue's head passes it unless it has failed. Header and slot lie in the die's scratchpad. -/
def Obligations.MatrixTasksRun : Prop :=
  ∀ (s : State) (die : BitVec 3) (cl : BitVec 7) (l r : List MTask) (t : MTask) (x : MEnd) (i off so : Nat),
    let d := cl.toNat / 16
    (i < 16 → (s.die die.toNat).tasks = l ++ t :: r → t.on = none → t.ended = none →
      (∀ u ∈ l ++ r, u.on = none → u.ended = none → ∃ w, taskReady die.toNat u s = (w, s) ∧ w ≠ some false) →
      taskReady die.toNat t s = (some true, s) →
      (∀ u ∈ l, u.on = none → u.ended = none → taskReady die.toNat u s = (none, s)) →
      (∀ u ∈ l ++ r, u.q ≠ t.q ∨ u.ord ≠ t.ord) →
      s.engineFree (16 * die.toNat + i) = true → (∀ j, j < i → s.engineFree (16 * die.toNat + j) = false) →
      exec (.matrixTaskIssue die) s = .next (tick 1 (wake (s.setDie die.toNat { s.die die.toNat with
        tasks := l ++ { t with on := some (16 * die.toNat + i) } :: r }))))
    ∧ ((s.die d).tasks = [t] → t.on = some cl.toNat → t.written = false → t.ended = some x →
      s.engineLocal d t.hdr off 64 = true → s.engineLocal d (t.base + BitVec.ofNat 64 (t.ord % t.cap * 64)) so 64 = true →
      (off + 64 ≤ so ∨ so + 64 ≤ off) → 1 ≤ t.cap → t.ord < 2 ^ 63 →
      (∀ p ∈ s.dies, p.1 ≠ d → p.2.tasks = []) → Memory.wf s.mem = true → Tab.rising s.dies = true →
      leNat (s.pad d (off + 16) 8) = t.ord → leNat (s.pad d (off + 24) 8) = t.ord + 1 →
      let put (o v : Nat) (m : Memory) : Memory := Memory.setBytes m (scratchKey d o) (leBytes v 8)
      ∃ u : State, exec (.matrixTaskComplete cl) s = .next (tick 1 (wake u.prune))
        ∧ u = { s with mem := u.mem, dies := u.dies } ∧ (u.die d) = { s.die d with tasks := (u.die d).tasks }
        ∧ (∀ k, k ≠ d → u.die k = s.die k)
        ∧ (x.fail = none → u.mem = put (off + 16) (t.ord + 1) (put (so + 48) x.word.toNat s.mem) ∧ (u.die d).tasks = [])
        ∧ (x.fail.isSome = true → t.taken = false → u.mem = put (so + 48) x.word.toNat s.mem
          ∧ (u.die d).tasks = [{ t with written := true, ended := some x }]))


/-! ### Associative engine -/

/-- R46, R198, R213, R216, R217, R229: an associative instruction without a scalar result enters the queue of the held
groups with its operands, symbolic ones included. -/
def Obligations.AssocIssueResults : Prop :=
  ∀ (s : State) (h : AHdr) (nst : BitVec 4) (fd fa fb md ma mb sb k : BitVec 5) (mg fx mx c : BitVec 6) (rc : BitVec 3)
    (sat rev ff v : BitVec 1) (tbl z : BitVec 4) (nm1 : BitVec 2) (o : SvOpnd) (p : AOpnd) (q : CmpOpnd) (w : Word),
    let t := s.here
    let enters (rc : BitVec 3) (op : AOp) (x : Option (SVal × Strand)) (y : Option (BitVec 5)) (i : Instr) : Prop :=
      ∀ vx vy st st', s.queues op h.mg.toNat = true → x = some (vx, st) →
        (∀ b, y = some b → st.carried (b.setWidth 6) = some (vy, st')) → (y = none → vy = .conc 0 ∧ st' = st) →
        exec i s = .next (s.queued h.stall 8 0 h.mg.toNat (t.rmode rc) op vx vy st')
    let image (op : AOp) (i : Instr) : Prop := ∀ vx st, s.queues op 24 = true → t.carried c = some (vx, st) →
      exec i s = .next (s.queued nst 8 0 24 (t.rmode 0) op vx (.conc 0) st)
    enters 0 (.awhile md.toNat) (t.sv o) (some sb) (.awhile h md sb o)
    ∧ enters 0 (.asrch 0 md.toNat fa.toNat) (t.sv o) none (.asrchSet h md fa o)
    ∧ enters 0 (.asrch 1 md.toNat fa.toNat) (t.sv o) none (.asrchAnd h md fa o)
    ∧ enters 0 (.asrch 2 md.toNat fa.toNat) (t.sv o) none (.asrchOr h md fa o)
    ∧ enters 0 (.acmp 0 (cmpRev q) md.toNat fa.toNat (cmpSrc q)) (t.co q) none (.acmpEq h md fa q)
    ∧ enters 0 (.acmp 1 (cmpRev q) md.toNat fa.toNat (cmpSrc q)) (t.co q) none (.acmpNe h md fa q)
    ∧ enters 0 (.acmp 2 (cmpRev q) md.toNat fa.toNat (cmpSrc q)) (t.co q) none (.acmpLt h md fa q)
    ∧ enters 0 (.acmp 3 (cmpRev q) md.toNat fa.toNat (cmpSrc q)) (t.co q) none (.acmpGe h md fa q)
    ∧ enters 0 (.mlog md.toNat ma.toNat mb.toNat tbl) (some (.conc 0, t)) none (.mlog h md ma mb tbl)
    ∧ enters 0 (.mset md.toNat (v == 1)) (some (.conc 0, t)) none (.mset h md v)
    ∧ enters 0 (.awr fd.toNat) (t.sv o) none (.awr h fd o)
    ∧ enters 0 (.amov fd.toNat fa.toNat) (some (.conc 0, t)) none (.amov h fd fa)
    ∧ enters 0 (.anext false md.toNat ma.toNat) (some (.conc 0, t)) none (.anextClr h md ma)
    ∧ enters 0 (.anext true md.toNat ma.toNat) (some (.conc 0, t)) none (.anextOne h md ma)
    ∧ enters 0 (.atopk false md.toNat fa.toNat) (t.sv o) none (.atopkMax h md fa o)
    ∧ enters 0 (.atopk true md.toNat fa.toNat) (t.sv o) none (.atopkMin h md fa o)
    ∧ enters 0 (.awrrow fd.toNat) (t.carried c) (some sb) (.awrrow h fd sb c)
    ∧ enters rc (.arith .add fd.toNat fa.toNat (aSrc p) false (sat == 1)) (t.ao p) none (.aadd h fd fa rc sat p)
    ∧ enters rc (.arith .sub fd.toNat fa.toNat (aSrc p) (rev == 1) (sat == 1)) (t.ao p) none (.asub h fd fa rc sat rev p)
    ∧ enters rc (.arith .mul fd.toNat fa.toNat (aSrc p) false (sat == 1)) (t.ao p) none (.amul h fd fa rc sat p)
    ∧ enters rc (.arith .fma fd.toNat fa.toNat (aSrc p) false (sat == 1)) (t.ao p) none (.afma h fd fa rc sat p)
    ∧ enters rc (.arith .div fd.toNat fa.toNat (aSrc p) (rev == 1) (sat == 1)) (t.ao p) none (.adiv h fd fa rc sat rev p)
    ∧ enters 0 (.arith .rem fd.toNat fa.toNat (aSrc p) (rev == 1) (sat == 1)) (t.ao p) none (.arem h fd fa sat rev p)
    ∧ enters rc (.arith .abs fd.toNat fa.toNat .op false (sat == 1)) (some (.conc 0, t)) none (.aabs h fd fa rc sat)
    ∧ enters rc (.arith .neg fd.toNat fa.toNat .op false (sat == 1)) (some (.conc 0, t)) none (.aneg h fd fa rc sat)
    ∧ enters rc (.arith .sqrt fd.toNat fa.toNat .op false (sat == 1)) (some (.conc 0, t)) none (.asqrt h fd fa rc sat)
    ∧ enters 0 (.sel false fd.toNat fa.toNat (aSrc p)) (t.ao p) none (.amin h fd fa p)
    ∧ enters 0 (.sel true fd.toNat fa.toNat (aSrc p)) (t.ao p) none (.amax h fd fa p)
    ∧ enters 0 (.logic 0 fd.toNat fa.toNat (aSrc p)) (t.ao p) none (.alogAnd h fd fa p)
    ∧ enters 0 (.logic 1 fd.toNat fa.toNat (aSrc p)) (t.ao p) none (.alogOr h fd fa p)
    ∧ enters 0 (.logic 2 fd.toNat fa.toNat (aSrc p)) (t.ao p) none (.alogXor h fd fa p)
    ∧ enters 0 (.logic 3 fd.toNat fa.toNat (aSrc p)) (t.ao p) none (.alogAndn h fd fa p)
    ∧ enters 0 (.shift 0 (sat == 1) fd.toNat fa.toNat (aSrc p)) (t.ao p) none (.ashfShl h fd fa sat p)
    ∧ enters 0 (.shift 1 (sat == 1) fd.toNat fa.toNat (aSrc p)) (t.ao p) none (.ashfShr h fd fa sat p)
    ∧ enters 0 (.shift 2 (sat == 1) fd.toNat fa.toNat (aSrc p)) (t.ao p) none (.ashfSra h fd fa sat p)
    ∧ enters 0 (.shift 3 (sat == 1) fd.toNat fa.toNat (aSrc p)) (t.ao p) none (.ashfRot h fd fa sat p)
    ∧ enters rc (.cvt (sat == 1) fd.toNat fa.toNat) (some (.conc 0, t)) none (.acvt h fd fa rc sat)
    ∧ enters 0 (.clamp fd.toNat fa.toNat) (t.carried c) (some sb) (.aclamp h fd fa sb c)
    ∧ enters 0 (.ham (sat == 1) fd.toNat fa.toNat (aSrc p)) (t.ao p) none (.aham h fd fa sat p)
    ∧ enters 0 (.lut fd.toNat fa.toNat) (t.carried c) (some sb) (.alut h fd fa sb c)
    ∧ enters 0 (.shr fd.toNat fa.toNat) (t.sv o) none (.ashr h fd fa o)
    ∧ enters rc (.scan .add (sat == 1) fd.toNat fa.toNat) (some (.conc 0, t)) none (.ascanAdd h fd fa rc sat)
    ∧ enters rc (.scan .min (sat == 1) fd.toNat fa.toNat) (some (.conc 0, t)) none (.ascanMin h fd fa rc sat)
    ∧ enters rc (.scan .max (sat == 1) fd.toNat fa.toNat) (some (.conc 0, t)) none (.ascanMax h fd fa rc sat)
    ∧ enters rc (.scan .or (sat == 1) fd.toNat fa.toNat) (some (.conc 0, t)) none (.ascanOr h fd fa rc sat)
    ∧ enters rc (.segr .add (sat == 1) fd.toNat fa.toNat mb.toNat) (some (.conc 0, t)) none (.asegrAdd h fd fa mb rc sat)
    ∧ enters rc (.segr .min (sat == 1) fd.toNat fa.toNat mb.toNat) (some (.conc 0, t)) none (.asegrMin h fd fa mb rc sat)
    ∧ enters rc (.segr .max (sat == 1) fd.toNat fa.toNat mb.toNat) (some (.conc 0, t)) none (.asegrMax h fd fa mb rc sat)
    ∧ enters rc (.segr .or (sat == 1) fd.toNat fa.toNat mb.toNat) (some (.conc 0, t)) none (.asegrOr h fd fa mb rc sat)
    ∧ enters rc (.pair false (sat == 1) fd.toNat fa.toNat fb.toNat) (some (.conc 0, t)) none (.aspi h fd fa fb rc sat)
    ∧ enters rc (.pair true (sat == 1) fd.toNat fa.toNat fb.toNat) (some (.conc 0, t)) none (.aspu h fd fa fb rc sat)
    ∧ enters 0 (.plenSet fd.toNat) (t.sv o) none (.asplenSet h fd o)
    ∧ enters 0 (.plenMask md.toNat fa.toNat) (some (.conc 0, t)) none (.asplenMask h md fa)
    ∧ enters 0 (.app none md.toNat) (t.carried c) none (.aappIdx h md c)
    ∧ enters 0 (.app (some fa.toNat) md.toNat) (t.carried c) none (.aappVal h md fa c)
    ∧ enters 0 (.conf md.toNat fa.toNat) (some (.conc 0, t)) none (.aconf h md fa)
    ∧ enters 0 (.intv 0 md.toNat fa.toNat) (t.carried c) (some sb) (.aintvCc h md fa sb c)
    ∧ enters 0 (.intv 1 md.toNat fa.toNat) (t.carried c) (some sb) (.aintvCo h md fa sb c)
    ∧ enters 0 (.intv 2 md.toNat fa.toNat) (t.carried c) (some sb) (.aintvOc h md fa sb c)
    ∧ enters 0 (.intv 3 md.toNat fa.toNat) (t.carried c) (some sb) (.aintvOo h md fa sb c)
    ∧ enters 0 (.chk md.toNat fa.toNat) (some (.conc 0, t)) none (.achk h md fa)
    ∧ enters 0 (.fill (sat == 1) fd.toNat) (t.sv o) none (.afill h fd sat o)
    ∧ enters 0 (.bcast fd.toNat fa.toNat) (t.sv o) none (.abcast h fd fa o)
    ∧ enters 0 (.qnt false fd.toNat fa.toNat) (t.sv o) none (.aqnt h fd fa o)
    ∧ enters 0 (.qnt true fd.toNat fa.toNat) (some (.conc 0, t)) none (.aqntKeep h fd fa)
    ∧ enters rc (.dqnt (sat == 1) fd.toNat fa.toNat) (t.ao p) none (.adqnt h fd fa rc sat p)
    ∧ enters 0 (.ld (ff == 1) .lin fd.toNat) (t.carried c) none (.ald h fd ff c)
    ∧ enters 0 (.ld (ff == 1) (.idx fb.toNat) fd.toNat) (t.carried c) none (.aldx h fd fb ff c)
    ∧ enters 0 (.ld (ff == 1) .str fd.toNat) (t.carried c) (some sb) (.alds h fd sb ff c)
    ∧ enters rc (.ldseg (sat == 1) (nm1.toNat + 1) fd.toNat) (t.carried c) (some sb) (.aldseg h fd sb rc sat nm1 c)
    ∧ enters 0 (.st .lin fa.toNat) (t.carried c) none (.ast h fa c)
    ∧ enters 0 (.st (.idx fb.toNat) fa.toNat) (t.carried c) none (.astx h fa fb c)
    ∧ enters 0 (.st .str fa.toNat) (t.carried c) (some sb) (.asts h fa sb c)
    ∧ enters rc (.stseg (sat == 1) (nm1.toNat + 1) fa.toNat) (t.carried c) (some sb) (.astseg h fa sb rc sat nm1 c)
    ∧ (∀ u, Tab.find t.streams z.toNat = some u → u.out = false →
      enters 0 (.amatch md.toNat fa.toNat z.toNat) (some (.conc 0, t)) (some sb) (.amatch h md fa sb z))
    ∧ image (.amode false) (.amodeAs nst c)
    ∧ image (.amode true) (.amodeSt nst c)
    ∧ image (.save .f k.toNat) (.asaveF nst k c)
    ∧ image (.save .m k.toNat) (.asaveM nst k c)
    ∧ image (.save .desc k.toNat) (.asaveDesc nst k c)
    ∧ image (.save .ev k.toNat) (.asaveEv nst k c)
    ∧ image (.rstr .f k.toNat) (.arstrF nst k c)
    ∧ image (.rstr .m k.toNat) (.arstrM nst k c)
    ∧ image (.rstr .desc k.toNat) (.arstrDesc nst k c)
    ∧ image (.rstr .ev k.toNat) (.arstrEv nst k c)
    ∧ (s.queues (.awr fx.toNat) mg.toNat = true → exec (.awrx nst mg fx w) s
      = .next (s.queued nst 16 w mg.toNat (t.rmode 0) (.awr fx.toNat) (.conc w) (.conc 0) t))
    ∧ (s.queues (.asrch 0 mx.toNat fx.toNat) 24 = true → exec (.asrchx nst mx fx w) s
      = .next (s.queued nst 16 w 24 (t.rmode 0) (.asrch 0 mx.toNat fx.toNat) (.conc w) (.conc 0) t))
    ∧ (∀ d st, s.queues (.awr fd.toNat) 24 = true → t.sources [c] = some ([d], st) → dValid (s.view s.cur).rows d = true →
      exec (.afcfg nst fd c) s = .next (s.queued nst 8 0 24 0 (.afcfg fd.toNat) (.conc d) (.conc 0)
        { st with desc := Tab.put 0 st.desc fd.toNat d }))

/-- R198, R277: an associative instruction with a scalar result allocates a symbol for its destination register; into s0
it gives nothing; for an output stream it waits until its result is there and then enqueues it. -/
def Obligations.AssocScalarResults : Prop :=
  ∀ (s : State) (h : AHdr) (fa ma sb : BitVec 5) (d : BitVec 6),
    let mode := s.here.rmode 0
    let gives (op : AOp) (y : Option (SVal × Strand)) (i : BitVec 6 → Instr) : Prop :=
      ∀ vy st, s.queues op h.mg.toNat = true → y = some (vy, st) →
        (d = 0 → exec (i d) s = .next (s.queued h.stall 8 0 h.mg.toNat mode op (.conc 0) vy st))
        ∧ (∀ k, d ≠ 0 → d.toNat < 48 → s.here.freeSym = some k →
          let u := st.withEntry (s.entry 0 h.mg.toNat mode op (.conc 0) vy (some k) false)
          exec (i d) s = .next (retire h.stall (s.here.pc + 8) (s.setHere
            (({ u with syms := Tab.insert u.syms k ⟨.assoc, 2, none, false, false, false, 0, none⟩ }.forget d.toNat).setReg d.toNat (.aff k 1 0)))))
        ∧ (48 ≤ d.toNat → st = s.here →
          ((∀ r, s.here.part ≠ some (.result r)) → s.here.takes d = true → exec (i d) s = .next (waitAt .plain s (s.setHere
            ({ s.here with part := some (.result none) }.withEntry (s.entry 0 h.mg.toNat mode op (.conc 0) vy none true)))))
          ∧ (s.here.part = some (.result none) → exec (i d) s = .next (waitAt .plain s s))
          ∧ (∀ w, s.here.part = some (.result (some w)) → s.here.takes d = true → exec (i d) s
            = .next (retire h.stall (s.here.pc + 8) (s.setHere (s.here.enqueue (d.toNat - 48) w)))))
    gives (.apopM ma.toNat) (some (.conc 0, s.here)) (fun d => .apopM h ma d)
    ∧ gives (.apopF fa.toNat) (some (.conc 0, s.here)) (fun d => .apopF h fa d)
    ∧ gives (.afirst false ma.toNat) (some (.conc 0, s.here)) (fun d => .afirstFirst h ma d)
    ∧ gives (.afirst true ma.toNat) (some (.conc 0, s.here)) (fun d => .afirstLast h ma d)
    ∧ gives (.aext false false fa.toNat) (some (.conc 0, s.here)) (fun d => .aextMax h fa d)
    ∧ gives (.aext true false fa.toNat) (some (.conc 0, s.here)) (fun d => .aextMin h fa d)
    ∧ gives (.aext false true fa.toNat) (some (.conc 0, s.here)) (fun d => .aextMaxidx h fa d)
    ∧ gives (.aext true true fa.toNat) (some (.conc 0, s.here)) (fun d => .aextMinidx h fa d)
    ∧ gives (.ardrow fa.toNat) (s.here.carried (sb.setWidth 6)) (fun d => .ardrow h fa sb d)


/-! ### None -/

/-- R22, R225, R230, R231, R232, R236, R237, R497: holding and draining the queue of the held groups, reading its state,
gating arrays, and replacing microcode, of one group or of all, from an image in the die's scratchpad whose signature
is left open (log 11); ALIM waits for a group that is busy, AUCODE for one that is held. The order of the statuses of
AUCODE is the model's choice (log 118), and that launches age before it waits is its reading (log 68). That bits 34 to
31 of AESTAT 0 are 0 for groups that are held and have not stopped is the model's choice (log 98). R318, R319, R320:
ADUMP writes the husk of a queue whose operands are all values to the die's scratchpad and leaves the queue empty and
held; AUNDMP restores a husk this boot made for the same context, class and number of groups. The body is a free value
(log 12) and the check a hash that is left open (log 10). That ADUMP lets the strand's pending writes land is the
model's reading (log 47, DEDUCED). -/
def Obligations.AssocControlAndHusks : Prop :=
  (∀ (s : State) (h : Hdr) (a b c d : BitVec 6) (x y : Word) (off : Nat) (st : Strand), s.guarded h = true →
      let t := s.here
      let g := (s.heldOf s.cur).length
      let give (v : Word) : Host.Outcome State Fault Refusal := .next (s.completes h 8 (t.variable d v))
      let gone : Strand → Strand := fun u =>
        { u with queue := [], astop := none, adeliver := none, estart := 0, ahold := false }
      let drops (u : Strand) : Host.Outcome State Fault Refusal := .next (s.acts h u (dropAsks (.group s.cur)))
      (g = 0 → exec (.aholdStop h) s = .next (s.completes h 8 t) ∧ exec (.aholdGo h) s = .next (s.completes h 8 t)
        ∧ exec (.aholdDrop h) s = .next (s.completes h 8 t) ∧ exec (.await h) s = .next (s.completes h 8 t))
      ∧ (g ≠ 0 → exec (.aholdGo h) s = .next (s.completes h 8 { t with ahold := false, astop := none })
        ∧ (t.astop = none → (∀ e ∈ t.queue.head?, e.prog.begun = false) →
          exec (.aholdStop h) s = .next (s.completes h 8 { t with ahold := true })
          ∧ ((∀ e ∈ t.queue, e.sym = none) → exec (.aholdDrop h) s = drops (gone t))
          ∧ (∀ e k, t.queue = [e] → e.sym = some k →
            exec (.aholdDrop h) s = drops (gone ({ t with ahold := true }.spoil k .failed))))
        ∧ (t.queue = [] ∨ t.astop.isSome = true ∨ t.ahold = true → exec (.await h) s = .next (s.completes h 8 t))
        ∧ (t.queue ≠ [] → t.astop = none → t.ahold = false → exec (.await h) s
          = .next (waitAt .plain s (s.setHere { t with inside := some .fence }))))
      ∧ (t.takes d = true →
        (g = 0 → exec (.aestatState h d) s = give 0 ∧ exec (.aestatAddr h d) s = give 0 ∧ exec (.aestatDetail h d) s = give 0
          ∧ exec (.aestatPass h d) s = give 0)
        ∧ (g ≠ 0 → t.astop = none → exec (.aestatAddr h d) s = give 0 ∧ exec (.aestatDetail h d) s = give 0
          ∧ exec (.aestatPass h d) s = give 0
          ∧ (t.queue.length ≤ 64 → exec (.aestatState h d) s = give ((0 : BitVec 33) ++ BitVec.ofNat 7 t.queue.length
            ++ (0 : BitVec 22) ++ (if t.ahold then 1 else 0 : BitVec 1) ++ (0 : BitVec 1))))
        ∧ (∀ r e q, g ≠ 0 → t.astop = some r → t.queue = e :: q → exec (.aestatAddr h d) s = give (e.pc.setWidth 64)
          ∧ exec (.aestatDetail h d) s = give r.detail ∧ exec (.aestatPass h d) s = give r.pass
          ∧ (g ≤ 4 → t.queue.length ≤ 64 → exec (.aestatState h d) s = give ((0 : BitVec 29) ++ BitVec.ofNat 4 (2 ^ g - 1)
            ++ BitVec.ofNat 7 t.queue.length ++ r.sub ++ r.code ++ (0 : BitVec 5) ++ (if r.rows then 1 else 0 : BitVec 1)
            ++ (if t.ahold then 1 else 0 : BitVec 1) ++ (1 : BitVec 1)))))
      ∧ (t.sup = true → t.takes a = true → t.sources [b, c] = some ([x, y], st) →
        let put (v : Word) : Host.Outcome State Fault Refusal := .next (s.completes h 8 (st.variable a v))
        (128 ≤ x.toNat → exec (.alim h a b c) s = put 0xFFFFFFFFFFFFFFFF)
        ∧ (x.toNat < 128 → (s.cluster x.toNat).gating = none → ((List.range 4).all fun i =>
            (s.group (x.toNat * 4 + i)).gating.isNone && !s.groupBusy (x.toNat * 4 + i)) = true →
          exec (.alim h a b c) s = .next (s.acts h (st.variable a (s.cluster x.toNat).alimit) fun u =>
            (u.gate x.toNat y).setCluster x.toNat { s.cluster x.toNat with alimit := y })
          ∧ (Tab.rising s.groups = true → let u := s.gate x.toNat y
            u = { s with groups := u.groups }
            ∧ (∀ k, (∀ i, i < 4 → k ≠ 4 * x.toNat + i) → u.group k = s.group k)
            ∧ ∀ i j, i < 4 → j < 16 → let k := 4 * x.toNat + i
              let was := (s.group k).gated.getLsbD j
              let now := y.getLsbD (16 * i + j)
              (u.group k).gated.getLsbD j = now
              ∧ (∀ r, r < 4096 → (u.group k).row (4096 * j + r) = if was = now then (s.group k).row (4096 * j + r) else 0)
              ∧ (u.group k).storage.getLsbD j = ((s.group k).storage.getLsbD j && !(was && !now))
              ∧ (u.group k).owner.getLsbD j = ((s.group k).owner.getLsbD j && !(was && !now))))
        ∧ (x.toNat < 128 → (s.cluster x.toNat).gating = none → (∀ i, i < 4 → (s.group (x.toNat * 4 + i)).gating = none) →
          (∃ i, i < 4 ∧ s.groupBusy (x.toNat * 4 + i) = true) → Tab.rising s.groups = true → st = t → let u := s.gate x.toNat y
          exec (.alim h a b c) s = .next (waitAt .plain s (u.setCluster x.toNat { s.cluster x.toNat with gating := some (s.cur, y) }))
          ∧ ∀ i, i < 4 → s.groupBusy (x.toNat * 4 + i) = true → u.group (x.toNat * 4 + i)
            = { s.group (x.toNat * 4 + i) with gating := some (y.extractLsb' (16 * i) 16) })
        ∧ (512 ≤ y.toNat → y ≠ 0xFFFFFFFFFFFFFFFF → exec (.aucode h a b c) s = put 4)
        ∧ (y.toNat < 512 →
          (s.local x off 64 = true → imageBad (s.scratch off 64) 2 = true → exec (.aucode h a b c) s = put 3)
          ∧ (let bytes := s.scratch off (2668 + (s.scratchWord off 2).toNat)
            let ver := (s.scratchWord off 1).extractLsb' 32 32
            let now := (s.group y.toNat).ucode.getD s.mgmt.ucodeVer
            s.local x off bytes.length = true → imageBad (s.scratch off 64) 2 = false →
            (imageSigned bytes = false → exec (.aucode h a b c) s = put 1)
            ∧ (imageSigned bytes = true → ver.toNat < now.toNat → exec (.aucode h a b c) s = put 2)
            ∧ (imageSigned bytes = true → now.toNat ≤ ver.toNat → (s.group y.toNat).holder = none →
              exec (.aucode h a b c) s = .next (s.acts h (st.variable a 0) fun u =>
                let u := u.age.setGroup y.toNat { s.group y.toNat with ucode := some ver }
                { u with mgmt := { s.mgmt with ucodeImg := .loaded bytes } }))
            ∧ (imageSigned bytes = true → now.toNat ≤ ver.toNat → (s.group y.toNat).holder.isSome = true → st = t →
              exec (.aucode h a b c) s = .next (waitAt .plain s (s.age.setHere { t with bars := [y.toNat] })))))
        ∧ (y = 0xFFFFFFFFFFFFFFFF →
          (s.local x off 64 = true → imageBad (s.scratch off 64) 2 = true → exec (.aucode h a b c) s = put 3)
          ∧ (let bytes := s.scratch off (2668 + (s.scratchWord off 2).toNat)
            let ver := (s.scratchWord off 1).extractLsb' 32 32
            let now (g : Nat) : BitVec 32 := (s.group g).ucode.getD s.mgmt.ucodeVer
            s.local x off bytes.length = true → imageBad (s.scratch off 64) 2 = false →
            (imageSigned bytes = false → exec (.aucode h a b c) s = put 1)
            ∧ (imageSigned bytes = true → (∃ g, g < 512 ∧ ver.toNat < (now g).toNat) → exec (.aucode h a b c) s = put 2)
            ∧ (imageSigned bytes = true → (∀ g, g < 512 → (now g).toNat ≤ ver.toNat) →
              ((∀ g, g < 512 → (s.group g).holder = none) → Tab.rising s.groups = true → ∃ u : State,
                exec (.aucode h a b c) s = .next (retire h.stall (t.pc + 8) (u.setHere (st.variable a 0)))
                ∧ u = { s.age with groups := u.groups, mgmt := { s.mgmt with ucodeImg := .loaded bytes } }
                ∧ ∀ g, u.group g = if g < 512 then { s.group g with ucode := some ver } else s.group g)
              ∧ ((∃ g, g < 512 ∧ (s.group g).holder.isSome = true) → st = t →
                exec (.aucode h a b c) s = .next (waitAt .plain s (s.age.setHere { t with bars := List.range 512 }))))))))
  ∧ (∀ (s : State) (h : Hdr) (a b : BitVec 6) (va : Word) (off : Nat), s.guarded h = true → s.here.takes a = true →
      s.here.sources [b] = some ([va], s.here) → s.heldOf s.cur ≠ [] →
      let t := s.here
      let g := (s.heldOf s.cur).length
      (va.toNat % 64 = 0 → g ≤ 4 → t.queue.length ≤ 64 →
        (∀ e ∈ t.queue, e.sym = none ∧ e.x.symbolic = false ∧ e.y.symbolic = false) →
        (t.astop = none → ∀ e ∈ t.queue.head?, e.prog.begun = false) →
        let size := 64 + 256 * g + 64 * t.queue.length
        s.local va off size = true →
        ∃ bytes : List Byte, bytes.length = size
          ∧ bytes.take 48 = leBytes (2 ^ 48 + g * 2 ^ 40 + t.queue.length * 2 ^ 32
              + (match t.astop with | some r => r.code.toNat * 2 ^ 16 + r.sub.toNat * 2 ^ 8 | none => 0) + t.kclass.toNat) 8
            ++ leBytes t.estart.toNat 8 ++ leBytes t.afaultop.toNat 8 ++ leBytes t.afaultaddr.toNat 8 ++ leBytes size 8
            ++ leBytes (s.ctxid t.ctx).toNat 8
          ∧ let kept : Husk := ⟨bytes, t.queue, (s.group ((s.heldOf s.cur).headD 0)).desc, t.desc, t.astop, []⟩
            let u : State := { s with husks := s.husks ++ [kept], free := s.free + size }
            let left : Strand := { t.landAll with
              ahold := true, queue := [], astop := none, adeliver := none, estart := 0 }
            exec (.adump h a b) s = .next (retire h.stall (t.pc + 8)
              ((u.putScratch off bytes).setHere (left.variable a (BitVec.ofNat 64 size)))))
      ∧ (let w (i : Nat) : Word := s.scratchWord off i
        let size := Nat.max 64 (Nat.min 11200 (w 4).toNat)
        let give (v : Word) : Host.Outcome State Fault Refusal := .next (s.completes h 8 (t.variable a v))
        s.local va off size = true →
        ((∀ k ∈ s.husks, k.bytes ≠ s.scratch off size) → exec (.aundmp h a b) s = give 1)
        ∧ (∀ l k r, s.husks = l ++ k :: r → k.bytes = s.scratch off size → (∀ j ∈ l, j.bytes ≠ s.scratch off size) →
          (bits (w 0) 40 8 ≠ g → exec (.aundmp h a b) s = give 2)
          ∧ (bits (w 0) 40 8 = g →
            (bits (w 0) 0 2 ≠ t.kclass.toNat → exec (.aundmp h a b) s = give 3)
            ∧ (bits (w 0) 0 2 = t.kclass.toNat →
              (t.queue ≠ [] → exec (.aundmp h a b) s = give 4)
              ∧ (t.queue = [] →
                (w 5 ≠ s.ctxid t.ctx → exec (.aundmp h a b) s = give 5)
                ∧ (w 5 = s.ctxid t.ctx → (∀ e ∈ k.queue, e.sym = none ∧ e.out = false) → k.refs = [] →
                  ∃ u : State, u = { s with groups := u.groups }
                    ∧ (∀ j, u.group j = if j ∈ s.heldOf s.cur then { s.group j with desc := k.desc } else s.group j)
                    ∧ exec (.aundmp h a b) s = .next (retire h.stall (t.pc + 8) (u.setHere ({ t with
                        desc := k.own, queue := k.queue, estart := (w 1).setWidth 19, afaultop := w 2, afaultaddr := w 3,
                        ahold := false, astop := none }.variable a 0))))))))))

/-- R45, R199, R212 to R216, R224, R227, R239, R266 to R272, R277 to R282, R285, R295: the held groups carry out the head
of their strand's queue, shown for class 0: instructions that write a mask, those that answer a scalar, and AFCFG; an
unconfigured field stops the queue and is delivered. R45, R215, R216, R273 to R276, R282, R284, R295 to R302, R304 to
R310: what the instructions that write fields leave in the rows, shown for class 0: arithmetic and conversions into
fields that are not MX element fields from sources without the reserved code (AFMA of 0 and infinity with a NaN, and
bounds of the narrow formats: log 112), AQNT of finite values under a given scale; ASCAN and ASEGR add exactly over
integer fields, and select and join codes; ASPI and ASPU put their pairs into the lowest rows. Which group an event of
a pair without a row is counted to (log 97, DESIGN CHOICE) and the bound of 262,143 entries (log 23) are the model's.
R172, R217, R229, R286 to R288, R303, R311 to R313, R315 to R317: what the instructions that access memory load and
store, shown for class 0, fields and elements of whole bytes, and memory in the scratchpad of the groups' die. That
ALUT takes a table of any alignment (log 46), and the group ARSTR.ev leaves its word in (log 97), are the model's. -/
def Obligations.AssocInstructionsRun : Prop :=
  (∀ (s : State) (n : BitVec 10) (e : QEntry) (rest : List QEntry) (x y : Word), s.heads n.toNat e rest x y →
      let st := s.strand n.toNat
      let left : Strand := { st with queue := rest }
      let v := s.view n.toNat
      let checked : Prop := s.admits n.toNat e.op x y
      let gov (r : Nat) : Bool := v.gov s e.mg r
      let d (k : Nat) : Word := v.desc s k
      let code (k r : Nat) : Nat := v.code s (d k) r
      let order (k c : Nat) : Int := orderKey (dTag (d k)) (dWidth (d k)) c
      let cut (k : Nat) (w : Word) : Nat := w.toNat % 2 ^ dWidth (d k)
      let runs (P : State → Prop) : Prop := s.runsHead n fun u => u.mem = s.mem ∧ P u
      let same (u : State) : Prop := v.keeps s u ∧ v.raises s u fun _ => 0
      let masksAnd (after : Strand) (md : Nat) (f : Nat → Bool) : Prop :=
        runs fun u => u.strand n.toNat = after ∧ same u ∧ v.masks s u md fun r => gov r && f r
      let masks (md : Nat) (f : Nat → Bool) : Prop := masksAnd left md f
      let rows (u : State) : Prop := ∀ g ∈ v.held, u.group g = { s.group g with passes := (u.group g).passes }
      let gives (w : Word) : Prop :=
        (∀ k, e.sym = some k → e.out = false → runs fun u => rows u ∧ u.strand n.toNat = left.resolve k w)
        ∧ (e.sym = none → e.out = true → runs fun u => rows u ∧ u.strand n.toNat = { left with part := some (.result (some w)) })
      let scalar (k c : Nat) : Word :=
        if dTag (d k) = 2 then BitVec.ofInt 64 (sInt (dWidth (d k)) c) else BitVec.ofNat 64 c
      (∀ md b, e.op = .mset md b → md < 24 → masks md fun _ => b)
      ∧ (∀ md, e.op = .awhile md → md < 24 →
        masksAnd { left with ffidx :=
          if x.toNat ≤ y.toNat then 0 else if x.toNat - y.toNat < v.rows then BitVec.ofNat 19 (x.toNat - y.toNat) else st.ffidx }
          md fun r => decide (y.toNat + r < x.toNat))
      ∧ (∀ c md fa, e.op = .asrch c md fa → md < 24 → c.toNat < 3 → checked → masks md fun r =>
        let hit := code fa r == cut fa x
        let old := (v.row s r).getLsbD md
        if c = 0 then hit else if c = 1 then old && hit else old || hit)
      ∧ (∀ c rev md fa src, e.op = .acmp c rev md fa src → md < 24 → checked →
        let ints := match src with | .fld fb => isIntTag (dTag (d fa)) && isIntTag (dTag (d fb)) | .op => false
        let key (k c' : Nat) : Int := if ints then intOf (dTag (d k)) (dWidth (d k)) c' else if 2 ≤ c.toNat then order k c' else c'
        masks md fun r =>
          let a := key fa (code fa r)
          let b := match src with | .fld fb => key fb (code fb r) | .op => key fa (cut fa x)
          let (p, q) := if rev then (b, a) else (a, b)
          if c = 0 then decide (p = q) else if c = 1 then decide (p ≠ q) else if c = 2 then decide (p < q) else decide (q ≤ p))
      ∧ (∀ kind md fa, e.op = .intv kind md fa → md < 24 → checked → masks md fun r =>
        let k := order fa (code fa r)
        let lo := order fa (cut fa y)
        let hi := order fa (cut fa x)
        (if kind.getLsbD 1 then decide (lo < k) else decide (lo ≤ k))
          && (if kind.getLsbD 0 then decide (k < hi) else decide (k ≤ hi)))
      ∧ (∀ md fa z q, e.op = .amatch md fa z → md < 24 → checked → Tab.find st.streams z = some q →
        Tab.rising st.streams = true → y.toNat ≤ q.buf.length → q.next + y.toNat ≤ recCount q.record →
        let after : Stream := { q with next := q.next + y.toNat, buf := q.buf.drop y.toNat }
        masksAnd { left with streams := if y = 0 then st.streams else Tab.insert st.streams z after }
          md fun r => (q.buf.take y.toNat).any fun k => code fa r == cut fa k)
      ∧ (∀ md ma mb tbl, e.op = .mlog md ma mb tbl → md < 24 → masks md fun r =>
        tbl.getLsbD ((if maskBit (v.row s r) ma then 2 else 0) + (if maskBit (v.row s r) mb then 1 else 0)))
      ∧ (∀ one md ma, e.op = .anext one md ma → md < 24 → masks md fun r =>
        let lower := (List.range r).any fun q => gov q && maskBit (v.row s q) ma
        maskBit (v.row s r) ma && (if one then !lower else lower))
      ∧ (∀ least md fa, e.op = .atopk least md fa → md < 24 → checked → masks md fun r =>
        let k (q : Nat) : Int := if least then order fa (code fa q) else - order fa (code fa q)
        decide (((List.range v.rows).filter fun q => gov q && (decide (k q < k r) || (k q == k r && decide (q < r)))).length
          < x.toNat))
      ∧ (∀ md fa, e.op = .conf md fa → md < 24 → checked → masks md fun r =>
        (List.range r).any fun q => gov q && code fa q == code fa r)
      ∧ (∀ md fa, e.op = .chk md fa → md < 24 → checked → masks md fun _ => false)
      ∧ (∀ md fa, e.op = .plenMask md fa → md < 24 → checked → masks md fun r => decide (r < dLen (d fa)))
      ∧ (∀ ma, e.op = .apopM ma →
        gives (BitVec.ofNat 64 ((List.range v.rows).filter fun r => gov r && maskBit (v.row s r) ma).length))
      ∧ (∀ fa, e.op = .apopF fa → checked → gives (BitVec.ofInt 64
        (((List.range v.rows).filter gov).map fun r => intOf (dTag (d fa)) (dWidth (d fa)) (code fa r)).sum))
      ∧ (∀ last ma, e.op = .afirst last ma →
        let hit (r : Nat) : Bool := gov r && maskBit (v.row s r) ma
        ((∀ r, r < v.rows → hit r = false) → gives 0xFFFFFFFFFFFFFFFF)
        ∧ ∀ r, r < v.rows → hit r = true → (∀ q, q < v.rows → hit q = true → if last then q ≤ r else r ≤ q) →
          gives (BitVec.ofNat 64 r))
      ∧ (∀ least idx fa, e.op = .aext least idx fa → checked → dWidth (d fa) ≤ 64 →
        let k (q : Nat) : Int := if least then order fa (code fa q) else - order fa (code fa q)
        ((∀ r, r < v.rows → gov r = false) → gives (if idx then 0xFFFFFFFFFFFFFFFF else 0))
        ∧ ∀ r, r < v.rows → gov r = true → (∀ q, q < v.rows → gov q = true → k r < k q ∨ (k r = k q ∧ r ≤ q)) →
          gives (if idx then BitVec.ofNat 64 r else scalar fa (code fa r)))
      ∧ (∀ fa, e.op = .ardrow fa → checked → gives (if v.reaches s y.toNat then scalar fa (code fa y.toNat) else 0))
      ∧ (∀ k, e.op = .afcfg k →
        runs fun u => u.strand n.toNat = left
          ∧ ∀ g ∈ v.held, u.group g = { s.group g with desc := (u.group g).desc, passes := (u.group g).passes }
            ∧ ∀ j, Tab.get 0 (u.group g).desc j = if j = k then x else Tab.get 0 (s.group g).desc j)
      ∧ (∀ md fa, e.op = .asrch 0 md fa → d fa = 0 → runs fun u => u.groups = s.groups ∧ u.strand n.toNat = { st with
          estart := 0
          afaultop := e.word
          afaultaddr := if e.word.toNat / 2 ^ 56 = 0xFD ∨ e.word.toNat / 2 ^ 56 = 0xFE then e.word1 else 0
          astop := some ⟨0x0E, 0, false, 0, 0⟩
          adeliver := some ⟨0x0E, 0, BitVec.ofNat 64 fa, .assoc, false⟩
          queue := { e with resumed := some (some 0) } :: rest }))
  ∧ (∀ (s : State) (n : BitVec 10) (e : QEntry) (rest : List QEntry) (x y : Word), s.heads n.toNat e rest x y →
      let st := s.strand n.toNat
      let left : Strand := { st with queue := rest }
      let v := s.view n.toNat
      let gov (r : Nat) : Bool := v.gov s e.mg r
      let d (k : Nat) : Word := v.desc s k
      let tag (k : Nat) : Nat := dTag (d k)
      let code (k r : Nat) : Nat := v.code s (d k) r
      let order (k c : Nat) : Int := orderKey (tag k) (dWidth (d k)) c
      let int (k c : Nat) : Int := intOf (tag k) (dWidth (d k)) c
      let cut (k : Nat) (w : Word) : Nat := w.toNat % 2 ^ dWidth (d k)
      let second (fa : Nat) (src : ASrc) (r : Nat) : Nat := match src with | .fld fb => code fb r | .op => cut fa x
      let whole (k : Nat) (sat : Bool) (z : Int) : Nat × RowEv := intReduce (tag k) (dWidth (d k)) sat z
      let runs (P : State → Prop) : Prop := s.runsHead n fun u => u.mem = s.mem ∧ P u
      let writes (fd : Nat) (p : Nat → Bool) (f : Nat → Nat × RowEv) : Prop := runs fun u => u.strand n.toNat = left
        ∧ v.keeps s u ∧ v.puts s u (d fd) (fun r => if p r then some (f r).1 else none)
        ∧ v.raises s u fun r => if p r then (f r).2 else 0
      let clean (k : Nat) : Prop := tag k = 0x0D → ∀ r, gov r = true → code k r ≠ 0x80
      let quiet (f : Nat → Nat) (r : Nat) : Nat × RowEv := (f r, 0)
      s.admits n.toNat e.op x y →
      (∀ fd, e.op = .awr fd → writes fd gov (quiet fun _ => cut fd x))
      ∧ (∀ fd fa, e.op = .amov fd fa → writes fd gov (quiet fun r => code fa r))
      ∧ (∀ fd fa, e.op = .bcast fd fa → writes fd gov (quiet fun _ => if v.reaches s x.toNat then code fa x.toNat else 0))
      ∧ (∀ sat fd, e.op = .fill sat fd →
        writes fd gov fun r => whole fd sat ((if tag fd = 2 ∧ sat = true then x.toInt else (x.toNat : Int)) + r))
      ∧ (∀ fd, e.op = .awrrow fd → writes fd (fun r => r == y.toNat && gov r) (quiet fun _ => cut fd x))
      ∧ (∀ sat fd fa src, e.op = .ham sat fd fa src →
        writes fd gov fun r => whole fd sat (onesOf (code fa r ^^^ second fa src r) (dWidth (d fa))))
      ∧ (∀ fn fd fa src rev sat, e.op = .arith fn fd fa src rev sat → isMx (tag fd) = false → clean fa →
        (∀ fb, src = .fld fb → clean fb) → (src = .op → tag fa = 0x0D → x.toNat % 256 ≠ 0x80) →
        let db := match src with | .fld fb => d fb | .op => d fa
        let unary := fn = .abs ∨ fn = .neg ∨ fn = .sqrt
        let put (z : RVal) : Nat × RowEv := putCode (tag fd) (dWidth (d fd)) e.mode sat (tag fd != 8) z
        (isIntTag (tag fd) = true → isIntTag (tag fa) = true → (unary ∨ isIntTag (dTag db) = true) → writes fd gov fun r =>
          let a := int fa (code fa r)
          let b := intOf (dTag db) (dWidth db) (second fa src r)
          put (.int (if rev then intExact fn b a (int fd (code fd r)) else intExact fn a b (int fd (code fd r)))))
        ∧ (¬ (isIntTag (tag fd) = true ∧ isIntTag (tag fa) = true ∧ (unary ∨ isIntTag (dTag db) = true)) →
          writes fd gov fun r =>
            let a := v.value s (d fa) r
            let b := match src with | .fld _ => v.value s db r | .op => v.opValue s (d fa) r (second fa src r)
            put (if rev then realExact fn e.mode (tag fd == 0x0C) b a (v.value s (d fd) r)
              else realExact fn e.mode (tag fd == 0x0C) a b (v.value s (d fd) r))))
      ∧ (∀ max fd fa src, e.op = .sel max fd fa src → writes fd gov (quiet fun r =>
        let a := code fa r
        let b := second fa src r
        if (if max then order fa a < order fa b else order fa b < order fa a) then b else a))
      ∧ (∀ fd fa, e.op = .clamp fd fa → writes fd gov (quiet fun r =>
        let a := if order fa (cut fa x) < order fa (code fa r) then cut fa x else code fa r
        if order fa a < order fa (cut fa y) then cut fa y else a))
      ∧ (∀ fn fd fa src, e.op = .logic fn fd fa src → writes fd gov (quiet fun r =>
        let a := code fa r
        let b := second fa src r
        if fn = 0 then a &&& b else if fn = 1 then a ||| b else if fn = 2 then a ^^^ b
        else a &&& (2 ^ dWidth (d fa) - 1 - b)))
      ∧ (∀ fn sat fd fa src, e.op = .shift fn sat fd fa src → writes fd gov fun r =>
        shiftCode fn sat (tag fa) (dWidth (d fa)) (code fa r) (match src with | .fld fb => code fb r | .op => x.toNat)
          (tag fd) (dWidth (d fd)))
      ∧ (∀ nosat fd fa, e.op = .cvt nosat fd fa → isMx (tag fd) = false → clean fa → writes fd gov fun r =>
        putCode (tag fd) (dWidth (d fd)) e.mode false (!nosat) (if isIntTag (tag fa) then .int (some (int fa (code fa r)))
          else .real (v.value s (d fa) r) (if (v.value s (d fa) r).isSig then 1 else 0)))
      ∧ (∀ nosat fd fa, e.op = .dqnt nosat fd fa → clean fa → writes fd gov fun r =>
        putCode (tag fd) (dWidth (d fd)) e.mode false (!nosat) 
          (.real ((v.value s (d fa) r).scale (if x.toInt < -4096 then -4096 else if 4096 < x.toInt then 4096 else x.toInt)) 0))
      ∧ (∀ fd fa, e.op = .qnt false fd fa → clean fa → x.toNat % 256 ≠ 0xFF →
        (∀ r, gov r = true → (v.value s (d fa) r).isFin = true) → dMeets (d fd) (d (dLink (d fd))) = false → runs fun u =>
          u.strand n.toNat = left ∧ v.keeps s u
          ∧ ∃ t : State, v.puts s t (d fd) (fun r => if gov r then
              some (mxRound (tag fd) (x.toNat % 256) (v.value s (d fa) r)).1 else none)
            ∧ v.puts t u (d (dLink (d fd))) fun r =>
              if (List.range 32).any fun i => gov (r / 32 * 32 + i) then some (x.toNat % 256) else none)
      ∧ (∀ fd fa, e.op = .shr fd fa → writes fd gov (quiet fun r =>
        let q : Int := r - x.toInt
        if 0 ≤ q ∧ v.reaches s q.toNat = true then code fa q.toNat else 0))
      ∧ (v.held.length ≤ 4 → ∀ fn sat fd fa,
        let results (same : Nat → Nat → Prop) : Prop :=
          (fn = .add → isIntTag (tag fa) = true → ∃ f : Nat → Int, (∀ r, r < v.rows → ∃ l : List Nat, l.Nodup
              ∧ (∀ q, q ∈ l ↔ q < v.rows ∧ gov q = true ∧ same q r) ∧ f r = (l.map fun q => int fa (code fa q)).sum)
            ∧ writes fd gov fun r => whole fd sat (f r))
          ∧ (fn = .or → ∃ f : Nat → Nat, (∀ r, r < v.rows → ∀ b, (f r).testBit b = true ↔
              ∃ q, q < v.rows ∧ gov q = true ∧ same q r ∧ (code fa q).testBit b = true) ∧ writes fd gov (quiet f))
          ∧ (fn = .min ∨ fn = .max → ∃ f : Nat → Nat, (∀ r, r < v.rows → gov r = true → ∃ q, q < v.rows ∧ gov q = true ∧ same q r
              ∧ f r = code fa q ∧ ∀ p, p < v.rows → gov p = true → same p r →
                if fn = .min then order fa (f r) ≤ order fa (code fa p) else order fa (code fa p) ≤ order fa (f r))
            ∧ writes fd gov (quiet f))
        (e.op = .scan fn sat fd fa → results fun q r => q ≤ r)
        ∧ ∀ ms, e.op = .segr fn sat fd fa ms → results fun q r =>
          ∀ t, Nat.min q r < t → t ≤ Nat.max q r → v.gov s ms t = false)
      ∧ (∀ union sat fd fa fb, e.op = .pair union sat fd fa fb →
        let pairs := (pairUp (entriesOf v s e.mg (d fa)) (entriesOf v s e.mg (d fb))).filter fun p =>
          union || (p.2.1.isSome && p.2.2.isSome)
        let count := Nat.min pairs.length (Nat.min v.rows 262143)
        let value (k : Nat) : Word := d (dLink (d k))
        let result (i : Nat) : Nat × RowEv := match pairs[i]? with
          | some p => putCode (dTag (value fd)) (dWidth (value fd)) e.mode sat (dTag (value fd) != 8)
            (pairResult v s (if union then .add else .mul) e.mode (value fa) (value fb) (value fd) p.2.1 p.2.2)
          | none => (0, 0)
        runs fun u => u.strand n.toNat = { left with
              desc := Tab.put 0 st.desc fd (setLen (Tab.get 0 st.desc fd) count) }
          ∧ (∀ g ∈ v.held, u.group g = { s.group g with
              rows := (u.group g).rows, parity := (u.group g).parity, event := (u.group g).event, passes := (u.group g).passes
              desc := Tab.put 0 (s.group g).desc fd (setLen (d fd) count) })
          ∧ (∃ t : State, v.puts s t (d fd) (fun r => if r < count then (pairs[r]?).map Prod.fst else none)
            ∧ v.puts t u (value fd) fun r => if r < count then some (result r).1 else none)
          ∧ v.raises s u fun r => (if r < count then (result r).2 else 0)
            ||| (if r = v.rows - 1 ∧ count < pairs.length then evSpov else 0))
      ∧ (∀ fd, e.op = .plenSet fd → runs fun u =>
        u.strand n.toNat = { left with desc := Tab.put 0 st.desc fd (setLen (Tab.get 0 st.desc fd) x.toNat) }
        ∧ ∀ g ∈ v.held, u.group g = { s.group g with
            passes := (u.group g).passes, desc := Tab.put 0 (s.group g).desc fd (setLen (d fd) x.toNat) }))
  ∧ (∀ (s : State) (n : BitVec 10) (e : QEntry) (rest : List QEntry) (x y : Word), s.heads n.toNat e rest x y →
      s.admits n.toNat e.op x y → Memory.wf s.mem = true → e.slots = [] → (s.strand n.toNat).unseen = [] →
      let st := s.strand n.toNat
      let left : Strand := { st with queue := rest }
      let v := s.view n.toNat
      let die := dieOf n.toNat
      let gov (r : Nat) : Bool := v.gov s e.mg r
      let d (k : Nat) : Word := v.desc s k
      let code (k r : Nat) : Nat := v.code s (d k) r
      let bytes (w : Word) : Prop := dTag w ≠ 0x0B ∧ dTag w ≠ 0x10
      let addr (ad : AAddr) (k r : Nat) : Word := match ad with
        | .lin => x + BitVec.ofNat 64 (r * elemSize (d k))
        | .str => x + BitVec.ofNat 64 r * y
        | .idx fb => x + BitVec.ofInt 64 (intOf (dTag (d fb)) (dWidth (d fb)) (code fb r) * elemSize (d k))
      let word (off : Nat) : Nat := leNat (s.pad die off 8)
      let loads (after : Strand) (P : State → Prop) : Prop :=
        s.runsHead n fun u => u.mem = s.mem ∧ u.strand n.toNat = after ∧ v.keeps s u ∧ P u
      let stores (P : State → Prop) : Prop :=
        s.runsHead n fun u => u.strand n.toNat = left ∧ v.keeps s u ∧ (∀ r, r < v.rows → v.row u r = v.row s r) ∧ P u
      (∀ ff ad fd (off : Nat → Nat), e.op = .ld ff ad fd → bytes (d fd) →
        (∀ r, gov r = true → s.groupReaches n.toNat (addr ad fd r) (off r) (elemSize (d fd))) →
        loads { left with ffidx := if ff then BitVec.ofNat 19 v.rows else st.ffidx } fun u => v.raises s u (fun _ => 0)
          ∧ v.puts s u (d fd) fun r =>
            if gov r then some (leNat (s.pad die (off r) (elemSize (d fd))) % 2 ^ dWidth (d fd)) else none)
      ∧ (∀ ad fa (off : Nat → Nat), e.op = .st ad fa → bytes (d fa) →
        let k := elemSize (d fa)
        (∀ r, gov r = true → s.groupReaches n.toNat (addr ad fa r) (off r) k) →
        (∀ q r, gov q = true → gov r = true → q < r → off q + k ≤ off r ∨ off r + k ≤ off q) →
        stores fun u => v.raises s u (fun _ => 0) ∧ s.padStores u die (fun r => gov r = true) off (fun _ => k)
          fun r => leBytes (extendCode (d fa) k (code fa r)) k)
      ∧ (∀ nosat c fd (off : Nat → Nat → Nat), e.op = .ldseg nosat c fd →
        let md := segDesc y
        let k := elemSize md
        bytes md → (∀ r i, gov r = true → i < c → s.groupReaches n.toNat (segAddr x y c r i) (off r i) k) →
        (∀ i j, i < j → j < c → dMeets (d (fd + i)) (d (fd + j)) = false) →
        let put (r i : Nat) : Nat × RowEv := putCode (dTag (d (fd + i))) (dWidth (d (fd + i))) e.mode false (!nosat)
          (codeResult md (leNat (s.pad die (off r i) k) % 2 ^ dWidth md))
        loads left fun u =>
          (v.raises s u fun r => if gov r then (List.range c).foldl (fun ev i => ev ||| (put r i).2) 0 else 0)
          ∧ ∀ r, r < v.rows →
            (∀ i b, gov r = true → i < c → b < dWidth (d (fd + i)) → dBase (d (fd + i)) + b < 1024 →
              (v.row u r).getLsbD (dBase (d (fd + i)) + b) = (put r i).1.testBit b)
            ∧ ∀ b, b < 1024 → (gov r = false ∨ ∀ i, i < c → b < dBase (d (fd + i)) ∨ dBase (d (fd + i)) + dWidth (d (fd + i)) ≤ b) →
              (v.row u r).getLsbD b = (v.row s r).getLsbD b)
      ∧ (∀ nosat c fa (off : Nat → Nat → Nat), e.op = .stseg nosat c fa →
        let md := segDesc y
        let k := elemSize md
        bytes md → (∀ r i, gov r = true → i < c → s.groupReaches n.toNat (segAddr x y c r i) (off r i) k) →
        (∀ q i r j, gov q = true → gov r = true → i < c → j < c → (q, i) ≠ (r, j) → off q i + k ≤ off r j ∨ off r j + k ≤ off q i) →
        let put (r i : Nat) : Nat × RowEv :=
          putCode (dTag md) (dWidth md) e.mode false (!nosat) (fieldResult v s (d (fa + i)) r)
        stores fun u => (v.raises s u fun r => if gov r then (List.range c).foldl (fun ev i => ev ||| (put r i).2) 0 else 0)
          ∧ s.padStores u die (fun j => gov (j / c) = true ∧ 0 < c) (fun j => off (j / c) (j % c)) (fun _ => k)
            fun j => leBytes (extendCode md k (put (j / c) (j % c)).1) k)
      ∧ (∀ fd fa off, e.op = .lut fd fa → bytes (d fd) →
        let k := elemSize (d fd)
        (∀ i, i < y.toNat * k → s.groupReaches n.toNat (x + BitVec.ofNat 64 i) (off + i) 1) →
        loads left fun u => v.raises s u (fun _ => 0) ∧ v.puts s u (d fd) fun r =>
          if gov r = true ∧ code fa r < y.toNat then some (leNat (s.pad die (off + code fa r * k) k) % 2 ^ dWidth (d fd))
          else none)
      ∧ (∀ k off, x = scratchAddr off → off % 64 = 0 →
        let size := elemSize (d k)
        let fits (bytes : Nat) : Prop := off + bytes ≤ 2 ^ 25
          ∧ ∀ i, i < bytes → (s.die die).owner.contains ((off + i) / 65536) = false
        let head (w : Word) : List Byte := leBytes w.toNat 8 ++ leBytes v.rows 8 ++ List.replicate 48 0
        let image (w : Word) (parts size : Nat) (bs : Nat → List Byte) : Prop := stores fun u => v.raises s u (fun _ => 0)
          ∧ s.padStores u die (fun i => i ≤ parts) (fun i => if i = 0 then off else off + 64 + (i - 1) * size)
            (fun i => if i = 0 then 64 else size) fun i => if i = 0 then head w else bs (i - 1)
        (e.op = .save .f k → dUnconf (d k) = false → bytes (d k) → fits (64 + v.rows * size) →
          image (d k) v.rows size fun r => leBytes (if v.reaches s r then extendCode (d k) size (code k r) else 0) size)
        ∧ (e.op = .save .f k → dUnconf (d k) = true → fits 64 → image (d k) 0 0 fun _ => [])
        ∧ (e.op = .save .m k → fits (64 + v.rows / 8) →
          image (BitVec.ofNat 64 k) (v.rows / 8) 1 fun b =>
            leBytes ((List.range 8).map fun i =>
              if v.reaches s (8 * b + i) && maskBit (v.row s (8 * b + i)) k then 2 ^ i else 0).sum 1)
        ∧ (e.op = .save .desc k → fits 256 → stores fun u => v.raises s u (fun _ => 0)
          ∧ s.padStores u die (fun i => i < 32) (fun i => off + 8 * i) (fun _ => 8) fun i => leBytes (d i).toNat 8)
        ∧ (e.op = .save .ev k → fits 8 → s.runsHead n fun u => u.strand n.toNat = left
          ∧ (∀ g ∈ v.held, u.group g = { s.group g with event := 0, passes := (u.group g).passes })
          ∧ s.padStores u die (fun i => i = 0) (fun _ => off) (fun _ => 8) fun _ =>
            leBytes ((v.held.foldl (fun (w : RowEv) g => w ||| (s.group g).event) 0).toNat) 8)
        ∧ (e.op = .rstr .f k → word (off + 8) = v.rows →
          let w : Word := BitVec.ofNat 64 (word off)
          let k' := elemSize w
          dValid v.rows w = true → bytes w → fits (64 + if dUnconf w then 0 else v.rows * k') →
          let desc := Tab.put 0 st.desc k w
          s.runsHead n fun u => u.mem = s.mem ∧ u.strand n.toNat = { left with desc := desc, adirty := (u.strand n.toNat).adirty }
            ∧ (∀ j, j < 32 → (u.strand n.toNat).adirty.getLsbD j = (st.adirty.getLsbD j
              || (!dUnconf w && (List.range v.rows).any (v.reaches s) && !dUnconf (Tab.get 0 desc j) && dMeets (Tab.get 0 desc j) w)))
            ∧ (∀ g ∈ v.held, u.group g = { s.group g with
                rows := (u.group g).rows, parity := (u.group g).parity, passes := (u.group g).passes
                desc := Tab.put 0 (s.group g).desc k w })
            ∧ v.puts s u w fun r => if dUnconf w = false ∧ v.reaches s r = true then
              some (leNat (s.pad die (off + 64 + r * k') k') % 2 ^ dWidth w) else none)
        ∧ (e.op = .rstr .m k → k < 24 → word (off + 8) = v.rows → fits (64 + v.rows / 8) →
          loads left fun u => v.raises s u (fun _ => 0)
            ∧ v.masks s u k fun r => (leNat (s.pad die (off + 64 + r / 8) 1)).testBit (r % 8))
        ∧ (e.op = .rstr .desc k → (∀ i, i < 32 → dValid v.rows (BitVec.ofNat 64 (word (off + 8 * i))) = true) → fits 256 →
          let put (t : Tab Word) : Tab Word :=
            (List.range 32).foldl (fun t i => Tab.put 0 t i (BitVec.ofNat 64 (word (off + 8 * i)))) t
          s.runsHead n fun u => u.mem = s.mem ∧ u.strand n.toNat = { left with desc := put st.desc }
            ∧ ∀ g ∈ v.held, u.group g = { s.group g with passes := (u.group g).passes, desc := put (s.group g).desc })
        ∧ (e.op = .rstr .ev k → fits 8 → s.runsHead n fun u => u.mem = s.mem ∧ u.strand n.toNat = left
          ∧ ∀ g ∈ v.held, u.group g = { s.group g with
              passes := (u.group g).passes, event := if v.held.head? = some g then BitVec.ofNat 7 (word off) else 0 }))
      ∧ (∀ val md off (eo : Nat → Nat), e.op = .app val md → md < 24 → x = scratchAddr off → off % 64 = 0 → off + 64 ≤ 2 ^ 25 →
        (s.die die).owner.contains (off / 65536) = false →
        let h (i : Nat) : Nat := word (off + 8 * i)
        let size := h 5 % 2 ^ 8
        let rows := (List.range v.rows).filter gov
        let count := Nat.min rows.length (if h 1 = 0 then 0 else h 1 + h 2 - h 3)
        (size = 1 ∨ size = 2 ∨ size = 4 ∨ size = 8) → count ≤ h 1 →
        (∀ j, j < count → s.groupReaches n.toNat (BitVec.ofNat 64 (h 0 + (h 3 + j) % h 1 * size)) (eo j) size
          ∧ (eo j + size ≤ off ∨ off + 64 ≤ eo j)) →
        (∀ i j, i < j → j < count → eo i + size ≤ eo j ∨ eo j + size ≤ eo i) →
        s.runsHead n fun u => u.strand n.toNat = left ∧ v.keeps s u ∧ v.raises s u (fun _ => 0)
          ∧ (v.masks s u md fun r => (rows.take count).contains r)
          ∧ s.padStores u die (fun i => i < count + 2)
            (fun i => if i = count then off + 56 else if i = count + 1 then off + 24 else eo i)
            (fun i => if i < count then size else 8) fun i =>
              if i = count then leBytes (BitVec.ofNat 64 (h 7 + rows.length - count)).toNat 8
              else if i = count + 1 then leBytes (BitVec.ofNat 64 (h 3 + count)).toNat 8
              else leBytes (match val with | some fa => code fa (rows.getD i 0) | none => rows.getD i 0) size))

/-! ### Index-tree engine -/

/-- R445, R446, R448 to R457: an instruction that passes its checks at issue sends its operation to the home unit of the
region; its results are symbols, or an "out" register that later readers wait for. SPWAIT delivers a pending refusal.
R434, R445, R447, R455: SPCFG creates a region with an empty root leaf, and SPPOOL sends pages to one; shown for one
pool page that a kept translation gives with EOWN set, and a descriptor in the die's scratchpad. -/
def Obligations.TreeIssueAndPools : Prop :=
  (∀ (s : State) (h : Hdr) (a b c : BitVec 6) (ty : BitVec 2) (v hd k : Word) (off : Nat) (st : Strand) (r : Region),
      s.guarded h = true → Tab.find s.regions hd.toNat = some r → r.closing = false → r.ofCtx s s.here.ctx = true →
      let sent (st : Strand) (work : TWork) (syms : List Nat) (out : Option Nat) : Host.Outcome State Fault Refusal :=
        .next (s.acts h st fun t => { t with
          treeOps := s.treeOps ++ [⟨s.nextTree, hd.toNat, r.uid, s.cur, work, syms, out, false⟩], nextTree := s.nextTree + 1 })
      let late (st : Strand) (d : BitVec 6) (j : Nat) : Strand :=
        ({ st with syms := Tab.insert st.syms j ⟨.tree, 2, none, false, false, false, 0, none⟩ }.forget d.toNat).setReg d.toNat (.aff j 1 0)
      let out (work : TWork) : Host.Outcome State Fault Refusal := sent
        (if a = 0 then st else { st.forget a.toNat with outs := Tab.insert st.outs a.toNat s.nextTree }) work [] (some a.toNat)
      (s.here.sources [a, b, c] = some ([v, hd, k], st) → k.toNat < 2 ^ r.width →
        exec (.spst h a b c) s = sent st (.st k.toNat v.toNat) [] none
        ∧ (ty ≠ 2 ∨ r.esz ≠ 1 →
          exec (.spamoAdd h a b c ty) s = sent st (.amo .add ty k.toNat v.toNat) [] none
          ∧ exec (.spamoMin h a b c ty) s = sent st (.amo .min ty k.toNat v.toNat) [] none
          ∧ exec (.spamoMax h a b c ty) s = sent st (.amo .max ty k.toNat v.toNat) [] none
          ∧ exec (.spamoSwap h a b c ty) s = sent st (.amo .swap ty k.toNat v.toNat) [] none))
      ∧ (s.here.sources [b, c] = some ([hd, k], st) → k.toNat < 2 ^ r.width →
        (a = 0 → exec (.spld h a b c) s = sent st (.ld k.toNat) [] none)
        ∧ (∀ i, a ≠ 0 → a.toNat < 48 → st.freeSym = some i → exec (.spld h a b c) s = sent (late st a i) (.ld k.toNat) [i] none)
        ∧ (∀ i j, a ≠ 0 → a.toNat < 47 → st.freeSym = some i → (late st a i).freeSym = some j →
          let st := late (late st a i) (a + 1) j
          exec (.spnextGt h a b c) s = sent st (.next true false k.toNat) [i, j] none
          ∧ exec (.spnextGe h a b c) s = sent st (.next true true k.toNat) [i, j] none
          ∧ exec (.spprevLt h a b c) s = sent st (.next false false k.toNat) [i, j] none
          ∧ exec (.spprevLe h a b c) s = sent st (.next false true k.toNat) [i, j] none))
      ∧ (a.toNat < 48 → s.here.sources [b, c] = some ([hd, k], st) → k.toNat % 64 = 0 → s.local k off 64 = true →
        r.boxBad (s.record off) = false →
        exec (.spcnt h a b c) s = out (.cnt (s.record off)) ∧ exec (.spdel h a b c) s = out (.del (s.record off)))
      ∧ (a.toNat < 48 → s.here.sources [b] = some ([hd], st) →
        exec (.spstatKeys h a b) s = out (.stat .keys) ∧ exec (.spstatNodes h a b) s = out (.stat .nodes)
        ∧ exec (.spstatFree h a b) s = out (.stat .free) ∧ exec (.spstatDepth h a b) s = out (.stat .depth)
        ∧ exec (.spstatStatus h a b) s = out (.stat .status) ∧ exec (.spstatPages h a b) s = out (.stat .pages)
        ∧ exec (.spfree h a b) s = .next (s.acts h
          (if a = 0 then st else { st.forget a.toNat with outs := Tab.insert st.outs a.toNat s.nextTree }) fun t =>
            let gone : Region := { r with closing := true }
            { t with regions := Tab.insert s.regions hd.toNat gone,
                     treeOps := s.treeOps ++ [⟨s.nextTree, hd.toNat, r.uid, s.cur, .free, [], some a.toNat, false⟩],
                     nextTree := s.nextTree + 1 }))
      ∧ (s.treeBusy s.cur = true → exec (.spwait h) s = .next (waitAt .plain s s))
      ∧ (s.treeBusy s.cur = false → (s.here.refusal = none → exec (.spwait h) s = .next (s.completes h 8 s.here))
        ∧ ∀ x, s.here.refusal = some x → exec (.spwait h) s = .next (trapAt ⟨x.cause, x.sub, x.handle.setWidth 64, .cmd, false⟩ s
          (s.setHere { s.here with refusal := none }))))
  ∧ (∀ (s : State) (h : Hdr) (a b c : BitVec 6) (vb va : Word) (off lo : Nat) (st : Strand) (t : Tlb), s.guarded h = true →
      s.here.takes a = true → s.granted .wr true va t lo = true → s.pooled (lo / 65536) = false →
      (∀ i, s.here.sources [b] = some ([vb], st) → vb.toNat % 64 = 0 → s.local vb off 64 = true →
        let d := s.record off
        let unit := bits (d.getD 3 0) 0 4
        descriptorBad d = false → va = d.getD 0 0 → bits (d.getD 1 0) 0 16 = 1 → s.freeSlot unit = some i →
        let made : Region := ⟨s.nextTree, s.here.ctx, (s.ctxOf s.here.ctx).sec, 2 ^ bits (d.getD 2 0) 36 2,
          (List.range (bits (d.getD 2 0) 32 2 + 1)).map fun k => bits (d.getD 2 0) (8 * k) 8, [lo / 65536],
          [(0, ⟨[], [], []⟩)], 0, 1, 0, false, false, false⟩
        exec (.spcfg h a b) s = .next (s.acts h (st.variable a (BitVec.ofNat 64 (unit * 4096 + i))) fun u =>
          { u.recent t with regions := Tab.insert s.regions (unit * 4096 + i) made, nextTree := s.nextTree + 1 }))
      ∧ (∀ hd r, a.toNat < 48 → s.here.sources [b, c] = some ([hd, va], st) → Tab.find s.regions hd.toNat = some r →
        r.closing = false → r.ofCtx s s.here.ctx = true → va.toNat % 65536 = 0 →
        exec (.sppool h a b c 1) s = .next (s.acts h
          (if a = 0 then st else { st.forget a.toNat with outs := Tab.insert st.outs a.toNat s.nextTree }) fun u =>
          { u.recent t with
            treeOps := s.treeOps ++ [⟨s.nextTree, hd.toNat, r.uid, s.cur, .pool [lo / 65536], [], some a.toNat, false⟩]
            nextTree := s.nextTree + 1 })))

/-- R437, R439 to R442, R446, R448 to R452, R454 to R456: the home unit applies the operation that arrives next: what each
brings, what a store, an atomic update and a deletion leave in a region of one leaf, an insert that the pool has no room for,
and what becomes of an operation whose region is faulted or gone. That a store to a region marked bad faults it whichever
nodes it visits is the model's choice (log 66, DESIGN CHOICE). -/
def Obligations.TreeOperationsApply : Prop :=
  ∀ (s : State) (unit : BitVec 4) (slot : BitVec 10) (l l' : List TOp) (o : TOp) (r : Region),
    let hd := unit.toNat * 4096 + slot.toNat
    s.treeOps = l ++ o :: l' → o.handle = hd → o.gone = false →
    (∀ p ∈ l ++ l', p.handle ≠ hd ∧ p.seq ≠ o.seq) → Tab.rising s.regions = true →
    let st := s.strand o.n
    let runs (P : State → Prop) : Prop := ∃ u : State, exec (.treeOpApply unit slot) s = .next (tick 1 (wake u))
      ∧ u = { s with strands := u.strands, regions := u.regions, treeOps := l ++ l' }
      ∧ (∀ n, n ≠ o.n → u.strand n = s.strand n) ∧ (∀ k, k ≠ hd → Tab.find u.regions k = Tab.find s.regions k) ∧ P u
    (Tab.find s.regions hd = some r → r.uid = o.uid → r.bad = false → r.faulted = false → Tab.rising s.strands = true →
      let left (r' : Region) (st' : Strand) (u : State) : Prop := Tab.find u.regions hd = some r' ∧ u.strand o.n = st'
      let took (d v : Nat) : Strand := ({ st with outs := Tab.erase st.outs d }.setReg d (.conc (BitVec.ofNat 64 v))).advance 0
      (∀ k j, o.work = .ld k → o.syms = [j] → o.out = none → runs (left r (st.resolve j (BitVec.ofNat 64 (r.get k)))))
      ∧ (∀ up eq k i j, o.work = .next up eq k → o.syms = [i, j] → o.out = none →
        let near (p : Nat × Nat) : Prop := p ∈ r.pairs ∧ (if up then k < p.1 else p.1 < k) ∨ p ∈ r.pairs ∧ eq = true ∧ p.1 = k
        let got (x y : Nat) : Prop := runs (left r ((st.resolve i (BitVec.ofNat 64 x)).resolve j (BitVec.ofNat 64 y)))
        (∀ p, (r.pairs.map Prod.fst).Pairwise (· < ·) → near p → (∀ q, near q → if up then p.1 ≤ q.1 else q.1 ≤ p.1) → got p.1 p.2)
        ∧ ((∀ p, ¬ near p) → got k 0))
      ∧ (∀ d, o.syms = [] → o.out = some d → Tab.find st.outs d = some o.seq →
        (∀ box, o.work = .cnt box → runs (left r (took d (r.pairs.filter fun p => r.inBox box p.1).length)))
        ∧ (o.work = .stat .keys → runs (left r (took d r.pairs.length)))
        ∧ (o.work = .stat .nodes → runs (left r (took d r.nodes.length)))
        ∧ (o.work = .stat .depth → runs (left r (took d r.depth)))
        ∧ (o.work = .stat .status → runs (left r (took d (r.refused.toNat * 2 ^ 32))))
        ∧ (o.work = .stat .pages → runs (left r (took d r.pages.length)))
        ∧ (∀ box i kvs, o.work = .del box → r.nodes = [(i, ⟨kvs, [], []⟩)] → r.root = i → r.depth = 1 → runs fun u =>
          u.strand o.n = took d (kvs.filter fun p => r.inBox box p.1).length
          ∧ ∃ r' : Region, Tab.find u.regions hd = some r' ∧ r' = { r with nodes := r'.nodes }
            ∧ ∀ j, r'.get j = if r.inBox box j then 0 else r.get j)
        ∧ (o.work = .stat .free → runs (left r (took d (256 * r.pages.length - r.nodes.length))))
        ∧ (∀ ps, o.work = .pool ps → let r' : Region := { r with pages := r.pages ++ ps }
          runs (left r' (took d (256 * (r.pages.length + ps.length) - r.nodes.length))))
        ∧ (o.work = .free → runs fun u => Tab.find u.regions hd = none ∧ u.strand o.n = took d r.pages.length))
      ∧ (∀ i kvs, r.nodes = [(i, ⟨kvs, [], []⟩)] → r.root = i → r.depth = 1 → kvs.length < 15 → r.pages ≠ [] →
        (kvs.map Prod.fst).Pairwise (· < ·) → (∀ p ∈ kvs, p.2 ≠ 0) → o.syms = [] → o.out = none →
        let holds (k v : Nat) : Prop := runs fun u => u.strand o.n = st ∧ ∃ r' : Region,
          Tab.find u.regions hd = some r' ∧ r' = { r with nodes := r'.nodes }
            ∧ ∀ j, r'.get j = if j = k then v else r.get j
        let cut (v : Nat) : Nat := v % 2 ^ (8 * r.esz)
        let less (ty : BitVec 2) (x y : Nat) : Prop :=
          if ty = 0 then (BitVec.ofNat (8 * r.esz) x).toInt < (BitVec.ofNat (8 * r.esz) y).toInt else x < y
        let float (ty : BitVec 2) (f : Fmt) : Prop :=
          ty = 2 ∧ ((r.esz = 2 ∧ f = b16) ∨ (r.esz = 4 ∧ f = b32) ∨ (r.esz = 8 ∧ f = b64))
        (∀ k v ty, ty ≠ 2 → r.get k < 2 ^ (8 * r.esz) →
          (o.work = .amo .min ty k v → (less ty (cut v) (r.get k) → holds k (cut v)) ∧ (¬ less ty (cut v) (r.get k) → holds k (r.get k)))
          ∧ (o.work = .amo .max ty k v →
            (less ty (r.get k) (cut v) → holds k (cut v)) ∧ (¬ less ty (r.get k) (cut v) → holds k (r.get k))))
        ∧ (∀ k v ty f, float ty f →
          (o.work = .amo .add ty k v → holds k (arith f 1 false [f.decode (r.get k), f.decode (cut v)]
            ((f.decode (r.get k)).add 1 (f.decode (cut v)))).1)
          ∧ (o.work = .amo .min ty k v → holds k (fselIn f false (r.get k) (cut v)).1)
          ∧ (o.work = .amo .max ty k v → holds k (fselIn f true (r.get k) (cut v)).1))
        ∧ (∀ k v, o.work = .st k v → holds k (v % 2 ^ (8 * r.esz)))
        ∧ (∀ k v ty, o.work = .amo .swap ty k v → holds k (v % 2 ^ (8 * r.esz)))
        ∧ (∀ k v ty, ty ≠ 2 → o.work = .amo .add ty k v → r.esz ≤ 8 →
          holds k ((r.get k + v % 2 ^ (8 * r.esz)) % 2 ^ (8 * r.esz))))
      ∧ (∀ k v, o.work = .st k v → v % 2 ^ (8 * r.esz) ≠ 0 → r.get k = 0 → r.free < r.needed k → o.syms = [] → o.out = none →
        let r' : Region := { r with refused := if r.refused = 0xFFFFFFFF then r.refused else r.refused + 1 }
        runs (left r' { st with refusal := some (st.refusal.getD ⟨0x16, 0, BitVec.ofNat 16 hd⟩) })))
    ∧ (Tab.find s.regions hd = some r → r.uid = o.uid → r.faulted = true →
      let failed (st' : Strand) : Strand := { st' with refusal := some (st.refusal.getD ⟨0x17, 4, BitVec.ofNat 16 hd⟩) }
      let fails (st' : Strand) : Prop := runs fun u => u.regions = s.regions ∧ u.strand o.n = failed st'
      (∀ k v, o.work = .st k v → o.syms = [] → o.out = none → fails st)
      ∧ (∀ k j, o.work = .ld k → o.syms = [j] → o.out = none → fails (st.spoil j .failed))
      ∧ (∀ f ty k v, o.work = .amo f ty k v → o.syms = [] → o.out = none → fails st)
      ∧ (∀ up eq k i j, o.work = .next up eq k → o.syms = [i, j] → o.out = none → fails ((st.spoil i .failed).spoil j .failed))
      ∧ (∀ box ps d, o.work = .cnt box ∨ o.work = .del box ∨ o.work = .pool ps → o.syms = [] → o.out = some d → Tab.find st.outs d = some o.seq →
        fails (({ st with outs := Tab.erase st.outs d }.setReg d (.poison .failed)).advance 0))
      ∧ (∀ d, o.work = .stat .status → o.syms = [] → o.out = some d → Tab.find st.outs d = some o.seq → runs fun u =>
        Tab.find u.regions hd = some r ∧ u.strand o.n = ({ st with outs := Tab.erase st.outs d }.setReg d
          (.conc (BitVec.ofNat 64 (r.refused.toNat * 2 ^ 32 + 1)))).advance 0))
    ∧ (Tab.find s.regions hd = some r → r.uid = o.uid → r.bad = true → r.faulted = false → ∀ k v, o.work = .st k v →
      o.syms = [] → o.out = none → ∃ u : State, exec (.treeOpApply unit slot) s = .next (tick 1 (wake u))
        ∧ Tab.find u.regions hd = some { r with faulted := true } ∧ u.mem = s.mem
        ∧ (u.strand o.n).refusal = some (st.refusal.getD ⟨0x17, 4, BitVec.ofNat 16 hd⟩))
    ∧ (Tab.find s.regions hd = none → o.syms = [] → o.out = none → st.refusal = none →
      runs fun u => u.strand o.n = { st with refusal := some ⟨0x17, 5, BitVec.ofNat 16 hd⟩ })

/-! ### Memory through a kept translation -/

/-- R158, R179, R180, R469: loads and stores of aligned bytes through a translation the die keeps reach module memory at the
address it gives; and what each check of R158 stops, in its order. What the strand's groups may not see yet of its stores
(log 6) is kept with it, an entry in a secure frame stays as it is for a non-secure context (log 92), a place that is no HBM4
frame has WORLD 0 (log 27), a translation that is used is the most recent (log 7), and what lies below the caches is kept, of a
page with NC and of STX too (log 8): the model's readings and choices. -/
def Obligations.MappedMemory : Prop :=
  ∀ (s : State) (h : Hdr) (t base index : BitVec 6) (size : BitVec 2) (disp : BitVec 24) (b i x : Word) (lo : Nat)
    (st : Strand) (tr : Tlb), s.guarded h = true → s.here.syms = [] → s.here.wmset = [] →
    let n := 2 ^ size.toNat
    let va : Word := b + i * BitVec.ofNat 64 n + disp.signExtend 64
    va.toNat % n = 0 →
    let load := exec (.ld h t base size index disp) s
    let store := exec (.st h t base size index disp) s
    let line := lo / 128
    let shown (st : Strand) : Strand := if pteKind tr.pte = 0 then st.performed else st
    let after (st : Strand) : Strand := if s.heldOf s.cur = [] then shown st else
      { shown st with unseen := noteOld s.mem (shown st).unseen lo n }
    (s.here.sources [base, index] = some ([b, i], st) → s.here.takes t = true → s.granted .rd false va tr lo = true →
      s.sound lo n = true → load = .next (s.acts h ((shown st).variable t (BitVec.ofNat 64 (leNat (Memory.bytes s.mem lo n))))
        fun u => u.recent tr))
    ∧ (s.here.sources [base, index, t] = some ([b, i, x], st) → s.granted .wr false va tr lo = true → s.sound lo n = true →
      let bytes := leBytes x.toNat n
      let below : Tab Byte := if 768 * 2 ^ 30 ≤ lo then s.mscOld else noteOld s.mem s.mscOld lo n
      (tr.pte.getLsbD 10 = false →
        store = .next (s.acts h (after st) fun u => { u.recent tr with
          mem := Memory.setBytes s.mem lo bytes, l2old := noteOld s.mem s.l2old lo n })
        ∧ ((∀ c ∈ s.l2old, c.1 / 128 ≠ line) → (∀ c ∈ s.l2bad, c.1 / 2 ≠ line) → ∃ hit : Bool,
          exec (.stx h t base size index disp) s = .next (s.acts h (after st) fun u => { u.recent tr with
            mem := Memory.setBytes s.mem lo bytes, free := s.free + 1
            l2old := if hit = true then noteOld s.mem s.l2old lo n else s.l2old
            mscOld := if hit = true then s.mscOld else below })))
      ∧ (tr.pte.getLsbD 10 = true → (∀ c ∈ s.l2old, c.1 / 128 ≠ line) → (∀ c ∈ s.l2bad, c.1 / 2 ≠ line) →
        ∀ i ∈ [Instr.st h t base size index disp, .stx h t base size index disp],
          exec i s = .next (s.acts h (after st) fun u => { u.recent tr with
            mem := Memory.setBytes s.mem lo bytes, mscOld := below })))
    ∧ (s.here.sources [base, index, t] = some ([b, i, x], s.here) → s.here.takes t = true → inWindow va = false →
      let both (c : Cause) (sub : BitVec 8) : Prop := load = .next (s.traps c sub va) ∧ store = .next (s.traps c sub va)
      (bits va 56 8 ≠ 0 → both .xlate 4)
      ∧ (s.translated va tr = true →
        let pa := s.physical tr va
        (tr.pte.getLsbD 7 ≠ s.worldOf pa ∨ (s.worldOf pa = true ∧ (s.ctxOf s.here.ctx).sec = false) → both .world 0)
        ∧ (tr.pte.getLsbD 7 = false → s.worldOf pa = false →
          (tr.pte.getLsbD 4 = false → store = .next (s.traps .perm 1 va))
          ∧ (tr.pte.getLsbD 4 = true →
            (s.here.sup = false → tr.pte.getLsbD 6 = false → both .perm 3)
            ∧ (s.here.sup = true ∨ tr.pte.getLsbD 6 = true →
              (tr.pte.getLsbD 13 = true → both .owner 0)
              ∧ (tr.pte.getLsbD 13 = false →
                (bits tr.pte 2 2 = 3 → both .orderKind 0)
                ∧ (bits tr.pte 2 2 ≠ 3 → s.worldOf tr.loc = true → (s.ctxOf s.here.ctx).sec = false →
                  tr.pte.getLsbD 8 = false → both .world 0)
                ∧ (bits tr.pte 2 2 ≠ 3 → s.worldOf tr.loc = false → ∀ sub, s.placeOf pa = .error sub → both .unbacked sub)))))))


/-! ### Memory-side units, system functions and links -/

/-- R467, R472, R501: RCLASS and SMC.setw zero a frame that nothing refers to and give it its class, pool bit or world, or
answer why not; RCLASS.read gives its entry. That BUSY reads 0 (log 38), and that status 5 of SMC.setw has the
conditions of RCLASS.set and the class bits of c are ignored (log 83), are the model's. R473, R479, R480, R489, R490:
the functions of MSCOP and PEERW. Which lines are dirty or held, and the hit and write-back counts, are free values
(logs 8, 12), and the bounds of what the range forms answer are the model's (log 81). What MSCOP.inv discards leaves
the line with the errors that lie below it (R468, R470). -/
def Obligations.FramesAndMemorySide : Prop :=
  (∀ (s : State) (h : Hdr) (a b c : BitVec 6) (f v : Word) (st : Strand), s.guarded h = true → s.here.sup = true →
      s.here.takes a = true →
      let k := f.toNat
      let x := s.frame k
      let give (w : Word) : Host.Outcome State Fault Refusal := .next (s.completes h 8 (st.variable a w))
      let change (run : Host.Outcome State Fault Refusal) (y : Frame) : Prop := s.frameBusy k = false →
        (s.frameMapped k = true → run = give 1)
        ∧ (s.frameMapped k = false →
          (s.framePooled k = true → run = give 2)
          ∧ (s.framePooled k = false →
            (s.framePromoted k = true → run = give 3)
            ∧ (s.framePromoted k = false → run = .next (s.acts h (st.variable a 0) fun t => (t.zeroFrame k).setFrame k y))))
      (s.here.sources [b] = some ([f], st) →
        (768 ≤ k → exec (.rclassRead h a b) s = give 0xFFFFFFFFFFFFFFFF)
        ∧ (k < 768 → exec (.rclassRead h a b) s = give (BitVec.ofNat 48 (usableBytes x.cls / 2 ^ 20) ++ (0 : BitVec 12)
          ++ (if x.world then 1 else 0 : BitVec 1) ++ (if x.promo then 1 else 0 : BitVec 1) ++ x.cls)))
      ∧ (s.here.sources [b, c] = some ([f, v], st) →
        (768 ≤ k ∨ bits v 0 2 = 3 ∨ bits v 3 61 ≠ 0 → exec (.rclassSet h a b c) s = give 5)
        ∧ (k < 768 → bits v 0 2 ≠ 3 → bits v 3 61 = 0 →
          (s.here.secure = false → x.world = true → exec (.rclassSet h a b c) s = give 4)
          ∧ (s.here.secure = true ∨ x.world = false →
            change (exec (.rclassSet h a b c) s) { x with cls := v.extractLsb' 0 2, promo := v.getLsbD 2 }))
        ∧ (s.here.secure = false → exec (.smcSetw h a b c) s = give 4)
        ∧ (s.here.secure = true →
          (768 ≤ k ∨ bits v 0 2 = 3 ∨ bits v 3 61 ≠ 0 → exec (.smcSetw h a b c) s = give 5)
          ∧ (k < 768 → bits v 0 2 ≠ 3 → bits v 3 61 = 0 → change (exec (.smcSetw h a b c) s) { x with world := v.getLsbD 0 })))
      ∧ (let t := s.zeroFrame k
        let inside (p : Nat) : Prop := k * 2 ^ 30 ≤ p ∧ p < k * 2 ^ 30 + 2 ^ 30
        t = { s with mem := t.mem, l2old := t.l2old, mscOld := t.mscOld, poisoned := t.poisoned, flips := t.flips,
                     l2bad := t.l2bad, mscBad := t.mscBad, strands := t.strands }
        ∧ (∀ j, t.strand j = { s.strand j with unseen := [] })
        ∧ ∀ p, (inside p → Memory.byte t.mem p = 0 ∧ Tab.find t.l2old p = none ∧ Tab.find t.mscOld p = none
            ∧ p / 64 ∉ t.poisoned ∧ Tab.find t.flips (p / 64) = none ∧ Tab.find t.l2bad (p / 64) = none
            ∧ Tab.find t.mscBad (p / 64) = none)
          ∧ (¬ inside p → Memory.byte t.mem p = Memory.byte s.mem p ∧ Tab.find t.l2old p = Tab.find s.l2old p
            ∧ Tab.find t.mscOld p = Tab.find s.mscOld p ∧ (p / 64 ∈ t.poisoned ↔ p / 64 ∈ s.poisoned)
            ∧ Tab.find t.flips (p / 64) = Tab.find s.flips (p / 64) ∧ Tab.find t.l2bad (p / 64) = Tab.find s.l2bad (p / 64)
            ∧ Tab.find t.mscBad (p / 64) = Tab.find s.mscBad (p / 64))))
  ∧ (∀ (s : State) (h : Hdr) (a b c : BitVec 6) (x y : Word) (st : Strand), s.guarded h = true → s.here.sup = true →
      s.here.takes a = true →
      let give (w : Word) : Host.Outcome State Fault Refusal := .next (s.completes h 8 (st.variable a w))
      let ones : Word := 0xFFFFFFFFFFFFFFFF
      let put (w : Word) (ws : Tab Word) : Host.Outcome State Fault Refusal :=
        .next (s.acts h (st.variable a w) fun t => { t with windows := ws })
      let old := Tab.get 0 s.windows x.toNat
      let entry := 1 ≤ x.toNat ∧ x.toNat < 64
      (s.here.sources [b] = some ([x], st) →
        (¬ entry → exec (.peerwRead h a b) s = give ones ∧ exec (.peerwClose h a b) s = give ones)
        ∧ (entry → exec (.peerwRead h a b) s = give old
          ∧ (s.windowBusy x.toNat = false →
            exec (.peerwClose h a b) s = put old (Tab.put 0 s.windows x.toNat (old &&& ~~~(8 : Word))))))
      ∧ (s.here.sources [b, c] = some ([x, y], st) →
        (¬ entry ∨ bits y 3 43 ≠ 0 → exec (.peerwOpen h a b c) s = give ones)
        ∧ (entry → bits y 3 43 = 0 → exec (.peerwOpen h a b c) s = put old (Tab.put 0 s.windows x.toNat (y ||| 8)))
        ∧ (64 ≤ x.toNat ∨ bits y 17 47 ≠ 0 → exec (.peerwBind h a b c) s = give ones)
        ∧ (x.toNat < 64 → bits y 17 47 = 0 → let r := s.ramirOf x.toNat
          exec (.peerwBind h a b c) s = .next (s.acts h
            (st.variable a (match r.bind with | some n => 0x10000 ||| BitVec.ofNat 64 n | none => 0)) fun t =>
            t.setRamir x.toNat { r with bind := if y.getLsbD 16 then some (bits y 0 16) else none }))
        ∧ (12 ≤ x.toNat ∨ 4 ≤ y.toNat → exec (.mscopStat h a b c) s = give ones)
        ∧ (x.toNat < 12 → y = 3 → exec (.mscopStat h a b c) s = give (Tab.get 0 s.sliceCorr x.toNat))
        ∧ (x.toNat < 12 → y.toNat < 3 → ∃ w : Word, exec (.mscopStat h a b c) s
          = .next (s.acts h (st.variable a w) fun t => { t with free := s.free + 1 }))
        ∧ (x.toNat % 128 ≠ 0 ∨ y.toNat % 128 ≠ 0 ∨ s.localPa x = none
            ∨ (∃ pa, s.localPa x = some pa ∧ 768 * 2 ^ 30 < pa + y.toNat) →
          exec (.mscopClean h a b c) s = give ones ∧ exec (.mscopClinv h a b c) s = give ones
          ∧ exec (.mscopInv h a b c) s = give ones)
        ∧ (∀ pa, x.toNat % 128 = 0 → y.toNat % 128 = 0 → s.localPa x = some pa → pa + y.toNat ≤ 768 * 2 ^ 30 →
          let out (k : Nat) : Prop := pa ≤ k ∧ k < pa + y.toNat ∧ (s.here.secure = true ∨ s.worldOf k = false)
          let did (run : Host.Outcome State Fault Refusal) (P : State → Prop) : Prop := ∃ (u : State) (w : Word),
            run = .next (retire h.stall (s.here.pc + 8) (u.setHere (st.variable a w))) ∧ w.toNat ≤ y.toNat / 128
            ∧ ((∀ k, ¬ out k) → w = 0)
            ∧ (∀ k, out k → Tab.find u.mscOld k = none) ∧ (∀ k, ¬ out k → Tab.find u.mscOld k = Tab.find s.mscOld k) ∧ P u
          let bad (u : State) : Prop := ∀ k, ¬ out k → Tab.find u.mscBad (k / 64) = Tab.find s.mscBad (k / 64)
          did (exec (.mscopClean h a b c) s) (fun u => u = { s with mscOld := u.mscOld, mscBad := u.mscBad, free := u.free } ∧ bad u)
          ∧ did (exec (.mscopClinv h a b c) s)
            (fun u => u = { s with mscOld := u.mscOld, mscBad := u.mscBad, free := u.free } ∧ bad u)
          ∧ did (exec (.mscopInv h a b c) s) (fun u =>
            u = { s with mem := u.mem, l2old := u.l2old, mscOld := u.mscOld, l2bad := u.l2bad, mscBad := u.mscBad,
                         poisoned := u.poisoned, flips := u.flips, free := u.free } ∧ bad u
            ∧ ∀ k, ¬ out k → Memory.byte u.mem k = Memory.byte s.mem k ∧ (k / 64 ∈ u.poisoned ↔ k / 64 ∈ s.poisoned)
              ∧ Tab.find u.flips (k / 64) = Tab.find s.flips (k / 64) ∧ Tab.find u.l2bad (k / 64) = Tab.find s.l2bad (k / 64))))
      ∧ (∀ lo hi line e, Tab.rising s.mscBad = true → Tab.rising s.flips = true → lo % 64 = 0 → hi % 64 = 0 → lo ≤ line * 64 →
        line * 64 < hi → Tab.find s.mscBad line = some e → (∀ c ∈ s.l2old, c.1 / 64 ≠ line) →
        let u := s.dropMsc lo hi
        (line ∈ u.poisoned ↔ e.poisoned = true) ∧ Tab.find u.flips line = e.flips ∧ Tab.find u.mscBad line = none))

/-- R35, R184, R488, R490 to R493, R497, R500, R502 to R504: firmware loads and versions, counters, the debugger,
attestation, block power, and messages to the host and to peers; their memory operands lie in the die's scratchpad. What
DBG gives for a halted strand it halts, starts or signals, and what a quote holds in its open bytes, are free values (logs 12,
84). It is the model's choice that DBG.wr answers all ones for a strand that HALT keeps while DBG.rd and DBG.go accept it, and
what becomes of a wait that DBG.halt ends or of a stream that DBG.wr names (log 71), that DBG.halt lands pending writes (log
47), that PRIV of PERF.read comes after the guard (log 100), that PMSG.send writes and reads the peer's inbox (log 80), that
PMSG.recv checks no alignment (log 86), when a group counts as gated (log 18) and that the digests are SHA-384 of FIPS 180-4
(log 88, PRESUMED). -/
def Obligations.SystemFunctions : Prop :=
  ∀ (s : State) (h : Hdr) (a b c ch : BitVec 6) (vec : BitVec 11) (x y : Word) (off off' : Nat) (st : Strand),
    s.guarded h = true → s.here.takes a = true →
    let give (w : Word) : Host.Outcome State Fault Refusal := .next (s.completes h 8 (st.variable a w))
    let gives (w : Word) : Host.Outcome State Fault Refusal := .next (s.completes h 8 (st.performed.variable a w))
    let ones : Word := 0xFFFFFFFFFFFFFFFF
    let n := x.toNat
    let kept := (s.strand n).dbg = true ∨ (s.strand n).halt = .halted
    (s.here.sup = true → exec (.smcVer h a) s = .next (s.completes h 8 (s.here.variable a (s.mgmt.monVer.setWidth 64))))
    ∧ (s.here.sources [b] = some ([x], st) →
      let counter : Word := if n = 0 then s.here.retired
        else if n = 1 then (s.heldOf s.cur).foldl (fun k g => k + (s.group g).passes) 0
        else if n = 2 then s.here.symWait else if n = 3 then s.late else if n = 4 then s.pageReqs else ones
      ((s.here.sup = true ∨ n ≠ 3 ∧ n ≠ 4) → exec (.perfRead h a b) s = give counter)
      ∧ (s.here.sup = false → n = 3 ∨ n = 4 → st = s.here → exec (.perfRead h a b) s = .next (s.traps .priv 0 0))
      ∧ (s.here.sup = true →
        (n = 3 → exec (.perfClr h a b) s = .next (s.acts h (st.variable a s.late) fun t => { t with late := 0 }))
        ∧ (n = 4 → exec (.perfClr h a b) s = .next (s.acts h (st.variable a s.pageReqs) fun t => { t with pageReqs := 0 }))
        ∧ (n = 0 → exec (.perfClr h a b) s = .next (s.completes h 8 { st.variable a s.here.retired with retired := 0 }))
        ∧ (n = 2 → exec (.perfClr h a b) s = .next (s.completes h 8 { st.variable a s.here.symWait with symWait := 0 }))
        ∧ (n = 1 → Tab.rising s.groups = true → ∃ u : State, u = { s with groups := u.groups }
          ∧ (∀ g, u.group g = if g ∈ s.heldOf s.cur then { s.group g with passes := 0 } else s.group g)
          ∧ exec (.perfClr h a b) s = .next (retire h.stall (s.here.pc + 8) (u.setHere (st.variable a counter))))
        ∧ (4 < n → exec (.perfClr h a b) s = give ones))
      ∧ exec (.pwrqMax h a b) s = give (match [11500, 1900, 85000, 220000, 32000, 120000, 12000, 455200][n]? with
        | some m => BitVec.ofNat 64 m | none => ones)
      ∧ (s.here.sup = true →
        (1024 ≤ n → exec (.dbgHalt h a b) s = give ones)
        ∧ (n < 1024 →
          let halts (w : Word) (free : Nat) : Host.Outcome State Fault Refusal := .next (s.acts h (st.variable a w) fun t =>
            let u := t.strand n
            let left := if u.paused = true ∧ n ≠ s.cur then { u.landAll.unissue.endWait s.cycle with epc := u.pc.setWidth 64 } else u.landAll
            { t.setStrand n { left with dbg := true } with
              free := free
              remotes := s.remotes.filter fun r => !((r.who == .strand n || r.who == .fetch n) && r.op == .read) })
          (¬ kept → exec (.dbgHalt h a b) s = halts ones s.free)
          ∧ (kept → ∃ w : Word, exec (.dbgHalt h a b) s = halts w (s.free + 1)))
        ∧ ((1024 ≤ n ∨ ((s.strand n).dbg = false ∧ (s.strand n).halt ≠ .halted)) → exec (.dbgGo h a b) s = give ones)
        ∧ (n < 1024 → n ≠ s.cur → (s.strand n).dbg = true ∨ (s.strand n).halt = .halted →
          ∃ w : Word, exec (.dbgGo h a b) s = .next (s.acts h (st.variable a w) fun t =>
            { t.setStrand n { s.strand n with dbg := false, halt := if (s.strand n).halt = .stopped then .stopped else .running, waiting := none } with free := s.free + 1 })))
      ∧ (s.here.sup = true → s.here.secure = true →
        let bytes := s.scratch off (2668 + (s.scratchWord off 2).toNat)
        let ver := (s.scratchWord off 1).extractLsb' 32 32
        (s.local x off 64 = true → imageBad (s.scratch off 64) 3 = true → exec (.smcFwld h a b) s = give 3)
        ∧ (s.local x off bytes.length = true → imageBad (s.scratch off 64) 3 = false →
          (imageSigned bytes = false → exec (.smcFwld h a b) s = give 1)
          ∧ (imageSigned bytes = true → ver.toNat < s.mgmt.fwVer.toNat → exec (.smcFwld h a b) s = give 2)
          ∧ (imageSigned bytes = true → s.mgmt.fwVer.toNat ≤ ver.toNat → exec (.smcFwld h a b) s
            = .next (s.acts h (st.variable a 0) fun t =>
              { t with mgmt := { s.mgmt with fwVer := ver, fwImg := .loaded bytes } }))))
      ∧ (s.here.sup = true → s.here.secure = false → exec (.smcFwld h a b) s = give 4)
      ∧ (s.here.sup = true → x.toNat % 64 = 0 → s.local x off 64 = true →
        let m := s.mgmt
        (m.hrcnt = 0 → exec (.hmsg h a b vec) s = gives 2)
        ∧ (m.hrcnt ≠ 0 → m.hrhead.toNat + m.hrcnt.toNat ≤ m.hrtail.toNat → exec (.hmsg h a b vec) s = gives 1)
        ∧ (m.hrcnt ≠ 0 → m.hrtail.toNat < m.hrhead.toNat + m.hrcnt.toNat → exec (.hmsg h a b vec) s
          = .next (s.acts h (st.performed.variable a 0) fun t => { t with
            out := s.out ++ [.hostWrite none (m.hrbase.toNat / 64 * 64 + m.hrtail.toNat % m.hrcnt.toNat * 64)
              (s.scratch off 64), .msix vec.toNat]
            mgmt := { m with hrtail := m.hrtail + 1 } })))
      ∧ (let r := s.ramirOf ch.toNat
        (r.bind ≠ some s.here.ctx → exec (.pmsgRecv h a b ch) s = give ones)
        ∧ (r.bind = some s.here.ctx → r.msgs = [] → exec (.pmsgRecv h a b ch) s = give 0)
        ∧ (∀ m rest, r.bind = some s.here.ctx → r.msgs = m :: rest → m.length = 64 → s.local x off 64 = true →
          exec (.pmsgRecv h a b ch) s = .next (s.acts h (st.variable a (BitVec.ofNat 64 (leNat (m.take 8)))) fun t =>
            (t.putScratch off m).setRamir ch.toNat { r with msgs := rest }))))
    ∧ (let r := s.ramirOf ch.toNat
      let put (w : Word) : Host.Outcome State Fault Refusal := .next (s.completes h 8 (s.here.variable a w))
      (r.bind ≠ some s.here.ctx → exec (.pmsgWait h a ch) s = put ones)
      ∧ (r.bind = some s.here.ctx → r.msgs ≠ [] → exec (.pmsgWait h a ch) s = put (BitVec.ofNat 64 r.msgs.length))
      ∧ (r.bind = some s.here.ctx → r.msgs = [] → exec (.pmsgWait h a ch) s = .next (waitAt .plain s s)))
    ∧ (s.here.sources [b, c] = some ([x, y], st) →
      (∀ k, y.toNat < [128, 512, 8, 1, 12, 1, 8, 1].getD n 0 → n = k → k ≠ 1 → let z := s.throttle k y.toNat
        exec (.pwrqState h a b c) s = give ((0 : BitVec 40) ++ z.temp ++ (0 : BitVec 8) ++ (if z.gated then 1 else 0 : BitVec 1)
          ++ z.level))
      ∧ (n = 1 → y.toNat < 512 → let g := s.group y.toNat
        exec (.pwrqState h a b c) s = give ((0 : BitVec 40) ++ (s.throttle 1 y.toNat).temp ++ (0 : BitVec 8)
          ++ (if g.gated = 0xFFFF then 1 else 0 : BitVec 1)
          ++ BitVec.ofNat 7 ((s.die (y.toNat / 64)).apermit.toNat * 100 / 16)))
      ∧ ((∀ k, [128, 512, 8, 1, 12, 1, 8, 1][n]? = some k → k ≤ y.toNat) → exec (.pwrqState h a b c) s = give ones)
      ∧ (s.here.sup = true → n < 1024 → n ≠ s.cur →
        let signals (w : Word) (free : Nat) : Host.Outcome State Fault Refusal := .next (s.acts h (st.variable a w) fun t =>
          { t.setStrand n { s.strand n with events := { (s.strand n).events with
            debug := some (((s.strand n).events.debug).getD y) } } with free := free })
        (¬ kept → exec (.dbgSig h a b c) s = signals ones s.free)
        ∧ (kept → ∃ w : Word, exec (.dbgSig h a b c) s = signals w (s.free + 1))
        ∧ (kept → (s.strand n).pend = [] →
          (∀ v, y.toNat < 48 → (s.strand n).reg y.toNat = .conc v → exec (.dbgRd h a b c) s = give v)
          ∧ (64 ≤ y.toNat → y.toNat < 72 → exec (.dbgRd h a b c) s = give (if (s.strand n).pred (y.toNat - 64) then 1 else 0)))
        ∧ ((s.strand n).dbg = true → (s.strand n).pend = [] →
          (bits y 0 57 ≠ 0 → exec (.dbgWr h a b c) s = give ones)
          ∧ (bits y 0 57 = 0 → 48 ≤ bits y 57 7 → bits y 57 7 < 64 →
            (Tab.find (s.strand n).streams (bits y 57 7 - 48) = none → exec (.dbgWr h a b c) s = give 0)
            ∧ ∀ z, Tab.find (s.strand n).streams (bits y 57 7 - 48) = some z → z.out = true → z.fail = none →
              z.buf.length < 64 → z.next < recCount z.record → exec (.dbgWr h a b c) s
                = .next (s.acts h (st.variable a 0) fun t => t.setStrand n ((s.strand n).enqueue (bits y 57 7 - 48) s.here.hscra)))
          ∧ (bits y 0 57 = 0 → 64 ≤ bits y 57 7 → bits y 57 7 < 72 → exec (.dbgWr h a b c) s
            = .next (s.acts h (st.variable a 0) fun t =>
              t.setStrand n ((s.strand n).setPred (bits y 57 7 - 64) (s.here.hscra.getLsbD 0))))
          ∧ (bits y 0 57 = 0 → bits y 57 7 < 48 → exec (.dbgWr h a b c) s = .next (s.acts h (st.variable a 0) fun t =>
            t.setStrand n (((s.strand n).forget (bits y 57 7)).setReg (bits y 57 7) (.conc s.here.hscra))))))
      ∧ (s.here.sup = true → n ≥ 1024 → exec (.dbgSig h a b c) s = give ones)
      ∧ (s.here.sup = true → n ≥ 1024 ∨ ((s.strand n).dbg = false ∧ (s.strand n).halt ≠ .halted) →
        exec (.dbgRd h a b c) s = give ones)
      ∧ (s.here.sup = true → n ≥ 1024 ∨ (s.strand n).dbg = false → exec (.dbgWr h a b c) s = give ones)
      ∧ (s.here.sup = true → y.toNat % 64 = 0 → s.local x off 64 = true → s.local y off' 3744 = true →
        ∃ q : List Byte, q.length = 3744 ∧ (q.drop 64).take 64 = s.scratch off 64
          ∧ (let w : Word := BitVec.ofNat 64 (leNat (q.take 8))
            w.extractLsb' 0 16 = BitVec.ofNat 16 s.here.ctx ∧ w.getLsbD 16 = s.here.secure ∧ bits w 48 16 = 1)
          ∧ (q.drop 128).take 144 = sha384 s.mgmt.monImg.bytes ++ sha384 s.mgmt.ucodeImg.bytes ++ sha384 s.mgmt.fwImg.bytes
          ∧ (q.drop 272).take 864 = List.replicate 864 0
          ∧ exec (.atst h a b c) s = .next (s.acts h (st.variable a 3744) fun t =>
            { t.putScratch off' q with free := s.free + 58 }))
      ∧ ((∀ l r l', s.remotes = l ++ r :: l' → (∀ q ∈ l, q.isMessage s.cur = false) → r.isMessage s.cur = true →
          (st = s.here → r.ans = none → exec (.pmsgSend h a b c ch) s = .next (waitAt .remote s s))
          ∧ (∀ v bs, r.ans = some (.data (v :: bs)) → v.toNat ≤ 2 →
            exec (.pmsgSend h a b c ch) s = give (v.setWidth 64)))
        ∧ (x.toNat % 64 = 0 → s.local x off 64 = true →
          (y.toNat = 0 ∨ 64 ≤ y.toNat ∨ (Tab.get 0 s.windows y.toNat).getLsbD 3 = false →
            exec (.pmsgSend h a b c ch) s = gives 3)
          ∧ (0 < y.toNat → y.toNat < 64 → (Tab.get 0 s.windows y.toNat).getLsbD 3 = true → st = s.here →
            let inbox := mgmtBase + 0x40000 + 64 * ch.toNat
            let msg : RemoteOp := .message ch.toNat (s.scratch off 64)
            let ask : Remote := ⟨s.nextReq, .strand s.cur, some s.here.ctx, .peer y.toNat inbox, 1, msg, x, s.cycle, none⟩
            let base := Tab.get 0 s.windows y.toNat
            exec (.pmsgSend h a b c ch) s = .next (waitAt .remote s { s with
              remotes := s.remotes ++ [ask], nextReq := s.nextReq + 1
              out := s.out ++ [.inboxWrite y.toNat (base.toNat % 8) (0x40000 + 64 * ch.toNat) (s.scratch off 64),
                .inboxRead s.nextReq y.toNat (base.toNat % 8) (0x40000 + 64 * ch.toNat)] })))))


/-! ### Host, links and device events -/

/-- R94, R485 to R487, R491, R492, R499, Table 18.6: what the host and a PCIe requester do to the module: MBOXSEQ and the
management registers, inbound requests to BAR0 and to sound lines through BAR2, and a Ramir message that arrives. That an inbound BAR0 write over the
Ramir inbox and above it changes nothing, a message being an event of its own (log 80), and that BAR2 is served in STATE 1
alone (log 79) are the model's choices. -/
def Obligations.HostRequests : Prop :=
  ∀ (s : State) (v : BitVec 64) (off : BitVec 12) (src : PcieSource) (addr : BitVec 64) (bs : List (BitVec 8))
    (len : BitVec 13) (op : BitVec 4) (sz : BitVec 2) (ch frm : BitVec 6) (ctx : BitVec 16) (x y : BitVec 64),
    let did (t : State) : Host.Outcome State Fault Refusal := .next (tick 1 t)
    let m := s.mgmt
    let pa := addr.toNat
    let complete (t : State) (d : Option (List Byte)) : State := { t with out := t.out ++ [.completion d false] }
    let refused := s.logEvent pa none 6 (src.port.setWidth 8) 3
    (m.state ≠ 2 ∨ v = m.mboxseq → exec (.mboxseqWrite v) s = did (wake { s with mgmt := { m with mboxseq := v } }))
    ∧ (m.state = 2 → v ≠ m.mboxseq → exec (.mboxseqWrite v) s = did { s with
        mgmt := { m with mboxseq := v, answered := m.answered + 1 }
        mem := Memory.setBytes s.mem (mgmtBase + 0x10F00)
          (leBytes m.failed.toNat 8 ++ leBytes m.detail.toNat 8 ++ leBytes (m.answered + 1).toNat 8)
        out := s.out ++ [.msix 0] })
    ∧ (off = 0x08 → exec (.mgmtRegisterWrite off v) s = did { s with mgmt := { m with devno := v.setWidth 6 } })
    ∧ (off = 0x10 → exec (.mgmtRegisterWrite off v) s = exec (.mboxseqWrite v) s)
    ∧ (off = 0x18 → exec (.mgmtRegisterWrite off v) s
        = did { s with mgmt := { m with hrbase := v.extractLsb' 6 58 ++ (0 : BitVec 6) } })
    ∧ (off = 0x20 → exec (.mgmtRegisterWrite off v) s = did { s with mgmt := { m with hrcnt := v.setWidth 17 } })
    ∧ (off = 0x30 → exec (.mgmtRegisterWrite off v) s = did { s with mgmt := { m with hrhead := v } })
    ∧ (off ≠ 0x08 → off ≠ 0x10 → off ≠ 0x18 → off ≠ 0x20 → off ≠ 0x30 → exec (.mgmtRegisterWrite off v) s = did s)
    ∧ (src.bar2 = false →
      exec (.inboundPcieRead src addr len) s = did (complete s (some (s.mgmtBytes pa len.toNat)))
      ∧ (0x10000 ≤ pa → pa + bs.length ≤ 0x20000 → exec (.inboundPcieWrite src addr bs) s
        = did (wake { s with mem := Memory.setBytes s.mem (mgmtBase + pa) bs }))
      ∧ (0x20000 ≤ pa → exec (.inboundPcieWrite src addr bs) s = did (wake s))
      ∧ (pa < 0x1000 → pa % 8 = 0 → bs.length = 8 → ∃ t : State,
        exec (.mgmtRegisterWrite (BitVec.ofNat 12 pa) (BitVec.ofNat 64 (leNat bs))) s = did t
        ∧ exec (.inboundPcieWrite src addr bs) s = did (wake t)))
    ∧ (src.bar2 = true →
      (s.bar2Open src pa bs.length = false → exec (.inboundPcieWrite src addr bs) s = did refused)
      ∧ (s.bar2Open src pa len.toNat = false → exec (.inboundPcieRead src addr len) s = did (complete refused none))
      ∧ (s.bar2Open src pa bs.length = true → pa % 65536 + bs.length ≤ 65536 → s.sound pa bs.length = true → ∃ u : State,
        exec (.inboundPcieWrite src addr bs) s = did (wake u)
        ∧ u = { s with mem := Memory.setBytes s.mem pa bs, l2old := u.l2old })
      ∧ (s.bar2Open src pa len.toNat = true → s.sound pa len.toNat = true →
        exec (.inboundPcieRead src addr len) s = did (complete s (some (Memory.bytes s.mem pa len.toNat))))
      ∧ (s.bar2Open src pa len.toNat = true → 0 < len.toNat → pa % 64 + len.toNat ≤ 64 → pa / 64 ∈ s.poisoned → ∃ u : State,
        exec (.inboundPcieRead src addr len) s = did u ∧ u.mem = s.mem ∧ u.mgmt.logseq = m.logseq + 1
        ∧ u.out.getLast? = some (.completion (some (Memory.bytes s.mem pa len.toNat)) true))
      ∧ (let n := 2 ^ sz.toNat
        let old := leNat (Memory.bytes s.mem pa n)
        let done (m' : Memory) : Prop := ∃ u : State, exec (.inboundPcieAtomic src addr op sz x y) s = did u
          ∧ u.out = s.out ++ [.completion (some (Memory.bytes s.mem pa n)) false] ∧ u.mem = m' ∧ u.mgmt = m ∧ u.groups = s.groups
        s.bar2Open src pa n = true → pa % n = 0 → s.sound pa n = true →
        (∀ f, [RmwOp.add, .and, .or, .xor, .swap, .min, .max, .minu, .maxu, .maxrst][op.toNat]? = some f →
          done (Memory.setBytes s.mem pa (leBytes (f.apply n old (x.toNat % 2 ^ (8 * n))) n)))
        ∧ (op = 10 → old = x.toNat % 2 ^ (8 * n) → done (Memory.setBytes s.mem pa (leBytes y.toNat n)))
        ∧ (op = 10 → old ≠ x.toNat % 2 ^ (8 * n) → done s.mem)))
    ∧ (let r := s.ramirOf ch.toNat
      let seq : BitVec 32 := if Tab.get 0 r.seqs frm.toNat + 1 = 0 then 1 else Tab.get 0 r.seqs frm.toNat + 1
      let head := leBytes (seq.toNat * 2 ^ 32 + ctx.toNat * 2 ^ 16 + frm.toNat) 8
      (r.bind = none → exec (.ramirMessageArrival ch frm ctx bs) s = did (complete s (some [2])))
      ∧ (r.bind.isSome = true → 16 ≤ r.msgs.length →
        exec (.ramirMessageArrival ch frm ctx bs) s = did (complete s (some [1])))
      ∧ (r.bind.isSome = true → r.msgs.length < 16 → bs.length = 64 → exec (.ramirMessageArrival ch frm ctx bs) s
        = did (complete (wake (s.setRamir ch.toNat { r with
          msgs := r.msgs ++ [head ++ bs.drop 8], seqs := Tab.insert r.seqs frm.toNat seq })) (some [0]))))

/-- R182, R199, R200, R484, R491: answers to requests that have left the module, those past a symbol's deadline or for a
symbol given up counted as late, the 10 ms timeout of 17,500,000 cycles, and an ATS invalidation, which holds while an
access that uses the translation is outstanding. That page answers and invalidations go by 64 KiB pages (log 36), that
an event which names no request lets one cycle pass (log 64), and how late answers reach what asked, of a load held
behind a late access too (logs 13, 32), are the model's choices. R93, R189, R191, R199, R200: SYMBOL_RESOLVE performs
the read or the atomic of a symbol, here in a scratchpad, and gives up one past its deadline, as SYMBOL_DEADLINE does;
each register that refers to the symbol takes its value or is poisoned. It performs an access held behind a late one
too, which brings its register what it asked for. That the event names a symbol, and what is held beside it, by its
number modulo 32 (log 37), which accesses hold others back (log 32), and that an atomic makes the strand's groups see
its stores (log 6) are the model's. -/
def Obligations.AnswersAndSymbols : Prop :=
  (∀ (s : State) (id : BitVec 64) (ok : Bool) (a : RemoteAnswer) (pasid : BitVec 20) (addr : BitVec 64) (r : Remote),
      let did (t : State) : Host.Outcome State Fault Refusal := .next (tick 1 t)
      let gone : State := { s with remotes := s.remotes.filter fun q => q.id != id.toNat }
      let page := addr.toNat / 65536
      let uses (q : Remote) : Prop := q.ans = none ∧ q.isPage = false ∧ ∃ h c, q.place = .host h ∧ q.ctx = some c
        ∧ h / 65536 = page ∧ (s.ctxOf c).pasid = pasid
      ((∀ q ∈ s.remotes, q.id ≠ id.toNat ∨ q.ans ≠ none) → exec (.pageRequestAnswer id ok) s = did s
        ∧ exec (.remoteReadCompletion id a) s = did s ∧ exec (.remoteCompletionTimeout id) s = did s)
      ∧ (s.remotes.find? (fun q => q.id == id.toNat && q.ans.isNone) = some r →
        (∀ c h, r.isPage = true → r.ctx = some c → r.place = .host h →
          exec (.remoteReadCompletion id a) s = did s ∧ exec (.remoteCompletionTimeout id) s = did s
          ∧ (Tab.find s.ctxs c = none ∨ r.who = .late →
            exec (.pageRequestAnswer id ok) s = did { gone with late := s.late + 1 })
          ∧ ((Tab.find s.ctxs c).isSome = true → r.who ≠ .late →
            (ok = true → exec (.pageRequestAnswer id ok) s = did (wake { gone with ats := s.ats ++ [(c, h / 65536)] }))
            ∧ (ok = false → exec (.pageRequestAnswer id ok) s
              = did (wake { gone with refusedPages := s.refusedPages ++ [(c, h / 65536)] }))))
        ∧ (r.isPage = false →
          exec (.pageRequestAnswer id ok) s = did s
          ∧ (s.cycle.toNat < r.since.toNat + 17500000 → exec (.remoteCompletionTimeout id) s = did s)
          ∧ (r.since.toNat + 17500000 ≤ s.cycle.toNat →
            (r.who = .late → exec (.remoteCompletionTimeout id) s = did gone)
            ∧ (∀ n k x d, r.who = .symbol n k → Tab.find (s.strand n).syms k = some x → x.deadline = some d →
              d.toNat ≤ s.cycle.toNat → ∃ u : State, exec (.remoteCompletionTimeout id) s = did u
                ∧ u = { gone.setStrand n ((s.strand n).spoil k .timeout) with strands := u.strands, remotes := u.remotes })
            ∧ (r.who ≠ .late → (∀ n k x d, r.who = .symbol n k → Tab.find (s.strand n).syms k = some x → x.deadline = some d →
                s.cycle.toNat < d.toNat) →
              exec (.remoteCompletionTimeout id) s = exec (.remoteReadCompletion id .error) s))
          ∧ (∀ n, r.who = .strand n → exec (.remoteReadCompletion id a) s = did (wake { s with
            remotes := s.remotes.map fun q => if q.id = id.toNat then { q with ans := some a } else q }))
          ∧ (∀ n k x ld c, r.who = .symbol n k → Tab.find (s.strand n).syms k = some x → x.deadline = none → x.dst = some ld →
            ld.regs = [(c, 0)] → ld.len = r.n → r.n ≤ 8 → Tab.find (s.strand n).outs c = some ld.seq →
            let u : Strand := { s.strand n with
              syms := Tab.erase (s.strand n).syms k, outs := Tab.erase (s.strand n).outs c }
            ∀ bs : List Byte, bs.length = r.n → exec (.remoteReadCompletion id (.data bs)) s
              = did (wake (gone.setStrand n ((u.setReg c (.conc (if ld.signed = true
                then (BitVec.ofNat (8 * r.n) (leNat bs)).signExtend 64 else BitVec.ofNat 64 (leNat bs)))).advance 0))))
          ∧ (∀ n k, r.who = .symbol n k → (∀ x, Tab.find (s.strand n).syms k = some x → x.dst = none
              ∧ ∀ d, x.deadline = some d → s.cycle.toNat < d.toNat) →
            (∀ bs : List Byte, bs.length = r.n → exec (.remoteReadCompletion id (.data bs)) s
              = did (wake (gone.setStrand n ((s.strand n).resolve k (BitVec.ofNat 64 (leNat bs))))))
            ∧ exec (.remoteReadCompletion id .error) s = did (wake
              ((gone.logEvent r.place.pa none 0 (BitVec.ofNat 8 (dieOf n)) 3).setStrand n ((s.strand n).spoil k .data))))
          ∧ (∀ n k x d, r.who = .symbol n k → Tab.find (s.strand n).syms k = some x → x.deadline = some d → d.toNat ≤ s.cycle.toNat →
            ∃ u : State, exec (.remoteReadCompletion id a) s = did u
              ∧ u = { gone.setStrand n ((s.strand n).spoil k .timeout) with strands := u.strands, remotes := u.remotes, late := s.late + 1 }
              ∧ ∀ c al be, Tab.rising s.strands = true → Tab.rising (s.strand n).s = true →
                (s.strand n).reg c = .aff k al be → (u.strand n).reg c = .poison .timeout)
          ∧ (r.who = .late → exec (.remoteReadCompletion id a) s = did { gone with late := s.late + 1 })))
      ∧ ((∃ q ∈ s.remotes, uses q) → exec (.atsInvalidation pasid addr) s = did s)
      ∧ ((∀ q ∈ s.remotes, ¬ uses q) → ∃ u : State, exec (.atsInvalidation pasid addr) s = did u ∧ u = { s with ats := u.ats }
        ∧ ∀ p, p ∈ u.ats ↔ p ∈ s.ats ∧ ¬ (p.2 = page ∧ (s.ctxOf p.1).pasid = pasid)))
  ∧ (∀ (s : State) (n : BitVec 10) (k : BitVec 5) (j : Nat) (x : Sym), let st := s.strand n.toNat
      let did (t : State) : Host.Outcome State Fault Refusal := .next (tick 1 t)
      let gives (i : Instr) (j : Nat) : Prop := ∃ u : State, exec i s = did (wake u)
        ∧ u = { s.setStrand n.toNat (st.spoil j .timeout) with remotes := u.remotes }
        ∧ ∀ q ∈ u.remotes, q.who ≠ .symbol n.toNat j
      let held (j : Nat) (x : Sym) : Prop := ∃ p ∈ st.syms, (p.2.since < x.since ∨ p.2.since = x.since ∧ p.1 < j)
        ∧ ∃ pl w, x.src.range = some (pl, w) ∧ p.2.precedes pl w x.kind x.strong x.ann = true
      let arrives (u : Strand) (j c : Nat) (v : Word) : Strand :=
        ({ u with syms := Tab.erase u.syms j, outs := Tab.erase u.outs c }.setReg c (.conc v)).advance 0
      (∀ j' y, st.syms.filter (fun p => p.1 % 32 == k.toNat) = [(j, x), (j', y)] → j ≠ j' → held j x → ¬ held j' y →
        y.deadline = none → y.dst = none → ∀ va d off w, y.src = .load va (.scratch d off) w [] → exec (.symbolResolve n k) s
          = did (wake (s.setStrand n.toNat (st.resolve j' (BitVec.ofNat 64 (leNat (s.pad d off w)))))))
      ∧ (st.syms.filter (fun p => p.1 % 32 == k.toNat) = [(j, x)] →
        (held j x → exec (.symbolResolve n k) s = did s)
        ∧ (∀ d, ¬ held j x → x.deadline = some d → d.toNat ≤ s.cycle.toNat → gives (.symbolResolve n k) j)
        ∧ (∀ va d off bs l2, ¬ held j x → x.deadline = none → x.dst = none → x.src = .store va (.scratch d off) bs l2 →
          exec (.symbolResolve n k) s = did (wake
            ({ s with mem := Memory.setBytes s.mem (scratchKey d off) bs }.setStrand n.toNat (st.resolve j 0))))
        ∧ (∀ va d off w ld c, ¬ held j x → x.deadline = none → x.dst = some ld → ld.regs = [(c, 0)] → ld.len = w → w ≤ 8 →
          Tab.find st.outs c = some ld.seq → let old := leNat (s.pad d off w)
          (x.src = .load va (.scratch d off) w [] → exec (.symbolResolve n k) s = did (wake (s.setStrand n.toNat
            (arrives st j c (if ld.signed = true then (BitVec.ofNat (8 * w) old).signExtend 64 else BitVec.ofNat 64 old)))))
          ∧ (∀ op o, x.src = .rmw va (.scratch d off) w (.rmw op o) → ld.signed = false → exec (.symbolResolve n k) s
            = did (wake ({ s with mem := Memory.setBytes s.mem (scratchKey d off) (leBytes (op.apply w old o.toNat) w) }.setStrand
              n.toNat (arrives st.performed j c (BitVec.ofNat 64 old))))))
        ∧ (¬ held j x → x.dst = none → (∀ d, x.deadline = some d → s.cycle.toNat < d.toNat) →
        (x.src = .tree ∨ x.src = .assoc → exec (.symbolResolve n k) s = did s)
        ∧ (∀ va d off w, x.src = .load va (.scratch d off) w [] → exec (.symbolResolve n k) s
          = did (wake (s.setStrand n.toNat (st.resolve j (BitVec.ofNat 64 (leNat (s.pad d off w)))))))
        ∧ (∀ va d off w op o, x.src = .amo va (.scratch d off) w op o →
          let new := leBytes (op.apply w (leNat (s.pad d off w)) o.toNat) w
          let t : State := { s with mem := Memory.setBytes s.mem (scratchKey d off) new }
          exec (.symbolResolve n k) s
            = did (wake (t.setStrand n.toNat (st.performed.resolve j (BitVec.ofNat 64 (leNat (s.pad d off w)))))))))
      ∧ (Tab.find st.syms k.toNat = some x →
        (x.deadline = none → exec (.symbolDeadline n k) s = did s)
        ∧ (∀ d, x.deadline = some d → (s.cycle.toNat < d.toNat → exec (.symbolDeadline n k) s = did s)
          ∧ (d.toNat ≤ s.cycle.toNat → gives (.symbolDeadline n k) k.toNat)))
      ∧ ∀ (v : Word) (why : Reason), Tab.rising st.s = true →
        let u := st.resolve j v
        let p := st.spoil j why
        u.syms = Tab.erase st.syms j ∧ p.syms = u.syms ∧ u.pc = st.pc ∧ p.pc = st.pc ∧ u.streams = st.streams
        ∧ p.fpcsr = st.fpcsr
        ∧ ∀ c, (∀ al be, st.reg c = .aff j al be → u.reg c = .conc (al * v + be) ∧ p.reg c = .poison why)
          ∧ (∀ ops, st.reg c = .flt j ops → u.reg c = .conc (replay ops v).1 ∧ p.reg c = .poison why)
          ∧ ((∀ al be, st.reg c ≠ .aff j al be) → (∀ ops, st.reg c ≠ .flt j ops) →
            u.reg c = st.reg c ∧ p.reg c = st.reg c))

/-- R35, R471, R477, R496, R498, R499: module reset boots context 0 on strand 0 or leaves the safe state, a scrub rewrites
a correctable line of class P and logs it, and a block's throttle and a TDISP interface change. The place a failed boot
logs is a free value (log 12). That a throttle event out of range changes nothing (logs 18, 64), that the boot entry loses its
low three bits (log 103), what boot leaves in the strand's STATUS (log 73), that memory reads zero and the other strands stand
at their reset values then (logs 3, 4), and that a scrub of a promoted page whose copy is not class P does nothing (log 127)
are the model's choices and readings. -/
def Obligations.ModuleEvents : Prop :=
  ∀ (s : State) (o : BootOutcome) (pa : BitVec 52) (cls : BitVec 3) (inst : BitVec 10) (temp : BitVec 8) (gated : Bool)
    (level : BitVec 7) (ifc ctx : BitVec 16) (run : Bool),
    let did (t : State) : Host.Outcome State Fault Refusal := .next (tick 1 t)
    let same (u : State) : Prop := u.groups = [] ∧ u.clusters = [] ∧ u.dies = [] ∧ u.launches = [] ∧ u.susp = [] ∧ u.mem = []
      ∧ u.frames = [] ∧ u.poisoned = [] ∧ u.flips = [] ∧ u.regions = [] ∧ u.windows = [] ∧ u.remotes = [] ∧ u.cycle = 0
    (o.failed = 0 → ∃ u : State, exec (.moduleReset o) s = did u ∧ same u ∧ u.log = [] ∧ u.mgmt.state = 1
      ∧ u.mgmt.monVer = o.monVersion ∧ u.mgmt.ucodeVer = o.ucodeVersion ∧ u.mgmt.bootKey = some o.bootKey
      ∧ (∃ x, u.ctxs = [(0, x)] ∧ x.sec = true ∧ x.supv = true ∧ x.ceil = 11 ∧ x.ebcorr = 0xFFFFFFFFFFFFFFFF
        ∧ x.ebdet = 0xFFFFFFFFFFFFFFFF ∧ x.root = o.root.setWidth 64)
      ∧ (u.strand 0).pc = o.entry.setWidth 56 &&& ~~~7 ∧ (u.strand 0).ctx = 0 ∧ (u.strand 0).item.isSome = true ∧ (u.strand 0).sup = true
      ∧ (u.strand 0).secure = true ∧ ∀ n, n ≠ 0 → u.strand n = Strand.reset)
    ∧ (1 ≤ o.failed.toNat → o.failed.toNat ≤ 6 → ∃ u : State, exec (.moduleReset o) s = did u ∧ same u ∧ u.strands = []
      ∧ u.ctxs = [] ∧ u.mgmt.state = 2 ∧ (∀ k, k < 6 → u.mgmt.failed.getLsbD k = (k + 1 == o.failed.toNat))
      ∧ u.mgmt.detail = o.detail ∧ u.mgmt.logseq = 1 ∧ ∃ r, u.log = [(0, r)] ∧ r.kind = 2 ∧ r.seq = 1)
    ∧ (let line := pa.toNat / 64
      let x := s.frame (pa.toNat / 2 ^ 30)
      pa.toNat < hbmEnd →
      (x.cls ≠ 2 ∨ usableBytes x.cls ≤ pa.toNat % 2 ^ 30 → exec (.scrub pa) s = did s)
      ∧ (x.cls = 2 → pa.toNat % 2 ^ 30 < usableBytes x.cls → line ∉ s.poisoned →
        (Tab.find s.flips line = none → exec (.scrub pa) s = did s)
        ∧ (∀ i, Tab.find s.flips line = some [i] → ∃ u : State, exec (.scrub pa) s = did u
          ∧ u = { s with flips := Tab.erase s.flips line, log := u.log, sliceCorr := u.sliceCorr, mgmt := u.mgmt }
          ∧ ∃ r, Tab.find u.log (s.mgmt.logseq.toNat % 4096) = some r ∧ r.kind = 1 ∧ r.ctx = 0xFFFF
            ∧ r.pa = BitVec.ofNat 52 (line * 64))))
    ∧ (let line := pa.toNat / 64
      capBase ≤ pa.toNat → pa.toNat < capEnd →
      (∀ f, Tab.find s.promoted (pa.toNat / 65536) = some f → (s.frame f).cls ≠ 2 → exec (.scrub pa) s = did s)
      ∧ (Tab.find s.promoted (pa.toNat / 65536) = none → line ∉ s.poisoned →
        (Tab.find s.flips line = none → exec (.scrub pa) s = did s)
        ∧ (∀ i, Tab.find s.flips line = some [i] → ∃ u : State, exec (.scrub pa) s = did u
          ∧ u = { s with flips := Tab.erase s.flips line, log := u.log, mgmt := u.mgmt }
          ∧ ∃ r, Tab.find u.log (s.mgmt.logseq.toNat % 4096) = some r ∧ r.kind = 1 ∧ r.ctx = 0xFFFF)))
    ∧ (let n := [128, 512, 8, 1, 12, 1, 8, 1].getD cls.toNat 0
      (inst.toNat < n → level.toNat ≤ 100 → ∃ u : State, exec (.blockThrottleChange cls inst temp gated level) s = did u
        ∧ u = { s with throttles := u.throttles }
        ∧ ((temp ≠ 0 ∨ gated = true ∨ level ≠ 100) → u.throttle cls.toNat inst.toNat = ⟨temp, gated, level⟩))
      ∧ (n ≤ inst.toNat ∨ 100 < level.toNat → exec (.blockThrottleChange cls inst temp gated level) s = did s))
    ∧ exec (.tdispStateChange ifc run ctx) s = did { s with
      tdisp := if run then Tab.insert s.tdisp ifc.toNat ctx.toNat else Tab.erase s.tdisp ifc.toNat }
end

