-- ==== Sys2Proof/Laws/Table.lean ====
section
/-!
SUPPORT. Laws of sparse tables and of memory: what is read after an insertion, an erasure or a write, and that each keeps
the canonical form.
-/
namespace Sys2Proof.Machine

variable {α : Type}

@[simp] theorem Tab.find_insert_self (t : Tab α) (k : Nat) (v : α) : Tab.find (Tab.insert t k v) k = some v := by
  induction t with
  | nil => simp [Tab.insert, Tab.find]
  | cons p t ih =>
    obtain ⟨i, w⟩ := p
    simp only [Tab.insert]
    split
    · simp [Tab.find]
    · split
      · simp [Tab.find]
      · rename_i h
        simp only [Tab.find, h, ih]
        simp

theorem Tab.find_insert_ne (t : Tab α) (k j : Nat) (v : α) (h : j ≠ k) :
    Tab.find (Tab.insert t k v) j = Tab.find t j := by
  have hk : (k == j) = false := by simpa using fun e => h e.symm
  induction t with
  | nil => simp [Tab.insert, Tab.find, hk]
  | cons p t ih =>
    obtain ⟨i, w⟩ := p
    simp only [Tab.insert]
    split
    · simp [Tab.find, hk]
    · split
      · rename_i e
        have : (i == j) = false := by simp at e; subst e; simpa using hk
        simp [Tab.find, hk, this]
      · simp [Tab.find, ih]

theorem Tab.find_erase_ne (t : Tab α) (k j : Nat) (h : j ≠ k) : Tab.find (Tab.erase t k) j = Tab.find t j := by
  induction t with
  | nil => rfl
  | cons p t ih =>
    obtain ⟨i, w⟩ := p
    simp only [Tab.erase]
    split
    · rename_i e
      have : (i == j) = false := by simp at e; subst e; simpa using fun e => h e.symm
      simp [Tab.find, this]
    · simp [Tab.find, ih]

/-- Below the first key of a rising table nothing is listed. -/
theorem Tab.find_below (t : Tab α) (i j : Nat) (w : α) (h : Tab.rising ((i, w) :: t) = true) (hj : j ≤ i) :
    Tab.find t j = none := by
  induction t generalizing i w with
  | nil => rfl
  | cons p t ih =>
    obtain ⟨k, x⟩ := p
    simp only [Tab.rising, Bool.and_eq_true, decide_eq_true_eq] at h
    have : (k == j) = false := by simpa using by omega
    simp only [Tab.find, this]
    exact ih k x h.2 (by omega)

theorem Tab.rising_tail (p : Nat × α) (t : Tab α) (h : Tab.rising (p :: t) = true) : Tab.rising t = true := by
  obtain ⟨i, v⟩ := p
  cases t with
  | nil => rfl
  | cons q t => obtain ⟨j, w⟩ := q; simp only [Tab.rising, Bool.and_eq_true] at h; exact h.2

theorem Tab.find_erase_self (t : Tab α) (k : Nat) (h : Tab.rising t = true) : Tab.find (Tab.erase t k) k = none := by
  induction t with
  | nil => rfl
  | cons p t ih =>
    obtain ⟨i, w⟩ := p
    simp only [Tab.erase]
    split
    · rename_i e
      simp at e; subst e
      exact Tab.find_below t i i w h (Nat.le_refl _)
    · rename_i e
      simp only [Tab.find, e]
      exact ih (Tab.rising_tail _ _ h)

theorem Tab.get_put_self [DecidableEq α] (d : α) (t : Tab α) (k : Nat) (v : α) (h : Tab.rising t = true) :
    Tab.get d (Tab.put d t k v) k = v := by
  unfold Tab.get Tab.put
  split
  · rename_i e; rw [Tab.find_erase_self t k h]; exact e.symm
  · rw [Tab.find_insert_self]; rfl

theorem Tab.get_put_ne [DecidableEq α] (d : α) (t : Tab α) (k j : Nat) (v : α) (h : j ≠ k) :
    Tab.get d (Tab.put d t k v) j = Tab.get d t j := by
  unfold Tab.get Tab.put
  split
  · rw [Tab.find_erase_ne t k j h]
  · rw [Tab.find_insert_ne t k j v h]

/-- A key below the head of a rising table may be put before it. -/
theorem Tab.rising_cons (k : Nat) (v : α) (t : Tab α) (ht : Tab.rising t = true)
    (h : ∀ p ∈ t.head?, k < p.1) : Tab.rising ((k, v) :: t) = true := by
  cases t with
  | nil => rfl
  | cons q t =>
    obtain ⟨j, w⟩ := q
    have := h (j, w) rfl
    simp [Tab.rising, ht, this]

theorem Tab.head_insert (t : Tab α) (k : Nat) (v : α) :
    ∀ p ∈ (Tab.insert t k v).head?, p.1 = k ∨ ∃ q ∈ t.head?, p.1 = q.1 := by
  cases t with
  | nil => simp [Tab.insert]
  | cons q t =>
    obtain ⟨i, w⟩ := q
    simp only [Tab.insert]
    split
    · simp
    · split <;> simp

theorem Tab.rising_insert (t : Tab α) (k : Nat) (v : α) (h : Tab.rising t = true) :
    Tab.rising (Tab.insert t k v) = true := by
  induction t with
  | nil => rfl
  | cons p t ih =>
    obtain ⟨i, w⟩ := p
    have ht := Tab.rising_tail _ _ h
    simp only [Tab.insert]
    split
    · rename_i hk; simp [Tab.rising, hk, h]
    · split
      · rename_i e
        simp at e; subst e
        cases t with
        | nil => rfl
        | cons q t => obtain ⟨j, x⟩ := q; simpa [Tab.rising] using h
      · rename_i hk e
        refine Tab.rising_cons i w _ (ih ht) ?_
        intro p hp
        rcases Tab.head_insert t k v p hp with hp | ⟨q, hq, hp⟩
        · simp at e; omega
        · cases t with
          | nil => simp at hq
          | cons r t =>
            obtain ⟨j, x⟩ := r
            simp at hq; subst hq
            simp only [Tab.rising, Bool.and_eq_true, decide_eq_true_eq] at h
            simp at hp; omega

/-- Whether a table lists no default value. -/
def Tab.full [DecidableEq α] (d : α) (t : Tab α) : Bool := t.all fun p => decide (p.2 ≠ d)

/-- The canonical form is rising keys and no default listed. -/
theorem Tab.wf_iff [DecidableEq α] (d : α) (t : Tab α) :
    Tab.wf d t = (Tab.rising t && Tab.full d t) := by
  induction t with
  | nil => rfl
  | cons p t ih =>
    obtain ⟨i, v⟩ := p
    cases t with
    | nil => simp [Tab.wf, Tab.rising, Tab.full]
    | cons q t =>
      obtain ⟨j, w⟩ := q
      simp only [Tab.wf, Tab.rising, ih, Tab.full, List.all_cons]
      cases decide (v ≠ d) <;> cases decide (i < j) <;> simp

theorem Tab.full_cons [DecidableEq α] (d : α) (p : Nat × α) (t : Tab α) :
    Tab.full d (p :: t) = (decide (p.2 ≠ d) && Tab.full d t) := rfl

theorem Tab.full_insert [DecidableEq α] (d : α) (t : Tab α) (k : Nat) (v : α) (h : Tab.full d t = true) (hv : v ≠ d) :
    Tab.full d (Tab.insert t k v) = true := by
  induction t with
  | nil => rw [Tab.insert, Tab.full_cons]; simp [hv, Tab.full]
  | cons p t ih =>
    obtain ⟨i, w⟩ := p
    rw [Tab.full_cons, Bool.and_eq_true, decide_eq_true_eq] at h
    simp only [Tab.insert]
    split
    · simp only [Tab.full_cons, h.2, Bool.and_true]; simp [hv, h.1]
    · split
      · simp only [Tab.full_cons, h.2, Bool.and_true]; simp [hv]
      · simp only [Tab.full_cons, ih h.2, Bool.and_true]; simp [h.1]

theorem Tab.full_erase [DecidableEq α] (d : α) (t : Tab α) (k : Nat) (h : Tab.full d t = true) :
    Tab.full d (Tab.erase t k) = true := by
  induction t with
  | nil => rfl
  | cons p t ih =>
    obtain ⟨i, w⟩ := p
    rw [Tab.full_cons, Bool.and_eq_true, decide_eq_true_eq] at h
    simp only [Tab.erase]
    split
    · exact h.2
    · simp only [Tab.full_cons, ih h.2, Bool.and_true]; simp [h.1]

theorem Tab.rising_erase (t : Tab α) (k : Nat) (h : Tab.rising t = true) : Tab.rising (Tab.erase t k) = true := by
  induction t with
  | nil => rfl
  | cons p t ih =>
    obtain ⟨i, w⟩ := p
    have ht := Tab.rising_tail _ _ h
    simp only [Tab.erase]
    split
    · exact ht
    · refine Tab.rising_cons i w _ (ih ht) ?_
      intro p hp
      cases t with
      | nil => simp [Tab.erase] at hp
      | cons r t =>
        obtain ⟨j, x⟩ := r
        simp only [Tab.rising, Bool.and_eq_true, decide_eq_true_eq] at h
        simp only [Tab.erase] at hp
        split at hp
        · cases t with
          | nil => simp at hp
          | cons r t =>
            obtain ⟨l, y⟩ := r
            simp only [Tab.rising, Bool.and_eq_true, decide_eq_true_eq] at h
            simp at hp; subst hp; simp; omega
        · simp at hp; subst hp; simp; omega

theorem Tab.wf_put [DecidableEq α] (d : α) (t : Tab α) (k : Nat) (v : α) (h : Tab.wf d t = true) :
    Tab.wf d (Tab.put d t k v) = true := by
  rw [Tab.wf_iff, Bool.and_eq_true] at h ⊢
  unfold Tab.put
  split
  · exact ⟨Tab.rising_erase t k h.1, Tab.full_erase d t k h.2⟩
  · rename_i hv; exact ⟨Tab.rising_insert t k v h.1, Tab.full_insert d t k v h.2 hv⟩

theorem Tab.rising_put [DecidableEq α] (d : α) (t : Tab α) (k : Nat) (v : α) (h : Tab.rising t = true) :
    Tab.rising (Tab.put d t k v) = true := by
  unfold Tab.put
  split
  · exact Tab.rising_erase t k h
  · exact Tab.rising_insert t k v h

/-- A filtered rising table rises. -/
theorem Tab.rising_filter (t : Tab α) (f : Nat × α → Bool) (h : Tab.rising t = true) :
    Tab.rising (List.filter f t) = true ∧ ∀ i w, Tab.rising ((i, w) :: t) = true → ∀ p ∈ (List.filter f t).head?, i < p.1 := by
  induction t with
  | nil => exact ⟨rfl, fun i w _ p hp => by simp at hp⟩
  | cons q t ih =>
    obtain ⟨j, x⟩ := q
    obtain ⟨h1, h2⟩ := ih (Tab.rising_tail _ _ h)
    simp only [List.filter]
    split
    · refine ⟨Tab.rising_cons j x _ h1 (h2 j x h), fun i w hi p hp => ?_⟩
      simp only [Tab.rising, Bool.and_eq_true, decide_eq_true_eq] at hi
      simp at hp; subst hp; exact hi.1
    · refine ⟨h1, fun i w hi p hp => ?_⟩
      simp only [Tab.rising, Bool.and_eq_true, decide_eq_true_eq] at hi
      exact Nat.lt_trans hi.1 (h2 j x h p hp)

theorem Tab.wf_filter [DecidableEq α] (d : α) (t : Tab α) (f : Nat × α → Bool) (h : Tab.wf d t = true) :
    Tab.wf d (List.filter f t) = true := by
  rw [Tab.wf_iff, Bool.and_eq_true] at h ⊢
  refine ⟨(Tab.rising_filter t f h.1).1, ?_⟩
  simp only [Tab.full, List.all_eq_true] at h ⊢
  exact fun p hp => h.2 p (List.mem_filter.mp hp).1

/-- Putting back what is read changes nothing, where the table rises and the entry is listed. -/
theorem Tab.insert_find (t : Tab α) (k : Nat) (v : α) (h : Tab.rising t = true) (hk : Tab.find t k = some v) :
    Tab.insert t k v = t := by
  induction t with
  | nil => simp [Tab.find] at hk
  | cons p t ih =>
    obtain ⟨i, w⟩ := p
    simp only [Tab.find] at hk
    simp only [Tab.insert]
    by_cases e : (i == k) = true
    · simp only [e, if_true] at hk
      simp only [beq_iff_eq] at e
      subst e
      simp only [Option.some.injEq] at hk
      subst hk
      simp
    · simp only [e] at hk
      have hlt : ¬ k < i := by
        intro hlt
        rw [Tab.find_below t i k w h (by omega)] at hk
        simp at hk
      simp only [hlt, if_false, e]
      simp only [Bool.false_eq_true, if_false]
      rw [ih (Tab.rising_tail _ _ h) (by simpa using hk)]

/-- The later of two insertions at one key counts. -/
theorem Tab.insert_insert (t : Tab α) (k : Nat) (v w : α) : Tab.insert (Tab.insert t k v) k w = Tab.insert t k w := by
  induction t with
  | nil => simp [Tab.insert]
  | cons p t ih =>
    obtain ⟨i, x⟩ := p
    by_cases h : k < i
    · simp [Tab.insert, h]
    · by_cases e : (i == k) = true
      · simp [Tab.insert, h, e]
      · simp [Tab.insert, h, e, ih]

/-! ### Memory -/

theorem Memory.wf_setByte (m : Memory) (a : Nat) (b : Byte) (h : Memory.wf m = true) :
    Memory.wf (Memory.setByte m a b) = true := Tab.wf_put 0 m a b h

theorem Memory.wf_setBytes (m : Memory) (a : Nat) (bs : List Byte) (h : Memory.wf m = true) :
    Memory.wf (Memory.setBytes m a bs) = true := by
  induction bs generalizing m a with
  | nil => exact h
  | cons b bs ih => exact ih _ _ (Memory.wf_setByte m a b h)

theorem Memory.wf_zero (m : Memory) (lo hi : Nat) (h : Memory.wf m = true) : Memory.wf (Memory.zero m lo hi) = true :=
  Tab.wf_filter 0 m _ h

theorem Memory.wf_foldl {β : Type} (f : Memory → β → Memory) (l : List β) (m : Memory)
    (hf : ∀ m b, Memory.wf m = true → Memory.wf (f m b) = true) (h : Memory.wf m = true) :
    Memory.wf (l.foldl f m) = true := by
  induction l generalizing m with
  | nil => exact h
  | cons b l ih => exact ih _ (hf m b h)

theorem Memory.rising_of_wf (m : Memory) (h : Memory.wf m = true) : Tab.rising m = true := by
  rw [Memory.wf, Tab.wf_iff, Bool.and_eq_true] at h; exact h.1

theorem Memory.byte_setByte_self (m : Memory) (a : Nat) (b : Byte) (h : Memory.wf m = true) :
    Memory.byte (Memory.setByte m a b) a = b := Tab.get_put_self 0 m a b (Memory.rising_of_wf m h)

theorem Memory.byte_setByte_ne (m : Memory) (a x : Nat) (b : Byte) (h : x ≠ a) :
    Memory.byte (Memory.setByte m a b) x = Memory.byte m x := Tab.get_put_ne 0 m a x b h

/-- A store leaves every byte outside its range alone. -/
theorem Memory.byte_setBytes_out (m : Memory) (a x : Nat) (bs : List Byte) (h : x < a ∨ a + bs.length ≤ x) :
    Memory.byte (Memory.setBytes m a bs) x = Memory.byte m x := by
  induction bs generalizing m a with
  | nil => rfl
  | cons b bs ih =>
    simp only [List.length_cons] at h
    simp only [Memory.setBytes]
    rw [ih _ _ (by omega), Memory.byte_setByte_ne _ _ _ _ (by omega)]

/-- The bytes stored are the bytes read back. -/
theorem Memory.bytes_setBytes (m : Memory) (a : Nat) (bs : List Byte) (h : Memory.wf m = true) :
    Memory.bytes (Memory.setBytes m a bs) a bs.length = bs := by
  induction bs generalizing m a with
  | nil => rfl
  | cons b bs ih =>
    simp only [Memory.setBytes, List.length_cons, Memory.bytes]
    rw [ih _ _ (Memory.wf_setByte m a b h), Memory.byte_setBytes_out _ _ _ _ (Or.inl (by omega)),
      Memory.byte_setByte_self m a b h]

/-- The memory after reset has the canonical form. -/
theorem reset_mem_wf : Memory.wf State.reset.mem = true := rfl

/-- Bytes of a value read back as the value, cut to their number. -/
theorem leNat_leBytes (v n : Nat) : leNat (leBytes v n) = v % 256 ^ n := by
  induction n generalizing v with
  | zero => simp [leBytes, leNat, Nat.mod_one]
  | succ n ih =>
    have e : (BitVec.ofNat 8 v).toNat = v % 256 := BitVec.toNat_ofNat v 8
    rw [leBytes, leNat, ih, e, Nat.pow_succ', Nat.mod_mul]

@[simp] theorem leBytes_length (v n : Nat) : (leBytes v n).length = n := by
  induction n generalizing v with
  | zero => rfl
  | succ n ih => simp [leBytes, ih]

end Sys2Proof.Machine
end

