-- ==== Sys2Proof/Laws/State.lean ====
section
/-!
SUPPORT. What each update of the state leaves: one lemma a field an update, and the entry an update writes.
-/
namespace Sys2Proof.Machine

/-! ### The entry written -/

theorem State.strand_setStrand (s : State) (n : Nat) (st : Strand) (h : Tab.rising s.strands = true) :
    (s.setStrand n st).strand n = st := Tab.get_put_self _ _ _ _ h

theorem State.strand_setStrand_ne (s : State) (n m : Nat) (st : Strand) (h : m ≠ n) :
    (s.setStrand n st).strand m = s.strand m := Tab.get_put_ne _ _ _ _ _ h

theorem State.group_setGroup (s : State) (g : Nat) (x : Group) (h : Tab.rising s.groups = true) :
    (s.setGroup g x).group g = x := Tab.get_put_self _ _ _ _ h

theorem State.group_setGroup_ne (s : State) (g k : Nat) (x : Group) (h : k ≠ g) :
    (s.setGroup g x).group k = s.group k := Tab.get_put_ne _ _ _ _ _ h

theorem State.cluster_setCluster (s : State) (c : Nat) (x : Cluster) (h : Tab.rising s.clusters = true) :
    (s.setCluster c x).cluster c = x := Tab.get_put_self _ _ _ _ h

theorem State.cluster_setCluster_ne (s : State) (c k : Nat) (x : Cluster) (h : k ≠ c) :
    (s.setCluster c x).cluster k = s.cluster k := Tab.get_put_ne _ _ _ _ _ h

theorem State.die_setDie (s : State) (d : Nat) (x : Die) (h : Tab.rising s.dies = true) :
    (s.setDie d x).die d = x := Tab.get_put_self _ _ _ _ h

theorem State.die_setDie_ne (s : State) (d k : Nat) (x : Die) (h : k ≠ d) :
    (s.setDie d x).die k = s.die k := Tab.get_put_ne _ _ _ _ _ h

theorem State.rising_setStrand (s : State) (n : Nat) (st : Strand) (h : Tab.rising s.strands = true) :
    Tab.rising (s.setStrand n st).strands = true := Tab.rising_put _ _ _ _ h

/-! ### `State.setStrand` -/

@[simp] theorem State.setStrand_groups (s : State) (n : Nat) (x : Strand) : (s.setStrand n x).groups = s.groups := rfl
@[simp] theorem State.setStrand_clusters (s : State) (n : Nat) (x : Strand) : (s.setStrand n x).clusters = s.clusters := rfl
@[simp] theorem State.setStrand_dies (s : State) (n : Nat) (x : Strand) : (s.setStrand n x).dies = s.dies := rfl
@[simp] theorem State.setStrand_ctxs (s : State) (n : Nat) (x : Strand) : (s.setStrand n x).ctxs = s.ctxs := rfl
@[simp] theorem State.setStrand_launches (s : State) (n : Nat) (x : Strand) : (s.setStrand n x).launches = s.launches := rfl
@[simp] theorem State.setStrand_nextLaunch (s : State) (n : Nat) (x : Strand) : (s.setStrand n x).nextLaunch = s.nextLaunch := rfl
@[simp] theorem State.setStrand_susp (s : State) (n : Nat) (x : Strand) : (s.setStrand n x).susp = s.susp := rfl
@[simp] theorem State.setStrand_mem (s : State) (n : Nat) (x : Strand) : (s.setStrand n x).mem = s.mem := rfl
@[simp] theorem State.setStrand_l2old (s : State) (n : Nat) (x : Strand) : (s.setStrand n x).l2old = s.l2old := rfl
@[simp] theorem State.setStrand_mscOld (s : State) (n : Nat) (x : Strand) : (s.setStrand n x).mscOld = s.mscOld := rfl
@[simp] theorem State.setStrand_poisoned (s : State) (n : Nat) (x : Strand) : (s.setStrand n x).poisoned = s.poisoned := rfl
@[simp] theorem State.setStrand_flips (s : State) (n : Nat) (x : Strand) : (s.setStrand n x).flips = s.flips := rfl
@[simp] theorem State.setStrand_l2bad (s : State) (n : Nat) (x : Strand) : (s.setStrand n x).l2bad = s.l2bad := rfl
@[simp] theorem State.setStrand_mscBad (s : State) (n : Nat) (x : Strand) : (s.setStrand n x).mscBad = s.mscBad := rfl
@[simp] theorem State.setStrand_frames (s : State) (n : Nat) (x : Strand) : (s.setStrand n x).frames = s.frames := rfl
@[simp] theorem State.setStrand_promoted (s : State) (n : Nat) (x : Strand) : (s.setStrand n x).promoted = s.promoted := rfl
@[simp] theorem State.setStrand_promoting (s : State) (n : Nat) (x : Strand) : (s.setStrand n x).promoting = s.promoting := rfl
@[simp] theorem State.setStrand_demoting (s : State) (n : Nat) (x : Strand) : (s.setStrand n x).demoting = s.demoting := rfl
@[simp] theorem State.setStrand_promlate (s : State) (n : Nat) (x : Strand) : (s.setStrand n x).promlate = s.promlate := rfl
@[simp] theorem State.setStrand_log (s : State) (n : Nat) (x : Strand) : (s.setStrand n x).log = s.log := rfl
@[simp] theorem State.setStrand_sliceCorr (s : State) (n : Nat) (x : Strand) : (s.setStrand n x).sliceCorr = s.sliceCorr := rfl
@[simp] theorem State.setStrand_windows (s : State) (n : Nat) (x : Strand) : (s.setStrand n x).windows = s.windows := rfl
@[simp] theorem State.setStrand_ramir (s : State) (n : Nat) (x : Strand) : (s.setStrand n x).ramir = s.ramir := rfl
@[simp] theorem State.setStrand_ats (s : State) (n : Nat) (x : Strand) : (s.setStrand n x).ats = s.ats := rfl
@[simp] theorem State.setStrand_refusedPages (s : State) (n : Nat) (x : Strand) : (s.setStrand n x).refusedPages = s.refusedPages := rfl
@[simp] theorem State.setStrand_remotes (s : State) (n : Nat) (x : Strand) : (s.setStrand n x).remotes = s.remotes := rfl
@[simp] theorem State.setStrand_nextReq (s : State) (n : Nat) (x : Strand) : (s.setStrand n x).nextReq = s.nextReq := rfl
@[simp] theorem State.setStrand_late (s : State) (n : Nat) (x : Strand) : (s.setStrand n x).late = s.late := rfl
@[simp] theorem State.setStrand_pageReqs (s : State) (n : Nat) (x : Strand) : (s.setStrand n x).pageReqs = s.pageReqs := rfl
@[simp] theorem State.setStrand_out (s : State) (n : Nat) (x : Strand) : (s.setStrand n x).out = s.out := rfl
@[simp] theorem State.setStrand_mgmt (s : State) (n : Nat) (x : Strand) : (s.setStrand n x).mgmt = s.mgmt := rfl
@[simp] theorem State.setStrand_throttles (s : State) (n : Nat) (x : Strand) : (s.setStrand n x).throttles = s.throttles := rfl
@[simp] theorem State.setStrand_tdisp (s : State) (n : Nat) (x : Strand) : (s.setStrand n x).tdisp = s.tdisp := rfl
@[simp] theorem State.setStrand_husks (s : State) (n : Nat) (x : Strand) : (s.setStrand n x).husks = s.husks := rfl
@[simp] theorem State.setStrand_images (s : State) (n : Nat) (x : Strand) : (s.setStrand n x).images = s.images := rfl
@[simp] theorem State.setStrand_regions (s : State) (n : Nat) (x : Strand) : (s.setStrand n x).regions = s.regions := rfl
@[simp] theorem State.setStrand_treeOps (s : State) (n : Nat) (x : Strand) : (s.setStrand n x).treeOps = s.treeOps := rfl
@[simp] theorem State.setStrand_nextTree (s : State) (n : Nat) (x : Strand) : (s.setStrand n x).nextTree = s.nextTree := rfl
@[simp] theorem State.setStrand_cycle (s : State) (n : Nat) (x : Strand) : (s.setStrand n x).cycle = s.cycle := rfl
@[simp] theorem State.setStrand_cur (s : State) (n : Nat) (x : Strand) : (s.setStrand n x).cur = s.cur := rfl
@[simp] theorem State.setStrand_ir (s : State) (n : Nat) (x : Strand) : (s.setStrand n x).ir = s.ir := rfl
@[simp] theorem State.setStrand_agenda (s : State) (n : Nat) (x : Strand) : (s.setStrand n x).agenda = s.agenda := rfl
@[simp] theorem State.setStrand_turn (s : State) (n : Nat) (x : Strand) : (s.setStrand n x).turn = s.turn := rfl
@[simp] theorem State.setStrand_free (s : State) (n : Nat) (x : Strand) : (s.setStrand n x).free = s.free := rfl
@[simp] theorem State.setStrand_group (s : State) (n : Nat) (x : Strand) (m : Nat) : (s.setStrand n x).group m = s.group m := rfl
@[simp] theorem State.setStrand_cluster (s : State) (n : Nat) (x : Strand) (m : Nat) : (s.setStrand n x).cluster m = s.cluster m := rfl
@[simp] theorem State.setStrand_die (s : State) (n : Nat) (x : Strand) (m : Nat) : (s.setStrand n x).die m = s.die m := rfl

/-! ### `State.setGroup` -/

@[simp] theorem State.setGroup_strands (s : State) (g : Nat) (x : Group) : (s.setGroup g x).strands = s.strands := rfl
@[simp] theorem State.setGroup_clusters (s : State) (g : Nat) (x : Group) : (s.setGroup g x).clusters = s.clusters := rfl
@[simp] theorem State.setGroup_dies (s : State) (g : Nat) (x : Group) : (s.setGroup g x).dies = s.dies := rfl
@[simp] theorem State.setGroup_ctxs (s : State) (g : Nat) (x : Group) : (s.setGroup g x).ctxs = s.ctxs := rfl
@[simp] theorem State.setGroup_launches (s : State) (g : Nat) (x : Group) : (s.setGroup g x).launches = s.launches := rfl
@[simp] theorem State.setGroup_nextLaunch (s : State) (g : Nat) (x : Group) : (s.setGroup g x).nextLaunch = s.nextLaunch := rfl
@[simp] theorem State.setGroup_susp (s : State) (g : Nat) (x : Group) : (s.setGroup g x).susp = s.susp := rfl
@[simp] theorem State.setGroup_mem (s : State) (g : Nat) (x : Group) : (s.setGroup g x).mem = s.mem := rfl
@[simp] theorem State.setGroup_l2old (s : State) (g : Nat) (x : Group) : (s.setGroup g x).l2old = s.l2old := rfl
@[simp] theorem State.setGroup_mscOld (s : State) (g : Nat) (x : Group) : (s.setGroup g x).mscOld = s.mscOld := rfl
@[simp] theorem State.setGroup_poisoned (s : State) (g : Nat) (x : Group) : (s.setGroup g x).poisoned = s.poisoned := rfl
@[simp] theorem State.setGroup_flips (s : State) (g : Nat) (x : Group) : (s.setGroup g x).flips = s.flips := rfl
@[simp] theorem State.setGroup_l2bad (s : State) (g : Nat) (x : Group) : (s.setGroup g x).l2bad = s.l2bad := rfl
@[simp] theorem State.setGroup_mscBad (s : State) (g : Nat) (x : Group) : (s.setGroup g x).mscBad = s.mscBad := rfl
@[simp] theorem State.setGroup_frames (s : State) (g : Nat) (x : Group) : (s.setGroup g x).frames = s.frames := rfl
@[simp] theorem State.setGroup_promoted (s : State) (g : Nat) (x : Group) : (s.setGroup g x).promoted = s.promoted := rfl
@[simp] theorem State.setGroup_promoting (s : State) (g : Nat) (x : Group) : (s.setGroup g x).promoting = s.promoting := rfl
@[simp] theorem State.setGroup_demoting (s : State) (g : Nat) (x : Group) : (s.setGroup g x).demoting = s.demoting := rfl
@[simp] theorem State.setGroup_promlate (s : State) (g : Nat) (x : Group) : (s.setGroup g x).promlate = s.promlate := rfl
@[simp] theorem State.setGroup_log (s : State) (g : Nat) (x : Group) : (s.setGroup g x).log = s.log := rfl
@[simp] theorem State.setGroup_sliceCorr (s : State) (g : Nat) (x : Group) : (s.setGroup g x).sliceCorr = s.sliceCorr := rfl
@[simp] theorem State.setGroup_windows (s : State) (g : Nat) (x : Group) : (s.setGroup g x).windows = s.windows := rfl
@[simp] theorem State.setGroup_ramir (s : State) (g : Nat) (x : Group) : (s.setGroup g x).ramir = s.ramir := rfl
@[simp] theorem State.setGroup_ats (s : State) (g : Nat) (x : Group) : (s.setGroup g x).ats = s.ats := rfl
@[simp] theorem State.setGroup_refusedPages (s : State) (g : Nat) (x : Group) : (s.setGroup g x).refusedPages = s.refusedPages := rfl
@[simp] theorem State.setGroup_remotes (s : State) (g : Nat) (x : Group) : (s.setGroup g x).remotes = s.remotes := rfl
@[simp] theorem State.setGroup_nextReq (s : State) (g : Nat) (x : Group) : (s.setGroup g x).nextReq = s.nextReq := rfl
@[simp] theorem State.setGroup_late (s : State) (g : Nat) (x : Group) : (s.setGroup g x).late = s.late := rfl
@[simp] theorem State.setGroup_pageReqs (s : State) (g : Nat) (x : Group) : (s.setGroup g x).pageReqs = s.pageReqs := rfl
@[simp] theorem State.setGroup_out (s : State) (g : Nat) (x : Group) : (s.setGroup g x).out = s.out := rfl
@[simp] theorem State.setGroup_mgmt (s : State) (g : Nat) (x : Group) : (s.setGroup g x).mgmt = s.mgmt := rfl
@[simp] theorem State.setGroup_throttles (s : State) (g : Nat) (x : Group) : (s.setGroup g x).throttles = s.throttles := rfl
@[simp] theorem State.setGroup_tdisp (s : State) (g : Nat) (x : Group) : (s.setGroup g x).tdisp = s.tdisp := rfl
@[simp] theorem State.setGroup_husks (s : State) (g : Nat) (x : Group) : (s.setGroup g x).husks = s.husks := rfl
@[simp] theorem State.setGroup_images (s : State) (g : Nat) (x : Group) : (s.setGroup g x).images = s.images := rfl
@[simp] theorem State.setGroup_regions (s : State) (g : Nat) (x : Group) : (s.setGroup g x).regions = s.regions := rfl
@[simp] theorem State.setGroup_treeOps (s : State) (g : Nat) (x : Group) : (s.setGroup g x).treeOps = s.treeOps := rfl
@[simp] theorem State.setGroup_nextTree (s : State) (g : Nat) (x : Group) : (s.setGroup g x).nextTree = s.nextTree := rfl
@[simp] theorem State.setGroup_cycle (s : State) (g : Nat) (x : Group) : (s.setGroup g x).cycle = s.cycle := rfl
@[simp] theorem State.setGroup_cur (s : State) (g : Nat) (x : Group) : (s.setGroup g x).cur = s.cur := rfl
@[simp] theorem State.setGroup_ir (s : State) (g : Nat) (x : Group) : (s.setGroup g x).ir = s.ir := rfl
@[simp] theorem State.setGroup_agenda (s : State) (g : Nat) (x : Group) : (s.setGroup g x).agenda = s.agenda := rfl
@[simp] theorem State.setGroup_turn (s : State) (g : Nat) (x : Group) : (s.setGroup g x).turn = s.turn := rfl
@[simp] theorem State.setGroup_free (s : State) (g : Nat) (x : Group) : (s.setGroup g x).free = s.free := rfl
@[simp] theorem State.setGroup_strand (s : State) (g : Nat) (x : Group) (m : Nat) : (s.setGroup g x).strand m = s.strand m := rfl
@[simp] theorem State.setGroup_here (s : State) (g : Nat) (x : Group) : (s.setGroup g x).here = s.here := rfl
@[simp] theorem State.setGroup_cluster (s : State) (g : Nat) (x : Group) (m : Nat) : (s.setGroup g x).cluster m = s.cluster m := rfl
@[simp] theorem State.setGroup_die (s : State) (g : Nat) (x : Group) (m : Nat) : (s.setGroup g x).die m = s.die m := rfl

/-! ### `State.setCluster` -/

@[simp] theorem State.setCluster_strands (s : State) (c : Nat) (x : Cluster) : (s.setCluster c x).strands = s.strands := rfl
@[simp] theorem State.setCluster_groups (s : State) (c : Nat) (x : Cluster) : (s.setCluster c x).groups = s.groups := rfl
@[simp] theorem State.setCluster_dies (s : State) (c : Nat) (x : Cluster) : (s.setCluster c x).dies = s.dies := rfl
@[simp] theorem State.setCluster_ctxs (s : State) (c : Nat) (x : Cluster) : (s.setCluster c x).ctxs = s.ctxs := rfl
@[simp] theorem State.setCluster_launches (s : State) (c : Nat) (x : Cluster) : (s.setCluster c x).launches = s.launches := rfl
@[simp] theorem State.setCluster_nextLaunch (s : State) (c : Nat) (x : Cluster) : (s.setCluster c x).nextLaunch = s.nextLaunch := rfl
@[simp] theorem State.setCluster_susp (s : State) (c : Nat) (x : Cluster) : (s.setCluster c x).susp = s.susp := rfl
@[simp] theorem State.setCluster_mem (s : State) (c : Nat) (x : Cluster) : (s.setCluster c x).mem = s.mem := rfl
@[simp] theorem State.setCluster_l2old (s : State) (c : Nat) (x : Cluster) : (s.setCluster c x).l2old = s.l2old := rfl
@[simp] theorem State.setCluster_mscOld (s : State) (c : Nat) (x : Cluster) : (s.setCluster c x).mscOld = s.mscOld := rfl
@[simp] theorem State.setCluster_poisoned (s : State) (c : Nat) (x : Cluster) : (s.setCluster c x).poisoned = s.poisoned := rfl
@[simp] theorem State.setCluster_flips (s : State) (c : Nat) (x : Cluster) : (s.setCluster c x).flips = s.flips := rfl
@[simp] theorem State.setCluster_l2bad (s : State) (c : Nat) (x : Cluster) : (s.setCluster c x).l2bad = s.l2bad := rfl
@[simp] theorem State.setCluster_mscBad (s : State) (c : Nat) (x : Cluster) : (s.setCluster c x).mscBad = s.mscBad := rfl
@[simp] theorem State.setCluster_frames (s : State) (c : Nat) (x : Cluster) : (s.setCluster c x).frames = s.frames := rfl
@[simp] theorem State.setCluster_promoted (s : State) (c : Nat) (x : Cluster) : (s.setCluster c x).promoted = s.promoted := rfl
@[simp] theorem State.setCluster_promoting (s : State) (c : Nat) (x : Cluster) : (s.setCluster c x).promoting = s.promoting := rfl
@[simp] theorem State.setCluster_demoting (s : State) (c : Nat) (x : Cluster) : (s.setCluster c x).demoting = s.demoting := rfl
@[simp] theorem State.setCluster_promlate (s : State) (c : Nat) (x : Cluster) : (s.setCluster c x).promlate = s.promlate := rfl
@[simp] theorem State.setCluster_log (s : State) (c : Nat) (x : Cluster) : (s.setCluster c x).log = s.log := rfl
@[simp] theorem State.setCluster_sliceCorr (s : State) (c : Nat) (x : Cluster) : (s.setCluster c x).sliceCorr = s.sliceCorr := rfl
@[simp] theorem State.setCluster_windows (s : State) (c : Nat) (x : Cluster) : (s.setCluster c x).windows = s.windows := rfl
@[simp] theorem State.setCluster_ramir (s : State) (c : Nat) (x : Cluster) : (s.setCluster c x).ramir = s.ramir := rfl
@[simp] theorem State.setCluster_ats (s : State) (c : Nat) (x : Cluster) : (s.setCluster c x).ats = s.ats := rfl
@[simp] theorem State.setCluster_refusedPages (s : State) (c : Nat) (x : Cluster) : (s.setCluster c x).refusedPages = s.refusedPages := rfl
@[simp] theorem State.setCluster_remotes (s : State) (c : Nat) (x : Cluster) : (s.setCluster c x).remotes = s.remotes := rfl
@[simp] theorem State.setCluster_nextReq (s : State) (c : Nat) (x : Cluster) : (s.setCluster c x).nextReq = s.nextReq := rfl
@[simp] theorem State.setCluster_late (s : State) (c : Nat) (x : Cluster) : (s.setCluster c x).late = s.late := rfl
@[simp] theorem State.setCluster_pageReqs (s : State) (c : Nat) (x : Cluster) : (s.setCluster c x).pageReqs = s.pageReqs := rfl
@[simp] theorem State.setCluster_out (s : State) (c : Nat) (x : Cluster) : (s.setCluster c x).out = s.out := rfl
@[simp] theorem State.setCluster_mgmt (s : State) (c : Nat) (x : Cluster) : (s.setCluster c x).mgmt = s.mgmt := rfl
@[simp] theorem State.setCluster_throttles (s : State) (c : Nat) (x : Cluster) : (s.setCluster c x).throttles = s.throttles := rfl
@[simp] theorem State.setCluster_tdisp (s : State) (c : Nat) (x : Cluster) : (s.setCluster c x).tdisp = s.tdisp := rfl
@[simp] theorem State.setCluster_husks (s : State) (c : Nat) (x : Cluster) : (s.setCluster c x).husks = s.husks := rfl
@[simp] theorem State.setCluster_images (s : State) (c : Nat) (x : Cluster) : (s.setCluster c x).images = s.images := rfl
@[simp] theorem State.setCluster_regions (s : State) (c : Nat) (x : Cluster) : (s.setCluster c x).regions = s.regions := rfl
@[simp] theorem State.setCluster_treeOps (s : State) (c : Nat) (x : Cluster) : (s.setCluster c x).treeOps = s.treeOps := rfl
@[simp] theorem State.setCluster_nextTree (s : State) (c : Nat) (x : Cluster) : (s.setCluster c x).nextTree = s.nextTree := rfl
@[simp] theorem State.setCluster_cycle (s : State) (c : Nat) (x : Cluster) : (s.setCluster c x).cycle = s.cycle := rfl
@[simp] theorem State.setCluster_cur (s : State) (c : Nat) (x : Cluster) : (s.setCluster c x).cur = s.cur := rfl
@[simp] theorem State.setCluster_ir (s : State) (c : Nat) (x : Cluster) : (s.setCluster c x).ir = s.ir := rfl
@[simp] theorem State.setCluster_agenda (s : State) (c : Nat) (x : Cluster) : (s.setCluster c x).agenda = s.agenda := rfl
@[simp] theorem State.setCluster_turn (s : State) (c : Nat) (x : Cluster) : (s.setCluster c x).turn = s.turn := rfl
@[simp] theorem State.setCluster_free (s : State) (c : Nat) (x : Cluster) : (s.setCluster c x).free = s.free := rfl
@[simp] theorem State.setCluster_strand (s : State) (c : Nat) (x : Cluster) (m : Nat) : (s.setCluster c x).strand m = s.strand m := rfl
@[simp] theorem State.setCluster_here (s : State) (c : Nat) (x : Cluster) : (s.setCluster c x).here = s.here := rfl
@[simp] theorem State.setCluster_group (s : State) (c : Nat) (x : Cluster) (m : Nat) : (s.setCluster c x).group m = s.group m := rfl
@[simp] theorem State.setCluster_die (s : State) (c : Nat) (x : Cluster) (m : Nat) : (s.setCluster c x).die m = s.die m := rfl

/-! ### `State.setDie` -/

@[simp] theorem State.setDie_strands (s : State) (d : Nat) (x : Die) : (s.setDie d x).strands = s.strands := rfl
@[simp] theorem State.setDie_groups (s : State) (d : Nat) (x : Die) : (s.setDie d x).groups = s.groups := rfl
@[simp] theorem State.setDie_clusters (s : State) (d : Nat) (x : Die) : (s.setDie d x).clusters = s.clusters := rfl
@[simp] theorem State.setDie_ctxs (s : State) (d : Nat) (x : Die) : (s.setDie d x).ctxs = s.ctxs := rfl
@[simp] theorem State.setDie_launches (s : State) (d : Nat) (x : Die) : (s.setDie d x).launches = s.launches := rfl
@[simp] theorem State.setDie_nextLaunch (s : State) (d : Nat) (x : Die) : (s.setDie d x).nextLaunch = s.nextLaunch := rfl
@[simp] theorem State.setDie_susp (s : State) (d : Nat) (x : Die) : (s.setDie d x).susp = s.susp := rfl
@[simp] theorem State.setDie_mem (s : State) (d : Nat) (x : Die) : (s.setDie d x).mem = s.mem := rfl
@[simp] theorem State.setDie_l2old (s : State) (d : Nat) (x : Die) : (s.setDie d x).l2old = s.l2old := rfl
@[simp] theorem State.setDie_mscOld (s : State) (d : Nat) (x : Die) : (s.setDie d x).mscOld = s.mscOld := rfl
@[simp] theorem State.setDie_poisoned (s : State) (d : Nat) (x : Die) : (s.setDie d x).poisoned = s.poisoned := rfl
@[simp] theorem State.setDie_flips (s : State) (d : Nat) (x : Die) : (s.setDie d x).flips = s.flips := rfl
@[simp] theorem State.setDie_l2bad (s : State) (d : Nat) (x : Die) : (s.setDie d x).l2bad = s.l2bad := rfl
@[simp] theorem State.setDie_mscBad (s : State) (d : Nat) (x : Die) : (s.setDie d x).mscBad = s.mscBad := rfl
@[simp] theorem State.setDie_frames (s : State) (d : Nat) (x : Die) : (s.setDie d x).frames = s.frames := rfl
@[simp] theorem State.setDie_promoted (s : State) (d : Nat) (x : Die) : (s.setDie d x).promoted = s.promoted := rfl
@[simp] theorem State.setDie_promoting (s : State) (d : Nat) (x : Die) : (s.setDie d x).promoting = s.promoting := rfl
@[simp] theorem State.setDie_demoting (s : State) (d : Nat) (x : Die) : (s.setDie d x).demoting = s.demoting := rfl
@[simp] theorem State.setDie_promlate (s : State) (d : Nat) (x : Die) : (s.setDie d x).promlate = s.promlate := rfl
@[simp] theorem State.setDie_log (s : State) (d : Nat) (x : Die) : (s.setDie d x).log = s.log := rfl
@[simp] theorem State.setDie_sliceCorr (s : State) (d : Nat) (x : Die) : (s.setDie d x).sliceCorr = s.sliceCorr := rfl
@[simp] theorem State.setDie_windows (s : State) (d : Nat) (x : Die) : (s.setDie d x).windows = s.windows := rfl
@[simp] theorem State.setDie_ramir (s : State) (d : Nat) (x : Die) : (s.setDie d x).ramir = s.ramir := rfl
@[simp] theorem State.setDie_ats (s : State) (d : Nat) (x : Die) : (s.setDie d x).ats = s.ats := rfl
@[simp] theorem State.setDie_refusedPages (s : State) (d : Nat) (x : Die) : (s.setDie d x).refusedPages = s.refusedPages := rfl
@[simp] theorem State.setDie_remotes (s : State) (d : Nat) (x : Die) : (s.setDie d x).remotes = s.remotes := rfl
@[simp] theorem State.setDie_nextReq (s : State) (d : Nat) (x : Die) : (s.setDie d x).nextReq = s.nextReq := rfl
@[simp] theorem State.setDie_late (s : State) (d : Nat) (x : Die) : (s.setDie d x).late = s.late := rfl
@[simp] theorem State.setDie_pageReqs (s : State) (d : Nat) (x : Die) : (s.setDie d x).pageReqs = s.pageReqs := rfl
@[simp] theorem State.setDie_out (s : State) (d : Nat) (x : Die) : (s.setDie d x).out = s.out := rfl
@[simp] theorem State.setDie_mgmt (s : State) (d : Nat) (x : Die) : (s.setDie d x).mgmt = s.mgmt := rfl
@[simp] theorem State.setDie_throttles (s : State) (d : Nat) (x : Die) : (s.setDie d x).throttles = s.throttles := rfl
@[simp] theorem State.setDie_tdisp (s : State) (d : Nat) (x : Die) : (s.setDie d x).tdisp = s.tdisp := rfl
@[simp] theorem State.setDie_husks (s : State) (d : Nat) (x : Die) : (s.setDie d x).husks = s.husks := rfl
@[simp] theorem State.setDie_images (s : State) (d : Nat) (x : Die) : (s.setDie d x).images = s.images := rfl
@[simp] theorem State.setDie_regions (s : State) (d : Nat) (x : Die) : (s.setDie d x).regions = s.regions := rfl
@[simp] theorem State.setDie_treeOps (s : State) (d : Nat) (x : Die) : (s.setDie d x).treeOps = s.treeOps := rfl
@[simp] theorem State.setDie_nextTree (s : State) (d : Nat) (x : Die) : (s.setDie d x).nextTree = s.nextTree := rfl
@[simp] theorem State.setDie_cycle (s : State) (d : Nat) (x : Die) : (s.setDie d x).cycle = s.cycle := rfl
@[simp] theorem State.setDie_cur (s : State) (d : Nat) (x : Die) : (s.setDie d x).cur = s.cur := rfl
@[simp] theorem State.setDie_ir (s : State) (d : Nat) (x : Die) : (s.setDie d x).ir = s.ir := rfl
@[simp] theorem State.setDie_agenda (s : State) (d : Nat) (x : Die) : (s.setDie d x).agenda = s.agenda := rfl
@[simp] theorem State.setDie_turn (s : State) (d : Nat) (x : Die) : (s.setDie d x).turn = s.turn := rfl
@[simp] theorem State.setDie_free (s : State) (d : Nat) (x : Die) : (s.setDie d x).free = s.free := rfl
@[simp] theorem State.setDie_strand (s : State) (d : Nat) (x : Die) (m : Nat) : (s.setDie d x).strand m = s.strand m := rfl
@[simp] theorem State.setDie_here (s : State) (d : Nat) (x : Die) : (s.setDie d x).here = s.here := rfl
@[simp] theorem State.setDie_group (s : State) (d : Nat) (x : Die) (m : Nat) : (s.setDie d x).group m = s.group m := rfl
@[simp] theorem State.setDie_cluster (s : State) (d : Nat) (x : Die) (m : Nat) : (s.setDie d x).cluster m = s.cluster m := rfl

/-! ### `State.setCtx` -/

@[simp] theorem State.setCtx_strands (s : State) (c : Nat) (x : Ctx) : (s.setCtx c x).strands = s.strands := rfl
@[simp] theorem State.setCtx_groups (s : State) (c : Nat) (x : Ctx) : (s.setCtx c x).groups = s.groups := rfl
@[simp] theorem State.setCtx_clusters (s : State) (c : Nat) (x : Ctx) : (s.setCtx c x).clusters = s.clusters := rfl
@[simp] theorem State.setCtx_dies (s : State) (c : Nat) (x : Ctx) : (s.setCtx c x).dies = s.dies := rfl
@[simp] theorem State.setCtx_launches (s : State) (c : Nat) (x : Ctx) : (s.setCtx c x).launches = s.launches := rfl
@[simp] theorem State.setCtx_nextLaunch (s : State) (c : Nat) (x : Ctx) : (s.setCtx c x).nextLaunch = s.nextLaunch := rfl
@[simp] theorem State.setCtx_susp (s : State) (c : Nat) (x : Ctx) : (s.setCtx c x).susp = s.susp := rfl
@[simp] theorem State.setCtx_mem (s : State) (c : Nat) (x : Ctx) : (s.setCtx c x).mem = s.mem := rfl
@[simp] theorem State.setCtx_l2old (s : State) (c : Nat) (x : Ctx) : (s.setCtx c x).l2old = s.l2old := rfl
@[simp] theorem State.setCtx_mscOld (s : State) (c : Nat) (x : Ctx) : (s.setCtx c x).mscOld = s.mscOld := rfl
@[simp] theorem State.setCtx_poisoned (s : State) (c : Nat) (x : Ctx) : (s.setCtx c x).poisoned = s.poisoned := rfl
@[simp] theorem State.setCtx_flips (s : State) (c : Nat) (x : Ctx) : (s.setCtx c x).flips = s.flips := rfl
@[simp] theorem State.setCtx_l2bad (s : State) (c : Nat) (x : Ctx) : (s.setCtx c x).l2bad = s.l2bad := rfl
@[simp] theorem State.setCtx_mscBad (s : State) (c : Nat) (x : Ctx) : (s.setCtx c x).mscBad = s.mscBad := rfl
@[simp] theorem State.setCtx_frames (s : State) (c : Nat) (x : Ctx) : (s.setCtx c x).frames = s.frames := rfl
@[simp] theorem State.setCtx_promoted (s : State) (c : Nat) (x : Ctx) : (s.setCtx c x).promoted = s.promoted := rfl
@[simp] theorem State.setCtx_promoting (s : State) (c : Nat) (x : Ctx) : (s.setCtx c x).promoting = s.promoting := rfl
@[simp] theorem State.setCtx_demoting (s : State) (c : Nat) (x : Ctx) : (s.setCtx c x).demoting = s.demoting := rfl
@[simp] theorem State.setCtx_promlate (s : State) (c : Nat) (x : Ctx) : (s.setCtx c x).promlate = s.promlate := rfl
@[simp] theorem State.setCtx_log (s : State) (c : Nat) (x : Ctx) : (s.setCtx c x).log = s.log := rfl
@[simp] theorem State.setCtx_sliceCorr (s : State) (c : Nat) (x : Ctx) : (s.setCtx c x).sliceCorr = s.sliceCorr := rfl
@[simp] theorem State.setCtx_windows (s : State) (c : Nat) (x : Ctx) : (s.setCtx c x).windows = s.windows := rfl
@[simp] theorem State.setCtx_ramir (s : State) (c : Nat) (x : Ctx) : (s.setCtx c x).ramir = s.ramir := rfl
@[simp] theorem State.setCtx_ats (s : State) (c : Nat) (x : Ctx) : (s.setCtx c x).ats = s.ats := rfl
@[simp] theorem State.setCtx_refusedPages (s : State) (c : Nat) (x : Ctx) : (s.setCtx c x).refusedPages = s.refusedPages := rfl
@[simp] theorem State.setCtx_remotes (s : State) (c : Nat) (x : Ctx) : (s.setCtx c x).remotes = s.remotes := rfl
@[simp] theorem State.setCtx_nextReq (s : State) (c : Nat) (x : Ctx) : (s.setCtx c x).nextReq = s.nextReq := rfl
@[simp] theorem State.setCtx_late (s : State) (c : Nat) (x : Ctx) : (s.setCtx c x).late = s.late := rfl
@[simp] theorem State.setCtx_pageReqs (s : State) (c : Nat) (x : Ctx) : (s.setCtx c x).pageReqs = s.pageReqs := rfl
@[simp] theorem State.setCtx_out (s : State) (c : Nat) (x : Ctx) : (s.setCtx c x).out = s.out := rfl
@[simp] theorem State.setCtx_mgmt (s : State) (c : Nat) (x : Ctx) : (s.setCtx c x).mgmt = s.mgmt := rfl
@[simp] theorem State.setCtx_throttles (s : State) (c : Nat) (x : Ctx) : (s.setCtx c x).throttles = s.throttles := rfl
@[simp] theorem State.setCtx_tdisp (s : State) (c : Nat) (x : Ctx) : (s.setCtx c x).tdisp = s.tdisp := rfl
@[simp] theorem State.setCtx_husks (s : State) (c : Nat) (x : Ctx) : (s.setCtx c x).husks = s.husks := rfl
@[simp] theorem State.setCtx_images (s : State) (c : Nat) (x : Ctx) : (s.setCtx c x).images = s.images := rfl
@[simp] theorem State.setCtx_regions (s : State) (c : Nat) (x : Ctx) : (s.setCtx c x).regions = s.regions := rfl
@[simp] theorem State.setCtx_treeOps (s : State) (c : Nat) (x : Ctx) : (s.setCtx c x).treeOps = s.treeOps := rfl
@[simp] theorem State.setCtx_nextTree (s : State) (c : Nat) (x : Ctx) : (s.setCtx c x).nextTree = s.nextTree := rfl
@[simp] theorem State.setCtx_cycle (s : State) (c : Nat) (x : Ctx) : (s.setCtx c x).cycle = s.cycle := rfl
@[simp] theorem State.setCtx_cur (s : State) (c : Nat) (x : Ctx) : (s.setCtx c x).cur = s.cur := rfl
@[simp] theorem State.setCtx_ir (s : State) (c : Nat) (x : Ctx) : (s.setCtx c x).ir = s.ir := rfl
@[simp] theorem State.setCtx_agenda (s : State) (c : Nat) (x : Ctx) : (s.setCtx c x).agenda = s.agenda := rfl
@[simp] theorem State.setCtx_turn (s : State) (c : Nat) (x : Ctx) : (s.setCtx c x).turn = s.turn := rfl
@[simp] theorem State.setCtx_free (s : State) (c : Nat) (x : Ctx) : (s.setCtx c x).free = s.free := rfl
@[simp] theorem State.setCtx_strand (s : State) (c : Nat) (x : Ctx) (m : Nat) : (s.setCtx c x).strand m = s.strand m := rfl
@[simp] theorem State.setCtx_here (s : State) (c : Nat) (x : Ctx) : (s.setCtx c x).here = s.here := rfl
@[simp] theorem State.setCtx_group (s : State) (c : Nat) (x : Ctx) (m : Nat) : (s.setCtx c x).group m = s.group m := rfl
@[simp] theorem State.setCtx_cluster (s : State) (c : Nat) (x : Ctx) (m : Nat) : (s.setCtx c x).cluster m = s.cluster m := rfl
@[simp] theorem State.setCtx_die (s : State) (c : Nat) (x : Ctx) (m : Nat) : (s.setCtx c x).die m = s.die m := rfl

/-! ### Time and retirement -/

@[simp] theorem tick_strands (n : Nat) (s : State) : (tick n s).strands = s.strands := rfl
@[simp] theorem tick_groups (n : Nat) (s : State) : (tick n s).groups = s.groups := rfl
@[simp] theorem tick_clusters (n : Nat) (s : State) : (tick n s).clusters = s.clusters := rfl
@[simp] theorem tick_dies (n : Nat) (s : State) : (tick n s).dies = s.dies := rfl
@[simp] theorem tick_launches (n : Nat) (s : State) : (tick n s).launches = s.launches := rfl
@[simp] theorem tick_nextLaunch (n : Nat) (s : State) : (tick n s).nextLaunch = s.nextLaunch := rfl
@[simp] theorem tick_susp (n : Nat) (s : State) : (tick n s).susp = s.susp := rfl
@[simp] theorem tick_mem (n : Nat) (s : State) : (tick n s).mem = s.mem := rfl
@[simp] theorem tick_l2old (n : Nat) (s : State) : (tick n s).l2old = s.l2old := rfl
@[simp] theorem tick_mscOld (n : Nat) (s : State) : (tick n s).mscOld = s.mscOld := rfl
@[simp] theorem tick_poisoned (n : Nat) (s : State) : (tick n s).poisoned = s.poisoned := rfl
@[simp] theorem tick_flips (n : Nat) (s : State) : (tick n s).flips = s.flips := rfl
@[simp] theorem tick_l2bad (n : Nat) (s : State) : (tick n s).l2bad = s.l2bad := rfl
@[simp] theorem tick_mscBad (n : Nat) (s : State) : (tick n s).mscBad = s.mscBad := rfl
@[simp] theorem tick_frames (n : Nat) (s : State) : (tick n s).frames = s.frames := rfl
@[simp] theorem tick_promoted (n : Nat) (s : State) : (tick n s).promoted = s.promoted := rfl
@[simp] theorem tick_promoting (n : Nat) (s : State) : (tick n s).promoting = s.promoting := rfl
@[simp] theorem tick_demoting (n : Nat) (s : State) : (tick n s).demoting = s.demoting := rfl
@[simp] theorem tick_promlate (n : Nat) (s : State) : (tick n s).promlate = s.promlate := rfl
@[simp] theorem tick_log (n : Nat) (s : State) : (tick n s).log = s.log := rfl
@[simp] theorem tick_sliceCorr (n : Nat) (s : State) : (tick n s).sliceCorr = s.sliceCorr := rfl
@[simp] theorem tick_windows (n : Nat) (s : State) : (tick n s).windows = s.windows := rfl
@[simp] theorem tick_ramir (n : Nat) (s : State) : (tick n s).ramir = s.ramir := rfl
@[simp] theorem tick_ats (n : Nat) (s : State) : (tick n s).ats = s.ats := rfl
@[simp] theorem tick_refusedPages (n : Nat) (s : State) : (tick n s).refusedPages = s.refusedPages := rfl
@[simp] theorem tick_remotes (n : Nat) (s : State) : (tick n s).remotes = s.remotes := rfl
@[simp] theorem tick_nextReq (n : Nat) (s : State) : (tick n s).nextReq = s.nextReq := rfl
@[simp] theorem tick_late (n : Nat) (s : State) : (tick n s).late = s.late := rfl
@[simp] theorem tick_pageReqs (n : Nat) (s : State) : (tick n s).pageReqs = s.pageReqs := rfl
@[simp] theorem tick_out (n : Nat) (s : State) : (tick n s).out = s.out := rfl
@[simp] theorem tick_mgmt (n : Nat) (s : State) : (tick n s).mgmt = s.mgmt := rfl
@[simp] theorem tick_throttles (n : Nat) (s : State) : (tick n s).throttles = s.throttles := rfl
@[simp] theorem tick_tdisp (n : Nat) (s : State) : (tick n s).tdisp = s.tdisp := rfl
@[simp] theorem tick_husks (n : Nat) (s : State) : (tick n s).husks = s.husks := rfl
@[simp] theorem tick_images (n : Nat) (s : State) : (tick n s).images = s.images := rfl
@[simp] theorem tick_regions (n : Nat) (s : State) : (tick n s).regions = s.regions := rfl
@[simp] theorem tick_treeOps (n : Nat) (s : State) : (tick n s).treeOps = s.treeOps := rfl
@[simp] theorem tick_nextTree (n : Nat) (s : State) : (tick n s).nextTree = s.nextTree := rfl
@[simp] theorem tick_cur (n : Nat) (s : State) : (tick n s).cur = s.cur := rfl
@[simp] theorem tick_ir (n : Nat) (s : State) : (tick n s).ir = s.ir := rfl
@[simp] theorem tick_agenda (n : Nat) (s : State) : (tick n s).agenda = s.agenda := rfl
@[simp] theorem tick_turn (n : Nat) (s : State) : (tick n s).turn = s.turn := rfl
@[simp] theorem tick_strand (n : Nat) (s : State) (m : Nat) : (tick n s).strand m = s.strand m := rfl
@[simp] theorem tick_here (n : Nat) (s : State) : (tick n s).here = s.here := rfl
@[simp] theorem wake_groups (s : State) : (wake s).groups = s.groups := rfl
@[simp] theorem wake_clusters (s : State) : (wake s).clusters = s.clusters := rfl
@[simp] theorem wake_dies (s : State) : (wake s).dies = s.dies := rfl
@[simp] theorem wake_ctxs (s : State) : (wake s).ctxs = s.ctxs := rfl
@[simp] theorem wake_launches (s : State) : (wake s).launches = s.launches := rfl
@[simp] theorem wake_nextLaunch (s : State) : (wake s).nextLaunch = s.nextLaunch := rfl
@[simp] theorem wake_susp (s : State) : (wake s).susp = s.susp := rfl
@[simp] theorem wake_mem (s : State) : (wake s).mem = s.mem := rfl
@[simp] theorem wake_l2old (s : State) : (wake s).l2old = s.l2old := rfl
@[simp] theorem wake_mscOld (s : State) : (wake s).mscOld = s.mscOld := rfl
@[simp] theorem wake_poisoned (s : State) : (wake s).poisoned = s.poisoned := rfl
@[simp] theorem wake_flips (s : State) : (wake s).flips = s.flips := rfl
@[simp] theorem wake_l2bad (s : State) : (wake s).l2bad = s.l2bad := rfl
@[simp] theorem wake_mscBad (s : State) : (wake s).mscBad = s.mscBad := rfl
@[simp] theorem wake_frames (s : State) : (wake s).frames = s.frames := rfl
@[simp] theorem wake_promoted (s : State) : (wake s).promoted = s.promoted := rfl
@[simp] theorem wake_promoting (s : State) : (wake s).promoting = s.promoting := rfl
@[simp] theorem wake_demoting (s : State) : (wake s).demoting = s.demoting := rfl
@[simp] theorem wake_promlate (s : State) : (wake s).promlate = s.promlate := rfl
@[simp] theorem wake_log (s : State) : (wake s).log = s.log := rfl
@[simp] theorem wake_sliceCorr (s : State) : (wake s).sliceCorr = s.sliceCorr := rfl
@[simp] theorem wake_windows (s : State) : (wake s).windows = s.windows := rfl
@[simp] theorem wake_ramir (s : State) : (wake s).ramir = s.ramir := rfl
@[simp] theorem wake_ats (s : State) : (wake s).ats = s.ats := rfl
@[simp] theorem wake_refusedPages (s : State) : (wake s).refusedPages = s.refusedPages := rfl
@[simp] theorem wake_remotes (s : State) : (wake s).remotes = s.remotes := rfl
@[simp] theorem wake_nextReq (s : State) : (wake s).nextReq = s.nextReq := rfl
@[simp] theorem wake_late (s : State) : (wake s).late = s.late := rfl
@[simp] theorem wake_pageReqs (s : State) : (wake s).pageReqs = s.pageReqs := rfl
@[simp] theorem wake_out (s : State) : (wake s).out = s.out := rfl
@[simp] theorem wake_mgmt (s : State) : (wake s).mgmt = s.mgmt := rfl
@[simp] theorem wake_throttles (s : State) : (wake s).throttles = s.throttles := rfl
@[simp] theorem wake_tdisp (s : State) : (wake s).tdisp = s.tdisp := rfl
@[simp] theorem wake_husks (s : State) : (wake s).husks = s.husks := rfl
@[simp] theorem wake_images (s : State) : (wake s).images = s.images := rfl
@[simp] theorem wake_regions (s : State) : (wake s).regions = s.regions := rfl
@[simp] theorem wake_treeOps (s : State) : (wake s).treeOps = s.treeOps := rfl
@[simp] theorem wake_nextTree (s : State) : (wake s).nextTree = s.nextTree := rfl
@[simp] theorem wake_cycle (s : State) : (wake s).cycle = s.cycle := rfl
@[simp] theorem wake_cur (s : State) : (wake s).cur = s.cur := rfl
@[simp] theorem wake_ir (s : State) : (wake s).ir = s.ir := rfl
@[simp] theorem wake_agenda (s : State) : (wake s).agenda = s.agenda := rfl
@[simp] theorem wake_turn (s : State) : (wake s).turn = s.turn := rfl
@[simp] theorem wake_free (s : State) : (wake s).free = s.free := rfl
@[simp] theorem retire_groups (k : BitVec 4) (pc : BitVec 56) (s : State) : (retire k pc s).groups = s.groups := rfl
@[simp] theorem retire_clusters (k : BitVec 4) (pc : BitVec 56) (s : State) : (retire k pc s).clusters = s.clusters := rfl
@[simp] theorem retire_dies (k : BitVec 4) (pc : BitVec 56) (s : State) : (retire k pc s).dies = s.dies := rfl
@[simp] theorem retire_launches (k : BitVec 4) (pc : BitVec 56) (s : State) : (retire k pc s).launches = s.launches := rfl
@[simp] theorem retire_nextLaunch (k : BitVec 4) (pc : BitVec 56) (s : State) : (retire k pc s).nextLaunch = s.nextLaunch := rfl
@[simp] theorem retire_susp (k : BitVec 4) (pc : BitVec 56) (s : State) : (retire k pc s).susp = s.susp := rfl
@[simp] theorem retire_mem (k : BitVec 4) (pc : BitVec 56) (s : State) : (retire k pc s).mem = s.mem := rfl
@[simp] theorem retire_l2old (k : BitVec 4) (pc : BitVec 56) (s : State) : (retire k pc s).l2old = s.l2old := rfl
@[simp] theorem retire_mscOld (k : BitVec 4) (pc : BitVec 56) (s : State) : (retire k pc s).mscOld = s.mscOld := rfl
@[simp] theorem retire_poisoned (k : BitVec 4) (pc : BitVec 56) (s : State) : (retire k pc s).poisoned = s.poisoned := rfl
@[simp] theorem retire_flips (k : BitVec 4) (pc : BitVec 56) (s : State) : (retire k pc s).flips = s.flips := rfl
@[simp] theorem retire_l2bad (k : BitVec 4) (pc : BitVec 56) (s : State) : (retire k pc s).l2bad = s.l2bad := rfl
@[simp] theorem retire_mscBad (k : BitVec 4) (pc : BitVec 56) (s : State) : (retire k pc s).mscBad = s.mscBad := rfl
@[simp] theorem retire_frames (k : BitVec 4) (pc : BitVec 56) (s : State) : (retire k pc s).frames = s.frames := rfl
@[simp] theorem retire_promoted (k : BitVec 4) (pc : BitVec 56) (s : State) : (retire k pc s).promoted = s.promoted := rfl
@[simp] theorem retire_promoting (k : BitVec 4) (pc : BitVec 56) (s : State) : (retire k pc s).promoting = s.promoting := rfl
@[simp] theorem retire_demoting (k : BitVec 4) (pc : BitVec 56) (s : State) : (retire k pc s).demoting = s.demoting := rfl
@[simp] theorem retire_promlate (k : BitVec 4) (pc : BitVec 56) (s : State) : (retire k pc s).promlate = s.promlate := rfl
@[simp] theorem retire_log (k : BitVec 4) (pc : BitVec 56) (s : State) : (retire k pc s).log = s.log := rfl
@[simp] theorem retire_sliceCorr (k : BitVec 4) (pc : BitVec 56) (s : State) : (retire k pc s).sliceCorr = s.sliceCorr := rfl
@[simp] theorem retire_windows (k : BitVec 4) (pc : BitVec 56) (s : State) : (retire k pc s).windows = s.windows := rfl
@[simp] theorem retire_ramir (k : BitVec 4) (pc : BitVec 56) (s : State) : (retire k pc s).ramir = s.ramir := rfl
@[simp] theorem retire_ats (k : BitVec 4) (pc : BitVec 56) (s : State) : (retire k pc s).ats = s.ats := rfl
@[simp] theorem retire_refusedPages (k : BitVec 4) (pc : BitVec 56) (s : State) : (retire k pc s).refusedPages = s.refusedPages := rfl
@[simp] theorem retire_remotes (k : BitVec 4) (pc : BitVec 56) (s : State) : (retire k pc s).remotes = s.closeAsks.remotes := rfl
@[simp] theorem retire_nextReq (k : BitVec 4) (pc : BitVec 56) (s : State) : (retire k pc s).nextReq = s.nextReq := rfl
@[simp] theorem retire_late (k : BitVec 4) (pc : BitVec 56) (s : State) : (retire k pc s).late = s.late := rfl
@[simp] theorem retire_pageReqs (k : BitVec 4) (pc : BitVec 56) (s : State) : (retire k pc s).pageReqs = s.pageReqs := rfl
@[simp] theorem retire_out (k : BitVec 4) (pc : BitVec 56) (s : State) : (retire k pc s).out = s.out := rfl
@[simp] theorem retire_mgmt (k : BitVec 4) (pc : BitVec 56) (s : State) : (retire k pc s).mgmt = s.mgmt := rfl
@[simp] theorem retire_throttles (k : BitVec 4) (pc : BitVec 56) (s : State) : (retire k pc s).throttles = s.throttles := rfl
@[simp] theorem retire_tdisp (k : BitVec 4) (pc : BitVec 56) (s : State) : (retire k pc s).tdisp = s.tdisp := rfl
@[simp] theorem retire_husks (k : BitVec 4) (pc : BitVec 56) (s : State) : (retire k pc s).husks = s.husks := rfl
@[simp] theorem retire_images (k : BitVec 4) (pc : BitVec 56) (s : State) : (retire k pc s).images = s.images := rfl
@[simp] theorem retire_regions (k : BitVec 4) (pc : BitVec 56) (s : State) : (retire k pc s).regions = s.regions := rfl
@[simp] theorem retire_treeOps (k : BitVec 4) (pc : BitVec 56) (s : State) : (retire k pc s).treeOps = s.treeOps := rfl
@[simp] theorem retire_nextTree (k : BitVec 4) (pc : BitVec 56) (s : State) : (retire k pc s).nextTree = s.nextTree := rfl
@[simp] theorem retire_cur (k : BitVec 4) (pc : BitVec 56) (s : State) : (retire k pc s).cur = s.cur := rfl
@[simp] theorem retire_ir (k : BitVec 4) (pc : BitVec 56) (s : State) : (retire k pc s).ir = s.ir := rfl
@[simp] theorem retire_agenda (k : BitVec 4) (pc : BitVec 56) (s : State) : (retire k pc s).agenda = s.agenda := rfl
@[simp] theorem retire_turn (k : BitVec 4) (pc : BitVec 56) (s : State) : (retire k pc s).turn = s.turn := rfl

/-! ### Requests that leave the module -/

@[simp] theorem State.closeAsks_strands (s : State) : s.closeAsks.strands = s.strands := rfl
@[simp] theorem State.closeAsks_groups (s : State) : s.closeAsks.groups = s.groups := rfl
@[simp] theorem State.closeAsks_clusters (s : State) : s.closeAsks.clusters = s.clusters := rfl
@[simp] theorem State.closeAsks_dies (s : State) : s.closeAsks.dies = s.dies := rfl
@[simp] theorem State.closeAsks_ctxs (s : State) : s.closeAsks.ctxs = s.ctxs := rfl
@[simp] theorem State.closeAsks_launches (s : State) : s.closeAsks.launches = s.launches := rfl
@[simp] theorem State.closeAsks_nextLaunch (s : State) : s.closeAsks.nextLaunch = s.nextLaunch := rfl
@[simp] theorem State.closeAsks_susp (s : State) : s.closeAsks.susp = s.susp := rfl
@[simp] theorem State.closeAsks_mem (s : State) : s.closeAsks.mem = s.mem := rfl
@[simp] theorem State.closeAsks_l2old (s : State) : s.closeAsks.l2old = s.l2old := rfl
@[simp] theorem State.closeAsks_mscOld (s : State) : s.closeAsks.mscOld = s.mscOld := rfl
@[simp] theorem State.closeAsks_poisoned (s : State) : s.closeAsks.poisoned = s.poisoned := rfl
@[simp] theorem State.closeAsks_flips (s : State) : s.closeAsks.flips = s.flips := rfl
@[simp] theorem State.closeAsks_l2bad (s : State) : s.closeAsks.l2bad = s.l2bad := rfl
@[simp] theorem State.closeAsks_mscBad (s : State) : s.closeAsks.mscBad = s.mscBad := rfl
@[simp] theorem State.closeAsks_frames (s : State) : s.closeAsks.frames = s.frames := rfl
@[simp] theorem State.closeAsks_promoted (s : State) : s.closeAsks.promoted = s.promoted := rfl
@[simp] theorem State.closeAsks_promoting (s : State) : s.closeAsks.promoting = s.promoting := rfl
@[simp] theorem State.closeAsks_demoting (s : State) : s.closeAsks.demoting = s.demoting := rfl
@[simp] theorem State.closeAsks_promlate (s : State) : s.closeAsks.promlate = s.promlate := rfl
@[simp] theorem State.closeAsks_log (s : State) : s.closeAsks.log = s.log := rfl
@[simp] theorem State.closeAsks_sliceCorr (s : State) : s.closeAsks.sliceCorr = s.sliceCorr := rfl
@[simp] theorem State.closeAsks_windows (s : State) : s.closeAsks.windows = s.windows := rfl
@[simp] theorem State.closeAsks_ramir (s : State) : s.closeAsks.ramir = s.ramir := rfl
@[simp] theorem State.closeAsks_ats (s : State) : s.closeAsks.ats = s.ats := rfl
@[simp] theorem State.closeAsks_refusedPages (s : State) : s.closeAsks.refusedPages = s.refusedPages := rfl
@[simp] theorem State.closeAsks_nextReq (s : State) : s.closeAsks.nextReq = s.nextReq := rfl
@[simp] theorem State.closeAsks_late (s : State) : s.closeAsks.late = s.late := rfl
@[simp] theorem State.closeAsks_pageReqs (s : State) : s.closeAsks.pageReqs = s.pageReqs := rfl
@[simp] theorem State.closeAsks_out (s : State) : s.closeAsks.out = s.out := rfl
@[simp] theorem State.closeAsks_mgmt (s : State) : s.closeAsks.mgmt = s.mgmt := rfl
@[simp] theorem State.closeAsks_throttles (s : State) : s.closeAsks.throttles = s.throttles := rfl
@[simp] theorem State.closeAsks_tdisp (s : State) : s.closeAsks.tdisp = s.tdisp := rfl
@[simp] theorem State.closeAsks_husks (s : State) : s.closeAsks.husks = s.husks := rfl
@[simp] theorem State.closeAsks_images (s : State) : s.closeAsks.images = s.images := rfl
@[simp] theorem State.closeAsks_regions (s : State) : s.closeAsks.regions = s.regions := rfl
@[simp] theorem State.closeAsks_treeOps (s : State) : s.closeAsks.treeOps = s.treeOps := rfl
@[simp] theorem State.closeAsks_nextTree (s : State) : s.closeAsks.nextTree = s.nextTree := rfl
@[simp] theorem State.closeAsks_cycle (s : State) : s.closeAsks.cycle = s.cycle := rfl
@[simp] theorem State.closeAsks_cur (s : State) : s.closeAsks.cur = s.cur := rfl
@[simp] theorem State.closeAsks_ir (s : State) : s.closeAsks.ir = s.ir := rfl
@[simp] theorem State.closeAsks_agenda (s : State) : s.closeAsks.agenda = s.agenda := rfl
@[simp] theorem State.closeAsks_turn (s : State) : s.closeAsks.turn = s.turn := rfl
@[simp] theorem State.closeAsks_free (s : State) : s.closeAsks.free = s.free := rfl
@[simp] theorem State.request_strands (s : State) (w : Asker) (c : Option Nat) (pl : Place) (n : Nat) (op : RemoteOp) (va : Word) :
    (s.request w c pl n op va).strands = s.strands := rfl
@[simp] theorem State.request_groups (s : State) (w : Asker) (c : Option Nat) (pl : Place) (n : Nat) (op : RemoteOp) (va : Word) :
    (s.request w c pl n op va).groups = s.groups := rfl
@[simp] theorem State.request_clusters (s : State) (w : Asker) (c : Option Nat) (pl : Place) (n : Nat) (op : RemoteOp) (va : Word) :
    (s.request w c pl n op va).clusters = s.clusters := rfl
@[simp] theorem State.request_dies (s : State) (w : Asker) (c : Option Nat) (pl : Place) (n : Nat) (op : RemoteOp) (va : Word) :
    (s.request w c pl n op va).dies = s.dies := rfl
@[simp] theorem State.request_ctxs (s : State) (w : Asker) (c : Option Nat) (pl : Place) (n : Nat) (op : RemoteOp) (va : Word) :
    (s.request w c pl n op va).ctxs = s.ctxs := rfl
@[simp] theorem State.request_launches (s : State) (w : Asker) (c : Option Nat) (pl : Place) (n : Nat) (op : RemoteOp) (va : Word) :
    (s.request w c pl n op va).launches = s.launches := rfl
@[simp] theorem State.request_nextLaunch (s : State) (w : Asker) (c : Option Nat) (pl : Place) (n : Nat) (op : RemoteOp) (va : Word) :
    (s.request w c pl n op va).nextLaunch = s.nextLaunch := rfl
@[simp] theorem State.request_susp (s : State) (w : Asker) (c : Option Nat) (pl : Place) (n : Nat) (op : RemoteOp) (va : Word) :
    (s.request w c pl n op va).susp = s.susp := rfl
@[simp] theorem State.request_mem (s : State) (w : Asker) (c : Option Nat) (pl : Place) (n : Nat) (op : RemoteOp) (va : Word) :
    (s.request w c pl n op va).mem = s.mem := rfl
@[simp] theorem State.request_l2old (s : State) (w : Asker) (c : Option Nat) (pl : Place) (n : Nat) (op : RemoteOp) (va : Word) :
    (s.request w c pl n op va).l2old = s.l2old := rfl
@[simp] theorem State.request_mscOld (s : State) (w : Asker) (c : Option Nat) (pl : Place) (n : Nat) (op : RemoteOp) (va : Word) :
    (s.request w c pl n op va).mscOld = s.mscOld := rfl
@[simp] theorem State.request_poisoned (s : State) (w : Asker) (c : Option Nat) (pl : Place) (n : Nat) (op : RemoteOp) (va : Word) :
    (s.request w c pl n op va).poisoned = s.poisoned := rfl
@[simp] theorem State.request_flips (s : State) (w : Asker) (c : Option Nat) (pl : Place) (n : Nat) (op : RemoteOp) (va : Word) :
    (s.request w c pl n op va).flips = s.flips := rfl
@[simp] theorem State.request_l2bad (s : State) (w : Asker) (c : Option Nat) (pl : Place) (n : Nat) (op : RemoteOp) (va : Word) :
    (s.request w c pl n op va).l2bad = s.l2bad := rfl
@[simp] theorem State.request_mscBad (s : State) (w : Asker) (c : Option Nat) (pl : Place) (n : Nat) (op : RemoteOp) (va : Word) :
    (s.request w c pl n op va).mscBad = s.mscBad := rfl
@[simp] theorem State.request_frames (s : State) (w : Asker) (c : Option Nat) (pl : Place) (n : Nat) (op : RemoteOp) (va : Word) :
    (s.request w c pl n op va).frames = s.frames := rfl
@[simp] theorem State.request_promoted (s : State) (w : Asker) (c : Option Nat) (pl : Place) (n : Nat) (op : RemoteOp) (va : Word) :
    (s.request w c pl n op va).promoted = s.promoted := rfl
@[simp] theorem State.request_promoting (s : State) (w : Asker) (c : Option Nat) (pl : Place) (n : Nat) (op : RemoteOp) (va : Word) :
    (s.request w c pl n op va).promoting = s.promoting := rfl
@[simp] theorem State.request_demoting (s : State) (w : Asker) (c : Option Nat) (pl : Place) (n : Nat) (op : RemoteOp) (va : Word) :
    (s.request w c pl n op va).demoting = s.demoting := rfl
@[simp] theorem State.request_promlate (s : State) (w : Asker) (c : Option Nat) (pl : Place) (n : Nat) (op : RemoteOp) (va : Word) :
    (s.request w c pl n op va).promlate = s.promlate := rfl
@[simp] theorem State.request_log (s : State) (w : Asker) (c : Option Nat) (pl : Place) (n : Nat) (op : RemoteOp) (va : Word) :
    (s.request w c pl n op va).log = s.log := rfl
@[simp] theorem State.request_sliceCorr (s : State) (w : Asker) (c : Option Nat) (pl : Place) (n : Nat) (op : RemoteOp) (va : Word) :
    (s.request w c pl n op va).sliceCorr = s.sliceCorr := rfl
@[simp] theorem State.request_windows (s : State) (w : Asker) (c : Option Nat) (pl : Place) (n : Nat) (op : RemoteOp) (va : Word) :
    (s.request w c pl n op va).windows = s.windows := rfl
@[simp] theorem State.request_ramir (s : State) (w : Asker) (c : Option Nat) (pl : Place) (n : Nat) (op : RemoteOp) (va : Word) :
    (s.request w c pl n op va).ramir = s.ramir := rfl
@[simp] theorem State.request_ats (s : State) (w : Asker) (c : Option Nat) (pl : Place) (n : Nat) (op : RemoteOp) (va : Word) :
    (s.request w c pl n op va).ats = s.ats := rfl
@[simp] theorem State.request_refusedPages (s : State) (w : Asker) (c : Option Nat) (pl : Place) (n : Nat) (op : RemoteOp) (va : Word) :
    (s.request w c pl n op va).refusedPages = s.refusedPages := rfl
@[simp] theorem State.request_late (s : State) (w : Asker) (c : Option Nat) (pl : Place) (n : Nat) (op : RemoteOp) (va : Word) :
    (s.request w c pl n op va).late = s.late := rfl
@[simp] theorem State.request_pageReqs (s : State) (w : Asker) (c : Option Nat) (pl : Place) (n : Nat) (op : RemoteOp) (va : Word) :
    (s.request w c pl n op va).pageReqs = s.pageReqs := rfl
@[simp] theorem State.request_mgmt (s : State) (w : Asker) (c : Option Nat) (pl : Place) (n : Nat) (op : RemoteOp) (va : Word) :
    (s.request w c pl n op va).mgmt = s.mgmt := rfl
@[simp] theorem State.request_throttles (s : State) (w : Asker) (c : Option Nat) (pl : Place) (n : Nat) (op : RemoteOp) (va : Word) :
    (s.request w c pl n op va).throttles = s.throttles := rfl
@[simp] theorem State.request_tdisp (s : State) (w : Asker) (c : Option Nat) (pl : Place) (n : Nat) (op : RemoteOp) (va : Word) :
    (s.request w c pl n op va).tdisp = s.tdisp := rfl
@[simp] theorem State.request_husks (s : State) (w : Asker) (c : Option Nat) (pl : Place) (n : Nat) (op : RemoteOp) (va : Word) :
    (s.request w c pl n op va).husks = s.husks := rfl
@[simp] theorem State.request_images (s : State) (w : Asker) (c : Option Nat) (pl : Place) (n : Nat) (op : RemoteOp) (va : Word) :
    (s.request w c pl n op va).images = s.images := rfl
@[simp] theorem State.request_regions (s : State) (w : Asker) (c : Option Nat) (pl : Place) (n : Nat) (op : RemoteOp) (va : Word) :
    (s.request w c pl n op va).regions = s.regions := rfl
@[simp] theorem State.request_treeOps (s : State) (w : Asker) (c : Option Nat) (pl : Place) (n : Nat) (op : RemoteOp) (va : Word) :
    (s.request w c pl n op va).treeOps = s.treeOps := rfl
@[simp] theorem State.request_nextTree (s : State) (w : Asker) (c : Option Nat) (pl : Place) (n : Nat) (op : RemoteOp) (va : Word) :
    (s.request w c pl n op va).nextTree = s.nextTree := rfl
@[simp] theorem State.request_cycle (s : State) (w : Asker) (c : Option Nat) (pl : Place) (n : Nat) (op : RemoteOp) (va : Word) :
    (s.request w c pl n op va).cycle = s.cycle := rfl
@[simp] theorem State.request_cur (s : State) (w : Asker) (c : Option Nat) (pl : Place) (n : Nat) (op : RemoteOp) (va : Word) :
    (s.request w c pl n op va).cur = s.cur := rfl
@[simp] theorem State.request_ir (s : State) (w : Asker) (c : Option Nat) (pl : Place) (n : Nat) (op : RemoteOp) (va : Word) :
    (s.request w c pl n op va).ir = s.ir := rfl
@[simp] theorem State.request_agenda (s : State) (w : Asker) (c : Option Nat) (pl : Place) (n : Nat) (op : RemoteOp) (va : Word) :
    (s.request w c pl n op va).agenda = s.agenda := rfl
@[simp] theorem State.request_turn (s : State) (w : Asker) (c : Option Nat) (pl : Place) (n : Nat) (op : RemoteOp) (va : Word) :
    (s.request w c pl n op va).turn = s.turn := rfl
@[simp] theorem State.request_free (s : State) (w : Asker) (c : Option Nat) (pl : Place) (n : Nat) (op : RemoteOp) (va : Word) :
    (s.request w c pl n op va).free = s.free := rfl

end Sys2Proof.Machine
end

