-- ==== Sys2Proof/Laws/Operand.lean ====
section
/-!
SUPPORT. What the shared operations over operands and results do where nothing stops them: guards, sources, results, and
the frame of an instruction.
-/
namespace Sys2Proof.Machine

/-! ### Steps of M as functions -/

theorem M.bind_eq {α β : Type} (x : M α) (f : α → M β) (s : State) :
    (x >>= f) s = match x s with
      | .ok a s => f a s
      | .error e s => .error e s := by
  show EStateM.bind x f s = _
  simp only [EStateM.bind]
  cases x s <;> rfl

theorem M.bind_ok {α β : Type} (x : M α) (f : α → M β) (s t : State) (a : α) (h : x s = .ok a t) :
    (x >>= f) s = f a t := by rw [M.bind_eq, h]

theorem M.bind_error {α β : Type} (x : M α) (f : α → M β) (s t : State) (e : Stop) (h : x s = .error e t) :
    (x >>= f) s = .error e t := by rw [M.bind_eq, h]

theorem M.map_eq {α β : Type} (f : α → β) (x : M α) (s : State) :
    (f <$> x) s = match x s with
      | .ok a s => .ok (f a) s
      | .error e s => .error e s := by
  show EStateM.map f x s = _
  simp only [EStateM.map]
  cases x s <;> rfl

@[simp] theorem M.pure_eq {α : Type} (a : α) (s : State) : (pure a : M α) s = .ok a s := rfl
@[simp] theorem M.get_eq (s : State) : (get : M State) s = .ok s s := rfl
@[simp] theorem M.set_eq (s t : State) : (set t : M PUnit) s = .ok () t := rfl
@[simp] theorem M.modify_eq (f : State → State) (s : State) : (modify f : M PUnit) s = .ok () (f s) := rfl
@[simp] theorem M.getHere_eq (s : State) : getHere s = .ok s.here s := rfl
@[simp] theorem M.modHere_eq (f : Strand → Strand) (s : State) : modHere f s = .ok () (s.setHere (f s.here)) := rfl
@[simp] theorem M.trapI_eq {α : Type} (c : Cause) (sub : BitVec 8) (v : Word) (s : State) :
    (trapI c sub v : M α) s = .error (.trap ⟨c.code, sub, v, .instr, false⟩) s := rfl
@[simp] theorem M.trapC_eq {α : Type} (c sub : BitVec 8) (v : Word) (s : State) :
    (trapC c sub v : M α) s = .error (.trap ⟨c, sub, v, .cmd, false⟩) s := rfl
@[simp] theorem M.waitM_eq {α : Type} (w : Wait) (s : State) : (waitM w : M α) s = .error (.wait w) s := rfl

/-! ### The running strand -/

theorem Strand.ne_reset (st : Strand) (h : st.item.isSome = true) : st ≠ Strand.reset := by
  intro e; rw [e] at h; simp [Strand.reset] at h

theorem State.running_rising (s : State) (h : s.running = true) : Tab.rising s.strands = true := by
  simp only [State.running, Bool.and_eq_true] at h; exact h.1

theorem State.running_item (s : State) (h : s.running = true) : s.here.item.isSome = true := by
  simp only [State.running, Bool.and_eq_true] at h; exact h.2

theorem State.setHere_eq (s : State) (st : Strand) (h : st.item.isSome = true) :
    s.setHere st = { s with strands := Tab.insert s.strands s.cur st } := by
  simp only [State.setHere, State.setStrand, Tab.put, Strand.ne_reset st h, if_false]

theorem State.setHere_here (s : State) (h : s.running = true) : s.setHere s.here = s := by
  have hi := s.running_item h
  rw [State.setHere_eq s _ hi]
  have hf : Tab.find s.strands s.cur = some s.here := by
    have : s.here ≠ Strand.reset := Strand.ne_reset _ hi
    simp only [State.here, State.strand, Tab.get] at this ⊢
    cases hk : Tab.find s.strands s.cur with
    | none => rw [hk] at this; simp at this
    | some v => rfl
  rw [Tab.insert_find _ _ _ (s.running_rising h) hf]

@[simp] theorem State.setHere_cur (s : State) (st : Strand) : (s.setHere st).cur = s.cur := rfl

theorem State.here_setHere (s : State) (st : Strand) (h : Tab.rising s.strands = true) : (s.setHere st).here = st :=
  State.strand_setStrand s s.cur st h

theorem State.setHere_setHere (s : State) (a b : Strand) (ha : a.item.isSome = true) (hb : b.item.isSome = true) :
    (s.setHere a).setHere b = s.setHere b := by
  rw [State.setHere_eq _ b hb, State.setHere_eq s a ha, State.setHere_eq s b hb]
  simp only [Tab.insert_insert]

theorem State.running_setHere (s : State) (st : Strand) (h : s.running = true) (hi : st.item.isSome = true) :
    (s.setHere st).running = true := by
  have hr := s.running_rising h
  simp only [State.running, Bool.and_eq_true]
  exact ⟨State.rising_setStrand s _ st hr, by rw [State.here_setHere s st hr]; exact hi⟩

/-! ### Hazards and guards -/

theorem Strand.settle_eq (st : Strand) (code : Nat) (h : st.early code = false) : st.settle code = st := by
  by_cases hc : code = 0
  · simp [Strand.settle, hc]
  · have : st.pend.any (fun p => p.code == code && p.interlock) = false := by
      simp only [Strand.early, Bool.and_eq_false_iff, bne_eq_false_iff_eq, hc, false_or, List.any_eq_false] at h ⊢
      intro p hp
      simp only [Bool.and_eq_true, not_and]
      exact fun e => absurd e (h p hp)
    simp [Strand.settle, this]

/-- With nothing pending on a register, no reader of it comes too early. -/
theorem Strand.short_eq (st : Strand) (code : Nat) (h : st.early code = false) : st.short code = false := by
  by_cases hc : code = 0
  · simp [Strand.short, hc]
  · have hp : ∀ p ∈ st.pend, ¬ p.code = code := by
      simpa [Strand.early, hc] using h
    have hf : ∀ (l : List Pend) (b : Bool), (∀ p ∈ l, ¬ p.code = code) →
        l.foldl (fun b p => if p.code = code then !p.interlock && (b || p.left != 0) else b) b = b := by
      intro l
      induction l with
      | nil => exact fun _ _ => rfl
      | cons p l ih =>
        intro b hl
        rw [List.foldl_cons, if_neg (hl p (by simp))]
        exact ih b fun q hq => hl q (by simp [hq])
    rw [Strand.short, hf _ _ hp, Bool.and_false]

/-- The check of distance finds nothing and lands nothing where nothing is pending. -/
theorem checkShort_ok (s : State) (code : Nat) (hr : s.running = true) (he : s.here.early code = false) :
    checkShort code s = .ok () s := by
  cases ho : Tab.find s.here.outs code <;>
    simp [checkShort, M.bind_eq, Strand.short_eq _ _ he, Strand.settle_eq _ _ he, State.setHere_here s hr, ho]

theorem landed_ok (s : State) (code : Nat) (ho : (Tab.find s.here.outs code).isNone = true) : landed code s = .ok () s := by
  have ho' : (Tab.find s.here.outs code).isSome = false := by simpa using ho
  simp [landed, M.bind_eq, ho']

theorem hazard_ok (s : State) (code : Nat) (hr : s.running = true) (he : s.here.early code = false)
    (ho : (Tab.find s.here.outs code).isNone = true) : hazard code s = .ok () s := by
  rw [hazard, M.bind_ok _ _ _ _ _ (checkShort_ok s code hr he), landed_ok s code ho]

theorem guardOk_eq (s : State) (h : Hdr) (b : Bool) (hr : s.running = true) (hg : s.here.guardIs h b = true) :
    guardOk h s = .ok b s := by
  unfold Strand.guardIs at hg
  by_cases hp : h.pred = 0
  · simp only [hp, if_true, beq_iff_eq] at hg
    have e : (true != (h.neg == 1)) = b := by
      rw [← hg]; have := h.neg.isLt
      rcases (by omega : h.neg.toNat = 0 ∨ h.neg.toNat = 1) with e | e
      · have : h.neg = 0 := BitVec.eq_of_toNat_eq e
        simp [this]
      · have : h.neg = 1 := BitVec.eq_of_toNat_eq e
        simp [this]
    rw [guardOk, M.bind_ok _ _ s s true (by rw [readPred, if_pos hp]; rfl), e]
    rfl
  · simp only [hp, if_false, Bool.and_eq_true, Bool.not_eq_true', beq_iff_eq] at hg
    have hz := hazard_ok s _ hr hg.1.1 hg.1.2
    rw [guardOk, M.bind_ok _ _ s s (s.here.pred h.pred.toNat) (by
      rw [readPred, if_neg hp, M.bind_ok _ _ _ _ _ hz]; rfl), hg.2]
    rfl

theorem State.guarded_running (s : State) (h : Hdr) (hg : s.guarded h = true) : s.running = true := by
  simp only [State.guarded, Bool.and_eq_true] at hg; exact hg.1

theorem guardOk_true (s : State) (h : Hdr) (hg : s.guarded h = true) : guardOk h s = .ok true s := by
  simp only [State.guarded, Bool.and_eq_true] at hg
  exact guardOk_eq s h true hg.1 hg.2

/-! ### The frame of an instruction -/

/-- What a guarded instruction does is what its body does. -/
theorem run_guarded (priv : M Unit) (h : Hdr) (len : Nat) (body : M (Option (BitVec 56))) (s : State)
    (hp : priv s = .ok () s) (hg : s.guarded h = true) : run priv h len body s = close h.stall len s (body s) := by
  simp [run, M.bind_eq, hp, guardOk_true s h hg]

/-- An instruction whose guard is false does nothing but advance (R47). -/
theorem run_off (priv : M Unit) (h : Hdr) (len : Nat) (body : M (Option (BitVec 56))) (s : State)
    (hp : priv s = .ok () s) (hr : s.running = true) (hg : s.here.guardIs h false = true) :
    run priv h len body s = .next (retire h.stall (s.here.pc + BitVec.ofNat 56 len) s) := by
  simp [run, M.bind_eq, hp, guardOk_eq s h false hr hg, close]

@[simp] theorem user_ok (s : State) : user s = .ok () s := rfl

theorem supOnly_ok (s : State) (h : s.here.sup = true) : supOnly s = .ok () s := by
  simp [supOnly, M.bind_eq, h]

theorem supOnly_trap (s : State) (h : s.here.sup = false) :
    supOnly s = .error (.trap ⟨Cause.priv.code, 0, 0, .instr, false⟩) s := by
  simp [supOnly, M.bind_eq, h]

/-- A one-word instruction whose body ends in `t` retires from there. -/
theorem runU_done (priv : M Unit) (h : Hdr) (body : M Unit) (s t : State) (hp : priv s = .ok () s)
    (hg : s.guarded h = true) (hb : body s = .ok () t) :
    runU priv h body s = .next (retire h.stall (s.here.pc + 8) t) := by
  rw [runU, run_guarded _ _ _ _ _ hp hg, M.bind_ok _ _ _ _ _ hb]; rfl

/-- An instruction that makes a transfer retires at its target. -/
theorem run_done (priv : M Unit) (h : Hdr) (len : Nat) (body : M (Option (BitVec 56))) (s t : State) (pc : BitVec 56)
    (hp : priv s = .ok () s) (hg : s.guarded h = true) (hb : body s = .ok (some pc) t) :
    run priv h len body s = .next (retire h.stall pc t) := by
  rw [run_guarded _ _ _ _ _ hp hg, hb]; rfl

/-- An instruction that makes no transfer retires at the next word. -/
theorem run_next (priv : M Unit) (h : Hdr) (len : Nat) (body : M (Option (BitVec 56))) (s t : State)
    (hp : priv s = .ok () s) (hg : s.guarded h = true) (hb : body s = .ok none t) :
    run priv h len body s = .next (retire h.stall (s.here.pc + BitVec.ofNat 56 len) t) := by
  rw [run_guarded _ _ _ _ _ hp hg, hb]; rfl

/-! ### Sources -/

/-- What reading a source leaves besides a stream's state. -/
theorem Strand.source_frame (st st1 : Strand) (c : BitVec 6) (v : Word) (h : st.source c = some (v, st1)) :
    st1 = { st with streams := st1.streams } ∧ ∀ z, (∀ x, Tab.find st.streams z = some x → x.out = true) →
      Tab.find st1.streams z = Tab.find st.streams z := by
  unfold Strand.source at h
  split at h
  · split at h
    · split at h
      · simp at h
      · simp only [Option.some.injEq, Prod.mk.injEq] at h
        rw [← h.2]; exact ⟨rfl, fun _ _ => rfl⟩
    · simp at h
  · split at h
    · rename_i x hx
      split at h
      · simp at h
      · rename_i hc
        split at h
        · simp at h
        · simp only [Option.some.injEq, Prod.mk.injEq] at h
          rw [← h.2]
          refine ⟨rfl, fun z hz => ?_⟩
          have : z ≠ c.toNat - 48 := by
            intro e; subst e
            have := hz x hx
            simp [this] at hc
          exact Tab.find_insert_ne _ _ _ _ this
    · simp at h

theorem Strand.source_item (st st1 : Strand) (c : BitVec 6) (v : Word) (h : st.source c = some (v, st1)) :
    st1.item = st.item := by rw [(st.source_frame st1 c v h).1]

theorem Strand.sources_frame (cs : List (BitVec 6)) (st st1 : Strand) (vs : List Word)
    (h : st.sources cs = some (vs, st1)) :
    st1 = { st with streams := st1.streams } ∧ ∀ z, (∀ x, Tab.find st.streams z = some x → x.out = true) →
      Tab.find st1.streams z = Tab.find st.streams z := by
  induction cs generalizing st vs with
  | nil => simp only [Strand.sources, Option.some.injEq, Prod.mk.injEq] at h; rw [← h.2]; exact ⟨rfl, fun _ _ => rfl⟩
  | cons c cs ih =>
    simp only [Strand.sources] at h
    split at h
    · simp at h
    · rename_i v st2 h1
      split at h
      · simp at h
      · rename_i vs2 st3 h2
        simp only [Option.some.injEq, Prod.mk.injEq] at h
        obtain ⟨-, rfl⟩ := h
        obtain ⟨a1, a2⟩ := st.source_frame st2 c v h1
        obtain ⟨b1, b2⟩ := ih st2 vs2 h2
        refine ⟨by rw [b1, a1], fun z hz => ?_⟩
        rw [b2 z (by rw [a2 z hz]; exact hz), a2 z hz]

theorem Strand.sources_item (cs : List (BitVec 6)) (st st1 : Strand) (vs : List Word)
    (h : st.sources cs = some (vs, st1)) : st1.item = st.item := by rw [(Strand.sources_frame cs st st1 vs h).1]

/-- A source that can be read after another was could have been read before it. -/
theorem Strand.source_before (st st1 : Strand) (b c : BitVec 6) (v : Word) (h : st.source b = some (v, st1))
    (hc : (st1.source c).isSome = true) : (st.source c).isSome = true := by
  have hf := (st.source_frame st1 b v h).1
  by_cases hcr : c.toNat < 48
  · unfold Strand.source at hc ⊢
    simp only [hcr, if_true] at hc ⊢
    have e1 : st1.reg c.toNat = st.reg c.toNat := by rw [hf]; rfl
    have e2 : st1.early c.toNat = st.early c.toNat := by rw [hf]; rfl
    have e3 : st1.outs = st.outs := by rw [hf]
    rw [e1, e2, e3] at hc
    revert hc
    cases st.reg c.toNat with
    | conc v => dsimp only; split <;> simp
    | aff _ _ _ => simp
    | flt _ _ => simp
    | poison _ => simp
  · have hlent : ∀ z, st1.lent z = st.lent z := by intro z; rw [hf]; rfl
    by_cases hbr : b.toNat < 48
    · have : st1 = st := by
        unfold Strand.source at h
        simp only [hbr, if_true] at h
        split at h
        · split at h
          · simp at h
          · simp only [Option.some.injEq, Prod.mk.injEq] at h; exact h.2.symm
        · simp at h
      rw [this] at hc; exact hc
    · unfold Strand.source at h
      simp only [hbr, if_false] at h
      split at h
      · rename_i x hx
        split at h
        · simp at h
        · rename_i hb
          split at h
          · simp at h
          · rename_i w rest hbuf
            simp only [Option.some.injEq, Prod.mk.injEq] at h
            by_cases e : c.toNat - 48 = b.toNat - 48
            · unfold Strand.source
              simp only [hcr, if_false, e, hx, hb, hbuf]
              simp
            · unfold Strand.source at hc ⊢
              simp only [hcr, if_false, hlent] at hc ⊢
              rw [← h.2] at hc
              dsimp only at hc
              rw [Tab.find_insert_ne _ _ _ _ e] at hc
              revert hc
              cases Tab.find st.streams (c.toNat - 48) with
              | none => simp
              | some y =>
                dsimp only
                split
                · simp
                · cases y.buf <;> simp
      · simp at h

theorem Strand.sources_each (cs : List (BitVec 6)) (st st1 : Strand) (vs : List Word)
    (h : st.sources cs = some (vs, st1)) : ∀ c ∈ cs, (st.source c).isSome = true := by
  induction cs generalizing st vs with
  | nil => intro c hc; simp at hc
  | cons b cs ih =>
    simp only [Strand.sources] at h
    split at h
    · simp at h
    · rename_i v st2 h1
      split at h
      · simp at h
      · rename_i vs2 st3 h2
        simp only [Option.some.injEq, Prod.mk.injEq] at h
        obtain ⟨-, rfl⟩ := h
        intro c hc
        simp only [List.mem_cons] at hc
        rcases hc with rfl | hc
        · rw [h1]; rfl
        · exact Strand.source_before st st2 b c v h1 (ih st2 vs2 h2 c hc)

theorem streamFor_in (s : State) (z : Nat) (x : Stream) (hl : s.here.lent z = false)
    (hx : Tab.find s.here.streams z = some x) (ho : x.out = false) (hn : x.next < recCount x.record)
    (hb : x.buf ≠ []) : streamFor z false s = .ok x s := by
  have h1 : ¬ recCount x.record ≤ x.next := by omega
  cases hf : x.fail <;> simp [streamFor, M.bind_eq, hl, hx, ho, h1, hf, hb]

theorem streamFor_out (s : State) (z : Nat) (x : Stream) (hl : s.here.lent z = false)
    (hx : Tab.find s.here.streams z = some x) (ho : x.out = true) (hn : x.next < recCount x.record)
    (hf : x.fail = none) : streamFor z true s = .ok x s := by
  have h1 : ¬ recCount x.record ≤ x.next := by omega
  simp [streamFor, M.bind_eq, hl, hx, ho, h1, hf]

/-- The checks of a source that can be read pass. -/
theorem source_checks (s : State) (c : BitVec 6) (hr : s.running = true) (h : (s.here.source c).isSome = true) :
    checkSrc c s = .ok () s ∧ checkPoison c s = .ok () s ∧ checkLanded c s = .ok () s ∧ checkSym c s = .ok () s := by
  unfold Strand.source at h
  by_cases hc : c.toNat < 48
  · simp only [hc, if_true] at h
    split at h
    · rename_i v hv
      split at h
      · simp at h
      · rename_i he
        simp only [Bool.or_eq_true, not_or, Bool.not_eq_true] at he
        exact ⟨by simp [checkSrc, hc, checkShort_ok s c.toNat hr he.1], by simp [checkPoison, hc, M.bind_eq, hv],
          by simp [checkLanded, hc, landed_ok s c.toNat (by simpa using he.2)], by simp [checkSym, hc, M.bind_eq, hv]⟩
    · simp at h
  · simp only [hc, if_false] at h
    suffices hs : ∃ x, s.here.lent (c.toNat - 48) = false ∧ streamFor (c.toNat - 48) false s = .ok x s by
      obtain ⟨x, hl, hs⟩ := hs
      exact ⟨by simp [checkSrc, hc, checkOpen, M.bind_eq, M.map_eq, hl, hs], by simp [checkPoison, hc, M.bind_eq],
        by simp [checkLanded, hc, M.bind_eq, M.map_eq, hs], by simp [checkSym, hc, M.bind_eq]⟩
    split at h
    · rename_i x hx
      split at h
      · simp at h
      · rename_i hq
        simp only [Bool.or_eq_true, not_or, Bool.not_eq_true, decide_eq_true_eq] at hq
        split at h
        · simp at h
        · rename_i w rest hb
          exact ⟨x, hq.1.2, streamFor_in s _ x hq.1.2 hx hq.1.1 (by omega) (by simp [hb])⟩
    · simp at h

theorem checkDst_ok (s : State) (d : BitVec 6) (h : s.here.takes d = true) :
    checkOut d s = .ok () s ∧ checkDst d s = .ok () s := by
  unfold Strand.takes at h
  by_cases hd : d.toNat < 48
  · simp [checkOut, checkDst, hd]
  · simp only [hd, decide_false, Bool.false_or] at h
    split at h
    · rename_i x hx
      simp only [Bool.and_eq_true, Bool.not_eq_true', decide_eq_true_eq, Option.isNone_iff_eq_none] at h
      have hs := streamFor_out s _ x h.1.1.1.2 hx h.1.1.1.1 h.1.1.2 h.1.2
      have : ¬ 64 ≤ x.buf.length := by omega
      simp [checkOut, checkOpen, checkDst, hd, roomFor, M.bind_eq, M.map_eq, h.1.1.1.2, hs, this]
    · simp at h

theorem forM_ok {β : Type} (f : β → M Unit) (l : List β) (s : State) (h : ∀ b ∈ l, f b s = .ok () s) :
    l.forM f s = .ok () s := by
  induction l with
  | nil => rfl
  | cons b l ih =>
    simp only [List.forM_eq_forM, List.forM_cons] at ih ⊢
    rw [M.bind_ok _ _ _ _ _ (h b (by simp))]
    exact ih fun c hc => h c (by simp [hc])

theorem ready_ok (s : State) (cs ds : List (BitVec 6)) (hr : s.running = true)
    (hc : ∀ c ∈ cs, (s.here.source c).isSome = true) (hd : ∀ d ∈ ds, s.here.takes d = true) :
    ready cs ds s = .ok () s := by
  unfold ready
  rw [M.bind_ok _ _ _ _ _ (forM_ok _ _ _ fun c h => (source_checks s c hr (hc c h)).1),
    M.bind_ok _ _ _ _ _ (forM_ok _ _ _ fun d h => (checkDst_ok s d (hd d h)).1),
    M.bind_ok _ _ _ _ _ (forM_ok _ _ _ fun c h => (source_checks s c hr (hc c h)).2.1),
    M.bind_ok _ _ _ _ _ (forM_ok _ _ _ fun c h => (source_checks s c hr (hc c h)).2.2.1),
    M.bind_ok _ _ _ _ _ (forM_ok _ _ _ fun d h => (checkDst_ok s d (hd d h)).2)]
  exact forM_ok _ _ _ fun c h => (source_checks s c hr (hc c h)).2.2.2

/-- A source that can be read gives its value. -/
theorem takeVal_ok (s : State) (c : BitVec 6) (v : Word) (st : Strand) (hr : s.running = true)
    (h : s.here.source c = some (v, st)) : takeVal c s = .ok v (s.setHere st) := by
  unfold Strand.source at h
  by_cases hc : c.toNat < 48
  · simp only [hc, if_true] at h
    split at h
    · rename_i w hv
      split at h
      · simp at h
      · simp only [Option.some.injEq, Prod.mk.injEq] at h
        obtain ⟨rfl, rfl⟩ := h
        simp [takeVal, hc, M.bind_eq, hv, State.setHere_here s hr]
    · simp at h
  · simp only [hc, if_false] at h
    split at h
    · rename_i x hx
      split at h
      · simp at h
      · rename_i hq
        simp only [Bool.or_eq_true, not_or, Bool.not_eq_true, decide_eq_true_eq] at hq
        split at h
        · simp at h
        · rename_i w rest hb
          have hs := streamFor_in s _ x hq.1.2 hx hq.1.1 (by omega) (by simp [hb])
          simp only [Option.some.injEq, Prod.mk.injEq] at h
          obtain ⟨rfl, rfl⟩ := h
          simp [takeVal, hc, takeElem, M.bind_eq, M.map_eq, hs, hb]
    · simp at h

/-- A source as it stands, where it is a value. -/
theorem takeSVal_ok (s : State) (c : BitVec 6) (v : Word) (st : Strand) (hr : s.running = true)
    (h : s.here.source c = some (v, st)) : takeSVal c s = .ok (.conc v) (s.setHere st) := by
  have ht := takeVal_ok s c v st hr h
  by_cases hc : c.toNat < 48
  · unfold Strand.source at h
    simp only [hc, if_true] at h
    split at h
    · rename_i w hv
      split at h
      · simp at h
      · simp only [Option.some.injEq, Prod.mk.injEq] at h
        obtain ⟨rfl, rfl⟩ := h
        simp [takeSVal, hc, M.bind_eq, hv, State.setHere_here s hr]
    · simp at h
  · simp only [takeVal, hc, if_false] at ht
    simp [takeSVal, hc, M.bind_eq, ht]

theorem read1_ok (s : State) (a : BitVec 6) (ds : List (BitVec 6)) (x : Word) (st : Strand) (hr : s.running = true)
    (h : s.here.sources [a] = some ([x], st)) (hd : ∀ d ∈ ds, s.here.takes d = true) :
    read1 a ds s = .ok x (s.setHere st) := by
  have he := Strand.sources_each _ _ _ _ h
  have h1 : s.here.source a = some (x, st) := by
    simp only [Strand.sources] at h
    split at h
    · simp at h
    · rename_i v st2 h1; simp at h; rw [h1, h.1, h.2]
  rw [read1, M.bind_ok _ _ _ _ _ (ready_ok s _ _ hr he hd)]
  exact takeVal_ok s a x st hr h1

theorem read2_ok (s : State) (a b : BitVec 6) (ds : List (BitVec 6)) (x y : Word) (st : Strand) (hr : s.running = true)
    (h : s.here.sources [a, b] = some ([x, y], st)) (hd : ∀ d ∈ ds, s.here.takes d = true) :
    read2 a b ds s = .ok (x, y) (s.setHere st) := by
  have he := Strand.sources_each _ _ _ _ h
  have hi := s.running_item hr
  have hrr := s.running_rising hr
  simp only [Strand.sources] at h
  split at h
  · simp at h
  · rename_i v st2 h1
    split at h
    · simp at h
    · rename_i vs st3 h2
      split at h2
      · simp at h2
      · rename_i w st4 h3
        simp only [Option.some.injEq, Prod.mk.injEq] at h h2
        obtain ⟨rfl, rfl⟩ := h2
        simp only [List.cons.injEq, and_true] at h
        obtain ⟨⟨rfl, rfl⟩, rfl⟩ := h
        have i2 : st2.item.isSome = true := by rw [Strand.source_item _ _ _ _ h1]; exact hi
        have i3 : st4.item.isSome = true := by rw [Strand.source_item _ _ _ _ h3]; exact i2
        have r2 := State.running_setHere s st2 hr i2
        rw [read2, M.bind_ok _ _ _ _ _ (ready_ok s _ _ hr he hd), M.bind_ok _ _ _ _ _ (takeVal_ok s a v st2 hr h1)]
        have h3' : (s.setHere st2).here.source b = some (w, st4) := by rw [State.here_setHere s st2 hrr]; exact h3
        rw [M.bind_ok _ _ _ _ _ (takeVal_ok _ b w st4 r2 h3'), State.setHere_setHere _ _ _ i2 i3]
        rfl

theorem read3_ok (s : State) (a b c : BitVec 6) (ds : List (BitVec 6)) (x y z : Word) (st : Strand)
    (hr : s.running = true) (h : s.here.sources [a, b, c] = some ([x, y, z], st))
    (hd : ∀ d ∈ ds, s.here.takes d = true) : read3 a b c ds s = .ok (x, y, z) (s.setHere st) := by
  have he := Strand.sources_each _ _ _ _ h
  have hi := s.running_item hr
  have hrr := s.running_rising hr
  simp only [Strand.sources] at h
  split at h
  · simp at h
  · rename_i v st2 h1
    split at h
    · simp at h
    · rename_i vs st3 h2
      split at h2
      · simp at h2
      · rename_i w st4 h3
        split at h2
        · simp at h2
        · rename_i ws st5 h4
          split at h4
          · simp at h4
          · rename_i u st6 h5
            simp only [Option.some.injEq, Prod.mk.injEq] at h h2 h4
            obtain ⟨rfl, rfl⟩ := h4
            obtain ⟨rfl, rfl⟩ := h2
            simp only [List.cons.injEq, and_true] at h
            obtain ⟨⟨rfl, rfl, rfl⟩, rfl⟩ := h
            have i2 : st2.item.isSome = true := by rw [Strand.source_item _ _ _ _ h1]; exact hi
            have i4 : st4.item.isSome = true := by rw [Strand.source_item _ _ _ _ h3]; exact i2
            have i6 : st6.item.isSome = true := by rw [Strand.source_item _ _ _ _ h5]; exact i4
            have r2 := State.running_setHere s st2 hr i2
            have r4 := State.running_setHere s st4 hr i4
            rw [read3, M.bind_ok _ _ _ _ _ (ready_ok s _ _ hr he hd), M.bind_ok _ _ _ _ _ (takeVal_ok s a v st2 hr h1)]
            have h3' : (s.setHere st2).here.source b = some (w, st4) := by rw [State.here_setHere s st2 hrr]; exact h3
            have h5' : (s.setHere st4).here.source c = some (u, st6) := by rw [State.here_setHere s st4 hrr]; exact h5
            rw [M.bind_ok _ _ _ _ _ (takeVal_ok _ b w st4 r2 h3'), State.setHere_setHere _ _ _ i2 i4,
              M.bind_ok _ _ _ _ _ (takeVal_ok _ c u st6 r4 h5'), State.setHere_setHere _ _ _ i4 i6]
            rfl

/-! ### Results -/

/-- Reading sources leaves what a destination needs. -/
theorem Strand.takes_after (cs : List (BitVec 6)) (st st1 : Strand) (vs : List Word) (d : BitVec 6)
    (h : st.sources cs = some (vs, st1)) (hd : st.takes d = true) : st1.takes d = true := by
  obtain ⟨h1, h2⟩ := Strand.sources_frame cs st st1 vs h
  unfold Strand.takes at hd ⊢
  by_cases hc : d.toNat < 48
  · simp [hc]
  · simp only [hc, decide_false, Bool.false_or] at hd ⊢
    have hl : st1.lent (d.toNat - 48) = st.lent (d.toNat - 48) := by rw [h1]; rfl
    split at hd
    · rename_i x hx
      have hx1 : Tab.find st1.streams (d.toNat - 48) = some x := by
        rw [h2 _ (by intro y hy; rw [hx] at hy; simp at hy; subst hy; simp only [Bool.and_eq_true] at hd; exact hd.1.1.1.1)]
        exact hx
      simp only [hx1, hl]; exact hd
    · simp at hd

theorem putElem_ok (s : State) (d : BitVec 6) (v : Word) (hd : s.here.takes d = true) (h48 : ¬ d.toNat < 48) :
    putElem (d.toNat - 48) v s = .ok () (s.setHere (s.here.enqueue (d.toNat - 48) v)) := by
  unfold Strand.takes at hd
  simp only [h48, decide_false, Bool.false_or] at hd
  split at hd
  · rename_i x hx
    simp only [Bool.and_eq_true, Bool.not_eq_true', decide_eq_true_eq, Option.isNone_iff_eq_none] at hd
    have hs := streamFor_out s _ x hd.1.1.1.2 hx hd.1.1.1.1 hd.1.1.2 hd.1.2
    simp [putElem, M.bind_eq, hs, Strand.enqueue, hx]
  · simp at hd

theorem writeFix_ok (s : State) (d : BitVec 6) (lat : Nat) (v : Word) (hr : s.running = true)
    (hd : s.here.takes d = true) : writeFix d lat (.conc v) s = .ok () (s.setHere (s.here.fixed d lat v)) := by
  unfold writeFix Strand.fixed
  by_cases h0 : d = 0
  · rw [if_pos h0, if_pos h0, State.setHere_here s hr]; rfl
  · rw [if_neg h0, if_neg h0]
    by_cases hc : d.toNat < 48
    · rw [if_pos hc, if_pos hc]; rfl
    · rw [if_neg hc, if_neg hc]; exact putElem_ok s d v hd hc

theorem writeVal_ok (s : State) (d : BitVec 6) (v : Word) (hr : s.running = true)
    (hd : s.here.takes d = true) : writeVal d v s = .ok () (s.setHere (s.here.variable d v)) := by
  unfold writeVal writeVar Strand.variable
  by_cases h0 : d = 0
  · rw [if_pos h0, if_pos h0, State.setHere_here s hr]; rfl
  · rw [if_neg h0, if_neg h0]
    by_cases hc : d.toNat < 48
    · rw [if_pos hc, if_pos hc]; rfl
    · rw [if_neg hc, if_neg hc]; exact putElem_ok s d v hd hc

theorem writePred_ok (s : State) (p : BitVec 3) (lat : Nat) (b : Bool) (hr : s.running = true) :
    writePred p lat b s = .ok () (s.setHere (s.here.fixedPred p lat b)) := by
  unfold writePred Strand.fixedPred
  by_cases h0 : p = 0
  · rw [if_pos h0, if_pos h0, State.setHere_here s hr]; rfl
  · rw [if_neg h0, if_neg h0]; rfl

theorem Strand.enqueue_item (st : Strand) (z : Nat) (v : Word) : (st.enqueue z v).item = st.item := by
  unfold Strand.enqueue; split <;> rfl

theorem Strand.fixed_item (st : Strand) (d : BitVec 6) (lat : Nat) (v : Word) : (st.fixed d lat v).item = st.item := by
  unfold Strand.fixed; split; · rfl
  split; · rfl
  exact Strand.enqueue_item _ _ _

theorem Strand.setReg_item (st : Strand) (c : Nat) (v : SVal) : (st.setReg c v).item = st.item := by
  unfold Strand.setReg; split <;> rfl

theorem Strand.variable_item (st : Strand) (d : BitVec 6) (v : Word) : (st.variable d v).item = st.item := by
  unfold Strand.variable; split; · rfl
  split; · rw [Strand.setReg_item]; rfl
  exact Strand.enqueue_item _ _ _

theorem Strand.fixedPred_item (st : Strand) (p : BitVec 3) (lat : Nat) (b : Bool) :
    (st.fixedPred p lat b).item = st.item := by unfold Strand.fixedPred; split <;> rfl

/-- Sources are read, then a fixed-latency result is left. -/
theorem after_fixed (s : State) (cs : List (BitVec 6)) (vs : List Word) (st : Strand) (d : BitVec 6) (lat : Nat) (v : Word)
    (hr : s.running = true) (h : s.here.sources cs = some (vs, st)) (hd : s.here.takes d = true) :
    writeFix d lat (.conc v) (s.setHere st) = .ok () (s.setHere (st.fixed d lat v)) := by
  have hi : st.item.isSome = true := by rw [Strand.sources_item _ _ _ _ h]; exact s.running_item hr
  have hh := State.here_setHere s st (s.running_rising hr)
  rw [writeFix_ok _ d lat v (State.running_setHere s st hr hi) (by rw [hh]; exact Strand.takes_after _ _ _ _ d h hd), hh,
    State.setHere_setHere _ _ _ hi (by rw [Strand.fixed_item]; exact hi)]

/-- Sources are read, then a variable-latency result is left. -/
theorem after_variable (s : State) (cs : List (BitVec 6)) (vs : List Word) (st : Strand) (d : BitVec 6) (v : Word)
    (hr : s.running = true) (h : s.here.sources cs = some (vs, st)) (hd : s.here.takes d = true) :
    writeVal d v (s.setHere st) = .ok () (s.setHere (st.variable d v)) := by
  have hi : st.item.isSome = true := by rw [Strand.sources_item _ _ _ _ h]; exact s.running_item hr
  have hh := State.here_setHere s st (s.running_rising hr)
  rw [writeVal_ok _ d v (State.running_setHere s st hr hi) (by rw [hh]; exact Strand.takes_after _ _ _ _ d h hd), hh,
    State.setHere_setHere _ _ _ hi (by rw [Strand.variable_item]; exact hi)]

/-- Sources are read, then a predicate result is left. -/
theorem after_pred (s : State) (cs : List (BitVec 6)) (vs : List Word) (st : Strand) (p : BitVec 3) (lat : Nat) (b : Bool)
    (hr : s.running = true) (h : s.here.sources cs = some (vs, st)) :
    writePred p lat b (s.setHere st) = .ok () (s.setHere (st.fixedPred p lat b)) := by
  have hi : st.item.isSome = true := by rw [Strand.sources_item _ _ _ _ h]; exact s.running_item hr
  have hh := State.here_setHere s st (s.running_rising hr)
  rw [writePred_ok _ p lat b (State.running_setHere s st hr hi), hh,
    State.setHere_setHere _ _ _ hi (by rw [Strand.fixedPred_item]; exact hi)]

end Sys2Proof.Machine
end

