-- ==== Sys2Proof/Laws/Access.lean ====
section
/-!
SUPPORT. What the shared operations over memory do for an access to the die's scratchpad that nothing holds: loads,
stores and read-modify-writes.
-/
namespace Sys2Proof.Machine

theorem A.bind_eq {α β : Type} (x : A α) (f : α → A β) (s : State) :
    (x >>= f) s = match x s with
      | .ok a s => f a s
      | .error e s => .error e s := by
  show EStateM.bind x f s = _
  simp only [EStateM.bind]
  cases x s <;> rfl

theorem A.bind_ok {α β : Type} (x : A α) (f : α → A β) (s t : State) (a : α) (h : x s = .ok a t) :
    (x >>= f) s = f a t := by rw [A.bind_eq, h]

@[simp] theorem A.pure_eq {α : Type} (a : α) (s : State) : (pure a : A α) s = .ok a s := rfl
@[simp] theorem A.get_eq (s : State) : (get : A State) s = .ok s s := rfl

theorem liftA_ok {α : Type} (x : A α) (s t : State) (a : α) (h : x s = .ok a t) : liftA x s = .ok a t := by
  simp [liftA, h]

/-- Where an access that passes its checks lands, taken apart. -/
theorem State.reaches_parts (s : State) (va : Word) (off n : Nat) (h : s.reaches va off n = true) :
    va = scratchAddr off ∧ off + n ≤ 2 ^ 25 ∧ off % 65536 + n ≤ 65536
      ∧ (s.die (dieOf s.cur)).owner.contains (off / 65536) = false := by
  simp only [State.reaches, Bool.and_eq_true, beq_iff_eq, decide_eq_true_eq, Bool.not_eq_true'] at h
  exact ⟨h.1.1.1, h.1.1.2, h.1.2, h.2⟩

/-- What a local access asks for, taken apart. -/
theorem State.local_parts (s : State) (va : Word) (off n : Nat) (h : s.local va off n = true) :
    va = scratchAddr off ∧ off + n ≤ 2 ^ 25 ∧ off % 65536 + n ≤ 65536
      ∧ (s.die (dieOf s.cur)).owner.contains (off / 65536) = false ∧ s.here.syms = [] ∧ s.here.wmset = []
      ∧ s.here.part = none ∧ s.sent s.cur = none := by
  simp only [State.local, Bool.and_eq_true, beq_iff_eq, decide_eq_true_eq, Bool.not_eq_true', List.isEmpty_iff,
    Option.isNone_iff_eq_none] at h
  obtain ⟨⟨⟨⟨h0, h5⟩, h6⟩, h7⟩, h8⟩ := h
  obtain ⟨h1, h2, h3, h4⟩ := s.reaches_parts va off n h0
  exact ⟨h1, h2, h3, h4, h5, h6, h7, h8⟩

theorem scratchAddr_toNat (off : Nat) (h : off ≤ 2 ^ 25) : (scratchAddr off).toNat = 0xFFFF0100000000 + off := by
  simp only [scratchAddr, BitVec.toNat_ofNat]; omega

theorem scratch_bits (off : Nat) (h : off ≤ 2 ^ 25) :
    bits (scratchAddr off) 40 16 = 0xFFFF ∧ bits (scratchAddr off) 56 8 = 0
      ∧ (off < 2 ^ 25 → bits (scratchAddr off) 0 40 = 2 ^ 32 + off) := by
  simp only [bits, scratchAddr_toNat off h]
  refine ⟨by omega, by omega, fun _ => by omega⟩

/-- The checks of a local access pass. -/
theorem check_local (w : Who) (acc : Acc) (off : Nat) (s : State) (h : off < 2 ^ 25) (hd : w.engine = false)
    (ho : (s.die w.die).owner.contains (off / 65536) = false) :
    check w acc (scratchAddr off) s = .ok (.scratch w.die off, 1) s := by
  obtain ⟨h1, h2, h3⟩ := scratch_bits off (Nat.le_of_lt h)
  have h3 := h3 h
  have hin : inWindow (scratchAddr off) = true := by simp [inWindow, h1]
  have e1 : ¬ (2 ^ 32 + off < 2 ^ 25) := by omega
  have e2 : (decide (2 ^ 32 ≤ 2 ^ 32 + off) && decide (2 ^ 32 + off < 2 ^ 32 + 2 ^ 25)) = true := by
    simp only [Bool.and_eq_true, decide_eq_true_eq]; omega
  have e3 : 2 ^ 32 + off - 2 ^ 32 = off := by omega
  have hw : window w (scratchAddr off) s = .ok (.scratch w.die off) s := by
    unfold window
    rw [A.bind_ok _ _ _ _ _ (A.get_eq s)]
    simp only [h3]
    rw [if_neg e1, if_pos e2, e3]
    have e4 : off / 2 ^ 16 = off / 65536 := rfl
    simp only [e4, ho, hd]
    rfl
  rw [check, if_pos hin, A.bind_ok _ _ _ _ _ hw]
  simp [h2]

theorem modeOrder_local (s : State) (off : Nat) (h : off < 2 ^ 25) : modeOrder (scratchAddr off) s = .ok () s := by
  obtain ⟨-, -, h3⟩ := scratch_bits off (Nat.le_of_lt h)
  have h3 := h3 h
  unfold modeOrder
  rw [M.bind_ok _ _ _ _ _ (M.get_eq s)]
  have e2 : ¬ (4294967296 + off < 33554432) := by omega
  simp [h3, e2]

/-- Without outstanding symbols nothing precedes an access. -/
theorem Strand.behind_none (st : Strand) (pl : Place) (n : Nat) (kind : BitVec 2) (ann : Ann) (h : st.syms = []) :
    st.behind pl n kind ann = false := by simp [Strand.behind, h]

/-- Without outstanding symbols nothing is waited for; the stores before an S access or a release are performed. -/
theorem symOrder_none (s : State) (pl : Place) (n : Nat) (kind : BitVec 2) (ann : Ann) (h : s.here.syms = []) :
    symOrder pl n kind ann s = .ok () (if kind = 0 || ann.rel then s.seen s.cur else s) := by
  cases hk : (kind = 0 || ann.rel : Bool) <;> simp_all [symOrder, orderStores, Strand.behind_none, M.bind_eq]

/-- What `State.seen` does to the running strand. -/
theorem State.seen_here (s : State) (hr : s.running = true) : s.seen s.cur = s.setHere s.here.performed := by
  unfold State.seen
  split
  · rename_i h
    have : s.here.performed = s.here := by
      simp only [List.isEmpty_iff] at h
      simp only [Strand.performed, State.here, ← h]
    rw [this, State.setHere_here s hr]
  · rfl

theorem pageCut_local (off n : Nat) (h : off + n ≤ 2 ^ 25) (hp : off % 65536 + n ≤ 65536) :
    pageCut (scratchAddr off) n = n := by
  simp only [pageCut, scratchAddr_toNat off (by omega)]
  have e : (0xFFFF0100000000 + off) % 2 ^ 16 = off % 65536 := by omega
  rw [e]
  exact Nat.min_eq_left (by omega)

/-- A part of a load from the die's scratchpad brings its bytes and changes nothing. -/
theorem loadPart_local (s : State) (va : Word) (off n : Nat) (ann : Ann) (ha : ann.rel = false) (hn : 0 < n)
    (h : s.local va off n = true) :
    loadPart va n ann s = .ok (s.scratch off n, none) s := by
  obtain ⟨rfl, h2, h3, h4, h5, h6, -⟩ := s.local_parts va off n h
  have ho : off < 2 ^ 25 := by omega
  unfold loadPart
  rw [M.bind_ok _ _ _ _ _ (modeOrder_local s off ho), M.bind_ok whoHere _ s s s.whoStrand rfl,
    M.bind_ok _ _ _ _ _ (liftA_ok _ _ _ _ (check_local s.whoStrand .rd off s ho rfl h4))]
  simp only
  rw [M.bind_ok _ _ _ _ _ (symOrder_none s _ _ _ _ h5)]
  rw [ha, show (decide ((1 : BitVec 2) = 0) || false : Bool) = false from rfl]
  simp only [Bool.false_eq_true, if_false]
  rw [M.bind_ok _ _ _ _ _ (M.getHere_eq s), h6,
    M.bind_ok (liftA (gate _ [] _ _)) _ s s () rfl]
  rfl

/-- A load from the die's scratchpad within one page brings its bytes and changes nothing. -/
theorem loadBytes_local (s : State) (va : Word) (off n : Nat) (ann : Ann) (ha : ann.rel = false) (hn : 0 < n)
    (h : s.local va off n = true) :
    loadBytes va n ann s = .ok (s.scratch off n, none) s := by
  obtain ⟨rfl, h2, h3, -⟩ := s.local_parts va off n h
  unfold loadBytes
  simp only [pageCut_local off n h2 h3, Nat.lt_irrefl, if_false]
  exact loadPart_local s _ off n ann ha hn h

theorem loadOwn_local (s : State) (va : Word) (off n : Nat) (hn : 0 < n) (h : s.local va off n = true) :
    loadOwn va n s = .ok (s.scratch off n) s := by
  unfold loadOwn loadOwnAs
  rw [M.bind_ok _ _ _ _ _ (loadBytes_local s va off n plainAnn rfl hn h)]
  rfl

/-- What an access to the die's scratchpad asks for is there. -/
theorem strandCheck_local (s : State) (acc : Acc) (va : Word) (off n : Nat) (hn : 0 < n) (h : s.local va off n = true) :
    strandCheck acc va s = .ok (s.whoStrand, .scratch (dieOf s.cur) off, 1) s := by
  obtain ⟨rfl, h2, h3, h4, -⟩ := s.local_parts va off _ h
  have ho : off < 2 ^ 25 := by omega
  unfold strandCheck
  rw [M.bind_ok _ _ _ _ _ (modeOrder_local s off ho), M.bind_ok whoHere _ s s s.whoStrand rfl,
    M.bind_ok _ _ _ _ _ (liftA_ok _ _ _ _ (check_local s.whoStrand acc off s ho rfl h4))]
  rfl

/-- Without outstanding symbols no load is held. -/
theorem heldLoad_none (s : State) (va : Word) (n : Nat) (ann : Ann) (regs : List (Nat × Nat)) (len : Nat) (signed : Bool)
    (h : s.here.syms = []) : heldLoad va n ann regs len signed s = .ok false s := by
  unfold heldLoad
  rw [M.bind_ok _ _ _ _ _ (M.getHere_eq s)]
  simp [h]

/-- Without outstanding symbols no atomic is held. -/
theorem heldRmw_none (s : State) (va : Word) (n : Nat) (ann : Ann) (op : RemoteOp) (a : BitVec 6) (len : Nat)
    (h : s.here.syms = []) : heldRmw va n ann op a len s = .ok false s := by
  unfold heldRmw
  rw [M.bind_ok _ _ _ _ _ (M.getHere_eq s)]
  simp only [h, List.isEmpty_nil, Bool.true_or, if_true, M.bind_eq]
  rfl

theorem storeOwn_scratch (w : Who) (d off : Nat) (va : Word) (bs : List Byte) (s : State) :
    storeOwn w (.scratch d off) va bs s = .ok () { s with mem := s.mem.setBytes (scratchKey d off) bs } := rfl

@[simp] theorem State.seen_cur (s : State) (c : Nat) : (s.seen c).cur = s.cur := by unfold State.seen; split <;> rfl
@[simp] theorem State.seen_mem (s : State) (c : Nat) : (s.seen c).mem = s.mem := by unfold State.seen; split <;> rfl

/-- Performed stores are performed once. -/
theorem State.seen_seen (s : State) (c : Nat) (h : Tab.rising s.strands = true) : (s.seen c).seen c = s.seen c := by
  by_cases he : (s.strand c).unseen.isEmpty = true
  · have e : s.seen c = s := by simp [State.seen, he]
    rw [e, e]
  · have e : s.seen c = s.setStrand c (s.strand c).performed := by simp [State.seen, he]
    rw [e, State.seen, State.strand_setStrand s c _ h]
    rfl

/-- A part of a store to the die's scratchpad stores its bytes; a release performs the strand's stores. -/
theorem storePart_local (s : State) (va : Word) (off : Nat) (bs : List Byte) (ann : Ann) (hn : 0 < bs.length)
    (h : s.local va off bs.length = true) : storePart va bs ann s =
      .ok () ((if ann.rel then s.seen s.cur else s).putScratch off bs) := by
  unfold storePart
  rw [M.bind_ok _ _ _ _ _ (strandCheck_local s .wr va off _ hn h)]
  unfold storeMade
  simp only [M.bind_ok _ _ _ _ _ (M.getHere_eq s),
    Strand.behind_none _ _ _ _ _ (s.local_parts va off _ h).2.2.2.2.1]
  cases hr : ann.rel <;> simp [orderStores, hr, M.bind_eq, storeOwn_scratch, State.putScratch]

/-- A store to the die's scratchpad within one page stores its bytes; a release performs the strand's stores. -/
theorem storeBytes_local (s : State) (va : Word) (off : Nat) (bs : List Byte) (ann : Ann) (hn : 0 < bs.length)
    (h : s.local va off bs.length = true) : storeBytes va bs ann s =
      .ok () ((if ann.rel then s.seen s.cur else s).putScratch off bs) := by
  obtain ⟨rfl, h2, h3, -⟩ := s.local_parts va off _ h
  unfold storeBytes
  simp only [pageCut_local off _ h2 h3, Nat.lt_irrefl, if_false]
  exact storePart_local s _ off bs ann hn h

/-- A read-modify-write in the die's scratchpad answers the old bytes and stores the new ones, where there are any; the
strand's stores are performed. -/
theorem rmwBytes_local (s : State) (va : Word) (off n : Nat) (ann : Ann) (op : RemoteOp)
    (f : List Byte → Option (List Byte)) (hr : Tab.rising s.strands = true) (hn : 0 < n)
    (h : s.local va off n = true) : rmwBytes va n ann op f s = .ok (s.scratch off n, none)
      (match f (s.scratch off n) with | some new => (s.seen s.cur).putScratch off new | none => s.seen s.cur) := by
  obtain ⟨rfl, h2, h3, h4, h5, h6, -, h8⟩ := s.local_parts va off n h
  have ho : off < 2 ^ 25 := by omega
  unfold rmwBytes
  rw [M.bind_ok whoHere _ s s s.whoStrand rfl]
  simp only [M.bind_ok _ _ _ _ _ (M.get_eq s), h8]
  rw [M.bind_ok _ _ _ _ _ (modeOrder_local s off ho),
    M.bind_ok _ _ _ _ _ (liftA_ok _ _ _ _ (check_local s.whoStrand .wr off s ho rfl h4))]
  simp only
  rw [M.bind_ok _ _ _ _ _ (symOrder_none s _ _ _ _ h5)]
  obtain ⟨t, ht, hs, hc, hm⟩ : ∃ t, (if ((1 : BitVec 2) = 0 || ann.rel : Bool) = true then s.seen s.cur else s) = t
      ∧ t.seen s.cur = s.seen s.cur ∧ t.cur = s.cur ∧ t.mem = s.mem := by
    refine ⟨_, rfl, ?_⟩
    split
    · exact ⟨s.seen_seen s.cur hr, by simp, by simp⟩
    · exact ⟨rfl, rfl, rfl⟩
  have hb (u : State) : liftA (readPlace s.whoStrand (.scratch s.whoStrand.die off) n (scratchAddr off)) u
      = .ok (u.mem.bytes (scratchKey (dieOf s.cur) off) n, none) u := rfl
  have hw (u : State) (bs : List Byte) : liftA (writePlace s.whoStrand (.scratch s.whoStrand.die off) bs (scratchAddr off)) u
      = .ok () { u with mem := u.mem.setBytes (scratchKey (dieOf s.cur) off) bs } := rfl
  rw [ht]
  simp only [M.bind_eq, M.modify_eq, hc, hs, hb, State.seen_mem, State.scratch]
  cases f (s.mem.bytes (scratchKey (dieOf s.cur) off) n)
  · rfl
  · simp only [State.putScratch, State.seen_cur, M.bind_eq, hw]
    rfl

theorem needAlign_ok (s : State) (va : Word) (n : Nat) (h : va.toNat % n = 0) : needAlign va n s = .ok () s := by
  simp [needAlign, h]

theorem needAlign_trap (s : State) (va : Word) (n : Nat) (h : va.toNat % n ≠ 0) :
    needAlign va n s = .error (.trap ⟨Cause.align.code, 0, va, .instr, false⟩) s := by
  simp [needAlign, h]

/-- Alignment of a scratchpad address is that of its offset. -/
theorem scratch_align (off n k : Nat) (h : off ≤ 2 ^ 25) (hk : n * k = 65536) : (scratchAddr off).toNat % n = off % n := by
  rw [scratchAddr_toNat off h]
  have : 0xFFFF0100000000 + off = off + n * (k * 1099494916096) := by
    rw [← Nat.mul_assoc, hk]; omega
  rw [this, Nat.add_mul_mod_self_left]

/-- Writing the running strand, as reading its sources does, leaves what a local access asks for. -/
theorem State.local_setHere (s : State) (st : Strand) (va : Word) (off n : Nat) (hr : Tab.rising s.strands = true)
    (hs : st.syms = s.here.syms) (hw : st.wmset = s.here.wmset) (hp : st.part = s.here.part) :
    (s.setHere st).local va off n = s.local va off n := by
  have hd : ∀ d, (s.setHere st).die d = s.die d := fun d => rfl
  have ht : ∀ n, (s.setHere st).sent n = s.sent n := fun n => rfl
  simp only [State.local, State.reaches, State.here_setHere s st hr, hs, hw, hp, hd, ht, State.setHere_cur]

theorem State.local_putScratch (s : State) (va : Word) (o off n : Nat) (bs : List Byte) :
    (s.putScratch o bs).local va off n = s.local va off n := rfl

theorem State.scratch_setHere (s : State) (st : Strand) (off n : Nat) : (s.setHere st).scratch off n = s.scratch off n := rfl

@[simp] theorem State.putScratch_here (s : State) (off : Nat) (bs : List Byte) : (s.putScratch off bs).here = s.here := rfl
@[simp] theorem State.putScratch_cur (s : State) (off : Nat) (bs : List Byte) : (s.putScratch off bs).cur = s.cur := rfl
@[simp] theorem State.putScratch_running (s : State) (off : Nat) (bs : List Byte) :
    (s.putScratch off bs).running = s.running := rfl

theorem State.putScratch_setHere (s : State) (off : Nat) (bs : List Byte) (st : Strand) :
    (s.setHere st).putScratch off bs = (s.putScratch off bs).setHere st := rfl

/-- Bytes outside a store to the scratchpad stay. -/
theorem State.putScratch_out (s : State) (off x : Nat) (bs : List Byte)
    (h : x < scratchKey (dieOf s.cur) off ∨ scratchKey (dieOf s.cur) off + bs.length ≤ x) :
    Memory.byte (s.putScratch off bs).mem x = Memory.byte s.mem x := Memory.byte_setBytes_out _ _ _ _ h

/-- Bytes stored in the scratchpad are read back. -/
theorem State.scratch_putScratch (s : State) (off : Nat) (bs : List Byte) (h : Memory.wf s.mem = true) :
    (s.putScratch off bs).scratch off bs.length = bs := Memory.bytes_setBytes _ _ _ h

end Sys2Proof.Machine
end

