-- ==== Sys2Proof/Laws/PerInstr.lean ====
section
/-!
SUPPORT. Decoding the words that `encode` gives returns the instruction: one lemma a constructor.
-/
set_option Elab.async false
set_option linter.unusedSimpArgs false

namespace Sys2Proof

@[simp] theorem unpackBits_pack_cons (k v : Nat) (r : List (Nat × Nat)) (ks : List Nat) :
    unpackBits (k :: ks) (packBits ((k, v) :: r)) = v % 2 ^ k :: unpackBits ks (packBits r) := by
  have hk : 0 < 2 ^ k := Nat.two_pow_pos k
  have h1 : (v % 2 ^ k + 2 ^ k * packBits r) % 2 ^ k = v % 2 ^ k := by
    rw [Nat.add_mul_mod_self_left, Nat.mod_mod]
  have h2 : (v % 2 ^ k + 2 ^ k * packBits r) / 2 ^ k = packBits r := by
    rw [Nat.add_mul_div_left _ _ hk, Nat.div_eq_of_lt (Nat.mod_lt _ hk), Nat.zero_add]
  simp only [unpackBits, packBits, h1, h2]

@[simp] theorem unpackBits_nil (w : Nat) : unpackBits [] w = [] := rfl

/-- Total width of a field list. -/
def fieldWidth : List (Nat × Nat) → Nat
  | [] => 0
  | (k, _) :: r => k + fieldWidth r

theorem packBits_lt (l : List (Nat × Nat)) : packBits l < 2 ^ fieldWidth l := by
  induction l with
  | nil => simp [packBits, fieldWidth]
  | cons p r ih =>
    obtain ⟨k, v⟩ := p
    have h : v % 2 ^ k < 2 ^ k := Nat.mod_lt _ (Nat.two_pow_pos k)
    have h2 : 2 ^ k * packBits r + 2 ^ k ≤ 2 ^ k * 2 ^ fieldWidth r := by
      rw [← Nat.mul_succ]
      exact Nat.mul_le_mul_left _ ih
    simp only [packBits, fieldWidth, Nat.pow_add]
    omega

theorem bitsFrom_cons (k v m : Nat) (r : List (Nat × Nat)) (h : k ≤ m) :
    bitsFrom m (packBits ((k, v) :: r)) = bitsFrom (m - k) (packBits r) := by
  have hk : 0 < 2 ^ k := Nat.two_pow_pos k
  have e : 2 ^ m = 2 ^ k * 2 ^ (m - k) := by rw [← Nat.pow_add]; congr 1; omega
  simp only [bitsFrom]
  rw [e, ← Nat.div_div_eq_div_mul]
  congr 1
  simp only [packBits]
  rw [Nat.add_mul_div_left _ _ hk, Nat.div_eq_of_lt (Nat.mod_lt _ hk), Nat.zero_add]

/-- The opcode of a packed word is its last field. -/
theorem bitsFrom_append (l : List (Nat × Nat)) (op m : Nat) (hm : fieldWidth l ≤ m) :
    bitsFrom m (packBits (l ++ [(8, op)])) = op % 256 / 2 ^ (m - fieldWidth l) := by
  induction l generalizing m with
  | nil => simp [bitsFrom, packBits, fieldWidth]
  | cons p r ih =>
    obtain ⟨k, v⟩ := p
    simp only [fieldWidth] at hm
    rw [List.cons_append, bitsFrom_cons _ _ _ _ (by omega), ih _ (by omega)]
    simp only [fieldWidth, Nat.sub_add_eq]

theorem nibbles (l : List (Nat × Nat)) (op a b : Nat) (hl : fieldWidth l = 56) (ha : op % 256 / 2 ^ 4 = a)
    (hb : op % 256 % 16 = b) :
    bitsFrom 60 (packBits (l ++ [(8, op)])) = a ∧ bitsFrom 56 (packBits (l ++ [(8, op)])) % 16 = b := by
  constructor
  · rw [bitsFrom_append _ _ _ (by omega), hl]; exact ha
  · rw [bitsFrom_append _ _ _ (by omega), hl, Nat.sub_self, Nat.pow_zero, Nat.div_one]; exact hb

theorem bitsFrom_op (m v : Nat) : bitsFrom m (packBits [(8, v)]) = v % 256 / 2 ^ m := by
  simp [bitsFrom, packBits]

theorem ofNat_mod_1 (x : BitVec 1) : BitVec.ofNat 1 (x.toNat % 2) = x := by
  rw [Nat.mod_eq_of_lt x.isLt, BitVec.ofNat_toNat, BitVec.setWidth_eq]
theorem ofNat_mod_2 (x : BitVec 2) : BitVec.ofNat 2 (x.toNat % 4) = x := by
  rw [Nat.mod_eq_of_lt x.isLt, BitVec.ofNat_toNat, BitVec.setWidth_eq]
theorem ofNat_mod_3 (x : BitVec 3) : BitVec.ofNat 3 (x.toNat % 8) = x := by
  rw [Nat.mod_eq_of_lt x.isLt, BitVec.ofNat_toNat, BitVec.setWidth_eq]
theorem ofNat_mod_4 (x : BitVec 4) : BitVec.ofNat 4 (x.toNat % 16) = x := by
  rw [Nat.mod_eq_of_lt x.isLt, BitVec.ofNat_toNat, BitVec.setWidth_eq]
theorem ofNat_mod_5 (x : BitVec 5) : BitVec.ofNat 5 (x.toNat % 32) = x := by
  rw [Nat.mod_eq_of_lt x.isLt, BitVec.ofNat_toNat, BitVec.setWidth_eq]
theorem ofNat_mod_6 (x : BitVec 6) : BitVec.ofNat 6 (x.toNat % 64) = x := by
  rw [Nat.mod_eq_of_lt x.isLt, BitVec.ofNat_toNat, BitVec.setWidth_eq]
theorem ofNat_mod_7 (x : BitVec 7) : BitVec.ofNat 7 (x.toNat % 128) = x := by
  rw [Nat.mod_eq_of_lt x.isLt, BitVec.ofNat_toNat, BitVec.setWidth_eq]
theorem ofNat_mod_8 (x : BitVec 8) : BitVec.ofNat 8 (x.toNat % 256) = x := by
  rw [Nat.mod_eq_of_lt x.isLt, BitVec.ofNat_toNat, BitVec.setWidth_eq]
theorem ofNat_mod_11 (x : BitVec 11) : BitVec.ofNat 11 (x.toNat % 2048) = x := by
  rw [Nat.mod_eq_of_lt x.isLt, BitVec.ofNat_toNat, BitVec.setWidth_eq]
theorem ofNat_mod_12 (x : BitVec 12) : BitVec.ofNat 12 (x.toNat % 4096) = x := by
  rw [Nat.mod_eq_of_lt x.isLt, BitVec.ofNat_toNat, BitVec.setWidth_eq]
theorem ofNat_mod_16 (x : BitVec 16) : BitVec.ofNat 16 (x.toNat % 65536) = x := by
  rw [Nat.mod_eq_of_lt x.isLt, BitVec.ofNat_toNat, BitVec.setWidth_eq]
theorem ofNat_mod_24 (x : BitVec 24) : BitVec.ofNat 24 (x.toNat % 16777216) = x := by
  rw [Nat.mod_eq_of_lt x.isLt, BitVec.ofNat_toNat, BitVec.setWidth_eq]
theorem ofNat_mod_30 (x : BitVec 30) : BitVec.ofNat 30 (x.toNat % 1073741824) = x := by
  rw [Nat.mod_eq_of_lt x.isLt, BitVec.ofNat_toNat, BitVec.setWidth_eq]
theorem ofNat_mod_32 (x : BitVec 32) : BitVec.ofNat 32 (x.toNat % 4294967296) = x := by
  rw [Nat.mod_eq_of_lt x.isLt, BitVec.ofNat_toNat, BitVec.setWidth_eq]
theorem ofNat_mod_36 (x : BitVec 36) : BitVec.ofNat 36 (x.toNat % 68719476736) = x := by
  rw [Nat.mod_eq_of_lt x.isLt, BitVec.ofNat_toNat, BitVec.setWidth_eq]
theorem ofNat_mod_48 (x : BitVec 48) : BitVec.ofNat 48 (x.toNat % 281474976710656) = x := by
  rw [Nat.mod_eq_of_lt x.isLt, BitVec.ofNat_toNat, BitVec.setWidth_eq]
theorem ofNat_mod_56 (x : BitVec 56) : BitVec.ofNat 56 (x.toNat % 72057594037927936) = x := by
  rw [Nat.mod_eq_of_lt x.isLt, BitVec.ofNat_toNat, BitVec.setWidth_eq]

/-- Every value fits its field. -/
def inBounds : List (Nat × Nat) → Prop
  | [] => True
  | (k, v) :: r => v < 2 ^ k ∧ inBounds r

theorem unpackBits_pack (l : List (Nat × Nat)) (h : inBounds l) :
    unpackBits (l.map Prod.fst) (packBits l) = l.map Prod.snd := by
  induction l with
  | nil => rfl
  | cons p r ih =>
    obtain ⟨k, v⟩ := p
    simp only [List.map_cons, unpackBits_pack_cons, ih h.2, Nat.mod_eq_of_lt h.1]

theorem AOpnd.ofBits_bits (o : AOpnd) : AOpnd.ofBits o.form o.mid o.lo = some o := by
  cases o <;> simp [AOpnd.ofBits, AOpnd.form, AOpnd.mid, AOpnd.lo]
theorem SvOpnd.ofBits_bits (o : SvOpnd) : SvOpnd.ofBits o.form o.lo = some o := by
  cases o <;> simp [SvOpnd.ofBits, SvOpnd.form, SvOpnd.lo]
theorem CmpOpnd.ofBits_bits (o : CmpOpnd) : CmpOpnd.ofBits o.form o.mid o.lo = some o := by
  cases o with
  | vv fb => simp [CmpOpnd.ofBits, CmpOpnd.form, CmpOpnd.mid, CmpOpnd.lo]
  | vs rev s =>
    have h : rev.toNat < 2 := rev.isLt
    simp [CmpOpnd.ofBits, CmpOpnd.form, CmpOpnd.mid, CmpOpnd.lo, h]
  | vi rev imm =>
    have h : rev.toNat < 2 := rev.isLt
    simp [CmpOpnd.ofBits, CmpOpnd.form, CmpOpnd.mid, CmpOpnd.lo, h]
theorem AOpnd.lo_lt (o : AOpnd) : o.lo < 2 ^ 24 := by
  cases o with
  | vv fb => exact Nat.two_pow_pos 24
  | vs s => have := s.isLt; simp only [AOpnd.lo]; omega
  | vi imm => exact imm.isLt
theorem AOpnd.mid_lt (o : AOpnd) : o.mid < 2 ^ 5 := by
  cases o with
  | vv fb => exact fb.isLt
  | vs s => exact Nat.two_pow_pos 5
  | vi imm => exact Nat.two_pow_pos 5
theorem AOpnd.form_lt (o : AOpnd) : o.form < 2 ^ 2 := by cases o <;> simp [AOpnd.form]
theorem SvOpnd.lo_lt (o : SvOpnd) : o.lo < 2 ^ 24 := by
  cases o with
  | vs s => have := s.isLt; simp only [SvOpnd.lo]; omega
  | vi imm => exact imm.isLt
theorem SvOpnd.form_lt (o : SvOpnd) : o.form < 2 ^ 2 := by cases o <;> simp [SvOpnd.form]
theorem CmpOpnd.lo_lt (o : CmpOpnd) : o.lo < 2 ^ 24 := by
  cases o with
  | vv fb => exact Nat.two_pow_pos 24
  | vs rev s => have := s.isLt; simp only [CmpOpnd.lo]; omega
  | vi rev imm => exact imm.isLt
theorem CmpOpnd.mid_lt (o : CmpOpnd) : o.mid < 2 ^ 5 := by
  cases o with
  | vv fb => exact fb.isLt
  | vs rev s => have := rev.isLt; simp only [CmpOpnd.mid]; omega
  | vi rev imm => have := rev.isLt; simp only [CmpOpnd.mid]; omega
theorem CmpOpnd.form_lt (o : CmpOpnd) : o.form < 2 ^ 2 := by cases o <;> simp [CmpOpnd.form]

/-- From the raw decoder to `decode` on encoded words. -/
theorem decode_of_raw {i : Instr} {w1 : BitVec 64} (hl : fieldWidth i.fields = 64)
    (hr : decodeRaw (packBits i.fields) w1.toNat = some i) (hw : i.wf = true) :
    decode i.word0 w1 = .ok i := by
  have h64 : packBits i.fields < 2 ^ 64 := hl ▸ packBits_lt i.fields
  have e : i.word0.toNat = packBits i.fields := by
    simp only [Instr.word0, BitVec.toNat_ofNat]
    exact Nat.mod_eq_of_lt h64
  simp only [decode, e, hr, hw, if_true]

theorem decodeRaw_hi0 (w w1 : Nat) (h : bitsFrom 60 w = 0) :
    decodeRaw w w1 = decHi0 (bitsFrom 56 w % 16) w w1 := by
  unfold decodeRaw; rw [h]; rfl
theorem decodeRaw_hi1 (w w1 : Nat) (h : bitsFrom 60 w = 1) :
    decodeRaw w w1 = decHi1 (bitsFrom 56 w % 16) w w1 := by
  unfold decodeRaw; rw [h]; rfl
theorem decodeRaw_hi2 (w w1 : Nat) (h : bitsFrom 60 w = 2) :
    decodeRaw w w1 = decHi2 (bitsFrom 56 w % 16) w w1 := by
  unfold decodeRaw; rw [h]; rfl
theorem decodeRaw_hi3 (w w1 : Nat) (h : bitsFrom 60 w = 3) :
    decodeRaw w w1 = decHi3 (bitsFrom 56 w % 16) w w1 := by
  unfold decodeRaw; rw [h]; rfl
theorem decodeRaw_hi4 (w w1 : Nat) (h : bitsFrom 60 w = 4) :
    decodeRaw w w1 = decHi4 (bitsFrom 56 w % 16) w w1 := by
  unfold decodeRaw; rw [h]; rfl
theorem decodeRaw_hi5 (w w1 : Nat) (h : bitsFrom 60 w = 5) :
    decodeRaw w w1 = decHi5 (bitsFrom 56 w % 16) w w1 := by
  unfold decodeRaw; rw [h]; rfl
theorem decodeRaw_hi6 (w w1 : Nat) (h : bitsFrom 60 w = 6) :
    decodeRaw w w1 = decHi6 (bitsFrom 56 w % 16) w w1 := by
  unfold decodeRaw; rw [h]; rfl
theorem decodeRaw_hi7 (w w1 : Nat) (h : bitsFrom 60 w = 7) :
    decodeRaw w w1 = decHi7 (bitsFrom 56 w % 16) w w1 := by
  unfold decodeRaw; rw [h]; rfl
theorem decodeRaw_hi8 (w w1 : Nat) (h : bitsFrom 60 w = 8) :
    decodeRaw w w1 = decHi8 (bitsFrom 56 w % 16) w w1 := by
  unfold decodeRaw; rw [h]; rfl
theorem decodeRaw_hi9 (w w1 : Nat) (h : bitsFrom 60 w = 9) :
    decodeRaw w w1 = decHi9 (bitsFrom 56 w % 16) w w1 := by
  unfold decodeRaw; rw [h]; rfl
theorem decodeRaw_hiA (w w1 : Nat) (h : bitsFrom 60 w = 10) :
    decodeRaw w w1 = decHiA (bitsFrom 56 w % 16) w w1 := by
  unfold decodeRaw; rw [h]; rfl
theorem decodeRaw_hiB (w w1 : Nat) (h : bitsFrom 60 w = 11) :
    decodeRaw w w1 = decHiB (bitsFrom 56 w % 16) w w1 := by
  unfold decodeRaw; rw [h]; rfl
theorem decodeRaw_hiC (w w1 : Nat) (h : bitsFrom 60 w = 12) :
    decodeRaw w w1 = decHiC (bitsFrom 56 w % 16) w w1 := by
  unfold decodeRaw; rw [h]; rfl
theorem decodeRaw_hiD (w w1 : Nat) (h : bitsFrom 60 w = 13) :
    decodeRaw w w1 = decHiD (bitsFrom 56 w % 16) w w1 := by
  unfold decodeRaw; rw [h]; rfl
theorem decodeRaw_hiE (w w1 : Nat) (h : bitsFrom 60 w = 14) :
    decodeRaw w w1 = decHiE (bitsFrom 56 w % 16) w w1 := by
  unfold decodeRaw; rw [h]; rfl
theorem decodeRaw_hiF (w w1 : Nat) (h : bitsFrom 60 w = 15) :
    decodeRaw w w1 = decHiF (bitsFrom 56 w % 16) w w1 := by
  unfold decodeRaw; rw [h]; rfl
theorem decHi0_0 (n w w1 : Nat) (h : n = 0) : decHi0 n w w1 =
    decOp00 w := by
  subst h; rfl
theorem decHi0_1 (n w w1 : Nat) (h : n = 1) : decHi0 n w w1 =
    decOp01 w := by
  subst h; rfl
theorem decHi0_2 (n w w1 : Nat) (h : n = 2) : decHi0 n w w1 =
    decOp02 w := by
  subst h; rfl
theorem decHi0_3 (n w w1 : Nat) (h : n = 3) : decHi0 n w w1 =
    decOp03 w := by
  subst h; rfl
theorem decHi0_4 (n w w1 : Nat) (h : n = 4) : decHi0 n w w1 =
    decOp04 w := by
  subst h; rfl
theorem decHi0_5 (n w w1 : Nat) (h : n = 5) : decHi0 n w w1 =
    decOp05 w := by
  subst h; rfl
theorem decHi0_6 (n w w1 : Nat) (h : n = 6) : decHi0 n w w1 =
    decOp06 w := by
  subst h; rfl
theorem decHi0_7 (n w w1 : Nat) (h : n = 7) : decHi0 n w w1 =
    decOp07 w := by
  subst h; rfl
theorem decHi0_8 (n w w1 : Nat) (h : n = 8) : decHi0 n w w1 =
    decOp08 w := by
  subst h; rfl
theorem decHi0_9 (n w w1 : Nat) (h : n = 9) : decHi0 n w w1 =
    decOp09 w := by
  subst h; rfl
theorem decHi0_A (n w w1 : Nat) (h : n = 10) : decHi0 n w w1 =
    decOp0A w := by
  subst h; rfl
theorem decHi0_B (n w w1 : Nat) (h : n = 11) : decHi0 n w w1 =
    decOp0B w := by
  subst h; rfl
theorem decHi0_C (n w w1 : Nat) (h : n = 12) : decHi0 n w w1 =
    decOp0C w := by
  subst h; rfl
theorem decHi0_D (n w w1 : Nat) (h : n = 13) : decHi0 n w w1 =
    decOp0D w := by
  subst h; rfl
theorem decHi0_E (n w w1 : Nat) (h : n = 14) : decHi0 n w w1 =
    decOp0E w := by
  subst h; rfl
theorem decHi0_F (n w w1 : Nat) (h : n = 15) : decHi0 n w w1 =
    decOp0F w := by
  subst h; rfl
theorem decHi1_0 (n w w1 : Nat) (h : n = 0) : decHi1 n w w1 =
    decOp10 w := by
  subst h; rfl
theorem decHi1_1 (n w w1 : Nat) (h : n = 1) : decHi1 n w w1 =
    decOp11 w := by
  subst h; rfl
theorem decHi1_2 (n w w1 : Nat) (h : n = 2) : decHi1 n w w1 =
    decOp12 w := by
  subst h; rfl
theorem decHi1_3 (n w w1 : Nat) (h : n = 3) : decHi1 n w w1 =
    decOp13 w := by
  subst h; rfl
theorem decHi1_4 (n w w1 : Nat) (h : n = 4) : decHi1 n w w1 =
    decOp14 w := by
  subst h; rfl
theorem decHi1_5 (n w w1 : Nat) (h : n = 5) : decHi1 n w w1 =
    decOp15 w := by
  subst h; rfl
theorem decHi1_6 (n w w1 : Nat) (h : n = 6) : decHi1 n w w1 =
    decOp16 w := by
  subst h; rfl
theorem decHi1_7 (n w w1 : Nat) (h : n = 7) : decHi1 n w w1 =
    decOp17 w := by
  subst h; rfl
theorem decHi1_8 (n w w1 : Nat) (h : n = 8) : decHi1 n w w1 =
    decOp18 w := by
  subst h; rfl
theorem decHi1_9 (n w w1 : Nat) (h : n = 9) : decHi1 n w w1 =
    decOp19 w := by
  subst h; rfl
theorem decHi1_A (n w w1 : Nat) (h : n = 10) : decHi1 n w w1 =
    decOp1A w := by
  subst h; rfl
theorem decHi1_B (n w w1 : Nat) (h : n = 11) : decHi1 n w w1 =
    decOp1B w := by
  subst h; rfl
theorem decHi1_C (n w w1 : Nat) (h : n = 12) : decHi1 n w w1 =
    decOp1C w := by
  subst h; rfl
theorem decHi1_D (n w w1 : Nat) (h : n = 13) : decHi1 n w w1 =
    decOp1D w := by
  subst h; rfl
theorem decHi1_E (n w w1 : Nat) (h : n = 14) : decHi1 n w w1 =
    decOp1E w := by
  subst h; rfl
theorem decHi1_F (n w w1 : Nat) (h : n = 15) : decHi1 n w w1 =
    decOp1F w := by
  subst h; rfl
theorem decHi2_0 (n w w1 : Nat) (h : n = 0) : decHi2 n w w1 =
    decOp20 w := by
  subst h; rfl
theorem decHi2_1 (n w w1 : Nat) (h : n = 1) : decHi2 n w w1 =
    decOp21 w := by
  subst h; rfl
theorem decHi2_2 (n w w1 : Nat) (h : n = 2) : decHi2 n w w1 =
    decOp22 w := by
  subst h; rfl
theorem decHi2_3 (n w w1 : Nat) (h : n = 3) : decHi2 n w w1 =
    decOp23 w := by
  subst h; rfl
theorem decHi2_4 (n w w1 : Nat) (h : n = 4) : decHi2 n w w1 =
    decOp24 w := by
  subst h; rfl
theorem decHi2_5 (n w w1 : Nat) (h : n = 5) : decHi2 n w w1 =
    decOp25 w := by
  subst h; rfl
theorem decHi2_6 (n w w1 : Nat) (h : n = 6) : decHi2 n w w1 =
    decOp26 w := by
  subst h; rfl
theorem decHi2_7 (n w w1 : Nat) (h : n = 7) : decHi2 n w w1 =
    decOp27 w := by
  subst h; rfl
theorem decHi2_8 (n w w1 : Nat) (h : n = 8) : decHi2 n w w1 =
    decOp28 w := by
  subst h; rfl
theorem decHi2_9 (n w w1 : Nat) (h : n = 9) : decHi2 n w w1 =
    decOp29 w := by
  subst h; rfl
theorem decHi2_A (n w w1 : Nat) (h : n = 10) : decHi2 n w w1 =
    decOp2A w := by
  subst h; rfl
theorem decHi2_B (n w w1 : Nat) (h : n = 11) : decHi2 n w w1 =
    decOp2B w := by
  subst h; rfl
theorem decHi2_C (n w w1 : Nat) (h : n = 12) : decHi2 n w w1 =
    decOp2C w := by
  subst h; rfl
theorem decHi2_D (n w w1 : Nat) (h : n = 13) : decHi2 n w w1 =
    decOp2D w := by
  subst h; rfl
theorem decHi2_E (n w w1 : Nat) (h : n = 14) : decHi2 n w w1 =
    decOp2E w := by
  subst h; rfl
theorem decHi2_F (n w w1 : Nat) (h : n = 15) : decHi2 n w w1 =
    decOp2F w := by
  subst h; rfl
theorem decHi3_0 (n w w1 : Nat) (h : n = 0) : decHi3 n w w1 =
    decOp30 w := by
  subst h; rfl
theorem decHi3_1 (n w w1 : Nat) (h : n = 1) : decHi3 n w w1 =
    decOp31 w := by
  subst h; rfl
theorem decHi3_2 (n w w1 : Nat) (h : n = 2) : decHi3 n w w1 =
    decOp32 w := by
  subst h; rfl
theorem decHi3_3 (n w w1 : Nat) (h : n = 3) : decHi3 n w w1 =
    decOp33 w := by
  subst h; rfl
theorem decHi3_4 (n w w1 : Nat) (h : n = 4) : decHi3 n w w1 =
    decOp34 w := by
  subst h; rfl
theorem decHi3_5 (n w w1 : Nat) (h : n = 5) : decHi3 n w w1 =
    decOp35 w := by
  subst h; rfl
theorem decHi3_6 (n w w1 : Nat) (h : n = 6) : decHi3 n w w1 =
    decOp36 w := by
  subst h; rfl
theorem decHi3_7 (n w w1 : Nat) (h : n = 7) : decHi3 n w w1 =
    decOp37 w := by
  subst h; rfl
theorem decHi3_8 (n w w1 : Nat) (h : n = 8) : decHi3 n w w1 =
    decOp38 w := by
  subst h; rfl
theorem decHi3_9 (n w w1 : Nat) (h : n = 9) : decHi3 n w w1 =
    decOp39 w := by
  subst h; rfl
theorem decHi3_A (n w w1 : Nat) (h : n = 10) : decHi3 n w w1 =
    decOp3A w := by
  subst h; rfl
theorem decHi3_B (n w w1 : Nat) (h : n = 11) : decHi3 n w w1 =
    decOp3B w := by
  subst h; rfl
theorem decHi3_C (n w w1 : Nat) (h : n = 12) : decHi3 n w w1 =
    decOp3C w := by
  subst h; rfl
theorem decHi3_D (n w w1 : Nat) (h : n = 13) : decHi3 n w w1 =
    decOp3D w := by
  subst h; rfl
theorem decHi3_E (n w w1 : Nat) (h : n = 14) : decHi3 n w w1 =
    decOp3E w := by
  subst h; rfl
theorem decHi3_F (n w w1 : Nat) (h : n = 15) : decHi3 n w w1 =
    decOp3F w := by
  subst h; rfl
theorem decHi4_0 (n w w1 : Nat) (h : n = 0) : decHi4 n w w1 =
    decOp40 w := by
  subst h; rfl
theorem decHi4_1 (n w w1 : Nat) (h : n = 1) : decHi4 n w w1 =
    decOp41 w := by
  subst h; rfl
theorem decHi4_2 (n w w1 : Nat) (h : n = 2) : decHi4 n w w1 =
    decOp42 w := by
  subst h; rfl
theorem decHi4_3 (n w w1 : Nat) (h : n = 3) : decHi4 n w w1 =
    decOp43 w := by
  subst h; rfl
theorem decHi4_4 (n w w1 : Nat) (h : n = 4) : decHi4 n w w1 =
    decOp44 w := by
  subst h; rfl
theorem decHi4_5 (n w w1 : Nat) (h : n = 5) : decHi4 n w w1 =
    decOp45 w := by
  subst h; rfl
theorem decHi4_6 (n w w1 : Nat) (h : n = 6) : decHi4 n w w1 =
    decOp46 w := by
  subst h; rfl
theorem decHi4_7 (n w w1 : Nat) (h : n = 7) : decHi4 n w w1 =
    decOp47 w := by
  subst h; rfl
theorem decHi4_8 (n w w1 : Nat) (h : n = 8) : decHi4 n w w1 =
    decOp48 w := by
  subst h; rfl
theorem decHi4_9 (n w w1 : Nat) (h : n = 9) : decHi4 n w w1 =
    decOp49 w := by
  subst h; rfl
theorem decHi4_A (n w w1 : Nat) (h : n = 10) : decHi4 n w w1 =
    decOp4A w := by
  subst h; rfl
theorem decHi4_B (n w w1 : Nat) (h : n = 11) : decHi4 n w w1 =
    decOp4B w := by
  subst h; rfl
theorem decHi4_C (n w w1 : Nat) (h : n = 12) : decHi4 n w w1 =
    decOp4C w := by
  subst h; rfl
theorem decHi4_D (n w w1 : Nat) (h : n = 13) : decHi4 n w w1 =
    decOp4D w := by
  subst h; rfl
theorem decHi4_E (n w w1 : Nat) (h : n = 14) : decHi4 n w w1 =
    decOp4E w := by
  subst h; rfl
theorem decHi4_F (n w w1 : Nat) (h : n = 15) : decHi4 n w w1 =
    decOp4F w := by
  subst h; rfl
theorem decHi5_0 (n w w1 : Nat) (h : n = 0) : decHi5 n w w1 =
    decOp50 w := by
  subst h; rfl
theorem decHi5_1 (n w w1 : Nat) (h : n = 1) : decHi5 n w w1 =
    decOp51 w := by
  subst h; rfl
theorem decHi5_2 (n w w1 : Nat) (h : n = 2) : decHi5 n w w1 =
    decOp52 w := by
  subst h; rfl
theorem decHi5_3 (n w w1 : Nat) (h : n = 3) : decHi5 n w w1 =
    decOp53 w := by
  subst h; rfl
theorem decHi5_4 (n w w1 : Nat) (h : n = 4) : decHi5 n w w1 =
    decOp54 w := by
  subst h; rfl
theorem decHi5_5 (n w w1 : Nat) (h : n = 5) : decHi5 n w w1 =
    decOp55 w := by
  subst h; rfl
theorem decHi5_6 (n w w1 : Nat) (h : n = 6) : decHi5 n w w1 =
    decOp56 w := by
  subst h; rfl
theorem decHi5_7 (n w w1 : Nat) (h : n = 7) : decHi5 n w w1 =
    decOp57 w := by
  subst h; rfl
theorem decHi5_8 (n w w1 : Nat) (h : n = 8) : decHi5 n w w1 =
    decOp58 w := by
  subst h; rfl
theorem decHi5_9 (n w w1 : Nat) (h : n = 9) : decHi5 n w w1 =
    decOp59 w := by
  subst h; rfl
theorem decHi5_A (n w w1 : Nat) (h : n = 10) : decHi5 n w w1 =
    decOp5A w := by
  subst h; rfl
theorem decHi5_B (n w w1 : Nat) (h : n = 11) : decHi5 n w w1 =
    decOp5B w := by
  subst h; rfl
theorem decHi5_C (n w w1 : Nat) (h : n = 12) : decHi5 n w w1 =
    decOp5C w := by
  subst h; rfl
theorem decHi5_D (n w w1 : Nat) (h : n = 13) : decHi5 n w w1 =
    decOp5D w := by
  subst h; rfl
theorem decHi5_E (n w w1 : Nat) (h : n = 14) : decHi5 n w w1 =
    decOp5E w := by
  subst h; rfl
theorem decHi5_F (n w w1 : Nat) (h : n = 15) : decHi5 n w w1 =
    decOp5F w := by
  subst h; rfl
theorem decHi6_0 (n w w1 : Nat) (h : n = 0) : decHi6 n w w1 =
    decOp60 w := by
  subst h; rfl
theorem decHi6_1 (n w w1 : Nat) (h : n = 1) : decHi6 n w w1 =
    decOp61 w := by
  subst h; rfl
theorem decHi6_2 (n w w1 : Nat) (h : n = 2) : decHi6 n w w1 =
    decOp62 w := by
  subst h; rfl
theorem decHi6_3 (n w w1 : Nat) (h : n = 3) : decHi6 n w w1 =
    decOp63 w := by
  subst h; rfl
theorem decHi6_4 (n w w1 : Nat) (h : n = 4) : decHi6 n w w1 =
    decOp64 w := by
  subst h; rfl
theorem decHi6_5 (n w w1 : Nat) (h : n = 5) : decHi6 n w w1 =
    decOp65 w := by
  subst h; rfl
theorem decHi6_6 (n w w1 : Nat) (h : n = 6) : decHi6 n w w1 =
    decOp66 w := by
  subst h; rfl
theorem decHi6_7 (n w w1 : Nat) (h : n = 7) : decHi6 n w w1 =
    decOp67 w := by
  subst h; rfl
theorem decHi6_8 (n w w1 : Nat) (h : n = 8) : decHi6 n w w1 =
    decOp68 w := by
  subst h; rfl
theorem decHi6_9 (n w w1 : Nat) (h : n = 9) : decHi6 n w w1 =
    decOp69 w := by
  subst h; rfl
theorem decHi6_A (n w w1 : Nat) (h : n = 10) : decHi6 n w w1 =
    decOp6A w := by
  subst h; rfl
theorem decHi6_B (n w w1 : Nat) (h : n = 11) : decHi6 n w w1 =
    decOp6B w := by
  subst h; rfl
theorem decHi6_C (n w w1 : Nat) (h : n = 12) : decHi6 n w w1 =
    decOp6C w := by
  subst h; rfl
theorem decHi6_D (n w w1 : Nat) (h : n = 13) : decHi6 n w w1 =
    decOp6D w := by
  subst h; rfl
theorem decHi6_E (n w w1 : Nat) (h : n = 14) : decHi6 n w w1 =
    decOp6E w := by
  subst h; rfl
theorem decHi6_F (n w w1 : Nat) (h : n = 15) : decHi6 n w w1 =
    decOp6F w := by
  subst h; rfl
theorem decHi7_0 (n w w1 : Nat) (h : n = 0) : decHi7 n w w1 =
    decOp70 w := by
  subst h; rfl
theorem decHi7_1 (n w w1 : Nat) (h : n = 1) : decHi7 n w w1 =
    decOp71 w := by
  subst h; rfl
theorem decHi7_2 (n w w1 : Nat) (h : n = 2) : decHi7 n w w1 =
    decOp72 w := by
  subst h; rfl
theorem decHi7_3 (n w w1 : Nat) (h : n = 3) : decHi7 n w w1 =
    decOp73 w := by
  subst h; rfl
theorem decHi7_4 (n w w1 : Nat) (h : n = 4) : decHi7 n w w1 =
    decOp74 w := by
  subst h; rfl
theorem decHi7_5 (n w w1 : Nat) (h : n = 5) : decHi7 n w w1 =
    decOp75 w := by
  subst h; rfl
theorem decHi7_6 (n w w1 : Nat) (h : n = 6) : decHi7 n w w1 =
    decOp76 w := by
  subst h; rfl
theorem decHi7_7 (n w w1 : Nat) (h : n = 7) : decHi7 n w w1 =
    decOp77 w := by
  subst h; rfl
theorem decHi7_8 (n w w1 : Nat) (h : n = 8) : decHi7 n w w1 =
    decOp78 w := by
  subst h; rfl
theorem decHi7_9 (n w w1 : Nat) (h : n = 9) : decHi7 n w w1 =
    decOp79 w := by
  subst h; rfl
theorem decHi7_A (n w w1 : Nat) (h : n = 10) : decHi7 n w w1 =
    decOp7A w := by
  subst h; rfl
theorem decHi7_B (n w w1 : Nat) (h : n = 11) : decHi7 n w w1 =
    decOp7B w := by
  subst h; rfl
theorem decHi7_C (n w w1 : Nat) (h : n = 12) : decHi7 n w w1 =
    decOp7C w := by
  subst h; rfl
theorem decHi7_D (n w w1 : Nat) (h : n = 13) : decHi7 n w w1 =
    decOp7D w := by
  subst h; rfl
theorem decHi7_E (n w w1 : Nat) (h : n = 14) : decHi7 n w w1 =
    decOp7E w := by
  subst h; rfl
theorem decHi7_F (n w w1 : Nat) (h : n = 15) : decHi7 n w w1 =
    decOp7F w := by
  subst h; rfl
theorem decHi8_0 (n w w1 : Nat) (h : n = 0) : decHi8 n w w1 =
    decOp80 w := by
  subst h; rfl
theorem decHi8_1 (n w w1 : Nat) (h : n = 1) : decHi8 n w w1 =
    decOp81 w := by
  subst h; rfl
theorem decHi8_2 (n w w1 : Nat) (h : n = 2) : decHi8 n w w1 =
    decOp82 w := by
  subst h; rfl
theorem decHi8_3 (n w w1 : Nat) (h : n = 3) : decHi8 n w w1 =
    decOp83 w := by
  subst h; rfl
theorem decHi8_4 (n w w1 : Nat) (h : n = 4) : decHi8 n w w1 =
    decOp84 w := by
  subst h; rfl
theorem decHi8_5 (n w w1 : Nat) (h : n = 5) : decHi8 n w w1 =
    decOp85 w := by
  subst h; rfl
theorem decHi8_6 (n w w1 : Nat) (h : n = 6) : decHi8 n w w1 =
    decOp86 w := by
  subst h; rfl
theorem decHi8_7 (n w w1 : Nat) (h : n = 7) : decHi8 n w w1 =
    decOp87 w := by
  subst h; rfl
theorem decHi8_8 (n w w1 : Nat) (h : n = 8) : decHi8 n w w1 =
    decOp88 w := by
  subst h; rfl
theorem decHi8_9 (n w w1 : Nat) (h : n = 9) : decHi8 n w w1 =
    decOp89 w := by
  subst h; rfl
theorem decHi8_A (n w w1 : Nat) (h : n = 10) : decHi8 n w w1 =
    decOp8A w := by
  subst h; rfl
theorem decHi8_B (n w w1 : Nat) (h : n = 11) : decHi8 n w w1 =
    decOp8B w := by
  subst h; rfl
theorem decHi8_C (n w w1 : Nat) (h : n = 12) : decHi8 n w w1 =
    decOp8C w := by
  subst h; rfl
theorem decHi8_D (n w w1 : Nat) (h : n = 13) : decHi8 n w w1 =
    decOp8D w := by
  subst h; rfl
theorem decHi8_E (n w w1 : Nat) (h : n = 14) : decHi8 n w w1 =
    decOp8E w := by
  subst h; rfl
theorem decHi8_F (n w w1 : Nat) (h : n = 15) : decHi8 n w w1 =
    decOp8F w := by
  subst h; rfl
theorem decHi9_0 (n w w1 : Nat) (h : n = 0) : decHi9 n w w1 =
    decOp90 w := by
  subst h; rfl
theorem decHi9_1 (n w w1 : Nat) (h : n = 1) : decHi9 n w w1 =
    decOp91 w := by
  subst h; rfl
theorem decHi9_2 (n w w1 : Nat) (h : n = 2) : decHi9 n w w1 =
    decOp92 w := by
  subst h; rfl
theorem decHi9_3 (n w w1 : Nat) (h : n = 3) : decHi9 n w w1 =
    decOp93 w := by
  subst h; rfl
theorem decHi9_4 (n w w1 : Nat) (h : n = 4) : decHi9 n w w1 =
    decOp94 w := by
  subst h; rfl
theorem decHi9_5 (n w w1 : Nat) (h : n = 5) : decHi9 n w w1 =
    decOp95 w := by
  subst h; rfl
theorem decHi9_6 (n w w1 : Nat) (h : n = 6) : decHi9 n w w1 =
    decOp96 w := by
  subst h; rfl
theorem decHi9_7 (n w w1 : Nat) (h : n = 7) : decHi9 n w w1 =
    decOp97 w := by
  subst h; rfl
theorem decHi9_8 (n w w1 : Nat) (h : n = 8) : decHi9 n w w1 =
    decOp98 w := by
  subst h; rfl
theorem decHi9_9 (n w w1 : Nat) (h : n = 9) : decHi9 n w w1 =
    decOp99 w := by
  subst h; rfl
theorem decHi9_A (n w w1 : Nat) (h : n = 10) : decHi9 n w w1 =
    decOp9A w := by
  subst h; rfl
theorem decHi9_B (n w w1 : Nat) (h : n = 11) : decHi9 n w w1 =
    decOp9B w := by
  subst h; rfl
theorem decHi9_C (n w w1 : Nat) (h : n = 12) : decHi9 n w w1 =
    decOp9C w := by
  subst h; rfl
theorem decHi9_D (n w w1 : Nat) (h : n = 13) : decHi9 n w w1 =
    decOp9D w := by
  subst h; rfl
theorem decHi9_E (n w w1 : Nat) (h : n = 14) : decHi9 n w w1 =
    decOp9E w := by
  subst h; rfl
theorem decHi9_F (n w w1 : Nat) (h : n = 15) : decHi9 n w w1 =
    decOp9F w := by
  subst h; rfl
theorem decHiA_0 (n w w1 : Nat) (h : n = 0) : decHiA n w w1 =
    decOpA0 w := by
  subst h; rfl
theorem decHiA_1 (n w w1 : Nat) (h : n = 1) : decHiA n w w1 =
    decOpA1 w := by
  subst h; rfl
theorem decHiA_2 (n w w1 : Nat) (h : n = 2) : decHiA n w w1 =
    decOpA2 w := by
  subst h; rfl
theorem decHiA_3 (n w w1 : Nat) (h : n = 3) : decHiA n w w1 =
    decOpA3 w := by
  subst h; rfl
theorem decHiA_4 (n w w1 : Nat) (h : n = 4) : decHiA n w w1 =
    decOpA4 w := by
  subst h; rfl
theorem decHiA_5 (n w w1 : Nat) (h : n = 5) : decHiA n w w1 =
    decOpA5 w := by
  subst h; rfl
theorem decHiA_6 (n w w1 : Nat) (h : n = 6) : decHiA n w w1 =
    decOpA6 w := by
  subst h; rfl
theorem decHiA_7 (n w w1 : Nat) (h : n = 7) : decHiA n w w1 =
    decOpA7 w := by
  subst h; rfl
theorem decHiA_8 (n w w1 : Nat) (h : n = 8) : decHiA n w w1 =
    decOpA8 w := by
  subst h; rfl
theorem decHiA_9 (n w w1 : Nat) (h : n = 9) : decHiA n w w1 =
    decOpA9 w := by
  subst h; rfl
theorem decHiA_A (n w w1 : Nat) (h : n = 10) : decHiA n w w1 =
    decOpAA w := by
  subst h; rfl
theorem decHiA_B (n w w1 : Nat) (h : n = 11) : decHiA n w w1 =
    decOpAB w := by
  subst h; rfl
theorem decHiA_C (n w w1 : Nat) (h : n = 12) : decHiA n w w1 =
    decOpAC w := by
  subst h; rfl
theorem decHiA_D (n w w1 : Nat) (h : n = 13) : decHiA n w w1 =
    decOpAD w := by
  subst h; rfl
theorem decHiA_E (n w w1 : Nat) (h : n = 14) : decHiA n w w1 =
    decOpAE w := by
  subst h; rfl
theorem decHiA_F (n w w1 : Nat) (h : n = 15) : decHiA n w w1 =
    decOpAF w := by
  subst h; rfl
theorem decHiB_0 (n w w1 : Nat) (h : n = 0) : decHiB n w w1 =
    decOpB0 w := by
  subst h; rfl
theorem decHiB_1 (n w w1 : Nat) (h : n = 1) : decHiB n w w1 =
    decOpB1 w := by
  subst h; rfl
theorem decHiB_2 (n w w1 : Nat) (h : n = 2) : decHiB n w w1 =
    decOpB2 w := by
  subst h; rfl
theorem decHiB_3 (n w w1 : Nat) (h : n = 3) : decHiB n w w1 =
    decOpB3 w := by
  subst h; rfl
theorem decHiB_4 (n w w1 : Nat) (h : n = 4) : decHiB n w w1 =
    decOpB4 w := by
  subst h; rfl
theorem decHiB_5 (n w w1 : Nat) (h : n = 5) : decHiB n w w1 =
    decOpB5 w := by
  subst h; rfl
theorem decHiB_6 (n w w1 : Nat) (h : n = 6) : decHiB n w w1 =
    decOpB6 w := by
  subst h; rfl
theorem decHiB_7 (n w w1 : Nat) (h : n = 7) : decHiB n w w1 =
    decOpB7 w := by
  subst h; rfl
theorem decHiB_8 (n w w1 : Nat) (h : n = 8) : decHiB n w w1 =
    decOpB8 w := by
  subst h; rfl
theorem decHiB_9 (n w w1 : Nat) (h : n = 9) : decHiB n w w1 =
    decOpB9 w := by
  subst h; rfl
theorem decHiB_A (n w w1 : Nat) (h : n = 10) : decHiB n w w1 =
    decOpBA w := by
  subst h; rfl
theorem decHiB_B (n w w1 : Nat) (h : n = 11) : decHiB n w w1 =
    decOpBB w := by
  subst h; rfl
theorem decHiB_C (n w w1 : Nat) (h : n = 12) : decHiB n w w1 =
    decOpBC w := by
  subst h; rfl
theorem decHiB_D (n w w1 : Nat) (h : n = 13) : decHiB n w w1 =
    decOpBD w := by
  subst h; rfl
theorem decHiB_E (n w w1 : Nat) (h : n = 14) : decHiB n w w1 =
    decOpBE w := by
  subst h; rfl
theorem decHiB_F (n w w1 : Nat) (h : n = 15) : decHiB n w w1 =
    decOpBF w := by
  subst h; rfl
theorem decHiC_0 (n w w1 : Nat) (h : n = 0) : decHiC n w w1 =
    decOpC0 w := by
  subst h; rfl
theorem decHiC_1 (n w w1 : Nat) (h : n = 1) : decHiC n w w1 =
    decOpC1 w := by
  subst h; rfl
theorem decHiC_2 (n w w1 : Nat) (h : n = 2) : decHiC n w w1 =
    decOpC2 w := by
  subst h; rfl
theorem decHiC_3 (n w w1 : Nat) (h : n = 3) : decHiC n w w1 =
    decOpC3 w := by
  subst h; rfl
theorem decHiC_4 (n w w1 : Nat) (h : n = 4) : decHiC n w w1 =
    decOpC4 w := by
  subst h; rfl
theorem decHiC_5 (n w w1 : Nat) (h : n = 5) : decHiC n w w1 =
    decOpC5 w := by
  subst h; rfl
theorem decHiC_6 (n w w1 : Nat) (h : n = 6) : decHiC n w w1 =
    decOpC6 w := by
  subst h; rfl
theorem decHiC_7 (n w w1 : Nat) (h : n = 7) : decHiC n w w1 =
    decOpC7 w := by
  subst h; rfl
theorem decHiC_8 (n w w1 : Nat) (h : n = 8) : decHiC n w w1 =
    decOpC8 w := by
  subst h; rfl
theorem decHiC_9 (n w w1 : Nat) (h : n = 9) : decHiC n w w1 =
    decOpC9 w := by
  subst h; rfl
theorem decHiC_A (n w w1 : Nat) (h : n = 10) : decHiC n w w1 =
    decOpCA w := by
  subst h; rfl
theorem decHiC_B (n w w1 : Nat) (h : n = 11) : decHiC n w w1 =
    decOpCB w := by
  subst h; rfl
theorem decHiC_C (n w w1 : Nat) (h : n = 12) : decHiC n w w1 =
    decOpCC w := by
  subst h; rfl
theorem decHiC_D (n w w1 : Nat) (h : n = 13) : decHiC n w w1 =
    decOpCD w := by
  subst h; rfl
theorem decHiC_E (n w w1 : Nat) (h : n = 14) : decHiC n w w1 =
    decOpCE w := by
  subst h; rfl
theorem decHiC_F (n w w1 : Nat) (h : n = 15) : decHiC n w w1 =
    decOpCF w := by
  subst h; rfl
theorem decHiD_0 (n w w1 : Nat) (h : n = 0) : decHiD n w w1 =
    decOpD0 w := by
  subst h; rfl
theorem decHiD_1 (n w w1 : Nat) (h : n = 1) : decHiD n w w1 =
    decOpD1 w := by
  subst h; rfl
theorem decHiD_2 (n w w1 : Nat) (h : n = 2) : decHiD n w w1 =
    decOpD2 w := by
  subst h; rfl
theorem decHiD_3 (n w w1 : Nat) (h : n = 3) : decHiD n w w1 =
    decOpD3 w := by
  subst h; rfl
theorem decHiD_4 (n w w1 : Nat) (h : n = 4) : decHiD n w w1 =
    decOpD4 w := by
  subst h; rfl
theorem decHiD_5 (n w w1 : Nat) (h : n = 5) : decHiD n w w1 =
    decOpD5 w := by
  subst h; rfl
theorem decHiD_6 (n w w1 : Nat) (h : n = 6) : decHiD n w w1 =
    decOpD6 w := by
  subst h; rfl
theorem decHiD_7 (n w w1 : Nat) (h : n = 7) : decHiD n w w1 =
    decOpD7 w := by
  subst h; rfl
theorem decHiD_8 (n w w1 : Nat) (h : n = 8) : decHiD n w w1 =
    decOpD8 w := by
  subst h; rfl
theorem decHiD_9 (n w w1 : Nat) (h : n = 9) : decHiD n w w1 =
    decOpD9 w := by
  subst h; rfl
theorem decHiD_A (n w w1 : Nat) (h : n = 10) : decHiD n w w1 =
    decOpDA w := by
  subst h; rfl
theorem decHiD_B (n w w1 : Nat) (h : n = 11) : decHiD n w w1 =
    decOpDB w := by
  subst h; rfl
theorem decHiD_C (n w w1 : Nat) (h : n = 12) : decHiD n w w1 =
    decOpDC w := by
  subst h; rfl
theorem decHiD_D (n w w1 : Nat) (h : n = 13) : decHiD n w w1 =
    decOpDD w := by
  subst h; rfl
theorem decHiD_E (n w w1 : Nat) (h : n = 14) : decHiD n w w1 =
    decOpDE w := by
  subst h; rfl
theorem decHiD_F (n w w1 : Nat) (h : n = 15) : decHiD n w w1 =
    decOpDF w := by
  subst h; rfl
theorem decHiE_0 (n w w1 : Nat) (h : n = 0) : decHiE n w w1 =
    decOpE0 w := by
  subst h; rfl
theorem decHiE_1 (n w w1 : Nat) (h : n = 1) : decHiE n w w1 =
    decOpE1 w := by
  subst h; rfl
theorem decHiE_2 (n w w1 : Nat) (h : n = 2) : decHiE n w w1 =
    decOpE2 w := by
  subst h; rfl
theorem decHiE_3 (n w w1 : Nat) (h : n = 3) : decHiE n w w1 =
    decOpE3 w := by
  subst h; rfl
theorem decHiE_4 (n w w1 : Nat) (h : n = 4) : decHiE n w w1 =
    decOpE4 w := by
  subst h; rfl
theorem decHiE_5 (n w w1 : Nat) (h : n = 5) : decHiE n w w1 =
    decOpE5 w := by
  subst h; rfl
theorem decHiE_6 (n w w1 : Nat) (h : n = 6) : decHiE n w w1 =
    decOpE6 w := by
  subst h; rfl
theorem decHiE_7 (n w w1 : Nat) (h : n = 7) : decHiE n w w1 =
    decOpE7 w := by
  subst h; rfl
theorem decHiE_8 (n w w1 : Nat) (h : n = 8) : decHiE n w w1 =
    decOpE8 w := by
  subst h; rfl
theorem decHiE_9 (n w w1 : Nat) (h : n = 9) : decHiE n w w1 =
    decOpE9 w := by
  subst h; rfl
theorem decHiE_A (n w w1 : Nat) (h : n = 10) : decHiE n w w1 =
    decOpEA w := by
  subst h; rfl
theorem decHiE_B (n w w1 : Nat) (h : n = 11) : decHiE n w w1 =
    decOpEB w := by
  subst h; rfl
theorem decHiE_C (n w w1 : Nat) (h : n = 12) : decHiE n w w1 =
    decOpEC w := by
  subst h; rfl
theorem decHiE_D (n w w1 : Nat) (h : n = 13) : decHiE n w w1 =
    decOpED w := by
  subst h; rfl
theorem decHiE_E (n w w1 : Nat) (h : n = 14) : decHiE n w w1 =
    decOpEE w := by
  subst h; rfl
theorem decHiE_F (n w w1 : Nat) (h : n = 15) : decHiE n w w1 =
    decOpEF w := by
  subst h; rfl
theorem decHiF_0 (n w w1 : Nat) (h : n = 0) : decHiF n w w1 =
    decOpF0 w := by
  subst h; rfl
theorem decHiF_1 (n w w1 : Nat) (h : n = 1) : decHiF n w w1 =
    decOpF1 w := by
  subst h; rfl
theorem decHiF_2 (n w w1 : Nat) (h : n = 2) : decHiF n w w1 =
    decOpF2 w := by
  subst h; rfl
theorem decHiF_3 (n w w1 : Nat) (h : n = 3) : decHiF n w w1 =
    decOpF3 w := by
  subst h; rfl
theorem decHiF_4 (n w w1 : Nat) (h : n = 4) : decHiF n w w1 =
    decOpF4 w := by
  subst h; rfl
theorem decHiF_5 (n w w1 : Nat) (h : n = 5) : decHiF n w w1 =
    decOpF5 w := by
  subst h; rfl
theorem decHiF_6 (n w w1 : Nat) (h : n = 6) : decHiF n w w1 =
    decOpF6 w := by
  subst h; rfl
theorem decHiF_7 (n w w1 : Nat) (h : n = 7) : decHiF n w w1 =
    decOpF7 w := by
  subst h; rfl
theorem decHiF_8 (n w w1 : Nat) (h : n = 8) : decHiF n w w1 =
    decOpF8 w w1 := by
  subst h; rfl
theorem decHiF_9 (n w w1 : Nat) (h : n = 9) : decHiF n w w1 =
    decOpF9 w w1 := by
  subst h; rfl
theorem decHiF_A (n w w1 : Nat) (h : n = 10) : decHiF n w w1 =
    decOpFA w w1 := by
  subst h; rfl
theorem decHiF_B (n w w1 : Nat) (h : n = 11) : decHiF n w w1 =
    decOpFB w w1 := by
  subst h; rfl
theorem decHiF_C (n w w1 : Nat) (h : n = 12) : decHiF n w w1 =
    decOpFC w w1 := by
  subst h; rfl
theorem decHiF_D (n w w1 : Nat) (h : n = 13) : decHiF n w w1 =
    decOpFD w w1 := by
  subst h; rfl
theorem decHiF_E (n w w1 : Nat) (h : n = 14) : decHiF n w w1 =
    decOpFE w w1 := by
  subst h; rfl
theorem decHiF_F (n w w1 : Nat) (h : n = 15) : decHiF n w w1 =
    decOpFF w := by
  subst h; rfl

namespace Laws.RoundTrip

/-- The words of a well-formed instruction decode to it, whatever stands after a one-word instruction. -/
def Statement (i : Instr) : Prop :=
  i.isEvent = false → i.wf = true → ∀ w1, decode i.word0 (i.second.getD w1) = .ok i

theorem moduleReset (o : BootOutcome) : Statement (.moduleReset o) := by
  exact fun h => nomatch (show true = false from h)
theorem mboxseqWrite (v : BitVec 64) : Statement (.mboxseqWrite v) := by
  exact fun h => nomatch (show true = false from h)
theorem mgmtRegisterWrite (off : BitVec 12) (v : BitVec 64) : Statement (.mgmtRegisterWrite off v) := by
  exact fun h => nomatch (show true = false from h)
theorem inboundPcieWrite (src : PcieSource) (addr : BitVec 64) (data : List (BitVec 8)) : Statement (.inboundPcieWrite src addr data) := by
  exact fun h => nomatch (show true = false from h)
theorem inboundPcieRead (src : PcieSource) (addr : BitVec 64) (len : BitVec 13) : Statement (.inboundPcieRead src addr len) := by
  exact fun h => nomatch (show true = false from h)
theorem atsInvalidation (pasid : BitVec 20) (addr : BitVec 64) : Statement (.atsInvalidation pasid addr) := by
  exact fun h => nomatch (show true = false from h)
theorem ramirMessageArrival (ch frm : BitVec 6) (ctx : BitVec 16) (body : List (BitVec 8)) : Statement (.ramirMessageArrival ch frm ctx body) := by
  exact fun h => nomatch (show true = false from h)
theorem pageRequestAnswer (req : BitVec 64) (ok : Bool) : Statement (.pageRequestAnswer req ok) := by
  exact fun h => nomatch (show true = false from h)
theorem remoteReadCompletion (req : BitVec 64) (ans : RemoteAnswer) : Statement (.remoteReadCompletion req ans) := by
  exact fun h => nomatch (show true = false from h)
theorem remoteCompletionTimeout (req : BitVec 64) : Statement (.remoteCompletionTimeout req) := by
  exact fun h => nomatch (show true = false from h)
theorem symbolResolve (n : BitVec 10) (k : BitVec 5) : Statement (.symbolResolve n k) := by
  exact fun h => nomatch (show true = false from h)
theorem symbolDeadline (n : BitVec 10) (k : BitVec 5) : Statement (.symbolDeadline n k) := by
  exact fun h => nomatch (show true = false from h)
theorem takeTrap (n : BitVec 10) : Statement (.takeTrap n) := by
  exact fun h => nomatch (show true = false from h)
theorem itemDispatch (n : BitVec 10) : Statement (.itemDispatch n) := by
  exact fun h => nomatch (show true = false from h)
theorem itemResume (n : BitVec 10) : Statement (.itemResume n) := by
  exact fun h => nomatch (show true = false from h)
theorem launchComplete (id : BitVec 64) : Statement (.launchComplete id) := by
  exact fun h => nomatch (show true = false from h)
theorem launchAgeing (id : BitVec 64) : Statement (.launchAgeing id) := by
  exact fun h => nomatch (show true = false from h)
theorem preemptMark (die : BitVec 3) : Statement (.preemptMark die) := by
  exact fun h => nomatch (show true = false from h)
theorem preemptGraceExpiry (n : BitVec 10) : Statement (.preemptGraceExpiry n) := by
  exact fun h => nomatch (show true = false from h)
theorem watchdogExpiry (ctx : BitVec 16) : Statement (.watchdogExpiry ctx) := by
  exact fun h => nomatch (show true = false from h)
theorem permitChange (die : BitVec 3) (permit : BitVec 5) : Statement (.permitChange die permit) := by
  exact fun h => nomatch (show true = false from h)
theorem assocDispatch (n : BitVec 10) : Statement (.assocDispatch n) := by
  exact fun h => nomatch (show true = false from h)
theorem streamFill (n : BitVec 10) (z : BitVec 4) : Statement (.streamFill n z) := by
  exact fun h => nomatch (show true = false from h)
theorem streamDrain (n : BitVec 10) (z : BitVec 4) : Statement (.streamDrain n z) := by
  exact fun h => nomatch (show true = false from h)
theorem transferCommandStart (cl : BitVec 7) (ch : BitVec 4) : Statement (.transferCommandStart cl ch) := by
  exact fun h => nomatch (show true = false from h)
theorem transferCommandComplete (cl : BitVec 7) (ch : BitVec 4) : Statement (.transferCommandComplete cl ch) := by
  exact fun h => nomatch (show true = false from h)
theorem matrixCommandRun (cl : BitVec 7) : Statement (.matrixCommandRun cl) := by
  exact fun h => nomatch (show true = false from h)
theorem matrixCommandComplete (cl : BitVec 7) : Statement (.matrixCommandComplete cl) := by
  exact fun h => nomatch (show true = false from h)
theorem matrixTaskIssue (die : BitVec 3) : Statement (.matrixTaskIssue die) := by
  exact fun h => nomatch (show true = false from h)
theorem matrixTaskComplete (cl : BitVec 7) : Statement (.matrixTaskComplete cl) := by
  exact fun h => nomatch (show true = false from h)
theorem treeOpApply (unit : BitVec 4) (slot : BitVec 10) : Statement (.treeOpApply unit slot) := by
  exact fun h => nomatch (show true = false from h)
theorem scrub (pa : BitVec 52) : Statement (.scrub pa) := by
  exact fun h => nomatch (show true = false from h)
theorem promotionInstall (pa : BitVec 52) : Statement (.promotionInstall pa) := by
  exact fun h => nomatch (show true = false from h)
theorem demotionRemove (pa : BitVec 52) : Statement (.demotionRemove pa) := by
  exact fun h => nomatch (show true = false from h)
theorem nop (h : Hdr) : Statement (.nop h) := by
  intro _ hw w1
  refine decode_of_raw (w1 := w1) (by show fieldWidth [(48, 0), (3, h.pred.toNat), (1, h.neg.toNat), (4, h.stall.toNat), (8, 0)] = 64; simp only [fieldWidth]) ?_ hw
  rw [show Instr.fields (.nop h) = [(48, 0), (3, h.pred.toNat), (1, h.neg.toNat), (4, h.stall.toNat)] ++ [(8, 0x00)] from rfl]
  obtain ⟨e1, e2⟩ := nibbles [(48, 0), (3, h.pred.toNat), (1, h.neg.toNat), (4, h.stall.toNat)] 0x00 0 0 (by simp only [fieldWidth]) rfl rfl
  rw [decodeRaw_hi0 _ _ e1, decHi0_0 _ _ _ e2]
  have u : unpackBits [48, 3, 1, 4, 8] (packBits ([(48, 0), (3, h.pred.toNat), (1, h.neg.toNat), (4, h.stall.toNat)] ++ [(8, 0x00)])) = [0, h.pred.toNat, h.neg.toNat, h.stall.toNat, 0] :=
    unpackBits_pack [(48, 0), (3, h.pred.toNat), (1, h.neg.toNat), (4, h.stall.toNat), (8, 0)] ⟨by decide, h.pred.isLt, h.neg.isLt, h.stall.isLt, by decide, trivial⟩
  unfold decOp00
  rw [u]
  show (some (Instr.nop ⟨BitVec.ofNat 4 h.stall.toNat, BitVec.ofNat 1 h.neg.toNat, BitVec.ofNat 3 h.pred.toNat⟩)) = _
  simp only [BitVec.ofNat_toNat, BitVec.setWidth_eq]
theorem halt (h : Hdr) : Statement (.halt h) := by
  intro _ hw w1
  refine decode_of_raw (w1 := w1) (by show fieldWidth [(48, 0), (3, h.pred.toNat), (1, h.neg.toNat), (4, h.stall.toNat), (8, 1)] = 64; simp only [fieldWidth]) ?_ hw
  rw [show Instr.fields (.halt h) = [(48, 0), (3, h.pred.toNat), (1, h.neg.toNat), (4, h.stall.toNat)] ++ [(8, 0x01)] from rfl]
  obtain ⟨e1, e2⟩ := nibbles [(48, 0), (3, h.pred.toNat), (1, h.neg.toNat), (4, h.stall.toNat)] 0x01 0 1 (by simp only [fieldWidth]) rfl rfl
  rw [decodeRaw_hi0 _ _ e1, decHi0_1 _ _ _ e2]
  have u : unpackBits [48, 3, 1, 4, 8] (packBits ([(48, 0), (3, h.pred.toNat), (1, h.neg.toNat), (4, h.stall.toNat)] ++ [(8, 0x01)])) = [0, h.pred.toNat, h.neg.toNat, h.stall.toNat, 1] :=
    unpackBits_pack [(48, 0), (3, h.pred.toNat), (1, h.neg.toNat), (4, h.stall.toNat), (8, 1)] ⟨by decide, h.pred.isLt, h.neg.isLt, h.stall.isLt, by decide, trivial⟩
  unfold decOp01
  rw [u]
  show (some (Instr.halt ⟨BitVec.ofNat 4 h.stall.toNat, BitVec.ofNat 1 h.neg.toNat, BitVec.ofNat 3 h.pred.toNat⟩)) = _
  simp only [BitVec.ofNat_toNat, BitVec.setWidth_eq]
theorem trap (h : Hdr) (imm : BitVec 36) : Statement (.trap h imm) := by
  intro _ hw w1
  refine decode_of_raw (w1 := w1) (by show fieldWidth [(36, imm.toNat), (12, 0), (3, h.pred.toNat), (1, h.neg.toNat), (4, h.stall.toNat), (8, 2)] = 64; simp only [fieldWidth]) ?_ hw
  rw [show Instr.fields (.trap h imm) = [(36, imm.toNat), (12, 0), (3, h.pred.toNat), (1, h.neg.toNat), (4, h.stall.toNat)] ++ [(8, 0x02)] from rfl]
  obtain ⟨e1, e2⟩ := nibbles [(36, imm.toNat), (12, 0), (3, h.pred.toNat), (1, h.neg.toNat), (4, h.stall.toNat)] 0x02 0 2 (by simp only [fieldWidth]) rfl rfl
  rw [decodeRaw_hi0 _ _ e1, decHi0_2 _ _ _ e2]
  have u : unpackBits [36, 12, 3, 1, 4, 8] (packBits ([(36, imm.toNat), (12, 0), (3, h.pred.toNat), (1, h.neg.toNat), (4, h.stall.toNat)] ++ [(8, 0x02)])) = [imm.toNat, 0, h.pred.toNat, h.neg.toNat, h.stall.toNat, 2] :=
    unpackBits_pack [(36, imm.toNat), (12, 0), (3, h.pred.toNat), (1, h.neg.toNat), (4, h.stall.toNat), (8, 2)] ⟨imm.isLt, by decide, h.pred.isLt, h.neg.isLt, h.stall.isLt, by decide, trivial⟩
  unfold decOp02
  rw [u]
  show (some (Instr.trap ⟨BitVec.ofNat 4 h.stall.toNat, BitVec.ofNat 1 h.neg.toNat, BitVec.ofNat 3 h.pred.toNat⟩ (BitVec.ofNat 36 imm.toNat))) = _
  simp only [BitVec.ofNat_toNat, BitVec.setWidth_eq]
theorem sysc (h : Hdr) (imm : BitVec 36) : Statement (.sysc h imm) := by
  intro _ hw w1
  refine decode_of_raw (w1 := w1) (by show fieldWidth [(36, imm.toNat), (12, 0), (3, h.pred.toNat), (1, h.neg.toNat), (4, h.stall.toNat), (8, 3)] = 64; simp only [fieldWidth]) ?_ hw
  rw [show Instr.fields (.sysc h imm) = [(36, imm.toNat), (12, 0), (3, h.pred.toNat), (1, h.neg.toNat), (4, h.stall.toNat)] ++ [(8, 0x03)] from rfl]
  obtain ⟨e1, e2⟩ := nibbles [(36, imm.toNat), (12, 0), (3, h.pred.toNat), (1, h.neg.toNat), (4, h.stall.toNat)] 0x03 0 3 (by simp only [fieldWidth]) rfl rfl
  rw [decodeRaw_hi0 _ _ e1, decHi0_3 _ _ _ e2]
  have u : unpackBits [36, 12, 3, 1, 4, 8] (packBits ([(36, imm.toNat), (12, 0), (3, h.pred.toNat), (1, h.neg.toNat), (4, h.stall.toNat)] ++ [(8, 0x03)])) = [imm.toNat, 0, h.pred.toNat, h.neg.toNat, h.stall.toNat, 3] :=
    unpackBits_pack [(36, imm.toNat), (12, 0), (3, h.pred.toNat), (1, h.neg.toNat), (4, h.stall.toNat), (8, 3)] ⟨imm.isLt, by decide, h.pred.isLt, h.neg.isLt, h.stall.isLt, by decide, trivial⟩
  unfold decOp03
  rw [u]
  show (some (Instr.sysc ⟨BitVec.ofNat 4 h.stall.toNat, BitVec.ofNat 1 h.neg.toNat, BitVec.ofNat 3 h.pred.toNat⟩ (BitVec.ofNat 36 imm.toNat))) = _
  simp only [BitVec.ofNat_toNat, BitVec.setWidth_eq]
theorem eret (h : Hdr) : Statement (.eret h) := by
  intro _ hw w1
  refine decode_of_raw (w1 := w1) (by show fieldWidth [(48, 0), (3, h.pred.toNat), (1, h.neg.toNat), (4, h.stall.toNat), (8, 4)] = 64; simp only [fieldWidth]) ?_ hw
  rw [show Instr.fields (.eret h) = [(48, 0), (3, h.pred.toNat), (1, h.neg.toNat), (4, h.stall.toNat)] ++ [(8, 0x04)] from rfl]
  obtain ⟨e1, e2⟩ := nibbles [(48, 0), (3, h.pred.toNat), (1, h.neg.toNat), (4, h.stall.toNat)] 0x04 0 4 (by simp only [fieldWidth]) rfl rfl
  rw [decodeRaw_hi0 _ _ e1, decHi0_4 _ _ _ e2]
  have u : unpackBits [48, 3, 1, 4, 8] (packBits ([(48, 0), (3, h.pred.toNat), (1, h.neg.toNat), (4, h.stall.toNat)] ++ [(8, 0x04)])) = [0, h.pred.toNat, h.neg.toNat, h.stall.toNat, 4] :=
    unpackBits_pack [(48, 0), (3, h.pred.toNat), (1, h.neg.toNat), (4, h.stall.toNat), (8, 4)] ⟨by decide, h.pred.isLt, h.neg.isLt, h.stall.isLt, by decide, trivial⟩
  unfold decOp04
  rw [u]
  show (some (Instr.eret ⟨BitVec.ofNat 4 h.stall.toNat, BitVec.ofNat 1 h.neg.toNat, BitVec.ofNat 3 h.pred.toNat⟩)) = _
  simp only [BitVec.ofNat_toNat, BitVec.setWidth_eq]
theorem bkpt (h : Hdr) (imm : BitVec 36) : Statement (.bkpt h imm) := by
  intro _ hw w1
  refine decode_of_raw (w1 := w1) (by show fieldWidth [(36, imm.toNat), (12, 0), (3, h.pred.toNat), (1, h.neg.toNat), (4, h.stall.toNat), (8, 5)] = 64; simp only [fieldWidth]) ?_ hw
  rw [show Instr.fields (.bkpt h imm) = [(36, imm.toNat), (12, 0), (3, h.pred.toNat), (1, h.neg.toNat), (4, h.stall.toNat)] ++ [(8, 0x05)] from rfl]
  obtain ⟨e1, e2⟩ := nibbles [(36, imm.toNat), (12, 0), (3, h.pred.toNat), (1, h.neg.toNat), (4, h.stall.toNat)] 0x05 0 5 (by simp only [fieldWidth]) rfl rfl
  rw [decodeRaw_hi0 _ _ e1, decHi0_5 _ _ _ e2]
  have u : unpackBits [36, 12, 3, 1, 4, 8] (packBits ([(36, imm.toNat), (12, 0), (3, h.pred.toNat), (1, h.neg.toNat), (4, h.stall.toNat)] ++ [(8, 0x05)])) = [imm.toNat, 0, h.pred.toNat, h.neg.toNat, h.stall.toNat, 5] :=
    unpackBits_pack [(36, imm.toNat), (12, 0), (3, h.pred.toNat), (1, h.neg.toNat), (4, h.stall.toNat), (8, 5)] ⟨imm.isLt, by decide, h.pred.isLt, h.neg.isLt, h.stall.isLt, by decide, trivial⟩
  unfold decOp05
  rw [u]
  show (some (Instr.bkpt ⟨BitVec.ofNat 4 h.stall.toNat, BitVec.ofNat 1 h.neg.toNat, BitVec.ofNat 3 h.pred.toNat⟩ (BitVec.ofNat 36 imm.toNat))) = _
  simp only [BitVec.ofNat_toNat, BitVec.setWidth_eq]
theorem mfc (h : Hdr) (d : BitVec 6) (r : BitVec 12) : Statement (.mfc h d r) := by
  intro _ hw w1
  refine decode_of_raw (w1 := w1) (by show fieldWidth [(12, r.toNat), (24, 0), (6, 0), (6, d.toNat), (3, h.pred.toNat), (1, h.neg.toNat), (4, h.stall.toNat), (8, 6)] = 64; simp only [fieldWidth]) ?_ hw
  rw [show Instr.fields (.mfc h d r) = [(12, r.toNat), (24, 0), (6, 0), (6, d.toNat), (3, h.pred.toNat), (1, h.neg.toNat), (4, h.stall.toNat)] ++ [(8, 0x06)] from rfl]
  obtain ⟨e1, e2⟩ := nibbles [(12, r.toNat), (24, 0), (6, 0), (6, d.toNat), (3, h.pred.toNat), (1, h.neg.toNat), (4, h.stall.toNat)] 0x06 0 6 (by simp only [fieldWidth]) rfl rfl
  rw [decodeRaw_hi0 _ _ e1, decHi0_6 _ _ _ e2]
  have hw2 : mfcReg r = true := hw
  have n010 : r.toNat ≠ 0x010 := by intro hh; simp [mfcReg, hh] at hw2
  have n011 : r.toNat ≠ 0x011 := by intro hh; simp [mfcReg, hh] at hw2
  have n012 : r.toNat ≠ 0x012 := by intro hh; simp [mfcReg, hh] at hw2
  have n030 : r.toNat ≠ 0x030 := by intro hh; simp [mfcReg, hh] at hw2
  have u : unpackBits [12, 24, 6, 6, 3, 1, 4, 8] (packBits ([(12, r.toNat), (24, 0), (6, 0), (6, d.toNat), (3, h.pred.toNat), (1, h.neg.toNat), (4, h.stall.toNat)] ++ [(8, 0x06)])) = [r.toNat, 0, 0, d.toNat, h.pred.toNat, h.neg.toNat, h.stall.toNat, 6] :=
    unpackBits_pack [(12, r.toNat), (24, 0), (6, 0), (6, d.toNat), (3, h.pred.toNat), (1, h.neg.toNat), (4, h.stall.toNat), (8, 6)] ⟨r.isLt, by decide, by decide, d.isLt, h.pred.isLt, h.neg.isLt, h.stall.isLt, by decide, trivial⟩
  unfold decOp06
  rw [u]
  simp [n010, n011, n012, n030]
theorem mfcFpcsr (h : Hdr) (d : BitVec 6) : Statement (.mfcFpcsr h d) := by
  intro _ hw w1
  refine decode_of_raw (w1 := w1) (by show fieldWidth [(12, 0x010), (24, 0), (6, 0), (6, d.toNat), (3, h.pred.toNat), (1, h.neg.toNat), (4, h.stall.toNat), (8, 6)] = 64; simp only [fieldWidth]) ?_ hw
  rw [show Instr.fields (.mfcFpcsr h d) = [(12, 0x010), (24, 0), (6, 0), (6, d.toNat), (3, h.pred.toNat), (1, h.neg.toNat), (4, h.stall.toNat)] ++ [(8, 0x06)] from rfl]
  obtain ⟨e1, e2⟩ := nibbles [(12, 0x010), (24, 0), (6, 0), (6, d.toNat), (3, h.pred.toNat), (1, h.neg.toNat), (4, h.stall.toNat)] 0x06 0 6 (by simp only [fieldWidth]) rfl rfl
  rw [decodeRaw_hi0 _ _ e1, decHi0_6 _ _ _ e2]
  have u : unpackBits [12, 24, 6, 6, 3, 1, 4, 8] (packBits ([(12, 0x010), (24, 0), (6, 0), (6, d.toNat), (3, h.pred.toNat), (1, h.neg.toNat), (4, h.stall.toNat)] ++ [(8, 0x06)])) = [0x010, 0, 0, d.toNat, h.pred.toNat, h.neg.toNat, h.stall.toNat, 6] :=
    unpackBits_pack [(12, 0x010), (24, 0), (6, 0), (6, d.toNat), (3, h.pred.toNat), (1, h.neg.toNat), (4, h.stall.toNat), (8, 6)] ⟨by decide, by decide, by decide, d.isLt, h.pred.isLt, h.neg.isLt, h.stall.isLt, by decide, trivial⟩
  unfold decOp06
  rw [u]
  simp
theorem mfcEstartFfidx (h : Hdr) (d : BitVec 6) (r : BitVec 2) : Statement (.mfcEstartFfidx h d r) := by
  intro _ hw w1
  refine decode_of_raw (w1 := w1) (by show fieldWidth [(12, 0x010 + r.toNat), (24, 0), (6, 0), (6, d.toNat), (3, h.pred.toNat), (1, h.neg.toNat), (4, h.stall.toNat), (8, 6)] = 64; simp only [fieldWidth]) ?_ hw
  rw [show Instr.fields (.mfcEstartFfidx h d r) = [(12, 0x010 + r.toNat), (24, 0), (6, 0), (6, d.toNat), (3, h.pred.toNat), (1, h.neg.toNat), (4, h.stall.toNat)] ++ [(8, 0x06)] from rfl]
  obtain ⟨e1, e2⟩ := nibbles [(12, 0x010 + r.toNat), (24, 0), (6, 0), (6, d.toNat), (3, h.pred.toNat), (1, h.neg.toNat), (4, h.stall.toNat)] 0x06 0 6 (by simp only [fieldWidth]) rfl rfl
  rw [decodeRaw_hi0 _ _ e1, decHi0_6 _ _ _ e2]
  have hr : r = 1 ∨ r = 2 := by
    have h3 : (r == 1 || r == 2) = true := hw
    simpa using h3
  have hb : 0x010 + r.toNat < 2 ^ 12 := by have := r.isLt; omega
  have u : unpackBits [12, 24, 6, 6, 3, 1, 4, 8] (packBits ([(12, 0x010 + r.toNat), (24, 0), (6, 0), (6, d.toNat), (3, h.pred.toNat), (1, h.neg.toNat), (4, h.stall.toNat)] ++ [(8, 0x06)])) = [0x010 + r.toNat, 0, 0, d.toNat, h.pred.toNat, h.neg.toNat, h.stall.toNat, 6] :=
    unpackBits_pack [(12, 0x010 + r.toNat), (24, 0), (6, 0), (6, d.toNat), (3, h.pred.toNat), (1, h.neg.toNat), (4, h.stall.toNat), (8, 6)] ⟨hb, by decide, by decide, d.isLt, h.pred.isLt, h.neg.isLt, h.stall.isLt, by decide, trivial⟩
  unfold decOp06
  rw [u]
  rcases hr with rfl | rfl <;> simp
theorem mfcAdirty (h : Hdr) (d : BitVec 6) : Statement (.mfcAdirty h d) := by
  intro _ hw w1
  refine decode_of_raw (w1 := w1) (by show fieldWidth [(12, 0x030), (24, 0), (6, 0), (6, d.toNat), (3, h.pred.toNat), (1, h.neg.toNat), (4, h.stall.toNat), (8, 6)] = 64; simp only [fieldWidth]) ?_ hw
  rw [show Instr.fields (.mfcAdirty h d) = [(12, 0x030), (24, 0), (6, 0), (6, d.toNat), (3, h.pred.toNat), (1, h.neg.toNat), (4, h.stall.toNat)] ++ [(8, 0x06)] from rfl]
  obtain ⟨e1, e2⟩ := nibbles [(12, 0x030), (24, 0), (6, 0), (6, d.toNat), (3, h.pred.toNat), (1, h.neg.toNat), (4, h.stall.toNat)] 0x06 0 6 (by simp only [fieldWidth]) rfl rfl
  rw [decodeRaw_hi0 _ _ e1, decHi0_6 _ _ _ e2]
  have u : unpackBits [12, 24, 6, 6, 3, 1, 4, 8] (packBits ([(12, 0x030), (24, 0), (6, 0), (6, d.toNat), (3, h.pred.toNat), (1, h.neg.toNat), (4, h.stall.toNat)] ++ [(8, 0x06)])) = [0x030, 0, 0, d.toNat, h.pred.toNat, h.neg.toNat, h.stall.toNat, 6] :=
    unpackBits_pack [(12, 0x030), (24, 0), (6, 0), (6, d.toNat), (3, h.pred.toNat), (1, h.neg.toNat), (4, h.stall.toNat), (8, 6)] ⟨by decide, by decide, by decide, d.isLt, h.pred.isLt, h.neg.isLt, h.stall.isLt, by decide, trivial⟩
  unfold decOp06
  rw [u]
  simp
theorem mtc (h : Hdr) (a : BitVec 6) (r : BitVec 12) : Statement (.mtc h a r) := by
  intro _ hw w1
  refine decode_of_raw (w1 := w1) (by show fieldWidth [(12, r.toNat), (24, 0), (6, a.toNat), (6, 0), (3, h.pred.toNat), (1, h.neg.toNat), (4, h.stall.toNat), (8, 7)] = 64; simp only [fieldWidth]) ?_ hw
  rw [show Instr.fields (.mtc h a r) = [(12, r.toNat), (24, 0), (6, a.toNat), (6, 0), (3, h.pred.toNat), (1, h.neg.toNat), (4, h.stall.toNat)] ++ [(8, 0x07)] from rfl]
  obtain ⟨e1, e2⟩ := nibbles [(12, r.toNat), (24, 0), (6, a.toNat), (6, 0), (3, h.pred.toNat), (1, h.neg.toNat), (4, h.stall.toNat)] 0x07 0 7 (by simp only [fieldWidth]) rfl rfl
  rw [decodeRaw_hi0 _ _ e1, decHi0_7 _ _ _ e2]
  have hw2 : mtcReg r = true := hw
  have n010 : r.toNat ≠ 0x010 := by intro hh; simp [mtcReg, hh] at hw2
  have n070 : r.toNat ≠ 0x070 := by intro hh; simp [mtcReg, hh] at hw2
  have n050 : r.toNat ≠ 0x050 := by intro hh; simp [mtcReg, hh] at hw2
  have n041 : r.toNat ≠ 0x041 := by intro hh; simp [mtcReg, hh] at hw2
  have n044 : r.toNat ≠ 0x044 := by intro hh; simp [mtcReg, hh] at hw2
  have n045 : r.toNat ≠ 0x045 := by intro hh; simp [mtcReg, hh] at hw2
  have u : unpackBits [12, 24, 6, 6, 3, 1, 4, 8] (packBits ([(12, r.toNat), (24, 0), (6, a.toNat), (6, 0), (3, h.pred.toNat), (1, h.neg.toNat), (4, h.stall.toNat)] ++ [(8, 0x07)])) = [r.toNat, 0, a.toNat, 0, h.pred.toNat, h.neg.toNat, h.stall.toNat, 7] :=
    unpackBits_pack [(12, r.toNat), (24, 0), (6, a.toNat), (6, 0), (3, h.pred.toNat), (1, h.neg.toNat), (4, h.stall.toNat), (8, 7)] ⟨r.isLt, by decide, a.isLt, by decide, h.pred.isLt, h.neg.isLt, h.stall.isLt, by decide, trivial⟩
  unfold decOp07
  rw [u]
  simp [n010, n070, n050, n041, n044, n045]
theorem mtcFpcsr (h : Hdr) (a : BitVec 6) : Statement (.mtcFpcsr h a) := by
  intro _ hw w1
  refine decode_of_raw (w1 := w1) (by show fieldWidth [(12, 0x010), (24, 0), (6, a.toNat), (6, 0), (3, h.pred.toNat), (1, h.neg.toNat), (4, h.stall.toNat), (8, 7)] = 64; simp only [fieldWidth]) ?_ hw
  rw [show Instr.fields (.mtcFpcsr h a) = [(12, 0x010), (24, 0), (6, a.toNat), (6, 0), (3, h.pred.toNat), (1, h.neg.toNat), (4, h.stall.toNat)] ++ [(8, 0x07)] from rfl]
  obtain ⟨e1, e2⟩ := nibbles [(12, 0x010), (24, 0), (6, a.toNat), (6, 0), (3, h.pred.toNat), (1, h.neg.toNat), (4, h.stall.toNat)] 0x07 0 7 (by simp only [fieldWidth]) rfl rfl
  rw [decodeRaw_hi0 _ _ e1, decHi0_7 _ _ _ e2]
  have u : unpackBits [12, 24, 6, 6, 3, 1, 4, 8] (packBits ([(12, 0x010), (24, 0), (6, a.toNat), (6, 0), (3, h.pred.toNat), (1, h.neg.toNat), (4, h.stall.toNat)] ++ [(8, 0x07)])) = [0x010, 0, a.toNat, 0, h.pred.toNat, h.neg.toNat, h.stall.toNat, 7] :=
    unpackBits_pack [(12, 0x010), (24, 0), (6, a.toNat), (6, 0), (3, h.pred.toNat), (1, h.neg.toNat), (4, h.stall.toNat), (8, 7)] ⟨by decide, by decide, a.isLt, by decide, h.pred.isLt, h.neg.isLt, h.stall.isLt, by decide, trivial⟩
  unfold decOp07
  rw [u]
  simp
theorem mtcTrapbase (h : Hdr) (a : BitVec 6) : Statement (.mtcTrapbase h a) := by
  intro _ hw w1
  refine decode_of_raw (w1 := w1) (by show fieldWidth [(12, 0x070), (24, 0), (6, a.toNat), (6, 0), (3, h.pred.toNat), (1, h.neg.toNat), (4, h.stall.toNat), (8, 7)] = 64; simp only [fieldWidth]) ?_ hw
  rw [show Instr.fields (.mtcTrapbase h a) = [(12, 0x070), (24, 0), (6, a.toNat), (6, 0), (3, h.pred.toNat), (1, h.neg.toNat), (4, h.stall.toNat)] ++ [(8, 0x07)] from rfl]
  obtain ⟨e1, e2⟩ := nibbles [(12, 0x070), (24, 0), (6, a.toNat), (6, 0), (3, h.pred.toNat), (1, h.neg.toNat), (4, h.stall.toNat)] 0x07 0 7 (by simp only [fieldWidth]) rfl rfl
  rw [decodeRaw_hi0 _ _ e1, decHi0_7 _ _ _ e2]
  have u : unpackBits [12, 24, 6, 6, 3, 1, 4, 8] (packBits ([(12, 0x070), (24, 0), (6, a.toNat), (6, 0), (3, h.pred.toNat), (1, h.neg.toNat), (4, h.stall.toNat)] ++ [(8, 0x07)])) = [0x070, 0, a.toNat, 0, h.pred.toNat, h.neg.toNat, h.stall.toNat, 7] :=
    unpackBits_pack [(12, 0x070), (24, 0), (6, a.toNat), (6, 0), (3, h.pred.toNat), (1, h.neg.toNat), (4, h.stall.toNat), (8, 7)] ⟨by decide, by decide, a.isLt, by decide, h.pred.isLt, h.neg.isLt, h.stall.isLt, by decide, trivial⟩
  unfold decOp07
  rw [u]
  simp
theorem mtcAlimit (h : Hdr) (a : BitVec 6) : Statement (.mtcAlimit h a) := by
  intro _ hw w1
  refine decode_of_raw (w1 := w1) (by show fieldWidth [(12, 0x050), (24, 0), (6, a.toNat), (6, 0), (3, h.pred.toNat), (1, h.neg.toNat), (4, h.stall.toNat), (8, 7)] = 64; simp only [fieldWidth]) ?_ hw
  rw [show Instr.fields (.mtcAlimit h a) = [(12, 0x050), (24, 0), (6, a.toNat), (6, 0), (3, h.pred.toNat), (1, h.neg.toNat), (4, h.stall.toNat)] ++ [(8, 0x07)] from rfl]
  obtain ⟨e1, e2⟩ := nibbles [(12, 0x050), (24, 0), (6, a.toNat), (6, 0), (3, h.pred.toNat), (1, h.neg.toNat), (4, h.stall.toNat)] 0x07 0 7 (by simp only [fieldWidth]) rfl rfl
  rw [decodeRaw_hi0 _ _ e1, decHi0_7 _ _ _ e2]
  have u : unpackBits [12, 24, 6, 6, 3, 1, 4, 8] (packBits ([(12, 0x050), (24, 0), (6, a.toNat), (6, 0), (3, h.pred.toNat), (1, h.neg.toNat), (4, h.stall.toNat)] ++ [(8, 0x07)])) = [0x050, 0, a.toNat, 0, h.pred.toNat, h.neg.toNat, h.stall.toNat, 7] :=
    unpackBits_pack [(12, 0x050), (24, 0), (6, a.toNat), (6, 0), (3, h.pred.toNat), (1, h.neg.toNat), (4, h.stall.toNat), (8, 7)] ⟨by decide, by decide, a.isLt, by decide, h.pred.isLt, h.neg.isLt, h.stall.isLt, by decide, trivial⟩
  unfold decOp07
  rw [u]
  simp
theorem mtcPriocur (h : Hdr) (a : BitVec 6) : Statement (.mtcPriocur h a) := by
  intro _ hw w1
  refine decode_of_raw (w1 := w1) (by show fieldWidth [(12, 0x041), (24, 0), (6, a.toNat), (6, 0), (3, h.pred.toNat), (1, h.neg.toNat), (4, h.stall.toNat), (8, 7)] = 64; simp only [fieldWidth]) ?_ hw
  rw [show Instr.fields (.mtcPriocur h a) = [(12, 0x041), (24, 0), (6, a.toNat), (6, 0), (3, h.pred.toNat), (1, h.neg.toNat), (4, h.stall.toNat)] ++ [(8, 0x07)] from rfl]
  obtain ⟨e1, e2⟩ := nibbles [(12, 0x041), (24, 0), (6, a.toNat), (6, 0), (3, h.pred.toNat), (1, h.neg.toNat), (4, h.stall.toNat)] 0x07 0 7 (by simp only [fieldWidth]) rfl rfl
  rw [decodeRaw_hi0 _ _ e1, decHi0_7 _ _ _ e2]
  have u : unpackBits [12, 24, 6, 6, 3, 1, 4, 8] (packBits ([(12, 0x041), (24, 0), (6, a.toNat), (6, 0), (3, h.pred.toNat), (1, h.neg.toNat), (4, h.stall.toNat)] ++ [(8, 0x07)])) = [0x041, 0, a.toNat, 0, h.pred.toNat, h.neg.toNat, h.stall.toNat, 7] :=
    unpackBits_pack [(12, 0x041), (24, 0), (6, a.toNat), (6, 0), (3, h.pred.toNat), (1, h.neg.toNat), (4, h.stall.toNat), (8, 7)] ⟨by decide, by decide, a.isLt, by decide, h.pred.isLt, h.neg.isLt, h.stall.isLt, by decide, trivial⟩
  unfold decOp07
  rw [u]
  simp
theorem mtcWatchdog (h : Hdr) (a : BitVec 6) (r : BitVec 1) : Statement (.mtcWatchdog h a r) := by
  intro _ hw w1
  refine decode_of_raw (w1 := w1) (by show fieldWidth [(12, 0x044 + r.toNat), (24, 0), (6, a.toNat), (6, 0), (3, h.pred.toNat), (1, h.neg.toNat), (4, h.stall.toNat), (8, 7)] = 64; simp only [fieldWidth]) ?_ hw
  rw [show Instr.fields (.mtcWatchdog h a r) = [(12, 0x044 + r.toNat), (24, 0), (6, a.toNat), (6, 0), (3, h.pred.toNat), (1, h.neg.toNat), (4, h.stall.toNat)] ++ [(8, 0x07)] from rfl]
  obtain ⟨e1, e2⟩ := nibbles [(12, 0x044 + r.toNat), (24, 0), (6, a.toNat), (6, 0), (3, h.pred.toNat), (1, h.neg.toNat), (4, h.stall.toNat)] 0x07 0 7 (by simp only [fieldWidth]) rfl rfl
  rw [decodeRaw_hi0 _ _ e1, decHi0_7 _ _ _ e2]
  have hr : r = 0 ∨ r = 1 := by
    have := r.isLt; have h3 : r.toNat = 0 ∨ r.toNat = 1 := by omega
    rcases h3 with h3 | h3
    · exact .inl (BitVec.eq_of_toNat_eq h3)
    · exact .inr (BitVec.eq_of_toNat_eq h3)
  have hb : 0x044 + r.toNat < 2 ^ 12 := by have := r.isLt; omega
  have u : unpackBits [12, 24, 6, 6, 3, 1, 4, 8] (packBits ([(12, 0x044 + r.toNat), (24, 0), (6, a.toNat), (6, 0), (3, h.pred.toNat), (1, h.neg.toNat), (4, h.stall.toNat)] ++ [(8, 0x07)])) = [0x044 + r.toNat, 0, a.toNat, 0, h.pred.toNat, h.neg.toNat, h.stall.toNat, 7] :=
    unpackBits_pack [(12, 0x044 + r.toNat), (24, 0), (6, a.toNat), (6, 0), (3, h.pred.toNat), (1, h.neg.toNat), (4, h.stall.toNat), (8, 7)] ⟨hb, by decide, a.isLt, by decide, h.pred.isLt, h.neg.isLt, h.stall.isLt, by decide, trivial⟩
  unfold decOp07
  rw [u]
  rcases hr with rfl | rfl <;> simp
theorem waite (h : Hdr) (d a b : BitVec 6) : Statement (.waite h d a b) := by
  intro _ hw w1
  refine decode_of_raw (w1 := w1) (by show fieldWidth [(30, 0), (6, b.toNat), (6, a.toNat), (6, d.toNat), (3, h.pred.toNat), (1, h.neg.toNat), (4, h.stall.toNat), (8, 8)] = 64; simp only [fieldWidth]) ?_ hw
  rw [show Instr.fields (.waite h d a b) = [(30, 0), (6, b.toNat), (6, a.toNat), (6, d.toNat), (3, h.pred.toNat), (1, h.neg.toNat), (4, h.stall.toNat)] ++ [(8, 0x08)] from rfl]
  obtain ⟨e1, e2⟩ := nibbles [(30, 0), (6, b.toNat), (6, a.toNat), (6, d.toNat), (3, h.pred.toNat), (1, h.neg.toNat), (4, h.stall.toNat)] 0x08 0 8 (by simp only [fieldWidth]) rfl rfl
  rw [decodeRaw_hi0 _ _ e1, decHi0_8 _ _ _ e2]
  have u : unpackBits [30, 6, 6, 6, 3, 1, 4, 8] (packBits ([(30, 0), (6, b.toNat), (6, a.toNat), (6, d.toNat), (3, h.pred.toNat), (1, h.neg.toNat), (4, h.stall.toNat)] ++ [(8, 0x08)])) = [0, b.toNat, a.toNat, d.toNat, h.pred.toNat, h.neg.toNat, h.stall.toNat, 8] :=
    unpackBits_pack [(30, 0), (6, b.toNat), (6, a.toNat), (6, d.toNat), (3, h.pred.toNat), (1, h.neg.toNat), (4, h.stall.toNat), (8, 8)] ⟨by decide, b.isLt, a.isLt, d.isLt, h.pred.isLt, h.neg.isLt, h.stall.isLt, by decide, trivial⟩
  unfold decOp08
  rw [u]
  show (some (Instr.waite ⟨BitVec.ofNat 4 h.stall.toNat, BitVec.ofNat 1 h.neg.toNat, BitVec.ofNat 3 h.pred.toNat⟩ (BitVec.ofNat 6 d.toNat) (BitVec.ofNat 6 a.toNat) (BitVec.ofNat 6 b.toNat))) = _
  simp only [BitVec.ofNat_toNat, BitVec.setWidth_eq]
theorem sev (h : Hdr) (sc : BitVec 3) : Statement (.sev h sc) := by
  intro _ hw w1
  refine decode_of_raw (w1 := w1) (by show fieldWidth [(24, 0), (3, sc.toNat), (21, 0), (3, h.pred.toNat), (1, h.neg.toNat), (4, h.stall.toNat), (8, 9)] = 64; simp only [fieldWidth]) ?_ hw
  rw [show Instr.fields (.sev h sc) = [(24, 0), (3, sc.toNat), (21, 0), (3, h.pred.toNat), (1, h.neg.toNat), (4, h.stall.toNat)] ++ [(8, 0x09)] from rfl]
  obtain ⟨e1, e2⟩ := nibbles [(24, 0), (3, sc.toNat), (21, 0), (3, h.pred.toNat), (1, h.neg.toNat), (4, h.stall.toNat)] 0x09 0 9 (by simp only [fieldWidth]) rfl rfl
  rw [decodeRaw_hi0 _ _ e1, decHi0_9 _ _ _ e2]
  have u : unpackBits [24, 3, 21, 3, 1, 4, 8] (packBits ([(24, 0), (3, sc.toNat), (21, 0), (3, h.pred.toNat), (1, h.neg.toNat), (4, h.stall.toNat)] ++ [(8, 0x09)])) = [0, sc.toNat, 0, h.pred.toNat, h.neg.toNat, h.stall.toNat, 9] :=
    unpackBits_pack [(24, 0), (3, sc.toNat), (21, 0), (3, h.pred.toNat), (1, h.neg.toNat), (4, h.stall.toNat), (8, 9)] ⟨by decide, sc.isLt, by decide, h.pred.isLt, h.neg.isLt, h.stall.isLt, by decide, trivial⟩
  unfold decOp09
  rw [u]
  show (some (Instr.sev ⟨BitVec.ofNat 4 h.stall.toNat, BitVec.ofNat 1 h.neg.toNat, BitVec.ofNat 3 h.pred.toNat⟩ (BitVec.ofNat 3 sc.toNat))) = _
  simp only [BitVec.ofNat_toNat, BitVec.setWidth_eq]
theorem waitm (h : Hdr) (a b : BitVec 6) : Statement (.waitm h a b) := by
  intro _ hw w1
  refine decode_of_raw (w1 := w1) (by show fieldWidth [(36, 0), (6, b.toNat), (6, a.toNat), (3, h.pred.toNat), (1, h.neg.toNat), (4, h.stall.toNat), (8, 0xa)] = 64; simp only [fieldWidth]) ?_ hw
  rw [show Instr.fields (.waitm h a b) = [(36, 0), (6, b.toNat), (6, a.toNat), (3, h.pred.toNat), (1, h.neg.toNat), (4, h.stall.toNat)] ++ [(8, 0x0A)] from rfl]
  obtain ⟨e1, e2⟩ := nibbles [(36, 0), (6, b.toNat), (6, a.toNat), (3, h.pred.toNat), (1, h.neg.toNat), (4, h.stall.toNat)] 0x0A 0 10 (by simp only [fieldWidth]) rfl rfl
  rw [decodeRaw_hi0 _ _ e1, decHi0_A _ _ _ e2]
  have u : unpackBits [36, 6, 6, 3, 1, 4, 8] (packBits ([(36, 0), (6, b.toNat), (6, a.toNat), (3, h.pred.toNat), (1, h.neg.toNat), (4, h.stall.toNat)] ++ [(8, 0x0A)])) = [0, b.toNat, a.toNat, h.pred.toNat, h.neg.toNat, h.stall.toNat, 10] :=
    unpackBits_pack [(36, 0), (6, b.toNat), (6, a.toNat), (3, h.pred.toNat), (1, h.neg.toNat), (4, h.stall.toNat), (8, 0xa)] ⟨by decide, b.isLt, a.isLt, h.pred.isLt, h.neg.isLt, h.stall.isLt, by decide, trivial⟩
  unfold decOp0A
  rw [u]
  show (some (Instr.waitm ⟨BitVec.ofNat 4 h.stall.toNat, BitVec.ofNat 1 h.neg.toNat, BitVec.ofNat 3 h.pred.toNat⟩ (BitVec.ofNat 6 a.toNat) (BitVec.ofNat 6 b.toNat))) = _
  simp only [BitVec.ofNat_toNat, BitVec.setWidth_eq]
theorem yield (h : Hdr) : Statement (.yield h) := by
  intro _ hw w1
  refine decode_of_raw (w1 := w1) (by show fieldWidth [(48, 0), (3, h.pred.toNat), (1, h.neg.toNat), (4, h.stall.toNat), (8, 0xb)] = 64; simp only [fieldWidth]) ?_ hw
  rw [show Instr.fields (.yield h) = [(48, 0), (3, h.pred.toNat), (1, h.neg.toNat), (4, h.stall.toNat)] ++ [(8, 0x0B)] from rfl]
  obtain ⟨e1, e2⟩ := nibbles [(48, 0), (3, h.pred.toNat), (1, h.neg.toNat), (4, h.stall.toNat)] 0x0B 0 11 (by simp only [fieldWidth]) rfl rfl
  rw [decodeRaw_hi0 _ _ e1, decHi0_B _ _ _ e2]
  have u : unpackBits [48, 3, 1, 4, 8] (packBits ([(48, 0), (3, h.pred.toNat), (1, h.neg.toNat), (4, h.stall.toNat)] ++ [(8, 0x0B)])) = [0, h.pred.toNat, h.neg.toNat, h.stall.toNat, 11] :=
    unpackBits_pack [(48, 0), (3, h.pred.toNat), (1, h.neg.toNat), (4, h.stall.toNat), (8, 0xb)] ⟨by decide, h.pred.isLt, h.neg.isLt, h.stall.isLt, by decide, trivial⟩
  unfold decOp0B
  rw [u]
  show (some (Instr.yield ⟨BitVec.ofNat 4 h.stall.toNat, BitVec.ofNat 1 h.neg.toNat, BitVec.ofNat 3 h.pred.toNat⟩)) = _
  simp only [BitVec.ofNat_toNat, BitVec.setWidth_eq]
theorem cacheIinv (h : Hdr) (base index : BitVec 6) (disp : BitVec 24) : Statement (.cacheIinv h base index disp) := by
  intro _ hw w1
  refine decode_of_raw (w1 := w1) (by show fieldWidth [(24, disp.toNat), (6, index.toNat), (6, 0), (6, base.toNat), (6, 0), (3, h.pred.toNat), (1, h.neg.toNat), (4, h.stall.toNat), (8, 0xc)] = 64; simp only [fieldWidth]) ?_ hw
  rw [show Instr.fields (.cacheIinv h base index disp) = [(24, disp.toNat), (6, index.toNat), (6, 0), (6, base.toNat), (6, 0), (3, h.pred.toNat), (1, h.neg.toNat), (4, h.stall.toNat)] ++ [(8, 0x0C)] from rfl]
  obtain ⟨e1, e2⟩ := nibbles [(24, disp.toNat), (6, index.toNat), (6, 0), (6, base.toNat), (6, 0), (3, h.pred.toNat), (1, h.neg.toNat), (4, h.stall.toNat)] 0x0C 0 12 (by simp only [fieldWidth]) rfl rfl
  rw [decodeRaw_hi0 _ _ e1, decHi0_C _ _ _ e2]
  have u : unpackBits [24, 6, 6, 6, 6, 3, 1, 4, 8] (packBits ([(24, disp.toNat), (6, index.toNat), (6, 0), (6, base.toNat), (6, 0), (3, h.pred.toNat), (1, h.neg.toNat), (4, h.stall.toNat)] ++ [(8, 0x0C)])) = [disp.toNat, index.toNat, 0, base.toNat, 0, h.pred.toNat, h.neg.toNat, h.stall.toNat, 12] :=
    unpackBits_pack [(24, disp.toNat), (6, index.toNat), (6, 0), (6, base.toNat), (6, 0), (3, h.pred.toNat), (1, h.neg.toNat), (4, h.stall.toNat), (8, 0xc)] ⟨disp.isLt, index.isLt, by decide, base.isLt, by decide, h.pred.isLt, h.neg.isLt, h.stall.isLt, by decide, trivial⟩
  unfold decOp0C
  rw [u]
  show (some (Instr.cacheIinv ⟨BitVec.ofNat 4 h.stall.toNat, BitVec.ofNat 1 h.neg.toNat, BitVec.ofNat 3 h.pred.toNat⟩ (BitVec.ofNat 6 base.toNat) (BitVec.ofNat 6 index.toNat) (BitVec.ofNat 24 disp.toNat))) = _
  simp only [BitVec.ofNat_toNat, BitVec.setWidth_eq]
theorem cacheClean (h : Hdr) (base index : BitVec 6) (disp : BitVec 24) : Statement (.cacheClean h base index disp) := by
  intro _ hw w1
  refine decode_of_raw (w1 := w1) (by show fieldWidth [(24, disp.toNat), (6, index.toNat), (6, 0), (6, base.toNat), (6, 1), (3, h.pred.toNat), (1, h.neg.toNat), (4, h.stall.toNat), (8, 0xc)] = 64; simp only [fieldWidth]) ?_ hw
  rw [show Instr.fields (.cacheClean h base index disp) = [(24, disp.toNat), (6, index.toNat), (6, 0), (6, base.toNat), (6, 1), (3, h.pred.toNat), (1, h.neg.toNat), (4, h.stall.toNat)] ++ [(8, 0x0C)] from rfl]
  obtain ⟨e1, e2⟩ := nibbles [(24, disp.toNat), (6, index.toNat), (6, 0), (6, base.toNat), (6, 1), (3, h.pred.toNat), (1, h.neg.toNat), (4, h.stall.toNat)] 0x0C 0 12 (by simp only [fieldWidth]) rfl rfl
  rw [decodeRaw_hi0 _ _ e1, decHi0_C _ _ _ e2]
  have u : unpackBits [24, 6, 6, 6, 6, 3, 1, 4, 8] (packBits ([(24, disp.toNat), (6, index.toNat), (6, 0), (6, base.toNat), (6, 1), (3, h.pred.toNat), (1, h.neg.toNat), (4, h.stall.toNat)] ++ [(8, 0x0C)])) = [disp.toNat, index.toNat, 0, base.toNat, 1, h.pred.toNat, h.neg.toNat, h.stall.toNat, 12] :=
    unpackBits_pack [(24, disp.toNat), (6, index.toNat), (6, 0), (6, base.toNat), (6, 1), (3, h.pred.toNat), (1, h.neg.toNat), (4, h.stall.toNat), (8, 0xc)] ⟨disp.isLt, index.isLt, by decide, base.isLt, by decide, h.pred.isLt, h.neg.isLt, h.stall.isLt, by decide, trivial⟩
  unfold decOp0C
  rw [u]
  show (some (Instr.cacheClean ⟨BitVec.ofNat 4 h.stall.toNat, BitVec.ofNat 1 h.neg.toNat, BitVec.ofNat 3 h.pred.toNat⟩ (BitVec.ofNat 6 base.toNat) (BitVec.ofNat 6 index.toNat) (BitVec.ofNat 24 disp.toNat))) = _
  simp only [BitVec.ofNat_toNat, BitVec.setWidth_eq]
theorem cacheClinv (h : Hdr) (base index : BitVec 6) (disp : BitVec 24) : Statement (.cacheClinv h base index disp) := by
  intro _ hw w1
  refine decode_of_raw (w1 := w1) (by show fieldWidth [(24, disp.toNat), (6, index.toNat), (6, 0), (6, base.toNat), (6, 2), (3, h.pred.toNat), (1, h.neg.toNat), (4, h.stall.toNat), (8, 0xc)] = 64; simp only [fieldWidth]) ?_ hw
  rw [show Instr.fields (.cacheClinv h base index disp) = [(24, disp.toNat), (6, index.toNat), (6, 0), (6, base.toNat), (6, 2), (3, h.pred.toNat), (1, h.neg.toNat), (4, h.stall.toNat)] ++ [(8, 0x0C)] from rfl]
  obtain ⟨e1, e2⟩ := nibbles [(24, disp.toNat), (6, index.toNat), (6, 0), (6, base.toNat), (6, 2), (3, h.pred.toNat), (1, h.neg.toNat), (4, h.stall.toNat)] 0x0C 0 12 (by simp only [fieldWidth]) rfl rfl
  rw [decodeRaw_hi0 _ _ e1, decHi0_C _ _ _ e2]
  have u : unpackBits [24, 6, 6, 6, 6, 3, 1, 4, 8] (packBits ([(24, disp.toNat), (6, index.toNat), (6, 0), (6, base.toNat), (6, 2), (3, h.pred.toNat), (1, h.neg.toNat), (4, h.stall.toNat)] ++ [(8, 0x0C)])) = [disp.toNat, index.toNat, 0, base.toNat, 2, h.pred.toNat, h.neg.toNat, h.stall.toNat, 12] :=
    unpackBits_pack [(24, disp.toNat), (6, index.toNat), (6, 0), (6, base.toNat), (6, 2), (3, h.pred.toNat), (1, h.neg.toNat), (4, h.stall.toNat), (8, 0xc)] ⟨disp.isLt, index.isLt, by decide, base.isLt, by decide, h.pred.isLt, h.neg.isLt, h.stall.isLt, by decide, trivial⟩
  unfold decOp0C
  rw [u]
  show (some (Instr.cacheClinv ⟨BitVec.ofNat 4 h.stall.toNat, BitVec.ofNat 1 h.neg.toNat, BitVec.ofNat 3 h.pred.toNat⟩ (BitVec.ofNat 6 base.toNat) (BitVec.ofNat 6 index.toNat) (BitVec.ofNat 24 disp.toNat))) = _
  simp only [BitVec.ofNat_toNat, BitVec.setWidth_eq]
theorem cacheInv (h : Hdr) (base index : BitVec 6) (disp : BitVec 24) : Statement (.cacheInv h base index disp) := by
  intro _ hw w1
  refine decode_of_raw (w1 := w1) (by show fieldWidth [(24, disp.toNat), (6, index.toNat), (6, 0), (6, base.toNat), (6, 3), (3, h.pred.toNat), (1, h.neg.toNat), (4, h.stall.toNat), (8, 0xc)] = 64; simp only [fieldWidth]) ?_ hw
  rw [show Instr.fields (.cacheInv h base index disp) = [(24, disp.toNat), (6, index.toNat), (6, 0), (6, base.toNat), (6, 3), (3, h.pred.toNat), (1, h.neg.toNat), (4, h.stall.toNat)] ++ [(8, 0x0C)] from rfl]
  obtain ⟨e1, e2⟩ := nibbles [(24, disp.toNat), (6, index.toNat), (6, 0), (6, base.toNat), (6, 3), (3, h.pred.toNat), (1, h.neg.toNat), (4, h.stall.toNat)] 0x0C 0 12 (by simp only [fieldWidth]) rfl rfl
  rw [decodeRaw_hi0 _ _ e1, decHi0_C _ _ _ e2]
  have u : unpackBits [24, 6, 6, 6, 6, 3, 1, 4, 8] (packBits ([(24, disp.toNat), (6, index.toNat), (6, 0), (6, base.toNat), (6, 3), (3, h.pred.toNat), (1, h.neg.toNat), (4, h.stall.toNat)] ++ [(8, 0x0C)])) = [disp.toNat, index.toNat, 0, base.toNat, 3, h.pred.toNat, h.neg.toNat, h.stall.toNat, 12] :=
    unpackBits_pack [(24, disp.toNat), (6, index.toNat), (6, 0), (6, base.toNat), (6, 3), (3, h.pred.toNat), (1, h.neg.toNat), (4, h.stall.toNat), (8, 0xc)] ⟨disp.isLt, index.isLt, by decide, base.isLt, by decide, h.pred.isLt, h.neg.isLt, h.stall.isLt, by decide, trivial⟩
  unfold decOp0C
  rw [u]
  show (some (Instr.cacheInv ⟨BitVec.ofNat 4 h.stall.toNat, BitVec.ofNat 1 h.neg.toNat, BitVec.ofNat 3 h.pred.toNat⟩ (BitVec.ofNat 6 base.toNat) (BitVec.ofNat 6 index.toNat) (BitVec.ofNat 24 disp.toNat))) = _
  simp only [BitVec.ofNat_toNat, BitVec.setWidth_eq]
theorem cacheZero (h : Hdr) (base index : BitVec 6) (disp : BitVec 24) : Statement (.cacheZero h base index disp) := by
  intro _ hw w1
  refine decode_of_raw (w1 := w1) (by show fieldWidth [(24, disp.toNat), (6, index.toNat), (6, 0), (6, base.toNat), (6, 4), (3, h.pred.toNat), (1, h.neg.toNat), (4, h.stall.toNat), (8, 0xc)] = 64; simp only [fieldWidth]) ?_ hw
  rw [show Instr.fields (.cacheZero h base index disp) = [(24, disp.toNat), (6, index.toNat), (6, 0), (6, base.toNat), (6, 4), (3, h.pred.toNat), (1, h.neg.toNat), (4, h.stall.toNat)] ++ [(8, 0x0C)] from rfl]
  obtain ⟨e1, e2⟩ := nibbles [(24, disp.toNat), (6, index.toNat), (6, 0), (6, base.toNat), (6, 4), (3, h.pred.toNat), (1, h.neg.toNat), (4, h.stall.toNat)] 0x0C 0 12 (by simp only [fieldWidth]) rfl rfl
  rw [decodeRaw_hi0 _ _ e1, decHi0_C _ _ _ e2]
  have u : unpackBits [24, 6, 6, 6, 6, 3, 1, 4, 8] (packBits ([(24, disp.toNat), (6, index.toNat), (6, 0), (6, base.toNat), (6, 4), (3, h.pred.toNat), (1, h.neg.toNat), (4, h.stall.toNat)] ++ [(8, 0x0C)])) = [disp.toNat, index.toNat, 0, base.toNat, 4, h.pred.toNat, h.neg.toNat, h.stall.toNat, 12] :=
    unpackBits_pack [(24, disp.toNat), (6, index.toNat), (6, 0), (6, base.toNat), (6, 4), (3, h.pred.toNat), (1, h.neg.toNat), (4, h.stall.toNat), (8, 0xc)] ⟨disp.isLt, index.isLt, by decide, base.isLt, by decide, h.pred.isLt, h.neg.isLt, h.stall.isLt, by decide, trivial⟩
  unfold decOp0C
  rw [u]
  show (some (Instr.cacheZero ⟨BitVec.ofNat 4 h.stall.toNat, BitVec.ofNat 1 h.neg.toNat, BitVec.ofNat 3 h.pred.toNat⟩ (BitVec.ofNat 6 base.toNat) (BitVec.ofNat 6 index.toNat) (BitVec.ofNat 24 disp.toNat))) = _
  simp only [BitVec.ofNat_toNat, BitVec.setWidth_eq]
theorem cacheIinvall (h : Hdr) : Statement (.cacheIinvall h) := by
  intro _ hw w1
  refine decode_of_raw (w1 := w1) (by show fieldWidth [(24, 0), (6, 0), (6, 0), (6, 0), (6, 5), (3, h.pred.toNat), (1, h.neg.toNat), (4, h.stall.toNat), (8, 0xc)] = 64; simp only [fieldWidth]) ?_ hw
  rw [show Instr.fields (.cacheIinvall h) = [(24, 0), (6, 0), (6, 0), (6, 0), (6, 5), (3, h.pred.toNat), (1, h.neg.toNat), (4, h.stall.toNat)] ++ [(8, 0x0C)] from rfl]
  obtain ⟨e1, e2⟩ := nibbles [(24, 0), (6, 0), (6, 0), (6, 0), (6, 5), (3, h.pred.toNat), (1, h.neg.toNat), (4, h.stall.toNat)] 0x0C 0 12 (by simp only [fieldWidth]) rfl rfl
  rw [decodeRaw_hi0 _ _ e1, decHi0_C _ _ _ e2]
  have u : unpackBits [24, 6, 6, 6, 6, 3, 1, 4, 8] (packBits ([(24, 0), (6, 0), (6, 0), (6, 0), (6, 5), (3, h.pred.toNat), (1, h.neg.toNat), (4, h.stall.toNat)] ++ [(8, 0x0C)])) = [0, 0, 0, 0, 5, h.pred.toNat, h.neg.toNat, h.stall.toNat, 12] :=
    unpackBits_pack [(24, 0), (6, 0), (6, 0), (6, 0), (6, 5), (3, h.pred.toNat), (1, h.neg.toNat), (4, h.stall.toNat), (8, 0xc)] ⟨by decide, by decide, by decide, by decide, by decide, h.pred.isLt, h.neg.isLt, h.stall.isLt, by decide, trivial⟩
  unfold decOp0C
  rw [u]
  show (some (Instr.cacheIinvall ⟨BitVec.ofNat 4 h.stall.toNat, BitVec.ofNat 1 h.neg.toNat, BitVec.ofNat 3 h.pred.toNat⟩)) = _
  simp only [BitVec.ofNat_toNat, BitVec.setWidth_eq]
theorem tlbiAll (h : Hdr) : Statement (.tlbiAll h) := by
  intro _ hw w1
  refine decode_of_raw (w1 := w1) (by show fieldWidth [(36, 0), (6, 0), (6, 0), (3, h.pred.toNat), (1, h.neg.toNat), (4, h.stall.toNat), (8, 0xd)] = 64; simp only [fieldWidth]) ?_ hw
  rw [show Instr.fields (.tlbiAll h) = [(36, 0), (6, 0), (6, 0), (3, h.pred.toNat), (1, h.neg.toNat), (4, h.stall.toNat)] ++ [(8, 0x0D)] from rfl]
  obtain ⟨e1, e2⟩ := nibbles [(36, 0), (6, 0), (6, 0), (3, h.pred.toNat), (1, h.neg.toNat), (4, h.stall.toNat)] 0x0D 0 13 (by simp only [fieldWidth]) rfl rfl
  rw [decodeRaw_hi0 _ _ e1, decHi0_D _ _ _ e2]
  have u : unpackBits [36, 6, 6, 3, 1, 4, 8] (packBits ([(36, 0), (6, 0), (6, 0), (3, h.pred.toNat), (1, h.neg.toNat), (4, h.stall.toNat)] ++ [(8, 0x0D)])) = [0, 0, 0, h.pred.toNat, h.neg.toNat, h.stall.toNat, 13] :=
    unpackBits_pack [(36, 0), (6, 0), (6, 0), (3, h.pred.toNat), (1, h.neg.toNat), (4, h.stall.toNat), (8, 0xd)] ⟨by decide, by decide, by decide, h.pred.isLt, h.neg.isLt, h.stall.isLt, by decide, trivial⟩
  unfold decOp0D
  rw [u]
  show (some (Instr.tlbiAll ⟨BitVec.ofNat 4 h.stall.toNat, BitVec.ofNat 1 h.neg.toNat, BitVec.ofNat 3 h.pred.toNat⟩)) = _
  simp only [BitVec.ofNat_toNat, BitVec.setWidth_eq]
theorem tlbiCtx (h : Hdr) (b : BitVec 6) : Statement (.tlbiCtx h b) := by
  intro _ hw w1
  refine decode_of_raw (w1 := w1) (by show fieldWidth [(36, 16777216), (6, b.toNat), (6, 0), (3, h.pred.toNat), (1, h.neg.toNat), (4, h.stall.toNat), (8, 0xd)] = 64; simp only [fieldWidth]) ?_ hw
  rw [show Instr.fields (.tlbiCtx h b) = [(36, 16777216), (6, b.toNat), (6, 0), (3, h.pred.toNat), (1, h.neg.toNat), (4, h.stall.toNat)] ++ [(8, 0x0D)] from rfl]
  obtain ⟨e1, e2⟩ := nibbles [(36, 16777216), (6, b.toNat), (6, 0), (3, h.pred.toNat), (1, h.neg.toNat), (4, h.stall.toNat)] 0x0D 0 13 (by simp only [fieldWidth]) rfl rfl
  rw [decodeRaw_hi0 _ _ e1, decHi0_D _ _ _ e2]
  have u : unpackBits [36, 6, 6, 3, 1, 4, 8] (packBits ([(36, 16777216), (6, b.toNat), (6, 0), (3, h.pred.toNat), (1, h.neg.toNat), (4, h.stall.toNat)] ++ [(8, 0x0D)])) = [16777216, b.toNat, 0, h.pred.toNat, h.neg.toNat, h.stall.toNat, 13] :=
    unpackBits_pack [(36, 16777216), (6, b.toNat), (6, 0), (3, h.pred.toNat), (1, h.neg.toNat), (4, h.stall.toNat), (8, 0xd)] ⟨by decide, b.isLt, by decide, h.pred.isLt, h.neg.isLt, h.stall.isLt, by decide, trivial⟩
  unfold decOp0D
  rw [u]
  show (some (Instr.tlbiCtx ⟨BitVec.ofNat 4 h.stall.toNat, BitVec.ofNat 1 h.neg.toNat, BitVec.ofNat 3 h.pred.toNat⟩ (BitVec.ofNat 6 b.toNat))) = _
  simp only [BitVec.ofNat_toNat, BitVec.setWidth_eq]
theorem tlbiVa (h : Hdr) (a b : BitVec 6) : Statement (.tlbiVa h a b) := by
  intro _ hw w1
  refine decode_of_raw (w1 := w1) (by show fieldWidth [(36, 33554432), (6, b.toNat), (6, a.toNat), (3, h.pred.toNat), (1, h.neg.toNat), (4, h.stall.toNat), (8, 0xd)] = 64; simp only [fieldWidth]) ?_ hw
  rw [show Instr.fields (.tlbiVa h a b) = [(36, 33554432), (6, b.toNat), (6, a.toNat), (3, h.pred.toNat), (1, h.neg.toNat), (4, h.stall.toNat)] ++ [(8, 0x0D)] from rfl]
  obtain ⟨e1, e2⟩ := nibbles [(36, 33554432), (6, b.toNat), (6, a.toNat), (3, h.pred.toNat), (1, h.neg.toNat), (4, h.stall.toNat)] 0x0D 0 13 (by simp only [fieldWidth]) rfl rfl
  rw [decodeRaw_hi0 _ _ e1, decHi0_D _ _ _ e2]
  have u : unpackBits [36, 6, 6, 3, 1, 4, 8] (packBits ([(36, 33554432), (6, b.toNat), (6, a.toNat), (3, h.pred.toNat), (1, h.neg.toNat), (4, h.stall.toNat)] ++ [(8, 0x0D)])) = [33554432, b.toNat, a.toNat, h.pred.toNat, h.neg.toNat, h.stall.toNat, 13] :=
    unpackBits_pack [(36, 33554432), (6, b.toNat), (6, a.toNat), (3, h.pred.toNat), (1, h.neg.toNat), (4, h.stall.toNat), (8, 0xd)] ⟨by decide, b.isLt, a.isLt, h.pred.isLt, h.neg.isLt, h.stall.isLt, by decide, trivial⟩
  unfold decOp0D
  rw [u]
  show (some (Instr.tlbiVa ⟨BitVec.ofNat 4 h.stall.toNat, BitVec.ofNat 1 h.neg.toNat, BitVec.ofNat 3 h.pred.toNat⟩ (BitVec.ofNat 6 a.toNat) (BitVec.ofNat 6 b.toNat))) = _
  simp only [BitVec.ofNat_toNat, BitVec.setWidth_eq]
theorem tlbiVaall (h : Hdr) (a : BitVec 6) : Statement (.tlbiVaall h a) := by
  intro _ hw w1
  refine decode_of_raw (w1 := w1) (by show fieldWidth [(36, 50331648), (6, 0), (6, a.toNat), (3, h.pred.toNat), (1, h.neg.toNat), (4, h.stall.toNat), (8, 0xd)] = 64; simp only [fieldWidth]) ?_ hw
  rw [show Instr.fields (.tlbiVaall h a) = [(36, 50331648), (6, 0), (6, a.toNat), (3, h.pred.toNat), (1, h.neg.toNat), (4, h.stall.toNat)] ++ [(8, 0x0D)] from rfl]
  obtain ⟨e1, e2⟩ := nibbles [(36, 50331648), (6, 0), (6, a.toNat), (3, h.pred.toNat), (1, h.neg.toNat), (4, h.stall.toNat)] 0x0D 0 13 (by simp only [fieldWidth]) rfl rfl
  rw [decodeRaw_hi0 _ _ e1, decHi0_D _ _ _ e2]
  have u : unpackBits [36, 6, 6, 3, 1, 4, 8] (packBits ([(36, 50331648), (6, 0), (6, a.toNat), (3, h.pred.toNat), (1, h.neg.toNat), (4, h.stall.toNat)] ++ [(8, 0x0D)])) = [50331648, 0, a.toNat, h.pred.toNat, h.neg.toNat, h.stall.toNat, 13] :=
    unpackBits_pack [(36, 50331648), (6, 0), (6, a.toNat), (3, h.pred.toNat), (1, h.neg.toNat), (4, h.stall.toNat), (8, 0xd)] ⟨by decide, by decide, a.isLt, h.pred.isLt, h.neg.isLt, h.stall.isLt, by decide, trivial⟩
  unfold decOp0D
  rw [u]
  show (some (Instr.tlbiVaall ⟨BitVec.ofNat 4 h.stall.toNat, BitVec.ofNat 1 h.neg.toNat, BitVec.ofNat 3 h.pred.toNat⟩ (BitVec.ofNat 6 a.toNat))) = _
  simp only [BitVec.ofNat_toNat, BitVec.setWidth_eq]
theorem wdogSet (h : Hdr) (a b c : BitVec 6) : Statement (.wdogSet h a b c) := by
  intro _ hw w1
  refine decode_of_raw (w1 := w1) (by show fieldWidth [(30, 0), (6, c.toNat), (6, b.toNat), (6, a.toNat), (3, h.pred.toNat), (1, h.neg.toNat), (4, h.stall.toNat), (8, 0xe)] = 64; simp only [fieldWidth]) ?_ hw
  rw [show Instr.fields (.wdogSet h a b c) = [(30, 0), (6, c.toNat), (6, b.toNat), (6, a.toNat), (3, h.pred.toNat), (1, h.neg.toNat), (4, h.stall.toNat)] ++ [(8, 0x0E)] from rfl]
  obtain ⟨e1, e2⟩ := nibbles [(30, 0), (6, c.toNat), (6, b.toNat), (6, a.toNat), (3, h.pred.toNat), (1, h.neg.toNat), (4, h.stall.toNat)] 0x0E 0 14 (by simp only [fieldWidth]) rfl rfl
  rw [decodeRaw_hi0 _ _ e1, decHi0_E _ _ _ e2]
  have u : unpackBits [30, 6, 6, 6, 3, 1, 4, 8] (packBits ([(30, 0), (6, c.toNat), (6, b.toNat), (6, a.toNat), (3, h.pred.toNat), (1, h.neg.toNat), (4, h.stall.toNat)] ++ [(8, 0x0E)])) = [0, c.toNat, b.toNat, a.toNat, h.pred.toNat, h.neg.toNat, h.stall.toNat, 14] :=
    unpackBits_pack [(30, 0), (6, c.toNat), (6, b.toNat), (6, a.toNat), (3, h.pred.toNat), (1, h.neg.toNat), (4, h.stall.toNat), (8, 0xe)] ⟨by decide, c.isLt, b.isLt, a.isLt, h.pred.isLt, h.neg.isLt, h.stall.isLt, by decide, trivial⟩
  unfold decOp0E
  rw [u]
  show (some (Instr.wdogSet ⟨BitVec.ofNat 4 h.stall.toNat, BitVec.ofNat 1 h.neg.toNat, BitVec.ofNat 3 h.pred.toNat⟩ (BitVec.ofNat 6 a.toNat) (BitVec.ofNat 6 b.toNat) (BitVec.ofNat 6 c.toNat))) = _
  simp only [BitVec.ofNat_toNat, BitVec.setWidth_eq]
theorem wdogClr (h : Hdr) (a b : BitVec 6) : Statement (.wdogClr h a b) := by
  intro _ hw w1
  refine decode_of_raw (w1 := w1) (by show fieldWidth [(30, 16777216), (6, 0), (6, b.toNat), (6, a.toNat), (3, h.pred.toNat), (1, h.neg.toNat), (4, h.stall.toNat), (8, 0xe)] = 64; simp only [fieldWidth]) ?_ hw
  rw [show Instr.fields (.wdogClr h a b) = [(30, 16777216), (6, 0), (6, b.toNat), (6, a.toNat), (3, h.pred.toNat), (1, h.neg.toNat), (4, h.stall.toNat)] ++ [(8, 0x0E)] from rfl]
  obtain ⟨e1, e2⟩ := nibbles [(30, 16777216), (6, 0), (6, b.toNat), (6, a.toNat), (3, h.pred.toNat), (1, h.neg.toNat), (4, h.stall.toNat)] 0x0E 0 14 (by simp only [fieldWidth]) rfl rfl
  rw [decodeRaw_hi0 _ _ e1, decHi0_E _ _ _ e2]
  have u : unpackBits [30, 6, 6, 6, 3, 1, 4, 8] (packBits ([(30, 16777216), (6, 0), (6, b.toNat), (6, a.toNat), (3, h.pred.toNat), (1, h.neg.toNat), (4, h.stall.toNat)] ++ [(8, 0x0E)])) = [16777216, 0, b.toNat, a.toNat, h.pred.toNat, h.neg.toNat, h.stall.toNat, 14] :=
    unpackBits_pack [(30, 16777216), (6, 0), (6, b.toNat), (6, a.toNat), (3, h.pred.toNat), (1, h.neg.toNat), (4, h.stall.toNat), (8, 0xe)] ⟨by decide, by decide, b.isLt, a.isLt, h.pred.isLt, h.neg.isLt, h.stall.isLt, by decide, trivial⟩
  unfold decOp0E
  rw [u]
  show (some (Instr.wdogClr ⟨BitVec.ofNat 4 h.stall.toNat, BitVec.ofNat 1 h.neg.toNat, BitVec.ofNat 3 h.pred.toNat⟩ (BitVec.ofNat 6 a.toNat) (BitVec.ofNat 6 b.toNat))) = _
  simp only [BitVec.ofNat_toNat, BitVec.setWidth_eq]
theorem wdogRead (h : Hdr) (a b : BitVec 6) : Statement (.wdogRead h a b) := by
  intro _ hw w1
  refine decode_of_raw (w1 := w1) (by show fieldWidth [(30, 33554432), (6, 0), (6, b.toNat), (6, a.toNat), (3, h.pred.toNat), (1, h.neg.toNat), (4, h.stall.toNat), (8, 0xe)] = 64; simp only [fieldWidth]) ?_ hw
  rw [show Instr.fields (.wdogRead h a b) = [(30, 33554432), (6, 0), (6, b.toNat), (6, a.toNat), (3, h.pred.toNat), (1, h.neg.toNat), (4, h.stall.toNat)] ++ [(8, 0x0E)] from rfl]
  obtain ⟨e1, e2⟩ := nibbles [(30, 33554432), (6, 0), (6, b.toNat), (6, a.toNat), (3, h.pred.toNat), (1, h.neg.toNat), (4, h.stall.toNat)] 0x0E 0 14 (by simp only [fieldWidth]) rfl rfl
  rw [decodeRaw_hi0 _ _ e1, decHi0_E _ _ _ e2]
  have u : unpackBits [30, 6, 6, 6, 3, 1, 4, 8] (packBits ([(30, 33554432), (6, 0), (6, b.toNat), (6, a.toNat), (3, h.pred.toNat), (1, h.neg.toNat), (4, h.stall.toNat)] ++ [(8, 0x0E)])) = [33554432, 0, b.toNat, a.toNat, h.pred.toNat, h.neg.toNat, h.stall.toNat, 14] :=
    unpackBits_pack [(30, 33554432), (6, 0), (6, b.toNat), (6, a.toNat), (3, h.pred.toNat), (1, h.neg.toNat), (4, h.stall.toNat), (8, 0xe)] ⟨by decide, by decide, b.isLt, a.isLt, h.pred.isLt, h.neg.isLt, h.stall.isLt, by decide, trivial⟩
  unfold decOp0E
  rw [u]
  show (some (Instr.wdogRead ⟨BitVec.ofNat 4 h.stall.toNat, BitVec.ofNat 1 h.neg.toNat, BitVec.ofNat 3 h.pred.toNat⟩ (BitVec.ofNat 6 a.toNat) (BitVec.ofNat 6 b.toNat))) = _
  simp only [BitVec.ofNat_toNat, BitVec.setWidth_eq]
theorem errinjCorr (h : Hdr) (a b : BitVec 6) : Statement (.errinjCorr h a b) := by
  intro _ hw w1
  refine decode_of_raw (w1 := w1) (by show fieldWidth [(30, 0), (6, 0), (6, b.toNat), (6, a.toNat), (3, h.pred.toNat), (1, h.neg.toNat), (4, h.stall.toNat), (8, 0xf)] = 64; simp only [fieldWidth]) ?_ hw
  rw [show Instr.fields (.errinjCorr h a b) = [(30, 0), (6, 0), (6, b.toNat), (6, a.toNat), (3, h.pred.toNat), (1, h.neg.toNat), (4, h.stall.toNat)] ++ [(8, 0x0F)] from rfl]
  obtain ⟨e1, e2⟩ := nibbles [(30, 0), (6, 0), (6, b.toNat), (6, a.toNat), (3, h.pred.toNat), (1, h.neg.toNat), (4, h.stall.toNat)] 0x0F 0 15 (by simp only [fieldWidth]) rfl rfl
  rw [decodeRaw_hi0 _ _ e1, decHi0_F _ _ _ e2]
  have u : unpackBits [30, 6, 6, 6, 3, 1, 4, 8] (packBits ([(30, 0), (6, 0), (6, b.toNat), (6, a.toNat), (3, h.pred.toNat), (1, h.neg.toNat), (4, h.stall.toNat)] ++ [(8, 0x0F)])) = [0, 0, b.toNat, a.toNat, h.pred.toNat, h.neg.toNat, h.stall.toNat, 15] :=
    unpackBits_pack [(30, 0), (6, 0), (6, b.toNat), (6, a.toNat), (3, h.pred.toNat), (1, h.neg.toNat), (4, h.stall.toNat), (8, 0xf)] ⟨by decide, by decide, b.isLt, a.isLt, h.pred.isLt, h.neg.isLt, h.stall.isLt, by decide, trivial⟩
  unfold decOp0F
  rw [u]
  show (some (Instr.errinjCorr ⟨BitVec.ofNat 4 h.stall.toNat, BitVec.ofNat 1 h.neg.toNat, BitVec.ofNat 3 h.pred.toNat⟩ (BitVec.ofNat 6 a.toNat) (BitVec.ofNat 6 b.toNat))) = _
  simp only [BitVec.ofNat_toNat, BitVec.setWidth_eq]
theorem errinjDet (h : Hdr) (a b : BitVec 6) : Statement (.errinjDet h a b) := by
  intro _ hw w1
  refine decode_of_raw (w1 := w1) (by show fieldWidth [(30, 16777216), (6, 0), (6, b.toNat), (6, a.toNat), (3, h.pred.toNat), (1, h.neg.toNat), (4, h.stall.toNat), (8, 0xf)] = 64; simp only [fieldWidth]) ?_ hw
  rw [show Instr.fields (.errinjDet h a b) = [(30, 16777216), (6, 0), (6, b.toNat), (6, a.toNat), (3, h.pred.toNat), (1, h.neg.toNat), (4, h.stall.toNat)] ++ [(8, 0x0F)] from rfl]
  obtain ⟨e1, e2⟩ := nibbles [(30, 16777216), (6, 0), (6, b.toNat), (6, a.toNat), (3, h.pred.toNat), (1, h.neg.toNat), (4, h.stall.toNat)] 0x0F 0 15 (by simp only [fieldWidth]) rfl rfl
  rw [decodeRaw_hi0 _ _ e1, decHi0_F _ _ _ e2]
  have u : unpackBits [30, 6, 6, 6, 3, 1, 4, 8] (packBits ([(30, 16777216), (6, 0), (6, b.toNat), (6, a.toNat), (3, h.pred.toNat), (1, h.neg.toNat), (4, h.stall.toNat)] ++ [(8, 0x0F)])) = [16777216, 0, b.toNat, a.toNat, h.pred.toNat, h.neg.toNat, h.stall.toNat, 15] :=
    unpackBits_pack [(30, 16777216), (6, 0), (6, b.toNat), (6, a.toNat), (3, h.pred.toNat), (1, h.neg.toNat), (4, h.stall.toNat), (8, 0xf)] ⟨by decide, by decide, b.isLt, a.isLt, h.pred.isLt, h.neg.isLt, h.stall.isLt, by decide, trivial⟩
  unfold decOp0F
  rw [u]
  show (some (Instr.errinjDet ⟨BitVec.ofNat 4 h.stall.toNat, BitVec.ofNat 1 h.neg.toNat, BitVec.ofNat 3 h.pred.toNat⟩ (BitVec.ofNat 6 a.toNat) (BitVec.ofNat 6 b.toNat))) = _
  simp only [BitVec.ofNat_toNat, BitVec.setWidth_eq]
theorem errinjArr (h : Hdr) (a b c : BitVec 6) : Statement (.errinjArr h a b c) := by
  intro _ hw w1
  refine decode_of_raw (w1 := w1) (by show fieldWidth [(30, 33554432), (6, c.toNat), (6, b.toNat), (6, a.toNat), (3, h.pred.toNat), (1, h.neg.toNat), (4, h.stall.toNat), (8, 0xf)] = 64; simp only [fieldWidth]) ?_ hw
  rw [show Instr.fields (.errinjArr h a b c) = [(30, 33554432), (6, c.toNat), (6, b.toNat), (6, a.toNat), (3, h.pred.toNat), (1, h.neg.toNat), (4, h.stall.toNat)] ++ [(8, 0x0F)] from rfl]
  obtain ⟨e1, e2⟩ := nibbles [(30, 33554432), (6, c.toNat), (6, b.toNat), (6, a.toNat), (3, h.pred.toNat), (1, h.neg.toNat), (4, h.stall.toNat)] 0x0F 0 15 (by simp only [fieldWidth]) rfl rfl
  rw [decodeRaw_hi0 _ _ e1, decHi0_F _ _ _ e2]
  have u : unpackBits [30, 6, 6, 6, 3, 1, 4, 8] (packBits ([(30, 33554432), (6, c.toNat), (6, b.toNat), (6, a.toNat), (3, h.pred.toNat), (1, h.neg.toNat), (4, h.stall.toNat)] ++ [(8, 0x0F)])) = [33554432, c.toNat, b.toNat, a.toNat, h.pred.toNat, h.neg.toNat, h.stall.toNat, 15] :=
    unpackBits_pack [(30, 33554432), (6, c.toNat), (6, b.toNat), (6, a.toNat), (3, h.pred.toNat), (1, h.neg.toNat), (4, h.stall.toNat), (8, 0xf)] ⟨by decide, c.isLt, b.isLt, a.isLt, h.pred.isLt, h.neg.isLt, h.stall.isLt, by decide, trivial⟩
  unfold decOp0F
  rw [u]
  show (some (Instr.errinjArr ⟨BitVec.ofNat 4 h.stall.toNat, BitVec.ofNat 1 h.neg.toNat, BitVec.ofNat 3 h.pred.toNat⟩ (BitVec.ofNat 6 a.toNat) (BitVec.ofNat 6 b.toNat) (BitVec.ofNat 6 c.toNat))) = _
  simp only [BitVec.ofNat_toNat, BitVec.setWidth_eq]
theorem add (h : Hdr) (d a b : BitVec 6) : Statement (.add h d a b) := by
  intro _ hw w1
  refine decode_of_raw (w1 := w1) (by show fieldWidth [(30, 0), (6, b.toNat), (6, a.toNat), (6, d.toNat), (3, h.pred.toNat), (1, h.neg.toNat), (4, h.stall.toNat), (8, 0x10)] = 64; simp only [fieldWidth]) ?_ hw
  rw [show Instr.fields (.add h d a b) = [(30, 0), (6, b.toNat), (6, a.toNat), (6, d.toNat), (3, h.pred.toNat), (1, h.neg.toNat), (4, h.stall.toNat)] ++ [(8, 0x10)] from rfl]
  obtain ⟨e1, e2⟩ := nibbles [(30, 0), (6, b.toNat), (6, a.toNat), (6, d.toNat), (3, h.pred.toNat), (1, h.neg.toNat), (4, h.stall.toNat)] 0x10 1 0 (by simp only [fieldWidth]) rfl rfl
  rw [decodeRaw_hi1 _ _ e1, decHi1_0 _ _ _ e2]
  have u : unpackBits [30, 6, 6, 6, 3, 1, 4, 8] (packBits ([(30, 0), (6, b.toNat), (6, a.toNat), (6, d.toNat), (3, h.pred.toNat), (1, h.neg.toNat), (4, h.stall.toNat)] ++ [(8, 0x10)])) = [0, b.toNat, a.toNat, d.toNat, h.pred.toNat, h.neg.toNat, h.stall.toNat, 16] :=
    unpackBits_pack [(30, 0), (6, b.toNat), (6, a.toNat), (6, d.toNat), (3, h.pred.toNat), (1, h.neg.toNat), (4, h.stall.toNat), (8, 0x10)] ⟨by decide, b.isLt, a.isLt, d.isLt, h.pred.isLt, h.neg.isLt, h.stall.isLt, by decide, trivial⟩
  unfold decOp10
  rw [u]
  show (some (Instr.add ⟨BitVec.ofNat 4 h.stall.toNat, BitVec.ofNat 1 h.neg.toNat, BitVec.ofNat 3 h.pred.toNat⟩ (BitVec.ofNat 6 d.toNat) (BitVec.ofNat 6 a.toNat) (BitVec.ofNat 6 b.toNat))) = _
  simp only [BitVec.ofNat_toNat, BitVec.setWidth_eq]
theorem sub (h : Hdr) (d a b : BitVec 6) : Statement (.sub h d a b) := by
  intro _ hw w1
  refine decode_of_raw (w1 := w1) (by show fieldWidth [(30, 0), (6, b.toNat), (6, a.toNat), (6, d.toNat), (3, h.pred.toNat), (1, h.neg.toNat), (4, h.stall.toNat), (8, 0x11)] = 64; simp only [fieldWidth]) ?_ hw
  rw [show Instr.fields (.sub h d a b) = [(30, 0), (6, b.toNat), (6, a.toNat), (6, d.toNat), (3, h.pred.toNat), (1, h.neg.toNat), (4, h.stall.toNat)] ++ [(8, 0x11)] from rfl]
  obtain ⟨e1, e2⟩ := nibbles [(30, 0), (6, b.toNat), (6, a.toNat), (6, d.toNat), (3, h.pred.toNat), (1, h.neg.toNat), (4, h.stall.toNat)] 0x11 1 1 (by simp only [fieldWidth]) rfl rfl
  rw [decodeRaw_hi1 _ _ e1, decHi1_1 _ _ _ e2]
  have u : unpackBits [30, 6, 6, 6, 3, 1, 4, 8] (packBits ([(30, 0), (6, b.toNat), (6, a.toNat), (6, d.toNat), (3, h.pred.toNat), (1, h.neg.toNat), (4, h.stall.toNat)] ++ [(8, 0x11)])) = [0, b.toNat, a.toNat, d.toNat, h.pred.toNat, h.neg.toNat, h.stall.toNat, 17] :=
    unpackBits_pack [(30, 0), (6, b.toNat), (6, a.toNat), (6, d.toNat), (3, h.pred.toNat), (1, h.neg.toNat), (4, h.stall.toNat), (8, 0x11)] ⟨by decide, b.isLt, a.isLt, d.isLt, h.pred.isLt, h.neg.isLt, h.stall.isLt, by decide, trivial⟩
  unfold decOp11
  rw [u]
  show (some (Instr.sub ⟨BitVec.ofNat 4 h.stall.toNat, BitVec.ofNat 1 h.neg.toNat, BitVec.ofNat 3 h.pred.toNat⟩ (BitVec.ofNat 6 d.toNat) (BitVec.ofNat 6 a.toNat) (BitVec.ofNat 6 b.toNat))) = _
  simp only [BitVec.ofNat_toNat, BitVec.setWidth_eq]
theorem mul (h : Hdr) (d a b : BitVec 6) : Statement (.mul h d a b) := by
  intro _ hw w1
  refine decode_of_raw (w1 := w1) (by show fieldWidth [(30, 0), (6, b.toNat), (6, a.toNat), (6, d.toNat), (3, h.pred.toNat), (1, h.neg.toNat), (4, h.stall.toNat), (8, 0x12)] = 64; simp only [fieldWidth]) ?_ hw
  rw [show Instr.fields (.mul h d a b) = [(30, 0), (6, b.toNat), (6, a.toNat), (6, d.toNat), (3, h.pred.toNat), (1, h.neg.toNat), (4, h.stall.toNat)] ++ [(8, 0x12)] from rfl]
  obtain ⟨e1, e2⟩ := nibbles [(30, 0), (6, b.toNat), (6, a.toNat), (6, d.toNat), (3, h.pred.toNat), (1, h.neg.toNat), (4, h.stall.toNat)] 0x12 1 2 (by simp only [fieldWidth]) rfl rfl
  rw [decodeRaw_hi1 _ _ e1, decHi1_2 _ _ _ e2]
  have u : unpackBits [30, 6, 6, 6, 3, 1, 4, 8] (packBits ([(30, 0), (6, b.toNat), (6, a.toNat), (6, d.toNat), (3, h.pred.toNat), (1, h.neg.toNat), (4, h.stall.toNat)] ++ [(8, 0x12)])) = [0, b.toNat, a.toNat, d.toNat, h.pred.toNat, h.neg.toNat, h.stall.toNat, 18] :=
    unpackBits_pack [(30, 0), (6, b.toNat), (6, a.toNat), (6, d.toNat), (3, h.pred.toNat), (1, h.neg.toNat), (4, h.stall.toNat), (8, 0x12)] ⟨by decide, b.isLt, a.isLt, d.isLt, h.pred.isLt, h.neg.isLt, h.stall.isLt, by decide, trivial⟩
  unfold decOp12
  rw [u]
  show (some (Instr.mul ⟨BitVec.ofNat 4 h.stall.toNat, BitVec.ofNat 1 h.neg.toNat, BitVec.ofNat 3 h.pred.toNat⟩ (BitVec.ofNat 6 d.toNat) (BitVec.ofNat 6 a.toNat) (BitVec.ofNat 6 b.toNat))) = _
  simp only [BitVec.ofNat_toNat, BitVec.setWidth_eq]
theorem mulh (h : Hdr) (d a b : BitVec 6) : Statement (.mulh h d a b) := by
  intro _ hw w1
  refine decode_of_raw (w1 := w1) (by show fieldWidth [(30, 0), (6, b.toNat), (6, a.toNat), (6, d.toNat), (3, h.pred.toNat), (1, h.neg.toNat), (4, h.stall.toNat), (8, 0x13)] = 64; simp only [fieldWidth]) ?_ hw
  rw [show Instr.fields (.mulh h d a b) = [(30, 0), (6, b.toNat), (6, a.toNat), (6, d.toNat), (3, h.pred.toNat), (1, h.neg.toNat), (4, h.stall.toNat)] ++ [(8, 0x13)] from rfl]
  obtain ⟨e1, e2⟩ := nibbles [(30, 0), (6, b.toNat), (6, a.toNat), (6, d.toNat), (3, h.pred.toNat), (1, h.neg.toNat), (4, h.stall.toNat)] 0x13 1 3 (by simp only [fieldWidth]) rfl rfl
  rw [decodeRaw_hi1 _ _ e1, decHi1_3 _ _ _ e2]
  have u : unpackBits [30, 6, 6, 6, 3, 1, 4, 8] (packBits ([(30, 0), (6, b.toNat), (6, a.toNat), (6, d.toNat), (3, h.pred.toNat), (1, h.neg.toNat), (4, h.stall.toNat)] ++ [(8, 0x13)])) = [0, b.toNat, a.toNat, d.toNat, h.pred.toNat, h.neg.toNat, h.stall.toNat, 19] :=
    unpackBits_pack [(30, 0), (6, b.toNat), (6, a.toNat), (6, d.toNat), (3, h.pred.toNat), (1, h.neg.toNat), (4, h.stall.toNat), (8, 0x13)] ⟨by decide, b.isLt, a.isLt, d.isLt, h.pred.isLt, h.neg.isLt, h.stall.isLt, by decide, trivial⟩
  unfold decOp13
  rw [u]
  show (some (Instr.mulh ⟨BitVec.ofNat 4 h.stall.toNat, BitVec.ofNat 1 h.neg.toNat, BitVec.ofNat 3 h.pred.toNat⟩ (BitVec.ofNat 6 d.toNat) (BitVec.ofNat 6 a.toNat) (BitVec.ofNat 6 b.toNat))) = _
  simp only [BitVec.ofNat_toNat, BitVec.setWidth_eq]
theorem mulhu (h : Hdr) (d a b : BitVec 6) : Statement (.mulhu h d a b) := by
  intro _ hw w1
  refine decode_of_raw (w1 := w1) (by show fieldWidth [(30, 0), (6, b.toNat), (6, a.toNat), (6, d.toNat), (3, h.pred.toNat), (1, h.neg.toNat), (4, h.stall.toNat), (8, 0x14)] = 64; simp only [fieldWidth]) ?_ hw
  rw [show Instr.fields (.mulhu h d a b) = [(30, 0), (6, b.toNat), (6, a.toNat), (6, d.toNat), (3, h.pred.toNat), (1, h.neg.toNat), (4, h.stall.toNat)] ++ [(8, 0x14)] from rfl]
  obtain ⟨e1, e2⟩ := nibbles [(30, 0), (6, b.toNat), (6, a.toNat), (6, d.toNat), (3, h.pred.toNat), (1, h.neg.toNat), (4, h.stall.toNat)] 0x14 1 4 (by simp only [fieldWidth]) rfl rfl
  rw [decodeRaw_hi1 _ _ e1, decHi1_4 _ _ _ e2]
  have u : unpackBits [30, 6, 6, 6, 3, 1, 4, 8] (packBits ([(30, 0), (6, b.toNat), (6, a.toNat), (6, d.toNat), (3, h.pred.toNat), (1, h.neg.toNat), (4, h.stall.toNat)] ++ [(8, 0x14)])) = [0, b.toNat, a.toNat, d.toNat, h.pred.toNat, h.neg.toNat, h.stall.toNat, 20] :=
    unpackBits_pack [(30, 0), (6, b.toNat), (6, a.toNat), (6, d.toNat), (3, h.pred.toNat), (1, h.neg.toNat), (4, h.stall.toNat), (8, 0x14)] ⟨by decide, b.isLt, a.isLt, d.isLt, h.pred.isLt, h.neg.isLt, h.stall.isLt, by decide, trivial⟩
  unfold decOp14
  rw [u]
  show (some (Instr.mulhu ⟨BitVec.ofNat 4 h.stall.toNat, BitVec.ofNat 1 h.neg.toNat, BitVec.ofNat 3 h.pred.toNat⟩ (BitVec.ofNat 6 d.toNat) (BitVec.ofNat 6 a.toNat) (BitVec.ofNat 6 b.toNat))) = _
  simp only [BitVec.ofNat_toNat, BitVec.setWidth_eq]
theorem div (h : Hdr) (d a b : BitVec 6) : Statement (.div h d a b) := by
  intro _ hw w1
  refine decode_of_raw (w1 := w1) (by show fieldWidth [(30, 0), (6, b.toNat), (6, a.toNat), (6, d.toNat), (3, h.pred.toNat), (1, h.neg.toNat), (4, h.stall.toNat), (8, 0x15)] = 64; simp only [fieldWidth]) ?_ hw
  rw [show Instr.fields (.div h d a b) = [(30, 0), (6, b.toNat), (6, a.toNat), (6, d.toNat), (3, h.pred.toNat), (1, h.neg.toNat), (4, h.stall.toNat)] ++ [(8, 0x15)] from rfl]
  obtain ⟨e1, e2⟩ := nibbles [(30, 0), (6, b.toNat), (6, a.toNat), (6, d.toNat), (3, h.pred.toNat), (1, h.neg.toNat), (4, h.stall.toNat)] 0x15 1 5 (by simp only [fieldWidth]) rfl rfl
  rw [decodeRaw_hi1 _ _ e1, decHi1_5 _ _ _ e2]
  have u : unpackBits [30, 6, 6, 6, 3, 1, 4, 8] (packBits ([(30, 0), (6, b.toNat), (6, a.toNat), (6, d.toNat), (3, h.pred.toNat), (1, h.neg.toNat), (4, h.stall.toNat)] ++ [(8, 0x15)])) = [0, b.toNat, a.toNat, d.toNat, h.pred.toNat, h.neg.toNat, h.stall.toNat, 21] :=
    unpackBits_pack [(30, 0), (6, b.toNat), (6, a.toNat), (6, d.toNat), (3, h.pred.toNat), (1, h.neg.toNat), (4, h.stall.toNat), (8, 0x15)] ⟨by decide, b.isLt, a.isLt, d.isLt, h.pred.isLt, h.neg.isLt, h.stall.isLt, by decide, trivial⟩
  unfold decOp15
  rw [u]
  show (some (Instr.div ⟨BitVec.ofNat 4 h.stall.toNat, BitVec.ofNat 1 h.neg.toNat, BitVec.ofNat 3 h.pred.toNat⟩ (BitVec.ofNat 6 d.toNat) (BitVec.ofNat 6 a.toNat) (BitVec.ofNat 6 b.toNat))) = _
  simp only [BitVec.ofNat_toNat, BitVec.setWidth_eq]
theorem divu (h : Hdr) (d a b : BitVec 6) : Statement (.divu h d a b) := by
  intro _ hw w1
  refine decode_of_raw (w1 := w1) (by show fieldWidth [(30, 0), (6, b.toNat), (6, a.toNat), (6, d.toNat), (3, h.pred.toNat), (1, h.neg.toNat), (4, h.stall.toNat), (8, 0x16)] = 64; simp only [fieldWidth]) ?_ hw
  rw [show Instr.fields (.divu h d a b) = [(30, 0), (6, b.toNat), (6, a.toNat), (6, d.toNat), (3, h.pred.toNat), (1, h.neg.toNat), (4, h.stall.toNat)] ++ [(8, 0x16)] from rfl]
  obtain ⟨e1, e2⟩ := nibbles [(30, 0), (6, b.toNat), (6, a.toNat), (6, d.toNat), (3, h.pred.toNat), (1, h.neg.toNat), (4, h.stall.toNat)] 0x16 1 6 (by simp only [fieldWidth]) rfl rfl
  rw [decodeRaw_hi1 _ _ e1, decHi1_6 _ _ _ e2]
  have u : unpackBits [30, 6, 6, 6, 3, 1, 4, 8] (packBits ([(30, 0), (6, b.toNat), (6, a.toNat), (6, d.toNat), (3, h.pred.toNat), (1, h.neg.toNat), (4, h.stall.toNat)] ++ [(8, 0x16)])) = [0, b.toNat, a.toNat, d.toNat, h.pred.toNat, h.neg.toNat, h.stall.toNat, 22] :=
    unpackBits_pack [(30, 0), (6, b.toNat), (6, a.toNat), (6, d.toNat), (3, h.pred.toNat), (1, h.neg.toNat), (4, h.stall.toNat), (8, 0x16)] ⟨by decide, b.isLt, a.isLt, d.isLt, h.pred.isLt, h.neg.isLt, h.stall.isLt, by decide, trivial⟩
  unfold decOp16
  rw [u]
  show (some (Instr.divu ⟨BitVec.ofNat 4 h.stall.toNat, BitVec.ofNat 1 h.neg.toNat, BitVec.ofNat 3 h.pred.toNat⟩ (BitVec.ofNat 6 d.toNat) (BitVec.ofNat 6 a.toNat) (BitVec.ofNat 6 b.toNat))) = _
  simp only [BitVec.ofNat_toNat, BitVec.setWidth_eq]
theorem rem (h : Hdr) (d a b : BitVec 6) : Statement (.rem h d a b) := by
  intro _ hw w1
  refine decode_of_raw (w1 := w1) (by show fieldWidth [(30, 0), (6, b.toNat), (6, a.toNat), (6, d.toNat), (3, h.pred.toNat), (1, h.neg.toNat), (4, h.stall.toNat), (8, 0x17)] = 64; simp only [fieldWidth]) ?_ hw
  rw [show Instr.fields (.rem h d a b) = [(30, 0), (6, b.toNat), (6, a.toNat), (6, d.toNat), (3, h.pred.toNat), (1, h.neg.toNat), (4, h.stall.toNat)] ++ [(8, 0x17)] from rfl]
  obtain ⟨e1, e2⟩ := nibbles [(30, 0), (6, b.toNat), (6, a.toNat), (6, d.toNat), (3, h.pred.toNat), (1, h.neg.toNat), (4, h.stall.toNat)] 0x17 1 7 (by simp only [fieldWidth]) rfl rfl
  rw [decodeRaw_hi1 _ _ e1, decHi1_7 _ _ _ e2]
  have u : unpackBits [30, 6, 6, 6, 3, 1, 4, 8] (packBits ([(30, 0), (6, b.toNat), (6, a.toNat), (6, d.toNat), (3, h.pred.toNat), (1, h.neg.toNat), (4, h.stall.toNat)] ++ [(8, 0x17)])) = [0, b.toNat, a.toNat, d.toNat, h.pred.toNat, h.neg.toNat, h.stall.toNat, 23] :=
    unpackBits_pack [(30, 0), (6, b.toNat), (6, a.toNat), (6, d.toNat), (3, h.pred.toNat), (1, h.neg.toNat), (4, h.stall.toNat), (8, 0x17)] ⟨by decide, b.isLt, a.isLt, d.isLt, h.pred.isLt, h.neg.isLt, h.stall.isLt, by decide, trivial⟩
  unfold decOp17
  rw [u]
  show (some (Instr.rem ⟨BitVec.ofNat 4 h.stall.toNat, BitVec.ofNat 1 h.neg.toNat, BitVec.ofNat 3 h.pred.toNat⟩ (BitVec.ofNat 6 d.toNat) (BitVec.ofNat 6 a.toNat) (BitVec.ofNat 6 b.toNat))) = _
  simp only [BitVec.ofNat_toNat, BitVec.setWidth_eq]
theorem remu (h : Hdr) (d a b : BitVec 6) : Statement (.remu h d a b) := by
  intro _ hw w1
  refine decode_of_raw (w1 := w1) (by show fieldWidth [(30, 0), (6, b.toNat), (6, a.toNat), (6, d.toNat), (3, h.pred.toNat), (1, h.neg.toNat), (4, h.stall.toNat), (8, 0x18)] = 64; simp only [fieldWidth]) ?_ hw
  rw [show Instr.fields (.remu h d a b) = [(30, 0), (6, b.toNat), (6, a.toNat), (6, d.toNat), (3, h.pred.toNat), (1, h.neg.toNat), (4, h.stall.toNat)] ++ [(8, 0x18)] from rfl]
  obtain ⟨e1, e2⟩ := nibbles [(30, 0), (6, b.toNat), (6, a.toNat), (6, d.toNat), (3, h.pred.toNat), (1, h.neg.toNat), (4, h.stall.toNat)] 0x18 1 8 (by simp only [fieldWidth]) rfl rfl
  rw [decodeRaw_hi1 _ _ e1, decHi1_8 _ _ _ e2]
  have u : unpackBits [30, 6, 6, 6, 3, 1, 4, 8] (packBits ([(30, 0), (6, b.toNat), (6, a.toNat), (6, d.toNat), (3, h.pred.toNat), (1, h.neg.toNat), (4, h.stall.toNat)] ++ [(8, 0x18)])) = [0, b.toNat, a.toNat, d.toNat, h.pred.toNat, h.neg.toNat, h.stall.toNat, 24] :=
    unpackBits_pack [(30, 0), (6, b.toNat), (6, a.toNat), (6, d.toNat), (3, h.pred.toNat), (1, h.neg.toNat), (4, h.stall.toNat), (8, 0x18)] ⟨by decide, b.isLt, a.isLt, d.isLt, h.pred.isLt, h.neg.isLt, h.stall.isLt, by decide, trivial⟩
  unfold decOp18
  rw [u]
  show (some (Instr.remu ⟨BitVec.ofNat 4 h.stall.toNat, BitVec.ofNat 1 h.neg.toNat, BitVec.ofNat 3 h.pred.toNat⟩ (BitVec.ofNat 6 d.toNat) (BitVec.ofNat 6 a.toNat) (BitVec.ofNat 6 b.toNat))) = _
  simp only [BitVec.ofNat_toNat, BitVec.setWidth_eq]
theorem and (h : Hdr) (d a b : BitVec 6) : Statement (.and h d a b) := by
  intro _ hw w1
  refine decode_of_raw (w1 := w1) (by show fieldWidth [(30, 0), (6, b.toNat), (6, a.toNat), (6, d.toNat), (3, h.pred.toNat), (1, h.neg.toNat), (4, h.stall.toNat), (8, 0x19)] = 64; simp only [fieldWidth]) ?_ hw
  rw [show Instr.fields (.and h d a b) = [(30, 0), (6, b.toNat), (6, a.toNat), (6, d.toNat), (3, h.pred.toNat), (1, h.neg.toNat), (4, h.stall.toNat)] ++ [(8, 0x19)] from rfl]
  obtain ⟨e1, e2⟩ := nibbles [(30, 0), (6, b.toNat), (6, a.toNat), (6, d.toNat), (3, h.pred.toNat), (1, h.neg.toNat), (4, h.stall.toNat)] 0x19 1 9 (by simp only [fieldWidth]) rfl rfl
  rw [decodeRaw_hi1 _ _ e1, decHi1_9 _ _ _ e2]
  have u : unpackBits [30, 6, 6, 6, 3, 1, 4, 8] (packBits ([(30, 0), (6, b.toNat), (6, a.toNat), (6, d.toNat), (3, h.pred.toNat), (1, h.neg.toNat), (4, h.stall.toNat)] ++ [(8, 0x19)])) = [0, b.toNat, a.toNat, d.toNat, h.pred.toNat, h.neg.toNat, h.stall.toNat, 25] :=
    unpackBits_pack [(30, 0), (6, b.toNat), (6, a.toNat), (6, d.toNat), (3, h.pred.toNat), (1, h.neg.toNat), (4, h.stall.toNat), (8, 0x19)] ⟨by decide, b.isLt, a.isLt, d.isLt, h.pred.isLt, h.neg.isLt, h.stall.isLt, by decide, trivial⟩
  unfold decOp19
  rw [u]
  show (some (Instr.and ⟨BitVec.ofNat 4 h.stall.toNat, BitVec.ofNat 1 h.neg.toNat, BitVec.ofNat 3 h.pred.toNat⟩ (BitVec.ofNat 6 d.toNat) (BitVec.ofNat 6 a.toNat) (BitVec.ofNat 6 b.toNat))) = _
  simp only [BitVec.ofNat_toNat, BitVec.setWidth_eq]
theorem or (h : Hdr) (d a b : BitVec 6) : Statement (.or h d a b) := by
  intro _ hw w1
  refine decode_of_raw (w1 := w1) (by show fieldWidth [(30, 0), (6, b.toNat), (6, a.toNat), (6, d.toNat), (3, h.pred.toNat), (1, h.neg.toNat), (4, h.stall.toNat), (8, 0x1a)] = 64; simp only [fieldWidth]) ?_ hw
  rw [show Instr.fields (.or h d a b) = [(30, 0), (6, b.toNat), (6, a.toNat), (6, d.toNat), (3, h.pred.toNat), (1, h.neg.toNat), (4, h.stall.toNat)] ++ [(8, 0x1A)] from rfl]
  obtain ⟨e1, e2⟩ := nibbles [(30, 0), (6, b.toNat), (6, a.toNat), (6, d.toNat), (3, h.pred.toNat), (1, h.neg.toNat), (4, h.stall.toNat)] 0x1A 1 10 (by simp only [fieldWidth]) rfl rfl
  rw [decodeRaw_hi1 _ _ e1, decHi1_A _ _ _ e2]
  have u : unpackBits [30, 6, 6, 6, 3, 1, 4, 8] (packBits ([(30, 0), (6, b.toNat), (6, a.toNat), (6, d.toNat), (3, h.pred.toNat), (1, h.neg.toNat), (4, h.stall.toNat)] ++ [(8, 0x1A)])) = [0, b.toNat, a.toNat, d.toNat, h.pred.toNat, h.neg.toNat, h.stall.toNat, 26] :=
    unpackBits_pack [(30, 0), (6, b.toNat), (6, a.toNat), (6, d.toNat), (3, h.pred.toNat), (1, h.neg.toNat), (4, h.stall.toNat), (8, 0x1a)] ⟨by decide, b.isLt, a.isLt, d.isLt, h.pred.isLt, h.neg.isLt, h.stall.isLt, by decide, trivial⟩
  unfold decOp1A
  rw [u]
  show (some (Instr.or ⟨BitVec.ofNat 4 h.stall.toNat, BitVec.ofNat 1 h.neg.toNat, BitVec.ofNat 3 h.pred.toNat⟩ (BitVec.ofNat 6 d.toNat) (BitVec.ofNat 6 a.toNat) (BitVec.ofNat 6 b.toNat))) = _
  simp only [BitVec.ofNat_toNat, BitVec.setWidth_eq]
theorem xor (h : Hdr) (d a b : BitVec 6) : Statement (.xor h d a b) := by
  intro _ hw w1
  refine decode_of_raw (w1 := w1) (by show fieldWidth [(30, 0), (6, b.toNat), (6, a.toNat), (6, d.toNat), (3, h.pred.toNat), (1, h.neg.toNat), (4, h.stall.toNat), (8, 0x1b)] = 64; simp only [fieldWidth]) ?_ hw
  rw [show Instr.fields (.xor h d a b) = [(30, 0), (6, b.toNat), (6, a.toNat), (6, d.toNat), (3, h.pred.toNat), (1, h.neg.toNat), (4, h.stall.toNat)] ++ [(8, 0x1B)] from rfl]
  obtain ⟨e1, e2⟩ := nibbles [(30, 0), (6, b.toNat), (6, a.toNat), (6, d.toNat), (3, h.pred.toNat), (1, h.neg.toNat), (4, h.stall.toNat)] 0x1B 1 11 (by simp only [fieldWidth]) rfl rfl
  rw [decodeRaw_hi1 _ _ e1, decHi1_B _ _ _ e2]
  have u : unpackBits [30, 6, 6, 6, 3, 1, 4, 8] (packBits ([(30, 0), (6, b.toNat), (6, a.toNat), (6, d.toNat), (3, h.pred.toNat), (1, h.neg.toNat), (4, h.stall.toNat)] ++ [(8, 0x1B)])) = [0, b.toNat, a.toNat, d.toNat, h.pred.toNat, h.neg.toNat, h.stall.toNat, 27] :=
    unpackBits_pack [(30, 0), (6, b.toNat), (6, a.toNat), (6, d.toNat), (3, h.pred.toNat), (1, h.neg.toNat), (4, h.stall.toNat), (8, 0x1b)] ⟨by decide, b.isLt, a.isLt, d.isLt, h.pred.isLt, h.neg.isLt, h.stall.isLt, by decide, trivial⟩
  unfold decOp1B
  rw [u]
  show (some (Instr.xor ⟨BitVec.ofNat 4 h.stall.toNat, BitVec.ofNat 1 h.neg.toNat, BitVec.ofNat 3 h.pred.toNat⟩ (BitVec.ofNat 6 d.toNat) (BitVec.ofNat 6 a.toNat) (BitVec.ofNat 6 b.toNat))) = _
  simp only [BitVec.ofNat_toNat, BitVec.setWidth_eq]
theorem andn (h : Hdr) (d a b : BitVec 6) : Statement (.andn h d a b) := by
  intro _ hw w1
  refine decode_of_raw (w1 := w1) (by show fieldWidth [(30, 0), (6, b.toNat), (6, a.toNat), (6, d.toNat), (3, h.pred.toNat), (1, h.neg.toNat), (4, h.stall.toNat), (8, 0x1c)] = 64; simp only [fieldWidth]) ?_ hw
  rw [show Instr.fields (.andn h d a b) = [(30, 0), (6, b.toNat), (6, a.toNat), (6, d.toNat), (3, h.pred.toNat), (1, h.neg.toNat), (4, h.stall.toNat)] ++ [(8, 0x1C)] from rfl]
  obtain ⟨e1, e2⟩ := nibbles [(30, 0), (6, b.toNat), (6, a.toNat), (6, d.toNat), (3, h.pred.toNat), (1, h.neg.toNat), (4, h.stall.toNat)] 0x1C 1 12 (by simp only [fieldWidth]) rfl rfl
  rw [decodeRaw_hi1 _ _ e1, decHi1_C _ _ _ e2]
  have u : unpackBits [30, 6, 6, 6, 3, 1, 4, 8] (packBits ([(30, 0), (6, b.toNat), (6, a.toNat), (6, d.toNat), (3, h.pred.toNat), (1, h.neg.toNat), (4, h.stall.toNat)] ++ [(8, 0x1C)])) = [0, b.toNat, a.toNat, d.toNat, h.pred.toNat, h.neg.toNat, h.stall.toNat, 28] :=
    unpackBits_pack [(30, 0), (6, b.toNat), (6, a.toNat), (6, d.toNat), (3, h.pred.toNat), (1, h.neg.toNat), (4, h.stall.toNat), (8, 0x1c)] ⟨by decide, b.isLt, a.isLt, d.isLt, h.pred.isLt, h.neg.isLt, h.stall.isLt, by decide, trivial⟩
  unfold decOp1C
  rw [u]
  show (some (Instr.andn ⟨BitVec.ofNat 4 h.stall.toNat, BitVec.ofNat 1 h.neg.toNat, BitVec.ofNat 3 h.pred.toNat⟩ (BitVec.ofNat 6 d.toNat) (BitVec.ofNat 6 a.toNat) (BitVec.ofNat 6 b.toNat))) = _
  simp only [BitVec.ofNat_toNat, BitVec.setWidth_eq]
theorem shl (h : Hdr) (d a b : BitVec 6) : Statement (.shl h d a b) := by
  intro _ hw w1
  refine decode_of_raw (w1 := w1) (by show fieldWidth [(30, 0), (6, b.toNat), (6, a.toNat), (6, d.toNat), (3, h.pred.toNat), (1, h.neg.toNat), (4, h.stall.toNat), (8, 0x1d)] = 64; simp only [fieldWidth]) ?_ hw
  rw [show Instr.fields (.shl h d a b) = [(30, 0), (6, b.toNat), (6, a.toNat), (6, d.toNat), (3, h.pred.toNat), (1, h.neg.toNat), (4, h.stall.toNat)] ++ [(8, 0x1D)] from rfl]
  obtain ⟨e1, e2⟩ := nibbles [(30, 0), (6, b.toNat), (6, a.toNat), (6, d.toNat), (3, h.pred.toNat), (1, h.neg.toNat), (4, h.stall.toNat)] 0x1D 1 13 (by simp only [fieldWidth]) rfl rfl
  rw [decodeRaw_hi1 _ _ e1, decHi1_D _ _ _ e2]
  have u : unpackBits [30, 6, 6, 6, 3, 1, 4, 8] (packBits ([(30, 0), (6, b.toNat), (6, a.toNat), (6, d.toNat), (3, h.pred.toNat), (1, h.neg.toNat), (4, h.stall.toNat)] ++ [(8, 0x1D)])) = [0, b.toNat, a.toNat, d.toNat, h.pred.toNat, h.neg.toNat, h.stall.toNat, 29] :=
    unpackBits_pack [(30, 0), (6, b.toNat), (6, a.toNat), (6, d.toNat), (3, h.pred.toNat), (1, h.neg.toNat), (4, h.stall.toNat), (8, 0x1d)] ⟨by decide, b.isLt, a.isLt, d.isLt, h.pred.isLt, h.neg.isLt, h.stall.isLt, by decide, trivial⟩
  unfold decOp1D
  rw [u]
  show (some (Instr.shl ⟨BitVec.ofNat 4 h.stall.toNat, BitVec.ofNat 1 h.neg.toNat, BitVec.ofNat 3 h.pred.toNat⟩ (BitVec.ofNat 6 d.toNat) (BitVec.ofNat 6 a.toNat) (BitVec.ofNat 6 b.toNat))) = _
  simp only [BitVec.ofNat_toNat, BitVec.setWidth_eq]
theorem shr (h : Hdr) (d a b : BitVec 6) : Statement (.shr h d a b) := by
  intro _ hw w1
  refine decode_of_raw (w1 := w1) (by show fieldWidth [(30, 0), (6, b.toNat), (6, a.toNat), (6, d.toNat), (3, h.pred.toNat), (1, h.neg.toNat), (4, h.stall.toNat), (8, 0x1e)] = 64; simp only [fieldWidth]) ?_ hw
  rw [show Instr.fields (.shr h d a b) = [(30, 0), (6, b.toNat), (6, a.toNat), (6, d.toNat), (3, h.pred.toNat), (1, h.neg.toNat), (4, h.stall.toNat)] ++ [(8, 0x1E)] from rfl]
  obtain ⟨e1, e2⟩ := nibbles [(30, 0), (6, b.toNat), (6, a.toNat), (6, d.toNat), (3, h.pred.toNat), (1, h.neg.toNat), (4, h.stall.toNat)] 0x1E 1 14 (by simp only [fieldWidth]) rfl rfl
  rw [decodeRaw_hi1 _ _ e1, decHi1_E _ _ _ e2]
  have u : unpackBits [30, 6, 6, 6, 3, 1, 4, 8] (packBits ([(30, 0), (6, b.toNat), (6, a.toNat), (6, d.toNat), (3, h.pred.toNat), (1, h.neg.toNat), (4, h.stall.toNat)] ++ [(8, 0x1E)])) = [0, b.toNat, a.toNat, d.toNat, h.pred.toNat, h.neg.toNat, h.stall.toNat, 30] :=
    unpackBits_pack [(30, 0), (6, b.toNat), (6, a.toNat), (6, d.toNat), (3, h.pred.toNat), (1, h.neg.toNat), (4, h.stall.toNat), (8, 0x1e)] ⟨by decide, b.isLt, a.isLt, d.isLt, h.pred.isLt, h.neg.isLt, h.stall.isLt, by decide, trivial⟩
  unfold decOp1E
  rw [u]
  show (some (Instr.shr ⟨BitVec.ofNat 4 h.stall.toNat, BitVec.ofNat 1 h.neg.toNat, BitVec.ofNat 3 h.pred.toNat⟩ (BitVec.ofNat 6 d.toNat) (BitVec.ofNat 6 a.toNat) (BitVec.ofNat 6 b.toNat))) = _
  simp only [BitVec.ofNat_toNat, BitVec.setWidth_eq]
theorem sra (h : Hdr) (d a b : BitVec 6) : Statement (.sra h d a b) := by
  intro _ hw w1
  refine decode_of_raw (w1 := w1) (by show fieldWidth [(30, 0), (6, b.toNat), (6, a.toNat), (6, d.toNat), (3, h.pred.toNat), (1, h.neg.toNat), (4, h.stall.toNat), (8, 0x1f)] = 64; simp only [fieldWidth]) ?_ hw
  rw [show Instr.fields (.sra h d a b) = [(30, 0), (6, b.toNat), (6, a.toNat), (6, d.toNat), (3, h.pred.toNat), (1, h.neg.toNat), (4, h.stall.toNat)] ++ [(8, 0x1F)] from rfl]
  obtain ⟨e1, e2⟩ := nibbles [(30, 0), (6, b.toNat), (6, a.toNat), (6, d.toNat), (3, h.pred.toNat), (1, h.neg.toNat), (4, h.stall.toNat)] 0x1F 1 15 (by simp only [fieldWidth]) rfl rfl
  rw [decodeRaw_hi1 _ _ e1, decHi1_F _ _ _ e2]
  have u : unpackBits [30, 6, 6, 6, 3, 1, 4, 8] (packBits ([(30, 0), (6, b.toNat), (6, a.toNat), (6, d.toNat), (3, h.pred.toNat), (1, h.neg.toNat), (4, h.stall.toNat)] ++ [(8, 0x1F)])) = [0, b.toNat, a.toNat, d.toNat, h.pred.toNat, h.neg.toNat, h.stall.toNat, 31] :=
    unpackBits_pack [(30, 0), (6, b.toNat), (6, a.toNat), (6, d.toNat), (3, h.pred.toNat), (1, h.neg.toNat), (4, h.stall.toNat), (8, 0x1f)] ⟨by decide, b.isLt, a.isLt, d.isLt, h.pred.isLt, h.neg.isLt, h.stall.isLt, by decide, trivial⟩
  unfold decOp1F
  rw [u]
  show (some (Instr.sra ⟨BitVec.ofNat 4 h.stall.toNat, BitVec.ofNat 1 h.neg.toNat, BitVec.ofNat 3 h.pred.toNat⟩ (BitVec.ofNat 6 d.toNat) (BitVec.ofNat 6 a.toNat) (BitVec.ofNat 6 b.toNat))) = _
  simp only [BitVec.ofNat_toNat, BitVec.setWidth_eq]
theorem addi (h : Hdr) (d a : BitVec 6) (imm : BitVec 36) : Statement (.addi h d a imm) := by
  intro _ hw w1
  refine decode_of_raw (w1 := w1) (by show fieldWidth [(36, imm.toNat), (6, a.toNat), (6, d.toNat), (3, h.pred.toNat), (1, h.neg.toNat), (4, h.stall.toNat), (8, 0x20)] = 64; simp only [fieldWidth]) ?_ hw
  rw [show Instr.fields (.addi h d a imm) = [(36, imm.toNat), (6, a.toNat), (6, d.toNat), (3, h.pred.toNat), (1, h.neg.toNat), (4, h.stall.toNat)] ++ [(8, 0x20)] from rfl]
  obtain ⟨e1, e2⟩ := nibbles [(36, imm.toNat), (6, a.toNat), (6, d.toNat), (3, h.pred.toNat), (1, h.neg.toNat), (4, h.stall.toNat)] 0x20 2 0 (by simp only [fieldWidth]) rfl rfl
  rw [decodeRaw_hi2 _ _ e1, decHi2_0 _ _ _ e2]
  have u : unpackBits [36, 6, 6, 3, 1, 4, 8] (packBits ([(36, imm.toNat), (6, a.toNat), (6, d.toNat), (3, h.pred.toNat), (1, h.neg.toNat), (4, h.stall.toNat)] ++ [(8, 0x20)])) = [imm.toNat, a.toNat, d.toNat, h.pred.toNat, h.neg.toNat, h.stall.toNat, 32] :=
    unpackBits_pack [(36, imm.toNat), (6, a.toNat), (6, d.toNat), (3, h.pred.toNat), (1, h.neg.toNat), (4, h.stall.toNat), (8, 0x20)] ⟨imm.isLt, a.isLt, d.isLt, h.pred.isLt, h.neg.isLt, h.stall.isLt, by decide, trivial⟩
  unfold decOp20
  rw [u]
  show (some (Instr.addi ⟨BitVec.ofNat 4 h.stall.toNat, BitVec.ofNat 1 h.neg.toNat, BitVec.ofNat 3 h.pred.toNat⟩ (BitVec.ofNat 6 d.toNat) (BitVec.ofNat 6 a.toNat) (BitVec.ofNat 36 imm.toNat))) = _
  simp only [BitVec.ofNat_toNat, BitVec.setWidth_eq]
theorem muli (h : Hdr) (d a : BitVec 6) (imm : BitVec 36) : Statement (.muli h d a imm) := by
  intro _ hw w1
  refine decode_of_raw (w1 := w1) (by show fieldWidth [(36, imm.toNat), (6, a.toNat), (6, d.toNat), (3, h.pred.toNat), (1, h.neg.toNat), (4, h.stall.toNat), (8, 0x21)] = 64; simp only [fieldWidth]) ?_ hw
  rw [show Instr.fields (.muli h d a imm) = [(36, imm.toNat), (6, a.toNat), (6, d.toNat), (3, h.pred.toNat), (1, h.neg.toNat), (4, h.stall.toNat)] ++ [(8, 0x21)] from rfl]
  obtain ⟨e1, e2⟩ := nibbles [(36, imm.toNat), (6, a.toNat), (6, d.toNat), (3, h.pred.toNat), (1, h.neg.toNat), (4, h.stall.toNat)] 0x21 2 1 (by simp only [fieldWidth]) rfl rfl
  rw [decodeRaw_hi2 _ _ e1, decHi2_1 _ _ _ e2]
  have u : unpackBits [36, 6, 6, 3, 1, 4, 8] (packBits ([(36, imm.toNat), (6, a.toNat), (6, d.toNat), (3, h.pred.toNat), (1, h.neg.toNat), (4, h.stall.toNat)] ++ [(8, 0x21)])) = [imm.toNat, a.toNat, d.toNat, h.pred.toNat, h.neg.toNat, h.stall.toNat, 33] :=
    unpackBits_pack [(36, imm.toNat), (6, a.toNat), (6, d.toNat), (3, h.pred.toNat), (1, h.neg.toNat), (4, h.stall.toNat), (8, 0x21)] ⟨imm.isLt, a.isLt, d.isLt, h.pred.isLt, h.neg.isLt, h.stall.isLt, by decide, trivial⟩
  unfold decOp21
  rw [u]
  show (some (Instr.muli ⟨BitVec.ofNat 4 h.stall.toNat, BitVec.ofNat 1 h.neg.toNat, BitVec.ofNat 3 h.pred.toNat⟩ (BitVec.ofNat 6 d.toNat) (BitVec.ofNat 6 a.toNat) (BitVec.ofNat 36 imm.toNat))) = _
  simp only [BitVec.ofNat_toNat, BitVec.setWidth_eq]
theorem andi (h : Hdr) (d a : BitVec 6) (imm : BitVec 36) : Statement (.andi h d a imm) := by
  intro _ hw w1
  refine decode_of_raw (w1 := w1) (by show fieldWidth [(36, imm.toNat), (6, a.toNat), (6, d.toNat), (3, h.pred.toNat), (1, h.neg.toNat), (4, h.stall.toNat), (8, 0x22)] = 64; simp only [fieldWidth]) ?_ hw
  rw [show Instr.fields (.andi h d a imm) = [(36, imm.toNat), (6, a.toNat), (6, d.toNat), (3, h.pred.toNat), (1, h.neg.toNat), (4, h.stall.toNat)] ++ [(8, 0x22)] from rfl]
  obtain ⟨e1, e2⟩ := nibbles [(36, imm.toNat), (6, a.toNat), (6, d.toNat), (3, h.pred.toNat), (1, h.neg.toNat), (4, h.stall.toNat)] 0x22 2 2 (by simp only [fieldWidth]) rfl rfl
  rw [decodeRaw_hi2 _ _ e1, decHi2_2 _ _ _ e2]
  have u : unpackBits [36, 6, 6, 3, 1, 4, 8] (packBits ([(36, imm.toNat), (6, a.toNat), (6, d.toNat), (3, h.pred.toNat), (1, h.neg.toNat), (4, h.stall.toNat)] ++ [(8, 0x22)])) = [imm.toNat, a.toNat, d.toNat, h.pred.toNat, h.neg.toNat, h.stall.toNat, 34] :=
    unpackBits_pack [(36, imm.toNat), (6, a.toNat), (6, d.toNat), (3, h.pred.toNat), (1, h.neg.toNat), (4, h.stall.toNat), (8, 0x22)] ⟨imm.isLt, a.isLt, d.isLt, h.pred.isLt, h.neg.isLt, h.stall.isLt, by decide, trivial⟩
  unfold decOp22
  rw [u]
  show (some (Instr.andi ⟨BitVec.ofNat 4 h.stall.toNat, BitVec.ofNat 1 h.neg.toNat, BitVec.ofNat 3 h.pred.toNat⟩ (BitVec.ofNat 6 d.toNat) (BitVec.ofNat 6 a.toNat) (BitVec.ofNat 36 imm.toNat))) = _
  simp only [BitVec.ofNat_toNat, BitVec.setWidth_eq]
theorem ori (h : Hdr) (d a : BitVec 6) (imm : BitVec 36) : Statement (.ori h d a imm) := by
  intro _ hw w1
  refine decode_of_raw (w1 := w1) (by show fieldWidth [(36, imm.toNat), (6, a.toNat), (6, d.toNat), (3, h.pred.toNat), (1, h.neg.toNat), (4, h.stall.toNat), (8, 0x23)] = 64; simp only [fieldWidth]) ?_ hw
  rw [show Instr.fields (.ori h d a imm) = [(36, imm.toNat), (6, a.toNat), (6, d.toNat), (3, h.pred.toNat), (1, h.neg.toNat), (4, h.stall.toNat)] ++ [(8, 0x23)] from rfl]
  obtain ⟨e1, e2⟩ := nibbles [(36, imm.toNat), (6, a.toNat), (6, d.toNat), (3, h.pred.toNat), (1, h.neg.toNat), (4, h.stall.toNat)] 0x23 2 3 (by simp only [fieldWidth]) rfl rfl
  rw [decodeRaw_hi2 _ _ e1, decHi2_3 _ _ _ e2]
  have u : unpackBits [36, 6, 6, 3, 1, 4, 8] (packBits ([(36, imm.toNat), (6, a.toNat), (6, d.toNat), (3, h.pred.toNat), (1, h.neg.toNat), (4, h.stall.toNat)] ++ [(8, 0x23)])) = [imm.toNat, a.toNat, d.toNat, h.pred.toNat, h.neg.toNat, h.stall.toNat, 35] :=
    unpackBits_pack [(36, imm.toNat), (6, a.toNat), (6, d.toNat), (3, h.pred.toNat), (1, h.neg.toNat), (4, h.stall.toNat), (8, 0x23)] ⟨imm.isLt, a.isLt, d.isLt, h.pred.isLt, h.neg.isLt, h.stall.isLt, by decide, trivial⟩
  unfold decOp23
  rw [u]
  show (some (Instr.ori ⟨BitVec.ofNat 4 h.stall.toNat, BitVec.ofNat 1 h.neg.toNat, BitVec.ofNat 3 h.pred.toNat⟩ (BitVec.ofNat 6 d.toNat) (BitVec.ofNat 6 a.toNat) (BitVec.ofNat 36 imm.toNat))) = _
  simp only [BitVec.ofNat_toNat, BitVec.setWidth_eq]
theorem xori (h : Hdr) (d a : BitVec 6) (imm : BitVec 36) : Statement (.xori h d a imm) := by
  intro _ hw w1
  refine decode_of_raw (w1 := w1) (by show fieldWidth [(36, imm.toNat), (6, a.toNat), (6, d.toNat), (3, h.pred.toNat), (1, h.neg.toNat), (4, h.stall.toNat), (8, 0x24)] = 64; simp only [fieldWidth]) ?_ hw
  rw [show Instr.fields (.xori h d a imm) = [(36, imm.toNat), (6, a.toNat), (6, d.toNat), (3, h.pred.toNat), (1, h.neg.toNat), (4, h.stall.toNat)] ++ [(8, 0x24)] from rfl]
  obtain ⟨e1, e2⟩ := nibbles [(36, imm.toNat), (6, a.toNat), (6, d.toNat), (3, h.pred.toNat), (1, h.neg.toNat), (4, h.stall.toNat)] 0x24 2 4 (by simp only [fieldWidth]) rfl rfl
  rw [decodeRaw_hi2 _ _ e1, decHi2_4 _ _ _ e2]
  have u : unpackBits [36, 6, 6, 3, 1, 4, 8] (packBits ([(36, imm.toNat), (6, a.toNat), (6, d.toNat), (3, h.pred.toNat), (1, h.neg.toNat), (4, h.stall.toNat)] ++ [(8, 0x24)])) = [imm.toNat, a.toNat, d.toNat, h.pred.toNat, h.neg.toNat, h.stall.toNat, 36] :=
    unpackBits_pack [(36, imm.toNat), (6, a.toNat), (6, d.toNat), (3, h.pred.toNat), (1, h.neg.toNat), (4, h.stall.toNat), (8, 0x24)] ⟨imm.isLt, a.isLt, d.isLt, h.pred.isLt, h.neg.isLt, h.stall.isLt, by decide, trivial⟩
  unfold decOp24
  rw [u]
  show (some (Instr.xori ⟨BitVec.ofNat 4 h.stall.toNat, BitVec.ofNat 1 h.neg.toNat, BitVec.ofNat 3 h.pred.toNat⟩ (BitVec.ofNat 6 d.toNat) (BitVec.ofNat 6 a.toNat) (BitVec.ofNat 36 imm.toNat))) = _
  simp only [BitVec.ofNat_toNat, BitVec.setWidth_eq]
theorem shli (h : Hdr) (d a k : BitVec 6) : Statement (.shli h d a k) := by
  intro _ hw w1
  refine decode_of_raw (w1 := w1) (by show fieldWidth [(6, k.toNat), (30, 0), (6, a.toNat), (6, d.toNat), (3, h.pred.toNat), (1, h.neg.toNat), (4, h.stall.toNat), (8, 0x25)] = 64; simp only [fieldWidth]) ?_ hw
  rw [show Instr.fields (.shli h d a k) = [(6, k.toNat), (30, 0), (6, a.toNat), (6, d.toNat), (3, h.pred.toNat), (1, h.neg.toNat), (4, h.stall.toNat)] ++ [(8, 0x25)] from rfl]
  obtain ⟨e1, e2⟩ := nibbles [(6, k.toNat), (30, 0), (6, a.toNat), (6, d.toNat), (3, h.pred.toNat), (1, h.neg.toNat), (4, h.stall.toNat)] 0x25 2 5 (by simp only [fieldWidth]) rfl rfl
  rw [decodeRaw_hi2 _ _ e1, decHi2_5 _ _ _ e2]
  have u : unpackBits [6, 30, 6, 6, 3, 1, 4, 8] (packBits ([(6, k.toNat), (30, 0), (6, a.toNat), (6, d.toNat), (3, h.pred.toNat), (1, h.neg.toNat), (4, h.stall.toNat)] ++ [(8, 0x25)])) = [k.toNat, 0, a.toNat, d.toNat, h.pred.toNat, h.neg.toNat, h.stall.toNat, 37] :=
    unpackBits_pack [(6, k.toNat), (30, 0), (6, a.toNat), (6, d.toNat), (3, h.pred.toNat), (1, h.neg.toNat), (4, h.stall.toNat), (8, 0x25)] ⟨k.isLt, by decide, a.isLt, d.isLt, h.pred.isLt, h.neg.isLt, h.stall.isLt, by decide, trivial⟩
  unfold decOp25
  rw [u]
  show (some (Instr.shli ⟨BitVec.ofNat 4 h.stall.toNat, BitVec.ofNat 1 h.neg.toNat, BitVec.ofNat 3 h.pred.toNat⟩ (BitVec.ofNat 6 d.toNat) (BitVec.ofNat 6 a.toNat) (BitVec.ofNat 6 k.toNat))) = _
  simp only [BitVec.ofNat_toNat, BitVec.setWidth_eq]
theorem shri (h : Hdr) (d a k : BitVec 6) : Statement (.shri h d a k) := by
  intro _ hw w1
  refine decode_of_raw (w1 := w1) (by show fieldWidth [(6, k.toNat), (30, 0), (6, a.toNat), (6, d.toNat), (3, h.pred.toNat), (1, h.neg.toNat), (4, h.stall.toNat), (8, 0x26)] = 64; simp only [fieldWidth]) ?_ hw
  rw [show Instr.fields (.shri h d a k) = [(6, k.toNat), (30, 0), (6, a.toNat), (6, d.toNat), (3, h.pred.toNat), (1, h.neg.toNat), (4, h.stall.toNat)] ++ [(8, 0x26)] from rfl]
  obtain ⟨e1, e2⟩ := nibbles [(6, k.toNat), (30, 0), (6, a.toNat), (6, d.toNat), (3, h.pred.toNat), (1, h.neg.toNat), (4, h.stall.toNat)] 0x26 2 6 (by simp only [fieldWidth]) rfl rfl
  rw [decodeRaw_hi2 _ _ e1, decHi2_6 _ _ _ e2]
  have u : unpackBits [6, 30, 6, 6, 3, 1, 4, 8] (packBits ([(6, k.toNat), (30, 0), (6, a.toNat), (6, d.toNat), (3, h.pred.toNat), (1, h.neg.toNat), (4, h.stall.toNat)] ++ [(8, 0x26)])) = [k.toNat, 0, a.toNat, d.toNat, h.pred.toNat, h.neg.toNat, h.stall.toNat, 38] :=
    unpackBits_pack [(6, k.toNat), (30, 0), (6, a.toNat), (6, d.toNat), (3, h.pred.toNat), (1, h.neg.toNat), (4, h.stall.toNat), (8, 0x26)] ⟨k.isLt, by decide, a.isLt, d.isLt, h.pred.isLt, h.neg.isLt, h.stall.isLt, by decide, trivial⟩
  unfold decOp26
  rw [u]
  show (some (Instr.shri ⟨BitVec.ofNat 4 h.stall.toNat, BitVec.ofNat 1 h.neg.toNat, BitVec.ofNat 3 h.pred.toNat⟩ (BitVec.ofNat 6 d.toNat) (BitVec.ofNat 6 a.toNat) (BitVec.ofNat 6 k.toNat))) = _
  simp only [BitVec.ofNat_toNat, BitVec.setWidth_eq]
theorem srai (h : Hdr) (d a k : BitVec 6) : Statement (.srai h d a k) := by
  intro _ hw w1
  refine decode_of_raw (w1 := w1) (by show fieldWidth [(6, k.toNat), (30, 0), (6, a.toNat), (6, d.toNat), (3, h.pred.toNat), (1, h.neg.toNat), (4, h.stall.toNat), (8, 0x27)] = 64; simp only [fieldWidth]) ?_ hw
  rw [show Instr.fields (.srai h d a k) = [(6, k.toNat), (30, 0), (6, a.toNat), (6, d.toNat), (3, h.pred.toNat), (1, h.neg.toNat), (4, h.stall.toNat)] ++ [(8, 0x27)] from rfl]
  obtain ⟨e1, e2⟩ := nibbles [(6, k.toNat), (30, 0), (6, a.toNat), (6, d.toNat), (3, h.pred.toNat), (1, h.neg.toNat), (4, h.stall.toNat)] 0x27 2 7 (by simp only [fieldWidth]) rfl rfl
  rw [decodeRaw_hi2 _ _ e1, decHi2_7 _ _ _ e2]
  have u : unpackBits [6, 30, 6, 6, 3, 1, 4, 8] (packBits ([(6, k.toNat), (30, 0), (6, a.toNat), (6, d.toNat), (3, h.pred.toNat), (1, h.neg.toNat), (4, h.stall.toNat)] ++ [(8, 0x27)])) = [k.toNat, 0, a.toNat, d.toNat, h.pred.toNat, h.neg.toNat, h.stall.toNat, 39] :=
    unpackBits_pack [(6, k.toNat), (30, 0), (6, a.toNat), (6, d.toNat), (3, h.pred.toNat), (1, h.neg.toNat), (4, h.stall.toNat), (8, 0x27)] ⟨k.isLt, by decide, a.isLt, d.isLt, h.pred.isLt, h.neg.isLt, h.stall.isLt, by decide, trivial⟩
  unfold decOp27
  rw [u]
  show (some (Instr.srai ⟨BitVec.ofNat 4 h.stall.toNat, BitVec.ofNat 1 h.neg.toNat, BitVec.ofNat 3 h.pred.toNat⟩ (BitVec.ofNat 6 d.toNat) (BitVec.ofNat 6 a.toNat) (BitVec.ofNat 6 k.toNat))) = _
  simp only [BitVec.ofNat_toNat, BitVec.setWidth_eq]
theorem min (h : Hdr) (d a b : BitVec 6) : Statement (.min h d a b) := by
  intro _ hw w1
  refine decode_of_raw (w1 := w1) (by show fieldWidth [(30, 0), (6, b.toNat), (6, a.toNat), (6, d.toNat), (3, h.pred.toNat), (1, h.neg.toNat), (4, h.stall.toNat), (8, 0x28)] = 64; simp only [fieldWidth]) ?_ hw
  rw [show Instr.fields (.min h d a b) = [(30, 0), (6, b.toNat), (6, a.toNat), (6, d.toNat), (3, h.pred.toNat), (1, h.neg.toNat), (4, h.stall.toNat)] ++ [(8, 0x28)] from rfl]
  obtain ⟨e1, e2⟩ := nibbles [(30, 0), (6, b.toNat), (6, a.toNat), (6, d.toNat), (3, h.pred.toNat), (1, h.neg.toNat), (4, h.stall.toNat)] 0x28 2 8 (by simp only [fieldWidth]) rfl rfl
  rw [decodeRaw_hi2 _ _ e1, decHi2_8 _ _ _ e2]
  have u : unpackBits [30, 6, 6, 6, 3, 1, 4, 8] (packBits ([(30, 0), (6, b.toNat), (6, a.toNat), (6, d.toNat), (3, h.pred.toNat), (1, h.neg.toNat), (4, h.stall.toNat)] ++ [(8, 0x28)])) = [0, b.toNat, a.toNat, d.toNat, h.pred.toNat, h.neg.toNat, h.stall.toNat, 40] :=
    unpackBits_pack [(30, 0), (6, b.toNat), (6, a.toNat), (6, d.toNat), (3, h.pred.toNat), (1, h.neg.toNat), (4, h.stall.toNat), (8, 0x28)] ⟨by decide, b.isLt, a.isLt, d.isLt, h.pred.isLt, h.neg.isLt, h.stall.isLt, by decide, trivial⟩
  unfold decOp28
  rw [u]
  show (some (Instr.min ⟨BitVec.ofNat 4 h.stall.toNat, BitVec.ofNat 1 h.neg.toNat, BitVec.ofNat 3 h.pred.toNat⟩ (BitVec.ofNat 6 d.toNat) (BitVec.ofNat 6 a.toNat) (BitVec.ofNat 6 b.toNat))) = _
  simp only [BitVec.ofNat_toNat, BitVec.setWidth_eq]
theorem max (h : Hdr) (d a b : BitVec 6) : Statement (.max h d a b) := by
  intro _ hw w1
  refine decode_of_raw (w1 := w1) (by show fieldWidth [(30, 0), (6, b.toNat), (6, a.toNat), (6, d.toNat), (3, h.pred.toNat), (1, h.neg.toNat), (4, h.stall.toNat), (8, 0x29)] = 64; simp only [fieldWidth]) ?_ hw
  rw [show Instr.fields (.max h d a b) = [(30, 0), (6, b.toNat), (6, a.toNat), (6, d.toNat), (3, h.pred.toNat), (1, h.neg.toNat), (4, h.stall.toNat)] ++ [(8, 0x29)] from rfl]
  obtain ⟨e1, e2⟩ := nibbles [(30, 0), (6, b.toNat), (6, a.toNat), (6, d.toNat), (3, h.pred.toNat), (1, h.neg.toNat), (4, h.stall.toNat)] 0x29 2 9 (by simp only [fieldWidth]) rfl rfl
  rw [decodeRaw_hi2 _ _ e1, decHi2_9 _ _ _ e2]
  have u : unpackBits [30, 6, 6, 6, 3, 1, 4, 8] (packBits ([(30, 0), (6, b.toNat), (6, a.toNat), (6, d.toNat), (3, h.pred.toNat), (1, h.neg.toNat), (4, h.stall.toNat)] ++ [(8, 0x29)])) = [0, b.toNat, a.toNat, d.toNat, h.pred.toNat, h.neg.toNat, h.stall.toNat, 41] :=
    unpackBits_pack [(30, 0), (6, b.toNat), (6, a.toNat), (6, d.toNat), (3, h.pred.toNat), (1, h.neg.toNat), (4, h.stall.toNat), (8, 0x29)] ⟨by decide, b.isLt, a.isLt, d.isLt, h.pred.isLt, h.neg.isLt, h.stall.isLt, by decide, trivial⟩
  unfold decOp29
  rw [u]
  show (some (Instr.max ⟨BitVec.ofNat 4 h.stall.toNat, BitVec.ofNat 1 h.neg.toNat, BitVec.ofNat 3 h.pred.toNat⟩ (BitVec.ofNat 6 d.toNat) (BitVec.ofNat 6 a.toNat) (BitVec.ofNat 6 b.toNat))) = _
  simp only [BitVec.ofNat_toNat, BitVec.setWidth_eq]
theorem minu (h : Hdr) (d a b : BitVec 6) : Statement (.minu h d a b) := by
  intro _ hw w1
  refine decode_of_raw (w1 := w1) (by show fieldWidth [(30, 0), (6, b.toNat), (6, a.toNat), (6, d.toNat), (3, h.pred.toNat), (1, h.neg.toNat), (4, h.stall.toNat), (8, 0x2a)] = 64; simp only [fieldWidth]) ?_ hw
  rw [show Instr.fields (.minu h d a b) = [(30, 0), (6, b.toNat), (6, a.toNat), (6, d.toNat), (3, h.pred.toNat), (1, h.neg.toNat), (4, h.stall.toNat)] ++ [(8, 0x2A)] from rfl]
  obtain ⟨e1, e2⟩ := nibbles [(30, 0), (6, b.toNat), (6, a.toNat), (6, d.toNat), (3, h.pred.toNat), (1, h.neg.toNat), (4, h.stall.toNat)] 0x2A 2 10 (by simp only [fieldWidth]) rfl rfl
  rw [decodeRaw_hi2 _ _ e1, decHi2_A _ _ _ e2]
  have u : unpackBits [30, 6, 6, 6, 3, 1, 4, 8] (packBits ([(30, 0), (6, b.toNat), (6, a.toNat), (6, d.toNat), (3, h.pred.toNat), (1, h.neg.toNat), (4, h.stall.toNat)] ++ [(8, 0x2A)])) = [0, b.toNat, a.toNat, d.toNat, h.pred.toNat, h.neg.toNat, h.stall.toNat, 42] :=
    unpackBits_pack [(30, 0), (6, b.toNat), (6, a.toNat), (6, d.toNat), (3, h.pred.toNat), (1, h.neg.toNat), (4, h.stall.toNat), (8, 0x2a)] ⟨by decide, b.isLt, a.isLt, d.isLt, h.pred.isLt, h.neg.isLt, h.stall.isLt, by decide, trivial⟩
  unfold decOp2A
  rw [u]
  show (some (Instr.minu ⟨BitVec.ofNat 4 h.stall.toNat, BitVec.ofNat 1 h.neg.toNat, BitVec.ofNat 3 h.pred.toNat⟩ (BitVec.ofNat 6 d.toNat) (BitVec.ofNat 6 a.toNat) (BitVec.ofNat 6 b.toNat))) = _
  simp only [BitVec.ofNat_toNat, BitVec.setWidth_eq]
theorem maxu (h : Hdr) (d a b : BitVec 6) : Statement (.maxu h d a b) := by
  intro _ hw w1
  refine decode_of_raw (w1 := w1) (by show fieldWidth [(30, 0), (6, b.toNat), (6, a.toNat), (6, d.toNat), (3, h.pred.toNat), (1, h.neg.toNat), (4, h.stall.toNat), (8, 0x2b)] = 64; simp only [fieldWidth]) ?_ hw
  rw [show Instr.fields (.maxu h d a b) = [(30, 0), (6, b.toNat), (6, a.toNat), (6, d.toNat), (3, h.pred.toNat), (1, h.neg.toNat), (4, h.stall.toNat)] ++ [(8, 0x2B)] from rfl]
  obtain ⟨e1, e2⟩ := nibbles [(30, 0), (6, b.toNat), (6, a.toNat), (6, d.toNat), (3, h.pred.toNat), (1, h.neg.toNat), (4, h.stall.toNat)] 0x2B 2 11 (by simp only [fieldWidth]) rfl rfl
  rw [decodeRaw_hi2 _ _ e1, decHi2_B _ _ _ e2]
  have u : unpackBits [30, 6, 6, 6, 3, 1, 4, 8] (packBits ([(30, 0), (6, b.toNat), (6, a.toNat), (6, d.toNat), (3, h.pred.toNat), (1, h.neg.toNat), (4, h.stall.toNat)] ++ [(8, 0x2B)])) = [0, b.toNat, a.toNat, d.toNat, h.pred.toNat, h.neg.toNat, h.stall.toNat, 43] :=
    unpackBits_pack [(30, 0), (6, b.toNat), (6, a.toNat), (6, d.toNat), (3, h.pred.toNat), (1, h.neg.toNat), (4, h.stall.toNat), (8, 0x2b)] ⟨by decide, b.isLt, a.isLt, d.isLt, h.pred.isLt, h.neg.isLt, h.stall.isLt, by decide, trivial⟩
  unfold decOp2B
  rw [u]
  show (some (Instr.maxu ⟨BitVec.ofNat 4 h.stall.toNat, BitVec.ofNat 1 h.neg.toNat, BitVec.ofNat 3 h.pred.toNat⟩ (BitVec.ofNat 6 d.toNat) (BitVec.ofNat 6 a.toNat) (BitVec.ofNat 6 b.toNat))) = _
  simp only [BitVec.ofNat_toNat, BitVec.setWidth_eq]
theorem clz (h : Hdr) (d a : BitVec 6) : Statement (.clz h d a) := by
  intro _ hw w1
  refine decode_of_raw (w1 := w1) (by show fieldWidth [(36, 0), (6, a.toNat), (6, d.toNat), (3, h.pred.toNat), (1, h.neg.toNat), (4, h.stall.toNat), (8, 0x2c)] = 64; simp only [fieldWidth]) ?_ hw
  rw [show Instr.fields (.clz h d a) = [(36, 0), (6, a.toNat), (6, d.toNat), (3, h.pred.toNat), (1, h.neg.toNat), (4, h.stall.toNat)] ++ [(8, 0x2C)] from rfl]
  obtain ⟨e1, e2⟩ := nibbles [(36, 0), (6, a.toNat), (6, d.toNat), (3, h.pred.toNat), (1, h.neg.toNat), (4, h.stall.toNat)] 0x2C 2 12 (by simp only [fieldWidth]) rfl rfl
  rw [decodeRaw_hi2 _ _ e1, decHi2_C _ _ _ e2]
  have u : unpackBits [36, 6, 6, 3, 1, 4, 8] (packBits ([(36, 0), (6, a.toNat), (6, d.toNat), (3, h.pred.toNat), (1, h.neg.toNat), (4, h.stall.toNat)] ++ [(8, 0x2C)])) = [0, a.toNat, d.toNat, h.pred.toNat, h.neg.toNat, h.stall.toNat, 44] :=
    unpackBits_pack [(36, 0), (6, a.toNat), (6, d.toNat), (3, h.pred.toNat), (1, h.neg.toNat), (4, h.stall.toNat), (8, 0x2c)] ⟨by decide, a.isLt, d.isLt, h.pred.isLt, h.neg.isLt, h.stall.isLt, by decide, trivial⟩
  unfold decOp2C
  rw [u]
  show (some (Instr.clz ⟨BitVec.ofNat 4 h.stall.toNat, BitVec.ofNat 1 h.neg.toNat, BitVec.ofNat 3 h.pred.toNat⟩ (BitVec.ofNat 6 d.toNat) (BitVec.ofNat 6 a.toNat))) = _
  simp only [BitVec.ofNat_toNat, BitVec.setWidth_eq]
theorem ctz (h : Hdr) (d a : BitVec 6) : Statement (.ctz h d a) := by
  intro _ hw w1
  refine decode_of_raw (w1 := w1) (by show fieldWidth [(36, 0), (6, a.toNat), (6, d.toNat), (3, h.pred.toNat), (1, h.neg.toNat), (4, h.stall.toNat), (8, 0x2d)] = 64; simp only [fieldWidth]) ?_ hw
  rw [show Instr.fields (.ctz h d a) = [(36, 0), (6, a.toNat), (6, d.toNat), (3, h.pred.toNat), (1, h.neg.toNat), (4, h.stall.toNat)] ++ [(8, 0x2D)] from rfl]
  obtain ⟨e1, e2⟩ := nibbles [(36, 0), (6, a.toNat), (6, d.toNat), (3, h.pred.toNat), (1, h.neg.toNat), (4, h.stall.toNat)] 0x2D 2 13 (by simp only [fieldWidth]) rfl rfl
  rw [decodeRaw_hi2 _ _ e1, decHi2_D _ _ _ e2]
  have u : unpackBits [36, 6, 6, 3, 1, 4, 8] (packBits ([(36, 0), (6, a.toNat), (6, d.toNat), (3, h.pred.toNat), (1, h.neg.toNat), (4, h.stall.toNat)] ++ [(8, 0x2D)])) = [0, a.toNat, d.toNat, h.pred.toNat, h.neg.toNat, h.stall.toNat, 45] :=
    unpackBits_pack [(36, 0), (6, a.toNat), (6, d.toNat), (3, h.pred.toNat), (1, h.neg.toNat), (4, h.stall.toNat), (8, 0x2d)] ⟨by decide, a.isLt, d.isLt, h.pred.isLt, h.neg.isLt, h.stall.isLt, by decide, trivial⟩
  unfold decOp2D
  rw [u]
  show (some (Instr.ctz ⟨BitVec.ofNat 4 h.stall.toNat, BitVec.ofNat 1 h.neg.toNat, BitVec.ofNat 3 h.pred.toNat⟩ (BitVec.ofNat 6 d.toNat) (BitVec.ofNat 6 a.toNat))) = _
  simp only [BitVec.ofNat_toNat, BitVec.setWidth_eq]
theorem popc (h : Hdr) (d a : BitVec 6) : Statement (.popc h d a) := by
  intro _ hw w1
  refine decode_of_raw (w1 := w1) (by show fieldWidth [(36, 0), (6, a.toNat), (6, d.toNat), (3, h.pred.toNat), (1, h.neg.toNat), (4, h.stall.toNat), (8, 0x2e)] = 64; simp only [fieldWidth]) ?_ hw
  rw [show Instr.fields (.popc h d a) = [(36, 0), (6, a.toNat), (6, d.toNat), (3, h.pred.toNat), (1, h.neg.toNat), (4, h.stall.toNat)] ++ [(8, 0x2E)] from rfl]
  obtain ⟨e1, e2⟩ := nibbles [(36, 0), (6, a.toNat), (6, d.toNat), (3, h.pred.toNat), (1, h.neg.toNat), (4, h.stall.toNat)] 0x2E 2 14 (by simp only [fieldWidth]) rfl rfl
  rw [decodeRaw_hi2 _ _ e1, decHi2_E _ _ _ e2]
  have u : unpackBits [36, 6, 6, 3, 1, 4, 8] (packBits ([(36, 0), (6, a.toNat), (6, d.toNat), (3, h.pred.toNat), (1, h.neg.toNat), (4, h.stall.toNat)] ++ [(8, 0x2E)])) = [0, a.toNat, d.toNat, h.pred.toNat, h.neg.toNat, h.stall.toNat, 46] :=
    unpackBits_pack [(36, 0), (6, a.toNat), (6, d.toNat), (3, h.pred.toNat), (1, h.neg.toNat), (4, h.stall.toNat), (8, 0x2e)] ⟨by decide, a.isLt, d.isLt, h.pred.isLt, h.neg.isLt, h.stall.isLt, by decide, trivial⟩
  unfold decOp2E
  rw [u]
  show (some (Instr.popc ⟨BitVec.ofNat 4 h.stall.toNat, BitVec.ofNat 1 h.neg.toNat, BitVec.ofNat 3 h.pred.toNat⟩ (BitVec.ofNat 6 d.toNat) (BitVec.ofNat 6 a.toNat))) = _
  simp only [BitVec.ofNat_toNat, BitVec.setWidth_eq]
theorem brev (h : Hdr) (d a : BitVec 6) : Statement (.brev h d a) := by
  intro _ hw w1
  refine decode_of_raw (w1 := w1) (by show fieldWidth [(36, 0), (6, a.toNat), (6, d.toNat), (3, h.pred.toNat), (1, h.neg.toNat), (4, h.stall.toNat), (8, 0x2f)] = 64; simp only [fieldWidth]) ?_ hw
  rw [show Instr.fields (.brev h d a) = [(36, 0), (6, a.toNat), (6, d.toNat), (3, h.pred.toNat), (1, h.neg.toNat), (4, h.stall.toNat)] ++ [(8, 0x2F)] from rfl]
  obtain ⟨e1, e2⟩ := nibbles [(36, 0), (6, a.toNat), (6, d.toNat), (3, h.pred.toNat), (1, h.neg.toNat), (4, h.stall.toNat)] 0x2F 2 15 (by simp only [fieldWidth]) rfl rfl
  rw [decodeRaw_hi2 _ _ e1, decHi2_F _ _ _ e2]
  have u : unpackBits [36, 6, 6, 3, 1, 4, 8] (packBits ([(36, 0), (6, a.toNat), (6, d.toNat), (3, h.pred.toNat), (1, h.neg.toNat), (4, h.stall.toNat)] ++ [(8, 0x2F)])) = [0, a.toNat, d.toNat, h.pred.toNat, h.neg.toNat, h.stall.toNat, 47] :=
    unpackBits_pack [(36, 0), (6, a.toNat), (6, d.toNat), (3, h.pred.toNat), (1, h.neg.toNat), (4, h.stall.toNat), (8, 0x2f)] ⟨by decide, a.isLt, d.isLt, h.pred.isLt, h.neg.isLt, h.stall.isLt, by decide, trivial⟩
  unfold decOp2F
  rw [u]
  show (some (Instr.brev ⟨BitVec.ofNat 4 h.stall.toNat, BitVec.ofNat 1 h.neg.toNat, BitVec.ofNat 3 h.pred.toNat⟩ (BitVec.ofNat 6 d.toNat) (BitVec.ofNat 6 a.toNat))) = _
  simp only [BitVec.ofNat_toNat, BitVec.setWidth_eq]
theorem setp (h : Hdr) (pd : BitVec 3) (a b cond : BitVec 6) : Statement (.setp h pd a b cond) := by
  intro _ hw w1
  refine decode_of_raw (w1 := w1) (by show fieldWidth [(24, 0), (6, cond.toNat), (6, b.toNat), (6, a.toNat), (3, pd.toNat), (3, 0), (3, h.pred.toNat), (1, h.neg.toNat), (4, h.stall.toNat), (8, 0x30)] = 64; simp only [fieldWidth]) ?_ hw
  rw [show Instr.fields (.setp h pd a b cond) = [(24, 0), (6, cond.toNat), (6, b.toNat), (6, a.toNat), (3, pd.toNat), (3, 0), (3, h.pred.toNat), (1, h.neg.toNat), (4, h.stall.toNat)] ++ [(8, 0x30)] from rfl]
  obtain ⟨e1, e2⟩ := nibbles [(24, 0), (6, cond.toNat), (6, b.toNat), (6, a.toNat), (3, pd.toNat), (3, 0), (3, h.pred.toNat), (1, h.neg.toNat), (4, h.stall.toNat)] 0x30 3 0 (by simp only [fieldWidth]) rfl rfl
  rw [decodeRaw_hi3 _ _ e1, decHi3_0 _ _ _ e2]
  have u : unpackBits [24, 6, 6, 6, 3, 3, 3, 1, 4, 8] (packBits ([(24, 0), (6, cond.toNat), (6, b.toNat), (6, a.toNat), (3, pd.toNat), (3, 0), (3, h.pred.toNat), (1, h.neg.toNat), (4, h.stall.toNat)] ++ [(8, 0x30)])) = [0, cond.toNat, b.toNat, a.toNat, pd.toNat, 0, h.pred.toNat, h.neg.toNat, h.stall.toNat, 48] :=
    unpackBits_pack [(24, 0), (6, cond.toNat), (6, b.toNat), (6, a.toNat), (3, pd.toNat), (3, 0), (3, h.pred.toNat), (1, h.neg.toNat), (4, h.stall.toNat), (8, 0x30)] ⟨by decide, cond.isLt, b.isLt, a.isLt, pd.isLt, by decide, h.pred.isLt, h.neg.isLt, h.stall.isLt, by decide, trivial⟩
  unfold decOp30
  rw [u]
  show (some (Instr.setp ⟨BitVec.ofNat 4 h.stall.toNat, BitVec.ofNat 1 h.neg.toNat, BitVec.ofNat 3 h.pred.toNat⟩ (BitVec.ofNat 3 pd.toNat) (BitVec.ofNat 6 a.toNat) (BitVec.ofNat 6 b.toNat) (BitVec.ofNat 6 cond.toNat))) = _
  simp only [BitVec.ofNat_toNat, BitVec.setWidth_eq]
theorem setpi (h : Hdr) (pd : BitVec 3) (a cond : BitVec 6) (imm : BitVec 30) : Statement (.setpi h pd a cond imm) := by
  intro _ hw w1
  refine decode_of_raw (w1 := w1) (by show fieldWidth [(30, imm.toNat), (6, cond.toNat), (6, a.toNat), (3, pd.toNat), (3, 0), (3, h.pred.toNat), (1, h.neg.toNat), (4, h.stall.toNat), (8, 0x31)] = 64; simp only [fieldWidth]) ?_ hw
  rw [show Instr.fields (.setpi h pd a cond imm) = [(30, imm.toNat), (6, cond.toNat), (6, a.toNat), (3, pd.toNat), (3, 0), (3, h.pred.toNat), (1, h.neg.toNat), (4, h.stall.toNat)] ++ [(8, 0x31)] from rfl]
  obtain ⟨e1, e2⟩ := nibbles [(30, imm.toNat), (6, cond.toNat), (6, a.toNat), (3, pd.toNat), (3, 0), (3, h.pred.toNat), (1, h.neg.toNat), (4, h.stall.toNat)] 0x31 3 1 (by simp only [fieldWidth]) rfl rfl
  rw [decodeRaw_hi3 _ _ e1, decHi3_1 _ _ _ e2]
  have u : unpackBits [30, 6, 6, 3, 3, 3, 1, 4, 8] (packBits ([(30, imm.toNat), (6, cond.toNat), (6, a.toNat), (3, pd.toNat), (3, 0), (3, h.pred.toNat), (1, h.neg.toNat), (4, h.stall.toNat)] ++ [(8, 0x31)])) = [imm.toNat, cond.toNat, a.toNat, pd.toNat, 0, h.pred.toNat, h.neg.toNat, h.stall.toNat, 49] :=
    unpackBits_pack [(30, imm.toNat), (6, cond.toNat), (6, a.toNat), (3, pd.toNat), (3, 0), (3, h.pred.toNat), (1, h.neg.toNat), (4, h.stall.toNat), (8, 0x31)] ⟨imm.isLt, cond.isLt, a.isLt, pd.isLt, by decide, h.pred.isLt, h.neg.isLt, h.stall.isLt, by decide, trivial⟩
  unfold decOp31
  rw [u]
  show (some (Instr.setpi ⟨BitVec.ofNat 4 h.stall.toNat, BitVec.ofNat 1 h.neg.toNat, BitVec.ofNat 3 h.pred.toNat⟩ (BitVec.ofNat 3 pd.toNat) (BitVec.ofNat 6 a.toNat) (BitVec.ofNat 6 cond.toNat) (BitVec.ofNat 30 imm.toNat))) = _
  simp only [BitVec.ofNat_toNat, BitVec.setWidth_eq]
theorem plog (h : Hdr) (pd pa pb : BitVec 3) (tbl : BitVec 4) : Statement (.plog h pd pa pb tbl) := by
  intro _ hw w1
  refine decode_of_raw (w1 := w1) (by show fieldWidth [(24, 0), (4, tbl.toNat), (2, 0), (3, pb.toNat), (3, 0), (3, pa.toNat), (3, 0), (3, pd.toNat), (3, 0), (3, h.pred.toNat), (1, h.neg.toNat), (4, h.stall.toNat), (8, 0x32)] = 64; simp only [fieldWidth]) ?_ hw
  rw [show Instr.fields (.plog h pd pa pb tbl) = [(24, 0), (4, tbl.toNat), (2, 0), (3, pb.toNat), (3, 0), (3, pa.toNat), (3, 0), (3, pd.toNat), (3, 0), (3, h.pred.toNat), (1, h.neg.toNat), (4, h.stall.toNat)] ++ [(8, 0x32)] from rfl]
  obtain ⟨e1, e2⟩ := nibbles [(24, 0), (4, tbl.toNat), (2, 0), (3, pb.toNat), (3, 0), (3, pa.toNat), (3, 0), (3, pd.toNat), (3, 0), (3, h.pred.toNat), (1, h.neg.toNat), (4, h.stall.toNat)] 0x32 3 2 (by simp only [fieldWidth]) rfl rfl
  rw [decodeRaw_hi3 _ _ e1, decHi3_2 _ _ _ e2]
  have u : unpackBits [24, 4, 2, 3, 3, 3, 3, 3, 3, 3, 1, 4, 8] (packBits ([(24, 0), (4, tbl.toNat), (2, 0), (3, pb.toNat), (3, 0), (3, pa.toNat), (3, 0), (3, pd.toNat), (3, 0), (3, h.pred.toNat), (1, h.neg.toNat), (4, h.stall.toNat)] ++ [(8, 0x32)])) = [0, tbl.toNat, 0, pb.toNat, 0, pa.toNat, 0, pd.toNat, 0, h.pred.toNat, h.neg.toNat, h.stall.toNat, 50] :=
    unpackBits_pack [(24, 0), (4, tbl.toNat), (2, 0), (3, pb.toNat), (3, 0), (3, pa.toNat), (3, 0), (3, pd.toNat), (3, 0), (3, h.pred.toNat), (1, h.neg.toNat), (4, h.stall.toNat), (8, 0x32)] ⟨by decide, tbl.isLt, by decide, pb.isLt, by decide, pa.isLt, by decide, pd.isLt, by decide, h.pred.isLt, h.neg.isLt, h.stall.isLt, by decide, trivial⟩
  unfold decOp32
  rw [u]
  show (some (Instr.plog ⟨BitVec.ofNat 4 h.stall.toNat, BitVec.ofNat 1 h.neg.toNat, BitVec.ofNat 3 h.pred.toNat⟩ (BitVec.ofNat 3 pd.toNat) (BitVec.ofNat 3 pa.toNat) (BitVec.ofNat 3 pb.toNat) (BitVec.ofNat 4 tbl.toNat))) = _
  simp only [BitVec.ofNat_toNat, BitVec.setWidth_eq]
theorem sel (h : Hdr) (d a b : BitVec 6) (inv : BitVec 1) (ps : BitVec 3) : Statement (.sel h d a b inv ps) := by
  intro _ hw w1
  refine decode_of_raw (w1 := w1) (by show fieldWidth [(24, 0), (3, ps.toNat), (1, inv.toNat), (2, 0), (6, b.toNat), (6, a.toNat), (6, d.toNat), (3, h.pred.toNat), (1, h.neg.toNat), (4, h.stall.toNat), (8, 0x33)] = 64; simp only [fieldWidth]) ?_ hw
  rw [show Instr.fields (.sel h d a b inv ps) = [(24, 0), (3, ps.toNat), (1, inv.toNat), (2, 0), (6, b.toNat), (6, a.toNat), (6, d.toNat), (3, h.pred.toNat), (1, h.neg.toNat), (4, h.stall.toNat)] ++ [(8, 0x33)] from rfl]
  obtain ⟨e1, e2⟩ := nibbles [(24, 0), (3, ps.toNat), (1, inv.toNat), (2, 0), (6, b.toNat), (6, a.toNat), (6, d.toNat), (3, h.pred.toNat), (1, h.neg.toNat), (4, h.stall.toNat)] 0x33 3 3 (by simp only [fieldWidth]) rfl rfl
  rw [decodeRaw_hi3 _ _ e1, decHi3_3 _ _ _ e2]
  have u : unpackBits [24, 3, 1, 2, 6, 6, 6, 3, 1, 4, 8] (packBits ([(24, 0), (3, ps.toNat), (1, inv.toNat), (2, 0), (6, b.toNat), (6, a.toNat), (6, d.toNat), (3, h.pred.toNat), (1, h.neg.toNat), (4, h.stall.toNat)] ++ [(8, 0x33)])) = [0, ps.toNat, inv.toNat, 0, b.toNat, a.toNat, d.toNat, h.pred.toNat, h.neg.toNat, h.stall.toNat, 51] :=
    unpackBits_pack [(24, 0), (3, ps.toNat), (1, inv.toNat), (2, 0), (6, b.toNat), (6, a.toNat), (6, d.toNat), (3, h.pred.toNat), (1, h.neg.toNat), (4, h.stall.toNat), (8, 0x33)] ⟨by decide, ps.isLt, inv.isLt, by decide, b.isLt, a.isLt, d.isLt, h.pred.isLt, h.neg.isLt, h.stall.isLt, by decide, trivial⟩
  unfold decOp33
  rw [u]
  show (some (Instr.sel ⟨BitVec.ofNat 4 h.stall.toNat, BitVec.ofNat 1 h.neg.toNat, BitVec.ofNat 3 h.pred.toNat⟩ (BitVec.ofNat 6 d.toNat) (BitVec.ofNat 6 a.toNat) (BitVec.ofNat 6 b.toNat) (BitVec.ofNat 1 inv.toNat) (BitVec.ofNat 3 ps.toNat))) = _
  simp only [BitVec.ofNat_toNat, BitVec.setWidth_eq]
theorem lea (h : Hdr) (t base : BitVec 6) (size : BitVec 3) (index : BitVec 6) (disp : BitVec 24) : Statement (.lea h t base size index disp) := by
  intro _ hw w1
  refine decode_of_raw (w1 := w1) (by show fieldWidth [(24, disp.toNat), (6, index.toNat), (3, 0), (3, size.toNat), (6, base.toNat), (6, t.toNat), (3, h.pred.toNat), (1, h.neg.toNat), (4, h.stall.toNat), (8, 0x34)] = 64; simp only [fieldWidth]) ?_ hw
  rw [show Instr.fields (.lea h t base size index disp) = [(24, disp.toNat), (6, index.toNat), (3, 0), (3, size.toNat), (6, base.toNat), (6, t.toNat), (3, h.pred.toNat), (1, h.neg.toNat), (4, h.stall.toNat)] ++ [(8, 0x34)] from rfl]
  obtain ⟨e1, e2⟩ := nibbles [(24, disp.toNat), (6, index.toNat), (3, 0), (3, size.toNat), (6, base.toNat), (6, t.toNat), (3, h.pred.toNat), (1, h.neg.toNat), (4, h.stall.toNat)] 0x34 3 4 (by simp only [fieldWidth]) rfl rfl
  rw [decodeRaw_hi3 _ _ e1, decHi3_4 _ _ _ e2]
  have u : unpackBits [24, 6, 3, 3, 6, 6, 3, 1, 4, 8] (packBits ([(24, disp.toNat), (6, index.toNat), (3, 0), (3, size.toNat), (6, base.toNat), (6, t.toNat), (3, h.pred.toNat), (1, h.neg.toNat), (4, h.stall.toNat)] ++ [(8, 0x34)])) = [disp.toNat, index.toNat, 0, size.toNat, base.toNat, t.toNat, h.pred.toNat, h.neg.toNat, h.stall.toNat, 52] :=
    unpackBits_pack [(24, disp.toNat), (6, index.toNat), (3, 0), (3, size.toNat), (6, base.toNat), (6, t.toNat), (3, h.pred.toNat), (1, h.neg.toNat), (4, h.stall.toNat), (8, 0x34)] ⟨disp.isLt, index.isLt, by decide, size.isLt, base.isLt, t.isLt, h.pred.isLt, h.neg.isLt, h.stall.isLt, by decide, trivial⟩
  unfold decOp34
  rw [u]
  show (some (Instr.lea ⟨BitVec.ofNat 4 h.stall.toNat, BitVec.ofNat 1 h.neg.toNat, BitVec.ofNat 3 h.pred.toNat⟩ (BitVec.ofNat 6 t.toNat) (BitVec.ofNat 6 base.toNat) (BitVec.ofNat 3 size.toNat) (BitVec.ofNat 6 index.toNat) (BitVec.ofNat 24 disp.toNat))) = _
  simp only [BitVec.ofNat_toNat, BitVec.setWidth_eq]
theorem leapc (h : Hdr) (d : BitVec 6) (imm : BitVec 36) : Statement (.leapc h d imm) := by
  intro _ hw w1
  refine decode_of_raw (w1 := w1) (by show fieldWidth [(36, imm.toNat), (6, 0), (6, d.toNat), (3, h.pred.toNat), (1, h.neg.toNat), (4, h.stall.toNat), (8, 0x35)] = 64; simp only [fieldWidth]) ?_ hw
  rw [show Instr.fields (.leapc h d imm) = [(36, imm.toNat), (6, 0), (6, d.toNat), (3, h.pred.toNat), (1, h.neg.toNat), (4, h.stall.toNat)] ++ [(8, 0x35)] from rfl]
  obtain ⟨e1, e2⟩ := nibbles [(36, imm.toNat), (6, 0), (6, d.toNat), (3, h.pred.toNat), (1, h.neg.toNat), (4, h.stall.toNat)] 0x35 3 5 (by simp only [fieldWidth]) rfl rfl
  rw [decodeRaw_hi3 _ _ e1, decHi3_5 _ _ _ e2]
  have u : unpackBits [36, 6, 6, 3, 1, 4, 8] (packBits ([(36, imm.toNat), (6, 0), (6, d.toNat), (3, h.pred.toNat), (1, h.neg.toNat), (4, h.stall.toNat)] ++ [(8, 0x35)])) = [imm.toNat, 0, d.toNat, h.pred.toNat, h.neg.toNat, h.stall.toNat, 53] :=
    unpackBits_pack [(36, imm.toNat), (6, 0), (6, d.toNat), (3, h.pred.toNat), (1, h.neg.toNat), (4, h.stall.toNat), (8, 0x35)] ⟨imm.isLt, by decide, d.isLt, h.pred.isLt, h.neg.isLt, h.stall.isLt, by decide, trivial⟩
  unfold decOp35
  rw [u]
  show (some (Instr.leapc ⟨BitVec.ofNat 4 h.stall.toNat, BitVec.ofNat 1 h.neg.toNat, BitVec.ofNat 3 h.pred.toNat⟩ (BitVec.ofNat 6 d.toNat) (BitVec.ofNat 36 imm.toNat))) = _
  simp only [BitVec.ofNat_toNat, BitVec.setWidth_eq]
theorem bfx (h : Hdr) (a b : BitVec 6) (sx : BitVec 1) (lenm1 pos : BitVec 6) : Statement (.bfx h a b sx lenm1 pos) := by
  intro _ hw w1
  refine decode_of_raw (w1 := w1) (by show fieldWidth [(6, pos.toNat), (6, lenm1.toNat), (12, 0), (1, sx.toNat), (11, 0), (6, b.toNat), (6, a.toNat), (3, h.pred.toNat), (1, h.neg.toNat), (4, h.stall.toNat), (8, 0x36)] = 64; simp only [fieldWidth]) ?_ hw
  rw [show Instr.fields (.bfx h a b sx lenm1 pos) = [(6, pos.toNat), (6, lenm1.toNat), (12, 0), (1, sx.toNat), (11, 0), (6, b.toNat), (6, a.toNat), (3, h.pred.toNat), (1, h.neg.toNat), (4, h.stall.toNat)] ++ [(8, 0x36)] from rfl]
  obtain ⟨e1, e2⟩ := nibbles [(6, pos.toNat), (6, lenm1.toNat), (12, 0), (1, sx.toNat), (11, 0), (6, b.toNat), (6, a.toNat), (3, h.pred.toNat), (1, h.neg.toNat), (4, h.stall.toNat)] 0x36 3 6 (by simp only [fieldWidth]) rfl rfl
  rw [decodeRaw_hi3 _ _ e1, decHi3_6 _ _ _ e2]
  have u : unpackBits [6, 6, 12, 1, 11, 6, 6, 3, 1, 4, 8] (packBits ([(6, pos.toNat), (6, lenm1.toNat), (12, 0), (1, sx.toNat), (11, 0), (6, b.toNat), (6, a.toNat), (3, h.pred.toNat), (1, h.neg.toNat), (4, h.stall.toNat)] ++ [(8, 0x36)])) = [pos.toNat, lenm1.toNat, 0, sx.toNat, 0, b.toNat, a.toNat, h.pred.toNat, h.neg.toNat, h.stall.toNat, 54] :=
    unpackBits_pack [(6, pos.toNat), (6, lenm1.toNat), (12, 0), (1, sx.toNat), (11, 0), (6, b.toNat), (6, a.toNat), (3, h.pred.toNat), (1, h.neg.toNat), (4, h.stall.toNat), (8, 0x36)] ⟨pos.isLt, lenm1.isLt, by decide, sx.isLt, by decide, b.isLt, a.isLt, h.pred.isLt, h.neg.isLt, h.stall.isLt, by decide, trivial⟩
  unfold decOp36
  rw [u]
  show (some (Instr.bfx ⟨BitVec.ofNat 4 h.stall.toNat, BitVec.ofNat 1 h.neg.toNat, BitVec.ofNat 3 h.pred.toNat⟩ (BitVec.ofNat 6 a.toNat) (BitVec.ofNat 6 b.toNat) (BitVec.ofNat 1 sx.toNat) (BitVec.ofNat 6 lenm1.toNat) (BitVec.ofNat 6 pos.toNat))) = _
  simp only [BitVec.ofNat_toNat, BitVec.setWidth_eq]
theorem bfi (h : Hdr) (a b lenm1 pos : BitVec 6) : Statement (.bfi h a b lenm1 pos) := by
  intro _ hw w1
  refine decode_of_raw (w1 := w1) (by show fieldWidth [(6, pos.toNat), (6, lenm1.toNat), (24, 0), (6, b.toNat), (6, a.toNat), (3, h.pred.toNat), (1, h.neg.toNat), (4, h.stall.toNat), (8, 0x37)] = 64; simp only [fieldWidth]) ?_ hw
  rw [show Instr.fields (.bfi h a b lenm1 pos) = [(6, pos.toNat), (6, lenm1.toNat), (24, 0), (6, b.toNat), (6, a.toNat), (3, h.pred.toNat), (1, h.neg.toNat), (4, h.stall.toNat)] ++ [(8, 0x37)] from rfl]
  obtain ⟨e1, e2⟩ := nibbles [(6, pos.toNat), (6, lenm1.toNat), (24, 0), (6, b.toNat), (6, a.toNat), (3, h.pred.toNat), (1, h.neg.toNat), (4, h.stall.toNat)] 0x37 3 7 (by simp only [fieldWidth]) rfl rfl
  rw [decodeRaw_hi3 _ _ e1, decHi3_7 _ _ _ e2]
  have u : unpackBits [6, 6, 24, 6, 6, 3, 1, 4, 8] (packBits ([(6, pos.toNat), (6, lenm1.toNat), (24, 0), (6, b.toNat), (6, a.toNat), (3, h.pred.toNat), (1, h.neg.toNat), (4, h.stall.toNat)] ++ [(8, 0x37)])) = [pos.toNat, lenm1.toNat, 0, b.toNat, a.toNat, h.pred.toNat, h.neg.toNat, h.stall.toNat, 55] :=
    unpackBits_pack [(6, pos.toNat), (6, lenm1.toNat), (24, 0), (6, b.toNat), (6, a.toNat), (3, h.pred.toNat), (1, h.neg.toNat), (4, h.stall.toNat), (8, 0x37)] ⟨pos.isLt, lenm1.isLt, by decide, b.isLt, a.isLt, h.pred.isLt, h.neg.isLt, h.stall.isLt, by decide, trivial⟩
  unfold decOp37
  rw [u]
  show (some (Instr.bfi ⟨BitVec.ofNat 4 h.stall.toNat, BitVec.ofNat 1 h.neg.toNat, BitVec.ofNat 3 h.pred.toNat⟩ (BitVec.ofNat 6 a.toNat) (BitVec.ofNat 6 b.toNat) (BitVec.ofNat 6 lenm1.toNat) (BitVec.ofNat 6 pos.toNat))) = _
  simp only [BitVec.ofNat_toNat, BitVec.setWidth_eq]
theorem rot (h : Hdr) (d a b : BitVec 6) : Statement (.rot h d a b) := by
  intro _ hw w1
  refine decode_of_raw (w1 := w1) (by show fieldWidth [(30, 0), (6, b.toNat), (6, a.toNat), (6, d.toNat), (3, h.pred.toNat), (1, h.neg.toNat), (4, h.stall.toNat), (8, 0x38)] = 64; simp only [fieldWidth]) ?_ hw
  rw [show Instr.fields (.rot h d a b) = [(30, 0), (6, b.toNat), (6, a.toNat), (6, d.toNat), (3, h.pred.toNat), (1, h.neg.toNat), (4, h.stall.toNat)] ++ [(8, 0x38)] from rfl]
  obtain ⟨e1, e2⟩ := nibbles [(30, 0), (6, b.toNat), (6, a.toNat), (6, d.toNat), (3, h.pred.toNat), (1, h.neg.toNat), (4, h.stall.toNat)] 0x38 3 8 (by simp only [fieldWidth]) rfl rfl
  rw [decodeRaw_hi3 _ _ e1, decHi3_8 _ _ _ e2]
  have u : unpackBits [30, 6, 6, 6, 3, 1, 4, 8] (packBits ([(30, 0), (6, b.toNat), (6, a.toNat), (6, d.toNat), (3, h.pred.toNat), (1, h.neg.toNat), (4, h.stall.toNat)] ++ [(8, 0x38)])) = [0, b.toNat, a.toNat, d.toNat, h.pred.toNat, h.neg.toNat, h.stall.toNat, 56] :=
    unpackBits_pack [(30, 0), (6, b.toNat), (6, a.toNat), (6, d.toNat), (3, h.pred.toNat), (1, h.neg.toNat), (4, h.stall.toNat), (8, 0x38)] ⟨by decide, b.isLt, a.isLt, d.isLt, h.pred.isLt, h.neg.isLt, h.stall.isLt, by decide, trivial⟩
  unfold decOp38
  rw [u]
  show (some (Instr.rot ⟨BitVec.ofNat 4 h.stall.toNat, BitVec.ofNat 1 h.neg.toNat, BitVec.ofNat 3 h.pred.toNat⟩ (BitVec.ofNat 6 d.toNat) (BitVec.ofNat 6 a.toNat) (BitVec.ofNat 6 b.toNat))) = _
  simp only [BitVec.ofNat_toNat, BitVec.setWidth_eq]
theorem roti (h : Hdr) (d a k : BitVec 6) : Statement (.roti h d a k) := by
  intro _ hw w1
  refine decode_of_raw (w1 := w1) (by show fieldWidth [(6, k.toNat), (30, 0), (6, a.toNat), (6, d.toNat), (3, h.pred.toNat), (1, h.neg.toNat), (4, h.stall.toNat), (8, 0x39)] = 64; simp only [fieldWidth]) ?_ hw
  rw [show Instr.fields (.roti h d a k) = [(6, k.toNat), (30, 0), (6, a.toNat), (6, d.toNat), (3, h.pred.toNat), (1, h.neg.toNat), (4, h.stall.toNat)] ++ [(8, 0x39)] from rfl]
  obtain ⟨e1, e2⟩ := nibbles [(6, k.toNat), (30, 0), (6, a.toNat), (6, d.toNat), (3, h.pred.toNat), (1, h.neg.toNat), (4, h.stall.toNat)] 0x39 3 9 (by simp only [fieldWidth]) rfl rfl
  rw [decodeRaw_hi3 _ _ e1, decHi3_9 _ _ _ e2]
  have u : unpackBits [6, 30, 6, 6, 3, 1, 4, 8] (packBits ([(6, k.toNat), (30, 0), (6, a.toNat), (6, d.toNat), (3, h.pred.toNat), (1, h.neg.toNat), (4, h.stall.toNat)] ++ [(8, 0x39)])) = [k.toNat, 0, a.toNat, d.toNat, h.pred.toNat, h.neg.toNat, h.stall.toNat, 57] :=
    unpackBits_pack [(6, k.toNat), (30, 0), (6, a.toNat), (6, d.toNat), (3, h.pred.toNat), (1, h.neg.toNat), (4, h.stall.toNat), (8, 0x39)] ⟨k.isLt, by decide, a.isLt, d.isLt, h.pred.isLt, h.neg.isLt, h.stall.isLt, by decide, trivial⟩
  unfold decOp39
  rw [u]
  show (some (Instr.roti ⟨BitVec.ofNat 4 h.stall.toNat, BitVec.ofNat 1 h.neg.toNat, BitVec.ofNat 3 h.pred.toNat⟩ (BitVec.ofNat 6 d.toNat) (BitVec.ofNat 6 a.toNat) (BitVec.ofNat 6 k.toNat))) = _
  simp only [BitVec.ofNat_toNat, BitVec.setWidth_eq]
theorem madd (h : Hdr) (a b c e : BitVec 6) : Statement (.madd h a b c e) := by
  intro _ hw w1
  refine decode_of_raw (w1 := w1) (by show fieldWidth [(6, e.toNat), (24, 0), (6, c.toNat), (6, b.toNat), (6, a.toNat), (3, h.pred.toNat), (1, h.neg.toNat), (4, h.stall.toNat), (8, 0x3a)] = 64; simp only [fieldWidth]) ?_ hw
  rw [show Instr.fields (.madd h a b c e) = [(6, e.toNat), (24, 0), (6, c.toNat), (6, b.toNat), (6, a.toNat), (3, h.pred.toNat), (1, h.neg.toNat), (4, h.stall.toNat)] ++ [(8, 0x3A)] from rfl]
  obtain ⟨e1, e2⟩ := nibbles [(6, e.toNat), (24, 0), (6, c.toNat), (6, b.toNat), (6, a.toNat), (3, h.pred.toNat), (1, h.neg.toNat), (4, h.stall.toNat)] 0x3A 3 10 (by simp only [fieldWidth]) rfl rfl
  rw [decodeRaw_hi3 _ _ e1, decHi3_A _ _ _ e2]
  have u : unpackBits [6, 24, 6, 6, 6, 3, 1, 4, 8] (packBits ([(6, e.toNat), (24, 0), (6, c.toNat), (6, b.toNat), (6, a.toNat), (3, h.pred.toNat), (1, h.neg.toNat), (4, h.stall.toNat)] ++ [(8, 0x3A)])) = [e.toNat, 0, c.toNat, b.toNat, a.toNat, h.pred.toNat, h.neg.toNat, h.stall.toNat, 58] :=
    unpackBits_pack [(6, e.toNat), (24, 0), (6, c.toNat), (6, b.toNat), (6, a.toNat), (3, h.pred.toNat), (1, h.neg.toNat), (4, h.stall.toNat), (8, 0x3a)] ⟨e.isLt, by decide, c.isLt, b.isLt, a.isLt, h.pred.isLt, h.neg.isLt, h.stall.isLt, by decide, trivial⟩
  unfold decOp3A
  rw [u]
  show (some (Instr.madd ⟨BitVec.ofNat 4 h.stall.toNat, BitVec.ofNat 1 h.neg.toNat, BitVec.ofNat 3 h.pred.toNat⟩ (BitVec.ofNat 6 a.toNat) (BitVec.ofNat 6 b.toNat) (BitVec.ofNat 6 c.toNat) (BitVec.ofNat 6 e.toNat))) = _
  simp only [BitVec.ofNat_toNat, BitVec.setWidth_eq]
theorem bswapD (h : Hdr) (d a : BitVec 6) : Statement (.bswapD h d a) := by
  intro _ hw w1
  refine decode_of_raw (w1 := w1) (by show fieldWidth [(36, 0), (6, a.toNat), (6, d.toNat), (3, h.pred.toNat), (1, h.neg.toNat), (4, h.stall.toNat), (8, 0x3b)] = 64; simp only [fieldWidth]) ?_ hw
  rw [show Instr.fields (.bswapD h d a) = [(36, 0), (6, a.toNat), (6, d.toNat), (3, h.pred.toNat), (1, h.neg.toNat), (4, h.stall.toNat)] ++ [(8, 0x3B)] from rfl]
  obtain ⟨e1, e2⟩ := nibbles [(36, 0), (6, a.toNat), (6, d.toNat), (3, h.pred.toNat), (1, h.neg.toNat), (4, h.stall.toNat)] 0x3B 3 11 (by simp only [fieldWidth]) rfl rfl
  rw [decodeRaw_hi3 _ _ e1, decHi3_B _ _ _ e2]
  have u : unpackBits [36, 6, 6, 3, 1, 4, 8] (packBits ([(36, 0), (6, a.toNat), (6, d.toNat), (3, h.pred.toNat), (1, h.neg.toNat), (4, h.stall.toNat)] ++ [(8, 0x3B)])) = [0, a.toNat, d.toNat, h.pred.toNat, h.neg.toNat, h.stall.toNat, 59] :=
    unpackBits_pack [(36, 0), (6, a.toNat), (6, d.toNat), (3, h.pred.toNat), (1, h.neg.toNat), (4, h.stall.toNat), (8, 0x3b)] ⟨by decide, a.isLt, d.isLt, h.pred.isLt, h.neg.isLt, h.stall.isLt, by decide, trivial⟩
  unfold decOp3B
  rw [u]
  show (some (Instr.bswapD ⟨BitVec.ofNat 4 h.stall.toNat, BitVec.ofNat 1 h.neg.toNat, BitVec.ofNat 3 h.pred.toNat⟩ (BitVec.ofNat 6 d.toNat) (BitVec.ofNat 6 a.toNat))) = _
  simp only [BitVec.ofNat_toNat, BitVec.setWidth_eq]
theorem bswapW (h : Hdr) (d a : BitVec 6) : Statement (.bswapW h d a) := by
  intro _ hw w1
  refine decode_of_raw (w1 := w1) (by show fieldWidth [(36, 16777216), (6, a.toNat), (6, d.toNat), (3, h.pred.toNat), (1, h.neg.toNat), (4, h.stall.toNat), (8, 0x3b)] = 64; simp only [fieldWidth]) ?_ hw
  rw [show Instr.fields (.bswapW h d a) = [(36, 16777216), (6, a.toNat), (6, d.toNat), (3, h.pred.toNat), (1, h.neg.toNat), (4, h.stall.toNat)] ++ [(8, 0x3B)] from rfl]
  obtain ⟨e1, e2⟩ := nibbles [(36, 16777216), (6, a.toNat), (6, d.toNat), (3, h.pred.toNat), (1, h.neg.toNat), (4, h.stall.toNat)] 0x3B 3 11 (by simp only [fieldWidth]) rfl rfl
  rw [decodeRaw_hi3 _ _ e1, decHi3_B _ _ _ e2]
  have u : unpackBits [36, 6, 6, 3, 1, 4, 8] (packBits ([(36, 16777216), (6, a.toNat), (6, d.toNat), (3, h.pred.toNat), (1, h.neg.toNat), (4, h.stall.toNat)] ++ [(8, 0x3B)])) = [16777216, a.toNat, d.toNat, h.pred.toNat, h.neg.toNat, h.stall.toNat, 59] :=
    unpackBits_pack [(36, 16777216), (6, a.toNat), (6, d.toNat), (3, h.pred.toNat), (1, h.neg.toNat), (4, h.stall.toNat), (8, 0x3b)] ⟨by decide, a.isLt, d.isLt, h.pred.isLt, h.neg.isLt, h.stall.isLt, by decide, trivial⟩
  unfold decOp3B
  rw [u]
  show (some (Instr.bswapW ⟨BitVec.ofNat 4 h.stall.toNat, BitVec.ofNat 1 h.neg.toNat, BitVec.ofNat 3 h.pred.toNat⟩ (BitVec.ofNat 6 d.toNat) (BitVec.ofNat 6 a.toNat))) = _
  simp only [BitVec.ofNat_toNat, BitVec.setWidth_eq]
theorem bswapH (h : Hdr) (d a : BitVec 6) : Statement (.bswapH h d a) := by
  intro _ hw w1
  refine decode_of_raw (w1 := w1) (by show fieldWidth [(36, 33554432), (6, a.toNat), (6, d.toNat), (3, h.pred.toNat), (1, h.neg.toNat), (4, h.stall.toNat), (8, 0x3b)] = 64; simp only [fieldWidth]) ?_ hw
  rw [show Instr.fields (.bswapH h d a) = [(36, 33554432), (6, a.toNat), (6, d.toNat), (3, h.pred.toNat), (1, h.neg.toNat), (4, h.stall.toNat)] ++ [(8, 0x3B)] from rfl]
  obtain ⟨e1, e2⟩ := nibbles [(36, 33554432), (6, a.toNat), (6, d.toNat), (3, h.pred.toNat), (1, h.neg.toNat), (4, h.stall.toNat)] 0x3B 3 11 (by simp only [fieldWidth]) rfl rfl
  rw [decodeRaw_hi3 _ _ e1, decHi3_B _ _ _ e2]
  have u : unpackBits [36, 6, 6, 3, 1, 4, 8] (packBits ([(36, 33554432), (6, a.toNat), (6, d.toNat), (3, h.pred.toNat), (1, h.neg.toNat), (4, h.stall.toNat)] ++ [(8, 0x3B)])) = [33554432, a.toNat, d.toNat, h.pred.toNat, h.neg.toNat, h.stall.toNat, 59] :=
    unpackBits_pack [(36, 33554432), (6, a.toNat), (6, d.toNat), (3, h.pred.toNat), (1, h.neg.toNat), (4, h.stall.toNat), (8, 0x3b)] ⟨by decide, a.isLt, d.isLt, h.pred.isLt, h.neg.isLt, h.stall.isLt, by decide, trivial⟩
  unfold decOp3B
  rw [u]
  show (some (Instr.bswapH ⟨BitVec.ofNat 4 h.stall.toNat, BitVec.ofNat 1 h.neg.toNat, BitVec.ofNat 3 h.pred.toNat⟩ (BitVec.ofNat 6 d.toNat) (BitVec.ofNat 6 a.toNat))) = _
  simp only [BitVec.ofNat_toNat, BitVec.setWidth_eq]
theorem crc (h : Hdr) (d a b : BitVec 6) (poly : BitVec 1) (size : BitVec 2) : Statement (.crc h d a b poly size) := by
  intro _ hw w1
  refine decode_of_raw (w1 := w1) (by show fieldWidth [(24, 0), (2, size.toNat), (1, poly.toNat), (3, 0), (6, b.toNat), (6, a.toNat), (6, d.toNat), (3, h.pred.toNat), (1, h.neg.toNat), (4, h.stall.toNat), (8, 0x3c)] = 64; simp only [fieldWidth]) ?_ hw
  rw [show Instr.fields (.crc h d a b poly size) = [(24, 0), (2, size.toNat), (1, poly.toNat), (3, 0), (6, b.toNat), (6, a.toNat), (6, d.toNat), (3, h.pred.toNat), (1, h.neg.toNat), (4, h.stall.toNat)] ++ [(8, 0x3C)] from rfl]
  obtain ⟨e1, e2⟩ := nibbles [(24, 0), (2, size.toNat), (1, poly.toNat), (3, 0), (6, b.toNat), (6, a.toNat), (6, d.toNat), (3, h.pred.toNat), (1, h.neg.toNat), (4, h.stall.toNat)] 0x3C 3 12 (by simp only [fieldWidth]) rfl rfl
  rw [decodeRaw_hi3 _ _ e1, decHi3_C _ _ _ e2]
  have u : unpackBits [24, 2, 1, 3, 6, 6, 6, 3, 1, 4, 8] (packBits ([(24, 0), (2, size.toNat), (1, poly.toNat), (3, 0), (6, b.toNat), (6, a.toNat), (6, d.toNat), (3, h.pred.toNat), (1, h.neg.toNat), (4, h.stall.toNat)] ++ [(8, 0x3C)])) = [0, size.toNat, poly.toNat, 0, b.toNat, a.toNat, d.toNat, h.pred.toNat, h.neg.toNat, h.stall.toNat, 60] :=
    unpackBits_pack [(24, 0), (2, size.toNat), (1, poly.toNat), (3, 0), (6, b.toNat), (6, a.toNat), (6, d.toNat), (3, h.pred.toNat), (1, h.neg.toNat), (4, h.stall.toNat), (8, 0x3c)] ⟨by decide, size.isLt, poly.isLt, by decide, b.isLt, a.isLt, d.isLt, h.pred.isLt, h.neg.isLt, h.stall.isLt, by decide, trivial⟩
  unfold decOp3C
  rw [u]
  show (some (Instr.crc ⟨BitVec.ofNat 4 h.stall.toNat, BitVec.ofNat 1 h.neg.toNat, BitVec.ofNat 3 h.pred.toNat⟩ (BitVec.ofNat 6 d.toNat) (BitVec.ofNat 6 a.toNat) (BitVec.ofNat 6 b.toNat) (BitVec.ofNat 1 poly.toNat) (BitVec.ofNat 2 size.toNat))) = _
  simp only [BitVec.ofNat_toNat, BitVec.setWidth_eq]
theorem hash (h : Hdr) (d a b : BitVec 6) : Statement (.hash h d a b) := by
  intro _ hw w1
  refine decode_of_raw (w1 := w1) (by show fieldWidth [(30, 0), (6, b.toNat), (6, a.toNat), (6, d.toNat), (3, h.pred.toNat), (1, h.neg.toNat), (4, h.stall.toNat), (8, 0x3d)] = 64; simp only [fieldWidth]) ?_ hw
  rw [show Instr.fields (.hash h d a b) = [(30, 0), (6, b.toNat), (6, a.toNat), (6, d.toNat), (3, h.pred.toNat), (1, h.neg.toNat), (4, h.stall.toNat)] ++ [(8, 0x3D)] from rfl]
  obtain ⟨e1, e2⟩ := nibbles [(30, 0), (6, b.toNat), (6, a.toNat), (6, d.toNat), (3, h.pred.toNat), (1, h.neg.toNat), (4, h.stall.toNat)] 0x3D 3 13 (by simp only [fieldWidth]) rfl rfl
  rw [decodeRaw_hi3 _ _ e1, decHi3_D _ _ _ e2]
  have u : unpackBits [30, 6, 6, 6, 3, 1, 4, 8] (packBits ([(30, 0), (6, b.toNat), (6, a.toNat), (6, d.toNat), (3, h.pred.toNat), (1, h.neg.toNat), (4, h.stall.toNat)] ++ [(8, 0x3D)])) = [0, b.toNat, a.toNat, d.toNat, h.pred.toNat, h.neg.toNat, h.stall.toNat, 61] :=
    unpackBits_pack [(30, 0), (6, b.toNat), (6, a.toNat), (6, d.toNat), (3, h.pred.toNat), (1, h.neg.toNat), (4, h.stall.toNat), (8, 0x3d)] ⟨by decide, b.isLt, a.isLt, d.isLt, h.pred.isLt, h.neg.isLt, h.stall.isLt, by decide, trivial⟩
  unfold decOp3D
  rw [u]
  show (some (Instr.hash ⟨BitVec.ofNat 4 h.stall.toNat, BitVec.ofNat 1 h.neg.toNat, BitVec.ofNat 3 h.pred.toNat⟩ (BitVec.ofNat 6 d.toNat) (BitVec.ofNat 6 a.toNat) (BitVec.ofNat 6 b.toNat))) = _
  simp only [BitVec.ofNat_toNat, BitVec.setWidth_eq]
theorem rdcyc (h : Hdr) (d : BitVec 6) : Statement (.rdcyc h d) := by
  intro _ hw w1
  refine decode_of_raw (w1 := w1) (by show fieldWidth [(42, 0), (6, d.toNat), (3, h.pred.toNat), (1, h.neg.toNat), (4, h.stall.toNat), (8, 0x3e)] = 64; simp only [fieldWidth]) ?_ hw
  rw [show Instr.fields (.rdcyc h d) = [(42, 0), (6, d.toNat), (3, h.pred.toNat), (1, h.neg.toNat), (4, h.stall.toNat)] ++ [(8, 0x3E)] from rfl]
  obtain ⟨e1, e2⟩ := nibbles [(42, 0), (6, d.toNat), (3, h.pred.toNat), (1, h.neg.toNat), (4, h.stall.toNat)] 0x3E 3 14 (by simp only [fieldWidth]) rfl rfl
  rw [decodeRaw_hi3 _ _ e1, decHi3_E _ _ _ e2]
  have u : unpackBits [42, 6, 3, 1, 4, 8] (packBits ([(42, 0), (6, d.toNat), (3, h.pred.toNat), (1, h.neg.toNat), (4, h.stall.toNat)] ++ [(8, 0x3E)])) = [0, d.toNat, h.pred.toNat, h.neg.toNat, h.stall.toNat, 62] :=
    unpackBits_pack [(42, 0), (6, d.toNat), (3, h.pred.toNat), (1, h.neg.toNat), (4, h.stall.toNat), (8, 0x3e)] ⟨by decide, d.isLt, h.pred.isLt, h.neg.isLt, h.stall.isLt, by decide, trivial⟩
  unfold decOp3E
  rw [u]
  show (some (Instr.rdcyc ⟨BitVec.ofNat 4 h.stall.toNat, BitVec.ofNat 1 h.neg.toNat, BitVec.ofNat 3 h.pred.toNat⟩ (BitVec.ofNat 6 d.toNat))) = _
  simp only [BitVec.ofNat_toNat, BitVec.setWidth_eq]
theorem rdid (h : Hdr) (d : BitVec 6) : Statement (.rdid h d) := by
  intro _ hw w1
  refine decode_of_raw (w1 := w1) (by show fieldWidth [(42, 0), (6, d.toNat), (3, h.pred.toNat), (1, h.neg.toNat), (4, h.stall.toNat), (8, 0x3f)] = 64; simp only [fieldWidth]) ?_ hw
  rw [show Instr.fields (.rdid h d) = [(42, 0), (6, d.toNat), (3, h.pred.toNat), (1, h.neg.toNat), (4, h.stall.toNat)] ++ [(8, 0x3F)] from rfl]
  obtain ⟨e1, e2⟩ := nibbles [(42, 0), (6, d.toNat), (3, h.pred.toNat), (1, h.neg.toNat), (4, h.stall.toNat)] 0x3F 3 15 (by simp only [fieldWidth]) rfl rfl
  rw [decodeRaw_hi3 _ _ e1, decHi3_F _ _ _ e2]
  have u : unpackBits [42, 6, 3, 1, 4, 8] (packBits ([(42, 0), (6, d.toNat), (3, h.pred.toNat), (1, h.neg.toNat), (4, h.stall.toNat)] ++ [(8, 0x3F)])) = [0, d.toNat, h.pred.toNat, h.neg.toNat, h.stall.toNat, 63] :=
    unpackBits_pack [(42, 0), (6, d.toNat), (3, h.pred.toNat), (1, h.neg.toNat), (4, h.stall.toNat), (8, 0x3f)] ⟨by decide, d.isLt, h.pred.isLt, h.neg.isLt, h.stall.isLt, by decide, trivial⟩
  unfold decOp3F
  rw [u]
  show (some (Instr.rdid ⟨BitVec.ofNat 4 h.stall.toNat, BitVec.ofNat 1 h.neg.toNat, BitVec.ofNat 3 h.pred.toNat⟩ (BitVec.ofNat 6 d.toNat))) = _
  simp only [BitVec.ofNat_toNat, BitVec.setWidth_eq]
theorem fadd (h : Hdr) (d a b : BitVec 6) (rm : BitVec 3) : Statement (.fadd h d a b rm) := by
  intro _ hw w1
  refine decode_of_raw (w1 := w1) (by show fieldWidth [(24, 0), (3, rm.toNat), (3, 0), (6, b.toNat), (6, a.toNat), (6, d.toNat), (3, h.pred.toNat), (1, h.neg.toNat), (4, h.stall.toNat), (8, 0x40)] = 64; simp only [fieldWidth]) ?_ hw
  rw [show Instr.fields (.fadd h d a b rm) = [(24, 0), (3, rm.toNat), (3, 0), (6, b.toNat), (6, a.toNat), (6, d.toNat), (3, h.pred.toNat), (1, h.neg.toNat), (4, h.stall.toNat)] ++ [(8, 0x40)] from rfl]
  obtain ⟨e1, e2⟩ := nibbles [(24, 0), (3, rm.toNat), (3, 0), (6, b.toNat), (6, a.toNat), (6, d.toNat), (3, h.pred.toNat), (1, h.neg.toNat), (4, h.stall.toNat)] 0x40 4 0 (by simp only [fieldWidth]) rfl rfl
  rw [decodeRaw_hi4 _ _ e1, decHi4_0 _ _ _ e2]
  have u : unpackBits [24, 3, 3, 6, 6, 6, 3, 1, 4, 8] (packBits ([(24, 0), (3, rm.toNat), (3, 0), (6, b.toNat), (6, a.toNat), (6, d.toNat), (3, h.pred.toNat), (1, h.neg.toNat), (4, h.stall.toNat)] ++ [(8, 0x40)])) = [0, rm.toNat, 0, b.toNat, a.toNat, d.toNat, h.pred.toNat, h.neg.toNat, h.stall.toNat, 64] :=
    unpackBits_pack [(24, 0), (3, rm.toNat), (3, 0), (6, b.toNat), (6, a.toNat), (6, d.toNat), (3, h.pred.toNat), (1, h.neg.toNat), (4, h.stall.toNat), (8, 0x40)] ⟨by decide, rm.isLt, by decide, b.isLt, a.isLt, d.isLt, h.pred.isLt, h.neg.isLt, h.stall.isLt, by decide, trivial⟩
  unfold decOp40
  rw [u]
  show (some (Instr.fadd ⟨BitVec.ofNat 4 h.stall.toNat, BitVec.ofNat 1 h.neg.toNat, BitVec.ofNat 3 h.pred.toNat⟩ (BitVec.ofNat 6 d.toNat) (BitVec.ofNat 6 a.toNat) (BitVec.ofNat 6 b.toNat) (BitVec.ofNat 3 rm.toNat))) = _
  simp only [BitVec.ofNat_toNat, BitVec.setWidth_eq]
theorem fsub (h : Hdr) (d a b : BitVec 6) (rm : BitVec 3) : Statement (.fsub h d a b rm) := by
  intro _ hw w1
  refine decode_of_raw (w1 := w1) (by show fieldWidth [(24, 0), (3, rm.toNat), (3, 0), (6, b.toNat), (6, a.toNat), (6, d.toNat), (3, h.pred.toNat), (1, h.neg.toNat), (4, h.stall.toNat), (8, 0x41)] = 64; simp only [fieldWidth]) ?_ hw
  rw [show Instr.fields (.fsub h d a b rm) = [(24, 0), (3, rm.toNat), (3, 0), (6, b.toNat), (6, a.toNat), (6, d.toNat), (3, h.pred.toNat), (1, h.neg.toNat), (4, h.stall.toNat)] ++ [(8, 0x41)] from rfl]
  obtain ⟨e1, e2⟩ := nibbles [(24, 0), (3, rm.toNat), (3, 0), (6, b.toNat), (6, a.toNat), (6, d.toNat), (3, h.pred.toNat), (1, h.neg.toNat), (4, h.stall.toNat)] 0x41 4 1 (by simp only [fieldWidth]) rfl rfl
  rw [decodeRaw_hi4 _ _ e1, decHi4_1 _ _ _ e2]
  have u : unpackBits [24, 3, 3, 6, 6, 6, 3, 1, 4, 8] (packBits ([(24, 0), (3, rm.toNat), (3, 0), (6, b.toNat), (6, a.toNat), (6, d.toNat), (3, h.pred.toNat), (1, h.neg.toNat), (4, h.stall.toNat)] ++ [(8, 0x41)])) = [0, rm.toNat, 0, b.toNat, a.toNat, d.toNat, h.pred.toNat, h.neg.toNat, h.stall.toNat, 65] :=
    unpackBits_pack [(24, 0), (3, rm.toNat), (3, 0), (6, b.toNat), (6, a.toNat), (6, d.toNat), (3, h.pred.toNat), (1, h.neg.toNat), (4, h.stall.toNat), (8, 0x41)] ⟨by decide, rm.isLt, by decide, b.isLt, a.isLt, d.isLt, h.pred.isLt, h.neg.isLt, h.stall.isLt, by decide, trivial⟩
  unfold decOp41
  rw [u]
  show (some (Instr.fsub ⟨BitVec.ofNat 4 h.stall.toNat, BitVec.ofNat 1 h.neg.toNat, BitVec.ofNat 3 h.pred.toNat⟩ (BitVec.ofNat 6 d.toNat) (BitVec.ofNat 6 a.toNat) (BitVec.ofNat 6 b.toNat) (BitVec.ofNat 3 rm.toNat))) = _
  simp only [BitVec.ofNat_toNat, BitVec.setWidth_eq]
theorem fmul (h : Hdr) (d a b : BitVec 6) (rm : BitVec 3) : Statement (.fmul h d a b rm) := by
  intro _ hw w1
  refine decode_of_raw (w1 := w1) (by show fieldWidth [(24, 0), (3, rm.toNat), (3, 0), (6, b.toNat), (6, a.toNat), (6, d.toNat), (3, h.pred.toNat), (1, h.neg.toNat), (4, h.stall.toNat), (8, 0x42)] = 64; simp only [fieldWidth]) ?_ hw
  rw [show Instr.fields (.fmul h d a b rm) = [(24, 0), (3, rm.toNat), (3, 0), (6, b.toNat), (6, a.toNat), (6, d.toNat), (3, h.pred.toNat), (1, h.neg.toNat), (4, h.stall.toNat)] ++ [(8, 0x42)] from rfl]
  obtain ⟨e1, e2⟩ := nibbles [(24, 0), (3, rm.toNat), (3, 0), (6, b.toNat), (6, a.toNat), (6, d.toNat), (3, h.pred.toNat), (1, h.neg.toNat), (4, h.stall.toNat)] 0x42 4 2 (by simp only [fieldWidth]) rfl rfl
  rw [decodeRaw_hi4 _ _ e1, decHi4_2 _ _ _ e2]
  have u : unpackBits [24, 3, 3, 6, 6, 6, 3, 1, 4, 8] (packBits ([(24, 0), (3, rm.toNat), (3, 0), (6, b.toNat), (6, a.toNat), (6, d.toNat), (3, h.pred.toNat), (1, h.neg.toNat), (4, h.stall.toNat)] ++ [(8, 0x42)])) = [0, rm.toNat, 0, b.toNat, a.toNat, d.toNat, h.pred.toNat, h.neg.toNat, h.stall.toNat, 66] :=
    unpackBits_pack [(24, 0), (3, rm.toNat), (3, 0), (6, b.toNat), (6, a.toNat), (6, d.toNat), (3, h.pred.toNat), (1, h.neg.toNat), (4, h.stall.toNat), (8, 0x42)] ⟨by decide, rm.isLt, by decide, b.isLt, a.isLt, d.isLt, h.pred.isLt, h.neg.isLt, h.stall.isLt, by decide, trivial⟩
  unfold decOp42
  rw [u]
  show (some (Instr.fmul ⟨BitVec.ofNat 4 h.stall.toNat, BitVec.ofNat 1 h.neg.toNat, BitVec.ofNat 3 h.pred.toNat⟩ (BitVec.ofNat 6 d.toNat) (BitVec.ofNat 6 a.toNat) (BitVec.ofNat 6 b.toNat) (BitVec.ofNat 3 rm.toNat))) = _
  simp only [BitVec.ofNat_toNat, BitVec.setWidth_eq]
theorem ffma (h : Hdr) (a b c : BitVec 6) (nega negp : BitVec 1) (rm : BitVec 3) (e : BitVec 6) : Statement (.ffma h a b c nega negp rm e) := by
  intro _ hw w1
  refine decode_of_raw (w1 := w1) (by show fieldWidth [(6, e.toNat), (18, 0), (3, rm.toNat), (1, negp.toNat), (1, nega.toNat), (1, 0), (6, c.toNat), (6, b.toNat), (6, a.toNat), (3, h.pred.toNat), (1, h.neg.toNat), (4, h.stall.toNat), (8, 0x43)] = 64; simp only [fieldWidth]) ?_ hw
  rw [show Instr.fields (.ffma h a b c nega negp rm e) = [(6, e.toNat), (18, 0), (3, rm.toNat), (1, negp.toNat), (1, nega.toNat), (1, 0), (6, c.toNat), (6, b.toNat), (6, a.toNat), (3, h.pred.toNat), (1, h.neg.toNat), (4, h.stall.toNat)] ++ [(8, 0x43)] from rfl]
  obtain ⟨e1, e2⟩ := nibbles [(6, e.toNat), (18, 0), (3, rm.toNat), (1, negp.toNat), (1, nega.toNat), (1, 0), (6, c.toNat), (6, b.toNat), (6, a.toNat), (3, h.pred.toNat), (1, h.neg.toNat), (4, h.stall.toNat)] 0x43 4 3 (by simp only [fieldWidth]) rfl rfl
  rw [decodeRaw_hi4 _ _ e1, decHi4_3 _ _ _ e2]
  have u : unpackBits [6, 18, 3, 1, 1, 1, 6, 6, 6, 3, 1, 4, 8] (packBits ([(6, e.toNat), (18, 0), (3, rm.toNat), (1, negp.toNat), (1, nega.toNat), (1, 0), (6, c.toNat), (6, b.toNat), (6, a.toNat), (3, h.pred.toNat), (1, h.neg.toNat), (4, h.stall.toNat)] ++ [(8, 0x43)])) = [e.toNat, 0, rm.toNat, negp.toNat, nega.toNat, 0, c.toNat, b.toNat, a.toNat, h.pred.toNat, h.neg.toNat, h.stall.toNat, 67] :=
    unpackBits_pack [(6, e.toNat), (18, 0), (3, rm.toNat), (1, negp.toNat), (1, nega.toNat), (1, 0), (6, c.toNat), (6, b.toNat), (6, a.toNat), (3, h.pred.toNat), (1, h.neg.toNat), (4, h.stall.toNat), (8, 0x43)] ⟨e.isLt, by decide, rm.isLt, negp.isLt, nega.isLt, by decide, c.isLt, b.isLt, a.isLt, h.pred.isLt, h.neg.isLt, h.stall.isLt, by decide, trivial⟩
  unfold decOp43
  rw [u]
  show (some (Instr.ffma ⟨BitVec.ofNat 4 h.stall.toNat, BitVec.ofNat 1 h.neg.toNat, BitVec.ofNat 3 h.pred.toNat⟩ (BitVec.ofNat 6 a.toNat) (BitVec.ofNat 6 b.toNat) (BitVec.ofNat 6 c.toNat) (BitVec.ofNat 1 nega.toNat) (BitVec.ofNat 1 negp.toNat) (BitVec.ofNat 3 rm.toNat) (BitVec.ofNat 6 e.toNat))) = _
  simp only [BitVec.ofNat_toNat, BitVec.setWidth_eq]
theorem fdiv (h : Hdr) (d a b : BitVec 6) (rm : BitVec 3) : Statement (.fdiv h d a b rm) := by
  intro _ hw w1
  refine decode_of_raw (w1 := w1) (by show fieldWidth [(24, 0), (3, rm.toNat), (3, 0), (6, b.toNat), (6, a.toNat), (6, d.toNat), (3, h.pred.toNat), (1, h.neg.toNat), (4, h.stall.toNat), (8, 0x44)] = 64; simp only [fieldWidth]) ?_ hw
  rw [show Instr.fields (.fdiv h d a b rm) = [(24, 0), (3, rm.toNat), (3, 0), (6, b.toNat), (6, a.toNat), (6, d.toNat), (3, h.pred.toNat), (1, h.neg.toNat), (4, h.stall.toNat)] ++ [(8, 0x44)] from rfl]
  obtain ⟨e1, e2⟩ := nibbles [(24, 0), (3, rm.toNat), (3, 0), (6, b.toNat), (6, a.toNat), (6, d.toNat), (3, h.pred.toNat), (1, h.neg.toNat), (4, h.stall.toNat)] 0x44 4 4 (by simp only [fieldWidth]) rfl rfl
  rw [decodeRaw_hi4 _ _ e1, decHi4_4 _ _ _ e2]
  have u : unpackBits [24, 3, 3, 6, 6, 6, 3, 1, 4, 8] (packBits ([(24, 0), (3, rm.toNat), (3, 0), (6, b.toNat), (6, a.toNat), (6, d.toNat), (3, h.pred.toNat), (1, h.neg.toNat), (4, h.stall.toNat)] ++ [(8, 0x44)])) = [0, rm.toNat, 0, b.toNat, a.toNat, d.toNat, h.pred.toNat, h.neg.toNat, h.stall.toNat, 68] :=
    unpackBits_pack [(24, 0), (3, rm.toNat), (3, 0), (6, b.toNat), (6, a.toNat), (6, d.toNat), (3, h.pred.toNat), (1, h.neg.toNat), (4, h.stall.toNat), (8, 0x44)] ⟨by decide, rm.isLt, by decide, b.isLt, a.isLt, d.isLt, h.pred.isLt, h.neg.isLt, h.stall.isLt, by decide, trivial⟩
  unfold decOp44
  rw [u]
  show (some (Instr.fdiv ⟨BitVec.ofNat 4 h.stall.toNat, BitVec.ofNat 1 h.neg.toNat, BitVec.ofNat 3 h.pred.toNat⟩ (BitVec.ofNat 6 d.toNat) (BitVec.ofNat 6 a.toNat) (BitVec.ofNat 6 b.toNat) (BitVec.ofNat 3 rm.toNat))) = _
  simp only [BitVec.ofNat_toNat, BitVec.setWidth_eq]
theorem fsqrt (h : Hdr) (d a : BitVec 6) (rm : BitVec 3) : Statement (.fsqrt h d a rm) := by
  intro _ hw w1
  refine decode_of_raw (w1 := w1) (by show fieldWidth [(24, 0), (3, rm.toNat), (9, 0), (6, a.toNat), (6, d.toNat), (3, h.pred.toNat), (1, h.neg.toNat), (4, h.stall.toNat), (8, 0x45)] = 64; simp only [fieldWidth]) ?_ hw
  rw [show Instr.fields (.fsqrt h d a rm) = [(24, 0), (3, rm.toNat), (9, 0), (6, a.toNat), (6, d.toNat), (3, h.pred.toNat), (1, h.neg.toNat), (4, h.stall.toNat)] ++ [(8, 0x45)] from rfl]
  obtain ⟨e1, e2⟩ := nibbles [(24, 0), (3, rm.toNat), (9, 0), (6, a.toNat), (6, d.toNat), (3, h.pred.toNat), (1, h.neg.toNat), (4, h.stall.toNat)] 0x45 4 5 (by simp only [fieldWidth]) rfl rfl
  rw [decodeRaw_hi4 _ _ e1, decHi4_5 _ _ _ e2]
  have u : unpackBits [24, 3, 9, 6, 6, 3, 1, 4, 8] (packBits ([(24, 0), (3, rm.toNat), (9, 0), (6, a.toNat), (6, d.toNat), (3, h.pred.toNat), (1, h.neg.toNat), (4, h.stall.toNat)] ++ [(8, 0x45)])) = [0, rm.toNat, 0, a.toNat, d.toNat, h.pred.toNat, h.neg.toNat, h.stall.toNat, 69] :=
    unpackBits_pack [(24, 0), (3, rm.toNat), (9, 0), (6, a.toNat), (6, d.toNat), (3, h.pred.toNat), (1, h.neg.toNat), (4, h.stall.toNat), (8, 0x45)] ⟨by decide, rm.isLt, by decide, a.isLt, d.isLt, h.pred.isLt, h.neg.isLt, h.stall.isLt, by decide, trivial⟩
  unfold decOp45
  rw [u]
  show (some (Instr.fsqrt ⟨BitVec.ofNat 4 h.stall.toNat, BitVec.ofNat 1 h.neg.toNat, BitVec.ofNat 3 h.pred.toNat⟩ (BitVec.ofNat 6 d.toNat) (BitVec.ofNat 6 a.toNat) (BitVec.ofNat 3 rm.toNat))) = _
  simp only [BitVec.ofNat_toNat, BitVec.setWidth_eq]
theorem fmin (h : Hdr) (d a b : BitVec 6) : Statement (.fmin h d a b) := by
  intro _ hw w1
  refine decode_of_raw (w1 := w1) (by show fieldWidth [(30, 0), (6, b.toNat), (6, a.toNat), (6, d.toNat), (3, h.pred.toNat), (1, h.neg.toNat), (4, h.stall.toNat), (8, 0x46)] = 64; simp only [fieldWidth]) ?_ hw
  rw [show Instr.fields (.fmin h d a b) = [(30, 0), (6, b.toNat), (6, a.toNat), (6, d.toNat), (3, h.pred.toNat), (1, h.neg.toNat), (4, h.stall.toNat)] ++ [(8, 0x46)] from rfl]
  obtain ⟨e1, e2⟩ := nibbles [(30, 0), (6, b.toNat), (6, a.toNat), (6, d.toNat), (3, h.pred.toNat), (1, h.neg.toNat), (4, h.stall.toNat)] 0x46 4 6 (by simp only [fieldWidth]) rfl rfl
  rw [decodeRaw_hi4 _ _ e1, decHi4_6 _ _ _ e2]
  have u : unpackBits [30, 6, 6, 6, 3, 1, 4, 8] (packBits ([(30, 0), (6, b.toNat), (6, a.toNat), (6, d.toNat), (3, h.pred.toNat), (1, h.neg.toNat), (4, h.stall.toNat)] ++ [(8, 0x46)])) = [0, b.toNat, a.toNat, d.toNat, h.pred.toNat, h.neg.toNat, h.stall.toNat, 70] :=
    unpackBits_pack [(30, 0), (6, b.toNat), (6, a.toNat), (6, d.toNat), (3, h.pred.toNat), (1, h.neg.toNat), (4, h.stall.toNat), (8, 0x46)] ⟨by decide, b.isLt, a.isLt, d.isLt, h.pred.isLt, h.neg.isLt, h.stall.isLt, by decide, trivial⟩
  unfold decOp46
  rw [u]
  show (some (Instr.fmin ⟨BitVec.ofNat 4 h.stall.toNat, BitVec.ofNat 1 h.neg.toNat, BitVec.ofNat 3 h.pred.toNat⟩ (BitVec.ofNat 6 d.toNat) (BitVec.ofNat 6 a.toNat) (BitVec.ofNat 6 b.toNat))) = _
  simp only [BitVec.ofNat_toNat, BitVec.setWidth_eq]
theorem fmax (h : Hdr) (d a b : BitVec 6) : Statement (.fmax h d a b) := by
  intro _ hw w1
  refine decode_of_raw (w1 := w1) (by show fieldWidth [(30, 0), (6, b.toNat), (6, a.toNat), (6, d.toNat), (3, h.pred.toNat), (1, h.neg.toNat), (4, h.stall.toNat), (8, 0x47)] = 64; simp only [fieldWidth]) ?_ hw
  rw [show Instr.fields (.fmax h d a b) = [(30, 0), (6, b.toNat), (6, a.toNat), (6, d.toNat), (3, h.pred.toNat), (1, h.neg.toNat), (4, h.stall.toNat)] ++ [(8, 0x47)] from rfl]
  obtain ⟨e1, e2⟩ := nibbles [(30, 0), (6, b.toNat), (6, a.toNat), (6, d.toNat), (3, h.pred.toNat), (1, h.neg.toNat), (4, h.stall.toNat)] 0x47 4 7 (by simp only [fieldWidth]) rfl rfl
  rw [decodeRaw_hi4 _ _ e1, decHi4_7 _ _ _ e2]
  have u : unpackBits [30, 6, 6, 6, 3, 1, 4, 8] (packBits ([(30, 0), (6, b.toNat), (6, a.toNat), (6, d.toNat), (3, h.pred.toNat), (1, h.neg.toNat), (4, h.stall.toNat)] ++ [(8, 0x47)])) = [0, b.toNat, a.toNat, d.toNat, h.pred.toNat, h.neg.toNat, h.stall.toNat, 71] :=
    unpackBits_pack [(30, 0), (6, b.toNat), (6, a.toNat), (6, d.toNat), (3, h.pred.toNat), (1, h.neg.toNat), (4, h.stall.toNat), (8, 0x47)] ⟨by decide, b.isLt, a.isLt, d.isLt, h.pred.isLt, h.neg.isLt, h.stall.isLt, by decide, trivial⟩
  unfold decOp47
  rw [u]
  show (some (Instr.fmax ⟨BitVec.ofNat 4 h.stall.toNat, BitVec.ofNat 1 h.neg.toNat, BitVec.ofNat 3 h.pred.toNat⟩ (BitVec.ofNat 6 d.toNat) (BitVec.ofNat 6 a.toNat) (BitVec.ofNat 6 b.toNat))) = _
  simp only [BitVec.ofNat_toNat, BitVec.setWidth_eq]
theorem fsetp (h : Hdr) (pd : BitVec 3) (a b : BitVec 6) (cond : BitVec 3) : Statement (.fsetp h pd a b cond) := by
  intro _ hw w1
  refine decode_of_raw (w1 := w1) (by show fieldWidth [(27, 0), (3, cond.toNat), (6, b.toNat), (6, a.toNat), (3, pd.toNat), (3, 0), (3, h.pred.toNat), (1, h.neg.toNat), (4, h.stall.toNat), (8, 0x48)] = 64; simp only [fieldWidth]) ?_ hw
  rw [show Instr.fields (.fsetp h pd a b cond) = [(27, 0), (3, cond.toNat), (6, b.toNat), (6, a.toNat), (3, pd.toNat), (3, 0), (3, h.pred.toNat), (1, h.neg.toNat), (4, h.stall.toNat)] ++ [(8, 0x48)] from rfl]
  obtain ⟨e1, e2⟩ := nibbles [(27, 0), (3, cond.toNat), (6, b.toNat), (6, a.toNat), (3, pd.toNat), (3, 0), (3, h.pred.toNat), (1, h.neg.toNat), (4, h.stall.toNat)] 0x48 4 8 (by simp only [fieldWidth]) rfl rfl
  rw [decodeRaw_hi4 _ _ e1, decHi4_8 _ _ _ e2]
  have u : unpackBits [27, 3, 6, 6, 3, 3, 3, 1, 4, 8] (packBits ([(27, 0), (3, cond.toNat), (6, b.toNat), (6, a.toNat), (3, pd.toNat), (3, 0), (3, h.pred.toNat), (1, h.neg.toNat), (4, h.stall.toNat)] ++ [(8, 0x48)])) = [0, cond.toNat, b.toNat, a.toNat, pd.toNat, 0, h.pred.toNat, h.neg.toNat, h.stall.toNat, 72] :=
    unpackBits_pack [(27, 0), (3, cond.toNat), (6, b.toNat), (6, a.toNat), (3, pd.toNat), (3, 0), (3, h.pred.toNat), (1, h.neg.toNat), (4, h.stall.toNat), (8, 0x48)] ⟨by decide, cond.isLt, b.isLt, a.isLt, pd.isLt, by decide, h.pred.isLt, h.neg.isLt, h.stall.isLt, by decide, trivial⟩
  unfold decOp48
  rw [u]
  show (some (Instr.fsetp ⟨BitVec.ofNat 4 h.stall.toNat, BitVec.ofNat 1 h.neg.toNat, BitVec.ofNat 3 h.pred.toNat⟩ (BitVec.ofNat 3 pd.toNat) (BitVec.ofNat 6 a.toNat) (BitVec.ofNat 6 b.toNat) (BitVec.ofNat 3 cond.toNat))) = _
  simp only [BitVec.ofNat_toNat, BitVec.setWidth_eq]
theorem fcvt (h : Hdr) (d a : BitVec 6) (sf df rm : BitVec 3) : Statement (.fcvt h d a sf df rm) := by
  intro _ hw w1
  refine decode_of_raw (w1 := w1) (by show fieldWidth [(24, 0), (3, rm.toNat), (3, 0), (3, df.toNat), (3, sf.toNat), (6, a.toNat), (6, d.toNat), (3, h.pred.toNat), (1, h.neg.toNat), (4, h.stall.toNat), (8, 0x49)] = 64; simp only [fieldWidth]) ?_ hw
  rw [show Instr.fields (.fcvt h d a sf df rm) = [(24, 0), (3, rm.toNat), (3, 0), (3, df.toNat), (3, sf.toNat), (6, a.toNat), (6, d.toNat), (3, h.pred.toNat), (1, h.neg.toNat), (4, h.stall.toNat)] ++ [(8, 0x49)] from rfl]
  obtain ⟨e1, e2⟩ := nibbles [(24, 0), (3, rm.toNat), (3, 0), (3, df.toNat), (3, sf.toNat), (6, a.toNat), (6, d.toNat), (3, h.pred.toNat), (1, h.neg.toNat), (4, h.stall.toNat)] 0x49 4 9 (by simp only [fieldWidth]) rfl rfl
  rw [decodeRaw_hi4 _ _ e1, decHi4_9 _ _ _ e2]
  have u : unpackBits [24, 3, 3, 3, 3, 6, 6, 3, 1, 4, 8] (packBits ([(24, 0), (3, rm.toNat), (3, 0), (3, df.toNat), (3, sf.toNat), (6, a.toNat), (6, d.toNat), (3, h.pred.toNat), (1, h.neg.toNat), (4, h.stall.toNat)] ++ [(8, 0x49)])) = [0, rm.toNat, 0, df.toNat, sf.toNat, a.toNat, d.toNat, h.pred.toNat, h.neg.toNat, h.stall.toNat, 73] :=
    unpackBits_pack [(24, 0), (3, rm.toNat), (3, 0), (3, df.toNat), (3, sf.toNat), (6, a.toNat), (6, d.toNat), (3, h.pred.toNat), (1, h.neg.toNat), (4, h.stall.toNat), (8, 0x49)] ⟨by decide, rm.isLt, by decide, df.isLt, sf.isLt, a.isLt, d.isLt, h.pred.isLt, h.neg.isLt, h.stall.isLt, by decide, trivial⟩
  unfold decOp49
  rw [u]
  show (some (Instr.fcvt ⟨BitVec.ofNat 4 h.stall.toNat, BitVec.ofNat 1 h.neg.toNat, BitVec.ofNat 3 h.pred.toNat⟩ (BitVec.ofNat 6 d.toNat) (BitVec.ofNat 6 a.toNat) (BitVec.ofNat 3 sf.toNat) (BitVec.ofNat 3 df.toNat) (BitVec.ofNat 3 rm.toNat))) = _
  simp only [BitVec.ofNat_toNat, BitVec.setWidth_eq]
theorem fcvti (h : Hdr) (d a : BitVec 6) (w32 sgn : BitVec 1) (rm : BitVec 3) : Statement (.fcvti h d a w32 sgn rm) := by
  intro _ hw w1
  refine decode_of_raw (w1 := w1) (by show fieldWidth [(24, 0), (3, rm.toNat), (3, 0), (1, sgn.toNat), (1, w32.toNat), (4, 0), (6, a.toNat), (6, d.toNat), (3, h.pred.toNat), (1, h.neg.toNat), (4, h.stall.toNat), (8, 0x4a)] = 64; simp only [fieldWidth]) ?_ hw
  rw [show Instr.fields (.fcvti h d a w32 sgn rm) = [(24, 0), (3, rm.toNat), (3, 0), (1, sgn.toNat), (1, w32.toNat), (4, 0), (6, a.toNat), (6, d.toNat), (3, h.pred.toNat), (1, h.neg.toNat), (4, h.stall.toNat)] ++ [(8, 0x4A)] from rfl]
  obtain ⟨e1, e2⟩ := nibbles [(24, 0), (3, rm.toNat), (3, 0), (1, sgn.toNat), (1, w32.toNat), (4, 0), (6, a.toNat), (6, d.toNat), (3, h.pred.toNat), (1, h.neg.toNat), (4, h.stall.toNat)] 0x4A 4 10 (by simp only [fieldWidth]) rfl rfl
  rw [decodeRaw_hi4 _ _ e1, decHi4_A _ _ _ e2]
  have u : unpackBits [24, 3, 3, 1, 1, 4, 6, 6, 3, 1, 4, 8] (packBits ([(24, 0), (3, rm.toNat), (3, 0), (1, sgn.toNat), (1, w32.toNat), (4, 0), (6, a.toNat), (6, d.toNat), (3, h.pred.toNat), (1, h.neg.toNat), (4, h.stall.toNat)] ++ [(8, 0x4A)])) = [0, rm.toNat, 0, sgn.toNat, w32.toNat, 0, a.toNat, d.toNat, h.pred.toNat, h.neg.toNat, h.stall.toNat, 74] :=
    unpackBits_pack [(24, 0), (3, rm.toNat), (3, 0), (1, sgn.toNat), (1, w32.toNat), (4, 0), (6, a.toNat), (6, d.toNat), (3, h.pred.toNat), (1, h.neg.toNat), (4, h.stall.toNat), (8, 0x4a)] ⟨by decide, rm.isLt, by decide, sgn.isLt, w32.isLt, by decide, a.isLt, d.isLt, h.pred.isLt, h.neg.isLt, h.stall.isLt, by decide, trivial⟩
  unfold decOp4A
  rw [u]
  show (some (Instr.fcvti ⟨BitVec.ofNat 4 h.stall.toNat, BitVec.ofNat 1 h.neg.toNat, BitVec.ofNat 3 h.pred.toNat⟩ (BitVec.ofNat 6 d.toNat) (BitVec.ofNat 6 a.toNat) (BitVec.ofNat 1 w32.toNat) (BitVec.ofNat 1 sgn.toNat) (BitVec.ofNat 3 rm.toNat))) = _
  simp only [BitVec.ofNat_toNat, BitVec.setWidth_eq]
theorem icvtf (h : Hdr) (d a : BitVec 6) (w32 sgn : BitVec 1) (rm : BitVec 3) : Statement (.icvtf h d a w32 sgn rm) := by
  intro _ hw w1
  refine decode_of_raw (w1 := w1) (by show fieldWidth [(24, 0), (3, rm.toNat), (3, 0), (1, sgn.toNat), (1, w32.toNat), (4, 0), (6, a.toNat), (6, d.toNat), (3, h.pred.toNat), (1, h.neg.toNat), (4, h.stall.toNat), (8, 0x4b)] = 64; simp only [fieldWidth]) ?_ hw
  rw [show Instr.fields (.icvtf h d a w32 sgn rm) = [(24, 0), (3, rm.toNat), (3, 0), (1, sgn.toNat), (1, w32.toNat), (4, 0), (6, a.toNat), (6, d.toNat), (3, h.pred.toNat), (1, h.neg.toNat), (4, h.stall.toNat)] ++ [(8, 0x4B)] from rfl]
  obtain ⟨e1, e2⟩ := nibbles [(24, 0), (3, rm.toNat), (3, 0), (1, sgn.toNat), (1, w32.toNat), (4, 0), (6, a.toNat), (6, d.toNat), (3, h.pred.toNat), (1, h.neg.toNat), (4, h.stall.toNat)] 0x4B 4 11 (by simp only [fieldWidth]) rfl rfl
  rw [decodeRaw_hi4 _ _ e1, decHi4_B _ _ _ e2]
  have u : unpackBits [24, 3, 3, 1, 1, 4, 6, 6, 3, 1, 4, 8] (packBits ([(24, 0), (3, rm.toNat), (3, 0), (1, sgn.toNat), (1, w32.toNat), (4, 0), (6, a.toNat), (6, d.toNat), (3, h.pred.toNat), (1, h.neg.toNat), (4, h.stall.toNat)] ++ [(8, 0x4B)])) = [0, rm.toNat, 0, sgn.toNat, w32.toNat, 0, a.toNat, d.toNat, h.pred.toNat, h.neg.toNat, h.stall.toNat, 75] :=
    unpackBits_pack [(24, 0), (3, rm.toNat), (3, 0), (1, sgn.toNat), (1, w32.toNat), (4, 0), (6, a.toNat), (6, d.toNat), (3, h.pred.toNat), (1, h.neg.toNat), (4, h.stall.toNat), (8, 0x4b)] ⟨by decide, rm.isLt, by decide, sgn.isLt, w32.isLt, by decide, a.isLt, d.isLt, h.pred.isLt, h.neg.isLt, h.stall.isLt, by decide, trivial⟩
  unfold decOp4B
  rw [u]
  show (some (Instr.icvtf ⟨BitVec.ofNat 4 h.stall.toNat, BitVec.ofNat 1 h.neg.toNat, BitVec.ofNat 3 h.pred.toNat⟩ (BitVec.ofNat 6 d.toNat) (BitVec.ofNat 6 a.toNat) (BitVec.ofNat 1 w32.toNat) (BitVec.ofNat 1 sgn.toNat) (BitVec.ofNat 3 rm.toNat))) = _
  simp only [BitVec.ofNat_toNat, BitVec.setWidth_eq]
theorem fabs (h : Hdr) (d a : BitVec 6) : Statement (.fabs h d a) := by
  intro _ hw w1
  refine decode_of_raw (w1 := w1) (by show fieldWidth [(36, 0), (6, a.toNat), (6, d.toNat), (3, h.pred.toNat), (1, h.neg.toNat), (4, h.stall.toNat), (8, 0x4c)] = 64; simp only [fieldWidth]) ?_ hw
  rw [show Instr.fields (.fabs h d a) = [(36, 0), (6, a.toNat), (6, d.toNat), (3, h.pred.toNat), (1, h.neg.toNat), (4, h.stall.toNat)] ++ [(8, 0x4C)] from rfl]
  obtain ⟨e1, e2⟩ := nibbles [(36, 0), (6, a.toNat), (6, d.toNat), (3, h.pred.toNat), (1, h.neg.toNat), (4, h.stall.toNat)] 0x4C 4 12 (by simp only [fieldWidth]) rfl rfl
  rw [decodeRaw_hi4 _ _ e1, decHi4_C _ _ _ e2]
  have u : unpackBits [36, 6, 6, 3, 1, 4, 8] (packBits ([(36, 0), (6, a.toNat), (6, d.toNat), (3, h.pred.toNat), (1, h.neg.toNat), (4, h.stall.toNat)] ++ [(8, 0x4C)])) = [0, a.toNat, d.toNat, h.pred.toNat, h.neg.toNat, h.stall.toNat, 76] :=
    unpackBits_pack [(36, 0), (6, a.toNat), (6, d.toNat), (3, h.pred.toNat), (1, h.neg.toNat), (4, h.stall.toNat), (8, 0x4c)] ⟨by decide, a.isLt, d.isLt, h.pred.isLt, h.neg.isLt, h.stall.isLt, by decide, trivial⟩
  unfold decOp4C
  rw [u]
  show (some (Instr.fabs ⟨BitVec.ofNat 4 h.stall.toNat, BitVec.ofNat 1 h.neg.toNat, BitVec.ofNat 3 h.pred.toNat⟩ (BitVec.ofNat 6 d.toNat) (BitVec.ofNat 6 a.toNat))) = _
  simp only [BitVec.ofNat_toNat, BitVec.setWidth_eq]
theorem fneg (h : Hdr) (d a : BitVec 6) : Statement (.fneg h d a) := by
  intro _ hw w1
  refine decode_of_raw (w1 := w1) (by show fieldWidth [(36, 0), (6, a.toNat), (6, d.toNat), (3, h.pred.toNat), (1, h.neg.toNat), (4, h.stall.toNat), (8, 0x4d)] = 64; simp only [fieldWidth]) ?_ hw
  rw [show Instr.fields (.fneg h d a) = [(36, 0), (6, a.toNat), (6, d.toNat), (3, h.pred.toNat), (1, h.neg.toNat), (4, h.stall.toNat)] ++ [(8, 0x4D)] from rfl]
  obtain ⟨e1, e2⟩ := nibbles [(36, 0), (6, a.toNat), (6, d.toNat), (3, h.pred.toNat), (1, h.neg.toNat), (4, h.stall.toNat)] 0x4D 4 13 (by simp only [fieldWidth]) rfl rfl
  rw [decodeRaw_hi4 _ _ e1, decHi4_D _ _ _ e2]
  have u : unpackBits [36, 6, 6, 3, 1, 4, 8] (packBits ([(36, 0), (6, a.toNat), (6, d.toNat), (3, h.pred.toNat), (1, h.neg.toNat), (4, h.stall.toNat)] ++ [(8, 0x4D)])) = [0, a.toNat, d.toNat, h.pred.toNat, h.neg.toNat, h.stall.toNat, 77] :=
    unpackBits_pack [(36, 0), (6, a.toNat), (6, d.toNat), (3, h.pred.toNat), (1, h.neg.toNat), (4, h.stall.toNat), (8, 0x4d)] ⟨by decide, a.isLt, d.isLt, h.pred.isLt, h.neg.isLt, h.stall.isLt, by decide, trivial⟩
  unfold decOp4D
  rw [u]
  show (some (Instr.fneg ⟨BitVec.ofNat 4 h.stall.toNat, BitVec.ofNat 1 h.neg.toNat, BitVec.ofNat 3 h.pred.toNat⟩ (BitVec.ofNat 6 d.toNat) (BitVec.ofNat 6 a.toNat))) = _
  simp only [BitVec.ofNat_toNat, BitVec.setWidth_eq]
theorem fclass (h : Hdr) (d a : BitVec 6) : Statement (.fclass h d a) := by
  intro _ hw w1
  refine decode_of_raw (w1 := w1) (by show fieldWidth [(36, 0), (6, a.toNat), (6, d.toNat), (3, h.pred.toNat), (1, h.neg.toNat), (4, h.stall.toNat), (8, 0x4e)] = 64; simp only [fieldWidth]) ?_ hw
  rw [show Instr.fields (.fclass h d a) = [(36, 0), (6, a.toNat), (6, d.toNat), (3, h.pred.toNat), (1, h.neg.toNat), (4, h.stall.toNat)] ++ [(8, 0x4E)] from rfl]
  obtain ⟨e1, e2⟩ := nibbles [(36, 0), (6, a.toNat), (6, d.toNat), (3, h.pred.toNat), (1, h.neg.toNat), (4, h.stall.toNat)] 0x4E 4 14 (by simp only [fieldWidth]) rfl rfl
  rw [decodeRaw_hi4 _ _ e1, decHi4_E _ _ _ e2]
  have u : unpackBits [36, 6, 6, 3, 1, 4, 8] (packBits ([(36, 0), (6, a.toNat), (6, d.toNat), (3, h.pred.toNat), (1, h.neg.toNat), (4, h.stall.toNat)] ++ [(8, 0x4E)])) = [0, a.toNat, d.toNat, h.pred.toNat, h.neg.toNat, h.stall.toNat, 78] :=
    unpackBits_pack [(36, 0), (6, a.toNat), (6, d.toNat), (3, h.pred.toNat), (1, h.neg.toNat), (4, h.stall.toNat), (8, 0x4e)] ⟨by decide, a.isLt, d.isLt, h.pred.isLt, h.neg.isLt, h.stall.isLt, by decide, trivial⟩
  unfold decOp4E
  rw [u]
  show (some (Instr.fclass ⟨BitVec.ofNat 4 h.stall.toNat, BitVec.ofNat 1 h.neg.toNat, BitVec.ofNat 3 h.pred.toNat⟩ (BitVec.ofNat 6 d.toNat) (BitVec.ofNat 6 a.toNat))) = _
  simp only [BitVec.ofNat_toNat, BitVec.setWidth_eq]
theorem frnd (h : Hdr) (d a : BitVec 6) (rm : BitVec 3) : Statement (.frnd h d a rm) := by
  intro _ hw w1
  refine decode_of_raw (w1 := w1) (by show fieldWidth [(24, 0), (3, rm.toNat), (9, 0), (6, a.toNat), (6, d.toNat), (3, h.pred.toNat), (1, h.neg.toNat), (4, h.stall.toNat), (8, 0x4f)] = 64; simp only [fieldWidth]) ?_ hw
  rw [show Instr.fields (.frnd h d a rm) = [(24, 0), (3, rm.toNat), (9, 0), (6, a.toNat), (6, d.toNat), (3, h.pred.toNat), (1, h.neg.toNat), (4, h.stall.toNat)] ++ [(8, 0x4F)] from rfl]
  obtain ⟨e1, e2⟩ := nibbles [(24, 0), (3, rm.toNat), (9, 0), (6, a.toNat), (6, d.toNat), (3, h.pred.toNat), (1, h.neg.toNat), (4, h.stall.toNat)] 0x4F 4 15 (by simp only [fieldWidth]) rfl rfl
  rw [decodeRaw_hi4 _ _ e1, decHi4_F _ _ _ e2]
  have u : unpackBits [24, 3, 9, 6, 6, 3, 1, 4, 8] (packBits ([(24, 0), (3, rm.toNat), (9, 0), (6, a.toNat), (6, d.toNat), (3, h.pred.toNat), (1, h.neg.toNat), (4, h.stall.toNat)] ++ [(8, 0x4F)])) = [0, rm.toNat, 0, a.toNat, d.toNat, h.pred.toNat, h.neg.toNat, h.stall.toNat, 79] :=
    unpackBits_pack [(24, 0), (3, rm.toNat), (9, 0), (6, a.toNat), (6, d.toNat), (3, h.pred.toNat), (1, h.neg.toNat), (4, h.stall.toNat), (8, 0x4f)] ⟨by decide, rm.isLt, by decide, a.isLt, d.isLt, h.pred.isLt, h.neg.isLt, h.stall.isLt, by decide, trivial⟩
  unfold decOp4F
  rw [u]
  show (some (Instr.frnd ⟨BitVec.ofNat 4 h.stall.toNat, BitVec.ofNat 1 h.neg.toNat, BitVec.ofNat 3 h.pred.toNat⟩ (BitVec.ofNat 6 d.toNat) (BitVec.ofNat 6 a.toNat) (BitVec.ofNat 3 rm.toNat))) = _
  simp only [BitVec.ofNat_toNat, BitVec.setWidth_eq]
theorem jmp (nst : BitVec 4) (off : BitVec 48) : Statement (.jmp nst off) := by
  intro _ hw w1
  refine decode_of_raw (w1 := w1) (by show fieldWidth [(48, off.toNat), (4, 0), (4, nst.toNat), (8, 0x50)] = 64; simp only [fieldWidth]) ?_ hw
  rw [show Instr.fields (.jmp nst off) = [(48, off.toNat), (4, 0), (4, nst.toNat)] ++ [(8, 0x50)] from rfl]
  obtain ⟨e1, e2⟩ := nibbles [(48, off.toNat), (4, 0), (4, nst.toNat)] 0x50 5 0 (by simp only [fieldWidth]) rfl rfl
  rw [decodeRaw_hi5 _ _ e1, decHi5_0 _ _ _ e2]
  have u : unpackBits [48, 4, 4, 8] (packBits ([(48, off.toNat), (4, 0), (4, nst.toNat)] ++ [(8, 0x50)])) = [off.toNat, 0, nst.toNat, 80] :=
    unpackBits_pack [(48, off.toNat), (4, 0), (4, nst.toNat), (8, 0x50)] ⟨off.isLt, by decide, nst.isLt, by decide, trivial⟩
  unfold decOp50
  rw [u]
  show (some (Instr.jmp (BitVec.ofNat 4 nst.toNat) (BitVec.ofNat 48 off.toNat))) = _
  simp only [BitVec.ofNat_toNat, BitVec.setWidth_eq]
theorem br (h : Hdr) (off : BitVec 48) : Statement (.br h off) := by
  intro _ hw w1
  refine decode_of_raw (w1 := w1) (by show fieldWidth [(48, off.toNat), (3, h.pred.toNat), (1, h.neg.toNat), (4, h.stall.toNat), (8, 0x51)] = 64; simp only [fieldWidth]) ?_ hw
  rw [show Instr.fields (.br h off) = [(48, off.toNat), (3, h.pred.toNat), (1, h.neg.toNat), (4, h.stall.toNat)] ++ [(8, 0x51)] from rfl]
  obtain ⟨e1, e2⟩ := nibbles [(48, off.toNat), (3, h.pred.toNat), (1, h.neg.toNat), (4, h.stall.toNat)] 0x51 5 1 (by simp only [fieldWidth]) rfl rfl
  rw [decodeRaw_hi5 _ _ e1, decHi5_1 _ _ _ e2]
  have u : unpackBits [48, 3, 1, 4, 8] (packBits ([(48, off.toNat), (3, h.pred.toNat), (1, h.neg.toNat), (4, h.stall.toNat)] ++ [(8, 0x51)])) = [off.toNat, h.pred.toNat, h.neg.toNat, h.stall.toNat, 81] :=
    unpackBits_pack [(48, off.toNat), (3, h.pred.toNat), (1, h.neg.toNat), (4, h.stall.toNat), (8, 0x51)] ⟨off.isLt, h.pred.isLt, h.neg.isLt, h.stall.isLt, by decide, trivial⟩
  unfold decOp51
  rw [u]
  show (some (Instr.br ⟨BitVec.ofNat 4 h.stall.toNat, BitVec.ofNat 1 h.neg.toNat, BitVec.ofNat 3 h.pred.toNat⟩ (BitVec.ofNat 48 off.toNat))) = _
  simp only [BitVec.ofNat_toNat, BitVec.setWidth_eq]
theorem call (h : Hdr) (off : BitVec 48) : Statement (.call h off) := by
  intro _ hw w1
  refine decode_of_raw (w1 := w1) (by show fieldWidth [(48, off.toNat), (3, h.pred.toNat), (1, h.neg.toNat), (4, h.stall.toNat), (8, 0x52)] = 64; simp only [fieldWidth]) ?_ hw
  rw [show Instr.fields (.call h off) = [(48, off.toNat), (3, h.pred.toNat), (1, h.neg.toNat), (4, h.stall.toNat)] ++ [(8, 0x52)] from rfl]
  obtain ⟨e1, e2⟩ := nibbles [(48, off.toNat), (3, h.pred.toNat), (1, h.neg.toNat), (4, h.stall.toNat)] 0x52 5 2 (by simp only [fieldWidth]) rfl rfl
  rw [decodeRaw_hi5 _ _ e1, decHi5_2 _ _ _ e2]
  have u : unpackBits [48, 3, 1, 4, 8] (packBits ([(48, off.toNat), (3, h.pred.toNat), (1, h.neg.toNat), (4, h.stall.toNat)] ++ [(8, 0x52)])) = [off.toNat, h.pred.toNat, h.neg.toNat, h.stall.toNat, 82] :=
    unpackBits_pack [(48, off.toNat), (3, h.pred.toNat), (1, h.neg.toNat), (4, h.stall.toNat), (8, 0x52)] ⟨off.isLt, h.pred.isLt, h.neg.isLt, h.stall.isLt, by decide, trivial⟩
  unfold decOp52
  rw [u]
  show (some (Instr.call ⟨BitVec.ofNat 4 h.stall.toNat, BitVec.ofNat 1 h.neg.toNat, BitVec.ofNat 3 h.pred.toNat⟩ (BitVec.ofNat 48 off.toNat))) = _
  simp only [BitVec.ofNat_toNat, BitVec.setWidth_eq]
theorem jr (h : Hdr) (a : BitVec 6) : Statement (.jr h a) := by
  intro _ hw w1
  refine decode_of_raw (w1 := w1) (by show fieldWidth [(36, 0), (6, a.toNat), (6, 0), (3, h.pred.toNat), (1, h.neg.toNat), (4, h.stall.toNat), (8, 0x53)] = 64; simp only [fieldWidth]) ?_ hw
  rw [show Instr.fields (.jr h a) = [(36, 0), (6, a.toNat), (6, 0), (3, h.pred.toNat), (1, h.neg.toNat), (4, h.stall.toNat)] ++ [(8, 0x53)] from rfl]
  obtain ⟨e1, e2⟩ := nibbles [(36, 0), (6, a.toNat), (6, 0), (3, h.pred.toNat), (1, h.neg.toNat), (4, h.stall.toNat)] 0x53 5 3 (by simp only [fieldWidth]) rfl rfl
  rw [decodeRaw_hi5 _ _ e1, decHi5_3 _ _ _ e2]
  have u : unpackBits [36, 6, 6, 3, 1, 4, 8] (packBits ([(36, 0), (6, a.toNat), (6, 0), (3, h.pred.toNat), (1, h.neg.toNat), (4, h.stall.toNat)] ++ [(8, 0x53)])) = [0, a.toNat, 0, h.pred.toNat, h.neg.toNat, h.stall.toNat, 83] :=
    unpackBits_pack [(36, 0), (6, a.toNat), (6, 0), (3, h.pred.toNat), (1, h.neg.toNat), (4, h.stall.toNat), (8, 0x53)] ⟨by decide, a.isLt, by decide, h.pred.isLt, h.neg.isLt, h.stall.isLt, by decide, trivial⟩
  unfold decOp53
  rw [u]
  show (some (Instr.jr ⟨BitVec.ofNat 4 h.stall.toNat, BitVec.ofNat 1 h.neg.toNat, BitVec.ofNat 3 h.pred.toNat⟩ (BitVec.ofNat 6 a.toNat))) = _
  simp only [BitVec.ofNat_toNat, BitVec.setWidth_eq]
theorem callr (h : Hdr) (a : BitVec 6) : Statement (.callr h a) := by
  intro _ hw w1
  refine decode_of_raw (w1 := w1) (by show fieldWidth [(36, 0), (6, a.toNat), (6, 0), (3, h.pred.toNat), (1, h.neg.toNat), (4, h.stall.toNat), (8, 0x54)] = 64; simp only [fieldWidth]) ?_ hw
  rw [show Instr.fields (.callr h a) = [(36, 0), (6, a.toNat), (6, 0), (3, h.pred.toNat), (1, h.neg.toNat), (4, h.stall.toNat)] ++ [(8, 0x54)] from rfl]
  obtain ⟨e1, e2⟩ := nibbles [(36, 0), (6, a.toNat), (6, 0), (3, h.pred.toNat), (1, h.neg.toNat), (4, h.stall.toNat)] 0x54 5 4 (by simp only [fieldWidth]) rfl rfl
  rw [decodeRaw_hi5 _ _ e1, decHi5_4 _ _ _ e2]
  have u : unpackBits [36, 6, 6, 3, 1, 4, 8] (packBits ([(36, 0), (6, a.toNat), (6, 0), (3, h.pred.toNat), (1, h.neg.toNat), (4, h.stall.toNat)] ++ [(8, 0x54)])) = [0, a.toNat, 0, h.pred.toNat, h.neg.toNat, h.stall.toNat, 84] :=
    unpackBits_pack [(36, 0), (6, a.toNat), (6, 0), (3, h.pred.toNat), (1, h.neg.toNat), (4, h.stall.toNat), (8, 0x54)] ⟨by decide, a.isLt, by decide, h.pred.isLt, h.neg.isLt, h.stall.isLt, by decide, trivial⟩
  unfold decOp54
  rw [u]
  show (some (Instr.callr ⟨BitVec.ofNat 4 h.stall.toNat, BitVec.ofNat 1 h.neg.toNat, BitVec.ofNat 3 h.pred.toNat⟩ (BitVec.ofNat 6 a.toNat))) = _
  simp only [BitVec.ofNat_toNat, BitVec.setWidth_eq]
theorem ret (h : Hdr) : Statement (.ret h) := by
  intro _ hw w1
  refine decode_of_raw (w1 := w1) (by show fieldWidth [(48, 0), (3, h.pred.toNat), (1, h.neg.toNat), (4, h.stall.toNat), (8, 0x55)] = 64; simp only [fieldWidth]) ?_ hw
  rw [show Instr.fields (.ret h) = [(48, 0), (3, h.pred.toNat), (1, h.neg.toNat), (4, h.stall.toNat)] ++ [(8, 0x55)] from rfl]
  obtain ⟨e1, e2⟩ := nibbles [(48, 0), (3, h.pred.toNat), (1, h.neg.toNat), (4, h.stall.toNat)] 0x55 5 5 (by simp only [fieldWidth]) rfl rfl
  rw [decodeRaw_hi5 _ _ e1, decHi5_5 _ _ _ e2]
  have u : unpackBits [48, 3, 1, 4, 8] (packBits ([(48, 0), (3, h.pred.toNat), (1, h.neg.toNat), (4, h.stall.toNat)] ++ [(8, 0x55)])) = [0, h.pred.toNat, h.neg.toNat, h.stall.toNat, 85] :=
    unpackBits_pack [(48, 0), (3, h.pred.toNat), (1, h.neg.toNat), (4, h.stall.toNat), (8, 0x55)] ⟨by decide, h.pred.isLt, h.neg.isLt, h.stall.isLt, by decide, trivial⟩
  unfold decOp55
  rw [u]
  show (some (Instr.ret ⟨BitVec.ofNat 4 h.stall.toNat, BitVec.ofNat 1 h.neg.toNat, BitVec.ofNat 3 h.pred.toNat⟩)) = _
  simp only [BitVec.ofNat_toNat, BitVec.setWidth_eq]
theorem loop (h : Hdr) (a : BitVec 6) (off : BitVec 30) : Statement (.loop h a off) := by
  intro _ hw w1
  refine decode_of_raw (w1 := w1) (by show fieldWidth [(30, off.toNat), (12, 0), (6, a.toNat), (3, h.pred.toNat), (1, h.neg.toNat), (4, h.stall.toNat), (8, 0x56)] = 64; simp only [fieldWidth]) ?_ hw
  rw [show Instr.fields (.loop h a off) = [(30, off.toNat), (12, 0), (6, a.toNat), (3, h.pred.toNat), (1, h.neg.toNat), (4, h.stall.toNat)] ++ [(8, 0x56)] from rfl]
  obtain ⟨e1, e2⟩ := nibbles [(30, off.toNat), (12, 0), (6, a.toNat), (3, h.pred.toNat), (1, h.neg.toNat), (4, h.stall.toNat)] 0x56 5 6 (by simp only [fieldWidth]) rfl rfl
  rw [decodeRaw_hi5 _ _ e1, decHi5_6 _ _ _ e2]
  have u : unpackBits [30, 12, 6, 3, 1, 4, 8] (packBits ([(30, off.toNat), (12, 0), (6, a.toNat), (3, h.pred.toNat), (1, h.neg.toNat), (4, h.stall.toNat)] ++ [(8, 0x56)])) = [off.toNat, 0, a.toNat, h.pred.toNat, h.neg.toNat, h.stall.toNat, 86] :=
    unpackBits_pack [(30, off.toNat), (12, 0), (6, a.toNat), (3, h.pred.toNat), (1, h.neg.toNat), (4, h.stall.toNat), (8, 0x56)] ⟨off.isLt, by decide, a.isLt, h.pred.isLt, h.neg.isLt, h.stall.isLt, by decide, trivial⟩
  unfold decOp56
  rw [u]
  show (some (Instr.loop ⟨BitVec.ofNat 4 h.stall.toNat, BitVec.ofNat 1 h.neg.toNat, BitVec.ofNat 3 h.pred.toNat⟩ (BitVec.ofNat 6 a.toNat) (BitVec.ofNat 30 off.toNat))) = _
  simp only [BitVec.ofNat_toNat, BitVec.setWidth_eq]
theorem brsymRes (h : Hdr) (a : BitVec 6) (off : BitVec 30) : Statement (.brsymRes h a off) := by
  intro _ hw w1
  refine decode_of_raw (w1 := w1) (by show fieldWidth [(30, off.toNat), (12, 0), (6, a.toNat), (3, h.pred.toNat), (1, h.neg.toNat), (4, h.stall.toNat), (8, 0x57)] = 64; simp only [fieldWidth]) ?_ hw
  rw [show Instr.fields (.brsymRes h a off) = [(30, off.toNat), (12, 0), (6, a.toNat), (3, h.pred.toNat), (1, h.neg.toNat), (4, h.stall.toNat)] ++ [(8, 0x57)] from rfl]
  obtain ⟨e1, e2⟩ := nibbles [(30, off.toNat), (12, 0), (6, a.toNat), (3, h.pred.toNat), (1, h.neg.toNat), (4, h.stall.toNat)] 0x57 5 7 (by simp only [fieldWidth]) rfl rfl
  rw [decodeRaw_hi5 _ _ e1, decHi5_7 _ _ _ e2]
  have u : unpackBits [30, 12, 6, 3, 1, 4, 8] (packBits ([(30, off.toNat), (12, 0), (6, a.toNat), (3, h.pred.toNat), (1, h.neg.toNat), (4, h.stall.toNat)] ++ [(8, 0x57)])) = [off.toNat, 0, a.toNat, h.pred.toNat, h.neg.toNat, h.stall.toNat, 87] :=
    unpackBits_pack [(30, off.toNat), (12, 0), (6, a.toNat), (3, h.pred.toNat), (1, h.neg.toNat), (4, h.stall.toNat), (8, 0x57)] ⟨off.isLt, by decide, a.isLt, h.pred.isLt, h.neg.isLt, h.stall.isLt, by decide, trivial⟩
  unfold decOp57
  rw [u]
  show (some (Instr.brsymRes ⟨BitVec.ofNat 4 h.stall.toNat, BitVec.ofNat 1 h.neg.toNat, BitVec.ofNat 3 h.pred.toNat⟩ (BitVec.ofNat 6 a.toNat) (BitVec.ofNat 30 off.toNat))) = _
  simp only [BitVec.ofNat_toNat, BitVec.setWidth_eq]
theorem brsymPoi (h : Hdr) (a : BitVec 6) (off : BitVec 30) : Statement (.brsymPoi h a off) := by
  intro _ hw w1
  refine decode_of_raw (w1 := w1) (by show fieldWidth [(30, off.toNat), (12, 64), (6, a.toNat), (3, h.pred.toNat), (1, h.neg.toNat), (4, h.stall.toNat), (8, 0x57)] = 64; simp only [fieldWidth]) ?_ hw
  rw [show Instr.fields (.brsymPoi h a off) = [(30, off.toNat), (12, 64), (6, a.toNat), (3, h.pred.toNat), (1, h.neg.toNat), (4, h.stall.toNat)] ++ [(8, 0x57)] from rfl]
  obtain ⟨e1, e2⟩ := nibbles [(30, off.toNat), (12, 64), (6, a.toNat), (3, h.pred.toNat), (1, h.neg.toNat), (4, h.stall.toNat)] 0x57 5 7 (by simp only [fieldWidth]) rfl rfl
  rw [decodeRaw_hi5 _ _ e1, decHi5_7 _ _ _ e2]
  have u : unpackBits [30, 12, 6, 3, 1, 4, 8] (packBits ([(30, off.toNat), (12, 64), (6, a.toNat), (3, h.pred.toNat), (1, h.neg.toNat), (4, h.stall.toNat)] ++ [(8, 0x57)])) = [off.toNat, 64, a.toNat, h.pred.toNat, h.neg.toNat, h.stall.toNat, 87] :=
    unpackBits_pack [(30, off.toNat), (12, 64), (6, a.toNat), (3, h.pred.toNat), (1, h.neg.toNat), (4, h.stall.toNat), (8, 0x57)] ⟨off.isLt, by decide, a.isLt, h.pred.isLt, h.neg.isLt, h.stall.isLt, by decide, trivial⟩
  unfold decOp57
  rw [u]
  show (some (Instr.brsymPoi ⟨BitVec.ofNat 4 h.stall.toNat, BitVec.ofNat 1 h.neg.toNat, BitVec.ofNat 3 h.pred.toNat⟩ (BitVec.ofNat 6 a.toNat) (BitVec.ofNat 30 off.toNat))) = _
  simp only [BitVec.ofNat_toNat, BitVec.setWidth_eq]
theorem brsymPend (h : Hdr) (a : BitVec 6) (off : BitVec 30) : Statement (.brsymPend h a off) := by
  intro _ hw w1
  refine decode_of_raw (w1 := w1) (by show fieldWidth [(30, off.toNat), (12, 128), (6, a.toNat), (3, h.pred.toNat), (1, h.neg.toNat), (4, h.stall.toNat), (8, 0x57)] = 64; simp only [fieldWidth]) ?_ hw
  rw [show Instr.fields (.brsymPend h a off) = [(30, off.toNat), (12, 128), (6, a.toNat), (3, h.pred.toNat), (1, h.neg.toNat), (4, h.stall.toNat)] ++ [(8, 0x57)] from rfl]
  obtain ⟨e1, e2⟩ := nibbles [(30, off.toNat), (12, 128), (6, a.toNat), (3, h.pred.toNat), (1, h.neg.toNat), (4, h.stall.toNat)] 0x57 5 7 (by simp only [fieldWidth]) rfl rfl
  rw [decodeRaw_hi5 _ _ e1, decHi5_7 _ _ _ e2]
  have u : unpackBits [30, 12, 6, 3, 1, 4, 8] (packBits ([(30, off.toNat), (12, 128), (6, a.toNat), (3, h.pred.toNat), (1, h.neg.toNat), (4, h.stall.toNat)] ++ [(8, 0x57)])) = [off.toNat, 128, a.toNat, h.pred.toNat, h.neg.toNat, h.stall.toNat, 87] :=
    unpackBits_pack [(30, off.toNat), (12, 128), (6, a.toNat), (3, h.pred.toNat), (1, h.neg.toNat), (4, h.stall.toNat), (8, 0x57)] ⟨off.isLt, by decide, a.isLt, h.pred.isLt, h.neg.isLt, h.stall.isLt, by decide, trivial⟩
  unfold decOp57
  rw [u]
  show (some (Instr.brsymPend ⟨BitVec.ofNat 4 h.stall.toNat, BitVec.ofNat 1 h.neg.toNat, BitVec.ofNat 3 h.pred.toNat⟩ (BitVec.ofNat 6 a.toNat) (BitVec.ofNat 30 off.toNat))) = _
  simp only [BitVec.ofNat_toNat, BitVec.setWidth_eq]
theorem bri (h : Hdr) (d a b : BitVec 6) : Statement (.bri h d a b) := by
  intro _ hw w1
  refine decode_of_raw (w1 := w1) (by show fieldWidth [(30, 0), (6, b.toNat), (6, a.toNat), (6, d.toNat), (3, h.pred.toNat), (1, h.neg.toNat), (4, h.stall.toNat), (8, 0x58)] = 64; simp only [fieldWidth]) ?_ hw
  rw [show Instr.fields (.bri h d a b) = [(30, 0), (6, b.toNat), (6, a.toNat), (6, d.toNat), (3, h.pred.toNat), (1, h.neg.toNat), (4, h.stall.toNat)] ++ [(8, 0x58)] from rfl]
  obtain ⟨e1, e2⟩ := nibbles [(30, 0), (6, b.toNat), (6, a.toNat), (6, d.toNat), (3, h.pred.toNat), (1, h.neg.toNat), (4, h.stall.toNat)] 0x58 5 8 (by simp only [fieldWidth]) rfl rfl
  rw [decodeRaw_hi5 _ _ e1, decHi5_8 _ _ _ e2]
  have u : unpackBits [30, 6, 6, 6, 3, 1, 4, 8] (packBits ([(30, 0), (6, b.toNat), (6, a.toNat), (6, d.toNat), (3, h.pred.toNat), (1, h.neg.toNat), (4, h.stall.toNat)] ++ [(8, 0x58)])) = [0, b.toNat, a.toNat, d.toNat, h.pred.toNat, h.neg.toNat, h.stall.toNat, 88] :=
    unpackBits_pack [(30, 0), (6, b.toNat), (6, a.toNat), (6, d.toNat), (3, h.pred.toNat), (1, h.neg.toNat), (4, h.stall.toNat), (8, 0x58)] ⟨by decide, b.isLt, a.isLt, d.isLt, h.pred.isLt, h.neg.isLt, h.stall.isLt, by decide, trivial⟩
  unfold decOp58
  rw [u]
  show (some (Instr.bri ⟨BitVec.ofNat 4 h.stall.toNat, BitVec.ofNat 1 h.neg.toNat, BitVec.ofNat 3 h.pred.toNat⟩ (BitVec.ofNat 6 d.toNat) (BitVec.ofNat 6 a.toNat) (BitVec.ofNat 6 b.toNat))) = _
  simp only [BitVec.ofNat_toNat, BitVec.setWidth_eq]
theorem frame (h : Hdr) (l : BitVec 1) (imm : BitVec 32) : Statement (.frame h l imm) := by
  intro _ hw w1
  refine decode_of_raw (w1 := w1) (by show fieldWidth [(4, 0), (32, imm.toNat), (6, 0), (1, l.toNat), (5, 0), (3, h.pred.toNat), (1, h.neg.toNat), (4, h.stall.toNat), (8, 0x59)] = 64; simp only [fieldWidth]) ?_ hw
  rw [show Instr.fields (.frame h l imm) = [(4, 0), (32, imm.toNat), (6, 0), (1, l.toNat), (5, 0), (3, h.pred.toNat), (1, h.neg.toNat), (4, h.stall.toNat)] ++ [(8, 0x59)] from rfl]
  obtain ⟨e1, e2⟩ := nibbles [(4, 0), (32, imm.toNat), (6, 0), (1, l.toNat), (5, 0), (3, h.pred.toNat), (1, h.neg.toNat), (4, h.stall.toNat)] 0x59 5 9 (by simp only [fieldWidth]) rfl rfl
  rw [decodeRaw_hi5 _ _ e1, decHi5_9 _ _ _ e2]
  have u : unpackBits [4, 32, 6, 1, 5, 3, 1, 4, 8] (packBits ([(4, 0), (32, imm.toNat), (6, 0), (1, l.toNat), (5, 0), (3, h.pred.toNat), (1, h.neg.toNat), (4, h.stall.toNat)] ++ [(8, 0x59)])) = [0, imm.toNat, 0, l.toNat, 0, h.pred.toNat, h.neg.toNat, h.stall.toNat, 89] :=
    unpackBits_pack [(4, 0), (32, imm.toNat), (6, 0), (1, l.toNat), (5, 0), (3, h.pred.toNat), (1, h.neg.toNat), (4, h.stall.toNat), (8, 0x59)] ⟨by decide, imm.isLt, by decide, l.isLt, by decide, h.pred.isLt, h.neg.isLt, h.stall.isLt, by decide, trivial⟩
  unfold decOp59
  rw [u]
  show (some (Instr.frame ⟨BitVec.ofNat 4 h.stall.toNat, BitVec.ofNat 1 h.neg.toNat, BitVec.ofNat 3 h.pred.toNat⟩ (BitVec.ofNat 1 l.toNat) (BitVec.ofNat 32 imm.toNat))) = _
  simp only [BitVec.ofNat_toNat, BitVec.setWidth_eq]
theorem brz (h : Hdr) (a : BitVec 6) (off : BitVec 30) : Statement (.brz h a off) := by
  intro _ hw w1
  refine decode_of_raw (w1 := w1) (by show fieldWidth [(30, off.toNat), (12, 0), (6, a.toNat), (3, h.pred.toNat), (1, h.neg.toNat), (4, h.stall.toNat), (8, 0x5a)] = 64; simp only [fieldWidth]) ?_ hw
  rw [show Instr.fields (.brz h a off) = [(30, off.toNat), (12, 0), (6, a.toNat), (3, h.pred.toNat), (1, h.neg.toNat), (4, h.stall.toNat)] ++ [(8, 0x5A)] from rfl]
  obtain ⟨e1, e2⟩ := nibbles [(30, off.toNat), (12, 0), (6, a.toNat), (3, h.pred.toNat), (1, h.neg.toNat), (4, h.stall.toNat)] 0x5A 5 10 (by simp only [fieldWidth]) rfl rfl
  rw [decodeRaw_hi5 _ _ e1, decHi5_A _ _ _ e2]
  have u : unpackBits [30, 12, 6, 3, 1, 4, 8] (packBits ([(30, off.toNat), (12, 0), (6, a.toNat), (3, h.pred.toNat), (1, h.neg.toNat), (4, h.stall.toNat)] ++ [(8, 0x5A)])) = [off.toNat, 0, a.toNat, h.pred.toNat, h.neg.toNat, h.stall.toNat, 90] :=
    unpackBits_pack [(30, off.toNat), (12, 0), (6, a.toNat), (3, h.pred.toNat), (1, h.neg.toNat), (4, h.stall.toNat), (8, 0x5a)] ⟨off.isLt, by decide, a.isLt, h.pred.isLt, h.neg.isLt, h.stall.isLt, by decide, trivial⟩
  unfold decOp5A
  rw [u]
  show (some (Instr.brz ⟨BitVec.ofNat 4 h.stall.toNat, BitVec.ofNat 1 h.neg.toNat, BitVec.ofNat 3 h.pred.toNat⟩ (BitVec.ofNat 6 a.toNat) (BitVec.ofNat 30 off.toNat))) = _
  simp only [BitVec.ofNat_toNat, BitVec.setWidth_eq]
theorem brnz (h : Hdr) (a : BitVec 6) (off : BitVec 30) : Statement (.brnz h a off) := by
  intro _ hw w1
  refine decode_of_raw (w1 := w1) (by show fieldWidth [(30, off.toNat), (12, 0), (6, a.toNat), (3, h.pred.toNat), (1, h.neg.toNat), (4, h.stall.toNat), (8, 0x5b)] = 64; simp only [fieldWidth]) ?_ hw
  rw [show Instr.fields (.brnz h a off) = [(30, off.toNat), (12, 0), (6, a.toNat), (3, h.pred.toNat), (1, h.neg.toNat), (4, h.stall.toNat)] ++ [(8, 0x5B)] from rfl]
  obtain ⟨e1, e2⟩ := nibbles [(30, off.toNat), (12, 0), (6, a.toNat), (3, h.pred.toNat), (1, h.neg.toNat), (4, h.stall.toNat)] 0x5B 5 11 (by simp only [fieldWidth]) rfl rfl
  rw [decodeRaw_hi5 _ _ e1, decHi5_B _ _ _ e2]
  have u : unpackBits [30, 12, 6, 3, 1, 4, 8] (packBits ([(30, off.toNat), (12, 0), (6, a.toNat), (3, h.pred.toNat), (1, h.neg.toNat), (4, h.stall.toNat)] ++ [(8, 0x5B)])) = [off.toNat, 0, a.toNat, h.pred.toNat, h.neg.toNat, h.stall.toNat, 91] :=
    unpackBits_pack [(30, off.toNat), (12, 0), (6, a.toNat), (3, h.pred.toNat), (1, h.neg.toNat), (4, h.stall.toNat), (8, 0x5b)] ⟨off.isLt, by decide, a.isLt, h.pred.isLt, h.neg.isLt, h.stall.isLt, by decide, trivial⟩
  unfold decOp5B
  rw [u]
  show (some (Instr.brnz ⟨BitVec.ofNat 4 h.stall.toNat, BitVec.ofNat 1 h.neg.toNat, BitVec.ofNat 3 h.pred.toNat⟩ (BitVec.ofNat 6 a.toNat) (BitVec.ofNat 30 off.toNat))) = _
  simp only [BitVec.ofNat_toNat, BitVec.setWidth_eq]
theorem cbr (h : Hdr) (a b cond : BitVec 6) (off : BitVec 30) : Statement (.cbr h a b cond off) := by
  intro _ hw w1
  refine decode_of_raw (w1 := w1) (by show fieldWidth [(30, off.toNat), (6, cond.toNat), (6, b.toNat), (6, a.toNat), (3, h.pred.toNat), (1, h.neg.toNat), (4, h.stall.toNat), (8, 0x5c)] = 64; simp only [fieldWidth]) ?_ hw
  rw [show Instr.fields (.cbr h a b cond off) = [(30, off.toNat), (6, cond.toNat), (6, b.toNat), (6, a.toNat), (3, h.pred.toNat), (1, h.neg.toNat), (4, h.stall.toNat)] ++ [(8, 0x5C)] from rfl]
  obtain ⟨e1, e2⟩ := nibbles [(30, off.toNat), (6, cond.toNat), (6, b.toNat), (6, a.toNat), (3, h.pred.toNat), (1, h.neg.toNat), (4, h.stall.toNat)] 0x5C 5 12 (by simp only [fieldWidth]) rfl rfl
  rw [decodeRaw_hi5 _ _ e1, decHi5_C _ _ _ e2]
  have u : unpackBits [30, 6, 6, 6, 3, 1, 4, 8] (packBits ([(30, off.toNat), (6, cond.toNat), (6, b.toNat), (6, a.toNat), (3, h.pred.toNat), (1, h.neg.toNat), (4, h.stall.toNat)] ++ [(8, 0x5C)])) = [off.toNat, cond.toNat, b.toNat, a.toNat, h.pred.toNat, h.neg.toNat, h.stall.toNat, 92] :=
    unpackBits_pack [(30, off.toNat), (6, cond.toNat), (6, b.toNat), (6, a.toNat), (3, h.pred.toNat), (1, h.neg.toNat), (4, h.stall.toNat), (8, 0x5c)] ⟨off.isLt, cond.isLt, b.isLt, a.isLt, h.pred.isLt, h.neg.isLt, h.stall.isLt, by decide, trivial⟩
  unfold decOp5C
  rw [u]
  show (some (Instr.cbr ⟨BitVec.ofNat 4 h.stall.toNat, BitVec.ofNat 1 h.neg.toNat, BitVec.ofNat 3 h.pred.toNat⟩ (BitVec.ofNat 6 a.toNat) (BitVec.ofNat 6 b.toNat) (BitVec.ofNat 6 cond.toNat) (BitVec.ofNat 30 off.toNat))) = _
  simp only [BitVec.ofNat_toNat, BitVec.setWidth_eq]
theorem cbri (h : Hdr) (a i6 cond : BitVec 6) (off : BitVec 30) : Statement (.cbri h a i6 cond off) := by
  intro _ hw w1
  refine decode_of_raw (w1 := w1) (by show fieldWidth [(30, off.toNat), (6, cond.toNat), (6, i6.toNat), (6, a.toNat), (3, h.pred.toNat), (1, h.neg.toNat), (4, h.stall.toNat), (8, 0x5d)] = 64; simp only [fieldWidth]) ?_ hw
  rw [show Instr.fields (.cbri h a i6 cond off) = [(30, off.toNat), (6, cond.toNat), (6, i6.toNat), (6, a.toNat), (3, h.pred.toNat), (1, h.neg.toNat), (4, h.stall.toNat)] ++ [(8, 0x5D)] from rfl]
  obtain ⟨e1, e2⟩ := nibbles [(30, off.toNat), (6, cond.toNat), (6, i6.toNat), (6, a.toNat), (3, h.pred.toNat), (1, h.neg.toNat), (4, h.stall.toNat)] 0x5D 5 13 (by simp only [fieldWidth]) rfl rfl
  rw [decodeRaw_hi5 _ _ e1, decHi5_D _ _ _ e2]
  have u : unpackBits [30, 6, 6, 6, 3, 1, 4, 8] (packBits ([(30, off.toNat), (6, cond.toNat), (6, i6.toNat), (6, a.toNat), (3, h.pred.toNat), (1, h.neg.toNat), (4, h.stall.toNat)] ++ [(8, 0x5D)])) = [off.toNat, cond.toNat, i6.toNat, a.toNat, h.pred.toNat, h.neg.toNat, h.stall.toNat, 93] :=
    unpackBits_pack [(30, off.toNat), (6, cond.toNat), (6, i6.toNat), (6, a.toNat), (3, h.pred.toNat), (1, h.neg.toNat), (4, h.stall.toNat), (8, 0x5d)] ⟨off.isLt, cond.isLt, i6.isLt, a.isLt, h.pred.isLt, h.neg.isLt, h.stall.isLt, by decide, trivial⟩
  unfold decOp5D
  rw [u]
  show (some (Instr.cbri ⟨BitVec.ofNat 4 h.stall.toNat, BitVec.ofNat 1 h.neg.toNat, BitVec.ofNat 3 h.pred.toNat⟩ (BitVec.ofNat 6 a.toNat) (BitVec.ofNat 6 i6.toNat) (BitVec.ofNat 6 cond.toNat) (BitVec.ofNat 30 off.toNat))) = _
  simp only [BitVec.ofNat_toNat, BitVec.setWidth_eq]
theorem exit (h : Hdr) : Statement (.exit h) := by
  intro _ hw w1
  refine decode_of_raw (w1 := w1) (by show fieldWidth [(48, 0), (3, h.pred.toNat), (1, h.neg.toNat), (4, h.stall.toNat), (8, 0x5e)] = 64; simp only [fieldWidth]) ?_ hw
  rw [show Instr.fields (.exit h) = [(48, 0), (3, h.pred.toNat), (1, h.neg.toNat), (4, h.stall.toNat)] ++ [(8, 0x5E)] from rfl]
  obtain ⟨e1, e2⟩ := nibbles [(48, 0), (3, h.pred.toNat), (1, h.neg.toNat), (4, h.stall.toNat)] 0x5E 5 14 (by simp only [fieldWidth]) rfl rfl
  rw [decodeRaw_hi5 _ _ e1, decHi5_E _ _ _ e2]
  have u : unpackBits [48, 3, 1, 4, 8] (packBits ([(48, 0), (3, h.pred.toNat), (1, h.neg.toNat), (4, h.stall.toNat)] ++ [(8, 0x5E)])) = [0, h.pred.toNat, h.neg.toNat, h.stall.toNat, 94] :=
    unpackBits_pack [(48, 0), (3, h.pred.toNat), (1, h.neg.toNat), (4, h.stall.toNat), (8, 0x5e)] ⟨by decide, h.pred.isLt, h.neg.isLt, h.stall.isLt, by decide, trivial⟩
  unfold decOp5E
  rw [u]
  show (some (Instr.exit ⟨BitVec.ofNat 4 h.stall.toNat, BitVec.ofNat 1 h.neg.toNat, BitVec.ofNat 3 h.pred.toNat⟩)) = _
  simp only [BitVec.ofNat_toNat, BitVec.setWidth_eq]
theorem nexti (h : Hdr) (d : BitVec 6) : Statement (.nexti h d) := by
  intro _ hw w1
  refine decode_of_raw (w1 := w1) (by show fieldWidth [(42, 0), (6, d.toNat), (3, h.pred.toNat), (1, h.neg.toNat), (4, h.stall.toNat), (8, 0x5f)] = 64; simp only [fieldWidth]) ?_ hw
  rw [show Instr.fields (.nexti h d) = [(42, 0), (6, d.toNat), (3, h.pred.toNat), (1, h.neg.toNat), (4, h.stall.toNat)] ++ [(8, 0x5F)] from rfl]
  obtain ⟨e1, e2⟩ := nibbles [(42, 0), (6, d.toNat), (3, h.pred.toNat), (1, h.neg.toNat), (4, h.stall.toNat)] 0x5F 5 15 (by simp only [fieldWidth]) rfl rfl
  rw [decodeRaw_hi5 _ _ e1, decHi5_F _ _ _ e2]
  have u : unpackBits [42, 6, 3, 1, 4, 8] (packBits ([(42, 0), (6, d.toNat), (3, h.pred.toNat), (1, h.neg.toNat), (4, h.stall.toNat)] ++ [(8, 0x5F)])) = [0, d.toNat, h.pred.toNat, h.neg.toNat, h.stall.toNat, 95] :=
    unpackBits_pack [(42, 0), (6, d.toNat), (3, h.pred.toNat), (1, h.neg.toNat), (4, h.stall.toNat), (8, 0x5f)] ⟨by decide, d.isLt, h.pred.isLt, h.neg.isLt, h.stall.isLt, by decide, trivial⟩
  unfold decOp5F
  rw [u]
  show (some (Instr.nexti ⟨BitVec.ofNat 4 h.stall.toNat, BitVec.ofNat 1 h.neg.toNat, BitVec.ofNat 3 h.pred.toNat⟩ (BitVec.ofNat 6 d.toNat))) = _
  simp only [BitVec.ofNat_toNat, BitVec.setWidth_eq]
theorem ld (h : Hdr) (t base : BitVec 6) (size : BitVec 2) (index : BitVec 6) (disp : BitVec 24) : Statement (.ld h t base size index disp) := by
  intro _ hw w1
  refine decode_of_raw (w1 := w1) (by show fieldWidth [(24, disp.toNat), (6, index.toNat), (3, 0), (2, size.toNat), (1, 0), (6, base.toNat), (6, t.toNat), (3, h.pred.toNat), (1, h.neg.toNat), (4, h.stall.toNat), (8, 0x60)] = 64; simp only [fieldWidth]) ?_ hw
  rw [show Instr.fields (.ld h t base size index disp) = [(24, disp.toNat), (6, index.toNat), (3, 0), (2, size.toNat), (1, 0), (6, base.toNat), (6, t.toNat), (3, h.pred.toNat), (1, h.neg.toNat), (4, h.stall.toNat)] ++ [(8, 0x60)] from rfl]
  obtain ⟨e1, e2⟩ := nibbles [(24, disp.toNat), (6, index.toNat), (3, 0), (2, size.toNat), (1, 0), (6, base.toNat), (6, t.toNat), (3, h.pred.toNat), (1, h.neg.toNat), (4, h.stall.toNat)] 0x60 6 0 (by simp only [fieldWidth]) rfl rfl
  rw [decodeRaw_hi6 _ _ e1, decHi6_0 _ _ _ e2]
  have u : unpackBits [24, 6, 3, 2, 1, 6, 6, 3, 1, 4, 8] (packBits ([(24, disp.toNat), (6, index.toNat), (3, 0), (2, size.toNat), (1, 0), (6, base.toNat), (6, t.toNat), (3, h.pred.toNat), (1, h.neg.toNat), (4, h.stall.toNat)] ++ [(8, 0x60)])) = [disp.toNat, index.toNat, 0, size.toNat, 0, base.toNat, t.toNat, h.pred.toNat, h.neg.toNat, h.stall.toNat, 96] :=
    unpackBits_pack [(24, disp.toNat), (6, index.toNat), (3, 0), (2, size.toNat), (1, 0), (6, base.toNat), (6, t.toNat), (3, h.pred.toNat), (1, h.neg.toNat), (4, h.stall.toNat), (8, 0x60)] ⟨disp.isLt, index.isLt, by decide, size.isLt, by decide, base.isLt, t.isLt, h.pred.isLt, h.neg.isLt, h.stall.isLt, by decide, trivial⟩
  unfold decOp60
  rw [u]
  show (some (Instr.ld ⟨BitVec.ofNat 4 h.stall.toNat, BitVec.ofNat 1 h.neg.toNat, BitVec.ofNat 3 h.pred.toNat⟩ (BitVec.ofNat 6 t.toNat) (BitVec.ofNat 6 base.toNat) (BitVec.ofNat 2 size.toNat) (BitVec.ofNat 6 index.toNat) (BitVec.ofNat 24 disp.toNat))) = _
  simp only [BitVec.ofNat_toNat, BitVec.setWidth_eq]
theorem lds (h : Hdr) (t base : BitVec 6) (size : BitVec 2) (index : BitVec 6) (disp : BitVec 24) : Statement (.lds h t base size index disp) := by
  intro _ hw w1
  refine decode_of_raw (w1 := w1) (by show fieldWidth [(24, disp.toNat), (6, index.toNat), (3, 0), (2, size.toNat), (1, 0), (6, base.toNat), (6, t.toNat), (3, h.pred.toNat), (1, h.neg.toNat), (4, h.stall.toNat), (8, 0x61)] = 64; simp only [fieldWidth]) ?_ hw
  rw [show Instr.fields (.lds h t base size index disp) = [(24, disp.toNat), (6, index.toNat), (3, 0), (2, size.toNat), (1, 0), (6, base.toNat), (6, t.toNat), (3, h.pred.toNat), (1, h.neg.toNat), (4, h.stall.toNat)] ++ [(8, 0x61)] from rfl]
  obtain ⟨e1, e2⟩ := nibbles [(24, disp.toNat), (6, index.toNat), (3, 0), (2, size.toNat), (1, 0), (6, base.toNat), (6, t.toNat), (3, h.pred.toNat), (1, h.neg.toNat), (4, h.stall.toNat)] 0x61 6 1 (by simp only [fieldWidth]) rfl rfl
  rw [decodeRaw_hi6 _ _ e1, decHi6_1 _ _ _ e2]
  have u : unpackBits [24, 6, 3, 2, 1, 6, 6, 3, 1, 4, 8] (packBits ([(24, disp.toNat), (6, index.toNat), (3, 0), (2, size.toNat), (1, 0), (6, base.toNat), (6, t.toNat), (3, h.pred.toNat), (1, h.neg.toNat), (4, h.stall.toNat)] ++ [(8, 0x61)])) = [disp.toNat, index.toNat, 0, size.toNat, 0, base.toNat, t.toNat, h.pred.toNat, h.neg.toNat, h.stall.toNat, 97] :=
    unpackBits_pack [(24, disp.toNat), (6, index.toNat), (3, 0), (2, size.toNat), (1, 0), (6, base.toNat), (6, t.toNat), (3, h.pred.toNat), (1, h.neg.toNat), (4, h.stall.toNat), (8, 0x61)] ⟨disp.isLt, index.isLt, by decide, size.isLt, by decide, base.isLt, t.isLt, h.pred.isLt, h.neg.isLt, h.stall.isLt, by decide, trivial⟩
  unfold decOp61
  rw [u]
  show (some (Instr.lds ⟨BitVec.ofNat 4 h.stall.toNat, BitVec.ofNat 1 h.neg.toNat, BitVec.ofNat 3 h.pred.toNat⟩ (BitVec.ofNat 6 t.toNat) (BitVec.ofNat 6 base.toNat) (BitVec.ofNat 2 size.toNat) (BitVec.ofNat 6 index.toNat) (BitVec.ofNat 24 disp.toNat))) = _
  simp only [BitVec.ofNat_toNat, BitVec.setWidth_eq]
theorem st (h : Hdr) (t base : BitVec 6) (size : BitVec 2) (index : BitVec 6) (disp : BitVec 24) : Statement (.st h t base size index disp) := by
  intro _ hw w1
  refine decode_of_raw (w1 := w1) (by show fieldWidth [(24, disp.toNat), (6, index.toNat), (3, 0), (2, size.toNat), (1, 0), (6, base.toNat), (6, t.toNat), (3, h.pred.toNat), (1, h.neg.toNat), (4, h.stall.toNat), (8, 0x62)] = 64; simp only [fieldWidth]) ?_ hw
  rw [show Instr.fields (.st h t base size index disp) = [(24, disp.toNat), (6, index.toNat), (3, 0), (2, size.toNat), (1, 0), (6, base.toNat), (6, t.toNat), (3, h.pred.toNat), (1, h.neg.toNat), (4, h.stall.toNat)] ++ [(8, 0x62)] from rfl]
  obtain ⟨e1, e2⟩ := nibbles [(24, disp.toNat), (6, index.toNat), (3, 0), (2, size.toNat), (1, 0), (6, base.toNat), (6, t.toNat), (3, h.pred.toNat), (1, h.neg.toNat), (4, h.stall.toNat)] 0x62 6 2 (by simp only [fieldWidth]) rfl rfl
  rw [decodeRaw_hi6 _ _ e1, decHi6_2 _ _ _ e2]
  have u : unpackBits [24, 6, 3, 2, 1, 6, 6, 3, 1, 4, 8] (packBits ([(24, disp.toNat), (6, index.toNat), (3, 0), (2, size.toNat), (1, 0), (6, base.toNat), (6, t.toNat), (3, h.pred.toNat), (1, h.neg.toNat), (4, h.stall.toNat)] ++ [(8, 0x62)])) = [disp.toNat, index.toNat, 0, size.toNat, 0, base.toNat, t.toNat, h.pred.toNat, h.neg.toNat, h.stall.toNat, 98] :=
    unpackBits_pack [(24, disp.toNat), (6, index.toNat), (3, 0), (2, size.toNat), (1, 0), (6, base.toNat), (6, t.toNat), (3, h.pred.toNat), (1, h.neg.toNat), (4, h.stall.toNat), (8, 0x62)] ⟨disp.isLt, index.isLt, by decide, size.isLt, by decide, base.isLt, t.isLt, h.pred.isLt, h.neg.isLt, h.stall.isLt, by decide, trivial⟩
  unfold decOp62
  rw [u]
  show (some (Instr.st ⟨BitVec.ofNat 4 h.stall.toNat, BitVec.ofNat 1 h.neg.toNat, BitVec.ofNat 3 h.pred.toNat⟩ (BitVec.ofNat 6 t.toNat) (BitVec.ofNat 6 base.toNat) (BitVec.ofNat 2 size.toNat) (BitVec.ofNat 6 index.toNat) (BitVec.ofNat 24 disp.toNat))) = _
  simp only [BitVec.ofNat_toNat, BitVec.setWidth_eq]
theorem ldl (h : Hdr) (t base : BitVec 6) (size : BitVec 2) (index : BitVec 6) (disp : BitVec 24) : Statement (.ldl h t base size index disp) := by
  intro _ hw w1
  refine decode_of_raw (w1 := w1) (by show fieldWidth [(24, disp.toNat), (6, index.toNat), (3, 0), (2, size.toNat), (1, 0), (6, base.toNat), (6, t.toNat), (3, h.pred.toNat), (1, h.neg.toNat), (4, h.stall.toNat), (8, 0x63)] = 64; simp only [fieldWidth]) ?_ hw
  rw [show Instr.fields (.ldl h t base size index disp) = [(24, disp.toNat), (6, index.toNat), (3, 0), (2, size.toNat), (1, 0), (6, base.toNat), (6, t.toNat), (3, h.pred.toNat), (1, h.neg.toNat), (4, h.stall.toNat)] ++ [(8, 0x63)] from rfl]
  obtain ⟨e1, e2⟩ := nibbles [(24, disp.toNat), (6, index.toNat), (3, 0), (2, size.toNat), (1, 0), (6, base.toNat), (6, t.toNat), (3, h.pred.toNat), (1, h.neg.toNat), (4, h.stall.toNat)] 0x63 6 3 (by simp only [fieldWidth]) rfl rfl
  rw [decodeRaw_hi6 _ _ e1, decHi6_3 _ _ _ e2]
  have u : unpackBits [24, 6, 3, 2, 1, 6, 6, 3, 1, 4, 8] (packBits ([(24, disp.toNat), (6, index.toNat), (3, 0), (2, size.toNat), (1, 0), (6, base.toNat), (6, t.toNat), (3, h.pred.toNat), (1, h.neg.toNat), (4, h.stall.toNat)] ++ [(8, 0x63)])) = [disp.toNat, index.toNat, 0, size.toNat, 0, base.toNat, t.toNat, h.pred.toNat, h.neg.toNat, h.stall.toNat, 99] :=
    unpackBits_pack [(24, disp.toNat), (6, index.toNat), (3, 0), (2, size.toNat), (1, 0), (6, base.toNat), (6, t.toNat), (3, h.pred.toNat), (1, h.neg.toNat), (4, h.stall.toNat), (8, 0x63)] ⟨disp.isLt, index.isLt, by decide, size.isLt, by decide, base.isLt, t.isLt, h.pred.isLt, h.neg.isLt, h.stall.isLt, by decide, trivial⟩
  unfold decOp63
  rw [u]
  show (some (Instr.ldl ⟨BitVec.ofNat 4 h.stall.toNat, BitVec.ofNat 1 h.neg.toNat, BitVec.ofNat 3 h.pred.toNat⟩ (BitVec.ofNat 6 t.toNat) (BitVec.ofNat 6 base.toNat) (BitVec.ofNat 2 size.toNat) (BitVec.ofNat 6 index.toNat) (BitVec.ofNat 24 disp.toNat))) = _
  simp only [BitVec.ofNat_toNat, BitVec.setWidth_eq]
theorem lda (h : Hdr) (t base : BitVec 6) (size : BitVec 2) (sc : BitVec 3) (index : BitVec 6) (disp : BitVec 24) : Statement (.lda h t base size sc index disp) := by
  intro _ hw w1
  refine decode_of_raw (w1 := w1) (by show fieldWidth [(24, disp.toNat), (6, index.toNat), (3, sc.toNat), (2, size.toNat), (1, 0), (6, base.toNat), (6, t.toNat), (3, h.pred.toNat), (1, h.neg.toNat), (4, h.stall.toNat), (8, 0x64)] = 64; simp only [fieldWidth]) ?_ hw
  rw [show Instr.fields (.lda h t base size sc index disp) = [(24, disp.toNat), (6, index.toNat), (3, sc.toNat), (2, size.toNat), (1, 0), (6, base.toNat), (6, t.toNat), (3, h.pred.toNat), (1, h.neg.toNat), (4, h.stall.toNat)] ++ [(8, 0x64)] from rfl]
  obtain ⟨e1, e2⟩ := nibbles [(24, disp.toNat), (6, index.toNat), (3, sc.toNat), (2, size.toNat), (1, 0), (6, base.toNat), (6, t.toNat), (3, h.pred.toNat), (1, h.neg.toNat), (4, h.stall.toNat)] 0x64 6 4 (by simp only [fieldWidth]) rfl rfl
  rw [decodeRaw_hi6 _ _ e1, decHi6_4 _ _ _ e2]
  have u : unpackBits [24, 6, 3, 2, 1, 6, 6, 3, 1, 4, 8] (packBits ([(24, disp.toNat), (6, index.toNat), (3, sc.toNat), (2, size.toNat), (1, 0), (6, base.toNat), (6, t.toNat), (3, h.pred.toNat), (1, h.neg.toNat), (4, h.stall.toNat)] ++ [(8, 0x64)])) = [disp.toNat, index.toNat, sc.toNat, size.toNat, 0, base.toNat, t.toNat, h.pred.toNat, h.neg.toNat, h.stall.toNat, 100] :=
    unpackBits_pack [(24, disp.toNat), (6, index.toNat), (3, sc.toNat), (2, size.toNat), (1, 0), (6, base.toNat), (6, t.toNat), (3, h.pred.toNat), (1, h.neg.toNat), (4, h.stall.toNat), (8, 0x64)] ⟨disp.isLt, index.isLt, sc.isLt, size.isLt, by decide, base.isLt, t.isLt, h.pred.isLt, h.neg.isLt, h.stall.isLt, by decide, trivial⟩
  unfold decOp64
  rw [u]
  show (some (Instr.lda ⟨BitVec.ofNat 4 h.stall.toNat, BitVec.ofNat 1 h.neg.toNat, BitVec.ofNat 3 h.pred.toNat⟩ (BitVec.ofNat 6 t.toNat) (BitVec.ofNat 6 base.toNat) (BitVec.ofNat 2 size.toNat) (BitVec.ofNat 3 sc.toNat) (BitVec.ofNat 6 index.toNat) (BitVec.ofNat 24 disp.toNat))) = _
  simp only [BitVec.ofNat_toNat, BitVec.setWidth_eq]
theorem stl (h : Hdr) (t base : BitVec 6) (size : BitVec 2) (sc : BitVec 3) (index : BitVec 6) (disp : BitVec 24) : Statement (.stl h t base size sc index disp) := by
  intro _ hw w1
  refine decode_of_raw (w1 := w1) (by show fieldWidth [(24, disp.toNat), (6, index.toNat), (3, sc.toNat), (2, size.toNat), (1, 0), (6, base.toNat), (6, t.toNat), (3, h.pred.toNat), (1, h.neg.toNat), (4, h.stall.toNat), (8, 0x65)] = 64; simp only [fieldWidth]) ?_ hw
  rw [show Instr.fields (.stl h t base size sc index disp) = [(24, disp.toNat), (6, index.toNat), (3, sc.toNat), (2, size.toNat), (1, 0), (6, base.toNat), (6, t.toNat), (3, h.pred.toNat), (1, h.neg.toNat), (4, h.stall.toNat)] ++ [(8, 0x65)] from rfl]
  obtain ⟨e1, e2⟩ := nibbles [(24, disp.toNat), (6, index.toNat), (3, sc.toNat), (2, size.toNat), (1, 0), (6, base.toNat), (6, t.toNat), (3, h.pred.toNat), (1, h.neg.toNat), (4, h.stall.toNat)] 0x65 6 5 (by simp only [fieldWidth]) rfl rfl
  rw [decodeRaw_hi6 _ _ e1, decHi6_5 _ _ _ e2]
  have u : unpackBits [24, 6, 3, 2, 1, 6, 6, 3, 1, 4, 8] (packBits ([(24, disp.toNat), (6, index.toNat), (3, sc.toNat), (2, size.toNat), (1, 0), (6, base.toNat), (6, t.toNat), (3, h.pred.toNat), (1, h.neg.toNat), (4, h.stall.toNat)] ++ [(8, 0x65)])) = [disp.toNat, index.toNat, sc.toNat, size.toNat, 0, base.toNat, t.toNat, h.pred.toNat, h.neg.toNat, h.stall.toNat, 101] :=
    unpackBits_pack [(24, disp.toNat), (6, index.toNat), (3, sc.toNat), (2, size.toNat), (1, 0), (6, base.toNat), (6, t.toNat), (3, h.pred.toNat), (1, h.neg.toNat), (4, h.stall.toNat), (8, 0x65)] ⟨disp.isLt, index.isLt, sc.isLt, size.isLt, by decide, base.isLt, t.isLt, h.pred.isLt, h.neg.isLt, h.stall.isLt, by decide, trivial⟩
  unfold decOp65
  rw [u]
  show (some (Instr.stl ⟨BitVec.ofNat 4 h.stall.toNat, BitVec.ofNat 1 h.neg.toNat, BitVec.ofNat 3 h.pred.toNat⟩ (BitVec.ofNat 6 t.toNat) (BitVec.ofNat 6 base.toNat) (BitVec.ofNat 2 size.toNat) (BitVec.ofNat 3 sc.toNat) (BitVec.ofNat 6 index.toNat) (BitVec.ofNat 24 disp.toNat))) = _
  simp only [BitVec.ofNat_toNat, BitVec.setWidth_eq]
theorem amoAdd (h : Hdr) (a b c : BitVec 6) (rel acq : BitVec 1) (size : BitVec 2) (sc : BitVec 3) : Statement (.amoAdd h a b c rel acq size sc) := by
  intro _ hw w1
  refine decode_of_raw (w1 := w1) (by show fieldWidth [(3, sc.toNat), (2, size.toNat), (1, acq.toNat), (1, rel.toNat), (23, 0), (6, c.toNat), (6, b.toNat), (6, a.toNat), (3, h.pred.toNat), (1, h.neg.toNat), (4, h.stall.toNat), (8, 0x66)] = 64; simp only [fieldWidth]) ?_ hw
  rw [show Instr.fields (.amoAdd h a b c rel acq size sc) = [(3, sc.toNat), (2, size.toNat), (1, acq.toNat), (1, rel.toNat), (23, 0), (6, c.toNat), (6, b.toNat), (6, a.toNat), (3, h.pred.toNat), (1, h.neg.toNat), (4, h.stall.toNat)] ++ [(8, 0x66)] from rfl]
  obtain ⟨e1, e2⟩ := nibbles [(3, sc.toNat), (2, size.toNat), (1, acq.toNat), (1, rel.toNat), (23, 0), (6, c.toNat), (6, b.toNat), (6, a.toNat), (3, h.pred.toNat), (1, h.neg.toNat), (4, h.stall.toNat)] 0x66 6 6 (by simp only [fieldWidth]) rfl rfl
  rw [decodeRaw_hi6 _ _ e1, decHi6_6 _ _ _ e2]
  have u : unpackBits [3, 2, 1, 1, 23, 6, 6, 6, 3, 1, 4, 8] (packBits ([(3, sc.toNat), (2, size.toNat), (1, acq.toNat), (1, rel.toNat), (23, 0), (6, c.toNat), (6, b.toNat), (6, a.toNat), (3, h.pred.toNat), (1, h.neg.toNat), (4, h.stall.toNat)] ++ [(8, 0x66)])) = [sc.toNat, size.toNat, acq.toNat, rel.toNat, 0, c.toNat, b.toNat, a.toNat, h.pred.toNat, h.neg.toNat, h.stall.toNat, 102] :=
    unpackBits_pack [(3, sc.toNat), (2, size.toNat), (1, acq.toNat), (1, rel.toNat), (23, 0), (6, c.toNat), (6, b.toNat), (6, a.toNat), (3, h.pred.toNat), (1, h.neg.toNat), (4, h.stall.toNat), (8, 0x66)] ⟨sc.isLt, size.isLt, acq.isLt, rel.isLt, by decide, c.isLt, b.isLt, a.isLt, h.pred.isLt, h.neg.isLt, h.stall.isLt, by decide, trivial⟩
  unfold decOp66
  rw [u]
  show (some (Instr.amoAdd ⟨BitVec.ofNat 4 h.stall.toNat, BitVec.ofNat 1 h.neg.toNat, BitVec.ofNat 3 h.pred.toNat⟩ (BitVec.ofNat 6 a.toNat) (BitVec.ofNat 6 b.toNat) (BitVec.ofNat 6 c.toNat) (BitVec.ofNat 1 rel.toNat) (BitVec.ofNat 1 acq.toNat) (BitVec.ofNat 2 size.toNat) (BitVec.ofNat 3 sc.toNat))) = _
  simp only [BitVec.ofNat_toNat, BitVec.setWidth_eq]
theorem amoAnd (h : Hdr) (a b c : BitVec 6) (rel acq : BitVec 1) (size : BitVec 2) (sc : BitVec 3) : Statement (.amoAnd h a b c rel acq size sc) := by
  intro _ hw w1
  refine decode_of_raw (w1 := w1) (by show fieldWidth [(3, sc.toNat), (2, size.toNat), (1, acq.toNat), (1, rel.toNat), (23, 131072), (6, c.toNat), (6, b.toNat), (6, a.toNat), (3, h.pred.toNat), (1, h.neg.toNat), (4, h.stall.toNat), (8, 0x66)] = 64; simp only [fieldWidth]) ?_ hw
  rw [show Instr.fields (.amoAnd h a b c rel acq size sc) = [(3, sc.toNat), (2, size.toNat), (1, acq.toNat), (1, rel.toNat), (23, 131072), (6, c.toNat), (6, b.toNat), (6, a.toNat), (3, h.pred.toNat), (1, h.neg.toNat), (4, h.stall.toNat)] ++ [(8, 0x66)] from rfl]
  obtain ⟨e1, e2⟩ := nibbles [(3, sc.toNat), (2, size.toNat), (1, acq.toNat), (1, rel.toNat), (23, 131072), (6, c.toNat), (6, b.toNat), (6, a.toNat), (3, h.pred.toNat), (1, h.neg.toNat), (4, h.stall.toNat)] 0x66 6 6 (by simp only [fieldWidth]) rfl rfl
  rw [decodeRaw_hi6 _ _ e1, decHi6_6 _ _ _ e2]
  have u : unpackBits [3, 2, 1, 1, 23, 6, 6, 6, 3, 1, 4, 8] (packBits ([(3, sc.toNat), (2, size.toNat), (1, acq.toNat), (1, rel.toNat), (23, 131072), (6, c.toNat), (6, b.toNat), (6, a.toNat), (3, h.pred.toNat), (1, h.neg.toNat), (4, h.stall.toNat)] ++ [(8, 0x66)])) = [sc.toNat, size.toNat, acq.toNat, rel.toNat, 131072, c.toNat, b.toNat, a.toNat, h.pred.toNat, h.neg.toNat, h.stall.toNat, 102] :=
    unpackBits_pack [(3, sc.toNat), (2, size.toNat), (1, acq.toNat), (1, rel.toNat), (23, 131072), (6, c.toNat), (6, b.toNat), (6, a.toNat), (3, h.pred.toNat), (1, h.neg.toNat), (4, h.stall.toNat), (8, 0x66)] ⟨sc.isLt, size.isLt, acq.isLt, rel.isLt, by decide, c.isLt, b.isLt, a.isLt, h.pred.isLt, h.neg.isLt, h.stall.isLt, by decide, trivial⟩
  unfold decOp66
  rw [u]
  show (some (Instr.amoAnd ⟨BitVec.ofNat 4 h.stall.toNat, BitVec.ofNat 1 h.neg.toNat, BitVec.ofNat 3 h.pred.toNat⟩ (BitVec.ofNat 6 a.toNat) (BitVec.ofNat 6 b.toNat) (BitVec.ofNat 6 c.toNat) (BitVec.ofNat 1 rel.toNat) (BitVec.ofNat 1 acq.toNat) (BitVec.ofNat 2 size.toNat) (BitVec.ofNat 3 sc.toNat))) = _
  simp only [BitVec.ofNat_toNat, BitVec.setWidth_eq]
theorem amoOr (h : Hdr) (a b c : BitVec 6) (rel acq : BitVec 1) (size : BitVec 2) (sc : BitVec 3) : Statement (.amoOr h a b c rel acq size sc) := by
  intro _ hw w1
  refine decode_of_raw (w1 := w1) (by show fieldWidth [(3, sc.toNat), (2, size.toNat), (1, acq.toNat), (1, rel.toNat), (23, 262144), (6, c.toNat), (6, b.toNat), (6, a.toNat), (3, h.pred.toNat), (1, h.neg.toNat), (4, h.stall.toNat), (8, 0x66)] = 64; simp only [fieldWidth]) ?_ hw
  rw [show Instr.fields (.amoOr h a b c rel acq size sc) = [(3, sc.toNat), (2, size.toNat), (1, acq.toNat), (1, rel.toNat), (23, 262144), (6, c.toNat), (6, b.toNat), (6, a.toNat), (3, h.pred.toNat), (1, h.neg.toNat), (4, h.stall.toNat)] ++ [(8, 0x66)] from rfl]
  obtain ⟨e1, e2⟩ := nibbles [(3, sc.toNat), (2, size.toNat), (1, acq.toNat), (1, rel.toNat), (23, 262144), (6, c.toNat), (6, b.toNat), (6, a.toNat), (3, h.pred.toNat), (1, h.neg.toNat), (4, h.stall.toNat)] 0x66 6 6 (by simp only [fieldWidth]) rfl rfl
  rw [decodeRaw_hi6 _ _ e1, decHi6_6 _ _ _ e2]
  have u : unpackBits [3, 2, 1, 1, 23, 6, 6, 6, 3, 1, 4, 8] (packBits ([(3, sc.toNat), (2, size.toNat), (1, acq.toNat), (1, rel.toNat), (23, 262144), (6, c.toNat), (6, b.toNat), (6, a.toNat), (3, h.pred.toNat), (1, h.neg.toNat), (4, h.stall.toNat)] ++ [(8, 0x66)])) = [sc.toNat, size.toNat, acq.toNat, rel.toNat, 262144, c.toNat, b.toNat, a.toNat, h.pred.toNat, h.neg.toNat, h.stall.toNat, 102] :=
    unpackBits_pack [(3, sc.toNat), (2, size.toNat), (1, acq.toNat), (1, rel.toNat), (23, 262144), (6, c.toNat), (6, b.toNat), (6, a.toNat), (3, h.pred.toNat), (1, h.neg.toNat), (4, h.stall.toNat), (8, 0x66)] ⟨sc.isLt, size.isLt, acq.isLt, rel.isLt, by decide, c.isLt, b.isLt, a.isLt, h.pred.isLt, h.neg.isLt, h.stall.isLt, by decide, trivial⟩
  unfold decOp66
  rw [u]
  show (some (Instr.amoOr ⟨BitVec.ofNat 4 h.stall.toNat, BitVec.ofNat 1 h.neg.toNat, BitVec.ofNat 3 h.pred.toNat⟩ (BitVec.ofNat 6 a.toNat) (BitVec.ofNat 6 b.toNat) (BitVec.ofNat 6 c.toNat) (BitVec.ofNat 1 rel.toNat) (BitVec.ofNat 1 acq.toNat) (BitVec.ofNat 2 size.toNat) (BitVec.ofNat 3 sc.toNat))) = _
  simp only [BitVec.ofNat_toNat, BitVec.setWidth_eq]
theorem amoXor (h : Hdr) (a b c : BitVec 6) (rel acq : BitVec 1) (size : BitVec 2) (sc : BitVec 3) : Statement (.amoXor h a b c rel acq size sc) := by
  intro _ hw w1
  refine decode_of_raw (w1 := w1) (by show fieldWidth [(3, sc.toNat), (2, size.toNat), (1, acq.toNat), (1, rel.toNat), (23, 393216), (6, c.toNat), (6, b.toNat), (6, a.toNat), (3, h.pred.toNat), (1, h.neg.toNat), (4, h.stall.toNat), (8, 0x66)] = 64; simp only [fieldWidth]) ?_ hw
  rw [show Instr.fields (.amoXor h a b c rel acq size sc) = [(3, sc.toNat), (2, size.toNat), (1, acq.toNat), (1, rel.toNat), (23, 393216), (6, c.toNat), (6, b.toNat), (6, a.toNat), (3, h.pred.toNat), (1, h.neg.toNat), (4, h.stall.toNat)] ++ [(8, 0x66)] from rfl]
  obtain ⟨e1, e2⟩ := nibbles [(3, sc.toNat), (2, size.toNat), (1, acq.toNat), (1, rel.toNat), (23, 393216), (6, c.toNat), (6, b.toNat), (6, a.toNat), (3, h.pred.toNat), (1, h.neg.toNat), (4, h.stall.toNat)] 0x66 6 6 (by simp only [fieldWidth]) rfl rfl
  rw [decodeRaw_hi6 _ _ e1, decHi6_6 _ _ _ e2]
  have u : unpackBits [3, 2, 1, 1, 23, 6, 6, 6, 3, 1, 4, 8] (packBits ([(3, sc.toNat), (2, size.toNat), (1, acq.toNat), (1, rel.toNat), (23, 393216), (6, c.toNat), (6, b.toNat), (6, a.toNat), (3, h.pred.toNat), (1, h.neg.toNat), (4, h.stall.toNat)] ++ [(8, 0x66)])) = [sc.toNat, size.toNat, acq.toNat, rel.toNat, 393216, c.toNat, b.toNat, a.toNat, h.pred.toNat, h.neg.toNat, h.stall.toNat, 102] :=
    unpackBits_pack [(3, sc.toNat), (2, size.toNat), (1, acq.toNat), (1, rel.toNat), (23, 393216), (6, c.toNat), (6, b.toNat), (6, a.toNat), (3, h.pred.toNat), (1, h.neg.toNat), (4, h.stall.toNat), (8, 0x66)] ⟨sc.isLt, size.isLt, acq.isLt, rel.isLt, by decide, c.isLt, b.isLt, a.isLt, h.pred.isLt, h.neg.isLt, h.stall.isLt, by decide, trivial⟩
  unfold decOp66
  rw [u]
  show (some (Instr.amoXor ⟨BitVec.ofNat 4 h.stall.toNat, BitVec.ofNat 1 h.neg.toNat, BitVec.ofNat 3 h.pred.toNat⟩ (BitVec.ofNat 6 a.toNat) (BitVec.ofNat 6 b.toNat) (BitVec.ofNat 6 c.toNat) (BitVec.ofNat 1 rel.toNat) (BitVec.ofNat 1 acq.toNat) (BitVec.ofNat 2 size.toNat) (BitVec.ofNat 3 sc.toNat))) = _
  simp only [BitVec.ofNat_toNat, BitVec.setWidth_eq]
theorem amoSwap (h : Hdr) (a b c : BitVec 6) (rel acq : BitVec 1) (size : BitVec 2) (sc : BitVec 3) : Statement (.amoSwap h a b c rel acq size sc) := by
  intro _ hw w1
  refine decode_of_raw (w1 := w1) (by show fieldWidth [(3, sc.toNat), (2, size.toNat), (1, acq.toNat), (1, rel.toNat), (23, 524288), (6, c.toNat), (6, b.toNat), (6, a.toNat), (3, h.pred.toNat), (1, h.neg.toNat), (4, h.stall.toNat), (8, 0x66)] = 64; simp only [fieldWidth]) ?_ hw
  rw [show Instr.fields (.amoSwap h a b c rel acq size sc) = [(3, sc.toNat), (2, size.toNat), (1, acq.toNat), (1, rel.toNat), (23, 524288), (6, c.toNat), (6, b.toNat), (6, a.toNat), (3, h.pred.toNat), (1, h.neg.toNat), (4, h.stall.toNat)] ++ [(8, 0x66)] from rfl]
  obtain ⟨e1, e2⟩ := nibbles [(3, sc.toNat), (2, size.toNat), (1, acq.toNat), (1, rel.toNat), (23, 524288), (6, c.toNat), (6, b.toNat), (6, a.toNat), (3, h.pred.toNat), (1, h.neg.toNat), (4, h.stall.toNat)] 0x66 6 6 (by simp only [fieldWidth]) rfl rfl
  rw [decodeRaw_hi6 _ _ e1, decHi6_6 _ _ _ e2]
  have u : unpackBits [3, 2, 1, 1, 23, 6, 6, 6, 3, 1, 4, 8] (packBits ([(3, sc.toNat), (2, size.toNat), (1, acq.toNat), (1, rel.toNat), (23, 524288), (6, c.toNat), (6, b.toNat), (6, a.toNat), (3, h.pred.toNat), (1, h.neg.toNat), (4, h.stall.toNat)] ++ [(8, 0x66)])) = [sc.toNat, size.toNat, acq.toNat, rel.toNat, 524288, c.toNat, b.toNat, a.toNat, h.pred.toNat, h.neg.toNat, h.stall.toNat, 102] :=
    unpackBits_pack [(3, sc.toNat), (2, size.toNat), (1, acq.toNat), (1, rel.toNat), (23, 524288), (6, c.toNat), (6, b.toNat), (6, a.toNat), (3, h.pred.toNat), (1, h.neg.toNat), (4, h.stall.toNat), (8, 0x66)] ⟨sc.isLt, size.isLt, acq.isLt, rel.isLt, by decide, c.isLt, b.isLt, a.isLt, h.pred.isLt, h.neg.isLt, h.stall.isLt, by decide, trivial⟩
  unfold decOp66
  rw [u]
  show (some (Instr.amoSwap ⟨BitVec.ofNat 4 h.stall.toNat, BitVec.ofNat 1 h.neg.toNat, BitVec.ofNat 3 h.pred.toNat⟩ (BitVec.ofNat 6 a.toNat) (BitVec.ofNat 6 b.toNat) (BitVec.ofNat 6 c.toNat) (BitVec.ofNat 1 rel.toNat) (BitVec.ofNat 1 acq.toNat) (BitVec.ofNat 2 size.toNat) (BitVec.ofNat 3 sc.toNat))) = _
  simp only [BitVec.ofNat_toNat, BitVec.setWidth_eq]
theorem amoMin (h : Hdr) (a b c : BitVec 6) (rel acq : BitVec 1) (size : BitVec 2) (sc : BitVec 3) : Statement (.amoMin h a b c rel acq size sc) := by
  intro _ hw w1
  refine decode_of_raw (w1 := w1) (by show fieldWidth [(3, sc.toNat), (2, size.toNat), (1, acq.toNat), (1, rel.toNat), (23, 655360), (6, c.toNat), (6, b.toNat), (6, a.toNat), (3, h.pred.toNat), (1, h.neg.toNat), (4, h.stall.toNat), (8, 0x66)] = 64; simp only [fieldWidth]) ?_ hw
  rw [show Instr.fields (.amoMin h a b c rel acq size sc) = [(3, sc.toNat), (2, size.toNat), (1, acq.toNat), (1, rel.toNat), (23, 655360), (6, c.toNat), (6, b.toNat), (6, a.toNat), (3, h.pred.toNat), (1, h.neg.toNat), (4, h.stall.toNat)] ++ [(8, 0x66)] from rfl]
  obtain ⟨e1, e2⟩ := nibbles [(3, sc.toNat), (2, size.toNat), (1, acq.toNat), (1, rel.toNat), (23, 655360), (6, c.toNat), (6, b.toNat), (6, a.toNat), (3, h.pred.toNat), (1, h.neg.toNat), (4, h.stall.toNat)] 0x66 6 6 (by simp only [fieldWidth]) rfl rfl
  rw [decodeRaw_hi6 _ _ e1, decHi6_6 _ _ _ e2]
  have u : unpackBits [3, 2, 1, 1, 23, 6, 6, 6, 3, 1, 4, 8] (packBits ([(3, sc.toNat), (2, size.toNat), (1, acq.toNat), (1, rel.toNat), (23, 655360), (6, c.toNat), (6, b.toNat), (6, a.toNat), (3, h.pred.toNat), (1, h.neg.toNat), (4, h.stall.toNat)] ++ [(8, 0x66)])) = [sc.toNat, size.toNat, acq.toNat, rel.toNat, 655360, c.toNat, b.toNat, a.toNat, h.pred.toNat, h.neg.toNat, h.stall.toNat, 102] :=
    unpackBits_pack [(3, sc.toNat), (2, size.toNat), (1, acq.toNat), (1, rel.toNat), (23, 655360), (6, c.toNat), (6, b.toNat), (6, a.toNat), (3, h.pred.toNat), (1, h.neg.toNat), (4, h.stall.toNat), (8, 0x66)] ⟨sc.isLt, size.isLt, acq.isLt, rel.isLt, by decide, c.isLt, b.isLt, a.isLt, h.pred.isLt, h.neg.isLt, h.stall.isLt, by decide, trivial⟩
  unfold decOp66
  rw [u]
  show (some (Instr.amoMin ⟨BitVec.ofNat 4 h.stall.toNat, BitVec.ofNat 1 h.neg.toNat, BitVec.ofNat 3 h.pred.toNat⟩ (BitVec.ofNat 6 a.toNat) (BitVec.ofNat 6 b.toNat) (BitVec.ofNat 6 c.toNat) (BitVec.ofNat 1 rel.toNat) (BitVec.ofNat 1 acq.toNat) (BitVec.ofNat 2 size.toNat) (BitVec.ofNat 3 sc.toNat))) = _
  simp only [BitVec.ofNat_toNat, BitVec.setWidth_eq]
theorem amoMax (h : Hdr) (a b c : BitVec 6) (rel acq : BitVec 1) (size : BitVec 2) (sc : BitVec 3) : Statement (.amoMax h a b c rel acq size sc) := by
  intro _ hw w1
  refine decode_of_raw (w1 := w1) (by show fieldWidth [(3, sc.toNat), (2, size.toNat), (1, acq.toNat), (1, rel.toNat), (23, 786432), (6, c.toNat), (6, b.toNat), (6, a.toNat), (3, h.pred.toNat), (1, h.neg.toNat), (4, h.stall.toNat), (8, 0x66)] = 64; simp only [fieldWidth]) ?_ hw
  rw [show Instr.fields (.amoMax h a b c rel acq size sc) = [(3, sc.toNat), (2, size.toNat), (1, acq.toNat), (1, rel.toNat), (23, 786432), (6, c.toNat), (6, b.toNat), (6, a.toNat), (3, h.pred.toNat), (1, h.neg.toNat), (4, h.stall.toNat)] ++ [(8, 0x66)] from rfl]
  obtain ⟨e1, e2⟩ := nibbles [(3, sc.toNat), (2, size.toNat), (1, acq.toNat), (1, rel.toNat), (23, 786432), (6, c.toNat), (6, b.toNat), (6, a.toNat), (3, h.pred.toNat), (1, h.neg.toNat), (4, h.stall.toNat)] 0x66 6 6 (by simp only [fieldWidth]) rfl rfl
  rw [decodeRaw_hi6 _ _ e1, decHi6_6 _ _ _ e2]
  have u : unpackBits [3, 2, 1, 1, 23, 6, 6, 6, 3, 1, 4, 8] (packBits ([(3, sc.toNat), (2, size.toNat), (1, acq.toNat), (1, rel.toNat), (23, 786432), (6, c.toNat), (6, b.toNat), (6, a.toNat), (3, h.pred.toNat), (1, h.neg.toNat), (4, h.stall.toNat)] ++ [(8, 0x66)])) = [sc.toNat, size.toNat, acq.toNat, rel.toNat, 786432, c.toNat, b.toNat, a.toNat, h.pred.toNat, h.neg.toNat, h.stall.toNat, 102] :=
    unpackBits_pack [(3, sc.toNat), (2, size.toNat), (1, acq.toNat), (1, rel.toNat), (23, 786432), (6, c.toNat), (6, b.toNat), (6, a.toNat), (3, h.pred.toNat), (1, h.neg.toNat), (4, h.stall.toNat), (8, 0x66)] ⟨sc.isLt, size.isLt, acq.isLt, rel.isLt, by decide, c.isLt, b.isLt, a.isLt, h.pred.isLt, h.neg.isLt, h.stall.isLt, by decide, trivial⟩
  unfold decOp66
  rw [u]
  show (some (Instr.amoMax ⟨BitVec.ofNat 4 h.stall.toNat, BitVec.ofNat 1 h.neg.toNat, BitVec.ofNat 3 h.pred.toNat⟩ (BitVec.ofNat 6 a.toNat) (BitVec.ofNat 6 b.toNat) (BitVec.ofNat 6 c.toNat) (BitVec.ofNat 1 rel.toNat) (BitVec.ofNat 1 acq.toNat) (BitVec.ofNat 2 size.toNat) (BitVec.ofNat 3 sc.toNat))) = _
  simp only [BitVec.ofNat_toNat, BitVec.setWidth_eq]
theorem amoMinu (h : Hdr) (a b c : BitVec 6) (rel acq : BitVec 1) (size : BitVec 2) (sc : BitVec 3) : Statement (.amoMinu h a b c rel acq size sc) := by
  intro _ hw w1
  refine decode_of_raw (w1 := w1) (by show fieldWidth [(3, sc.toNat), (2, size.toNat), (1, acq.toNat), (1, rel.toNat), (23, 917504), (6, c.toNat), (6, b.toNat), (6, a.toNat), (3, h.pred.toNat), (1, h.neg.toNat), (4, h.stall.toNat), (8, 0x66)] = 64; simp only [fieldWidth]) ?_ hw
  rw [show Instr.fields (.amoMinu h a b c rel acq size sc) = [(3, sc.toNat), (2, size.toNat), (1, acq.toNat), (1, rel.toNat), (23, 917504), (6, c.toNat), (6, b.toNat), (6, a.toNat), (3, h.pred.toNat), (1, h.neg.toNat), (4, h.stall.toNat)] ++ [(8, 0x66)] from rfl]
  obtain ⟨e1, e2⟩ := nibbles [(3, sc.toNat), (2, size.toNat), (1, acq.toNat), (1, rel.toNat), (23, 917504), (6, c.toNat), (6, b.toNat), (6, a.toNat), (3, h.pred.toNat), (1, h.neg.toNat), (4, h.stall.toNat)] 0x66 6 6 (by simp only [fieldWidth]) rfl rfl
  rw [decodeRaw_hi6 _ _ e1, decHi6_6 _ _ _ e2]
  have u : unpackBits [3, 2, 1, 1, 23, 6, 6, 6, 3, 1, 4, 8] (packBits ([(3, sc.toNat), (2, size.toNat), (1, acq.toNat), (1, rel.toNat), (23, 917504), (6, c.toNat), (6, b.toNat), (6, a.toNat), (3, h.pred.toNat), (1, h.neg.toNat), (4, h.stall.toNat)] ++ [(8, 0x66)])) = [sc.toNat, size.toNat, acq.toNat, rel.toNat, 917504, c.toNat, b.toNat, a.toNat, h.pred.toNat, h.neg.toNat, h.stall.toNat, 102] :=
    unpackBits_pack [(3, sc.toNat), (2, size.toNat), (1, acq.toNat), (1, rel.toNat), (23, 917504), (6, c.toNat), (6, b.toNat), (6, a.toNat), (3, h.pred.toNat), (1, h.neg.toNat), (4, h.stall.toNat), (8, 0x66)] ⟨sc.isLt, size.isLt, acq.isLt, rel.isLt, by decide, c.isLt, b.isLt, a.isLt, h.pred.isLt, h.neg.isLt, h.stall.isLt, by decide, trivial⟩
  unfold decOp66
  rw [u]
  show (some (Instr.amoMinu ⟨BitVec.ofNat 4 h.stall.toNat, BitVec.ofNat 1 h.neg.toNat, BitVec.ofNat 3 h.pred.toNat⟩ (BitVec.ofNat 6 a.toNat) (BitVec.ofNat 6 b.toNat) (BitVec.ofNat 6 c.toNat) (BitVec.ofNat 1 rel.toNat) (BitVec.ofNat 1 acq.toNat) (BitVec.ofNat 2 size.toNat) (BitVec.ofNat 3 sc.toNat))) = _
  simp only [BitVec.ofNat_toNat, BitVec.setWidth_eq]
theorem amoMaxu (h : Hdr) (a b c : BitVec 6) (rel acq : BitVec 1) (size : BitVec 2) (sc : BitVec 3) : Statement (.amoMaxu h a b c rel acq size sc) := by
  intro _ hw w1
  refine decode_of_raw (w1 := w1) (by show fieldWidth [(3, sc.toNat), (2, size.toNat), (1, acq.toNat), (1, rel.toNat), (23, 1048576), (6, c.toNat), (6, b.toNat), (6, a.toNat), (3, h.pred.toNat), (1, h.neg.toNat), (4, h.stall.toNat), (8, 0x66)] = 64; simp only [fieldWidth]) ?_ hw
  rw [show Instr.fields (.amoMaxu h a b c rel acq size sc) = [(3, sc.toNat), (2, size.toNat), (1, acq.toNat), (1, rel.toNat), (23, 1048576), (6, c.toNat), (6, b.toNat), (6, a.toNat), (3, h.pred.toNat), (1, h.neg.toNat), (4, h.stall.toNat)] ++ [(8, 0x66)] from rfl]
  obtain ⟨e1, e2⟩ := nibbles [(3, sc.toNat), (2, size.toNat), (1, acq.toNat), (1, rel.toNat), (23, 1048576), (6, c.toNat), (6, b.toNat), (6, a.toNat), (3, h.pred.toNat), (1, h.neg.toNat), (4, h.stall.toNat)] 0x66 6 6 (by simp only [fieldWidth]) rfl rfl
  rw [decodeRaw_hi6 _ _ e1, decHi6_6 _ _ _ e2]
  have u : unpackBits [3, 2, 1, 1, 23, 6, 6, 6, 3, 1, 4, 8] (packBits ([(3, sc.toNat), (2, size.toNat), (1, acq.toNat), (1, rel.toNat), (23, 1048576), (6, c.toNat), (6, b.toNat), (6, a.toNat), (3, h.pred.toNat), (1, h.neg.toNat), (4, h.stall.toNat)] ++ [(8, 0x66)])) = [sc.toNat, size.toNat, acq.toNat, rel.toNat, 1048576, c.toNat, b.toNat, a.toNat, h.pred.toNat, h.neg.toNat, h.stall.toNat, 102] :=
    unpackBits_pack [(3, sc.toNat), (2, size.toNat), (1, acq.toNat), (1, rel.toNat), (23, 1048576), (6, c.toNat), (6, b.toNat), (6, a.toNat), (3, h.pred.toNat), (1, h.neg.toNat), (4, h.stall.toNat), (8, 0x66)] ⟨sc.isLt, size.isLt, acq.isLt, rel.isLt, by decide, c.isLt, b.isLt, a.isLt, h.pred.isLt, h.neg.isLt, h.stall.isLt, by decide, trivial⟩
  unfold decOp66
  rw [u]
  show (some (Instr.amoMaxu ⟨BitVec.ofNat 4 h.stall.toNat, BitVec.ofNat 1 h.neg.toNat, BitVec.ofNat 3 h.pred.toNat⟩ (BitVec.ofNat 6 a.toNat) (BitVec.ofNat 6 b.toNat) (BitVec.ofNat 6 c.toNat) (BitVec.ofNat 1 rel.toNat) (BitVec.ofNat 1 acq.toNat) (BitVec.ofNat 2 size.toNat) (BitVec.ofNat 3 sc.toNat))) = _
  simp only [BitVec.ofNat_toNat, BitVec.setWidth_eq]
theorem amoMaxrst (h : Hdr) (a b : BitVec 6) (rel acq : BitVec 1) (size : BitVec 2) (sc : BitVec 3) : Statement (.amoMaxrst h a b rel acq size sc) := by
  intro _ hw w1
  refine decode_of_raw (w1 := w1) (by show fieldWidth [(3, sc.toNat), (2, size.toNat), (1, acq.toNat), (1, rel.toNat), (23, 1179648), (6, 0), (6, b.toNat), (6, a.toNat), (3, h.pred.toNat), (1, h.neg.toNat), (4, h.stall.toNat), (8, 0x66)] = 64; simp only [fieldWidth]) ?_ hw
  rw [show Instr.fields (.amoMaxrst h a b rel acq size sc) = [(3, sc.toNat), (2, size.toNat), (1, acq.toNat), (1, rel.toNat), (23, 1179648), (6, 0), (6, b.toNat), (6, a.toNat), (3, h.pred.toNat), (1, h.neg.toNat), (4, h.stall.toNat)] ++ [(8, 0x66)] from rfl]
  obtain ⟨e1, e2⟩ := nibbles [(3, sc.toNat), (2, size.toNat), (1, acq.toNat), (1, rel.toNat), (23, 1179648), (6, 0), (6, b.toNat), (6, a.toNat), (3, h.pred.toNat), (1, h.neg.toNat), (4, h.stall.toNat)] 0x66 6 6 (by simp only [fieldWidth]) rfl rfl
  rw [decodeRaw_hi6 _ _ e1, decHi6_6 _ _ _ e2]
  have u : unpackBits [3, 2, 1, 1, 23, 6, 6, 6, 3, 1, 4, 8] (packBits ([(3, sc.toNat), (2, size.toNat), (1, acq.toNat), (1, rel.toNat), (23, 1179648), (6, 0), (6, b.toNat), (6, a.toNat), (3, h.pred.toNat), (1, h.neg.toNat), (4, h.stall.toNat)] ++ [(8, 0x66)])) = [sc.toNat, size.toNat, acq.toNat, rel.toNat, 1179648, 0, b.toNat, a.toNat, h.pred.toNat, h.neg.toNat, h.stall.toNat, 102] :=
    unpackBits_pack [(3, sc.toNat), (2, size.toNat), (1, acq.toNat), (1, rel.toNat), (23, 1179648), (6, 0), (6, b.toNat), (6, a.toNat), (3, h.pred.toNat), (1, h.neg.toNat), (4, h.stall.toNat), (8, 0x66)] ⟨sc.isLt, size.isLt, acq.isLt, rel.isLt, by decide, by decide, b.isLt, a.isLt, h.pred.isLt, h.neg.isLt, h.stall.isLt, by decide, trivial⟩
  unfold decOp66
  rw [u]
  show (some (Instr.amoMaxrst ⟨BitVec.ofNat 4 h.stall.toNat, BitVec.ofNat 1 h.neg.toNat, BitVec.ofNat 3 h.pred.toNat⟩ (BitVec.ofNat 6 a.toNat) (BitVec.ofNat 6 b.toNat) (BitVec.ofNat 1 rel.toNat) (BitVec.ofNat 1 acq.toNat) (BitVec.ofNat 2 size.toNat) (BitVec.ofNat 3 sc.toNat))) = _
  simp only [BitVec.ofNat_toNat, BitVec.setWidth_eq]
theorem cas (h : Hdr) (a b c n : BitVec 6) (rel acq : BitVec 1) (size : BitVec 2) (sc : BitVec 3) : Statement (.cas h a b c n rel acq size sc) := by
  intro _ hw w1
  refine decode_of_raw (w1 := w1) (by show fieldWidth [(3, sc.toNat), (2, size.toNat), (1, acq.toNat), (1, rel.toNat), (17, 0), (6, n.toNat), (6, c.toNat), (6, b.toNat), (6, a.toNat), (3, h.pred.toNat), (1, h.neg.toNat), (4, h.stall.toNat), (8, 0x67)] = 64; simp only [fieldWidth]) ?_ hw
  rw [show Instr.fields (.cas h a b c n rel acq size sc) = [(3, sc.toNat), (2, size.toNat), (1, acq.toNat), (1, rel.toNat), (17, 0), (6, n.toNat), (6, c.toNat), (6, b.toNat), (6, a.toNat), (3, h.pred.toNat), (1, h.neg.toNat), (4, h.stall.toNat)] ++ [(8, 0x67)] from rfl]
  obtain ⟨e1, e2⟩ := nibbles [(3, sc.toNat), (2, size.toNat), (1, acq.toNat), (1, rel.toNat), (17, 0), (6, n.toNat), (6, c.toNat), (6, b.toNat), (6, a.toNat), (3, h.pred.toNat), (1, h.neg.toNat), (4, h.stall.toNat)] 0x67 6 7 (by simp only [fieldWidth]) rfl rfl
  rw [decodeRaw_hi6 _ _ e1, decHi6_7 _ _ _ e2]
  have u : unpackBits [3, 2, 1, 1, 17, 6, 6, 6, 6, 3, 1, 4, 8] (packBits ([(3, sc.toNat), (2, size.toNat), (1, acq.toNat), (1, rel.toNat), (17, 0), (6, n.toNat), (6, c.toNat), (6, b.toNat), (6, a.toNat), (3, h.pred.toNat), (1, h.neg.toNat), (4, h.stall.toNat)] ++ [(8, 0x67)])) = [sc.toNat, size.toNat, acq.toNat, rel.toNat, 0, n.toNat, c.toNat, b.toNat, a.toNat, h.pred.toNat, h.neg.toNat, h.stall.toNat, 103] :=
    unpackBits_pack [(3, sc.toNat), (2, size.toNat), (1, acq.toNat), (1, rel.toNat), (17, 0), (6, n.toNat), (6, c.toNat), (6, b.toNat), (6, a.toNat), (3, h.pred.toNat), (1, h.neg.toNat), (4, h.stall.toNat), (8, 0x67)] ⟨sc.isLt, size.isLt, acq.isLt, rel.isLt, by decide, n.isLt, c.isLt, b.isLt, a.isLt, h.pred.isLt, h.neg.isLt, h.stall.isLt, by decide, trivial⟩
  unfold decOp67
  rw [u]
  show (some (Instr.cas ⟨BitVec.ofNat 4 h.stall.toNat, BitVec.ofNat 1 h.neg.toNat, BitVec.ofNat 3 h.pred.toNat⟩ (BitVec.ofNat 6 a.toNat) (BitVec.ofNat 6 b.toNat) (BitVec.ofNat 6 c.toNat) (BitVec.ofNat 6 n.toNat) (BitVec.ofNat 1 rel.toNat) (BitVec.ofNat 1 acq.toNat) (BitVec.ofNat 2 size.toNat) (BitVec.ofNat 3 sc.toNat))) = _
  simp only [BitVec.ofNat_toNat, BitVec.setWidth_eq]
theorem amolAdd (h : Hdr) (a b c : BitVec 6) (rel acq : BitVec 1) (size : BitVec 2) (sc : BitVec 3) : Statement (.amolAdd h a b c rel acq size sc) := by
  intro _ hw w1
  refine decode_of_raw (w1 := w1) (by show fieldWidth [(3, sc.toNat), (2, size.toNat), (1, acq.toNat), (1, rel.toNat), (23, 0), (6, c.toNat), (6, b.toNat), (6, a.toNat), (3, h.pred.toNat), (1, h.neg.toNat), (4, h.stall.toNat), (8, 0x68)] = 64; simp only [fieldWidth]) ?_ hw
  rw [show Instr.fields (.amolAdd h a b c rel acq size sc) = [(3, sc.toNat), (2, size.toNat), (1, acq.toNat), (1, rel.toNat), (23, 0), (6, c.toNat), (6, b.toNat), (6, a.toNat), (3, h.pred.toNat), (1, h.neg.toNat), (4, h.stall.toNat)] ++ [(8, 0x68)] from rfl]
  obtain ⟨e1, e2⟩ := nibbles [(3, sc.toNat), (2, size.toNat), (1, acq.toNat), (1, rel.toNat), (23, 0), (6, c.toNat), (6, b.toNat), (6, a.toNat), (3, h.pred.toNat), (1, h.neg.toNat), (4, h.stall.toNat)] 0x68 6 8 (by simp only [fieldWidth]) rfl rfl
  rw [decodeRaw_hi6 _ _ e1, decHi6_8 _ _ _ e2]
  have u : unpackBits [3, 2, 1, 1, 23, 6, 6, 6, 3, 1, 4, 8] (packBits ([(3, sc.toNat), (2, size.toNat), (1, acq.toNat), (1, rel.toNat), (23, 0), (6, c.toNat), (6, b.toNat), (6, a.toNat), (3, h.pred.toNat), (1, h.neg.toNat), (4, h.stall.toNat)] ++ [(8, 0x68)])) = [sc.toNat, size.toNat, acq.toNat, rel.toNat, 0, c.toNat, b.toNat, a.toNat, h.pred.toNat, h.neg.toNat, h.stall.toNat, 104] :=
    unpackBits_pack [(3, sc.toNat), (2, size.toNat), (1, acq.toNat), (1, rel.toNat), (23, 0), (6, c.toNat), (6, b.toNat), (6, a.toNat), (3, h.pred.toNat), (1, h.neg.toNat), (4, h.stall.toNat), (8, 0x68)] ⟨sc.isLt, size.isLt, acq.isLt, rel.isLt, by decide, c.isLt, b.isLt, a.isLt, h.pred.isLt, h.neg.isLt, h.stall.isLt, by decide, trivial⟩
  unfold decOp68
  rw [u]
  show (some (Instr.amolAdd ⟨BitVec.ofNat 4 h.stall.toNat, BitVec.ofNat 1 h.neg.toNat, BitVec.ofNat 3 h.pred.toNat⟩ (BitVec.ofNat 6 a.toNat) (BitVec.ofNat 6 b.toNat) (BitVec.ofNat 6 c.toNat) (BitVec.ofNat 1 rel.toNat) (BitVec.ofNat 1 acq.toNat) (BitVec.ofNat 2 size.toNat) (BitVec.ofNat 3 sc.toNat))) = _
  simp only [BitVec.ofNat_toNat, BitVec.setWidth_eq]
theorem amolAnd (h : Hdr) (a b c : BitVec 6) (rel acq : BitVec 1) (size : BitVec 2) (sc : BitVec 3) : Statement (.amolAnd h a b c rel acq size sc) := by
  intro _ hw w1
  refine decode_of_raw (w1 := w1) (by show fieldWidth [(3, sc.toNat), (2, size.toNat), (1, acq.toNat), (1, rel.toNat), (23, 131072), (6, c.toNat), (6, b.toNat), (6, a.toNat), (3, h.pred.toNat), (1, h.neg.toNat), (4, h.stall.toNat), (8, 0x68)] = 64; simp only [fieldWidth]) ?_ hw
  rw [show Instr.fields (.amolAnd h a b c rel acq size sc) = [(3, sc.toNat), (2, size.toNat), (1, acq.toNat), (1, rel.toNat), (23, 131072), (6, c.toNat), (6, b.toNat), (6, a.toNat), (3, h.pred.toNat), (1, h.neg.toNat), (4, h.stall.toNat)] ++ [(8, 0x68)] from rfl]
  obtain ⟨e1, e2⟩ := nibbles [(3, sc.toNat), (2, size.toNat), (1, acq.toNat), (1, rel.toNat), (23, 131072), (6, c.toNat), (6, b.toNat), (6, a.toNat), (3, h.pred.toNat), (1, h.neg.toNat), (4, h.stall.toNat)] 0x68 6 8 (by simp only [fieldWidth]) rfl rfl
  rw [decodeRaw_hi6 _ _ e1, decHi6_8 _ _ _ e2]
  have u : unpackBits [3, 2, 1, 1, 23, 6, 6, 6, 3, 1, 4, 8] (packBits ([(3, sc.toNat), (2, size.toNat), (1, acq.toNat), (1, rel.toNat), (23, 131072), (6, c.toNat), (6, b.toNat), (6, a.toNat), (3, h.pred.toNat), (1, h.neg.toNat), (4, h.stall.toNat)] ++ [(8, 0x68)])) = [sc.toNat, size.toNat, acq.toNat, rel.toNat, 131072, c.toNat, b.toNat, a.toNat, h.pred.toNat, h.neg.toNat, h.stall.toNat, 104] :=
    unpackBits_pack [(3, sc.toNat), (2, size.toNat), (1, acq.toNat), (1, rel.toNat), (23, 131072), (6, c.toNat), (6, b.toNat), (6, a.toNat), (3, h.pred.toNat), (1, h.neg.toNat), (4, h.stall.toNat), (8, 0x68)] ⟨sc.isLt, size.isLt, acq.isLt, rel.isLt, by decide, c.isLt, b.isLt, a.isLt, h.pred.isLt, h.neg.isLt, h.stall.isLt, by decide, trivial⟩
  unfold decOp68
  rw [u]
  show (some (Instr.amolAnd ⟨BitVec.ofNat 4 h.stall.toNat, BitVec.ofNat 1 h.neg.toNat, BitVec.ofNat 3 h.pred.toNat⟩ (BitVec.ofNat 6 a.toNat) (BitVec.ofNat 6 b.toNat) (BitVec.ofNat 6 c.toNat) (BitVec.ofNat 1 rel.toNat) (BitVec.ofNat 1 acq.toNat) (BitVec.ofNat 2 size.toNat) (BitVec.ofNat 3 sc.toNat))) = _
  simp only [BitVec.ofNat_toNat, BitVec.setWidth_eq]
theorem amolOr (h : Hdr) (a b c : BitVec 6) (rel acq : BitVec 1) (size : BitVec 2) (sc : BitVec 3) : Statement (.amolOr h a b c rel acq size sc) := by
  intro _ hw w1
  refine decode_of_raw (w1 := w1) (by show fieldWidth [(3, sc.toNat), (2, size.toNat), (1, acq.toNat), (1, rel.toNat), (23, 262144), (6, c.toNat), (6, b.toNat), (6, a.toNat), (3, h.pred.toNat), (1, h.neg.toNat), (4, h.stall.toNat), (8, 0x68)] = 64; simp only [fieldWidth]) ?_ hw
  rw [show Instr.fields (.amolOr h a b c rel acq size sc) = [(3, sc.toNat), (2, size.toNat), (1, acq.toNat), (1, rel.toNat), (23, 262144), (6, c.toNat), (6, b.toNat), (6, a.toNat), (3, h.pred.toNat), (1, h.neg.toNat), (4, h.stall.toNat)] ++ [(8, 0x68)] from rfl]
  obtain ⟨e1, e2⟩ := nibbles [(3, sc.toNat), (2, size.toNat), (1, acq.toNat), (1, rel.toNat), (23, 262144), (6, c.toNat), (6, b.toNat), (6, a.toNat), (3, h.pred.toNat), (1, h.neg.toNat), (4, h.stall.toNat)] 0x68 6 8 (by simp only [fieldWidth]) rfl rfl
  rw [decodeRaw_hi6 _ _ e1, decHi6_8 _ _ _ e2]
  have u : unpackBits [3, 2, 1, 1, 23, 6, 6, 6, 3, 1, 4, 8] (packBits ([(3, sc.toNat), (2, size.toNat), (1, acq.toNat), (1, rel.toNat), (23, 262144), (6, c.toNat), (6, b.toNat), (6, a.toNat), (3, h.pred.toNat), (1, h.neg.toNat), (4, h.stall.toNat)] ++ [(8, 0x68)])) = [sc.toNat, size.toNat, acq.toNat, rel.toNat, 262144, c.toNat, b.toNat, a.toNat, h.pred.toNat, h.neg.toNat, h.stall.toNat, 104] :=
    unpackBits_pack [(3, sc.toNat), (2, size.toNat), (1, acq.toNat), (1, rel.toNat), (23, 262144), (6, c.toNat), (6, b.toNat), (6, a.toNat), (3, h.pred.toNat), (1, h.neg.toNat), (4, h.stall.toNat), (8, 0x68)] ⟨sc.isLt, size.isLt, acq.isLt, rel.isLt, by decide, c.isLt, b.isLt, a.isLt, h.pred.isLt, h.neg.isLt, h.stall.isLt, by decide, trivial⟩
  unfold decOp68
  rw [u]
  show (some (Instr.amolOr ⟨BitVec.ofNat 4 h.stall.toNat, BitVec.ofNat 1 h.neg.toNat, BitVec.ofNat 3 h.pred.toNat⟩ (BitVec.ofNat 6 a.toNat) (BitVec.ofNat 6 b.toNat) (BitVec.ofNat 6 c.toNat) (BitVec.ofNat 1 rel.toNat) (BitVec.ofNat 1 acq.toNat) (BitVec.ofNat 2 size.toNat) (BitVec.ofNat 3 sc.toNat))) = _
  simp only [BitVec.ofNat_toNat, BitVec.setWidth_eq]
theorem amolXor (h : Hdr) (a b c : BitVec 6) (rel acq : BitVec 1) (size : BitVec 2) (sc : BitVec 3) : Statement (.amolXor h a b c rel acq size sc) := by
  intro _ hw w1
  refine decode_of_raw (w1 := w1) (by show fieldWidth [(3, sc.toNat), (2, size.toNat), (1, acq.toNat), (1, rel.toNat), (23, 393216), (6, c.toNat), (6, b.toNat), (6, a.toNat), (3, h.pred.toNat), (1, h.neg.toNat), (4, h.stall.toNat), (8, 0x68)] = 64; simp only [fieldWidth]) ?_ hw
  rw [show Instr.fields (.amolXor h a b c rel acq size sc) = [(3, sc.toNat), (2, size.toNat), (1, acq.toNat), (1, rel.toNat), (23, 393216), (6, c.toNat), (6, b.toNat), (6, a.toNat), (3, h.pred.toNat), (1, h.neg.toNat), (4, h.stall.toNat)] ++ [(8, 0x68)] from rfl]
  obtain ⟨e1, e2⟩ := nibbles [(3, sc.toNat), (2, size.toNat), (1, acq.toNat), (1, rel.toNat), (23, 393216), (6, c.toNat), (6, b.toNat), (6, a.toNat), (3, h.pred.toNat), (1, h.neg.toNat), (4, h.stall.toNat)] 0x68 6 8 (by simp only [fieldWidth]) rfl rfl
  rw [decodeRaw_hi6 _ _ e1, decHi6_8 _ _ _ e2]
  have u : unpackBits [3, 2, 1, 1, 23, 6, 6, 6, 3, 1, 4, 8] (packBits ([(3, sc.toNat), (2, size.toNat), (1, acq.toNat), (1, rel.toNat), (23, 393216), (6, c.toNat), (6, b.toNat), (6, a.toNat), (3, h.pred.toNat), (1, h.neg.toNat), (4, h.stall.toNat)] ++ [(8, 0x68)])) = [sc.toNat, size.toNat, acq.toNat, rel.toNat, 393216, c.toNat, b.toNat, a.toNat, h.pred.toNat, h.neg.toNat, h.stall.toNat, 104] :=
    unpackBits_pack [(3, sc.toNat), (2, size.toNat), (1, acq.toNat), (1, rel.toNat), (23, 393216), (6, c.toNat), (6, b.toNat), (6, a.toNat), (3, h.pred.toNat), (1, h.neg.toNat), (4, h.stall.toNat), (8, 0x68)] ⟨sc.isLt, size.isLt, acq.isLt, rel.isLt, by decide, c.isLt, b.isLt, a.isLt, h.pred.isLt, h.neg.isLt, h.stall.isLt, by decide, trivial⟩
  unfold decOp68
  rw [u]
  show (some (Instr.amolXor ⟨BitVec.ofNat 4 h.stall.toNat, BitVec.ofNat 1 h.neg.toNat, BitVec.ofNat 3 h.pred.toNat⟩ (BitVec.ofNat 6 a.toNat) (BitVec.ofNat 6 b.toNat) (BitVec.ofNat 6 c.toNat) (BitVec.ofNat 1 rel.toNat) (BitVec.ofNat 1 acq.toNat) (BitVec.ofNat 2 size.toNat) (BitVec.ofNat 3 sc.toNat))) = _
  simp only [BitVec.ofNat_toNat, BitVec.setWidth_eq]
theorem amolSwap (h : Hdr) (a b c : BitVec 6) (rel acq : BitVec 1) (size : BitVec 2) (sc : BitVec 3) : Statement (.amolSwap h a b c rel acq size sc) := by
  intro _ hw w1
  refine decode_of_raw (w1 := w1) (by show fieldWidth [(3, sc.toNat), (2, size.toNat), (1, acq.toNat), (1, rel.toNat), (23, 524288), (6, c.toNat), (6, b.toNat), (6, a.toNat), (3, h.pred.toNat), (1, h.neg.toNat), (4, h.stall.toNat), (8, 0x68)] = 64; simp only [fieldWidth]) ?_ hw
  rw [show Instr.fields (.amolSwap h a b c rel acq size sc) = [(3, sc.toNat), (2, size.toNat), (1, acq.toNat), (1, rel.toNat), (23, 524288), (6, c.toNat), (6, b.toNat), (6, a.toNat), (3, h.pred.toNat), (1, h.neg.toNat), (4, h.stall.toNat)] ++ [(8, 0x68)] from rfl]
  obtain ⟨e1, e2⟩ := nibbles [(3, sc.toNat), (2, size.toNat), (1, acq.toNat), (1, rel.toNat), (23, 524288), (6, c.toNat), (6, b.toNat), (6, a.toNat), (3, h.pred.toNat), (1, h.neg.toNat), (4, h.stall.toNat)] 0x68 6 8 (by simp only [fieldWidth]) rfl rfl
  rw [decodeRaw_hi6 _ _ e1, decHi6_8 _ _ _ e2]
  have u : unpackBits [3, 2, 1, 1, 23, 6, 6, 6, 3, 1, 4, 8] (packBits ([(3, sc.toNat), (2, size.toNat), (1, acq.toNat), (1, rel.toNat), (23, 524288), (6, c.toNat), (6, b.toNat), (6, a.toNat), (3, h.pred.toNat), (1, h.neg.toNat), (4, h.stall.toNat)] ++ [(8, 0x68)])) = [sc.toNat, size.toNat, acq.toNat, rel.toNat, 524288, c.toNat, b.toNat, a.toNat, h.pred.toNat, h.neg.toNat, h.stall.toNat, 104] :=
    unpackBits_pack [(3, sc.toNat), (2, size.toNat), (1, acq.toNat), (1, rel.toNat), (23, 524288), (6, c.toNat), (6, b.toNat), (6, a.toNat), (3, h.pred.toNat), (1, h.neg.toNat), (4, h.stall.toNat), (8, 0x68)] ⟨sc.isLt, size.isLt, acq.isLt, rel.isLt, by decide, c.isLt, b.isLt, a.isLt, h.pred.isLt, h.neg.isLt, h.stall.isLt, by decide, trivial⟩
  unfold decOp68
  rw [u]
  show (some (Instr.amolSwap ⟨BitVec.ofNat 4 h.stall.toNat, BitVec.ofNat 1 h.neg.toNat, BitVec.ofNat 3 h.pred.toNat⟩ (BitVec.ofNat 6 a.toNat) (BitVec.ofNat 6 b.toNat) (BitVec.ofNat 6 c.toNat) (BitVec.ofNat 1 rel.toNat) (BitVec.ofNat 1 acq.toNat) (BitVec.ofNat 2 size.toNat) (BitVec.ofNat 3 sc.toNat))) = _
  simp only [BitVec.ofNat_toNat, BitVec.setWidth_eq]
theorem amolMin (h : Hdr) (a b c : BitVec 6) (rel acq : BitVec 1) (size : BitVec 2) (sc : BitVec 3) : Statement (.amolMin h a b c rel acq size sc) := by
  intro _ hw w1
  refine decode_of_raw (w1 := w1) (by show fieldWidth [(3, sc.toNat), (2, size.toNat), (1, acq.toNat), (1, rel.toNat), (23, 655360), (6, c.toNat), (6, b.toNat), (6, a.toNat), (3, h.pred.toNat), (1, h.neg.toNat), (4, h.stall.toNat), (8, 0x68)] = 64; simp only [fieldWidth]) ?_ hw
  rw [show Instr.fields (.amolMin h a b c rel acq size sc) = [(3, sc.toNat), (2, size.toNat), (1, acq.toNat), (1, rel.toNat), (23, 655360), (6, c.toNat), (6, b.toNat), (6, a.toNat), (3, h.pred.toNat), (1, h.neg.toNat), (4, h.stall.toNat)] ++ [(8, 0x68)] from rfl]
  obtain ⟨e1, e2⟩ := nibbles [(3, sc.toNat), (2, size.toNat), (1, acq.toNat), (1, rel.toNat), (23, 655360), (6, c.toNat), (6, b.toNat), (6, a.toNat), (3, h.pred.toNat), (1, h.neg.toNat), (4, h.stall.toNat)] 0x68 6 8 (by simp only [fieldWidth]) rfl rfl
  rw [decodeRaw_hi6 _ _ e1, decHi6_8 _ _ _ e2]
  have u : unpackBits [3, 2, 1, 1, 23, 6, 6, 6, 3, 1, 4, 8] (packBits ([(3, sc.toNat), (2, size.toNat), (1, acq.toNat), (1, rel.toNat), (23, 655360), (6, c.toNat), (6, b.toNat), (6, a.toNat), (3, h.pred.toNat), (1, h.neg.toNat), (4, h.stall.toNat)] ++ [(8, 0x68)])) = [sc.toNat, size.toNat, acq.toNat, rel.toNat, 655360, c.toNat, b.toNat, a.toNat, h.pred.toNat, h.neg.toNat, h.stall.toNat, 104] :=
    unpackBits_pack [(3, sc.toNat), (2, size.toNat), (1, acq.toNat), (1, rel.toNat), (23, 655360), (6, c.toNat), (6, b.toNat), (6, a.toNat), (3, h.pred.toNat), (1, h.neg.toNat), (4, h.stall.toNat), (8, 0x68)] ⟨sc.isLt, size.isLt, acq.isLt, rel.isLt, by decide, c.isLt, b.isLt, a.isLt, h.pred.isLt, h.neg.isLt, h.stall.isLt, by decide, trivial⟩
  unfold decOp68
  rw [u]
  show (some (Instr.amolMin ⟨BitVec.ofNat 4 h.stall.toNat, BitVec.ofNat 1 h.neg.toNat, BitVec.ofNat 3 h.pred.toNat⟩ (BitVec.ofNat 6 a.toNat) (BitVec.ofNat 6 b.toNat) (BitVec.ofNat 6 c.toNat) (BitVec.ofNat 1 rel.toNat) (BitVec.ofNat 1 acq.toNat) (BitVec.ofNat 2 size.toNat) (BitVec.ofNat 3 sc.toNat))) = _
  simp only [BitVec.ofNat_toNat, BitVec.setWidth_eq]
theorem amolMax (h : Hdr) (a b c : BitVec 6) (rel acq : BitVec 1) (size : BitVec 2) (sc : BitVec 3) : Statement (.amolMax h a b c rel acq size sc) := by
  intro _ hw w1
  refine decode_of_raw (w1 := w1) (by show fieldWidth [(3, sc.toNat), (2, size.toNat), (1, acq.toNat), (1, rel.toNat), (23, 786432), (6, c.toNat), (6, b.toNat), (6, a.toNat), (3, h.pred.toNat), (1, h.neg.toNat), (4, h.stall.toNat), (8, 0x68)] = 64; simp only [fieldWidth]) ?_ hw
  rw [show Instr.fields (.amolMax h a b c rel acq size sc) = [(3, sc.toNat), (2, size.toNat), (1, acq.toNat), (1, rel.toNat), (23, 786432), (6, c.toNat), (6, b.toNat), (6, a.toNat), (3, h.pred.toNat), (1, h.neg.toNat), (4, h.stall.toNat)] ++ [(8, 0x68)] from rfl]
  obtain ⟨e1, e2⟩ := nibbles [(3, sc.toNat), (2, size.toNat), (1, acq.toNat), (1, rel.toNat), (23, 786432), (6, c.toNat), (6, b.toNat), (6, a.toNat), (3, h.pred.toNat), (1, h.neg.toNat), (4, h.stall.toNat)] 0x68 6 8 (by simp only [fieldWidth]) rfl rfl
  rw [decodeRaw_hi6 _ _ e1, decHi6_8 _ _ _ e2]
  have u : unpackBits [3, 2, 1, 1, 23, 6, 6, 6, 3, 1, 4, 8] (packBits ([(3, sc.toNat), (2, size.toNat), (1, acq.toNat), (1, rel.toNat), (23, 786432), (6, c.toNat), (6, b.toNat), (6, a.toNat), (3, h.pred.toNat), (1, h.neg.toNat), (4, h.stall.toNat)] ++ [(8, 0x68)])) = [sc.toNat, size.toNat, acq.toNat, rel.toNat, 786432, c.toNat, b.toNat, a.toNat, h.pred.toNat, h.neg.toNat, h.stall.toNat, 104] :=
    unpackBits_pack [(3, sc.toNat), (2, size.toNat), (1, acq.toNat), (1, rel.toNat), (23, 786432), (6, c.toNat), (6, b.toNat), (6, a.toNat), (3, h.pred.toNat), (1, h.neg.toNat), (4, h.stall.toNat), (8, 0x68)] ⟨sc.isLt, size.isLt, acq.isLt, rel.isLt, by decide, c.isLt, b.isLt, a.isLt, h.pred.isLt, h.neg.isLt, h.stall.isLt, by decide, trivial⟩
  unfold decOp68
  rw [u]
  show (some (Instr.amolMax ⟨BitVec.ofNat 4 h.stall.toNat, BitVec.ofNat 1 h.neg.toNat, BitVec.ofNat 3 h.pred.toNat⟩ (BitVec.ofNat 6 a.toNat) (BitVec.ofNat 6 b.toNat) (BitVec.ofNat 6 c.toNat) (BitVec.ofNat 1 rel.toNat) (BitVec.ofNat 1 acq.toNat) (BitVec.ofNat 2 size.toNat) (BitVec.ofNat 3 sc.toNat))) = _
  simp only [BitVec.ofNat_toNat, BitVec.setWidth_eq]
theorem amolMinu (h : Hdr) (a b c : BitVec 6) (rel acq : BitVec 1) (size : BitVec 2) (sc : BitVec 3) : Statement (.amolMinu h a b c rel acq size sc) := by
  intro _ hw w1
  refine decode_of_raw (w1 := w1) (by show fieldWidth [(3, sc.toNat), (2, size.toNat), (1, acq.toNat), (1, rel.toNat), (23, 917504), (6, c.toNat), (6, b.toNat), (6, a.toNat), (3, h.pred.toNat), (1, h.neg.toNat), (4, h.stall.toNat), (8, 0x68)] = 64; simp only [fieldWidth]) ?_ hw
  rw [show Instr.fields (.amolMinu h a b c rel acq size sc) = [(3, sc.toNat), (2, size.toNat), (1, acq.toNat), (1, rel.toNat), (23, 917504), (6, c.toNat), (6, b.toNat), (6, a.toNat), (3, h.pred.toNat), (1, h.neg.toNat), (4, h.stall.toNat)] ++ [(8, 0x68)] from rfl]
  obtain ⟨e1, e2⟩ := nibbles [(3, sc.toNat), (2, size.toNat), (1, acq.toNat), (1, rel.toNat), (23, 917504), (6, c.toNat), (6, b.toNat), (6, a.toNat), (3, h.pred.toNat), (1, h.neg.toNat), (4, h.stall.toNat)] 0x68 6 8 (by simp only [fieldWidth]) rfl rfl
  rw [decodeRaw_hi6 _ _ e1, decHi6_8 _ _ _ e2]
  have u : unpackBits [3, 2, 1, 1, 23, 6, 6, 6, 3, 1, 4, 8] (packBits ([(3, sc.toNat), (2, size.toNat), (1, acq.toNat), (1, rel.toNat), (23, 917504), (6, c.toNat), (6, b.toNat), (6, a.toNat), (3, h.pred.toNat), (1, h.neg.toNat), (4, h.stall.toNat)] ++ [(8, 0x68)])) = [sc.toNat, size.toNat, acq.toNat, rel.toNat, 917504, c.toNat, b.toNat, a.toNat, h.pred.toNat, h.neg.toNat, h.stall.toNat, 104] :=
    unpackBits_pack [(3, sc.toNat), (2, size.toNat), (1, acq.toNat), (1, rel.toNat), (23, 917504), (6, c.toNat), (6, b.toNat), (6, a.toNat), (3, h.pred.toNat), (1, h.neg.toNat), (4, h.stall.toNat), (8, 0x68)] ⟨sc.isLt, size.isLt, acq.isLt, rel.isLt, by decide, c.isLt, b.isLt, a.isLt, h.pred.isLt, h.neg.isLt, h.stall.isLt, by decide, trivial⟩
  unfold decOp68
  rw [u]
  show (some (Instr.amolMinu ⟨BitVec.ofNat 4 h.stall.toNat, BitVec.ofNat 1 h.neg.toNat, BitVec.ofNat 3 h.pred.toNat⟩ (BitVec.ofNat 6 a.toNat) (BitVec.ofNat 6 b.toNat) (BitVec.ofNat 6 c.toNat) (BitVec.ofNat 1 rel.toNat) (BitVec.ofNat 1 acq.toNat) (BitVec.ofNat 2 size.toNat) (BitVec.ofNat 3 sc.toNat))) = _
  simp only [BitVec.ofNat_toNat, BitVec.setWidth_eq]
theorem amolMaxu (h : Hdr) (a b c : BitVec 6) (rel acq : BitVec 1) (size : BitVec 2) (sc : BitVec 3) : Statement (.amolMaxu h a b c rel acq size sc) := by
  intro _ hw w1
  refine decode_of_raw (w1 := w1) (by show fieldWidth [(3, sc.toNat), (2, size.toNat), (1, acq.toNat), (1, rel.toNat), (23, 1048576), (6, c.toNat), (6, b.toNat), (6, a.toNat), (3, h.pred.toNat), (1, h.neg.toNat), (4, h.stall.toNat), (8, 0x68)] = 64; simp only [fieldWidth]) ?_ hw
  rw [show Instr.fields (.amolMaxu h a b c rel acq size sc) = [(3, sc.toNat), (2, size.toNat), (1, acq.toNat), (1, rel.toNat), (23, 1048576), (6, c.toNat), (6, b.toNat), (6, a.toNat), (3, h.pred.toNat), (1, h.neg.toNat), (4, h.stall.toNat)] ++ [(8, 0x68)] from rfl]
  obtain ⟨e1, e2⟩ := nibbles [(3, sc.toNat), (2, size.toNat), (1, acq.toNat), (1, rel.toNat), (23, 1048576), (6, c.toNat), (6, b.toNat), (6, a.toNat), (3, h.pred.toNat), (1, h.neg.toNat), (4, h.stall.toNat)] 0x68 6 8 (by simp only [fieldWidth]) rfl rfl
  rw [decodeRaw_hi6 _ _ e1, decHi6_8 _ _ _ e2]
  have u : unpackBits [3, 2, 1, 1, 23, 6, 6, 6, 3, 1, 4, 8] (packBits ([(3, sc.toNat), (2, size.toNat), (1, acq.toNat), (1, rel.toNat), (23, 1048576), (6, c.toNat), (6, b.toNat), (6, a.toNat), (3, h.pred.toNat), (1, h.neg.toNat), (4, h.stall.toNat)] ++ [(8, 0x68)])) = [sc.toNat, size.toNat, acq.toNat, rel.toNat, 1048576, c.toNat, b.toNat, a.toNat, h.pred.toNat, h.neg.toNat, h.stall.toNat, 104] :=
    unpackBits_pack [(3, sc.toNat), (2, size.toNat), (1, acq.toNat), (1, rel.toNat), (23, 1048576), (6, c.toNat), (6, b.toNat), (6, a.toNat), (3, h.pred.toNat), (1, h.neg.toNat), (4, h.stall.toNat), (8, 0x68)] ⟨sc.isLt, size.isLt, acq.isLt, rel.isLt, by decide, c.isLt, b.isLt, a.isLt, h.pred.isLt, h.neg.isLt, h.stall.isLt, by decide, trivial⟩
  unfold decOp68
  rw [u]
  show (some (Instr.amolMaxu ⟨BitVec.ofNat 4 h.stall.toNat, BitVec.ofNat 1 h.neg.toNat, BitVec.ofNat 3 h.pred.toNat⟩ (BitVec.ofNat 6 a.toNat) (BitVec.ofNat 6 b.toNat) (BitVec.ofNat 6 c.toNat) (BitVec.ofNat 1 rel.toNat) (BitVec.ofNat 1 acq.toNat) (BitVec.ofNat 2 size.toNat) (BitVec.ofNat 3 sc.toNat))) = _
  simp only [BitVec.ofNat_toNat, BitVec.setWidth_eq]
theorem amolMaxrst (h : Hdr) (a b : BitVec 6) (rel acq : BitVec 1) (size : BitVec 2) (sc : BitVec 3) : Statement (.amolMaxrst h a b rel acq size sc) := by
  intro _ hw w1
  refine decode_of_raw (w1 := w1) (by show fieldWidth [(3, sc.toNat), (2, size.toNat), (1, acq.toNat), (1, rel.toNat), (23, 1179648), (6, 0), (6, b.toNat), (6, a.toNat), (3, h.pred.toNat), (1, h.neg.toNat), (4, h.stall.toNat), (8, 0x68)] = 64; simp only [fieldWidth]) ?_ hw
  rw [show Instr.fields (.amolMaxrst h a b rel acq size sc) = [(3, sc.toNat), (2, size.toNat), (1, acq.toNat), (1, rel.toNat), (23, 1179648), (6, 0), (6, b.toNat), (6, a.toNat), (3, h.pred.toNat), (1, h.neg.toNat), (4, h.stall.toNat)] ++ [(8, 0x68)] from rfl]
  obtain ⟨e1, e2⟩ := nibbles [(3, sc.toNat), (2, size.toNat), (1, acq.toNat), (1, rel.toNat), (23, 1179648), (6, 0), (6, b.toNat), (6, a.toNat), (3, h.pred.toNat), (1, h.neg.toNat), (4, h.stall.toNat)] 0x68 6 8 (by simp only [fieldWidth]) rfl rfl
  rw [decodeRaw_hi6 _ _ e1, decHi6_8 _ _ _ e2]
  have u : unpackBits [3, 2, 1, 1, 23, 6, 6, 6, 3, 1, 4, 8] (packBits ([(3, sc.toNat), (2, size.toNat), (1, acq.toNat), (1, rel.toNat), (23, 1179648), (6, 0), (6, b.toNat), (6, a.toNat), (3, h.pred.toNat), (1, h.neg.toNat), (4, h.stall.toNat)] ++ [(8, 0x68)])) = [sc.toNat, size.toNat, acq.toNat, rel.toNat, 1179648, 0, b.toNat, a.toNat, h.pred.toNat, h.neg.toNat, h.stall.toNat, 104] :=
    unpackBits_pack [(3, sc.toNat), (2, size.toNat), (1, acq.toNat), (1, rel.toNat), (23, 1179648), (6, 0), (6, b.toNat), (6, a.toNat), (3, h.pred.toNat), (1, h.neg.toNat), (4, h.stall.toNat), (8, 0x68)] ⟨sc.isLt, size.isLt, acq.isLt, rel.isLt, by decide, by decide, b.isLt, a.isLt, h.pred.isLt, h.neg.isLt, h.stall.isLt, by decide, trivial⟩
  unfold decOp68
  rw [u]
  show (some (Instr.amolMaxrst ⟨BitVec.ofNat 4 h.stall.toNat, BitVec.ofNat 1 h.neg.toNat, BitVec.ofNat 3 h.pred.toNat⟩ (BitVec.ofNat 6 a.toNat) (BitVec.ofNat 6 b.toNat) (BitVec.ofNat 1 rel.toNat) (BitVec.ofNat 1 acq.toNat) (BitVec.ofNat 2 size.toNat) (BitVec.ofNat 3 sc.toNat))) = _
  simp only [BitVec.ofNat_toNat, BitVec.setWidth_eq]
theorem pref (h : Hdr) (lvl : BitVec 1) (base index : BitVec 6) (disp : BitVec 24) : Statement (.pref h lvl base index disp) := by
  intro _ hw w1
  refine decode_of_raw (w1 := w1) (by show fieldWidth [(24, disp.toNat), (6, index.toNat), (6, 0), (6, base.toNat), (1, lvl.toNat), (5, 0), (3, h.pred.toNat), (1, h.neg.toNat), (4, h.stall.toNat), (8, 0x69)] = 64; simp only [fieldWidth]) ?_ hw
  rw [show Instr.fields (.pref h lvl base index disp) = [(24, disp.toNat), (6, index.toNat), (6, 0), (6, base.toNat), (1, lvl.toNat), (5, 0), (3, h.pred.toNat), (1, h.neg.toNat), (4, h.stall.toNat)] ++ [(8, 0x69)] from rfl]
  obtain ⟨e1, e2⟩ := nibbles [(24, disp.toNat), (6, index.toNat), (6, 0), (6, base.toNat), (1, lvl.toNat), (5, 0), (3, h.pred.toNat), (1, h.neg.toNat), (4, h.stall.toNat)] 0x69 6 9 (by simp only [fieldWidth]) rfl rfl
  rw [decodeRaw_hi6 _ _ e1, decHi6_9 _ _ _ e2]
  have u : unpackBits [24, 6, 6, 6, 1, 5, 3, 1, 4, 8] (packBits ([(24, disp.toNat), (6, index.toNat), (6, 0), (6, base.toNat), (1, lvl.toNat), (5, 0), (3, h.pred.toNat), (1, h.neg.toNat), (4, h.stall.toNat)] ++ [(8, 0x69)])) = [disp.toNat, index.toNat, 0, base.toNat, lvl.toNat, 0, h.pred.toNat, h.neg.toNat, h.stall.toNat, 105] :=
    unpackBits_pack [(24, disp.toNat), (6, index.toNat), (6, 0), (6, base.toNat), (1, lvl.toNat), (5, 0), (3, h.pred.toNat), (1, h.neg.toNat), (4, h.stall.toNat), (8, 0x69)] ⟨disp.isLt, index.isLt, by decide, base.isLt, lvl.isLt, by decide, h.pred.isLt, h.neg.isLt, h.stall.isLt, by decide, trivial⟩
  unfold decOp69
  rw [u]
  show (some (Instr.pref ⟨BitVec.ofNat 4 h.stall.toNat, BitVec.ofNat 1 h.neg.toNat, BitVec.ofNat 3 h.pred.toNat⟩ (BitVec.ofNat 1 lvl.toNat) (BitVec.ofNat 6 base.toNat) (BitVec.ofNat 6 index.toNat) (BitVec.ofNat 24 disp.toNat))) = _
  simp only [BitVec.ofNat_toNat, BitVec.setWidth_eq]
theorem ldx (h : Hdr) (t base : BitVec 6) (size : BitVec 2) (index : BitVec 6) (disp : BitVec 24) : Statement (.ldx h t base size index disp) := by
  intro _ hw w1
  refine decode_of_raw (w1 := w1) (by show fieldWidth [(24, disp.toNat), (6, index.toNat), (3, 0), (2, size.toNat), (1, 0), (6, base.toNat), (6, t.toNat), (3, h.pred.toNat), (1, h.neg.toNat), (4, h.stall.toNat), (8, 0x6a)] = 64; simp only [fieldWidth]) ?_ hw
  rw [show Instr.fields (.ldx h t base size index disp) = [(24, disp.toNat), (6, index.toNat), (3, 0), (2, size.toNat), (1, 0), (6, base.toNat), (6, t.toNat), (3, h.pred.toNat), (1, h.neg.toNat), (4, h.stall.toNat)] ++ [(8, 0x6A)] from rfl]
  obtain ⟨e1, e2⟩ := nibbles [(24, disp.toNat), (6, index.toNat), (3, 0), (2, size.toNat), (1, 0), (6, base.toNat), (6, t.toNat), (3, h.pred.toNat), (1, h.neg.toNat), (4, h.stall.toNat)] 0x6A 6 10 (by simp only [fieldWidth]) rfl rfl
  rw [decodeRaw_hi6 _ _ e1, decHi6_A _ _ _ e2]
  have u : unpackBits [24, 6, 3, 2, 1, 6, 6, 3, 1, 4, 8] (packBits ([(24, disp.toNat), (6, index.toNat), (3, 0), (2, size.toNat), (1, 0), (6, base.toNat), (6, t.toNat), (3, h.pred.toNat), (1, h.neg.toNat), (4, h.stall.toNat)] ++ [(8, 0x6A)])) = [disp.toNat, index.toNat, 0, size.toNat, 0, base.toNat, t.toNat, h.pred.toNat, h.neg.toNat, h.stall.toNat, 106] :=
    unpackBits_pack [(24, disp.toNat), (6, index.toNat), (3, 0), (2, size.toNat), (1, 0), (6, base.toNat), (6, t.toNat), (3, h.pred.toNat), (1, h.neg.toNat), (4, h.stall.toNat), (8, 0x6a)] ⟨disp.isLt, index.isLt, by decide, size.isLt, by decide, base.isLt, t.isLt, h.pred.isLt, h.neg.isLt, h.stall.isLt, by decide, trivial⟩
  unfold decOp6A
  rw [u]
  show (some (Instr.ldx ⟨BitVec.ofNat 4 h.stall.toNat, BitVec.ofNat 1 h.neg.toNat, BitVec.ofNat 3 h.pred.toNat⟩ (BitVec.ofNat 6 t.toNat) (BitVec.ofNat 6 base.toNat) (BitVec.ofNat 2 size.toNat) (BitVec.ofNat 6 index.toNat) (BitVec.ofNat 24 disp.toNat))) = _
  simp only [BitVec.ofNat_toNat, BitVec.setWidth_eq]
theorem stx (h : Hdr) (t base : BitVec 6) (size : BitVec 2) (index : BitVec 6) (disp : BitVec 24) : Statement (.stx h t base size index disp) := by
  intro _ hw w1
  refine decode_of_raw (w1 := w1) (by show fieldWidth [(24, disp.toNat), (6, index.toNat), (3, 0), (2, size.toNat), (1, 0), (6, base.toNat), (6, t.toNat), (3, h.pred.toNat), (1, h.neg.toNat), (4, h.stall.toNat), (8, 0x6b)] = 64; simp only [fieldWidth]) ?_ hw
  rw [show Instr.fields (.stx h t base size index disp) = [(24, disp.toNat), (6, index.toNat), (3, 0), (2, size.toNat), (1, 0), (6, base.toNat), (6, t.toNat), (3, h.pred.toNat), (1, h.neg.toNat), (4, h.stall.toNat)] ++ [(8, 0x6B)] from rfl]
  obtain ⟨e1, e2⟩ := nibbles [(24, disp.toNat), (6, index.toNat), (3, 0), (2, size.toNat), (1, 0), (6, base.toNat), (6, t.toNat), (3, h.pred.toNat), (1, h.neg.toNat), (4, h.stall.toNat)] 0x6B 6 11 (by simp only [fieldWidth]) rfl rfl
  rw [decodeRaw_hi6 _ _ e1, decHi6_B _ _ _ e2]
  have u : unpackBits [24, 6, 3, 2, 1, 6, 6, 3, 1, 4, 8] (packBits ([(24, disp.toNat), (6, index.toNat), (3, 0), (2, size.toNat), (1, 0), (6, base.toNat), (6, t.toNat), (3, h.pred.toNat), (1, h.neg.toNat), (4, h.stall.toNat)] ++ [(8, 0x6B)])) = [disp.toNat, index.toNat, 0, size.toNat, 0, base.toNat, t.toNat, h.pred.toNat, h.neg.toNat, h.stall.toNat, 107] :=
    unpackBits_pack [(24, disp.toNat), (6, index.toNat), (3, 0), (2, size.toNat), (1, 0), (6, base.toNat), (6, t.toNat), (3, h.pred.toNat), (1, h.neg.toNat), (4, h.stall.toNat), (8, 0x6b)] ⟨disp.isLt, index.isLt, by decide, size.isLt, by decide, base.isLt, t.isLt, h.pred.isLt, h.neg.isLt, h.stall.isLt, by decide, trivial⟩
  unfold decOp6B
  rw [u]
  show (some (Instr.stx ⟨BitVec.ofNat 4 h.stall.toNat, BitVec.ofNat 1 h.neg.toNat, BitVec.ofNat 3 h.pred.toNat⟩ (BitVec.ofNat 6 t.toNat) (BitVec.ofNat 6 base.toNat) (BitVec.ofNat 2 size.toNat) (BitVec.ofNat 6 index.toNat) (BitVec.ofNat 24 disp.toNat))) = _
  simp only [BitVec.ofNat_toNat, BitVec.setWidth_eq]
theorem ldp (h : Hdr) (t base index : BitVec 6) (disp : BitVec 24) : Statement (.ldp h t base index disp) := by
  intro _ hw w1
  refine decode_of_raw (w1 := w1) (by show fieldWidth [(24, disp.toNat), (6, index.toNat), (6, 32), (6, base.toNat), (6, t.toNat), (3, h.pred.toNat), (1, h.neg.toNat), (4, h.stall.toNat), (8, 0x6c)] = 64; simp only [fieldWidth]) ?_ hw
  rw [show Instr.fields (.ldp h t base index disp) = [(24, disp.toNat), (6, index.toNat), (6, 32), (6, base.toNat), (6, t.toNat), (3, h.pred.toNat), (1, h.neg.toNat), (4, h.stall.toNat)] ++ [(8, 0x6C)] from rfl]
  obtain ⟨e1, e2⟩ := nibbles [(24, disp.toNat), (6, index.toNat), (6, 32), (6, base.toNat), (6, t.toNat), (3, h.pred.toNat), (1, h.neg.toNat), (4, h.stall.toNat)] 0x6C 6 12 (by simp only [fieldWidth]) rfl rfl
  rw [decodeRaw_hi6 _ _ e1, decHi6_C _ _ _ e2]
  have u : unpackBits [24, 6, 6, 6, 6, 3, 1, 4, 8] (packBits ([(24, disp.toNat), (6, index.toNat), (6, 32), (6, base.toNat), (6, t.toNat), (3, h.pred.toNat), (1, h.neg.toNat), (4, h.stall.toNat)] ++ [(8, 0x6C)])) = [disp.toNat, index.toNat, 32, base.toNat, t.toNat, h.pred.toNat, h.neg.toNat, h.stall.toNat, 108] :=
    unpackBits_pack [(24, disp.toNat), (6, index.toNat), (6, 32), (6, base.toNat), (6, t.toNat), (3, h.pred.toNat), (1, h.neg.toNat), (4, h.stall.toNat), (8, 0x6c)] ⟨disp.isLt, index.isLt, by decide, base.isLt, t.isLt, h.pred.isLt, h.neg.isLt, h.stall.isLt, by decide, trivial⟩
  unfold decOp6C
  rw [u]
  show (some (Instr.ldp ⟨BitVec.ofNat 4 h.stall.toNat, BitVec.ofNat 1 h.neg.toNat, BitVec.ofNat 3 h.pred.toNat⟩ (BitVec.ofNat 6 t.toNat) (BitVec.ofNat 6 base.toNat) (BitVec.ofNat 6 index.toNat) (BitVec.ofNat 24 disp.toNat))) = _
  simp only [BitVec.ofNat_toNat, BitVec.setWidth_eq]
theorem stp (h : Hdr) (t base index : BitVec 6) (disp : BitVec 24) : Statement (.stp h t base index disp) := by
  intro _ hw w1
  refine decode_of_raw (w1 := w1) (by show fieldWidth [(24, disp.toNat), (6, index.toNat), (6, 32), (6, base.toNat), (6, t.toNat), (3, h.pred.toNat), (1, h.neg.toNat), (4, h.stall.toNat), (8, 0x6d)] = 64; simp only [fieldWidth]) ?_ hw
  rw [show Instr.fields (.stp h t base index disp) = [(24, disp.toNat), (6, index.toNat), (6, 32), (6, base.toNat), (6, t.toNat), (3, h.pred.toNat), (1, h.neg.toNat), (4, h.stall.toNat)] ++ [(8, 0x6D)] from rfl]
  obtain ⟨e1, e2⟩ := nibbles [(24, disp.toNat), (6, index.toNat), (6, 32), (6, base.toNat), (6, t.toNat), (3, h.pred.toNat), (1, h.neg.toNat), (4, h.stall.toNat)] 0x6D 6 13 (by simp only [fieldWidth]) rfl rfl
  rw [decodeRaw_hi6 _ _ e1, decHi6_D _ _ _ e2]
  have u : unpackBits [24, 6, 6, 6, 6, 3, 1, 4, 8] (packBits ([(24, disp.toNat), (6, index.toNat), (6, 32), (6, base.toNat), (6, t.toNat), (3, h.pred.toNat), (1, h.neg.toNat), (4, h.stall.toNat)] ++ [(8, 0x6D)])) = [disp.toNat, index.toNat, 32, base.toNat, t.toNat, h.pred.toNat, h.neg.toNat, h.stall.toNat, 109] :=
    unpackBits_pack [(24, disp.toNat), (6, index.toNat), (6, 32), (6, base.toNat), (6, t.toNat), (3, h.pred.toNat), (1, h.neg.toNat), (4, h.stall.toNat), (8, 0x6d)] ⟨disp.isLt, index.isLt, by decide, base.isLt, t.isLt, h.pred.isLt, h.neg.isLt, h.stall.isLt, by decide, trivial⟩
  unfold decOp6D
  rw [u]
  show (some (Instr.stp ⟨BitVec.ofNat 4 h.stall.toNat, BitVec.ofNat 1 h.neg.toNat, BitVec.ofNat 3 h.pred.toNat⟩ (BitVec.ofNat 6 t.toNat) (BitVec.ofNat 6 base.toNat) (BitVec.ofNat 6 index.toNat) (BitVec.ofNat 24 disp.toNat))) = _
  simp only [BitVec.ofNat_toNat, BitVec.setWidth_eq]
theorem barInit (h : Hdr) (a b c : BitVec 6) (sc : BitVec 3) : Statement (.barInit h a b c sc) := by
  intro _ hw w1
  refine decode_of_raw (w1 := w1) (by show fieldWidth [(3, sc.toNat), (27, 0), (6, c.toNat), (6, b.toNat), (6, a.toNat), (3, h.pred.toNat), (1, h.neg.toNat), (4, h.stall.toNat), (8, 0x6e)] = 64; simp only [fieldWidth]) ?_ hw
  rw [show Instr.fields (.barInit h a b c sc) = [(3, sc.toNat), (27, 0), (6, c.toNat), (6, b.toNat), (6, a.toNat), (3, h.pred.toNat), (1, h.neg.toNat), (4, h.stall.toNat)] ++ [(8, 0x6E)] from rfl]
  obtain ⟨e1, e2⟩ := nibbles [(3, sc.toNat), (27, 0), (6, c.toNat), (6, b.toNat), (6, a.toNat), (3, h.pred.toNat), (1, h.neg.toNat), (4, h.stall.toNat)] 0x6E 6 14 (by simp only [fieldWidth]) rfl rfl
  rw [decodeRaw_hi6 _ _ e1, decHi6_E _ _ _ e2]
  have u : unpackBits [3, 27, 6, 6, 6, 3, 1, 4, 8] (packBits ([(3, sc.toNat), (27, 0), (6, c.toNat), (6, b.toNat), (6, a.toNat), (3, h.pred.toNat), (1, h.neg.toNat), (4, h.stall.toNat)] ++ [(8, 0x6E)])) = [sc.toNat, 0, c.toNat, b.toNat, a.toNat, h.pred.toNat, h.neg.toNat, h.stall.toNat, 110] :=
    unpackBits_pack [(3, sc.toNat), (27, 0), (6, c.toNat), (6, b.toNat), (6, a.toNat), (3, h.pred.toNat), (1, h.neg.toNat), (4, h.stall.toNat), (8, 0x6e)] ⟨sc.isLt, by decide, c.isLt, b.isLt, a.isLt, h.pred.isLt, h.neg.isLt, h.stall.isLt, by decide, trivial⟩
  unfold decOp6E
  rw [u]
  show (some (Instr.barInit ⟨BitVec.ofNat 4 h.stall.toNat, BitVec.ofNat 1 h.neg.toNat, BitVec.ofNat 3 h.pred.toNat⟩ (BitVec.ofNat 6 a.toNat) (BitVec.ofNat 6 b.toNat) (BitVec.ofNat 6 c.toNat) (BitVec.ofNat 3 sc.toNat))) = _
  simp only [BitVec.ofNat_toNat, BitVec.setWidth_eq]
theorem barExpect (h : Hdr) (a b c : BitVec 6) (sc : BitVec 3) : Statement (.barExpect h a b c sc) := by
  intro _ hw w1
  refine decode_of_raw (w1 := w1) (by show fieldWidth [(3, sc.toNat), (27, 2097152), (6, c.toNat), (6, b.toNat), (6, a.toNat), (3, h.pred.toNat), (1, h.neg.toNat), (4, h.stall.toNat), (8, 0x6e)] = 64; simp only [fieldWidth]) ?_ hw
  rw [show Instr.fields (.barExpect h a b c sc) = [(3, sc.toNat), (27, 2097152), (6, c.toNat), (6, b.toNat), (6, a.toNat), (3, h.pred.toNat), (1, h.neg.toNat), (4, h.stall.toNat)] ++ [(8, 0x6E)] from rfl]
  obtain ⟨e1, e2⟩ := nibbles [(3, sc.toNat), (27, 2097152), (6, c.toNat), (6, b.toNat), (6, a.toNat), (3, h.pred.toNat), (1, h.neg.toNat), (4, h.stall.toNat)] 0x6E 6 14 (by simp only [fieldWidth]) rfl rfl
  rw [decodeRaw_hi6 _ _ e1, decHi6_E _ _ _ e2]
  have u : unpackBits [3, 27, 6, 6, 6, 3, 1, 4, 8] (packBits ([(3, sc.toNat), (27, 2097152), (6, c.toNat), (6, b.toNat), (6, a.toNat), (3, h.pred.toNat), (1, h.neg.toNat), (4, h.stall.toNat)] ++ [(8, 0x6E)])) = [sc.toNat, 2097152, c.toNat, b.toNat, a.toNat, h.pred.toNat, h.neg.toNat, h.stall.toNat, 110] :=
    unpackBits_pack [(3, sc.toNat), (27, 2097152), (6, c.toNat), (6, b.toNat), (6, a.toNat), (3, h.pred.toNat), (1, h.neg.toNat), (4, h.stall.toNat), (8, 0x6e)] ⟨sc.isLt, by decide, c.isLt, b.isLt, a.isLt, h.pred.isLt, h.neg.isLt, h.stall.isLt, by decide, trivial⟩
  unfold decOp6E
  rw [u]
  show (some (Instr.barExpect ⟨BitVec.ofNat 4 h.stall.toNat, BitVec.ofNat 1 h.neg.toNat, BitVec.ofNat 3 h.pred.toNat⟩ (BitVec.ofNat 6 a.toNat) (BitVec.ofNat 6 b.toNat) (BitVec.ofNat 6 c.toNat) (BitVec.ofNat 3 sc.toNat))) = _
  simp only [BitVec.ofNat_toNat, BitVec.setWidth_eq]
theorem barArrive (h : Hdr) (a b : BitVec 6) (sc : BitVec 3) : Statement (.barArrive h a b sc) := by
  intro _ hw w1
  refine decode_of_raw (w1 := w1) (by show fieldWidth [(3, sc.toNat), (27, 4194304), (6, 0), (6, b.toNat), (6, a.toNat), (3, h.pred.toNat), (1, h.neg.toNat), (4, h.stall.toNat), (8, 0x6e)] = 64; simp only [fieldWidth]) ?_ hw
  rw [show Instr.fields (.barArrive h a b sc) = [(3, sc.toNat), (27, 4194304), (6, 0), (6, b.toNat), (6, a.toNat), (3, h.pred.toNat), (1, h.neg.toNat), (4, h.stall.toNat)] ++ [(8, 0x6E)] from rfl]
  obtain ⟨e1, e2⟩ := nibbles [(3, sc.toNat), (27, 4194304), (6, 0), (6, b.toNat), (6, a.toNat), (3, h.pred.toNat), (1, h.neg.toNat), (4, h.stall.toNat)] 0x6E 6 14 (by simp only [fieldWidth]) rfl rfl
  rw [decodeRaw_hi6 _ _ e1, decHi6_E _ _ _ e2]
  have u : unpackBits [3, 27, 6, 6, 6, 3, 1, 4, 8] (packBits ([(3, sc.toNat), (27, 4194304), (6, 0), (6, b.toNat), (6, a.toNat), (3, h.pred.toNat), (1, h.neg.toNat), (4, h.stall.toNat)] ++ [(8, 0x6E)])) = [sc.toNat, 4194304, 0, b.toNat, a.toNat, h.pred.toNat, h.neg.toNat, h.stall.toNat, 110] :=
    unpackBits_pack [(3, sc.toNat), (27, 4194304), (6, 0), (6, b.toNat), (6, a.toNat), (3, h.pred.toNat), (1, h.neg.toNat), (4, h.stall.toNat), (8, 0x6e)] ⟨sc.isLt, by decide, by decide, b.isLt, a.isLt, h.pred.isLt, h.neg.isLt, h.stall.isLt, by decide, trivial⟩
  unfold decOp6E
  rw [u]
  show (some (Instr.barArrive ⟨BitVec.ofNat 4 h.stall.toNat, BitVec.ofNat 1 h.neg.toNat, BitVec.ofNat 3 h.pred.toNat⟩ (BitVec.ofNat 6 a.toNat) (BitVec.ofNat 6 b.toNat) (BitVec.ofNat 3 sc.toNat))) = _
  simp only [BitVec.ofNat_toNat, BitVec.setWidth_eq]
theorem barArriveb (h : Hdr) (a b c : BitVec 6) (sc : BitVec 3) : Statement (.barArriveb h a b c sc) := by
  intro _ hw w1
  refine decode_of_raw (w1 := w1) (by show fieldWidth [(3, sc.toNat), (27, 6291456), (6, c.toNat), (6, b.toNat), (6, a.toNat), (3, h.pred.toNat), (1, h.neg.toNat), (4, h.stall.toNat), (8, 0x6e)] = 64; simp only [fieldWidth]) ?_ hw
  rw [show Instr.fields (.barArriveb h a b c sc) = [(3, sc.toNat), (27, 6291456), (6, c.toNat), (6, b.toNat), (6, a.toNat), (3, h.pred.toNat), (1, h.neg.toNat), (4, h.stall.toNat)] ++ [(8, 0x6E)] from rfl]
  obtain ⟨e1, e2⟩ := nibbles [(3, sc.toNat), (27, 6291456), (6, c.toNat), (6, b.toNat), (6, a.toNat), (3, h.pred.toNat), (1, h.neg.toNat), (4, h.stall.toNat)] 0x6E 6 14 (by simp only [fieldWidth]) rfl rfl
  rw [decodeRaw_hi6 _ _ e1, decHi6_E _ _ _ e2]
  have u : unpackBits [3, 27, 6, 6, 6, 3, 1, 4, 8] (packBits ([(3, sc.toNat), (27, 6291456), (6, c.toNat), (6, b.toNat), (6, a.toNat), (3, h.pred.toNat), (1, h.neg.toNat), (4, h.stall.toNat)] ++ [(8, 0x6E)])) = [sc.toNat, 6291456, c.toNat, b.toNat, a.toNat, h.pred.toNat, h.neg.toNat, h.stall.toNat, 110] :=
    unpackBits_pack [(3, sc.toNat), (27, 6291456), (6, c.toNat), (6, b.toNat), (6, a.toNat), (3, h.pred.toNat), (1, h.neg.toNat), (4, h.stall.toNat), (8, 0x6e)] ⟨sc.isLt, by decide, c.isLt, b.isLt, a.isLt, h.pred.isLt, h.neg.isLt, h.stall.isLt, by decide, trivial⟩
  unfold decOp6E
  rw [u]
  show (some (Instr.barArriveb ⟨BitVec.ofNat 4 h.stall.toNat, BitVec.ofNat 1 h.neg.toNat, BitVec.ofNat 3 h.pred.toNat⟩ (BitVec.ofNat 6 a.toNat) (BitVec.ofNat 6 b.toNat) (BitVec.ofNat 6 c.toNat) (BitVec.ofNat 3 sc.toNat))) = _
  simp only [BitVec.ofNat_toNat, BitVec.setWidth_eq]
theorem barWait (h : Hdr) (a b c : BitVec 6) (sc : BitVec 3) : Statement (.barWait h a b c sc) := by
  intro _ hw w1
  refine decode_of_raw (w1 := w1) (by show fieldWidth [(3, sc.toNat), (27, 8388608), (6, c.toNat), (6, b.toNat), (6, a.toNat), (3, h.pred.toNat), (1, h.neg.toNat), (4, h.stall.toNat), (8, 0x6e)] = 64; simp only [fieldWidth]) ?_ hw
  rw [show Instr.fields (.barWait h a b c sc) = [(3, sc.toNat), (27, 8388608), (6, c.toNat), (6, b.toNat), (6, a.toNat), (3, h.pred.toNat), (1, h.neg.toNat), (4, h.stall.toNat)] ++ [(8, 0x6E)] from rfl]
  obtain ⟨e1, e2⟩ := nibbles [(3, sc.toNat), (27, 8388608), (6, c.toNat), (6, b.toNat), (6, a.toNat), (3, h.pred.toNat), (1, h.neg.toNat), (4, h.stall.toNat)] 0x6E 6 14 (by simp only [fieldWidth]) rfl rfl
  rw [decodeRaw_hi6 _ _ e1, decHi6_E _ _ _ e2]
  have u : unpackBits [3, 27, 6, 6, 6, 3, 1, 4, 8] (packBits ([(3, sc.toNat), (27, 8388608), (6, c.toNat), (6, b.toNat), (6, a.toNat), (3, h.pred.toNat), (1, h.neg.toNat), (4, h.stall.toNat)] ++ [(8, 0x6E)])) = [sc.toNat, 8388608, c.toNat, b.toNat, a.toNat, h.pred.toNat, h.neg.toNat, h.stall.toNat, 110] :=
    unpackBits_pack [(3, sc.toNat), (27, 8388608), (6, c.toNat), (6, b.toNat), (6, a.toNat), (3, h.pred.toNat), (1, h.neg.toNat), (4, h.stall.toNat), (8, 0x6e)] ⟨sc.isLt, by decide, c.isLt, b.isLt, a.isLt, h.pred.isLt, h.neg.isLt, h.stall.isLt, by decide, trivial⟩
  unfold decOp6E
  rw [u]
  show (some (Instr.barWait ⟨BitVec.ofNat 4 h.stall.toNat, BitVec.ofNat 1 h.neg.toNat, BitVec.ofNat 3 h.pred.toNat⟩ (BitVec.ofNat 6 a.toNat) (BitVec.ofNat 6 b.toNat) (BitVec.ofNat 6 c.toNat) (BitVec.ofNat 3 sc.toNat))) = _
  simp only [BitVec.ofNat_toNat, BitVec.setWidth_eq]
theorem barTest (h : Hdr) (a b c : BitVec 6) (sc : BitVec 3) : Statement (.barTest h a b c sc) := by
  intro _ hw w1
  refine decode_of_raw (w1 := w1) (by show fieldWidth [(3, sc.toNat), (27, 10485760), (6, c.toNat), (6, b.toNat), (6, a.toNat), (3, h.pred.toNat), (1, h.neg.toNat), (4, h.stall.toNat), (8, 0x6e)] = 64; simp only [fieldWidth]) ?_ hw
  rw [show Instr.fields (.barTest h a b c sc) = [(3, sc.toNat), (27, 10485760), (6, c.toNat), (6, b.toNat), (6, a.toNat), (3, h.pred.toNat), (1, h.neg.toNat), (4, h.stall.toNat)] ++ [(8, 0x6E)] from rfl]
  obtain ⟨e1, e2⟩ := nibbles [(3, sc.toNat), (27, 10485760), (6, c.toNat), (6, b.toNat), (6, a.toNat), (3, h.pred.toNat), (1, h.neg.toNat), (4, h.stall.toNat)] 0x6E 6 14 (by simp only [fieldWidth]) rfl rfl
  rw [decodeRaw_hi6 _ _ e1, decHi6_E _ _ _ e2]
  have u : unpackBits [3, 27, 6, 6, 6, 3, 1, 4, 8] (packBits ([(3, sc.toNat), (27, 10485760), (6, c.toNat), (6, b.toNat), (6, a.toNat), (3, h.pred.toNat), (1, h.neg.toNat), (4, h.stall.toNat)] ++ [(8, 0x6E)])) = [sc.toNat, 10485760, c.toNat, b.toNat, a.toNat, h.pred.toNat, h.neg.toNat, h.stall.toNat, 110] :=
    unpackBits_pack [(3, sc.toNat), (27, 10485760), (6, c.toNat), (6, b.toNat), (6, a.toNat), (3, h.pred.toNat), (1, h.neg.toNat), (4, h.stall.toNat), (8, 0x6e)] ⟨sc.isLt, by decide, c.isLt, b.isLt, a.isLt, h.pred.isLt, h.neg.isLt, h.stall.isLt, by decide, trivial⟩
  unfold decOp6E
  rw [u]
  show (some (Instr.barTest ⟨BitVec.ofNat 4 h.stall.toNat, BitVec.ofNat 1 h.neg.toNat, BitVec.ofNat 3 h.pred.toNat⟩ (BitVec.ofNat 6 a.toNat) (BitVec.ofNat 6 b.toNat) (BitVec.ofNat 6 c.toNat) (BitVec.ofNat 3 sc.toNat))) = _
  simp only [BitVec.ofNat_toNat, BitVec.setWidth_eq]
theorem own (h : Hdr) (a b : BitVec 6) (ow : BitVec 1) : Statement (.own h a b ow) := by
  intro _ hw w1
  refine decode_of_raw (w1 := w1) (by show fieldWidth [(24, 0), (1, ow.toNat), (11, 0), (6, b.toNat), (6, a.toNat), (3, h.pred.toNat), (1, h.neg.toNat), (4, h.stall.toNat), (8, 0x6f)] = 64; simp only [fieldWidth]) ?_ hw
  rw [show Instr.fields (.own h a b ow) = [(24, 0), (1, ow.toNat), (11, 0), (6, b.toNat), (6, a.toNat), (3, h.pred.toNat), (1, h.neg.toNat), (4, h.stall.toNat)] ++ [(8, 0x6F)] from rfl]
  obtain ⟨e1, e2⟩ := nibbles [(24, 0), (1, ow.toNat), (11, 0), (6, b.toNat), (6, a.toNat), (3, h.pred.toNat), (1, h.neg.toNat), (4, h.stall.toNat)] 0x6F 6 15 (by simp only [fieldWidth]) rfl rfl
  rw [decodeRaw_hi6 _ _ e1, decHi6_F _ _ _ e2]
  have u : unpackBits [24, 1, 11, 6, 6, 3, 1, 4, 8] (packBits ([(24, 0), (1, ow.toNat), (11, 0), (6, b.toNat), (6, a.toNat), (3, h.pred.toNat), (1, h.neg.toNat), (4, h.stall.toNat)] ++ [(8, 0x6F)])) = [0, ow.toNat, 0, b.toNat, a.toNat, h.pred.toNat, h.neg.toNat, h.stall.toNat, 111] :=
    unpackBits_pack [(24, 0), (1, ow.toNat), (11, 0), (6, b.toNat), (6, a.toNat), (3, h.pred.toNat), (1, h.neg.toNat), (4, h.stall.toNat), (8, 0x6f)] ⟨by decide, ow.isLt, by decide, b.isLt, a.isLt, h.pred.isLt, h.neg.isLt, h.stall.isLt, by decide, trivial⟩
  unfold decOp6F
  rw [u]
  show (some (Instr.own ⟨BitVec.ofNat 4 h.stall.toNat, BitVec.ofNat 1 h.neg.toNat, BitVec.ofNat 3 h.pred.toNat⟩ (BitVec.ofNat 6 a.toNat) (BitVec.ofNat 6 b.toNat) (BitVec.ofNat 1 ow.toNat))) = _
  simp only [BitVec.ofNat_toNat, BitVec.setWidth_eq]
theorem fence (h : Hdr) (kinds sc : BitVec 3) : Statement (.fence h kinds sc) := by
  intro _ hw w1
  refine decode_of_raw (w1 := w1) (by show fieldWidth [(3, sc.toNat), (21, 0), (3, kinds.toNat), (21, 0), (3, h.pred.toNat), (1, h.neg.toNat), (4, h.stall.toNat), (8, 0x70)] = 64; simp only [fieldWidth]) ?_ hw
  rw [show Instr.fields (.fence h kinds sc) = [(3, sc.toNat), (21, 0), (3, kinds.toNat), (21, 0), (3, h.pred.toNat), (1, h.neg.toNat), (4, h.stall.toNat)] ++ [(8, 0x70)] from rfl]
  obtain ⟨e1, e2⟩ := nibbles [(3, sc.toNat), (21, 0), (3, kinds.toNat), (21, 0), (3, h.pred.toNat), (1, h.neg.toNat), (4, h.stall.toNat)] 0x70 7 0 (by simp only [fieldWidth]) rfl rfl
  rw [decodeRaw_hi7 _ _ e1, decHi7_0 _ _ _ e2]
  have u : unpackBits [3, 21, 3, 21, 3, 1, 4, 8] (packBits ([(3, sc.toNat), (21, 0), (3, kinds.toNat), (21, 0), (3, h.pred.toNat), (1, h.neg.toNat), (4, h.stall.toNat)] ++ [(8, 0x70)])) = [sc.toNat, 0, kinds.toNat, 0, h.pred.toNat, h.neg.toNat, h.stall.toNat, 112] :=
    unpackBits_pack [(3, sc.toNat), (21, 0), (3, kinds.toNat), (21, 0), (3, h.pred.toNat), (1, h.neg.toNat), (4, h.stall.toNat), (8, 0x70)] ⟨sc.isLt, by decide, kinds.isLt, by decide, h.pred.isLt, h.neg.isLt, h.stall.isLt, by decide, trivial⟩
  unfold decOp70
  rw [u]
  show (some (Instr.fence ⟨BitVec.ofNat 4 h.stall.toNat, BitVec.ofNat 1 h.neg.toNat, BitVec.ofNat 3 h.pred.toNat⟩ (BitVec.ofNat 3 kinds.toNat) (BitVec.ofNat 3 sc.toNat))) = _
  simp only [BitVec.ofNat_toNat, BitVec.setWidth_eq]
theorem fsa (h : Hdr) (sc : BitVec 3) : Statement (.fsa h sc) := by
  intro _ hw w1
  refine decode_of_raw (w1 := w1) (by show fieldWidth [(24, 0), (3, sc.toNat), (21, 0), (3, h.pred.toNat), (1, h.neg.toNat), (4, h.stall.toNat), (8, 0x71)] = 64; simp only [fieldWidth]) ?_ hw
  rw [show Instr.fields (.fsa h sc) = [(24, 0), (3, sc.toNat), (21, 0), (3, h.pred.toNat), (1, h.neg.toNat), (4, h.stall.toNat)] ++ [(8, 0x71)] from rfl]
  obtain ⟨e1, e2⟩ := nibbles [(24, 0), (3, sc.toNat), (21, 0), (3, h.pred.toNat), (1, h.neg.toNat), (4, h.stall.toNat)] 0x71 7 1 (by simp only [fieldWidth]) rfl rfl
  rw [decodeRaw_hi7 _ _ e1, decHi7_1 _ _ _ e2]
  have u : unpackBits [24, 3, 21, 3, 1, 4, 8] (packBits ([(24, 0), (3, sc.toNat), (21, 0), (3, h.pred.toNat), (1, h.neg.toNat), (4, h.stall.toNat)] ++ [(8, 0x71)])) = [0, sc.toNat, 0, h.pred.toNat, h.neg.toNat, h.stall.toNat, 113] :=
    unpackBits_pack [(24, 0), (3, sc.toNat), (21, 0), (3, h.pred.toNat), (1, h.neg.toNat), (4, h.stall.toNat), (8, 0x71)] ⟨by decide, sc.isLt, by decide, h.pred.isLt, h.neg.isLt, h.stall.isLt, by decide, trivial⟩
  unfold decOp71
  rw [u]
  show (some (Instr.fsa ⟨BitVec.ofNat 4 h.stall.toNat, BitVec.ofNat 1 h.neg.toNat, BitVec.ofNat 3 h.pred.toNat⟩ (BitVec.ofNat 3 sc.toNat))) = _
  simp only [BitVec.ofNat_toNat, BitVec.setWidth_eq]
theorem fas (h : Hdr) (sc : BitVec 3) : Statement (.fas h sc) := by
  intro _ hw w1
  refine decode_of_raw (w1 := w1) (by show fieldWidth [(24, 0), (3, sc.toNat), (21, 0), (3, h.pred.toNat), (1, h.neg.toNat), (4, h.stall.toNat), (8, 0x72)] = 64; simp only [fieldWidth]) ?_ hw
  rw [show Instr.fields (.fas h sc) = [(24, 0), (3, sc.toNat), (21, 0), (3, h.pred.toNat), (1, h.neg.toNat), (4, h.stall.toNat)] ++ [(8, 0x72)] from rfl]
  obtain ⟨e1, e2⟩ := nibbles [(24, 0), (3, sc.toNat), (21, 0), (3, h.pred.toNat), (1, h.neg.toNat), (4, h.stall.toNat)] 0x72 7 2 (by simp only [fieldWidth]) rfl rfl
  rw [decodeRaw_hi7 _ _ e1, decHi7_2 _ _ _ e2]
  have u : unpackBits [24, 3, 21, 3, 1, 4, 8] (packBits ([(24, 0), (3, sc.toNat), (21, 0), (3, h.pred.toNat), (1, h.neg.toNat), (4, h.stall.toNat)] ++ [(8, 0x72)])) = [0, sc.toNat, 0, h.pred.toNat, h.neg.toNat, h.stall.toNat, 114] :=
    unpackBits_pack [(24, 0), (3, sc.toNat), (21, 0), (3, h.pred.toNat), (1, h.neg.toNat), (4, h.stall.toNat), (8, 0x72)] ⟨by decide, sc.isLt, by decide, h.pred.isLt, h.neg.isLt, h.stall.isLt, by decide, trivial⟩
  unfold decOp72
  rw [u]
  show (some (Instr.fas ⟨BitVec.ofNat 4 h.stall.toNat, BitVec.ofNat 1 h.neg.toNat, BitVec.ofNat 3 h.pred.toNat⟩ (BitVec.ofNat 3 sc.toNat))) = _
  simp only [BitVec.ofNat_toNat, BitVec.setWidth_eq]
theorem faa (h : Hdr) (sc : BitVec 3) : Statement (.faa h sc) := by
  intro _ hw w1
  refine decode_of_raw (w1 := w1) (by show fieldWidth [(24, 0), (3, sc.toNat), (21, 0), (3, h.pred.toNat), (1, h.neg.toNat), (4, h.stall.toNat), (8, 0x73)] = 64; simp only [fieldWidth]) ?_ hw
  rw [show Instr.fields (.faa h sc) = [(24, 0), (3, sc.toNat), (21, 0), (3, h.pred.toNat), (1, h.neg.toNat), (4, h.stall.toNat)] ++ [(8, 0x73)] from rfl]
  obtain ⟨e1, e2⟩ := nibbles [(24, 0), (3, sc.toNat), (21, 0), (3, h.pred.toNat), (1, h.neg.toNat), (4, h.stall.toNat)] 0x73 7 3 (by simp only [fieldWidth]) rfl rfl
  rw [decodeRaw_hi7 _ _ e1, decHi7_3 _ _ _ e2]
  have u : unpackBits [24, 3, 21, 3, 1, 4, 8] (packBits ([(24, 0), (3, sc.toNat), (21, 0), (3, h.pred.toNat), (1, h.neg.toNat), (4, h.stall.toNat)] ++ [(8, 0x73)])) = [0, sc.toNat, 0, h.pred.toNat, h.neg.toNat, h.stall.toNat, 115] :=
    unpackBits_pack [(24, 0), (3, sc.toNat), (21, 0), (3, h.pred.toNat), (1, h.neg.toNat), (4, h.stall.toNat), (8, 0x73)] ⟨by decide, sc.isLt, by decide, h.pred.isLt, h.neg.isLt, h.stall.isLt, by decide, trivial⟩
  unfold decOp73
  rw [u]
  show (some (Instr.faa ⟨BitVec.ofNat 4 h.stall.toNat, BitVec.ofNat 1 h.neg.toNat, BitVec.ofNat 3 h.pred.toNat⟩ (BitVec.ofNat 3 sc.toNat))) = _
  simp only [BitVec.ofNat_toNat, BitVec.setWidth_eq]
theorem symw (h : Hdr) (a : BitVec 6) : Statement (.symw h a) := by
  intro _ hw w1
  refine decode_of_raw (w1 := w1) (by show fieldWidth [(36, 0), (6, a.toNat), (6, 0), (3, h.pred.toNat), (1, h.neg.toNat), (4, h.stall.toNat), (8, 0x74)] = 64; simp only [fieldWidth]) ?_ hw
  rw [show Instr.fields (.symw h a) = [(36, 0), (6, a.toNat), (6, 0), (3, h.pred.toNat), (1, h.neg.toNat), (4, h.stall.toNat)] ++ [(8, 0x74)] from rfl]
  obtain ⟨e1, e2⟩ := nibbles [(36, 0), (6, a.toNat), (6, 0), (3, h.pred.toNat), (1, h.neg.toNat), (4, h.stall.toNat)] 0x74 7 4 (by simp only [fieldWidth]) rfl rfl
  rw [decodeRaw_hi7 _ _ e1, decHi7_4 _ _ _ e2]
  have u : unpackBits [36, 6, 6, 3, 1, 4, 8] (packBits ([(36, 0), (6, a.toNat), (6, 0), (3, h.pred.toNat), (1, h.neg.toNat), (4, h.stall.toNat)] ++ [(8, 0x74)])) = [0, a.toNat, 0, h.pred.toNat, h.neg.toNat, h.stall.toNat, 116] :=
    unpackBits_pack [(36, 0), (6, a.toNat), (6, 0), (3, h.pred.toNat), (1, h.neg.toNat), (4, h.stall.toNat), (8, 0x74)] ⟨by decide, a.isLt, by decide, h.pred.isLt, h.neg.isLt, h.stall.isLt, by decide, trivial⟩
  unfold decOp74
  rw [u]
  show (some (Instr.symw ⟨BitVec.ofNat 4 h.stall.toNat, BitVec.ofNat 1 h.neg.toNat, BitVec.ofNat 3 h.pred.toNat⟩ (BitVec.ofNat 6 a.toNat))) = _
  simp only [BitVec.ofNat_toNat, BitVec.setWidth_eq]
theorem symq (h : Hdr) (pd : BitVec 3) (a : BitVec 6) : Statement (.symq h pd a) := by
  intro _ hw w1
  refine decode_of_raw (w1 := w1) (by show fieldWidth [(36, 0), (6, a.toNat), (3, pd.toNat), (3, 0), (3, h.pred.toNat), (1, h.neg.toNat), (4, h.stall.toNat), (8, 0x75)] = 64; simp only [fieldWidth]) ?_ hw
  rw [show Instr.fields (.symq h pd a) = [(36, 0), (6, a.toNat), (3, pd.toNat), (3, 0), (3, h.pred.toNat), (1, h.neg.toNat), (4, h.stall.toNat)] ++ [(8, 0x75)] from rfl]
  obtain ⟨e1, e2⟩ := nibbles [(36, 0), (6, a.toNat), (3, pd.toNat), (3, 0), (3, h.pred.toNat), (1, h.neg.toNat), (4, h.stall.toNat)] 0x75 7 5 (by simp only [fieldWidth]) rfl rfl
  rw [decodeRaw_hi7 _ _ e1, decHi7_5 _ _ _ e2]
  have u : unpackBits [36, 6, 3, 3, 3, 1, 4, 8] (packBits ([(36, 0), (6, a.toNat), (3, pd.toNat), (3, 0), (3, h.pred.toNat), (1, h.neg.toNat), (4, h.stall.toNat)] ++ [(8, 0x75)])) = [0, a.toNat, pd.toNat, 0, h.pred.toNat, h.neg.toNat, h.stall.toNat, 117] :=
    unpackBits_pack [(36, 0), (6, a.toNat), (3, pd.toNat), (3, 0), (3, h.pred.toNat), (1, h.neg.toNat), (4, h.stall.toNat), (8, 0x75)] ⟨by decide, a.isLt, pd.isLt, by decide, h.pred.isLt, h.neg.isLt, h.stall.isLt, by decide, trivial⟩
  unfold decOp75
  rw [u]
  show (some (Instr.symq ⟨BitVec.ofNat 4 h.stall.toNat, BitVec.ofNat 1 h.neg.toNat, BitVec.ofNat 3 h.pred.toNat⟩ (BitVec.ofNat 3 pd.toNat) (BitVec.ofNat 6 a.toNat))) = _
  simp only [BitVec.ofNat_toNat, BitVec.setWidth_eq]
theorem symqPoi (h : Hdr) (pd : BitVec 3) (a : BitVec 6) : Statement (.symqPoi h pd a) := by
  intro _ hw w1
  refine decode_of_raw (w1 := w1) (by show fieldWidth [(36, 16777216), (6, a.toNat), (3, pd.toNat), (3, 0), (3, h.pred.toNat), (1, h.neg.toNat), (4, h.stall.toNat), (8, 0x75)] = 64; simp only [fieldWidth]) ?_ hw
  rw [show Instr.fields (.symqPoi h pd a) = [(36, 16777216), (6, a.toNat), (3, pd.toNat), (3, 0), (3, h.pred.toNat), (1, h.neg.toNat), (4, h.stall.toNat)] ++ [(8, 0x75)] from rfl]
  obtain ⟨e1, e2⟩ := nibbles [(36, 16777216), (6, a.toNat), (3, pd.toNat), (3, 0), (3, h.pred.toNat), (1, h.neg.toNat), (4, h.stall.toNat)] 0x75 7 5 (by simp only [fieldWidth]) rfl rfl
  rw [decodeRaw_hi7 _ _ e1, decHi7_5 _ _ _ e2]
  have u : unpackBits [36, 6, 3, 3, 3, 1, 4, 8] (packBits ([(36, 16777216), (6, a.toNat), (3, pd.toNat), (3, 0), (3, h.pred.toNat), (1, h.neg.toNat), (4, h.stall.toNat)] ++ [(8, 0x75)])) = [16777216, a.toNat, pd.toNat, 0, h.pred.toNat, h.neg.toNat, h.stall.toNat, 117] :=
    unpackBits_pack [(36, 16777216), (6, a.toNat), (3, pd.toNat), (3, 0), (3, h.pred.toNat), (1, h.neg.toNat), (4, h.stall.toNat), (8, 0x75)] ⟨by decide, a.isLt, pd.isLt, by decide, h.pred.isLt, h.neg.isLt, h.stall.isLt, by decide, trivial⟩
  unfold decOp75
  rw [u]
  show (some (Instr.symqPoi ⟨BitVec.ofNat 4 h.stall.toNat, BitVec.ofNat 1 h.neg.toNat, BitVec.ofNat 3 h.pred.toNat⟩ (BitVec.ofNat 3 pd.toNat) (BitVec.ofNat 6 a.toNat))) = _
  simp only [BitVec.ofNat_toNat, BitVec.setWidth_eq]
theorem symx (h : Hdr) (d a b : BitVec 6) : Statement (.symx h d a b) := by
  intro _ hw w1
  refine decode_of_raw (w1 := w1) (by show fieldWidth [(30, 0), (6, b.toNat), (6, a.toNat), (6, d.toNat), (3, h.pred.toNat), (1, h.neg.toNat), (4, h.stall.toNat), (8, 0x76)] = 64; simp only [fieldWidth]) ?_ hw
  rw [show Instr.fields (.symx h d a b) = [(30, 0), (6, b.toNat), (6, a.toNat), (6, d.toNat), (3, h.pred.toNat), (1, h.neg.toNat), (4, h.stall.toNat)] ++ [(8, 0x76)] from rfl]
  obtain ⟨e1, e2⟩ := nibbles [(30, 0), (6, b.toNat), (6, a.toNat), (6, d.toNat), (3, h.pred.toNat), (1, h.neg.toNat), (4, h.stall.toNat)] 0x76 7 6 (by simp only [fieldWidth]) rfl rfl
  rw [decodeRaw_hi7 _ _ e1, decHi7_6 _ _ _ e2]
  have u : unpackBits [30, 6, 6, 6, 3, 1, 4, 8] (packBits ([(30, 0), (6, b.toNat), (6, a.toNat), (6, d.toNat), (3, h.pred.toNat), (1, h.neg.toNat), (4, h.stall.toNat)] ++ [(8, 0x76)])) = [0, b.toNat, a.toNat, d.toNat, h.pred.toNat, h.neg.toNat, h.stall.toNat, 118] :=
    unpackBits_pack [(30, 0), (6, b.toNat), (6, a.toNat), (6, d.toNat), (3, h.pred.toNat), (1, h.neg.toNat), (4, h.stall.toNat), (8, 0x76)] ⟨by decide, b.isLt, a.isLt, d.isLt, h.pred.isLt, h.neg.isLt, h.stall.isLt, by decide, trivial⟩
  unfold decOp76
  rw [u]
  show (some (Instr.symx ⟨BitVec.ofNat 4 h.stall.toNat, BitVec.ofNat 1 h.neg.toNat, BitVec.ofNat 3 h.pred.toNat⟩ (BitVec.ofNat 6 d.toNat) (BitVec.ofNat 6 a.toNat) (BitVec.ofNat 6 b.toNat))) = _
  simp only [BitVec.ofNat_toNat, BitVec.setWidth_eq]
theorem wmpub (h : Hdr) (b c : BitVec 6) : Statement (.wmpub h b c) := by
  intro _ hw w1
  refine decode_of_raw (w1 := w1) (by show fieldWidth [(30, 0), (6, c.toNat), (6, b.toNat), (6, 0), (3, h.pred.toNat), (1, h.neg.toNat), (4, h.stall.toNat), (8, 0x77)] = 64; simp only [fieldWidth]) ?_ hw
  rw [show Instr.fields (.wmpub h b c) = [(30, 0), (6, c.toNat), (6, b.toNat), (6, 0), (3, h.pred.toNat), (1, h.neg.toNat), (4, h.stall.toNat)] ++ [(8, 0x77)] from rfl]
  obtain ⟨e1, e2⟩ := nibbles [(30, 0), (6, c.toNat), (6, b.toNat), (6, 0), (3, h.pred.toNat), (1, h.neg.toNat), (4, h.stall.toNat)] 0x77 7 7 (by simp only [fieldWidth]) rfl rfl
  rw [decodeRaw_hi7 _ _ e1, decHi7_7 _ _ _ e2]
  have u : unpackBits [30, 6, 6, 6, 3, 1, 4, 8] (packBits ([(30, 0), (6, c.toNat), (6, b.toNat), (6, 0), (3, h.pred.toNat), (1, h.neg.toNat), (4, h.stall.toNat)] ++ [(8, 0x77)])) = [0, c.toNat, b.toNat, 0, h.pred.toNat, h.neg.toNat, h.stall.toNat, 119] :=
    unpackBits_pack [(30, 0), (6, c.toNat), (6, b.toNat), (6, 0), (3, h.pred.toNat), (1, h.neg.toNat), (4, h.stall.toNat), (8, 0x77)] ⟨by decide, c.isLt, b.isLt, by decide, h.pred.isLt, h.neg.isLt, h.stall.isLt, by decide, trivial⟩
  unfold decOp77
  rw [u]
  show (some (Instr.wmpub ⟨BitVec.ofNat 4 h.stall.toNat, BitVec.ofNat 1 h.neg.toNat, BitVec.ofNat 3 h.pred.toNat⟩ (BitVec.ofNat 6 b.toNat) (BitVec.ofNat 6 c.toNat))) = _
  simp only [BitVec.ofNat_toNat, BitVec.setWidth_eq]
theorem wmpubGen (h : Hdr) (b c : BitVec 6) : Statement (.wmpubGen h b c) := by
  intro _ hw w1
  refine decode_of_raw (w1 := w1) (by show fieldWidth [(30, 16777216), (6, c.toNat), (6, b.toNat), (6, 0), (3, h.pred.toNat), (1, h.neg.toNat), (4, h.stall.toNat), (8, 0x77)] = 64; simp only [fieldWidth]) ?_ hw
  rw [show Instr.fields (.wmpubGen h b c) = [(30, 16777216), (6, c.toNat), (6, b.toNat), (6, 0), (3, h.pred.toNat), (1, h.neg.toNat), (4, h.stall.toNat)] ++ [(8, 0x77)] from rfl]
  obtain ⟨e1, e2⟩ := nibbles [(30, 16777216), (6, c.toNat), (6, b.toNat), (6, 0), (3, h.pred.toNat), (1, h.neg.toNat), (4, h.stall.toNat)] 0x77 7 7 (by simp only [fieldWidth]) rfl rfl
  rw [decodeRaw_hi7 _ _ e1, decHi7_7 _ _ _ e2]
  have u : unpackBits [30, 6, 6, 6, 3, 1, 4, 8] (packBits ([(30, 16777216), (6, c.toNat), (6, b.toNat), (6, 0), (3, h.pred.toNat), (1, h.neg.toNat), (4, h.stall.toNat)] ++ [(8, 0x77)])) = [16777216, c.toNat, b.toNat, 0, h.pred.toNat, h.neg.toNat, h.stall.toNat, 119] :=
    unpackBits_pack [(30, 16777216), (6, c.toNat), (6, b.toNat), (6, 0), (3, h.pred.toNat), (1, h.neg.toNat), (4, h.stall.toNat), (8, 0x77)] ⟨by decide, c.isLt, b.isLt, by decide, h.pred.isLt, h.neg.isLt, h.stall.isLt, by decide, trivial⟩
  unfold decOp77
  rw [u]
  show (some (Instr.wmpubGen ⟨BitVec.ofNat 4 h.stall.toNat, BitVec.ofNat 1 h.neg.toNat, BitVec.ofNat 3 h.pred.toNat⟩ (BitVec.ofNat 6 b.toNat) (BitVec.ofNat 6 c.toNat))) = _
  simp only [BitVec.ofNat_toNat, BitVec.setWidth_eq]
theorem wmset (h : Hdr) (a b c : BitVec 6) (k : BitVec 2) : Statement (.wmset h a b c k) := by
  intro _ hw w1
  refine decode_of_raw (w1 := w1) (by show fieldWidth [(2, k.toNat), (28, 0), (6, c.toNat), (6, b.toNat), (6, a.toNat), (3, h.pred.toNat), (1, h.neg.toNat), (4, h.stall.toNat), (8, 0x78)] = 64; simp only [fieldWidth]) ?_ hw
  rw [show Instr.fields (.wmset h a b c k) = [(2, k.toNat), (28, 0), (6, c.toNat), (6, b.toNat), (6, a.toNat), (3, h.pred.toNat), (1, h.neg.toNat), (4, h.stall.toNat)] ++ [(8, 0x78)] from rfl]
  obtain ⟨e1, e2⟩ := nibbles [(2, k.toNat), (28, 0), (6, c.toNat), (6, b.toNat), (6, a.toNat), (3, h.pred.toNat), (1, h.neg.toNat), (4, h.stall.toNat)] 0x78 7 8 (by simp only [fieldWidth]) rfl rfl
  rw [decodeRaw_hi7 _ _ e1, decHi7_8 _ _ _ e2]
  have u : unpackBits [2, 28, 6, 6, 6, 3, 1, 4, 8] (packBits ([(2, k.toNat), (28, 0), (6, c.toNat), (6, b.toNat), (6, a.toNat), (3, h.pred.toNat), (1, h.neg.toNat), (4, h.stall.toNat)] ++ [(8, 0x78)])) = [k.toNat, 0, c.toNat, b.toNat, a.toNat, h.pred.toNat, h.neg.toNat, h.stall.toNat, 120] :=
    unpackBits_pack [(2, k.toNat), (28, 0), (6, c.toNat), (6, b.toNat), (6, a.toNat), (3, h.pred.toNat), (1, h.neg.toNat), (4, h.stall.toNat), (8, 0x78)] ⟨k.isLt, by decide, c.isLt, b.isLt, a.isLt, h.pred.isLt, h.neg.isLt, h.stall.isLt, by decide, trivial⟩
  unfold decOp78
  rw [u]
  show (some (Instr.wmset ⟨BitVec.ofNat 4 h.stall.toNat, BitVec.ofNat 1 h.neg.toNat, BitVec.ofNat 3 h.pred.toNat⟩ (BitVec.ofNat 6 a.toNat) (BitVec.ofNat 6 b.toNat) (BitVec.ofNat 6 c.toNat) (BitVec.ofNat 2 k.toNat))) = _
  simp only [BitVec.ofNat_toNat, BitVec.setWidth_eq]
theorem qwait (h : Hdr) (a b c : BitVec 6) : Statement (.qwait h a b c) := by
  intro _ hw w1
  refine decode_of_raw (w1 := w1) (by show fieldWidth [(30, 0), (6, c.toNat), (6, b.toNat), (6, a.toNat), (3, h.pred.toNat), (1, h.neg.toNat), (4, h.stall.toNat), (8, 0x79)] = 64; simp only [fieldWidth]) ?_ hw
  rw [show Instr.fields (.qwait h a b c) = [(30, 0), (6, c.toNat), (6, b.toNat), (6, a.toNat), (3, h.pred.toNat), (1, h.neg.toNat), (4, h.stall.toNat)] ++ [(8, 0x79)] from rfl]
  obtain ⟨e1, e2⟩ := nibbles [(30, 0), (6, c.toNat), (6, b.toNat), (6, a.toNat), (3, h.pred.toNat), (1, h.neg.toNat), (4, h.stall.toNat)] 0x79 7 9 (by simp only [fieldWidth]) rfl rfl
  rw [decodeRaw_hi7 _ _ e1, decHi7_9 _ _ _ e2]
  have u : unpackBits [30, 6, 6, 6, 3, 1, 4, 8] (packBits ([(30, 0), (6, c.toNat), (6, b.toNat), (6, a.toNat), (3, h.pred.toNat), (1, h.neg.toNat), (4, h.stall.toNat)] ++ [(8, 0x79)])) = [0, c.toNat, b.toNat, a.toNat, h.pred.toNat, h.neg.toNat, h.stall.toNat, 121] :=
    unpackBits_pack [(30, 0), (6, c.toNat), (6, b.toNat), (6, a.toNat), (3, h.pred.toNat), (1, h.neg.toNat), (4, h.stall.toNat), (8, 0x79)] ⟨by decide, c.isLt, b.isLt, a.isLt, h.pred.isLt, h.neg.isLt, h.stall.isLt, by decide, trivial⟩
  unfold decOp79
  rw [u]
  show (some (Instr.qwait ⟨BitVec.ofNat 4 h.stall.toNat, BitVec.ofNat 1 h.neg.toNat, BitVec.ofNat 3 h.pred.toNat⟩ (BitVec.ofNat 6 a.toNat) (BitVec.ofNat 6 b.toNat) (BitVec.ofNat 6 c.toNat))) = _
  simp only [BitVec.ofNat_toNat, BitVec.setWidth_eq]
theorem qtake (h : Hdr) (a b c : BitVec 6) : Statement (.qtake h a b c) := by
  intro _ hw w1
  refine decode_of_raw (w1 := w1) (by show fieldWidth [(30, 0), (6, c.toNat), (6, b.toNat), (6, a.toNat), (3, h.pred.toNat), (1, h.neg.toNat), (4, h.stall.toNat), (8, 0x7a)] = 64; simp only [fieldWidth]) ?_ hw
  rw [show Instr.fields (.qtake h a b c) = [(30, 0), (6, c.toNat), (6, b.toNat), (6, a.toNat), (3, h.pred.toNat), (1, h.neg.toNat), (4, h.stall.toNat)] ++ [(8, 0x7A)] from rfl]
  obtain ⟨e1, e2⟩ := nibbles [(30, 0), (6, c.toNat), (6, b.toNat), (6, a.toNat), (3, h.pred.toNat), (1, h.neg.toNat), (4, h.stall.toNat)] 0x7A 7 10 (by simp only [fieldWidth]) rfl rfl
  rw [decodeRaw_hi7 _ _ e1, decHi7_A _ _ _ e2]
  have u : unpackBits [30, 6, 6, 6, 3, 1, 4, 8] (packBits ([(30, 0), (6, c.toNat), (6, b.toNat), (6, a.toNat), (3, h.pred.toNat), (1, h.neg.toNat), (4, h.stall.toNat)] ++ [(8, 0x7A)])) = [0, c.toNat, b.toNat, a.toNat, h.pred.toNat, h.neg.toNat, h.stall.toNat, 122] :=
    unpackBits_pack [(30, 0), (6, c.toNat), (6, b.toNat), (6, a.toNat), (3, h.pred.toNat), (1, h.neg.toNat), (4, h.stall.toNat), (8, 0x7a)] ⟨by decide, c.isLt, b.isLt, a.isLt, h.pred.isLt, h.neg.isLt, h.stall.isLt, by decide, trivial⟩
  unfold decOp7A
  rw [u]
  show (some (Instr.qtake ⟨BitVec.ofNat 4 h.stall.toNat, BitVec.ofNat 1 h.neg.toNat, BitVec.ofNat 3 h.pred.toNat⟩ (BitVec.ofNat 6 a.toNat) (BitVec.ofNat 6 b.toNat) (BitVec.ofNat 6 c.toNat))) = _
  simp only [BitVec.ofNat_toNat, BitVec.setWidth_eq]
theorem launch (h : Hdr) (d a b : BitVec 6) : Statement (.launch h d a b) := by
  intro _ hw w1
  refine decode_of_raw (w1 := w1) (by show fieldWidth [(30, 0), (6, b.toNat), (6, a.toNat), (6, d.toNat), (3, h.pred.toNat), (1, h.neg.toNat), (4, h.stall.toNat), (8, 0x7b)] = 64; simp only [fieldWidth]) ?_ hw
  rw [show Instr.fields (.launch h d a b) = [(30, 0), (6, b.toNat), (6, a.toNat), (6, d.toNat), (3, h.pred.toNat), (1, h.neg.toNat), (4, h.stall.toNat)] ++ [(8, 0x7B)] from rfl]
  obtain ⟨e1, e2⟩ := nibbles [(30, 0), (6, b.toNat), (6, a.toNat), (6, d.toNat), (3, h.pred.toNat), (1, h.neg.toNat), (4, h.stall.toNat)] 0x7B 7 11 (by simp only [fieldWidth]) rfl rfl
  rw [decodeRaw_hi7 _ _ e1, decHi7_B _ _ _ e2]
  have u : unpackBits [30, 6, 6, 6, 3, 1, 4, 8] (packBits ([(30, 0), (6, b.toNat), (6, a.toNat), (6, d.toNat), (3, h.pred.toNat), (1, h.neg.toNat), (4, h.stall.toNat)] ++ [(8, 0x7B)])) = [0, b.toNat, a.toNat, d.toNat, h.pred.toNat, h.neg.toNat, h.stall.toNat, 123] :=
    unpackBits_pack [(30, 0), (6, b.toNat), (6, a.toNat), (6, d.toNat), (3, h.pred.toNat), (1, h.neg.toNat), (4, h.stall.toNat), (8, 0x7b)] ⟨by decide, b.isLt, a.isLt, d.isLt, h.pred.isLt, h.neg.isLt, h.stall.isLt, by decide, trivial⟩
  unfold decOp7B
  rw [u]
  show (some (Instr.launch ⟨BitVec.ofNat 4 h.stall.toNat, BitVec.ofNat 1 h.neg.toNat, BitVec.ofNat 3 h.pred.toNat⟩ (BitVec.ofNat 6 d.toNat) (BitVec.ofNat 6 a.toNat) (BitVec.ofNat 6 b.toNat))) = _
  simp only [BitVec.ofNat_toNat, BitVec.setWidth_eq]
theorem lwait (h : Hdr) (d a : BitVec 6) : Statement (.lwait h d a) := by
  intro _ hw w1
  refine decode_of_raw (w1 := w1) (by show fieldWidth [(36, 0), (6, a.toNat), (6, d.toNat), (3, h.pred.toNat), (1, h.neg.toNat), (4, h.stall.toNat), (8, 0x7c)] = 64; simp only [fieldWidth]) ?_ hw
  rw [show Instr.fields (.lwait h d a) = [(36, 0), (6, a.toNat), (6, d.toNat), (3, h.pred.toNat), (1, h.neg.toNat), (4, h.stall.toNat)] ++ [(8, 0x7C)] from rfl]
  obtain ⟨e1, e2⟩ := nibbles [(36, 0), (6, a.toNat), (6, d.toNat), (3, h.pred.toNat), (1, h.neg.toNat), (4, h.stall.toNat)] 0x7C 7 12 (by simp only [fieldWidth]) rfl rfl
  rw [decodeRaw_hi7 _ _ e1, decHi7_C _ _ _ e2]
  have u : unpackBits [36, 6, 6, 3, 1, 4, 8] (packBits ([(36, 0), (6, a.toNat), (6, d.toNat), (3, h.pred.toNat), (1, h.neg.toNat), (4, h.stall.toNat)] ++ [(8, 0x7C)])) = [0, a.toNat, d.toNat, h.pred.toNat, h.neg.toNat, h.stall.toNat, 124] :=
    unpackBits_pack [(36, 0), (6, a.toNat), (6, d.toNat), (3, h.pred.toNat), (1, h.neg.toNat), (4, h.stall.toNat), (8, 0x7c)] ⟨by decide, a.isLt, d.isLt, h.pred.isLt, h.neg.isLt, h.stall.isLt, by decide, trivial⟩
  unfold decOp7C
  rw [u]
  show (some (Instr.lwait ⟨BitVec.ofNat 4 h.stall.toNat, BitVec.ofNat 1 h.neg.toNat, BitVec.ofNat 3 h.pred.toNat⟩ (BitVec.ofNat 6 d.toNat) (BitVec.ofNat 6 a.toNat))) = _
  simp only [BitVec.ofNat_toNat, BitVec.setWidth_eq]
theorem lwaitTest (h : Hdr) (d a : BitVec 6) : Statement (.lwaitTest h d a) := by
  intro _ hw w1
  refine decode_of_raw (w1 := w1) (by show fieldWidth [(36, 16777216), (6, a.toNat), (6, d.toNat), (3, h.pred.toNat), (1, h.neg.toNat), (4, h.stall.toNat), (8, 0x7c)] = 64; simp only [fieldWidth]) ?_ hw
  rw [show Instr.fields (.lwaitTest h d a) = [(36, 16777216), (6, a.toNat), (6, d.toNat), (3, h.pred.toNat), (1, h.neg.toNat), (4, h.stall.toNat)] ++ [(8, 0x7C)] from rfl]
  obtain ⟨e1, e2⟩ := nibbles [(36, 16777216), (6, a.toNat), (6, d.toNat), (3, h.pred.toNat), (1, h.neg.toNat), (4, h.stall.toNat)] 0x7C 7 12 (by simp only [fieldWidth]) rfl rfl
  rw [decodeRaw_hi7 _ _ e1, decHi7_C _ _ _ e2]
  have u : unpackBits [36, 6, 6, 3, 1, 4, 8] (packBits ([(36, 16777216), (6, a.toNat), (6, d.toNat), (3, h.pred.toNat), (1, h.neg.toNat), (4, h.stall.toNat)] ++ [(8, 0x7C)])) = [16777216, a.toNat, d.toNat, h.pred.toNat, h.neg.toNat, h.stall.toNat, 124] :=
    unpackBits_pack [(36, 16777216), (6, a.toNat), (6, d.toNat), (3, h.pred.toNat), (1, h.neg.toNat), (4, h.stall.toNat), (8, 0x7c)] ⟨by decide, a.isLt, d.isLt, h.pred.isLt, h.neg.isLt, h.stall.isLt, by decide, trivial⟩
  unfold decOp7C
  rw [u]
  show (some (Instr.lwaitTest ⟨BitVec.ofNat 4 h.stall.toNat, BitVec.ofNat 1 h.neg.toNat, BitVec.ofNat 3 h.pred.toNat⟩ (BitVec.ofNat 6 d.toNat) (BitVec.ofNat 6 a.toNat))) = _
  simp only [BitVec.ofNat_toNat, BitVec.setWidth_eq]
theorem prioGet (h : Hdr) (d a : BitVec 6) : Statement (.prioGet h d a) := by
  intro _ hw w1
  refine decode_of_raw (w1 := w1) (by show fieldWidth [(30, 0), (6, 0), (6, a.toNat), (6, d.toNat), (3, h.pred.toNat), (1, h.neg.toNat), (4, h.stall.toNat), (8, 0x7d)] = 64; simp only [fieldWidth]) ?_ hw
  rw [show Instr.fields (.prioGet h d a) = [(30, 0), (6, 0), (6, a.toNat), (6, d.toNat), (3, h.pred.toNat), (1, h.neg.toNat), (4, h.stall.toNat)] ++ [(8, 0x7D)] from rfl]
  obtain ⟨e1, e2⟩ := nibbles [(30, 0), (6, 0), (6, a.toNat), (6, d.toNat), (3, h.pred.toNat), (1, h.neg.toNat), (4, h.stall.toNat)] 0x7D 7 13 (by simp only [fieldWidth]) rfl rfl
  rw [decodeRaw_hi7 _ _ e1, decHi7_D _ _ _ e2]
  have u : unpackBits [30, 6, 6, 6, 3, 1, 4, 8] (packBits ([(30, 0), (6, 0), (6, a.toNat), (6, d.toNat), (3, h.pred.toNat), (1, h.neg.toNat), (4, h.stall.toNat)] ++ [(8, 0x7D)])) = [0, 0, a.toNat, d.toNat, h.pred.toNat, h.neg.toNat, h.stall.toNat, 125] :=
    unpackBits_pack [(30, 0), (6, 0), (6, a.toNat), (6, d.toNat), (3, h.pred.toNat), (1, h.neg.toNat), (4, h.stall.toNat), (8, 0x7d)] ⟨by decide, by decide, a.isLt, d.isLt, h.pred.isLt, h.neg.isLt, h.stall.isLt, by decide, trivial⟩
  unfold decOp7D
  rw [u]
  show (some (Instr.prioGet ⟨BitVec.ofNat 4 h.stall.toNat, BitVec.ofNat 1 h.neg.toNat, BitVec.ofNat 3 h.pred.toNat⟩ (BitVec.ofNat 6 d.toNat) (BitVec.ofNat 6 a.toNat))) = _
  simp only [BitVec.ofNat_toNat, BitVec.setWidth_eq]
theorem prioSet (h : Hdr) (d a b : BitVec 6) : Statement (.prioSet h d a b) := by
  intro _ hw w1
  refine decode_of_raw (w1 := w1) (by show fieldWidth [(30, 16777216), (6, b.toNat), (6, a.toNat), (6, d.toNat), (3, h.pred.toNat), (1, h.neg.toNat), (4, h.stall.toNat), (8, 0x7d)] = 64; simp only [fieldWidth]) ?_ hw
  rw [show Instr.fields (.prioSet h d a b) = [(30, 16777216), (6, b.toNat), (6, a.toNat), (6, d.toNat), (3, h.pred.toNat), (1, h.neg.toNat), (4, h.stall.toNat)] ++ [(8, 0x7D)] from rfl]
  obtain ⟨e1, e2⟩ := nibbles [(30, 16777216), (6, b.toNat), (6, a.toNat), (6, d.toNat), (3, h.pred.toNat), (1, h.neg.toNat), (4, h.stall.toNat)] 0x7D 7 13 (by simp only [fieldWidth]) rfl rfl
  rw [decodeRaw_hi7 _ _ e1, decHi7_D _ _ _ e2]
  have u : unpackBits [30, 6, 6, 6, 3, 1, 4, 8] (packBits ([(30, 16777216), (6, b.toNat), (6, a.toNat), (6, d.toNat), (3, h.pred.toNat), (1, h.neg.toNat), (4, h.stall.toNat)] ++ [(8, 0x7D)])) = [16777216, b.toNat, a.toNat, d.toNat, h.pred.toNat, h.neg.toNat, h.stall.toNat, 125] :=
    unpackBits_pack [(30, 16777216), (6, b.toNat), (6, a.toNat), (6, d.toNat), (3, h.pred.toNat), (1, h.neg.toNat), (4, h.stall.toNat), (8, 0x7d)] ⟨by decide, b.isLt, a.isLt, d.isLt, h.pred.isLt, h.neg.isLt, h.stall.isLt, by decide, trivial⟩
  unfold decOp7D
  rw [u]
  show (some (Instr.prioSet ⟨BitVec.ofNat 4 h.stall.toNat, BitVec.ofNat 1 h.neg.toNat, BitVec.ofNat 3 h.pred.toNat⟩ (BitVec.ofNat 6 d.toNat) (BitVec.ofNat 6 a.toNat) (BitVec.ofNat 6 b.toNat))) = _
  simp only [BitVec.ofNat_toNat, BitVec.setWidth_eq]
theorem prioPend (h : Hdr) (d : BitVec 6) : Statement (.prioPend h d) := by
  intro _ hw w1
  refine decode_of_raw (w1 := w1) (by show fieldWidth [(30, 33554432), (6, 0), (6, 0), (6, d.toNat), (3, h.pred.toNat), (1, h.neg.toNat), (4, h.stall.toNat), (8, 0x7d)] = 64; simp only [fieldWidth]) ?_ hw
  rw [show Instr.fields (.prioPend h d) = [(30, 33554432), (6, 0), (6, 0), (6, d.toNat), (3, h.pred.toNat), (1, h.neg.toNat), (4, h.stall.toNat)] ++ [(8, 0x7D)] from rfl]
  obtain ⟨e1, e2⟩ := nibbles [(30, 33554432), (6, 0), (6, 0), (6, d.toNat), (3, h.pred.toNat), (1, h.neg.toNat), (4, h.stall.toNat)] 0x7D 7 13 (by simp only [fieldWidth]) rfl rfl
  rw [decodeRaw_hi7 _ _ e1, decHi7_D _ _ _ e2]
  have u : unpackBits [30, 6, 6, 6, 3, 1, 4, 8] (packBits ([(30, 33554432), (6, 0), (6, 0), (6, d.toNat), (3, h.pred.toNat), (1, h.neg.toNat), (4, h.stall.toNat)] ++ [(8, 0x7D)])) = [33554432, 0, 0, d.toNat, h.pred.toNat, h.neg.toNat, h.stall.toNat, 125] :=
    unpackBits_pack [(30, 33554432), (6, 0), (6, 0), (6, d.toNat), (3, h.pred.toNat), (1, h.neg.toNat), (4, h.stall.toNat), (8, 0x7d)] ⟨by decide, by decide, by decide, d.isLt, h.pred.isLt, h.neg.isLt, h.stall.isLt, by decide, trivial⟩
  unfold decOp7D
  rw [u]
  show (some (Instr.prioPend ⟨BitVec.ofNat 4 h.stall.toNat, BitVec.ofNat 1 h.neg.toNat, BitVec.ofNat 3 h.pred.toNat⟩ (BitVec.ofNat 6 d.toNat))) = _
  simp only [BitVec.ofNat_toNat, BitVec.setWidth_eq]
theorem prioCeil (h : Hdr) (d a b : BitVec 6) : Statement (.prioCeil h d a b) := by
  intro _ hw w1
  refine decode_of_raw (w1 := w1) (by show fieldWidth [(30, 50331648), (6, b.toNat), (6, a.toNat), (6, d.toNat), (3, h.pred.toNat), (1, h.neg.toNat), (4, h.stall.toNat), (8, 0x7d)] = 64; simp only [fieldWidth]) ?_ hw
  rw [show Instr.fields (.prioCeil h d a b) = [(30, 50331648), (6, b.toNat), (6, a.toNat), (6, d.toNat), (3, h.pred.toNat), (1, h.neg.toNat), (4, h.stall.toNat)] ++ [(8, 0x7D)] from rfl]
  obtain ⟨e1, e2⟩ := nibbles [(30, 50331648), (6, b.toNat), (6, a.toNat), (6, d.toNat), (3, h.pred.toNat), (1, h.neg.toNat), (4, h.stall.toNat)] 0x7D 7 13 (by simp only [fieldWidth]) rfl rfl
  rw [decodeRaw_hi7 _ _ e1, decHi7_D _ _ _ e2]
  have u : unpackBits [30, 6, 6, 6, 3, 1, 4, 8] (packBits ([(30, 50331648), (6, b.toNat), (6, a.toNat), (6, d.toNat), (3, h.pred.toNat), (1, h.neg.toNat), (4, h.stall.toNat)] ++ [(8, 0x7D)])) = [50331648, b.toNat, a.toNat, d.toNat, h.pred.toNat, h.neg.toNat, h.stall.toNat, 125] :=
    unpackBits_pack [(30, 50331648), (6, b.toNat), (6, a.toNat), (6, d.toNat), (3, h.pred.toNat), (1, h.neg.toNat), (4, h.stall.toNat), (8, 0x7d)] ⟨by decide, b.isLt, a.isLt, d.isLt, h.pred.isLt, h.neg.isLt, h.stall.isLt, by decide, trivial⟩
  unfold decOp7D
  rw [u]
  show (some (Instr.prioCeil ⟨BitVec.ofNat 4 h.stall.toNat, BitVec.ofNat 1 h.neg.toNat, BitVec.ofNat 3 h.pred.toNat⟩ (BitVec.ofNat 6 d.toNat) (BitVec.ofNat 6 a.toNat) (BitVec.ofNat 6 b.toNat))) = _
  simp only [BitVec.ofNat_toNat, BitVec.setWidth_eq]
theorem prioWake (h : Hdr) (d a : BitVec 6) : Statement (.prioWake h d a) := by
  intro _ hw w1
  refine decode_of_raw (w1 := w1) (by show fieldWidth [(30, 67108864), (6, 0), (6, a.toNat), (6, d.toNat), (3, h.pred.toNat), (1, h.neg.toNat), (4, h.stall.toNat), (8, 0x7d)] = 64; simp only [fieldWidth]) ?_ hw
  rw [show Instr.fields (.prioWake h d a) = [(30, 67108864), (6, 0), (6, a.toNat), (6, d.toNat), (3, h.pred.toNat), (1, h.neg.toNat), (4, h.stall.toNat)] ++ [(8, 0x7D)] from rfl]
  obtain ⟨e1, e2⟩ := nibbles [(30, 67108864), (6, 0), (6, a.toNat), (6, d.toNat), (3, h.pred.toNat), (1, h.neg.toNat), (4, h.stall.toNat)] 0x7D 7 13 (by simp only [fieldWidth]) rfl rfl
  rw [decodeRaw_hi7 _ _ e1, decHi7_D _ _ _ e2]
  have u : unpackBits [30, 6, 6, 6, 3, 1, 4, 8] (packBits ([(30, 67108864), (6, 0), (6, a.toNat), (6, d.toNat), (3, h.pred.toNat), (1, h.neg.toNat), (4, h.stall.toNat)] ++ [(8, 0x7D)])) = [67108864, 0, a.toNat, d.toNat, h.pred.toNat, h.neg.toNat, h.stall.toNat, 125] :=
    unpackBits_pack [(30, 67108864), (6, 0), (6, a.toNat), (6, d.toNat), (3, h.pred.toNat), (1, h.neg.toNat), (4, h.stall.toNat), (8, 0x7d)] ⟨by decide, by decide, a.isLt, d.isLt, h.pred.isLt, h.neg.isLt, h.stall.isLt, by decide, trivial⟩
  unfold decOp7D
  rw [u]
  show (some (Instr.prioWake ⟨BitVec.ofNat 4 h.stall.toNat, BitVec.ofNat 1 h.neg.toNat, BitVec.ofNat 3 h.pred.toNat⟩ (BitVec.ofNat 6 d.toNat) (BitVec.ofNat 6 a.toNat))) = _
  simp only [BitVec.ofNat_toNat, BitVec.setWidth_eq]
theorem prioKill (h : Hdr) (d a : BitVec 6) : Statement (.prioKill h d a) := by
  intro _ hw w1
  refine decode_of_raw (w1 := w1) (by show fieldWidth [(30, 83886080), (6, 0), (6, a.toNat), (6, d.toNat), (3, h.pred.toNat), (1, h.neg.toNat), (4, h.stall.toNat), (8, 0x7d)] = 64; simp only [fieldWidth]) ?_ hw
  rw [show Instr.fields (.prioKill h d a) = [(30, 83886080), (6, 0), (6, a.toNat), (6, d.toNat), (3, h.pred.toNat), (1, h.neg.toNat), (4, h.stall.toNat)] ++ [(8, 0x7D)] from rfl]
  obtain ⟨e1, e2⟩ := nibbles [(30, 83886080), (6, 0), (6, a.toNat), (6, d.toNat), (3, h.pred.toNat), (1, h.neg.toNat), (4, h.stall.toNat)] 0x7D 7 13 (by simp only [fieldWidth]) rfl rfl
  rw [decodeRaw_hi7 _ _ e1, decHi7_D _ _ _ e2]
  have u : unpackBits [30, 6, 6, 6, 3, 1, 4, 8] (packBits ([(30, 83886080), (6, 0), (6, a.toNat), (6, d.toNat), (3, h.pred.toNat), (1, h.neg.toNat), (4, h.stall.toNat)] ++ [(8, 0x7D)])) = [83886080, 0, a.toNat, d.toNat, h.pred.toNat, h.neg.toNat, h.stall.toNat, 125] :=
    unpackBits_pack [(30, 83886080), (6, 0), (6, a.toNat), (6, d.toNat), (3, h.pred.toNat), (1, h.neg.toNat), (4, h.stall.toNat), (8, 0x7d)] ⟨by decide, by decide, a.isLt, d.isLt, h.pred.isLt, h.neg.isLt, h.stall.isLt, by decide, trivial⟩
  unfold decOp7D
  rw [u]
  show (some (Instr.prioKill ⟨BitVec.ofNat 4 h.stall.toNat, BitVec.ofNat 1 h.neg.toNat, BitVec.ofNat 3 h.pred.toNat⟩ (BitVec.ofNat 6 d.toNat) (BitVec.ofNat 6 a.toNat))) = _
  simp only [BitVec.ofNat_toNat, BitVec.setWidth_eq]
theorem ctxsv (h : Hdr) (d a b : BitVec 6) : Statement (.ctxsv h d a b) := by
  intro _ hw w1
  refine decode_of_raw (w1 := w1) (by show fieldWidth [(30, 0), (6, b.toNat), (6, a.toNat), (6, d.toNat), (3, h.pred.toNat), (1, h.neg.toNat), (4, h.stall.toNat), (8, 0x7e)] = 64; simp only [fieldWidth]) ?_ hw
  rw [show Instr.fields (.ctxsv h d a b) = [(30, 0), (6, b.toNat), (6, a.toNat), (6, d.toNat), (3, h.pred.toNat), (1, h.neg.toNat), (4, h.stall.toNat)] ++ [(8, 0x7E)] from rfl]
  obtain ⟨e1, e2⟩ := nibbles [(30, 0), (6, b.toNat), (6, a.toNat), (6, d.toNat), (3, h.pred.toNat), (1, h.neg.toNat), (4, h.stall.toNat)] 0x7E 7 14 (by simp only [fieldWidth]) rfl rfl
  rw [decodeRaw_hi7 _ _ e1, decHi7_E _ _ _ e2]
  have u : unpackBits [30, 6, 6, 6, 3, 1, 4, 8] (packBits ([(30, 0), (6, b.toNat), (6, a.toNat), (6, d.toNat), (3, h.pred.toNat), (1, h.neg.toNat), (4, h.stall.toNat)] ++ [(8, 0x7E)])) = [0, b.toNat, a.toNat, d.toNat, h.pred.toNat, h.neg.toNat, h.stall.toNat, 126] :=
    unpackBits_pack [(30, 0), (6, b.toNat), (6, a.toNat), (6, d.toNat), (3, h.pred.toNat), (1, h.neg.toNat), (4, h.stall.toNat), (8, 0x7e)] ⟨by decide, b.isLt, a.isLt, d.isLt, h.pred.isLt, h.neg.isLt, h.stall.isLt, by decide, trivial⟩
  unfold decOp7E
  rw [u]
  show (some (Instr.ctxsv ⟨BitVec.ofNat 4 h.stall.toNat, BitVec.ofNat 1 h.neg.toNat, BitVec.ofNat 3 h.pred.toNat⟩ (BitVec.ofNat 6 d.toNat) (BitVec.ofNat 6 a.toNat) (BitVec.ofNat 6 b.toNat))) = _
  simp only [BitVec.ofNat_toNat, BitVec.setWidth_eq]
theorem ctxsvHold (h : Hdr) (d a b : BitVec 6) : Statement (.ctxsvHold h d a b) := by
  intro _ hw w1
  refine decode_of_raw (w1 := w1) (by show fieldWidth [(30, 16777216), (6, b.toNat), (6, a.toNat), (6, d.toNat), (3, h.pred.toNat), (1, h.neg.toNat), (4, h.stall.toNat), (8, 0x7e)] = 64; simp only [fieldWidth]) ?_ hw
  rw [show Instr.fields (.ctxsvHold h d a b) = [(30, 16777216), (6, b.toNat), (6, a.toNat), (6, d.toNat), (3, h.pred.toNat), (1, h.neg.toNat), (4, h.stall.toNat)] ++ [(8, 0x7E)] from rfl]
  obtain ⟨e1, e2⟩ := nibbles [(30, 16777216), (6, b.toNat), (6, a.toNat), (6, d.toNat), (3, h.pred.toNat), (1, h.neg.toNat), (4, h.stall.toNat)] 0x7E 7 14 (by simp only [fieldWidth]) rfl rfl
  rw [decodeRaw_hi7 _ _ e1, decHi7_E _ _ _ e2]
  have u : unpackBits [30, 6, 6, 6, 3, 1, 4, 8] (packBits ([(30, 16777216), (6, b.toNat), (6, a.toNat), (6, d.toNat), (3, h.pred.toNat), (1, h.neg.toNat), (4, h.stall.toNat)] ++ [(8, 0x7E)])) = [16777216, b.toNat, a.toNat, d.toNat, h.pred.toNat, h.neg.toNat, h.stall.toNat, 126] :=
    unpackBits_pack [(30, 16777216), (6, b.toNat), (6, a.toNat), (6, d.toNat), (3, h.pred.toNat), (1, h.neg.toNat), (4, h.stall.toNat), (8, 0x7e)] ⟨by decide, b.isLt, a.isLt, d.isLt, h.pred.isLt, h.neg.isLt, h.stall.isLt, by decide, trivial⟩
  unfold decOp7E
  rw [u]
  show (some (Instr.ctxsvHold ⟨BitVec.ofNat 4 h.stall.toNat, BitVec.ofNat 1 h.neg.toNat, BitVec.ofNat 3 h.pred.toNat⟩ (BitVec.ofNat 6 d.toNat) (BitVec.ofNat 6 a.toNat) (BitVec.ofNat 6 b.toNat))) = _
  simp only [BitVec.ofNat_toNat, BitVec.setWidth_eq]
theorem ctxld (h : Hdr) (d a : BitVec 6) : Statement (.ctxld h d a) := by
  intro _ hw w1
  refine decode_of_raw (w1 := w1) (by show fieldWidth [(36, 0), (6, a.toNat), (6, d.toNat), (3, h.pred.toNat), (1, h.neg.toNat), (4, h.stall.toNat), (8, 0x7f)] = 64; simp only [fieldWidth]) ?_ hw
  rw [show Instr.fields (.ctxld h d a) = [(36, 0), (6, a.toNat), (6, d.toNat), (3, h.pred.toNat), (1, h.neg.toNat), (4, h.stall.toNat)] ++ [(8, 0x7F)] from rfl]
  obtain ⟨e1, e2⟩ := nibbles [(36, 0), (6, a.toNat), (6, d.toNat), (3, h.pred.toNat), (1, h.neg.toNat), (4, h.stall.toNat)] 0x7F 7 15 (by simp only [fieldWidth]) rfl rfl
  rw [decodeRaw_hi7 _ _ e1, decHi7_F _ _ _ e2]
  have u : unpackBits [36, 6, 6, 3, 1, 4, 8] (packBits ([(36, 0), (6, a.toNat), (6, d.toNat), (3, h.pred.toNat), (1, h.neg.toNat), (4, h.stall.toNat)] ++ [(8, 0x7F)])) = [0, a.toNat, d.toNat, h.pred.toNat, h.neg.toNat, h.stall.toNat, 127] :=
    unpackBits_pack [(36, 0), (6, a.toNat), (6, d.toNat), (3, h.pred.toNat), (1, h.neg.toNat), (4, h.stall.toNat), (8, 0x7f)] ⟨by decide, a.isLt, d.isLt, h.pred.isLt, h.neg.isLt, h.stall.isLt, by decide, trivial⟩
  unfold decOp7F
  rw [u]
  show (some (Instr.ctxld ⟨BitVec.ofNat 4 h.stall.toNat, BitVec.ofNat 1 h.neg.toNat, BitVec.ofNat 3 h.pred.toNat⟩ (BitVec.ofNat 6 d.toNat) (BitVec.ofNat 6 a.toNat))) = _
  simp only [BitVec.ofNat_toNat, BitVec.setWidth_eq]
theorem sbind (h : Hdr) (z : BitVec 4) (b : BitVec 6) : Statement (.sbind h z b) := by
  intro _ hw w1
  refine decode_of_raw (w1 := w1) (by show fieldWidth [(36, 0), (6, b.toNat), (4, z.toNat), (2, 3), (3, h.pred.toNat), (1, h.neg.toNat), (4, h.stall.toNat), (8, 0x80)] = 64; simp only [fieldWidth]) ?_ hw
  rw [show Instr.fields (.sbind h z b) = [(36, 0), (6, b.toNat), (4, z.toNat), (2, 3), (3, h.pred.toNat), (1, h.neg.toNat), (4, h.stall.toNat)] ++ [(8, 0x80)] from rfl]
  obtain ⟨e1, e2⟩ := nibbles [(36, 0), (6, b.toNat), (4, z.toNat), (2, 3), (3, h.pred.toNat), (1, h.neg.toNat), (4, h.stall.toNat)] 0x80 8 0 (by simp only [fieldWidth]) rfl rfl
  rw [decodeRaw_hi8 _ _ e1, decHi8_0 _ _ _ e2]
  have u : unpackBits [36, 6, 4, 2, 3, 1, 4, 8] (packBits ([(36, 0), (6, b.toNat), (4, z.toNat), (2, 3), (3, h.pred.toNat), (1, h.neg.toNat), (4, h.stall.toNat)] ++ [(8, 0x80)])) = [0, b.toNat, z.toNat, 3, h.pred.toNat, h.neg.toNat, h.stall.toNat, 128] :=
    unpackBits_pack [(36, 0), (6, b.toNat), (4, z.toNat), (2, 3), (3, h.pred.toNat), (1, h.neg.toNat), (4, h.stall.toNat), (8, 0x80)] ⟨by decide, b.isLt, z.isLt, by decide, h.pred.isLt, h.neg.isLt, h.stall.isLt, by decide, trivial⟩
  unfold decOp80
  rw [u]
  show (some (Instr.sbind ⟨BitVec.ofNat 4 h.stall.toNat, BitVec.ofNat 1 h.neg.toNat, BitVec.ofNat 3 h.pred.toNat⟩ (BitVec.ofNat 4 z.toNat) (BitVec.ofNat 6 b.toNat))) = _
  simp only [BitVec.ofNat_toNat, BitVec.setWidth_eq]
theorem sfree (h : Hdr) (z : BitVec 4) : Statement (.sfree h z) := by
  intro _ hw w1
  refine decode_of_raw (w1 := w1) (by show fieldWidth [(36, 0), (4, z.toNat), (2, 3), (6, 0), (3, h.pred.toNat), (1, h.neg.toNat), (4, h.stall.toNat), (8, 0x81)] = 64; simp only [fieldWidth]) ?_ hw
  rw [show Instr.fields (.sfree h z) = [(36, 0), (4, z.toNat), (2, 3), (6, 0), (3, h.pred.toNat), (1, h.neg.toNat), (4, h.stall.toNat)] ++ [(8, 0x81)] from rfl]
  obtain ⟨e1, e2⟩ := nibbles [(36, 0), (4, z.toNat), (2, 3), (6, 0), (3, h.pred.toNat), (1, h.neg.toNat), (4, h.stall.toNat)] 0x81 8 1 (by simp only [fieldWidth]) rfl rfl
  rw [decodeRaw_hi8 _ _ e1, decHi8_1 _ _ _ e2]
  have u : unpackBits [36, 4, 2, 6, 3, 1, 4, 8] (packBits ([(36, 0), (4, z.toNat), (2, 3), (6, 0), (3, h.pred.toNat), (1, h.neg.toNat), (4, h.stall.toNat)] ++ [(8, 0x81)])) = [0, z.toNat, 3, 0, h.pred.toNat, h.neg.toNat, h.stall.toNat, 129] :=
    unpackBits_pack [(36, 0), (4, z.toNat), (2, 3), (6, 0), (3, h.pred.toNat), (1, h.neg.toNat), (4, h.stall.toNat), (8, 0x81)] ⟨by decide, z.isLt, by decide, by decide, h.pred.isLt, h.neg.isLt, h.stall.isLt, by decide, trivial⟩
  unfold decOp81
  rw [u]
  show (some (Instr.sfree ⟨BitVec.ofNat 4 h.stall.toNat, BitVec.ofNat 1 h.neg.toNat, BitVec.ofNat 3 h.pred.toNat⟩ (BitVec.ofNat 4 z.toNat))) = _
  simp only [BitVec.ofNat_toNat, BitVec.setWidth_eq]
theorem xcopy (h : Hdr) (a b c : BitVec 6) (ch : BitVec 4) : Statement (.xcopy h a b c ch) := by
  intro _ hw w1
  refine decode_of_raw (w1 := w1) (by show fieldWidth [(4, ch.toNat), (26, 0), (6, c.toNat), (6, b.toNat), (6, a.toNat), (3, h.pred.toNat), (1, h.neg.toNat), (4, h.stall.toNat), (8, 0x82)] = 64; simp only [fieldWidth]) ?_ hw
  rw [show Instr.fields (.xcopy h a b c ch) = [(4, ch.toNat), (26, 0), (6, c.toNat), (6, b.toNat), (6, a.toNat), (3, h.pred.toNat), (1, h.neg.toNat), (4, h.stall.toNat)] ++ [(8, 0x82)] from rfl]
  obtain ⟨e1, e2⟩ := nibbles [(4, ch.toNat), (26, 0), (6, c.toNat), (6, b.toNat), (6, a.toNat), (3, h.pred.toNat), (1, h.neg.toNat), (4, h.stall.toNat)] 0x82 8 2 (by simp only [fieldWidth]) rfl rfl
  rw [decodeRaw_hi8 _ _ e1, decHi8_2 _ _ _ e2]
  have u : unpackBits [4, 26, 6, 6, 6, 3, 1, 4, 8] (packBits ([(4, ch.toNat), (26, 0), (6, c.toNat), (6, b.toNat), (6, a.toNat), (3, h.pred.toNat), (1, h.neg.toNat), (4, h.stall.toNat)] ++ [(8, 0x82)])) = [ch.toNat, 0, c.toNat, b.toNat, a.toNat, h.pred.toNat, h.neg.toNat, h.stall.toNat, 130] :=
    unpackBits_pack [(4, ch.toNat), (26, 0), (6, c.toNat), (6, b.toNat), (6, a.toNat), (3, h.pred.toNat), (1, h.neg.toNat), (4, h.stall.toNat), (8, 0x82)] ⟨ch.isLt, by decide, c.isLt, b.isLt, a.isLt, h.pred.isLt, h.neg.isLt, h.stall.isLt, by decide, trivial⟩
  unfold decOp82
  rw [u]
  show (some (Instr.xcopy ⟨BitVec.ofNat 4 h.stall.toNat, BitVec.ofNat 1 h.neg.toNat, BitVec.ofNat 3 h.pred.toNat⟩ (BitVec.ofNat 6 a.toNat) (BitVec.ofNat 6 b.toNat) (BitVec.ofNat 6 c.toNat) (BitVec.ofNat 4 ch.toNat))) = _
  simp only [BitVec.ofNat_toNat, BitVec.setWidth_eq]
theorem xgath2 (h : Hdr) (a b c : BitVec 6) (ch : BitVec 4) : Statement (.xgath2 h a b c ch) := by
  intro _ hw w1
  refine decode_of_raw (w1 := w1) (by show fieldWidth [(4, ch.toNat), (26, 0), (6, c.toNat), (6, b.toNat), (6, a.toNat), (3, h.pred.toNat), (1, h.neg.toNat), (4, h.stall.toNat), (8, 0x83)] = 64; simp only [fieldWidth]) ?_ hw
  rw [show Instr.fields (.xgath2 h a b c ch) = [(4, ch.toNat), (26, 0), (6, c.toNat), (6, b.toNat), (6, a.toNat), (3, h.pred.toNat), (1, h.neg.toNat), (4, h.stall.toNat)] ++ [(8, 0x83)] from rfl]
  obtain ⟨e1, e2⟩ := nibbles [(4, ch.toNat), (26, 0), (6, c.toNat), (6, b.toNat), (6, a.toNat), (3, h.pred.toNat), (1, h.neg.toNat), (4, h.stall.toNat)] 0x83 8 3 (by simp only [fieldWidth]) rfl rfl
  rw [decodeRaw_hi8 _ _ e1, decHi8_3 _ _ _ e2]
  have u : unpackBits [4, 26, 6, 6, 6, 3, 1, 4, 8] (packBits ([(4, ch.toNat), (26, 0), (6, c.toNat), (6, b.toNat), (6, a.toNat), (3, h.pred.toNat), (1, h.neg.toNat), (4, h.stall.toNat)] ++ [(8, 0x83)])) = [ch.toNat, 0, c.toNat, b.toNat, a.toNat, h.pred.toNat, h.neg.toNat, h.stall.toNat, 131] :=
    unpackBits_pack [(4, ch.toNat), (26, 0), (6, c.toNat), (6, b.toNat), (6, a.toNat), (3, h.pred.toNat), (1, h.neg.toNat), (4, h.stall.toNat), (8, 0x83)] ⟨ch.isLt, by decide, c.isLt, b.isLt, a.isLt, h.pred.isLt, h.neg.isLt, h.stall.isLt, by decide, trivial⟩
  unfold decOp83
  rw [u]
  show (some (Instr.xgath2 ⟨BitVec.ofNat 4 h.stall.toNat, BitVec.ofNat 1 h.neg.toNat, BitVec.ofNat 3 h.pred.toNat⟩ (BitVec.ofNat 6 a.toNat) (BitVec.ofNat 6 b.toNat) (BitVec.ofNat 6 c.toNat) (BitVec.ofNat 4 ch.toNat))) = _
  simp only [BitVec.ofNat_toNat, BitVec.setWidth_eq]
theorem xgath (h : Hdr) (a b c : BitVec 6) (ch : BitVec 4) : Statement (.xgath h a b c ch) := by
  intro _ hw w1
  refine decode_of_raw (w1 := w1) (by show fieldWidth [(4, ch.toNat), (26, 0), (6, c.toNat), (6, b.toNat), (6, a.toNat), (3, h.pred.toNat), (1, h.neg.toNat), (4, h.stall.toNat), (8, 0x84)] = 64; simp only [fieldWidth]) ?_ hw
  rw [show Instr.fields (.xgath h a b c ch) = [(4, ch.toNat), (26, 0), (6, c.toNat), (6, b.toNat), (6, a.toNat), (3, h.pred.toNat), (1, h.neg.toNat), (4, h.stall.toNat)] ++ [(8, 0x84)] from rfl]
  obtain ⟨e1, e2⟩ := nibbles [(4, ch.toNat), (26, 0), (6, c.toNat), (6, b.toNat), (6, a.toNat), (3, h.pred.toNat), (1, h.neg.toNat), (4, h.stall.toNat)] 0x84 8 4 (by simp only [fieldWidth]) rfl rfl
  rw [decodeRaw_hi8 _ _ e1, decHi8_4 _ _ _ e2]
  have u : unpackBits [4, 26, 6, 6, 6, 3, 1, 4, 8] (packBits ([(4, ch.toNat), (26, 0), (6, c.toNat), (6, b.toNat), (6, a.toNat), (3, h.pred.toNat), (1, h.neg.toNat), (4, h.stall.toNat)] ++ [(8, 0x84)])) = [ch.toNat, 0, c.toNat, b.toNat, a.toNat, h.pred.toNat, h.neg.toNat, h.stall.toNat, 132] :=
    unpackBits_pack [(4, ch.toNat), (26, 0), (6, c.toNat), (6, b.toNat), (6, a.toNat), (3, h.pred.toNat), (1, h.neg.toNat), (4, h.stall.toNat), (8, 0x84)] ⟨ch.isLt, by decide, c.isLt, b.isLt, a.isLt, h.pred.isLt, h.neg.isLt, h.stall.isLt, by decide, trivial⟩
  unfold decOp84
  rw [u]
  show (some (Instr.xgath ⟨BitVec.ofNat 4 h.stall.toNat, BitVec.ofNat 1 h.neg.toNat, BitVec.ofNat 3 h.pred.toNat⟩ (BitVec.ofNat 6 a.toNat) (BitVec.ofNat 6 b.toNat) (BitVec.ofNat 6 c.toNat) (BitVec.ofNat 4 ch.toNat))) = _
  simp only [BitVec.ofNat_toNat, BitVec.setWidth_eq]
theorem xscat (h : Hdr) (a b c : BitVec 6) (ch : BitVec 4) : Statement (.xscat h a b c ch) := by
  intro _ hw w1
  refine decode_of_raw (w1 := w1) (by show fieldWidth [(4, ch.toNat), (26, 0), (6, c.toNat), (6, b.toNat), (6, a.toNat), (3, h.pred.toNat), (1, h.neg.toNat), (4, h.stall.toNat), (8, 0x85)] = 64; simp only [fieldWidth]) ?_ hw
  rw [show Instr.fields (.xscat h a b c ch) = [(4, ch.toNat), (26, 0), (6, c.toNat), (6, b.toNat), (6, a.toNat), (3, h.pred.toNat), (1, h.neg.toNat), (4, h.stall.toNat)] ++ [(8, 0x85)] from rfl]
  obtain ⟨e1, e2⟩ := nibbles [(4, ch.toNat), (26, 0), (6, c.toNat), (6, b.toNat), (6, a.toNat), (3, h.pred.toNat), (1, h.neg.toNat), (4, h.stall.toNat)] 0x85 8 5 (by simp only [fieldWidth]) rfl rfl
  rw [decodeRaw_hi8 _ _ e1, decHi8_5 _ _ _ e2]
  have u : unpackBits [4, 26, 6, 6, 6, 3, 1, 4, 8] (packBits ([(4, ch.toNat), (26, 0), (6, c.toNat), (6, b.toNat), (6, a.toNat), (3, h.pred.toNat), (1, h.neg.toNat), (4, h.stall.toNat)] ++ [(8, 0x85)])) = [ch.toNat, 0, c.toNat, b.toNat, a.toNat, h.pred.toNat, h.neg.toNat, h.stall.toNat, 133] :=
    unpackBits_pack [(4, ch.toNat), (26, 0), (6, c.toNat), (6, b.toNat), (6, a.toNat), (3, h.pred.toNat), (1, h.neg.toNat), (4, h.stall.toNat), (8, 0x85)] ⟨ch.isLt, by decide, c.isLt, b.isLt, a.isLt, h.pred.isLt, h.neg.isLt, h.stall.isLt, by decide, trivial⟩
  unfold decOp85
  rw [u]
  show (some (Instr.xscat ⟨BitVec.ofNat 4 h.stall.toNat, BitVec.ofNat 1 h.neg.toNat, BitVec.ofNat 3 h.pred.toNat⟩ (BitVec.ofNat 6 a.toNat) (BitVec.ofNat 6 b.toNat) (BitVec.ofNat 6 c.toNat) (BitVec.ofNat 4 ch.toNat))) = _
  simp only [BitVec.ofNat_toNat, BitVec.setWidth_eq]
theorem xslide (h : Hdr) (a b c : BitVec 6) (ch : BitVec 4) : Statement (.xslide h a b c ch) := by
  intro _ hw w1
  refine decode_of_raw (w1 := w1) (by show fieldWidth [(4, ch.toNat), (26, 0), (6, c.toNat), (6, b.toNat), (6, a.toNat), (3, h.pred.toNat), (1, h.neg.toNat), (4, h.stall.toNat), (8, 0x86)] = 64; simp only [fieldWidth]) ?_ hw
  rw [show Instr.fields (.xslide h a b c ch) = [(4, ch.toNat), (26, 0), (6, c.toNat), (6, b.toNat), (6, a.toNat), (3, h.pred.toNat), (1, h.neg.toNat), (4, h.stall.toNat)] ++ [(8, 0x86)] from rfl]
  obtain ⟨e1, e2⟩ := nibbles [(4, ch.toNat), (26, 0), (6, c.toNat), (6, b.toNat), (6, a.toNat), (3, h.pred.toNat), (1, h.neg.toNat), (4, h.stall.toNat)] 0x86 8 6 (by simp only [fieldWidth]) rfl rfl
  rw [decodeRaw_hi8 _ _ e1, decHi8_6 _ _ _ e2]
  have u : unpackBits [4, 26, 6, 6, 6, 3, 1, 4, 8] (packBits ([(4, ch.toNat), (26, 0), (6, c.toNat), (6, b.toNat), (6, a.toNat), (3, h.pred.toNat), (1, h.neg.toNat), (4, h.stall.toNat)] ++ [(8, 0x86)])) = [ch.toNat, 0, c.toNat, b.toNat, a.toNat, h.pred.toNat, h.neg.toNat, h.stall.toNat, 134] :=
    unpackBits_pack [(4, ch.toNat), (26, 0), (6, c.toNat), (6, b.toNat), (6, a.toNat), (3, h.pred.toNat), (1, h.neg.toNat), (4, h.stall.toNat), (8, 0x86)] ⟨ch.isLt, by decide, c.isLt, b.isLt, a.isLt, h.pred.isLt, h.neg.isLt, h.stall.isLt, by decide, trivial⟩
  unfold decOp86
  rw [u]
  show (some (Instr.xslide ⟨BitVec.ofNat 4 h.stall.toNat, BitVec.ofNat 1 h.neg.toNat, BitVec.ofNat 3 h.pred.toNat⟩ (BitVec.ofNat 6 a.toNat) (BitVec.ofNat 6 b.toNat) (BitVec.ofNat 6 c.toNat) (BitVec.ofNat 4 ch.toNat))) = _
  simp only [BitVec.ofNat_toNat, BitVec.setWidth_eq]
theorem xfill (h : Hdr) (a b c : BitVec 6) (ch : BitVec 4) : Statement (.xfill h a b c ch) := by
  intro _ hw w1
  refine decode_of_raw (w1 := w1) (by show fieldWidth [(4, ch.toNat), (26, 0), (6, c.toNat), (6, b.toNat), (6, a.toNat), (3, h.pred.toNat), (1, h.neg.toNat), (4, h.stall.toNat), (8, 0x87)] = 64; simp only [fieldWidth]) ?_ hw
  rw [show Instr.fields (.xfill h a b c ch) = [(4, ch.toNat), (26, 0), (6, c.toNat), (6, b.toNat), (6, a.toNat), (3, h.pred.toNat), (1, h.neg.toNat), (4, h.stall.toNat)] ++ [(8, 0x87)] from rfl]
  obtain ⟨e1, e2⟩ := nibbles [(4, ch.toNat), (26, 0), (6, c.toNat), (6, b.toNat), (6, a.toNat), (3, h.pred.toNat), (1, h.neg.toNat), (4, h.stall.toNat)] 0x87 8 7 (by simp only [fieldWidth]) rfl rfl
  rw [decodeRaw_hi8 _ _ e1, decHi8_7 _ _ _ e2]
  have u : unpackBits [4, 26, 6, 6, 6, 3, 1, 4, 8] (packBits ([(4, ch.toNat), (26, 0), (6, c.toNat), (6, b.toNat), (6, a.toNat), (3, h.pred.toNat), (1, h.neg.toNat), (4, h.stall.toNat)] ++ [(8, 0x87)])) = [ch.toNat, 0, c.toNat, b.toNat, a.toNat, h.pred.toNat, h.neg.toNat, h.stall.toNat, 135] :=
    unpackBits_pack [(4, ch.toNat), (26, 0), (6, c.toNat), (6, b.toNat), (6, a.toNat), (3, h.pred.toNat), (1, h.neg.toNat), (4, h.stall.toNat), (8, 0x87)] ⟨ch.isLt, by decide, c.isLt, b.isLt, a.isLt, h.pred.isLt, h.neg.isLt, h.stall.isLt, by decide, trivial⟩
  unfold decOp87
  rw [u]
  show (some (Instr.xfill ⟨BitVec.ofNat 4 h.stall.toNat, BitVec.ofNat 1 h.neg.toNat, BitVec.ofNat 3 h.pred.toNat⟩ (BitVec.ofNat 6 a.toNat) (BitVec.ofNat 6 b.toNat) (BitVec.ofNat 6 c.toNat) (BitVec.ofNat 4 ch.toNat))) = _
  simp only [BitVec.ofNat_toNat, BitVec.setWidth_eq]
theorem xwait (h : Hdr) (a b : BitVec 6) (ch : BitVec 4) : Statement (.xwait h a b ch) := by
  intro _ hw w1
  refine decode_of_raw (w1 := w1) (by show fieldWidth [(4, ch.toNat), (32, 0), (6, b.toNat), (6, a.toNat), (3, h.pred.toNat), (1, h.neg.toNat), (4, h.stall.toNat), (8, 0x88)] = 64; simp only [fieldWidth]) ?_ hw
  rw [show Instr.fields (.xwait h a b ch) = [(4, ch.toNat), (32, 0), (6, b.toNat), (6, a.toNat), (3, h.pred.toNat), (1, h.neg.toNat), (4, h.stall.toNat)] ++ [(8, 0x88)] from rfl]
  obtain ⟨e1, e2⟩ := nibbles [(4, ch.toNat), (32, 0), (6, b.toNat), (6, a.toNat), (3, h.pred.toNat), (1, h.neg.toNat), (4, h.stall.toNat)] 0x88 8 8 (by simp only [fieldWidth]) rfl rfl
  rw [decodeRaw_hi8 _ _ e1, decHi8_8 _ _ _ e2]
  have u : unpackBits [4, 32, 6, 6, 3, 1, 4, 8] (packBits ([(4, ch.toNat), (32, 0), (6, b.toNat), (6, a.toNat), (3, h.pred.toNat), (1, h.neg.toNat), (4, h.stall.toNat)] ++ [(8, 0x88)])) = [ch.toNat, 0, b.toNat, a.toNat, h.pred.toNat, h.neg.toNat, h.stall.toNat, 136] :=
    unpackBits_pack [(4, ch.toNat), (32, 0), (6, b.toNat), (6, a.toNat), (3, h.pred.toNat), (1, h.neg.toNat), (4, h.stall.toNat), (8, 0x88)] ⟨ch.isLt, by decide, b.isLt, a.isLt, h.pred.isLt, h.neg.isLt, h.stall.isLt, by decide, trivial⟩
  unfold decOp88
  rw [u]
  show (some (Instr.xwait ⟨BitVec.ofNat 4 h.stall.toNat, BitVec.ofNat 1 h.neg.toNat, BitVec.ofNat 3 h.pred.toNat⟩ (BitVec.ofNat 6 a.toNat) (BitVec.ofNat 6 b.toNat) (BitVec.ofNat 4 ch.toNat))) = _
  simp only [BitVec.ofNat_toNat, BitVec.setWidth_eq]
theorem xstatDone (h : Hdr) (a b : BitVec 6) (ch : BitVec 4) : Statement (.xstatDone h a b ch) := by
  intro _ hw w1
  refine decode_of_raw (w1 := w1) (by show fieldWidth [(4, ch.toNat), (32, 0), (6, b.toNat), (6, a.toNat), (3, h.pred.toNat), (1, h.neg.toNat), (4, h.stall.toNat), (8, 0x89)] = 64; simp only [fieldWidth]) ?_ hw
  rw [show Instr.fields (.xstatDone h a b ch) = [(4, ch.toNat), (32, 0), (6, b.toNat), (6, a.toNat), (3, h.pred.toNat), (1, h.neg.toNat), (4, h.stall.toNat)] ++ [(8, 0x89)] from rfl]
  obtain ⟨e1, e2⟩ := nibbles [(4, ch.toNat), (32, 0), (6, b.toNat), (6, a.toNat), (3, h.pred.toNat), (1, h.neg.toNat), (4, h.stall.toNat)] 0x89 8 9 (by simp only [fieldWidth]) rfl rfl
  rw [decodeRaw_hi8 _ _ e1, decHi8_9 _ _ _ e2]
  have u : unpackBits [4, 32, 6, 6, 3, 1, 4, 8] (packBits ([(4, ch.toNat), (32, 0), (6, b.toNat), (6, a.toNat), (3, h.pred.toNat), (1, h.neg.toNat), (4, h.stall.toNat)] ++ [(8, 0x89)])) = [ch.toNat, 0, b.toNat, a.toNat, h.pred.toNat, h.neg.toNat, h.stall.toNat, 137] :=
    unpackBits_pack [(4, ch.toNat), (32, 0), (6, b.toNat), (6, a.toNat), (3, h.pred.toNat), (1, h.neg.toNat), (4, h.stall.toNat), (8, 0x89)] ⟨ch.isLt, by decide, b.isLt, a.isLt, h.pred.isLt, h.neg.isLt, h.stall.isLt, by decide, trivial⟩
  unfold decOp89
  rw [u]
  show (some (Instr.xstatDone ⟨BitVec.ofNat 4 h.stall.toNat, BitVec.ofNat 1 h.neg.toNat, BitVec.ofNat 3 h.pred.toNat⟩ (BitVec.ofNat 6 a.toNat) (BitVec.ofNat 6 b.toNat) (BitVec.ofNat 4 ch.toNat))) = _
  simp only [BitVec.ofNat_toNat, BitVec.setWidth_eq]
theorem xstatNext (h : Hdr) (a b : BitVec 6) (ch : BitVec 4) : Statement (.xstatNext h a b ch) := by
  intro _ hw w1
  refine decode_of_raw (w1 := w1) (by show fieldWidth [(4, ch.toNat), (32, 1048576), (6, b.toNat), (6, a.toNat), (3, h.pred.toNat), (1, h.neg.toNat), (4, h.stall.toNat), (8, 0x89)] = 64; simp only [fieldWidth]) ?_ hw
  rw [show Instr.fields (.xstatNext h a b ch) = [(4, ch.toNat), (32, 1048576), (6, b.toNat), (6, a.toNat), (3, h.pred.toNat), (1, h.neg.toNat), (4, h.stall.toNat)] ++ [(8, 0x89)] from rfl]
  obtain ⟨e1, e2⟩ := nibbles [(4, ch.toNat), (32, 1048576), (6, b.toNat), (6, a.toNat), (3, h.pred.toNat), (1, h.neg.toNat), (4, h.stall.toNat)] 0x89 8 9 (by simp only [fieldWidth]) rfl rfl
  rw [decodeRaw_hi8 _ _ e1, decHi8_9 _ _ _ e2]
  have u : unpackBits [4, 32, 6, 6, 3, 1, 4, 8] (packBits ([(4, ch.toNat), (32, 1048576), (6, b.toNat), (6, a.toNat), (3, h.pred.toNat), (1, h.neg.toNat), (4, h.stall.toNat)] ++ [(8, 0x89)])) = [ch.toNat, 1048576, b.toNat, a.toNat, h.pred.toNat, h.neg.toNat, h.stall.toNat, 137] :=
    unpackBits_pack [(4, ch.toNat), (32, 1048576), (6, b.toNat), (6, a.toNat), (3, h.pred.toNat), (1, h.neg.toNat), (4, h.stall.toNat), (8, 0x89)] ⟨ch.isLt, by decide, b.isLt, a.isLt, h.pred.isLt, h.neg.isLt, h.stall.isLt, by decide, trivial⟩
  unfold decOp89
  rw [u]
  show (some (Instr.xstatNext ⟨BitVec.ofNat 4 h.stall.toNat, BitVec.ofNat 1 h.neg.toNat, BitVec.ofNat 3 h.pred.toNat⟩ (BitVec.ofNat 6 a.toNat) (BitVec.ofNat 6 b.toNat) (BitVec.ofNat 4 ch.toNat))) = _
  simp only [BitVec.ofNat_toNat, BitVec.setWidth_eq]
theorem xstatVal (h : Hdr) (a b : BitVec 6) (ch : BitVec 4) : Statement (.xstatVal h a b ch) := by
  intro _ hw w1
  refine decode_of_raw (w1 := w1) (by show fieldWidth [(4, ch.toNat), (32, 2097152), (6, b.toNat), (6, a.toNat), (3, h.pred.toNat), (1, h.neg.toNat), (4, h.stall.toNat), (8, 0x89)] = 64; simp only [fieldWidth]) ?_ hw
  rw [show Instr.fields (.xstatVal h a b ch) = [(4, ch.toNat), (32, 2097152), (6, b.toNat), (6, a.toNat), (3, h.pred.toNat), (1, h.neg.toNat), (4, h.stall.toNat)] ++ [(8, 0x89)] from rfl]
  obtain ⟨e1, e2⟩ := nibbles [(4, ch.toNat), (32, 2097152), (6, b.toNat), (6, a.toNat), (3, h.pred.toNat), (1, h.neg.toNat), (4, h.stall.toNat)] 0x89 8 9 (by simp only [fieldWidth]) rfl rfl
  rw [decodeRaw_hi8 _ _ e1, decHi8_9 _ _ _ e2]
  have u : unpackBits [4, 32, 6, 6, 3, 1, 4, 8] (packBits ([(4, ch.toNat), (32, 2097152), (6, b.toNat), (6, a.toNat), (3, h.pred.toNat), (1, h.neg.toNat), (4, h.stall.toNat)] ++ [(8, 0x89)])) = [ch.toNat, 2097152, b.toNat, a.toNat, h.pred.toNat, h.neg.toNat, h.stall.toNat, 137] :=
    unpackBits_pack [(4, ch.toNat), (32, 2097152), (6, b.toNat), (6, a.toNat), (3, h.pred.toNat), (1, h.neg.toNat), (4, h.stall.toNat), (8, 0x89)] ⟨ch.isLt, by decide, b.isLt, a.isLt, h.pred.isLt, h.neg.isLt, h.stall.isLt, by decide, trivial⟩
  unfold decOp89
  rw [u]
  show (some (Instr.xstatVal ⟨BitVec.ofNat 4 h.stall.toNat, BitVec.ofNat 1 h.neg.toNat, BitVec.ofNat 3 h.pred.toNat⟩ (BitVec.ofNat 6 a.toNat) (BitVec.ofNat 6 b.toNat) (BitVec.ofNat 4 ch.toNat))) = _
  simp only [BitVec.ofNat_toNat, BitVec.setWidth_eq]
theorem xstatFault (h : Hdr) (a b : BitVec 6) (ch : BitVec 4) : Statement (.xstatFault h a b ch) := by
  intro _ hw w1
  refine decode_of_raw (w1 := w1) (by show fieldWidth [(4, ch.toNat), (32, 3145728), (6, b.toNat), (6, a.toNat), (3, h.pred.toNat), (1, h.neg.toNat), (4, h.stall.toNat), (8, 0x89)] = 64; simp only [fieldWidth]) ?_ hw
  rw [show Instr.fields (.xstatFault h a b ch) = [(4, ch.toNat), (32, 3145728), (6, b.toNat), (6, a.toNat), (3, h.pred.toNat), (1, h.neg.toNat), (4, h.stall.toNat)] ++ [(8, 0x89)] from rfl]
  obtain ⟨e1, e2⟩ := nibbles [(4, ch.toNat), (32, 3145728), (6, b.toNat), (6, a.toNat), (3, h.pred.toNat), (1, h.neg.toNat), (4, h.stall.toNat)] 0x89 8 9 (by simp only [fieldWidth]) rfl rfl
  rw [decodeRaw_hi8 _ _ e1, decHi8_9 _ _ _ e2]
  have u : unpackBits [4, 32, 6, 6, 3, 1, 4, 8] (packBits ([(4, ch.toNat), (32, 3145728), (6, b.toNat), (6, a.toNat), (3, h.pred.toNat), (1, h.neg.toNat), (4, h.stall.toNat)] ++ [(8, 0x89)])) = [ch.toNat, 3145728, b.toNat, a.toNat, h.pred.toNat, h.neg.toNat, h.stall.toNat, 137] :=
    unpackBits_pack [(4, ch.toNat), (32, 3145728), (6, b.toNat), (6, a.toNat), (3, h.pred.toNat), (1, h.neg.toNat), (4, h.stall.toNat), (8, 0x89)] ⟨ch.isLt, by decide, b.isLt, a.isLt, h.pred.isLt, h.neg.isLt, h.stall.isLt, by decide, trivial⟩
  unfold decOp89
  rw [u]
  show (some (Instr.xstatFault ⟨BitVec.ofNat 4 h.stall.toNat, BitVec.ofNat 1 h.neg.toNat, BitVec.ofNat 3 h.pred.toNat⟩ (BitVec.ofNat 6 a.toNat) (BitVec.ofNat 6 b.toNat) (BitVec.ofNat 4 ch.toNat))) = _
  simp only [BitVec.ofNat_toNat, BitVec.setWidth_eq]
theorem xstatFaddr (h : Hdr) (a b : BitVec 6) (ch : BitVec 4) : Statement (.xstatFaddr h a b ch) := by
  intro _ hw w1
  refine decode_of_raw (w1 := w1) (by show fieldWidth [(4, ch.toNat), (32, 4194304), (6, b.toNat), (6, a.toNat), (3, h.pred.toNat), (1, h.neg.toNat), (4, h.stall.toNat), (8, 0x89)] = 64; simp only [fieldWidth]) ?_ hw
  rw [show Instr.fields (.xstatFaddr h a b ch) = [(4, ch.toNat), (32, 4194304), (6, b.toNat), (6, a.toNat), (3, h.pred.toNat), (1, h.neg.toNat), (4, h.stall.toNat)] ++ [(8, 0x89)] from rfl]
  obtain ⟨e1, e2⟩ := nibbles [(4, ch.toNat), (32, 4194304), (6, b.toNat), (6, a.toNat), (3, h.pred.toNat), (1, h.neg.toNat), (4, h.stall.toNat)] 0x89 8 9 (by simp only [fieldWidth]) rfl rfl
  rw [decodeRaw_hi8 _ _ e1, decHi8_9 _ _ _ e2]
  have u : unpackBits [4, 32, 6, 6, 3, 1, 4, 8] (packBits ([(4, ch.toNat), (32, 4194304), (6, b.toNat), (6, a.toNat), (3, h.pred.toNat), (1, h.neg.toNat), (4, h.stall.toNat)] ++ [(8, 0x89)])) = [ch.toNat, 4194304, b.toNat, a.toNat, h.pred.toNat, h.neg.toNat, h.stall.toNat, 137] :=
    unpackBits_pack [(4, ch.toNat), (32, 4194304), (6, b.toNat), (6, a.toNat), (3, h.pred.toNat), (1, h.neg.toNat), (4, h.stall.toNat), (8, 0x89)] ⟨ch.isLt, by decide, b.isLt, a.isLt, h.pred.isLt, h.neg.isLt, h.stall.isLt, by decide, trivial⟩
  unfold decOp89
  rw [u]
  show (some (Instr.xstatFaddr ⟨BitVec.ofNat 4 h.stall.toNat, BitVec.ofNat 1 h.neg.toNat, BitVec.ofNat 3 h.pred.toNat⟩ (BitVec.ofNat 6 a.toNat) (BitVec.ofNat 6 b.toNat) (BitVec.ofNat 4 ch.toNat))) = _
  simp only [BitVec.ofNat_toNat, BitVec.setWidth_eq]
theorem xstatResume (h : Hdr) (a b : BitVec 6) (ch : BitVec 4) : Statement (.xstatResume h a b ch) := by
  intro _ hw w1
  refine decode_of_raw (w1 := w1) (by show fieldWidth [(4, ch.toNat), (32, 5242880), (6, b.toNat), (6, a.toNat), (3, h.pred.toNat), (1, h.neg.toNat), (4, h.stall.toNat), (8, 0x89)] = 64; simp only [fieldWidth]) ?_ hw
  rw [show Instr.fields (.xstatResume h a b ch) = [(4, ch.toNat), (32, 5242880), (6, b.toNat), (6, a.toNat), (3, h.pred.toNat), (1, h.neg.toNat), (4, h.stall.toNat)] ++ [(8, 0x89)] from rfl]
  obtain ⟨e1, e2⟩ := nibbles [(4, ch.toNat), (32, 5242880), (6, b.toNat), (6, a.toNat), (3, h.pred.toNat), (1, h.neg.toNat), (4, h.stall.toNat)] 0x89 8 9 (by simp only [fieldWidth]) rfl rfl
  rw [decodeRaw_hi8 _ _ e1, decHi8_9 _ _ _ e2]
  have u : unpackBits [4, 32, 6, 6, 3, 1, 4, 8] (packBits ([(4, ch.toNat), (32, 5242880), (6, b.toNat), (6, a.toNat), (3, h.pred.toNat), (1, h.neg.toNat), (4, h.stall.toNat)] ++ [(8, 0x89)])) = [ch.toNat, 5242880, b.toNat, a.toNat, h.pred.toNat, h.neg.toNat, h.stall.toNat, 137] :=
    unpackBits_pack [(4, ch.toNat), (32, 5242880), (6, b.toNat), (6, a.toNat), (3, h.pred.toNat), (1, h.neg.toNat), (4, h.stall.toNat), (8, 0x89)] ⟨ch.isLt, by decide, b.isLt, a.isLt, h.pred.isLt, h.neg.isLt, h.stall.isLt, by decide, trivial⟩
  unfold decOp89
  rw [u]
  show (some (Instr.xstatResume ⟨BitVec.ofNat 4 h.stall.toNat, BitVec.ofNat 1 h.neg.toNat, BitVec.ofNat 3 h.pred.toNat⟩ (BitVec.ofNat 6 a.toNat) (BitVec.ofNat 6 b.toNat) (BitVec.ofNat 4 ch.toNat))) = _
  simp only [BitVec.ofNat_toNat, BitVec.setWidth_eq]
theorem xstatAbort (h : Hdr) (a b : BitVec 6) (ch : BitVec 4) : Statement (.xstatAbort h a b ch) := by
  intro _ hw w1
  refine decode_of_raw (w1 := w1) (by show fieldWidth [(4, ch.toNat), (32, 6291456), (6, b.toNat), (6, a.toNat), (3, h.pred.toNat), (1, h.neg.toNat), (4, h.stall.toNat), (8, 0x89)] = 64; simp only [fieldWidth]) ?_ hw
  rw [show Instr.fields (.xstatAbort h a b ch) = [(4, ch.toNat), (32, 6291456), (6, b.toNat), (6, a.toNat), (3, h.pred.toNat), (1, h.neg.toNat), (4, h.stall.toNat)] ++ [(8, 0x89)] from rfl]
  obtain ⟨e1, e2⟩ := nibbles [(4, ch.toNat), (32, 6291456), (6, b.toNat), (6, a.toNat), (3, h.pred.toNat), (1, h.neg.toNat), (4, h.stall.toNat)] 0x89 8 9 (by simp only [fieldWidth]) rfl rfl
  rw [decodeRaw_hi8 _ _ e1, decHi8_9 _ _ _ e2]
  have u : unpackBits [4, 32, 6, 6, 3, 1, 4, 8] (packBits ([(4, ch.toNat), (32, 6291456), (6, b.toNat), (6, a.toNat), (3, h.pred.toNat), (1, h.neg.toNat), (4, h.stall.toNat)] ++ [(8, 0x89)])) = [ch.toNat, 6291456, b.toNat, a.toNat, h.pred.toNat, h.neg.toNat, h.stall.toNat, 137] :=
    unpackBits_pack [(4, ch.toNat), (32, 6291456), (6, b.toNat), (6, a.toNat), (3, h.pred.toNat), (1, h.neg.toNat), (4, h.stall.toNat), (8, 0x89)] ⟨ch.isLt, by decide, b.isLt, a.isLt, h.pred.isLt, h.neg.isLt, h.stall.isLt, by decide, trivial⟩
  unfold decOp89
  rw [u]
  show (some (Instr.xstatAbort ⟨BitVec.ofNat 4 h.stall.toNat, BitVec.ofNat 1 h.neg.toNat, BitVec.ofNat 3 h.pred.toNat⟩ (BitVec.ofNat 6 a.toNat) (BitVec.ofNat 6 b.toNat) (BitVec.ofNat 4 ch.toNat))) = _
  simp only [BitVec.ofNat_toNat, BitVec.setWidth_eq]
theorem xckpt (h : Hdr) (a b : BitVec 6) (ch : BitVec 4) : Statement (.xckpt h a b ch) := by
  intro _ hw w1
  refine decode_of_raw (w1 := w1) (by show fieldWidth [(4, ch.toNat), (32, 0), (6, b.toNat), (6, a.toNat), (3, h.pred.toNat), (1, h.neg.toNat), (4, h.stall.toNat), (8, 0x8a)] = 64; simp only [fieldWidth]) ?_ hw
  rw [show Instr.fields (.xckpt h a b ch) = [(4, ch.toNat), (32, 0), (6, b.toNat), (6, a.toNat), (3, h.pred.toNat), (1, h.neg.toNat), (4, h.stall.toNat)] ++ [(8, 0x8A)] from rfl]
  obtain ⟨e1, e2⟩ := nibbles [(4, ch.toNat), (32, 0), (6, b.toNat), (6, a.toNat), (3, h.pred.toNat), (1, h.neg.toNat), (4, h.stall.toNat)] 0x8A 8 10 (by simp only [fieldWidth]) rfl rfl
  rw [decodeRaw_hi8 _ _ e1, decHi8_A _ _ _ e2]
  have u : unpackBits [4, 32, 6, 6, 3, 1, 4, 8] (packBits ([(4, ch.toNat), (32, 0), (6, b.toNat), (6, a.toNat), (3, h.pred.toNat), (1, h.neg.toNat), (4, h.stall.toNat)] ++ [(8, 0x8A)])) = [ch.toNat, 0, b.toNat, a.toNat, h.pred.toNat, h.neg.toNat, h.stall.toNat, 138] :=
    unpackBits_pack [(4, ch.toNat), (32, 0), (6, b.toNat), (6, a.toNat), (3, h.pred.toNat), (1, h.neg.toNat), (4, h.stall.toNat), (8, 0x8a)] ⟨ch.isLt, by decide, b.isLt, a.isLt, h.pred.isLt, h.neg.isLt, h.stall.isLt, by decide, trivial⟩
  unfold decOp8A
  rw [u]
  show (some (Instr.xckpt ⟨BitVec.ofNat 4 h.stall.toNat, BitVec.ofNat 1 h.neg.toNat, BitVec.ofNat 3 h.pred.toNat⟩ (BitVec.ofNat 6 a.toNat) (BitVec.ofNat 6 b.toNat) (BitVec.ofNat 4 ch.toNat))) = _
  simp only [BitVec.ofNat_toNat, BitVec.setWidth_eq]
theorem xpromPro (h : Hdr) (a b c : BitVec 6) (ch : BitVec 4) : Statement (.xpromPro h a b c ch) := by
  intro _ hw w1
  refine decode_of_raw (w1 := w1) (by show fieldWidth [(4, ch.toNat), (26, 0), (6, c.toNat), (6, b.toNat), (6, a.toNat), (3, h.pred.toNat), (1, h.neg.toNat), (4, h.stall.toNat), (8, 0x8b)] = 64; simp only [fieldWidth]) ?_ hw
  rw [show Instr.fields (.xpromPro h a b c ch) = [(4, ch.toNat), (26, 0), (6, c.toNat), (6, b.toNat), (6, a.toNat), (3, h.pred.toNat), (1, h.neg.toNat), (4, h.stall.toNat)] ++ [(8, 0x8B)] from rfl]
  obtain ⟨e1, e2⟩ := nibbles [(4, ch.toNat), (26, 0), (6, c.toNat), (6, b.toNat), (6, a.toNat), (3, h.pred.toNat), (1, h.neg.toNat), (4, h.stall.toNat)] 0x8B 8 11 (by simp only [fieldWidth]) rfl rfl
  rw [decodeRaw_hi8 _ _ e1, decHi8_B _ _ _ e2]
  have u : unpackBits [4, 26, 6, 6, 6, 3, 1, 4, 8] (packBits ([(4, ch.toNat), (26, 0), (6, c.toNat), (6, b.toNat), (6, a.toNat), (3, h.pred.toNat), (1, h.neg.toNat), (4, h.stall.toNat)] ++ [(8, 0x8B)])) = [ch.toNat, 0, c.toNat, b.toNat, a.toNat, h.pred.toNat, h.neg.toNat, h.stall.toNat, 139] :=
    unpackBits_pack [(4, ch.toNat), (26, 0), (6, c.toNat), (6, b.toNat), (6, a.toNat), (3, h.pred.toNat), (1, h.neg.toNat), (4, h.stall.toNat), (8, 0x8b)] ⟨ch.isLt, by decide, c.isLt, b.isLt, a.isLt, h.pred.isLt, h.neg.isLt, h.stall.isLt, by decide, trivial⟩
  unfold decOp8B
  rw [u]
  show (some (Instr.xpromPro ⟨BitVec.ofNat 4 h.stall.toNat, BitVec.ofNat 1 h.neg.toNat, BitVec.ofNat 3 h.pred.toNat⟩ (BitVec.ofNat 6 a.toNat) (BitVec.ofNat 6 b.toNat) (BitVec.ofNat 6 c.toNat) (BitVec.ofNat 4 ch.toNat))) = _
  simp only [BitVec.ofNat_toNat, BitVec.setWidth_eq]
theorem xpromDem (h : Hdr) (a b c : BitVec 6) (ch : BitVec 4) : Statement (.xpromDem h a b c ch) := by
  intro _ hw w1
  refine decode_of_raw (w1 := w1) (by show fieldWidth [(4, ch.toNat), (26, 1048576), (6, c.toNat), (6, b.toNat), (6, a.toNat), (3, h.pred.toNat), (1, h.neg.toNat), (4, h.stall.toNat), (8, 0x8b)] = 64; simp only [fieldWidth]) ?_ hw
  rw [show Instr.fields (.xpromDem h a b c ch) = [(4, ch.toNat), (26, 1048576), (6, c.toNat), (6, b.toNat), (6, a.toNat), (3, h.pred.toNat), (1, h.neg.toNat), (4, h.stall.toNat)] ++ [(8, 0x8B)] from rfl]
  obtain ⟨e1, e2⟩ := nibbles [(4, ch.toNat), (26, 1048576), (6, c.toNat), (6, b.toNat), (6, a.toNat), (3, h.pred.toNat), (1, h.neg.toNat), (4, h.stall.toNat)] 0x8B 8 11 (by simp only [fieldWidth]) rfl rfl
  rw [decodeRaw_hi8 _ _ e1, decHi8_B _ _ _ e2]
  have u : unpackBits [4, 26, 6, 6, 6, 3, 1, 4, 8] (packBits ([(4, ch.toNat), (26, 1048576), (6, c.toNat), (6, b.toNat), (6, a.toNat), (3, h.pred.toNat), (1, h.neg.toNat), (4, h.stall.toNat)] ++ [(8, 0x8B)])) = [ch.toNat, 1048576, c.toNat, b.toNat, a.toNat, h.pred.toNat, h.neg.toNat, h.stall.toNat, 139] :=
    unpackBits_pack [(4, ch.toNat), (26, 1048576), (6, c.toNat), (6, b.toNat), (6, a.toNat), (3, h.pred.toNat), (1, h.neg.toNat), (4, h.stall.toNat), (8, 0x8b)] ⟨ch.isLt, by decide, c.isLt, b.isLt, a.isLt, h.pred.isLt, h.neg.isLt, h.stall.isLt, by decide, trivial⟩
  unfold decOp8B
  rw [u]
  show (some (Instr.xpromDem ⟨BitVec.ofNat 4 h.stall.toNat, BitVec.ofNat 1 h.neg.toNat, BitVec.ofNat 3 h.pred.toNat⟩ (BitVec.ofNat 6 a.toNat) (BitVec.ofNat 6 b.toNat) (BitVec.ofNat 6 c.toNat) (BitVec.ofNat 4 ch.toNat))) = _
  simp only [BitVec.ofNat_toNat, BitVec.setWidth_eq]
theorem xredAdd (h : Hdr) (a b c : BitVec 6) (ty : BitVec 3) (ch : BitVec 4) : Statement (.xredAdd h a b c ty ch) := by
  intro _ hw w1
  refine decode_of_raw (w1 := w1) (by show fieldWidth [(4, ch.toNat), (20, 0), (3, ty.toNat), (3, 0), (6, c.toNat), (6, b.toNat), (6, a.toNat), (3, h.pred.toNat), (1, h.neg.toNat), (4, h.stall.toNat), (8, 0x8c)] = 64; simp only [fieldWidth]) ?_ hw
  rw [show Instr.fields (.xredAdd h a b c ty ch) = [(4, ch.toNat), (20, 0), (3, ty.toNat), (3, 0), (6, c.toNat), (6, b.toNat), (6, a.toNat), (3, h.pred.toNat), (1, h.neg.toNat), (4, h.stall.toNat)] ++ [(8, 0x8C)] from rfl]
  obtain ⟨e1, e2⟩ := nibbles [(4, ch.toNat), (20, 0), (3, ty.toNat), (3, 0), (6, c.toNat), (6, b.toNat), (6, a.toNat), (3, h.pred.toNat), (1, h.neg.toNat), (4, h.stall.toNat)] 0x8C 8 12 (by simp only [fieldWidth]) rfl rfl
  rw [decodeRaw_hi8 _ _ e1, decHi8_C _ _ _ e2]
  have u : unpackBits [4, 20, 3, 3, 6, 6, 6, 3, 1, 4, 8] (packBits ([(4, ch.toNat), (20, 0), (3, ty.toNat), (3, 0), (6, c.toNat), (6, b.toNat), (6, a.toNat), (3, h.pred.toNat), (1, h.neg.toNat), (4, h.stall.toNat)] ++ [(8, 0x8C)])) = [ch.toNat, 0, ty.toNat, 0, c.toNat, b.toNat, a.toNat, h.pred.toNat, h.neg.toNat, h.stall.toNat, 140] :=
    unpackBits_pack [(4, ch.toNat), (20, 0), (3, ty.toNat), (3, 0), (6, c.toNat), (6, b.toNat), (6, a.toNat), (3, h.pred.toNat), (1, h.neg.toNat), (4, h.stall.toNat), (8, 0x8c)] ⟨ch.isLt, by decide, ty.isLt, by decide, c.isLt, b.isLt, a.isLt, h.pred.isLt, h.neg.isLt, h.stall.isLt, by decide, trivial⟩
  unfold decOp8C
  rw [u]
  show (some (Instr.xredAdd ⟨BitVec.ofNat 4 h.stall.toNat, BitVec.ofNat 1 h.neg.toNat, BitVec.ofNat 3 h.pred.toNat⟩ (BitVec.ofNat 6 a.toNat) (BitVec.ofNat 6 b.toNat) (BitVec.ofNat 6 c.toNat) (BitVec.ofNat 3 ty.toNat) (BitVec.ofNat 4 ch.toNat))) = _
  simp only [BitVec.ofNat_toNat, BitVec.setWidth_eq]
theorem xredMax (h : Hdr) (a b c : BitVec 6) (ty : BitVec 3) (ch : BitVec 4) : Statement (.xredMax h a b c ty ch) := by
  intro _ hw w1
  refine decode_of_raw (w1 := w1) (by show fieldWidth [(4, ch.toNat), (20, 0), (3, ty.toNat), (3, 1), (6, c.toNat), (6, b.toNat), (6, a.toNat), (3, h.pred.toNat), (1, h.neg.toNat), (4, h.stall.toNat), (8, 0x8c)] = 64; simp only [fieldWidth]) ?_ hw
  rw [show Instr.fields (.xredMax h a b c ty ch) = [(4, ch.toNat), (20, 0), (3, ty.toNat), (3, 1), (6, c.toNat), (6, b.toNat), (6, a.toNat), (3, h.pred.toNat), (1, h.neg.toNat), (4, h.stall.toNat)] ++ [(8, 0x8C)] from rfl]
  obtain ⟨e1, e2⟩ := nibbles [(4, ch.toNat), (20, 0), (3, ty.toNat), (3, 1), (6, c.toNat), (6, b.toNat), (6, a.toNat), (3, h.pred.toNat), (1, h.neg.toNat), (4, h.stall.toNat)] 0x8C 8 12 (by simp only [fieldWidth]) rfl rfl
  rw [decodeRaw_hi8 _ _ e1, decHi8_C _ _ _ e2]
  have u : unpackBits [4, 20, 3, 3, 6, 6, 6, 3, 1, 4, 8] (packBits ([(4, ch.toNat), (20, 0), (3, ty.toNat), (3, 1), (6, c.toNat), (6, b.toNat), (6, a.toNat), (3, h.pred.toNat), (1, h.neg.toNat), (4, h.stall.toNat)] ++ [(8, 0x8C)])) = [ch.toNat, 0, ty.toNat, 1, c.toNat, b.toNat, a.toNat, h.pred.toNat, h.neg.toNat, h.stall.toNat, 140] :=
    unpackBits_pack [(4, ch.toNat), (20, 0), (3, ty.toNat), (3, 1), (6, c.toNat), (6, b.toNat), (6, a.toNat), (3, h.pred.toNat), (1, h.neg.toNat), (4, h.stall.toNat), (8, 0x8c)] ⟨ch.isLt, by decide, ty.isLt, by decide, c.isLt, b.isLt, a.isLt, h.pred.isLt, h.neg.isLt, h.stall.isLt, by decide, trivial⟩
  unfold decOp8C
  rw [u]
  show (some (Instr.xredMax ⟨BitVec.ofNat 4 h.stall.toNat, BitVec.ofNat 1 h.neg.toNat, BitVec.ofNat 3 h.pred.toNat⟩ (BitVec.ofNat 6 a.toNat) (BitVec.ofNat 6 b.toNat) (BitVec.ofNat 6 c.toNat) (BitVec.ofNat 3 ty.toNat) (BitVec.ofNat 4 ch.toNat))) = _
  simp only [BitVec.ofNat_toNat, BitVec.setWidth_eq]
theorem xkv (h : Hdr) (a b c : BitVec 6) (ch : BitVec 4) : Statement (.xkv h a b c ch) := by
  intro _ hw w1
  refine decode_of_raw (w1 := w1) (by show fieldWidth [(4, ch.toNat), (26, 0), (6, c.toNat), (6, b.toNat), (6, a.toNat), (3, h.pred.toNat), (1, h.neg.toNat), (4, h.stall.toNat), (8, 0x8d)] = 64; simp only [fieldWidth]) ?_ hw
  rw [show Instr.fields (.xkv h a b c ch) = [(4, ch.toNat), (26, 0), (6, c.toNat), (6, b.toNat), (6, a.toNat), (3, h.pred.toNat), (1, h.neg.toNat), (4, h.stall.toNat)] ++ [(8, 0x8D)] from rfl]
  obtain ⟨e1, e2⟩ := nibbles [(4, ch.toNat), (26, 0), (6, c.toNat), (6, b.toNat), (6, a.toNat), (3, h.pred.toNat), (1, h.neg.toNat), (4, h.stall.toNat)] 0x8D 8 13 (by simp only [fieldWidth]) rfl rfl
  rw [decodeRaw_hi8 _ _ e1, decHi8_D _ _ _ e2]
  have u : unpackBits [4, 26, 6, 6, 6, 3, 1, 4, 8] (packBits ([(4, ch.toNat), (26, 0), (6, c.toNat), (6, b.toNat), (6, a.toNat), (3, h.pred.toNat), (1, h.neg.toNat), (4, h.stall.toNat)] ++ [(8, 0x8D)])) = [ch.toNat, 0, c.toNat, b.toNat, a.toNat, h.pred.toNat, h.neg.toNat, h.stall.toNat, 141] :=
    unpackBits_pack [(4, ch.toNat), (26, 0), (6, c.toNat), (6, b.toNat), (6, a.toNat), (3, h.pred.toNat), (1, h.neg.toNat), (4, h.stall.toNat), (8, 0x8d)] ⟨ch.isLt, by decide, c.isLt, b.isLt, a.isLt, h.pred.isLt, h.neg.isLt, h.stall.isLt, by decide, trivial⟩
  unfold decOp8D
  rw [u]
  show (some (Instr.xkv ⟨BitVec.ofNat 4 h.stall.toNat, BitVec.ofNat 1 h.neg.toNat, BitVec.ofNat 3 h.pred.toNat⟩ (BitVec.ofNat 6 a.toNat) (BitVec.ofNat 6 b.toNat) (BitVec.ofNat 6 c.toNat) (BitVec.ofNat 4 ch.toNat))) = _
  simp only [BitVec.ofNat_toNat, BitVec.setWidth_eq]
theorem xdense (h : Hdr) (a b c : BitVec 6) (ch : BitVec 4) : Statement (.xdense h a b c ch) := by
  intro _ hw w1
  refine decode_of_raw (w1 := w1) (by show fieldWidth [(4, ch.toNat), (26, 0), (6, c.toNat), (6, b.toNat), (6, a.toNat), (3, h.pred.toNat), (1, h.neg.toNat), (4, h.stall.toNat), (8, 0x8e)] = 64; simp only [fieldWidth]) ?_ hw
  rw [show Instr.fields (.xdense h a b c ch) = [(4, ch.toNat), (26, 0), (6, c.toNat), (6, b.toNat), (6, a.toNat), (3, h.pred.toNat), (1, h.neg.toNat), (4, h.stall.toNat)] ++ [(8, 0x8E)] from rfl]
  obtain ⟨e1, e2⟩ := nibbles [(4, ch.toNat), (26, 0), (6, c.toNat), (6, b.toNat), (6, a.toNat), (3, h.pred.toNat), (1, h.neg.toNat), (4, h.stall.toNat)] 0x8E 8 14 (by simp only [fieldWidth]) rfl rfl
  rw [decodeRaw_hi8 _ _ e1, decHi8_E _ _ _ e2]
  have u : unpackBits [4, 26, 6, 6, 6, 3, 1, 4, 8] (packBits ([(4, ch.toNat), (26, 0), (6, c.toNat), (6, b.toNat), (6, a.toNat), (3, h.pred.toNat), (1, h.neg.toNat), (4, h.stall.toNat)] ++ [(8, 0x8E)])) = [ch.toNat, 0, c.toNat, b.toNat, a.toNat, h.pred.toNat, h.neg.toNat, h.stall.toNat, 142] :=
    unpackBits_pack [(4, ch.toNat), (26, 0), (6, c.toNat), (6, b.toNat), (6, a.toNat), (3, h.pred.toNat), (1, h.neg.toNat), (4, h.stall.toNat), (8, 0x8e)] ⟨ch.isLt, by decide, c.isLt, b.isLt, a.isLt, h.pred.isLt, h.neg.isLt, h.stall.isLt, by decide, trivial⟩
  unfold decOp8E
  rw [u]
  show (some (Instr.xdense ⟨BitVec.ofNat 4 h.stall.toNat, BitVec.ofNat 1 h.neg.toNat, BitVec.ofNat 3 h.pred.toNat⟩ (BitVec.ofNat 6 a.toNat) (BitVec.ofNat 6 b.toNat) (BitVec.ofNat 6 c.toNat) (BitVec.ofNat 4 ch.toNat))) = _
  simp only [BitVec.ofNat_toNat, BitVec.setWidth_eq]
theorem xclass (h : Hdr) (a b c : BitVec 6) (ch : BitVec 4) : Statement (.xclass h a b c ch) := by
  intro _ hw w1
  refine decode_of_raw (w1 := w1) (by show fieldWidth [(4, ch.toNat), (26, 0), (6, c.toNat), (6, b.toNat), (6, a.toNat), (3, h.pred.toNat), (1, h.neg.toNat), (4, h.stall.toNat), (8, 0x8f)] = 64; simp only [fieldWidth]) ?_ hw
  rw [show Instr.fields (.xclass h a b c ch) = [(4, ch.toNat), (26, 0), (6, c.toNat), (6, b.toNat), (6, a.toNat), (3, h.pred.toNat), (1, h.neg.toNat), (4, h.stall.toNat)] ++ [(8, 0x8F)] from rfl]
  obtain ⟨e1, e2⟩ := nibbles [(4, ch.toNat), (26, 0), (6, c.toNat), (6, b.toNat), (6, a.toNat), (3, h.pred.toNat), (1, h.neg.toNat), (4, h.stall.toNat)] 0x8F 8 15 (by simp only [fieldWidth]) rfl rfl
  rw [decodeRaw_hi8 _ _ e1, decHi8_F _ _ _ e2]
  have u : unpackBits [4, 26, 6, 6, 6, 3, 1, 4, 8] (packBits ([(4, ch.toNat), (26, 0), (6, c.toNat), (6, b.toNat), (6, a.toNat), (3, h.pred.toNat), (1, h.neg.toNat), (4, h.stall.toNat)] ++ [(8, 0x8F)])) = [ch.toNat, 0, c.toNat, b.toNat, a.toNat, h.pred.toNat, h.neg.toNat, h.stall.toNat, 143] :=
    unpackBits_pack [(4, ch.toNat), (26, 0), (6, c.toNat), (6, b.toNat), (6, a.toNat), (3, h.pred.toNat), (1, h.neg.toNat), (4, h.stall.toNat), (8, 0x8f)] ⟨ch.isLt, by decide, c.isLt, b.isLt, a.isLt, h.pred.isLt, h.neg.isLt, h.stall.isLt, by decide, trivial⟩
  unfold decOp8F
  rw [u]
  show (some (Instr.xclass ⟨BitVec.ofNat 4 h.stall.toNat, BitVec.ofNat 1 h.neg.toNat, BitVec.ofNat 3 h.pred.toNat⟩ (BitVec.ofNat 6 a.toNat) (BitVec.ofNat 6 b.toNat) (BitVec.ofNat 6 c.toNat) (BitVec.ofNat 4 ch.toNat))) = _
  simp only [BitVec.ofNat_toNat, BitVec.setWidth_eq]
theorem mcfg (h : Hdr) (a b : BitVec 6) : Statement (.mcfg h a b) := by
  intro _ hw w1
  refine decode_of_raw (w1 := w1) (by show fieldWidth [(36, 0), (6, b.toNat), (6, a.toNat), (3, h.pred.toNat), (1, h.neg.toNat), (4, h.stall.toNat), (8, 0x90)] = 64; simp only [fieldWidth]) ?_ hw
  rw [show Instr.fields (.mcfg h a b) = [(36, 0), (6, b.toNat), (6, a.toNat), (3, h.pred.toNat), (1, h.neg.toNat), (4, h.stall.toNat)] ++ [(8, 0x90)] from rfl]
  obtain ⟨e1, e2⟩ := nibbles [(36, 0), (6, b.toNat), (6, a.toNat), (3, h.pred.toNat), (1, h.neg.toNat), (4, h.stall.toNat)] 0x90 9 0 (by simp only [fieldWidth]) rfl rfl
  rw [decodeRaw_hi9 _ _ e1, decHi9_0 _ _ _ e2]
  have u : unpackBits [36, 6, 6, 3, 1, 4, 8] (packBits ([(36, 0), (6, b.toNat), (6, a.toNat), (3, h.pred.toNat), (1, h.neg.toNat), (4, h.stall.toNat)] ++ [(8, 0x90)])) = [0, b.toNat, a.toNat, h.pred.toNat, h.neg.toNat, h.stall.toNat, 144] :=
    unpackBits_pack [(36, 0), (6, b.toNat), (6, a.toNat), (3, h.pred.toNat), (1, h.neg.toNat), (4, h.stall.toNat), (8, 0x90)] ⟨by decide, b.isLt, a.isLt, h.pred.isLt, h.neg.isLt, h.stall.isLt, by decide, trivial⟩
  unfold decOp90
  rw [u]
  show (some (Instr.mcfg ⟨BitVec.ofNat 4 h.stall.toNat, BitVec.ofNat 1 h.neg.toNat, BitVec.ofNat 3 h.pred.toNat⟩ (BitVec.ofNat 6 a.toNat) (BitVec.ofNat 6 b.toNat))) = _
  simp only [BitVec.ofNat_toNat, BitVec.setWidth_eq]
theorem mma (h : Hdr) (a b c : BitVec 6) (frm mem ovw : BitVec 1) (tl : BitVec 3) : Statement (.mma h a b c frm mem ovw tl) := by
  intro _ hw w1
  refine decode_of_raw (w1 := w1) (by show fieldWidth [(3, tl.toNat), (21, 0), (1, ovw.toNat), (1, mem.toNat), (1, frm.toNat), (3, 0), (6, c.toNat), (6, b.toNat), (6, a.toNat), (3, h.pred.toNat), (1, h.neg.toNat), (4, h.stall.toNat), (8, 0x91)] = 64; simp only [fieldWidth]) ?_ hw
  rw [show Instr.fields (.mma h a b c frm mem ovw tl) = [(3, tl.toNat), (21, 0), (1, ovw.toNat), (1, mem.toNat), (1, frm.toNat), (3, 0), (6, c.toNat), (6, b.toNat), (6, a.toNat), (3, h.pred.toNat), (1, h.neg.toNat), (4, h.stall.toNat)] ++ [(8, 0x91)] from rfl]
  obtain ⟨e1, e2⟩ := nibbles [(3, tl.toNat), (21, 0), (1, ovw.toNat), (1, mem.toNat), (1, frm.toNat), (3, 0), (6, c.toNat), (6, b.toNat), (6, a.toNat), (3, h.pred.toNat), (1, h.neg.toNat), (4, h.stall.toNat)] 0x91 9 1 (by simp only [fieldWidth]) rfl rfl
  rw [decodeRaw_hi9 _ _ e1, decHi9_1 _ _ _ e2]
  have u : unpackBits [3, 21, 1, 1, 1, 3, 6, 6, 6, 3, 1, 4, 8] (packBits ([(3, tl.toNat), (21, 0), (1, ovw.toNat), (1, mem.toNat), (1, frm.toNat), (3, 0), (6, c.toNat), (6, b.toNat), (6, a.toNat), (3, h.pred.toNat), (1, h.neg.toNat), (4, h.stall.toNat)] ++ [(8, 0x91)])) = [tl.toNat, 0, ovw.toNat, mem.toNat, frm.toNat, 0, c.toNat, b.toNat, a.toNat, h.pred.toNat, h.neg.toNat, h.stall.toNat, 145] :=
    unpackBits_pack [(3, tl.toNat), (21, 0), (1, ovw.toNat), (1, mem.toNat), (1, frm.toNat), (3, 0), (6, c.toNat), (6, b.toNat), (6, a.toNat), (3, h.pred.toNat), (1, h.neg.toNat), (4, h.stall.toNat), (8, 0x91)] ⟨tl.isLt, by decide, ovw.isLt, mem.isLt, frm.isLt, by decide, c.isLt, b.isLt, a.isLt, h.pred.isLt, h.neg.isLt, h.stall.isLt, by decide, trivial⟩
  unfold decOp91
  rw [u]
  show (some (Instr.mma ⟨BitVec.ofNat 4 h.stall.toNat, BitVec.ofNat 1 h.neg.toNat, BitVec.ofNat 3 h.pred.toNat⟩ (BitVec.ofNat 6 a.toNat) (BitVec.ofNat 6 b.toNat) (BitVec.ofNat 6 c.toNat) (BitVec.ofNat 1 frm.toNat) (BitVec.ofNat 1 mem.toNat) (BitVec.ofNat 1 ovw.toNat) (BitVec.ofNat 3 tl.toNat))) = _
  simp only [BitVec.ofNat_toNat, BitVec.setWidth_eq]
theorem mmax (h : Hdr) (a b c : BitVec 6) (frm mem ovw : BitVec 1) (tl : BitVec 3) : Statement (.mmax h a b c frm mem ovw tl) := by
  intro _ hw w1
  refine decode_of_raw (w1 := w1) (by show fieldWidth [(3, tl.toNat), (21, 0), (1, ovw.toNat), (1, mem.toNat), (1, frm.toNat), (3, 0), (6, c.toNat), (6, b.toNat), (6, a.toNat), (3, h.pred.toNat), (1, h.neg.toNat), (4, h.stall.toNat), (8, 0x92)] = 64; simp only [fieldWidth]) ?_ hw
  rw [show Instr.fields (.mmax h a b c frm mem ovw tl) = [(3, tl.toNat), (21, 0), (1, ovw.toNat), (1, mem.toNat), (1, frm.toNat), (3, 0), (6, c.toNat), (6, b.toNat), (6, a.toNat), (3, h.pred.toNat), (1, h.neg.toNat), (4, h.stall.toNat)] ++ [(8, 0x92)] from rfl]
  obtain ⟨e1, e2⟩ := nibbles [(3, tl.toNat), (21, 0), (1, ovw.toNat), (1, mem.toNat), (1, frm.toNat), (3, 0), (6, c.toNat), (6, b.toNat), (6, a.toNat), (3, h.pred.toNat), (1, h.neg.toNat), (4, h.stall.toNat)] 0x92 9 2 (by simp only [fieldWidth]) rfl rfl
  rw [decodeRaw_hi9 _ _ e1, decHi9_2 _ _ _ e2]
  have u : unpackBits [3, 21, 1, 1, 1, 3, 6, 6, 6, 3, 1, 4, 8] (packBits ([(3, tl.toNat), (21, 0), (1, ovw.toNat), (1, mem.toNat), (1, frm.toNat), (3, 0), (6, c.toNat), (6, b.toNat), (6, a.toNat), (3, h.pred.toNat), (1, h.neg.toNat), (4, h.stall.toNat)] ++ [(8, 0x92)])) = [tl.toNat, 0, ovw.toNat, mem.toNat, frm.toNat, 0, c.toNat, b.toNat, a.toNat, h.pred.toNat, h.neg.toNat, h.stall.toNat, 146] :=
    unpackBits_pack [(3, tl.toNat), (21, 0), (1, ovw.toNat), (1, mem.toNat), (1, frm.toNat), (3, 0), (6, c.toNat), (6, b.toNat), (6, a.toNat), (3, h.pred.toNat), (1, h.neg.toNat), (4, h.stall.toNat), (8, 0x92)] ⟨tl.isLt, by decide, ovw.isLt, mem.isLt, frm.isLt, by decide, c.isLt, b.isLt, a.isLt, h.pred.isLt, h.neg.isLt, h.stall.isLt, by decide, trivial⟩
  unfold decOp92
  rw [u]
  show (some (Instr.mmax ⟨BitVec.ofNat 4 h.stall.toNat, BitVec.ofNat 1 h.neg.toNat, BitVec.ofNat 3 h.pred.toNat⟩ (BitVec.ofNat 6 a.toNat) (BitVec.ofNat 6 b.toNat) (BitVec.ofNat 6 c.toNat) (BitVec.ofNat 1 frm.toNat) (BitVec.ofNat 1 mem.toNat) (BitVec.ofNat 1 ovw.toNat) (BitVec.ofNat 3 tl.toNat))) = _
  simp only [BitVec.ofNat_toNat, BitVec.setWidth_eq]
theorem mlda (h : Hdr) (a b c : BitVec 6) (f64 : BitVec 1) (cols rows : BitVec 7) (tl : BitVec 3) : Statement (.mlda h a b c f64 cols rows tl) := by
  intro _ hw w1
  refine decode_of_raw (w1 := w1) (by show fieldWidth [(3, tl.toNat), (1, 0), (7, rows.toNat), (7, cols.toNat), (6, 0), (1, f64.toNat), (5, 0), (6, c.toNat), (6, b.toNat), (6, a.toNat), (3, h.pred.toNat), (1, h.neg.toNat), (4, h.stall.toNat), (8, 0x93)] = 64; simp only [fieldWidth]) ?_ hw
  rw [show Instr.fields (.mlda h a b c f64 cols rows tl) = [(3, tl.toNat), (1, 0), (7, rows.toNat), (7, cols.toNat), (6, 0), (1, f64.toNat), (5, 0), (6, c.toNat), (6, b.toNat), (6, a.toNat), (3, h.pred.toNat), (1, h.neg.toNat), (4, h.stall.toNat)] ++ [(8, 0x93)] from rfl]
  obtain ⟨e1, e2⟩ := nibbles [(3, tl.toNat), (1, 0), (7, rows.toNat), (7, cols.toNat), (6, 0), (1, f64.toNat), (5, 0), (6, c.toNat), (6, b.toNat), (6, a.toNat), (3, h.pred.toNat), (1, h.neg.toNat), (4, h.stall.toNat)] 0x93 9 3 (by simp only [fieldWidth]) rfl rfl
  rw [decodeRaw_hi9 _ _ e1, decHi9_3 _ _ _ e2]
  have u : unpackBits [3, 1, 7, 7, 6, 1, 5, 6, 6, 6, 3, 1, 4, 8] (packBits ([(3, tl.toNat), (1, 0), (7, rows.toNat), (7, cols.toNat), (6, 0), (1, f64.toNat), (5, 0), (6, c.toNat), (6, b.toNat), (6, a.toNat), (3, h.pred.toNat), (1, h.neg.toNat), (4, h.stall.toNat)] ++ [(8, 0x93)])) = [tl.toNat, 0, rows.toNat, cols.toNat, 0, f64.toNat, 0, c.toNat, b.toNat, a.toNat, h.pred.toNat, h.neg.toNat, h.stall.toNat, 147] :=
    unpackBits_pack [(3, tl.toNat), (1, 0), (7, rows.toNat), (7, cols.toNat), (6, 0), (1, f64.toNat), (5, 0), (6, c.toNat), (6, b.toNat), (6, a.toNat), (3, h.pred.toNat), (1, h.neg.toNat), (4, h.stall.toNat), (8, 0x93)] ⟨tl.isLt, by decide, rows.isLt, cols.isLt, by decide, f64.isLt, by decide, c.isLt, b.isLt, a.isLt, h.pred.isLt, h.neg.isLt, h.stall.isLt, by decide, trivial⟩
  unfold decOp93
  rw [u]
  show (some (Instr.mlda ⟨BitVec.ofNat 4 h.stall.toNat, BitVec.ofNat 1 h.neg.toNat, BitVec.ofNat 3 h.pred.toNat⟩ (BitVec.ofNat 6 a.toNat) (BitVec.ofNat 6 b.toNat) (BitVec.ofNat 6 c.toNat) (BitVec.ofNat 1 f64.toNat) (BitVec.ofNat 7 cols.toNat) (BitVec.ofNat 7 rows.toNat) (BitVec.ofNat 3 tl.toNat))) = _
  simp only [BitVec.ofNat_toNat, BitVec.setWidth_eq]
theorem msta (h : Hdr) (a b c : BitVec 6) (cols rows : BitVec 7) (tl : BitVec 3) : Statement (.msta h a b c cols rows tl) := by
  intro _ hw w1
  refine decode_of_raw (w1 := w1) (by show fieldWidth [(3, tl.toNat), (1, 0), (7, rows.toNat), (7, cols.toNat), (12, 0), (6, c.toNat), (6, b.toNat), (6, a.toNat), (3, h.pred.toNat), (1, h.neg.toNat), (4, h.stall.toNat), (8, 0x94)] = 64; simp only [fieldWidth]) ?_ hw
  rw [show Instr.fields (.msta h a b c cols rows tl) = [(3, tl.toNat), (1, 0), (7, rows.toNat), (7, cols.toNat), (12, 0), (6, c.toNat), (6, b.toNat), (6, a.toNat), (3, h.pred.toNat), (1, h.neg.toNat), (4, h.stall.toNat)] ++ [(8, 0x94)] from rfl]
  obtain ⟨e1, e2⟩ := nibbles [(3, tl.toNat), (1, 0), (7, rows.toNat), (7, cols.toNat), (12, 0), (6, c.toNat), (6, b.toNat), (6, a.toNat), (3, h.pred.toNat), (1, h.neg.toNat), (4, h.stall.toNat)] 0x94 9 4 (by simp only [fieldWidth]) rfl rfl
  rw [decodeRaw_hi9 _ _ e1, decHi9_4 _ _ _ e2]
  have u : unpackBits [3, 1, 7, 7, 12, 6, 6, 6, 3, 1, 4, 8] (packBits ([(3, tl.toNat), (1, 0), (7, rows.toNat), (7, cols.toNat), (12, 0), (6, c.toNat), (6, b.toNat), (6, a.toNat), (3, h.pred.toNat), (1, h.neg.toNat), (4, h.stall.toNat)] ++ [(8, 0x94)])) = [tl.toNat, 0, rows.toNat, cols.toNat, 0, c.toNat, b.toNat, a.toNat, h.pred.toNat, h.neg.toNat, h.stall.toNat, 148] :=
    unpackBits_pack [(3, tl.toNat), (1, 0), (7, rows.toNat), (7, cols.toNat), (12, 0), (6, c.toNat), (6, b.toNat), (6, a.toNat), (3, h.pred.toNat), (1, h.neg.toNat), (4, h.stall.toNat), (8, 0x94)] ⟨tl.isLt, by decide, rows.isLt, cols.isLt, by decide, c.isLt, b.isLt, a.isLt, h.pred.isLt, h.neg.isLt, h.stall.isLt, by decide, trivial⟩
  unfold decOp94
  rw [u]
  show (some (Instr.msta ⟨BitVec.ofNat 4 h.stall.toNat, BitVec.ofNat 1 h.neg.toNat, BitVec.ofNat 3 h.pred.toNat⟩ (BitVec.ofNat 6 a.toNat) (BitVec.ofNat 6 b.toNat) (BitVec.ofNat 6 c.toNat) (BitVec.ofNat 7 cols.toNat) (BitVec.ofNat 7 rows.toNat) (BitVec.ofNat 3 tl.toNat))) = _
  simp only [BitVec.ofNat_toNat, BitVec.setWidth_eq]
theorem mzero (h : Hdr) (a : BitVec 6) (mask : BitVec 8) : Statement (.mzero h a mask) := by
  intro _ hw w1
  refine decode_of_raw (w1 := w1) (by show fieldWidth [(8, mask.toNat), (34, 0), (6, a.toNat), (3, h.pred.toNat), (1, h.neg.toNat), (4, h.stall.toNat), (8, 0x95)] = 64; simp only [fieldWidth]) ?_ hw
  rw [show Instr.fields (.mzero h a mask) = [(8, mask.toNat), (34, 0), (6, a.toNat), (3, h.pred.toNat), (1, h.neg.toNat), (4, h.stall.toNat)] ++ [(8, 0x95)] from rfl]
  obtain ⟨e1, e2⟩ := nibbles [(8, mask.toNat), (34, 0), (6, a.toNat), (3, h.pred.toNat), (1, h.neg.toNat), (4, h.stall.toNat)] 0x95 9 5 (by simp only [fieldWidth]) rfl rfl
  rw [decodeRaw_hi9 _ _ e1, decHi9_5 _ _ _ e2]
  have u : unpackBits [8, 34, 6, 3, 1, 4, 8] (packBits ([(8, mask.toNat), (34, 0), (6, a.toNat), (3, h.pred.toNat), (1, h.neg.toNat), (4, h.stall.toNat)] ++ [(8, 0x95)])) = [mask.toNat, 0, a.toNat, h.pred.toNat, h.neg.toNat, h.stall.toNat, 149] :=
    unpackBits_pack [(8, mask.toNat), (34, 0), (6, a.toNat), (3, h.pred.toNat), (1, h.neg.toNat), (4, h.stall.toNat), (8, 0x95)] ⟨mask.isLt, by decide, a.isLt, h.pred.isLt, h.neg.isLt, h.stall.isLt, by decide, trivial⟩
  unfold decOp95
  rw [u]
  show (some (Instr.mzero ⟨BitVec.ofNat 4 h.stall.toNat, BitVec.ofNat 1 h.neg.toNat, BitVec.ofNat 3 h.pred.toNat⟩ (BitVec.ofNat 6 a.toNat) (BitVec.ofNat 8 mask.toNat))) = _
  simp only [BitVec.ofNat_toNat, BitVec.setWidth_eq]
theorem mconv (h : Hdr) (a b c : BitVec 6) (frm mem ovw : BitVec 1) (tl : BitVec 3) : Statement (.mconv h a b c frm mem ovw tl) := by
  intro _ hw w1
  refine decode_of_raw (w1 := w1) (by show fieldWidth [(3, tl.toNat), (21, 0), (1, ovw.toNat), (1, mem.toNat), (1, frm.toNat), (3, 0), (6, c.toNat), (6, b.toNat), (6, a.toNat), (3, h.pred.toNat), (1, h.neg.toNat), (4, h.stall.toNat), (8, 0x96)] = 64; simp only [fieldWidth]) ?_ hw
  rw [show Instr.fields (.mconv h a b c frm mem ovw tl) = [(3, tl.toNat), (21, 0), (1, ovw.toNat), (1, mem.toNat), (1, frm.toNat), (3, 0), (6, c.toNat), (6, b.toNat), (6, a.toNat), (3, h.pred.toNat), (1, h.neg.toNat), (4, h.stall.toNat)] ++ [(8, 0x96)] from rfl]
  obtain ⟨e1, e2⟩ := nibbles [(3, tl.toNat), (21, 0), (1, ovw.toNat), (1, mem.toNat), (1, frm.toNat), (3, 0), (6, c.toNat), (6, b.toNat), (6, a.toNat), (3, h.pred.toNat), (1, h.neg.toNat), (4, h.stall.toNat)] 0x96 9 6 (by simp only [fieldWidth]) rfl rfl
  rw [decodeRaw_hi9 _ _ e1, decHi9_6 _ _ _ e2]
  have u : unpackBits [3, 21, 1, 1, 1, 3, 6, 6, 6, 3, 1, 4, 8] (packBits ([(3, tl.toNat), (21, 0), (1, ovw.toNat), (1, mem.toNat), (1, frm.toNat), (3, 0), (6, c.toNat), (6, b.toNat), (6, a.toNat), (3, h.pred.toNat), (1, h.neg.toNat), (4, h.stall.toNat)] ++ [(8, 0x96)])) = [tl.toNat, 0, ovw.toNat, mem.toNat, frm.toNat, 0, c.toNat, b.toNat, a.toNat, h.pred.toNat, h.neg.toNat, h.stall.toNat, 150] :=
    unpackBits_pack [(3, tl.toNat), (21, 0), (1, ovw.toNat), (1, mem.toNat), (1, frm.toNat), (3, 0), (6, c.toNat), (6, b.toNat), (6, a.toNat), (3, h.pred.toNat), (1, h.neg.toNat), (4, h.stall.toNat), (8, 0x96)] ⟨tl.isLt, by decide, ovw.isLt, mem.isLt, frm.isLt, by decide, c.isLt, b.isLt, a.isLt, h.pred.isLt, h.neg.isLt, h.stall.isLt, by decide, trivial⟩
  unfold decOp96
  rw [u]
  show (some (Instr.mconv ⟨BitVec.ofNat 4 h.stall.toNat, BitVec.ofNat 1 h.neg.toNat, BitVec.ofNat 3 h.pred.toNat⟩ (BitVec.ofNat 6 a.toNat) (BitVec.ofNat 6 b.toNat) (BitVec.ofNat 6 c.toNat) (BitVec.ofNat 1 frm.toNat) (BitVec.ofNat 1 mem.toNat) (BitVec.ofNat 1 ovw.toNat) (BitVec.ofNat 3 tl.toNat))) = _
  simp only [BitVec.ofNat_toNat, BitVec.setWidth_eq]
theorem mque (h : Hdr) (a b c : BitVec 6) : Statement (.mque h a b c) := by
  intro _ hw w1
  refine decode_of_raw (w1 := w1) (by show fieldWidth [(30, 0), (6, c.toNat), (6, b.toNat), (6, a.toNat), (3, h.pred.toNat), (1, h.neg.toNat), (4, h.stall.toNat), (8, 0x97)] = 64; simp only [fieldWidth]) ?_ hw
  rw [show Instr.fields (.mque h a b c) = [(30, 0), (6, c.toNat), (6, b.toNat), (6, a.toNat), (3, h.pred.toNat), (1, h.neg.toNat), (4, h.stall.toNat)] ++ [(8, 0x97)] from rfl]
  obtain ⟨e1, e2⟩ := nibbles [(30, 0), (6, c.toNat), (6, b.toNat), (6, a.toNat), (3, h.pred.toNat), (1, h.neg.toNat), (4, h.stall.toNat)] 0x97 9 7 (by simp only [fieldWidth]) rfl rfl
  rw [decodeRaw_hi9 _ _ e1, decHi9_7 _ _ _ e2]
  have u : unpackBits [30, 6, 6, 6, 3, 1, 4, 8] (packBits ([(30, 0), (6, c.toNat), (6, b.toNat), (6, a.toNat), (3, h.pred.toNat), (1, h.neg.toNat), (4, h.stall.toNat)] ++ [(8, 0x97)])) = [0, c.toNat, b.toNat, a.toNat, h.pred.toNat, h.neg.toNat, h.stall.toNat, 151] :=
    unpackBits_pack [(30, 0), (6, c.toNat), (6, b.toNat), (6, a.toNat), (3, h.pred.toNat), (1, h.neg.toNat), (4, h.stall.toNat), (8, 0x97)] ⟨by decide, c.isLt, b.isLt, a.isLt, h.pred.isLt, h.neg.isLt, h.stall.isLt, by decide, trivial⟩
  unfold decOp97
  rw [u]
  show (some (Instr.mque ⟨BitVec.ofNat 4 h.stall.toNat, BitVec.ofNat 1 h.neg.toNat, BitVec.ofNat 3 h.pred.toNat⟩ (BitVec.ofNat 6 a.toNat) (BitVec.ofNat 6 b.toNat) (BitVec.ofNat 6 c.toNat))) = _
  simp only [BitVec.ofNat_toNat, BitVec.setWidth_eq]
theorem mwait (h : Hdr) (a b : BitVec 6) : Statement (.mwait h a b) := by
  intro _ hw w1
  refine decode_of_raw (w1 := w1) (by show fieldWidth [(30, 0), (6, 0), (6, b.toNat), (6, a.toNat), (3, h.pred.toNat), (1, h.neg.toNat), (4, h.stall.toNat), (8, 0x98)] = 64; simp only [fieldWidth]) ?_ hw
  rw [show Instr.fields (.mwait h a b) = [(30, 0), (6, 0), (6, b.toNat), (6, a.toNat), (3, h.pred.toNat), (1, h.neg.toNat), (4, h.stall.toNat)] ++ [(8, 0x98)] from rfl]
  obtain ⟨e1, e2⟩ := nibbles [(30, 0), (6, 0), (6, b.toNat), (6, a.toNat), (3, h.pred.toNat), (1, h.neg.toNat), (4, h.stall.toNat)] 0x98 9 8 (by simp only [fieldWidth]) rfl rfl
  rw [decodeRaw_hi9 _ _ e1, decHi9_8 _ _ _ e2]
  have u : unpackBits [30, 6, 6, 6, 3, 1, 4, 8] (packBits ([(30, 0), (6, 0), (6, b.toNat), (6, a.toNat), (3, h.pred.toNat), (1, h.neg.toNat), (4, h.stall.toNat)] ++ [(8, 0x98)])) = [0, 0, b.toNat, a.toNat, h.pred.toNat, h.neg.toNat, h.stall.toNat, 152] :=
    unpackBits_pack [(30, 0), (6, 0), (6, b.toNat), (6, a.toNat), (3, h.pred.toNat), (1, h.neg.toNat), (4, h.stall.toNat), (8, 0x98)] ⟨by decide, by decide, b.isLt, a.isLt, h.pred.isLt, h.neg.isLt, h.stall.isLt, by decide, trivial⟩
  unfold decOp98
  rw [u]
  show (some (Instr.mwait ⟨BitVec.ofNat 4 h.stall.toNat, BitVec.ofNat 1 h.neg.toNat, BitVec.ofNat 3 h.pred.toNat⟩ (BitVec.ofNat 6 a.toNat) (BitVec.ofNat 6 b.toNat))) = _
  simp only [BitVec.ofNat_toNat, BitVec.setWidth_eq]
theorem mwaitTask (h : Hdr) (a b c : BitVec 6) : Statement (.mwaitTask h a b c) := by
  intro _ hw w1
  refine decode_of_raw (w1 := w1) (by show fieldWidth [(30, 16777216), (6, c.toNat), (6, b.toNat), (6, a.toNat), (3, h.pred.toNat), (1, h.neg.toNat), (4, h.stall.toNat), (8, 0x98)] = 64; simp only [fieldWidth]) ?_ hw
  rw [show Instr.fields (.mwaitTask h a b c) = [(30, 16777216), (6, c.toNat), (6, b.toNat), (6, a.toNat), (3, h.pred.toNat), (1, h.neg.toNat), (4, h.stall.toNat)] ++ [(8, 0x98)] from rfl]
  obtain ⟨e1, e2⟩ := nibbles [(30, 16777216), (6, c.toNat), (6, b.toNat), (6, a.toNat), (3, h.pred.toNat), (1, h.neg.toNat), (4, h.stall.toNat)] 0x98 9 8 (by simp only [fieldWidth]) rfl rfl
  rw [decodeRaw_hi9 _ _ e1, decHi9_8 _ _ _ e2]
  have u : unpackBits [30, 6, 6, 6, 3, 1, 4, 8] (packBits ([(30, 16777216), (6, c.toNat), (6, b.toNat), (6, a.toNat), (3, h.pred.toNat), (1, h.neg.toNat), (4, h.stall.toNat)] ++ [(8, 0x98)])) = [16777216, c.toNat, b.toNat, a.toNat, h.pred.toNat, h.neg.toNat, h.stall.toNat, 152] :=
    unpackBits_pack [(30, 16777216), (6, c.toNat), (6, b.toNat), (6, a.toNat), (3, h.pred.toNat), (1, h.neg.toNat), (4, h.stall.toNat), (8, 0x98)] ⟨by decide, c.isLt, b.isLt, a.isLt, h.pred.isLt, h.neg.isLt, h.stall.isLt, by decide, trivial⟩
  unfold decOp98
  rw [u]
  show (some (Instr.mwaitTask ⟨BitVec.ofNat 4 h.stall.toNat, BitVec.ofNat 1 h.neg.toNat, BitVec.ofNat 3 h.pred.toNat⟩ (BitVec.ofNat 6 a.toNat) (BitVec.ofNat 6 b.toNat) (BitVec.ofNat 6 c.toNat))) = _
  simp only [BitVec.ofNat_toNat, BitVec.setWidth_eq]
theorem mstatDone (h : Hdr) (a b : BitVec 6) : Statement (.mstatDone h a b) := by
  intro _ hw w1
  refine decode_of_raw (w1 := w1) (by show fieldWidth [(36, 0), (6, b.toNat), (6, a.toNat), (3, h.pred.toNat), (1, h.neg.toNat), (4, h.stall.toNat), (8, 0x99)] = 64; simp only [fieldWidth]) ?_ hw
  rw [show Instr.fields (.mstatDone h a b) = [(36, 0), (6, b.toNat), (6, a.toNat), (3, h.pred.toNat), (1, h.neg.toNat), (4, h.stall.toNat)] ++ [(8, 0x99)] from rfl]
  obtain ⟨e1, e2⟩ := nibbles [(36, 0), (6, b.toNat), (6, a.toNat), (3, h.pred.toNat), (1, h.neg.toNat), (4, h.stall.toNat)] 0x99 9 9 (by simp only [fieldWidth]) rfl rfl
  rw [decodeRaw_hi9 _ _ e1, decHi9_9 _ _ _ e2]
  have u : unpackBits [36, 6, 6, 3, 1, 4, 8] (packBits ([(36, 0), (6, b.toNat), (6, a.toNat), (3, h.pred.toNat), (1, h.neg.toNat), (4, h.stall.toNat)] ++ [(8, 0x99)])) = [0, b.toNat, a.toNat, h.pred.toNat, h.neg.toNat, h.stall.toNat, 153] :=
    unpackBits_pack [(36, 0), (6, b.toNat), (6, a.toNat), (3, h.pred.toNat), (1, h.neg.toNat), (4, h.stall.toNat), (8, 0x99)] ⟨by decide, b.isLt, a.isLt, h.pred.isLt, h.neg.isLt, h.stall.isLt, by decide, trivial⟩
  unfold decOp99
  rw [u]
  show (some (Instr.mstatDone ⟨BitVec.ofNat 4 h.stall.toNat, BitVec.ofNat 1 h.neg.toNat, BitVec.ofNat 3 h.pred.toNat⟩ (BitVec.ofNat 6 a.toNat) (BitVec.ofNat 6 b.toNat))) = _
  simp only [BitVec.ofNat_toNat, BitVec.setWidth_eq]
theorem mstatNext (h : Hdr) (a b : BitVec 6) : Statement (.mstatNext h a b) := by
  intro _ hw w1
  refine decode_of_raw (w1 := w1) (by show fieldWidth [(36, 16777216), (6, b.toNat), (6, a.toNat), (3, h.pred.toNat), (1, h.neg.toNat), (4, h.stall.toNat), (8, 0x99)] = 64; simp only [fieldWidth]) ?_ hw
  rw [show Instr.fields (.mstatNext h a b) = [(36, 16777216), (6, b.toNat), (6, a.toNat), (3, h.pred.toNat), (1, h.neg.toNat), (4, h.stall.toNat)] ++ [(8, 0x99)] from rfl]
  obtain ⟨e1, e2⟩ := nibbles [(36, 16777216), (6, b.toNat), (6, a.toNat), (3, h.pred.toNat), (1, h.neg.toNat), (4, h.stall.toNat)] 0x99 9 9 (by simp only [fieldWidth]) rfl rfl
  rw [decodeRaw_hi9 _ _ e1, decHi9_9 _ _ _ e2]
  have u : unpackBits [36, 6, 6, 3, 1, 4, 8] (packBits ([(36, 16777216), (6, b.toNat), (6, a.toNat), (3, h.pred.toNat), (1, h.neg.toNat), (4, h.stall.toNat)] ++ [(8, 0x99)])) = [16777216, b.toNat, a.toNat, h.pred.toNat, h.neg.toNat, h.stall.toNat, 153] :=
    unpackBits_pack [(36, 16777216), (6, b.toNat), (6, a.toNat), (3, h.pred.toNat), (1, h.neg.toNat), (4, h.stall.toNat), (8, 0x99)] ⟨by decide, b.isLt, a.isLt, h.pred.isLt, h.neg.isLt, h.stall.isLt, by decide, trivial⟩
  unfold decOp99
  rw [u]
  show (some (Instr.mstatNext ⟨BitVec.ofNat 4 h.stall.toNat, BitVec.ofNat 1 h.neg.toNat, BitVec.ofNat 3 h.pred.toNat⟩ (BitVec.ofNat 6 a.toNat) (BitVec.ofNat 6 b.toNat))) = _
  simp only [BitVec.ofNat_toNat, BitVec.setWidth_eq]
theorem mstatFault (h : Hdr) (a b : BitVec 6) : Statement (.mstatFault h a b) := by
  intro _ hw w1
  refine decode_of_raw (w1 := w1) (by show fieldWidth [(36, 33554432), (6, b.toNat), (6, a.toNat), (3, h.pred.toNat), (1, h.neg.toNat), (4, h.stall.toNat), (8, 0x99)] = 64; simp only [fieldWidth]) ?_ hw
  rw [show Instr.fields (.mstatFault h a b) = [(36, 33554432), (6, b.toNat), (6, a.toNat), (3, h.pred.toNat), (1, h.neg.toNat), (4, h.stall.toNat)] ++ [(8, 0x99)] from rfl]
  obtain ⟨e1, e2⟩ := nibbles [(36, 33554432), (6, b.toNat), (6, a.toNat), (3, h.pred.toNat), (1, h.neg.toNat), (4, h.stall.toNat)] 0x99 9 9 (by simp only [fieldWidth]) rfl rfl
  rw [decodeRaw_hi9 _ _ e1, decHi9_9 _ _ _ e2]
  have u : unpackBits [36, 6, 6, 3, 1, 4, 8] (packBits ([(36, 33554432), (6, b.toNat), (6, a.toNat), (3, h.pred.toNat), (1, h.neg.toNat), (4, h.stall.toNat)] ++ [(8, 0x99)])) = [33554432, b.toNat, a.toNat, h.pred.toNat, h.neg.toNat, h.stall.toNat, 153] :=
    unpackBits_pack [(36, 33554432), (6, b.toNat), (6, a.toNat), (3, h.pred.toNat), (1, h.neg.toNat), (4, h.stall.toNat), (8, 0x99)] ⟨by decide, b.isLt, a.isLt, h.pred.isLt, h.neg.isLt, h.stall.isLt, by decide, trivial⟩
  unfold decOp99
  rw [u]
  show (some (Instr.mstatFault ⟨BitVec.ofNat 4 h.stall.toNat, BitVec.ofNat 1 h.neg.toNat, BitVec.ofNat 3 h.pred.toNat⟩ (BitVec.ofNat 6 a.toNat) (BitVec.ofNat 6 b.toNat))) = _
  simp only [BitVec.ofNat_toNat, BitVec.setWidth_eq]
theorem mstatFaddr (h : Hdr) (a b : BitVec 6) : Statement (.mstatFaddr h a b) := by
  intro _ hw w1
  refine decode_of_raw (w1 := w1) (by show fieldWidth [(36, 50331648), (6, b.toNat), (6, a.toNat), (3, h.pred.toNat), (1, h.neg.toNat), (4, h.stall.toNat), (8, 0x99)] = 64; simp only [fieldWidth]) ?_ hw
  rw [show Instr.fields (.mstatFaddr h a b) = [(36, 50331648), (6, b.toNat), (6, a.toNat), (3, h.pred.toNat), (1, h.neg.toNat), (4, h.stall.toNat)] ++ [(8, 0x99)] from rfl]
  obtain ⟨e1, e2⟩ := nibbles [(36, 50331648), (6, b.toNat), (6, a.toNat), (3, h.pred.toNat), (1, h.neg.toNat), (4, h.stall.toNat)] 0x99 9 9 (by simp only [fieldWidth]) rfl rfl
  rw [decodeRaw_hi9 _ _ e1, decHi9_9 _ _ _ e2]
  have u : unpackBits [36, 6, 6, 3, 1, 4, 8] (packBits ([(36, 50331648), (6, b.toNat), (6, a.toNat), (3, h.pred.toNat), (1, h.neg.toNat), (4, h.stall.toNat)] ++ [(8, 0x99)])) = [50331648, b.toNat, a.toNat, h.pred.toNat, h.neg.toNat, h.stall.toNat, 153] :=
    unpackBits_pack [(36, 50331648), (6, b.toNat), (6, a.toNat), (3, h.pred.toNat), (1, h.neg.toNat), (4, h.stall.toNat), (8, 0x99)] ⟨by decide, b.isLt, a.isLt, h.pred.isLt, h.neg.isLt, h.stall.isLt, by decide, trivial⟩
  unfold decOp99
  rw [u]
  show (some (Instr.mstatFaddr ⟨BitVec.ofNat 4 h.stall.toNat, BitVec.ofNat 1 h.neg.toNat, BitVec.ofNat 3 h.pred.toNat⟩ (BitVec.ofNat 6 a.toNat) (BitVec.ofNat 6 b.toNat))) = _
  simp only [BitVec.ofNat_toNat, BitVec.setWidth_eq]
theorem mstatRow (h : Hdr) (a b : BitVec 6) : Statement (.mstatRow h a b) := by
  intro _ hw w1
  refine decode_of_raw (w1 := w1) (by show fieldWidth [(36, 67108864), (6, b.toNat), (6, a.toNat), (3, h.pred.toNat), (1, h.neg.toNat), (4, h.stall.toNat), (8, 0x99)] = 64; simp only [fieldWidth]) ?_ hw
  rw [show Instr.fields (.mstatRow h a b) = [(36, 67108864), (6, b.toNat), (6, a.toNat), (3, h.pred.toNat), (1, h.neg.toNat), (4, h.stall.toNat)] ++ [(8, 0x99)] from rfl]
  obtain ⟨e1, e2⟩ := nibbles [(36, 67108864), (6, b.toNat), (6, a.toNat), (3, h.pred.toNat), (1, h.neg.toNat), (4, h.stall.toNat)] 0x99 9 9 (by simp only [fieldWidth]) rfl rfl
  rw [decodeRaw_hi9 _ _ e1, decHi9_9 _ _ _ e2]
  have u : unpackBits [36, 6, 6, 3, 1, 4, 8] (packBits ([(36, 67108864), (6, b.toNat), (6, a.toNat), (3, h.pred.toNat), (1, h.neg.toNat), (4, h.stall.toNat)] ++ [(8, 0x99)])) = [67108864, b.toNat, a.toNat, h.pred.toNat, h.neg.toNat, h.stall.toNat, 153] :=
    unpackBits_pack [(36, 67108864), (6, b.toNat), (6, a.toNat), (3, h.pred.toNat), (1, h.neg.toNat), (4, h.stall.toNat), (8, 0x99)] ⟨by decide, b.isLt, a.isLt, h.pred.isLt, h.neg.isLt, h.stall.isLt, by decide, trivial⟩
  unfold decOp99
  rw [u]
  show (some (Instr.mstatRow ⟨BitVec.ofNat 4 h.stall.toNat, BitVec.ofNat 1 h.neg.toNat, BitVec.ofNat 3 h.pred.toNat⟩ (BitVec.ofNat 6 a.toNat) (BitVec.ofNat 6 b.toNat))) = _
  simp only [BitVec.ofNat_toNat, BitVec.setWidth_eq]
theorem mstatResume (h : Hdr) (a b : BitVec 6) : Statement (.mstatResume h a b) := by
  intro _ hw w1
  refine decode_of_raw (w1 := w1) (by show fieldWidth [(36, 83886080), (6, b.toNat), (6, a.toNat), (3, h.pred.toNat), (1, h.neg.toNat), (4, h.stall.toNat), (8, 0x99)] = 64; simp only [fieldWidth]) ?_ hw
  rw [show Instr.fields (.mstatResume h a b) = [(36, 83886080), (6, b.toNat), (6, a.toNat), (3, h.pred.toNat), (1, h.neg.toNat), (4, h.stall.toNat)] ++ [(8, 0x99)] from rfl]
  obtain ⟨e1, e2⟩ := nibbles [(36, 83886080), (6, b.toNat), (6, a.toNat), (3, h.pred.toNat), (1, h.neg.toNat), (4, h.stall.toNat)] 0x99 9 9 (by simp only [fieldWidth]) rfl rfl
  rw [decodeRaw_hi9 _ _ e1, decHi9_9 _ _ _ e2]
  have u : unpackBits [36, 6, 6, 3, 1, 4, 8] (packBits ([(36, 83886080), (6, b.toNat), (6, a.toNat), (3, h.pred.toNat), (1, h.neg.toNat), (4, h.stall.toNat)] ++ [(8, 0x99)])) = [83886080, b.toNat, a.toNat, h.pred.toNat, h.neg.toNat, h.stall.toNat, 153] :=
    unpackBits_pack [(36, 83886080), (6, b.toNat), (6, a.toNat), (3, h.pred.toNat), (1, h.neg.toNat), (4, h.stall.toNat), (8, 0x99)] ⟨by decide, b.isLt, a.isLt, h.pred.isLt, h.neg.isLt, h.stall.isLt, by decide, trivial⟩
  unfold decOp99
  rw [u]
  show (some (Instr.mstatResume ⟨BitVec.ofNat 4 h.stall.toNat, BitVec.ofNat 1 h.neg.toNat, BitVec.ofNat 3 h.pred.toNat⟩ (BitVec.ofNat 6 a.toNat) (BitVec.ofNat 6 b.toNat))) = _
  simp only [BitVec.ofNat_toNat, BitVec.setWidth_eq]
theorem mstatAbort (h : Hdr) (a b : BitVec 6) : Statement (.mstatAbort h a b) := by
  intro _ hw w1
  refine decode_of_raw (w1 := w1) (by show fieldWidth [(36, 100663296), (6, b.toNat), (6, a.toNat), (3, h.pred.toNat), (1, h.neg.toNat), (4, h.stall.toNat), (8, 0x99)] = 64; simp only [fieldWidth]) ?_ hw
  rw [show Instr.fields (.mstatAbort h a b) = [(36, 100663296), (6, b.toNat), (6, a.toNat), (3, h.pred.toNat), (1, h.neg.toNat), (4, h.stall.toNat)] ++ [(8, 0x99)] from rfl]
  obtain ⟨e1, e2⟩ := nibbles [(36, 100663296), (6, b.toNat), (6, a.toNat), (3, h.pred.toNat), (1, h.neg.toNat), (4, h.stall.toNat)] 0x99 9 9 (by simp only [fieldWidth]) rfl rfl
  rw [decodeRaw_hi9 _ _ e1, decHi9_9 _ _ _ e2]
  have u : unpackBits [36, 6, 6, 3, 1, 4, 8] (packBits ([(36, 100663296), (6, b.toNat), (6, a.toNat), (3, h.pred.toNat), (1, h.neg.toNat), (4, h.stall.toNat)] ++ [(8, 0x99)])) = [100663296, b.toNat, a.toNat, h.pred.toNat, h.neg.toNat, h.stall.toNat, 153] :=
    unpackBits_pack [(36, 100663296), (6, b.toNat), (6, a.toNat), (3, h.pred.toNat), (1, h.neg.toNat), (4, h.stall.toNat), (8, 0x99)] ⟨by decide, b.isLt, a.isLt, h.pred.isLt, h.neg.isLt, h.stall.isLt, by decide, trivial⟩
  unfold decOp99
  rw [u]
  show (some (Instr.mstatAbort ⟨BitVec.ofNat 4 h.stall.toNat, BitVec.ofNat 1 h.neg.toNat, BitVec.ofNat 3 h.pred.toNat⟩ (BitVec.ofNat 6 a.toNat) (BitVec.ofNat 6 b.toNat))) = _
  simp only [BitVec.ofNat_toNat, BitVec.setWidth_eq]
theorem mstatEv (h : Hdr) (a b : BitVec 6) : Statement (.mstatEv h a b) := by
  intro _ hw w1
  refine decode_of_raw (w1 := w1) (by show fieldWidth [(36, 117440512), (6, b.toNat), (6, a.toNat), (3, h.pred.toNat), (1, h.neg.toNat), (4, h.stall.toNat), (8, 0x99)] = 64; simp only [fieldWidth]) ?_ hw
  rw [show Instr.fields (.mstatEv h a b) = [(36, 117440512), (6, b.toNat), (6, a.toNat), (3, h.pred.toNat), (1, h.neg.toNat), (4, h.stall.toNat)] ++ [(8, 0x99)] from rfl]
  obtain ⟨e1, e2⟩ := nibbles [(36, 117440512), (6, b.toNat), (6, a.toNat), (3, h.pred.toNat), (1, h.neg.toNat), (4, h.stall.toNat)] 0x99 9 9 (by simp only [fieldWidth]) rfl rfl
  rw [decodeRaw_hi9 _ _ e1, decHi9_9 _ _ _ e2]
  have u : unpackBits [36, 6, 6, 3, 1, 4, 8] (packBits ([(36, 117440512), (6, b.toNat), (6, a.toNat), (3, h.pred.toNat), (1, h.neg.toNat), (4, h.stall.toNat)] ++ [(8, 0x99)])) = [117440512, b.toNat, a.toNat, h.pred.toNat, h.neg.toNat, h.stall.toNat, 153] :=
    unpackBits_pack [(36, 117440512), (6, b.toNat), (6, a.toNat), (3, h.pred.toNat), (1, h.neg.toNat), (4, h.stall.toNat), (8, 0x99)] ⟨by decide, b.isLt, a.isLt, h.pred.isLt, h.neg.isLt, h.stall.isLt, by decide, trivial⟩
  unfold decOp99
  rw [u]
  show (some (Instr.mstatEv ⟨BitVec.ofNat 4 h.stall.toNat, BitVec.ofNat 1 h.neg.toNat, BitVec.ofNat 3 h.pred.toNat⟩ (BitVec.ofNat 6 a.toNat) (BitVec.ofNat 6 b.toNat))) = _
  simp only [BitVec.ofNat_toNat, BitVec.setWidth_eq]
theorem mstatFmt (h : Hdr) (a b : BitVec 6) : Statement (.mstatFmt h a b) := by
  intro _ hw w1
  refine decode_of_raw (w1 := w1) (by show fieldWidth [(36, 134217728), (6, b.toNat), (6, a.toNat), (3, h.pred.toNat), (1, h.neg.toNat), (4, h.stall.toNat), (8, 0x99)] = 64; simp only [fieldWidth]) ?_ hw
  rw [show Instr.fields (.mstatFmt h a b) = [(36, 134217728), (6, b.toNat), (6, a.toNat), (3, h.pred.toNat), (1, h.neg.toNat), (4, h.stall.toNat)] ++ [(8, 0x99)] from rfl]
  obtain ⟨e1, e2⟩ := nibbles [(36, 134217728), (6, b.toNat), (6, a.toNat), (3, h.pred.toNat), (1, h.neg.toNat), (4, h.stall.toNat)] 0x99 9 9 (by simp only [fieldWidth]) rfl rfl
  rw [decodeRaw_hi9 _ _ e1, decHi9_9 _ _ _ e2]
  have u : unpackBits [36, 6, 6, 3, 1, 4, 8] (packBits ([(36, 134217728), (6, b.toNat), (6, a.toNat), (3, h.pred.toNat), (1, h.neg.toNat), (4, h.stall.toNat)] ++ [(8, 0x99)])) = [134217728, b.toNat, a.toNat, h.pred.toNat, h.neg.toNat, h.stall.toNat, 153] :=
    unpackBits_pack [(36, 134217728), (6, b.toNat), (6, a.toNat), (3, h.pred.toNat), (1, h.neg.toNat), (4, h.stall.toNat), (8, 0x99)] ⟨by decide, b.isLt, a.isLt, h.pred.isLt, h.neg.isLt, h.stall.isLt, by decide, trivial⟩
  unfold decOp99
  rw [u]
  show (some (Instr.mstatFmt ⟨BitVec.ofNat 4 h.stall.toNat, BitVec.ofNat 1 h.neg.toNat, BitVec.ofNat 3 h.pred.toNat⟩ (BitVec.ofNat 6 a.toNat) (BitVec.ofNat 6 b.toNat))) = _
  simp only [BitVec.ofNat_toNat, BitVec.setWidth_eq]
theorem mamax (h : Hdr) (a b : BitVec 6) (cols rows : BitVec 7) (tl : BitVec 3) : Statement (.mamax h a b cols rows tl) := by
  intro _ hw w1
  refine decode_of_raw (w1 := w1) (by show fieldWidth [(3, tl.toNat), (1, 0), (7, rows.toNat), (7, cols.toNat), (18, 0), (6, b.toNat), (6, a.toNat), (3, h.pred.toNat), (1, h.neg.toNat), (4, h.stall.toNat), (8, 0x9a)] = 64; simp only [fieldWidth]) ?_ hw
  rw [show Instr.fields (.mamax h a b cols rows tl) = [(3, tl.toNat), (1, 0), (7, rows.toNat), (7, cols.toNat), (18, 0), (6, b.toNat), (6, a.toNat), (3, h.pred.toNat), (1, h.neg.toNat), (4, h.stall.toNat)] ++ [(8, 0x9A)] from rfl]
  obtain ⟨e1, e2⟩ := nibbles [(3, tl.toNat), (1, 0), (7, rows.toNat), (7, cols.toNat), (18, 0), (6, b.toNat), (6, a.toNat), (3, h.pred.toNat), (1, h.neg.toNat), (4, h.stall.toNat)] 0x9A 9 10 (by simp only [fieldWidth]) rfl rfl
  rw [decodeRaw_hi9 _ _ e1, decHi9_A _ _ _ e2]
  have u : unpackBits [3, 1, 7, 7, 18, 6, 6, 3, 1, 4, 8] (packBits ([(3, tl.toNat), (1, 0), (7, rows.toNat), (7, cols.toNat), (18, 0), (6, b.toNat), (6, a.toNat), (3, h.pred.toNat), (1, h.neg.toNat), (4, h.stall.toNat)] ++ [(8, 0x9A)])) = [tl.toNat, 0, rows.toNat, cols.toNat, 0, b.toNat, a.toNat, h.pred.toNat, h.neg.toNat, h.stall.toNat, 154] :=
    unpackBits_pack [(3, tl.toNat), (1, 0), (7, rows.toNat), (7, cols.toNat), (18, 0), (6, b.toNat), (6, a.toNat), (3, h.pred.toNat), (1, h.neg.toNat), (4, h.stall.toNat), (8, 0x9a)] ⟨tl.isLt, by decide, rows.isLt, cols.isLt, by decide, b.isLt, a.isLt, h.pred.isLt, h.neg.isLt, h.stall.isLt, by decide, trivial⟩
  unfold decOp9A
  rw [u]
  show (some (Instr.mamax ⟨BitVec.ofNat 4 h.stall.toNat, BitVec.ofNat 1 h.neg.toNat, BitVec.ofNat 3 h.pred.toNat⟩ (BitVec.ofNat 6 a.toNat) (BitVec.ofNat 6 b.toNat) (BitVec.ofNat 7 cols.toNat) (BitVec.ofNat 7 rows.toNat) (BitVec.ofNat 3 tl.toNat))) = _
  simp only [BitVec.ofNat_toNat, BitVec.setWidth_eq]
theorem mquant (h : Hdr) (a b c : BitVec 6) (e4m3 : BitVec 1) (cols rows : BitVec 7) (tl : BitVec 3) : Statement (.mquant h a b c e4m3 cols rows tl) := by
  intro _ hw w1
  refine decode_of_raw (w1 := w1) (by show fieldWidth [(3, tl.toNat), (1, 0), (7, rows.toNat), (7, cols.toNat), (6, 0), (1, e4m3.toNat), (5, 0), (6, c.toNat), (6, b.toNat), (6, a.toNat), (3, h.pred.toNat), (1, h.neg.toNat), (4, h.stall.toNat), (8, 0x9b)] = 64; simp only [fieldWidth]) ?_ hw
  rw [show Instr.fields (.mquant h a b c e4m3 cols rows tl) = [(3, tl.toNat), (1, 0), (7, rows.toNat), (7, cols.toNat), (6, 0), (1, e4m3.toNat), (5, 0), (6, c.toNat), (6, b.toNat), (6, a.toNat), (3, h.pred.toNat), (1, h.neg.toNat), (4, h.stall.toNat)] ++ [(8, 0x9B)] from rfl]
  obtain ⟨e1, e2⟩ := nibbles [(3, tl.toNat), (1, 0), (7, rows.toNat), (7, cols.toNat), (6, 0), (1, e4m3.toNat), (5, 0), (6, c.toNat), (6, b.toNat), (6, a.toNat), (3, h.pred.toNat), (1, h.neg.toNat), (4, h.stall.toNat)] 0x9B 9 11 (by simp only [fieldWidth]) rfl rfl
  rw [decodeRaw_hi9 _ _ e1, decHi9_B _ _ _ e2]
  have u : unpackBits [3, 1, 7, 7, 6, 1, 5, 6, 6, 6, 3, 1, 4, 8] (packBits ([(3, tl.toNat), (1, 0), (7, rows.toNat), (7, cols.toNat), (6, 0), (1, e4m3.toNat), (5, 0), (6, c.toNat), (6, b.toNat), (6, a.toNat), (3, h.pred.toNat), (1, h.neg.toNat), (4, h.stall.toNat)] ++ [(8, 0x9B)])) = [tl.toNat, 0, rows.toNat, cols.toNat, 0, e4m3.toNat, 0, c.toNat, b.toNat, a.toNat, h.pred.toNat, h.neg.toNat, h.stall.toNat, 155] :=
    unpackBits_pack [(3, tl.toNat), (1, 0), (7, rows.toNat), (7, cols.toNat), (6, 0), (1, e4m3.toNat), (5, 0), (6, c.toNat), (6, b.toNat), (6, a.toNat), (3, h.pred.toNat), (1, h.neg.toNat), (4, h.stall.toNat), (8, 0x9b)] ⟨tl.isLt, by decide, rows.isLt, cols.isLt, by decide, e4m3.isLt, by decide, c.isLt, b.isLt, a.isLt, h.pred.isLt, h.neg.isLt, h.stall.isLt, by decide, trivial⟩
  unfold decOp9B
  rw [u]
  show (some (Instr.mquant ⟨BitVec.ofNat 4 h.stall.toNat, BitVec.ofNat 1 h.neg.toNat, BitVec.ofNat 3 h.pred.toNat⟩ (BitVec.ofNat 6 a.toNat) (BitVec.ofNat 6 b.toNat) (BitVec.ofNat 6 c.toNat) (BitVec.ofNat 1 e4m3.toNat) (BitVec.ofNat 7 cols.toNat) (BitVec.ofNat 7 rows.toNat) (BitVec.ofNat 3 tl.toNat))) = _
  simp only [BitVec.ofNat_toNat, BitVec.setWidth_eq]
theorem msoft (h : Hdr) (a b c : BitVec 6) (cols rows : BitVec 7) (tl : BitVec 3) : Statement (.msoft h a b c cols rows tl) := by
  intro _ hw w1
  refine decode_of_raw (w1 := w1) (by show fieldWidth [(3, tl.toNat), (1, 0), (7, rows.toNat), (7, cols.toNat), (12, 0), (6, c.toNat), (6, b.toNat), (6, a.toNat), (3, h.pred.toNat), (1, h.neg.toNat), (4, h.stall.toNat), (8, 0x9c)] = 64; simp only [fieldWidth]) ?_ hw
  rw [show Instr.fields (.msoft h a b c cols rows tl) = [(3, tl.toNat), (1, 0), (7, rows.toNat), (7, cols.toNat), (12, 0), (6, c.toNat), (6, b.toNat), (6, a.toNat), (3, h.pred.toNat), (1, h.neg.toNat), (4, h.stall.toNat)] ++ [(8, 0x9C)] from rfl]
  obtain ⟨e1, e2⟩ := nibbles [(3, tl.toNat), (1, 0), (7, rows.toNat), (7, cols.toNat), (12, 0), (6, c.toNat), (6, b.toNat), (6, a.toNat), (3, h.pred.toNat), (1, h.neg.toNat), (4, h.stall.toNat)] 0x9C 9 12 (by simp only [fieldWidth]) rfl rfl
  rw [decodeRaw_hi9 _ _ e1, decHi9_C _ _ _ e2]
  have u : unpackBits [3, 1, 7, 7, 12, 6, 6, 6, 3, 1, 4, 8] (packBits ([(3, tl.toNat), (1, 0), (7, rows.toNat), (7, cols.toNat), (12, 0), (6, c.toNat), (6, b.toNat), (6, a.toNat), (3, h.pred.toNat), (1, h.neg.toNat), (4, h.stall.toNat)] ++ [(8, 0x9C)])) = [tl.toNat, 0, rows.toNat, cols.toNat, 0, c.toNat, b.toNat, a.toNat, h.pred.toNat, h.neg.toNat, h.stall.toNat, 156] :=
    unpackBits_pack [(3, tl.toNat), (1, 0), (7, rows.toNat), (7, cols.toNat), (12, 0), (6, c.toNat), (6, b.toNat), (6, a.toNat), (3, h.pred.toNat), (1, h.neg.toNat), (4, h.stall.toNat), (8, 0x9c)] ⟨tl.isLt, by decide, rows.isLt, cols.isLt, by decide, c.isLt, b.isLt, a.isLt, h.pred.isLt, h.neg.isLt, h.stall.isLt, by decide, trivial⟩
  unfold decOp9C
  rw [u]
  show (some (Instr.msoft ⟨BitVec.ofNat 4 h.stall.toNat, BitVec.ofNat 1 h.neg.toNat, BitVec.ofNat 3 h.pred.toNat⟩ (BitVec.ofNat 6 a.toNat) (BitVec.ofNat 6 b.toNat) (BitVec.ofNat 6 c.toNat) (BitVec.ofNat 7 cols.toNat) (BitVec.ofNat 7 rows.toNat) (BitVec.ofNat 3 tl.toNat))) = _
  simp only [BitVec.ofNat_toNat, BitVec.setWidth_eq]
theorem mtrans (h : Hdr) (a : BitVec 6) (ts td : BitVec 3) : Statement (.mtrans h a ts td) := by
  intro _ hw w1
  refine decode_of_raw (w1 := w1) (by show fieldWidth [(3, td.toNat), (3, ts.toNat), (36, 0), (6, a.toNat), (3, h.pred.toNat), (1, h.neg.toNat), (4, h.stall.toNat), (8, 0x9d)] = 64; simp only [fieldWidth]) ?_ hw
  rw [show Instr.fields (.mtrans h a ts td) = [(3, td.toNat), (3, ts.toNat), (36, 0), (6, a.toNat), (3, h.pred.toNat), (1, h.neg.toNat), (4, h.stall.toNat)] ++ [(8, 0x9D)] from rfl]
  obtain ⟨e1, e2⟩ := nibbles [(3, td.toNat), (3, ts.toNat), (36, 0), (6, a.toNat), (3, h.pred.toNat), (1, h.neg.toNat), (4, h.stall.toNat)] 0x9D 9 13 (by simp only [fieldWidth]) rfl rfl
  rw [decodeRaw_hi9 _ _ e1, decHi9_D _ _ _ e2]
  have u : unpackBits [3, 3, 36, 6, 3, 1, 4, 8] (packBits ([(3, td.toNat), (3, ts.toNat), (36, 0), (6, a.toNat), (3, h.pred.toNat), (1, h.neg.toNat), (4, h.stall.toNat)] ++ [(8, 0x9D)])) = [td.toNat, ts.toNat, 0, a.toNat, h.pred.toNat, h.neg.toNat, h.stall.toNat, 157] :=
    unpackBits_pack [(3, td.toNat), (3, ts.toNat), (36, 0), (6, a.toNat), (3, h.pred.toNat), (1, h.neg.toNat), (4, h.stall.toNat), (8, 0x9d)] ⟨td.isLt, ts.isLt, by decide, a.isLt, h.pred.isLt, h.neg.isLt, h.stall.isLt, by decide, trivial⟩
  unfold decOp9D
  rw [u]
  show (some (Instr.mtrans ⟨BitVec.ofNat 4 h.stall.toNat, BitVec.ofNat 1 h.neg.toNat, BitVec.ofNat 3 h.pred.toNat⟩ (BitVec.ofNat 6 a.toNat) (BitVec.ofNat 3 ts.toNat) (BitVec.ofNat 3 td.toNat))) = _
  simp only [BitVec.ofNat_toNat, BitVec.setWidth_eq]
theorem msave (h : Hdr) (a b : BitVec 6) : Statement (.msave h a b) := by
  intro _ hw w1
  refine decode_of_raw (w1 := w1) (by show fieldWidth [(36, 0), (6, b.toNat), (6, a.toNat), (3, h.pred.toNat), (1, h.neg.toNat), (4, h.stall.toNat), (8, 0x9e)] = 64; simp only [fieldWidth]) ?_ hw
  rw [show Instr.fields (.msave h a b) = [(36, 0), (6, b.toNat), (6, a.toNat), (3, h.pred.toNat), (1, h.neg.toNat), (4, h.stall.toNat)] ++ [(8, 0x9E)] from rfl]
  obtain ⟨e1, e2⟩ := nibbles [(36, 0), (6, b.toNat), (6, a.toNat), (3, h.pred.toNat), (1, h.neg.toNat), (4, h.stall.toNat)] 0x9E 9 14 (by simp only [fieldWidth]) rfl rfl
  rw [decodeRaw_hi9 _ _ e1, decHi9_E _ _ _ e2]
  have u : unpackBits [36, 6, 6, 3, 1, 4, 8] (packBits ([(36, 0), (6, b.toNat), (6, a.toNat), (3, h.pred.toNat), (1, h.neg.toNat), (4, h.stall.toNat)] ++ [(8, 0x9E)])) = [0, b.toNat, a.toNat, h.pred.toNat, h.neg.toNat, h.stall.toNat, 158] :=
    unpackBits_pack [(36, 0), (6, b.toNat), (6, a.toNat), (3, h.pred.toNat), (1, h.neg.toNat), (4, h.stall.toNat), (8, 0x9e)] ⟨by decide, b.isLt, a.isLt, h.pred.isLt, h.neg.isLt, h.stall.isLt, by decide, trivial⟩
  unfold decOp9E
  rw [u]
  show (some (Instr.msave ⟨BitVec.ofNat 4 h.stall.toNat, BitVec.ofNat 1 h.neg.toNat, BitVec.ofNat 3 h.pred.toNat⟩ (BitVec.ofNat 6 a.toNat) (BitVec.ofNat 6 b.toNat))) = _
  simp only [BitVec.ofNat_toNat, BitVec.setWidth_eq]
theorem mrest (h : Hdr) (a b : BitVec 6) : Statement (.mrest h a b) := by
  intro _ hw w1
  refine decode_of_raw (w1 := w1) (by show fieldWidth [(36, 0), (6, b.toNat), (6, a.toNat), (3, h.pred.toNat), (1, h.neg.toNat), (4, h.stall.toNat), (8, 0x9f)] = 64; simp only [fieldWidth]) ?_ hw
  rw [show Instr.fields (.mrest h a b) = [(36, 0), (6, b.toNat), (6, a.toNat), (3, h.pred.toNat), (1, h.neg.toNat), (4, h.stall.toNat)] ++ [(8, 0x9F)] from rfl]
  obtain ⟨e1, e2⟩ := nibbles [(36, 0), (6, b.toNat), (6, a.toNat), (3, h.pred.toNat), (1, h.neg.toNat), (4, h.stall.toNat)] 0x9F 9 15 (by simp only [fieldWidth]) rfl rfl
  rw [decodeRaw_hi9 _ _ e1, decHi9_F _ _ _ e2]
  have u : unpackBits [36, 6, 6, 3, 1, 4, 8] (packBits ([(36, 0), (6, b.toNat), (6, a.toNat), (3, h.pred.toNat), (1, h.neg.toNat), (4, h.stall.toNat)] ++ [(8, 0x9F)])) = [0, b.toNat, a.toNat, h.pred.toNat, h.neg.toNat, h.stall.toNat, 159] :=
    unpackBits_pack [(36, 0), (6, b.toNat), (6, a.toNat), (3, h.pred.toNat), (1, h.neg.toNat), (4, h.stall.toNat), (8, 0x9f)] ⟨by decide, b.isLt, a.isLt, h.pred.isLt, h.neg.isLt, h.stall.isLt, by decide, trivial⟩
  unfold decOp9F
  rw [u]
  show (some (Instr.mrest ⟨BitVec.ofNat 4 h.stall.toNat, BitVec.ofNat 1 h.neg.toNat, BitVec.ofNat 3 h.pred.toNat⟩ (BitVec.ofNat 6 a.toNat) (BitVec.ofNat 6 b.toNat))) = _
  simp only [BitVec.ofNat_toNat, BitVec.setWidth_eq]
theorem afcfg (nst : BitVec 4) (fd : BitVec 5) (s : BitVec 6) : Statement (.afcfg nst fd s) := by
  intro _ hw w1
  refine decode_of_raw (w1 := w1) (by show fieldWidth [(18, 0), (6, s.toNat), (16, 0), (5, fd.toNat), (7, 56), (4, nst.toNat), (8, 0xa0)] = 64; simp only [fieldWidth]) ?_ hw
  rw [show Instr.fields (.afcfg nst fd s) = [(18, 0), (6, s.toNat), (16, 0), (5, fd.toNat), (7, 56), (4, nst.toNat)] ++ [(8, 0xA0)] from rfl]
  obtain ⟨e1, e2⟩ := nibbles [(18, 0), (6, s.toNat), (16, 0), (5, fd.toNat), (7, 56), (4, nst.toNat)] 0xA0 10 0 (by simp only [fieldWidth]) rfl rfl
  rw [decodeRaw_hiA _ _ e1, decHiA_0 _ _ _ e2]
  have u : unpackBits [18, 6, 16, 5, 7, 4, 8] (packBits ([(18, 0), (6, s.toNat), (16, 0), (5, fd.toNat), (7, 56), (4, nst.toNat)] ++ [(8, 0xA0)])) = [0, s.toNat, 0, fd.toNat, 56, nst.toNat, 160] :=
    unpackBits_pack [(18, 0), (6, s.toNat), (16, 0), (5, fd.toNat), (7, 56), (4, nst.toNat), (8, 0xa0)] ⟨by decide, s.isLt, by decide, fd.isLt, by decide, nst.isLt, by decide, trivial⟩
  unfold decOpA0
  rw [u]
  show (some (Instr.afcfg (BitVec.ofNat 4 nst.toNat) (BitVec.ofNat 5 fd.toNat) (BitVec.ofNat 6 s.toNat))) = _
  simp only [BitVec.ofNat_toNat, BitVec.setWidth_eq]
theorem amodeAs (nst : BitVec 4) (s : BitVec 6) : Statement (.amodeAs nst s) := by
  intro _ hw w1
  refine decode_of_raw (w1 := w1) (by show fieldWidth [(18, 0), (6, s.toNat), (28, 117440512), (4, nst.toNat), (8, 0xa1)] = 64; simp only [fieldWidth]) ?_ hw
  rw [show Instr.fields (.amodeAs nst s) = [(18, 0), (6, s.toNat), (28, 117440512), (4, nst.toNat)] ++ [(8, 0xA1)] from rfl]
  obtain ⟨e1, e2⟩ := nibbles [(18, 0), (6, s.toNat), (28, 117440512), (4, nst.toNat)] 0xA1 10 1 (by simp only [fieldWidth]) rfl rfl
  rw [decodeRaw_hiA _ _ e1, decHiA_1 _ _ _ e2]
  have u : unpackBits [18, 6, 28, 4, 8] (packBits ([(18, 0), (6, s.toNat), (28, 117440512), (4, nst.toNat)] ++ [(8, 0xA1)])) = [0, s.toNat, 117440512, nst.toNat, 161] :=
    unpackBits_pack [(18, 0), (6, s.toNat), (28, 117440512), (4, nst.toNat), (8, 0xa1)] ⟨by decide, s.isLt, by decide, nst.isLt, by decide, trivial⟩
  unfold decOpA1
  rw [u]
  show (some (Instr.amodeAs (BitVec.ofNat 4 nst.toNat) (BitVec.ofNat 6 s.toNat))) = _
  simp only [BitVec.ofNat_toNat, BitVec.setWidth_eq]
theorem amodeSt (nst : BitVec 4) (s : BitVec 6) : Statement (.amodeSt nst s) := by
  intro _ hw w1
  refine decode_of_raw (w1 := w1) (by show fieldWidth [(18, 0), (6, s.toNat), (28, 117440513), (4, nst.toNat), (8, 0xa1)] = 64; simp only [fieldWidth]) ?_ hw
  rw [show Instr.fields (.amodeSt nst s) = [(18, 0), (6, s.toNat), (28, 117440513), (4, nst.toNat)] ++ [(8, 0xA1)] from rfl]
  obtain ⟨e1, e2⟩ := nibbles [(18, 0), (6, s.toNat), (28, 117440513), (4, nst.toNat)] 0xA1 10 1 (by simp only [fieldWidth]) rfl rfl
  rw [decodeRaw_hiA _ _ e1, decHiA_1 _ _ _ e2]
  have u : unpackBits [18, 6, 28, 4, 8] (packBits ([(18, 0), (6, s.toNat), (28, 117440513), (4, nst.toNat)] ++ [(8, 0xA1)])) = [0, s.toNat, 117440513, nst.toNat, 161] :=
    unpackBits_pack [(18, 0), (6, s.toNat), (28, 117440513), (4, nst.toNat), (8, 0xa1)] ⟨by decide, s.isLt, by decide, nst.isLt, by decide, trivial⟩
  unfold decOpA1
  rw [u]
  show (some (Instr.amodeSt (BitVec.ofNat 4 nst.toNat) (BitVec.ofNat 6 s.toNat))) = _
  simp only [BitVec.ofNat_toNat, BitVec.setWidth_eq]
theorem awhile (h : AHdr) (md sb : BitVec 5) (o : SvOpnd) : Statement (.awhile h md sb o) := by
  intro _ hw w1
  refine decode_of_raw (w1 := w1) (by show fieldWidth [(24, o.lo), (6, 0), (5, sb.toNat), (5, 0), (5, md.toNat), (5, h.mg.toNat), (2, o.form), (4, h.stall.toNat), (8, 0xa2)] = 64; simp only [fieldWidth]) ?_ hw
  rw [show Instr.fields (.awhile h md sb o) = [(24, o.lo), (6, 0), (5, sb.toNat), (5, 0), (5, md.toNat), (5, h.mg.toNat), (2, o.form), (4, h.stall.toNat)] ++ [(8, 0xA2)] from rfl]
  obtain ⟨e1, e2⟩ := nibbles [(24, o.lo), (6, 0), (5, sb.toNat), (5, 0), (5, md.toNat), (5, h.mg.toNat), (2, o.form), (4, h.stall.toNat)] 0xA2 10 2 (by simp only [fieldWidth]) rfl rfl
  rw [decodeRaw_hiA _ _ e1, decHiA_2 _ _ _ e2]
  have u : unpackBits [24, 6, 5, 5, 5, 5, 2, 4, 8] (packBits ([(24, o.lo), (6, 0), (5, sb.toNat), (5, 0), (5, md.toNat), (5, h.mg.toNat), (2, o.form), (4, h.stall.toNat)] ++ [(8, 0xA2)])) = [o.lo, 0, sb.toNat, 0, md.toNat, h.mg.toNat, o.form, h.stall.toNat, 162] :=
    unpackBits_pack [(24, o.lo), (6, 0), (5, sb.toNat), (5, 0), (5, md.toNat), (5, h.mg.toNat), (2, o.form), (4, h.stall.toNat), (8, 0xa2)] ⟨o.lo_lt, by decide, sb.isLt, by decide, md.isLt, h.mg.isLt, o.form_lt, h.stall.isLt, by decide, trivial⟩
  unfold decOpA2
  rw [u]
  show ((SvOpnd.ofBits o.form o.lo).map fun o => Instr.awhile ⟨BitVec.ofNat 4 h.stall.toNat, BitVec.ofNat 5 h.mg.toNat⟩ (BitVec.ofNat 5 md.toNat) (BitVec.ofNat 5 sb.toNat) o) = _
  simp only [BitVec.ofNat_toNat, BitVec.setWidth_eq, SvOpnd.ofBits_bits, Option.map_some]
theorem asrchSet (h : AHdr) (md fa : BitVec 5) (o : SvOpnd) : Statement (.asrchSet h md fa o) := by
  intro _ hw w1
  refine decode_of_raw (w1 := w1) (by show fieldWidth [(24, o.lo), (11, 0), (5, fa.toNat), (5, md.toNat), (5, h.mg.toNat), (2, o.form), (4, h.stall.toNat), (8, 0xa3)] = 64; simp only [fieldWidth]) ?_ hw
  rw [show Instr.fields (.asrchSet h md fa o) = [(24, o.lo), (11, 0), (5, fa.toNat), (5, md.toNat), (5, h.mg.toNat), (2, o.form), (4, h.stall.toNat)] ++ [(8, 0xA3)] from rfl]
  obtain ⟨e1, e2⟩ := nibbles [(24, o.lo), (11, 0), (5, fa.toNat), (5, md.toNat), (5, h.mg.toNat), (2, o.form), (4, h.stall.toNat)] 0xA3 10 3 (by simp only [fieldWidth]) rfl rfl
  rw [decodeRaw_hiA _ _ e1, decHiA_3 _ _ _ e2]
  have u : unpackBits [24, 11, 5, 5, 5, 2, 4, 8] (packBits ([(24, o.lo), (11, 0), (5, fa.toNat), (5, md.toNat), (5, h.mg.toNat), (2, o.form), (4, h.stall.toNat)] ++ [(8, 0xA3)])) = [o.lo, 0, fa.toNat, md.toNat, h.mg.toNat, o.form, h.stall.toNat, 163] :=
    unpackBits_pack [(24, o.lo), (11, 0), (5, fa.toNat), (5, md.toNat), (5, h.mg.toNat), (2, o.form), (4, h.stall.toNat), (8, 0xa3)] ⟨o.lo_lt, by decide, fa.isLt, md.isLt, h.mg.isLt, o.form_lt, h.stall.isLt, by decide, trivial⟩
  unfold decOpA3
  rw [u]
  show ((SvOpnd.ofBits o.form o.lo).map fun o => Instr.asrchSet ⟨BitVec.ofNat 4 h.stall.toNat, BitVec.ofNat 5 h.mg.toNat⟩ (BitVec.ofNat 5 md.toNat) (BitVec.ofNat 5 fa.toNat) o) = _
  simp only [BitVec.ofNat_toNat, BitVec.setWidth_eq, SvOpnd.ofBits_bits, Option.map_some]
theorem asrchAnd (h : AHdr) (md fa : BitVec 5) (o : SvOpnd) : Statement (.asrchAnd h md fa o) := by
  intro _ hw w1
  refine decode_of_raw (w1 := w1) (by show fieldWidth [(24, o.lo), (11, 1), (5, fa.toNat), (5, md.toNat), (5, h.mg.toNat), (2, o.form), (4, h.stall.toNat), (8, 0xa3)] = 64; simp only [fieldWidth]) ?_ hw
  rw [show Instr.fields (.asrchAnd h md fa o) = [(24, o.lo), (11, 1), (5, fa.toNat), (5, md.toNat), (5, h.mg.toNat), (2, o.form), (4, h.stall.toNat)] ++ [(8, 0xA3)] from rfl]
  obtain ⟨e1, e2⟩ := nibbles [(24, o.lo), (11, 1), (5, fa.toNat), (5, md.toNat), (5, h.mg.toNat), (2, o.form), (4, h.stall.toNat)] 0xA3 10 3 (by simp only [fieldWidth]) rfl rfl
  rw [decodeRaw_hiA _ _ e1, decHiA_3 _ _ _ e2]
  have u : unpackBits [24, 11, 5, 5, 5, 2, 4, 8] (packBits ([(24, o.lo), (11, 1), (5, fa.toNat), (5, md.toNat), (5, h.mg.toNat), (2, o.form), (4, h.stall.toNat)] ++ [(8, 0xA3)])) = [o.lo, 1, fa.toNat, md.toNat, h.mg.toNat, o.form, h.stall.toNat, 163] :=
    unpackBits_pack [(24, o.lo), (11, 1), (5, fa.toNat), (5, md.toNat), (5, h.mg.toNat), (2, o.form), (4, h.stall.toNat), (8, 0xa3)] ⟨o.lo_lt, by decide, fa.isLt, md.isLt, h.mg.isLt, o.form_lt, h.stall.isLt, by decide, trivial⟩
  unfold decOpA3
  rw [u]
  show ((SvOpnd.ofBits o.form o.lo).map fun o => Instr.asrchAnd ⟨BitVec.ofNat 4 h.stall.toNat, BitVec.ofNat 5 h.mg.toNat⟩ (BitVec.ofNat 5 md.toNat) (BitVec.ofNat 5 fa.toNat) o) = _
  simp only [BitVec.ofNat_toNat, BitVec.setWidth_eq, SvOpnd.ofBits_bits, Option.map_some]
theorem asrchOr (h : AHdr) (md fa : BitVec 5) (o : SvOpnd) : Statement (.asrchOr h md fa o) := by
  intro _ hw w1
  refine decode_of_raw (w1 := w1) (by show fieldWidth [(24, o.lo), (11, 2), (5, fa.toNat), (5, md.toNat), (5, h.mg.toNat), (2, o.form), (4, h.stall.toNat), (8, 0xa3)] = 64; simp only [fieldWidth]) ?_ hw
  rw [show Instr.fields (.asrchOr h md fa o) = [(24, o.lo), (11, 2), (5, fa.toNat), (5, md.toNat), (5, h.mg.toNat), (2, o.form), (4, h.stall.toNat)] ++ [(8, 0xA3)] from rfl]
  obtain ⟨e1, e2⟩ := nibbles [(24, o.lo), (11, 2), (5, fa.toNat), (5, md.toNat), (5, h.mg.toNat), (2, o.form), (4, h.stall.toNat)] 0xA3 10 3 (by simp only [fieldWidth]) rfl rfl
  rw [decodeRaw_hiA _ _ e1, decHiA_3 _ _ _ e2]
  have u : unpackBits [24, 11, 5, 5, 5, 2, 4, 8] (packBits ([(24, o.lo), (11, 2), (5, fa.toNat), (5, md.toNat), (5, h.mg.toNat), (2, o.form), (4, h.stall.toNat)] ++ [(8, 0xA3)])) = [o.lo, 2, fa.toNat, md.toNat, h.mg.toNat, o.form, h.stall.toNat, 163] :=
    unpackBits_pack [(24, o.lo), (11, 2), (5, fa.toNat), (5, md.toNat), (5, h.mg.toNat), (2, o.form), (4, h.stall.toNat), (8, 0xa3)] ⟨o.lo_lt, by decide, fa.isLt, md.isLt, h.mg.isLt, o.form_lt, h.stall.isLt, by decide, trivial⟩
  unfold decOpA3
  rw [u]
  show ((SvOpnd.ofBits o.form o.lo).map fun o => Instr.asrchOr ⟨BitVec.ofNat 4 h.stall.toNat, BitVec.ofNat 5 h.mg.toNat⟩ (BitVec.ofNat 5 md.toNat) (BitVec.ofNat 5 fa.toNat) o) = _
  simp only [BitVec.ofNat_toNat, BitVec.setWidth_eq, SvOpnd.ofBits_bits, Option.map_some]
theorem acmpEq (h : AHdr) (md fa : BitVec 5) (o : CmpOpnd) : Statement (.acmpEq h md fa o) := by
  intro _ hw w1
  refine decode_of_raw (w1 := w1) (by show fieldWidth [(24, o.lo), (6, 0), (5, o.mid), (5, fa.toNat), (5, md.toNat), (5, h.mg.toNat), (2, o.form), (4, h.stall.toNat), (8, 0xa4)] = 64; simp only [fieldWidth]) ?_ hw
  rw [show Instr.fields (.acmpEq h md fa o) = [(24, o.lo), (6, 0), (5, o.mid), (5, fa.toNat), (5, md.toNat), (5, h.mg.toNat), (2, o.form), (4, h.stall.toNat)] ++ [(8, 0xA4)] from rfl]
  obtain ⟨e1, e2⟩ := nibbles [(24, o.lo), (6, 0), (5, o.mid), (5, fa.toNat), (5, md.toNat), (5, h.mg.toNat), (2, o.form), (4, h.stall.toNat)] 0xA4 10 4 (by simp only [fieldWidth]) rfl rfl
  rw [decodeRaw_hiA _ _ e1, decHiA_4 _ _ _ e2]
  have u : unpackBits [24, 6, 5, 5, 5, 5, 2, 4, 8] (packBits ([(24, o.lo), (6, 0), (5, o.mid), (5, fa.toNat), (5, md.toNat), (5, h.mg.toNat), (2, o.form), (4, h.stall.toNat)] ++ [(8, 0xA4)])) = [o.lo, 0, o.mid, fa.toNat, md.toNat, h.mg.toNat, o.form, h.stall.toNat, 164] :=
    unpackBits_pack [(24, o.lo), (6, 0), (5, o.mid), (5, fa.toNat), (5, md.toNat), (5, h.mg.toNat), (2, o.form), (4, h.stall.toNat), (8, 0xa4)] ⟨o.lo_lt, by decide, o.mid_lt, fa.isLt, md.isLt, h.mg.isLt, o.form_lt, h.stall.isLt, by decide, trivial⟩
  unfold decOpA4
  rw [u]
  show ((CmpOpnd.ofBits o.form o.mid o.lo).map fun o => Instr.acmpEq ⟨BitVec.ofNat 4 h.stall.toNat, BitVec.ofNat 5 h.mg.toNat⟩ (BitVec.ofNat 5 md.toNat) (BitVec.ofNat 5 fa.toNat) o) = _
  simp only [BitVec.ofNat_toNat, BitVec.setWidth_eq, CmpOpnd.ofBits_bits, Option.map_some]
theorem acmpNe (h : AHdr) (md fa : BitVec 5) (o : CmpOpnd) : Statement (.acmpNe h md fa o) := by
  intro _ hw w1
  refine decode_of_raw (w1 := w1) (by show fieldWidth [(24, o.lo), (6, 1), (5, o.mid), (5, fa.toNat), (5, md.toNat), (5, h.mg.toNat), (2, o.form), (4, h.stall.toNat), (8, 0xa4)] = 64; simp only [fieldWidth]) ?_ hw
  rw [show Instr.fields (.acmpNe h md fa o) = [(24, o.lo), (6, 1), (5, o.mid), (5, fa.toNat), (5, md.toNat), (5, h.mg.toNat), (2, o.form), (4, h.stall.toNat)] ++ [(8, 0xA4)] from rfl]
  obtain ⟨e1, e2⟩ := nibbles [(24, o.lo), (6, 1), (5, o.mid), (5, fa.toNat), (5, md.toNat), (5, h.mg.toNat), (2, o.form), (4, h.stall.toNat)] 0xA4 10 4 (by simp only [fieldWidth]) rfl rfl
  rw [decodeRaw_hiA _ _ e1, decHiA_4 _ _ _ e2]
  have u : unpackBits [24, 6, 5, 5, 5, 5, 2, 4, 8] (packBits ([(24, o.lo), (6, 1), (5, o.mid), (5, fa.toNat), (5, md.toNat), (5, h.mg.toNat), (2, o.form), (4, h.stall.toNat)] ++ [(8, 0xA4)])) = [o.lo, 1, o.mid, fa.toNat, md.toNat, h.mg.toNat, o.form, h.stall.toNat, 164] :=
    unpackBits_pack [(24, o.lo), (6, 1), (5, o.mid), (5, fa.toNat), (5, md.toNat), (5, h.mg.toNat), (2, o.form), (4, h.stall.toNat), (8, 0xa4)] ⟨o.lo_lt, by decide, o.mid_lt, fa.isLt, md.isLt, h.mg.isLt, o.form_lt, h.stall.isLt, by decide, trivial⟩
  unfold decOpA4
  rw [u]
  show ((CmpOpnd.ofBits o.form o.mid o.lo).map fun o => Instr.acmpNe ⟨BitVec.ofNat 4 h.stall.toNat, BitVec.ofNat 5 h.mg.toNat⟩ (BitVec.ofNat 5 md.toNat) (BitVec.ofNat 5 fa.toNat) o) = _
  simp only [BitVec.ofNat_toNat, BitVec.setWidth_eq, CmpOpnd.ofBits_bits, Option.map_some]
theorem acmpLt (h : AHdr) (md fa : BitVec 5) (o : CmpOpnd) : Statement (.acmpLt h md fa o) := by
  intro _ hw w1
  refine decode_of_raw (w1 := w1) (by show fieldWidth [(24, o.lo), (6, 2), (5, o.mid), (5, fa.toNat), (5, md.toNat), (5, h.mg.toNat), (2, o.form), (4, h.stall.toNat), (8, 0xa4)] = 64; simp only [fieldWidth]) ?_ hw
  rw [show Instr.fields (.acmpLt h md fa o) = [(24, o.lo), (6, 2), (5, o.mid), (5, fa.toNat), (5, md.toNat), (5, h.mg.toNat), (2, o.form), (4, h.stall.toNat)] ++ [(8, 0xA4)] from rfl]
  obtain ⟨e1, e2⟩ := nibbles [(24, o.lo), (6, 2), (5, o.mid), (5, fa.toNat), (5, md.toNat), (5, h.mg.toNat), (2, o.form), (4, h.stall.toNat)] 0xA4 10 4 (by simp only [fieldWidth]) rfl rfl
  rw [decodeRaw_hiA _ _ e1, decHiA_4 _ _ _ e2]
  have u : unpackBits [24, 6, 5, 5, 5, 5, 2, 4, 8] (packBits ([(24, o.lo), (6, 2), (5, o.mid), (5, fa.toNat), (5, md.toNat), (5, h.mg.toNat), (2, o.form), (4, h.stall.toNat)] ++ [(8, 0xA4)])) = [o.lo, 2, o.mid, fa.toNat, md.toNat, h.mg.toNat, o.form, h.stall.toNat, 164] :=
    unpackBits_pack [(24, o.lo), (6, 2), (5, o.mid), (5, fa.toNat), (5, md.toNat), (5, h.mg.toNat), (2, o.form), (4, h.stall.toNat), (8, 0xa4)] ⟨o.lo_lt, by decide, o.mid_lt, fa.isLt, md.isLt, h.mg.isLt, o.form_lt, h.stall.isLt, by decide, trivial⟩
  unfold decOpA4
  rw [u]
  show ((CmpOpnd.ofBits o.form o.mid o.lo).map fun o => Instr.acmpLt ⟨BitVec.ofNat 4 h.stall.toNat, BitVec.ofNat 5 h.mg.toNat⟩ (BitVec.ofNat 5 md.toNat) (BitVec.ofNat 5 fa.toNat) o) = _
  simp only [BitVec.ofNat_toNat, BitVec.setWidth_eq, CmpOpnd.ofBits_bits, Option.map_some]
theorem acmpGe (h : AHdr) (md fa : BitVec 5) (o : CmpOpnd) : Statement (.acmpGe h md fa o) := by
  intro _ hw w1
  refine decode_of_raw (w1 := w1) (by show fieldWidth [(24, o.lo), (6, 3), (5, o.mid), (5, fa.toNat), (5, md.toNat), (5, h.mg.toNat), (2, o.form), (4, h.stall.toNat), (8, 0xa4)] = 64; simp only [fieldWidth]) ?_ hw
  rw [show Instr.fields (.acmpGe h md fa o) = [(24, o.lo), (6, 3), (5, o.mid), (5, fa.toNat), (5, md.toNat), (5, h.mg.toNat), (2, o.form), (4, h.stall.toNat)] ++ [(8, 0xA4)] from rfl]
  obtain ⟨e1, e2⟩ := nibbles [(24, o.lo), (6, 3), (5, o.mid), (5, fa.toNat), (5, md.toNat), (5, h.mg.toNat), (2, o.form), (4, h.stall.toNat)] 0xA4 10 4 (by simp only [fieldWidth]) rfl rfl
  rw [decodeRaw_hiA _ _ e1, decHiA_4 _ _ _ e2]
  have u : unpackBits [24, 6, 5, 5, 5, 5, 2, 4, 8] (packBits ([(24, o.lo), (6, 3), (5, o.mid), (5, fa.toNat), (5, md.toNat), (5, h.mg.toNat), (2, o.form), (4, h.stall.toNat)] ++ [(8, 0xA4)])) = [o.lo, 3, o.mid, fa.toNat, md.toNat, h.mg.toNat, o.form, h.stall.toNat, 164] :=
    unpackBits_pack [(24, o.lo), (6, 3), (5, o.mid), (5, fa.toNat), (5, md.toNat), (5, h.mg.toNat), (2, o.form), (4, h.stall.toNat), (8, 0xa4)] ⟨o.lo_lt, by decide, o.mid_lt, fa.isLt, md.isLt, h.mg.isLt, o.form_lt, h.stall.isLt, by decide, trivial⟩
  unfold decOpA4
  rw [u]
  show ((CmpOpnd.ofBits o.form o.mid o.lo).map fun o => Instr.acmpGe ⟨BitVec.ofNat 4 h.stall.toNat, BitVec.ofNat 5 h.mg.toNat⟩ (BitVec.ofNat 5 md.toNat) (BitVec.ofNat 5 fa.toNat) o) = _
  simp only [BitVec.ofNat_toNat, BitVec.setWidth_eq, CmpOpnd.ofBits_bits, Option.map_some]
theorem mlog (h : AHdr) (md ma mb : BitVec 5) (tbl : BitVec 4) : Statement (.mlog h md ma mb tbl) := by
  intro _ hw w1
  refine decode_of_raw (w1 := w1) (by show fieldWidth [(4, tbl.toNat), (26, 0), (5, mb.toNat), (5, ma.toNat), (5, md.toNat), (5, h.mg.toNat), (2, 2), (4, h.stall.toNat), (8, 0xa5)] = 64; simp only [fieldWidth]) ?_ hw
  rw [show Instr.fields (.mlog h md ma mb tbl) = [(4, tbl.toNat), (26, 0), (5, mb.toNat), (5, ma.toNat), (5, md.toNat), (5, h.mg.toNat), (2, 2), (4, h.stall.toNat)] ++ [(8, 0xA5)] from rfl]
  obtain ⟨e1, e2⟩ := nibbles [(4, tbl.toNat), (26, 0), (5, mb.toNat), (5, ma.toNat), (5, md.toNat), (5, h.mg.toNat), (2, 2), (4, h.stall.toNat)] 0xA5 10 5 (by simp only [fieldWidth]) rfl rfl
  rw [decodeRaw_hiA _ _ e1, decHiA_5 _ _ _ e2]
  have u : unpackBits [4, 26, 5, 5, 5, 5, 2, 4, 8] (packBits ([(4, tbl.toNat), (26, 0), (5, mb.toNat), (5, ma.toNat), (5, md.toNat), (5, h.mg.toNat), (2, 2), (4, h.stall.toNat)] ++ [(8, 0xA5)])) = [tbl.toNat, 0, mb.toNat, ma.toNat, md.toNat, h.mg.toNat, 2, h.stall.toNat, 165] :=
    unpackBits_pack [(4, tbl.toNat), (26, 0), (5, mb.toNat), (5, ma.toNat), (5, md.toNat), (5, h.mg.toNat), (2, 2), (4, h.stall.toNat), (8, 0xa5)] ⟨tbl.isLt, by decide, mb.isLt, ma.isLt, md.isLt, h.mg.isLt, by decide, h.stall.isLt, by decide, trivial⟩
  unfold decOpA5
  rw [u]
  show (some (Instr.mlog ⟨BitVec.ofNat 4 h.stall.toNat, BitVec.ofNat 5 h.mg.toNat⟩ (BitVec.ofNat 5 md.toNat) (BitVec.ofNat 5 ma.toNat) (BitVec.ofNat 5 mb.toNat) (BitVec.ofNat 4 tbl.toNat))) = _
  simp only [BitVec.ofNat_toNat, BitVec.setWidth_eq]
theorem mset (h : AHdr) (md : BitVec 5) (v : BitVec 1) : Statement (.mset h md v) := by
  intro _ hw w1
  refine decode_of_raw (w1 := w1) (by show fieldWidth [(1, v.toNat), (39, 0), (5, md.toNat), (5, h.mg.toNat), (2, 2), (4, h.stall.toNat), (8, 0xa6)] = 64; simp only [fieldWidth]) ?_ hw
  rw [show Instr.fields (.mset h md v) = [(1, v.toNat), (39, 0), (5, md.toNat), (5, h.mg.toNat), (2, 2), (4, h.stall.toNat)] ++ [(8, 0xA6)] from rfl]
  obtain ⟨e1, e2⟩ := nibbles [(1, v.toNat), (39, 0), (5, md.toNat), (5, h.mg.toNat), (2, 2), (4, h.stall.toNat)] 0xA6 10 6 (by simp only [fieldWidth]) rfl rfl
  rw [decodeRaw_hiA _ _ e1, decHiA_6 _ _ _ e2]
  have u : unpackBits [1, 39, 5, 5, 2, 4, 8] (packBits ([(1, v.toNat), (39, 0), (5, md.toNat), (5, h.mg.toNat), (2, 2), (4, h.stall.toNat)] ++ [(8, 0xA6)])) = [v.toNat, 0, md.toNat, h.mg.toNat, 2, h.stall.toNat, 166] :=
    unpackBits_pack [(1, v.toNat), (39, 0), (5, md.toNat), (5, h.mg.toNat), (2, 2), (4, h.stall.toNat), (8, 0xa6)] ⟨v.isLt, by decide, md.isLt, h.mg.isLt, by decide, h.stall.isLt, by decide, trivial⟩
  unfold decOpA6
  rw [u]
  show (some (Instr.mset ⟨BitVec.ofNat 4 h.stall.toNat, BitVec.ofNat 5 h.mg.toNat⟩ (BitVec.ofNat 5 md.toNat) (BitVec.ofNat 1 v.toNat))) = _
  simp only [BitVec.ofNat_toNat, BitVec.setWidth_eq]
theorem awr (h : AHdr) (fd : BitVec 5) (o : SvOpnd) : Statement (.awr h fd o) := by
  intro _ hw w1
  refine decode_of_raw (w1 := w1) (by show fieldWidth [(24, o.lo), (16, 0), (5, fd.toNat), (5, h.mg.toNat), (2, o.form), (4, h.stall.toNat), (8, 0xa7)] = 64; simp only [fieldWidth]) ?_ hw
  rw [show Instr.fields (.awr h fd o) = [(24, o.lo), (16, 0), (5, fd.toNat), (5, h.mg.toNat), (2, o.form), (4, h.stall.toNat)] ++ [(8, 0xA7)] from rfl]
  obtain ⟨e1, e2⟩ := nibbles [(24, o.lo), (16, 0), (5, fd.toNat), (5, h.mg.toNat), (2, o.form), (4, h.stall.toNat)] 0xA7 10 7 (by simp only [fieldWidth]) rfl rfl
  rw [decodeRaw_hiA _ _ e1, decHiA_7 _ _ _ e2]
  have u : unpackBits [24, 16, 5, 5, 2, 4, 8] (packBits ([(24, o.lo), (16, 0), (5, fd.toNat), (5, h.mg.toNat), (2, o.form), (4, h.stall.toNat)] ++ [(8, 0xA7)])) = [o.lo, 0, fd.toNat, h.mg.toNat, o.form, h.stall.toNat, 167] :=
    unpackBits_pack [(24, o.lo), (16, 0), (5, fd.toNat), (5, h.mg.toNat), (2, o.form), (4, h.stall.toNat), (8, 0xa7)] ⟨o.lo_lt, by decide, fd.isLt, h.mg.isLt, o.form_lt, h.stall.isLt, by decide, trivial⟩
  unfold decOpA7
  rw [u]
  show ((SvOpnd.ofBits o.form o.lo).map fun o => Instr.awr ⟨BitVec.ofNat 4 h.stall.toNat, BitVec.ofNat 5 h.mg.toNat⟩ (BitVec.ofNat 5 fd.toNat) o) = _
  simp only [BitVec.ofNat_toNat, BitVec.setWidth_eq, SvOpnd.ofBits_bits, Option.map_some]
theorem amov (h : AHdr) (fd fa : BitVec 5) : Statement (.amov h fd fa) := by
  intro _ hw w1
  refine decode_of_raw (w1 := w1) (by show fieldWidth [(35, 0), (5, fa.toNat), (5, fd.toNat), (5, h.mg.toNat), (2, 0), (4, h.stall.toNat), (8, 0xa8)] = 64; simp only [fieldWidth]) ?_ hw
  rw [show Instr.fields (.amov h fd fa) = [(35, 0), (5, fa.toNat), (5, fd.toNat), (5, h.mg.toNat), (2, 0), (4, h.stall.toNat)] ++ [(8, 0xA8)] from rfl]
  obtain ⟨e1, e2⟩ := nibbles [(35, 0), (5, fa.toNat), (5, fd.toNat), (5, h.mg.toNat), (2, 0), (4, h.stall.toNat)] 0xA8 10 8 (by simp only [fieldWidth]) rfl rfl
  rw [decodeRaw_hiA _ _ e1, decHiA_8 _ _ _ e2]
  have u : unpackBits [35, 5, 5, 5, 2, 4, 8] (packBits ([(35, 0), (5, fa.toNat), (5, fd.toNat), (5, h.mg.toNat), (2, 0), (4, h.stall.toNat)] ++ [(8, 0xA8)])) = [0, fa.toNat, fd.toNat, h.mg.toNat, 0, h.stall.toNat, 168] :=
    unpackBits_pack [(35, 0), (5, fa.toNat), (5, fd.toNat), (5, h.mg.toNat), (2, 0), (4, h.stall.toNat), (8, 0xa8)] ⟨by decide, fa.isLt, fd.isLt, h.mg.isLt, by decide, h.stall.isLt, by decide, trivial⟩
  unfold decOpA8
  rw [u]
  show (some (Instr.amov ⟨BitVec.ofNat 4 h.stall.toNat, BitVec.ofNat 5 h.mg.toNat⟩ (BitVec.ofNat 5 fd.toNat) (BitVec.ofNat 5 fa.toNat))) = _
  simp only [BitVec.ofNat_toNat, BitVec.setWidth_eq]
theorem apopM (h : AHdr) (ma : BitVec 5) (s : BitVec 6) : Statement (.apopM h ma s) := by
  intro _ hw w1
  refine decode_of_raw (w1 := w1) (by show fieldWidth [(18, 0), (6, s.toNat), (11, 0), (5, ma.toNat), (5, 0), (5, h.mg.toNat), (2, 1), (4, h.stall.toNat), (8, 0xa9)] = 64; simp only [fieldWidth]) ?_ hw
  rw [show Instr.fields (.apopM h ma s) = [(18, 0), (6, s.toNat), (11, 0), (5, ma.toNat), (5, 0), (5, h.mg.toNat), (2, 1), (4, h.stall.toNat)] ++ [(8, 0xA9)] from rfl]
  obtain ⟨e1, e2⟩ := nibbles [(18, 0), (6, s.toNat), (11, 0), (5, ma.toNat), (5, 0), (5, h.mg.toNat), (2, 1), (4, h.stall.toNat)] 0xA9 10 9 (by simp only [fieldWidth]) rfl rfl
  rw [decodeRaw_hiA _ _ e1, decHiA_9 _ _ _ e2]
  have u : unpackBits [18, 6, 11, 5, 5, 5, 2, 4, 8] (packBits ([(18, 0), (6, s.toNat), (11, 0), (5, ma.toNat), (5, 0), (5, h.mg.toNat), (2, 1), (4, h.stall.toNat)] ++ [(8, 0xA9)])) = [0, s.toNat, 0, ma.toNat, 0, h.mg.toNat, 1, h.stall.toNat, 169] :=
    unpackBits_pack [(18, 0), (6, s.toNat), (11, 0), (5, ma.toNat), (5, 0), (5, h.mg.toNat), (2, 1), (4, h.stall.toNat), (8, 0xa9)] ⟨by decide, s.isLt, by decide, ma.isLt, by decide, h.mg.isLt, by decide, h.stall.isLt, by decide, trivial⟩
  unfold decOpA9
  rw [u]
  show (some (Instr.apopM ⟨BitVec.ofNat 4 h.stall.toNat, BitVec.ofNat 5 h.mg.toNat⟩ (BitVec.ofNat 5 ma.toNat) (BitVec.ofNat 6 s.toNat))) = _
  simp only [BitVec.ofNat_toNat, BitVec.setWidth_eq]
theorem apopF (h : AHdr) (fa : BitVec 5) (s : BitVec 6) : Statement (.apopF h fa s) := by
  intro _ hw w1
  refine decode_of_raw (w1 := w1) (by show fieldWidth [(18, 0), (6, s.toNat), (11, 1), (5, fa.toNat), (5, 0), (5, h.mg.toNat), (2, 1), (4, h.stall.toNat), (8, 0xa9)] = 64; simp only [fieldWidth]) ?_ hw
  rw [show Instr.fields (.apopF h fa s) = [(18, 0), (6, s.toNat), (11, 1), (5, fa.toNat), (5, 0), (5, h.mg.toNat), (2, 1), (4, h.stall.toNat)] ++ [(8, 0xA9)] from rfl]
  obtain ⟨e1, e2⟩ := nibbles [(18, 0), (6, s.toNat), (11, 1), (5, fa.toNat), (5, 0), (5, h.mg.toNat), (2, 1), (4, h.stall.toNat)] 0xA9 10 9 (by simp only [fieldWidth]) rfl rfl
  rw [decodeRaw_hiA _ _ e1, decHiA_9 _ _ _ e2]
  have u : unpackBits [18, 6, 11, 5, 5, 5, 2, 4, 8] (packBits ([(18, 0), (6, s.toNat), (11, 1), (5, fa.toNat), (5, 0), (5, h.mg.toNat), (2, 1), (4, h.stall.toNat)] ++ [(8, 0xA9)])) = [0, s.toNat, 1, fa.toNat, 0, h.mg.toNat, 1, h.stall.toNat, 169] :=
    unpackBits_pack [(18, 0), (6, s.toNat), (11, 1), (5, fa.toNat), (5, 0), (5, h.mg.toNat), (2, 1), (4, h.stall.toNat), (8, 0xa9)] ⟨by decide, s.isLt, by decide, fa.isLt, by decide, h.mg.isLt, by decide, h.stall.isLt, by decide, trivial⟩
  unfold decOpA9
  rw [u]
  show (some (Instr.apopF ⟨BitVec.ofNat 4 h.stall.toNat, BitVec.ofNat 5 h.mg.toNat⟩ (BitVec.ofNat 5 fa.toNat) (BitVec.ofNat 6 s.toNat))) = _
  simp only [BitVec.ofNat_toNat, BitVec.setWidth_eq]
theorem afirstFirst (h : AHdr) (ma : BitVec 5) (s : BitVec 6) : Statement (.afirstFirst h ma s) := by
  intro _ hw w1
  refine decode_of_raw (w1 := w1) (by show fieldWidth [(18, 0), (6, s.toNat), (11, 0), (5, ma.toNat), (5, 0), (5, h.mg.toNat), (2, 1), (4, h.stall.toNat), (8, 0xaa)] = 64; simp only [fieldWidth]) ?_ hw
  rw [show Instr.fields (.afirstFirst h ma s) = [(18, 0), (6, s.toNat), (11, 0), (5, ma.toNat), (5, 0), (5, h.mg.toNat), (2, 1), (4, h.stall.toNat)] ++ [(8, 0xAA)] from rfl]
  obtain ⟨e1, e2⟩ := nibbles [(18, 0), (6, s.toNat), (11, 0), (5, ma.toNat), (5, 0), (5, h.mg.toNat), (2, 1), (4, h.stall.toNat)] 0xAA 10 10 (by simp only [fieldWidth]) rfl rfl
  rw [decodeRaw_hiA _ _ e1, decHiA_A _ _ _ e2]
  have u : unpackBits [18, 6, 11, 5, 5, 5, 2, 4, 8] (packBits ([(18, 0), (6, s.toNat), (11, 0), (5, ma.toNat), (5, 0), (5, h.mg.toNat), (2, 1), (4, h.stall.toNat)] ++ [(8, 0xAA)])) = [0, s.toNat, 0, ma.toNat, 0, h.mg.toNat, 1, h.stall.toNat, 170] :=
    unpackBits_pack [(18, 0), (6, s.toNat), (11, 0), (5, ma.toNat), (5, 0), (5, h.mg.toNat), (2, 1), (4, h.stall.toNat), (8, 0xaa)] ⟨by decide, s.isLt, by decide, ma.isLt, by decide, h.mg.isLt, by decide, h.stall.isLt, by decide, trivial⟩
  unfold decOpAA
  rw [u]
  show (some (Instr.afirstFirst ⟨BitVec.ofNat 4 h.stall.toNat, BitVec.ofNat 5 h.mg.toNat⟩ (BitVec.ofNat 5 ma.toNat) (BitVec.ofNat 6 s.toNat))) = _
  simp only [BitVec.ofNat_toNat, BitVec.setWidth_eq]
theorem afirstLast (h : AHdr) (ma : BitVec 5) (s : BitVec 6) : Statement (.afirstLast h ma s) := by
  intro _ hw w1
  refine decode_of_raw (w1 := w1) (by show fieldWidth [(18, 0), (6, s.toNat), (11, 1), (5, ma.toNat), (5, 0), (5, h.mg.toNat), (2, 1), (4, h.stall.toNat), (8, 0xaa)] = 64; simp only [fieldWidth]) ?_ hw
  rw [show Instr.fields (.afirstLast h ma s) = [(18, 0), (6, s.toNat), (11, 1), (5, ma.toNat), (5, 0), (5, h.mg.toNat), (2, 1), (4, h.stall.toNat)] ++ [(8, 0xAA)] from rfl]
  obtain ⟨e1, e2⟩ := nibbles [(18, 0), (6, s.toNat), (11, 1), (5, ma.toNat), (5, 0), (5, h.mg.toNat), (2, 1), (4, h.stall.toNat)] 0xAA 10 10 (by simp only [fieldWidth]) rfl rfl
  rw [decodeRaw_hiA _ _ e1, decHiA_A _ _ _ e2]
  have u : unpackBits [18, 6, 11, 5, 5, 5, 2, 4, 8] (packBits ([(18, 0), (6, s.toNat), (11, 1), (5, ma.toNat), (5, 0), (5, h.mg.toNat), (2, 1), (4, h.stall.toNat)] ++ [(8, 0xAA)])) = [0, s.toNat, 1, ma.toNat, 0, h.mg.toNat, 1, h.stall.toNat, 170] :=
    unpackBits_pack [(18, 0), (6, s.toNat), (11, 1), (5, ma.toNat), (5, 0), (5, h.mg.toNat), (2, 1), (4, h.stall.toNat), (8, 0xaa)] ⟨by decide, s.isLt, by decide, ma.isLt, by decide, h.mg.isLt, by decide, h.stall.isLt, by decide, trivial⟩
  unfold decOpAA
  rw [u]
  show (some (Instr.afirstLast ⟨BitVec.ofNat 4 h.stall.toNat, BitVec.ofNat 5 h.mg.toNat⟩ (BitVec.ofNat 5 ma.toNat) (BitVec.ofNat 6 s.toNat))) = _
  simp only [BitVec.ofNat_toNat, BitVec.setWidth_eq]
theorem anextClr (h : AHdr) (md ma : BitVec 5) : Statement (.anextClr h md ma) := by
  intro _ hw w1
  refine decode_of_raw (w1 := w1) (by show fieldWidth [(35, 0), (5, ma.toNat), (5, md.toNat), (5, h.mg.toNat), (2, 0), (4, h.stall.toNat), (8, 0xab)] = 64; simp only [fieldWidth]) ?_ hw
  rw [show Instr.fields (.anextClr h md ma) = [(35, 0), (5, ma.toNat), (5, md.toNat), (5, h.mg.toNat), (2, 0), (4, h.stall.toNat)] ++ [(8, 0xAB)] from rfl]
  obtain ⟨e1, e2⟩ := nibbles [(35, 0), (5, ma.toNat), (5, md.toNat), (5, h.mg.toNat), (2, 0), (4, h.stall.toNat)] 0xAB 10 11 (by simp only [fieldWidth]) rfl rfl
  rw [decodeRaw_hiA _ _ e1, decHiA_B _ _ _ e2]
  have u : unpackBits [35, 5, 5, 5, 2, 4, 8] (packBits ([(35, 0), (5, ma.toNat), (5, md.toNat), (5, h.mg.toNat), (2, 0), (4, h.stall.toNat)] ++ [(8, 0xAB)])) = [0, ma.toNat, md.toNat, h.mg.toNat, 0, h.stall.toNat, 171] :=
    unpackBits_pack [(35, 0), (5, ma.toNat), (5, md.toNat), (5, h.mg.toNat), (2, 0), (4, h.stall.toNat), (8, 0xab)] ⟨by decide, ma.isLt, md.isLt, h.mg.isLt, by decide, h.stall.isLt, by decide, trivial⟩
  unfold decOpAB
  rw [u]
  show (some (Instr.anextClr ⟨BitVec.ofNat 4 h.stall.toNat, BitVec.ofNat 5 h.mg.toNat⟩ (BitVec.ofNat 5 md.toNat) (BitVec.ofNat 5 ma.toNat))) = _
  simp only [BitVec.ofNat_toNat, BitVec.setWidth_eq]
theorem anextOne (h : AHdr) (md ma : BitVec 5) : Statement (.anextOne h md ma) := by
  intro _ hw w1
  refine decode_of_raw (w1 := w1) (by show fieldWidth [(35, 16777216), (5, ma.toNat), (5, md.toNat), (5, h.mg.toNat), (2, 0), (4, h.stall.toNat), (8, 0xab)] = 64; simp only [fieldWidth]) ?_ hw
  rw [show Instr.fields (.anextOne h md ma) = [(35, 16777216), (5, ma.toNat), (5, md.toNat), (5, h.mg.toNat), (2, 0), (4, h.stall.toNat)] ++ [(8, 0xAB)] from rfl]
  obtain ⟨e1, e2⟩ := nibbles [(35, 16777216), (5, ma.toNat), (5, md.toNat), (5, h.mg.toNat), (2, 0), (4, h.stall.toNat)] 0xAB 10 11 (by simp only [fieldWidth]) rfl rfl
  rw [decodeRaw_hiA _ _ e1, decHiA_B _ _ _ e2]
  have u : unpackBits [35, 5, 5, 5, 2, 4, 8] (packBits ([(35, 16777216), (5, ma.toNat), (5, md.toNat), (5, h.mg.toNat), (2, 0), (4, h.stall.toNat)] ++ [(8, 0xAB)])) = [16777216, ma.toNat, md.toNat, h.mg.toNat, 0, h.stall.toNat, 171] :=
    unpackBits_pack [(35, 16777216), (5, ma.toNat), (5, md.toNat), (5, h.mg.toNat), (2, 0), (4, h.stall.toNat), (8, 0xab)] ⟨by decide, ma.isLt, md.isLt, h.mg.isLt, by decide, h.stall.isLt, by decide, trivial⟩
  unfold decOpAB
  rw [u]
  show (some (Instr.anextOne ⟨BitVec.ofNat 4 h.stall.toNat, BitVec.ofNat 5 h.mg.toNat⟩ (BitVec.ofNat 5 md.toNat) (BitVec.ofNat 5 ma.toNat))) = _
  simp only [BitVec.ofNat_toNat, BitVec.setWidth_eq]
theorem atopkMax (h : AHdr) (md fa : BitVec 5) (o : SvOpnd) : Statement (.atopkMax h md fa o) := by
  intro _ hw w1
  refine decode_of_raw (w1 := w1) (by show fieldWidth [(24, o.lo), (11, 0), (5, fa.toNat), (5, md.toNat), (5, h.mg.toNat), (2, o.form), (4, h.stall.toNat), (8, 0xac)] = 64; simp only [fieldWidth]) ?_ hw
  rw [show Instr.fields (.atopkMax h md fa o) = [(24, o.lo), (11, 0), (5, fa.toNat), (5, md.toNat), (5, h.mg.toNat), (2, o.form), (4, h.stall.toNat)] ++ [(8, 0xAC)] from rfl]
  obtain ⟨e1, e2⟩ := nibbles [(24, o.lo), (11, 0), (5, fa.toNat), (5, md.toNat), (5, h.mg.toNat), (2, o.form), (4, h.stall.toNat)] 0xAC 10 12 (by simp only [fieldWidth]) rfl rfl
  rw [decodeRaw_hiA _ _ e1, decHiA_C _ _ _ e2]
  have u : unpackBits [24, 11, 5, 5, 5, 2, 4, 8] (packBits ([(24, o.lo), (11, 0), (5, fa.toNat), (5, md.toNat), (5, h.mg.toNat), (2, o.form), (4, h.stall.toNat)] ++ [(8, 0xAC)])) = [o.lo, 0, fa.toNat, md.toNat, h.mg.toNat, o.form, h.stall.toNat, 172] :=
    unpackBits_pack [(24, o.lo), (11, 0), (5, fa.toNat), (5, md.toNat), (5, h.mg.toNat), (2, o.form), (4, h.stall.toNat), (8, 0xac)] ⟨o.lo_lt, by decide, fa.isLt, md.isLt, h.mg.isLt, o.form_lt, h.stall.isLt, by decide, trivial⟩
  unfold decOpAC
  rw [u]
  show ((SvOpnd.ofBits o.form o.lo).map fun o => Instr.atopkMax ⟨BitVec.ofNat 4 h.stall.toNat, BitVec.ofNat 5 h.mg.toNat⟩ (BitVec.ofNat 5 md.toNat) (BitVec.ofNat 5 fa.toNat) o) = _
  simp only [BitVec.ofNat_toNat, BitVec.setWidth_eq, SvOpnd.ofBits_bits, Option.map_some]
theorem atopkMin (h : AHdr) (md fa : BitVec 5) (o : SvOpnd) : Statement (.atopkMin h md fa o) := by
  intro _ hw w1
  refine decode_of_raw (w1 := w1) (by show fieldWidth [(24, o.lo), (11, 1), (5, fa.toNat), (5, md.toNat), (5, h.mg.toNat), (2, o.form), (4, h.stall.toNat), (8, 0xac)] = 64; simp only [fieldWidth]) ?_ hw
  rw [show Instr.fields (.atopkMin h md fa o) = [(24, o.lo), (11, 1), (5, fa.toNat), (5, md.toNat), (5, h.mg.toNat), (2, o.form), (4, h.stall.toNat)] ++ [(8, 0xAC)] from rfl]
  obtain ⟨e1, e2⟩ := nibbles [(24, o.lo), (11, 1), (5, fa.toNat), (5, md.toNat), (5, h.mg.toNat), (2, o.form), (4, h.stall.toNat)] 0xAC 10 12 (by simp only [fieldWidth]) rfl rfl
  rw [decodeRaw_hiA _ _ e1, decHiA_C _ _ _ e2]
  have u : unpackBits [24, 11, 5, 5, 5, 2, 4, 8] (packBits ([(24, o.lo), (11, 1), (5, fa.toNat), (5, md.toNat), (5, h.mg.toNat), (2, o.form), (4, h.stall.toNat)] ++ [(8, 0xAC)])) = [o.lo, 1, fa.toNat, md.toNat, h.mg.toNat, o.form, h.stall.toNat, 172] :=
    unpackBits_pack [(24, o.lo), (11, 1), (5, fa.toNat), (5, md.toNat), (5, h.mg.toNat), (2, o.form), (4, h.stall.toNat), (8, 0xac)] ⟨o.lo_lt, by decide, fa.isLt, md.isLt, h.mg.isLt, o.form_lt, h.stall.isLt, by decide, trivial⟩
  unfold decOpAC
  rw [u]
  show ((SvOpnd.ofBits o.form o.lo).map fun o => Instr.atopkMin ⟨BitVec.ofNat 4 h.stall.toNat, BitVec.ofNat 5 h.mg.toNat⟩ (BitVec.ofNat 5 md.toNat) (BitVec.ofNat 5 fa.toNat) o) = _
  simp only [BitVec.ofNat_toNat, BitVec.setWidth_eq, SvOpnd.ofBits_bits, Option.map_some]
theorem aextMax (h : AHdr) (fa : BitVec 5) (s : BitVec 6) : Statement (.aextMax h fa s) := by
  intro _ hw w1
  refine decode_of_raw (w1 := w1) (by show fieldWidth [(18, 0), (6, s.toNat), (11, 0), (5, fa.toNat), (5, 0), (5, h.mg.toNat), (2, 1), (4, h.stall.toNat), (8, 0xad)] = 64; simp only [fieldWidth]) ?_ hw
  rw [show Instr.fields (.aextMax h fa s) = [(18, 0), (6, s.toNat), (11, 0), (5, fa.toNat), (5, 0), (5, h.mg.toNat), (2, 1), (4, h.stall.toNat)] ++ [(8, 0xAD)] from rfl]
  obtain ⟨e1, e2⟩ := nibbles [(18, 0), (6, s.toNat), (11, 0), (5, fa.toNat), (5, 0), (5, h.mg.toNat), (2, 1), (4, h.stall.toNat)] 0xAD 10 13 (by simp only [fieldWidth]) rfl rfl
  rw [decodeRaw_hiA _ _ e1, decHiA_D _ _ _ e2]
  have u : unpackBits [18, 6, 11, 5, 5, 5, 2, 4, 8] (packBits ([(18, 0), (6, s.toNat), (11, 0), (5, fa.toNat), (5, 0), (5, h.mg.toNat), (2, 1), (4, h.stall.toNat)] ++ [(8, 0xAD)])) = [0, s.toNat, 0, fa.toNat, 0, h.mg.toNat, 1, h.stall.toNat, 173] :=
    unpackBits_pack [(18, 0), (6, s.toNat), (11, 0), (5, fa.toNat), (5, 0), (5, h.mg.toNat), (2, 1), (4, h.stall.toNat), (8, 0xad)] ⟨by decide, s.isLt, by decide, fa.isLt, by decide, h.mg.isLt, by decide, h.stall.isLt, by decide, trivial⟩
  unfold decOpAD
  rw [u]
  show (some (Instr.aextMax ⟨BitVec.ofNat 4 h.stall.toNat, BitVec.ofNat 5 h.mg.toNat⟩ (BitVec.ofNat 5 fa.toNat) (BitVec.ofNat 6 s.toNat))) = _
  simp only [BitVec.ofNat_toNat, BitVec.setWidth_eq]
theorem aextMin (h : AHdr) (fa : BitVec 5) (s : BitVec 6) : Statement (.aextMin h fa s) := by
  intro _ hw w1
  refine decode_of_raw (w1 := w1) (by show fieldWidth [(18, 0), (6, s.toNat), (11, 1), (5, fa.toNat), (5, 0), (5, h.mg.toNat), (2, 1), (4, h.stall.toNat), (8, 0xad)] = 64; simp only [fieldWidth]) ?_ hw
  rw [show Instr.fields (.aextMin h fa s) = [(18, 0), (6, s.toNat), (11, 1), (5, fa.toNat), (5, 0), (5, h.mg.toNat), (2, 1), (4, h.stall.toNat)] ++ [(8, 0xAD)] from rfl]
  obtain ⟨e1, e2⟩ := nibbles [(18, 0), (6, s.toNat), (11, 1), (5, fa.toNat), (5, 0), (5, h.mg.toNat), (2, 1), (4, h.stall.toNat)] 0xAD 10 13 (by simp only [fieldWidth]) rfl rfl
  rw [decodeRaw_hiA _ _ e1, decHiA_D _ _ _ e2]
  have u : unpackBits [18, 6, 11, 5, 5, 5, 2, 4, 8] (packBits ([(18, 0), (6, s.toNat), (11, 1), (5, fa.toNat), (5, 0), (5, h.mg.toNat), (2, 1), (4, h.stall.toNat)] ++ [(8, 0xAD)])) = [0, s.toNat, 1, fa.toNat, 0, h.mg.toNat, 1, h.stall.toNat, 173] :=
    unpackBits_pack [(18, 0), (6, s.toNat), (11, 1), (5, fa.toNat), (5, 0), (5, h.mg.toNat), (2, 1), (4, h.stall.toNat), (8, 0xad)] ⟨by decide, s.isLt, by decide, fa.isLt, by decide, h.mg.isLt, by decide, h.stall.isLt, by decide, trivial⟩
  unfold decOpAD
  rw [u]
  show (some (Instr.aextMin ⟨BitVec.ofNat 4 h.stall.toNat, BitVec.ofNat 5 h.mg.toNat⟩ (BitVec.ofNat 5 fa.toNat) (BitVec.ofNat 6 s.toNat))) = _
  simp only [BitVec.ofNat_toNat, BitVec.setWidth_eq]
theorem aextMaxidx (h : AHdr) (fa : BitVec 5) (s : BitVec 6) : Statement (.aextMaxidx h fa s) := by
  intro _ hw w1
  refine decode_of_raw (w1 := w1) (by show fieldWidth [(18, 0), (6, s.toNat), (11, 2), (5, fa.toNat), (5, 0), (5, h.mg.toNat), (2, 1), (4, h.stall.toNat), (8, 0xad)] = 64; simp only [fieldWidth]) ?_ hw
  rw [show Instr.fields (.aextMaxidx h fa s) = [(18, 0), (6, s.toNat), (11, 2), (5, fa.toNat), (5, 0), (5, h.mg.toNat), (2, 1), (4, h.stall.toNat)] ++ [(8, 0xAD)] from rfl]
  obtain ⟨e1, e2⟩ := nibbles [(18, 0), (6, s.toNat), (11, 2), (5, fa.toNat), (5, 0), (5, h.mg.toNat), (2, 1), (4, h.stall.toNat)] 0xAD 10 13 (by simp only [fieldWidth]) rfl rfl
  rw [decodeRaw_hiA _ _ e1, decHiA_D _ _ _ e2]
  have u : unpackBits [18, 6, 11, 5, 5, 5, 2, 4, 8] (packBits ([(18, 0), (6, s.toNat), (11, 2), (5, fa.toNat), (5, 0), (5, h.mg.toNat), (2, 1), (4, h.stall.toNat)] ++ [(8, 0xAD)])) = [0, s.toNat, 2, fa.toNat, 0, h.mg.toNat, 1, h.stall.toNat, 173] :=
    unpackBits_pack [(18, 0), (6, s.toNat), (11, 2), (5, fa.toNat), (5, 0), (5, h.mg.toNat), (2, 1), (4, h.stall.toNat), (8, 0xad)] ⟨by decide, s.isLt, by decide, fa.isLt, by decide, h.mg.isLt, by decide, h.stall.isLt, by decide, trivial⟩
  unfold decOpAD
  rw [u]
  show (some (Instr.aextMaxidx ⟨BitVec.ofNat 4 h.stall.toNat, BitVec.ofNat 5 h.mg.toNat⟩ (BitVec.ofNat 5 fa.toNat) (BitVec.ofNat 6 s.toNat))) = _
  simp only [BitVec.ofNat_toNat, BitVec.setWidth_eq]
theorem aextMinidx (h : AHdr) (fa : BitVec 5) (s : BitVec 6) : Statement (.aextMinidx h fa s) := by
  intro _ hw w1
  refine decode_of_raw (w1 := w1) (by show fieldWidth [(18, 0), (6, s.toNat), (11, 3), (5, fa.toNat), (5, 0), (5, h.mg.toNat), (2, 1), (4, h.stall.toNat), (8, 0xad)] = 64; simp only [fieldWidth]) ?_ hw
  rw [show Instr.fields (.aextMinidx h fa s) = [(18, 0), (6, s.toNat), (11, 3), (5, fa.toNat), (5, 0), (5, h.mg.toNat), (2, 1), (4, h.stall.toNat)] ++ [(8, 0xAD)] from rfl]
  obtain ⟨e1, e2⟩ := nibbles [(18, 0), (6, s.toNat), (11, 3), (5, fa.toNat), (5, 0), (5, h.mg.toNat), (2, 1), (4, h.stall.toNat)] 0xAD 10 13 (by simp only [fieldWidth]) rfl rfl
  rw [decodeRaw_hiA _ _ e1, decHiA_D _ _ _ e2]
  have u : unpackBits [18, 6, 11, 5, 5, 5, 2, 4, 8] (packBits ([(18, 0), (6, s.toNat), (11, 3), (5, fa.toNat), (5, 0), (5, h.mg.toNat), (2, 1), (4, h.stall.toNat)] ++ [(8, 0xAD)])) = [0, s.toNat, 3, fa.toNat, 0, h.mg.toNat, 1, h.stall.toNat, 173] :=
    unpackBits_pack [(18, 0), (6, s.toNat), (11, 3), (5, fa.toNat), (5, 0), (5, h.mg.toNat), (2, 1), (4, h.stall.toNat), (8, 0xad)] ⟨by decide, s.isLt, by decide, fa.isLt, by decide, h.mg.isLt, by decide, h.stall.isLt, by decide, trivial⟩
  unfold decOpAD
  rw [u]
  show (some (Instr.aextMinidx ⟨BitVec.ofNat 4 h.stall.toNat, BitVec.ofNat 5 h.mg.toNat⟩ (BitVec.ofNat 5 fa.toNat) (BitVec.ofNat 6 s.toNat))) = _
  simp only [BitVec.ofNat_toNat, BitVec.setWidth_eq]
theorem ardrow (h : AHdr) (fa sb : BitVec 5) (s : BitVec 6) : Statement (.ardrow h fa sb s) := by
  intro _ hw w1
  refine decode_of_raw (w1 := w1) (by show fieldWidth [(18, 0), (6, s.toNat), (6, 0), (5, sb.toNat), (5, fa.toNat), (5, 0), (5, h.mg.toNat), (2, 1), (4, h.stall.toNat), (8, 0xae)] = 64; simp only [fieldWidth]) ?_ hw
  rw [show Instr.fields (.ardrow h fa sb s) = [(18, 0), (6, s.toNat), (6, 0), (5, sb.toNat), (5, fa.toNat), (5, 0), (5, h.mg.toNat), (2, 1), (4, h.stall.toNat)] ++ [(8, 0xAE)] from rfl]
  obtain ⟨e1, e2⟩ := nibbles [(18, 0), (6, s.toNat), (6, 0), (5, sb.toNat), (5, fa.toNat), (5, 0), (5, h.mg.toNat), (2, 1), (4, h.stall.toNat)] 0xAE 10 14 (by simp only [fieldWidth]) rfl rfl
  rw [decodeRaw_hiA _ _ e1, decHiA_E _ _ _ e2]
  have u : unpackBits [18, 6, 6, 5, 5, 5, 5, 2, 4, 8] (packBits ([(18, 0), (6, s.toNat), (6, 0), (5, sb.toNat), (5, fa.toNat), (5, 0), (5, h.mg.toNat), (2, 1), (4, h.stall.toNat)] ++ [(8, 0xAE)])) = [0, s.toNat, 0, sb.toNat, fa.toNat, 0, h.mg.toNat, 1, h.stall.toNat, 174] :=
    unpackBits_pack [(18, 0), (6, s.toNat), (6, 0), (5, sb.toNat), (5, fa.toNat), (5, 0), (5, h.mg.toNat), (2, 1), (4, h.stall.toNat), (8, 0xae)] ⟨by decide, s.isLt, by decide, sb.isLt, fa.isLt, by decide, h.mg.isLt, by decide, h.stall.isLt, by decide, trivial⟩
  unfold decOpAE
  rw [u]
  show (some (Instr.ardrow ⟨BitVec.ofNat 4 h.stall.toNat, BitVec.ofNat 5 h.mg.toNat⟩ (BitVec.ofNat 5 fa.toNat) (BitVec.ofNat 5 sb.toNat) (BitVec.ofNat 6 s.toNat))) = _
  simp only [BitVec.ofNat_toNat, BitVec.setWidth_eq]
theorem awrrow (h : AHdr) (fd sb : BitVec 5) (s : BitVec 6) : Statement (.awrrow h fd sb s) := by
  intro _ hw w1
  refine decode_of_raw (w1 := w1) (by show fieldWidth [(18, 0), (6, s.toNat), (6, 0), (5, sb.toNat), (5, 0), (5, fd.toNat), (5, h.mg.toNat), (2, 1), (4, h.stall.toNat), (8, 0xaf)] = 64; simp only [fieldWidth]) ?_ hw
  rw [show Instr.fields (.awrrow h fd sb s) = [(18, 0), (6, s.toNat), (6, 0), (5, sb.toNat), (5, 0), (5, fd.toNat), (5, h.mg.toNat), (2, 1), (4, h.stall.toNat)] ++ [(8, 0xAF)] from rfl]
  obtain ⟨e1, e2⟩ := nibbles [(18, 0), (6, s.toNat), (6, 0), (5, sb.toNat), (5, 0), (5, fd.toNat), (5, h.mg.toNat), (2, 1), (4, h.stall.toNat)] 0xAF 10 15 (by simp only [fieldWidth]) rfl rfl
  rw [decodeRaw_hiA _ _ e1, decHiA_F _ _ _ e2]
  have u : unpackBits [18, 6, 6, 5, 5, 5, 5, 2, 4, 8] (packBits ([(18, 0), (6, s.toNat), (6, 0), (5, sb.toNat), (5, 0), (5, fd.toNat), (5, h.mg.toNat), (2, 1), (4, h.stall.toNat)] ++ [(8, 0xAF)])) = [0, s.toNat, 0, sb.toNat, 0, fd.toNat, h.mg.toNat, 1, h.stall.toNat, 175] :=
    unpackBits_pack [(18, 0), (6, s.toNat), (6, 0), (5, sb.toNat), (5, 0), (5, fd.toNat), (5, h.mg.toNat), (2, 1), (4, h.stall.toNat), (8, 0xaf)] ⟨by decide, s.isLt, by decide, sb.isLt, by decide, fd.isLt, h.mg.isLt, by decide, h.stall.isLt, by decide, trivial⟩
  unfold decOpAF
  rw [u]
  show (some (Instr.awrrow ⟨BitVec.ofNat 4 h.stall.toNat, BitVec.ofNat 5 h.mg.toNat⟩ (BitVec.ofNat 5 fd.toNat) (BitVec.ofNat 5 sb.toNat) (BitVec.ofNat 6 s.toNat))) = _
  simp only [BitVec.ofNat_toNat, BitVec.setWidth_eq]
theorem aadd (h : AHdr) (fd fa : BitVec 5) (rc : BitVec 3) (sat : BitVec 1) (o : AOpnd) : Statement (.aadd h fd fa rc sat o) := by
  intro _ hw w1
  refine decode_of_raw (w1 := w1) (by show fieldWidth [(24, o.lo), (2, 0), (1, sat.toNat), (3, rc.toNat), (5, o.mid), (5, fa.toNat), (5, fd.toNat), (5, h.mg.toNat), (2, o.form), (4, h.stall.toNat), (8, 0xb0)] = 64; simp only [fieldWidth]) ?_ hw
  rw [show Instr.fields (.aadd h fd fa rc sat o) = [(24, o.lo), (2, 0), (1, sat.toNat), (3, rc.toNat), (5, o.mid), (5, fa.toNat), (5, fd.toNat), (5, h.mg.toNat), (2, o.form), (4, h.stall.toNat)] ++ [(8, 0xB0)] from rfl]
  obtain ⟨e1, e2⟩ := nibbles [(24, o.lo), (2, 0), (1, sat.toNat), (3, rc.toNat), (5, o.mid), (5, fa.toNat), (5, fd.toNat), (5, h.mg.toNat), (2, o.form), (4, h.stall.toNat)] 0xB0 11 0 (by simp only [fieldWidth]) rfl rfl
  rw [decodeRaw_hiB _ _ e1, decHiB_0 _ _ _ e2]
  have u : unpackBits [24, 2, 1, 3, 5, 5, 5, 5, 2, 4, 8] (packBits ([(24, o.lo), (2, 0), (1, sat.toNat), (3, rc.toNat), (5, o.mid), (5, fa.toNat), (5, fd.toNat), (5, h.mg.toNat), (2, o.form), (4, h.stall.toNat)] ++ [(8, 0xB0)])) = [o.lo, 0, sat.toNat, rc.toNat, o.mid, fa.toNat, fd.toNat, h.mg.toNat, o.form, h.stall.toNat, 176] :=
    unpackBits_pack [(24, o.lo), (2, 0), (1, sat.toNat), (3, rc.toNat), (5, o.mid), (5, fa.toNat), (5, fd.toNat), (5, h.mg.toNat), (2, o.form), (4, h.stall.toNat), (8, 0xb0)] ⟨o.lo_lt, by decide, sat.isLt, rc.isLt, o.mid_lt, fa.isLt, fd.isLt, h.mg.isLt, o.form_lt, h.stall.isLt, by decide, trivial⟩
  unfold decOpB0
  rw [u]
  show ((AOpnd.ofBits o.form o.mid o.lo).map fun o => Instr.aadd ⟨BitVec.ofNat 4 h.stall.toNat, BitVec.ofNat 5 h.mg.toNat⟩ (BitVec.ofNat 5 fd.toNat) (BitVec.ofNat 5 fa.toNat) (BitVec.ofNat 3 rc.toNat) (BitVec.ofNat 1 sat.toNat) o) = _
  simp only [BitVec.ofNat_toNat, BitVec.setWidth_eq, AOpnd.ofBits_bits, Option.map_some]
theorem asub (h : AHdr) (fd fa : BitVec 5) (rc : BitVec 3) (sat rev : BitVec 1) (o : AOpnd) : Statement (.asub h fd fa rc sat rev o) := by
  intro _ hw w1
  refine decode_of_raw (w1 := w1) (by show fieldWidth [(24, o.lo), (1, rev.toNat), (1, 0), (1, sat.toNat), (3, rc.toNat), (5, o.mid), (5, fa.toNat), (5, fd.toNat), (5, h.mg.toNat), (2, o.form), (4, h.stall.toNat), (8, 0xb1)] = 64; simp only [fieldWidth]) ?_ hw
  rw [show Instr.fields (.asub h fd fa rc sat rev o) = [(24, o.lo), (1, rev.toNat), (1, 0), (1, sat.toNat), (3, rc.toNat), (5, o.mid), (5, fa.toNat), (5, fd.toNat), (5, h.mg.toNat), (2, o.form), (4, h.stall.toNat)] ++ [(8, 0xB1)] from rfl]
  obtain ⟨e1, e2⟩ := nibbles [(24, o.lo), (1, rev.toNat), (1, 0), (1, sat.toNat), (3, rc.toNat), (5, o.mid), (5, fa.toNat), (5, fd.toNat), (5, h.mg.toNat), (2, o.form), (4, h.stall.toNat)] 0xB1 11 1 (by simp only [fieldWidth]) rfl rfl
  rw [decodeRaw_hiB _ _ e1, decHiB_1 _ _ _ e2]
  have u : unpackBits [24, 1, 1, 1, 3, 5, 5, 5, 5, 2, 4, 8] (packBits ([(24, o.lo), (1, rev.toNat), (1, 0), (1, sat.toNat), (3, rc.toNat), (5, o.mid), (5, fa.toNat), (5, fd.toNat), (5, h.mg.toNat), (2, o.form), (4, h.stall.toNat)] ++ [(8, 0xB1)])) = [o.lo, rev.toNat, 0, sat.toNat, rc.toNat, o.mid, fa.toNat, fd.toNat, h.mg.toNat, o.form, h.stall.toNat, 177] :=
    unpackBits_pack [(24, o.lo), (1, rev.toNat), (1, 0), (1, sat.toNat), (3, rc.toNat), (5, o.mid), (5, fa.toNat), (5, fd.toNat), (5, h.mg.toNat), (2, o.form), (4, h.stall.toNat), (8, 0xb1)] ⟨o.lo_lt, rev.isLt, by decide, sat.isLt, rc.isLt, o.mid_lt, fa.isLt, fd.isLt, h.mg.isLt, o.form_lt, h.stall.isLt, by decide, trivial⟩
  unfold decOpB1
  rw [u]
  show ((AOpnd.ofBits o.form o.mid o.lo).map fun o => Instr.asub ⟨BitVec.ofNat 4 h.stall.toNat, BitVec.ofNat 5 h.mg.toNat⟩ (BitVec.ofNat 5 fd.toNat) (BitVec.ofNat 5 fa.toNat) (BitVec.ofNat 3 rc.toNat) (BitVec.ofNat 1 sat.toNat) (BitVec.ofNat 1 rev.toNat) o) = _
  simp only [BitVec.ofNat_toNat, BitVec.setWidth_eq, AOpnd.ofBits_bits, Option.map_some]
theorem amul (h : AHdr) (fd fa : BitVec 5) (rc : BitVec 3) (sat : BitVec 1) (o : AOpnd) : Statement (.amul h fd fa rc sat o) := by
  intro _ hw w1
  refine decode_of_raw (w1 := w1) (by show fieldWidth [(24, o.lo), (2, 0), (1, sat.toNat), (3, rc.toNat), (5, o.mid), (5, fa.toNat), (5, fd.toNat), (5, h.mg.toNat), (2, o.form), (4, h.stall.toNat), (8, 0xb2)] = 64; simp only [fieldWidth]) ?_ hw
  rw [show Instr.fields (.amul h fd fa rc sat o) = [(24, o.lo), (2, 0), (1, sat.toNat), (3, rc.toNat), (5, o.mid), (5, fa.toNat), (5, fd.toNat), (5, h.mg.toNat), (2, o.form), (4, h.stall.toNat)] ++ [(8, 0xB2)] from rfl]
  obtain ⟨e1, e2⟩ := nibbles [(24, o.lo), (2, 0), (1, sat.toNat), (3, rc.toNat), (5, o.mid), (5, fa.toNat), (5, fd.toNat), (5, h.mg.toNat), (2, o.form), (4, h.stall.toNat)] 0xB2 11 2 (by simp only [fieldWidth]) rfl rfl
  rw [decodeRaw_hiB _ _ e1, decHiB_2 _ _ _ e2]
  have u : unpackBits [24, 2, 1, 3, 5, 5, 5, 5, 2, 4, 8] (packBits ([(24, o.lo), (2, 0), (1, sat.toNat), (3, rc.toNat), (5, o.mid), (5, fa.toNat), (5, fd.toNat), (5, h.mg.toNat), (2, o.form), (4, h.stall.toNat)] ++ [(8, 0xB2)])) = [o.lo, 0, sat.toNat, rc.toNat, o.mid, fa.toNat, fd.toNat, h.mg.toNat, o.form, h.stall.toNat, 178] :=
    unpackBits_pack [(24, o.lo), (2, 0), (1, sat.toNat), (3, rc.toNat), (5, o.mid), (5, fa.toNat), (5, fd.toNat), (5, h.mg.toNat), (2, o.form), (4, h.stall.toNat), (8, 0xb2)] ⟨o.lo_lt, by decide, sat.isLt, rc.isLt, o.mid_lt, fa.isLt, fd.isLt, h.mg.isLt, o.form_lt, h.stall.isLt, by decide, trivial⟩
  unfold decOpB2
  rw [u]
  show ((AOpnd.ofBits o.form o.mid o.lo).map fun o => Instr.amul ⟨BitVec.ofNat 4 h.stall.toNat, BitVec.ofNat 5 h.mg.toNat⟩ (BitVec.ofNat 5 fd.toNat) (BitVec.ofNat 5 fa.toNat) (BitVec.ofNat 3 rc.toNat) (BitVec.ofNat 1 sat.toNat) o) = _
  simp only [BitVec.ofNat_toNat, BitVec.setWidth_eq, AOpnd.ofBits_bits, Option.map_some]
theorem afma (h : AHdr) (fd fa : BitVec 5) (rc : BitVec 3) (sat : BitVec 1) (o : AOpnd) : Statement (.afma h fd fa rc sat o) := by
  intro _ hw w1
  refine decode_of_raw (w1 := w1) (by show fieldWidth [(24, o.lo), (2, 0), (1, sat.toNat), (3, rc.toNat), (5, o.mid), (5, fa.toNat), (5, fd.toNat), (5, h.mg.toNat), (2, o.form), (4, h.stall.toNat), (8, 0xb3)] = 64; simp only [fieldWidth]) ?_ hw
  rw [show Instr.fields (.afma h fd fa rc sat o) = [(24, o.lo), (2, 0), (1, sat.toNat), (3, rc.toNat), (5, o.mid), (5, fa.toNat), (5, fd.toNat), (5, h.mg.toNat), (2, o.form), (4, h.stall.toNat)] ++ [(8, 0xB3)] from rfl]
  obtain ⟨e1, e2⟩ := nibbles [(24, o.lo), (2, 0), (1, sat.toNat), (3, rc.toNat), (5, o.mid), (5, fa.toNat), (5, fd.toNat), (5, h.mg.toNat), (2, o.form), (4, h.stall.toNat)] 0xB3 11 3 (by simp only [fieldWidth]) rfl rfl
  rw [decodeRaw_hiB _ _ e1, decHiB_3 _ _ _ e2]
  have u : unpackBits [24, 2, 1, 3, 5, 5, 5, 5, 2, 4, 8] (packBits ([(24, o.lo), (2, 0), (1, sat.toNat), (3, rc.toNat), (5, o.mid), (5, fa.toNat), (5, fd.toNat), (5, h.mg.toNat), (2, o.form), (4, h.stall.toNat)] ++ [(8, 0xB3)])) = [o.lo, 0, sat.toNat, rc.toNat, o.mid, fa.toNat, fd.toNat, h.mg.toNat, o.form, h.stall.toNat, 179] :=
    unpackBits_pack [(24, o.lo), (2, 0), (1, sat.toNat), (3, rc.toNat), (5, o.mid), (5, fa.toNat), (5, fd.toNat), (5, h.mg.toNat), (2, o.form), (4, h.stall.toNat), (8, 0xb3)] ⟨o.lo_lt, by decide, sat.isLt, rc.isLt, o.mid_lt, fa.isLt, fd.isLt, h.mg.isLt, o.form_lt, h.stall.isLt, by decide, trivial⟩
  unfold decOpB3
  rw [u]
  show ((AOpnd.ofBits o.form o.mid o.lo).map fun o => Instr.afma ⟨BitVec.ofNat 4 h.stall.toNat, BitVec.ofNat 5 h.mg.toNat⟩ (BitVec.ofNat 5 fd.toNat) (BitVec.ofNat 5 fa.toNat) (BitVec.ofNat 3 rc.toNat) (BitVec.ofNat 1 sat.toNat) o) = _
  simp only [BitVec.ofNat_toNat, BitVec.setWidth_eq, AOpnd.ofBits_bits, Option.map_some]
theorem adiv (h : AHdr) (fd fa : BitVec 5) (rc : BitVec 3) (sat rev : BitVec 1) (o : AOpnd) : Statement (.adiv h fd fa rc sat rev o) := by
  intro _ hw w1
  refine decode_of_raw (w1 := w1) (by show fieldWidth [(24, o.lo), (1, rev.toNat), (1, 0), (1, sat.toNat), (3, rc.toNat), (5, o.mid), (5, fa.toNat), (5, fd.toNat), (5, h.mg.toNat), (2, o.form), (4, h.stall.toNat), (8, 0xb4)] = 64; simp only [fieldWidth]) ?_ hw
  rw [show Instr.fields (.adiv h fd fa rc sat rev o) = [(24, o.lo), (1, rev.toNat), (1, 0), (1, sat.toNat), (3, rc.toNat), (5, o.mid), (5, fa.toNat), (5, fd.toNat), (5, h.mg.toNat), (2, o.form), (4, h.stall.toNat)] ++ [(8, 0xB4)] from rfl]
  obtain ⟨e1, e2⟩ := nibbles [(24, o.lo), (1, rev.toNat), (1, 0), (1, sat.toNat), (3, rc.toNat), (5, o.mid), (5, fa.toNat), (5, fd.toNat), (5, h.mg.toNat), (2, o.form), (4, h.stall.toNat)] 0xB4 11 4 (by simp only [fieldWidth]) rfl rfl
  rw [decodeRaw_hiB _ _ e1, decHiB_4 _ _ _ e2]
  have u : unpackBits [24, 1, 1, 1, 3, 5, 5, 5, 5, 2, 4, 8] (packBits ([(24, o.lo), (1, rev.toNat), (1, 0), (1, sat.toNat), (3, rc.toNat), (5, o.mid), (5, fa.toNat), (5, fd.toNat), (5, h.mg.toNat), (2, o.form), (4, h.stall.toNat)] ++ [(8, 0xB4)])) = [o.lo, rev.toNat, 0, sat.toNat, rc.toNat, o.mid, fa.toNat, fd.toNat, h.mg.toNat, o.form, h.stall.toNat, 180] :=
    unpackBits_pack [(24, o.lo), (1, rev.toNat), (1, 0), (1, sat.toNat), (3, rc.toNat), (5, o.mid), (5, fa.toNat), (5, fd.toNat), (5, h.mg.toNat), (2, o.form), (4, h.stall.toNat), (8, 0xb4)] ⟨o.lo_lt, rev.isLt, by decide, sat.isLt, rc.isLt, o.mid_lt, fa.isLt, fd.isLt, h.mg.isLt, o.form_lt, h.stall.isLt, by decide, trivial⟩
  unfold decOpB4
  rw [u]
  show ((AOpnd.ofBits o.form o.mid o.lo).map fun o => Instr.adiv ⟨BitVec.ofNat 4 h.stall.toNat, BitVec.ofNat 5 h.mg.toNat⟩ (BitVec.ofNat 5 fd.toNat) (BitVec.ofNat 5 fa.toNat) (BitVec.ofNat 3 rc.toNat) (BitVec.ofNat 1 sat.toNat) (BitVec.ofNat 1 rev.toNat) o) = _
  simp only [BitVec.ofNat_toNat, BitVec.setWidth_eq, AOpnd.ofBits_bits, Option.map_some]
theorem amin (h : AHdr) (fd fa : BitVec 5) (o : AOpnd) : Statement (.amin h fd fa o) := by
  intro _ hw w1
  refine decode_of_raw (w1 := w1) (by show fieldWidth [(24, o.lo), (6, 0), (5, o.mid), (5, fa.toNat), (5, fd.toNat), (5, h.mg.toNat), (2, o.form), (4, h.stall.toNat), (8, 0xb5)] = 64; simp only [fieldWidth]) ?_ hw
  rw [show Instr.fields (.amin h fd fa o) = [(24, o.lo), (6, 0), (5, o.mid), (5, fa.toNat), (5, fd.toNat), (5, h.mg.toNat), (2, o.form), (4, h.stall.toNat)] ++ [(8, 0xB5)] from rfl]
  obtain ⟨e1, e2⟩ := nibbles [(24, o.lo), (6, 0), (5, o.mid), (5, fa.toNat), (5, fd.toNat), (5, h.mg.toNat), (2, o.form), (4, h.stall.toNat)] 0xB5 11 5 (by simp only [fieldWidth]) rfl rfl
  rw [decodeRaw_hiB _ _ e1, decHiB_5 _ _ _ e2]
  have u : unpackBits [24, 6, 5, 5, 5, 5, 2, 4, 8] (packBits ([(24, o.lo), (6, 0), (5, o.mid), (5, fa.toNat), (5, fd.toNat), (5, h.mg.toNat), (2, o.form), (4, h.stall.toNat)] ++ [(8, 0xB5)])) = [o.lo, 0, o.mid, fa.toNat, fd.toNat, h.mg.toNat, o.form, h.stall.toNat, 181] :=
    unpackBits_pack [(24, o.lo), (6, 0), (5, o.mid), (5, fa.toNat), (5, fd.toNat), (5, h.mg.toNat), (2, o.form), (4, h.stall.toNat), (8, 0xb5)] ⟨o.lo_lt, by decide, o.mid_lt, fa.isLt, fd.isLt, h.mg.isLt, o.form_lt, h.stall.isLt, by decide, trivial⟩
  unfold decOpB5
  rw [u]
  show ((AOpnd.ofBits o.form o.mid o.lo).map fun o => Instr.amin ⟨BitVec.ofNat 4 h.stall.toNat, BitVec.ofNat 5 h.mg.toNat⟩ (BitVec.ofNat 5 fd.toNat) (BitVec.ofNat 5 fa.toNat) o) = _
  simp only [BitVec.ofNat_toNat, BitVec.setWidth_eq, AOpnd.ofBits_bits, Option.map_some]
theorem amax (h : AHdr) (fd fa : BitVec 5) (o : AOpnd) : Statement (.amax h fd fa o) := by
  intro _ hw w1
  refine decode_of_raw (w1 := w1) (by show fieldWidth [(24, o.lo), (6, 0), (5, o.mid), (5, fa.toNat), (5, fd.toNat), (5, h.mg.toNat), (2, o.form), (4, h.stall.toNat), (8, 0xb6)] = 64; simp only [fieldWidth]) ?_ hw
  rw [show Instr.fields (.amax h fd fa o) = [(24, o.lo), (6, 0), (5, o.mid), (5, fa.toNat), (5, fd.toNat), (5, h.mg.toNat), (2, o.form), (4, h.stall.toNat)] ++ [(8, 0xB6)] from rfl]
  obtain ⟨e1, e2⟩ := nibbles [(24, o.lo), (6, 0), (5, o.mid), (5, fa.toNat), (5, fd.toNat), (5, h.mg.toNat), (2, o.form), (4, h.stall.toNat)] 0xB6 11 6 (by simp only [fieldWidth]) rfl rfl
  rw [decodeRaw_hiB _ _ e1, decHiB_6 _ _ _ e2]
  have u : unpackBits [24, 6, 5, 5, 5, 5, 2, 4, 8] (packBits ([(24, o.lo), (6, 0), (5, o.mid), (5, fa.toNat), (5, fd.toNat), (5, h.mg.toNat), (2, o.form), (4, h.stall.toNat)] ++ [(8, 0xB6)])) = [o.lo, 0, o.mid, fa.toNat, fd.toNat, h.mg.toNat, o.form, h.stall.toNat, 182] :=
    unpackBits_pack [(24, o.lo), (6, 0), (5, o.mid), (5, fa.toNat), (5, fd.toNat), (5, h.mg.toNat), (2, o.form), (4, h.stall.toNat), (8, 0xb6)] ⟨o.lo_lt, by decide, o.mid_lt, fa.isLt, fd.isLt, h.mg.isLt, o.form_lt, h.stall.isLt, by decide, trivial⟩
  unfold decOpB6
  rw [u]
  show ((AOpnd.ofBits o.form o.mid o.lo).map fun o => Instr.amax ⟨BitVec.ofNat 4 h.stall.toNat, BitVec.ofNat 5 h.mg.toNat⟩ (BitVec.ofNat 5 fd.toNat) (BitVec.ofNat 5 fa.toNat) o) = _
  simp only [BitVec.ofNat_toNat, BitVec.setWidth_eq, AOpnd.ofBits_bits, Option.map_some]
theorem aabs (h : AHdr) (fd fa : BitVec 5) (rc : BitVec 3) (sat : BitVec 1) : Statement (.aabs h fd fa rc sat) := by
  intro _ hw w1
  refine decode_of_raw (w1 := w1) (by show fieldWidth [(26, 0), (1, sat.toNat), (3, rc.toNat), (5, 0), (5, fa.toNat), (5, fd.toNat), (5, h.mg.toNat), (2, 0), (4, h.stall.toNat), (8, 0xb7)] = 64; simp only [fieldWidth]) ?_ hw
  rw [show Instr.fields (.aabs h fd fa rc sat) = [(26, 0), (1, sat.toNat), (3, rc.toNat), (5, 0), (5, fa.toNat), (5, fd.toNat), (5, h.mg.toNat), (2, 0), (4, h.stall.toNat)] ++ [(8, 0xB7)] from rfl]
  obtain ⟨e1, e2⟩ := nibbles [(26, 0), (1, sat.toNat), (3, rc.toNat), (5, 0), (5, fa.toNat), (5, fd.toNat), (5, h.mg.toNat), (2, 0), (4, h.stall.toNat)] 0xB7 11 7 (by simp only [fieldWidth]) rfl rfl
  rw [decodeRaw_hiB _ _ e1, decHiB_7 _ _ _ e2]
  have u : unpackBits [26, 1, 3, 5, 5, 5, 5, 2, 4, 8] (packBits ([(26, 0), (1, sat.toNat), (3, rc.toNat), (5, 0), (5, fa.toNat), (5, fd.toNat), (5, h.mg.toNat), (2, 0), (4, h.stall.toNat)] ++ [(8, 0xB7)])) = [0, sat.toNat, rc.toNat, 0, fa.toNat, fd.toNat, h.mg.toNat, 0, h.stall.toNat, 183] :=
    unpackBits_pack [(26, 0), (1, sat.toNat), (3, rc.toNat), (5, 0), (5, fa.toNat), (5, fd.toNat), (5, h.mg.toNat), (2, 0), (4, h.stall.toNat), (8, 0xb7)] ⟨by decide, sat.isLt, rc.isLt, by decide, fa.isLt, fd.isLt, h.mg.isLt, by decide, h.stall.isLt, by decide, trivial⟩
  unfold decOpB7
  rw [u]
  show (some (Instr.aabs ⟨BitVec.ofNat 4 h.stall.toNat, BitVec.ofNat 5 h.mg.toNat⟩ (BitVec.ofNat 5 fd.toNat) (BitVec.ofNat 5 fa.toNat) (BitVec.ofNat 3 rc.toNat) (BitVec.ofNat 1 sat.toNat))) = _
  simp only [BitVec.ofNat_toNat, BitVec.setWidth_eq]
theorem aneg (h : AHdr) (fd fa : BitVec 5) (rc : BitVec 3) (sat : BitVec 1) : Statement (.aneg h fd fa rc sat) := by
  intro _ hw w1
  refine decode_of_raw (w1 := w1) (by show fieldWidth [(26, 0), (1, sat.toNat), (3, rc.toNat), (5, 0), (5, fa.toNat), (5, fd.toNat), (5, h.mg.toNat), (2, 0), (4, h.stall.toNat), (8, 0xb8)] = 64; simp only [fieldWidth]) ?_ hw
  rw [show Instr.fields (.aneg h fd fa rc sat) = [(26, 0), (1, sat.toNat), (3, rc.toNat), (5, 0), (5, fa.toNat), (5, fd.toNat), (5, h.mg.toNat), (2, 0), (4, h.stall.toNat)] ++ [(8, 0xB8)] from rfl]
  obtain ⟨e1, e2⟩ := nibbles [(26, 0), (1, sat.toNat), (3, rc.toNat), (5, 0), (5, fa.toNat), (5, fd.toNat), (5, h.mg.toNat), (2, 0), (4, h.stall.toNat)] 0xB8 11 8 (by simp only [fieldWidth]) rfl rfl
  rw [decodeRaw_hiB _ _ e1, decHiB_8 _ _ _ e2]
  have u : unpackBits [26, 1, 3, 5, 5, 5, 5, 2, 4, 8] (packBits ([(26, 0), (1, sat.toNat), (3, rc.toNat), (5, 0), (5, fa.toNat), (5, fd.toNat), (5, h.mg.toNat), (2, 0), (4, h.stall.toNat)] ++ [(8, 0xB8)])) = [0, sat.toNat, rc.toNat, 0, fa.toNat, fd.toNat, h.mg.toNat, 0, h.stall.toNat, 184] :=
    unpackBits_pack [(26, 0), (1, sat.toNat), (3, rc.toNat), (5, 0), (5, fa.toNat), (5, fd.toNat), (5, h.mg.toNat), (2, 0), (4, h.stall.toNat), (8, 0xb8)] ⟨by decide, sat.isLt, rc.isLt, by decide, fa.isLt, fd.isLt, h.mg.isLt, by decide, h.stall.isLt, by decide, trivial⟩
  unfold decOpB8
  rw [u]
  show (some (Instr.aneg ⟨BitVec.ofNat 4 h.stall.toNat, BitVec.ofNat 5 h.mg.toNat⟩ (BitVec.ofNat 5 fd.toNat) (BitVec.ofNat 5 fa.toNat) (BitVec.ofNat 3 rc.toNat) (BitVec.ofNat 1 sat.toNat))) = _
  simp only [BitVec.ofNat_toNat, BitVec.setWidth_eq]
theorem alogAnd (h : AHdr) (fd fa : BitVec 5) (o : AOpnd) : Statement (.alogAnd h fd fa o) := by
  intro _ hw w1
  refine decode_of_raw (w1 := w1) (by show fieldWidth [(24, o.lo), (6, 0), (5, o.mid), (5, fa.toNat), (5, fd.toNat), (5, h.mg.toNat), (2, o.form), (4, h.stall.toNat), (8, 0xb9)] = 64; simp only [fieldWidth]) ?_ hw
  rw [show Instr.fields (.alogAnd h fd fa o) = [(24, o.lo), (6, 0), (5, o.mid), (5, fa.toNat), (5, fd.toNat), (5, h.mg.toNat), (2, o.form), (4, h.stall.toNat)] ++ [(8, 0xB9)] from rfl]
  obtain ⟨e1, e2⟩ := nibbles [(24, o.lo), (6, 0), (5, o.mid), (5, fa.toNat), (5, fd.toNat), (5, h.mg.toNat), (2, o.form), (4, h.stall.toNat)] 0xB9 11 9 (by simp only [fieldWidth]) rfl rfl
  rw [decodeRaw_hiB _ _ e1, decHiB_9 _ _ _ e2]
  have u : unpackBits [24, 6, 5, 5, 5, 5, 2, 4, 8] (packBits ([(24, o.lo), (6, 0), (5, o.mid), (5, fa.toNat), (5, fd.toNat), (5, h.mg.toNat), (2, o.form), (4, h.stall.toNat)] ++ [(8, 0xB9)])) = [o.lo, 0, o.mid, fa.toNat, fd.toNat, h.mg.toNat, o.form, h.stall.toNat, 185] :=
    unpackBits_pack [(24, o.lo), (6, 0), (5, o.mid), (5, fa.toNat), (5, fd.toNat), (5, h.mg.toNat), (2, o.form), (4, h.stall.toNat), (8, 0xb9)] ⟨o.lo_lt, by decide, o.mid_lt, fa.isLt, fd.isLt, h.mg.isLt, o.form_lt, h.stall.isLt, by decide, trivial⟩
  unfold decOpB9
  rw [u]
  show ((AOpnd.ofBits o.form o.mid o.lo).map fun o => Instr.alogAnd ⟨BitVec.ofNat 4 h.stall.toNat, BitVec.ofNat 5 h.mg.toNat⟩ (BitVec.ofNat 5 fd.toNat) (BitVec.ofNat 5 fa.toNat) o) = _
  simp only [BitVec.ofNat_toNat, BitVec.setWidth_eq, AOpnd.ofBits_bits, Option.map_some]
theorem alogOr (h : AHdr) (fd fa : BitVec 5) (o : AOpnd) : Statement (.alogOr h fd fa o) := by
  intro _ hw w1
  refine decode_of_raw (w1 := w1) (by show fieldWidth [(24, o.lo), (6, 1), (5, o.mid), (5, fa.toNat), (5, fd.toNat), (5, h.mg.toNat), (2, o.form), (4, h.stall.toNat), (8, 0xb9)] = 64; simp only [fieldWidth]) ?_ hw
  rw [show Instr.fields (.alogOr h fd fa o) = [(24, o.lo), (6, 1), (5, o.mid), (5, fa.toNat), (5, fd.toNat), (5, h.mg.toNat), (2, o.form), (4, h.stall.toNat)] ++ [(8, 0xB9)] from rfl]
  obtain ⟨e1, e2⟩ := nibbles [(24, o.lo), (6, 1), (5, o.mid), (5, fa.toNat), (5, fd.toNat), (5, h.mg.toNat), (2, o.form), (4, h.stall.toNat)] 0xB9 11 9 (by simp only [fieldWidth]) rfl rfl
  rw [decodeRaw_hiB _ _ e1, decHiB_9 _ _ _ e2]
  have u : unpackBits [24, 6, 5, 5, 5, 5, 2, 4, 8] (packBits ([(24, o.lo), (6, 1), (5, o.mid), (5, fa.toNat), (5, fd.toNat), (5, h.mg.toNat), (2, o.form), (4, h.stall.toNat)] ++ [(8, 0xB9)])) = [o.lo, 1, o.mid, fa.toNat, fd.toNat, h.mg.toNat, o.form, h.stall.toNat, 185] :=
    unpackBits_pack [(24, o.lo), (6, 1), (5, o.mid), (5, fa.toNat), (5, fd.toNat), (5, h.mg.toNat), (2, o.form), (4, h.stall.toNat), (8, 0xb9)] ⟨o.lo_lt, by decide, o.mid_lt, fa.isLt, fd.isLt, h.mg.isLt, o.form_lt, h.stall.isLt, by decide, trivial⟩
  unfold decOpB9
  rw [u]
  show ((AOpnd.ofBits o.form o.mid o.lo).map fun o => Instr.alogOr ⟨BitVec.ofNat 4 h.stall.toNat, BitVec.ofNat 5 h.mg.toNat⟩ (BitVec.ofNat 5 fd.toNat) (BitVec.ofNat 5 fa.toNat) o) = _
  simp only [BitVec.ofNat_toNat, BitVec.setWidth_eq, AOpnd.ofBits_bits, Option.map_some]
theorem alogXor (h : AHdr) (fd fa : BitVec 5) (o : AOpnd) : Statement (.alogXor h fd fa o) := by
  intro _ hw w1
  refine decode_of_raw (w1 := w1) (by show fieldWidth [(24, o.lo), (6, 2), (5, o.mid), (5, fa.toNat), (5, fd.toNat), (5, h.mg.toNat), (2, o.form), (4, h.stall.toNat), (8, 0xb9)] = 64; simp only [fieldWidth]) ?_ hw
  rw [show Instr.fields (.alogXor h fd fa o) = [(24, o.lo), (6, 2), (5, o.mid), (5, fa.toNat), (5, fd.toNat), (5, h.mg.toNat), (2, o.form), (4, h.stall.toNat)] ++ [(8, 0xB9)] from rfl]
  obtain ⟨e1, e2⟩ := nibbles [(24, o.lo), (6, 2), (5, o.mid), (5, fa.toNat), (5, fd.toNat), (5, h.mg.toNat), (2, o.form), (4, h.stall.toNat)] 0xB9 11 9 (by simp only [fieldWidth]) rfl rfl
  rw [decodeRaw_hiB _ _ e1, decHiB_9 _ _ _ e2]
  have u : unpackBits [24, 6, 5, 5, 5, 5, 2, 4, 8] (packBits ([(24, o.lo), (6, 2), (5, o.mid), (5, fa.toNat), (5, fd.toNat), (5, h.mg.toNat), (2, o.form), (4, h.stall.toNat)] ++ [(8, 0xB9)])) = [o.lo, 2, o.mid, fa.toNat, fd.toNat, h.mg.toNat, o.form, h.stall.toNat, 185] :=
    unpackBits_pack [(24, o.lo), (6, 2), (5, o.mid), (5, fa.toNat), (5, fd.toNat), (5, h.mg.toNat), (2, o.form), (4, h.stall.toNat), (8, 0xb9)] ⟨o.lo_lt, by decide, o.mid_lt, fa.isLt, fd.isLt, h.mg.isLt, o.form_lt, h.stall.isLt, by decide, trivial⟩
  unfold decOpB9
  rw [u]
  show ((AOpnd.ofBits o.form o.mid o.lo).map fun o => Instr.alogXor ⟨BitVec.ofNat 4 h.stall.toNat, BitVec.ofNat 5 h.mg.toNat⟩ (BitVec.ofNat 5 fd.toNat) (BitVec.ofNat 5 fa.toNat) o) = _
  simp only [BitVec.ofNat_toNat, BitVec.setWidth_eq, AOpnd.ofBits_bits, Option.map_some]
theorem alogAndn (h : AHdr) (fd fa : BitVec 5) (o : AOpnd) : Statement (.alogAndn h fd fa o) := by
  intro _ hw w1
  refine decode_of_raw (w1 := w1) (by show fieldWidth [(24, o.lo), (6, 3), (5, o.mid), (5, fa.toNat), (5, fd.toNat), (5, h.mg.toNat), (2, o.form), (4, h.stall.toNat), (8, 0xb9)] = 64; simp only [fieldWidth]) ?_ hw
  rw [show Instr.fields (.alogAndn h fd fa o) = [(24, o.lo), (6, 3), (5, o.mid), (5, fa.toNat), (5, fd.toNat), (5, h.mg.toNat), (2, o.form), (4, h.stall.toNat)] ++ [(8, 0xB9)] from rfl]
  obtain ⟨e1, e2⟩ := nibbles [(24, o.lo), (6, 3), (5, o.mid), (5, fa.toNat), (5, fd.toNat), (5, h.mg.toNat), (2, o.form), (4, h.stall.toNat)] 0xB9 11 9 (by simp only [fieldWidth]) rfl rfl
  rw [decodeRaw_hiB _ _ e1, decHiB_9 _ _ _ e2]
  have u : unpackBits [24, 6, 5, 5, 5, 5, 2, 4, 8] (packBits ([(24, o.lo), (6, 3), (5, o.mid), (5, fa.toNat), (5, fd.toNat), (5, h.mg.toNat), (2, o.form), (4, h.stall.toNat)] ++ [(8, 0xB9)])) = [o.lo, 3, o.mid, fa.toNat, fd.toNat, h.mg.toNat, o.form, h.stall.toNat, 185] :=
    unpackBits_pack [(24, o.lo), (6, 3), (5, o.mid), (5, fa.toNat), (5, fd.toNat), (5, h.mg.toNat), (2, o.form), (4, h.stall.toNat), (8, 0xb9)] ⟨o.lo_lt, by decide, o.mid_lt, fa.isLt, fd.isLt, h.mg.isLt, o.form_lt, h.stall.isLt, by decide, trivial⟩
  unfold decOpB9
  rw [u]
  show ((AOpnd.ofBits o.form o.mid o.lo).map fun o => Instr.alogAndn ⟨BitVec.ofNat 4 h.stall.toNat, BitVec.ofNat 5 h.mg.toNat⟩ (BitVec.ofNat 5 fd.toNat) (BitVec.ofNat 5 fa.toNat) o) = _
  simp only [BitVec.ofNat_toNat, BitVec.setWidth_eq, AOpnd.ofBits_bits, Option.map_some]
theorem ashfShl (h : AHdr) (fd fa : BitVec 5) (sat : BitVec 1) (o : AOpnd) : Statement (.ashfShl h fd fa sat o) := by
  intro _ hw w1
  refine decode_of_raw (w1 := w1) (by show fieldWidth [(24, o.lo), (2, 0), (1, sat.toNat), (3, 0), (5, o.mid), (5, fa.toNat), (5, fd.toNat), (5, h.mg.toNat), (2, o.form), (4, h.stall.toNat), (8, 0xba)] = 64; simp only [fieldWidth]) ?_ hw
  rw [show Instr.fields (.ashfShl h fd fa sat o) = [(24, o.lo), (2, 0), (1, sat.toNat), (3, 0), (5, o.mid), (5, fa.toNat), (5, fd.toNat), (5, h.mg.toNat), (2, o.form), (4, h.stall.toNat)] ++ [(8, 0xBA)] from rfl]
  obtain ⟨e1, e2⟩ := nibbles [(24, o.lo), (2, 0), (1, sat.toNat), (3, 0), (5, o.mid), (5, fa.toNat), (5, fd.toNat), (5, h.mg.toNat), (2, o.form), (4, h.stall.toNat)] 0xBA 11 10 (by simp only [fieldWidth]) rfl rfl
  rw [decodeRaw_hiB _ _ e1, decHiB_A _ _ _ e2]
  have u : unpackBits [24, 2, 1, 3, 5, 5, 5, 5, 2, 4, 8] (packBits ([(24, o.lo), (2, 0), (1, sat.toNat), (3, 0), (5, o.mid), (5, fa.toNat), (5, fd.toNat), (5, h.mg.toNat), (2, o.form), (4, h.stall.toNat)] ++ [(8, 0xBA)])) = [o.lo, 0, sat.toNat, 0, o.mid, fa.toNat, fd.toNat, h.mg.toNat, o.form, h.stall.toNat, 186] :=
    unpackBits_pack [(24, o.lo), (2, 0), (1, sat.toNat), (3, 0), (5, o.mid), (5, fa.toNat), (5, fd.toNat), (5, h.mg.toNat), (2, o.form), (4, h.stall.toNat), (8, 0xba)] ⟨o.lo_lt, by decide, sat.isLt, by decide, o.mid_lt, fa.isLt, fd.isLt, h.mg.isLt, o.form_lt, h.stall.isLt, by decide, trivial⟩
  unfold decOpBA
  rw [u]
  show ((AOpnd.ofBits o.form o.mid o.lo).map fun o => Instr.ashfShl ⟨BitVec.ofNat 4 h.stall.toNat, BitVec.ofNat 5 h.mg.toNat⟩ (BitVec.ofNat 5 fd.toNat) (BitVec.ofNat 5 fa.toNat) (BitVec.ofNat 1 sat.toNat) o) = _
  simp only [BitVec.ofNat_toNat, BitVec.setWidth_eq, AOpnd.ofBits_bits, Option.map_some]
theorem ashfShr (h : AHdr) (fd fa : BitVec 5) (sat : BitVec 1) (o : AOpnd) : Statement (.ashfShr h fd fa sat o) := by
  intro _ hw w1
  refine decode_of_raw (w1 := w1) (by show fieldWidth [(24, o.lo), (2, 1), (1, sat.toNat), (3, 0), (5, o.mid), (5, fa.toNat), (5, fd.toNat), (5, h.mg.toNat), (2, o.form), (4, h.stall.toNat), (8, 0xba)] = 64; simp only [fieldWidth]) ?_ hw
  rw [show Instr.fields (.ashfShr h fd fa sat o) = [(24, o.lo), (2, 1), (1, sat.toNat), (3, 0), (5, o.mid), (5, fa.toNat), (5, fd.toNat), (5, h.mg.toNat), (2, o.form), (4, h.stall.toNat)] ++ [(8, 0xBA)] from rfl]
  obtain ⟨e1, e2⟩ := nibbles [(24, o.lo), (2, 1), (1, sat.toNat), (3, 0), (5, o.mid), (5, fa.toNat), (5, fd.toNat), (5, h.mg.toNat), (2, o.form), (4, h.stall.toNat)] 0xBA 11 10 (by simp only [fieldWidth]) rfl rfl
  rw [decodeRaw_hiB _ _ e1, decHiB_A _ _ _ e2]
  have u : unpackBits [24, 2, 1, 3, 5, 5, 5, 5, 2, 4, 8] (packBits ([(24, o.lo), (2, 1), (1, sat.toNat), (3, 0), (5, o.mid), (5, fa.toNat), (5, fd.toNat), (5, h.mg.toNat), (2, o.form), (4, h.stall.toNat)] ++ [(8, 0xBA)])) = [o.lo, 1, sat.toNat, 0, o.mid, fa.toNat, fd.toNat, h.mg.toNat, o.form, h.stall.toNat, 186] :=
    unpackBits_pack [(24, o.lo), (2, 1), (1, sat.toNat), (3, 0), (5, o.mid), (5, fa.toNat), (5, fd.toNat), (5, h.mg.toNat), (2, o.form), (4, h.stall.toNat), (8, 0xba)] ⟨o.lo_lt, by decide, sat.isLt, by decide, o.mid_lt, fa.isLt, fd.isLt, h.mg.isLt, o.form_lt, h.stall.isLt, by decide, trivial⟩
  unfold decOpBA
  rw [u]
  show ((AOpnd.ofBits o.form o.mid o.lo).map fun o => Instr.ashfShr ⟨BitVec.ofNat 4 h.stall.toNat, BitVec.ofNat 5 h.mg.toNat⟩ (BitVec.ofNat 5 fd.toNat) (BitVec.ofNat 5 fa.toNat) (BitVec.ofNat 1 sat.toNat) o) = _
  simp only [BitVec.ofNat_toNat, BitVec.setWidth_eq, AOpnd.ofBits_bits, Option.map_some]
theorem ashfSra (h : AHdr) (fd fa : BitVec 5) (sat : BitVec 1) (o : AOpnd) : Statement (.ashfSra h fd fa sat o) := by
  intro _ hw w1
  refine decode_of_raw (w1 := w1) (by show fieldWidth [(24, o.lo), (2, 2), (1, sat.toNat), (3, 0), (5, o.mid), (5, fa.toNat), (5, fd.toNat), (5, h.mg.toNat), (2, o.form), (4, h.stall.toNat), (8, 0xba)] = 64; simp only [fieldWidth]) ?_ hw
  rw [show Instr.fields (.ashfSra h fd fa sat o) = [(24, o.lo), (2, 2), (1, sat.toNat), (3, 0), (5, o.mid), (5, fa.toNat), (5, fd.toNat), (5, h.mg.toNat), (2, o.form), (4, h.stall.toNat)] ++ [(8, 0xBA)] from rfl]
  obtain ⟨e1, e2⟩ := nibbles [(24, o.lo), (2, 2), (1, sat.toNat), (3, 0), (5, o.mid), (5, fa.toNat), (5, fd.toNat), (5, h.mg.toNat), (2, o.form), (4, h.stall.toNat)] 0xBA 11 10 (by simp only [fieldWidth]) rfl rfl
  rw [decodeRaw_hiB _ _ e1, decHiB_A _ _ _ e2]
  have u : unpackBits [24, 2, 1, 3, 5, 5, 5, 5, 2, 4, 8] (packBits ([(24, o.lo), (2, 2), (1, sat.toNat), (3, 0), (5, o.mid), (5, fa.toNat), (5, fd.toNat), (5, h.mg.toNat), (2, o.form), (4, h.stall.toNat)] ++ [(8, 0xBA)])) = [o.lo, 2, sat.toNat, 0, o.mid, fa.toNat, fd.toNat, h.mg.toNat, o.form, h.stall.toNat, 186] :=
    unpackBits_pack [(24, o.lo), (2, 2), (1, sat.toNat), (3, 0), (5, o.mid), (5, fa.toNat), (5, fd.toNat), (5, h.mg.toNat), (2, o.form), (4, h.stall.toNat), (8, 0xba)] ⟨o.lo_lt, by decide, sat.isLt, by decide, o.mid_lt, fa.isLt, fd.isLt, h.mg.isLt, o.form_lt, h.stall.isLt, by decide, trivial⟩
  unfold decOpBA
  rw [u]
  show ((AOpnd.ofBits o.form o.mid o.lo).map fun o => Instr.ashfSra ⟨BitVec.ofNat 4 h.stall.toNat, BitVec.ofNat 5 h.mg.toNat⟩ (BitVec.ofNat 5 fd.toNat) (BitVec.ofNat 5 fa.toNat) (BitVec.ofNat 1 sat.toNat) o) = _
  simp only [BitVec.ofNat_toNat, BitVec.setWidth_eq, AOpnd.ofBits_bits, Option.map_some]
theorem ashfRot (h : AHdr) (fd fa : BitVec 5) (sat : BitVec 1) (o : AOpnd) : Statement (.ashfRot h fd fa sat o) := by
  intro _ hw w1
  refine decode_of_raw (w1 := w1) (by show fieldWidth [(24, o.lo), (2, 3), (1, sat.toNat), (3, 0), (5, o.mid), (5, fa.toNat), (5, fd.toNat), (5, h.mg.toNat), (2, o.form), (4, h.stall.toNat), (8, 0xba)] = 64; simp only [fieldWidth]) ?_ hw
  rw [show Instr.fields (.ashfRot h fd fa sat o) = [(24, o.lo), (2, 3), (1, sat.toNat), (3, 0), (5, o.mid), (5, fa.toNat), (5, fd.toNat), (5, h.mg.toNat), (2, o.form), (4, h.stall.toNat)] ++ [(8, 0xBA)] from rfl]
  obtain ⟨e1, e2⟩ := nibbles [(24, o.lo), (2, 3), (1, sat.toNat), (3, 0), (5, o.mid), (5, fa.toNat), (5, fd.toNat), (5, h.mg.toNat), (2, o.form), (4, h.stall.toNat)] 0xBA 11 10 (by simp only [fieldWidth]) rfl rfl
  rw [decodeRaw_hiB _ _ e1, decHiB_A _ _ _ e2]
  have u : unpackBits [24, 2, 1, 3, 5, 5, 5, 5, 2, 4, 8] (packBits ([(24, o.lo), (2, 3), (1, sat.toNat), (3, 0), (5, o.mid), (5, fa.toNat), (5, fd.toNat), (5, h.mg.toNat), (2, o.form), (4, h.stall.toNat)] ++ [(8, 0xBA)])) = [o.lo, 3, sat.toNat, 0, o.mid, fa.toNat, fd.toNat, h.mg.toNat, o.form, h.stall.toNat, 186] :=
    unpackBits_pack [(24, o.lo), (2, 3), (1, sat.toNat), (3, 0), (5, o.mid), (5, fa.toNat), (5, fd.toNat), (5, h.mg.toNat), (2, o.form), (4, h.stall.toNat), (8, 0xba)] ⟨o.lo_lt, by decide, sat.isLt, by decide, o.mid_lt, fa.isLt, fd.isLt, h.mg.isLt, o.form_lt, h.stall.isLt, by decide, trivial⟩
  unfold decOpBA
  rw [u]
  show ((AOpnd.ofBits o.form o.mid o.lo).map fun o => Instr.ashfRot ⟨BitVec.ofNat 4 h.stall.toNat, BitVec.ofNat 5 h.mg.toNat⟩ (BitVec.ofNat 5 fd.toNat) (BitVec.ofNat 5 fa.toNat) (BitVec.ofNat 1 sat.toNat) o) = _
  simp only [BitVec.ofNat_toNat, BitVec.setWidth_eq, AOpnd.ofBits_bits, Option.map_some]
theorem acvt (h : AHdr) (fd fa : BitVec 5) (rc : BitVec 3) (sat : BitVec 1) : Statement (.acvt h fd fa rc sat) := by
  intro _ hw w1
  refine decode_of_raw (w1 := w1) (by show fieldWidth [(26, 0), (1, sat.toNat), (3, rc.toNat), (5, 0), (5, fa.toNat), (5, fd.toNat), (5, h.mg.toNat), (2, 0), (4, h.stall.toNat), (8, 0xbb)] = 64; simp only [fieldWidth]) ?_ hw
  rw [show Instr.fields (.acvt h fd fa rc sat) = [(26, 0), (1, sat.toNat), (3, rc.toNat), (5, 0), (5, fa.toNat), (5, fd.toNat), (5, h.mg.toNat), (2, 0), (4, h.stall.toNat)] ++ [(8, 0xBB)] from rfl]
  obtain ⟨e1, e2⟩ := nibbles [(26, 0), (1, sat.toNat), (3, rc.toNat), (5, 0), (5, fa.toNat), (5, fd.toNat), (5, h.mg.toNat), (2, 0), (4, h.stall.toNat)] 0xBB 11 11 (by simp only [fieldWidth]) rfl rfl
  rw [decodeRaw_hiB _ _ e1, decHiB_B _ _ _ e2]
  have u : unpackBits [26, 1, 3, 5, 5, 5, 5, 2, 4, 8] (packBits ([(26, 0), (1, sat.toNat), (3, rc.toNat), (5, 0), (5, fa.toNat), (5, fd.toNat), (5, h.mg.toNat), (2, 0), (4, h.stall.toNat)] ++ [(8, 0xBB)])) = [0, sat.toNat, rc.toNat, 0, fa.toNat, fd.toNat, h.mg.toNat, 0, h.stall.toNat, 187] :=
    unpackBits_pack [(26, 0), (1, sat.toNat), (3, rc.toNat), (5, 0), (5, fa.toNat), (5, fd.toNat), (5, h.mg.toNat), (2, 0), (4, h.stall.toNat), (8, 0xbb)] ⟨by decide, sat.isLt, rc.isLt, by decide, fa.isLt, fd.isLt, h.mg.isLt, by decide, h.stall.isLt, by decide, trivial⟩
  unfold decOpBB
  rw [u]
  show (some (Instr.acvt ⟨BitVec.ofNat 4 h.stall.toNat, BitVec.ofNat 5 h.mg.toNat⟩ (BitVec.ofNat 5 fd.toNat) (BitVec.ofNat 5 fa.toNat) (BitVec.ofNat 3 rc.toNat) (BitVec.ofNat 1 sat.toNat))) = _
  simp only [BitVec.ofNat_toNat, BitVec.setWidth_eq]
theorem aclamp (h : AHdr) (fd fa sb : BitVec 5) (s : BitVec 6) : Statement (.aclamp h fd fa sb s) := by
  intro _ hw w1
  refine decode_of_raw (w1 := w1) (by show fieldWidth [(18, 0), (6, s.toNat), (6, 0), (5, sb.toNat), (5, fa.toNat), (5, fd.toNat), (5, h.mg.toNat), (2, 1), (4, h.stall.toNat), (8, 0xbc)] = 64; simp only [fieldWidth]) ?_ hw
  rw [show Instr.fields (.aclamp h fd fa sb s) = [(18, 0), (6, s.toNat), (6, 0), (5, sb.toNat), (5, fa.toNat), (5, fd.toNat), (5, h.mg.toNat), (2, 1), (4, h.stall.toNat)] ++ [(8, 0xBC)] from rfl]
  obtain ⟨e1, e2⟩ := nibbles [(18, 0), (6, s.toNat), (6, 0), (5, sb.toNat), (5, fa.toNat), (5, fd.toNat), (5, h.mg.toNat), (2, 1), (4, h.stall.toNat)] 0xBC 11 12 (by simp only [fieldWidth]) rfl rfl
  rw [decodeRaw_hiB _ _ e1, decHiB_C _ _ _ e2]
  have u : unpackBits [18, 6, 6, 5, 5, 5, 5, 2, 4, 8] (packBits ([(18, 0), (6, s.toNat), (6, 0), (5, sb.toNat), (5, fa.toNat), (5, fd.toNat), (5, h.mg.toNat), (2, 1), (4, h.stall.toNat)] ++ [(8, 0xBC)])) = [0, s.toNat, 0, sb.toNat, fa.toNat, fd.toNat, h.mg.toNat, 1, h.stall.toNat, 188] :=
    unpackBits_pack [(18, 0), (6, s.toNat), (6, 0), (5, sb.toNat), (5, fa.toNat), (5, fd.toNat), (5, h.mg.toNat), (2, 1), (4, h.stall.toNat), (8, 0xbc)] ⟨by decide, s.isLt, by decide, sb.isLt, fa.isLt, fd.isLt, h.mg.isLt, by decide, h.stall.isLt, by decide, trivial⟩
  unfold decOpBC
  rw [u]
  show (some (Instr.aclamp ⟨BitVec.ofNat 4 h.stall.toNat, BitVec.ofNat 5 h.mg.toNat⟩ (BitVec.ofNat 5 fd.toNat) (BitVec.ofNat 5 fa.toNat) (BitVec.ofNat 5 sb.toNat) (BitVec.ofNat 6 s.toNat))) = _
  simp only [BitVec.ofNat_toNat, BitVec.setWidth_eq]
theorem asqrt (h : AHdr) (fd fa : BitVec 5) (rc : BitVec 3) (sat : BitVec 1) : Statement (.asqrt h fd fa rc sat) := by
  intro _ hw w1
  refine decode_of_raw (w1 := w1) (by show fieldWidth [(26, 0), (1, sat.toNat), (3, rc.toNat), (5, 0), (5, fa.toNat), (5, fd.toNat), (5, h.mg.toNat), (2, 0), (4, h.stall.toNat), (8, 0xbd)] = 64; simp only [fieldWidth]) ?_ hw
  rw [show Instr.fields (.asqrt h fd fa rc sat) = [(26, 0), (1, sat.toNat), (3, rc.toNat), (5, 0), (5, fa.toNat), (5, fd.toNat), (5, h.mg.toNat), (2, 0), (4, h.stall.toNat)] ++ [(8, 0xBD)] from rfl]
  obtain ⟨e1, e2⟩ := nibbles [(26, 0), (1, sat.toNat), (3, rc.toNat), (5, 0), (5, fa.toNat), (5, fd.toNat), (5, h.mg.toNat), (2, 0), (4, h.stall.toNat)] 0xBD 11 13 (by simp only [fieldWidth]) rfl rfl
  rw [decodeRaw_hiB _ _ e1, decHiB_D _ _ _ e2]
  have u : unpackBits [26, 1, 3, 5, 5, 5, 5, 2, 4, 8] (packBits ([(26, 0), (1, sat.toNat), (3, rc.toNat), (5, 0), (5, fa.toNat), (5, fd.toNat), (5, h.mg.toNat), (2, 0), (4, h.stall.toNat)] ++ [(8, 0xBD)])) = [0, sat.toNat, rc.toNat, 0, fa.toNat, fd.toNat, h.mg.toNat, 0, h.stall.toNat, 189] :=
    unpackBits_pack [(26, 0), (1, sat.toNat), (3, rc.toNat), (5, 0), (5, fa.toNat), (5, fd.toNat), (5, h.mg.toNat), (2, 0), (4, h.stall.toNat), (8, 0xbd)] ⟨by decide, sat.isLt, rc.isLt, by decide, fa.isLt, fd.isLt, h.mg.isLt, by decide, h.stall.isLt, by decide, trivial⟩
  unfold decOpBD
  rw [u]
  show (some (Instr.asqrt ⟨BitVec.ofNat 4 h.stall.toNat, BitVec.ofNat 5 h.mg.toNat⟩ (BitVec.ofNat 5 fd.toNat) (BitVec.ofNat 5 fa.toNat) (BitVec.ofNat 3 rc.toNat) (BitVec.ofNat 1 sat.toNat))) = _
  simp only [BitVec.ofNat_toNat, BitVec.setWidth_eq]
theorem aham (h : AHdr) (fd fa : BitVec 5) (sat : BitVec 1) (o : AOpnd) : Statement (.aham h fd fa sat o) := by
  intro _ hw w1
  refine decode_of_raw (w1 := w1) (by show fieldWidth [(24, o.lo), (2, 0), (1, sat.toNat), (3, 0), (5, o.mid), (5, fa.toNat), (5, fd.toNat), (5, h.mg.toNat), (2, o.form), (4, h.stall.toNat), (8, 0xbe)] = 64; simp only [fieldWidth]) ?_ hw
  rw [show Instr.fields (.aham h fd fa sat o) = [(24, o.lo), (2, 0), (1, sat.toNat), (3, 0), (5, o.mid), (5, fa.toNat), (5, fd.toNat), (5, h.mg.toNat), (2, o.form), (4, h.stall.toNat)] ++ [(8, 0xBE)] from rfl]
  obtain ⟨e1, e2⟩ := nibbles [(24, o.lo), (2, 0), (1, sat.toNat), (3, 0), (5, o.mid), (5, fa.toNat), (5, fd.toNat), (5, h.mg.toNat), (2, o.form), (4, h.stall.toNat)] 0xBE 11 14 (by simp only [fieldWidth]) rfl rfl
  rw [decodeRaw_hiB _ _ e1, decHiB_E _ _ _ e2]
  have u : unpackBits [24, 2, 1, 3, 5, 5, 5, 5, 2, 4, 8] (packBits ([(24, o.lo), (2, 0), (1, sat.toNat), (3, 0), (5, o.mid), (5, fa.toNat), (5, fd.toNat), (5, h.mg.toNat), (2, o.form), (4, h.stall.toNat)] ++ [(8, 0xBE)])) = [o.lo, 0, sat.toNat, 0, o.mid, fa.toNat, fd.toNat, h.mg.toNat, o.form, h.stall.toNat, 190] :=
    unpackBits_pack [(24, o.lo), (2, 0), (1, sat.toNat), (3, 0), (5, o.mid), (5, fa.toNat), (5, fd.toNat), (5, h.mg.toNat), (2, o.form), (4, h.stall.toNat), (8, 0xbe)] ⟨o.lo_lt, by decide, sat.isLt, by decide, o.mid_lt, fa.isLt, fd.isLt, h.mg.isLt, o.form_lt, h.stall.isLt, by decide, trivial⟩
  unfold decOpBE
  rw [u]
  show ((AOpnd.ofBits o.form o.mid o.lo).map fun o => Instr.aham ⟨BitVec.ofNat 4 h.stall.toNat, BitVec.ofNat 5 h.mg.toNat⟩ (BitVec.ofNat 5 fd.toNat) (BitVec.ofNat 5 fa.toNat) (BitVec.ofNat 1 sat.toNat) o) = _
  simp only [BitVec.ofNat_toNat, BitVec.setWidth_eq, AOpnd.ofBits_bits, Option.map_some]
theorem arem (h : AHdr) (fd fa : BitVec 5) (sat rev : BitVec 1) (o : AOpnd) : Statement (.arem h fd fa sat rev o) := by
  intro _ hw w1
  refine decode_of_raw (w1 := w1) (by show fieldWidth [(24, o.lo), (1, rev.toNat), (1, 0), (1, sat.toNat), (3, 0), (5, o.mid), (5, fa.toNat), (5, fd.toNat), (5, h.mg.toNat), (2, o.form), (4, h.stall.toNat), (8, 0xbf)] = 64; simp only [fieldWidth]) ?_ hw
  rw [show Instr.fields (.arem h fd fa sat rev o) = [(24, o.lo), (1, rev.toNat), (1, 0), (1, sat.toNat), (3, 0), (5, o.mid), (5, fa.toNat), (5, fd.toNat), (5, h.mg.toNat), (2, o.form), (4, h.stall.toNat)] ++ [(8, 0xBF)] from rfl]
  obtain ⟨e1, e2⟩ := nibbles [(24, o.lo), (1, rev.toNat), (1, 0), (1, sat.toNat), (3, 0), (5, o.mid), (5, fa.toNat), (5, fd.toNat), (5, h.mg.toNat), (2, o.form), (4, h.stall.toNat)] 0xBF 11 15 (by simp only [fieldWidth]) rfl rfl
  rw [decodeRaw_hiB _ _ e1, decHiB_F _ _ _ e2]
  have u : unpackBits [24, 1, 1, 1, 3, 5, 5, 5, 5, 2, 4, 8] (packBits ([(24, o.lo), (1, rev.toNat), (1, 0), (1, sat.toNat), (3, 0), (5, o.mid), (5, fa.toNat), (5, fd.toNat), (5, h.mg.toNat), (2, o.form), (4, h.stall.toNat)] ++ [(8, 0xBF)])) = [o.lo, rev.toNat, 0, sat.toNat, 0, o.mid, fa.toNat, fd.toNat, h.mg.toNat, o.form, h.stall.toNat, 191] :=
    unpackBits_pack [(24, o.lo), (1, rev.toNat), (1, 0), (1, sat.toNat), (3, 0), (5, o.mid), (5, fa.toNat), (5, fd.toNat), (5, h.mg.toNat), (2, o.form), (4, h.stall.toNat), (8, 0xbf)] ⟨o.lo_lt, rev.isLt, by decide, sat.isLt, by decide, o.mid_lt, fa.isLt, fd.isLt, h.mg.isLt, o.form_lt, h.stall.isLt, by decide, trivial⟩
  unfold decOpBF
  rw [u]
  show ((AOpnd.ofBits o.form o.mid o.lo).map fun o => Instr.arem ⟨BitVec.ofNat 4 h.stall.toNat, BitVec.ofNat 5 h.mg.toNat⟩ (BitVec.ofNat 5 fd.toNat) (BitVec.ofNat 5 fa.toNat) (BitVec.ofNat 1 sat.toNat) (BitVec.ofNat 1 rev.toNat) o) = _
  simp only [BitVec.ofNat_toNat, BitVec.setWidth_eq, AOpnd.ofBits_bits, Option.map_some]
theorem alut (h : AHdr) (fd fa sb : BitVec 5) (s : BitVec 6) : Statement (.alut h fd fa sb s) := by
  intro _ hw w1
  refine decode_of_raw (w1 := w1) (by show fieldWidth [(18, 0), (6, s.toNat), (6, 0), (5, sb.toNat), (5, fa.toNat), (5, fd.toNat), (5, h.mg.toNat), (2, 1), (4, h.stall.toNat), (8, 0xc0)] = 64; simp only [fieldWidth]) ?_ hw
  rw [show Instr.fields (.alut h fd fa sb s) = [(18, 0), (6, s.toNat), (6, 0), (5, sb.toNat), (5, fa.toNat), (5, fd.toNat), (5, h.mg.toNat), (2, 1), (4, h.stall.toNat)] ++ [(8, 0xC0)] from rfl]
  obtain ⟨e1, e2⟩ := nibbles [(18, 0), (6, s.toNat), (6, 0), (5, sb.toNat), (5, fa.toNat), (5, fd.toNat), (5, h.mg.toNat), (2, 1), (4, h.stall.toNat)] 0xC0 12 0 (by simp only [fieldWidth]) rfl rfl
  rw [decodeRaw_hiC _ _ e1, decHiC_0 _ _ _ e2]
  have u : unpackBits [18, 6, 6, 5, 5, 5, 5, 2, 4, 8] (packBits ([(18, 0), (6, s.toNat), (6, 0), (5, sb.toNat), (5, fa.toNat), (5, fd.toNat), (5, h.mg.toNat), (2, 1), (4, h.stall.toNat)] ++ [(8, 0xC0)])) = [0, s.toNat, 0, sb.toNat, fa.toNat, fd.toNat, h.mg.toNat, 1, h.stall.toNat, 192] :=
    unpackBits_pack [(18, 0), (6, s.toNat), (6, 0), (5, sb.toNat), (5, fa.toNat), (5, fd.toNat), (5, h.mg.toNat), (2, 1), (4, h.stall.toNat), (8, 0xc0)] ⟨by decide, s.isLt, by decide, sb.isLt, fa.isLt, fd.isLt, h.mg.isLt, by decide, h.stall.isLt, by decide, trivial⟩
  unfold decOpC0
  rw [u]
  show (some (Instr.alut ⟨BitVec.ofNat 4 h.stall.toNat, BitVec.ofNat 5 h.mg.toNat⟩ (BitVec.ofNat 5 fd.toNat) (BitVec.ofNat 5 fa.toNat) (BitVec.ofNat 5 sb.toNat) (BitVec.ofNat 6 s.toNat))) = _
  simp only [BitVec.ofNat_toNat, BitVec.setWidth_eq]
theorem ashr (h : AHdr) (fd fa : BitVec 5) (o : SvOpnd) : Statement (.ashr h fd fa o) := by
  intro _ hw w1
  refine decode_of_raw (w1 := w1) (by show fieldWidth [(24, o.lo), (11, 0), (5, fa.toNat), (5, fd.toNat), (5, h.mg.toNat), (2, o.form), (4, h.stall.toNat), (8, 0xc1)] = 64; simp only [fieldWidth]) ?_ hw
  rw [show Instr.fields (.ashr h fd fa o) = [(24, o.lo), (11, 0), (5, fa.toNat), (5, fd.toNat), (5, h.mg.toNat), (2, o.form), (4, h.stall.toNat)] ++ [(8, 0xC1)] from rfl]
  obtain ⟨e1, e2⟩ := nibbles [(24, o.lo), (11, 0), (5, fa.toNat), (5, fd.toNat), (5, h.mg.toNat), (2, o.form), (4, h.stall.toNat)] 0xC1 12 1 (by simp only [fieldWidth]) rfl rfl
  rw [decodeRaw_hiC _ _ e1, decHiC_1 _ _ _ e2]
  have u : unpackBits [24, 11, 5, 5, 5, 2, 4, 8] (packBits ([(24, o.lo), (11, 0), (5, fa.toNat), (5, fd.toNat), (5, h.mg.toNat), (2, o.form), (4, h.stall.toNat)] ++ [(8, 0xC1)])) = [o.lo, 0, fa.toNat, fd.toNat, h.mg.toNat, o.form, h.stall.toNat, 193] :=
    unpackBits_pack [(24, o.lo), (11, 0), (5, fa.toNat), (5, fd.toNat), (5, h.mg.toNat), (2, o.form), (4, h.stall.toNat), (8, 0xc1)] ⟨o.lo_lt, by decide, fa.isLt, fd.isLt, h.mg.isLt, o.form_lt, h.stall.isLt, by decide, trivial⟩
  unfold decOpC1
  rw [u]
  show ((SvOpnd.ofBits o.form o.lo).map fun o => Instr.ashr ⟨BitVec.ofNat 4 h.stall.toNat, BitVec.ofNat 5 h.mg.toNat⟩ (BitVec.ofNat 5 fd.toNat) (BitVec.ofNat 5 fa.toNat) o) = _
  simp only [BitVec.ofNat_toNat, BitVec.setWidth_eq, SvOpnd.ofBits_bits, Option.map_some]
theorem ascanAdd (h : AHdr) (fd fa : BitVec 5) (rc : BitVec 3) (sat : BitVec 1) : Statement (.ascanAdd h fd fa rc sat) := by
  intro _ hw w1
  refine decode_of_raw (w1 := w1) (by show fieldWidth [(26, 0), (1, sat.toNat), (3, rc.toNat), (5, 0), (5, fa.toNat), (5, fd.toNat), (5, h.mg.toNat), (2, 0), (4, h.stall.toNat), (8, 0xc2)] = 64; simp only [fieldWidth]) ?_ hw
  rw [show Instr.fields (.ascanAdd h fd fa rc sat) = [(26, 0), (1, sat.toNat), (3, rc.toNat), (5, 0), (5, fa.toNat), (5, fd.toNat), (5, h.mg.toNat), (2, 0), (4, h.stall.toNat)] ++ [(8, 0xC2)] from rfl]
  obtain ⟨e1, e2⟩ := nibbles [(26, 0), (1, sat.toNat), (3, rc.toNat), (5, 0), (5, fa.toNat), (5, fd.toNat), (5, h.mg.toNat), (2, 0), (4, h.stall.toNat)] 0xC2 12 2 (by simp only [fieldWidth]) rfl rfl
  rw [decodeRaw_hiC _ _ e1, decHiC_2 _ _ _ e2]
  have u : unpackBits [26, 1, 3, 5, 5, 5, 5, 2, 4, 8] (packBits ([(26, 0), (1, sat.toNat), (3, rc.toNat), (5, 0), (5, fa.toNat), (5, fd.toNat), (5, h.mg.toNat), (2, 0), (4, h.stall.toNat)] ++ [(8, 0xC2)])) = [0, sat.toNat, rc.toNat, 0, fa.toNat, fd.toNat, h.mg.toNat, 0, h.stall.toNat, 194] :=
    unpackBits_pack [(26, 0), (1, sat.toNat), (3, rc.toNat), (5, 0), (5, fa.toNat), (5, fd.toNat), (5, h.mg.toNat), (2, 0), (4, h.stall.toNat), (8, 0xc2)] ⟨by decide, sat.isLt, rc.isLt, by decide, fa.isLt, fd.isLt, h.mg.isLt, by decide, h.stall.isLt, by decide, trivial⟩
  unfold decOpC2
  rw [u]
  show (some (Instr.ascanAdd ⟨BitVec.ofNat 4 h.stall.toNat, BitVec.ofNat 5 h.mg.toNat⟩ (BitVec.ofNat 5 fd.toNat) (BitVec.ofNat 5 fa.toNat) (BitVec.ofNat 3 rc.toNat) (BitVec.ofNat 1 sat.toNat))) = _
  simp only [BitVec.ofNat_toNat, BitVec.setWidth_eq]
theorem ascanMin (h : AHdr) (fd fa : BitVec 5) (rc : BitVec 3) (sat : BitVec 1) : Statement (.ascanMin h fd fa rc sat) := by
  intro _ hw w1
  refine decode_of_raw (w1 := w1) (by show fieldWidth [(26, 16777216), (1, sat.toNat), (3, rc.toNat), (5, 0), (5, fa.toNat), (5, fd.toNat), (5, h.mg.toNat), (2, 0), (4, h.stall.toNat), (8, 0xc2)] = 64; simp only [fieldWidth]) ?_ hw
  rw [show Instr.fields (.ascanMin h fd fa rc sat) = [(26, 16777216), (1, sat.toNat), (3, rc.toNat), (5, 0), (5, fa.toNat), (5, fd.toNat), (5, h.mg.toNat), (2, 0), (4, h.stall.toNat)] ++ [(8, 0xC2)] from rfl]
  obtain ⟨e1, e2⟩ := nibbles [(26, 16777216), (1, sat.toNat), (3, rc.toNat), (5, 0), (5, fa.toNat), (5, fd.toNat), (5, h.mg.toNat), (2, 0), (4, h.stall.toNat)] 0xC2 12 2 (by simp only [fieldWidth]) rfl rfl
  rw [decodeRaw_hiC _ _ e1, decHiC_2 _ _ _ e2]
  have u : unpackBits [26, 1, 3, 5, 5, 5, 5, 2, 4, 8] (packBits ([(26, 16777216), (1, sat.toNat), (3, rc.toNat), (5, 0), (5, fa.toNat), (5, fd.toNat), (5, h.mg.toNat), (2, 0), (4, h.stall.toNat)] ++ [(8, 0xC2)])) = [16777216, sat.toNat, rc.toNat, 0, fa.toNat, fd.toNat, h.mg.toNat, 0, h.stall.toNat, 194] :=
    unpackBits_pack [(26, 16777216), (1, sat.toNat), (3, rc.toNat), (5, 0), (5, fa.toNat), (5, fd.toNat), (5, h.mg.toNat), (2, 0), (4, h.stall.toNat), (8, 0xc2)] ⟨by decide, sat.isLt, rc.isLt, by decide, fa.isLt, fd.isLt, h.mg.isLt, by decide, h.stall.isLt, by decide, trivial⟩
  unfold decOpC2
  rw [u]
  show (some (Instr.ascanMin ⟨BitVec.ofNat 4 h.stall.toNat, BitVec.ofNat 5 h.mg.toNat⟩ (BitVec.ofNat 5 fd.toNat) (BitVec.ofNat 5 fa.toNat) (BitVec.ofNat 3 rc.toNat) (BitVec.ofNat 1 sat.toNat))) = _
  simp only [BitVec.ofNat_toNat, BitVec.setWidth_eq]
theorem ascanMax (h : AHdr) (fd fa : BitVec 5) (rc : BitVec 3) (sat : BitVec 1) : Statement (.ascanMax h fd fa rc sat) := by
  intro _ hw w1
  refine decode_of_raw (w1 := w1) (by show fieldWidth [(26, 33554432), (1, sat.toNat), (3, rc.toNat), (5, 0), (5, fa.toNat), (5, fd.toNat), (5, h.mg.toNat), (2, 0), (4, h.stall.toNat), (8, 0xc2)] = 64; simp only [fieldWidth]) ?_ hw
  rw [show Instr.fields (.ascanMax h fd fa rc sat) = [(26, 33554432), (1, sat.toNat), (3, rc.toNat), (5, 0), (5, fa.toNat), (5, fd.toNat), (5, h.mg.toNat), (2, 0), (4, h.stall.toNat)] ++ [(8, 0xC2)] from rfl]
  obtain ⟨e1, e2⟩ := nibbles [(26, 33554432), (1, sat.toNat), (3, rc.toNat), (5, 0), (5, fa.toNat), (5, fd.toNat), (5, h.mg.toNat), (2, 0), (4, h.stall.toNat)] 0xC2 12 2 (by simp only [fieldWidth]) rfl rfl
  rw [decodeRaw_hiC _ _ e1, decHiC_2 _ _ _ e2]
  have u : unpackBits [26, 1, 3, 5, 5, 5, 5, 2, 4, 8] (packBits ([(26, 33554432), (1, sat.toNat), (3, rc.toNat), (5, 0), (5, fa.toNat), (5, fd.toNat), (5, h.mg.toNat), (2, 0), (4, h.stall.toNat)] ++ [(8, 0xC2)])) = [33554432, sat.toNat, rc.toNat, 0, fa.toNat, fd.toNat, h.mg.toNat, 0, h.stall.toNat, 194] :=
    unpackBits_pack [(26, 33554432), (1, sat.toNat), (3, rc.toNat), (5, 0), (5, fa.toNat), (5, fd.toNat), (5, h.mg.toNat), (2, 0), (4, h.stall.toNat), (8, 0xc2)] ⟨by decide, sat.isLt, rc.isLt, by decide, fa.isLt, fd.isLt, h.mg.isLt, by decide, h.stall.isLt, by decide, trivial⟩
  unfold decOpC2
  rw [u]
  show (some (Instr.ascanMax ⟨BitVec.ofNat 4 h.stall.toNat, BitVec.ofNat 5 h.mg.toNat⟩ (BitVec.ofNat 5 fd.toNat) (BitVec.ofNat 5 fa.toNat) (BitVec.ofNat 3 rc.toNat) (BitVec.ofNat 1 sat.toNat))) = _
  simp only [BitVec.ofNat_toNat, BitVec.setWidth_eq]
theorem ascanOr (h : AHdr) (fd fa : BitVec 5) (rc : BitVec 3) (sat : BitVec 1) : Statement (.ascanOr h fd fa rc sat) := by
  intro _ hw w1
  refine decode_of_raw (w1 := w1) (by show fieldWidth [(26, 50331648), (1, sat.toNat), (3, rc.toNat), (5, 0), (5, fa.toNat), (5, fd.toNat), (5, h.mg.toNat), (2, 0), (4, h.stall.toNat), (8, 0xc2)] = 64; simp only [fieldWidth]) ?_ hw
  rw [show Instr.fields (.ascanOr h fd fa rc sat) = [(26, 50331648), (1, sat.toNat), (3, rc.toNat), (5, 0), (5, fa.toNat), (5, fd.toNat), (5, h.mg.toNat), (2, 0), (4, h.stall.toNat)] ++ [(8, 0xC2)] from rfl]
  obtain ⟨e1, e2⟩ := nibbles [(26, 50331648), (1, sat.toNat), (3, rc.toNat), (5, 0), (5, fa.toNat), (5, fd.toNat), (5, h.mg.toNat), (2, 0), (4, h.stall.toNat)] 0xC2 12 2 (by simp only [fieldWidth]) rfl rfl
  rw [decodeRaw_hiC _ _ e1, decHiC_2 _ _ _ e2]
  have u : unpackBits [26, 1, 3, 5, 5, 5, 5, 2, 4, 8] (packBits ([(26, 50331648), (1, sat.toNat), (3, rc.toNat), (5, 0), (5, fa.toNat), (5, fd.toNat), (5, h.mg.toNat), (2, 0), (4, h.stall.toNat)] ++ [(8, 0xC2)])) = [50331648, sat.toNat, rc.toNat, 0, fa.toNat, fd.toNat, h.mg.toNat, 0, h.stall.toNat, 194] :=
    unpackBits_pack [(26, 50331648), (1, sat.toNat), (3, rc.toNat), (5, 0), (5, fa.toNat), (5, fd.toNat), (5, h.mg.toNat), (2, 0), (4, h.stall.toNat), (8, 0xc2)] ⟨by decide, sat.isLt, rc.isLt, by decide, fa.isLt, fd.isLt, h.mg.isLt, by decide, h.stall.isLt, by decide, trivial⟩
  unfold decOpC2
  rw [u]
  show (some (Instr.ascanOr ⟨BitVec.ofNat 4 h.stall.toNat, BitVec.ofNat 5 h.mg.toNat⟩ (BitVec.ofNat 5 fd.toNat) (BitVec.ofNat 5 fa.toNat) (BitVec.ofNat 3 rc.toNat) (BitVec.ofNat 1 sat.toNat))) = _
  simp only [BitVec.ofNat_toNat, BitVec.setWidth_eq]
theorem asegrAdd (h : AHdr) (fd fa mb : BitVec 5) (rc : BitVec 3) (sat : BitVec 1) : Statement (.asegrAdd h fd fa mb rc sat) := by
  intro _ hw w1
  refine decode_of_raw (w1 := w1) (by show fieldWidth [(26, 0), (1, sat.toNat), (3, rc.toNat), (5, mb.toNat), (5, fa.toNat), (5, fd.toNat), (5, h.mg.toNat), (2, 0), (4, h.stall.toNat), (8, 0xc3)] = 64; simp only [fieldWidth]) ?_ hw
  rw [show Instr.fields (.asegrAdd h fd fa mb rc sat) = [(26, 0), (1, sat.toNat), (3, rc.toNat), (5, mb.toNat), (5, fa.toNat), (5, fd.toNat), (5, h.mg.toNat), (2, 0), (4, h.stall.toNat)] ++ [(8, 0xC3)] from rfl]
  obtain ⟨e1, e2⟩ := nibbles [(26, 0), (1, sat.toNat), (3, rc.toNat), (5, mb.toNat), (5, fa.toNat), (5, fd.toNat), (5, h.mg.toNat), (2, 0), (4, h.stall.toNat)] 0xC3 12 3 (by simp only [fieldWidth]) rfl rfl
  rw [decodeRaw_hiC _ _ e1, decHiC_3 _ _ _ e2]
  have u : unpackBits [26, 1, 3, 5, 5, 5, 5, 2, 4, 8] (packBits ([(26, 0), (1, sat.toNat), (3, rc.toNat), (5, mb.toNat), (5, fa.toNat), (5, fd.toNat), (5, h.mg.toNat), (2, 0), (4, h.stall.toNat)] ++ [(8, 0xC3)])) = [0, sat.toNat, rc.toNat, mb.toNat, fa.toNat, fd.toNat, h.mg.toNat, 0, h.stall.toNat, 195] :=
    unpackBits_pack [(26, 0), (1, sat.toNat), (3, rc.toNat), (5, mb.toNat), (5, fa.toNat), (5, fd.toNat), (5, h.mg.toNat), (2, 0), (4, h.stall.toNat), (8, 0xc3)] ⟨by decide, sat.isLt, rc.isLt, mb.isLt, fa.isLt, fd.isLt, h.mg.isLt, by decide, h.stall.isLt, by decide, trivial⟩
  unfold decOpC3
  rw [u]
  show (some (Instr.asegrAdd ⟨BitVec.ofNat 4 h.stall.toNat, BitVec.ofNat 5 h.mg.toNat⟩ (BitVec.ofNat 5 fd.toNat) (BitVec.ofNat 5 fa.toNat) (BitVec.ofNat 5 mb.toNat) (BitVec.ofNat 3 rc.toNat) (BitVec.ofNat 1 sat.toNat))) = _
  simp only [BitVec.ofNat_toNat, BitVec.setWidth_eq]
theorem asegrMin (h : AHdr) (fd fa mb : BitVec 5) (rc : BitVec 3) (sat : BitVec 1) : Statement (.asegrMin h fd fa mb rc sat) := by
  intro _ hw w1
  refine decode_of_raw (w1 := w1) (by show fieldWidth [(26, 16777216), (1, sat.toNat), (3, rc.toNat), (5, mb.toNat), (5, fa.toNat), (5, fd.toNat), (5, h.mg.toNat), (2, 0), (4, h.stall.toNat), (8, 0xc3)] = 64; simp only [fieldWidth]) ?_ hw
  rw [show Instr.fields (.asegrMin h fd fa mb rc sat) = [(26, 16777216), (1, sat.toNat), (3, rc.toNat), (5, mb.toNat), (5, fa.toNat), (5, fd.toNat), (5, h.mg.toNat), (2, 0), (4, h.stall.toNat)] ++ [(8, 0xC3)] from rfl]
  obtain ⟨e1, e2⟩ := nibbles [(26, 16777216), (1, sat.toNat), (3, rc.toNat), (5, mb.toNat), (5, fa.toNat), (5, fd.toNat), (5, h.mg.toNat), (2, 0), (4, h.stall.toNat)] 0xC3 12 3 (by simp only [fieldWidth]) rfl rfl
  rw [decodeRaw_hiC _ _ e1, decHiC_3 _ _ _ e2]
  have u : unpackBits [26, 1, 3, 5, 5, 5, 5, 2, 4, 8] (packBits ([(26, 16777216), (1, sat.toNat), (3, rc.toNat), (5, mb.toNat), (5, fa.toNat), (5, fd.toNat), (5, h.mg.toNat), (2, 0), (4, h.stall.toNat)] ++ [(8, 0xC3)])) = [16777216, sat.toNat, rc.toNat, mb.toNat, fa.toNat, fd.toNat, h.mg.toNat, 0, h.stall.toNat, 195] :=
    unpackBits_pack [(26, 16777216), (1, sat.toNat), (3, rc.toNat), (5, mb.toNat), (5, fa.toNat), (5, fd.toNat), (5, h.mg.toNat), (2, 0), (4, h.stall.toNat), (8, 0xc3)] ⟨by decide, sat.isLt, rc.isLt, mb.isLt, fa.isLt, fd.isLt, h.mg.isLt, by decide, h.stall.isLt, by decide, trivial⟩
  unfold decOpC3
  rw [u]
  show (some (Instr.asegrMin ⟨BitVec.ofNat 4 h.stall.toNat, BitVec.ofNat 5 h.mg.toNat⟩ (BitVec.ofNat 5 fd.toNat) (BitVec.ofNat 5 fa.toNat) (BitVec.ofNat 5 mb.toNat) (BitVec.ofNat 3 rc.toNat) (BitVec.ofNat 1 sat.toNat))) = _
  simp only [BitVec.ofNat_toNat, BitVec.setWidth_eq]
theorem asegrMax (h : AHdr) (fd fa mb : BitVec 5) (rc : BitVec 3) (sat : BitVec 1) : Statement (.asegrMax h fd fa mb rc sat) := by
  intro _ hw w1
  refine decode_of_raw (w1 := w1) (by show fieldWidth [(26, 33554432), (1, sat.toNat), (3, rc.toNat), (5, mb.toNat), (5, fa.toNat), (5, fd.toNat), (5, h.mg.toNat), (2, 0), (4, h.stall.toNat), (8, 0xc3)] = 64; simp only [fieldWidth]) ?_ hw
  rw [show Instr.fields (.asegrMax h fd fa mb rc sat) = [(26, 33554432), (1, sat.toNat), (3, rc.toNat), (5, mb.toNat), (5, fa.toNat), (5, fd.toNat), (5, h.mg.toNat), (2, 0), (4, h.stall.toNat)] ++ [(8, 0xC3)] from rfl]
  obtain ⟨e1, e2⟩ := nibbles [(26, 33554432), (1, sat.toNat), (3, rc.toNat), (5, mb.toNat), (5, fa.toNat), (5, fd.toNat), (5, h.mg.toNat), (2, 0), (4, h.stall.toNat)] 0xC3 12 3 (by simp only [fieldWidth]) rfl rfl
  rw [decodeRaw_hiC _ _ e1, decHiC_3 _ _ _ e2]
  have u : unpackBits [26, 1, 3, 5, 5, 5, 5, 2, 4, 8] (packBits ([(26, 33554432), (1, sat.toNat), (3, rc.toNat), (5, mb.toNat), (5, fa.toNat), (5, fd.toNat), (5, h.mg.toNat), (2, 0), (4, h.stall.toNat)] ++ [(8, 0xC3)])) = [33554432, sat.toNat, rc.toNat, mb.toNat, fa.toNat, fd.toNat, h.mg.toNat, 0, h.stall.toNat, 195] :=
    unpackBits_pack [(26, 33554432), (1, sat.toNat), (3, rc.toNat), (5, mb.toNat), (5, fa.toNat), (5, fd.toNat), (5, h.mg.toNat), (2, 0), (4, h.stall.toNat), (8, 0xc3)] ⟨by decide, sat.isLt, rc.isLt, mb.isLt, fa.isLt, fd.isLt, h.mg.isLt, by decide, h.stall.isLt, by decide, trivial⟩
  unfold decOpC3
  rw [u]
  show (some (Instr.asegrMax ⟨BitVec.ofNat 4 h.stall.toNat, BitVec.ofNat 5 h.mg.toNat⟩ (BitVec.ofNat 5 fd.toNat) (BitVec.ofNat 5 fa.toNat) (BitVec.ofNat 5 mb.toNat) (BitVec.ofNat 3 rc.toNat) (BitVec.ofNat 1 sat.toNat))) = _
  simp only [BitVec.ofNat_toNat, BitVec.setWidth_eq]
theorem asegrOr (h : AHdr) (fd fa mb : BitVec 5) (rc : BitVec 3) (sat : BitVec 1) : Statement (.asegrOr h fd fa mb rc sat) := by
  intro _ hw w1
  refine decode_of_raw (w1 := w1) (by show fieldWidth [(26, 50331648), (1, sat.toNat), (3, rc.toNat), (5, mb.toNat), (5, fa.toNat), (5, fd.toNat), (5, h.mg.toNat), (2, 0), (4, h.stall.toNat), (8, 0xc3)] = 64; simp only [fieldWidth]) ?_ hw
  rw [show Instr.fields (.asegrOr h fd fa mb rc sat) = [(26, 50331648), (1, sat.toNat), (3, rc.toNat), (5, mb.toNat), (5, fa.toNat), (5, fd.toNat), (5, h.mg.toNat), (2, 0), (4, h.stall.toNat)] ++ [(8, 0xC3)] from rfl]
  obtain ⟨e1, e2⟩ := nibbles [(26, 50331648), (1, sat.toNat), (3, rc.toNat), (5, mb.toNat), (5, fa.toNat), (5, fd.toNat), (5, h.mg.toNat), (2, 0), (4, h.stall.toNat)] 0xC3 12 3 (by simp only [fieldWidth]) rfl rfl
  rw [decodeRaw_hiC _ _ e1, decHiC_3 _ _ _ e2]
  have u : unpackBits [26, 1, 3, 5, 5, 5, 5, 2, 4, 8] (packBits ([(26, 50331648), (1, sat.toNat), (3, rc.toNat), (5, mb.toNat), (5, fa.toNat), (5, fd.toNat), (5, h.mg.toNat), (2, 0), (4, h.stall.toNat)] ++ [(8, 0xC3)])) = [50331648, sat.toNat, rc.toNat, mb.toNat, fa.toNat, fd.toNat, h.mg.toNat, 0, h.stall.toNat, 195] :=
    unpackBits_pack [(26, 50331648), (1, sat.toNat), (3, rc.toNat), (5, mb.toNat), (5, fa.toNat), (5, fd.toNat), (5, h.mg.toNat), (2, 0), (4, h.stall.toNat), (8, 0xc3)] ⟨by decide, sat.isLt, rc.isLt, mb.isLt, fa.isLt, fd.isLt, h.mg.isLt, by decide, h.stall.isLt, by decide, trivial⟩
  unfold decOpC3
  rw [u]
  show (some (Instr.asegrOr ⟨BitVec.ofNat 4 h.stall.toNat, BitVec.ofNat 5 h.mg.toNat⟩ (BitVec.ofNat 5 fd.toNat) (BitVec.ofNat 5 fa.toNat) (BitVec.ofNat 5 mb.toNat) (BitVec.ofNat 3 rc.toNat) (BitVec.ofNat 1 sat.toNat))) = _
  simp only [BitVec.ofNat_toNat, BitVec.setWidth_eq]
theorem aspi (h : AHdr) (fd fa fb : BitVec 5) (rc : BitVec 3) (sat : BitVec 1) : Statement (.aspi h fd fa fb rc sat) := by
  intro _ hw w1
  refine decode_of_raw (w1 := w1) (by show fieldWidth [(26, 0), (1, sat.toNat), (3, rc.toNat), (5, fb.toNat), (5, fa.toNat), (5, fd.toNat), (5, h.mg.toNat), (2, 0), (4, h.stall.toNat), (8, 0xc4)] = 64; simp only [fieldWidth]) ?_ hw
  rw [show Instr.fields (.aspi h fd fa fb rc sat) = [(26, 0), (1, sat.toNat), (3, rc.toNat), (5, fb.toNat), (5, fa.toNat), (5, fd.toNat), (5, h.mg.toNat), (2, 0), (4, h.stall.toNat)] ++ [(8, 0xC4)] from rfl]
  obtain ⟨e1, e2⟩ := nibbles [(26, 0), (1, sat.toNat), (3, rc.toNat), (5, fb.toNat), (5, fa.toNat), (5, fd.toNat), (5, h.mg.toNat), (2, 0), (4, h.stall.toNat)] 0xC4 12 4 (by simp only [fieldWidth]) rfl rfl
  rw [decodeRaw_hiC _ _ e1, decHiC_4 _ _ _ e2]
  have u : unpackBits [26, 1, 3, 5, 5, 5, 5, 2, 4, 8] (packBits ([(26, 0), (1, sat.toNat), (3, rc.toNat), (5, fb.toNat), (5, fa.toNat), (5, fd.toNat), (5, h.mg.toNat), (2, 0), (4, h.stall.toNat)] ++ [(8, 0xC4)])) = [0, sat.toNat, rc.toNat, fb.toNat, fa.toNat, fd.toNat, h.mg.toNat, 0, h.stall.toNat, 196] :=
    unpackBits_pack [(26, 0), (1, sat.toNat), (3, rc.toNat), (5, fb.toNat), (5, fa.toNat), (5, fd.toNat), (5, h.mg.toNat), (2, 0), (4, h.stall.toNat), (8, 0xc4)] ⟨by decide, sat.isLt, rc.isLt, fb.isLt, fa.isLt, fd.isLt, h.mg.isLt, by decide, h.stall.isLt, by decide, trivial⟩
  unfold decOpC4
  rw [u]
  show (some (Instr.aspi ⟨BitVec.ofNat 4 h.stall.toNat, BitVec.ofNat 5 h.mg.toNat⟩ (BitVec.ofNat 5 fd.toNat) (BitVec.ofNat 5 fa.toNat) (BitVec.ofNat 5 fb.toNat) (BitVec.ofNat 3 rc.toNat) (BitVec.ofNat 1 sat.toNat))) = _
  simp only [BitVec.ofNat_toNat, BitVec.setWidth_eq]
theorem aspu (h : AHdr) (fd fa fb : BitVec 5) (rc : BitVec 3) (sat : BitVec 1) : Statement (.aspu h fd fa fb rc sat) := by
  intro _ hw w1
  refine decode_of_raw (w1 := w1) (by show fieldWidth [(26, 0), (1, sat.toNat), (3, rc.toNat), (5, fb.toNat), (5, fa.toNat), (5, fd.toNat), (5, h.mg.toNat), (2, 0), (4, h.stall.toNat), (8, 0xc5)] = 64; simp only [fieldWidth]) ?_ hw
  rw [show Instr.fields (.aspu h fd fa fb rc sat) = [(26, 0), (1, sat.toNat), (3, rc.toNat), (5, fb.toNat), (5, fa.toNat), (5, fd.toNat), (5, h.mg.toNat), (2, 0), (4, h.stall.toNat)] ++ [(8, 0xC5)] from rfl]
  obtain ⟨e1, e2⟩ := nibbles [(26, 0), (1, sat.toNat), (3, rc.toNat), (5, fb.toNat), (5, fa.toNat), (5, fd.toNat), (5, h.mg.toNat), (2, 0), (4, h.stall.toNat)] 0xC5 12 5 (by simp only [fieldWidth]) rfl rfl
  rw [decodeRaw_hiC _ _ e1, decHiC_5 _ _ _ e2]
  have u : unpackBits [26, 1, 3, 5, 5, 5, 5, 2, 4, 8] (packBits ([(26, 0), (1, sat.toNat), (3, rc.toNat), (5, fb.toNat), (5, fa.toNat), (5, fd.toNat), (5, h.mg.toNat), (2, 0), (4, h.stall.toNat)] ++ [(8, 0xC5)])) = [0, sat.toNat, rc.toNat, fb.toNat, fa.toNat, fd.toNat, h.mg.toNat, 0, h.stall.toNat, 197] :=
    unpackBits_pack [(26, 0), (1, sat.toNat), (3, rc.toNat), (5, fb.toNat), (5, fa.toNat), (5, fd.toNat), (5, h.mg.toNat), (2, 0), (4, h.stall.toNat), (8, 0xc5)] ⟨by decide, sat.isLt, rc.isLt, fb.isLt, fa.isLt, fd.isLt, h.mg.isLt, by decide, h.stall.isLt, by decide, trivial⟩
  unfold decOpC5
  rw [u]
  show (some (Instr.aspu ⟨BitVec.ofNat 4 h.stall.toNat, BitVec.ofNat 5 h.mg.toNat⟩ (BitVec.ofNat 5 fd.toNat) (BitVec.ofNat 5 fa.toNat) (BitVec.ofNat 5 fb.toNat) (BitVec.ofNat 3 rc.toNat) (BitVec.ofNat 1 sat.toNat))) = _
  simp only [BitVec.ofNat_toNat, BitVec.setWidth_eq]
theorem asplenSet (h : AHdr) (fd : BitVec 5) (o : SvOpnd) : Statement (.asplenSet h fd o) := by
  intro _ hw w1
  refine decode_of_raw (w1 := w1) (by show fieldWidth [(24, o.lo), (11, 0), (5, 0), (5, fd.toNat), (5, h.mg.toNat), (2, o.form), (4, h.stall.toNat), (8, 0xc6)] = 64; simp only [fieldWidth]) ?_ hw
  rw [show Instr.fields (.asplenSet h fd o) = [(24, o.lo), (11, 0), (5, 0), (5, fd.toNat), (5, h.mg.toNat), (2, o.form), (4, h.stall.toNat)] ++ [(8, 0xC6)] from rfl]
  obtain ⟨e1, e2⟩ := nibbles [(24, o.lo), (11, 0), (5, 0), (5, fd.toNat), (5, h.mg.toNat), (2, o.form), (4, h.stall.toNat)] 0xC6 12 6 (by simp only [fieldWidth]) rfl rfl
  rw [decodeRaw_hiC _ _ e1, decHiC_6 _ _ _ e2]
  have u : unpackBits [24, 11, 5, 5, 5, 2, 4, 8] (packBits ([(24, o.lo), (11, 0), (5, 0), (5, fd.toNat), (5, h.mg.toNat), (2, o.form), (4, h.stall.toNat)] ++ [(8, 0xC6)])) = [o.lo, 0, 0, fd.toNat, h.mg.toNat, o.form, h.stall.toNat, 198] :=
    unpackBits_pack [(24, o.lo), (11, 0), (5, 0), (5, fd.toNat), (5, h.mg.toNat), (2, o.form), (4, h.stall.toNat), (8, 0xc6)] ⟨o.lo_lt, by decide, by decide, fd.isLt, h.mg.isLt, o.form_lt, h.stall.isLt, by decide, trivial⟩
  unfold decOpC6
  rw [u]
  show ((SvOpnd.ofBits o.form o.lo).map fun o => Instr.asplenSet ⟨BitVec.ofNat 4 h.stall.toNat, BitVec.ofNat 5 h.mg.toNat⟩ (BitVec.ofNat 5 fd.toNat) o) = _
  simp only [BitVec.ofNat_toNat, BitVec.setWidth_eq, SvOpnd.ofBits_bits, Option.map_some]
theorem asplenMask (h : AHdr) (md fa : BitVec 5) : Statement (.asplenMask h md fa) := by
  intro _ hw w1
  refine decode_of_raw (w1 := w1) (by show fieldWidth [(24, 0), (11, 1), (5, fa.toNat), (5, md.toNat), (5, h.mg.toNat), (2, 0), (4, h.stall.toNat), (8, 0xc6)] = 64; simp only [fieldWidth]) ?_ hw
  rw [show Instr.fields (.asplenMask h md fa) = [(24, 0), (11, 1), (5, fa.toNat), (5, md.toNat), (5, h.mg.toNat), (2, 0), (4, h.stall.toNat)] ++ [(8, 0xC6)] from rfl]
  obtain ⟨e1, e2⟩ := nibbles [(24, 0), (11, 1), (5, fa.toNat), (5, md.toNat), (5, h.mg.toNat), (2, 0), (4, h.stall.toNat)] 0xC6 12 6 (by simp only [fieldWidth]) rfl rfl
  rw [decodeRaw_hiC _ _ e1, decHiC_6 _ _ _ e2]
  have u : unpackBits [24, 11, 5, 5, 5, 2, 4, 8] (packBits ([(24, 0), (11, 1), (5, fa.toNat), (5, md.toNat), (5, h.mg.toNat), (2, 0), (4, h.stall.toNat)] ++ [(8, 0xC6)])) = [0, 1, fa.toNat, md.toNat, h.mg.toNat, 0, h.stall.toNat, 198] :=
    unpackBits_pack [(24, 0), (11, 1), (5, fa.toNat), (5, md.toNat), (5, h.mg.toNat), (2, 0), (4, h.stall.toNat), (8, 0xc6)] ⟨by decide, by decide, fa.isLt, md.isLt, h.mg.isLt, by decide, h.stall.isLt, by decide, trivial⟩
  unfold decOpC6
  rw [u]
  show (some (Instr.asplenMask ⟨BitVec.ofNat 4 h.stall.toNat, BitVec.ofNat 5 h.mg.toNat⟩ (BitVec.ofNat 5 md.toNat) (BitVec.ofNat 5 fa.toNat))) = _
  simp only [BitVec.ofNat_toNat, BitVec.setWidth_eq]
theorem aappIdx (h : AHdr) (md : BitVec 5) (s : BitVec 6) : Statement (.aappIdx h md s) := by
  intro _ hw w1
  refine decode_of_raw (w1 := w1) (by show fieldWidth [(18, 0), (6, s.toNat), (11, 0), (5, 0), (5, md.toNat), (5, h.mg.toNat), (2, 1), (4, h.stall.toNat), (8, 0xc7)] = 64; simp only [fieldWidth]) ?_ hw
  rw [show Instr.fields (.aappIdx h md s) = [(18, 0), (6, s.toNat), (11, 0), (5, 0), (5, md.toNat), (5, h.mg.toNat), (2, 1), (4, h.stall.toNat)] ++ [(8, 0xC7)] from rfl]
  obtain ⟨e1, e2⟩ := nibbles [(18, 0), (6, s.toNat), (11, 0), (5, 0), (5, md.toNat), (5, h.mg.toNat), (2, 1), (4, h.stall.toNat)] 0xC7 12 7 (by simp only [fieldWidth]) rfl rfl
  rw [decodeRaw_hiC _ _ e1, decHiC_7 _ _ _ e2]
  have u : unpackBits [18, 6, 11, 5, 5, 5, 2, 4, 8] (packBits ([(18, 0), (6, s.toNat), (11, 0), (5, 0), (5, md.toNat), (5, h.mg.toNat), (2, 1), (4, h.stall.toNat)] ++ [(8, 0xC7)])) = [0, s.toNat, 0, 0, md.toNat, h.mg.toNat, 1, h.stall.toNat, 199] :=
    unpackBits_pack [(18, 0), (6, s.toNat), (11, 0), (5, 0), (5, md.toNat), (5, h.mg.toNat), (2, 1), (4, h.stall.toNat), (8, 0xc7)] ⟨by decide, s.isLt, by decide, by decide, md.isLt, h.mg.isLt, by decide, h.stall.isLt, by decide, trivial⟩
  unfold decOpC7
  rw [u]
  show (some (Instr.aappIdx ⟨BitVec.ofNat 4 h.stall.toNat, BitVec.ofNat 5 h.mg.toNat⟩ (BitVec.ofNat 5 md.toNat) (BitVec.ofNat 6 s.toNat))) = _
  simp only [BitVec.ofNat_toNat, BitVec.setWidth_eq]
theorem aappVal (h : AHdr) (md fa : BitVec 5) (s : BitVec 6) : Statement (.aappVal h md fa s) := by
  intro _ hw w1
  refine decode_of_raw (w1 := w1) (by show fieldWidth [(18, 0), (6, s.toNat), (11, 1), (5, fa.toNat), (5, md.toNat), (5, h.mg.toNat), (2, 1), (4, h.stall.toNat), (8, 0xc7)] = 64; simp only [fieldWidth]) ?_ hw
  rw [show Instr.fields (.aappVal h md fa s) = [(18, 0), (6, s.toNat), (11, 1), (5, fa.toNat), (5, md.toNat), (5, h.mg.toNat), (2, 1), (4, h.stall.toNat)] ++ [(8, 0xC7)] from rfl]
  obtain ⟨e1, e2⟩ := nibbles [(18, 0), (6, s.toNat), (11, 1), (5, fa.toNat), (5, md.toNat), (5, h.mg.toNat), (2, 1), (4, h.stall.toNat)] 0xC7 12 7 (by simp only [fieldWidth]) rfl rfl
  rw [decodeRaw_hiC _ _ e1, decHiC_7 _ _ _ e2]
  have u : unpackBits [18, 6, 11, 5, 5, 5, 2, 4, 8] (packBits ([(18, 0), (6, s.toNat), (11, 1), (5, fa.toNat), (5, md.toNat), (5, h.mg.toNat), (2, 1), (4, h.stall.toNat)] ++ [(8, 0xC7)])) = [0, s.toNat, 1, fa.toNat, md.toNat, h.mg.toNat, 1, h.stall.toNat, 199] :=
    unpackBits_pack [(18, 0), (6, s.toNat), (11, 1), (5, fa.toNat), (5, md.toNat), (5, h.mg.toNat), (2, 1), (4, h.stall.toNat), (8, 0xc7)] ⟨by decide, s.isLt, by decide, fa.isLt, md.isLt, h.mg.isLt, by decide, h.stall.isLt, by decide, trivial⟩
  unfold decOpC7
  rw [u]
  show (some (Instr.aappVal ⟨BitVec.ofNat 4 h.stall.toNat, BitVec.ofNat 5 h.mg.toNat⟩ (BitVec.ofNat 5 md.toNat) (BitVec.ofNat 5 fa.toNat) (BitVec.ofNat 6 s.toNat))) = _
  simp only [BitVec.ofNat_toNat, BitVec.setWidth_eq]
theorem aconf (h : AHdr) (md fa : BitVec 5) : Statement (.aconf h md fa) := by
  intro _ hw w1
  refine decode_of_raw (w1 := w1) (by show fieldWidth [(35, 0), (5, fa.toNat), (5, md.toNat), (5, h.mg.toNat), (2, 0), (4, h.stall.toNat), (8, 0xc8)] = 64; simp only [fieldWidth]) ?_ hw
  rw [show Instr.fields (.aconf h md fa) = [(35, 0), (5, fa.toNat), (5, md.toNat), (5, h.mg.toNat), (2, 0), (4, h.stall.toNat)] ++ [(8, 0xC8)] from rfl]
  obtain ⟨e1, e2⟩ := nibbles [(35, 0), (5, fa.toNat), (5, md.toNat), (5, h.mg.toNat), (2, 0), (4, h.stall.toNat)] 0xC8 12 8 (by simp only [fieldWidth]) rfl rfl
  rw [decodeRaw_hiC _ _ e1, decHiC_8 _ _ _ e2]
  have u : unpackBits [35, 5, 5, 5, 2, 4, 8] (packBits ([(35, 0), (5, fa.toNat), (5, md.toNat), (5, h.mg.toNat), (2, 0), (4, h.stall.toNat)] ++ [(8, 0xC8)])) = [0, fa.toNat, md.toNat, h.mg.toNat, 0, h.stall.toNat, 200] :=
    unpackBits_pack [(35, 0), (5, fa.toNat), (5, md.toNat), (5, h.mg.toNat), (2, 0), (4, h.stall.toNat), (8, 0xc8)] ⟨by decide, fa.isLt, md.isLt, h.mg.isLt, by decide, h.stall.isLt, by decide, trivial⟩
  unfold decOpC8
  rw [u]
  show (some (Instr.aconf ⟨BitVec.ofNat 4 h.stall.toNat, BitVec.ofNat 5 h.mg.toNat⟩ (BitVec.ofNat 5 md.toNat) (BitVec.ofNat 5 fa.toNat))) = _
  simp only [BitVec.ofNat_toNat, BitVec.setWidth_eq]
theorem aintvCc (h : AHdr) (md fa sb : BitVec 5) (s : BitVec 6) : Statement (.aintvCc h md fa sb s) := by
  intro _ hw w1
  refine decode_of_raw (w1 := w1) (by show fieldWidth [(18, 0), (6, s.toNat), (6, 0), (5, sb.toNat), (5, fa.toNat), (5, md.toNat), (5, h.mg.toNat), (2, 1), (4, h.stall.toNat), (8, 0xc9)] = 64; simp only [fieldWidth]) ?_ hw
  rw [show Instr.fields (.aintvCc h md fa sb s) = [(18, 0), (6, s.toNat), (6, 0), (5, sb.toNat), (5, fa.toNat), (5, md.toNat), (5, h.mg.toNat), (2, 1), (4, h.stall.toNat)] ++ [(8, 0xC9)] from rfl]
  obtain ⟨e1, e2⟩ := nibbles [(18, 0), (6, s.toNat), (6, 0), (5, sb.toNat), (5, fa.toNat), (5, md.toNat), (5, h.mg.toNat), (2, 1), (4, h.stall.toNat)] 0xC9 12 9 (by simp only [fieldWidth]) rfl rfl
  rw [decodeRaw_hiC _ _ e1, decHiC_9 _ _ _ e2]
  have u : unpackBits [18, 6, 6, 5, 5, 5, 5, 2, 4, 8] (packBits ([(18, 0), (6, s.toNat), (6, 0), (5, sb.toNat), (5, fa.toNat), (5, md.toNat), (5, h.mg.toNat), (2, 1), (4, h.stall.toNat)] ++ [(8, 0xC9)])) = [0, s.toNat, 0, sb.toNat, fa.toNat, md.toNat, h.mg.toNat, 1, h.stall.toNat, 201] :=
    unpackBits_pack [(18, 0), (6, s.toNat), (6, 0), (5, sb.toNat), (5, fa.toNat), (5, md.toNat), (5, h.mg.toNat), (2, 1), (4, h.stall.toNat), (8, 0xc9)] ⟨by decide, s.isLt, by decide, sb.isLt, fa.isLt, md.isLt, h.mg.isLt, by decide, h.stall.isLt, by decide, trivial⟩
  unfold decOpC9
  rw [u]
  show (some (Instr.aintvCc ⟨BitVec.ofNat 4 h.stall.toNat, BitVec.ofNat 5 h.mg.toNat⟩ (BitVec.ofNat 5 md.toNat) (BitVec.ofNat 5 fa.toNat) (BitVec.ofNat 5 sb.toNat) (BitVec.ofNat 6 s.toNat))) = _
  simp only [BitVec.ofNat_toNat, BitVec.setWidth_eq]
theorem aintvCo (h : AHdr) (md fa sb : BitVec 5) (s : BitVec 6) : Statement (.aintvCo h md fa sb s) := by
  intro _ hw w1
  refine decode_of_raw (w1 := w1) (by show fieldWidth [(18, 0), (6, s.toNat), (6, 1), (5, sb.toNat), (5, fa.toNat), (5, md.toNat), (5, h.mg.toNat), (2, 1), (4, h.stall.toNat), (8, 0xc9)] = 64; simp only [fieldWidth]) ?_ hw
  rw [show Instr.fields (.aintvCo h md fa sb s) = [(18, 0), (6, s.toNat), (6, 1), (5, sb.toNat), (5, fa.toNat), (5, md.toNat), (5, h.mg.toNat), (2, 1), (4, h.stall.toNat)] ++ [(8, 0xC9)] from rfl]
  obtain ⟨e1, e2⟩ := nibbles [(18, 0), (6, s.toNat), (6, 1), (5, sb.toNat), (5, fa.toNat), (5, md.toNat), (5, h.mg.toNat), (2, 1), (4, h.stall.toNat)] 0xC9 12 9 (by simp only [fieldWidth]) rfl rfl
  rw [decodeRaw_hiC _ _ e1, decHiC_9 _ _ _ e2]
  have u : unpackBits [18, 6, 6, 5, 5, 5, 5, 2, 4, 8] (packBits ([(18, 0), (6, s.toNat), (6, 1), (5, sb.toNat), (5, fa.toNat), (5, md.toNat), (5, h.mg.toNat), (2, 1), (4, h.stall.toNat)] ++ [(8, 0xC9)])) = [0, s.toNat, 1, sb.toNat, fa.toNat, md.toNat, h.mg.toNat, 1, h.stall.toNat, 201] :=
    unpackBits_pack [(18, 0), (6, s.toNat), (6, 1), (5, sb.toNat), (5, fa.toNat), (5, md.toNat), (5, h.mg.toNat), (2, 1), (4, h.stall.toNat), (8, 0xc9)] ⟨by decide, s.isLt, by decide, sb.isLt, fa.isLt, md.isLt, h.mg.isLt, by decide, h.stall.isLt, by decide, trivial⟩
  unfold decOpC9
  rw [u]
  show (some (Instr.aintvCo ⟨BitVec.ofNat 4 h.stall.toNat, BitVec.ofNat 5 h.mg.toNat⟩ (BitVec.ofNat 5 md.toNat) (BitVec.ofNat 5 fa.toNat) (BitVec.ofNat 5 sb.toNat) (BitVec.ofNat 6 s.toNat))) = _
  simp only [BitVec.ofNat_toNat, BitVec.setWidth_eq]
theorem aintvOc (h : AHdr) (md fa sb : BitVec 5) (s : BitVec 6) : Statement (.aintvOc h md fa sb s) := by
  intro _ hw w1
  refine decode_of_raw (w1 := w1) (by show fieldWidth [(18, 0), (6, s.toNat), (6, 2), (5, sb.toNat), (5, fa.toNat), (5, md.toNat), (5, h.mg.toNat), (2, 1), (4, h.stall.toNat), (8, 0xc9)] = 64; simp only [fieldWidth]) ?_ hw
  rw [show Instr.fields (.aintvOc h md fa sb s) = [(18, 0), (6, s.toNat), (6, 2), (5, sb.toNat), (5, fa.toNat), (5, md.toNat), (5, h.mg.toNat), (2, 1), (4, h.stall.toNat)] ++ [(8, 0xC9)] from rfl]
  obtain ⟨e1, e2⟩ := nibbles [(18, 0), (6, s.toNat), (6, 2), (5, sb.toNat), (5, fa.toNat), (5, md.toNat), (5, h.mg.toNat), (2, 1), (4, h.stall.toNat)] 0xC9 12 9 (by simp only [fieldWidth]) rfl rfl
  rw [decodeRaw_hiC _ _ e1, decHiC_9 _ _ _ e2]
  have u : unpackBits [18, 6, 6, 5, 5, 5, 5, 2, 4, 8] (packBits ([(18, 0), (6, s.toNat), (6, 2), (5, sb.toNat), (5, fa.toNat), (5, md.toNat), (5, h.mg.toNat), (2, 1), (4, h.stall.toNat)] ++ [(8, 0xC9)])) = [0, s.toNat, 2, sb.toNat, fa.toNat, md.toNat, h.mg.toNat, 1, h.stall.toNat, 201] :=
    unpackBits_pack [(18, 0), (6, s.toNat), (6, 2), (5, sb.toNat), (5, fa.toNat), (5, md.toNat), (5, h.mg.toNat), (2, 1), (4, h.stall.toNat), (8, 0xc9)] ⟨by decide, s.isLt, by decide, sb.isLt, fa.isLt, md.isLt, h.mg.isLt, by decide, h.stall.isLt, by decide, trivial⟩
  unfold decOpC9
  rw [u]
  show (some (Instr.aintvOc ⟨BitVec.ofNat 4 h.stall.toNat, BitVec.ofNat 5 h.mg.toNat⟩ (BitVec.ofNat 5 md.toNat) (BitVec.ofNat 5 fa.toNat) (BitVec.ofNat 5 sb.toNat) (BitVec.ofNat 6 s.toNat))) = _
  simp only [BitVec.ofNat_toNat, BitVec.setWidth_eq]
theorem aintvOo (h : AHdr) (md fa sb : BitVec 5) (s : BitVec 6) : Statement (.aintvOo h md fa sb s) := by
  intro _ hw w1
  refine decode_of_raw (w1 := w1) (by show fieldWidth [(18, 0), (6, s.toNat), (6, 3), (5, sb.toNat), (5, fa.toNat), (5, md.toNat), (5, h.mg.toNat), (2, 1), (4, h.stall.toNat), (8, 0xc9)] = 64; simp only [fieldWidth]) ?_ hw
  rw [show Instr.fields (.aintvOo h md fa sb s) = [(18, 0), (6, s.toNat), (6, 3), (5, sb.toNat), (5, fa.toNat), (5, md.toNat), (5, h.mg.toNat), (2, 1), (4, h.stall.toNat)] ++ [(8, 0xC9)] from rfl]
  obtain ⟨e1, e2⟩ := nibbles [(18, 0), (6, s.toNat), (6, 3), (5, sb.toNat), (5, fa.toNat), (5, md.toNat), (5, h.mg.toNat), (2, 1), (4, h.stall.toNat)] 0xC9 12 9 (by simp only [fieldWidth]) rfl rfl
  rw [decodeRaw_hiC _ _ e1, decHiC_9 _ _ _ e2]
  have u : unpackBits [18, 6, 6, 5, 5, 5, 5, 2, 4, 8] (packBits ([(18, 0), (6, s.toNat), (6, 3), (5, sb.toNat), (5, fa.toNat), (5, md.toNat), (5, h.mg.toNat), (2, 1), (4, h.stall.toNat)] ++ [(8, 0xC9)])) = [0, s.toNat, 3, sb.toNat, fa.toNat, md.toNat, h.mg.toNat, 1, h.stall.toNat, 201] :=
    unpackBits_pack [(18, 0), (6, s.toNat), (6, 3), (5, sb.toNat), (5, fa.toNat), (5, md.toNat), (5, h.mg.toNat), (2, 1), (4, h.stall.toNat), (8, 0xc9)] ⟨by decide, s.isLt, by decide, sb.isLt, fa.isLt, md.isLt, h.mg.isLt, by decide, h.stall.isLt, by decide, trivial⟩
  unfold decOpC9
  rw [u]
  show (some (Instr.aintvOo ⟨BitVec.ofNat 4 h.stall.toNat, BitVec.ofNat 5 h.mg.toNat⟩ (BitVec.ofNat 5 md.toNat) (BitVec.ofNat 5 fa.toNat) (BitVec.ofNat 5 sb.toNat) (BitVec.ofNat 6 s.toNat))) = _
  simp only [BitVec.ofNat_toNat, BitVec.setWidth_eq]
theorem amatch (h : AHdr) (md fa sb : BitVec 5) (z : BitVec 4) : Statement (.amatch h md fa sb z) := by
  intro _ hw w1
  refine decode_of_raw (w1 := w1) (by show fieldWidth [(18, 0), (4, z.toNat), (8, 3), (5, sb.toNat), (5, fa.toNat), (5, md.toNat), (5, h.mg.toNat), (2, 1), (4, h.stall.toNat), (8, 0xca)] = 64; simp only [fieldWidth]) ?_ hw
  rw [show Instr.fields (.amatch h md fa sb z) = [(18, 0), (4, z.toNat), (8, 3), (5, sb.toNat), (5, fa.toNat), (5, md.toNat), (5, h.mg.toNat), (2, 1), (4, h.stall.toNat)] ++ [(8, 0xCA)] from rfl]
  obtain ⟨e1, e2⟩ := nibbles [(18, 0), (4, z.toNat), (8, 3), (5, sb.toNat), (5, fa.toNat), (5, md.toNat), (5, h.mg.toNat), (2, 1), (4, h.stall.toNat)] 0xCA 12 10 (by simp only [fieldWidth]) rfl rfl
  rw [decodeRaw_hiC _ _ e1, decHiC_A _ _ _ e2]
  have u : unpackBits [18, 4, 8, 5, 5, 5, 5, 2, 4, 8] (packBits ([(18, 0), (4, z.toNat), (8, 3), (5, sb.toNat), (5, fa.toNat), (5, md.toNat), (5, h.mg.toNat), (2, 1), (4, h.stall.toNat)] ++ [(8, 0xCA)])) = [0, z.toNat, 3, sb.toNat, fa.toNat, md.toNat, h.mg.toNat, 1, h.stall.toNat, 202] :=
    unpackBits_pack [(18, 0), (4, z.toNat), (8, 3), (5, sb.toNat), (5, fa.toNat), (5, md.toNat), (5, h.mg.toNat), (2, 1), (4, h.stall.toNat), (8, 0xca)] ⟨by decide, z.isLt, by decide, sb.isLt, fa.isLt, md.isLt, h.mg.isLt, by decide, h.stall.isLt, by decide, trivial⟩
  unfold decOpCA
  rw [u]
  show (some (Instr.amatch ⟨BitVec.ofNat 4 h.stall.toNat, BitVec.ofNat 5 h.mg.toNat⟩ (BitVec.ofNat 5 md.toNat) (BitVec.ofNat 5 fa.toNat) (BitVec.ofNat 5 sb.toNat) (BitVec.ofNat 4 z.toNat))) = _
  simp only [BitVec.ofNat_toNat, BitVec.setWidth_eq]
theorem achk (h : AHdr) (md fa : BitVec 5) : Statement (.achk h md fa) := by
  intro _ hw w1
  refine decode_of_raw (w1 := w1) (by show fieldWidth [(35, 0), (5, fa.toNat), (5, md.toNat), (5, h.mg.toNat), (2, 0), (4, h.stall.toNat), (8, 0xcb)] = 64; simp only [fieldWidth]) ?_ hw
  rw [show Instr.fields (.achk h md fa) = [(35, 0), (5, fa.toNat), (5, md.toNat), (5, h.mg.toNat), (2, 0), (4, h.stall.toNat)] ++ [(8, 0xCB)] from rfl]
  obtain ⟨e1, e2⟩ := nibbles [(35, 0), (5, fa.toNat), (5, md.toNat), (5, h.mg.toNat), (2, 0), (4, h.stall.toNat)] 0xCB 12 11 (by simp only [fieldWidth]) rfl rfl
  rw [decodeRaw_hiC _ _ e1, decHiC_B _ _ _ e2]
  have u : unpackBits [35, 5, 5, 5, 2, 4, 8] (packBits ([(35, 0), (5, fa.toNat), (5, md.toNat), (5, h.mg.toNat), (2, 0), (4, h.stall.toNat)] ++ [(8, 0xCB)])) = [0, fa.toNat, md.toNat, h.mg.toNat, 0, h.stall.toNat, 203] :=
    unpackBits_pack [(35, 0), (5, fa.toNat), (5, md.toNat), (5, h.mg.toNat), (2, 0), (4, h.stall.toNat), (8, 0xcb)] ⟨by decide, fa.isLt, md.isLt, h.mg.isLt, by decide, h.stall.isLt, by decide, trivial⟩
  unfold decOpCB
  rw [u]
  show (some (Instr.achk ⟨BitVec.ofNat 4 h.stall.toNat, BitVec.ofNat 5 h.mg.toNat⟩ (BitVec.ofNat 5 md.toNat) (BitVec.ofNat 5 fa.toNat))) = _
  simp only [BitVec.ofNat_toNat, BitVec.setWidth_eq]
theorem afill (h : AHdr) (fd : BitVec 5) (sat : BitVec 1) (o : SvOpnd) : Statement (.afill h fd sat o) := by
  intro _ hw w1
  refine decode_of_raw (w1 := w1) (by show fieldWidth [(24, o.lo), (2, 0), (1, sat.toNat), (13, 0), (5, fd.toNat), (5, h.mg.toNat), (2, o.form), (4, h.stall.toNat), (8, 0xcc)] = 64; simp only [fieldWidth]) ?_ hw
  rw [show Instr.fields (.afill h fd sat o) = [(24, o.lo), (2, 0), (1, sat.toNat), (13, 0), (5, fd.toNat), (5, h.mg.toNat), (2, o.form), (4, h.stall.toNat)] ++ [(8, 0xCC)] from rfl]
  obtain ⟨e1, e2⟩ := nibbles [(24, o.lo), (2, 0), (1, sat.toNat), (13, 0), (5, fd.toNat), (5, h.mg.toNat), (2, o.form), (4, h.stall.toNat)] 0xCC 12 12 (by simp only [fieldWidth]) rfl rfl
  rw [decodeRaw_hiC _ _ e1, decHiC_C _ _ _ e2]
  have u : unpackBits [24, 2, 1, 13, 5, 5, 2, 4, 8] (packBits ([(24, o.lo), (2, 0), (1, sat.toNat), (13, 0), (5, fd.toNat), (5, h.mg.toNat), (2, o.form), (4, h.stall.toNat)] ++ [(8, 0xCC)])) = [o.lo, 0, sat.toNat, 0, fd.toNat, h.mg.toNat, o.form, h.stall.toNat, 204] :=
    unpackBits_pack [(24, o.lo), (2, 0), (1, sat.toNat), (13, 0), (5, fd.toNat), (5, h.mg.toNat), (2, o.form), (4, h.stall.toNat), (8, 0xcc)] ⟨o.lo_lt, by decide, sat.isLt, by decide, fd.isLt, h.mg.isLt, o.form_lt, h.stall.isLt, by decide, trivial⟩
  unfold decOpCC
  rw [u]
  show ((SvOpnd.ofBits o.form o.lo).map fun o => Instr.afill ⟨BitVec.ofNat 4 h.stall.toNat, BitVec.ofNat 5 h.mg.toNat⟩ (BitVec.ofNat 5 fd.toNat) (BitVec.ofNat 1 sat.toNat) o) = _
  simp only [BitVec.ofNat_toNat, BitVec.setWidth_eq, SvOpnd.ofBits_bits, Option.map_some]
theorem abcast (h : AHdr) (fd fa : BitVec 5) (o : SvOpnd) : Statement (.abcast h fd fa o) := by
  intro _ hw w1
  refine decode_of_raw (w1 := w1) (by show fieldWidth [(24, o.lo), (11, 0), (5, fa.toNat), (5, fd.toNat), (5, h.mg.toNat), (2, o.form), (4, h.stall.toNat), (8, 0xcd)] = 64; simp only [fieldWidth]) ?_ hw
  rw [show Instr.fields (.abcast h fd fa o) = [(24, o.lo), (11, 0), (5, fa.toNat), (5, fd.toNat), (5, h.mg.toNat), (2, o.form), (4, h.stall.toNat)] ++ [(8, 0xCD)] from rfl]
  obtain ⟨e1, e2⟩ := nibbles [(24, o.lo), (11, 0), (5, fa.toNat), (5, fd.toNat), (5, h.mg.toNat), (2, o.form), (4, h.stall.toNat)] 0xCD 12 13 (by simp only [fieldWidth]) rfl rfl
  rw [decodeRaw_hiC _ _ e1, decHiC_D _ _ _ e2]
  have u : unpackBits [24, 11, 5, 5, 5, 2, 4, 8] (packBits ([(24, o.lo), (11, 0), (5, fa.toNat), (5, fd.toNat), (5, h.mg.toNat), (2, o.form), (4, h.stall.toNat)] ++ [(8, 0xCD)])) = [o.lo, 0, fa.toNat, fd.toNat, h.mg.toNat, o.form, h.stall.toNat, 205] :=
    unpackBits_pack [(24, o.lo), (11, 0), (5, fa.toNat), (5, fd.toNat), (5, h.mg.toNat), (2, o.form), (4, h.stall.toNat), (8, 0xcd)] ⟨o.lo_lt, by decide, fa.isLt, fd.isLt, h.mg.isLt, o.form_lt, h.stall.isLt, by decide, trivial⟩
  unfold decOpCD
  rw [u]
  show ((SvOpnd.ofBits o.form o.lo).map fun o => Instr.abcast ⟨BitVec.ofNat 4 h.stall.toNat, BitVec.ofNat 5 h.mg.toNat⟩ (BitVec.ofNat 5 fd.toNat) (BitVec.ofNat 5 fa.toNat) o) = _
  simp only [BitVec.ofNat_toNat, BitVec.setWidth_eq, SvOpnd.ofBits_bits, Option.map_some]
theorem aqnt (h : AHdr) (fd fa : BitVec 5) (o : SvOpnd) : Statement (.aqnt h fd fa o) := by
  intro _ hw w1
  refine decode_of_raw (w1 := w1) (by show fieldWidth [(24, o.lo), (11, 0), (5, fa.toNat), (5, fd.toNat), (5, h.mg.toNat), (2, o.form), (4, h.stall.toNat), (8, 0xce)] = 64; simp only [fieldWidth]) ?_ hw
  rw [show Instr.fields (.aqnt h fd fa o) = [(24, o.lo), (11, 0), (5, fa.toNat), (5, fd.toNat), (5, h.mg.toNat), (2, o.form), (4, h.stall.toNat)] ++ [(8, 0xCE)] from rfl]
  obtain ⟨e1, e2⟩ := nibbles [(24, o.lo), (11, 0), (5, fa.toNat), (5, fd.toNat), (5, h.mg.toNat), (2, o.form), (4, h.stall.toNat)] 0xCE 12 14 (by simp only [fieldWidth]) rfl rfl
  rw [decodeRaw_hiC _ _ e1, decHiC_E _ _ _ e2]
  have u : unpackBits [24, 11, 5, 5, 5, 2, 4, 8] (packBits ([(24, o.lo), (11, 0), (5, fa.toNat), (5, fd.toNat), (5, h.mg.toNat), (2, o.form), (4, h.stall.toNat)] ++ [(8, 0xCE)])) = [o.lo, 0, fa.toNat, fd.toNat, h.mg.toNat, o.form, h.stall.toNat, 206] :=
    unpackBits_pack [(24, o.lo), (11, 0), (5, fa.toNat), (5, fd.toNat), (5, h.mg.toNat), (2, o.form), (4, h.stall.toNat), (8, 0xce)] ⟨o.lo_lt, by decide, fa.isLt, fd.isLt, h.mg.isLt, o.form_lt, h.stall.isLt, by decide, trivial⟩
  unfold decOpCE
  rw [u]
  show ((SvOpnd.ofBits o.form o.lo).map fun o => Instr.aqnt ⟨BitVec.ofNat 4 h.stall.toNat, BitVec.ofNat 5 h.mg.toNat⟩ (BitVec.ofNat 5 fd.toNat) (BitVec.ofNat 5 fa.toNat) o) = _
  simp only [BitVec.ofNat_toNat, BitVec.setWidth_eq, SvOpnd.ofBits_bits, Option.map_some]
theorem aqntKeep (h : AHdr) (fd fa : BitVec 5) : Statement (.aqntKeep h fd fa) := by
  intro _ hw w1
  refine decode_of_raw (w1 := w1) (by show fieldWidth [(24, 0), (11, 1), (5, fa.toNat), (5, fd.toNat), (5, h.mg.toNat), (2, 0), (4, h.stall.toNat), (8, 0xce)] = 64; simp only [fieldWidth]) ?_ hw
  rw [show Instr.fields (.aqntKeep h fd fa) = [(24, 0), (11, 1), (5, fa.toNat), (5, fd.toNat), (5, h.mg.toNat), (2, 0), (4, h.stall.toNat)] ++ [(8, 0xCE)] from rfl]
  obtain ⟨e1, e2⟩ := nibbles [(24, 0), (11, 1), (5, fa.toNat), (5, fd.toNat), (5, h.mg.toNat), (2, 0), (4, h.stall.toNat)] 0xCE 12 14 (by simp only [fieldWidth]) rfl rfl
  rw [decodeRaw_hiC _ _ e1, decHiC_E _ _ _ e2]
  have u : unpackBits [24, 11, 5, 5, 5, 2, 4, 8] (packBits ([(24, 0), (11, 1), (5, fa.toNat), (5, fd.toNat), (5, h.mg.toNat), (2, 0), (4, h.stall.toNat)] ++ [(8, 0xCE)])) = [0, 1, fa.toNat, fd.toNat, h.mg.toNat, 0, h.stall.toNat, 206] :=
    unpackBits_pack [(24, 0), (11, 1), (5, fa.toNat), (5, fd.toNat), (5, h.mg.toNat), (2, 0), (4, h.stall.toNat), (8, 0xce)] ⟨by decide, by decide, fa.isLt, fd.isLt, h.mg.isLt, by decide, h.stall.isLt, by decide, trivial⟩
  unfold decOpCE
  rw [u]
  show (some (Instr.aqntKeep ⟨BitVec.ofNat 4 h.stall.toNat, BitVec.ofNat 5 h.mg.toNat⟩ (BitVec.ofNat 5 fd.toNat) (BitVec.ofNat 5 fa.toNat))) = _
  simp only [BitVec.ofNat_toNat, BitVec.setWidth_eq]
theorem adqnt (h : AHdr) (fd fa : BitVec 5) (rc : BitVec 3) (sat : BitVec 1) (o : AOpnd) : Statement (.adqnt h fd fa rc sat o) := by
  intro _ hw w1
  refine decode_of_raw (w1 := w1) (by show fieldWidth [(24, o.lo), (2, 0), (1, sat.toNat), (3, rc.toNat), (5, o.mid), (5, fa.toNat), (5, fd.toNat), (5, h.mg.toNat), (2, o.form), (4, h.stall.toNat), (8, 0xcf)] = 64; simp only [fieldWidth]) ?_ hw
  rw [show Instr.fields (.adqnt h fd fa rc sat o) = [(24, o.lo), (2, 0), (1, sat.toNat), (3, rc.toNat), (5, o.mid), (5, fa.toNat), (5, fd.toNat), (5, h.mg.toNat), (2, o.form), (4, h.stall.toNat)] ++ [(8, 0xCF)] from rfl]
  obtain ⟨e1, e2⟩ := nibbles [(24, o.lo), (2, 0), (1, sat.toNat), (3, rc.toNat), (5, o.mid), (5, fa.toNat), (5, fd.toNat), (5, h.mg.toNat), (2, o.form), (4, h.stall.toNat)] 0xCF 12 15 (by simp only [fieldWidth]) rfl rfl
  rw [decodeRaw_hiC _ _ e1, decHiC_F _ _ _ e2]
  have u : unpackBits [24, 2, 1, 3, 5, 5, 5, 5, 2, 4, 8] (packBits ([(24, o.lo), (2, 0), (1, sat.toNat), (3, rc.toNat), (5, o.mid), (5, fa.toNat), (5, fd.toNat), (5, h.mg.toNat), (2, o.form), (4, h.stall.toNat)] ++ [(8, 0xCF)])) = [o.lo, 0, sat.toNat, rc.toNat, o.mid, fa.toNat, fd.toNat, h.mg.toNat, o.form, h.stall.toNat, 207] :=
    unpackBits_pack [(24, o.lo), (2, 0), (1, sat.toNat), (3, rc.toNat), (5, o.mid), (5, fa.toNat), (5, fd.toNat), (5, h.mg.toNat), (2, o.form), (4, h.stall.toNat), (8, 0xcf)] ⟨o.lo_lt, by decide, sat.isLt, rc.isLt, o.mid_lt, fa.isLt, fd.isLt, h.mg.isLt, o.form_lt, h.stall.isLt, by decide, trivial⟩
  unfold decOpCF
  rw [u]
  show ((AOpnd.ofBits o.form o.mid o.lo).map fun o => Instr.adqnt ⟨BitVec.ofNat 4 h.stall.toNat, BitVec.ofNat 5 h.mg.toNat⟩ (BitVec.ofNat 5 fd.toNat) (BitVec.ofNat 5 fa.toNat) (BitVec.ofNat 3 rc.toNat) (BitVec.ofNat 1 sat.toNat) o) = _
  simp only [BitVec.ofNat_toNat, BitVec.setWidth_eq, AOpnd.ofBits_bits, Option.map_some]
theorem ald (h : AHdr) (fd : BitVec 5) (ff : BitVec 1) (s : BitVec 6) : Statement (.ald h fd ff s) := by
  intro _ hw w1
  refine decode_of_raw (w1 := w1) (by show fieldWidth [(18, 0), (6, s.toNat), (1, ff.toNat), (15, 0), (5, fd.toNat), (5, h.mg.toNat), (2, 1), (4, h.stall.toNat), (8, 0xd0)] = 64; simp only [fieldWidth]) ?_ hw
  rw [show Instr.fields (.ald h fd ff s) = [(18, 0), (6, s.toNat), (1, ff.toNat), (15, 0), (5, fd.toNat), (5, h.mg.toNat), (2, 1), (4, h.stall.toNat)] ++ [(8, 0xD0)] from rfl]
  obtain ⟨e1, e2⟩ := nibbles [(18, 0), (6, s.toNat), (1, ff.toNat), (15, 0), (5, fd.toNat), (5, h.mg.toNat), (2, 1), (4, h.stall.toNat)] 0xD0 13 0 (by simp only [fieldWidth]) rfl rfl
  rw [decodeRaw_hiD _ _ e1, decHiD_0 _ _ _ e2]
  have u : unpackBits [18, 6, 1, 15, 5, 5, 2, 4, 8] (packBits ([(18, 0), (6, s.toNat), (1, ff.toNat), (15, 0), (5, fd.toNat), (5, h.mg.toNat), (2, 1), (4, h.stall.toNat)] ++ [(8, 0xD0)])) = [0, s.toNat, ff.toNat, 0, fd.toNat, h.mg.toNat, 1, h.stall.toNat, 208] :=
    unpackBits_pack [(18, 0), (6, s.toNat), (1, ff.toNat), (15, 0), (5, fd.toNat), (5, h.mg.toNat), (2, 1), (4, h.stall.toNat), (8, 0xd0)] ⟨by decide, s.isLt, ff.isLt, by decide, fd.isLt, h.mg.isLt, by decide, h.stall.isLt, by decide, trivial⟩
  unfold decOpD0
  rw [u]
  show (some (Instr.ald ⟨BitVec.ofNat 4 h.stall.toNat, BitVec.ofNat 5 h.mg.toNat⟩ (BitVec.ofNat 5 fd.toNat) (BitVec.ofNat 1 ff.toNat) (BitVec.ofNat 6 s.toNat))) = _
  simp only [BitVec.ofNat_toNat, BitVec.setWidth_eq]
theorem aldx (h : AHdr) (fd fb : BitVec 5) (ff : BitVec 1) (s : BitVec 6) : Statement (.aldx h fd fb ff s) := by
  intro _ hw w1
  refine decode_of_raw (w1 := w1) (by show fieldWidth [(18, 0), (6, s.toNat), (1, ff.toNat), (5, 0), (5, fb.toNat), (5, 0), (5, fd.toNat), (5, h.mg.toNat), (2, 1), (4, h.stall.toNat), (8, 0xd1)] = 64; simp only [fieldWidth]) ?_ hw
  rw [show Instr.fields (.aldx h fd fb ff s) = [(18, 0), (6, s.toNat), (1, ff.toNat), (5, 0), (5, fb.toNat), (5, 0), (5, fd.toNat), (5, h.mg.toNat), (2, 1), (4, h.stall.toNat)] ++ [(8, 0xD1)] from rfl]
  obtain ⟨e1, e2⟩ := nibbles [(18, 0), (6, s.toNat), (1, ff.toNat), (5, 0), (5, fb.toNat), (5, 0), (5, fd.toNat), (5, h.mg.toNat), (2, 1), (4, h.stall.toNat)] 0xD1 13 1 (by simp only [fieldWidth]) rfl rfl
  rw [decodeRaw_hiD _ _ e1, decHiD_1 _ _ _ e2]
  have u : unpackBits [18, 6, 1, 5, 5, 5, 5, 5, 2, 4, 8] (packBits ([(18, 0), (6, s.toNat), (1, ff.toNat), (5, 0), (5, fb.toNat), (5, 0), (5, fd.toNat), (5, h.mg.toNat), (2, 1), (4, h.stall.toNat)] ++ [(8, 0xD1)])) = [0, s.toNat, ff.toNat, 0, fb.toNat, 0, fd.toNat, h.mg.toNat, 1, h.stall.toNat, 209] :=
    unpackBits_pack [(18, 0), (6, s.toNat), (1, ff.toNat), (5, 0), (5, fb.toNat), (5, 0), (5, fd.toNat), (5, h.mg.toNat), (2, 1), (4, h.stall.toNat), (8, 0xd1)] ⟨by decide, s.isLt, ff.isLt, by decide, fb.isLt, by decide, fd.isLt, h.mg.isLt, by decide, h.stall.isLt, by decide, trivial⟩
  unfold decOpD1
  rw [u]
  show (some (Instr.aldx ⟨BitVec.ofNat 4 h.stall.toNat, BitVec.ofNat 5 h.mg.toNat⟩ (BitVec.ofNat 5 fd.toNat) (BitVec.ofNat 5 fb.toNat) (BitVec.ofNat 1 ff.toNat) (BitVec.ofNat 6 s.toNat))) = _
  simp only [BitVec.ofNat_toNat, BitVec.setWidth_eq]
theorem aldseg (h : AHdr) (fd sb : BitVec 5) (rc : BitVec 3) (nosat : BitVec 1) (nm1 : BitVec 2) (s : BitVec 6) : Statement (.aldseg h fd sb rc nosat nm1 s) := by
  intro _ hw w1
  refine decode_of_raw (w1 := w1) (by show fieldWidth [(18, 0), (6, s.toNat), (2, nm1.toNat), (1, nosat.toNat), (3, rc.toNat), (5, sb.toNat), (5, 0), (5, fd.toNat), (5, h.mg.toNat), (2, 1), (4, h.stall.toNat), (8, 0xd2)] = 64; simp only [fieldWidth]) ?_ hw
  rw [show Instr.fields (.aldseg h fd sb rc nosat nm1 s) = [(18, 0), (6, s.toNat), (2, nm1.toNat), (1, nosat.toNat), (3, rc.toNat), (5, sb.toNat), (5, 0), (5, fd.toNat), (5, h.mg.toNat), (2, 1), (4, h.stall.toNat)] ++ [(8, 0xD2)] from rfl]
  obtain ⟨e1, e2⟩ := nibbles [(18, 0), (6, s.toNat), (2, nm1.toNat), (1, nosat.toNat), (3, rc.toNat), (5, sb.toNat), (5, 0), (5, fd.toNat), (5, h.mg.toNat), (2, 1), (4, h.stall.toNat)] 0xD2 13 2 (by simp only [fieldWidth]) rfl rfl
  rw [decodeRaw_hiD _ _ e1, decHiD_2 _ _ _ e2]
  have u : unpackBits [18, 6, 2, 1, 3, 5, 5, 5, 5, 2, 4, 8] (packBits ([(18, 0), (6, s.toNat), (2, nm1.toNat), (1, nosat.toNat), (3, rc.toNat), (5, sb.toNat), (5, 0), (5, fd.toNat), (5, h.mg.toNat), (2, 1), (4, h.stall.toNat)] ++ [(8, 0xD2)])) = [0, s.toNat, nm1.toNat, nosat.toNat, rc.toNat, sb.toNat, 0, fd.toNat, h.mg.toNat, 1, h.stall.toNat, 210] :=
    unpackBits_pack [(18, 0), (6, s.toNat), (2, nm1.toNat), (1, nosat.toNat), (3, rc.toNat), (5, sb.toNat), (5, 0), (5, fd.toNat), (5, h.mg.toNat), (2, 1), (4, h.stall.toNat), (8, 0xd2)] ⟨by decide, s.isLt, nm1.isLt, nosat.isLt, rc.isLt, sb.isLt, by decide, fd.isLt, h.mg.isLt, by decide, h.stall.isLt, by decide, trivial⟩
  unfold decOpD2
  rw [u]
  show (some (Instr.aldseg ⟨BitVec.ofNat 4 h.stall.toNat, BitVec.ofNat 5 h.mg.toNat⟩ (BitVec.ofNat 5 fd.toNat) (BitVec.ofNat 5 sb.toNat) (BitVec.ofNat 3 rc.toNat) (BitVec.ofNat 1 nosat.toNat) (BitVec.ofNat 2 nm1.toNat) (BitVec.ofNat 6 s.toNat))) = _
  simp only [BitVec.ofNat_toNat, BitVec.setWidth_eq]
theorem ast (h : AHdr) (fa : BitVec 5) (s : BitVec 6) : Statement (.ast h fa s) := by
  intro _ hw w1
  refine decode_of_raw (w1 := w1) (by show fieldWidth [(18, 0), (6, s.toNat), (11, 0), (5, fa.toNat), (5, 0), (5, h.mg.toNat), (2, 1), (4, h.stall.toNat), (8, 0xd3)] = 64; simp only [fieldWidth]) ?_ hw
  rw [show Instr.fields (.ast h fa s) = [(18, 0), (6, s.toNat), (11, 0), (5, fa.toNat), (5, 0), (5, h.mg.toNat), (2, 1), (4, h.stall.toNat)] ++ [(8, 0xD3)] from rfl]
  obtain ⟨e1, e2⟩ := nibbles [(18, 0), (6, s.toNat), (11, 0), (5, fa.toNat), (5, 0), (5, h.mg.toNat), (2, 1), (4, h.stall.toNat)] 0xD3 13 3 (by simp only [fieldWidth]) rfl rfl
  rw [decodeRaw_hiD _ _ e1, decHiD_3 _ _ _ e2]
  have u : unpackBits [18, 6, 11, 5, 5, 5, 2, 4, 8] (packBits ([(18, 0), (6, s.toNat), (11, 0), (5, fa.toNat), (5, 0), (5, h.mg.toNat), (2, 1), (4, h.stall.toNat)] ++ [(8, 0xD3)])) = [0, s.toNat, 0, fa.toNat, 0, h.mg.toNat, 1, h.stall.toNat, 211] :=
    unpackBits_pack [(18, 0), (6, s.toNat), (11, 0), (5, fa.toNat), (5, 0), (5, h.mg.toNat), (2, 1), (4, h.stall.toNat), (8, 0xd3)] ⟨by decide, s.isLt, by decide, fa.isLt, by decide, h.mg.isLt, by decide, h.stall.isLt, by decide, trivial⟩
  unfold decOpD3
  rw [u]
  show (some (Instr.ast ⟨BitVec.ofNat 4 h.stall.toNat, BitVec.ofNat 5 h.mg.toNat⟩ (BitVec.ofNat 5 fa.toNat) (BitVec.ofNat 6 s.toNat))) = _
  simp only [BitVec.ofNat_toNat, BitVec.setWidth_eq]
theorem astx (h : AHdr) (fa fb : BitVec 5) (s : BitVec 6) : Statement (.astx h fa fb s) := by
  intro _ hw w1
  refine decode_of_raw (w1 := w1) (by show fieldWidth [(18, 0), (6, s.toNat), (6, 0), (5, fb.toNat), (5, fa.toNat), (5, 0), (5, h.mg.toNat), (2, 1), (4, h.stall.toNat), (8, 0xd4)] = 64; simp only [fieldWidth]) ?_ hw
  rw [show Instr.fields (.astx h fa fb s) = [(18, 0), (6, s.toNat), (6, 0), (5, fb.toNat), (5, fa.toNat), (5, 0), (5, h.mg.toNat), (2, 1), (4, h.stall.toNat)] ++ [(8, 0xD4)] from rfl]
  obtain ⟨e1, e2⟩ := nibbles [(18, 0), (6, s.toNat), (6, 0), (5, fb.toNat), (5, fa.toNat), (5, 0), (5, h.mg.toNat), (2, 1), (4, h.stall.toNat)] 0xD4 13 4 (by simp only [fieldWidth]) rfl rfl
  rw [decodeRaw_hiD _ _ e1, decHiD_4 _ _ _ e2]
  have u : unpackBits [18, 6, 6, 5, 5, 5, 5, 2, 4, 8] (packBits ([(18, 0), (6, s.toNat), (6, 0), (5, fb.toNat), (5, fa.toNat), (5, 0), (5, h.mg.toNat), (2, 1), (4, h.stall.toNat)] ++ [(8, 0xD4)])) = [0, s.toNat, 0, fb.toNat, fa.toNat, 0, h.mg.toNat, 1, h.stall.toNat, 212] :=
    unpackBits_pack [(18, 0), (6, s.toNat), (6, 0), (5, fb.toNat), (5, fa.toNat), (5, 0), (5, h.mg.toNat), (2, 1), (4, h.stall.toNat), (8, 0xd4)] ⟨by decide, s.isLt, by decide, fb.isLt, fa.isLt, by decide, h.mg.isLt, by decide, h.stall.isLt, by decide, trivial⟩
  unfold decOpD4
  rw [u]
  show (some (Instr.astx ⟨BitVec.ofNat 4 h.stall.toNat, BitVec.ofNat 5 h.mg.toNat⟩ (BitVec.ofNat 5 fa.toNat) (BitVec.ofNat 5 fb.toNat) (BitVec.ofNat 6 s.toNat))) = _
  simp only [BitVec.ofNat_toNat, BitVec.setWidth_eq]
theorem astseg (h : AHdr) (fa sb : BitVec 5) (rc : BitVec 3) (nosat : BitVec 1) (nm1 : BitVec 2) (s : BitVec 6) : Statement (.astseg h fa sb rc nosat nm1 s) := by
  intro _ hw w1
  refine decode_of_raw (w1 := w1) (by show fieldWidth [(18, 0), (6, s.toNat), (2, nm1.toNat), (1, nosat.toNat), (3, rc.toNat), (5, sb.toNat), (5, fa.toNat), (5, 0), (5, h.mg.toNat), (2, 1), (4, h.stall.toNat), (8, 0xd5)] = 64; simp only [fieldWidth]) ?_ hw
  rw [show Instr.fields (.astseg h fa sb rc nosat nm1 s) = [(18, 0), (6, s.toNat), (2, nm1.toNat), (1, nosat.toNat), (3, rc.toNat), (5, sb.toNat), (5, fa.toNat), (5, 0), (5, h.mg.toNat), (2, 1), (4, h.stall.toNat)] ++ [(8, 0xD5)] from rfl]
  obtain ⟨e1, e2⟩ := nibbles [(18, 0), (6, s.toNat), (2, nm1.toNat), (1, nosat.toNat), (3, rc.toNat), (5, sb.toNat), (5, fa.toNat), (5, 0), (5, h.mg.toNat), (2, 1), (4, h.stall.toNat)] 0xD5 13 5 (by simp only [fieldWidth]) rfl rfl
  rw [decodeRaw_hiD _ _ e1, decHiD_5 _ _ _ e2]
  have u : unpackBits [18, 6, 2, 1, 3, 5, 5, 5, 5, 2, 4, 8] (packBits ([(18, 0), (6, s.toNat), (2, nm1.toNat), (1, nosat.toNat), (3, rc.toNat), (5, sb.toNat), (5, fa.toNat), (5, 0), (5, h.mg.toNat), (2, 1), (4, h.stall.toNat)] ++ [(8, 0xD5)])) = [0, s.toNat, nm1.toNat, nosat.toNat, rc.toNat, sb.toNat, fa.toNat, 0, h.mg.toNat, 1, h.stall.toNat, 213] :=
    unpackBits_pack [(18, 0), (6, s.toNat), (2, nm1.toNat), (1, nosat.toNat), (3, rc.toNat), (5, sb.toNat), (5, fa.toNat), (5, 0), (5, h.mg.toNat), (2, 1), (4, h.stall.toNat), (8, 0xd5)] ⟨by decide, s.isLt, nm1.isLt, nosat.isLt, rc.isLt, sb.isLt, fa.isLt, by decide, h.mg.isLt, by decide, h.stall.isLt, by decide, trivial⟩
  unfold decOpD5
  rw [u]
  show (some (Instr.astseg ⟨BitVec.ofNat 4 h.stall.toNat, BitVec.ofNat 5 h.mg.toNat⟩ (BitVec.ofNat 5 fa.toNat) (BitVec.ofNat 5 sb.toNat) (BitVec.ofNat 3 rc.toNat) (BitVec.ofNat 1 nosat.toNat) (BitVec.ofNat 2 nm1.toNat) (BitVec.ofNat 6 s.toNat))) = _
  simp only [BitVec.ofNat_toNat, BitVec.setWidth_eq]
theorem alds (h : AHdr) (fd sb : BitVec 5) (ff : BitVec 1) (s : BitVec 6) : Statement (.alds h fd sb ff s) := by
  intro _ hw w1
  refine decode_of_raw (w1 := w1) (by show fieldWidth [(18, 0), (6, s.toNat), (1, ff.toNat), (5, 0), (5, sb.toNat), (5, 0), (5, fd.toNat), (5, h.mg.toNat), (2, 1), (4, h.stall.toNat), (8, 0xd6)] = 64; simp only [fieldWidth]) ?_ hw
  rw [show Instr.fields (.alds h fd sb ff s) = [(18, 0), (6, s.toNat), (1, ff.toNat), (5, 0), (5, sb.toNat), (5, 0), (5, fd.toNat), (5, h.mg.toNat), (2, 1), (4, h.stall.toNat)] ++ [(8, 0xD6)] from rfl]
  obtain ⟨e1, e2⟩ := nibbles [(18, 0), (6, s.toNat), (1, ff.toNat), (5, 0), (5, sb.toNat), (5, 0), (5, fd.toNat), (5, h.mg.toNat), (2, 1), (4, h.stall.toNat)] 0xD6 13 6 (by simp only [fieldWidth]) rfl rfl
  rw [decodeRaw_hiD _ _ e1, decHiD_6 _ _ _ e2]
  have u : unpackBits [18, 6, 1, 5, 5, 5, 5, 5, 2, 4, 8] (packBits ([(18, 0), (6, s.toNat), (1, ff.toNat), (5, 0), (5, sb.toNat), (5, 0), (5, fd.toNat), (5, h.mg.toNat), (2, 1), (4, h.stall.toNat)] ++ [(8, 0xD6)])) = [0, s.toNat, ff.toNat, 0, sb.toNat, 0, fd.toNat, h.mg.toNat, 1, h.stall.toNat, 214] :=
    unpackBits_pack [(18, 0), (6, s.toNat), (1, ff.toNat), (5, 0), (5, sb.toNat), (5, 0), (5, fd.toNat), (5, h.mg.toNat), (2, 1), (4, h.stall.toNat), (8, 0xd6)] ⟨by decide, s.isLt, ff.isLt, by decide, sb.isLt, by decide, fd.isLt, h.mg.isLt, by decide, h.stall.isLt, by decide, trivial⟩
  unfold decOpD6
  rw [u]
  show (some (Instr.alds ⟨BitVec.ofNat 4 h.stall.toNat, BitVec.ofNat 5 h.mg.toNat⟩ (BitVec.ofNat 5 fd.toNat) (BitVec.ofNat 5 sb.toNat) (BitVec.ofNat 1 ff.toNat) (BitVec.ofNat 6 s.toNat))) = _
  simp only [BitVec.ofNat_toNat, BitVec.setWidth_eq]
theorem asts (h : AHdr) (fa sb : BitVec 5) (s : BitVec 6) : Statement (.asts h fa sb s) := by
  intro _ hw w1
  refine decode_of_raw (w1 := w1) (by show fieldWidth [(18, 0), (6, s.toNat), (6, 0), (5, sb.toNat), (5, fa.toNat), (5, 0), (5, h.mg.toNat), (2, 1), (4, h.stall.toNat), (8, 0xd7)] = 64; simp only [fieldWidth]) ?_ hw
  rw [show Instr.fields (.asts h fa sb s) = [(18, 0), (6, s.toNat), (6, 0), (5, sb.toNat), (5, fa.toNat), (5, 0), (5, h.mg.toNat), (2, 1), (4, h.stall.toNat)] ++ [(8, 0xD7)] from rfl]
  obtain ⟨e1, e2⟩ := nibbles [(18, 0), (6, s.toNat), (6, 0), (5, sb.toNat), (5, fa.toNat), (5, 0), (5, h.mg.toNat), (2, 1), (4, h.stall.toNat)] 0xD7 13 7 (by simp only [fieldWidth]) rfl rfl
  rw [decodeRaw_hiD _ _ e1, decHiD_7 _ _ _ e2]
  have u : unpackBits [18, 6, 6, 5, 5, 5, 5, 2, 4, 8] (packBits ([(18, 0), (6, s.toNat), (6, 0), (5, sb.toNat), (5, fa.toNat), (5, 0), (5, h.mg.toNat), (2, 1), (4, h.stall.toNat)] ++ [(8, 0xD7)])) = [0, s.toNat, 0, sb.toNat, fa.toNat, 0, h.mg.toNat, 1, h.stall.toNat, 215] :=
    unpackBits_pack [(18, 0), (6, s.toNat), (6, 0), (5, sb.toNat), (5, fa.toNat), (5, 0), (5, h.mg.toNat), (2, 1), (4, h.stall.toNat), (8, 0xd7)] ⟨by decide, s.isLt, by decide, sb.isLt, fa.isLt, by decide, h.mg.isLt, by decide, h.stall.isLt, by decide, trivial⟩
  unfold decOpD7
  rw [u]
  show (some (Instr.asts ⟨BitVec.ofNat 4 h.stall.toNat, BitVec.ofNat 5 h.mg.toNat⟩ (BitVec.ofNat 5 fa.toNat) (BitVec.ofNat 5 sb.toNat) (BitVec.ofNat 6 s.toNat))) = _
  simp only [BitVec.ofNat_toNat, BitVec.setWidth_eq]
theorem asaveF (nst : BitVec 4) (k : BitVec 5) (s : BitVec 6) : Statement (.asaveF nst k s) := by
  intro _ hw w1
  refine decode_of_raw (w1 := w1) (by show fieldWidth [(18, 0), (6, s.toNat), (16, 0), (5, k.toNat), (7, 56), (4, nst.toNat), (8, 0xd8)] = 64; simp only [fieldWidth]) ?_ hw
  rw [show Instr.fields (.asaveF nst k s) = [(18, 0), (6, s.toNat), (16, 0), (5, k.toNat), (7, 56), (4, nst.toNat)] ++ [(8, 0xD8)] from rfl]
  obtain ⟨e1, e2⟩ := nibbles [(18, 0), (6, s.toNat), (16, 0), (5, k.toNat), (7, 56), (4, nst.toNat)] 0xD8 13 8 (by simp only [fieldWidth]) rfl rfl
  rw [decodeRaw_hiD _ _ e1, decHiD_8 _ _ _ e2]
  have u : unpackBits [18, 6, 16, 5, 7, 4, 8] (packBits ([(18, 0), (6, s.toNat), (16, 0), (5, k.toNat), (7, 56), (4, nst.toNat)] ++ [(8, 0xD8)])) = [0, s.toNat, 0, k.toNat, 56, nst.toNat, 216] :=
    unpackBits_pack [(18, 0), (6, s.toNat), (16, 0), (5, k.toNat), (7, 56), (4, nst.toNat), (8, 0xd8)] ⟨by decide, s.isLt, by decide, k.isLt, by decide, nst.isLt, by decide, trivial⟩
  unfold decOpD8
  rw [u]
  show (some (Instr.asaveF (BitVec.ofNat 4 nst.toNat) (BitVec.ofNat 5 k.toNat) (BitVec.ofNat 6 s.toNat))) = _
  simp only [BitVec.ofNat_toNat, BitVec.setWidth_eq]
theorem asaveM (nst : BitVec 4) (k : BitVec 5) (s : BitVec 6) : Statement (.asaveM nst k s) := by
  intro _ hw w1
  refine decode_of_raw (w1 := w1) (by show fieldWidth [(18, 0), (6, s.toNat), (16, 1), (5, k.toNat), (7, 56), (4, nst.toNat), (8, 0xd8)] = 64; simp only [fieldWidth]) ?_ hw
  rw [show Instr.fields (.asaveM nst k s) = [(18, 0), (6, s.toNat), (16, 1), (5, k.toNat), (7, 56), (4, nst.toNat)] ++ [(8, 0xD8)] from rfl]
  obtain ⟨e1, e2⟩ := nibbles [(18, 0), (6, s.toNat), (16, 1), (5, k.toNat), (7, 56), (4, nst.toNat)] 0xD8 13 8 (by simp only [fieldWidth]) rfl rfl
  rw [decodeRaw_hiD _ _ e1, decHiD_8 _ _ _ e2]
  have u : unpackBits [18, 6, 16, 5, 7, 4, 8] (packBits ([(18, 0), (6, s.toNat), (16, 1), (5, k.toNat), (7, 56), (4, nst.toNat)] ++ [(8, 0xD8)])) = [0, s.toNat, 1, k.toNat, 56, nst.toNat, 216] :=
    unpackBits_pack [(18, 0), (6, s.toNat), (16, 1), (5, k.toNat), (7, 56), (4, nst.toNat), (8, 0xd8)] ⟨by decide, s.isLt, by decide, k.isLt, by decide, nst.isLt, by decide, trivial⟩
  unfold decOpD8
  rw [u]
  show (some (Instr.asaveM (BitVec.ofNat 4 nst.toNat) (BitVec.ofNat 5 k.toNat) (BitVec.ofNat 6 s.toNat))) = _
  simp only [BitVec.ofNat_toNat, BitVec.setWidth_eq]
theorem asaveDesc (nst : BitVec 4) (k : BitVec 5) (s : BitVec 6) : Statement (.asaveDesc nst k s) := by
  intro _ hw w1
  refine decode_of_raw (w1 := w1) (by show fieldWidth [(18, 0), (6, s.toNat), (16, 2), (5, k.toNat), (7, 56), (4, nst.toNat), (8, 0xd8)] = 64; simp only [fieldWidth]) ?_ hw
  rw [show Instr.fields (.asaveDesc nst k s) = [(18, 0), (6, s.toNat), (16, 2), (5, k.toNat), (7, 56), (4, nst.toNat)] ++ [(8, 0xD8)] from rfl]
  obtain ⟨e1, e2⟩ := nibbles [(18, 0), (6, s.toNat), (16, 2), (5, k.toNat), (7, 56), (4, nst.toNat)] 0xD8 13 8 (by simp only [fieldWidth]) rfl rfl
  rw [decodeRaw_hiD _ _ e1, decHiD_8 _ _ _ e2]
  have u : unpackBits [18, 6, 16, 5, 7, 4, 8] (packBits ([(18, 0), (6, s.toNat), (16, 2), (5, k.toNat), (7, 56), (4, nst.toNat)] ++ [(8, 0xD8)])) = [0, s.toNat, 2, k.toNat, 56, nst.toNat, 216] :=
    unpackBits_pack [(18, 0), (6, s.toNat), (16, 2), (5, k.toNat), (7, 56), (4, nst.toNat), (8, 0xd8)] ⟨by decide, s.isLt, by decide, k.isLt, by decide, nst.isLt, by decide, trivial⟩
  unfold decOpD8
  rw [u]
  show (some (Instr.asaveDesc (BitVec.ofNat 4 nst.toNat) (BitVec.ofNat 5 k.toNat) (BitVec.ofNat 6 s.toNat))) = _
  simp only [BitVec.ofNat_toNat, BitVec.setWidth_eq]
theorem asaveEv (nst : BitVec 4) (k : BitVec 5) (s : BitVec 6) : Statement (.asaveEv nst k s) := by
  intro _ hw w1
  refine decode_of_raw (w1 := w1) (by show fieldWidth [(18, 0), (6, s.toNat), (16, 3), (5, k.toNat), (7, 56), (4, nst.toNat), (8, 0xd8)] = 64; simp only [fieldWidth]) ?_ hw
  rw [show Instr.fields (.asaveEv nst k s) = [(18, 0), (6, s.toNat), (16, 3), (5, k.toNat), (7, 56), (4, nst.toNat)] ++ [(8, 0xD8)] from rfl]
  obtain ⟨e1, e2⟩ := nibbles [(18, 0), (6, s.toNat), (16, 3), (5, k.toNat), (7, 56), (4, nst.toNat)] 0xD8 13 8 (by simp only [fieldWidth]) rfl rfl
  rw [decodeRaw_hiD _ _ e1, decHiD_8 _ _ _ e2]
  have u : unpackBits [18, 6, 16, 5, 7, 4, 8] (packBits ([(18, 0), (6, s.toNat), (16, 3), (5, k.toNat), (7, 56), (4, nst.toNat)] ++ [(8, 0xD8)])) = [0, s.toNat, 3, k.toNat, 56, nst.toNat, 216] :=
    unpackBits_pack [(18, 0), (6, s.toNat), (16, 3), (5, k.toNat), (7, 56), (4, nst.toNat), (8, 0xd8)] ⟨by decide, s.isLt, by decide, k.isLt, by decide, nst.isLt, by decide, trivial⟩
  unfold decOpD8
  rw [u]
  show (some (Instr.asaveEv (BitVec.ofNat 4 nst.toNat) (BitVec.ofNat 5 k.toNat) (BitVec.ofNat 6 s.toNat))) = _
  simp only [BitVec.ofNat_toNat, BitVec.setWidth_eq]
theorem arstrF (nst : BitVec 4) (k : BitVec 5) (s : BitVec 6) : Statement (.arstrF nst k s) := by
  intro _ hw w1
  refine decode_of_raw (w1 := w1) (by show fieldWidth [(18, 0), (6, s.toNat), (16, 0), (5, k.toNat), (7, 56), (4, nst.toNat), (8, 0xd9)] = 64; simp only [fieldWidth]) ?_ hw
  rw [show Instr.fields (.arstrF nst k s) = [(18, 0), (6, s.toNat), (16, 0), (5, k.toNat), (7, 56), (4, nst.toNat)] ++ [(8, 0xD9)] from rfl]
  obtain ⟨e1, e2⟩ := nibbles [(18, 0), (6, s.toNat), (16, 0), (5, k.toNat), (7, 56), (4, nst.toNat)] 0xD9 13 9 (by simp only [fieldWidth]) rfl rfl
  rw [decodeRaw_hiD _ _ e1, decHiD_9 _ _ _ e2]
  have u : unpackBits [18, 6, 16, 5, 7, 4, 8] (packBits ([(18, 0), (6, s.toNat), (16, 0), (5, k.toNat), (7, 56), (4, nst.toNat)] ++ [(8, 0xD9)])) = [0, s.toNat, 0, k.toNat, 56, nst.toNat, 217] :=
    unpackBits_pack [(18, 0), (6, s.toNat), (16, 0), (5, k.toNat), (7, 56), (4, nst.toNat), (8, 0xd9)] ⟨by decide, s.isLt, by decide, k.isLt, by decide, nst.isLt, by decide, trivial⟩
  unfold decOpD9
  rw [u]
  show (some (Instr.arstrF (BitVec.ofNat 4 nst.toNat) (BitVec.ofNat 5 k.toNat) (BitVec.ofNat 6 s.toNat))) = _
  simp only [BitVec.ofNat_toNat, BitVec.setWidth_eq]
theorem arstrM (nst : BitVec 4) (k : BitVec 5) (s : BitVec 6) : Statement (.arstrM nst k s) := by
  intro _ hw w1
  refine decode_of_raw (w1 := w1) (by show fieldWidth [(18, 0), (6, s.toNat), (16, 1), (5, k.toNat), (7, 56), (4, nst.toNat), (8, 0xd9)] = 64; simp only [fieldWidth]) ?_ hw
  rw [show Instr.fields (.arstrM nst k s) = [(18, 0), (6, s.toNat), (16, 1), (5, k.toNat), (7, 56), (4, nst.toNat)] ++ [(8, 0xD9)] from rfl]
  obtain ⟨e1, e2⟩ := nibbles [(18, 0), (6, s.toNat), (16, 1), (5, k.toNat), (7, 56), (4, nst.toNat)] 0xD9 13 9 (by simp only [fieldWidth]) rfl rfl
  rw [decodeRaw_hiD _ _ e1, decHiD_9 _ _ _ e2]
  have u : unpackBits [18, 6, 16, 5, 7, 4, 8] (packBits ([(18, 0), (6, s.toNat), (16, 1), (5, k.toNat), (7, 56), (4, nst.toNat)] ++ [(8, 0xD9)])) = [0, s.toNat, 1, k.toNat, 56, nst.toNat, 217] :=
    unpackBits_pack [(18, 0), (6, s.toNat), (16, 1), (5, k.toNat), (7, 56), (4, nst.toNat), (8, 0xd9)] ⟨by decide, s.isLt, by decide, k.isLt, by decide, nst.isLt, by decide, trivial⟩
  unfold decOpD9
  rw [u]
  show (some (Instr.arstrM (BitVec.ofNat 4 nst.toNat) (BitVec.ofNat 5 k.toNat) (BitVec.ofNat 6 s.toNat))) = _
  simp only [BitVec.ofNat_toNat, BitVec.setWidth_eq]
theorem arstrDesc (nst : BitVec 4) (k : BitVec 5) (s : BitVec 6) : Statement (.arstrDesc nst k s) := by
  intro _ hw w1
  refine decode_of_raw (w1 := w1) (by show fieldWidth [(18, 0), (6, s.toNat), (16, 2), (5, k.toNat), (7, 56), (4, nst.toNat), (8, 0xd9)] = 64; simp only [fieldWidth]) ?_ hw
  rw [show Instr.fields (.arstrDesc nst k s) = [(18, 0), (6, s.toNat), (16, 2), (5, k.toNat), (7, 56), (4, nst.toNat)] ++ [(8, 0xD9)] from rfl]
  obtain ⟨e1, e2⟩ := nibbles [(18, 0), (6, s.toNat), (16, 2), (5, k.toNat), (7, 56), (4, nst.toNat)] 0xD9 13 9 (by simp only [fieldWidth]) rfl rfl
  rw [decodeRaw_hiD _ _ e1, decHiD_9 _ _ _ e2]
  have u : unpackBits [18, 6, 16, 5, 7, 4, 8] (packBits ([(18, 0), (6, s.toNat), (16, 2), (5, k.toNat), (7, 56), (4, nst.toNat)] ++ [(8, 0xD9)])) = [0, s.toNat, 2, k.toNat, 56, nst.toNat, 217] :=
    unpackBits_pack [(18, 0), (6, s.toNat), (16, 2), (5, k.toNat), (7, 56), (4, nst.toNat), (8, 0xd9)] ⟨by decide, s.isLt, by decide, k.isLt, by decide, nst.isLt, by decide, trivial⟩
  unfold decOpD9
  rw [u]
  show (some (Instr.arstrDesc (BitVec.ofNat 4 nst.toNat) (BitVec.ofNat 5 k.toNat) (BitVec.ofNat 6 s.toNat))) = _
  simp only [BitVec.ofNat_toNat, BitVec.setWidth_eq]
theorem arstrEv (nst : BitVec 4) (k : BitVec 5) (s : BitVec 6) : Statement (.arstrEv nst k s) := by
  intro _ hw w1
  refine decode_of_raw (w1 := w1) (by show fieldWidth [(18, 0), (6, s.toNat), (16, 3), (5, k.toNat), (7, 56), (4, nst.toNat), (8, 0xd9)] = 64; simp only [fieldWidth]) ?_ hw
  rw [show Instr.fields (.arstrEv nst k s) = [(18, 0), (6, s.toNat), (16, 3), (5, k.toNat), (7, 56), (4, nst.toNat)] ++ [(8, 0xD9)] from rfl]
  obtain ⟨e1, e2⟩ := nibbles [(18, 0), (6, s.toNat), (16, 3), (5, k.toNat), (7, 56), (4, nst.toNat)] 0xD9 13 9 (by simp only [fieldWidth]) rfl rfl
  rw [decodeRaw_hiD _ _ e1, decHiD_9 _ _ _ e2]
  have u : unpackBits [18, 6, 16, 5, 7, 4, 8] (packBits ([(18, 0), (6, s.toNat), (16, 3), (5, k.toNat), (7, 56), (4, nst.toNat)] ++ [(8, 0xD9)])) = [0, s.toNat, 3, k.toNat, 56, nst.toNat, 217] :=
    unpackBits_pack [(18, 0), (6, s.toNat), (16, 3), (5, k.toNat), (7, 56), (4, nst.toNat), (8, 0xd9)] ⟨by decide, s.isLt, by decide, k.isLt, by decide, nst.isLt, by decide, trivial⟩
  unfold decOpD9
  rw [u]
  show (some (Instr.arstrEv (BitVec.ofNat 4 nst.toNat) (BitVec.ofNat 5 k.toNat) (BitVec.ofNat 6 s.toNat))) = _
  simp only [BitVec.ofNat_toNat, BitVec.setWidth_eq]
theorem adump (h : Hdr) (a b : BitVec 6) : Statement (.adump h a b) := by
  intro _ hw w1
  refine decode_of_raw (w1 := w1) (by show fieldWidth [(36, 0), (6, b.toNat), (6, a.toNat), (3, h.pred.toNat), (1, h.neg.toNat), (4, h.stall.toNat), (8, 0xda)] = 64; simp only [fieldWidth]) ?_ hw
  rw [show Instr.fields (.adump h a b) = [(36, 0), (6, b.toNat), (6, a.toNat), (3, h.pred.toNat), (1, h.neg.toNat), (4, h.stall.toNat)] ++ [(8, 0xDA)] from rfl]
  obtain ⟨e1, e2⟩ := nibbles [(36, 0), (6, b.toNat), (6, a.toNat), (3, h.pred.toNat), (1, h.neg.toNat), (4, h.stall.toNat)] 0xDA 13 10 (by simp only [fieldWidth]) rfl rfl
  rw [decodeRaw_hiD _ _ e1, decHiD_A _ _ _ e2]
  have u : unpackBits [36, 6, 6, 3, 1, 4, 8] (packBits ([(36, 0), (6, b.toNat), (6, a.toNat), (3, h.pred.toNat), (1, h.neg.toNat), (4, h.stall.toNat)] ++ [(8, 0xDA)])) = [0, b.toNat, a.toNat, h.pred.toNat, h.neg.toNat, h.stall.toNat, 218] :=
    unpackBits_pack [(36, 0), (6, b.toNat), (6, a.toNat), (3, h.pred.toNat), (1, h.neg.toNat), (4, h.stall.toNat), (8, 0xda)] ⟨by decide, b.isLt, a.isLt, h.pred.isLt, h.neg.isLt, h.stall.isLt, by decide, trivial⟩
  unfold decOpDA
  rw [u]
  show (some (Instr.adump ⟨BitVec.ofNat 4 h.stall.toNat, BitVec.ofNat 1 h.neg.toNat, BitVec.ofNat 3 h.pred.toNat⟩ (BitVec.ofNat 6 a.toNat) (BitVec.ofNat 6 b.toNat))) = _
  simp only [BitVec.ofNat_toNat, BitVec.setWidth_eq]
theorem aundmp (h : Hdr) (a b : BitVec 6) : Statement (.aundmp h a b) := by
  intro _ hw w1
  refine decode_of_raw (w1 := w1) (by show fieldWidth [(36, 0), (6, b.toNat), (6, a.toNat), (3, h.pred.toNat), (1, h.neg.toNat), (4, h.stall.toNat), (8, 0xdb)] = 64; simp only [fieldWidth]) ?_ hw
  rw [show Instr.fields (.aundmp h a b) = [(36, 0), (6, b.toNat), (6, a.toNat), (3, h.pred.toNat), (1, h.neg.toNat), (4, h.stall.toNat)] ++ [(8, 0xDB)] from rfl]
  obtain ⟨e1, e2⟩ := nibbles [(36, 0), (6, b.toNat), (6, a.toNat), (3, h.pred.toNat), (1, h.neg.toNat), (4, h.stall.toNat)] 0xDB 13 11 (by simp only [fieldWidth]) rfl rfl
  rw [decodeRaw_hiD _ _ e1, decHiD_B _ _ _ e2]
  have u : unpackBits [36, 6, 6, 3, 1, 4, 8] (packBits ([(36, 0), (6, b.toNat), (6, a.toNat), (3, h.pred.toNat), (1, h.neg.toNat), (4, h.stall.toNat)] ++ [(8, 0xDB)])) = [0, b.toNat, a.toNat, h.pred.toNat, h.neg.toNat, h.stall.toNat, 219] :=
    unpackBits_pack [(36, 0), (6, b.toNat), (6, a.toNat), (3, h.pred.toNat), (1, h.neg.toNat), (4, h.stall.toNat), (8, 0xdb)] ⟨by decide, b.isLt, a.isLt, h.pred.isLt, h.neg.isLt, h.stall.isLt, by decide, trivial⟩
  unfold decOpDB
  rw [u]
  show (some (Instr.aundmp ⟨BitVec.ofNat 4 h.stall.toNat, BitVec.ofNat 1 h.neg.toNat, BitVec.ofNat 3 h.pred.toNat⟩ (BitVec.ofNat 6 a.toNat) (BitVec.ofNat 6 b.toNat))) = _
  simp only [BitVec.ofNat_toNat, BitVec.setWidth_eq]
theorem aucode (h : Hdr) (a b c : BitVec 6) : Statement (.aucode h a b c) := by
  intro _ hw w1
  refine decode_of_raw (w1 := w1) (by show fieldWidth [(30, 0), (6, c.toNat), (6, b.toNat), (6, a.toNat), (3, h.pred.toNat), (1, h.neg.toNat), (4, h.stall.toNat), (8, 0xdc)] = 64; simp only [fieldWidth]) ?_ hw
  rw [show Instr.fields (.aucode h a b c) = [(30, 0), (6, c.toNat), (6, b.toNat), (6, a.toNat), (3, h.pred.toNat), (1, h.neg.toNat), (4, h.stall.toNat)] ++ [(8, 0xDC)] from rfl]
  obtain ⟨e1, e2⟩ := nibbles [(30, 0), (6, c.toNat), (6, b.toNat), (6, a.toNat), (3, h.pred.toNat), (1, h.neg.toNat), (4, h.stall.toNat)] 0xDC 13 12 (by simp only [fieldWidth]) rfl rfl
  rw [decodeRaw_hiD _ _ e1, decHiD_C _ _ _ e2]
  have u : unpackBits [30, 6, 6, 6, 3, 1, 4, 8] (packBits ([(30, 0), (6, c.toNat), (6, b.toNat), (6, a.toNat), (3, h.pred.toNat), (1, h.neg.toNat), (4, h.stall.toNat)] ++ [(8, 0xDC)])) = [0, c.toNat, b.toNat, a.toNat, h.pred.toNat, h.neg.toNat, h.stall.toNat, 220] :=
    unpackBits_pack [(30, 0), (6, c.toNat), (6, b.toNat), (6, a.toNat), (3, h.pred.toNat), (1, h.neg.toNat), (4, h.stall.toNat), (8, 0xdc)] ⟨by decide, c.isLt, b.isLt, a.isLt, h.pred.isLt, h.neg.isLt, h.stall.isLt, by decide, trivial⟩
  unfold decOpDC
  rw [u]
  show (some (Instr.aucode ⟨BitVec.ofNat 4 h.stall.toNat, BitVec.ofNat 1 h.neg.toNat, BitVec.ofNat 3 h.pred.toNat⟩ (BitVec.ofNat 6 a.toNat) (BitVec.ofNat 6 b.toNat) (BitVec.ofNat 6 c.toNat))) = _
  simp only [BitVec.ofNat_toNat, BitVec.setWidth_eq]
theorem aholdStop (h : Hdr) : Statement (.aholdStop h) := by
  intro _ hw w1
  refine decode_of_raw (w1 := w1) (by show fieldWidth [(48, 0), (3, h.pred.toNat), (1, h.neg.toNat), (4, h.stall.toNat), (8, 0xdd)] = 64; simp only [fieldWidth]) ?_ hw
  rw [show Instr.fields (.aholdStop h) = [(48, 0), (3, h.pred.toNat), (1, h.neg.toNat), (4, h.stall.toNat)] ++ [(8, 0xDD)] from rfl]
  obtain ⟨e1, e2⟩ := nibbles [(48, 0), (3, h.pred.toNat), (1, h.neg.toNat), (4, h.stall.toNat)] 0xDD 13 13 (by simp only [fieldWidth]) rfl rfl
  rw [decodeRaw_hiD _ _ e1, decHiD_D _ _ _ e2]
  have u : unpackBits [48, 3, 1, 4, 8] (packBits ([(48, 0), (3, h.pred.toNat), (1, h.neg.toNat), (4, h.stall.toNat)] ++ [(8, 0xDD)])) = [0, h.pred.toNat, h.neg.toNat, h.stall.toNat, 221] :=
    unpackBits_pack [(48, 0), (3, h.pred.toNat), (1, h.neg.toNat), (4, h.stall.toNat), (8, 0xdd)] ⟨by decide, h.pred.isLt, h.neg.isLt, h.stall.isLt, by decide, trivial⟩
  unfold decOpDD
  rw [u]
  show (some (Instr.aholdStop ⟨BitVec.ofNat 4 h.stall.toNat, BitVec.ofNat 1 h.neg.toNat, BitVec.ofNat 3 h.pred.toNat⟩)) = _
  simp only [BitVec.ofNat_toNat, BitVec.setWidth_eq]
theorem aholdGo (h : Hdr) : Statement (.aholdGo h) := by
  intro _ hw w1
  refine decode_of_raw (w1 := w1) (by show fieldWidth [(48, 16777216), (3, h.pred.toNat), (1, h.neg.toNat), (4, h.stall.toNat), (8, 0xdd)] = 64; simp only [fieldWidth]) ?_ hw
  rw [show Instr.fields (.aholdGo h) = [(48, 16777216), (3, h.pred.toNat), (1, h.neg.toNat), (4, h.stall.toNat)] ++ [(8, 0xDD)] from rfl]
  obtain ⟨e1, e2⟩ := nibbles [(48, 16777216), (3, h.pred.toNat), (1, h.neg.toNat), (4, h.stall.toNat)] 0xDD 13 13 (by simp only [fieldWidth]) rfl rfl
  rw [decodeRaw_hiD _ _ e1, decHiD_D _ _ _ e2]
  have u : unpackBits [48, 3, 1, 4, 8] (packBits ([(48, 16777216), (3, h.pred.toNat), (1, h.neg.toNat), (4, h.stall.toNat)] ++ [(8, 0xDD)])) = [16777216, h.pred.toNat, h.neg.toNat, h.stall.toNat, 221] :=
    unpackBits_pack [(48, 16777216), (3, h.pred.toNat), (1, h.neg.toNat), (4, h.stall.toNat), (8, 0xdd)] ⟨by decide, h.pred.isLt, h.neg.isLt, h.stall.isLt, by decide, trivial⟩
  unfold decOpDD
  rw [u]
  show (some (Instr.aholdGo ⟨BitVec.ofNat 4 h.stall.toNat, BitVec.ofNat 1 h.neg.toNat, BitVec.ofNat 3 h.pred.toNat⟩)) = _
  simp only [BitVec.ofNat_toNat, BitVec.setWidth_eq]
theorem aholdDrop (h : Hdr) : Statement (.aholdDrop h) := by
  intro _ hw w1
  refine decode_of_raw (w1 := w1) (by show fieldWidth [(48, 33554432), (3, h.pred.toNat), (1, h.neg.toNat), (4, h.stall.toNat), (8, 0xdd)] = 64; simp only [fieldWidth]) ?_ hw
  rw [show Instr.fields (.aholdDrop h) = [(48, 33554432), (3, h.pred.toNat), (1, h.neg.toNat), (4, h.stall.toNat)] ++ [(8, 0xDD)] from rfl]
  obtain ⟨e1, e2⟩ := nibbles [(48, 33554432), (3, h.pred.toNat), (1, h.neg.toNat), (4, h.stall.toNat)] 0xDD 13 13 (by simp only [fieldWidth]) rfl rfl
  rw [decodeRaw_hiD _ _ e1, decHiD_D _ _ _ e2]
  have u : unpackBits [48, 3, 1, 4, 8] (packBits ([(48, 33554432), (3, h.pred.toNat), (1, h.neg.toNat), (4, h.stall.toNat)] ++ [(8, 0xDD)])) = [33554432, h.pred.toNat, h.neg.toNat, h.stall.toNat, 221] :=
    unpackBits_pack [(48, 33554432), (3, h.pred.toNat), (1, h.neg.toNat), (4, h.stall.toNat), (8, 0xdd)] ⟨by decide, h.pred.isLt, h.neg.isLt, h.stall.isLt, by decide, trivial⟩
  unfold decOpDD
  rw [u]
  show (some (Instr.aholdDrop ⟨BitVec.ofNat 4 h.stall.toNat, BitVec.ofNat 1 h.neg.toNat, BitVec.ofNat 3 h.pred.toNat⟩)) = _
  simp only [BitVec.ofNat_toNat, BitVec.setWidth_eq]
theorem aestatState (h : Hdr) (d : BitVec 6) : Statement (.aestatState h d) := by
  intro _ hw w1
  refine decode_of_raw (w1 := w1) (by show fieldWidth [(42, 0), (6, d.toNat), (3, h.pred.toNat), (1, h.neg.toNat), (4, h.stall.toNat), (8, 0xde)] = 64; simp only [fieldWidth]) ?_ hw
  rw [show Instr.fields (.aestatState h d) = [(42, 0), (6, d.toNat), (3, h.pred.toNat), (1, h.neg.toNat), (4, h.stall.toNat)] ++ [(8, 0xDE)] from rfl]
  obtain ⟨e1, e2⟩ := nibbles [(42, 0), (6, d.toNat), (3, h.pred.toNat), (1, h.neg.toNat), (4, h.stall.toNat)] 0xDE 13 14 (by simp only [fieldWidth]) rfl rfl
  rw [decodeRaw_hiD _ _ e1, decHiD_E _ _ _ e2]
  have u : unpackBits [42, 6, 3, 1, 4, 8] (packBits ([(42, 0), (6, d.toNat), (3, h.pred.toNat), (1, h.neg.toNat), (4, h.stall.toNat)] ++ [(8, 0xDE)])) = [0, d.toNat, h.pred.toNat, h.neg.toNat, h.stall.toNat, 222] :=
    unpackBits_pack [(42, 0), (6, d.toNat), (3, h.pred.toNat), (1, h.neg.toNat), (4, h.stall.toNat), (8, 0xde)] ⟨by decide, d.isLt, h.pred.isLt, h.neg.isLt, h.stall.isLt, by decide, trivial⟩
  unfold decOpDE
  rw [u]
  show (some (Instr.aestatState ⟨BitVec.ofNat 4 h.stall.toNat, BitVec.ofNat 1 h.neg.toNat, BitVec.ofNat 3 h.pred.toNat⟩ (BitVec.ofNat 6 d.toNat))) = _
  simp only [BitVec.ofNat_toNat, BitVec.setWidth_eq]
theorem aestatAddr (h : Hdr) (d : BitVec 6) : Statement (.aestatAddr h d) := by
  intro _ hw w1
  refine decode_of_raw (w1 := w1) (by show fieldWidth [(42, 16777216), (6, d.toNat), (3, h.pred.toNat), (1, h.neg.toNat), (4, h.stall.toNat), (8, 0xde)] = 64; simp only [fieldWidth]) ?_ hw
  rw [show Instr.fields (.aestatAddr h d) = [(42, 16777216), (6, d.toNat), (3, h.pred.toNat), (1, h.neg.toNat), (4, h.stall.toNat)] ++ [(8, 0xDE)] from rfl]
  obtain ⟨e1, e2⟩ := nibbles [(42, 16777216), (6, d.toNat), (3, h.pred.toNat), (1, h.neg.toNat), (4, h.stall.toNat)] 0xDE 13 14 (by simp only [fieldWidth]) rfl rfl
  rw [decodeRaw_hiD _ _ e1, decHiD_E _ _ _ e2]
  have u : unpackBits [42, 6, 3, 1, 4, 8] (packBits ([(42, 16777216), (6, d.toNat), (3, h.pred.toNat), (1, h.neg.toNat), (4, h.stall.toNat)] ++ [(8, 0xDE)])) = [16777216, d.toNat, h.pred.toNat, h.neg.toNat, h.stall.toNat, 222] :=
    unpackBits_pack [(42, 16777216), (6, d.toNat), (3, h.pred.toNat), (1, h.neg.toNat), (4, h.stall.toNat), (8, 0xde)] ⟨by decide, d.isLt, h.pred.isLt, h.neg.isLt, h.stall.isLt, by decide, trivial⟩
  unfold decOpDE
  rw [u]
  show (some (Instr.aestatAddr ⟨BitVec.ofNat 4 h.stall.toNat, BitVec.ofNat 1 h.neg.toNat, BitVec.ofNat 3 h.pred.toNat⟩ (BitVec.ofNat 6 d.toNat))) = _
  simp only [BitVec.ofNat_toNat, BitVec.setWidth_eq]
theorem aestatDetail (h : Hdr) (d : BitVec 6) : Statement (.aestatDetail h d) := by
  intro _ hw w1
  refine decode_of_raw (w1 := w1) (by show fieldWidth [(42, 33554432), (6, d.toNat), (3, h.pred.toNat), (1, h.neg.toNat), (4, h.stall.toNat), (8, 0xde)] = 64; simp only [fieldWidth]) ?_ hw
  rw [show Instr.fields (.aestatDetail h d) = [(42, 33554432), (6, d.toNat), (3, h.pred.toNat), (1, h.neg.toNat), (4, h.stall.toNat)] ++ [(8, 0xDE)] from rfl]
  obtain ⟨e1, e2⟩ := nibbles [(42, 33554432), (6, d.toNat), (3, h.pred.toNat), (1, h.neg.toNat), (4, h.stall.toNat)] 0xDE 13 14 (by simp only [fieldWidth]) rfl rfl
  rw [decodeRaw_hiD _ _ e1, decHiD_E _ _ _ e2]
  have u : unpackBits [42, 6, 3, 1, 4, 8] (packBits ([(42, 33554432), (6, d.toNat), (3, h.pred.toNat), (1, h.neg.toNat), (4, h.stall.toNat)] ++ [(8, 0xDE)])) = [33554432, d.toNat, h.pred.toNat, h.neg.toNat, h.stall.toNat, 222] :=
    unpackBits_pack [(42, 33554432), (6, d.toNat), (3, h.pred.toNat), (1, h.neg.toNat), (4, h.stall.toNat), (8, 0xde)] ⟨by decide, d.isLt, h.pred.isLt, h.neg.isLt, h.stall.isLt, by decide, trivial⟩
  unfold decOpDE
  rw [u]
  show (some (Instr.aestatDetail ⟨BitVec.ofNat 4 h.stall.toNat, BitVec.ofNat 1 h.neg.toNat, BitVec.ofNat 3 h.pred.toNat⟩ (BitVec.ofNat 6 d.toNat))) = _
  simp only [BitVec.ofNat_toNat, BitVec.setWidth_eq]
theorem aestatPass (h : Hdr) (d : BitVec 6) : Statement (.aestatPass h d) := by
  intro _ hw w1
  refine decode_of_raw (w1 := w1) (by show fieldWidth [(42, 50331648), (6, d.toNat), (3, h.pred.toNat), (1, h.neg.toNat), (4, h.stall.toNat), (8, 0xde)] = 64; simp only [fieldWidth]) ?_ hw
  rw [show Instr.fields (.aestatPass h d) = [(42, 50331648), (6, d.toNat), (3, h.pred.toNat), (1, h.neg.toNat), (4, h.stall.toNat)] ++ [(8, 0xDE)] from rfl]
  obtain ⟨e1, e2⟩ := nibbles [(42, 50331648), (6, d.toNat), (3, h.pred.toNat), (1, h.neg.toNat), (4, h.stall.toNat)] 0xDE 13 14 (by simp only [fieldWidth]) rfl rfl
  rw [decodeRaw_hiD _ _ e1, decHiD_E _ _ _ e2]
  have u : unpackBits [42, 6, 3, 1, 4, 8] (packBits ([(42, 50331648), (6, d.toNat), (3, h.pred.toNat), (1, h.neg.toNat), (4, h.stall.toNat)] ++ [(8, 0xDE)])) = [50331648, d.toNat, h.pred.toNat, h.neg.toNat, h.stall.toNat, 222] :=
    unpackBits_pack [(42, 50331648), (6, d.toNat), (3, h.pred.toNat), (1, h.neg.toNat), (4, h.stall.toNat), (8, 0xde)] ⟨by decide, d.isLt, h.pred.isLt, h.neg.isLt, h.stall.isLt, by decide, trivial⟩
  unfold decOpDE
  rw [u]
  show (some (Instr.aestatPass ⟨BitVec.ofNat 4 h.stall.toNat, BitVec.ofNat 1 h.neg.toNat, BitVec.ofNat 3 h.pred.toNat⟩ (BitVec.ofNat 6 d.toNat))) = _
  simp only [BitVec.ofNat_toNat, BitVec.setWidth_eq]
theorem await (h : Hdr) : Statement (.await h) := by
  intro _ hw w1
  refine decode_of_raw (w1 := w1) (by show fieldWidth [(48, 0), (3, h.pred.toNat), (1, h.neg.toNat), (4, h.stall.toNat), (8, 0xdf)] = 64; simp only [fieldWidth]) ?_ hw
  rw [show Instr.fields (.await h) = [(48, 0), (3, h.pred.toNat), (1, h.neg.toNat), (4, h.stall.toNat)] ++ [(8, 0xDF)] from rfl]
  obtain ⟨e1, e2⟩ := nibbles [(48, 0), (3, h.pred.toNat), (1, h.neg.toNat), (4, h.stall.toNat)] 0xDF 13 15 (by simp only [fieldWidth]) rfl rfl
  rw [decodeRaw_hiD _ _ e1, decHiD_F _ _ _ e2]
  have u : unpackBits [48, 3, 1, 4, 8] (packBits ([(48, 0), (3, h.pred.toNat), (1, h.neg.toNat), (4, h.stall.toNat)] ++ [(8, 0xDF)])) = [0, h.pred.toNat, h.neg.toNat, h.stall.toNat, 223] :=
    unpackBits_pack [(48, 0), (3, h.pred.toNat), (1, h.neg.toNat), (4, h.stall.toNat), (8, 0xdf)] ⟨by decide, h.pred.isLt, h.neg.isLt, h.stall.isLt, by decide, trivial⟩
  unfold decOpDF
  rw [u]
  show (some (Instr.await ⟨BitVec.ofNat 4 h.stall.toNat, BitVec.ofNat 1 h.neg.toNat, BitVec.ofNat 3 h.pred.toNat⟩)) = _
  simp only [BitVec.ofNat_toNat, BitVec.setWidth_eq]
theorem spcfg (h : Hdr) (a b : BitVec 6) : Statement (.spcfg h a b) := by
  intro _ hw w1
  refine decode_of_raw (w1 := w1) (by show fieldWidth [(36, 0), (6, b.toNat), (6, a.toNat), (3, h.pred.toNat), (1, h.neg.toNat), (4, h.stall.toNat), (8, 0xe0)] = 64; simp only [fieldWidth]) ?_ hw
  rw [show Instr.fields (.spcfg h a b) = [(36, 0), (6, b.toNat), (6, a.toNat), (3, h.pred.toNat), (1, h.neg.toNat), (4, h.stall.toNat)] ++ [(8, 0xE0)] from rfl]
  obtain ⟨e1, e2⟩ := nibbles [(36, 0), (6, b.toNat), (6, a.toNat), (3, h.pred.toNat), (1, h.neg.toNat), (4, h.stall.toNat)] 0xE0 14 0 (by simp only [fieldWidth]) rfl rfl
  rw [decodeRaw_hiE _ _ e1, decHiE_0 _ _ _ e2]
  have u : unpackBits [36, 6, 6, 3, 1, 4, 8] (packBits ([(36, 0), (6, b.toNat), (6, a.toNat), (3, h.pred.toNat), (1, h.neg.toNat), (4, h.stall.toNat)] ++ [(8, 0xE0)])) = [0, b.toNat, a.toNat, h.pred.toNat, h.neg.toNat, h.stall.toNat, 224] :=
    unpackBits_pack [(36, 0), (6, b.toNat), (6, a.toNat), (3, h.pred.toNat), (1, h.neg.toNat), (4, h.stall.toNat), (8, 0xe0)] ⟨by decide, b.isLt, a.isLt, h.pred.isLt, h.neg.isLt, h.stall.isLt, by decide, trivial⟩
  unfold decOpE0
  rw [u]
  show (some (Instr.spcfg ⟨BitVec.ofNat 4 h.stall.toNat, BitVec.ofNat 1 h.neg.toNat, BitVec.ofNat 3 h.pred.toNat⟩ (BitVec.ofNat 6 a.toNat) (BitVec.ofNat 6 b.toNat))) = _
  simp only [BitVec.ofNat_toNat, BitVec.setWidth_eq]
theorem spld (h : Hdr) (a b c : BitVec 6) : Statement (.spld h a b c) := by
  intro _ hw w1
  refine decode_of_raw (w1 := w1) (by show fieldWidth [(30, 0), (6, c.toNat), (6, b.toNat), (6, a.toNat), (3, h.pred.toNat), (1, h.neg.toNat), (4, h.stall.toNat), (8, 0xe1)] = 64; simp only [fieldWidth]) ?_ hw
  rw [show Instr.fields (.spld h a b c) = [(30, 0), (6, c.toNat), (6, b.toNat), (6, a.toNat), (3, h.pred.toNat), (1, h.neg.toNat), (4, h.stall.toNat)] ++ [(8, 0xE1)] from rfl]
  obtain ⟨e1, e2⟩ := nibbles [(30, 0), (6, c.toNat), (6, b.toNat), (6, a.toNat), (3, h.pred.toNat), (1, h.neg.toNat), (4, h.stall.toNat)] 0xE1 14 1 (by simp only [fieldWidth]) rfl rfl
  rw [decodeRaw_hiE _ _ e1, decHiE_1 _ _ _ e2]
  have u : unpackBits [30, 6, 6, 6, 3, 1, 4, 8] (packBits ([(30, 0), (6, c.toNat), (6, b.toNat), (6, a.toNat), (3, h.pred.toNat), (1, h.neg.toNat), (4, h.stall.toNat)] ++ [(8, 0xE1)])) = [0, c.toNat, b.toNat, a.toNat, h.pred.toNat, h.neg.toNat, h.stall.toNat, 225] :=
    unpackBits_pack [(30, 0), (6, c.toNat), (6, b.toNat), (6, a.toNat), (3, h.pred.toNat), (1, h.neg.toNat), (4, h.stall.toNat), (8, 0xe1)] ⟨by decide, c.isLt, b.isLt, a.isLt, h.pred.isLt, h.neg.isLt, h.stall.isLt, by decide, trivial⟩
  unfold decOpE1
  rw [u]
  show (some (Instr.spld ⟨BitVec.ofNat 4 h.stall.toNat, BitVec.ofNat 1 h.neg.toNat, BitVec.ofNat 3 h.pred.toNat⟩ (BitVec.ofNat 6 a.toNat) (BitVec.ofNat 6 b.toNat) (BitVec.ofNat 6 c.toNat))) = _
  simp only [BitVec.ofNat_toNat, BitVec.setWidth_eq]
theorem spst (h : Hdr) (a b c : BitVec 6) : Statement (.spst h a b c) := by
  intro _ hw w1
  refine decode_of_raw (w1 := w1) (by show fieldWidth [(30, 0), (6, c.toNat), (6, b.toNat), (6, a.toNat), (3, h.pred.toNat), (1, h.neg.toNat), (4, h.stall.toNat), (8, 0xe2)] = 64; simp only [fieldWidth]) ?_ hw
  rw [show Instr.fields (.spst h a b c) = [(30, 0), (6, c.toNat), (6, b.toNat), (6, a.toNat), (3, h.pred.toNat), (1, h.neg.toNat), (4, h.stall.toNat)] ++ [(8, 0xE2)] from rfl]
  obtain ⟨e1, e2⟩ := nibbles [(30, 0), (6, c.toNat), (6, b.toNat), (6, a.toNat), (3, h.pred.toNat), (1, h.neg.toNat), (4, h.stall.toNat)] 0xE2 14 2 (by simp only [fieldWidth]) rfl rfl
  rw [decodeRaw_hiE _ _ e1, decHiE_2 _ _ _ e2]
  have u : unpackBits [30, 6, 6, 6, 3, 1, 4, 8] (packBits ([(30, 0), (6, c.toNat), (6, b.toNat), (6, a.toNat), (3, h.pred.toNat), (1, h.neg.toNat), (4, h.stall.toNat)] ++ [(8, 0xE2)])) = [0, c.toNat, b.toNat, a.toNat, h.pred.toNat, h.neg.toNat, h.stall.toNat, 226] :=
    unpackBits_pack [(30, 0), (6, c.toNat), (6, b.toNat), (6, a.toNat), (3, h.pred.toNat), (1, h.neg.toNat), (4, h.stall.toNat), (8, 0xe2)] ⟨by decide, c.isLt, b.isLt, a.isLt, h.pred.isLt, h.neg.isLt, h.stall.isLt, by decide, trivial⟩
  unfold decOpE2
  rw [u]
  show (some (Instr.spst ⟨BitVec.ofNat 4 h.stall.toNat, BitVec.ofNat 1 h.neg.toNat, BitVec.ofNat 3 h.pred.toNat⟩ (BitVec.ofNat 6 a.toNat) (BitVec.ofNat 6 b.toNat) (BitVec.ofNat 6 c.toNat))) = _
  simp only [BitVec.ofNat_toNat, BitVec.setWidth_eq]
theorem spamoAdd (h : Hdr) (a b c : BitVec 6) (ty : BitVec 2) : Statement (.spamoAdd h a b c ty) := by
  intro _ hw w1
  refine decode_of_raw (w1 := w1) (by show fieldWidth [(26, 0), (2, ty.toNat), (2, 0), (6, c.toNat), (6, b.toNat), (6, a.toNat), (3, h.pred.toNat), (1, h.neg.toNat), (4, h.stall.toNat), (8, 0xe3)] = 64; simp only [fieldWidth]) ?_ hw
  rw [show Instr.fields (.spamoAdd h a b c ty) = [(26, 0), (2, ty.toNat), (2, 0), (6, c.toNat), (6, b.toNat), (6, a.toNat), (3, h.pred.toNat), (1, h.neg.toNat), (4, h.stall.toNat)] ++ [(8, 0xE3)] from rfl]
  obtain ⟨e1, e2⟩ := nibbles [(26, 0), (2, ty.toNat), (2, 0), (6, c.toNat), (6, b.toNat), (6, a.toNat), (3, h.pred.toNat), (1, h.neg.toNat), (4, h.stall.toNat)] 0xE3 14 3 (by simp only [fieldWidth]) rfl rfl
  rw [decodeRaw_hiE _ _ e1, decHiE_3 _ _ _ e2]
  have u : unpackBits [26, 2, 2, 6, 6, 6, 3, 1, 4, 8] (packBits ([(26, 0), (2, ty.toNat), (2, 0), (6, c.toNat), (6, b.toNat), (6, a.toNat), (3, h.pred.toNat), (1, h.neg.toNat), (4, h.stall.toNat)] ++ [(8, 0xE3)])) = [0, ty.toNat, 0, c.toNat, b.toNat, a.toNat, h.pred.toNat, h.neg.toNat, h.stall.toNat, 227] :=
    unpackBits_pack [(26, 0), (2, ty.toNat), (2, 0), (6, c.toNat), (6, b.toNat), (6, a.toNat), (3, h.pred.toNat), (1, h.neg.toNat), (4, h.stall.toNat), (8, 0xe3)] ⟨by decide, ty.isLt, by decide, c.isLt, b.isLt, a.isLt, h.pred.isLt, h.neg.isLt, h.stall.isLt, by decide, trivial⟩
  unfold decOpE3
  rw [u]
  show (some (Instr.spamoAdd ⟨BitVec.ofNat 4 h.stall.toNat, BitVec.ofNat 1 h.neg.toNat, BitVec.ofNat 3 h.pred.toNat⟩ (BitVec.ofNat 6 a.toNat) (BitVec.ofNat 6 b.toNat) (BitVec.ofNat 6 c.toNat) (BitVec.ofNat 2 ty.toNat))) = _
  simp only [BitVec.ofNat_toNat, BitVec.setWidth_eq]
theorem spamoMin (h : Hdr) (a b c : BitVec 6) (ty : BitVec 2) : Statement (.spamoMin h a b c ty) := by
  intro _ hw w1
  refine decode_of_raw (w1 := w1) (by show fieldWidth [(26, 16777216), (2, ty.toNat), (2, 0), (6, c.toNat), (6, b.toNat), (6, a.toNat), (3, h.pred.toNat), (1, h.neg.toNat), (4, h.stall.toNat), (8, 0xe3)] = 64; simp only [fieldWidth]) ?_ hw
  rw [show Instr.fields (.spamoMin h a b c ty) = [(26, 16777216), (2, ty.toNat), (2, 0), (6, c.toNat), (6, b.toNat), (6, a.toNat), (3, h.pred.toNat), (1, h.neg.toNat), (4, h.stall.toNat)] ++ [(8, 0xE3)] from rfl]
  obtain ⟨e1, e2⟩ := nibbles [(26, 16777216), (2, ty.toNat), (2, 0), (6, c.toNat), (6, b.toNat), (6, a.toNat), (3, h.pred.toNat), (1, h.neg.toNat), (4, h.stall.toNat)] 0xE3 14 3 (by simp only [fieldWidth]) rfl rfl
  rw [decodeRaw_hiE _ _ e1, decHiE_3 _ _ _ e2]
  have u : unpackBits [26, 2, 2, 6, 6, 6, 3, 1, 4, 8] (packBits ([(26, 16777216), (2, ty.toNat), (2, 0), (6, c.toNat), (6, b.toNat), (6, a.toNat), (3, h.pred.toNat), (1, h.neg.toNat), (4, h.stall.toNat)] ++ [(8, 0xE3)])) = [16777216, ty.toNat, 0, c.toNat, b.toNat, a.toNat, h.pred.toNat, h.neg.toNat, h.stall.toNat, 227] :=
    unpackBits_pack [(26, 16777216), (2, ty.toNat), (2, 0), (6, c.toNat), (6, b.toNat), (6, a.toNat), (3, h.pred.toNat), (1, h.neg.toNat), (4, h.stall.toNat), (8, 0xe3)] ⟨by decide, ty.isLt, by decide, c.isLt, b.isLt, a.isLt, h.pred.isLt, h.neg.isLt, h.stall.isLt, by decide, trivial⟩
  unfold decOpE3
  rw [u]
  show (some (Instr.spamoMin ⟨BitVec.ofNat 4 h.stall.toNat, BitVec.ofNat 1 h.neg.toNat, BitVec.ofNat 3 h.pred.toNat⟩ (BitVec.ofNat 6 a.toNat) (BitVec.ofNat 6 b.toNat) (BitVec.ofNat 6 c.toNat) (BitVec.ofNat 2 ty.toNat))) = _
  simp only [BitVec.ofNat_toNat, BitVec.setWidth_eq]
theorem spamoMax (h : Hdr) (a b c : BitVec 6) (ty : BitVec 2) : Statement (.spamoMax h a b c ty) := by
  intro _ hw w1
  refine decode_of_raw (w1 := w1) (by show fieldWidth [(26, 33554432), (2, ty.toNat), (2, 0), (6, c.toNat), (6, b.toNat), (6, a.toNat), (3, h.pred.toNat), (1, h.neg.toNat), (4, h.stall.toNat), (8, 0xe3)] = 64; simp only [fieldWidth]) ?_ hw
  rw [show Instr.fields (.spamoMax h a b c ty) = [(26, 33554432), (2, ty.toNat), (2, 0), (6, c.toNat), (6, b.toNat), (6, a.toNat), (3, h.pred.toNat), (1, h.neg.toNat), (4, h.stall.toNat)] ++ [(8, 0xE3)] from rfl]
  obtain ⟨e1, e2⟩ := nibbles [(26, 33554432), (2, ty.toNat), (2, 0), (6, c.toNat), (6, b.toNat), (6, a.toNat), (3, h.pred.toNat), (1, h.neg.toNat), (4, h.stall.toNat)] 0xE3 14 3 (by simp only [fieldWidth]) rfl rfl
  rw [decodeRaw_hiE _ _ e1, decHiE_3 _ _ _ e2]
  have u : unpackBits [26, 2, 2, 6, 6, 6, 3, 1, 4, 8] (packBits ([(26, 33554432), (2, ty.toNat), (2, 0), (6, c.toNat), (6, b.toNat), (6, a.toNat), (3, h.pred.toNat), (1, h.neg.toNat), (4, h.stall.toNat)] ++ [(8, 0xE3)])) = [33554432, ty.toNat, 0, c.toNat, b.toNat, a.toNat, h.pred.toNat, h.neg.toNat, h.stall.toNat, 227] :=
    unpackBits_pack [(26, 33554432), (2, ty.toNat), (2, 0), (6, c.toNat), (6, b.toNat), (6, a.toNat), (3, h.pred.toNat), (1, h.neg.toNat), (4, h.stall.toNat), (8, 0xe3)] ⟨by decide, ty.isLt, by decide, c.isLt, b.isLt, a.isLt, h.pred.isLt, h.neg.isLt, h.stall.isLt, by decide, trivial⟩
  unfold decOpE3
  rw [u]
  show (some (Instr.spamoMax ⟨BitVec.ofNat 4 h.stall.toNat, BitVec.ofNat 1 h.neg.toNat, BitVec.ofNat 3 h.pred.toNat⟩ (BitVec.ofNat 6 a.toNat) (BitVec.ofNat 6 b.toNat) (BitVec.ofNat 6 c.toNat) (BitVec.ofNat 2 ty.toNat))) = _
  simp only [BitVec.ofNat_toNat, BitVec.setWidth_eq]
theorem spamoSwap (h : Hdr) (a b c : BitVec 6) (ty : BitVec 2) : Statement (.spamoSwap h a b c ty) := by
  intro _ hw w1
  refine decode_of_raw (w1 := w1) (by show fieldWidth [(26, 50331648), (2, ty.toNat), (2, 0), (6, c.toNat), (6, b.toNat), (6, a.toNat), (3, h.pred.toNat), (1, h.neg.toNat), (4, h.stall.toNat), (8, 0xe3)] = 64; simp only [fieldWidth]) ?_ hw
  rw [show Instr.fields (.spamoSwap h a b c ty) = [(26, 50331648), (2, ty.toNat), (2, 0), (6, c.toNat), (6, b.toNat), (6, a.toNat), (3, h.pred.toNat), (1, h.neg.toNat), (4, h.stall.toNat)] ++ [(8, 0xE3)] from rfl]
  obtain ⟨e1, e2⟩ := nibbles [(26, 50331648), (2, ty.toNat), (2, 0), (6, c.toNat), (6, b.toNat), (6, a.toNat), (3, h.pred.toNat), (1, h.neg.toNat), (4, h.stall.toNat)] 0xE3 14 3 (by simp only [fieldWidth]) rfl rfl
  rw [decodeRaw_hiE _ _ e1, decHiE_3 _ _ _ e2]
  have u : unpackBits [26, 2, 2, 6, 6, 6, 3, 1, 4, 8] (packBits ([(26, 50331648), (2, ty.toNat), (2, 0), (6, c.toNat), (6, b.toNat), (6, a.toNat), (3, h.pred.toNat), (1, h.neg.toNat), (4, h.stall.toNat)] ++ [(8, 0xE3)])) = [50331648, ty.toNat, 0, c.toNat, b.toNat, a.toNat, h.pred.toNat, h.neg.toNat, h.stall.toNat, 227] :=
    unpackBits_pack [(26, 50331648), (2, ty.toNat), (2, 0), (6, c.toNat), (6, b.toNat), (6, a.toNat), (3, h.pred.toNat), (1, h.neg.toNat), (4, h.stall.toNat), (8, 0xe3)] ⟨by decide, ty.isLt, by decide, c.isLt, b.isLt, a.isLt, h.pred.isLt, h.neg.isLt, h.stall.isLt, by decide, trivial⟩
  unfold decOpE3
  rw [u]
  show (some (Instr.spamoSwap ⟨BitVec.ofNat 4 h.stall.toNat, BitVec.ofNat 1 h.neg.toNat, BitVec.ofNat 3 h.pred.toNat⟩ (BitVec.ofNat 6 a.toNat) (BitVec.ofNat 6 b.toNat) (BitVec.ofNat 6 c.toNat) (BitVec.ofNat 2 ty.toNat))) = _
  simp only [BitVec.ofNat_toNat, BitVec.setWidth_eq]
theorem spnextGt (h : Hdr) (a b c : BitVec 6) : Statement (.spnextGt h a b c) := by
  intro _ hw w1
  refine decode_of_raw (w1 := w1) (by show fieldWidth [(30, 0), (6, c.toNat), (6, b.toNat), (6, a.toNat), (3, h.pred.toNat), (1, h.neg.toNat), (4, h.stall.toNat), (8, 0xe4)] = 64; simp only [fieldWidth]) ?_ hw
  rw [show Instr.fields (.spnextGt h a b c) = [(30, 0), (6, c.toNat), (6, b.toNat), (6, a.toNat), (3, h.pred.toNat), (1, h.neg.toNat), (4, h.stall.toNat)] ++ [(8, 0xE4)] from rfl]
  obtain ⟨e1, e2⟩ := nibbles [(30, 0), (6, c.toNat), (6, b.toNat), (6, a.toNat), (3, h.pred.toNat), (1, h.neg.toNat), (4, h.stall.toNat)] 0xE4 14 4 (by simp only [fieldWidth]) rfl rfl
  rw [decodeRaw_hiE _ _ e1, decHiE_4 _ _ _ e2]
  have u : unpackBits [30, 6, 6, 6, 3, 1, 4, 8] (packBits ([(30, 0), (6, c.toNat), (6, b.toNat), (6, a.toNat), (3, h.pred.toNat), (1, h.neg.toNat), (4, h.stall.toNat)] ++ [(8, 0xE4)])) = [0, c.toNat, b.toNat, a.toNat, h.pred.toNat, h.neg.toNat, h.stall.toNat, 228] :=
    unpackBits_pack [(30, 0), (6, c.toNat), (6, b.toNat), (6, a.toNat), (3, h.pred.toNat), (1, h.neg.toNat), (4, h.stall.toNat), (8, 0xe4)] ⟨by decide, c.isLt, b.isLt, a.isLt, h.pred.isLt, h.neg.isLt, h.stall.isLt, by decide, trivial⟩
  unfold decOpE4
  rw [u]
  show (some (Instr.spnextGt ⟨BitVec.ofNat 4 h.stall.toNat, BitVec.ofNat 1 h.neg.toNat, BitVec.ofNat 3 h.pred.toNat⟩ (BitVec.ofNat 6 a.toNat) (BitVec.ofNat 6 b.toNat) (BitVec.ofNat 6 c.toNat))) = _
  simp only [BitVec.ofNat_toNat, BitVec.setWidth_eq]
theorem spnextGe (h : Hdr) (a b c : BitVec 6) : Statement (.spnextGe h a b c) := by
  intro _ hw w1
  refine decode_of_raw (w1 := w1) (by show fieldWidth [(30, 16777216), (6, c.toNat), (6, b.toNat), (6, a.toNat), (3, h.pred.toNat), (1, h.neg.toNat), (4, h.stall.toNat), (8, 0xe4)] = 64; simp only [fieldWidth]) ?_ hw
  rw [show Instr.fields (.spnextGe h a b c) = [(30, 16777216), (6, c.toNat), (6, b.toNat), (6, a.toNat), (3, h.pred.toNat), (1, h.neg.toNat), (4, h.stall.toNat)] ++ [(8, 0xE4)] from rfl]
  obtain ⟨e1, e2⟩ := nibbles [(30, 16777216), (6, c.toNat), (6, b.toNat), (6, a.toNat), (3, h.pred.toNat), (1, h.neg.toNat), (4, h.stall.toNat)] 0xE4 14 4 (by simp only [fieldWidth]) rfl rfl
  rw [decodeRaw_hiE _ _ e1, decHiE_4 _ _ _ e2]
  have u : unpackBits [30, 6, 6, 6, 3, 1, 4, 8] (packBits ([(30, 16777216), (6, c.toNat), (6, b.toNat), (6, a.toNat), (3, h.pred.toNat), (1, h.neg.toNat), (4, h.stall.toNat)] ++ [(8, 0xE4)])) = [16777216, c.toNat, b.toNat, a.toNat, h.pred.toNat, h.neg.toNat, h.stall.toNat, 228] :=
    unpackBits_pack [(30, 16777216), (6, c.toNat), (6, b.toNat), (6, a.toNat), (3, h.pred.toNat), (1, h.neg.toNat), (4, h.stall.toNat), (8, 0xe4)] ⟨by decide, c.isLt, b.isLt, a.isLt, h.pred.isLt, h.neg.isLt, h.stall.isLt, by decide, trivial⟩
  unfold decOpE4
  rw [u]
  show (some (Instr.spnextGe ⟨BitVec.ofNat 4 h.stall.toNat, BitVec.ofNat 1 h.neg.toNat, BitVec.ofNat 3 h.pred.toNat⟩ (BitVec.ofNat 6 a.toNat) (BitVec.ofNat 6 b.toNat) (BitVec.ofNat 6 c.toNat))) = _
  simp only [BitVec.ofNat_toNat, BitVec.setWidth_eq]
theorem spprevLt (h : Hdr) (a b c : BitVec 6) : Statement (.spprevLt h a b c) := by
  intro _ hw w1
  refine decode_of_raw (w1 := w1) (by show fieldWidth [(30, 0), (6, c.toNat), (6, b.toNat), (6, a.toNat), (3, h.pred.toNat), (1, h.neg.toNat), (4, h.stall.toNat), (8, 0xe5)] = 64; simp only [fieldWidth]) ?_ hw
  rw [show Instr.fields (.spprevLt h a b c) = [(30, 0), (6, c.toNat), (6, b.toNat), (6, a.toNat), (3, h.pred.toNat), (1, h.neg.toNat), (4, h.stall.toNat)] ++ [(8, 0xE5)] from rfl]
  obtain ⟨e1, e2⟩ := nibbles [(30, 0), (6, c.toNat), (6, b.toNat), (6, a.toNat), (3, h.pred.toNat), (1, h.neg.toNat), (4, h.stall.toNat)] 0xE5 14 5 (by simp only [fieldWidth]) rfl rfl
  rw [decodeRaw_hiE _ _ e1, decHiE_5 _ _ _ e2]
  have u : unpackBits [30, 6, 6, 6, 3, 1, 4, 8] (packBits ([(30, 0), (6, c.toNat), (6, b.toNat), (6, a.toNat), (3, h.pred.toNat), (1, h.neg.toNat), (4, h.stall.toNat)] ++ [(8, 0xE5)])) = [0, c.toNat, b.toNat, a.toNat, h.pred.toNat, h.neg.toNat, h.stall.toNat, 229] :=
    unpackBits_pack [(30, 0), (6, c.toNat), (6, b.toNat), (6, a.toNat), (3, h.pred.toNat), (1, h.neg.toNat), (4, h.stall.toNat), (8, 0xe5)] ⟨by decide, c.isLt, b.isLt, a.isLt, h.pred.isLt, h.neg.isLt, h.stall.isLt, by decide, trivial⟩
  unfold decOpE5
  rw [u]
  show (some (Instr.spprevLt ⟨BitVec.ofNat 4 h.stall.toNat, BitVec.ofNat 1 h.neg.toNat, BitVec.ofNat 3 h.pred.toNat⟩ (BitVec.ofNat 6 a.toNat) (BitVec.ofNat 6 b.toNat) (BitVec.ofNat 6 c.toNat))) = _
  simp only [BitVec.ofNat_toNat, BitVec.setWidth_eq]
theorem spprevLe (h : Hdr) (a b c : BitVec 6) : Statement (.spprevLe h a b c) := by
  intro _ hw w1
  refine decode_of_raw (w1 := w1) (by show fieldWidth [(30, 16777216), (6, c.toNat), (6, b.toNat), (6, a.toNat), (3, h.pred.toNat), (1, h.neg.toNat), (4, h.stall.toNat), (8, 0xe5)] = 64; simp only [fieldWidth]) ?_ hw
  rw [show Instr.fields (.spprevLe h a b c) = [(30, 16777216), (6, c.toNat), (6, b.toNat), (6, a.toNat), (3, h.pred.toNat), (1, h.neg.toNat), (4, h.stall.toNat)] ++ [(8, 0xE5)] from rfl]
  obtain ⟨e1, e2⟩ := nibbles [(30, 16777216), (6, c.toNat), (6, b.toNat), (6, a.toNat), (3, h.pred.toNat), (1, h.neg.toNat), (4, h.stall.toNat)] 0xE5 14 5 (by simp only [fieldWidth]) rfl rfl
  rw [decodeRaw_hiE _ _ e1, decHiE_5 _ _ _ e2]
  have u : unpackBits [30, 6, 6, 6, 3, 1, 4, 8] (packBits ([(30, 16777216), (6, c.toNat), (6, b.toNat), (6, a.toNat), (3, h.pred.toNat), (1, h.neg.toNat), (4, h.stall.toNat)] ++ [(8, 0xE5)])) = [16777216, c.toNat, b.toNat, a.toNat, h.pred.toNat, h.neg.toNat, h.stall.toNat, 229] :=
    unpackBits_pack [(30, 16777216), (6, c.toNat), (6, b.toNat), (6, a.toNat), (3, h.pred.toNat), (1, h.neg.toNat), (4, h.stall.toNat), (8, 0xe5)] ⟨by decide, c.isLt, b.isLt, a.isLt, h.pred.isLt, h.neg.isLt, h.stall.isLt, by decide, trivial⟩
  unfold decOpE5
  rw [u]
  show (some (Instr.spprevLe ⟨BitVec.ofNat 4 h.stall.toNat, BitVec.ofNat 1 h.neg.toNat, BitVec.ofNat 3 h.pred.toNat⟩ (BitVec.ofNat 6 a.toNat) (BitVec.ofNat 6 b.toNat) (BitVec.ofNat 6 c.toNat))) = _
  simp only [BitVec.ofNat_toNat, BitVec.setWidth_eq]
theorem spcnt (h : Hdr) (a b c : BitVec 6) : Statement (.spcnt h a b c) := by
  intro _ hw w1
  refine decode_of_raw (w1 := w1) (by show fieldWidth [(30, 0), (6, c.toNat), (6, b.toNat), (6, a.toNat), (3, h.pred.toNat), (1, h.neg.toNat), (4, h.stall.toNat), (8, 0xe6)] = 64; simp only [fieldWidth]) ?_ hw
  rw [show Instr.fields (.spcnt h a b c) = [(30, 0), (6, c.toNat), (6, b.toNat), (6, a.toNat), (3, h.pred.toNat), (1, h.neg.toNat), (4, h.stall.toNat)] ++ [(8, 0xE6)] from rfl]
  obtain ⟨e1, e2⟩ := nibbles [(30, 0), (6, c.toNat), (6, b.toNat), (6, a.toNat), (3, h.pred.toNat), (1, h.neg.toNat), (4, h.stall.toNat)] 0xE6 14 6 (by simp only [fieldWidth]) rfl rfl
  rw [decodeRaw_hiE _ _ e1, decHiE_6 _ _ _ e2]
  have u : unpackBits [30, 6, 6, 6, 3, 1, 4, 8] (packBits ([(30, 0), (6, c.toNat), (6, b.toNat), (6, a.toNat), (3, h.pred.toNat), (1, h.neg.toNat), (4, h.stall.toNat)] ++ [(8, 0xE6)])) = [0, c.toNat, b.toNat, a.toNat, h.pred.toNat, h.neg.toNat, h.stall.toNat, 230] :=
    unpackBits_pack [(30, 0), (6, c.toNat), (6, b.toNat), (6, a.toNat), (3, h.pred.toNat), (1, h.neg.toNat), (4, h.stall.toNat), (8, 0xe6)] ⟨by decide, c.isLt, b.isLt, a.isLt, h.pred.isLt, h.neg.isLt, h.stall.isLt, by decide, trivial⟩
  unfold decOpE6
  rw [u]
  show (some (Instr.spcnt ⟨BitVec.ofNat 4 h.stall.toNat, BitVec.ofNat 1 h.neg.toNat, BitVec.ofNat 3 h.pred.toNat⟩ (BitVec.ofNat 6 a.toNat) (BitVec.ofNat 6 b.toNat) (BitVec.ofNat 6 c.toNat))) = _
  simp only [BitVec.ofNat_toNat, BitVec.setWidth_eq]
theorem spdel (h : Hdr) (a b c : BitVec 6) : Statement (.spdel h a b c) := by
  intro _ hw w1
  refine decode_of_raw (w1 := w1) (by show fieldWidth [(30, 0), (6, c.toNat), (6, b.toNat), (6, a.toNat), (3, h.pred.toNat), (1, h.neg.toNat), (4, h.stall.toNat), (8, 0xe7)] = 64; simp only [fieldWidth]) ?_ hw
  rw [show Instr.fields (.spdel h a b c) = [(30, 0), (6, c.toNat), (6, b.toNat), (6, a.toNat), (3, h.pred.toNat), (1, h.neg.toNat), (4, h.stall.toNat)] ++ [(8, 0xE7)] from rfl]
  obtain ⟨e1, e2⟩ := nibbles [(30, 0), (6, c.toNat), (6, b.toNat), (6, a.toNat), (3, h.pred.toNat), (1, h.neg.toNat), (4, h.stall.toNat)] 0xE7 14 7 (by simp only [fieldWidth]) rfl rfl
  rw [decodeRaw_hiE _ _ e1, decHiE_7 _ _ _ e2]
  have u : unpackBits [30, 6, 6, 6, 3, 1, 4, 8] (packBits ([(30, 0), (6, c.toNat), (6, b.toNat), (6, a.toNat), (3, h.pred.toNat), (1, h.neg.toNat), (4, h.stall.toNat)] ++ [(8, 0xE7)])) = [0, c.toNat, b.toNat, a.toNat, h.pred.toNat, h.neg.toNat, h.stall.toNat, 231] :=
    unpackBits_pack [(30, 0), (6, c.toNat), (6, b.toNat), (6, a.toNat), (3, h.pred.toNat), (1, h.neg.toNat), (4, h.stall.toNat), (8, 0xe7)] ⟨by decide, c.isLt, b.isLt, a.isLt, h.pred.isLt, h.neg.isLt, h.stall.isLt, by decide, trivial⟩
  unfold decOpE7
  rw [u]
  show (some (Instr.spdel ⟨BitVec.ofNat 4 h.stall.toNat, BitVec.ofNat 1 h.neg.toNat, BitVec.ofNat 3 h.pred.toNat⟩ (BitVec.ofNat 6 a.toNat) (BitVec.ofNat 6 b.toNat) (BitVec.ofNat 6 c.toNat))) = _
  simp only [BitVec.ofNat_toNat, BitVec.setWidth_eq]
theorem spwait (h : Hdr) : Statement (.spwait h) := by
  intro _ hw w1
  refine decode_of_raw (w1 := w1) (by show fieldWidth [(48, 0), (3, h.pred.toNat), (1, h.neg.toNat), (4, h.stall.toNat), (8, 0xe8)] = 64; simp only [fieldWidth]) ?_ hw
  rw [show Instr.fields (.spwait h) = [(48, 0), (3, h.pred.toNat), (1, h.neg.toNat), (4, h.stall.toNat)] ++ [(8, 0xE8)] from rfl]
  obtain ⟨e1, e2⟩ := nibbles [(48, 0), (3, h.pred.toNat), (1, h.neg.toNat), (4, h.stall.toNat)] 0xE8 14 8 (by simp only [fieldWidth]) rfl rfl
  rw [decodeRaw_hiE _ _ e1, decHiE_8 _ _ _ e2]
  have u : unpackBits [48, 3, 1, 4, 8] (packBits ([(48, 0), (3, h.pred.toNat), (1, h.neg.toNat), (4, h.stall.toNat)] ++ [(8, 0xE8)])) = [0, h.pred.toNat, h.neg.toNat, h.stall.toNat, 232] :=
    unpackBits_pack [(48, 0), (3, h.pred.toNat), (1, h.neg.toNat), (4, h.stall.toNat), (8, 0xe8)] ⟨by decide, h.pred.isLt, h.neg.isLt, h.stall.isLt, by decide, trivial⟩
  unfold decOpE8
  rw [u]
  show (some (Instr.spwait ⟨BitVec.ofNat 4 h.stall.toNat, BitVec.ofNat 1 h.neg.toNat, BitVec.ofNat 3 h.pred.toNat⟩)) = _
  simp only [BitVec.ofNat_toNat, BitVec.setWidth_eq]
theorem spstatKeys (h : Hdr) (a b : BitVec 6) : Statement (.spstatKeys h a b) := by
  intro _ hw w1
  refine decode_of_raw (w1 := w1) (by show fieldWidth [(36, 0), (6, b.toNat), (6, a.toNat), (3, h.pred.toNat), (1, h.neg.toNat), (4, h.stall.toNat), (8, 0xe9)] = 64; simp only [fieldWidth]) ?_ hw
  rw [show Instr.fields (.spstatKeys h a b) = [(36, 0), (6, b.toNat), (6, a.toNat), (3, h.pred.toNat), (1, h.neg.toNat), (4, h.stall.toNat)] ++ [(8, 0xE9)] from rfl]
  obtain ⟨e1, e2⟩ := nibbles [(36, 0), (6, b.toNat), (6, a.toNat), (3, h.pred.toNat), (1, h.neg.toNat), (4, h.stall.toNat)] 0xE9 14 9 (by simp only [fieldWidth]) rfl rfl
  rw [decodeRaw_hiE _ _ e1, decHiE_9 _ _ _ e2]
  have u : unpackBits [36, 6, 6, 3, 1, 4, 8] (packBits ([(36, 0), (6, b.toNat), (6, a.toNat), (3, h.pred.toNat), (1, h.neg.toNat), (4, h.stall.toNat)] ++ [(8, 0xE9)])) = [0, b.toNat, a.toNat, h.pred.toNat, h.neg.toNat, h.stall.toNat, 233] :=
    unpackBits_pack [(36, 0), (6, b.toNat), (6, a.toNat), (3, h.pred.toNat), (1, h.neg.toNat), (4, h.stall.toNat), (8, 0xe9)] ⟨by decide, b.isLt, a.isLt, h.pred.isLt, h.neg.isLt, h.stall.isLt, by decide, trivial⟩
  unfold decOpE9
  rw [u]
  show (some (Instr.spstatKeys ⟨BitVec.ofNat 4 h.stall.toNat, BitVec.ofNat 1 h.neg.toNat, BitVec.ofNat 3 h.pred.toNat⟩ (BitVec.ofNat 6 a.toNat) (BitVec.ofNat 6 b.toNat))) = _
  simp only [BitVec.ofNat_toNat, BitVec.setWidth_eq]
theorem spstatNodes (h : Hdr) (a b : BitVec 6) : Statement (.spstatNodes h a b) := by
  intro _ hw w1
  refine decode_of_raw (w1 := w1) (by show fieldWidth [(36, 16777216), (6, b.toNat), (6, a.toNat), (3, h.pred.toNat), (1, h.neg.toNat), (4, h.stall.toNat), (8, 0xe9)] = 64; simp only [fieldWidth]) ?_ hw
  rw [show Instr.fields (.spstatNodes h a b) = [(36, 16777216), (6, b.toNat), (6, a.toNat), (3, h.pred.toNat), (1, h.neg.toNat), (4, h.stall.toNat)] ++ [(8, 0xE9)] from rfl]
  obtain ⟨e1, e2⟩ := nibbles [(36, 16777216), (6, b.toNat), (6, a.toNat), (3, h.pred.toNat), (1, h.neg.toNat), (4, h.stall.toNat)] 0xE9 14 9 (by simp only [fieldWidth]) rfl rfl
  rw [decodeRaw_hiE _ _ e1, decHiE_9 _ _ _ e2]
  have u : unpackBits [36, 6, 6, 3, 1, 4, 8] (packBits ([(36, 16777216), (6, b.toNat), (6, a.toNat), (3, h.pred.toNat), (1, h.neg.toNat), (4, h.stall.toNat)] ++ [(8, 0xE9)])) = [16777216, b.toNat, a.toNat, h.pred.toNat, h.neg.toNat, h.stall.toNat, 233] :=
    unpackBits_pack [(36, 16777216), (6, b.toNat), (6, a.toNat), (3, h.pred.toNat), (1, h.neg.toNat), (4, h.stall.toNat), (8, 0xe9)] ⟨by decide, b.isLt, a.isLt, h.pred.isLt, h.neg.isLt, h.stall.isLt, by decide, trivial⟩
  unfold decOpE9
  rw [u]
  show (some (Instr.spstatNodes ⟨BitVec.ofNat 4 h.stall.toNat, BitVec.ofNat 1 h.neg.toNat, BitVec.ofNat 3 h.pred.toNat⟩ (BitVec.ofNat 6 a.toNat) (BitVec.ofNat 6 b.toNat))) = _
  simp only [BitVec.ofNat_toNat, BitVec.setWidth_eq]
theorem spstatFree (h : Hdr) (a b : BitVec 6) : Statement (.spstatFree h a b) := by
  intro _ hw w1
  refine decode_of_raw (w1 := w1) (by show fieldWidth [(36, 33554432), (6, b.toNat), (6, a.toNat), (3, h.pred.toNat), (1, h.neg.toNat), (4, h.stall.toNat), (8, 0xe9)] = 64; simp only [fieldWidth]) ?_ hw
  rw [show Instr.fields (.spstatFree h a b) = [(36, 33554432), (6, b.toNat), (6, a.toNat), (3, h.pred.toNat), (1, h.neg.toNat), (4, h.stall.toNat)] ++ [(8, 0xE9)] from rfl]
  obtain ⟨e1, e2⟩ := nibbles [(36, 33554432), (6, b.toNat), (6, a.toNat), (3, h.pred.toNat), (1, h.neg.toNat), (4, h.stall.toNat)] 0xE9 14 9 (by simp only [fieldWidth]) rfl rfl
  rw [decodeRaw_hiE _ _ e1, decHiE_9 _ _ _ e2]
  have u : unpackBits [36, 6, 6, 3, 1, 4, 8] (packBits ([(36, 33554432), (6, b.toNat), (6, a.toNat), (3, h.pred.toNat), (1, h.neg.toNat), (4, h.stall.toNat)] ++ [(8, 0xE9)])) = [33554432, b.toNat, a.toNat, h.pred.toNat, h.neg.toNat, h.stall.toNat, 233] :=
    unpackBits_pack [(36, 33554432), (6, b.toNat), (6, a.toNat), (3, h.pred.toNat), (1, h.neg.toNat), (4, h.stall.toNat), (8, 0xe9)] ⟨by decide, b.isLt, a.isLt, h.pred.isLt, h.neg.isLt, h.stall.isLt, by decide, trivial⟩
  unfold decOpE9
  rw [u]
  show (some (Instr.spstatFree ⟨BitVec.ofNat 4 h.stall.toNat, BitVec.ofNat 1 h.neg.toNat, BitVec.ofNat 3 h.pred.toNat⟩ (BitVec.ofNat 6 a.toNat) (BitVec.ofNat 6 b.toNat))) = _
  simp only [BitVec.ofNat_toNat, BitVec.setWidth_eq]
theorem spstatDepth (h : Hdr) (a b : BitVec 6) : Statement (.spstatDepth h a b) := by
  intro _ hw w1
  refine decode_of_raw (w1 := w1) (by show fieldWidth [(36, 50331648), (6, b.toNat), (6, a.toNat), (3, h.pred.toNat), (1, h.neg.toNat), (4, h.stall.toNat), (8, 0xe9)] = 64; simp only [fieldWidth]) ?_ hw
  rw [show Instr.fields (.spstatDepth h a b) = [(36, 50331648), (6, b.toNat), (6, a.toNat), (3, h.pred.toNat), (1, h.neg.toNat), (4, h.stall.toNat)] ++ [(8, 0xE9)] from rfl]
  obtain ⟨e1, e2⟩ := nibbles [(36, 50331648), (6, b.toNat), (6, a.toNat), (3, h.pred.toNat), (1, h.neg.toNat), (4, h.stall.toNat)] 0xE9 14 9 (by simp only [fieldWidth]) rfl rfl
  rw [decodeRaw_hiE _ _ e1, decHiE_9 _ _ _ e2]
  have u : unpackBits [36, 6, 6, 3, 1, 4, 8] (packBits ([(36, 50331648), (6, b.toNat), (6, a.toNat), (3, h.pred.toNat), (1, h.neg.toNat), (4, h.stall.toNat)] ++ [(8, 0xE9)])) = [50331648, b.toNat, a.toNat, h.pred.toNat, h.neg.toNat, h.stall.toNat, 233] :=
    unpackBits_pack [(36, 50331648), (6, b.toNat), (6, a.toNat), (3, h.pred.toNat), (1, h.neg.toNat), (4, h.stall.toNat), (8, 0xe9)] ⟨by decide, b.isLt, a.isLt, h.pred.isLt, h.neg.isLt, h.stall.isLt, by decide, trivial⟩
  unfold decOpE9
  rw [u]
  show (some (Instr.spstatDepth ⟨BitVec.ofNat 4 h.stall.toNat, BitVec.ofNat 1 h.neg.toNat, BitVec.ofNat 3 h.pred.toNat⟩ (BitVec.ofNat 6 a.toNat) (BitVec.ofNat 6 b.toNat))) = _
  simp only [BitVec.ofNat_toNat, BitVec.setWidth_eq]
theorem spstatStatus (h : Hdr) (a b : BitVec 6) : Statement (.spstatStatus h a b) := by
  intro _ hw w1
  refine decode_of_raw (w1 := w1) (by show fieldWidth [(36, 67108864), (6, b.toNat), (6, a.toNat), (3, h.pred.toNat), (1, h.neg.toNat), (4, h.stall.toNat), (8, 0xe9)] = 64; simp only [fieldWidth]) ?_ hw
  rw [show Instr.fields (.spstatStatus h a b) = [(36, 67108864), (6, b.toNat), (6, a.toNat), (3, h.pred.toNat), (1, h.neg.toNat), (4, h.stall.toNat)] ++ [(8, 0xE9)] from rfl]
  obtain ⟨e1, e2⟩ := nibbles [(36, 67108864), (6, b.toNat), (6, a.toNat), (3, h.pred.toNat), (1, h.neg.toNat), (4, h.stall.toNat)] 0xE9 14 9 (by simp only [fieldWidth]) rfl rfl
  rw [decodeRaw_hiE _ _ e1, decHiE_9 _ _ _ e2]
  have u : unpackBits [36, 6, 6, 3, 1, 4, 8] (packBits ([(36, 67108864), (6, b.toNat), (6, a.toNat), (3, h.pred.toNat), (1, h.neg.toNat), (4, h.stall.toNat)] ++ [(8, 0xE9)])) = [67108864, b.toNat, a.toNat, h.pred.toNat, h.neg.toNat, h.stall.toNat, 233] :=
    unpackBits_pack [(36, 67108864), (6, b.toNat), (6, a.toNat), (3, h.pred.toNat), (1, h.neg.toNat), (4, h.stall.toNat), (8, 0xe9)] ⟨by decide, b.isLt, a.isLt, h.pred.isLt, h.neg.isLt, h.stall.isLt, by decide, trivial⟩
  unfold decOpE9
  rw [u]
  show (some (Instr.spstatStatus ⟨BitVec.ofNat 4 h.stall.toNat, BitVec.ofNat 1 h.neg.toNat, BitVec.ofNat 3 h.pred.toNat⟩ (BitVec.ofNat 6 a.toNat) (BitVec.ofNat 6 b.toNat))) = _
  simp only [BitVec.ofNat_toNat, BitVec.setWidth_eq]
theorem spstatPages (h : Hdr) (a b : BitVec 6) : Statement (.spstatPages h a b) := by
  intro _ hw w1
  refine decode_of_raw (w1 := w1) (by show fieldWidth [(36, 83886080), (6, b.toNat), (6, a.toNat), (3, h.pred.toNat), (1, h.neg.toNat), (4, h.stall.toNat), (8, 0xe9)] = 64; simp only [fieldWidth]) ?_ hw
  rw [show Instr.fields (.spstatPages h a b) = [(36, 83886080), (6, b.toNat), (6, a.toNat), (3, h.pred.toNat), (1, h.neg.toNat), (4, h.stall.toNat)] ++ [(8, 0xE9)] from rfl]
  obtain ⟨e1, e2⟩ := nibbles [(36, 83886080), (6, b.toNat), (6, a.toNat), (3, h.pred.toNat), (1, h.neg.toNat), (4, h.stall.toNat)] 0xE9 14 9 (by simp only [fieldWidth]) rfl rfl
  rw [decodeRaw_hiE _ _ e1, decHiE_9 _ _ _ e2]
  have u : unpackBits [36, 6, 6, 3, 1, 4, 8] (packBits ([(36, 83886080), (6, b.toNat), (6, a.toNat), (3, h.pred.toNat), (1, h.neg.toNat), (4, h.stall.toNat)] ++ [(8, 0xE9)])) = [83886080, b.toNat, a.toNat, h.pred.toNat, h.neg.toNat, h.stall.toNat, 233] :=
    unpackBits_pack [(36, 83886080), (6, b.toNat), (6, a.toNat), (3, h.pred.toNat), (1, h.neg.toNat), (4, h.stall.toNat), (8, 0xe9)] ⟨by decide, b.isLt, a.isLt, h.pred.isLt, h.neg.isLt, h.stall.isLt, by decide, trivial⟩
  unfold decOpE9
  rw [u]
  show (some (Instr.spstatPages ⟨BitVec.ofNat 4 h.stall.toNat, BitVec.ofNat 1 h.neg.toNat, BitVec.ofNat 3 h.pred.toNat⟩ (BitVec.ofNat 6 a.toNat) (BitVec.ofNat 6 b.toNat))) = _
  simp only [BitVec.ofNat_toNat, BitVec.setWidth_eq]
theorem sppool (h : Hdr) (a b c : BitVec 6) (n : BitVec 16) : Statement (.sppool h a b c n) := by
  intro _ hw w1
  refine decode_of_raw (w1 := w1) (by show fieldWidth [(16, n.toNat), (14, 0), (6, c.toNat), (6, b.toNat), (6, a.toNat), (3, h.pred.toNat), (1, h.neg.toNat), (4, h.stall.toNat), (8, 0xea)] = 64; simp only [fieldWidth]) ?_ hw
  rw [show Instr.fields (.sppool h a b c n) = [(16, n.toNat), (14, 0), (6, c.toNat), (6, b.toNat), (6, a.toNat), (3, h.pred.toNat), (1, h.neg.toNat), (4, h.stall.toNat)] ++ [(8, 0xEA)] from rfl]
  obtain ⟨e1, e2⟩ := nibbles [(16, n.toNat), (14, 0), (6, c.toNat), (6, b.toNat), (6, a.toNat), (3, h.pred.toNat), (1, h.neg.toNat), (4, h.stall.toNat)] 0xEA 14 10 (by simp only [fieldWidth]) rfl rfl
  rw [decodeRaw_hiE _ _ e1, decHiE_A _ _ _ e2]
  have u : unpackBits [16, 14, 6, 6, 6, 3, 1, 4, 8] (packBits ([(16, n.toNat), (14, 0), (6, c.toNat), (6, b.toNat), (6, a.toNat), (3, h.pred.toNat), (1, h.neg.toNat), (4, h.stall.toNat)] ++ [(8, 0xEA)])) = [n.toNat, 0, c.toNat, b.toNat, a.toNat, h.pred.toNat, h.neg.toNat, h.stall.toNat, 234] :=
    unpackBits_pack [(16, n.toNat), (14, 0), (6, c.toNat), (6, b.toNat), (6, a.toNat), (3, h.pred.toNat), (1, h.neg.toNat), (4, h.stall.toNat), (8, 0xea)] ⟨n.isLt, by decide, c.isLt, b.isLt, a.isLt, h.pred.isLt, h.neg.isLt, h.stall.isLt, by decide, trivial⟩
  unfold decOpEA
  rw [u]
  show (some (Instr.sppool ⟨BitVec.ofNat 4 h.stall.toNat, BitVec.ofNat 1 h.neg.toNat, BitVec.ofNat 3 h.pred.toNat⟩ (BitVec.ofNat 6 a.toNat) (BitVec.ofNat 6 b.toNat) (BitVec.ofNat 6 c.toNat) (BitVec.ofNat 16 n.toNat))) = _
  simp only [BitVec.ofNat_toNat, BitVec.setWidth_eq]
theorem spfree (h : Hdr) (a b : BitVec 6) : Statement (.spfree h a b) := by
  intro _ hw w1
  refine decode_of_raw (w1 := w1) (by show fieldWidth [(36, 0), (6, b.toNat), (6, a.toNat), (3, h.pred.toNat), (1, h.neg.toNat), (4, h.stall.toNat), (8, 0xeb)] = 64; simp only [fieldWidth]) ?_ hw
  rw [show Instr.fields (.spfree h a b) = [(36, 0), (6, b.toNat), (6, a.toNat), (3, h.pred.toNat), (1, h.neg.toNat), (4, h.stall.toNat)] ++ [(8, 0xEB)] from rfl]
  obtain ⟨e1, e2⟩ := nibbles [(36, 0), (6, b.toNat), (6, a.toNat), (3, h.pred.toNat), (1, h.neg.toNat), (4, h.stall.toNat)] 0xEB 14 11 (by simp only [fieldWidth]) rfl rfl
  rw [decodeRaw_hiE _ _ e1, decHiE_B _ _ _ e2]
  have u : unpackBits [36, 6, 6, 3, 1, 4, 8] (packBits ([(36, 0), (6, b.toNat), (6, a.toNat), (3, h.pred.toNat), (1, h.neg.toNat), (4, h.stall.toNat)] ++ [(8, 0xEB)])) = [0, b.toNat, a.toNat, h.pred.toNat, h.neg.toNat, h.stall.toNat, 235] :=
    unpackBits_pack [(36, 0), (6, b.toNat), (6, a.toNat), (3, h.pred.toNat), (1, h.neg.toNat), (4, h.stall.toNat), (8, 0xeb)] ⟨by decide, b.isLt, a.isLt, h.pred.isLt, h.neg.isLt, h.stall.isLt, by decide, trivial⟩
  unfold decOpEB
  rw [u]
  show (some (Instr.spfree ⟨BitVec.ofNat 4 h.stall.toNat, BitVec.ofNat 1 h.neg.toNat, BitVec.ofNat 3 h.pred.toNat⟩ (BitVec.ofNat 6 a.toNat) (BitVec.ofNat 6 b.toNat))) = _
  simp only [BitVec.ofNat_toNat, BitVec.setWidth_eq]
theorem rclassSet (h : Hdr) (a b c : BitVec 6) : Statement (.rclassSet h a b c) := by
  intro _ hw w1
  refine decode_of_raw (w1 := w1) (by show fieldWidth [(30, 0), (6, c.toNat), (6, b.toNat), (6, a.toNat), (3, h.pred.toNat), (1, h.neg.toNat), (4, h.stall.toNat), (8, 0xec)] = 64; simp only [fieldWidth]) ?_ hw
  rw [show Instr.fields (.rclassSet h a b c) = [(30, 0), (6, c.toNat), (6, b.toNat), (6, a.toNat), (3, h.pred.toNat), (1, h.neg.toNat), (4, h.stall.toNat)] ++ [(8, 0xEC)] from rfl]
  obtain ⟨e1, e2⟩ := nibbles [(30, 0), (6, c.toNat), (6, b.toNat), (6, a.toNat), (3, h.pred.toNat), (1, h.neg.toNat), (4, h.stall.toNat)] 0xEC 14 12 (by simp only [fieldWidth]) rfl rfl
  rw [decodeRaw_hiE _ _ e1, decHiE_C _ _ _ e2]
  have u : unpackBits [30, 6, 6, 6, 3, 1, 4, 8] (packBits ([(30, 0), (6, c.toNat), (6, b.toNat), (6, a.toNat), (3, h.pred.toNat), (1, h.neg.toNat), (4, h.stall.toNat)] ++ [(8, 0xEC)])) = [0, c.toNat, b.toNat, a.toNat, h.pred.toNat, h.neg.toNat, h.stall.toNat, 236] :=
    unpackBits_pack [(30, 0), (6, c.toNat), (6, b.toNat), (6, a.toNat), (3, h.pred.toNat), (1, h.neg.toNat), (4, h.stall.toNat), (8, 0xec)] ⟨by decide, c.isLt, b.isLt, a.isLt, h.pred.isLt, h.neg.isLt, h.stall.isLt, by decide, trivial⟩
  unfold decOpEC
  rw [u]
  show (some (Instr.rclassSet ⟨BitVec.ofNat 4 h.stall.toNat, BitVec.ofNat 1 h.neg.toNat, BitVec.ofNat 3 h.pred.toNat⟩ (BitVec.ofNat 6 a.toNat) (BitVec.ofNat 6 b.toNat) (BitVec.ofNat 6 c.toNat))) = _
  simp only [BitVec.ofNat_toNat, BitVec.setWidth_eq]
theorem rclassRead (h : Hdr) (a b : BitVec 6) : Statement (.rclassRead h a b) := by
  intro _ hw w1
  refine decode_of_raw (w1 := w1) (by show fieldWidth [(30, 16777216), (6, 0), (6, b.toNat), (6, a.toNat), (3, h.pred.toNat), (1, h.neg.toNat), (4, h.stall.toNat), (8, 0xec)] = 64; simp only [fieldWidth]) ?_ hw
  rw [show Instr.fields (.rclassRead h a b) = [(30, 16777216), (6, 0), (6, b.toNat), (6, a.toNat), (3, h.pred.toNat), (1, h.neg.toNat), (4, h.stall.toNat)] ++ [(8, 0xEC)] from rfl]
  obtain ⟨e1, e2⟩ := nibbles [(30, 16777216), (6, 0), (6, b.toNat), (6, a.toNat), (3, h.pred.toNat), (1, h.neg.toNat), (4, h.stall.toNat)] 0xEC 14 12 (by simp only [fieldWidth]) rfl rfl
  rw [decodeRaw_hiE _ _ e1, decHiE_C _ _ _ e2]
  have u : unpackBits [30, 6, 6, 6, 3, 1, 4, 8] (packBits ([(30, 16777216), (6, 0), (6, b.toNat), (6, a.toNat), (3, h.pred.toNat), (1, h.neg.toNat), (4, h.stall.toNat)] ++ [(8, 0xEC)])) = [16777216, 0, b.toNat, a.toNat, h.pred.toNat, h.neg.toNat, h.stall.toNat, 236] :=
    unpackBits_pack [(30, 16777216), (6, 0), (6, b.toNat), (6, a.toNat), (3, h.pred.toNat), (1, h.neg.toNat), (4, h.stall.toNat), (8, 0xec)] ⟨by decide, by decide, b.isLt, a.isLt, h.pred.isLt, h.neg.isLt, h.stall.isLt, by decide, trivial⟩
  unfold decOpEC
  rw [u]
  show (some (Instr.rclassRead ⟨BitVec.ofNat 4 h.stall.toNat, BitVec.ofNat 1 h.neg.toNat, BitVec.ofNat 3 h.pred.toNat⟩ (BitVec.ofNat 6 a.toNat) (BitVec.ofNat 6 b.toNat))) = _
  simp only [BitVec.ofNat_toNat, BitVec.setWidth_eq]
theorem ebsetCorr (h : Hdr) (a b c : BitVec 6) : Statement (.ebsetCorr h a b c) := by
  intro _ hw w1
  refine decode_of_raw (w1 := w1) (by show fieldWidth [(30, 0), (6, c.toNat), (6, b.toNat), (6, a.toNat), (3, h.pred.toNat), (1, h.neg.toNat), (4, h.stall.toNat), (8, 0xed)] = 64; simp only [fieldWidth]) ?_ hw
  rw [show Instr.fields (.ebsetCorr h a b c) = [(30, 0), (6, c.toNat), (6, b.toNat), (6, a.toNat), (3, h.pred.toNat), (1, h.neg.toNat), (4, h.stall.toNat)] ++ [(8, 0xED)] from rfl]
  obtain ⟨e1, e2⟩ := nibbles [(30, 0), (6, c.toNat), (6, b.toNat), (6, a.toNat), (3, h.pred.toNat), (1, h.neg.toNat), (4, h.stall.toNat)] 0xED 14 13 (by simp only [fieldWidth]) rfl rfl
  rw [decodeRaw_hiE _ _ e1, decHiE_D _ _ _ e2]
  have u : unpackBits [30, 6, 6, 6, 3, 1, 4, 8] (packBits ([(30, 0), (6, c.toNat), (6, b.toNat), (6, a.toNat), (3, h.pred.toNat), (1, h.neg.toNat), (4, h.stall.toNat)] ++ [(8, 0xED)])) = [0, c.toNat, b.toNat, a.toNat, h.pred.toNat, h.neg.toNat, h.stall.toNat, 237] :=
    unpackBits_pack [(30, 0), (6, c.toNat), (6, b.toNat), (6, a.toNat), (3, h.pred.toNat), (1, h.neg.toNat), (4, h.stall.toNat), (8, 0xed)] ⟨by decide, c.isLt, b.isLt, a.isLt, h.pred.isLt, h.neg.isLt, h.stall.isLt, by decide, trivial⟩
  unfold decOpED
  rw [u]
  show (some (Instr.ebsetCorr ⟨BitVec.ofNat 4 h.stall.toNat, BitVec.ofNat 1 h.neg.toNat, BitVec.ofNat 3 h.pred.toNat⟩ (BitVec.ofNat 6 a.toNat) (BitVec.ofNat 6 b.toNat) (BitVec.ofNat 6 c.toNat))) = _
  simp only [BitVec.ofNat_toNat, BitVec.setWidth_eq]
theorem ebsetDet (h : Hdr) (a b c : BitVec 6) : Statement (.ebsetDet h a b c) := by
  intro _ hw w1
  refine decode_of_raw (w1 := w1) (by show fieldWidth [(30, 16777216), (6, c.toNat), (6, b.toNat), (6, a.toNat), (3, h.pred.toNat), (1, h.neg.toNat), (4, h.stall.toNat), (8, 0xed)] = 64; simp only [fieldWidth]) ?_ hw
  rw [show Instr.fields (.ebsetDet h a b c) = [(30, 16777216), (6, c.toNat), (6, b.toNat), (6, a.toNat), (3, h.pred.toNat), (1, h.neg.toNat), (4, h.stall.toNat)] ++ [(8, 0xED)] from rfl]
  obtain ⟨e1, e2⟩ := nibbles [(30, 16777216), (6, c.toNat), (6, b.toNat), (6, a.toNat), (3, h.pred.toNat), (1, h.neg.toNat), (4, h.stall.toNat)] 0xED 14 13 (by simp only [fieldWidth]) rfl rfl
  rw [decodeRaw_hiE _ _ e1, decHiE_D _ _ _ e2]
  have u : unpackBits [30, 6, 6, 6, 3, 1, 4, 8] (packBits ([(30, 16777216), (6, c.toNat), (6, b.toNat), (6, a.toNat), (3, h.pred.toNat), (1, h.neg.toNat), (4, h.stall.toNat)] ++ [(8, 0xED)])) = [16777216, c.toNat, b.toNat, a.toNat, h.pred.toNat, h.neg.toNat, h.stall.toNat, 237] :=
    unpackBits_pack [(30, 16777216), (6, c.toNat), (6, b.toNat), (6, a.toNat), (3, h.pred.toNat), (1, h.neg.toNat), (4, h.stall.toNat), (8, 0xed)] ⟨by decide, c.isLt, b.isLt, a.isLt, h.pred.isLt, h.neg.isLt, h.stall.isLt, by decide, trivial⟩
  unfold decOpED
  rw [u]
  show (some (Instr.ebsetDet ⟨BitVec.ofNat 4 h.stall.toNat, BitVec.ofNat 1 h.neg.toNat, BitVec.ofNat 3 h.pred.toNat⟩ (BitVec.ofNat 6 a.toNat) (BitVec.ofNat 6 b.toNat) (BitVec.ofNat 6 c.toNat))) = _
  simp only [BitVec.ofNat_toNat, BitVec.setWidth_eq]
theorem ebsetRdcorr (h : Hdr) (a b : BitVec 6) : Statement (.ebsetRdcorr h a b) := by
  intro _ hw w1
  refine decode_of_raw (w1 := w1) (by show fieldWidth [(30, 33554432), (6, 0), (6, b.toNat), (6, a.toNat), (3, h.pred.toNat), (1, h.neg.toNat), (4, h.stall.toNat), (8, 0xed)] = 64; simp only [fieldWidth]) ?_ hw
  rw [show Instr.fields (.ebsetRdcorr h a b) = [(30, 33554432), (6, 0), (6, b.toNat), (6, a.toNat), (3, h.pred.toNat), (1, h.neg.toNat), (4, h.stall.toNat)] ++ [(8, 0xED)] from rfl]
  obtain ⟨e1, e2⟩ := nibbles [(30, 33554432), (6, 0), (6, b.toNat), (6, a.toNat), (3, h.pred.toNat), (1, h.neg.toNat), (4, h.stall.toNat)] 0xED 14 13 (by simp only [fieldWidth]) rfl rfl
  rw [decodeRaw_hiE _ _ e1, decHiE_D _ _ _ e2]
  have u : unpackBits [30, 6, 6, 6, 3, 1, 4, 8] (packBits ([(30, 33554432), (6, 0), (6, b.toNat), (6, a.toNat), (3, h.pred.toNat), (1, h.neg.toNat), (4, h.stall.toNat)] ++ [(8, 0xED)])) = [33554432, 0, b.toNat, a.toNat, h.pred.toNat, h.neg.toNat, h.stall.toNat, 237] :=
    unpackBits_pack [(30, 33554432), (6, 0), (6, b.toNat), (6, a.toNat), (3, h.pred.toNat), (1, h.neg.toNat), (4, h.stall.toNat), (8, 0xed)] ⟨by decide, by decide, b.isLt, a.isLt, h.pred.isLt, h.neg.isLt, h.stall.isLt, by decide, trivial⟩
  unfold decOpED
  rw [u]
  show (some (Instr.ebsetRdcorr ⟨BitVec.ofNat 4 h.stall.toNat, BitVec.ofNat 1 h.neg.toNat, BitVec.ofNat 3 h.pred.toNat⟩ (BitVec.ofNat 6 a.toNat) (BitVec.ofNat 6 b.toNat))) = _
  simp only [BitVec.ofNat_toNat, BitVec.setWidth_eq]
theorem ebsetRddet (h : Hdr) (a b : BitVec 6) : Statement (.ebsetRddet h a b) := by
  intro _ hw w1
  refine decode_of_raw (w1 := w1) (by show fieldWidth [(30, 50331648), (6, 0), (6, b.toNat), (6, a.toNat), (3, h.pred.toNat), (1, h.neg.toNat), (4, h.stall.toNat), (8, 0xed)] = 64; simp only [fieldWidth]) ?_ hw
  rw [show Instr.fields (.ebsetRddet h a b) = [(30, 50331648), (6, 0), (6, b.toNat), (6, a.toNat), (3, h.pred.toNat), (1, h.neg.toNat), (4, h.stall.toNat)] ++ [(8, 0xED)] from rfl]
  obtain ⟨e1, e2⟩ := nibbles [(30, 50331648), (6, 0), (6, b.toNat), (6, a.toNat), (3, h.pred.toNat), (1, h.neg.toNat), (4, h.stall.toNat)] 0xED 14 13 (by simp only [fieldWidth]) rfl rfl
  rw [decodeRaw_hiE _ _ e1, decHiE_D _ _ _ e2]
  have u : unpackBits [30, 6, 6, 6, 3, 1, 4, 8] (packBits ([(30, 50331648), (6, 0), (6, b.toNat), (6, a.toNat), (3, h.pred.toNat), (1, h.neg.toNat), (4, h.stall.toNat)] ++ [(8, 0xED)])) = [50331648, 0, b.toNat, a.toNat, h.pred.toNat, h.neg.toNat, h.stall.toNat, 237] :=
    unpackBits_pack [(30, 50331648), (6, 0), (6, b.toNat), (6, a.toNat), (3, h.pred.toNat), (1, h.neg.toNat), (4, h.stall.toNat), (8, 0xed)] ⟨by decide, by decide, b.isLt, a.isLt, h.pred.isLt, h.neg.isLt, h.stall.isLt, by decide, trivial⟩
  unfold decOpED
  rw [u]
  show (some (Instr.ebsetRddet ⟨BitVec.ofNat 4 h.stall.toNat, BitVec.ofNat 1 h.neg.toNat, BitVec.ofNat 3 h.pred.toNat⟩ (BitVec.ofNat 6 a.toNat) (BitVec.ofNat 6 b.toNat))) = _
  simp only [BitVec.ofNat_toNat, BitVec.setWidth_eq]
theorem mscopClean (h : Hdr) (a b c : BitVec 6) : Statement (.mscopClean h a b c) := by
  intro _ hw w1
  refine decode_of_raw (w1 := w1) (by show fieldWidth [(30, 0), (6, c.toNat), (6, b.toNat), (6, a.toNat), (3, h.pred.toNat), (1, h.neg.toNat), (4, h.stall.toNat), (8, 0xee)] = 64; simp only [fieldWidth]) ?_ hw
  rw [show Instr.fields (.mscopClean h a b c) = [(30, 0), (6, c.toNat), (6, b.toNat), (6, a.toNat), (3, h.pred.toNat), (1, h.neg.toNat), (4, h.stall.toNat)] ++ [(8, 0xEE)] from rfl]
  obtain ⟨e1, e2⟩ := nibbles [(30, 0), (6, c.toNat), (6, b.toNat), (6, a.toNat), (3, h.pred.toNat), (1, h.neg.toNat), (4, h.stall.toNat)] 0xEE 14 14 (by simp only [fieldWidth]) rfl rfl
  rw [decodeRaw_hiE _ _ e1, decHiE_E _ _ _ e2]
  have u : unpackBits [30, 6, 6, 6, 3, 1, 4, 8] (packBits ([(30, 0), (6, c.toNat), (6, b.toNat), (6, a.toNat), (3, h.pred.toNat), (1, h.neg.toNat), (4, h.stall.toNat)] ++ [(8, 0xEE)])) = [0, c.toNat, b.toNat, a.toNat, h.pred.toNat, h.neg.toNat, h.stall.toNat, 238] :=
    unpackBits_pack [(30, 0), (6, c.toNat), (6, b.toNat), (6, a.toNat), (3, h.pred.toNat), (1, h.neg.toNat), (4, h.stall.toNat), (8, 0xee)] ⟨by decide, c.isLt, b.isLt, a.isLt, h.pred.isLt, h.neg.isLt, h.stall.isLt, by decide, trivial⟩
  unfold decOpEE
  rw [u]
  show (some (Instr.mscopClean ⟨BitVec.ofNat 4 h.stall.toNat, BitVec.ofNat 1 h.neg.toNat, BitVec.ofNat 3 h.pred.toNat⟩ (BitVec.ofNat 6 a.toNat) (BitVec.ofNat 6 b.toNat) (BitVec.ofNat 6 c.toNat))) = _
  simp only [BitVec.ofNat_toNat, BitVec.setWidth_eq]
theorem mscopClinv (h : Hdr) (a b c : BitVec 6) : Statement (.mscopClinv h a b c) := by
  intro _ hw w1
  refine decode_of_raw (w1 := w1) (by show fieldWidth [(30, 16777216), (6, c.toNat), (6, b.toNat), (6, a.toNat), (3, h.pred.toNat), (1, h.neg.toNat), (4, h.stall.toNat), (8, 0xee)] = 64; simp only [fieldWidth]) ?_ hw
  rw [show Instr.fields (.mscopClinv h a b c) = [(30, 16777216), (6, c.toNat), (6, b.toNat), (6, a.toNat), (3, h.pred.toNat), (1, h.neg.toNat), (4, h.stall.toNat)] ++ [(8, 0xEE)] from rfl]
  obtain ⟨e1, e2⟩ := nibbles [(30, 16777216), (6, c.toNat), (6, b.toNat), (6, a.toNat), (3, h.pred.toNat), (1, h.neg.toNat), (4, h.stall.toNat)] 0xEE 14 14 (by simp only [fieldWidth]) rfl rfl
  rw [decodeRaw_hiE _ _ e1, decHiE_E _ _ _ e2]
  have u : unpackBits [30, 6, 6, 6, 3, 1, 4, 8] (packBits ([(30, 16777216), (6, c.toNat), (6, b.toNat), (6, a.toNat), (3, h.pred.toNat), (1, h.neg.toNat), (4, h.stall.toNat)] ++ [(8, 0xEE)])) = [16777216, c.toNat, b.toNat, a.toNat, h.pred.toNat, h.neg.toNat, h.stall.toNat, 238] :=
    unpackBits_pack [(30, 16777216), (6, c.toNat), (6, b.toNat), (6, a.toNat), (3, h.pred.toNat), (1, h.neg.toNat), (4, h.stall.toNat), (8, 0xee)] ⟨by decide, c.isLt, b.isLt, a.isLt, h.pred.isLt, h.neg.isLt, h.stall.isLt, by decide, trivial⟩
  unfold decOpEE
  rw [u]
  show (some (Instr.mscopClinv ⟨BitVec.ofNat 4 h.stall.toNat, BitVec.ofNat 1 h.neg.toNat, BitVec.ofNat 3 h.pred.toNat⟩ (BitVec.ofNat 6 a.toNat) (BitVec.ofNat 6 b.toNat) (BitVec.ofNat 6 c.toNat))) = _
  simp only [BitVec.ofNat_toNat, BitVec.setWidth_eq]
theorem mscopInv (h : Hdr) (a b c : BitVec 6) : Statement (.mscopInv h a b c) := by
  intro _ hw w1
  refine decode_of_raw (w1 := w1) (by show fieldWidth [(30, 33554432), (6, c.toNat), (6, b.toNat), (6, a.toNat), (3, h.pred.toNat), (1, h.neg.toNat), (4, h.stall.toNat), (8, 0xee)] = 64; simp only [fieldWidth]) ?_ hw
  rw [show Instr.fields (.mscopInv h a b c) = [(30, 33554432), (6, c.toNat), (6, b.toNat), (6, a.toNat), (3, h.pred.toNat), (1, h.neg.toNat), (4, h.stall.toNat)] ++ [(8, 0xEE)] from rfl]
  obtain ⟨e1, e2⟩ := nibbles [(30, 33554432), (6, c.toNat), (6, b.toNat), (6, a.toNat), (3, h.pred.toNat), (1, h.neg.toNat), (4, h.stall.toNat)] 0xEE 14 14 (by simp only [fieldWidth]) rfl rfl
  rw [decodeRaw_hiE _ _ e1, decHiE_E _ _ _ e2]
  have u : unpackBits [30, 6, 6, 6, 3, 1, 4, 8] (packBits ([(30, 33554432), (6, c.toNat), (6, b.toNat), (6, a.toNat), (3, h.pred.toNat), (1, h.neg.toNat), (4, h.stall.toNat)] ++ [(8, 0xEE)])) = [33554432, c.toNat, b.toNat, a.toNat, h.pred.toNat, h.neg.toNat, h.stall.toNat, 238] :=
    unpackBits_pack [(30, 33554432), (6, c.toNat), (6, b.toNat), (6, a.toNat), (3, h.pred.toNat), (1, h.neg.toNat), (4, h.stall.toNat), (8, 0xee)] ⟨by decide, c.isLt, b.isLt, a.isLt, h.pred.isLt, h.neg.isLt, h.stall.isLt, by decide, trivial⟩
  unfold decOpEE
  rw [u]
  show (some (Instr.mscopInv ⟨BitVec.ofNat 4 h.stall.toNat, BitVec.ofNat 1 h.neg.toNat, BitVec.ofNat 3 h.pred.toNat⟩ (BitVec.ofNat 6 a.toNat) (BitVec.ofNat 6 b.toNat) (BitVec.ofNat 6 c.toNat))) = _
  simp only [BitVec.ofNat_toNat, BitVec.setWidth_eq]
theorem mscopStat (h : Hdr) (a b c : BitVec 6) : Statement (.mscopStat h a b c) := by
  intro _ hw w1
  refine decode_of_raw (w1 := w1) (by show fieldWidth [(30, 50331648), (6, c.toNat), (6, b.toNat), (6, a.toNat), (3, h.pred.toNat), (1, h.neg.toNat), (4, h.stall.toNat), (8, 0xee)] = 64; simp only [fieldWidth]) ?_ hw
  rw [show Instr.fields (.mscopStat h a b c) = [(30, 50331648), (6, c.toNat), (6, b.toNat), (6, a.toNat), (3, h.pred.toNat), (1, h.neg.toNat), (4, h.stall.toNat)] ++ [(8, 0xEE)] from rfl]
  obtain ⟨e1, e2⟩ := nibbles [(30, 50331648), (6, c.toNat), (6, b.toNat), (6, a.toNat), (3, h.pred.toNat), (1, h.neg.toNat), (4, h.stall.toNat)] 0xEE 14 14 (by simp only [fieldWidth]) rfl rfl
  rw [decodeRaw_hiE _ _ e1, decHiE_E _ _ _ e2]
  have u : unpackBits [30, 6, 6, 6, 3, 1, 4, 8] (packBits ([(30, 50331648), (6, c.toNat), (6, b.toNat), (6, a.toNat), (3, h.pred.toNat), (1, h.neg.toNat), (4, h.stall.toNat)] ++ [(8, 0xEE)])) = [50331648, c.toNat, b.toNat, a.toNat, h.pred.toNat, h.neg.toNat, h.stall.toNat, 238] :=
    unpackBits_pack [(30, 50331648), (6, c.toNat), (6, b.toNat), (6, a.toNat), (3, h.pred.toNat), (1, h.neg.toNat), (4, h.stall.toNat), (8, 0xee)] ⟨by decide, c.isLt, b.isLt, a.isLt, h.pred.isLt, h.neg.isLt, h.stall.isLt, by decide, trivial⟩
  unfold decOpEE
  rw [u]
  show (some (Instr.mscopStat ⟨BitVec.ofNat 4 h.stall.toNat, BitVec.ofNat 1 h.neg.toNat, BitVec.ofNat 3 h.pred.toNat⟩ (BitVec.ofNat 6 a.toNat) (BitVec.ofNat 6 b.toNat) (BitVec.ofNat 6 c.toNat))) = _
  simp only [BitVec.ofNat_toNat, BitVec.setWidth_eq]
theorem peerwOpen (h : Hdr) (a b c : BitVec 6) : Statement (.peerwOpen h a b c) := by
  intro _ hw w1
  refine decode_of_raw (w1 := w1) (by show fieldWidth [(30, 0), (6, c.toNat), (6, b.toNat), (6, a.toNat), (3, h.pred.toNat), (1, h.neg.toNat), (4, h.stall.toNat), (8, 0xef)] = 64; simp only [fieldWidth]) ?_ hw
  rw [show Instr.fields (.peerwOpen h a b c) = [(30, 0), (6, c.toNat), (6, b.toNat), (6, a.toNat), (3, h.pred.toNat), (1, h.neg.toNat), (4, h.stall.toNat)] ++ [(8, 0xEF)] from rfl]
  obtain ⟨e1, e2⟩ := nibbles [(30, 0), (6, c.toNat), (6, b.toNat), (6, a.toNat), (3, h.pred.toNat), (1, h.neg.toNat), (4, h.stall.toNat)] 0xEF 14 15 (by simp only [fieldWidth]) rfl rfl
  rw [decodeRaw_hiE _ _ e1, decHiE_F _ _ _ e2]
  have u : unpackBits [30, 6, 6, 6, 3, 1, 4, 8] (packBits ([(30, 0), (6, c.toNat), (6, b.toNat), (6, a.toNat), (3, h.pred.toNat), (1, h.neg.toNat), (4, h.stall.toNat)] ++ [(8, 0xEF)])) = [0, c.toNat, b.toNat, a.toNat, h.pred.toNat, h.neg.toNat, h.stall.toNat, 239] :=
    unpackBits_pack [(30, 0), (6, c.toNat), (6, b.toNat), (6, a.toNat), (3, h.pred.toNat), (1, h.neg.toNat), (4, h.stall.toNat), (8, 0xef)] ⟨by decide, c.isLt, b.isLt, a.isLt, h.pred.isLt, h.neg.isLt, h.stall.isLt, by decide, trivial⟩
  unfold decOpEF
  rw [u]
  show (some (Instr.peerwOpen ⟨BitVec.ofNat 4 h.stall.toNat, BitVec.ofNat 1 h.neg.toNat, BitVec.ofNat 3 h.pred.toNat⟩ (BitVec.ofNat 6 a.toNat) (BitVec.ofNat 6 b.toNat) (BitVec.ofNat 6 c.toNat))) = _
  simp only [BitVec.ofNat_toNat, BitVec.setWidth_eq]
theorem peerwClose (h : Hdr) (a b : BitVec 6) : Statement (.peerwClose h a b) := by
  intro _ hw w1
  refine decode_of_raw (w1 := w1) (by show fieldWidth [(30, 16777216), (6, 0), (6, b.toNat), (6, a.toNat), (3, h.pred.toNat), (1, h.neg.toNat), (4, h.stall.toNat), (8, 0xef)] = 64; simp only [fieldWidth]) ?_ hw
  rw [show Instr.fields (.peerwClose h a b) = [(30, 16777216), (6, 0), (6, b.toNat), (6, a.toNat), (3, h.pred.toNat), (1, h.neg.toNat), (4, h.stall.toNat)] ++ [(8, 0xEF)] from rfl]
  obtain ⟨e1, e2⟩ := nibbles [(30, 16777216), (6, 0), (6, b.toNat), (6, a.toNat), (3, h.pred.toNat), (1, h.neg.toNat), (4, h.stall.toNat)] 0xEF 14 15 (by simp only [fieldWidth]) rfl rfl
  rw [decodeRaw_hiE _ _ e1, decHiE_F _ _ _ e2]
  have u : unpackBits [30, 6, 6, 6, 3, 1, 4, 8] (packBits ([(30, 16777216), (6, 0), (6, b.toNat), (6, a.toNat), (3, h.pred.toNat), (1, h.neg.toNat), (4, h.stall.toNat)] ++ [(8, 0xEF)])) = [16777216, 0, b.toNat, a.toNat, h.pred.toNat, h.neg.toNat, h.stall.toNat, 239] :=
    unpackBits_pack [(30, 16777216), (6, 0), (6, b.toNat), (6, a.toNat), (3, h.pred.toNat), (1, h.neg.toNat), (4, h.stall.toNat), (8, 0xef)] ⟨by decide, by decide, b.isLt, a.isLt, h.pred.isLt, h.neg.isLt, h.stall.isLt, by decide, trivial⟩
  unfold decOpEF
  rw [u]
  show (some (Instr.peerwClose ⟨BitVec.ofNat 4 h.stall.toNat, BitVec.ofNat 1 h.neg.toNat, BitVec.ofNat 3 h.pred.toNat⟩ (BitVec.ofNat 6 a.toNat) (BitVec.ofNat 6 b.toNat))) = _
  simp only [BitVec.ofNat_toNat, BitVec.setWidth_eq]
theorem peerwRead (h : Hdr) (a b : BitVec 6) : Statement (.peerwRead h a b) := by
  intro _ hw w1
  refine decode_of_raw (w1 := w1) (by show fieldWidth [(30, 33554432), (6, 0), (6, b.toNat), (6, a.toNat), (3, h.pred.toNat), (1, h.neg.toNat), (4, h.stall.toNat), (8, 0xef)] = 64; simp only [fieldWidth]) ?_ hw
  rw [show Instr.fields (.peerwRead h a b) = [(30, 33554432), (6, 0), (6, b.toNat), (6, a.toNat), (3, h.pred.toNat), (1, h.neg.toNat), (4, h.stall.toNat)] ++ [(8, 0xEF)] from rfl]
  obtain ⟨e1, e2⟩ := nibbles [(30, 33554432), (6, 0), (6, b.toNat), (6, a.toNat), (3, h.pred.toNat), (1, h.neg.toNat), (4, h.stall.toNat)] 0xEF 14 15 (by simp only [fieldWidth]) rfl rfl
  rw [decodeRaw_hiE _ _ e1, decHiE_F _ _ _ e2]
  have u : unpackBits [30, 6, 6, 6, 3, 1, 4, 8] (packBits ([(30, 33554432), (6, 0), (6, b.toNat), (6, a.toNat), (3, h.pred.toNat), (1, h.neg.toNat), (4, h.stall.toNat)] ++ [(8, 0xEF)])) = [33554432, 0, b.toNat, a.toNat, h.pred.toNat, h.neg.toNat, h.stall.toNat, 239] :=
    unpackBits_pack [(30, 33554432), (6, 0), (6, b.toNat), (6, a.toNat), (3, h.pred.toNat), (1, h.neg.toNat), (4, h.stall.toNat), (8, 0xef)] ⟨by decide, by decide, b.isLt, a.isLt, h.pred.isLt, h.neg.isLt, h.stall.isLt, by decide, trivial⟩
  unfold decOpEF
  rw [u]
  show (some (Instr.peerwRead ⟨BitVec.ofNat 4 h.stall.toNat, BitVec.ofNat 1 h.neg.toNat, BitVec.ofNat 3 h.pred.toNat⟩ (BitVec.ofNat 6 a.toNat) (BitVec.ofNat 6 b.toNat))) = _
  simp only [BitVec.ofNat_toNat, BitVec.setWidth_eq]
theorem peerwBind (h : Hdr) (a b c : BitVec 6) : Statement (.peerwBind h a b c) := by
  intro _ hw w1
  refine decode_of_raw (w1 := w1) (by show fieldWidth [(30, 50331648), (6, c.toNat), (6, b.toNat), (6, a.toNat), (3, h.pred.toNat), (1, h.neg.toNat), (4, h.stall.toNat), (8, 0xef)] = 64; simp only [fieldWidth]) ?_ hw
  rw [show Instr.fields (.peerwBind h a b c) = [(30, 50331648), (6, c.toNat), (6, b.toNat), (6, a.toNat), (3, h.pred.toNat), (1, h.neg.toNat), (4, h.stall.toNat)] ++ [(8, 0xEF)] from rfl]
  obtain ⟨e1, e2⟩ := nibbles [(30, 50331648), (6, c.toNat), (6, b.toNat), (6, a.toNat), (3, h.pred.toNat), (1, h.neg.toNat), (4, h.stall.toNat)] 0xEF 14 15 (by simp only [fieldWidth]) rfl rfl
  rw [decodeRaw_hiE _ _ e1, decHiE_F _ _ _ e2]
  have u : unpackBits [30, 6, 6, 6, 3, 1, 4, 8] (packBits ([(30, 50331648), (6, c.toNat), (6, b.toNat), (6, a.toNat), (3, h.pred.toNat), (1, h.neg.toNat), (4, h.stall.toNat)] ++ [(8, 0xEF)])) = [50331648, c.toNat, b.toNat, a.toNat, h.pred.toNat, h.neg.toNat, h.stall.toNat, 239] :=
    unpackBits_pack [(30, 50331648), (6, c.toNat), (6, b.toNat), (6, a.toNat), (3, h.pred.toNat), (1, h.neg.toNat), (4, h.stall.toNat), (8, 0xef)] ⟨by decide, c.isLt, b.isLt, a.isLt, h.pred.isLt, h.neg.isLt, h.stall.isLt, by decide, trivial⟩
  unfold decOpEF
  rw [u]
  show (some (Instr.peerwBind ⟨BitVec.ofNat 4 h.stall.toNat, BitVec.ofNat 1 h.neg.toNat, BitVec.ofNat 3 h.pred.toNat⟩ (BitVec.ofNat 6 a.toNat) (BitVec.ofNat 6 b.toNat) (BitVec.ofNat 6 c.toNat))) = _
  simp only [BitVec.ofNat_toNat, BitVec.setWidth_eq]
theorem smcSetw (h : Hdr) (a b c : BitVec 6) : Statement (.smcSetw h a b c) := by
  intro _ hw w1
  refine decode_of_raw (w1 := w1) (by show fieldWidth [(30, 0), (6, c.toNat), (6, b.toNat), (6, a.toNat), (3, h.pred.toNat), (1, h.neg.toNat), (4, h.stall.toNat), (8, 0xf0)] = 64; simp only [fieldWidth]) ?_ hw
  rw [show Instr.fields (.smcSetw h a b c) = [(30, 0), (6, c.toNat), (6, b.toNat), (6, a.toNat), (3, h.pred.toNat), (1, h.neg.toNat), (4, h.stall.toNat)] ++ [(8, 0xF0)] from rfl]
  obtain ⟨e1, e2⟩ := nibbles [(30, 0), (6, c.toNat), (6, b.toNat), (6, a.toNat), (3, h.pred.toNat), (1, h.neg.toNat), (4, h.stall.toNat)] 0xF0 15 0 (by simp only [fieldWidth]) rfl rfl
  rw [decodeRaw_hiF _ _ e1, decHiF_0 _ _ _ e2]
  have u : unpackBits [30, 6, 6, 6, 3, 1, 4, 8] (packBits ([(30, 0), (6, c.toNat), (6, b.toNat), (6, a.toNat), (3, h.pred.toNat), (1, h.neg.toNat), (4, h.stall.toNat)] ++ [(8, 0xF0)])) = [0, c.toNat, b.toNat, a.toNat, h.pred.toNat, h.neg.toNat, h.stall.toNat, 240] :=
    unpackBits_pack [(30, 0), (6, c.toNat), (6, b.toNat), (6, a.toNat), (3, h.pred.toNat), (1, h.neg.toNat), (4, h.stall.toNat), (8, 0xf0)] ⟨by decide, c.isLt, b.isLt, a.isLt, h.pred.isLt, h.neg.isLt, h.stall.isLt, by decide, trivial⟩
  unfold decOpF0
  rw [u]
  show (some (Instr.smcSetw ⟨BitVec.ofNat 4 h.stall.toNat, BitVec.ofNat 1 h.neg.toNat, BitVec.ofNat 3 h.pred.toNat⟩ (BitVec.ofNat 6 a.toNat) (BitVec.ofNat 6 b.toNat) (BitVec.ofNat 6 c.toNat))) = _
  simp only [BitVec.ofNat_toNat, BitVec.setWidth_eq]
theorem smcFwld (h : Hdr) (a b : BitVec 6) : Statement (.smcFwld h a b) := by
  intro _ hw w1
  refine decode_of_raw (w1 := w1) (by show fieldWidth [(30, 16777216), (6, 0), (6, b.toNat), (6, a.toNat), (3, h.pred.toNat), (1, h.neg.toNat), (4, h.stall.toNat), (8, 0xf0)] = 64; simp only [fieldWidth]) ?_ hw
  rw [show Instr.fields (.smcFwld h a b) = [(30, 16777216), (6, 0), (6, b.toNat), (6, a.toNat), (3, h.pred.toNat), (1, h.neg.toNat), (4, h.stall.toNat)] ++ [(8, 0xF0)] from rfl]
  obtain ⟨e1, e2⟩ := nibbles [(30, 16777216), (6, 0), (6, b.toNat), (6, a.toNat), (3, h.pred.toNat), (1, h.neg.toNat), (4, h.stall.toNat)] 0xF0 15 0 (by simp only [fieldWidth]) rfl rfl
  rw [decodeRaw_hiF _ _ e1, decHiF_0 _ _ _ e2]
  have u : unpackBits [30, 6, 6, 6, 3, 1, 4, 8] (packBits ([(30, 16777216), (6, 0), (6, b.toNat), (6, a.toNat), (3, h.pred.toNat), (1, h.neg.toNat), (4, h.stall.toNat)] ++ [(8, 0xF0)])) = [16777216, 0, b.toNat, a.toNat, h.pred.toNat, h.neg.toNat, h.stall.toNat, 240] :=
    unpackBits_pack [(30, 16777216), (6, 0), (6, b.toNat), (6, a.toNat), (3, h.pred.toNat), (1, h.neg.toNat), (4, h.stall.toNat), (8, 0xf0)] ⟨by decide, by decide, b.isLt, a.isLt, h.pred.isLt, h.neg.isLt, h.stall.isLt, by decide, trivial⟩
  unfold decOpF0
  rw [u]
  show (some (Instr.smcFwld ⟨BitVec.ofNat 4 h.stall.toNat, BitVec.ofNat 1 h.neg.toNat, BitVec.ofNat 3 h.pred.toNat⟩ (BitVec.ofNat 6 a.toNat) (BitVec.ofNat 6 b.toNat))) = _
  simp only [BitVec.ofNat_toNat, BitVec.setWidth_eq]
theorem smcVer (h : Hdr) (a : BitVec 6) : Statement (.smcVer h a) := by
  intro _ hw w1
  refine decode_of_raw (w1 := w1) (by show fieldWidth [(30, 33554432), (6, 0), (6, 0), (6, a.toNat), (3, h.pred.toNat), (1, h.neg.toNat), (4, h.stall.toNat), (8, 0xf0)] = 64; simp only [fieldWidth]) ?_ hw
  rw [show Instr.fields (.smcVer h a) = [(30, 33554432), (6, 0), (6, 0), (6, a.toNat), (3, h.pred.toNat), (1, h.neg.toNat), (4, h.stall.toNat)] ++ [(8, 0xF0)] from rfl]
  obtain ⟨e1, e2⟩ := nibbles [(30, 33554432), (6, 0), (6, 0), (6, a.toNat), (3, h.pred.toNat), (1, h.neg.toNat), (4, h.stall.toNat)] 0xF0 15 0 (by simp only [fieldWidth]) rfl rfl
  rw [decodeRaw_hiF _ _ e1, decHiF_0 _ _ _ e2]
  have u : unpackBits [30, 6, 6, 6, 3, 1, 4, 8] (packBits ([(30, 33554432), (6, 0), (6, 0), (6, a.toNat), (3, h.pred.toNat), (1, h.neg.toNat), (4, h.stall.toNat)] ++ [(8, 0xF0)])) = [33554432, 0, 0, a.toNat, h.pred.toNat, h.neg.toNat, h.stall.toNat, 240] :=
    unpackBits_pack [(30, 33554432), (6, 0), (6, 0), (6, a.toNat), (3, h.pred.toNat), (1, h.neg.toNat), (4, h.stall.toNat), (8, 0xf0)] ⟨by decide, by decide, by decide, a.isLt, h.pred.isLt, h.neg.isLt, h.stall.isLt, by decide, trivial⟩
  unfold decOpF0
  rw [u]
  show (some (Instr.smcVer ⟨BitVec.ofNat 4 h.stall.toNat, BitVec.ofNat 1 h.neg.toNat, BitVec.ofNat 3 h.pred.toNat⟩ (BitVec.ofNat 6 a.toNat))) = _
  simp only [BitVec.ofNat_toNat, BitVec.setWidth_eq]
theorem perfRead (h : Hdr) (a b : BitVec 6) : Statement (.perfRead h a b) := by
  intro _ hw w1
  refine decode_of_raw (w1 := w1) (by show fieldWidth [(36, 0), (6, b.toNat), (6, a.toNat), (3, h.pred.toNat), (1, h.neg.toNat), (4, h.stall.toNat), (8, 0xf1)] = 64; simp only [fieldWidth]) ?_ hw
  rw [show Instr.fields (.perfRead h a b) = [(36, 0), (6, b.toNat), (6, a.toNat), (3, h.pred.toNat), (1, h.neg.toNat), (4, h.stall.toNat)] ++ [(8, 0xF1)] from rfl]
  obtain ⟨e1, e2⟩ := nibbles [(36, 0), (6, b.toNat), (6, a.toNat), (3, h.pred.toNat), (1, h.neg.toNat), (4, h.stall.toNat)] 0xF1 15 1 (by simp only [fieldWidth]) rfl rfl
  rw [decodeRaw_hiF _ _ e1, decHiF_1 _ _ _ e2]
  have u : unpackBits [36, 6, 6, 3, 1, 4, 8] (packBits ([(36, 0), (6, b.toNat), (6, a.toNat), (3, h.pred.toNat), (1, h.neg.toNat), (4, h.stall.toNat)] ++ [(8, 0xF1)])) = [0, b.toNat, a.toNat, h.pred.toNat, h.neg.toNat, h.stall.toNat, 241] :=
    unpackBits_pack [(36, 0), (6, b.toNat), (6, a.toNat), (3, h.pred.toNat), (1, h.neg.toNat), (4, h.stall.toNat), (8, 0xf1)] ⟨by decide, b.isLt, a.isLt, h.pred.isLt, h.neg.isLt, h.stall.isLt, by decide, trivial⟩
  unfold decOpF1
  rw [u]
  show (some (Instr.perfRead ⟨BitVec.ofNat 4 h.stall.toNat, BitVec.ofNat 1 h.neg.toNat, BitVec.ofNat 3 h.pred.toNat⟩ (BitVec.ofNat 6 a.toNat) (BitVec.ofNat 6 b.toNat))) = _
  simp only [BitVec.ofNat_toNat, BitVec.setWidth_eq]
theorem perfClr (h : Hdr) (a b : BitVec 6) : Statement (.perfClr h a b) := by
  intro _ hw w1
  refine decode_of_raw (w1 := w1) (by show fieldWidth [(36, 16777216), (6, b.toNat), (6, a.toNat), (3, h.pred.toNat), (1, h.neg.toNat), (4, h.stall.toNat), (8, 0xf1)] = 64; simp only [fieldWidth]) ?_ hw
  rw [show Instr.fields (.perfClr h a b) = [(36, 16777216), (6, b.toNat), (6, a.toNat), (3, h.pred.toNat), (1, h.neg.toNat), (4, h.stall.toNat)] ++ [(8, 0xF1)] from rfl]
  obtain ⟨e1, e2⟩ := nibbles [(36, 16777216), (6, b.toNat), (6, a.toNat), (3, h.pred.toNat), (1, h.neg.toNat), (4, h.stall.toNat)] 0xF1 15 1 (by simp only [fieldWidth]) rfl rfl
  rw [decodeRaw_hiF _ _ e1, decHiF_1 _ _ _ e2]
  have u : unpackBits [36, 6, 6, 3, 1, 4, 8] (packBits ([(36, 16777216), (6, b.toNat), (6, a.toNat), (3, h.pred.toNat), (1, h.neg.toNat), (4, h.stall.toNat)] ++ [(8, 0xF1)])) = [16777216, b.toNat, a.toNat, h.pred.toNat, h.neg.toNat, h.stall.toNat, 241] :=
    unpackBits_pack [(36, 16777216), (6, b.toNat), (6, a.toNat), (3, h.pred.toNat), (1, h.neg.toNat), (4, h.stall.toNat), (8, 0xf1)] ⟨by decide, b.isLt, a.isLt, h.pred.isLt, h.neg.isLt, h.stall.isLt, by decide, trivial⟩
  unfold decOpF1
  rw [u]
  show (some (Instr.perfClr ⟨BitVec.ofNat 4 h.stall.toNat, BitVec.ofNat 1 h.neg.toNat, BitVec.ofNat 3 h.pred.toNat⟩ (BitVec.ofNat 6 a.toNat) (BitVec.ofNat 6 b.toNat))) = _
  simp only [BitVec.ofNat_toNat, BitVec.setWidth_eq]
theorem dbgHalt (h : Hdr) (a b : BitVec 6) : Statement (.dbgHalt h a b) := by
  intro _ hw w1
  refine decode_of_raw (w1 := w1) (by show fieldWidth [(30, 0), (6, 0), (6, b.toNat), (6, a.toNat), (3, h.pred.toNat), (1, h.neg.toNat), (4, h.stall.toNat), (8, 0xf2)] = 64; simp only [fieldWidth]) ?_ hw
  rw [show Instr.fields (.dbgHalt h a b) = [(30, 0), (6, 0), (6, b.toNat), (6, a.toNat), (3, h.pred.toNat), (1, h.neg.toNat), (4, h.stall.toNat)] ++ [(8, 0xF2)] from rfl]
  obtain ⟨e1, e2⟩ := nibbles [(30, 0), (6, 0), (6, b.toNat), (6, a.toNat), (3, h.pred.toNat), (1, h.neg.toNat), (4, h.stall.toNat)] 0xF2 15 2 (by simp only [fieldWidth]) rfl rfl
  rw [decodeRaw_hiF _ _ e1, decHiF_2 _ _ _ e2]
  have u : unpackBits [30, 6, 6, 6, 3, 1, 4, 8] (packBits ([(30, 0), (6, 0), (6, b.toNat), (6, a.toNat), (3, h.pred.toNat), (1, h.neg.toNat), (4, h.stall.toNat)] ++ [(8, 0xF2)])) = [0, 0, b.toNat, a.toNat, h.pred.toNat, h.neg.toNat, h.stall.toNat, 242] :=
    unpackBits_pack [(30, 0), (6, 0), (6, b.toNat), (6, a.toNat), (3, h.pred.toNat), (1, h.neg.toNat), (4, h.stall.toNat), (8, 0xf2)] ⟨by decide, by decide, b.isLt, a.isLt, h.pred.isLt, h.neg.isLt, h.stall.isLt, by decide, trivial⟩
  unfold decOpF2
  rw [u]
  show (some (Instr.dbgHalt ⟨BitVec.ofNat 4 h.stall.toNat, BitVec.ofNat 1 h.neg.toNat, BitVec.ofNat 3 h.pred.toNat⟩ (BitVec.ofNat 6 a.toNat) (BitVec.ofNat 6 b.toNat))) = _
  simp only [BitVec.ofNat_toNat, BitVec.setWidth_eq]
theorem dbgGo (h : Hdr) (a b : BitVec 6) : Statement (.dbgGo h a b) := by
  intro _ hw w1
  refine decode_of_raw (w1 := w1) (by show fieldWidth [(30, 16777216), (6, 0), (6, b.toNat), (6, a.toNat), (3, h.pred.toNat), (1, h.neg.toNat), (4, h.stall.toNat), (8, 0xf2)] = 64; simp only [fieldWidth]) ?_ hw
  rw [show Instr.fields (.dbgGo h a b) = [(30, 16777216), (6, 0), (6, b.toNat), (6, a.toNat), (3, h.pred.toNat), (1, h.neg.toNat), (4, h.stall.toNat)] ++ [(8, 0xF2)] from rfl]
  obtain ⟨e1, e2⟩ := nibbles [(30, 16777216), (6, 0), (6, b.toNat), (6, a.toNat), (3, h.pred.toNat), (1, h.neg.toNat), (4, h.stall.toNat)] 0xF2 15 2 (by simp only [fieldWidth]) rfl rfl
  rw [decodeRaw_hiF _ _ e1, decHiF_2 _ _ _ e2]
  have u : unpackBits [30, 6, 6, 6, 3, 1, 4, 8] (packBits ([(30, 16777216), (6, 0), (6, b.toNat), (6, a.toNat), (3, h.pred.toNat), (1, h.neg.toNat), (4, h.stall.toNat)] ++ [(8, 0xF2)])) = [16777216, 0, b.toNat, a.toNat, h.pred.toNat, h.neg.toNat, h.stall.toNat, 242] :=
    unpackBits_pack [(30, 16777216), (6, 0), (6, b.toNat), (6, a.toNat), (3, h.pred.toNat), (1, h.neg.toNat), (4, h.stall.toNat), (8, 0xf2)] ⟨by decide, by decide, b.isLt, a.isLt, h.pred.isLt, h.neg.isLt, h.stall.isLt, by decide, trivial⟩
  unfold decOpF2
  rw [u]
  show (some (Instr.dbgGo ⟨BitVec.ofNat 4 h.stall.toNat, BitVec.ofNat 1 h.neg.toNat, BitVec.ofNat 3 h.pred.toNat⟩ (BitVec.ofNat 6 a.toNat) (BitVec.ofNat 6 b.toNat))) = _
  simp only [BitVec.ofNat_toNat, BitVec.setWidth_eq]
theorem dbgRd (h : Hdr) (a b c : BitVec 6) : Statement (.dbgRd h a b c) := by
  intro _ hw w1
  refine decode_of_raw (w1 := w1) (by show fieldWidth [(30, 33554432), (6, c.toNat), (6, b.toNat), (6, a.toNat), (3, h.pred.toNat), (1, h.neg.toNat), (4, h.stall.toNat), (8, 0xf2)] = 64; simp only [fieldWidth]) ?_ hw
  rw [show Instr.fields (.dbgRd h a b c) = [(30, 33554432), (6, c.toNat), (6, b.toNat), (6, a.toNat), (3, h.pred.toNat), (1, h.neg.toNat), (4, h.stall.toNat)] ++ [(8, 0xF2)] from rfl]
  obtain ⟨e1, e2⟩ := nibbles [(30, 33554432), (6, c.toNat), (6, b.toNat), (6, a.toNat), (3, h.pred.toNat), (1, h.neg.toNat), (4, h.stall.toNat)] 0xF2 15 2 (by simp only [fieldWidth]) rfl rfl
  rw [decodeRaw_hiF _ _ e1, decHiF_2 _ _ _ e2]
  have u : unpackBits [30, 6, 6, 6, 3, 1, 4, 8] (packBits ([(30, 33554432), (6, c.toNat), (6, b.toNat), (6, a.toNat), (3, h.pred.toNat), (1, h.neg.toNat), (4, h.stall.toNat)] ++ [(8, 0xF2)])) = [33554432, c.toNat, b.toNat, a.toNat, h.pred.toNat, h.neg.toNat, h.stall.toNat, 242] :=
    unpackBits_pack [(30, 33554432), (6, c.toNat), (6, b.toNat), (6, a.toNat), (3, h.pred.toNat), (1, h.neg.toNat), (4, h.stall.toNat), (8, 0xf2)] ⟨by decide, c.isLt, b.isLt, a.isLt, h.pred.isLt, h.neg.isLt, h.stall.isLt, by decide, trivial⟩
  unfold decOpF2
  rw [u]
  show (some (Instr.dbgRd ⟨BitVec.ofNat 4 h.stall.toNat, BitVec.ofNat 1 h.neg.toNat, BitVec.ofNat 3 h.pred.toNat⟩ (BitVec.ofNat 6 a.toNat) (BitVec.ofNat 6 b.toNat) (BitVec.ofNat 6 c.toNat))) = _
  simp only [BitVec.ofNat_toNat, BitVec.setWidth_eq]
theorem dbgWr (h : Hdr) (a b c : BitVec 6) : Statement (.dbgWr h a b c) := by
  intro _ hw w1
  refine decode_of_raw (w1 := w1) (by show fieldWidth [(30, 50331648), (6, c.toNat), (6, b.toNat), (6, a.toNat), (3, h.pred.toNat), (1, h.neg.toNat), (4, h.stall.toNat), (8, 0xf2)] = 64; simp only [fieldWidth]) ?_ hw
  rw [show Instr.fields (.dbgWr h a b c) = [(30, 50331648), (6, c.toNat), (6, b.toNat), (6, a.toNat), (3, h.pred.toNat), (1, h.neg.toNat), (4, h.stall.toNat)] ++ [(8, 0xF2)] from rfl]
  obtain ⟨e1, e2⟩ := nibbles [(30, 50331648), (6, c.toNat), (6, b.toNat), (6, a.toNat), (3, h.pred.toNat), (1, h.neg.toNat), (4, h.stall.toNat)] 0xF2 15 2 (by simp only [fieldWidth]) rfl rfl
  rw [decodeRaw_hiF _ _ e1, decHiF_2 _ _ _ e2]
  have u : unpackBits [30, 6, 6, 6, 3, 1, 4, 8] (packBits ([(30, 50331648), (6, c.toNat), (6, b.toNat), (6, a.toNat), (3, h.pred.toNat), (1, h.neg.toNat), (4, h.stall.toNat)] ++ [(8, 0xF2)])) = [50331648, c.toNat, b.toNat, a.toNat, h.pred.toNat, h.neg.toNat, h.stall.toNat, 242] :=
    unpackBits_pack [(30, 50331648), (6, c.toNat), (6, b.toNat), (6, a.toNat), (3, h.pred.toNat), (1, h.neg.toNat), (4, h.stall.toNat), (8, 0xf2)] ⟨by decide, c.isLt, b.isLt, a.isLt, h.pred.isLt, h.neg.isLt, h.stall.isLt, by decide, trivial⟩
  unfold decOpF2
  rw [u]
  show (some (Instr.dbgWr ⟨BitVec.ofNat 4 h.stall.toNat, BitVec.ofNat 1 h.neg.toNat, BitVec.ofNat 3 h.pred.toNat⟩ (BitVec.ofNat 6 a.toNat) (BitVec.ofNat 6 b.toNat) (BitVec.ofNat 6 c.toNat))) = _
  simp only [BitVec.ofNat_toNat, BitVec.setWidth_eq]
theorem dbgSig (h : Hdr) (a b c : BitVec 6) : Statement (.dbgSig h a b c) := by
  intro _ hw w1
  refine decode_of_raw (w1 := w1) (by show fieldWidth [(30, 67108864), (6, c.toNat), (6, b.toNat), (6, a.toNat), (3, h.pred.toNat), (1, h.neg.toNat), (4, h.stall.toNat), (8, 0xf2)] = 64; simp only [fieldWidth]) ?_ hw
  rw [show Instr.fields (.dbgSig h a b c) = [(30, 67108864), (6, c.toNat), (6, b.toNat), (6, a.toNat), (3, h.pred.toNat), (1, h.neg.toNat), (4, h.stall.toNat)] ++ [(8, 0xF2)] from rfl]
  obtain ⟨e1, e2⟩ := nibbles [(30, 67108864), (6, c.toNat), (6, b.toNat), (6, a.toNat), (3, h.pred.toNat), (1, h.neg.toNat), (4, h.stall.toNat)] 0xF2 15 2 (by simp only [fieldWidth]) rfl rfl
  rw [decodeRaw_hiF _ _ e1, decHiF_2 _ _ _ e2]
  have u : unpackBits [30, 6, 6, 6, 3, 1, 4, 8] (packBits ([(30, 67108864), (6, c.toNat), (6, b.toNat), (6, a.toNat), (3, h.pred.toNat), (1, h.neg.toNat), (4, h.stall.toNat)] ++ [(8, 0xF2)])) = [67108864, c.toNat, b.toNat, a.toNat, h.pred.toNat, h.neg.toNat, h.stall.toNat, 242] :=
    unpackBits_pack [(30, 67108864), (6, c.toNat), (6, b.toNat), (6, a.toNat), (3, h.pred.toNat), (1, h.neg.toNat), (4, h.stall.toNat), (8, 0xf2)] ⟨by decide, c.isLt, b.isLt, a.isLt, h.pred.isLt, h.neg.isLt, h.stall.isLt, by decide, trivial⟩
  unfold decOpF2
  rw [u]
  show (some (Instr.dbgSig ⟨BitVec.ofNat 4 h.stall.toNat, BitVec.ofNat 1 h.neg.toNat, BitVec.ofNat 3 h.pred.toNat⟩ (BitVec.ofNat 6 a.toNat) (BitVec.ofNat 6 b.toNat) (BitVec.ofNat 6 c.toNat))) = _
  simp only [BitVec.ofNat_toNat, BitVec.setWidth_eq]
theorem atst (h : Hdr) (a b c : BitVec 6) : Statement (.atst h a b c) := by
  intro _ hw w1
  refine decode_of_raw (w1 := w1) (by show fieldWidth [(30, 0), (6, c.toNat), (6, b.toNat), (6, a.toNat), (3, h.pred.toNat), (1, h.neg.toNat), (4, h.stall.toNat), (8, 0xf3)] = 64; simp only [fieldWidth]) ?_ hw
  rw [show Instr.fields (.atst h a b c) = [(30, 0), (6, c.toNat), (6, b.toNat), (6, a.toNat), (3, h.pred.toNat), (1, h.neg.toNat), (4, h.stall.toNat)] ++ [(8, 0xF3)] from rfl]
  obtain ⟨e1, e2⟩ := nibbles [(30, 0), (6, c.toNat), (6, b.toNat), (6, a.toNat), (3, h.pred.toNat), (1, h.neg.toNat), (4, h.stall.toNat)] 0xF3 15 3 (by simp only [fieldWidth]) rfl rfl
  rw [decodeRaw_hiF _ _ e1, decHiF_3 _ _ _ e2]
  have u : unpackBits [30, 6, 6, 6, 3, 1, 4, 8] (packBits ([(30, 0), (6, c.toNat), (6, b.toNat), (6, a.toNat), (3, h.pred.toNat), (1, h.neg.toNat), (4, h.stall.toNat)] ++ [(8, 0xF3)])) = [0, c.toNat, b.toNat, a.toNat, h.pred.toNat, h.neg.toNat, h.stall.toNat, 243] :=
    unpackBits_pack [(30, 0), (6, c.toNat), (6, b.toNat), (6, a.toNat), (3, h.pred.toNat), (1, h.neg.toNat), (4, h.stall.toNat), (8, 0xf3)] ⟨by decide, c.isLt, b.isLt, a.isLt, h.pred.isLt, h.neg.isLt, h.stall.isLt, by decide, trivial⟩
  unfold decOpF3
  rw [u]
  show (some (Instr.atst ⟨BitVec.ofNat 4 h.stall.toNat, BitVec.ofNat 1 h.neg.toNat, BitVec.ofNat 3 h.pred.toNat⟩ (BitVec.ofNat 6 a.toNat) (BitVec.ofNat 6 b.toNat) (BitVec.ofNat 6 c.toNat))) = _
  simp only [BitVec.ofNat_toNat, BitVec.setWidth_eq]
theorem pwrqMax (h : Hdr) (a b : BitVec 6) : Statement (.pwrqMax h a b) := by
  intro _ hw w1
  refine decode_of_raw (w1 := w1) (by show fieldWidth [(30, 0), (6, 0), (6, b.toNat), (6, a.toNat), (3, h.pred.toNat), (1, h.neg.toNat), (4, h.stall.toNat), (8, 0xf4)] = 64; simp only [fieldWidth]) ?_ hw
  rw [show Instr.fields (.pwrqMax h a b) = [(30, 0), (6, 0), (6, b.toNat), (6, a.toNat), (3, h.pred.toNat), (1, h.neg.toNat), (4, h.stall.toNat)] ++ [(8, 0xF4)] from rfl]
  obtain ⟨e1, e2⟩ := nibbles [(30, 0), (6, 0), (6, b.toNat), (6, a.toNat), (3, h.pred.toNat), (1, h.neg.toNat), (4, h.stall.toNat)] 0xF4 15 4 (by simp only [fieldWidth]) rfl rfl
  rw [decodeRaw_hiF _ _ e1, decHiF_4 _ _ _ e2]
  have u : unpackBits [30, 6, 6, 6, 3, 1, 4, 8] (packBits ([(30, 0), (6, 0), (6, b.toNat), (6, a.toNat), (3, h.pred.toNat), (1, h.neg.toNat), (4, h.stall.toNat)] ++ [(8, 0xF4)])) = [0, 0, b.toNat, a.toNat, h.pred.toNat, h.neg.toNat, h.stall.toNat, 244] :=
    unpackBits_pack [(30, 0), (6, 0), (6, b.toNat), (6, a.toNat), (3, h.pred.toNat), (1, h.neg.toNat), (4, h.stall.toNat), (8, 0xf4)] ⟨by decide, by decide, b.isLt, a.isLt, h.pred.isLt, h.neg.isLt, h.stall.isLt, by decide, trivial⟩
  unfold decOpF4
  rw [u]
  show (some (Instr.pwrqMax ⟨BitVec.ofNat 4 h.stall.toNat, BitVec.ofNat 1 h.neg.toNat, BitVec.ofNat 3 h.pred.toNat⟩ (BitVec.ofNat 6 a.toNat) (BitVec.ofNat 6 b.toNat))) = _
  simp only [BitVec.ofNat_toNat, BitVec.setWidth_eq]
theorem pwrqState (h : Hdr) (a b c : BitVec 6) : Statement (.pwrqState h a b c) := by
  intro _ hw w1
  refine decode_of_raw (w1 := w1) (by show fieldWidth [(30, 16777216), (6, c.toNat), (6, b.toNat), (6, a.toNat), (3, h.pred.toNat), (1, h.neg.toNat), (4, h.stall.toNat), (8, 0xf4)] = 64; simp only [fieldWidth]) ?_ hw
  rw [show Instr.fields (.pwrqState h a b c) = [(30, 16777216), (6, c.toNat), (6, b.toNat), (6, a.toNat), (3, h.pred.toNat), (1, h.neg.toNat), (4, h.stall.toNat)] ++ [(8, 0xF4)] from rfl]
  obtain ⟨e1, e2⟩ := nibbles [(30, 16777216), (6, c.toNat), (6, b.toNat), (6, a.toNat), (3, h.pred.toNat), (1, h.neg.toNat), (4, h.stall.toNat)] 0xF4 15 4 (by simp only [fieldWidth]) rfl rfl
  rw [decodeRaw_hiF _ _ e1, decHiF_4 _ _ _ e2]
  have u : unpackBits [30, 6, 6, 6, 3, 1, 4, 8] (packBits ([(30, 16777216), (6, c.toNat), (6, b.toNat), (6, a.toNat), (3, h.pred.toNat), (1, h.neg.toNat), (4, h.stall.toNat)] ++ [(8, 0xF4)])) = [16777216, c.toNat, b.toNat, a.toNat, h.pred.toNat, h.neg.toNat, h.stall.toNat, 244] :=
    unpackBits_pack [(30, 16777216), (6, c.toNat), (6, b.toNat), (6, a.toNat), (3, h.pred.toNat), (1, h.neg.toNat), (4, h.stall.toNat), (8, 0xf4)] ⟨by decide, c.isLt, b.isLt, a.isLt, h.pred.isLt, h.neg.isLt, h.stall.isLt, by decide, trivial⟩
  unfold decOpF4
  rw [u]
  show (some (Instr.pwrqState ⟨BitVec.ofNat 4 h.stall.toNat, BitVec.ofNat 1 h.neg.toNat, BitVec.ofNat 3 h.pred.toNat⟩ (BitVec.ofNat 6 a.toNat) (BitVec.ofNat 6 b.toNat) (BitVec.ofNat 6 c.toNat))) = _
  simp only [BitVec.ofNat_toNat, BitVec.setWidth_eq]
theorem alim (h : Hdr) (a b c : BitVec 6) : Statement (.alim h a b c) := by
  intro _ hw w1
  refine decode_of_raw (w1 := w1) (by show fieldWidth [(30, 0), (6, c.toNat), (6, b.toNat), (6, a.toNat), (3, h.pred.toNat), (1, h.neg.toNat), (4, h.stall.toNat), (8, 0xf5)] = 64; simp only [fieldWidth]) ?_ hw
  rw [show Instr.fields (.alim h a b c) = [(30, 0), (6, c.toNat), (6, b.toNat), (6, a.toNat), (3, h.pred.toNat), (1, h.neg.toNat), (4, h.stall.toNat)] ++ [(8, 0xF5)] from rfl]
  obtain ⟨e1, e2⟩ := nibbles [(30, 0), (6, c.toNat), (6, b.toNat), (6, a.toNat), (3, h.pred.toNat), (1, h.neg.toNat), (4, h.stall.toNat)] 0xF5 15 5 (by simp only [fieldWidth]) rfl rfl
  rw [decodeRaw_hiF _ _ e1, decHiF_5 _ _ _ e2]
  have u : unpackBits [30, 6, 6, 6, 3, 1, 4, 8] (packBits ([(30, 0), (6, c.toNat), (6, b.toNat), (6, a.toNat), (3, h.pred.toNat), (1, h.neg.toNat), (4, h.stall.toNat)] ++ [(8, 0xF5)])) = [0, c.toNat, b.toNat, a.toNat, h.pred.toNat, h.neg.toNat, h.stall.toNat, 245] :=
    unpackBits_pack [(30, 0), (6, c.toNat), (6, b.toNat), (6, a.toNat), (3, h.pred.toNat), (1, h.neg.toNat), (4, h.stall.toNat), (8, 0xf5)] ⟨by decide, c.isLt, b.isLt, a.isLt, h.pred.isLt, h.neg.isLt, h.stall.isLt, by decide, trivial⟩
  unfold decOpF5
  rw [u]
  show (some (Instr.alim ⟨BitVec.ofNat 4 h.stall.toNat, BitVec.ofNat 1 h.neg.toNat, BitVec.ofNat 3 h.pred.toNat⟩ (BitVec.ofNat 6 a.toNat) (BitVec.ofNat 6 b.toNat) (BitVec.ofNat 6 c.toNat))) = _
  simp only [BitVec.ofNat_toNat, BitVec.setWidth_eq]
theorem hmsg (h : Hdr) (a b : BitVec 6) (vec : BitVec 11) : Statement (.hmsg h a b vec) := by
  intro _ hw w1
  refine decode_of_raw (w1 := w1) (by show fieldWidth [(11, vec.toNat), (25, 0), (6, b.toNat), (6, a.toNat), (3, h.pred.toNat), (1, h.neg.toNat), (4, h.stall.toNat), (8, 0xf6)] = 64; simp only [fieldWidth]) ?_ hw
  rw [show Instr.fields (.hmsg h a b vec) = [(11, vec.toNat), (25, 0), (6, b.toNat), (6, a.toNat), (3, h.pred.toNat), (1, h.neg.toNat), (4, h.stall.toNat)] ++ [(8, 0xF6)] from rfl]
  obtain ⟨e1, e2⟩ := nibbles [(11, vec.toNat), (25, 0), (6, b.toNat), (6, a.toNat), (3, h.pred.toNat), (1, h.neg.toNat), (4, h.stall.toNat)] 0xF6 15 6 (by simp only [fieldWidth]) rfl rfl
  rw [decodeRaw_hiF _ _ e1, decHiF_6 _ _ _ e2]
  have u : unpackBits [11, 25, 6, 6, 3, 1, 4, 8] (packBits ([(11, vec.toNat), (25, 0), (6, b.toNat), (6, a.toNat), (3, h.pred.toNat), (1, h.neg.toNat), (4, h.stall.toNat)] ++ [(8, 0xF6)])) = [vec.toNat, 0, b.toNat, a.toNat, h.pred.toNat, h.neg.toNat, h.stall.toNat, 246] :=
    unpackBits_pack [(11, vec.toNat), (25, 0), (6, b.toNat), (6, a.toNat), (3, h.pred.toNat), (1, h.neg.toNat), (4, h.stall.toNat), (8, 0xf6)] ⟨vec.isLt, by decide, b.isLt, a.isLt, h.pred.isLt, h.neg.isLt, h.stall.isLt, by decide, trivial⟩
  unfold decOpF6
  rw [u]
  show (some (Instr.hmsg ⟨BitVec.ofNat 4 h.stall.toNat, BitVec.ofNat 1 h.neg.toNat, BitVec.ofNat 3 h.pred.toNat⟩ (BitVec.ofNat 6 a.toNat) (BitVec.ofNat 6 b.toNat) (BitVec.ofNat 11 vec.toNat))) = _
  simp only [BitVec.ofNat_toNat, BitVec.setWidth_eq]
theorem pmsgSend (h : Hdr) (a b c ch : BitVec 6) : Statement (.pmsgSend h a b c ch) := by
  intro _ hw w1
  refine decode_of_raw (w1 := w1) (by show fieldWidth [(6, ch.toNat), (24, 0), (6, c.toNat), (6, b.toNat), (6, a.toNat), (3, h.pred.toNat), (1, h.neg.toNat), (4, h.stall.toNat), (8, 0xf7)] = 64; simp only [fieldWidth]) ?_ hw
  rw [show Instr.fields (.pmsgSend h a b c ch) = [(6, ch.toNat), (24, 0), (6, c.toNat), (6, b.toNat), (6, a.toNat), (3, h.pred.toNat), (1, h.neg.toNat), (4, h.stall.toNat)] ++ [(8, 0xF7)] from rfl]
  obtain ⟨e1, e2⟩ := nibbles [(6, ch.toNat), (24, 0), (6, c.toNat), (6, b.toNat), (6, a.toNat), (3, h.pred.toNat), (1, h.neg.toNat), (4, h.stall.toNat)] 0xF7 15 7 (by simp only [fieldWidth]) rfl rfl
  rw [decodeRaw_hiF _ _ e1, decHiF_7 _ _ _ e2]
  have u : unpackBits [6, 24, 6, 6, 6, 3, 1, 4, 8] (packBits ([(6, ch.toNat), (24, 0), (6, c.toNat), (6, b.toNat), (6, a.toNat), (3, h.pred.toNat), (1, h.neg.toNat), (4, h.stall.toNat)] ++ [(8, 0xF7)])) = [ch.toNat, 0, c.toNat, b.toNat, a.toNat, h.pred.toNat, h.neg.toNat, h.stall.toNat, 247] :=
    unpackBits_pack [(6, ch.toNat), (24, 0), (6, c.toNat), (6, b.toNat), (6, a.toNat), (3, h.pred.toNat), (1, h.neg.toNat), (4, h.stall.toNat), (8, 0xf7)] ⟨ch.isLt, by decide, c.isLt, b.isLt, a.isLt, h.pred.isLt, h.neg.isLt, h.stall.isLt, by decide, trivial⟩
  unfold decOpF7
  rw [u]
  show (some (Instr.pmsgSend ⟨BitVec.ofNat 4 h.stall.toNat, BitVec.ofNat 1 h.neg.toNat, BitVec.ofNat 3 h.pred.toNat⟩ (BitVec.ofNat 6 a.toNat) (BitVec.ofNat 6 b.toNat) (BitVec.ofNat 6 c.toNat) (BitVec.ofNat 6 ch.toNat))) = _
  simp only [BitVec.ofNat_toNat, BitVec.setWidth_eq]
theorem pmsgRecv (h : Hdr) (a b ch : BitVec 6) : Statement (.pmsgRecv h a b ch) := by
  intro _ hw w1
  refine decode_of_raw (w1 := w1) (by show fieldWidth [(6, ch.toNat), (24, 262144), (6, 0), (6, b.toNat), (6, a.toNat), (3, h.pred.toNat), (1, h.neg.toNat), (4, h.stall.toNat), (8, 0xf7)] = 64; simp only [fieldWidth]) ?_ hw
  rw [show Instr.fields (.pmsgRecv h a b ch) = [(6, ch.toNat), (24, 262144), (6, 0), (6, b.toNat), (6, a.toNat), (3, h.pred.toNat), (1, h.neg.toNat), (4, h.stall.toNat)] ++ [(8, 0xF7)] from rfl]
  obtain ⟨e1, e2⟩ := nibbles [(6, ch.toNat), (24, 262144), (6, 0), (6, b.toNat), (6, a.toNat), (3, h.pred.toNat), (1, h.neg.toNat), (4, h.stall.toNat)] 0xF7 15 7 (by simp only [fieldWidth]) rfl rfl
  rw [decodeRaw_hiF _ _ e1, decHiF_7 _ _ _ e2]
  have u : unpackBits [6, 24, 6, 6, 6, 3, 1, 4, 8] (packBits ([(6, ch.toNat), (24, 262144), (6, 0), (6, b.toNat), (6, a.toNat), (3, h.pred.toNat), (1, h.neg.toNat), (4, h.stall.toNat)] ++ [(8, 0xF7)])) = [ch.toNat, 262144, 0, b.toNat, a.toNat, h.pred.toNat, h.neg.toNat, h.stall.toNat, 247] :=
    unpackBits_pack [(6, ch.toNat), (24, 262144), (6, 0), (6, b.toNat), (6, a.toNat), (3, h.pred.toNat), (1, h.neg.toNat), (4, h.stall.toNat), (8, 0xf7)] ⟨ch.isLt, by decide, by decide, b.isLt, a.isLt, h.pred.isLt, h.neg.isLt, h.stall.isLt, by decide, trivial⟩
  unfold decOpF7
  rw [u]
  show (some (Instr.pmsgRecv ⟨BitVec.ofNat 4 h.stall.toNat, BitVec.ofNat 1 h.neg.toNat, BitVec.ofNat 3 h.pred.toNat⟩ (BitVec.ofNat 6 a.toNat) (BitVec.ofNat 6 b.toNat) (BitVec.ofNat 6 ch.toNat))) = _
  simp only [BitVec.ofNat_toNat, BitVec.setWidth_eq]
theorem pmsgWait (h : Hdr) (a ch : BitVec 6) : Statement (.pmsgWait h a ch) := by
  intro _ hw w1
  refine decode_of_raw (w1 := w1) (by show fieldWidth [(6, ch.toNat), (24, 524288), (6, 0), (6, 0), (6, a.toNat), (3, h.pred.toNat), (1, h.neg.toNat), (4, h.stall.toNat), (8, 0xf7)] = 64; simp only [fieldWidth]) ?_ hw
  rw [show Instr.fields (.pmsgWait h a ch) = [(6, ch.toNat), (24, 524288), (6, 0), (6, 0), (6, a.toNat), (3, h.pred.toNat), (1, h.neg.toNat), (4, h.stall.toNat)] ++ [(8, 0xF7)] from rfl]
  obtain ⟨e1, e2⟩ := nibbles [(6, ch.toNat), (24, 524288), (6, 0), (6, 0), (6, a.toNat), (3, h.pred.toNat), (1, h.neg.toNat), (4, h.stall.toNat)] 0xF7 15 7 (by simp only [fieldWidth]) rfl rfl
  rw [decodeRaw_hiF _ _ e1, decHiF_7 _ _ _ e2]
  have u : unpackBits [6, 24, 6, 6, 6, 3, 1, 4, 8] (packBits ([(6, ch.toNat), (24, 524288), (6, 0), (6, 0), (6, a.toNat), (3, h.pred.toNat), (1, h.neg.toNat), (4, h.stall.toNat)] ++ [(8, 0xF7)])) = [ch.toNat, 524288, 0, 0, a.toNat, h.pred.toNat, h.neg.toNat, h.stall.toNat, 247] :=
    unpackBits_pack [(6, ch.toNat), (24, 524288), (6, 0), (6, 0), (6, a.toNat), (3, h.pred.toNat), (1, h.neg.toNat), (4, h.stall.toNat), (8, 0xf7)] ⟨ch.isLt, by decide, by decide, by decide, a.isLt, h.pred.isLt, h.neg.isLt, h.stall.isLt, by decide, trivial⟩
  unfold decOpF7
  rw [u]
  show (some (Instr.pmsgWait ⟨BitVec.ofNat 4 h.stall.toNat, BitVec.ofNat 1 h.neg.toNat, BitVec.ofNat 3 h.pred.toNat⟩ (BitVec.ofNat 6 a.toNat) (BitVec.ofNat 6 ch.toNat))) = _
  simp only [BitVec.ofNat_toNat, BitVec.setWidth_eq]
theorem li (h : Hdr) (d : BitVec 6) (v : BitVec 64) : Statement (.li h d v) := by
  intro _ hw w1
  refine decode_of_raw (w1 := v) (by show fieldWidth [(42, 0), (6, d.toNat), (3, h.pred.toNat), (1, h.neg.toNat), (4, h.stall.toNat), (8, 0xf8)] = 64; simp only [fieldWidth]) ?_ hw
  rw [show Instr.fields (.li h d v) = [(42, 0), (6, d.toNat), (3, h.pred.toNat), (1, h.neg.toNat), (4, h.stall.toNat)] ++ [(8, 0xF8)] from rfl]
  obtain ⟨e1, e2⟩ := nibbles [(42, 0), (6, d.toNat), (3, h.pred.toNat), (1, h.neg.toNat), (4, h.stall.toNat)] 0xF8 15 8 (by simp only [fieldWidth]) rfl rfl
  rw [decodeRaw_hiF _ _ e1, decHiF_8 _ _ _ e2]
  have u : unpackBits [42, 6, 3, 1, 4, 8] (packBits ([(42, 0), (6, d.toNat), (3, h.pred.toNat), (1, h.neg.toNat), (4, h.stall.toNat)] ++ [(8, 0xF8)])) = [0, d.toNat, h.pred.toNat, h.neg.toNat, h.stall.toNat, 248] :=
    unpackBits_pack [(42, 0), (6, d.toNat), (3, h.pred.toNat), (1, h.neg.toNat), (4, h.stall.toNat), (8, 0xf8)] ⟨by decide, d.isLt, h.pred.isLt, h.neg.isLt, h.stall.isLt, by decide, trivial⟩
  unfold decOpF8
  rw [u]
  show (some (Instr.li ⟨BitVec.ofNat 4 h.stall.toNat, BitVec.ofNat 1 h.neg.toNat, BitVec.ofNat 3 h.pred.toNat⟩ (BitVec.ofNat 6 d.toNat) (BitVec.ofNat 64 v.toNat))) = _
  simp only [BitVec.ofNat_toNat, BitVec.setWidth_eq]
theorem jmpx (h : Hdr) (v : BitVec 64) : Statement (.jmpx h v) := by
  intro _ hw w1
  refine decode_of_raw (w1 := v) (by show fieldWidth [(48, 0), (3, h.pred.toNat), (1, h.neg.toNat), (4, h.stall.toNat), (8, 0xf9)] = 64; simp only [fieldWidth]) ?_ hw
  rw [show Instr.fields (.jmpx h v) = [(48, 0), (3, h.pred.toNat), (1, h.neg.toNat), (4, h.stall.toNat)] ++ [(8, 0xF9)] from rfl]
  obtain ⟨e1, e2⟩ := nibbles [(48, 0), (3, h.pred.toNat), (1, h.neg.toNat), (4, h.stall.toNat)] 0xF9 15 9 (by simp only [fieldWidth]) rfl rfl
  rw [decodeRaw_hiF _ _ e1, decHiF_9 _ _ _ e2]
  have u : unpackBits [48, 3, 1, 4, 8] (packBits ([(48, 0), (3, h.pred.toNat), (1, h.neg.toNat), (4, h.stall.toNat)] ++ [(8, 0xF9)])) = [0, h.pred.toNat, h.neg.toNat, h.stall.toNat, 249] :=
    unpackBits_pack [(48, 0), (3, h.pred.toNat), (1, h.neg.toNat), (4, h.stall.toNat), (8, 0xf9)] ⟨by decide, h.pred.isLt, h.neg.isLt, h.stall.isLt, by decide, trivial⟩
  unfold decOpF9
  rw [u]
  show (some (Instr.jmpx ⟨BitVec.ofNat 4 h.stall.toNat, BitVec.ofNat 1 h.neg.toNat, BitVec.ofNat 3 h.pred.toNat⟩ (BitVec.ofNat 64 v.toNat))) = _
  simp only [BitVec.ofNat_toNat, BitVec.setWidth_eq]
theorem callx (h : Hdr) (v : BitVec 64) : Statement (.callx h v) := by
  intro _ hw w1
  refine decode_of_raw (w1 := v) (by show fieldWidth [(48, 0), (3, h.pred.toNat), (1, h.neg.toNat), (4, h.stall.toNat), (8, 0xfa)] = 64; simp only [fieldWidth]) ?_ hw
  rw [show Instr.fields (.callx h v) = [(48, 0), (3, h.pred.toNat), (1, h.neg.toNat), (4, h.stall.toNat)] ++ [(8, 0xFA)] from rfl]
  obtain ⟨e1, e2⟩ := nibbles [(48, 0), (3, h.pred.toNat), (1, h.neg.toNat), (4, h.stall.toNat)] 0xFA 15 10 (by simp only [fieldWidth]) rfl rfl
  rw [decodeRaw_hiF _ _ e1, decHiF_A _ _ _ e2]
  have u : unpackBits [48, 3, 1, 4, 8] (packBits ([(48, 0), (3, h.pred.toNat), (1, h.neg.toNat), (4, h.stall.toNat)] ++ [(8, 0xFA)])) = [0, h.pred.toNat, h.neg.toNat, h.stall.toNat, 250] :=
    unpackBits_pack [(48, 0), (3, h.pred.toNat), (1, h.neg.toNat), (4, h.stall.toNat), (8, 0xfa)] ⟨by decide, h.pred.isLt, h.neg.isLt, h.stall.isLt, by decide, trivial⟩
  unfold decOpFA
  rw [u]
  show (some (Instr.callx ⟨BitVec.ofNat 4 h.stall.toNat, BitVec.ofNat 1 h.neg.toNat, BitVec.ofNat 3 h.pred.toNat⟩ (BitVec.ofNat 64 v.toNat))) = _
  simp only [BitVec.ofNat_toNat, BitVec.setWidth_eq]
theorem addix (h : Hdr) (d a : BitVec 6) (v : BitVec 64) : Statement (.addix h d a v) := by
  intro _ hw w1
  refine decode_of_raw (w1 := v) (by show fieldWidth [(36, 0), (6, a.toNat), (6, d.toNat), (3, h.pred.toNat), (1, h.neg.toNat), (4, h.stall.toNat), (8, 0xfb)] = 64; simp only [fieldWidth]) ?_ hw
  rw [show Instr.fields (.addix h d a v) = [(36, 0), (6, a.toNat), (6, d.toNat), (3, h.pred.toNat), (1, h.neg.toNat), (4, h.stall.toNat)] ++ [(8, 0xFB)] from rfl]
  obtain ⟨e1, e2⟩ := nibbles [(36, 0), (6, a.toNat), (6, d.toNat), (3, h.pred.toNat), (1, h.neg.toNat), (4, h.stall.toNat)] 0xFB 15 11 (by simp only [fieldWidth]) rfl rfl
  rw [decodeRaw_hiF _ _ e1, decHiF_B _ _ _ e2]
  have u : unpackBits [36, 6, 6, 3, 1, 4, 8] (packBits ([(36, 0), (6, a.toNat), (6, d.toNat), (3, h.pred.toNat), (1, h.neg.toNat), (4, h.stall.toNat)] ++ [(8, 0xFB)])) = [0, a.toNat, d.toNat, h.pred.toNat, h.neg.toNat, h.stall.toNat, 251] :=
    unpackBits_pack [(36, 0), (6, a.toNat), (6, d.toNat), (3, h.pred.toNat), (1, h.neg.toNat), (4, h.stall.toNat), (8, 0xfb)] ⟨by decide, a.isLt, d.isLt, h.pred.isLt, h.neg.isLt, h.stall.isLt, by decide, trivial⟩
  unfold decOpFB
  rw [u]
  show (some (Instr.addix ⟨BitVec.ofNat 4 h.stall.toNat, BitVec.ofNat 1 h.neg.toNat, BitVec.ofNat 3 h.pred.toNat⟩ (BitVec.ofNat 6 d.toNat) (BitVec.ofNat 6 a.toNat) (BitVec.ofNat 64 v.toNat))) = _
  simp only [BitVec.ofNat_toNat, BitVec.setWidth_eq]
theorem leax (h : Hdr) (d : BitVec 6) (v : BitVec 64) : Statement (.leax h d v) := by
  intro _ hw w1
  refine decode_of_raw (w1 := v) (by show fieldWidth [(42, 0), (6, d.toNat), (3, h.pred.toNat), (1, h.neg.toNat), (4, h.stall.toNat), (8, 0xfc)] = 64; simp only [fieldWidth]) ?_ hw
  rw [show Instr.fields (.leax h d v) = [(42, 0), (6, d.toNat), (3, h.pred.toNat), (1, h.neg.toNat), (4, h.stall.toNat)] ++ [(8, 0xFC)] from rfl]
  obtain ⟨e1, e2⟩ := nibbles [(42, 0), (6, d.toNat), (3, h.pred.toNat), (1, h.neg.toNat), (4, h.stall.toNat)] 0xFC 15 12 (by simp only [fieldWidth]) rfl rfl
  rw [decodeRaw_hiF _ _ e1, decHiF_C _ _ _ e2]
  have u : unpackBits [42, 6, 3, 1, 4, 8] (packBits ([(42, 0), (6, d.toNat), (3, h.pred.toNat), (1, h.neg.toNat), (4, h.stall.toNat)] ++ [(8, 0xFC)])) = [0, d.toNat, h.pred.toNat, h.neg.toNat, h.stall.toNat, 252] :=
    unpackBits_pack [(42, 0), (6, d.toNat), (3, h.pred.toNat), (1, h.neg.toNat), (4, h.stall.toNat), (8, 0xfc)] ⟨by decide, d.isLt, h.pred.isLt, h.neg.isLt, h.stall.isLt, by decide, trivial⟩
  unfold decOpFC
  rw [u]
  show (some (Instr.leax ⟨BitVec.ofNat 4 h.stall.toNat, BitVec.ofNat 1 h.neg.toNat, BitVec.ofNat 3 h.pred.toNat⟩ (BitVec.ofNat 6 d.toNat) (BitVec.ofNat 64 v.toNat))) = _
  simp only [BitVec.ofNat_toNat, BitVec.setWidth_eq]
theorem awrx (nst : BitVec 4) (mg fd : BitVec 6) (v : BitVec 64) : Statement (.awrx nst mg fd v) := by
  intro _ hw w1
  refine decode_of_raw (w1 := v) (by show fieldWidth [(36, 0), (6, fd.toNat), (6, mg.toNat), (4, 0), (4, nst.toNat), (8, 0xfd)] = 64; simp only [fieldWidth]) ?_ hw
  rw [show Instr.fields (.awrx nst mg fd v) = [(36, 0), (6, fd.toNat), (6, mg.toNat), (4, 0), (4, nst.toNat)] ++ [(8, 0xFD)] from rfl]
  obtain ⟨e1, e2⟩ := nibbles [(36, 0), (6, fd.toNat), (6, mg.toNat), (4, 0), (4, nst.toNat)] 0xFD 15 13 (by simp only [fieldWidth]) rfl rfl
  rw [decodeRaw_hiF _ _ e1, decHiF_D _ _ _ e2]
  have u : unpackBits [36, 6, 6, 4, 4, 8] (packBits ([(36, 0), (6, fd.toNat), (6, mg.toNat), (4, 0), (4, nst.toNat)] ++ [(8, 0xFD)])) = [0, fd.toNat, mg.toNat, 0, nst.toNat, 253] :=
    unpackBits_pack [(36, 0), (6, fd.toNat), (6, mg.toNat), (4, 0), (4, nst.toNat), (8, 0xfd)] ⟨by decide, fd.isLt, mg.isLt, by decide, nst.isLt, by decide, trivial⟩
  unfold decOpFD
  rw [u]
  show (some (Instr.awrx (BitVec.ofNat 4 nst.toNat) (BitVec.ofNat 6 mg.toNat) (BitVec.ofNat 6 fd.toNat) (BitVec.ofNat 64 v.toNat))) = _
  simp only [BitVec.ofNat_toNat, BitVec.setWidth_eq]
theorem asrchx (nst : BitVec 4) (md fa : BitVec 6) (v : BitVec 64) : Statement (.asrchx nst md fa v) := by
  intro _ hw w1
  refine decode_of_raw (w1 := v) (by show fieldWidth [(36, 0), (6, fa.toNat), (6, md.toNat), (4, 0), (4, nst.toNat), (8, 0xfe)] = 64; simp only [fieldWidth]) ?_ hw
  rw [show Instr.fields (.asrchx nst md fa v) = [(36, 0), (6, fa.toNat), (6, md.toNat), (4, 0), (4, nst.toNat)] ++ [(8, 0xFE)] from rfl]
  obtain ⟨e1, e2⟩ := nibbles [(36, 0), (6, fa.toNat), (6, md.toNat), (4, 0), (4, nst.toNat)] 0xFE 15 14 (by simp only [fieldWidth]) rfl rfl
  rw [decodeRaw_hiF _ _ e1, decHiF_E _ _ _ e2]
  have u : unpackBits [36, 6, 6, 4, 4, 8] (packBits ([(36, 0), (6, fa.toNat), (6, md.toNat), (4, 0), (4, nst.toNat)] ++ [(8, 0xFE)])) = [0, fa.toNat, md.toNat, 0, nst.toNat, 254] :=
    unpackBits_pack [(36, 0), (6, fa.toNat), (6, md.toNat), (4, 0), (4, nst.toNat), (8, 0xfe)] ⟨by decide, fa.isLt, md.isLt, by decide, nst.isLt, by decide, trivial⟩
  unfold decOpFE
  rw [u]
  show (some (Instr.asrchx (BitVec.ofNat 4 nst.toNat) (BitVec.ofNat 6 md.toNat) (BitVec.ofNat 6 fa.toNat) (BitVec.ofNat 64 v.toNat))) = _
  simp only [BitVec.ofNat_toNat, BitVec.setWidth_eq]
theorem ud (x : BitVec 56) : Statement (.ud x) := by
  intro _ hw w1
  refine decode_of_raw (w1 := w1) (by show fieldWidth [(56, x.toNat), (8, 0xff)] = 64; simp only [fieldWidth]) ?_ hw
  rw [show Instr.fields (.ud x) = [(56, x.toNat)] ++ [(8, 0xFF)] from rfl]
  obtain ⟨e1, e2⟩ := nibbles [(56, x.toNat)] 0xFF 15 15 (by simp only [fieldWidth]) rfl rfl
  rw [decodeRaw_hiF _ _ e1, decHiF_F _ _ _ e2]
  have u : unpackBits [56, 8] (packBits ([(56, x.toNat)] ++ [(8, 0xFF)])) = [x.toNat, 255] :=
    unpackBits_pack [(56, x.toNat), (8, 0xff)] ⟨x.isLt, by decide, trivial⟩
  unfold decOpFF
  rw [u]
  show (some (Instr.ud (BitVec.ofNat 56 x.toNat))) = _
  simp only [BitVec.ofNat_toNat, BitVec.setWidth_eq]
theorem blockThrottleChange (cls : BitVec 3) (inst : BitVec 10) (temp : BitVec 8) (gated : Bool) (level : BitVec 7) : Statement (.blockThrottleChange cls inst temp gated level) := by
  exact fun h => nomatch (show true = false from h)
theorem tdispStateChange (ifc : BitVec 16) (run : Bool) (ctx : BitVec 16) : Statement (.tdispStateChange ifc run ctx) := by
  exact fun h => nomatch (show true = false from h)
theorem inboundPcieAtomic (src : PcieSource) (addr : BitVec 64) (op : BitVec 4) (size : BitVec 2) (x y : BitVec 64) : Statement (.inboundPcieAtomic src addr op size x y) := by
  exact fun h => nomatch (show true = false from h)

end Laws.RoundTrip
end Sys2Proof
end

