-- ==== Sys2Proof/Tests/Slice0.lean ====
section
/-!
SUPPORT. The model's own tests: ill-formed terms, words written out from the formats, the manual's worked examples, and
for each statement a state and operands that meet its hypotheses. Expected values come from the manual's tables and
examples, or from hand calculation on them.
-/
set_option Elab.async false
set_option maxRecDepth 8000

namespace Sys2Proof.Tests

open Sys2Proof Sys2Proof.Machine

/-- A word, with the one after it, decodes to an instruction. -/
noncomputable def decodesTo (w w1 : BitVec 64) (i : Instr) : Bool :=
  match decode w w1 with | .ok j => j == i | .error _ => false

/-! ### Ill-formed terms (R42, R47): one for each check -/

theorem test_wf_stream_base : (Instr.ld ⟨1, 0, 0⟩ 3 48 3 0 0).wf = false := by decide
theorem test_wf_governing_mask : (Instr.awr ⟨1, 25⟩ 0 (.vs 1)).wf = false := by decide
theorem test_wf_written_mask : (Instr.mset ⟨1, 0⟩ 24 1).wf = false := by decide
theorem test_wf_condition : (Instr.setp ⟨1, 0, 0⟩ 1 1 2 10).wf = false := by decide
theorem test_wf_rounding : (Instr.fadd ⟨1, 0, 0⟩ 3 1 2 5).wf = false := by decide
theorem test_wf_scope : (Instr.lda ⟨1, 0, 0⟩ 3 1 3 6 0 0).wf = false
    ∧ (Instr.lda ⟨1, 0, 0⟩ 3 1 3 0 0 0).wf = false ∧ (Instr.sev ⟨1, 0, 0⟩ 5).wf = false := by decide
theorem test_wf_size : (Instr.lea ⟨1, 0, 0⟩ 3 1 5 2 0).wf = false := by decide
theorem test_wf_annotation : (Instr.amoAdd ⟨1, 0, 0⟩ 3 1 2 0 1 3 0).wf = false
    ∧ (Instr.amoAdd ⟨1, 0, 0⟩ 3 1 2 0 0 3 2).wf = false := by decide
theorem test_wf_bit_field : (Instr.bfx ⟨1, 0, 0⟩ 3 1 0 63 1).wf = false ∧ (Instr.bfx ⟨1, 0, 0⟩ 3 1 0 63 0).wf = true := by
  decide
theorem test_wf_pair : (Instr.ldp ⟨1, 0, 0⟩ 3 1 0 0).wf = false ∧ (Instr.ldp ⟨1, 0, 0⟩ 46 1 0 0).wf = false
    ∧ (Instr.ldp ⟨1, 0, 0⟩ 0 1 0 0).wf = false := by decide
theorem test_wf_conversion : (Instr.fcvt ⟨1, 0, 0⟩ 3 1 2 2 0).wf = false ∧ (Instr.fcvt ⟨1, 0, 0⟩ 3 1 7 0 0).wf = false
    ∧ (Instr.fcvt ⟨1, 0, 0⟩ 3 1 0 6 1).wf = false := by decide
theorem test_wf_tile : (Instr.msta ⟨1, 0, 0⟩ 1 2 3 96 0 0).wf = false
    ∧ (Instr.mquant ⟨1, 0, 0⟩ 1 2 3 0 32 0 0).wf = false ∧ (Instr.mma ⟨1, 0, 0⟩ 1 2 3 0 1 0 1).wf = false := by decide
theorem test_wf_reverse : (Instr.asub ⟨1, 0⟩ 1 2 0 0 1 (.vv 3)).wf = false
    ∧ (Instr.adqnt ⟨1, 0⟩ 1 2 0 0 (.vv 3)).wf = false := by decide
theorem test_wf_segment : (Instr.aldseg ⟨1, 0⟩ 31 0 0 0 1 1).wf = false := by decide
theorem test_wf_control_register : (Instr.mfc ⟨1, 0, 0⟩ 1 0x007).wf = false ∧ (Instr.mtc ⟨1, 0, 0⟩ 1 0x073).wf = false := by
  decide
theorem test_wf_frame : (Instr.frame ⟨1, 0, 0⟩ 1 0).wf = false := by decide
theorem test_wf_tree_type : (Instr.spamoAdd ⟨1, 0, 0⟩ 1 2 3 3).wf = false := by decide
theorem test_wf_long : (Instr.awrx 1 25 0 0).wf = false ∧ (Instr.asrchx 1 24 0 0).wf = false := by decide
theorem test_wf_events : (Instr.moduleReset ⟨7, 0, 0, 0, 0, 0, 0⟩).wf = false
    ∧ (Instr.blockThrottleChange 0 0 0 false 101).wf = false := by decide

/-! ### Words -/

/-- Words written out from the formats of Table 2.1 and the opcode of each rule: system. -/
theorem test_words_system1 :
    (decodesTo (0x0#8 ++ 9#4 ++ 1#1 ++ 6#3 ++ 0#48) 0 (.nop ⟨9, 1, 6⟩)
    && decodesTo (0x1#8 ++ 9#4 ++ 1#1 ++ 6#3 ++ 0#48) 0 (.halt ⟨9, 1, 6⟩)
    && decodesTo (0x2#8 ++ 9#4 ++ 1#1 ++ 6#3 ++ 0#12 ++ 0x912345678#36) 0 (.trap ⟨9, 1, 6⟩ 0x912345678)
    && decodesTo (0x3#8 ++ 9#4 ++ 1#1 ++ 6#3 ++ 0#12 ++ 0x912345678#36) 0 (.sysc ⟨9, 1, 6⟩ 0x912345678)
    && decodesTo (0x4#8 ++ 9#4 ++ 1#1 ++ 6#3 ++ 0#48) 0 (.eret ⟨9, 1, 6⟩)
    && decodesTo (0x5#8 ++ 9#4 ++ 1#1 ++ 6#3 ++ 0#12 ++ 0x912345678#36) 0 (.bkpt ⟨9, 1, 6⟩ 0x912345678)
    && decodesTo (0x6#8 ++ 9#4 ++ 1#1 ++ 6#3 ++ 50#6 ++ 0#30 ++ 21#12) 0 (.mfc ⟨9, 1, 6⟩ 50 21)
    && decodesTo (0x6#8 ++ 9#4 ++ 1#1 ++ 6#3 ++ 50#6 ++ 0#30 ++ 16#12) 0 (.mfcFpcsr ⟨9, 1, 6⟩ 50)
    && decodesTo (0x6#8 ++ 9#4 ++ 1#1 ++ 6#3 ++ 50#6 ++ 0#30 ++ 4#10 ++ 2#2) 0 (.mfcEstartFfidx ⟨9, 1, 6⟩ 50 2)
    && decodesTo (0x6#8 ++ 9#4 ++ 1#1 ++ 6#3 ++ 50#6 ++ 0#30 ++ 48#12) 0 (.mfcAdirty ⟨9, 1, 6⟩ 50)
    && decodesTo (0x7#8 ++ 9#4 ++ 1#1 ++ 6#3 ++ 0#6 ++ 5#6 ++ 0#24 ++ 51#12) 0 (.mtc ⟨9, 1, 6⟩ 5 51)
    && decodesTo (0x7#8 ++ 9#4 ++ 1#1 ++ 6#3 ++ 0#6 ++ 5#6 ++ 0#24 ++ 16#12) 0 (.mtcFpcsr ⟨9, 1, 6⟩ 5)) = true := by decide

/-- The same, continued. -/
theorem test_words_system2 :
    (decodesTo (0x7#8 ++ 9#4 ++ 1#1 ++ 6#3 ++ 0#6 ++ 5#6 ++ 0#24 ++ 0x70#12) 0 (.mtcTrapbase ⟨9, 1, 6⟩ 5)
    && decodesTo (0x7#8 ++ 9#4 ++ 1#1 ++ 6#3 ++ 0#6 ++ 5#6 ++ 0#24 ++ 80#12) 0 (.mtcAlimit ⟨9, 1, 6⟩ 5)
    && decodesTo (0x7#8 ++ 9#4 ++ 1#1 ++ 6#3 ++ 0#6 ++ 5#6 ++ 0#24 ++ 65#12) 0 (.mtcPriocur ⟨9, 1, 6⟩ 5)
    && decodesTo (0x7#8 ++ 9#4 ++ 1#1 ++ 6#3 ++ 0#6 ++ 5#6 ++ 0#24 ++ 34#11 ++ 1#1) 0 (.mtcWatchdog ⟨9, 1, 6⟩ 5 1)
    && decodesTo (0x8#8 ++ 9#4 ++ 1#1 ++ 6#3 ++ 50#6 ++ 5#6 ++ 7#6 ++ 0#30) 0 (.waite ⟨9, 1, 6⟩ 50 5 7)
    && decodesTo (0x9#8 ++ 9#4 ++ 1#1 ++ 6#3 ++ 0#21 ++ 4#3 ++ 0#24) 0 (.sev ⟨9, 1, 6⟩ 4)
    && decodesTo (0xA#8 ++ 9#4 ++ 1#1 ++ 6#3 ++ 5#6 ++ 7#6 ++ 0#36) 0 (.waitm ⟨9, 1, 6⟩ 5 7)
    && decodesTo (0xB#8 ++ 9#4 ++ 1#1 ++ 6#3 ++ 0#48) 0 (.yield ⟨9, 1, 6⟩)
    && decodesTo (0xC#8 ++ 9#4 ++ 1#1 ++ 6#3 ++ 0#6 ++ 4#6 ++ 0#6 ++ 6#6 ++ 0x923456#24) 0 (.cacheIinv ⟨9, 1, 6⟩ 4 6 0x923456)
    && decodesTo (0xC#8 ++ 9#4 ++ 1#1 ++ 6#3 ++ 1#6 ++ 4#6 ++ 0#6 ++ 6#6 ++ 0x923456#24) 0 (.cacheClean ⟨9, 1, 6⟩ 4 6 0x923456)
    && decodesTo (0xC#8 ++ 9#4 ++ 1#1 ++ 6#3 ++ 2#6 ++ 4#6 ++ 0#6 ++ 6#6 ++ 0x923456#24) 0 (.cacheClinv ⟨9, 1, 6⟩ 4 6 0x923456)
    && decodesTo (0xC#8 ++ 9#4 ++ 1#1 ++ 6#3 ++ 3#6 ++ 4#6 ++ 0#6 ++ 6#6 ++ 0x923456#24) 0 (.cacheInv ⟨9, 1, 6⟩ 4 6 0x923456)) = true := by decide

/-- The same, continued. -/
theorem test_words_system3 :
    (decodesTo (0xC#8 ++ 9#4 ++ 1#1 ++ 6#3 ++ 4#6 ++ 4#6 ++ 0#6 ++ 6#6 ++ 0x923456#24) 0 (.cacheZero ⟨9, 1, 6⟩ 4 6 0x923456)
    && decodesTo (0xC#8 ++ 9#4 ++ 1#1 ++ 6#3 ++ 5#6 ++ 0#42) 0 (.cacheIinvall ⟨9, 1, 6⟩)
    && decodesTo (0xD#8 ++ 9#4 ++ 1#1 ++ 6#3 ++ 0#48) 0 (.tlbiAll ⟨9, 1, 6⟩)
    && decodesTo (0xD#8 ++ 9#4 ++ 1#1 ++ 6#3 ++ 0#6 ++ 7#6 ++ 0#6 ++ 1#6 ++ 0#24) 0 (.tlbiCtx ⟨9, 1, 6⟩ 7)
    && decodesTo (0xD#8 ++ 9#4 ++ 1#1 ++ 6#3 ++ 5#6 ++ 7#6 ++ 0#6 ++ 2#6 ++ 0#24) 0 (.tlbiVa ⟨9, 1, 6⟩ 5 7)
    && decodesTo (0xD#8 ++ 9#4 ++ 1#1 ++ 6#3 ++ 5#6 ++ 0#12 ++ 3#6 ++ 0#24) 0 (.tlbiVaall ⟨9, 1, 6⟩ 5)
    && decodesTo (0xE#8 ++ 9#4 ++ 1#1 ++ 6#3 ++ 5#6 ++ 7#6 ++ 9#6 ++ 0#30) 0 (.wdogSet ⟨9, 1, 6⟩ 5 7 9)
    && decodesTo (0xE#8 ++ 9#4 ++ 1#1 ++ 6#3 ++ 5#6 ++ 7#6 ++ 0#6 ++ 1#6 ++ 0#24) 0 (.wdogClr ⟨9, 1, 6⟩ 5 7)
    && decodesTo (0xE#8 ++ 9#4 ++ 1#1 ++ 6#3 ++ 5#6 ++ 7#6 ++ 0#6 ++ 2#6 ++ 0#24) 0 (.wdogRead ⟨9, 1, 6⟩ 5 7)
    && decodesTo (0xF#8 ++ 9#4 ++ 1#1 ++ 6#3 ++ 5#6 ++ 7#6 ++ 0#36) 0 (.errinjCorr ⟨9, 1, 6⟩ 5 7)
    && decodesTo (0xF#8 ++ 9#4 ++ 1#1 ++ 6#3 ++ 5#6 ++ 7#6 ++ 0#6 ++ 1#6 ++ 0#24) 0 (.errinjDet ⟨9, 1, 6⟩ 5 7)
    && decodesTo (0xF#8 ++ 9#4 ++ 1#1 ++ 6#3 ++ 5#6 ++ 7#6 ++ 9#6 ++ 2#6 ++ 0#24) 0 (.errinjArr ⟨9, 1, 6⟩ 5 7 9)) = true := by decide

/-- Words written out from the formats of Table 2.1 and the opcode of each rule: integer. -/
theorem test_words_integer1 :
    (decodesTo (0x10#8 ++ 9#4 ++ 1#1 ++ 6#3 ++ 50#6 ++ 5#6 ++ 7#6 ++ 0#30) 0 (.add ⟨9, 1, 6⟩ 50 5 7)
    && decodesTo (0x11#8 ++ 9#4 ++ 1#1 ++ 6#3 ++ 50#6 ++ 5#6 ++ 7#6 ++ 0#30) 0 (.sub ⟨9, 1, 6⟩ 50 5 7)
    && decodesTo (0x12#8 ++ 9#4 ++ 1#1 ++ 6#3 ++ 50#6 ++ 5#6 ++ 7#6 ++ 0#30) 0 (.mul ⟨9, 1, 6⟩ 50 5 7)
    && decodesTo (0x13#8 ++ 9#4 ++ 1#1 ++ 6#3 ++ 50#6 ++ 5#6 ++ 7#6 ++ 0#30) 0 (.mulh ⟨9, 1, 6⟩ 50 5 7)
    && decodesTo (0x14#8 ++ 9#4 ++ 1#1 ++ 6#3 ++ 50#6 ++ 5#6 ++ 7#6 ++ 0#30) 0 (.mulhu ⟨9, 1, 6⟩ 50 5 7)
    && decodesTo (0x15#8 ++ 9#4 ++ 1#1 ++ 6#3 ++ 50#6 ++ 5#6 ++ 7#6 ++ 0#30) 0 (.div ⟨9, 1, 6⟩ 50 5 7)
    && decodesTo (0x16#8 ++ 9#4 ++ 1#1 ++ 6#3 ++ 50#6 ++ 5#6 ++ 7#6 ++ 0#30) 0 (.divu ⟨9, 1, 6⟩ 50 5 7)
    && decodesTo (0x17#8 ++ 9#4 ++ 1#1 ++ 6#3 ++ 50#6 ++ 5#6 ++ 7#6 ++ 0#30) 0 (.rem ⟨9, 1, 6⟩ 50 5 7)
    && decodesTo (0x18#8 ++ 9#4 ++ 1#1 ++ 6#3 ++ 50#6 ++ 5#6 ++ 7#6 ++ 0#30) 0 (.remu ⟨9, 1, 6⟩ 50 5 7)
    && decodesTo (0x19#8 ++ 9#4 ++ 1#1 ++ 6#3 ++ 50#6 ++ 5#6 ++ 7#6 ++ 0#30) 0 (.and ⟨9, 1, 6⟩ 50 5 7)
    && decodesTo (0x1A#8 ++ 9#4 ++ 1#1 ++ 6#3 ++ 50#6 ++ 5#6 ++ 7#6 ++ 0#30) 0 (.or ⟨9, 1, 6⟩ 50 5 7)
    && decodesTo (0x1B#8 ++ 9#4 ++ 1#1 ++ 6#3 ++ 50#6 ++ 5#6 ++ 7#6 ++ 0#30) 0 (.xor ⟨9, 1, 6⟩ 50 5 7)) = true := by decide

/-- The same, continued. -/
theorem test_words_integer2 :
    (decodesTo (0x1C#8 ++ 9#4 ++ 1#1 ++ 6#3 ++ 50#6 ++ 5#6 ++ 7#6 ++ 0#30) 0 (.andn ⟨9, 1, 6⟩ 50 5 7)
    && decodesTo (0x1D#8 ++ 9#4 ++ 1#1 ++ 6#3 ++ 50#6 ++ 5#6 ++ 7#6 ++ 0#30) 0 (.shl ⟨9, 1, 6⟩ 50 5 7)
    && decodesTo (0x1E#8 ++ 9#4 ++ 1#1 ++ 6#3 ++ 50#6 ++ 5#6 ++ 7#6 ++ 0#30) 0 (.shr ⟨9, 1, 6⟩ 50 5 7)
    && decodesTo (0x1F#8 ++ 9#4 ++ 1#1 ++ 6#3 ++ 50#6 ++ 5#6 ++ 7#6 ++ 0#30) 0 (.sra ⟨9, 1, 6⟩ 50 5 7)
    && decodesTo (0x20#8 ++ 9#4 ++ 1#1 ++ 6#3 ++ 50#6 ++ 5#6 ++ 0x912345678#36) 0 (.addi ⟨9, 1, 6⟩ 50 5 0x912345678)
    && decodesTo (0x21#8 ++ 9#4 ++ 1#1 ++ 6#3 ++ 50#6 ++ 5#6 ++ 0x912345678#36) 0 (.muli ⟨9, 1, 6⟩ 50 5 0x912345678)
    && decodesTo (0x22#8 ++ 9#4 ++ 1#1 ++ 6#3 ++ 50#6 ++ 5#6 ++ 0x912345678#36) 0 (.andi ⟨9, 1, 6⟩ 50 5 0x912345678)
    && decodesTo (0x23#8 ++ 9#4 ++ 1#1 ++ 6#3 ++ 50#6 ++ 5#6 ++ 0x912345678#36) 0 (.ori ⟨9, 1, 6⟩ 50 5 0x912345678)
    && decodesTo (0x24#8 ++ 9#4 ++ 1#1 ++ 6#3 ++ 50#6 ++ 5#6 ++ 0x912345678#36) 0 (.xori ⟨9, 1, 6⟩ 50 5 0x912345678)
    && decodesTo (0x25#8 ++ 9#4 ++ 1#1 ++ 6#3 ++ 50#6 ++ 5#6 ++ 0#30 ++ 19#6) 0 (.shli ⟨9, 1, 6⟩ 50 5 19)
    && decodesTo (0x26#8 ++ 9#4 ++ 1#1 ++ 6#3 ++ 50#6 ++ 5#6 ++ 0#30 ++ 19#6) 0 (.shri ⟨9, 1, 6⟩ 50 5 19)
    && decodesTo (0x27#8 ++ 9#4 ++ 1#1 ++ 6#3 ++ 50#6 ++ 5#6 ++ 0#30 ++ 19#6) 0 (.srai ⟨9, 1, 6⟩ 50 5 19)) = true := by decide

/-- The same, continued. -/
theorem test_words_integer3 :
    (decodesTo (0x28#8 ++ 9#4 ++ 1#1 ++ 6#3 ++ 50#6 ++ 5#6 ++ 7#6 ++ 0#30) 0 (.min ⟨9, 1, 6⟩ 50 5 7)
    && decodesTo (0x29#8 ++ 9#4 ++ 1#1 ++ 6#3 ++ 50#6 ++ 5#6 ++ 7#6 ++ 0#30) 0 (.max ⟨9, 1, 6⟩ 50 5 7)
    && decodesTo (0x2A#8 ++ 9#4 ++ 1#1 ++ 6#3 ++ 50#6 ++ 5#6 ++ 7#6 ++ 0#30) 0 (.minu ⟨9, 1, 6⟩ 50 5 7)
    && decodesTo (0x2B#8 ++ 9#4 ++ 1#1 ++ 6#3 ++ 50#6 ++ 5#6 ++ 7#6 ++ 0#30) 0 (.maxu ⟨9, 1, 6⟩ 50 5 7)
    && decodesTo (0x2C#8 ++ 9#4 ++ 1#1 ++ 6#3 ++ 50#6 ++ 5#6 ++ 0#36) 0 (.clz ⟨9, 1, 6⟩ 50 5)
    && decodesTo (0x2D#8 ++ 9#4 ++ 1#1 ++ 6#3 ++ 50#6 ++ 5#6 ++ 0#36) 0 (.ctz ⟨9, 1, 6⟩ 50 5)
    && decodesTo (0x2E#8 ++ 9#4 ++ 1#1 ++ 6#3 ++ 50#6 ++ 5#6 ++ 0#36) 0 (.popc ⟨9, 1, 6⟩ 50 5)
    && decodesTo (0x2F#8 ++ 9#4 ++ 1#1 ++ 6#3 ++ 50#6 ++ 5#6 ++ 0#36) 0 (.brev ⟨9, 1, 6⟩ 50 5)
    && decodesTo (0x30#8 ++ 9#4 ++ 1#1 ++ 6#3 ++ 0#3 ++ 2#3 ++ 5#6 ++ 7#6 ++ 8#6 ++ 0#24) 0 (.setp ⟨9, 1, 6⟩ 2 5 7 8)
    && decodesTo (0x31#8 ++ 9#4 ++ 1#1 ++ 6#3 ++ 0#3 ++ 2#3 ++ 5#6 ++ 8#6 ++ 0x2345678F#30) 0 (.setpi ⟨9, 1, 6⟩ 2 5 8 0x2345678F)
    && decodesTo (0x32#8 ++ 9#4 ++ 1#1 ++ 6#3 ++ 0#3 ++ 2#3 ++ 0#3 ++ 3#3 ++ 0#3 ++ 4#3 ++ 0#2 ++ 6#4 ++ 0#24) 0 (.plog ⟨9, 1, 6⟩ 2 3 4 6)
    && decodesTo (0x33#8 ++ 9#4 ++ 1#1 ++ 6#3 ++ 50#6 ++ 5#6 ++ 7#6 ++ 0#2 ++ 1#1 ++ 5#3 ++ 0#24) 0 (.sel ⟨9, 1, 6⟩ 50 5 7 1 5)) = true := by decide

/-- The same, continued. -/
theorem test_words_integer4 :
    (decodesTo (0x34#8 ++ 9#4 ++ 1#1 ++ 6#3 ++ 10#6 ++ 4#6 ++ 4#3 ++ 0#3 ++ 6#6 ++ 0x923456#24) 0 (.lea ⟨9, 1, 6⟩ 10 4 4 6 0x923456)
    && decodesTo (0x35#8 ++ 9#4 ++ 1#1 ++ 6#3 ++ 50#6 ++ 0#6 ++ 0x912345678#36) 0 (.leapc ⟨9, 1, 6⟩ 50 0x912345678)
    && decodesTo (0x36#8 ++ 9#4 ++ 1#1 ++ 6#3 ++ 5#6 ++ 7#6 ++ 0#11 ++ 1#1 ++ 0#12 ++ 20#6 ++ 13#6) 0 (.bfx ⟨9, 1, 6⟩ 5 7 1 20 13)
    && decodesTo (0x37#8 ++ 9#4 ++ 1#1 ++ 6#3 ++ 5#6 ++ 7#6 ++ 0#24 ++ 20#6 ++ 13#6) 0 (.bfi ⟨9, 1, 6⟩ 5 7 20 13)
    && decodesTo (0x38#8 ++ 9#4 ++ 1#1 ++ 6#3 ++ 50#6 ++ 5#6 ++ 7#6 ++ 0#30) 0 (.rot ⟨9, 1, 6⟩ 50 5 7)
    && decodesTo (0x39#8 ++ 9#4 ++ 1#1 ++ 6#3 ++ 50#6 ++ 5#6 ++ 0#30 ++ 19#6) 0 (.roti ⟨9, 1, 6⟩ 50 5 19)
    && decodesTo (0x3A#8 ++ 9#4 ++ 1#1 ++ 6#3 ++ 5#6 ++ 7#6 ++ 9#6 ++ 0#24 ++ 11#6) 0 (.madd ⟨9, 1, 6⟩ 5 7 9 11)
    && decodesTo (0x3B#8 ++ 9#4 ++ 1#1 ++ 6#3 ++ 50#6 ++ 5#6 ++ 0#36) 0 (.bswapD ⟨9, 1, 6⟩ 50 5)
    && decodesTo (0x3B#8 ++ 9#4 ++ 1#1 ++ 6#3 ++ 50#6 ++ 5#6 ++ 0#6 ++ 1#6 ++ 0#24) 0 (.bswapW ⟨9, 1, 6⟩ 50 5)
    && decodesTo (0x3B#8 ++ 9#4 ++ 1#1 ++ 6#3 ++ 50#6 ++ 5#6 ++ 0#6 ++ 2#6 ++ 0#24) 0 (.bswapH ⟨9, 1, 6⟩ 50 5)
    && decodesTo (0x3C#8 ++ 9#4 ++ 1#1 ++ 6#3 ++ 50#6 ++ 5#6 ++ 7#6 ++ 0#3 ++ 1#1 ++ 2#2 ++ 0#24) 0 (.crc ⟨9, 1, 6⟩ 50 5 7 1 2)
    && decodesTo (0x3D#8 ++ 9#4 ++ 1#1 ++ 6#3 ++ 50#6 ++ 5#6 ++ 7#6 ++ 0#30) 0 (.hash ⟨9, 1, 6⟩ 50 5 7)) = true := by decide

/-- The same, continued. -/
theorem test_words_integer5 :
    (decodesTo (0x3E#8 ++ 9#4 ++ 1#1 ++ 6#3 ++ 50#6 ++ 0#42) 0 (.rdcyc ⟨9, 1, 6⟩ 50)
    && decodesTo (0x3F#8 ++ 9#4 ++ 1#1 ++ 6#3 ++ 50#6 ++ 0#42) 0 (.rdid ⟨9, 1, 6⟩ 50)) = true := by decide

/-- Words written out from the formats of Table 2.1 and the opcode of each rule: float. -/
theorem test_words_float1 :
    (decodesTo (0x40#8 ++ 9#4 ++ 1#1 ++ 6#3 ++ 50#6 ++ 5#6 ++ 7#6 ++ 0#3 ++ 3#3 ++ 0#24) 0 (.fadd ⟨9, 1, 6⟩ 50 5 7 3)
    && decodesTo (0x41#8 ++ 9#4 ++ 1#1 ++ 6#3 ++ 50#6 ++ 5#6 ++ 7#6 ++ 0#3 ++ 3#3 ++ 0#24) 0 (.fsub ⟨9, 1, 6⟩ 50 5 7 3)
    && decodesTo (0x42#8 ++ 9#4 ++ 1#1 ++ 6#3 ++ 50#6 ++ 5#6 ++ 7#6 ++ 0#3 ++ 3#3 ++ 0#24) 0 (.fmul ⟨9, 1, 6⟩ 50 5 7 3)
    && decodesTo (0x43#8 ++ 9#4 ++ 1#1 ++ 6#3 ++ 5#6 ++ 7#6 ++ 9#6 ++ 0#1 ++ 1#1 ++ 0#1 ++ 3#3 ++ 0#18 ++ 11#6) 0 (.ffma ⟨9, 1, 6⟩ 5 7 9 1 0 3 11)
    && decodesTo (0x44#8 ++ 9#4 ++ 1#1 ++ 6#3 ++ 50#6 ++ 5#6 ++ 7#6 ++ 0#3 ++ 3#3 ++ 0#24) 0 (.fdiv ⟨9, 1, 6⟩ 50 5 7 3)
    && decodesTo (0x45#8 ++ 9#4 ++ 1#1 ++ 6#3 ++ 50#6 ++ 5#6 ++ 0#9 ++ 3#3 ++ 0#24) 0 (.fsqrt ⟨9, 1, 6⟩ 50 5 3)
    && decodesTo (0x46#8 ++ 9#4 ++ 1#1 ++ 6#3 ++ 50#6 ++ 5#6 ++ 7#6 ++ 0#30) 0 (.fmin ⟨9, 1, 6⟩ 50 5 7)
    && decodesTo (0x47#8 ++ 9#4 ++ 1#1 ++ 6#3 ++ 50#6 ++ 5#6 ++ 7#6 ++ 0#30) 0 (.fmax ⟨9, 1, 6⟩ 50 5 7)
    && decodesTo (0x48#8 ++ 9#4 ++ 1#1 ++ 6#3 ++ 0#3 ++ 2#3 ++ 5#6 ++ 7#6 ++ 0#3 ++ 0#27) 0 (.fsetp ⟨9, 1, 6⟩ 2 5 7 0)
    && decodesTo (0x49#8 ++ 9#4 ++ 1#1 ++ 6#3 ++ 50#6 ++ 5#6 ++ 1#3 ++ 4#3 ++ 0#3 ++ 3#3 ++ 0#24) 0 (.fcvt ⟨9, 1, 6⟩ 50 5 1 4 3)
    && decodesTo (0x4A#8 ++ 9#4 ++ 1#1 ++ 6#3 ++ 50#6 ++ 5#6 ++ 0#4 ++ 1#1 ++ 0#1 ++ 0#3 ++ 3#3 ++ 0#24) 0 (.fcvti ⟨9, 1, 6⟩ 50 5 1 0 3)
    && decodesTo (0x4B#8 ++ 9#4 ++ 1#1 ++ 6#3 ++ 50#6 ++ 5#6 ++ 0#4 ++ 1#1 ++ 0#1 ++ 0#3 ++ 3#3 ++ 0#24) 0 (.icvtf ⟨9, 1, 6⟩ 50 5 1 0 3)) = true := by decide

/-- The same, continued. -/
theorem test_words_float2 :
    (decodesTo (0x4C#8 ++ 9#4 ++ 1#1 ++ 6#3 ++ 50#6 ++ 5#6 ++ 0#36) 0 (.fabs ⟨9, 1, 6⟩ 50 5)
    && decodesTo (0x4D#8 ++ 9#4 ++ 1#1 ++ 6#3 ++ 50#6 ++ 5#6 ++ 0#36) 0 (.fneg ⟨9, 1, 6⟩ 50 5)
    && decodesTo (0x4E#8 ++ 9#4 ++ 1#1 ++ 6#3 ++ 50#6 ++ 5#6 ++ 0#36) 0 (.fclass ⟨9, 1, 6⟩ 50 5)
    && decodesTo (0x4F#8 ++ 9#4 ++ 1#1 ++ 6#3 ++ 50#6 ++ 5#6 ++ 0#9 ++ 3#3 ++ 0#24) 0 (.frnd ⟨9, 1, 6⟩ 50 5 3)) = true := by decide

/-- Words written out from the formats of Table 2.1 and the opcode of each rule: control. -/
theorem test_words_control1 :
    (decodesTo (0x50#8 ++ 9#4 ++ 0#4 ++ 0x923456789ABC#48) 0 (.jmp 9 0x923456789ABC)
    && decodesTo (0x51#8 ++ 9#4 ++ 1#1 ++ 6#3 ++ 0x923456789ABC#48) 0 (.br ⟨9, 1, 6⟩ 0x923456789ABC)
    && decodesTo (0x52#8 ++ 9#4 ++ 1#1 ++ 6#3 ++ 0x923456789ABC#48) 0 (.call ⟨9, 1, 6⟩ 0x923456789ABC)
    && decodesTo (0x53#8 ++ 9#4 ++ 1#1 ++ 6#3 ++ 0#6 ++ 5#6 ++ 0#36) 0 (.jr ⟨9, 1, 6⟩ 5)
    && decodesTo (0x54#8 ++ 9#4 ++ 1#1 ++ 6#3 ++ 0#6 ++ 5#6 ++ 0#36) 0 (.callr ⟨9, 1, 6⟩ 5)
    && decodesTo (0x55#8 ++ 9#4 ++ 1#1 ++ 6#3 ++ 0#48) 0 (.ret ⟨9, 1, 6⟩)
    && decodesTo (0x56#8 ++ 9#4 ++ 1#1 ++ 6#3 ++ 5#6 ++ 0#12 ++ 0x2345678F#30) 0 (.loop ⟨9, 1, 6⟩ 5 0x2345678F)
    && decodesTo (0x57#8 ++ 9#4 ++ 1#1 ++ 6#3 ++ 5#6 ++ 0#6 ++ 0#6 ++ 0x2345678F#30) 0 (.brsymRes ⟨9, 1, 6⟩ 5 0x2345678F)
    && decodesTo (0x57#8 ++ 9#4 ++ 1#1 ++ 6#3 ++ 5#6 ++ 1#6 ++ 0#6 ++ 0x2345678F#30) 0 (.brsymPoi ⟨9, 1, 6⟩ 5 0x2345678F)
    && decodesTo (0x57#8 ++ 9#4 ++ 1#1 ++ 6#3 ++ 5#6 ++ 2#6 ++ 0#6 ++ 0x2345678F#30) 0 (.brsymPend ⟨9, 1, 6⟩ 5 0x2345678F)
    && decodesTo (0x58#8 ++ 9#4 ++ 1#1 ++ 6#3 ++ 50#6 ++ 5#6 ++ 7#6 ++ 0#30) 0 (.bri ⟨9, 1, 6⟩ 50 5 7)
    && decodesTo (0x59#8 ++ 9#4 ++ 1#1 ++ 6#3 ++ 0#5 ++ 1#1 ++ 0#6 ++ 0x923456#32 ++ 0#4) 0 (.frame ⟨9, 1, 6⟩ 1 0x923456)) = true := by decide

/-- The same, continued. -/
theorem test_words_control2 :
    (decodesTo (0x5A#8 ++ 9#4 ++ 1#1 ++ 6#3 ++ 5#6 ++ 0#12 ++ 0x2345678F#30) 0 (.brz ⟨9, 1, 6⟩ 5 0x2345678F)
    && decodesTo (0x5B#8 ++ 9#4 ++ 1#1 ++ 6#3 ++ 5#6 ++ 0#12 ++ 0x2345678F#30) 0 (.brnz ⟨9, 1, 6⟩ 5 0x2345678F)
    && decodesTo (0x5C#8 ++ 9#4 ++ 1#1 ++ 6#3 ++ 5#6 ++ 7#6 ++ 8#6 ++ 0x2345678F#30) 0 (.cbr ⟨9, 1, 6⟩ 5 7 8 0x2345678F)
    && decodesTo (0x5D#8 ++ 9#4 ++ 1#1 ++ 6#3 ++ 5#6 ++ 45#6 ++ 8#6 ++ 0x2345678F#30) 0 (.cbri ⟨9, 1, 6⟩ 5 45 8 0x2345678F)
    && decodesTo (0x5E#8 ++ 9#4 ++ 1#1 ++ 6#3 ++ 0#48) 0 (.exit ⟨9, 1, 6⟩)
    && decodesTo (0x5F#8 ++ 9#4 ++ 1#1 ++ 6#3 ++ 50#6 ++ 0#42) 0 (.nexti ⟨9, 1, 6⟩ 50)) = true := by decide

/-- Words written out from the formats of Table 2.1 and the opcode of each rule: memory. -/
theorem test_words_memory1 :
    (decodesTo (0x60#8 ++ 9#4 ++ 1#1 ++ 6#3 ++ 10#6 ++ 4#6 ++ 0#1 ++ 2#2 ++ 0#3 ++ 6#6 ++ 0x923456#24) 0 (.ld ⟨9, 1, 6⟩ 10 4 2 6 0x923456)
    && decodesTo (0x61#8 ++ 9#4 ++ 1#1 ++ 6#3 ++ 10#6 ++ 4#6 ++ 0#1 ++ 2#2 ++ 0#3 ++ 6#6 ++ 0x923456#24) 0 (.lds ⟨9, 1, 6⟩ 10 4 2 6 0x923456)
    && decodesTo (0x62#8 ++ 9#4 ++ 1#1 ++ 6#3 ++ 10#6 ++ 4#6 ++ 0#1 ++ 2#2 ++ 0#3 ++ 6#6 ++ 0x923456#24) 0 (.st ⟨9, 1, 6⟩ 10 4 2 6 0x923456)
    && decodesTo (0x63#8 ++ 9#4 ++ 1#1 ++ 6#3 ++ 10#6 ++ 4#6 ++ 0#1 ++ 2#2 ++ 0#3 ++ 6#6 ++ 0x923456#24) 0 (.ldl ⟨9, 1, 6⟩ 10 4 2 6 0x923456)
    && decodesTo (0x64#8 ++ 9#4 ++ 1#1 ++ 6#3 ++ 10#6 ++ 4#6 ++ 0#1 ++ 2#2 ++ 4#3 ++ 6#6 ++ 0x923456#24) 0 (.lda ⟨9, 1, 6⟩ 10 4 2 4 6 0x923456)
    && decodesTo (0x65#8 ++ 9#4 ++ 1#1 ++ 6#3 ++ 10#6 ++ 4#6 ++ 0#1 ++ 2#2 ++ 4#3 ++ 6#6 ++ 0x923456#24) 0 (.stl ⟨9, 1, 6⟩ 10 4 2 4 6 0x923456)
    && decodesTo (0x66#8 ++ 9#4 ++ 1#1 ++ 6#3 ++ 5#6 ++ 7#6 ++ 9#6 ++ 0#23 ++ 1#1 ++ 0#1 ++ 2#2 ++ 4#3) 0 (.amoAdd ⟨9, 1, 6⟩ 5 7 9 1 0 2 4)
    && decodesTo (0x66#8 ++ 9#4 ++ 1#1 ++ 6#3 ++ 5#6 ++ 7#6 ++ 9#6 ++ 1#6 ++ 0#17 ++ 1#1 ++ 0#1 ++ 2#2 ++ 4#3) 0 (.amoAnd ⟨9, 1, 6⟩ 5 7 9 1 0 2 4)
    && decodesTo (0x66#8 ++ 9#4 ++ 1#1 ++ 6#3 ++ 5#6 ++ 7#6 ++ 9#6 ++ 2#6 ++ 0#17 ++ 1#1 ++ 0#1 ++ 2#2 ++ 4#3) 0 (.amoOr ⟨9, 1, 6⟩ 5 7 9 1 0 2 4)
    && decodesTo (0x66#8 ++ 9#4 ++ 1#1 ++ 6#3 ++ 5#6 ++ 7#6 ++ 9#6 ++ 3#6 ++ 0#17 ++ 1#1 ++ 0#1 ++ 2#2 ++ 4#3) 0 (.amoXor ⟨9, 1, 6⟩ 5 7 9 1 0 2 4)
    && decodesTo (0x66#8 ++ 9#4 ++ 1#1 ++ 6#3 ++ 5#6 ++ 7#6 ++ 9#6 ++ 4#6 ++ 0#17 ++ 1#1 ++ 0#1 ++ 2#2 ++ 4#3) 0 (.amoSwap ⟨9, 1, 6⟩ 5 7 9 1 0 2 4)
    && decodesTo (0x66#8 ++ 9#4 ++ 1#1 ++ 6#3 ++ 5#6 ++ 7#6 ++ 9#6 ++ 5#6 ++ 0#17 ++ 1#1 ++ 0#1 ++ 2#2 ++ 4#3) 0 (.amoMin ⟨9, 1, 6⟩ 5 7 9 1 0 2 4)) = true := by decide

/-- The same, continued. -/
theorem test_words_memory2 :
    (decodesTo (0x66#8 ++ 9#4 ++ 1#1 ++ 6#3 ++ 5#6 ++ 7#6 ++ 9#6 ++ 6#6 ++ 0#17 ++ 1#1 ++ 0#1 ++ 2#2 ++ 4#3) 0 (.amoMax ⟨9, 1, 6⟩ 5 7 9 1 0 2 4)
    && decodesTo (0x66#8 ++ 9#4 ++ 1#1 ++ 6#3 ++ 5#6 ++ 7#6 ++ 9#6 ++ 7#6 ++ 0#17 ++ 1#1 ++ 0#1 ++ 2#2 ++ 4#3) 0 (.amoMinu ⟨9, 1, 6⟩ 5 7 9 1 0 2 4)
    && decodesTo (0x66#8 ++ 9#4 ++ 1#1 ++ 6#3 ++ 5#6 ++ 7#6 ++ 9#6 ++ 8#6 ++ 0#17 ++ 1#1 ++ 0#1 ++ 2#2 ++ 4#3) 0 (.amoMaxu ⟨9, 1, 6⟩ 5 7 9 1 0 2 4)
    && decodesTo (0x66#8 ++ 9#4 ++ 1#1 ++ 6#3 ++ 5#6 ++ 7#6 ++ 0#6 ++ 9#6 ++ 0#17 ++ 1#1 ++ 0#1 ++ 2#2 ++ 4#3) 0 (.amoMaxrst ⟨9, 1, 6⟩ 5 7 1 0 2 4)
    && decodesTo (0x67#8 ++ 9#4 ++ 1#1 ++ 6#3 ++ 5#6 ++ 7#6 ++ 9#6 ++ 12#6 ++ 0#17 ++ 1#1 ++ 0#1 ++ 2#2 ++ 4#3) 0 (.cas ⟨9, 1, 6⟩ 5 7 9 12 1 0 2 4)
    && decodesTo (0x68#8 ++ 9#4 ++ 1#1 ++ 6#3 ++ 5#6 ++ 7#6 ++ 9#6 ++ 0#23 ++ 1#1 ++ 0#1 ++ 2#2 ++ 4#3) 0 (.amolAdd ⟨9, 1, 6⟩ 5 7 9 1 0 2 4)
    && decodesTo (0x68#8 ++ 9#4 ++ 1#1 ++ 6#3 ++ 5#6 ++ 7#6 ++ 9#6 ++ 1#6 ++ 0#17 ++ 1#1 ++ 0#1 ++ 2#2 ++ 4#3) 0 (.amolAnd ⟨9, 1, 6⟩ 5 7 9 1 0 2 4)
    && decodesTo (0x68#8 ++ 9#4 ++ 1#1 ++ 6#3 ++ 5#6 ++ 7#6 ++ 9#6 ++ 2#6 ++ 0#17 ++ 1#1 ++ 0#1 ++ 2#2 ++ 4#3) 0 (.amolOr ⟨9, 1, 6⟩ 5 7 9 1 0 2 4)
    && decodesTo (0x68#8 ++ 9#4 ++ 1#1 ++ 6#3 ++ 5#6 ++ 7#6 ++ 9#6 ++ 3#6 ++ 0#17 ++ 1#1 ++ 0#1 ++ 2#2 ++ 4#3) 0 (.amolXor ⟨9, 1, 6⟩ 5 7 9 1 0 2 4)
    && decodesTo (0x68#8 ++ 9#4 ++ 1#1 ++ 6#3 ++ 5#6 ++ 7#6 ++ 9#6 ++ 4#6 ++ 0#17 ++ 1#1 ++ 0#1 ++ 2#2 ++ 4#3) 0 (.amolSwap ⟨9, 1, 6⟩ 5 7 9 1 0 2 4)
    && decodesTo (0x68#8 ++ 9#4 ++ 1#1 ++ 6#3 ++ 5#6 ++ 7#6 ++ 9#6 ++ 5#6 ++ 0#17 ++ 1#1 ++ 0#1 ++ 2#2 ++ 4#3) 0 (.amolMin ⟨9, 1, 6⟩ 5 7 9 1 0 2 4)
    && decodesTo (0x68#8 ++ 9#4 ++ 1#1 ++ 6#3 ++ 5#6 ++ 7#6 ++ 9#6 ++ 6#6 ++ 0#17 ++ 1#1 ++ 0#1 ++ 2#2 ++ 4#3) 0 (.amolMax ⟨9, 1, 6⟩ 5 7 9 1 0 2 4)) = true := by decide

/-- The same, continued. -/
theorem test_words_memory3 :
    (decodesTo (0x68#8 ++ 9#4 ++ 1#1 ++ 6#3 ++ 5#6 ++ 7#6 ++ 9#6 ++ 7#6 ++ 0#17 ++ 1#1 ++ 0#1 ++ 2#2 ++ 4#3) 0 (.amolMinu ⟨9, 1, 6⟩ 5 7 9 1 0 2 4)
    && decodesTo (0x68#8 ++ 9#4 ++ 1#1 ++ 6#3 ++ 5#6 ++ 7#6 ++ 9#6 ++ 8#6 ++ 0#17 ++ 1#1 ++ 0#1 ++ 2#2 ++ 4#3) 0 (.amolMaxu ⟨9, 1, 6⟩ 5 7 9 1 0 2 4)
    && decodesTo (0x68#8 ++ 9#4 ++ 1#1 ++ 6#3 ++ 5#6 ++ 7#6 ++ 0#6 ++ 9#6 ++ 0#17 ++ 1#1 ++ 0#1 ++ 2#2 ++ 4#3) 0 (.amolMaxrst ⟨9, 1, 6⟩ 5 7 1 0 2 4)
    && decodesTo (0x69#8 ++ 9#4 ++ 1#1 ++ 6#3 ++ 0#5 ++ 1#1 ++ 4#6 ++ 0#6 ++ 6#6 ++ 0x923456#24) 0 (.pref ⟨9, 1, 6⟩ 1 4 6 0x923456)
    && decodesTo (0x6A#8 ++ 9#4 ++ 1#1 ++ 6#3 ++ 10#6 ++ 4#6 ++ 0#1 ++ 2#2 ++ 0#3 ++ 6#6 ++ 0x923456#24) 0 (.ldx ⟨9, 1, 6⟩ 10 4 2 6 0x923456)
    && decodesTo (0x6B#8 ++ 9#4 ++ 1#1 ++ 6#3 ++ 10#6 ++ 4#6 ++ 0#1 ++ 2#2 ++ 0#3 ++ 6#6 ++ 0x923456#24) 0 (.stx ⟨9, 1, 6⟩ 10 4 2 6 0x923456)
    && decodesTo (0x6C#8 ++ 9#4 ++ 1#1 ++ 6#3 ++ 10#6 ++ 4#6 ++ 4#3 ++ 0#3 ++ 6#6 ++ 0x923456#24) 0 (.ldp ⟨9, 1, 6⟩ 10 4 6 0x923456)
    && decodesTo (0x6D#8 ++ 9#4 ++ 1#1 ++ 6#3 ++ 10#6 ++ 4#6 ++ 4#3 ++ 0#3 ++ 6#6 ++ 0x923456#24) 0 (.stp ⟨9, 1, 6⟩ 10 4 6 0x923456)
    && decodesTo (0x6E#8 ++ 9#4 ++ 1#1 ++ 6#3 ++ 5#6 ++ 7#6 ++ 9#6 ++ 0#27 ++ 4#3) 0 (.barInit ⟨9, 1, 6⟩ 5 7 9 4)
    && decodesTo (0x6E#8 ++ 9#4 ++ 1#1 ++ 6#3 ++ 5#6 ++ 7#6 ++ 9#6 ++ 1#6 ++ 0#21 ++ 4#3) 0 (.barExpect ⟨9, 1, 6⟩ 5 7 9 4)
    && decodesTo (0x6E#8 ++ 9#4 ++ 1#1 ++ 6#3 ++ 5#6 ++ 7#6 ++ 0#6 ++ 2#6 ++ 0#21 ++ 4#3) 0 (.barArrive ⟨9, 1, 6⟩ 5 7 4)
    && decodesTo (0x6E#8 ++ 9#4 ++ 1#1 ++ 6#3 ++ 5#6 ++ 7#6 ++ 9#6 ++ 3#6 ++ 0#21 ++ 4#3) 0 (.barArriveb ⟨9, 1, 6⟩ 5 7 9 4)) = true := by decide

/-- The same, continued. -/
theorem test_words_memory4 :
    (decodesTo (0x6E#8 ++ 9#4 ++ 1#1 ++ 6#3 ++ 5#6 ++ 7#6 ++ 9#6 ++ 4#6 ++ 0#21 ++ 4#3) 0 (.barWait ⟨9, 1, 6⟩ 5 7 9 4)
    && decodesTo (0x6E#8 ++ 9#4 ++ 1#1 ++ 6#3 ++ 5#6 ++ 7#6 ++ 9#6 ++ 5#6 ++ 0#21 ++ 4#3) 0 (.barTest ⟨9, 1, 6⟩ 5 7 9 4)
    && decodesTo (0x6F#8 ++ 9#4 ++ 1#1 ++ 6#3 ++ 5#6 ++ 7#6 ++ 0#11 ++ 1#1 ++ 0#24) 0 (.own ⟨9, 1, 6⟩ 5 7 1)) = true := by decide

/-- Words written out from the formats of Table 2.1 and the opcode of each rule: sync. -/
theorem test_words_sync1 :
    (decodesTo (0x70#8 ++ 9#4 ++ 1#1 ++ 6#3 ++ 0#21 ++ 5#3 ++ 0#21 ++ 4#3) 0 (.fence ⟨9, 1, 6⟩ 5 4)
    && decodesTo (0x71#8 ++ 9#4 ++ 1#1 ++ 6#3 ++ 0#21 ++ 4#3 ++ 0#24) 0 (.fsa ⟨9, 1, 6⟩ 4)
    && decodesTo (0x72#8 ++ 9#4 ++ 1#1 ++ 6#3 ++ 0#21 ++ 4#3 ++ 0#24) 0 (.fas ⟨9, 1, 6⟩ 4)
    && decodesTo (0x73#8 ++ 9#4 ++ 1#1 ++ 6#3 ++ 0#21 ++ 4#3 ++ 0#24) 0 (.faa ⟨9, 1, 6⟩ 4)
    && decodesTo (0x74#8 ++ 9#4 ++ 1#1 ++ 6#3 ++ 0#6 ++ 5#6 ++ 0#36) 0 (.symw ⟨9, 1, 6⟩ 5)
    && decodesTo (0x75#8 ++ 9#4 ++ 1#1 ++ 6#3 ++ 0#3 ++ 2#3 ++ 5#6 ++ 0#36) 0 (.symq ⟨9, 1, 6⟩ 2 5)
    && decodesTo (0x75#8 ++ 9#4 ++ 1#1 ++ 6#3 ++ 0#3 ++ 2#3 ++ 5#6 ++ 0#6 ++ 1#6 ++ 0#24) 0 (.symqPoi ⟨9, 1, 6⟩ 2 5)
    && decodesTo (0x76#8 ++ 9#4 ++ 1#1 ++ 6#3 ++ 50#6 ++ 5#6 ++ 7#6 ++ 0#30) 0 (.symx ⟨9, 1, 6⟩ 50 5 7)
    && decodesTo (0x77#8 ++ 9#4 ++ 1#1 ++ 6#3 ++ 0#6 ++ 7#6 ++ 9#6 ++ 0#30) 0 (.wmpub ⟨9, 1, 6⟩ 7 9)
    && decodesTo (0x77#8 ++ 9#4 ++ 1#1 ++ 6#3 ++ 0#6 ++ 7#6 ++ 9#6 ++ 1#6 ++ 0#24) 0 (.wmpubGen ⟨9, 1, 6⟩ 7 9)
    && decodesTo (0x78#8 ++ 9#4 ++ 1#1 ++ 6#3 ++ 5#6 ++ 7#6 ++ 9#6 ++ 0#28 ++ 3#2) 0 (.wmset ⟨9, 1, 6⟩ 5 7 9 3)
    && decodesTo (0x79#8 ++ 9#4 ++ 1#1 ++ 6#3 ++ 5#6 ++ 7#6 ++ 9#6 ++ 0#30) 0 (.qwait ⟨9, 1, 6⟩ 5 7 9)) = true := by decide

/-- The same, continued. -/
theorem test_words_sync2 :
    (decodesTo (0x7A#8 ++ 9#4 ++ 1#1 ++ 6#3 ++ 5#6 ++ 7#6 ++ 9#6 ++ 0#30) 0 (.qtake ⟨9, 1, 6⟩ 5 7 9)
    && decodesTo (0x7B#8 ++ 9#4 ++ 1#1 ++ 6#3 ++ 50#6 ++ 5#6 ++ 7#6 ++ 0#30) 0 (.launch ⟨9, 1, 6⟩ 50 5 7)
    && decodesTo (0x7C#8 ++ 9#4 ++ 1#1 ++ 6#3 ++ 50#6 ++ 5#6 ++ 0#36) 0 (.lwait ⟨9, 1, 6⟩ 50 5)
    && decodesTo (0x7C#8 ++ 9#4 ++ 1#1 ++ 6#3 ++ 50#6 ++ 5#6 ++ 0#6 ++ 1#6 ++ 0#24) 0 (.lwaitTest ⟨9, 1, 6⟩ 50 5)
    && decodesTo (0x7D#8 ++ 9#4 ++ 1#1 ++ 6#3 ++ 50#6 ++ 5#6 ++ 0#36) 0 (.prioGet ⟨9, 1, 6⟩ 50 5)
    && decodesTo (0x7D#8 ++ 9#4 ++ 1#1 ++ 6#3 ++ 50#6 ++ 5#6 ++ 7#6 ++ 1#6 ++ 0#24) 0 (.prioSet ⟨9, 1, 6⟩ 50 5 7)
    && decodesTo (0x7D#8 ++ 9#4 ++ 1#1 ++ 6#3 ++ 50#6 ++ 0#12 ++ 2#6 ++ 0#24) 0 (.prioPend ⟨9, 1, 6⟩ 50)
    && decodesTo (0x7D#8 ++ 9#4 ++ 1#1 ++ 6#3 ++ 50#6 ++ 5#6 ++ 7#6 ++ 3#6 ++ 0#24) 0 (.prioCeil ⟨9, 1, 6⟩ 50 5 7)
    && decodesTo (0x7D#8 ++ 9#4 ++ 1#1 ++ 6#3 ++ 50#6 ++ 5#6 ++ 0#6 ++ 4#6 ++ 0#24) 0 (.prioWake ⟨9, 1, 6⟩ 50 5)
    && decodesTo (0x7D#8 ++ 9#4 ++ 1#1 ++ 6#3 ++ 50#6 ++ 5#6 ++ 0#6 ++ 5#6 ++ 0#24) 0 (.prioKill ⟨9, 1, 6⟩ 50 5)
    && decodesTo (0x7E#8 ++ 9#4 ++ 1#1 ++ 6#3 ++ 50#6 ++ 5#6 ++ 7#6 ++ 0#30) 0 (.ctxsv ⟨9, 1, 6⟩ 50 5 7)
    && decodesTo (0x7E#8 ++ 9#4 ++ 1#1 ++ 6#3 ++ 50#6 ++ 5#6 ++ 7#6 ++ 1#6 ++ 0#24) 0 (.ctxsvHold ⟨9, 1, 6⟩ 50 5 7)) = true := by decide

/-- The same, continued. -/
theorem test_words_sync3 :
    (decodesTo (0x7F#8 ++ 9#4 ++ 1#1 ++ 6#3 ++ 50#6 ++ 5#6 ++ 0#36) 0 (.ctxld ⟨9, 1, 6⟩ 50 5)) = true := by decide

/-- Words written out from the formats of Table 2.1 and the opcode of each rule: transfer. -/
theorem test_words_transfer1 :
    (decodesTo (0x80#8 ++ 9#4 ++ 1#1 ++ 6#3 ++ 3#2 ++ 13#4 ++ 7#6 ++ 0#36) 0 (.sbind ⟨9, 1, 6⟩ 13 7)
    && decodesTo (0x81#8 ++ 9#4 ++ 1#1 ++ 6#3 ++ 0#6 ++ 3#2 ++ 13#4 ++ 0#36) 0 (.sfree ⟨9, 1, 6⟩ 13)
    && decodesTo 0x8110032000000000#64 0 (.sfree ⟨1, 0, 0⟩ 2)
    && decodesTo (0x82#8 ++ 9#4 ++ 1#1 ++ 6#3 ++ 5#6 ++ 7#6 ++ 9#6 ++ 0#26 ++ 11#4) 0 (.xcopy ⟨9, 1, 6⟩ 5 7 9 11)
    && decodesTo (0x83#8 ++ 9#4 ++ 1#1 ++ 6#3 ++ 5#6 ++ 7#6 ++ 9#6 ++ 0#26 ++ 11#4) 0 (.xgath2 ⟨9, 1, 6⟩ 5 7 9 11)
    && decodesTo (0x84#8 ++ 9#4 ++ 1#1 ++ 6#3 ++ 5#6 ++ 7#6 ++ 9#6 ++ 0#26 ++ 11#4) 0 (.xgath ⟨9, 1, 6⟩ 5 7 9 11)
    && decodesTo (0x85#8 ++ 9#4 ++ 1#1 ++ 6#3 ++ 5#6 ++ 7#6 ++ 9#6 ++ 0#26 ++ 11#4) 0 (.xscat ⟨9, 1, 6⟩ 5 7 9 11)
    && decodesTo (0x86#8 ++ 9#4 ++ 1#1 ++ 6#3 ++ 5#6 ++ 7#6 ++ 9#6 ++ 0#26 ++ 11#4) 0 (.xslide ⟨9, 1, 6⟩ 5 7 9 11)
    && decodesTo (0x87#8 ++ 9#4 ++ 1#1 ++ 6#3 ++ 5#6 ++ 7#6 ++ 9#6 ++ 0#26 ++ 11#4) 0 (.xfill ⟨9, 1, 6⟩ 5 7 9 11)
    && decodesTo (0x88#8 ++ 9#4 ++ 1#1 ++ 6#3 ++ 5#6 ++ 7#6 ++ 0#32 ++ 11#4) 0 (.xwait ⟨9, 1, 6⟩ 5 7 11)
    && decodesTo (0x89#8 ++ 9#4 ++ 1#1 ++ 6#3 ++ 5#6 ++ 7#6 ++ 0#32 ++ 11#4) 0 (.xstatDone ⟨9, 1, 6⟩ 5 7 11)
    && decodesTo (0x89#8 ++ 9#4 ++ 1#1 ++ 6#3 ++ 5#6 ++ 7#6 ++ 0#6 ++ 1#6 ++ 0#20 ++ 11#4) 0 (.xstatNext ⟨9, 1, 6⟩ 5 7 11)
    && decodesTo (0x89#8 ++ 9#4 ++ 1#1 ++ 6#3 ++ 5#6 ++ 7#6 ++ 0#6 ++ 2#6 ++ 0#20 ++ 11#4) 0 (.xstatVal ⟨9, 1, 6⟩ 5 7 11)) = true := by decide

/-- The same, continued. -/
theorem test_words_transfer2 :
    (decodesTo (0x89#8 ++ 9#4 ++ 1#1 ++ 6#3 ++ 5#6 ++ 7#6 ++ 0#6 ++ 3#6 ++ 0#20 ++ 11#4) 0 (.xstatFault ⟨9, 1, 6⟩ 5 7 11)
    && decodesTo (0x89#8 ++ 9#4 ++ 1#1 ++ 6#3 ++ 5#6 ++ 7#6 ++ 0#6 ++ 4#6 ++ 0#20 ++ 11#4) 0 (.xstatFaddr ⟨9, 1, 6⟩ 5 7 11)
    && decodesTo (0x89#8 ++ 9#4 ++ 1#1 ++ 6#3 ++ 5#6 ++ 7#6 ++ 0#6 ++ 5#6 ++ 0#20 ++ 11#4) 0 (.xstatResume ⟨9, 1, 6⟩ 5 7 11)
    && decodesTo (0x89#8 ++ 9#4 ++ 1#1 ++ 6#3 ++ 5#6 ++ 7#6 ++ 0#6 ++ 6#6 ++ 0#20 ++ 11#4) 0 (.xstatAbort ⟨9, 1, 6⟩ 5 7 11)
    && decodesTo (0x8A#8 ++ 9#4 ++ 1#1 ++ 6#3 ++ 5#6 ++ 7#6 ++ 0#32 ++ 11#4) 0 (.xckpt ⟨9, 1, 6⟩ 5 7 11)
    && decodesTo (0x8B#8 ++ 9#4 ++ 1#1 ++ 6#3 ++ 5#6 ++ 7#6 ++ 9#6 ++ 0#26 ++ 11#4) 0 (.xpromPro ⟨9, 1, 6⟩ 5 7 9 11)
    && decodesTo (0x8B#8 ++ 9#4 ++ 1#1 ++ 6#3 ++ 5#6 ++ 7#6 ++ 9#6 ++ 1#6 ++ 0#20 ++ 11#4) 0 (.xpromDem ⟨9, 1, 6⟩ 5 7 9 11)
    && decodesTo (0x8C#8 ++ 9#4 ++ 1#1 ++ 6#3 ++ 5#6 ++ 7#6 ++ 9#6 ++ 0#3 ++ 2#3 ++ 0#20 ++ 11#4) 0 (.xredAdd ⟨9, 1, 6⟩ 5 7 9 2 11)
    && decodesTo (0x8C#8 ++ 9#4 ++ 1#1 ++ 6#3 ++ 5#6 ++ 7#6 ++ 9#6 ++ 1#3 ++ 2#3 ++ 0#20 ++ 11#4) 0 (.xredMax ⟨9, 1, 6⟩ 5 7 9 2 11)
    && decodesTo (0x8D#8 ++ 9#4 ++ 1#1 ++ 6#3 ++ 5#6 ++ 7#6 ++ 9#6 ++ 0#26 ++ 11#4) 0 (.xkv ⟨9, 1, 6⟩ 5 7 9 11)
    && decodesTo (0x8E#8 ++ 9#4 ++ 1#1 ++ 6#3 ++ 5#6 ++ 7#6 ++ 9#6 ++ 0#26 ++ 11#4) 0 (.xdense ⟨9, 1, 6⟩ 5 7 9 11)
    && decodesTo (0x8F#8 ++ 9#4 ++ 1#1 ++ 6#3 ++ 5#6 ++ 7#6 ++ 9#6 ++ 0#26 ++ 11#4) 0 (.xclass ⟨9, 1, 6⟩ 5 7 9 11)) = true := by decide

/-- Words written out from the formats of Table 2.1 and the opcode of each rule: matrix. -/
theorem test_words_matrix1 :
    (decodesTo (0x90#8 ++ 9#4 ++ 1#1 ++ 6#3 ++ 5#6 ++ 7#6 ++ 0#36) 0 (.mcfg ⟨9, 1, 6⟩ 5 7)
    && decodesTo (0x91#8 ++ 9#4 ++ 1#1 ++ 6#3 ++ 5#6 ++ 7#6 ++ 9#6 ++ 0#3 ++ 1#1 ++ 0#1 ++ 1#1 ++ 0#21 ++ 6#3) 0 (.mma ⟨9, 1, 6⟩ 5 7 9 1 0 1 6)
    && decodesTo (0x92#8 ++ 9#4 ++ 1#1 ++ 6#3 ++ 5#6 ++ 7#6 ++ 9#6 ++ 0#3 ++ 1#1 ++ 0#1 ++ 1#1 ++ 0#21 ++ 6#3) 0 (.mmax ⟨9, 1, 6⟩ 5 7 9 1 0 1 6)
    && decodesTo (0x93#8 ++ 9#4 ++ 1#1 ++ 6#3 ++ 5#6 ++ 7#6 ++ 9#6 ++ 0#5 ++ 1#1 ++ 0#6 ++ 63#7 ++ 10#7 ++ 0#1 ++ 6#3) 0 (.mlda ⟨9, 1, 6⟩ 5 7 9 1 63 10 6)
    && decodesTo (0x94#8 ++ 9#4 ++ 1#1 ++ 6#3 ++ 5#6 ++ 7#6 ++ 9#6 ++ 0#12 ++ 63#7 ++ 10#7 ++ 0#1 ++ 6#3) 0 (.msta ⟨9, 1, 6⟩ 5 7 9 63 10 6)
    && decodesTo (0x95#8 ++ 9#4 ++ 1#1 ++ 6#3 ++ 5#6 ++ 0#34 ++ 0xA5#8) 0 (.mzero ⟨9, 1, 6⟩ 5 0xA5)
    && decodesTo (0x96#8 ++ 9#4 ++ 1#1 ++ 6#3 ++ 5#6 ++ 7#6 ++ 9#6 ++ 0#3 ++ 1#1 ++ 0#1 ++ 1#1 ++ 0#21 ++ 6#3) 0 (.mconv ⟨9, 1, 6⟩ 5 7 9 1 0 1 6)
    && decodesTo (0x97#8 ++ 9#4 ++ 1#1 ++ 6#3 ++ 5#6 ++ 7#6 ++ 9#6 ++ 0#30) 0 (.mque ⟨9, 1, 6⟩ 5 7 9)
    && decodesTo (0x98#8 ++ 9#4 ++ 1#1 ++ 6#3 ++ 5#6 ++ 7#6 ++ 0#36) 0 (.mwait ⟨9, 1, 6⟩ 5 7)
    && decodesTo (0x98#8 ++ 9#4 ++ 1#1 ++ 6#3 ++ 5#6 ++ 7#6 ++ 9#6 ++ 1#6 ++ 0#24) 0 (.mwaitTask ⟨9, 1, 6⟩ 5 7 9)
    && decodesTo (0x99#8 ++ 9#4 ++ 1#1 ++ 6#3 ++ 5#6 ++ 7#6 ++ 0#36) 0 (.mstatDone ⟨9, 1, 6⟩ 5 7)
    && decodesTo (0x99#8 ++ 9#4 ++ 1#1 ++ 6#3 ++ 5#6 ++ 7#6 ++ 0#6 ++ 1#6 ++ 0#24) 0 (.mstatNext ⟨9, 1, 6⟩ 5 7)) = true := by decide

/-- The same, continued. -/
theorem test_words_matrix2 :
    (decodesTo (0x99#8 ++ 9#4 ++ 1#1 ++ 6#3 ++ 5#6 ++ 7#6 ++ 0#6 ++ 2#6 ++ 0#24) 0 (.mstatFault ⟨9, 1, 6⟩ 5 7)
    && decodesTo (0x99#8 ++ 9#4 ++ 1#1 ++ 6#3 ++ 5#6 ++ 7#6 ++ 0#6 ++ 3#6 ++ 0#24) 0 (.mstatFaddr ⟨9, 1, 6⟩ 5 7)
    && decodesTo (0x99#8 ++ 9#4 ++ 1#1 ++ 6#3 ++ 5#6 ++ 7#6 ++ 0#6 ++ 4#6 ++ 0#24) 0 (.mstatRow ⟨9, 1, 6⟩ 5 7)
    && decodesTo (0x99#8 ++ 9#4 ++ 1#1 ++ 6#3 ++ 5#6 ++ 7#6 ++ 0#6 ++ 5#6 ++ 0#24) 0 (.mstatResume ⟨9, 1, 6⟩ 5 7)
    && decodesTo (0x99#8 ++ 9#4 ++ 1#1 ++ 6#3 ++ 5#6 ++ 7#6 ++ 0#6 ++ 6#6 ++ 0#24) 0 (.mstatAbort ⟨9, 1, 6⟩ 5 7)
    && decodesTo (0x99#8 ++ 9#4 ++ 1#1 ++ 6#3 ++ 5#6 ++ 7#6 ++ 0#6 ++ 7#6 ++ 0#24) 0 (.mstatEv ⟨9, 1, 6⟩ 5 7)
    && decodesTo (0x99#8 ++ 9#4 ++ 1#1 ++ 6#3 ++ 5#6 ++ 7#6 ++ 0#6 ++ 8#6 ++ 0#24) 0 (.mstatFmt ⟨9, 1, 6⟩ 5 7)
    && decodesTo (0x9A#8 ++ 9#4 ++ 1#1 ++ 6#3 ++ 5#6 ++ 7#6 ++ 0#18 ++ 63#7 ++ 10#7 ++ 0#1 ++ 6#3) 0 (.mamax ⟨9, 1, 6⟩ 5 7 63 10 6)
    && decodesTo (0x9B#8 ++ 9#4 ++ 1#1 ++ 6#3 ++ 5#6 ++ 7#6 ++ 9#6 ++ 0#5 ++ 1#1 ++ 0#6 ++ 63#7 ++ 10#7 ++ 0#1 ++ 6#3) 0 (.mquant ⟨9, 1, 6⟩ 5 7 9 1 63 10 6)
    && decodesTo (0x9C#8 ++ 9#4 ++ 1#1 ++ 6#3 ++ 5#6 ++ 7#6 ++ 9#6 ++ 0#12 ++ 63#7 ++ 10#7 ++ 0#1 ++ 6#3) 0 (.msoft ⟨9, 1, 6⟩ 5 7 9 63 10 6)
    && decodesTo (0x9D#8 ++ 9#4 ++ 1#1 ++ 6#3 ++ 5#6 ++ 0#36 ++ 3#3 ++ 6#3) 0 (.mtrans ⟨9, 1, 6⟩ 5 3 6)
    && decodesTo (0x9E#8 ++ 9#4 ++ 1#1 ++ 6#3 ++ 5#6 ++ 7#6 ++ 0#36) 0 (.msave ⟨9, 1, 6⟩ 5 7)) = true := by decide

/-- The same, continued. -/
theorem test_words_matrix3 :
    (decodesTo (0x9F#8 ++ 9#4 ++ 1#1 ++ 6#3 ++ 5#6 ++ 7#6 ++ 0#36) 0 (.mrest ⟨9, 1, 6⟩ 5 7)) = true := by decide

/-- Words written out from the formats of Table 2.1 and the opcode of each rule: assocSearch. -/
theorem test_words_assocSearch1 :
    (decodesTo (0xA0#8 ++ 9#4 ++ 1#2 ++ 24#5 ++ 21#5 ++ 0#16 ++ 33#6 ++ 0#18) 0 (.afcfg 9 21 33)
    && decodesTo (0xA1#8 ++ 9#4 ++ 1#2 ++ 24#5 ++ 0#21 ++ 33#6 ++ 0#18) 0 (.amodeAs 9 33)
    && decodesTo (0xA1#8 ++ 9#4 ++ 1#2 ++ 24#5 ++ 0#19 ++ 1#2 ++ 33#6 ++ 0#18) 0 (.amodeSt 9 33)
    && decodesTo (0xA2#8 ++ 9#4 ++ 1#2 ++ 22#5 ++ 17#5 ++ 0#5 ++ 19#5 ++ 0#6 ++ 33#6 ++ 0#18) 0 (.awhile ⟨9, 22⟩ 17 19 (.vs 33))
    && decodesTo (0xA3#8 ++ 9#4 ++ 1#2 ++ 22#5 ++ 17#5 ++ 12#5 ++ 0#11 ++ 33#6 ++ 0#18) 0 (.asrchSet ⟨9, 22⟩ 17 12 (.vs 33))
    && decodesTo (0xA3#8 ++ 9#4 ++ 1#2 ++ 22#5 ++ 17#5 ++ 12#5 ++ 0#9 ++ 1#2 ++ 33#6 ++ 0#18) 0 (.asrchAnd ⟨9, 22⟩ 17 12 (.vs 33))
    && decodesTo (0xA3#8 ++ 9#4 ++ 1#2 ++ 22#5 ++ 17#5 ++ 12#5 ++ 0#9 ++ 2#2 ++ 33#6 ++ 0#18) 0 (.asrchOr ⟨9, 22⟩ 17 12 (.vs 33))
    && decodesTo (0xA4#8 ++ 9#4 ++ 1#2 ++ 22#5 ++ 17#5 ++ 12#5 ++ 0#4 ++ 1#1 ++ 0#6 ++ 33#6 ++ 0#18) 0 (.acmpEq ⟨9, 22⟩ 17 12 (.vs 1 33))
    && decodesTo (0xA4#8 ++ 9#4 ++ 1#2 ++ 22#5 ++ 17#5 ++ 12#5 ++ 0#4 ++ 1#1 ++ 0#4 ++ 1#2 ++ 33#6 ++ 0#18) 0 (.acmpNe ⟨9, 22⟩ 17 12 (.vs 1 33))
    && decodesTo (0xA4#8 ++ 9#4 ++ 1#2 ++ 22#5 ++ 17#5 ++ 12#5 ++ 0#4 ++ 1#1 ++ 0#4 ++ 2#2 ++ 33#6 ++ 0#18) 0 (.acmpLt ⟨9, 22⟩ 17 12 (.vs 1 33))
    && decodesTo (0xA4#8 ++ 9#4 ++ 1#2 ++ 22#5 ++ 17#5 ++ 12#5 ++ 0#4 ++ 1#1 ++ 0#4 ++ 3#2 ++ 33#6 ++ 0#18) 0 (.acmpGe ⟨9, 22⟩ 17 12 (.vs 1 33))
    && decodesTo (0xA5#8 ++ 9#4 ++ 2#2 ++ 22#5 ++ 17#5 ++ 14#5 ++ 9#5 ++ 0#26 ++ 6#4) 0 (.mlog ⟨9, 22⟩ 17 14 9 6)) = true := by decide

/-- The same, continued. -/
theorem test_words_assocSearch2 :
    (decodesTo (0xA6#8 ++ 9#4 ++ 2#2 ++ 22#5 ++ 17#5 ++ 0#39 ++ 1#1) 0 (.mset ⟨9, 22⟩ 17 1)
    && decodesTo (0xA7#8 ++ 9#4 ++ 1#2 ++ 22#5 ++ 21#5 ++ 0#16 ++ 33#6 ++ 0#18) 0 (.awr ⟨9, 22⟩ 21 (.vs 33))
    && decodesTo (0xA8#8 ++ 9#4 ++ 0#2 ++ 22#5 ++ 21#5 ++ 12#5 ++ 0#35) 0 (.amov ⟨9, 22⟩ 21 12)
    && decodesTo (0xA9#8 ++ 9#4 ++ 1#2 ++ 22#5 ++ 0#5 ++ 14#5 ++ 0#11 ++ 33#6 ++ 0#18) 0 (.apopM ⟨9, 22⟩ 14 33)
    && decodesTo (0xA9#8 ++ 9#4 ++ 1#2 ++ 22#5 ++ 0#5 ++ 12#5 ++ 0#9 ++ 1#2 ++ 33#6 ++ 0#18) 0 (.apopF ⟨9, 22⟩ 12 33)
    && decodesTo (0xAA#8 ++ 9#4 ++ 1#2 ++ 22#5 ++ 0#5 ++ 14#5 ++ 0#11 ++ 33#6 ++ 0#18) 0 (.afirstFirst ⟨9, 22⟩ 14 33)
    && decodesTo (0xAA#8 ++ 9#4 ++ 1#2 ++ 22#5 ++ 0#5 ++ 14#5 ++ 0#9 ++ 1#2 ++ 33#6 ++ 0#18) 0 (.afirstLast ⟨9, 22⟩ 14 33)
    && decodesTo (0xAB#8 ++ 9#4 ++ 0#2 ++ 22#5 ++ 17#5 ++ 14#5 ++ 0#35) 0 (.anextClr ⟨9, 22⟩ 17 14)
    && decodesTo (0xAB#8 ++ 9#4 ++ 0#2 ++ 22#5 ++ 17#5 ++ 14#5 ++ 0#9 ++ 1#2 ++ 0#24) 0 (.anextOne ⟨9, 22⟩ 17 14)
    && decodesTo (0xAC#8 ++ 9#4 ++ 1#2 ++ 22#5 ++ 17#5 ++ 12#5 ++ 0#11 ++ 33#6 ++ 0#18) 0 (.atopkMax ⟨9, 22⟩ 17 12 (.vs 33))
    && decodesTo (0xAC#8 ++ 9#4 ++ 1#2 ++ 22#5 ++ 17#5 ++ 12#5 ++ 0#9 ++ 1#2 ++ 33#6 ++ 0#18) 0 (.atopkMin ⟨9, 22⟩ 17 12 (.vs 33))
    && decodesTo (0xAD#8 ++ 9#4 ++ 1#2 ++ 22#5 ++ 0#5 ++ 12#5 ++ 0#11 ++ 33#6 ++ 0#18) 0 (.aextMax ⟨9, 22⟩ 12 33)) = true := by decide

/-- The same, continued. -/
theorem test_words_assocSearch3 :
    (decodesTo (0xAD#8 ++ 9#4 ++ 1#2 ++ 22#5 ++ 0#5 ++ 12#5 ++ 0#9 ++ 1#2 ++ 33#6 ++ 0#18) 0 (.aextMin ⟨9, 22⟩ 12 33)
    && decodesTo (0xAD#8 ++ 9#4 ++ 1#2 ++ 22#5 ++ 0#5 ++ 12#5 ++ 0#9 ++ 2#2 ++ 33#6 ++ 0#18) 0 (.aextMaxidx ⟨9, 22⟩ 12 33)
    && decodesTo (0xAD#8 ++ 9#4 ++ 1#2 ++ 22#5 ++ 0#5 ++ 12#5 ++ 0#9 ++ 3#2 ++ 33#6 ++ 0#18) 0 (.aextMinidx ⟨9, 22⟩ 12 33)
    && decodesTo (0xAE#8 ++ 9#4 ++ 1#2 ++ 22#5 ++ 0#5 ++ 12#5 ++ 19#5 ++ 0#6 ++ 33#6 ++ 0#18) 0 (.ardrow ⟨9, 22⟩ 12 19 33)
    && decodesTo (0xAF#8 ++ 9#4 ++ 1#2 ++ 22#5 ++ 21#5 ++ 0#5 ++ 19#5 ++ 0#6 ++ 33#6 ++ 0#18) 0 (.awrrow ⟨9, 22⟩ 21 19 33)) = true := by decide

/-- Words written out from the formats of Table 2.1 and the opcode of each rule: assocArithmetic. -/
theorem test_words_assocArithmetic1 :
    (decodesTo (0xB0#8 ++ 9#4 ++ 1#2 ++ 22#5 ++ 21#5 ++ 12#5 ++ 0#5 ++ 4#3 ++ 1#1 ++ 0#2 ++ 33#6 ++ 0#18) 0 (.aadd ⟨9, 22⟩ 21 12 4 1 (.vs 33))
    && decodesTo (0xB1#8 ++ 9#4 ++ 1#2 ++ 22#5 ++ 21#5 ++ 12#5 ++ 0#5 ++ 4#3 ++ 1#1 ++ 0#1 ++ 1#1 ++ 33#6 ++ 0#18) 0 (.asub ⟨9, 22⟩ 21 12 4 1 1 (.vs 33))
    && decodesTo (0xB2#8 ++ 9#4 ++ 1#2 ++ 22#5 ++ 21#5 ++ 12#5 ++ 0#5 ++ 4#3 ++ 1#1 ++ 0#2 ++ 33#6 ++ 0#18) 0 (.amul ⟨9, 22⟩ 21 12 4 1 (.vs 33))
    && decodesTo (0xB3#8 ++ 9#4 ++ 1#2 ++ 22#5 ++ 21#5 ++ 12#5 ++ 0#5 ++ 4#3 ++ 1#1 ++ 0#2 ++ 33#6 ++ 0#18) 0 (.afma ⟨9, 22⟩ 21 12 4 1 (.vs 33))
    && decodesTo (0xB4#8 ++ 9#4 ++ 1#2 ++ 22#5 ++ 21#5 ++ 12#5 ++ 0#5 ++ 4#3 ++ 1#1 ++ 0#1 ++ 1#1 ++ 33#6 ++ 0#18) 0 (.adiv ⟨9, 22⟩ 21 12 4 1 1 (.vs 33))
    && decodesTo (0xB5#8 ++ 9#4 ++ 1#2 ++ 22#5 ++ 21#5 ++ 12#5 ++ 0#11 ++ 33#6 ++ 0#18) 0 (.amin ⟨9, 22⟩ 21 12 (.vs 33))
    && decodesTo (0xB6#8 ++ 9#4 ++ 1#2 ++ 22#5 ++ 21#5 ++ 12#5 ++ 0#11 ++ 33#6 ++ 0#18) 0 (.amax ⟨9, 22⟩ 21 12 (.vs 33))
    && decodesTo (0xB7#8 ++ 9#4 ++ 0#2 ++ 22#5 ++ 21#5 ++ 12#5 ++ 0#5 ++ 4#3 ++ 1#1 ++ 0#26) 0 (.aabs ⟨9, 22⟩ 21 12 4 1)
    && decodesTo (0xB8#8 ++ 9#4 ++ 0#2 ++ 22#5 ++ 21#5 ++ 12#5 ++ 0#5 ++ 4#3 ++ 1#1 ++ 0#26) 0 (.aneg ⟨9, 22⟩ 21 12 4 1)
    && decodesTo (0xB9#8 ++ 9#4 ++ 1#2 ++ 22#5 ++ 21#5 ++ 12#5 ++ 0#11 ++ 33#6 ++ 0#18) 0 (.alogAnd ⟨9, 22⟩ 21 12 (.vs 33))
    && decodesTo (0xB9#8 ++ 9#4 ++ 1#2 ++ 22#5 ++ 21#5 ++ 12#5 ++ 0#9 ++ 1#2 ++ 33#6 ++ 0#18) 0 (.alogOr ⟨9, 22⟩ 21 12 (.vs 33))
    && decodesTo (0xB9#8 ++ 9#4 ++ 1#2 ++ 22#5 ++ 21#5 ++ 12#5 ++ 0#9 ++ 2#2 ++ 33#6 ++ 0#18) 0 (.alogXor ⟨9, 22⟩ 21 12 (.vs 33))) = true := by decide

/-- The same, continued. -/
theorem test_words_assocArithmetic2 :
    (decodesTo (0xB9#8 ++ 9#4 ++ 1#2 ++ 22#5 ++ 21#5 ++ 12#5 ++ 0#9 ++ 3#2 ++ 33#6 ++ 0#18) 0 (.alogAndn ⟨9, 22⟩ 21 12 (.vs 33))
    && decodesTo (0xBA#8 ++ 9#4 ++ 1#2 ++ 22#5 ++ 21#5 ++ 12#5 ++ 0#8 ++ 1#1 ++ 0#2 ++ 33#6 ++ 0#18) 0 (.ashfShl ⟨9, 22⟩ 21 12 1 (.vs 33))
    && decodesTo (0xBA#8 ++ 9#4 ++ 1#2 ++ 22#5 ++ 21#5 ++ 12#5 ++ 0#8 ++ 1#1 ++ 1#2 ++ 33#6 ++ 0#18) 0 (.ashfShr ⟨9, 22⟩ 21 12 1 (.vs 33))
    && decodesTo (0xBA#8 ++ 9#4 ++ 1#2 ++ 22#5 ++ 21#5 ++ 12#5 ++ 0#8 ++ 1#1 ++ 2#2 ++ 33#6 ++ 0#18) 0 (.ashfSra ⟨9, 22⟩ 21 12 1 (.vs 33))
    && decodesTo (0xBA#8 ++ 9#4 ++ 1#2 ++ 22#5 ++ 21#5 ++ 12#5 ++ 0#8 ++ 1#1 ++ 3#2 ++ 33#6 ++ 0#18) 0 (.ashfRot ⟨9, 22⟩ 21 12 1 (.vs 33))
    && decodesTo (0xBB#8 ++ 9#4 ++ 0#2 ++ 22#5 ++ 21#5 ++ 12#5 ++ 0#5 ++ 4#3 ++ 1#1 ++ 0#26) 0 (.acvt ⟨9, 22⟩ 21 12 4 1)
    && decodesTo (0xBC#8 ++ 9#4 ++ 1#2 ++ 22#5 ++ 21#5 ++ 12#5 ++ 19#5 ++ 0#6 ++ 33#6 ++ 0#18) 0 (.aclamp ⟨9, 22⟩ 21 12 19 33)
    && decodesTo (0xBD#8 ++ 9#4 ++ 0#2 ++ 22#5 ++ 21#5 ++ 12#5 ++ 0#5 ++ 4#3 ++ 1#1 ++ 0#26) 0 (.asqrt ⟨9, 22⟩ 21 12 4 1)
    && decodesTo (0xBE#8 ++ 9#4 ++ 1#2 ++ 22#5 ++ 21#5 ++ 12#5 ++ 0#8 ++ 1#1 ++ 0#2 ++ 33#6 ++ 0#18) 0 (.aham ⟨9, 22⟩ 21 12 1 (.vs 33))
    && decodesTo (0xBF#8 ++ 9#4 ++ 1#2 ++ 22#5 ++ 21#5 ++ 12#5 ++ 0#8 ++ 1#1 ++ 0#1 ++ 1#1 ++ 33#6 ++ 0#18) 0 (.arem ⟨9, 22⟩ 21 12 1 1 (.vs 33))) = true := by decide

/-- Words written out from the formats of Table 2.1 and the opcode of each rule: assocMoves. -/
theorem test_words_assocMoves1 :
    (decodesTo (0xC0#8 ++ 9#4 ++ 1#2 ++ 22#5 ++ 21#5 ++ 12#5 ++ 19#5 ++ 0#6 ++ 33#6 ++ 0#18) 0 (.alut ⟨9, 22⟩ 21 12 19 33)
    && decodesTo (0xC1#8 ++ 9#4 ++ 1#2 ++ 22#5 ++ 21#5 ++ 12#5 ++ 0#11 ++ 33#6 ++ 0#18) 0 (.ashr ⟨9, 22⟩ 21 12 (.vs 33))
    && decodesTo (0xC2#8 ++ 9#4 ++ 0#2 ++ 22#5 ++ 21#5 ++ 12#5 ++ 0#5 ++ 4#3 ++ 1#1 ++ 0#26) 0 (.ascanAdd ⟨9, 22⟩ 21 12 4 1)
    && decodesTo (0xC2#8 ++ 9#4 ++ 0#2 ++ 22#5 ++ 21#5 ++ 12#5 ++ 0#5 ++ 4#3 ++ 1#1 ++ 1#2 ++ 0#24) 0 (.ascanMin ⟨9, 22⟩ 21 12 4 1)
    && decodesTo (0xC2#8 ++ 9#4 ++ 0#2 ++ 22#5 ++ 21#5 ++ 12#5 ++ 0#5 ++ 4#3 ++ 1#1 ++ 2#2 ++ 0#24) 0 (.ascanMax ⟨9, 22⟩ 21 12 4 1)
    && decodesTo (0xC2#8 ++ 9#4 ++ 0#2 ++ 22#5 ++ 21#5 ++ 12#5 ++ 0#5 ++ 4#3 ++ 1#1 ++ 3#2 ++ 0#24) 0 (.ascanOr ⟨9, 22⟩ 21 12 4 1)
    && decodesTo (0xC3#8 ++ 9#4 ++ 0#2 ++ 22#5 ++ 21#5 ++ 12#5 ++ 9#5 ++ 4#3 ++ 1#1 ++ 0#26) 0 (.asegrAdd ⟨9, 22⟩ 21 12 9 4 1)
    && decodesTo (0xC3#8 ++ 9#4 ++ 0#2 ++ 22#5 ++ 21#5 ++ 12#5 ++ 9#5 ++ 4#3 ++ 1#1 ++ 1#2 ++ 0#24) 0 (.asegrMin ⟨9, 22⟩ 21 12 9 4 1)
    && decodesTo (0xC3#8 ++ 9#4 ++ 0#2 ++ 22#5 ++ 21#5 ++ 12#5 ++ 9#5 ++ 4#3 ++ 1#1 ++ 2#2 ++ 0#24) 0 (.asegrMax ⟨9, 22⟩ 21 12 9 4 1)
    && decodesTo (0xC3#8 ++ 9#4 ++ 0#2 ++ 22#5 ++ 21#5 ++ 12#5 ++ 9#5 ++ 4#3 ++ 1#1 ++ 3#2 ++ 0#24) 0 (.asegrOr ⟨9, 22⟩ 21 12 9 4 1)
    && decodesTo (0xC4#8 ++ 9#4 ++ 0#2 ++ 22#5 ++ 21#5 ++ 12#5 ++ 26#5 ++ 4#3 ++ 1#1 ++ 0#26) 0 (.aspi ⟨9, 22⟩ 21 12 26 4 1)
    && decodesTo (0xC5#8 ++ 9#4 ++ 0#2 ++ 22#5 ++ 21#5 ++ 12#5 ++ 26#5 ++ 4#3 ++ 1#1 ++ 0#26) 0 (.aspu ⟨9, 22⟩ 21 12 26 4 1)) = true := by decide

/-- The same, continued. -/
theorem test_words_assocMoves2 :
    (decodesTo (0xC6#8 ++ 9#4 ++ 1#2 ++ 22#5 ++ 21#5 ++ 0#16 ++ 33#6 ++ 0#18) 0 (.asplenSet ⟨9, 22⟩ 21 (.vs 33))
    && decodesTo (0xC6#8 ++ 9#4 ++ 0#2 ++ 22#5 ++ 17#5 ++ 12#5 ++ 0#9 ++ 1#2 ++ 0#24) 0 (.asplenMask ⟨9, 22⟩ 17 12)
    && decodesTo (0xC7#8 ++ 9#4 ++ 1#2 ++ 22#5 ++ 17#5 ++ 0#16 ++ 33#6 ++ 0#18) 0 (.aappIdx ⟨9, 22⟩ 17 33)
    && decodesTo (0xC7#8 ++ 9#4 ++ 1#2 ++ 22#5 ++ 17#5 ++ 12#5 ++ 0#9 ++ 1#2 ++ 33#6 ++ 0#18) 0 (.aappVal ⟨9, 22⟩ 17 12 33)
    && decodesTo (0xC8#8 ++ 9#4 ++ 0#2 ++ 22#5 ++ 17#5 ++ 12#5 ++ 0#35) 0 (.aconf ⟨9, 22⟩ 17 12)
    && decodesTo (0xC9#8 ++ 9#4 ++ 1#2 ++ 22#5 ++ 17#5 ++ 12#5 ++ 19#5 ++ 0#6 ++ 33#6 ++ 0#18) 0 (.aintvCc ⟨9, 22⟩ 17 12 19 33)
    && decodesTo (0xC9#8 ++ 9#4 ++ 1#2 ++ 22#5 ++ 17#5 ++ 12#5 ++ 19#5 ++ 0#4 ++ 1#2 ++ 33#6 ++ 0#18) 0 (.aintvCo ⟨9, 22⟩ 17 12 19 33)
    && decodesTo (0xC9#8 ++ 9#4 ++ 1#2 ++ 22#5 ++ 17#5 ++ 12#5 ++ 19#5 ++ 0#4 ++ 2#2 ++ 33#6 ++ 0#18) 0 (.aintvOc ⟨9, 22⟩ 17 12 19 33)
    && decodesTo (0xC9#8 ++ 9#4 ++ 1#2 ++ 22#5 ++ 17#5 ++ 12#5 ++ 19#5 ++ 0#4 ++ 3#2 ++ 33#6 ++ 0#18) 0 (.aintvOo ⟨9, 22⟩ 17 12 19 33)
    && decodesTo (0xCA#8 ++ 9#4 ++ 1#2 ++ 22#5 ++ 17#5 ++ 12#5 ++ 19#5 ++ 0#6 ++ 3#2 ++ 13#4 ++ 0#18) 0 (.amatch ⟨9, 22⟩ 17 12 19 13)
    && decodesTo (0xCB#8 ++ 9#4 ++ 0#2 ++ 22#5 ++ 17#5 ++ 12#5 ++ 0#35) 0 (.achk ⟨9, 22⟩ 17 12)
    && decodesTo (0xCC#8 ++ 9#4 ++ 1#2 ++ 22#5 ++ 21#5 ++ 0#13 ++ 1#1 ++ 0#2 ++ 33#6 ++ 0#18) 0 (.afill ⟨9, 22⟩ 21 1 (.vs 33))) = true := by decide

/-- The same, continued. -/
theorem test_words_assocMoves3 :
    (decodesTo (0xCD#8 ++ 9#4 ++ 1#2 ++ 22#5 ++ 21#5 ++ 12#5 ++ 0#11 ++ 33#6 ++ 0#18) 0 (.abcast ⟨9, 22⟩ 21 12 (.vs 33))
    && decodesTo (0xCE#8 ++ 9#4 ++ 1#2 ++ 22#5 ++ 21#5 ++ 12#5 ++ 0#11 ++ 33#6 ++ 0#18) 0 (.aqnt ⟨9, 22⟩ 21 12 (.vs 33))
    && decodesTo (0xCE#8 ++ 9#4 ++ 0#2 ++ 22#5 ++ 21#5 ++ 12#5 ++ 0#9 ++ 1#2 ++ 0#24) 0 (.aqntKeep ⟨9, 22⟩ 21 12)
    && decodesTo (0xCF#8 ++ 9#4 ++ 1#2 ++ 22#5 ++ 21#5 ++ 12#5 ++ 0#5 ++ 4#3 ++ 1#1 ++ 0#2 ++ 33#6 ++ 0#18) 0 (.adqnt ⟨9, 22⟩ 21 12 4 1 (.vs 33))) = true := by decide

/-- Words written out from the formats of Table 2.1 and the opcode of each rule: assocMemory. -/
theorem test_words_assocMemory1 :
    (decodesTo (0xD0#8 ++ 9#4 ++ 1#2 ++ 22#5 ++ 21#5 ++ 0#15 ++ 1#1 ++ 33#6 ++ 0#18) 0 (.ald ⟨9, 22⟩ 21 1 33)
    && decodesTo (0xD1#8 ++ 9#4 ++ 1#2 ++ 22#5 ++ 21#5 ++ 0#5 ++ 26#5 ++ 0#5 ++ 1#1 ++ 33#6 ++ 0#18) 0 (.aldx ⟨9, 22⟩ 21 26 1 33)
    && decodesTo (0xD2#8 ++ 9#4 ++ 1#2 ++ 22#5 ++ 21#5 ++ 0#5 ++ 19#5 ++ 4#3 ++ 1#1 ++ 2#2 ++ 33#6 ++ 0#18) 0 (.aldseg ⟨9, 22⟩ 21 19 4 1 2 33)
    && decodesTo (0xD3#8 ++ 9#4 ++ 1#2 ++ 22#5 ++ 0#5 ++ 12#5 ++ 0#11 ++ 33#6 ++ 0#18) 0 (.ast ⟨9, 22⟩ 12 33)
    && decodesTo (0xD4#8 ++ 9#4 ++ 1#2 ++ 22#5 ++ 0#5 ++ 12#5 ++ 26#5 ++ 0#6 ++ 33#6 ++ 0#18) 0 (.astx ⟨9, 22⟩ 12 26 33)
    && decodesTo (0xD5#8 ++ 9#4 ++ 1#2 ++ 22#5 ++ 0#5 ++ 12#5 ++ 19#5 ++ 4#3 ++ 1#1 ++ 2#2 ++ 33#6 ++ 0#18) 0 (.astseg ⟨9, 22⟩ 12 19 4 1 2 33)
    && decodesTo (0xD6#8 ++ 9#4 ++ 1#2 ++ 22#5 ++ 21#5 ++ 0#5 ++ 19#5 ++ 0#5 ++ 1#1 ++ 33#6 ++ 0#18) 0 (.alds ⟨9, 22⟩ 21 19 1 33)
    && decodesTo (0xD7#8 ++ 9#4 ++ 1#2 ++ 22#5 ++ 0#5 ++ 12#5 ++ 19#5 ++ 0#6 ++ 33#6 ++ 0#18) 0 (.asts ⟨9, 22⟩ 12 19 33)
    && decodesTo (0xD8#8 ++ 9#4 ++ 1#2 ++ 24#5 ++ 19#5 ++ 0#16 ++ 33#6 ++ 0#18) 0 (.asaveF 9 19 33)
    && decodesTo (0xD8#8 ++ 9#4 ++ 1#2 ++ 24#5 ++ 19#5 ++ 0#14 ++ 1#2 ++ 33#6 ++ 0#18) 0 (.asaveM 9 19 33)
    && decodesTo (0xD8#8 ++ 9#4 ++ 1#2 ++ 24#5 ++ 19#5 ++ 0#14 ++ 2#2 ++ 33#6 ++ 0#18) 0 (.asaveDesc 9 19 33)
    && decodesTo (0xD8#8 ++ 9#4 ++ 1#2 ++ 24#5 ++ 19#5 ++ 0#14 ++ 3#2 ++ 33#6 ++ 0#18) 0 (.asaveEv 9 19 33)) = true := by decide

/-- The same, continued. -/
theorem test_words_assocMemory2 :
    (decodesTo (0xD9#8 ++ 9#4 ++ 1#2 ++ 24#5 ++ 19#5 ++ 0#16 ++ 33#6 ++ 0#18) 0 (.arstrF 9 19 33)
    && decodesTo (0xD9#8 ++ 9#4 ++ 1#2 ++ 24#5 ++ 19#5 ++ 0#14 ++ 1#2 ++ 33#6 ++ 0#18) 0 (.arstrM 9 19 33)
    && decodesTo (0xD9#8 ++ 9#4 ++ 1#2 ++ 24#5 ++ 19#5 ++ 0#14 ++ 2#2 ++ 33#6 ++ 0#18) 0 (.arstrDesc 9 19 33)
    && decodesTo (0xD9#8 ++ 9#4 ++ 1#2 ++ 24#5 ++ 19#5 ++ 0#14 ++ 3#2 ++ 33#6 ++ 0#18) 0 (.arstrEv 9 19 33)
    && decodesTo (0xDA#8 ++ 9#4 ++ 1#1 ++ 6#3 ++ 5#6 ++ 7#6 ++ 0#36) 0 (.adump ⟨9, 1, 6⟩ 5 7)
    && decodesTo (0xDB#8 ++ 9#4 ++ 1#1 ++ 6#3 ++ 5#6 ++ 7#6 ++ 0#36) 0 (.aundmp ⟨9, 1, 6⟩ 5 7)
    && decodesTo (0xDC#8 ++ 9#4 ++ 1#1 ++ 6#3 ++ 5#6 ++ 7#6 ++ 9#6 ++ 0#30) 0 (.aucode ⟨9, 1, 6⟩ 5 7 9)
    && decodesTo (0xDD#8 ++ 9#4 ++ 1#1 ++ 6#3 ++ 0#48) 0 (.aholdStop ⟨9, 1, 6⟩)
    && decodesTo (0xDD#8 ++ 9#4 ++ 1#1 ++ 6#3 ++ 0#18 ++ 1#6 ++ 0#24) 0 (.aholdGo ⟨9, 1, 6⟩)
    && decodesTo (0xDD#8 ++ 9#4 ++ 1#1 ++ 6#3 ++ 0#18 ++ 2#6 ++ 0#24) 0 (.aholdDrop ⟨9, 1, 6⟩)
    && decodesTo (0xDE#8 ++ 9#4 ++ 1#1 ++ 6#3 ++ 50#6 ++ 0#42) 0 (.aestatState ⟨9, 1, 6⟩ 50)
    && decodesTo (0xDE#8 ++ 9#4 ++ 1#1 ++ 6#3 ++ 50#6 ++ 0#12 ++ 1#6 ++ 0#24) 0 (.aestatAddr ⟨9, 1, 6⟩ 50)) = true := by decide

/-- The same, continued. -/
theorem test_words_assocMemory3 :
    (decodesTo (0xDE#8 ++ 9#4 ++ 1#1 ++ 6#3 ++ 50#6 ++ 0#12 ++ 2#6 ++ 0#24) 0 (.aestatDetail ⟨9, 1, 6⟩ 50)
    && decodesTo (0xDE#8 ++ 9#4 ++ 1#1 ++ 6#3 ++ 50#6 ++ 0#12 ++ 3#6 ++ 0#24) 0 (.aestatPass ⟨9, 1, 6⟩ 50)
    && decodesTo (0xDF#8 ++ 9#4 ++ 1#1 ++ 6#3 ++ 0#48) 0 (.await ⟨9, 1, 6⟩)) = true := by decide

/-- Words written out from the formats of Table 2.1 and the opcode of each rule: tree. -/
theorem test_words_tree1 :
    (decodesTo (0xE0#8 ++ 9#4 ++ 1#1 ++ 6#3 ++ 5#6 ++ 7#6 ++ 0#36) 0 (.spcfg ⟨9, 1, 6⟩ 5 7)
    && decodesTo (0xE1#8 ++ 9#4 ++ 1#1 ++ 6#3 ++ 5#6 ++ 7#6 ++ 9#6 ++ 0#30) 0 (.spld ⟨9, 1, 6⟩ 5 7 9)
    && decodesTo (0xE2#8 ++ 9#4 ++ 1#1 ++ 6#3 ++ 5#6 ++ 7#6 ++ 9#6 ++ 0#30) 0 (.spst ⟨9, 1, 6⟩ 5 7 9)
    && decodesTo (0xE3#8 ++ 9#4 ++ 1#1 ++ 6#3 ++ 5#6 ++ 7#6 ++ 9#6 ++ 0#2 ++ 2#2 ++ 0#2 ++ 0#24) 0 (.spamoAdd ⟨9, 1, 6⟩ 5 7 9 2)
    && decodesTo (0xE3#8 ++ 9#4 ++ 1#1 ++ 6#3 ++ 5#6 ++ 7#6 ++ 9#6 ++ 0#2 ++ 2#2 ++ 1#2 ++ 0#24) 0 (.spamoMin ⟨9, 1, 6⟩ 5 7 9 2)
    && decodesTo (0xE3#8 ++ 9#4 ++ 1#1 ++ 6#3 ++ 5#6 ++ 7#6 ++ 9#6 ++ 0#2 ++ 2#2 ++ 2#2 ++ 0#24) 0 (.spamoMax ⟨9, 1, 6⟩ 5 7 9 2)
    && decodesTo (0xE3#8 ++ 9#4 ++ 1#1 ++ 6#3 ++ 5#6 ++ 7#6 ++ 9#6 ++ 0#2 ++ 2#2 ++ 3#2 ++ 0#24) 0 (.spamoSwap ⟨9, 1, 6⟩ 5 7 9 2)
    && decodesTo (0xE4#8 ++ 9#4 ++ 1#1 ++ 6#3 ++ 10#6 ++ 7#6 ++ 9#6 ++ 0#30) 0 (.spnextGt ⟨9, 1, 6⟩ 10 7 9)
    && decodesTo (0xE4#8 ++ 9#4 ++ 1#1 ++ 6#3 ++ 10#6 ++ 7#6 ++ 9#6 ++ 1#6 ++ 0#24) 0 (.spnextGe ⟨9, 1, 6⟩ 10 7 9)
    && decodesTo (0xE5#8 ++ 9#4 ++ 1#1 ++ 6#3 ++ 10#6 ++ 7#6 ++ 9#6 ++ 0#30) 0 (.spprevLt ⟨9, 1, 6⟩ 10 7 9)
    && decodesTo (0xE5#8 ++ 9#4 ++ 1#1 ++ 6#3 ++ 10#6 ++ 7#6 ++ 9#6 ++ 1#6 ++ 0#24) 0 (.spprevLe ⟨9, 1, 6⟩ 10 7 9)
    && decodesTo (0xE6#8 ++ 9#4 ++ 1#1 ++ 6#3 ++ 5#6 ++ 7#6 ++ 9#6 ++ 0#30) 0 (.spcnt ⟨9, 1, 6⟩ 5 7 9)) = true := by decide

/-- The same, continued. -/
theorem test_words_tree2 :
    (decodesTo (0xE7#8 ++ 9#4 ++ 1#1 ++ 6#3 ++ 5#6 ++ 7#6 ++ 9#6 ++ 0#30) 0 (.spdel ⟨9, 1, 6⟩ 5 7 9)
    && decodesTo (0xE8#8 ++ 9#4 ++ 1#1 ++ 6#3 ++ 0#48) 0 (.spwait ⟨9, 1, 6⟩)
    && decodesTo (0xE9#8 ++ 9#4 ++ 1#1 ++ 6#3 ++ 5#6 ++ 7#6 ++ 0#36) 0 (.spstatKeys ⟨9, 1, 6⟩ 5 7)
    && decodesTo (0xE9#8 ++ 9#4 ++ 1#1 ++ 6#3 ++ 5#6 ++ 7#6 ++ 0#6 ++ 1#6 ++ 0#24) 0 (.spstatNodes ⟨9, 1, 6⟩ 5 7)
    && decodesTo (0xE9#8 ++ 9#4 ++ 1#1 ++ 6#3 ++ 5#6 ++ 7#6 ++ 0#6 ++ 2#6 ++ 0#24) 0 (.spstatFree ⟨9, 1, 6⟩ 5 7)
    && decodesTo (0xE9#8 ++ 9#4 ++ 1#1 ++ 6#3 ++ 5#6 ++ 7#6 ++ 0#6 ++ 3#6 ++ 0#24) 0 (.spstatDepth ⟨9, 1, 6⟩ 5 7)
    && decodesTo (0xE9#8 ++ 9#4 ++ 1#1 ++ 6#3 ++ 5#6 ++ 7#6 ++ 0#6 ++ 4#6 ++ 0#24) 0 (.spstatStatus ⟨9, 1, 6⟩ 5 7)
    && decodesTo (0xE9#8 ++ 9#4 ++ 1#1 ++ 6#3 ++ 5#6 ++ 7#6 ++ 0#6 ++ 5#6 ++ 0#24) 0 (.spstatPages ⟨9, 1, 6⟩ 5 7)
    && decodesTo (0xEA#8 ++ 9#4 ++ 1#1 ++ 6#3 ++ 5#6 ++ 7#6 ++ 9#6 ++ 0#14 ++ 0xBEEF#16) 0 (.sppool ⟨9, 1, 6⟩ 5 7 9 0xBEEF)
    && decodesTo (0xEB#8 ++ 9#4 ++ 1#1 ++ 6#3 ++ 5#6 ++ 7#6 ++ 0#36) 0 (.spfree ⟨9, 1, 6⟩ 5 7)) = true := by decide

/-- Words written out from the formats of Table 2.1 and the opcode of each rule: memorySide. -/
theorem test_words_memorySide1 :
    (decodesTo (0xEC#8 ++ 9#4 ++ 1#1 ++ 6#3 ++ 5#6 ++ 7#6 ++ 9#6 ++ 0#30) 0 (.rclassSet ⟨9, 1, 6⟩ 5 7 9)
    && decodesTo (0xEC#8 ++ 9#4 ++ 1#1 ++ 6#3 ++ 5#6 ++ 7#6 ++ 0#6 ++ 1#6 ++ 0#24) 0 (.rclassRead ⟨9, 1, 6⟩ 5 7)
    && decodesTo (0xED#8 ++ 9#4 ++ 1#1 ++ 6#3 ++ 5#6 ++ 7#6 ++ 9#6 ++ 0#30) 0 (.ebsetCorr ⟨9, 1, 6⟩ 5 7 9)
    && decodesTo (0xED#8 ++ 9#4 ++ 1#1 ++ 6#3 ++ 5#6 ++ 7#6 ++ 9#6 ++ 1#6 ++ 0#24) 0 (.ebsetDet ⟨9, 1, 6⟩ 5 7 9)
    && decodesTo (0xED#8 ++ 9#4 ++ 1#1 ++ 6#3 ++ 5#6 ++ 7#6 ++ 0#6 ++ 2#6 ++ 0#24) 0 (.ebsetRdcorr ⟨9, 1, 6⟩ 5 7)
    && decodesTo (0xED#8 ++ 9#4 ++ 1#1 ++ 6#3 ++ 5#6 ++ 7#6 ++ 0#6 ++ 3#6 ++ 0#24) 0 (.ebsetRddet ⟨9, 1, 6⟩ 5 7)
    && decodesTo (0xEE#8 ++ 9#4 ++ 1#1 ++ 6#3 ++ 5#6 ++ 7#6 ++ 9#6 ++ 0#30) 0 (.mscopClean ⟨9, 1, 6⟩ 5 7 9)
    && decodesTo (0xEE#8 ++ 9#4 ++ 1#1 ++ 6#3 ++ 5#6 ++ 7#6 ++ 9#6 ++ 1#6 ++ 0#24) 0 (.mscopClinv ⟨9, 1, 6⟩ 5 7 9)
    && decodesTo (0xEE#8 ++ 9#4 ++ 1#1 ++ 6#3 ++ 5#6 ++ 7#6 ++ 9#6 ++ 2#6 ++ 0#24) 0 (.mscopInv ⟨9, 1, 6⟩ 5 7 9)
    && decodesTo (0xEE#8 ++ 9#4 ++ 1#1 ++ 6#3 ++ 5#6 ++ 7#6 ++ 9#6 ++ 3#6 ++ 0#24) 0 (.mscopStat ⟨9, 1, 6⟩ 5 7 9)
    && decodesTo (0xEF#8 ++ 9#4 ++ 1#1 ++ 6#3 ++ 5#6 ++ 7#6 ++ 9#6 ++ 0#30) 0 (.peerwOpen ⟨9, 1, 6⟩ 5 7 9)
    && decodesTo (0xEF#8 ++ 9#4 ++ 1#1 ++ 6#3 ++ 5#6 ++ 7#6 ++ 0#6 ++ 1#6 ++ 0#24) 0 (.peerwClose ⟨9, 1, 6⟩ 5 7)) = true := by decide

/-- The same, continued. -/
theorem test_words_memorySide2 :
    (decodesTo (0xEF#8 ++ 9#4 ++ 1#1 ++ 6#3 ++ 5#6 ++ 7#6 ++ 0#6 ++ 2#6 ++ 0#24) 0 (.peerwRead ⟨9, 1, 6⟩ 5 7)
    && decodesTo (0xEF#8 ++ 9#4 ++ 1#1 ++ 6#3 ++ 5#6 ++ 7#6 ++ 9#6 ++ 3#6 ++ 0#24) 0 (.peerwBind ⟨9, 1, 6⟩ 5 7 9)) = true := by decide

/-- Words written out from the formats of Table 2.1 and the opcode of each rule: services. -/
theorem test_words_services1 :
    (decodesTo (0xF0#8 ++ 9#4 ++ 1#1 ++ 6#3 ++ 5#6 ++ 7#6 ++ 9#6 ++ 0#30) 0 (.smcSetw ⟨9, 1, 6⟩ 5 7 9)
    && decodesTo (0xF0#8 ++ 9#4 ++ 1#1 ++ 6#3 ++ 5#6 ++ 7#6 ++ 0#6 ++ 1#6 ++ 0#24) 0 (.smcFwld ⟨9, 1, 6⟩ 5 7)
    && decodesTo (0xF0#8 ++ 9#4 ++ 1#1 ++ 6#3 ++ 5#6 ++ 0#12 ++ 2#6 ++ 0#24) 0 (.smcVer ⟨9, 1, 6⟩ 5)
    && decodesTo (0xF1#8 ++ 9#4 ++ 1#1 ++ 6#3 ++ 5#6 ++ 7#6 ++ 0#36) 0 (.perfRead ⟨9, 1, 6⟩ 5 7)
    && decodesTo (0xF1#8 ++ 9#4 ++ 1#1 ++ 6#3 ++ 5#6 ++ 7#6 ++ 0#6 ++ 1#6 ++ 0#24) 0 (.perfClr ⟨9, 1, 6⟩ 5 7)
    && decodesTo (0xF2#8 ++ 9#4 ++ 1#1 ++ 6#3 ++ 5#6 ++ 7#6 ++ 0#36) 0 (.dbgHalt ⟨9, 1, 6⟩ 5 7)
    && decodesTo (0xF2#8 ++ 9#4 ++ 1#1 ++ 6#3 ++ 5#6 ++ 7#6 ++ 0#6 ++ 1#6 ++ 0#24) 0 (.dbgGo ⟨9, 1, 6⟩ 5 7)
    && decodesTo (0xF2#8 ++ 9#4 ++ 1#1 ++ 6#3 ++ 5#6 ++ 7#6 ++ 9#6 ++ 2#6 ++ 0#24) 0 (.dbgRd ⟨9, 1, 6⟩ 5 7 9)
    && decodesTo (0xF2#8 ++ 9#4 ++ 1#1 ++ 6#3 ++ 5#6 ++ 7#6 ++ 9#6 ++ 3#6 ++ 0#24) 0 (.dbgWr ⟨9, 1, 6⟩ 5 7 9)
    && decodesTo (0xF2#8 ++ 9#4 ++ 1#1 ++ 6#3 ++ 5#6 ++ 7#6 ++ 9#6 ++ 4#6 ++ 0#24) 0 (.dbgSig ⟨9, 1, 6⟩ 5 7 9)
    && decodesTo (0xF3#8 ++ 9#4 ++ 1#1 ++ 6#3 ++ 5#6 ++ 7#6 ++ 9#6 ++ 0#30) 0 (.atst ⟨9, 1, 6⟩ 5 7 9)
    && decodesTo (0xF4#8 ++ 9#4 ++ 1#1 ++ 6#3 ++ 5#6 ++ 7#6 ++ 0#36) 0 (.pwrqMax ⟨9, 1, 6⟩ 5 7)) = true := by decide

/-- The same, continued. -/
theorem test_words_services2 :
    (decodesTo (0xF4#8 ++ 9#4 ++ 1#1 ++ 6#3 ++ 5#6 ++ 7#6 ++ 9#6 ++ 1#6 ++ 0#24) 0 (.pwrqState ⟨9, 1, 6⟩ 5 7 9)
    && decodesTo (0xF5#8 ++ 9#4 ++ 1#1 ++ 6#3 ++ 5#6 ++ 7#6 ++ 9#6 ++ 0#30) 0 (.alim ⟨9, 1, 6⟩ 5 7 9)
    && decodesTo (0xF6#8 ++ 9#4 ++ 1#1 ++ 6#3 ++ 5#6 ++ 7#6 ++ 0#25 ++ 0x5A5#11) 0 (.hmsg ⟨9, 1, 6⟩ 5 7 0x5A5)
    && decodesTo (0xF7#8 ++ 9#4 ++ 1#1 ++ 6#3 ++ 5#6 ++ 7#6 ++ 9#6 ++ 0#24 ++ 11#6) 0 (.pmsgSend ⟨9, 1, 6⟩ 5 7 9 11)
    && decodesTo (0xF7#8 ++ 9#4 ++ 1#1 ++ 6#3 ++ 5#6 ++ 7#6 ++ 0#6 ++ 1#6 ++ 0#18 ++ 11#6) 0 (.pmsgRecv ⟨9, 1, 6⟩ 5 7 11)
    && decodesTo (0xF7#8 ++ 9#4 ++ 1#1 ++ 6#3 ++ 5#6 ++ 0#12 ++ 2#6 ++ 0#18 ++ 11#6) 0 (.pmsgWait ⟨9, 1, 6⟩ 5 11)) = true := by decide

/-- Words written out from the formats of Table 2.1 and the opcode of each rule: long. -/
theorem test_words_long :
    (decodesTo (0xF8#8 ++ 9#4 ++ 1#1 ++ 6#3 ++ 50#6 ++ 0#42) 0x923456789ABCDEF1 (.li ⟨9, 1, 6⟩ 50 0x923456789ABCDEF1)
    && decodesTo (0xF9#8 ++ 9#4 ++ 1#1 ++ 6#3 ++ 0#48) 0x923456789ABCDEF1 (.jmpx ⟨9, 1, 6⟩ 0x923456789ABCDEF1)
    && decodesTo (0xFA#8 ++ 9#4 ++ 1#1 ++ 6#3 ++ 0#48) 0x923456789ABCDEF1 (.callx ⟨9, 1, 6⟩ 0x923456789ABCDEF1)
    && decodesTo (0xFB#8 ++ 9#4 ++ 1#1 ++ 6#3 ++ 50#6 ++ 5#6 ++ 0#36) 0x923456789ABCDEF1 (.addix ⟨9, 1, 6⟩ 50 5 0x923456789ABCDEF1)
    && decodesTo (0xFC#8 ++ 9#4 ++ 1#1 ++ 6#3 ++ 50#6 ++ 0#42) 0x923456789ABCDEF1 (.leax ⟨9, 1, 6⟩ 50 0x923456789ABCDEF1)
    && decodesTo (0xFD#8 ++ 9#4 ++ 0#4 ++ 23#6 ++ 21#6 ++ 0#36) 0x923456789ABCDEF1 (.awrx 9 23 21 0x923456789ABCDEF1)
    && decodesTo (0xFE#8 ++ 9#4 ++ 0#4 ++ 17#6 ++ 12#6 ++ 0#36) 0x923456789ABCDEF1 (.asrchx 9 17 12 0x923456789ABCDEF1)
    && decodesTo (0xFF#8 ++ 0x123456789ABCDE#56) 0 (.ud 0x123456789ABCDE)) = true := by decide

/-! ### The manual's own assembled words -/

/-- R208 (Table 6.5): each has stall count 1 and guard p0; the branch goes three words back. -/
theorem test_words_table_6_5 :
    (decodesTo 0x63109A2600000040 0 (.ldl ⟨1, 0, 0⟩ 38 34 3 0 64)
    && decodesTo 0x681051558000003D 0 (.amolAdd ⟨1, 0, 0⟩ 20 21 22 0 1 3 5)
    && decodesTo 0x7410026000000000 0 (.symw ⟨1, 0, 0⟩ 38)
    && decodesTo 0x75100AC001000000 0 (.symqPoi ⟨1, 0, 0⟩ 2 44)
    && decodesTo 0x76103AA480000000 0 (.symx ⟨1, 0, 0⟩ 14 42 18)
    && decodesTo 0x5710AC203FFFFFFD 0 (.brsymPend ⟨1, 0, 0⟩ 43 (-3))) = true := by decide
/-- The same words, written. -/
theorem test_words_table_6_5_encode :
    encode (.ldl ⟨1, 0, 0⟩ 38 34 3 0 64) = [0x63109A2600000040]
    ∧ encode (.amolAdd ⟨1, 0, 0⟩ 20 21 22 0 1 3 5) = [0x681051558000003D]
    ∧ encode (.brsymPend ⟨1, 0, 0⟩ 43 (-3)) = [0x5710AC203FFFFFFD] := by decide

/-! ### Small states -/

/-- A header without guard. -/
def h0 : Hdr := ⟨1, 0, 0⟩
/-- Strand 0, in supervisor mode, with registers. -/
def strandWith (regs : Tab SVal) : Strand := { Strand.reset with item := some ⟨1, 0, 0, 0⟩, s := regs }
/-- The module with one strand running. -/
def one (st : Strand) : State := { State.reset with strands := [(0, st)] }
/-- s1 = 5 and s2 = 7. -/
def two : State := one (strandWith [(1, .conc 5), (2, .conc 7)])
/-- As `two`, in user mode. -/
def user2 : State := one { strandWith [(1, .conc 5), (2, .conc 7)] with status := 0 }
/-- A pattern record of eight dwords. -/
def rec8 : List Word := [0, 3, 8, 8, 0, 0, 0, 0]
/-- Input stream z0 holds 9, output stream z1 has room. -/
def streamed : State :=
  one { strandWith [(2, .conc 7)] with
    streams := [(0, ⟨rec8, false, true, 0, [9], none⟩), (1, ⟨rec8, true, true, 0, [], none⟩)] }
/-- s1 is 2 × X0 + 3, s2 = 7, s3 is poisoned. -/
def late : State :=
  one { strandWith [(1, .aff 0 2 3), (2, .conc 7), (3, .poison .timeout), (4, .poison .data), (5, .poison .failed)] with
    syms := [(0, ⟨.tree, 0, none, false, false, false, 0, none⟩)] }
/-- s1 = 5 has a write pending; SBCHK is `chk`. -/
def early (chk : Bool) : State :=
  one { strandWith [(1, .conc 5), (2, .conc 7)] with
    status := if chk then 0x11 else 1, pend := [⟨1, .conc 6, 4, false, none⟩] }

/-! ### Scalar instructions -/

theorem witness_sources : (two.guarded h0 && two.here.takes 3 && two.here.takes 0
    && two.here.sources [1, 2] == some ([5, 7], two.here) && two.here.sources [1] == some ([5], two.here)
    && two.here.sources [1, 2, 1] == some ([5, 7, 5], two.here)) = true := by decide
theorem witness_stream_sources : (streamed.guarded h0 && streamed.here.takes 49
    && (streamed.here.sources [48, 2]).map Prod.fst == some [9, 7]) = true := by decide
theorem test_add : exec (.add h0 3 1 2) two = .next (two.completes h0 8 (two.here.fixed 3 1 12)) := rfl
theorem test_add_discards : exec (.add h0 0 1 2) two = .next (two.completes h0 8 two.here) := rfl
theorem test_addi_negative : exec (.addi h0 3 1 0xFFFFFFFFF) two
    = .next (two.completes h0 8 (two.here.fixed 3 1 (5 + (0xFFFFFFFFF : BitVec 36).signExtend 64))) := rfl
theorem test_immediate_sign : (5 : Word) + (0xFFFFFFFFF : BitVec 36).signExtend 64 = 4 := by decide
/-- R118: the examples of its last paragraph. -/
theorem test_division : divW 0x8000000000000000 0xFFFFFFFFFFFFFFFF = 0x8000000000000000
    ∧ remW 0x8000000000000000 0xFFFFFFFFFFFFFFFF = 0 ∧ divW (-7) 2 = -3 ∧ remW (-7) 2 = -1
    ∧ divuW 7 0 = 0xFFFFFFFFFFFFFFFF ∧ remuW 7 0 = 7 := by decide
theorem test_counts : clzW 0 = 64 ∧ ctzW 0 = 64 ∧ clzW 1 = 63 ∧ ctzW 0x8000000000000000 = 63 ∧ popcW 0xFF = 8
    ∧ brevW 1 = 0x8000000000000000 := by decide
theorem test_bswap : bswapW 8 0x0102030405060708 = 0x0807060504030201 ∧ bswapW 4 0x0102030405060708 = 0x0403020108070605
    ∧ bswapW 2 0x0102030405060708 = 0x0201040306050807 := by decide
theorem test_shift_whole : shrW 1 64 = 1 ∧ sraW 0x8000000000000000 63 = 0xFFFFFFFFFFFFFFFF ∧ rotW 1 64 = 1 := by decide
/-- R129: CRC-32 and CRC-32C of "123456789". -/
theorem test_crc : (crcW false 1 (crcW false 8 0xFFFFFFFF 0x3837363534333231) 0x39) ^^^ 0xFFFFFFFF = 0xCBF43926
    ∧ (crcW true 1 (crcW true 8 0xFFFFFFFF 0x3837363534333231) 0x39) ^^^ 0xFFFFFFFF = 0xE3069283 := by decide
theorem witness_bit_field : bitField 13 20 = true ∧ bitField 0 63 = true ∧ bitField 63 0 = true
    ∧ two.here.sources [2, 1] = some ([7, 5], two.here) := by decide
theorem witness_select : (two.here.guardIs ⟨0, 0, 0⟩ true && two.here.guardIs ⟨0, 0, 1⟩ false) = true := by decide
theorem witness_symbolic : (late.guarded h0 && !late.here.early 1 && (Tab.find late.here.outs 1).isNone
    && late.here.reg 1 == .aff 0 2 3 && late.here.source 2 == some (7, late.here) && late.here.reg 3 == .poison .timeout
    && late.here.reg 4 == .poison .data && late.here.reg 5 == .poison .failed) = true := by decide
theorem test_fold : exec (.sub h0 6 2 1) late = .next (late.completes h0 8
    { late.here with pend := [⟨6, .aff 0 (-2) 4, 1, false, none⟩] }) := rfl
theorem test_symbolic_waits : exec (.div h0 6 1 2) late = .next (waitAt .symbol late late) := rfl
theorem test_poisoned_traps : exec (.div h0 6 3 2) late
    = .next (trapAt ⟨Cause.symTimeout.code, 0, 3, .instr, false⟩ late late) := rfl
theorem witness_early : ((early true).guarded h0 && (early false).guarded h0 && (early true).here.sbchk
    && !(early false).here.sbchk && (early false).here.source 2 == some (7, (early false).here)
    && (early true).here.reg 1 == .conc 5) = true := by decide
theorem test_stall_short : exec (.and h0 3 1 2) (early true)
    = .next (trapAt ⟨Cause.stallShort.code, 0, 1, .instr, false⟩ (early true) (early true)) := rfl

/-! ### Steps, traps, reset -/

/-- A strand in its die's scratchpad, at the ADD of `word`. -/
def fetching (word : Word) : State :=
  { one { strandWith [(1, .conc 5), (2, .conc 7)] with pc := (scratchAddr 0x100).setWidth 56 } with
    mem := Memory.setBytes [] (scratchKey 0 0x100) (leBytes word.toNat 8)
    mgmt := { Mgmt.reset with state := 1 }
    agenda := [.strand 0] }
theorem witness_step : let s := fetching 0x1010C42080000000
    let u : State := { s.alone (some 0) with agenda := [], cur := 0 }
    s.agenda = [.strand 0] ∧ s.mgmt.state = 1 ∧ u.here.boundary = none ∧ u.here.issues = true ∧ u.here.streamErr = none
    ∧ u.here.pc = (scratchAddr 0x100).setWidth 56 ∧ (s.die 0).owner.contains 0 = false
    ∧ BitVec.ofNat 64 (leNat (u.scratch 0x100 8)) = 0x1010C42080000000 ∧ isLong 0x1010C42080000000 = false := by decide
theorem witness_step_illegal : decode 0x1010C42080000001 0 = .error .illegalEncoding := by rfl
theorem witness_round_trip : (Instr.add h0 3 1 2).isEvent = false ∧ (Instr.add h0 3 1 2).wf = true
    ∧ (Instr.li h0 3 5).isEvent = false ∧ (Instr.li h0 3 5).wf = true := by decide
theorem witness_form : two.wf = true ∧ two.listed = true ∧ State.reset.wf = true := by decide
theorem witness_guard_off : (Instr.add ⟨3, 1, 0⟩ 3 1 2).header = some (⟨3, 1, 0⟩, false) ∧ two.running = true
    ∧ two.here.guardIs ⟨3, 1, 0⟩ false = true ∧ (Instr.eret ⟨3, 0, 1⟩).header = some (⟨3, 0, 1⟩, true)
    ∧ two.here.sup = true ∧ two.here.guardIs ⟨3, 0, 1⟩ false = true := by decide
theorem witness_privilege : (Instr.eret h0).header = some (h0, true) ∧ (Instr.mfc h0 3 1).header.isSome = true
    ∧ user2.here.sup = false := by decide
theorem test_eret_user : exec (.eret h0) user2 = .next (user2.traps .priv 0 0) := rfl
theorem test_trap_completes : exec (.trap h0 5) two = .next (trapAt ⟨Cause.trap.code, 0, 5, .instr, true⟩ two two) := rfl
/-- A strand with a watchdog and a debug event pending. -/
def pending (even : Bool) : State :=
  one { strandWith [] with status := if even then 5 else 1, events := { Strand.reset.events with
    watchdog := some 3, debug := some 4 } }
theorem witness_boundary : ((pending true).strand 0).item.isSome = true ∧ ((pending true).strand 0).dbg = false
    ∧ ((pending true).strand 0).halt = .running ∧ ((pending true).strand 0).waiting ≠ some .remote
    ∧ ((pending true).strand 0).adeliver = none ∧ ((pending true).strand 0).even = true
    ∧ ((pending true).strand 0).events.watchdog = some 3 ∧ ((pending false).strand 0).even = false := by decide
/-- ERET with EPC. -/
def returning (epc : Word) : State := one { strandWith [] with epc := epc }
theorem witness_eret : ((returning 0x40).guarded h0 && (returning 0x40).here.sup) = true
    ∧ (returning 0x40).here.epc.toNat % 8 = 0 ∧ (returning 0x44).here.epc.toNat % 8 ≠ 0 := by decide
theorem test_eret_misaligned : exec (.eret h0) (returning 0x44) = .next ((returning 0x44).traps .align 0 0x44) := rfl
theorem witness_latency : (early false).running = true ∧ (early false).here.pend = [⟨1, .conc 6, 4, false, none⟩] := by decide
theorem test_lands : (retire 4 8 (early false)).here.reg 1 = .conc 6 ∧ (retire 3 8 (early false)).here.reg 1 = .conc 5 := by
  decide
/-- R56: a reader of the register of an FSQRT takes what a younger instruction has left there. -/
theorem test_younger_write_lands : ({ strandWith [] with pend := [⟨1, .conc 5, 10, true, none⟩, ⟨1, .conc 6, 0, false, none⟩] }.settle 1).reg 1
    = .conc 6 := by decide
/-- R136: the flags of a result become visible with it. -/
theorem test_flags_land : let st : Strand := { strandWith [] with pend := [⟨1, .conc 5, 2, false, some 0x100⟩] }
    (st.advance 1).fpcsr = 1 ∧ (st.advance 2).fpcsr = 0x101 := by decide

/-! ### Floating point -/

/-- s1 = 1.0, s2 = 2^-53, s3 = infinity, s4 = a quiet NaN. -/
def floats : State :=
  one (strandWith [(1, .conc 0x3FF0000000000000), (2, .conc 0x3CA0000000000000), (3, .conc 0x7FF0000000000000),
    (4, .conc 0x7FF8000000000001)])
theorem witness_floats : (floats.guarded h0 && floats.here.takes 5
    && floats.here.sources [1, 2] == some ([0x3FF0000000000000, 0x3CA0000000000000], floats.here)
    && floats.here.sources [1, 2, 3] == some ([0x3FF0000000000000, 0x3CA0000000000000, 0x7FF0000000000000], floats.here)
    && (fv 0x7FF8000000000001).isNan) = true ∧ fv 0x7FF0000000000000 = .inf false := by decide
/-- R137: the example of Table 4.10 in the four directed modes. -/
theorem test_fadd_modes :
    faddW 1 0x3FF0000000000000 0x3CA0000000000000 = (0x3FF0000000000000, ⟨true, false, false, false, false⟩)
    ∧ (faddW 3 0x3FF0000000000000 0x3CA0000000000000).1 = 0x3FF0000000000001
    ∧ (faddW 2 0x3FF0000000000000 0x3CA0000000000000).1 = 0x3FF0000000000000 := by decide
theorem witness_finite : bits (0x3FF0000000000000 : Word) 52 11 ≠ 2047 ∧ bits (0 : Word) 52 11 ≠ 2047
    ∧ (cvtFmt 0).isSome = true ∧ (cvtFmt 1).isSome = true ∧ bits (0x7FF8000000000001 : Word) 52 11 = 2047 := by decide
theorem test_class : fclassW 0x8000000000000000 = 8 ∧ fclassW 0x7FF0000000000000 = 128 ∧ fclassW 1 = 32 := by decide

/-! ### Control transfer -/

theorem witness_targets : bits (two.target (4 : BitVec 48)) 56 8 = 0 ∧ bits (two.target (0xFFFFFFFFFFFF : BitVec 48)) 56 8 ≠ 0
    ∧ bits (two.target (4 : BitVec 30)) 56 8 = 0 := by decide
/-- s1 = 0x40, s2 = 0x44, s3 above 2^56, s47 = 0x80. -/
def jumping : State :=
  one (strandWith [(1, .conc 0x40), (2, .conc 0x44), (3, .conc 0x100000000000000), (47, .conc 0x80)])
theorem witness_jumps : (jumping.guarded h0 && jumping.here.sources [1] == some ([0x40], jumping.here)
    && jumping.here.sources [47] == some ([0x80], jumping.here) && jumping.here.source 2 == some (0x44, jumping.here)
    && jumping.here.source 3 == some (0x100000000000000, jumping.here)) = true := by decide
theorem test_callr : exec (.callr h0 1) jumping = .next (jumping.jumps h0 0x40 (jumping.here.variable 47 8)) := rfl
theorem test_jr_refused : exec (.jr h0 2) jumping = .next (jumping.traps .align 0 0x44)
    ∧ exec (.jr h0 3) jumping = .next (jumping.traps .xlate 4 0x100000000000000) := ⟨rfl, rfl⟩
theorem test_br_back : exec (.br h0 0xFFFFFFFFFFFF) two = .next (two.traps .xlate 4 0xFFFFFFFFFFFFFFF8) := rfl
theorem test_loop_ends : exec (.loop h0 1 4) (one (strandWith [(1, .conc 1)]))
    = .next ((one (strandWith [(1, .conc 1)])).completes h0 8 (one (strandWith [])).here) := rfl
theorem witness_states : (late.guarded h0 && late.here.landed 1 && late.here.landed 2 && late.here.landed 3
    && late.here.reg 2 == .conc 7 && late.here.takes 6) = true := by decide
theorem test_symx : exec (.symx h0 6 3 2) late = .next (late.completes h0 8 (late.here.variable 6 7)) := rfl

/-! ### Accesses of the die's scratchpad -/

/-- Registers, and bytes from offset 0x100 of the scratchpad. -/
def pad (regs : Tab SVal) (bs : List Byte) : State :=
  { one (strandWith regs) with mem := Memory.setBytes [] (scratchKey 0 0x100) bs }
/-- s1 names offset 0x100, which holds 0x81, 2, ... 16; s2 = 7; s3 = 1; s4 names the last byte of the scratchpad. -/
def data : State :=
  pad [(1, .conc (scratchAddr 0x100)), (2, .conc 7), (3, .conc 1), (4, .conc (scratchAddr 0x1FFFFFF)), (46, .conc (scratchAddr 0x110)),
    (47, .conc 0x80)] [0x81, 2, 3, 4, 5, 6, 7, 8, 9, 10, 11, 12, 13, 14, 15, 16]
theorem witness_loads : (data.guarded h0 && data.here.takes 5 && data.local (scratchAddr 0x100) 0x100 8
    && data.local (scratchAddr 0x1FFFFFF) 0x1FFFFFF 1 && data.local (scratchAddr 0x100) 0x100 16 && pairReg 10 && pairReg 44
    && data.here.sources [1, 0] == some ([scratchAddr 0x100, 0], data.here)
    && data.here.sources [1, 0, 2] == some ([scratchAddr 0x100, 0, 7], data.here)
    && data.here.sources [1, 0, 2, 3] == some ([scratchAddr 0x100, 0, 7, 1], data.here)) = true := by decide
theorem test_ld_byte : exec (.ld h0 5 1 0 0 0) data = .next (data.completes h0 8 (data.here.variable 5 0x81))
    ∧ exec (.lds h0 5 1 0 0 0) data = .next (data.completes h0 8 (data.here.variable 5 0xFFFFFFFFFFFFFF81)) := ⟨rfl, rfl⟩
theorem test_ld_scaled : exec (.ld h0 5 1 1 3 0) data = .next (data.completes h0 8 (data.here.variable 5 0x0403)) := rfl
theorem test_st : exec (.st h0 2 1 1 0 2) data = .next (data.stores h0 8 data.here 0x102 [7, 0]) := rfl
theorem test_st_top : exec (.st h0 2 4 0 0 0) data = .next (data.stores h0 8 data.here 0x1FFFFFF [7]) := rfl
theorem witness_store_frame : data.running = true ∧ data.here.item.isSome = true ∧ Memory.wf data.mem = true := by decide
theorem witness_atomics : data.here.sources [1, 2] = some ([scratchAddr 0x100, 7], data.here)
    ∧ (scratchAddr 0x100).toNat % 8 = 0 ∧ data.here.sources [1] = some ([scratchAddr 0x100], data.here)
    ∧ data.here.sources [1, 2, 3] = some ([scratchAddr 0x100, 7, 1], data.here) := by decide
/-- Bytes of die 0's scratchpad that a step leaves. -/
noncomputable def padAfter (o : Host.Outcome State Fault Refusal) (off n : Nat) : List Byte :=
  match o with | .next t => t.pad 0 off n | _ => []
theorem test_amo_min : padAfter (exec (.amoMin h0 5 1 2 0 0 0 0) data) 0x100 2 = [0x81, 2] := by decide
theorem test_amo_minu : padAfter (exec (.amoMinu h0 5 1 2 0 0 0 0) data) 0x100 2 = [7, 2] := by decide
theorem test_cas_fails : exec (.cas h0 5 1 2 3 0 0 0 0) data = .next (data.completes h0 8 (data.here.variable 5 0x81)) := rfl
theorem witness_misaligned : data.here.source 4 = some (scratchAddr 0x1FFFFFF, data.here)
    ∧ (scratchAddr 0x1FFFFFF).toNat % 8 ≠ 0 ∧ data.here.source 0 = some (0, data.here) := by decide
theorem test_lda_misaligned : exec (.lda h0 5 4 3 2 0 0) data = .next (data.traps .align 0 (scratchAddr 0x1FFFFFF)) := rfl
theorem witness_late_access : data.guarded h0 = true ∧ (scratchAddr 0x100 + 0 * 8 + 0).toNat % 8 = 0 := by decide
theorem witness_frame : (scratchAddr 0x110).toNat % 16 = 0 ∧ data.here.sources [46] = some ([scratchAddr 0x110], data.here)
    ∧ data.here.sources [46, 47] = some ([scratchAddr 0x110, 0x80], data.here)
    ∧ data.local (scratchAddr 0x110 - 8) 0x108 8 = true ∧ (0xFFFFFFFF : BitVec 32).toInt < 0 ∧ 0 ≤ (1 : BitVec 32).toInt
    ∧ data.local (scratchAddr 0x110 + (1 : BitVec 32).signExtend 64 * 16 - 8) 0x118 8 = true := by decide
/-- A stack pointer that is not aligned. -/
theorem witness_frame_misaligned : let s := one (strandWith [(46, .conc 8)])
    s.here.sources [46] = some ([8], s.here) ∧ (8 : Word).toNat % 16 ≠ 0 := by decide
/-- A table of one entry, 0x40. -/
def table : State := pad [(1, .conc (scratchAddr 0x100)), (2, .conc 0), (3, .conc 1)] [0x40]
theorem witness_table : table.guarded h0 = true ∧ table.here.sources [1, 2, 3] = some ([scratchAddr 0x100, 0, 1], table.here)
    ∧ table.local (scratchAddr 0x100 + 8 * 0) 0x100 8 = true ∧ leNat (table.scratch 0x100 8) = 0x40
    ∧ table.here.sources [1, 3, 3] = some ([scratchAddr 0x100, 1, 1], table.here) := by decide

/-! ### Synchronisation -/

/-- A burgee: pending arrivals and bytes in word 0, expected arrivals 3 in word 1; s2 = 1, s3 = 2^24, s5 = 0. -/
def burgee (overrun : Bool) (phase parr pbytes : Nat) : State :=
  pad [(1, .conc (scratchAddr 0x100)), (2, .conc 1), (3, .conc 0x1000000), (5, .conc 0)]
    (leBytes ((if overrun then 2 ^ 63 else 0) + phase * 2 ^ 59 + parr * 2 ^ 35 + pbytes) 8 ++ leBytes 3 8)
theorem witness_burgee : let s := burgee false 0 1 0
    (s.guarded h0 && s.here.takes 6 && s.local (scratchAddr 0x100) 0x100 16) = true ∧ (scratchAddr 0x100).toNat % 16 = 0
    ∧ s.here.sources [1, 2] = some ([scratchAddr 0x100, 1], s.here)
    ∧ s.here.sources [1, 3] = some ([scratchAddr 0x100, 0x1000000], s.here)
    ∧ s.here.sources [1] = some ([scratchAddr 0x100], s.here)
    ∧ Burgee.ofBytes (s.scratch 0x100 16) = ⟨false, 0, 1, 0, 3⟩
    ∧ Burgee.ofBytes ((burgee true 0 1 0).scratch 0x100 16) = ⟨true, 0, 1, 0, 3⟩ := by decide
/-- R168: the last arrival ends the phase and takes the next count. -/
theorem test_arrive_ends_phase : padAfter (exec (.barArrive h0 6 1 2) (burgee false 15 1 0)) 0x100 16
    = leBytes (3 * 2 ^ 35) 8 ++ leBytes 3 8 := by decide
theorem test_wait_same_phase : exec (.barWait h0 6 1 5 2) (burgee false 0 1 0)
    = .next (waitAt .plain (burgee false 0 1 0) (burgee false 0 1 0)) := rfl
/-- A pennant with count 4, generation 1 and element size 8; s2 = 9, s4 names its word 0. -/
def pennant : State :=
  pad [(1, .conc (scratchAddr 0x100)), (2, .conc 9), (3, .conc 0)] (leBytes 4 8 ++ leBytes (8 + 2 ^ 16) 8)
theorem witness_pennant : pennant.guarded h0 = true ∧ pennant.local (scratchAddr 0x100) 0x100 16 = true
    ∧ pennant.here.sources [1, 2] = some ([scratchAddr 0x100, 9], pennant.here)
    ∧ pennant.here.sources [3] = some ([0], pennant.here)
    ∧ pennant.here.sources [2, 1, 1] = some ([9, scratchAddr 0x100, scratchAddr 0x100], pennant.here)
    ∧ pennant.local (scratchAddr 0x100 + 8) 0x108 8 = true ∧ bits (pennant.scratchWord 0x108 0) 0 16 ≠ 0 := by decide
theorem test_wmpub : exec (.wmpub h0 1 2) pennant
    = .next (pennant.stores h0 8 pennant.here 0x100 (leBytes 9 8 ++ leBytes (8 + 2 ^ 16) 8)) := rfl
/-- An append queue of 8 slots with HEAD 2, TAIL 5 and threshold 2; s2 = 3, s3 = 4. -/
def appendQueue : State :=
  pad [(1, .conc (scratchAddr 0x100)), (2, .conc 3), (3, .conc 4)]
    (leBytes 0x1000 8 ++ leBytes 8 8 ++ leBytes 2 8 ++ leBytes 5 8 ++ leBytes 2 8 ++ leBytes 0 24)
theorem witness_append_queue : appendQueue.guarded h0 = true ∧ appendQueue.here.takes 6 = true
    ∧ appendQueue.local (scratchAddr 0x100) 0x100 64 = true ∧ (scratchAddr 0x100).toNat % 64 = 0
    ∧ appendQueue.here.sources [1, 2] = some ([scratchAddr 0x100, 3], appendQueue.here)
    ∧ appendQueue.here.sources [1, 3] = some ([scratchAddr 0x100, 4], appendQueue.here)
    ∧ appendQueue.here.sources [1, 0] = some ([scratchAddr 0x100, 0], appendQueue.here)
    ∧ appendQueue.scratchWord 0x100 3 - appendQueue.scratchWord 0x100 2 = 3 := by decide
theorem test_qtake_all_or_none : exec (.qtake h0 6 1 3) appendQueue
    = .next (appendQueue.completes h0 8 (appendQueue.here.variable 6 0xFFFFFFFFFFFFFFFF)) := rfl
/-- R7, R174: HEAD above TAIL is a fill below every count. -/
theorem test_queue_below : (match exec (.qtake h0 6 1 2) (pad [(1, .conc (scratchAddr 0x100)), (2, .conc 3)]
      (leBytes 0x1000 8 ++ leBytes 8 8 ++ leBytes 6 8 ++ leBytes 5 8 ++ leBytes 2 8 ++ leBytes 0 24)) with
    | .next t => t.here.reg 6 | _ => .conc 0) = .conc 0xFFFFFFFFFFFFFFFF := by decide
theorem witness_waits : two.guarded h0 = true ∧ two.here.sup = true ∧ two.here.syms = [] ∧ two.treeBusy two.cur = false
    ∧ two.here.refusal = none ∧ two.here.queue = [] ∧ data.here.sources [1, 2] = some ([scratchAddr 0x100, 7], data.here)
    ∧ data.scratchWord 0x100 0 ≠ 7 ∧ two.mgmt.mboxseq ≠ 7 ∧ two.here.sources [2] = some ([7], two.here) := by decide
theorem witness_own : data.here.sources [1] = some ([scratchAddr 0x100], data.here) ∧ (0x100 : Nat) < 2 ^ 25
    ∧ data.here.syms = [] ∧ data.here.queue = [] := by decide

/-! ### Control registers, caches, translations, contexts, errors -/

/-- Context 0 is kept; s1 = 0, s2 = 7, s3 names the scratchpad. -/
def kept : State :=
  { one (strandWith [(2, .conc 7), (3, .conc (scratchAddr 0x100)), (4, .conc 512), (5, .conc 0x400002F)]) with
    ctxs := [(0, bootCtx 0)] }
theorem witness_control_registers : (kept.guarded h0 && kept.here.takes 6 && kept.here.sup
    && kept.here.sources [2] == some ([7], kept.here)) = true ∧ kept.here.syms = [] ∧ kept.here.queue = []
    ∧ (Tab.find kept.ctxs kept.here.ctx).isSome = true ∧ (kept.cluster 0).gating = none
    ∧ ((List.range 4).all fun i => (kept.group i).gating.isNone && !kept.groupBusy i) = true ∧ user2.here.sup = false
    ∧ (kept.here.s.any fun p => p.2.isList) = false ∧ (kept.here.pend.any fun p => p.val.isList) = false := by decide
theorem test_mtc_status : exec (.mtc h0 2 0x000) kept = .next (kept.completes h0 8 { kept.here with status := 7 }) := rfl
theorem test_mfc_user : exec (.mfc h0 6 0x001) user2 = .next (user2.traps .priv 0 1) := rfl
/-- R102: a rounding mode of 0 is stored as 1. -/
theorem test_fpcsr : fpcsrWrite 0 = 1 ∧ fpcsrWrite 4 = 4 ∧ fpcsrWrite 5 = 1 ∧ fpcsrWrite 0xFFFFFFFFFFFFFFFF = 0x1F09 := by decide
/-- The die keeps a translation of page 1 to module memory at 1 GiB and 64 KiB; s1 names byte 0 of the page, s2 = 7. -/
def mapped : State :=
  { one (strandWith [(1, .conc 0x10000), (2, .conc 7), (3, .conc 0x10004)]) with
    ctxs := [(0, bootCtx 0)]
    dies := [(0, { Die.reset with tlb := [⟨0, 0x10000, false, 0x40010377, 0⟩] })] }
/-- That translation. -/
def entry : Tlb := ⟨0, 0x10000, false, 0x40010377, 0⟩
theorem witness_mapped : mapped.here.sources [1, 0] = some ([0x10000, 0], mapped.here)
    ∧ mapped.translated 0x10000 entry = true ∧ mapped.physical entry 0x10000 = 0x40010000
    ∧ mapped.granted .rd false 0x10000 entry 0x40010000 = true ∧ mapped.granted .wr false 0x10000 entry 0x40010000 = true
    ∧ mapped.sound 0x40010000 8 = true ∧ mapped.here.syms = [] ∧ mapped.here.wmset = [] := by decide
theorem witness_cache : inWindow (scratchAddr 0x100) = true ∧ inWindow 0x10000 = false
    ∧ kept.here.sources [3, 0] = some ([scratchAddr 0x100, 0], kept.here)
    ∧ kept.local (scratchAddr 0x100) 0x100 128 = true
    ∧ (match check mapped.whoStrand .rd 0x10000 mapped with | .ok (.mem pa, _) _ => pa == 0x40010000 | _ => false) = true := by decide
theorem test_cache_zero : padAfter (exec (.cacheZero h0 1 0 4) data) 0x100 16 = List.replicate 16 0 := by decide
theorem witness_tlbi : two.guarded h0 = true ∧ two.here.sup = true ∧ (two.strands.all fun p => p.2.syms.isEmpty) = true
    ∧ two.here.sources [1, 2] = some ([5, 7], two.here) := by decide
theorem test_tlbi : (mapped.dropTlb fun t => t.covers 0 0x1FFFF).dies = []
    ∧ (mapped.dropTlb fun t => t.covers 0 0x20000).dies = mapped.dies := by decide
theorem witness_contexts : kept.here.sources [0, 2] = some ([0, 7], kept.here) ∧ kept.here.sources [0] = some ([0], kept.here)
    ∧ (Tab.find kept.ctxs 0).isSome = true ∧ Tab.find kept.ctxs 7 = none ∧ kept.here.sources [2, 2] = some ([7, 7], kept.here) := by
  decide
theorem witness_errors : kept.here.sources [4] = some ([512], kept.here) ∧ kept.errLine 512 = some 8
    ∧ (kept.regions.any fun p => p.2.pages.contains (8 * 64 / 65536)) = false
    ∧ kept.here.sources [2, 5] = some ([7, 0x400002F], kept.here) ∧ bits (0x400002F : Word) 27 37 = 0
    ∧ bits (0x400002F : Word) 0 16 + 32768 < 65536 ∧ (kept.group 7).holder = none := by decide

/-! ### Launches, items, context switch -/

/-- A launch record at 0x100 and its nest table at 0x200: one spatial level over strands, extent 3. -/
def launching : State :=
  let record := leBytes 0x40 8 ++ leBytes 0xAA 8 ++ leBytes (scratchAddr 0x200).toNat 8 ++ leBytes (5 + 2 ^ 9) 8 ++ leBytes 0 32
    ++ leBytes 0 64
  let nest := leBytes 1 8 ++ leBytes 3 8 ++ leBytes (1 + 2 ^ 32) 8
  { one (strandWith [(1, .conc (scratchAddr 0x100))]) with
    ctxs := [(0, bootCtx 0)]
    nextLaunch := 5
    mem := Memory.setBytes (Memory.setBytes [] (scratchKey 0 0x100) record) (scratchKey 0 0x200) nest }
theorem witness_launch : let s := launching
    let w := s.scratchWord 0x100
    let x := s.ctxOf s.here.ctx
    (s.guarded h0 && s.here.takes 6 && s.here.sources [1, 0] == some ([scratchAddr 0x100, 0], s.here)
      && s.local (scratchAddr 0x100) 0x100 128 && s.local (w 2) 0x200 24) = true
    ∧ (scratchAddr 0x100).toNat % 128 = 0 ∧ bits (w 3) 25 39 = 0 ∧ (s.scratch 0x138 72).all (· == 0) = true
    ∧ bits (w 3) 0 4 = 5 ∧ x.ceil.toNat = 11 ∧ bits (w 3) 4 2 = 0 ∧ bits (w 3) 6 3 = 0 ∧ bits (w 3) 10 10 = 0
    ∧ bits (w 3) 20 5 = 0 ∧ (w 3).getLsbD 9 = x.sec ∧ (w 4).toNat < s.nextLaunch ∧ w 5 = 0 ∧ w 6 = 0
    ∧ bits (s.scratchWord 0x200 0) 0 3 = 1 ∧ bits (s.scratchWord 0x200 0) 3 61 = 0
    ∧ levelsBad (s.scratch 0x208 16) 1 = false ∧ itemCount ((List.range 1).map (levelOf (s.scratch 0x208 16))) = 3 := by
  decide
/-- A launch of context 0 with one level over strands. -/
def aLaunch (status : Option (BitVec 2)) (left : Nat) : Launch :=
  ⟨0, 0, 0x40, 0xAA, 5, 5, 0, 0, 0, 0, none, [⟨0, 3, 1, 1, 0⟩], [], left, false, status, 0, none⟩
/-- Launch 1 is complete, launch 2 is not; s1 = 1, s2 = 2, s3 = 9; strand 0 runs item 0 of launch 2. -/
def launched : State :=
  { one { strandWith [(1, .conc 1), (2, .conc 2), (3, .conc 9), (4, .conc 0x4000)] with item := some ⟨2, 0, 0, 5⟩ } with
    ctxs := [(0, bootCtx 0)]
    launches := [(1, aLaunch (some 1) 0), (2, { aLaunch none 3 with next := [(0, 1)] }), (3, aLaunch none 3)]
    nextLaunch := 4
    susp := [⟨⟨3, 0, 0, 5⟩, 0, 0, 0x4000, true, none⟩] }
theorem witness_launch_status : (launched.guarded h0 && launched.here.takes 6) = true
    ∧ launched.here.sources [1] = some ([1], launched.here) ∧ launched.here.sources [2] = some ([2], launched.here)
    ∧ (Tab.find launched.launches 1).isSome = true ∧ (1 : Nat) < launched.nextLaunch ∧ launched.nextLaunch ≤ 1 + 4096
    ∧ (launched.strands.all fun p => p.2.halt != .stopped) = true ∧ Tab.find launched.launches 9 = none
    ∧ launched.here.sources [3] = some ([9], launched.here) := by decide
theorem test_lwait : exec (.lwait h0 6 1) launched = .next (launched.completes h0 8 (launched.here.variable 6 1))
    ∧ exec (.lwait h0 6 2) launched = .next (waitAt .plain launched launched) := ⟨rfl, rfl⟩
theorem witness_priorities : launched.here.sources [2, 3] = some ([2, 9], launched.here)
    ∧ (9 : Word).toNat ≤ (launched.ctxOf 0).ceil.toNat ∧ launched.here.sup = true
    ∧ launched.here.sources [0, 3] = some ([0, 9], launched.here) ∧ launched.here.sources [4] = some ([0x4000], launched.here)
    ∧ launched.here.syms = [] ∧ (launched.susp.map Susp.image) = [0x4000]
    ∧ (launched.strands.all fun p => match p.2.item with | some i => i.launch != 3 | none => true) = true := by decide
theorem witness_item_ends : launched.guarded h0 = true ∧ launched.quiet = true ∧ launched.here.item = some ⟨2, 0, 0, 5⟩
    ∧ launched.here.mark = none ∧ (launched.follower.map fun x => x.2.2) = some 1 ∧ two.follower = none
    ∧ Tab.rising launched.groups = true := by decide
/-- R417: the strand runs no item, and the launch has one item less to go. -/
theorem test_exit : (match exec (.exit h0) launched with
    | .next t => t.here.item.isNone && (Tab.find t.launches 2).map Launch.left == some 2
    | _ => false) = true := by decide
theorem witness_context_switch : (data.guarded h0 && data.here.sup && data.here.takes 6
    && data.here.sources [1, 0] == some ([scratchAddr 0x100, 0], data.here)) = true ∧ (scratchAddr 0x100).toNat % 64 = 0
    ∧ data.local (scratchAddr 0x100) 0x100 strandImage = true ∧ data.quiet = true ∧ data.here.astop = none
    ∧ data.here.queue = [] ∧ imageStatus data (data.scratch 0x100 strandImage) ≠ 0 := by decide
/-- Launch 3 waits for strand 1, which is free. -/
def dispatching : State := { launched with susp := [] }
theorem witness_dispatch : (dispatching.chosenFor 1).map Prod.fst = some 2
    ∧ dispatching.readySusp 2 0 = none ∧ ((dispatching.chosenFor 1).bind fun p => p.2.nextItem 0) = some 1
    ∧ (dispatching.chosenFor 1).map (fun p => p.2.pbind.isNone) = some true
    ∧ (dispatching.strand 1).lastLaunch ≠ some 2 ∧ (dispatching.strand 1).lastCtx ≠ some 0 := by decide
/-- A suspended item of launch 2 is ready. -/
def resuming : State := { launched with susp := [⟨⟨2, 0, 0, 5⟩, 0, 0, 0x4000, false, none⟩] }
theorem witness_resume : (resuming.chosenFor 1).map Prod.fst = some 2
    ∧ resuming.readySusp 2 0 = some ⟨⟨2, 0, 0, 5⟩, 0, 0, 0x4000, false, none⟩ := by decide
theorem test_nest_order : ((aLaunch none 3).index 2 0) = 2 ∧ itemCount (aLaunch none 3).levels = 3
    ∧ (aLaunch none 3).nextItem 0 = some 0 ∧ ({ aLaunch none 3 with next := [(0, 3)] }).nextItem 0 = none := by decide
/-- Strand 0 is marked for launch 3 with a grace that is over; a watchdog is due; launch 2 can age. -/
def timers : State :=
  { launched with
    strands := [(0, { launched.here with mark := some (5, 3) })]
    ctxs := [(0, { bootCtx 0 with wdogLim := 4, wdogCnt := 4 })]
    dies := [(0, { Die.reset with ageing := 6 })]
    cycle := 10 }
theorem witness_timers : (Tab.find timers.ctxs 0).map (fun x => x.wdogArmed && x.wdogLim != 0) = some true
    ∧ (timers.strand 0).mark = some (5, 3) ∧ (timers.strand 0).markDone = false ∧ (5 : Nat) ≤ timers.cycle.toNat
    ∧ (timers.die 0).ageing ≠ 0 ∧ ((List.range 8).any fun d => timers.waiting 2 (aLaunch none 3) d) = true
    ∧ ({ aLaunch none 0 with left := 0 }).status = none ∧ (aLaunch none 0).done = 0 := by decide

/-! ### Transfer engine -/

/-- Two records in the scratchpad, named by s1 and s2; s3 = 2 MiB, s4 = 1; channel 3 holds `q`. -/
def records (r r' : List Word) (q : Chan) : State :=
  { pad [(1, .conc (scratchAddr 0x100)), (2, .conc (scratchAddr 0x140)), (3, .conc 0x200000), (4, .conc 1)]
      ((r ++ r').flatMap fun w => leBytes w.toNat 8) with
    clusters := [(0, { Cluster.reset with chans := [(3, q)] })] }
/-- A pattern of `n` elements of ESIZE `e`, `2 ^ (e - 1)` bytes apart from byte `base` of the scratchpad, as DIR `dir`. -/
def line (dir e n base : Nat) : List Word :=
  [scratchAddr base, BitVec.ofNat 64 (e + 2 ^ 12 * dir), BitVec.ofNat 64 (n + 2 ^ 24 * 2 ^ (e - 1)), 0, 0, 0, 0, 0]
/-- A pattern of `n` by `m` elements with AUX. -/
def plane (dir e n m aux : Nat) : List Word :=
  [0, BitVec.ofNat 64 (e + 2 ^ 10 + 2 ^ 12 * dir), BitVec.ofNat 64 n, BitVec.ofNat 64 m, 0, 0, 0, BitVec.ofNat 64 aux]
/-- The records, their operands, and an open channel are there. -/
def ready (r r' : List Word) : Bool :=
  let s := records r r' Chan.reset
  s.guarded h0 && s.here.takes 5 && s.here.sources [1, 2] == some ([scratchAddr 0x100, scratchAddr 0x140], s.here)
    && (s.chan 0 3).isOpen && s.local (scratchAddr 0x100) 0x100 64 && s.local (scratchAddr 0x140) 0x140 64
    && s.record 0x100 == r && s.record 0x140 == r'
theorem witness_transfer_issue : ready (line 0 4 3 0) (line 1 4 3 64) = true ∧ recordFits (line 0 4 3 0) 0 false = true
    ∧ recordFits (line 1 4 3 0) 1 true = true ∧ patFmode (line 0 4 3 0) = patFmode (line 1 4 3 64)
    ∧ recCount (line 0 4 3 0) = 3 ∧ recCount (line 1 4 3 64) = 3 ∧ recordFits (line 0 4 3 0) 0 true = true
    ∧ recordFits (line 0 4 3 0) 0 false = true ∧ patExtent (line 0 4 3 0) 0 = 3 ∧ patTotal (line 0 4 3 0) 3 = 24
    ∧ recordFits (line 1 4 3 0) 0 false = false := by decide
theorem witness_transfer_issue_rest : recordFits (plane 1 4 2 3 8) 1 true = true ∧ patNdim (plane 1 4 2 3 8) = 1
    ∧ recordFits [0, 4 + 2 ^ 11, 3, 0, 0, 0, 0, 8] 1 true = false ∧ recordFits [0, 4 + 2 ^ 11 + 2 ^ 12, 3, 0, 0, 0, 0, 8] 1 true = true
    ∧ patNdim [0, 4 + 2 ^ 11 + 2 ^ 12, 3, 0, 0, 0, 0, 8] = 2 ∧ recordFits (plane 0 1 2 3 16) 0 false = true
    ∧ patEsize (plane 0 1 2 3 16) = redSize 0 ∧ recordFits (plane 1 1 2 3 32) 1 true = true
    ∧ (let s := records (line 0 4 3 0) (line 1 4 3 64) Chan.reset
      s.here.sources [3, 4] = some ([0x200000, 1], s.here) ∧ s.here.syms = [] ∧ (0x200000 : Word).toNat % 65536 = 0
      ∧ bits (1 : Word) 0 24 ≠ 0) := by decide
/-- A record of XCKPT. -/
def ckptRecord : List Word := [0x10000, 3, 0x20, 0x30000, 0, 0, 0, 0]
/-- A record of XKV. -/
def kvRecord : List Word := [0, 0, 0, 4, 16, 8, 4096, 0]
theorem witness_ckpt_record : ready ckptRecord ckptRecord = true ∧ (ckptRecord.drop 4).all (· == 0) = true
    ∧ bits (ckptRecord.getD 1 0) 0 32 = 3 ∧ bits (ckptRecord.getD 1 0) 32 32 = 0 ∧ (ckptRecord.getD 0 0).toNat % 65536 = 0
    ∧ (ckptRecord.getD 2 0).toNat % 32 = 0 ∧ (ckptRecord.getD 3 0).toNat % 65536 = 0 := by decide
theorem witness_kv_record : ready kvRecord kvRecord = true ∧ bits (kvRecord.getD 4 0) 32 32 = 0
    ∧ bits (kvRecord.getD 6 0) 13 51 = 0 ∧ bits (kvRecord.getD 6 0) 0 13 = 4096 ∧ bits (kvRecord.getD 4 0) 0 32 = 16
    ∧ (kvRecord.getD 3 0).toNat % 4 = 0 ∧ (kvRecord.getD 5 0).toNat % 8 = 0 := by decide
/-- A region of 8-byte elements, one dimension of 8 bits, and no pairs. -/
def region : Region := ⟨1, 0, false, 8, [8], [], [(0, ⟨[], [], []⟩)], 0, 1, 0, false, false, false⟩
theorem witness_box : region.boxBad [2, 0, 0, 0, 4, 0, 0, 0] = false ∧ region.volume [2, 0, 0, 0, 4, 0, 0, 0] = 3
    ∧ recCount (line 1 4 3 0) = 3 ∧ patBytes (line 1 4 3 0) = 8 ∧ patAux (line 1 4 3 0) = 0 := by decide
/-- A command of strand 0, with identifier 7. -/
def command (op : XOp) (r1 r2 : List Word) (v : Option Word) (stop : Option (BitVec 8 × BitVec 8 × Word)) : XEntry :=
  ⟨op, 7, 0, some (1, 0), 0, true, r1, r2, 0, 0x55, 0, 0, 0, [], v, stop, false, [], []⟩
theorem witness_channel : (let s := records [] [] ⟨8, 7, [command .fill [] [] none none], [(6, 3), (5, 2)]⟩
      let q := s.chan 0 3
      s.here.sources [4] = some ([1], s.here) ∧ (q.queue.all fun e => e.stop.isNone) = true ∧ (q.done - 1 - 1).toNat < 2 ^ 31
      ∧ 2 ^ 31 ≤ (q.done - 1 - 7).toNat ∧ (q.next - 1 - 7).toNat < 2 ^ 31 ∧ (q.vals.all fun p => p.1.setWidth 64 != (1 : Word)) = true
      ∧ q.vals = [(6, 3)] ++ (5, 2) :: [] ∧ ([((6 : BitVec 32), (3 : Word))].all fun p => p.1 != 5) = true)
    ∧ (let s := records [] [] ⟨8, 7, [command .fill [] [] none (some (0x0D, 2, 0x40))], []⟩
      (s.chan 0 3).queue = [command .fill [] [] none (some (0x0D, 2, 0x40))] ∧ s.here.sup = true ∧ s.here.ctx = 0) := by
  decide
theorem test_xstat_val : exec (.xstatVal h0 5 4 3) (records [] [] ⟨8, 7, [], [(6, 3), (1, 2)]⟩)
    = .next ((records [] [] ⟨8, 7, [], [(6, 3), (1, 2)]⟩).completes h0 8
      ((records [] [] ⟨8, 7, [], [(6, 3), (1, 2)]⟩).here.variable 5 2)) := rfl
/-- R333: an identifier no command of the channel has had is complete. -/
theorem test_xwait_done : exec (.xwait h0 5 4 3) (records [] [] ⟨8, 7, [], []⟩)
    = .next ((records [] [] ⟨8, 7, [], []⟩).completes h0 8 ((records [] [] ⟨8, 7, [], []⟩).here.variable 5 7)) := rfl

theorem witness_streams : (streamed.guarded h0 && !streamed.here.lent 1 && !streamed.here.lent 2) = true
    ∧ Tab.find streamed.here.streams 2 = none ∧ Tab.find streamed.here.streams 1 = some ⟨rec8, true, true, 0, [], none⟩
    ∧ recordFits (line 0 4 3 0) (patDir (line 0 4 3 0)) false = true ∧ patEsize (line 0 4 3 0) ≤ 4 := by decide
theorem test_sfree_free : exec (.sfree h0 2) streamed = .next (streamed.completes h0 8 streamed.here) := rfl
/-- Stream 0 reads and stream 1 writes bytes 0x100 on of the scratchpad, whose block is the engines'. -/
def moving : State :=
  { pad [] [1, 2, 3, 4, 5, 6, 7, 0x88] with
    strands := [(0, { strandWith [] with streams := [(0, ⟨line 0 1 8 0x100, false, true, 0, [], none⟩),
      (1, ⟨line 1 1 8 0x100, true, true, 1, [0x99], none⟩)] })]
    dies := [(0, { Die.reset with owner := [0] })] }
theorem witness_moving : moving.engineLocal 0 (patAddr (line 0 1 8 0x100) 0).1 0x100 1 = true
    ∧ moving.engineLocal 0 (patAddr (line 1 1 8 0x100) (1 - 1)).1 0x100 1 = true ∧ recCount (line 0 1 8 0x100) = 8
    ∧ (moving.strand 0).wmset = [] ∧ moving.remotes = []
    ∧ (∀ i, i < 8 → inWindow (patAddr (line 0 1 8 0x100) i).1 = true) := by decide
theorem test_drain : padAfter (exec (.streamDrain 0 1) moving) 0x100 2 = [0x99, 2] := by decide
/-- A fill of three 8-byte elements at the head of channel 3. -/
def filling : State :=
  { records [] [] ⟨8, 7, [command .fill (line 1 4 3 0x200) [] none none], []⟩ with
    dies := [(0, { Die.reset with owner := [0] })] }
theorem witness_transfer : filling.wf = true ∧ (filling.strand 0).wmset = [] ∧ patBaren (line 1 4 3 0x200) = false
    ∧ (∀ i, i < 3 → filling.engineLocal 0 (patAddr (line 1 4 3 0x200) i).1 (0x200 + 8 * i) 8 = true)
    ∧ (∀ i, i < 3 → filling.engineLocal 0 (patAddr (line 0 4 3 0x100) i).1 (0x100 + 8 * i) 8 = true) := by decide
theorem test_fill : padAfter (exec (.transferCommandStart 0 3) filling) 0x210 10 = [0x55, 0, 0, 0, 0, 0, 0, 0, 0, 0] := by decide
theorem witness_transfer_completes : (records [] [] ⟨8, 7, [command .fill [] [] (some 3) none], []⟩).chan 0 3
    = ⟨8, 7, [command .fill [] [] (some 3) none], []⟩ ∧ (command .fill [] [] (some 3) none).burgee = none := by decide
/-- Page 1 has its copy in pool frame 9, late; page 2 is to be demoted. -/
def promotions : State :=
  { two with promoting := [(1, ⟨9, some 5, some 0, none⟩)], demoting := [(2, ⟨8, none, some 0, none⟩)], promoted := [(2, 8)], cycle := 6 }
theorem witness_promotion : Tab.find promotions.promoting (0x10000 / 65536) = some ⟨9, some 5, some 0, none⟩
    ∧ (5 : Word).toNat < promotions.cycle.toNat ∧ Tab.find promotions.demoting (0x20000 / 65536) = some ⟨8, none, some 0, none⟩ := by decide

/-! ### Matrix engine -/

/-- Cluster 0 has the matrix engine `m`; two records in the scratchpad. -/
def matrix (r r' : List Word) (m : Matrix) : State :=
  { records r r' Chan.reset with clusters := [(0, { Cluster.reset with mx := m })] }
/-- M = N = K = 1 in FP64, both operands FP64. -/
def cfg64 : List Word := [0x100010001, 0x10303, 0, 0, 0, 0, 0, 0]
/-- A command of strand 0. -/
def mcmd (op : MOp) (finished : Bool) (stop : Option (BitVec 8 × BitVec 8 × Word)) : MCmd :=
  ⟨op, 1, some (1, 0), 0, true, scratchAddr 0x100, scratchAddr 0x108, 0, 0, finished, stop, false⟩
theorem witness_matrix_issue : let s := matrix cfg64 [] Matrix.reset
    (s.guarded h0 && s.here.takes 5 && s.here.sources [1, 0] == some ([scratchAddr 0x100, 0], s.here)
      && s.local (scratchAddr 0x100) 0x100 64) = true ∧ s.record 0x100 = cfg64 ∧ mcfgBad cfg64 = false ∧ s.here.syms = []
    ∧ (s.mx 0).queue = [] ∧ s.here.queue = [] ∧ (s.mx 0).bound ≠ some s.here.ctx := by decide
theorem witness_matrix_functions : (let s := matrix [] [] { Matrix.reset with queue := [mcmd (.zero 1) false none], next := 2 }
      (∀ e ∈ (s.mx 0).queue, e.stop = none) ∧ (s.die 0).tasks = [] ∧ s.here.sources [4] = some ([1], s.here)
      ∧ 2 ^ 31 ≤ ((s.mx 0).done - 1 - 1).toNat ∧ ((s.mx 0).done - 1 - 0).toNat < 2 ^ 31)
    ∧ (let s := matrix [] [] { Matrix.reset with queue := [mcmd (.zero 1) false (some (0x16, 1, 2))], next := 2, bound := some 5 }
      (s.mx 0).queue = [mcmd (.zero 1) false (some (0x16, 1, 2))] ∧ s.here.sup = true ∧ s.here.queue = []
      ∧ s.here.ctx ≠ 5) := by decide
theorem test_mwait_waits : let s := matrix [] [] { Matrix.reset with queue := [mcmd (.zero 1) false none], next := 2 }
    exec (.mwait h0 5 4) s = .next (waitAt .plain s s) := rfl
/-- A queue of 4 slots at byte 0x200 with HEAD 1 and TAIL 2, a record for it, slot 1 with a STATUS, and a task. -/
def tasks (status : Word) : State :=
  { pad [(1, .conc (scratchAddr 0x100)), (2, .conc (scratchAddr 0x140)), (3, .conc 1), (4, .conc 0)]
      (([scratchAddr 0x200, 4, 1, 2, 0, 0, 0, 0] ++ [0x91, 0, 0, 0, 1, 0xFFFFFFFFFFFFFFFF, 0, 0] : List Word).flatMap
        fun w => leBytes w.toNat 8) with
    mem := Memory.setBytes (pad [] (([scratchAddr 0x200, 4, 1, 2, 0, 0, 0, 0] ++ [0x91, 0, 0, 0, 1, 0xFFFFFFFFFFFFFFFF, 0, 0] :
      List Word).flatMap fun w => leBytes w.toNat 8)).mem (scratchKey 0 0x270) (leBytes status.toNat 8)
    dies := [(0, { Die.reset with tasks := [⟨.scratch 0 0x100, scratchAddr 0x100, scratchAddr 0x200, 4, 1, some (1, 0), 0, true, [], none,
      none, false, false⟩] })] }
theorem witness_tasks : let s := tasks 0x8000000000000000
    (s.guarded h0 && s.here.takes 5 && s.here.sources [1, 2] == some ([scratchAddr 0x100, scratchAddr 0x140], s.here)
      && s.local (scratchAddr 0x100) 0x100 64 && s.local (scratchAddr 0x140) 0x140 64) = true
    ∧ taskHeaderBad (s.record 0x100) = false ∧ taskRecordBad (s.record 0x140) 2 = false
    ∧ s.local (scratchAddr 0x280) 0x280 64 = true ∧ (s.die 0).queues.contains (.scratch 0 0x100) = true
    ∧ s.here.sources [1, 3] = some ([scratchAddr 0x100, 1], s.here) ∧ s.here.sources [1, 4] = some ([scratchAddr 0x100, 0], s.here)
    ∧ s.local (scratchAddr 0x240 + 48) 0x270 8 = true ∧ (s.scratchWord 0x270 0).getLsbD 63 = true
    ∧ (s.scratchWord 0x270 0).getLsbD 62 = false ∧ ((tasks 1).scratchWord 0x270 0).getLsbD 63 = false := by decide
theorem test_mwait_task_past : exec (.mwaitTask h0 5 1 4) (tasks 1)
    = .next ((tasks 1).completes h0 8 ((tasks 1).here.variable 5 0x8000000000000000)) := rfl

/-- A strand in context 1, which has not the CTXID of a saved image; one image is saved. -/
def imaged : State :=
  { two with
    ctxs := [(0, bootCtx 0), (1, { bootCtx 0 with idCtx := 5 })]
    strands := [(0, { strandWith [(1, .conc (scratchAddr 0))] with item := some ⟨1, 0, 1, 0⟩ })]
    images := [⟨({ two with images := [] } : State).scratch 0 imageSize, Matrix.reset⟩] }
theorem witness_images : imaged.guarded h0 = true ∧ imaged.here.takes 5 = true
    ∧ imaged.here.sources [1] = some ([scratchAddr 0], imaged.here) ∧ 0 + imageSize ≤ 2 ^ 25 ∧ (imaged.die 0).owner = []
    ∧ imaged.here.syms = [] ∧ imaged.here.wmset = [] ∧ (imaged.mx 0).queue = [] ∧ (imaged.mx 0).cfg.length = 8
    ∧ (imaged.die 0).tasks = [] ∧ imaged.scratchWord 0 2 = 0 ∧ imaged.ctxid imaged.here.ctx = 5
    ∧ ({ imaged with ctxs := [] } : State).ctxid 1 = 0 := by decide
theorem witness_image_known : imaged.images = [] ++ ⟨imaged.scratch 0 imageSize, Matrix.reset⟩ :: [] := rfl
/-- The engine of cluster 0 has one command; its operands are the engines'. -/
def running (op : MOp) (finished : Bool) (bytes : List Byte) : State :=
  { pad [] bytes with
    clusters := [(0, { Cluster.reset with mx := { Matrix.reset with
      queue := [mcmd op finished none], next := 2, cfg := cfg64, tiles := [(0, ⟨true, [(0, 0x3FF0000000000000)]⟩)] } })]
    dies := [(0, { Die.reset with owner := [0] })] }
theorem witness_matrix_runs : let s := running (.lda true 1 0 0) false []
    (s.mx 0).queue = [mcmd (.lda true 1 0 0) false none] ∧ s.remotes = [] ∧ (s.die 0).tasks = []
    ∧ Tab.rising (s.mx 0).tiles = true ∧ Tab.rising ((s.mx 0).tile 0).cells = true ∧ ((s.mx 0).tile 0).f64 = true
    ∧ s.engineLocal 0 (scratchAddr 0x100 + BitVec.ofNat 64 0 * scratchAddr 0x108 + BitVec.ofNat 64 (0 * 8)) 0x100 8 = true
    ∧ 0x100 % 8 = 0 ∧ (running (.zero 0xFF) true []).mx 0 = { (running (.zero 0xFF) true []).mx 0 with
      queue := [mcmd (.zero 0xFF) true none] } := by decide
/-- 2.0 by 3.0 on 1.0. -/
def product : State := running (.prod .mma false false 0) false (leBytes 0x4000000000000000 8 ++ leBytes 0x4008000000000000 8)
theorem witness_product : mcfgM cfg64 = 1 ∧ mcfgN cfg64 = 1 ∧ mcfgK cfg64 = 1 ∧ mcfgAcc cfg64 = true ∧ mcfgA cfg64 = 3
    ∧ mcfgB cfg64 = 3 ∧ product.engineLocal 0 (scratchAddr 0x108) 0x108 8 = true
    ∧ leNat (product.pad 0 0x100 8) = 0x4000000000000000 ∧ leNat (product.pad 0 0x108 8) = 0x4008000000000000
    ∧ (fv 0x4000000000000000).isNan = false ∧ (fv 0x4008000000000000).isNan = false ∧ (fv 0x3FF0000000000000).isNan = false
    ∧ ((fv 0x4000000000000000).mul (fv 0x4008000000000000)).isSome = true := by decide
/-- R378: 1 + 2 × 3 = 7. -/
theorem test_mma : (match exec (.matrixCommandRun 0) product with
    | .next t => ((t.mx 0).tile 0).get 0 0 | _ => 0) = 0x401C000000000000 := by decide
/-- A task that has ended at the head of a queue, or waits for an engine; `free`: its header is the engines'. -/
def ended (on : Option Nat) (x : Option MEnd) : State :=
  { pad [] (([scratchAddr 0x200, 4, 1, 2, 0, 0, 0, 0] : List Word).flatMap fun w => leBytes w.toNat 8) with
    dies := [(0, { Die.reset with
      owner := [0]
      tasks := [⟨.scratch 0 0x100, scratchAddr 0x100, scratchAddr 0x200, 4, 1, some (1, 0), 0, true,
        [0x91, 0, 0, 0, 0, 0xFFFFFFFFFFFFFFFF, 0, 0], on, x, false, false⟩] })] }
theorem witness_task_issue : let s := ended none none
    let t : MTask := ⟨.scratch 0 0x100, scratchAddr 0x100, scratchAddr 0x200, 4, 1, some (1, 0), 0, true,
      [0x91, 0, 0, 0, 0, 0xFFFFFFFFFFFFFFFF, 0, 0], none, none, false, false⟩
    (s.die 0).tasks = [] ++ t :: [] ∧ taskReady 0 t s = (some true, s) ∧ s.engineFree 0 = true := by decide
theorem witness_task_ends : let s := ended (some 0) (some ⟨0, 0, none⟩)
    s.engineLocal 0 (scratchAddr 0x100) 0x100 64 = true
    ∧ s.engineLocal 0 (scratchAddr 0x200 + BitVec.ofNat 64 (1 % 4 * 64)) 0x240 64 = true ∧ Memory.wf s.mem = true
    ∧ Tab.rising s.dies = true ∧ leNat (s.pad 0 0x110 8) = 1 ∧ leNat (s.pad 0 0x118 8) = 2 ∧ (1 : Nat) < 2 ^ 63 := by decide
/-- R394: HEAD passes the task that has ended. -/
theorem test_head_advances : padAfter (exec (.matrixTaskComplete 0) (ended (some 0) (some ⟨0, 0, none⟩))) 0x110 8
    = leBytes 2 8 := by decide

/-! ### Associative engine -/

/-- A queued instruction. -/
def entryOf (op : AOp) (x y : SVal) (sym : Option Nat) : QEntry :=
  ⟨op, 0x0401000000000000, 0, 0x40, true, 24, 1, x, y, sym, false, none, none, [], [], Prog.fresh⟩
/-- Field 1: an unsigned integer of eight bits from column 32. -/
def fieldDesc : Word := 0x22020
/-- Strand 0 holds group 0 of class 0, with field 1 in row 0 equal to 5; its queue and its stop are given. -/
def holding (q : List QEntry) (stop : Option AStopRec) : State :=
  { two with
    groups := [(0, { Group.reset with holder := some 0, desc := [(1, fieldDesc)], rows := [(0, 5 <<< 32)] })]
    strands := [(0, { strandWith [(1, .conc (scratchAddr 0x100)), (2, .conc 7), (3, .conc 200), (4, .conc 513)] with
      desc := [(1, fieldDesc)], queue := q, astop := stop
      streams := [(0, ⟨line 0 1 8 0x100, false, true, 0, [], none⟩), (1, ⟨rec8, true, true, 0, [], none⟩)] })] }
theorem witness_assoc_issue : let s := holding [] none
    s.queues (.awr 1) 24 = true ∧ s.queues (.asrch 0 2 1) 3 = true ∧ s.here.carried 2 = some (.conc 7, s.here)
    ∧ s.here.sv (.vi 0xFFFFFF) = some (.conc 0xFFFFFFFFFFFFFFFF, s.here) ∧ s.here.ao (.vv 1) = some (.conc 0, s.here)
    ∧ s.here.co (.vs 0 2) = some (.conc 7, s.here) ∧ late.here.carried 1 = some (.aff 0 2 3, late.here)
    ∧ Tab.find s.here.streams 0 = some ⟨line 0 1 8 0x100, false, true, 0, [], none⟩
    ∧ dValid (s.view s.cur).rows fieldDesc = true ∧ dValid (s.view s.cur).rows 0 = true
    ∧ dValid (s.view s.cur).rows 0x2201F = false := by decide
theorem test_mset_queued : exec (.mset ⟨0, 24⟩ 3 1) (holding [] none)
    = .next ((holding [] none).queued 0 8 0 24 1 (.mset 3 true) (.conc 0) (.conc 0) (holding [] none).here) := rfl
theorem witness_assoc_scalar : let s := holding [] none
    s.queues (.apopM 3) 24 = true ∧ s.here.freeSym = some 0 ∧ s.here.takes 49 = true
    ∧ (let s : State := { s with strands := [(0, { s.here with part := some (.result (some 9)) })] }
      s.here.part = some (.result (some 9)) ∧ s.queues (.apopM 3) 24 = true ∧ s.here.takes 49 = true) := by decide
theorem witness_assoc_control : let s := holding [entryOf (.apopM 3) (.conc 0) (.conc 0) (some 4)] none
    two.guarded h0 = true ∧ (two.heldOf two.cur).length = 0 ∧ (s.heldOf s.cur).length = 1 ∧ s.here.astop = none
    ∧ (∀ e ∈ s.here.queue.head?, e.prog.begun = false) ∧ s.here.queue.length ≤ 64 ∧ s.here.takes 6 = true
    ∧ s.here.sources [3, 4] = some ([200, 513], s.here) ∧ s.here.sources [2, 4] = some ([7, 513], s.here) ∧ s.here.sup = true
    ∧ (∀ i, i < 4 → (s.group (4 * 7 + i)).holder = none) ∧ (s.cluster 7).gating = none
    ∧ ((List.range 4).all fun i => (s.group (7 * 4 + i)).gating.isNone && !s.groupBusy (7 * 4 + i)) = true ∧ Tab.rising s.groups = true ∧ Tab.rising s.clusters = true
    ∧ 512 ≤ (513 : Word).toNat ∧ (513 : Word) ≠ 0xFFFFFFFFFFFFFFFF := by decide
theorem witness_assoc_stopped : let e := entryOf (.apopM 3) (.conc 0) (.conc 0) (some 4)
    let r : AStopRec := ⟨0x0E, 0, false, 0, 0⟩
    (holding [e] (some r)).here.astop = some r ∧ (holding [e] (some r)).here.queue = [e]
    ∧ ((holding [] none).here.queue = []) ∧ (holding [entryOf (.mset 1 true) (.conc 0) (.conc 0) none] none).here.queue ≠ [] := by
  decide
/-- R231: stopped with code 0x0E, one entry, one group. -/
theorem test_aestat : exec (.aestatState h0 6) (holding [entryOf (.mset 1 true) (.conc 0) (.conc 0) none] (some ⟨0x0E, 0, false, 0, 0⟩))
    = .next ((holding [entryOf (.mset 1 true) (.conc 0) (.conc 0) none] (some ⟨0x0E, 0, false, 0, 0⟩)).completes h0 8
      ((holding [entryOf (.mset 1 true) (.conc 0) (.conc 0) none] (some ⟨0x0E, 0, false, 0, 0⟩)).here.variable 6 0x81000E01)) := rfl
/-- A microcode image's header at byte 0x100; s2 = 0 names group 0. -/
def image (kind : Nat) : State :=
  pad [(1, .conc (scratchAddr 0x100)), (2, .conc 0)] (leBytes 0x4D4C4E4458465331 8 ++ leBytes (kind + 3 * 2 ^ 32) 8)
theorem witness_image : (image 2).local (scratchAddr 0x100) 0x100 64 = true ∧ imageBad ((image 2).scratch 0x100 64) 2 = false
    ∧ imageBad ((image 3).scratch 0x100 64) 2 = true ∧ (image 2).local (scratchAddr 0x100) 0x100 2668 = true
    ∧ (image 2).scratchWord 0x100 2 = 0 ∧ (image 2).here.sources [1, 2] = some ([scratchAddr 0x100, 0], (image 2).here)
    ∧ ((image 2).scratchWord 0x100 1).extractLsb' 32 32 = 3 ∧ ((image 2).group 0).holder = none := by decide
/-- A queue with an entry that can be dumped; a husk this boot made. -/
def husked (q : List QEntry) (class_ : BitVec 2) : State :=
  { holding q none with
    mem := Memory.setBytes [] (scratchKey 0 0x100) (leBytes (2 ^ 48 + 2 ^ 40) 8 ++ leBytes 0 24 ++ leBytes 64 8)
    strands := [(0, { (holding q none).here with kclass := class_ })]
    husks := [⟨leBytes (2 ^ 48 + 2 ^ 40) 8 ++ leBytes 0 24 ++ leBytes 64 8 ++ leBytes 0 24, [], [], [], none, []⟩] }
theorem witness_husk : let e := entryOf (.mset 1 true) (.conc 0) (.conc 0) none
    let s := husked [e] 0
    s.guarded h0 = true ∧ s.here.sources [1] = some ([scratchAddr 0x100], s.here) ∧ s.heldOf s.cur = [0]
    ∧ (∀ e ∈ s.here.queue, e.sym = none ∧ e.x.symbolic = false ∧ e.y.symbolic = false)
    ∧ s.local (scratchAddr 0x100) 0x100 (64 + 256 + 64) = true := by decide
theorem witness_husk_known : let s := husked [] 0
    s.scratchWord 0x100 4 = 64 ∧ (s.husks.map Husk.bytes) = [s.scratch 0x100 64] ∧ bits (s.scratchWord 0x100 0) 40 8 = 1
    ∧ bits (s.scratchWord 0x100 0) 0 2 = s.here.kclass.toNat ∧ s.here.queue = [] ∧ s.scratchWord 0x100 5 = s.ctxid s.here.ctx
    ∧ bits ((husked [] 1).scratchWord 0x100 0) 0 2 ≠ (husked [] 1).here.kclass.toNat := by decide
theorem test_aundmp_class : exec (.aundmp h0 6 1) (husked [] 1)
    = .next ((husked [] 1).completes h0 8 ((husked [] 1).here.variable 6 3)) := by rfl
/-- The head of the queue is ready to be carried out. -/
theorem witness_assoc_runs : let s := holding [entryOf (.asrch 0 2 1) (.conc 5) (.conc 0) none] none
    (s.strand 0).queue = [entryOf (.asrch 0 2 1) (.conc 5) (.conc 0) none] ∧ (s.strand 0).kclass = 0 ∧ (s.strand 0).ahold = false
    ∧ s.remotes = [] ∧ Tab.rising s.groups = true ∧ Tab.rising s.strands = true ∧ (s.view 0).held = [0]
    ∧ (s.group 0).gated = 0 ∧ (s.group 0).gating = none ∧ Tab.rising (s.group 0).rows = true ∧ linkBad (s.view 0) s 1 = false ∧ (s.view 0).desc s 2 = 0
    ∧ Tab.rising (s.group 0).desc = true
    ∧ (entryOf (.apopM 3) (.conc 0) (.conc 0) (some 4)).sym = some 4 := by decide
/-- R213: field 2 is not configured. -/
theorem test_unconfigured : (match exec (.assocDispatch 0) (holding [entryOf (.asrch 0 2 2) (.conc 5) (.conc 0) none] none) with
    | .next t => (t.strand 0).adeliver | _ => none) = some ⟨0x0E, 0, 2, .assoc, false⟩ := by rfl

/-! ### Index-tree engine -/

/-- Region 3 of unit 0 holds 9 at key 4; s1 = its handle, s2 = key 4, s3 = 6, s4 names a box; operations and a refusal. -/
def treed (ops : List TOp) (bad : Option TreeRefusal) : State :=
  { pad [(1, .conc 3), (2, .conc 4), (3, .conc 6), (4, .conc (scratchAddr 0x100))] (leBytes 2 8 ++ leBytes 0 24 ++ leBytes 4 8) with
    strands := [(0, { strandWith [(1, .conc 3), (2, .conc 4), (3, .conc 6), (4, .conc (scratchAddr 0x100))] with
      refusal := bad, outs := [(7, 5)], syms := [(0, ⟨.tree, 2, none, false, false, false, 0, none⟩), (1, ⟨.tree, 2, none, false, false, false, 0, none⟩)] })]
    regions := [(3, { region with nodes := [(0, ⟨[(4, 9)], [], []⟩)], pages := [77] })]
    nextTree := 6
    treeOps := ops }
/-- That region. -/
def leaf : Region := { region with nodes := [(0, ⟨[(4, 9)], [], []⟩)], pages := [77] }
/-- An operation on it. -/
def treeOp (work : TWork) (syms : List Nat) (out : Option Nat) : TOp := ⟨5, 3, 1, 0, work, syms, out, false⟩
theorem witness_tree_issue : let s := treed [] none
    s.guarded h0 = true ∧ Tab.find s.regions 3 = some leaf ∧ leaf.closing = false ∧ leaf.ofCtx s s.here.ctx = true
    ∧ s.here.sources [3, 1, 2] = some ([6, 3, 4], s.here) ∧ (4 : Nat) < 2 ^ leaf.width
    ∧ s.here.sources [1, 2] = some ([3, 4], s.here) ∧ s.here.sources [1, 4] = some ([3, scratchAddr 0x100], s.here)
    ∧ s.here.sources [1] = some ([3], s.here) ∧ s.here.freeSym = some 2 ∧ (scratchAddr 0x100).toNat % 64 = 0
    ∧ leaf.boxBad ((data.record 0x180)) = false ∧ data.local (scratchAddr 0x180) 0x180 64 = true := by decide
theorem witness_spwait : (treed [treeOp (.ld 4) [0] none] none).treeBusy 0 = true ∧ (treed [] none).treeBusy 0 = false
    ∧ (treed [] none).here.refusal = none ∧ (treed [] (some ⟨0x17, 5, 3⟩)).here.refusal = some ⟨0x17, 5, 3⟩ := by decide
theorem test_spwait_delivers : exec (.spwait h0) (treed [] (some ⟨0x17, 5, 3⟩)) = .next (trapAt ⟨0x17, 5, 3, .cmd, false⟩
    (treed [] (some ⟨0x17, 5, 3⟩)) ((treed [] (some ⟨0x17, 5, 3⟩)).setHere { (treed [] (some ⟨0x17, 5, 3⟩)).here with refusal := none })) := rfl
theorem witness_tree_applies : let s := treed [treeOp (.ld 4) [0] none] none
    s.treeOps = [] ++ treeOp (.ld 4) [0] none :: [] ∧ Tab.rising s.regions = true ∧ Tab.rising s.strands = true
    ∧ Tab.find s.regions 3 = some leaf ∧ leaf.uid = 1 ∧ leaf.bad = false ∧ leaf.faulted = false ∧ leaf.pairs = [(4, 9)]
    ∧ Tab.find (s.strand 0).outs 7 = some 5 ∧ leaf.nodes = [(0, ⟨[(4, 9)], [], []⟩)] ∧ leaf.root = 0 ∧ leaf.depth = 1
    ∧ leaf.pages ≠ [] ∧ Tab.find ({ s with regions := [] } : State).regions 3 = none := by decide
theorem test_tree_load : (match exec (.treeOpApply 0 3) (treed [treeOp (.ld 4) [0] none] none) with
    | .next t => t.strand 0 | _ => Strand.reset) = ((treed [] none).strand 0).resolve 0 9 := by rfl
/-- A descriptor of one dimension of 8 bits, 8-byte elements and one page, whose pool a kept translation gives. -/
def pooling : State :=
  { pad [(1, .conc (scratchAddr 0x100)), (2, .conc 3), (3, .conc 0x10000)]
      (leBytes 0x10000 8 ++ leBytes 1 8 ++ leBytes (8 + 3 * 2 ^ 36) 8) with
    ctxs := [(0, bootCtx 0)]
    dies := [(0, { Die.reset with tlb := [⟨0, 0x10000, false, 0x40012377, 0⟩] })]
    regions := [(3, leaf)] }
theorem witness_pool : pooling.guarded h0 = true ∧ pooling.granted .wr true 0x10000 ⟨0, 0x10000, false, 0x40012377, 0⟩ 0x40010000 = true
    ∧ pooling.pooled (0x40010000 / 65536) = false ∧ pooling.here.sources [1] = some ([scratchAddr 0x100], pooling.here)
    ∧ pooling.local (scratchAddr 0x100) 0x100 64 = true ∧ descriptorBad (pooling.record 0x100) = false
    ∧ (pooling.record 0x100).getD 0 0 = 0x10000 ∧ bits ((pooling.record 0x100).getD 1 0) 0 16 = 1
    ∧ pooling.freeSlot 0 = some 0 ∧ pooling.here.sources [2, 3] = some ([3, 0x10000], pooling.here)
    ∧ Tab.find pooling.regions 3 = some leaf ∧ (0x10000 : Word).toNat % 65536 = 0 := by decide
/-- The same translation, with one bit of its entry changed: each check of R158 has what it stops. -/
theorem witness_checks : let s (pte : Word) (status : Word) : State :=
      { mapped with dies := [(0, { Die.reset with tlb := [⟨0, 0x10000, false, pte, 0⟩] })]
                    strands := [(0, { mapped.here with status := status })] }
    (s 0x40010377 1).translated 0x10000 ⟨0, 0x10000, false, 0x40010377, 0⟩ = true
    ∧ (s 0x400103F7 1).worldOf 0x40010000 = false ∧ (0x40010367 : Word).getLsbD 4 = false
    ∧ ((s 0x40010337 0).here.sup = false ∧ (0x40010337 : Word).getLsbD 6 = false) ∧ (0x40012377 : Word).getLsbD 13 = true
    ∧ bits (0x4001037F : Word) 2 2 = 3 ∧ (mapped.placeOf 0x3F000000).isOk = false ∧ bits (0x100000000000000 : Word) 56 8 ≠ 0 := by
  decide

/-! ### Memory-side units, system functions and links -/

/-- s1 = frame 5, s2 = class 0, s3 = 900, s4 = 2 MiB, s5 = 128. -/
def frames : State :=
  { one (strandWith [(1, .conc 5), (2, .conc 0), (3, .conc 900), (4, .conc 0x200000), (5, .conc 128)]) with
    ctxs := [(0, bootCtx 0)], frames := [(6, ⟨2, false, true⟩)], promoted := [(9 * 16384, 5 * 16384)] }
theorem witness_frames : (frames.guarded h0 && frames.here.sup && frames.here.takes 6) = true
    ∧ frames.here.sources [1] = some ([5], frames.here) ∧ frames.here.sources [3] = some ([900], frames.here)
    ∧ frames.here.sources [1, 2] = some ([5, 0], frames.here) ∧ frames.here.sources [3, 2] = some ([900, 0], frames.here)
    ∧ bits (0 : Word) 0 2 ≠ 3 ∧ bits (0 : Word) 3 61 = 0 ∧ frames.here.secure = false
    ∧ (frames.frame 6).world = true ∧ (frames.frame 5).world = false ∧ frames.frameBusy 5 = false
    ∧ frames.frameMapped 5 = false ∧ frames.framePooled 5 = false ∧ ({ frames with promoted := [] } : State).framePromoted 5 = false
    ∧ mapped.frameMapped 1 = true ∧ ({ frames with regions := [(3, leaf)] } : State).framePooled 0 = true := by decide
/-- In the secure state. -/
theorem witness_frames_secure : let s : State := { frames with strands := [(0, { frames.here with status := 0x81 })] }
    s.here.secure = true ∧ s.here.sup = true ∧ s.guarded h0 = true := by decide
theorem test_rclass_read : exec (.rclassRead h0 6 3) frames
    = .next (frames.completes h0 8 (frames.here.variable 6 0xFFFFFFFFFFFFFFFF)) := rfl
theorem witness_memory_side : frames.here.sources [1] = some ([5], frames.here) ∧ frames.windowBusy 5 = false
    ∧ frames.here.sources [1, 2] = some ([5, 0], frames.here) ∧ bits (0 : Word) 3 43 = 0 ∧ bits (0 : Word) 17 47 = 0
    ∧ bits (900 : Word) 3 43 ≠ 0 ∧ frames.here.sources [4, 5] = some ([0x200000, 128], frames.here)
    ∧ 0x200000 + (128 : Word).toNat ≤ 768 * 2 ^ 30 ∧ frames.localPa 0xBFFFFFFF80 = some 0xBFFFFFFF80
    ∧ 768 * 2 ^ 30 < 0xBFFFFFFF80 + (256 : Nat) ∧ (0x200000 : Word).toNat % 128 = 0 ∧ (128 : Word).toNat % 128 = 0 ∧ frames.localPa 0x200000 = some 0x200000
    ∧ frames.here.sources [5, 1] = some ([128, 5], frames.here) ∧ (900 : Word).toNat % 128 ≠ 0
    ∧ frames.here.sources [1, 5] = some ([5, 128], frames.here) ∧ frames.here.sources [2, 1] = some ([0, 5], frames.here) := by
  decide
theorem test_peerw_open : exec (.peerwOpen h0 6 1 2) frames = .next (frames.acts h0 (frames.here.variable 6 0)
    fun t => { t with windows := [(5, 8)] }) := rfl
/-- A message at byte 0x100; a bound inbox with one message; a window; a queue of 4 records to the host. -/
def messages (bound : Option Nat) (msgs : List (List Byte)) (hrtail : Word) : State :=
  { pad [(1, .conc (scratchAddr 0x100)), (2, .conc 5), (3, .conc 70), (4, .conc 4), (5, .conc 7)] [1, 2, 3] with
    ctxs := [(0, bootCtx 0)]
    ramir := [(2, ⟨bound, msgs, []⟩)], windows := [(5, 8)]
    mgmt := { Mgmt.reset with state := 1, hrbase := 0x1000, hrcnt := 4, hrtail := hrtail } }
theorem witness_system : let s := messages (some 0) [List.replicate 64 7] 3
    s.guarded h0 = true ∧ s.here.takes 6 = true ∧ s.here.sup = true ∧ s.here.secure = false
    ∧ s.here.sources [1] = some ([scratchAddr 0x100], s.here) ∧ s.local (scratchAddr 0x100) 0x100 64 = true
    ∧ s.mgmt.hrcnt ≠ 0 ∧ s.mgmt.hrtail.toNat < s.mgmt.hrhead.toNat + s.mgmt.hrcnt.toNat ∧ s.here.sources [4] = some ([4], s.here)
    ∧ (let t := messages none [] 4; t.mgmt.hrhead.toNat + t.mgmt.hrcnt.toNat ≤ t.mgmt.hrtail.toNat)
    ∧ (s.ramirOf 2).bind = some s.here.ctx ∧ (s.ramirOf 2).msgs = [List.replicate 64 7] ∧ (s.ramirOf 3).bind ≠ some s.here.ctx
    ∧ (messages (some 0) [] 0).ramirOf 2 = ⟨some 0, [], []⟩ ∧ s.here.sources [1, 2] = some ([scratchAddr 0x100, 5], s.here)
    ∧ s.here.syms = [] ∧ s.remotes = [] ∧ (Tab.get 0 s.windows 5).getLsbD 3 = true := by decide
theorem test_pmsg_wait : exec (.pmsgWait h0 6 2) (messages (some 0) [] 0)
    = .next (waitAt .plain (messages (some 0) [] 0) (messages (some 0) [] 0)) := rfl
/-- R504: group 37 of a die, under permit 4. -/
theorem test_power_level : ({ two with dies := [(0, { Die.reset with apermit := 4 })] } : State).blockState 1 37 = ⟨0, false, 25⟩ := by
  decide
/-- A strand in the debug state; an image of firmware; an answered message. -/
def watched : State :=
  { messages none [] 0 with
    strands := [(0, { (messages none [] 0).here with status := 0x81 }), (7, { Strand.reset with dbg := true, s := [(5, .conc 3)] })]
    remotes := [⟨1, .strand 0, some 0, .peer 5 0, 1, .message 2 [], 0, 0, some (.data [0])⟩] }
theorem witness_debugger : watched.guarded h0 = true ∧ watched.here.sources [5] = some ([7], watched.here)
    ∧ watched.here.sources [5, 2] = some ([7, 5], watched.here) ∧ (watched.strand 7).dbg = true ∧ (watched.strand 7).pend = []
    ∧ (watched.strand 7).reg 5 = .conc 3 ∧ watched.here.sources [5, 3] = some ([7, 70], watched.here)
    ∧ bits (0x0A00000000000000 : Word) 0 57 = 0 ∧ bits (0x0A00000000000000 : Word) 57 7 = 5 ∧ bits (70 : Word) 0 57 ≠ 0
    ∧ (watched.strand 8).dbg = false ∧ (watched.strand 8).halt ≠ .halted ∧ watched.here.secure = true
    ∧ (watched.remotes.all fun r => r.isMessage 0) = true ∧ (0 : BitVec 8).toNat ≤ 2
    ∧ imageBad ((image 3).scratch 0x100 64) 3 = false ∧ (image 3).local (scratchAddr 0x100) 0x100 2668 = true := by decide
theorem witness_quote : let s : State := { data with strands := [(0, strandWith [(1, .conc (scratchAddr 0x1000)),
      (2, .conc (scratchAddr 0x100))])] }
    s.here.sources [2, 1] = some ([scratchAddr 0x100, scratchAddr 0x1000], s.here) ∧ s.local (scratchAddr 0x100) 0x100 64 = true
    ∧ s.local (scratchAddr 0x1000) 0x1000 3744 = true ∧ (scratchAddr 0x1000).toNat % 64 = 0 := by decide

/-! ### Host, links and device events -/

/-- A PCIe requester. -/
def requester (bar2 : Bool) : PcieSource := ⟨0, bar2, none, false⟩
/-- The module runs; byte 0x10000 of memory holds 5; line 0x30000 / 64 is poisoned. -/
def served (st : BitVec 8) : State :=
  { two with
    mgmt := { Mgmt.reset with state := st, mboxseq := 1 }, mem := [(0x10000, 5)], poisoned := [0xC00], ctxs := [(0, bootCtx 0)]
    ramir := [(2, ⟨some 0, [], []⟩), (3, ⟨some 0, List.replicate 16 [], []⟩)] }
theorem witness_host : (served 2).mgmt.state = 2 ∧ (2 : Word) ≠ (served 2).mgmt.mboxseq ∧ (served 1).mgmt.state ≠ 2
    ∧ (served 1).bar2Open (requester true) 0x10000 8 = true ∧ (served 0).bar2Open (requester true) 0x10000 8 = false
    ∧ (served 1).sound 0x10000 8 = true ∧ 0x10000 % 65536 + 8 ≤ 65536 ∧ 0x30000 / 64 ∈ (served 1).poisoned
    ∧ (served 1).bar2Open (requester true) 0x30000 8 = true ∧ leNat (Memory.bytes (served 1).mem 0x10000 8) = 5
    ∧ ((served 1).ramirOf 2).bind.isSome = true ∧ ((served 1).ramirOf 2).msgs.length < 16
    ∧ 16 ≤ ((served 1).ramirOf 3).msgs.length ∧ ((served 1).ramirOf 4).bind = none
    ∧ (List.replicate 64 (0 : Byte)).length = 64 := by decide
theorem test_inbound_add : (match exec (.inboundPcieAtomic (requester true) 0x10000 0 3 2 0) (served 1) with
    | .next t => t.mem | _ => []) = [(0x10000, 7)] := by rfl
/-- Requests that have left: a page of the host, a read of a peer for strand 0, one for its symbol 0. -/
def outstanding : State :=
  { late with
    ctxs := [(0, bootCtx 0)]
    ats := [(0, 3), (0, 4)]
    remotes := [⟨1, .agent 0, some 0, .host 0x30000, 0, .page, 0, 0, none⟩, ⟨2, .strand 0, some 0, .peer 5 0, 2, .read, 0, 0, none⟩,
      ⟨3, .symbol 0 0, some 0, .peer 5 0, 2, .read, 0, 0, none⟩, ⟨4, .late, none, .host 0, 8, .read, 0, 0, none⟩,
      ⟨5, .agent 9, some 9, .host 0x50000, 0, .page, 0, 0, none⟩] }
theorem witness_answers : let find (i : Nat) := outstanding.remotes.find? fun q => q.id == i && q.ans.isNone
    (outstanding.remotes.all fun q => q.id != 9) = true ∧ ((find 1).map Remote.isPage) = some true
    ∧ ((find 1).map Remote.place) = some (.host 0x30000) ∧ (Tab.find outstanding.ctxs 0).isSome = true
    ∧ ((find 5).map Remote.ctx) = some (some 9) ∧ Tab.find outstanding.ctxs 9 = none ∧ ((find 2).map Remote.who) = some (.strand 0)
    ∧ ((find 3).map Remote.who) = some (.symbol 0 0) ∧ ((find 4).map Remote.who) = some .late
    ∧ (find 4).map Remote.isPage = some false ∧ (Tab.find (outstanding.strand 0).syms 0).map Sym.deadline = some none ∧ (outstanding.ctxOf 0).pasid = 0 := by decide
theorem test_invalidate : (match exec (.atsInvalidation 0 0x30000) { outstanding with remotes := [] } with
    | .next t => t.ats | _ => []) = [(0, 4)] := by rfl
/-- A read of the peer for symbol 0 that is past its deadline. -/
def overdue : State :=
  { outstanding with
    strands := [(0, { late.here with syms := [(0, ⟨.tree, 0, some 5, false, false, false, 0, none⟩)] })], cycle := 6 }
theorem witness_overdue : (overdue.remotes.find? fun q => q.id == 3 && q.ans.isNone).map Remote.who = some (.symbol 0 0)
    ∧ Tab.find (overdue.strand 0).syms 0 = some ⟨.tree, 0, some 5, false, false, false, 0, none⟩ ∧ (5 : Word).toNat ≤ overdue.cycle.toNat
    ∧ Tab.rising overdue.strands = true ∧ Tab.rising (overdue.strand 0).s = true ∧ (overdue.strand 0).reg 1 = .aff 0 2 3 := by decide
/-- R200: the answer is dropped and counted. -/
theorem test_late_answer : (match exec (.remoteReadCompletion 3 (.data [1, 0])) overdue with
    | .next t => (t.late, (t.strand 0).reg 1) | _ => (0, .conc 0)) = (1, .poison .timeout) := by rfl
/-- Symbol 0 reads; symbol 1 adds 2 to the same byte, with a deadline of 5; an access with destination s0 reads another. -/
def symbols : State :=
  { pad [] [5] with
    strands := [(0, { strandWith [(1, .aff 0 2 3)] with syms := [
      (0, ⟨.load 0 (.scratch 0 0x100) 1 [], 1, none, false, false, false, 0, none⟩),
      (1, ⟨.amo 0 (.scratch 0 0x100) 1 .add 2, 1, some 5, false, false, false, 1, none⟩),
      (2, ⟨.tree, 2, none, false, false, false, 0, none⟩),
      (3, ⟨.load 0 (.scratch 0 0x180) 1 [], 1, some 5, false, false, false, 1, none⟩),
      (36, ⟨.load 0 (.scratch 0 0x1C0) 1 [], 1, none, false, false, false, 0, none⟩)] })]
    cycle := 6 }
theorem witness_symbols : let st := symbols.strand 0
    st.syms.filter (fun p => p.1 % 32 == 0) = [(0, ⟨.load 0 (.scratch 0 0x100) 1 [], 1, none, false, false, false, 0, none⟩)]
    ∧ st.symHeld 0 ⟨.load 0 (.scratch 0 0x100) 1 [], 1, none, false, false, false, 0, none⟩ = false
    ∧ st.symHeld 1 ⟨.amo 0 (.scratch 0 0x100) 1 .add 2, 1, some 5, false, false, false, 1, none⟩ = true
    ∧ st.symHeld 5 ⟨.amo 0 (.scratch 0 0x140) 1 .add 2, 1, none, false, false, false, 0, none⟩ = false
    ∧ st.symHeld 2 ⟨.tree, 2, none, false, false, false, 0, none⟩ = false
    ∧ (st.syms.filter (fun p => p.1 % 32 == 4)).map Prod.fst = [36] ∧ Tab.rising st.s = true ∧ st.reg 1 = .aff 0 2 3 := by decide
theorem witness_symbols_overdue : (5 : Word).toNat ≤ symbols.cycle.toNat
    ∧ (symbols.strand 0).symHeld 3 ⟨.load 0 (.scratch 0 0x180) 1 [], 1, some 5, false, false, false, 1, none⟩ = false
    ∧ (symbols.strand 0).syms.filter (fun p => p.1 % 32 == 3)
      = [(3, ⟨.load 0 (.scratch 0 0x180) 1 [], 1, some 5, false, false, false, 1, none⟩)]
    ∧ Tab.find (symbols.strand 0).syms 3 = some ⟨.load 0 (.scratch 0 0x180) 1 [], 1, some 5, false, false, false, 1, none⟩ := by decide
/-- Entry 0 is held behind entry 32, which shares its number in events: an atomic of a plain AMO for s5, then a load of the same
byte for s6; entry 33 stores another byte. -/
def held : State :=
  { pad [(1, .aff 2 2 3)] [5] with
    strands := [(0, { strandWith [(1, .aff 2 2 3)] with
      outs := [(5, 40), (6, 41)]
      syms := [
        (0, ⟨.load 0 (.scratch 0 0x100) 1 [], 1, none, false, false, false, 1, some ⟨41, [(6, 0)], 1, true⟩⟩),
        (32, ⟨.rmw 0 (.scratch 0 0x100) 1 (.rmw .add 0xFA), 1, none, false, false, false, 0, some ⟨40, [(5, 0)], 1, false⟩⟩),
        (33, ⟨.store 0 (.scratch 0 0x101) [9] .alloc, 1, none, false, false, false, 0, none⟩)] })] }
theorem witness_held : let st := held.strand 0
    (st.syms.filter (fun p => p.1 % 32 == 0)).map Prod.fst = [0, 32]
    ∧ (st.syms.filter (fun p => p.1 % 32 == 1)).map Prod.fst = [33]
    ∧ (st.syms.map fun p => st.symHeld p.1 p.2) = [true, false, false] := by decide
/-- R93, R189: event 0 finds entry 0 held and performs entry 32: s5 is the old byte, and 5 + 0xFA stands in memory. -/
theorem test_held_atomic : (match exec (.symbolResolve 0 0) held with
    | .next t => ((t.strand 0).reg 5, (t.strand 0).syms.map Prod.fst, t.mem.length) | _ => (.conc 0, [], 0))
    = (.conc 5, [0, 33], 1) := by rfl
/-- The load, once nothing is before it: byte 0xFF, sign-extended (R147); the store writes its byte. -/
theorem test_held_load : (match exec (.symbolResolve 0 0) held with
    | .next t => (match exec (.symbolResolve 0 0) t with | .next u => (u.strand 0).reg 6 | _ => .conc 0) | _ => .conc 0)
    = .conc 0xFFFFFFFFFFFFFFFF := by rfl
theorem test_held_store : (match exec (.symbolResolve 0 1) held with
    | .next t => (leNat (Memory.bytes t.mem (scratchKey 0 0x101) 1), (t.strand 0).syms.map Prod.fst) | _ => (0, []))
    = (9, [0, 32]) := by rfl
/-- R199: 2 × 5 + 3. -/
theorem test_resolves : (match exec (.symbolResolve 0 0) symbols with | .next t => (t.strand 0).reg 1 | _ => .conc 0)
    = .conc 13 := by rfl
theorem witness_events : let o (failed : BitVec 3) : BootOutcome := ⟨failed, 7, 0x1000, 0, 1, 1, 2⟩
    (o 0).failed = 0 ∧ 1 ≤ (o 6).failed.toNat ∧ (o 6).failed.toNat ≤ 6 ∧ (two.frame 0).cls = 2
    ∧ usableBytes 2 ≤ (0x3F000000 : BitVec 52).toNat % 2 ^ 30 ∧ (0x40 : BitVec 52).toNat < hbmEnd
    ∧ Tab.find ({ two with flips := [(1, [3])] } : State).flips ((0x40 : BitVec 52).toNat / 64) = some [3]
    ∧ (3 : Nat) < [128, 512, 8, 1, 12, 1, 8, 1].getD 2 0 := by decide
/-- R498: context 0 starts on strand 0. -/
theorem test_boots : (match exec (.moduleReset ⟨0, 0, 0x1000, 0, 1, 1, 2⟩) State.reset with
    | .next t => (t.strand 0).pc | _ => 0) = 0x1000 := by rfl

/-! ### Further forms -/

/-- As `late`, with s7 = 5 × X0 + 1, an input stream z0 and an output stream z1. -/
def late2 : State :=
  { late with strands := [(0, { late.here with
      s := [(1, .aff 0 2 3), (2, .conc 7), (7, .aff 0 5 1)]
      streams := [(0, ⟨rec8, false, true, 0, [9], none⟩), (1, ⟨rec8, true, true, 0, [], none⟩)] })] }
theorem witness_symbolic_two : (late2.guarded h0 && late2.here.landed 1 && late2.here.landed 7 && late2.here.takes 49
    && late2.here.source 2 == some (7, late2.here)) = true ∧ late2.here.reg 1 = .aff 0 2 3 ∧ late2.here.reg 7 = .aff 0 5 1
    ∧ (late2.here.source 48).map Prod.fst = some 9 := by decide
/-- R194: 2 × X0 + 3 less 5 × X0 + 1. -/
theorem test_fold_two : exec (.sub h0 6 1 7) late2 = .next (late2.completes h0 8
    { late2.here with pend := [⟨6, .aff 0 (-3) 2, 1, false, none⟩] }) := rfl
theorem test_fold_to_stream : exec (.addix h0 49 1 5) late2 = .next (waitAt .symbol late2 late2) := rfl
/-- The table of symbols is full. -/
def full : State :=
  { data with strands := [(0, { data.here with
      syms := (List.range 32).map fun i => (i, ⟨.tree, 0, none, false, false, false, 0, none⟩) })] }
theorem witness_late_table : full.here.sources [1, 0] = some ([scratchAddr 0x100, 0], full.here)
    ∧ full.reaches (scratchAddr 0x100) 0x100 8 = true ∧ (∀ j, j < 32 → (Tab.find full.here.syms j).isSome = true)
    ∧ Tab.find full.here.syms 32 = none ∧ data.reaches (scratchAddr 0x100) 0x100 8 = true
    ∧ data.here.sources [1, 2] = some ([scratchAddr 0x100, 7], data.here) ∧ data.here.sources [1] = some ([scratchAddr 0x100], data.here)
    ∧ data.here.syms = [] := by decide
theorem test_ldl_waits : exec (.ldl h0 5 1 3 0 0) full
    = .next (waitAt .plain full (full.setHere { full.here with waitfree := true })) := rfl
/-- R191: an access with destination s0 takes no symbol of the table. -/
theorem test_ldl_discards : (match exec (.ldl h0 0 1 3 0 0) full with
    | .next t => t.here.syms.map Prod.fst | _ => []) = List.range 33 := by decide
theorem witness_misaligned_all : data.here.source 4 = some (scratchAddr 0x1FFFFFF, data.here)
    ∧ (scratchAddr 0x1FFFFFF + 0 * 16 + 0).toNat % 8 ≠ 0 ∧ (scratchAddr 0x1FFFFFF + 8 * 0).toNat % 8 ≠ 0
    ∧ (scratchAddr 0x1FFFFFF).toNat % 16 ≠ 0 ∧ (scratchAddr 0x1FFFFFF).toNat % 64 ≠ 0 ∧ data.here.source 0 = some (0, data.here)
    ∧ data.here.source 2 = some (7, data.here) ∧ data.here.source 3 = some (1, data.here) ∧ (0 : Word).toNat < (7 : Word).toNat := by
  decide
theorem test_cas_misaligned : exec (.cas h0 5 4 2 3 0 0 1 0) data = .next (data.traps .align 0 (scratchAddr 0x1FFFFFF)) := rfl
/-- An image of item 3 of launch 2 that goes on at 0x40, with CHECK `k` and zero elsewhere. -/
def sleeper (k : Word) : List Byte :=
  leBytes (2 ^ 48) 8 ++ List.replicate 456 0 ++ leBytes 0x40 8 ++ List.replicate 104 0 ++ leBytes 2 8 ++ leBytes 3 8
    ++ List.replicate 8 0 ++ wordBytes k ++ List.replicate 1440 0
/-- A strand that resumes that item, the image `bs` at byte 0x100 of the scratchpad. -/
def waking (bs : List Byte) : State :=
  { pad [] bs with
    strands := [(0, { strandWith [(1, .conc (scratchAddr 0x100))] with item := some ⟨2, 3, 0, 5⟩, resumed := some (0, 0) })] }
theorem Memory.bytes_part (m : Memory) (a j n k : Nat) : ((Memory.bytes m a (j + (n + k))).drop j).take n = Memory.bytes m (a + j) n := by
  induction j generalizing a with
  | zero =>
    simp only [Nat.zero_add, List.drop_zero, Nat.add_zero]
    induction n generalizing a with
    | zero => rfl
    | succ n ih => rw [Nat.add_right_comm, Memory.bytes, Memory.bytes, List.take_succ_cons, ih]
  | succ j ih =>
    rw [Nat.add_right_comm, Memory.bytes, List.drop_succ_cons, ih, Nat.add_assoc, Nat.add_comm 1 j]
theorem waking_bytes (bs : List Byte) : (waking bs).scratch 0x100 bs.length = bs := by
  have hm : (waking bs).mem = Memory.setBytes [] (scratchKey 0 0x100) bs := rfl
  have hd : dieOf (waking bs).cur = 0 := by simp [waking, pad, one, State.reset, dieOf]
  rw [State.scratch, hm, hd]
  exact Memory.bytes_setBytes [] (scratchKey 0 0x100) bs rfl
theorem waking_word (bs : List Byte) (i k : Nat) (h : 8 * i + (8 + k) = bs.length) :
    (waking bs).scratchWord 0x100 i = hdrWord bs i := by
  have e : scratchKey (dieOf (waking bs).cur) (0x100 + 8 * i) = scratchKey (dieOf (waking bs).cur) 0x100 + 8 * i := by
    simp only [scratchKey]; omega
  have hb := waking_bytes bs
  rw [State.scratch, ← h] at hb
  simp only [State.scratchWord, State.scratch, hdrWord, e, ← Memory.bytes_part _ _ _ _ k, hb]
theorem sleeper_covered (k : Word) : imageCovered (sleeper k) = imageCovered (sleeper 0) := rfl
theorem sleeper_check (k : Word) : hdrWord (sleeper k) 75 = k := by
  show BitVec.ofNat 64 (leNat (leBytes k.toNat 8)) = k
  rw [leNat_leBytes]; exact BitVec.eq_of_toNat_eq (by simp; omega)
theorem sleeper_parts (k : Word) : ((sleeper k).drop (8 * 0)).take 8 = leBytes (2 ^ 48) 8
    ∧ ((sleeper k).drop (8 * 72)).take 8 = leBytes 2 8 ∧ ((sleeper k).drop (8 * 73)).take 8 = leBytes 3 8
    ∧ ((sleeper k).drop (8 * 74)).take 8 = List.replicate 8 0 ∧ ((sleeper k).drop (8 * 58)).take 8 = leBytes 0x40 8 :=
  ⟨rfl, rfl, rfl, rfl, rfl⟩
/-- R427: an image whose CHECK is the keyed hash of what it covers passes the checks. -/
theorem witness_image_restored : let bs := sleeper (Config.keyedHash 0 (imageCovered (sleeper 0)))
    let s := waking bs
    s.guarded h0 = true ∧ s.here.sup = true ∧ s.here.takes 6 = true
    ∧ (scratchAddr 0x100).toNat % 64 = 0 ∧ s.local (scratchAddr 0x100) 0x100 strandImage = true
    ∧ s.here.sources [1] = some ([scratchAddr 0x100], s.here) ∧ s.here.queue = []
    ∧ imageStatus s (s.scratch 0x100 strandImage) = 0 ∧ s.scratchWord 0x100 74 = 0
    ∧ (s.scratchWord 0x100 58 &&& 0x00FFFFFFFFFFFFFF).toNat % 8 = 0 := by
  intro bs s
  obtain ⟨s0, s72, s73, s74, s58⟩ := sleeper_parts (Config.keyedHash 0 (imageCovered (sleeper 0)))
  have hl : bs.length = 2048 := by simp [bs, sleeper, wordBytes]
  refine ⟨by decide, by decide, by decide, by decide, by decide, by decide, rfl, ?_, ?_, ?_⟩
  · have hb : s.scratch 0x100 strandImage = bs := by
      rw [show strandImage = bs.length from hl.symm]; exact waking_bytes bs
    have w0 : hdrWord bs 0 = 2 ^ 48 := by rw [hdrWord, s0]; decide
    have w72 : hdrWord bs 72 = 2 := by rw [hdrWord, s72]; decide
    have w73 : hdrWord bs 73 = 3 := by rw [hdrWord, s73]; decide
    have w75 : hdrWord bs 75 = Config.keyedHash (s.mgmt.bootKey.getD 0) (imageCovered bs) := by
      rw [sleeper_check, sleeper_covered]; rfl
    have hh : (s.heldOf s.cur).length = 0 := rfl
    rw [hb, imageStatus, w0, w72, w73, w75, hh]
    simp only [ne_eq, not_true_eq_false, decide_false, Bool.or_false]
    rfl
  · rw [waking_word bs 74 1448 hl.symm, hdrWord, s74]; decide
  · rw [waking_word bs 58 1576 hl.symm, hdrWord, s58]; decide

/-! ### What commands of every kind ask for -/

theorem witness_dispatch_same : let s : State := { dispatching with strands := (1, { Strand.reset with
      lastCtx := some 0, lastLaunch := some 2, s := [(20, .conc 4)] }) :: [] }
    (s.age.chosenFor 1).map Prod.fst = some 2 ∧ s.age.readySusp 2 (dieOf 1) = none
    ∧ ((s.age.chosenFor 1).bind fun p => p.2.nextItem 0) = some 1 ∧ (s.age.chosenFor 1).map (fun p => p.2.pbind.isNone) = some true
    ∧ (s.strand 1).landAll.lastCtx = some 0 ∧ (s.age.chosenFor 1).map (fun p => p.2.ctx) = some 0
    ∧ Tab.rising (s.strand 1).s = true ∧ (dispatching.age.chosenFor 1).map Prod.fst = some 2
    ∧ (resuming.age.chosenFor 1).map Prod.fst = some 2 ∧ (resuming.age.readySusp 2 0).map Susp.image = some 0x4000 := by decide
/-- A pattern of elements of ESIZE `e` in the dimensions `ds` (extent and stride) from byte `base` of the scratchpad. -/
def grid (dir e : Nat) (ds : List (Nat × Nat)) (base aux : Nat) : List Word :=
  let d (i : Nat) : Word := match ds[i]? with | some (n, s) => BitVec.ofNat 64 (n + 2 ^ 24 * s) | none => 0
  [scratchAddr base, BitVec.ofNat 64 (e + 2 ^ 10 * (ds.length - 1) + 2 ^ 12 * dir), d 0, d 1, d 2, d 3, 0,
    if aux = 0 then 0 else scratchAddr aux]
/-- A command at the head of channel 3, over words from byte 0x100 of the engines' scratchpad. -/
def heading (op : XOp) (r1 r2 : List Word) (a2 : Word) (acc : List Word) (words : List Word) : State :=
  { pad [] (words.flatMap fun w => leBytes w.toNat 8) with
    clusters := [(0, { Cluster.reset with chans := [(3, ⟨8, 7, [{ command op r1 r2 none none with a2 := a2, acc := acc }], []⟩)] })]
    dies := [(0, { Die.reset with owner := [0, 1, 2] })] }
/-- The command is there as R334 has it run, over patterns of whole bytes. -/
def heads (op : XOp) (r1 r2 : List Word) (words : List Word) : Bool :=
  let s := heading op r1 r2 0 [] words
  (match (s.chan 0 3).queue with
    | [e] => e.op == op && e.stop.isNone && e.value.isNone && e.elem == 0 && e.slots.isEmpty && e.part.isEmpty && e.burgee.isNone
    | _ => false) && s.remotes.isEmpty && s.wf && decide (1 ≤ patEsize r1) && decide (patEsize r1 ≤ 4) && decide (1 ≤ patEsize r2)
    && decide (patEsize r2 ≤ 4)
/-- Each element of `r` lies in the engines' scratchpad at its offset. -/
def lying (r : List Word) (off : Nat → Nat) : Bool :=
  (List.range (recCount r)).all fun i => (heading .copy r r 0 [] []).engineLocal 0 (patAddr r i).1 (off i) (patBytes r)
/-- Two indices, 1 and 0, at 0x100, and two table entries at 0x110. -/
def indexed : List Word := [1, 0, 0xAA, 0xBB]
theorem witness_gather : heads .gath (grid 0 4 [(2, 8)] 0x100 0x110) (grid 1 4 [(2, 8)] 0x200 0) indexed = true
    ∧ lying (grid 0 4 [(2, 8)] 0x100 0x110) (fun i => 0x100 + 8 * i) = true
    ∧ lying (grid 1 4 [(2, 8)] 0x200 0) (fun i => 0x200 + 8 * i) = true
    ∧ (let s := heading .gath (grid 0 4 [(2, 8)] 0x100 0x110) (grid 1 4 [(2, 8)] 0x200 0) 0 [] indexed
      leNat (s.pad 0 0x100 8) = 1 ∧ leNat (s.pad 0 0x108 8) = 0
      ∧ s.engineLocal 0 (scratchAddr 0x110 + BitVec.ofInt 64 (1 * 8)) 0x118 8 = true
      ∧ s.engineLocal 0 (scratchAddr 0x110 + BitVec.ofInt 64 (0 * 8)) 0x110 8 = true) := by decide
/-- R351: entry 1, then entry 0. -/
theorem test_gather : padAfter (exec (.transferCommandStart 0 3)
    (heading .gath (grid 0 4 [(2, 8)] 0x100 0x110) (grid 1 4 [(2, 8)] 0x200 0) 0 [] indexed)) 0x200 16
    = leBytes 0xBB 8 ++ leBytes 0xAA 8 := by decide
theorem test_scatter : padAfter (exec (.transferCommandStart 0 3)
    (heading .scat (grid 0 4 [(2, 8)] 0x100 0x200) (grid 0 4 [(2, 8)] 0x110 0) 0 [] indexed)) 0x200 16
    = leBytes 0xBB 8 ++ leBytes 0xAA 8 := by decide
/-- Three codes of each operand, a control sum of their first, and a place for the record. -/
theorem witness_reduce : let r1 := grid 0 1 [(2, 1)] 0x100 0x108
    let r2 := grid 1 1 [(2, 1)] 0x102 0x140
    heads (.red false 0) r1 r2 [0xFF030201, 3] = true ∧ redSize 0 = 1 ∧ lying r1 (fun i => 0x100 + i) = true
    ∧ lying r2 (fun i => 0x102 + i) = true ∧ patAux r1 ≠ 0
    ∧ (heading .copy r1 r2 0 [] []).engineLocal 0 (patAux r1) 0x108 8 = true
    ∧ (heading .copy r1 r2 0 [] []).engineLocal 0 (patAux r2) 0x140 32 = true
    ∧ patAux (grid 0 1 [(2, 1)] 0x100 0) = 0 := by decide
/-- R354: 3 + 1, and 255 + 2 wraps. -/
theorem test_reduce : padAfter (exec (.transferCommandStart 0 3)
    (heading (.red false 0) (grid 0 1 [(2, 1)] 0x100 0) (grid 1 1 [(2, 1)] 0x102 0) 0 [] [0xFF030201])) 0x102 2 = [4, 1] := by
  decide +kernel
/-- A picture of 3 by 2 bytes at 0x110, of which patches of 2 by 2 are taken from the point at 0x100. -/
theorem witness_patches : let r1 := grid 0 1 [(3, 1), (2, 3)] 0x110 0
    let r2 := grid 1 1 [(2, 1), (2, 2), (1, 4)] 0x200 0x100
    heads .gath2 r1 r2 [1 + 2 ^ 32, 0, 0x060504030201] = true ∧ patEsize r1 = patEsize r2 ∧ patNdim r2 = 2
    ∧ lying r2 (fun i => 0x200 + i) = true ∧ lying r1 (fun i => 0x110 + i) = true
    ∧ (heading .copy r1 r2 0 [] []).engineLocal 0 (patAux r2 + BitVec.ofNat 64 (8 * (3 / (2 * 2)))) 0x100 8 = true := by decide
/-- R350: from column 1 and row 1 on; the second row lies outside. -/
theorem test_patches : padAfter (exec (.transferCommandStart 0 3) (heading .gath2 (grid 0 1 [(3, 1), (2, 3)] 0x110 0)
    (grid 1 1 [(2, 1), (2, 2), (1, 4)] 0x200 0x100) 0 [] [1 + 2 ^ 32, 0, 0x060504030201])) 0x200 4 = [5, 6, 0, 0] := by decide
theorem witness_slide : let r1 := grid 0 1 [(2, 1)] 0x108 0
    let r2 := grid 1 1 [(4, 1)] 0x100 0
    heads .slide r1 r2 [0x04030201, 0x0605] = true ∧ patEsize r1 = patEsize r2 ∧ lying r1 (fun i => 0x108 + i) = true
    ∧ lying r2 (fun i => 0x100 + i) = true ∧ recCount r1 = patExtent r1 (patNdim r1) * rowOf r2 ∧ recCount r1 ≤ recCount r2 := by
  decide
theorem test_slide : padAfter (exec (.transferCommandStart 0 3)
    (heading .slide (grid 0 1 [(2, 1)] 0x108 0) (grid 1 1 [(4, 1)] 0x100 0) 0 [] [0x04030201, 0x0605])) 0x100 4 = [3, 4, 5, 6] := by
  decide
/-- An element of a frame of class 2, which a kept translation gives. -/
def classed : State :=
  { heading .xclass ([0x10000, 4, 1] ++ List.replicate 5 0) (grid 1 4 [(1, 8)] 0x200 0) 0 [] [] with
    ctxs := [(0, bootCtx 0)], mem := [(0x40010000, 0x77)], frames := [(1, ⟨2, false, false⟩)]
    dies := [(0, { Die.reset with owner := [0], tlb := [⟨0, 0x10000, false, 0x40010377, 0⟩] })] }
theorem witness_xclass : classed.lineClass 0x40010000 ≠ 0 ∧ (patAddr ([0x10000, 4, 1] ++ List.replicate 5 0) 0).1.toNat % 65536 + 8 ≤ 65536
    ∧ (match (classed.chan 0 3).queue with
      | [e] => (match check (e.eng 0 3).w .rd 0x10000 classed with
          | .ok (.mem f, _) t => f == 0x40010000 && t == classed | _ => false)
        && (match readPlace (e.eng 0 3).w (.mem 0x40010000) 8 0x10000 classed with
          | .ok (bs, none) t => leNat bs == 0x77 && t == classed | _ => false)
      | _ => false) = true := by decide
/-- A region with one pair, 4 and 9, and the box of all its keys from 3. -/
theorem witness_dense : let r2 := [scratchAddr 0x200, 4 + 2 ^ 12, 2 + 2 ^ 24 * 8, 0, 0, 0, 0, 3]
    let r1 : List Word := [3, 0, 0, 0, 4, 0, 0, 0]
    let b : Region := { region with nodes := [(0, ⟨[(4, 9)], [], []⟩)] }
    let s : State := { heading .dense r1 r2 0 [1] [] with regions := [(3, b)] }
    Tab.find s.regions (bits (patAux r2) 0 16) = some b ∧ b.bad = false ∧ b.faulted = false ∧ b.uid = ([1] : List Word)[0].toNat
    ∧ s.treeOps = [] ∧ lying r2 (fun i => 0x200 + 8 * i) = true
    ∧ padAfter (exec (.transferCommandStart 0 3) s) 0x200 16 = leBytes 0 8 ++ leBytes 9 8 := by decide
/-- Records of 8 bytes: 2 in the prefix at 0x100, a ring of 4 at 0x110 with tags at 0x130; ordinals 1 and 3 at 0x140. -/
def paged : List Word :=
  [scratchAddr 0x100, 2 + 2 ^ 32 * 4, scratchAddr 0x110, scratchAddr 0x130, 8, scratchAddr 0x140, 2, scratchAddr 0x180]
/-- Those bytes. -/
def pagedWords : List Word := [0xA0, 0xA1, 0xB0, 0xB1, 0xB2, 0xB3, 0, 0, 1, 3]
theorem witness_paged : let s := heading .kv paged [] (scratchAddr 0x200) [] pagedWords
    let lies (va : Word) (off n : Nat) := s.engineLocal 0 va off n
    (s.chan 0 3).queue.map (fun e => (e.op, e.acc)) = [(.kv, [])]
    ∧ lies (paged.getD 5 0 + BitVec.ofNat 64 (8 * 0)) 0x140 8 = true ∧ lies (paged.getD 5 0 + BitVec.ofNat 64 (8 * 1)) 0x148 8 = true
    ∧ leNat (s.pad 0 0x140 8) = 1 ∧ leNat (s.pad 0 0x148 8) = 3 ∧ lies (scratchAddr 0x200 + BitVec.ofNat 64 (1 * 8)) 0x208 8 = true
    ∧ lies (paged.getD 0 0 + BitVec.ofNat 64 (1 * 8)) 0x108 8 = true ∧ lies (paged.getD 3 0 + BitVec.ofNat 64 (4 * 1)) 0x134 4 = true
    ∧ lies (paged.getD 2 0 + BitVec.ofNat 64 (1 * 8)) 0x118 8 = true ∧ lies (paged.getD 7 0) 0x180 ((2 + 7) / 8) = true := by decide
/-- R357: both are there, so the mask is 3. -/
theorem test_paged : padAfter (exec (.transferCommandStart 0 3) (heading .kv paged [] (scratchAddr 0x200) [] pagedWords)) 0x180 1
    = [3] := by decide +kernel
/-- One page, its digest and where it goes. -/
theorem witness_pages : let r : List Word := [scratchAddr 0x10000, 1, scratchAddr 0x100, scratchAddr 0x20000, 0, 0, 0, 0]
    let s := heading .ckpt r [] 0 [] []
    (s.chan 0 3).queue.map (fun e => (e.op, e.acc)) = [(.ckpt, [])] ∧ bits (r.getD 1 0) 0 32 = 1
    ∧ s.engineLocal 0 (r.getD 0 0 + BitVec.ofNat 64 (0 * 65536)) 0x10000 65536 = true
    ∧ s.engineLocal 0 (r.getD 2 0 + BitVec.ofNat 64 (0 * 32)) 0x100 32 = true
    ∧ s.engineLocal 0 (r.getD 3 0 + BitVec.ofNat 64 (0 * 65536)) 0x20000 65536 = true := by decide

/-! ### What matrix commands of every kind ask for -/

/-- The engine of cluster 0 has one command with operands `a` and `b`, under `cfg`; tile 0 is FP64 with 1.0 and tile 1 FP32
with 1.0 and 2.0; words from byte 0x100 of the engines' scratchpad. -/
def engine (op : MOp) (a b : Nat) (cfg words : List Word) : State :=
  { pad [] (words.flatMap fun w => leBytes w.toNat 8) with
    clusters := [(0, { Cluster.reset with mx := { Matrix.reset with
      queue := [{ mcmd op false none with a1 := BitVec.ofNat 64 a, a2 := BitVec.ofNat 64 b }], next := 2, cfg := cfg
      tiles := [(0, ⟨true, [(0, 0x3FF0000000000000)]⟩), (1, ⟨false, [(0, 0x3F800000), (1, 0x40000000)]⟩)] } })]
    dies := [(0, { Die.reset with owner := [0] })] }
/-- A byte of the scratchpad as an address. -/
def sp (off : Nat) : Nat := (scratchAddr off).toNat
/-- The engine runs `op` next. -/
def engaged (op : MOp) (a b : Nat) (cfg : List Word) : Bool :=
  let s := engine op a b cfg []
  (match (s.mx 0).queue with | [e] => e.op == op && !e.finished && e.stop.isNone && e.start == 0 | _ => false)
    && s.remotes.isEmpty && s.wf && (s.die 0).tasks.isEmpty && Tab.rising (s.mx 0).tiles
    && Tab.rising ((s.mx 0).tile 0).cells && Tab.rising ((s.mx 0).tile 1).cells
/-- An operand that lies in the engines' scratchpad, aligned. -/
def there (va : Word) (off n : Nat) : Bool := off % n == 0 && (engine (.zero 1) 0 0 [] []).engineLocal 0 va off n
theorem witness_tile_store : engaged (.sta 1 1 1) (sp 0x100) 8 cfg64 = true ∧ ((engine (.sta 1 1 1) 0 8 cfg64 []).mx 0 |>.tile 1).f64 = false
    ∧ (∀ i, i < 2 → ∀ j, j < 2 →
      there (BitVec.ofNat 64 (sp 0x100) + BitVec.ofNat 64 i * 8 + BitVec.ofNat 64 (j * 4)) (0x100 + 8 * i + 4 * j) 4 = true) := by decide
/-- R384: rows of 1.0, 2.0 and of zeros, 8 bytes apart. -/
theorem test_tile_store : padAfter (exec (.matrixCommandRun 0) (engine (.sta 1 1 1) (sp 0x100) 8 cfg64 [7, 7])) 0x100 16
    = leBytes 0x3F800000 4 ++ leBytes 0x40000000 4 ++ leBytes 0 8 := by decide
theorem witness_greatest : engaged (.amax 1 0 1) (sp 0x100) 0 cfg64 = true ∧ there (scratchAddr 0x100) 0x100 4 = true
    ∧ (let m := (engine (.amax 1 0 1) 0 0 cfg64 []).mx 0
      (∀ i, i < 1 → ∀ j, j < 2 → ((m.tile 1).get i j).toNat % 2 ^ 31 ≤ 0x40000000)
      ∧ ((m.tile 1).get 0 1).toNat % 2 ^ 31 = 0x40000000) := by decide
/-- R386: 2.0 is above what stood there. -/
theorem test_greatest : padAfter (exec (.matrixCommandRun 0) (engine (.amax 1 0 1) (sp 0x100) 0 cfg64 [0x3F800000])) 0x100 4
    = leBytes 0x40000000 4 := by decide
theorem witness_quantise : engaged (.quant true 1 0 31) (sp 0x100) (sp 0x140) cfg64 = true ∧ (31 + 1) % 32 = 0
    ∧ (∀ j, j < 32 → there (scratchAddr 0x100 + BitVec.ofNat 64 (0 * 32 + j)) (0x100 + j) 1 = true)
    ∧ there (scratchAddr 0x140 + BitVec.ofNat 64 (0 * 1 + 0)) 0x140 1 = true := by decide
theorem witness_soft : engaged (.soft 1 0 1) (sp 0x100) (sp 0x200) cfg64 = true
    ∧ there (scratchAddr 0x100 + BitVec.ofNat 64 (16 * 0)) 0x100 16 = true
    ∧ there (scratchAddr 0x200 + BitVec.ofNat 64 (4 * 0)) 0x200 4 = true ∧ there (scratchAddr 0x200) 0x200 16 = true
    ∧ there (scratchAddr 0x200 + 384) 0x380 16 = true := by decide
/-- One row by one column over two FP32 elements; the window of a convolution of one channel, 2 wide; row indices at 0x180. -/
def cfg32 (conv : Bool) : List Word :=
  [0x200010001, 0x404, 8 + 2 ^ 32 * 4, 0, 0, 0,
    if conv then 1 + 2 ^ 8 * 2 + 2 ^ 16 + 2 ^ 32 + 2 ^ 40 + 2 ^ 48 * 4 else scratchAddr 0x180, 0]
theorem witness_tile_products : (∀ k ∈ [MKind.mma, .mmax, .mconv], ∀ o ∈ [true, false],
      engaged (.prod k o false 1) (sp 0x100) (sp 0x140) (cfg32 (k == .mconv)) = true)
    ∧ (∀ c ∈ [true, false], mcfgM (cfg32 c) = 1 ∧ mcfgN (cfg32 c) = 1 ∧ mcfgK (cfg32 c) = 2 ∧ isMx (mcfgA (cfg32 c)) = false
      ∧ isMx (mcfgB (cfg32 c)) = false ∧ mxHalves (mcfgA (cfg32 c)) / 2 = 4 ∧ mxHalves (mcfgB (cfg32 c)) / 2 = 4
      ∧ mcfgAcc (cfg32 c) = false)
    ∧ MProd.convBad ⟨mxWho 0 0 true false, .mconv, true, scratchAddr 0x100, scratchAddr 0x140, 0, cfg32 true⟩ = false
    ∧ (∀ k, k < 2 → there (scratchAddr 0x100 + BitVec.ofNat 64 (0 * 8) + BitVec.ofNat 64 (k * 4)) (0x100 + 4 * k) 4 = true
      ∧ there (scratchAddr 0x140 + BitVec.ofNat 64 (k * 4) + BitVec.ofNat 64 (0 * 4)) (0x140 + 4 * k) 4 = true)
    ∧ there ((cfg32 false).getD 6 0 + BitVec.ofNat 64 (4 * 0)) 0x180 4 = true
    ∧ leNat ((engine (.zero 1) 0 0 [] (List.replicate 16 0)).pad 0 0x180 4) = 0 := by decide
/-- 1.0, 2.0 as A and 2.0, 3.0 as B. -/
def factors (k : MKind) : State := engine (.prod k false false 1) (sp 0x100) (sp 0x140) (cfg32 (k == .mconv))
  ([0x400000003F800000] ++ List.replicate 7 0 ++ [0x4040000040000000])
/-- What tile 1 holds in its first element after a step. -/
noncomputable def firstOf (o : Host.Outcome State Fault Refusal) : Word :=
  match o with | .next t => ((t.mx 0).tile 1).get 0 0 | _ => 0
/-- R378: 1 + 1 × 2 + 2 × 3. -/
theorem test_tile_product : firstOf (exec (.matrixCommandRun 0) (factors .mma)) = 0x41100000 := by decide +kernel
/-- R380: the first column lies in the padding: 1 + 0 × 2 + 1 × 3. -/
theorem test_convolution : firstOf (exec (.matrixCommandRun 0) (factors .mconv)) = 0x40800000 := by decide +kernel

/-! ### What associative instructions ask for at dispatch -/

/-- A descriptor. -/
def dsc (tag width base link len : Nat) : Word := BitVec.ofNat 64 (base + 2 ^ 10 * width + 2 ^ 17 * tag + 2 ^ 22 * link + 2 ^ 27 * len)
/-- Fields 1, 2 and 6: bytes; 3: a signed integer; 4, 5: FP32; 7: MXFP8 under scale 8; 9, 10, 11: coordinates with the FP32
values 12, 13, 14. -/
def fields : Tab Word :=
  [(1, dsc 1 8 32 0 0), (2, dsc 1 8 40 0 0), (3, dsc 2 16 48 0 0), (4, dsc 4 32 64 0 0), (5, dsc 4 32 96 0 0), (6, dsc 1 8 128 0 0),
    (7, dsc 0x0E 8 136 8 0), (8, dsc 0x11 8 144 0 0), (9, dsc 0x12 16 160 12 2), (10, dsc 0x12 16 176 13 2), (11, dsc 0x12 16 192 14 2),
    (12, dsc 4 32 224 0 0), (13, dsc 4 32 256 0 0), (14, dsc 4 32 288 0 0)]
/-- Their rows. -/
def openRows : Tab (BitVec 1024) := [(0, 1 + (5 <<< 32) + (0x3F800000 <<< 64)), (1, 3 + (6 <<< 32) + (0x40000000 <<< 64))]
/-- Instruction `op` with scalars `x` and `y`, governed by mask 0. -/
def opening (op : AOp) (x y : Word) : QEntry := { entryOf op (.conc x) (.conc y) none with mg := 0 }
/-- It heads the queue of strand 0, which holds group 0: mask 0 is set in rows 0 and 1, mask 1 in row 1; field 1 holds 5 and 6,
field 4 holds 1.0 and 2.0; words from byte 0x200 of the scratchpad. -/
def opened (op : AOp) (x y : Word) (words : List Word) : State :=
  { holding [opening op x y] none with
    mem := Memory.setBytes [] (scratchKey 0 0x200) (words.flatMap fun w => leBytes w.toNat 8)
    groups := [(0, { Group.reset with holder := some 0, desc := fields, rows := openRows })] }
theorem witness_heads (op : AOp) (x y : Word) (words : List Word) : (opened op x y words).heads 0 (opening op x y) [] x y := by
  refine ⟨rfl, rfl, rfl, rfl, rfl, rfl, rfl, rfl, rfl, rfl, rfl, rfl, rfl, List.cons_ne_nil 0 [], fun g hg => ?_⟩
  obtain rfl : g = 0 := List.mem_singleton.mp hg
  exact ⟨rfl, rfl, rfl⟩
theorem opened_rows (op : AOp) (x y : Word) (words : List Word) : ((opened op x y words).view 0).rows = 65536 := by
  show 1 * 65536 = 65536
  rfl
theorem opened_row (op : AOp) (x y : Word) (words : List Word) (r : Nat) (h : r < 65536) :
    ((opened op x y words).view 0).row (opened op x y words) r = Tab.get 0 openRows r := by
  have e : ((opened op x y words).view 0).row (opened op x y words) r
      = ((opened op x y words).group (List.getD [0] (r / 65536) 0)).row (r % 65536) := rfl
  rw [e, Nat.div_eq_of_lt h, Nat.mod_eq_of_lt h]
  rfl
theorem openRows_zero (r : Nat) : Tab.get 0 openRows (r + 2) = 0 := rfl
/-- Two rows are governed. -/
theorem opened_gov (op : AOp) (x y : Word) (words : List Word) (r : Nat)
    (h : ((opened op x y words).view 0).gov (opened op x y words) 0 r = true) : r = 0 ∨ r = 1 := by
  simp only [View.gov, View.reaches, Bool.and_eq_true, decide_eq_true_eq, opened_rows] at h
  obtain ⟨⟨hr, -⟩, hm⟩ := h
  rw [opened_row _ _ _ _ _ hr] at hm
  rcases r with _ | _ | r
  · exact .inl rfl
  · exact .inr rfl
  · rw [openRows_zero] at hm
    exact absurd hm (by decide)
theorem opened_governed (op : AOp) (x y : Word) (words : List Word) (r : Nat) (h : r < 2) :
    ((opened op x y words).view 0).gov (opened op x y words) 0 r = true := by
  have hr : r < 65536 := by omega
  simp only [View.gov, View.reaches, opened_rows, opened_row _ _ _ _ _ hr, hr, decide_true, Bool.true_and, Bool.and_eq_true,
    Bool.not_eq_true']
  have e : ((opened op x y words).group (((opened op x y words).view 0).grp r)).storage = 0 := by
    show ((opened op x y words).group (List.getD [0] (r / 65536) 0)).storage = 0
    rw [Nat.div_eq_of_lt hr]
    rfl
  rw [e]
  obtain rfl | rfl : r = 0 ∨ r = 1 := by omega
  all_goals exact ⟨by simp, by decide⟩
/-- No row has mask 2 and row 1 alone has mask 1. -/
theorem witness_first (op : AOp) (x y : Word) (words : List Word) : let s := opened op x y words
    let v := s.view 0
    (∀ r, (v.gov s 0 r && maskBit (v.row s r) 2) = false) ∧ (∀ r, (v.gov s 0 r && maskBit (v.row s r) 1) = true → r = 1)
      ∧ (v.gov s 0 1 && maskBit (v.row s 1) 1) = true := by
  intro s v
  have h0 : v.row s 0 = Tab.get 0 openRows 0 := opened_row _ _ _ _ 0 (by omega)
  have h1 : v.row s 1 = Tab.get 0 openRows 1 := opened_row _ _ _ _ 1 (by omega)
  refine ⟨fun r => ?_, fun r h => ?_, ?_⟩
  · cases h : v.gov s 0 r
    · rfl
    · rcases opened_gov op x y words r h with rfl | rfl
      · rw [h0]; decide
      · rw [h1]; decide
  · simp only [Bool.and_eq_true] at h
    rcases opened_gov op x y words r h.1 with rfl | rfl
    · rw [h0] at h; exact absurd h.2 (by decide)
    · rfl
  · rw [h1, opened_governed op x y words 1 (by omega)]; decide
/-- The checks of dispatch, as a Bool. -/
def admitted (op : AOp) (x y : Word) : Bool :=
  let s := opened op x y []
  (op.fields.all fun k => !linkBad (s.view 0) s k) && (overlapBad (s.view 0) s op).isNone && (typeBad (s.view 0) s op x y).isEmpty
theorem witness_admits : ([AOp.asrch 0 3 1, .asrch 1 23 1, .asrch 2 3 1, .acmp 0 false 3 1 .op, .acmp 1 false 3 4 (.fld 5),
    .acmp 2 true 3 1 (.fld 3), .acmp 3 false 3 4 .op, .intv 0 3 1, .intv 3 3 4, .amatch 3 1 0, .atopk false 3 4, .atopk true 3 1, .conf 3 1,
    .chk 3 1, .plenMask 3 9, .apopF 3, .aext false false 4, .aext true true 1, .ardrow 1]).all (fun o => admitted o 1 0) = true := by
  decide
theorem witness_admits_fields : ([AOp.awr 2, .amov 2 1, .bcast 2 1, .fill true 3, .awrrow 2, .ham false 6 1 (.fld 2),
    .arith .add 2 1 (.fld 6) false false, .arith .sub 2 1 .op true true, .arith .mul 5 4 .op false false, .arith .fma 5 4 (.fld 1) false false,
    .arith .div 3 1 (.fld 2) false false, .arith .rem 3 1 (.fld 2) true false, .arith .abs 5 4 .op false false,
    .arith .neg 3 1 .op false true, .arith .sqrt 5 4 .op false false, .sel true 5 4 (.fld 5), .sel false 2 1 .op, .clamp 2 1,
    .logic 0 2 1 (.fld 6), .logic 3 2 1 .op, .shift 0 true 2 1 .op, .shift 3 false 2 1 (.fld 6), .cvt false 1 4, .cvt true 5 1,
    .dqnt false 5 7, .qnt false 7 4, .shr 2 1, .scan .add true 3 1, .scan .min false 5 4, .scan .max false 2 1, .scan .or false 2 1,
    .segr .add false 3 1 1, .segr .or false 2 1 24, .pair false false 11 9 10, .pair true true 11 9 10, .plenSet 9]).all
      (fun o => admitted o 1 0) = true := by decide
/-- What the narrower clauses ask for beside: tags, streams, a quantisation of finite values. -/
theorem witness_kinds : let s := opened (.qnt false 7 4) 1 0 []
    let v := s.view 0
    isMx (dTag (v.desc s 5)) = false ∧ dTag (v.desc s 4) ≠ 0x0D ∧ isIntTag (dTag (v.desc s 1)) = true ∧ isIntTag (dTag (v.desc s 4)) = false
    ∧ dMeets (v.desc s 7) (v.desc s (dLink (v.desc s 7))) = false ∧ (v.value s (v.desc s 4) 0).isFin = true
    ∧ (v.value s (v.desc s 4) 1).isFin = true ∧ dWidth (v.desc s 4) ≤ 64 ∧ v.held.length ≤ 4 ∧ (1 : Word).toNat % 256 ≠ 0xFF := by decide
theorem witness_lent_keys : let s := opened (.amatch 3 1 0) 0 1 []
    let st : Strand := { s.strand 0 with streams := [(0, ⟨line 0 1 8 0x100, false, true, 0, [5], none⟩)] }
    Tab.find st.streams 0 = some ⟨line 0 1 8 0x100, false, true, 0, [5], none⟩ ∧ Tab.rising st.streams = true
    ∧ (1 : Word).toNat ≤ [(5 : Word)].length ∧ 0 + (1 : Word).toNat ≤ recCount (line 0 1 8 0x100)
    ∧ ({ s with strands := [(0, st)] } : State).heldOf 0 = [0] := by decide
/-- The addresses of two rows of elements lie in the scratchpad of the groups' die, apart. -/
theorem witness_reaches (op : AOp) (x y : Word) (words : List Word) :
    (∀ r, ((opened op x y words).view 0).gov (opened op x y words) 0 r = true →
      (opened op x y words).groupReaches 0 (scratchAddr 0x400 + BitVec.ofNat 64 (r * 4)) (0x400 + r * 4) 4
      ∧ (opened op x y words).groupReaches 0 (scratchAddr 0x400 + BitVec.ofNat 64 r * 8) (0x400 + r * 8) 4)
    ∧ ∀ q r, q < r → 0x400 + q * 4 + 4 ≤ 0x400 + r * 4 := by
  refine ⟨fun r h => ?_, fun q r h => by omega⟩
  rcases opened_gov op x y words r h with rfl | rfl <;> refine ⟨⟨?_, ?_, ?_, ?_, rfl⟩, ?_, ?_, ?_, ?_, rfl⟩ <;> decide
theorem witness_admits_memory : ([AOp.ld true .lin 5, .ld false .str 2, .ld false (.idx 1) 5, .st .lin 4, .st .str 4, .st (.idx 1) 4,
    .lut 2 1, .save .f 4, .save .m 3, .save .desc 0, .save .ev 0, .rstr .f 6, .rstr .m 3, .rstr .desc 0, .rstr .ev 0, .app none 3,
    .app (some 1) 3]).all (fun o => admitted o (scratchAddr 0x400) 2) = true
    ∧ ([AOp.ldseg false 2 4, .stseg true 2 4]).all (fun o => admitted o (scratchAddr 0x400) 0x404) = true := by decide
theorem witness_memory_rest : let s := opened (.st .lin 4) (scratchAddr 0x400) 0 []
    let v := s.view 0
    (∀ k ∈ [1, 2, 4, 5, 6], dTag (v.desc s k) ≠ 0x0B ∧ dTag (v.desc s k) ≠ 0x10 ∧ dUnconf (v.desc s k) = false) ∧ Memory.wf s.mem = true
    ∧ (opening (.st .lin 4) 0 0).slots = [] ∧ (s.strand 0).unseen = [] ∧ elemSize (v.desc s 4) = 4 ∧ dTag (segDesc 0x404) = 4
    ∧ elemSize (segDesc 0x1004) = 1 ∧ dMeets (v.desc s 4) (v.desc s 5) = false ∧ (s.die 0).owner = [] ∧ 0x400 % 64 = 0
    ∧ 0x400 + (64 + 65536 * 4) ≤ 2 ^ 25 ∧ v.rows = 65536 ∧ dUnconf (v.desc s 15) = true := by decide
/-- An image of a field of bytes for 65,536 rows, and one of descriptors that are all unconfigured. -/
theorem witness_restore : let s := opened (.rstr .f 6) (scratchAddr 0x200) 0 [dsc 1 8 128 0 0, 65536]
    leNat (s.pad 0 (0x200 + 8) 8) = 65536 ∧ BitVec.ofNat 64 (leNat (s.pad 0 0x200 8)) = dsc 1 8 128 0 0
    ∧ dValid 65536 (dsc 1 8 128 0 0) = true ∧ dTag (dsc 1 8 128 0 0) = 1 ∧ 0x200 + (64 + 65536 * 1) ≤ 2 ^ 25
    ∧ ∀ i, i < 32 → dValid 65536 (BitVec.ofNat 64 (leNat (s.pad 0 (0x1000 + 8 * i) 8))) = true := by decide
/-- An append queue of 8 bytes: BASE 0x400, 8 slots, HEAD 2, TAIL 5. -/
theorem witness_append : let words : List Word := [scratchAddr 0x400, 8, 2, 5, 2, 8, 0, 0]
    let s := opened (.app none 3) (scratchAddr 0x200) 0 words
    let h (i : Nat) : Nat := leNat (s.pad 0 (0x200 + 8 * i) 8)
    h 5 % 2 ^ 8 = 8 ∧ h 1 = 8 ∧ h 1 + h 2 - h 3 = 5
    ∧ (∀ j, j < 2 → BitVec.ofNat 64 (h 0 + (h 3 + j) % h 1 * 8) = scratchAddr (0x400 + (5 + j) % 8 * 8)
      ∧ (scratchAddr (0x400 + (5 + j) % 8 * 8)).toNat % 8 = 0) := by decide

/-! ### Trees, the debugger and events, in their other forms -/

/-- A region of 4-byte elements; one whose only leaf is full and whose pool has no node left; a faulted one; a bad one. -/
theorem witness_tree_forms : let s (w : TWork) (syms : List Nat) (out : Option Nat) := treed [treeOp w syms out] none
    (s (.del [3, 0, 0, 0, 4, 0, 0, 0]) [] (some 7)).treeOps = [] ++ treeOp (.del [3, 0, 0, 0, 4, 0, 0, 0]) [] (some 7) :: []
    ∧ (treeOp (.stat .depth) [] (some 7)).work = .stat .depth ∧ (treeOp (.stat .depth) [] (some 7)).seq = 5
    ∧ Tab.find ((s (.stat .nodes) [] (some 7)).strand 0).outs 7 = some 5
    ∧ (leaf.pairs.map Prod.fst).Pairwise (· < ·) ∧ ([(4, 9)] : List (Nat × Nat)).length < 15 ∧ (∀ p ∈ [((4 : Nat), (9 : Nat))], p.2 ≠ 0)
    ∧ leaf.get 4 < 2 ^ (8 * leaf.esz) ∧ ({ leaf with esz := 4 } : Region).esz = 4 ∧ leaf.esz = 8 ∧ ({ leaf with esz := 2 } : Region).esz = 2 := by
  decide
theorem witness_tree_no_room : let full : Region := { leaf with nodes := [(0, ⟨(List.range 15).map fun i => (2 * i, 1), [], []⟩)], pages := [] }
    full.get 5 = 0 ∧ full.free < full.needed 5 ∧ 1 % 2 ^ (8 * full.esz) ≠ 0 := by decide
theorem witness_tree_failed : let f : Region := { leaf with faulted := true }
    let b : Region := { leaf with bad := true }
    let s (r : Region) : State := { treed [treeOp (.st 4 1) [] none] none with regions := [(3, r)] }
    Tab.find (s f).regions 3 = some f ∧ f.uid = 1 ∧ f.faulted = true ∧ Tab.find (s b).regions 3 = some b ∧ b.bad = true
    ∧ b.faulted = false ∧ ((s b).strand 0).refusal = none := by decide
/-- R454: the keys 3 and 4 go; one pair was there. -/
theorem test_tree_delete : (match exec (.treeOpApply 0 3) (treed [treeOp (.del [3, 0, 0, 0, 4, 0, 0, 0]) [] (some 7)] none) with
    | .next t => ((Tab.find t.regions 3).map Region.pairs, (t.strand 0).reg 7) | _ => (none, .conc 0)) = (some [], .conc 1) := by rfl
/-- R440: the insert is refused and counted. -/
theorem test_tree_refused : (match exec (.treeOpApply 0 3) { treed [treeOp (.st 5 1) [] none] none with
      regions := [(3, { leaf with nodes := [(0, ⟨(List.range 15).map fun i => (2 * i, 1), [], []⟩)], pages := [] })] } with
    | .next t => ((Tab.find t.regions 3).map Region.refused, (t.strand 0).refusal) | _ => (none, none))
    = (some 1, some ⟨0x16, 0, 3⟩) := by rfl
/-- Strand 8 waits, strand 9 is kept by HALT; s3 = 9 names it. -/
def debugged : State :=
  { watched with strands := [(0, { (watched.strand 0) with s := [(2, .conc 0x6000000000000000), (3, .conc 9), (4, .conc 4),
      (5, .conc 8), (6, .conc 64), (7, .conc 7), (8, .conc 1024)] }),
    (7, { Strand.reset with dbg := true, streams := [(1, ⟨rec8, true, true, 0, [], none⟩)] }),
    (8, { Strand.reset with paused := true, waiting := some .plain }), (9, { Strand.reset with halt := .halted, s := [(4, .conc 11)] })] }
theorem witness_debug_forms : debugged.guarded h0 = true ∧ debugged.here.takes 6 = true ∧ debugged.here.sup = true
    ∧ debugged.here.sources [5] = some ([8], debugged.here) ∧ (debugged.strand 8).dbg = false ∧ (debugged.strand 8).halt ≠ .halted
    ∧ (debugged.strand 8).paused = true ∧ debugged.here.sources [3] = some ([9], debugged.here) ∧ (debugged.strand 9).halt = .halted
    ∧ (debugged.strand 9).pend = [] ∧ debugged.here.sources [3, 4] = some ([9, 4], debugged.here) ∧ (debugged.strand 9).reg 4 = .conc 11
    ∧ debugged.here.sources [3, 6] = some ([9, 64], debugged.here) ∧ debugged.here.sources [7, 2] = some ([7, 0x6000000000000000], debugged.here)
    ∧ bits (0x6000000000000000 : Word) 0 57 = 0 ∧ bits (0x6000000000000000 : Word) 57 7 = 48 ∧ Tab.find (debugged.strand 7).streams 0 = none
    ∧ bits (0x6200000000000000 : Word) 57 7 = 49 ∧ (Tab.find (debugged.strand 7).streams 1).map Stream.out = some true
    ∧ bits (0x8000000000000000 : Word) 57 7 = 64 ∧ debugged.here.sources [8] = some ([1024], debugged.here)
    ∧ (9 : Nat) ≠ debugged.cur := by decide
/-- R502: a halt that ends a wait leaves EPC at the waiting instruction. -/
theorem test_dbg_halt : (match exec (.dbgHalt h0 6 5) (debugged.setStrand 8 { debugged.strand 8 with pc := 0x40 }) with
    | .next t => ((t.strand 8).dbg, (t.strand 8).epc, (t.strand 8).paused) | _ => (false, 0, true)) = (true, 0x40, false) := by rfl
theorem witness_counters : let s (n : Word) : State := { two with strands := [(0, strandWith [(1, .conc n), (2, .conc 511)])] }
    (s 2).here.sources [1] = some ([2], (s 2).here) ∧ (s 1).here.sources [1] = some ([1], (s 1).here) ∧ Tab.rising (s 1).groups = true
    ∧ (s 0).here.sup = true ∧ (s 1).here.sources [1, 2] = some ([1, 511], (s 1).here) ∧ (511 : Word).toNat < 512
    ∧ (s 9).here.sources [1] = some ([9], (s 9).here)
    ∧ (∀ n, n < 8 → ∃ k, [128, 512, 8, 1, 12, 1, 8, 1][n]? = some k ∧ (0 : Nat) < k) := by
  refine ⟨by decide, by decide, by decide, by decide, by decide, by decide, by decide, fun n hn => ?_⟩
  have : n = 0 ∨ n = 1 ∨ n = 2 ∨ n = 3 ∨ n = 4 ∨ n = 5 ∨ n = 6 ∨ n = 7 := by omega
  rcases this with rfl | rfl | rfl | rfl | rfl | rfl | rfl | rfl <;> exact ⟨_, rfl, by omega⟩
/-- A line of the promotion tier with an error, and one whose page stands in a pool frame of class 0. -/
def tiered : State := { two with flips := [(capBase / 64, [5])], promoted := [(capBase / 65536 + 1, 3)], frames := [(3, ⟨0, false, false⟩)] }
theorem witness_tier : capBase ≤ (BitVec.ofNat 52 capBase).toNat ∧ (BitVec.ofNat 52 capBase).toNat < capEnd
    ∧ Tab.find tiered.promoted ((BitVec.ofNat 52 capBase).toNat / 65536) = none
    ∧ Tab.find tiered.flips ((BitVec.ofNat 52 capBase).toNat / 64) = some [5] ∧ tiered.poisoned = []
    ∧ Tab.find tiered.promoted ((BitVec.ofNat 52 (capBase + 65536)).toNat / 65536) = some 3 ∧ (tiered.frame 3).cls ≠ 2 := by decide
theorem test_scrub_tier : (match exec (.scrub (BitVec.ofNat 52 capBase)) tiered with | .next t => t.flips | _ => []) = [] := by rfl
/-- Every strand of die 0 runs an item of launch 2, at level 5; launch 3 waits at level 9 under AGEPERIOD 6. -/
def crowded : State :=
  { two with
    ctxs := [(0, bootCtx 0)]
    dies := [(0, { Die.reset with ageing := 6 })]
    strands := (List.range 128).map fun n => (n, { strandWith [] with item := some ⟨2, n, 0, 5⟩ })
    launches := [(2, { aLaunch none 128 with next := [(0, 128)], levels := [⟨0, 128, 1, 1, 0⟩] }), (3, { aLaunch none 3 with prio := 9, level := 9 })]
    nextLaunch := 4 }
theorem witness_preempt : ((crowded.age.launches.filter fun p => crowded.age.waiting p.1 p.2 0 && !crowded.age.placeable p.1 p.2 0
      && !crowded.age.pursued p.1 0 && (crowded.age.toMark p.1 p.2 0).isSome).map Prod.fst) = [3]
    ∧ (crowded.age.launches.map fun p => (crowded.age.toMark p.1 p.2 0).map fun vs => vs.length) = [none, some 1] := by decide +kernel
theorem witness_ages : ((Tab.find launched.launches 3).map fun l => launched.waiting 3 l 0 && launched.placeable 3 l 0
    && decide (l.level.toNat < (launched.ctxOf l.ctx).ceil.toNat) && l.status.isNone) = some true := by decide
theorem witness_page_table_world :
    let s : State := { mapped with
      ctxs := [(0, { bootCtx 0 with sec := false })]
      frames := [(0, ⟨2, false, true⟩)]
      dies := [(0, { Die.reset with tlb := [⟨0, 0x10000, false, 0x40010277, 0x1000⟩] })] }
    s.translated 0x10000 ⟨0, 0x10000, false, 0x40010277, 0x1000⟩ = true ∧ s.worldOf 0x1000 = true ∧ (s.ctxOf s.here.ctx).sec = false
    ∧ (0x40010277 : Word).getLsbD 8 = false ∧ s.worldOf 0x40010000 = false ∧ bits (0x40010277 : Word) 2 2 ≠ 3
    ∧ (0x40010277 : Word).getLsbD 7 = false ∧ (0x40010277 : Word).getLsbD 4 = true := by decide

/-! ### Late values, held accesses and waits -/

/-- s1 carries symbol 0 with a list of `n` products with 2.0, s2 = 1.0, s3 = 2.0, s7 = 2 × X0 + 3, an output stream z1. -/
def fpLate (n : Nat) : State :=
  { late with strands := [(0, { late.here with
      s := [(1, if n = 0 then .aff 0 1 0 else .flt 0 (List.replicate n ⟨.mul, 0, 0x4000000000000000, 0, false, false, 1⟩)),
        (2, .conc 0x3FF0000000000000), (3, .conc 0x4000000000000000), (7, .aff 0 2 3)]
      streams := [(1, ⟨rec8, true, true, 0, [], none⟩)] })] }
theorem witness_float_folds : ([0, 3, 4].all fun n => (fpLate n).guarded h0 && (fpLate n).here.landed 1 && (fpLate n).here.landed 7
    && (fpLate n).here.takes 6 && (fpLate n).here.takes 49 && (fpLate n).here.source 2 == some (0x3FF0000000000000, (fpLate n).here)
    && (fpLate n).here.sources [2, 3] == some ([0x3FF0000000000000, 0x4000000000000000], (fpLate n).here)
    && (fpLate n).here.reg 7 == .aff 0 2 3) = true
    ∧ [0, 3, 4].map (fun n => match (fpLate n).here.reg 1 with | .flt k l => (k, l.length) | .aff k _ _ => (k + 9, 0) | _ => (8, 8))
      = [(9, 0), (0, 3), (0, 4)] := by decide
/-- R195: 1.0 less the late value; a fourth operation; a fifth, or a stream, waits. -/
theorem test_float_fold : exec (.fsub h0 6 2 1 0) (fpLate 0) = .next ((fpLate 0).completes h0 8 { (fpLate 0).here with
    pend := [⟨6, .flt 0 [⟨.sub, 1, 0x3FF0000000000000, 0, false, false, (fpLate 0).here.fpcsr.extractLsb' 0 3⟩], 4, false, some 0⟩] }) := rfl
theorem test_float_fold_full : (match exec (.ffma h0 6 2 3 0 1 3 1) (fpLate 3) with
      | .next t => t.here.pend.map fun p => if p.val.isList then p.val else .conc 0
      | _ => [])
    = [.flt 0 (List.replicate 3 ⟨.mul, 0, 0x4000000000000000, 0, false, false, 1⟩
      ++ [⟨.fma, 2, 0x3FF0000000000000, 0x4000000000000000, true, false, 3⟩])]
    ∧ exec (.fadd h0 6 1 2 1) (fpLate 4) = .next (waitAt .symbol (fpLate 4) (fpLate 4))
    ∧ exec (.fmul h0 49 1 2 1) (fpLate 3) = .next (waitAt .symbol (fpLate 3) (fpLate 3)) := ⟨by decide, rfl, rfl⟩
/-- R194, R195: two late values, or one that has an integer form. -/
theorem test_float_waits : exec (.fadd h0 6 1 7 1) (fpLate 3) = .next (waitAt .symbol (fpLate 3) (fpLate 3))
    ∧ exec (.fmul h0 49 2 7 1) (fpLate 3) = .next (waitAt .symbol (fpLate 3) (fpLate 3)) := ⟨rfl, rfl⟩
theorem witness_symbol_wait : (fpLate 3).here.reg 1 ≠ .aff 0 2 3 ∧ late.here.landed 1 = true ∧ late.here.landed 3 = true
    ∧ (fpLate 3).here.takes 49 = true ∧ late.here.sources [2] = some ([7], late.here) := by decide
/-- R206: SYMW on the two forms of a late value and on the three kinds of poison; SYMX into a stream. -/
theorem test_symw : exec (.symw h0 1) late = .next (waitAt .symbol late late)
    ∧ exec (.symw h0 1) (fpLate 3) = .next (waitAt .symbol (fpLate 3) (fpLate 3))
    ∧ exec (.symw h0 3) late = .next (late.traps .symTimeout 0 3) ∧ exec (.symw h0 4) late = .next (late.traps .poisonUse 1 4)
    ∧ exec (.symw h0 5) late = .next (late.traps .poisonUse 3 5) := ⟨rfl, rfl, rfl, rfl, rfl⟩
theorem test_symx_stream : exec (.symx h0 49 1 2) (fpLate 3) = .next (waitAt .symbol (fpLate 3) (fpLate 3)) := rfl
/-- An LDA of a peer is outstanding under number 3; the registers and the bytes are those of `data`. -/
def behind : State :=
  { data with strands := [(0, { data.here with
      syms := [(3, ⟨.load 0 (.peer 5 0x40) 8 [], 1, none, true, true, true, 0, some ⟨8, [(9, 0)], 8, false⟩⟩)], outs := [(9, 8)] })]
              nextTree := 20 }
theorem witness_behind : behind.guarded h0 = true ∧ (behind.here.syms.any fun p => p.2.holds && p.2.src.range.isSome) = true
    ∧ behind.here.syms.all (fun p => p.1 < 32) = true ∧ behind.here.sources [1, 0, 2] = some ([scratchAddr 0x100, 0, 7], behind.here)
    ∧ behind.reaches (scratchAddr 0x100) 0x100 8 = true ∧ (scratchAddr 0x100 + 0 * 8 + 0).toNat % 8 = 0
    ∧ behind.here.sources [1, 0] = some ([scratchAddr 0x100, 0], behind.here)
    ∧ behind.here.sources [1, 2] = some ([scratchAddr 0x100, 7], behind.here) ∧ behind.sent behind.cur = none := by decide
/-- R93: the strand goes on past a store and a load, and s5 waits for what the load will bring. -/
theorem test_held_back : exec (.st h0 2 1 1 0 2) behind = .next (behind.completes h0 8 { behind.here with
      syms := Tab.insert behind.here.syms 32
        ⟨.store (scratchAddr 0x102).toNat (.scratch 0 0x102) [7, 0] .alloc, 1, none, false, false, false, 0, none⟩ })
    ∧ exec (.ldx h0 5 1 3 0 0) behind = .next ({ behind with nextTree := 21 }.completes h0 8 { behind.here.forget 5 with
      outs := Tab.insert behind.here.outs 5 20
      syms := Tab.insert behind.here.syms 32
        ⟨.load (scratchAddr 0x100).toNat (.scratch 0 0x100) 8 [], 1, none, false, false, false, 0, some ⟨20, [(5, 0)], 8, false⟩⟩ }) :=
  ⟨rfl, rfl⟩
theorem test_held_amo : exec (.amoMaxu h0 5 1 2 1 0 2 2) behind = .next ({ behind with nextTree := 21 }.completes h0 8
    { behind.here.forget 5 with
      outs := Tab.insert behind.here.outs 5 20
      syms := Tab.insert behind.here.syms 32 ⟨.rmw (scratchAddr 0x100).toNat (.scratch 0 0x100) 4 (.rmw .maxu 7), 1, none,
        false, true, true, 0, some ⟨20, [(5, 0)], 4, false⟩⟩ }) := rfl
theorem test_held_discard : exec (.lda h0 0 1 3 2 0 0) behind = .next (behind.completes h0 8 { behind.here with
    syms := Tab.insert behind.here.syms 32 ⟨.load (scratchAddr 0x100).toNat (.scratch 0 0x100) 8 [], 1, none, true, true, true, 0, none⟩ }) :=
  rfl
/-- A burgee that expects 2^31 − 2 bytes; s2 = 1, s6 = 2. -/
def expecting : State :=
  pad [(1, .conc (scratchAddr 0x100)), (2, .conc 1), (6, .conc 2)] (leBytes (2 ^ 35 + (2 ^ 31 - 2)) 8 ++ leBytes 3 8)
theorem witness_expect : (Burgee.ofBytes (expecting.scratch 0x100 16)).pbytes + (1 : Word).toNat = 2 ^ 31 - 1
    ∧ 2 ^ 31 - 1 < (Burgee.ofBytes (expecting.scratch 0x100 16)).pbytes + (2 : Word).toNat
    ∧ expecting.here.sources [1, 2] = some ([scratchAddr 0x100, 1], expecting.here)
    ∧ expecting.here.sources [1, 6] = some ([scratchAddr 0x100, 2], expecting.here) := by decide
/-- R168: 2^31 − 1 can be expected, one more is BAR_RANGE. -/
theorem test_expect : padAfter (exec (.barExpect h0 7 1 2 2) expecting) 0x100 8 = leBytes (2 ^ 35 + (2 ^ 31 - 1)) 8 := by decide
theorem test_expect_range : exec (.barExpect h0 7 1 6 2) expecting = .next (expecting.traps .barRange 0 (scratchAddr 0x100)) := rfl
/-- A pennant of ESIZE 0; slot 1 is bound elsewhere; s2 = 9 as `pennant` has it. -/
def sizeless : State :=
  { pad [(1, .conc (scratchAddr 0x100)), (2, .conc 9), (3, .conc 0)] (leBytes 4 8 ++ leBytes (2 ^ 16) 8) with
    strands := [(0, { strandWith [(1, .conc (scratchAddr 0x100)), (2, .conc 9)] with
      wmset := [(0, ⟨0x10, 1, 0, 0, 8⟩), (1, ⟨scratchAddr 0x200, 2, scratchAddr 0x300, 1, 8⟩)] })] }
theorem witness_sizeless : sizeless.guarded h0 = true ∧ sizeless.here.sources [2, 1, 1] = some ([9, scratchAddr 0x100, scratchAddr 0x100], sizeless.here)
    ∧ sizeless.reaches (scratchAddr 0x100 + 8) 0x108 8 = true ∧ sizeless.here.syms = []
    ∧ (sizeless.here.wmset.all fun p => decide (p.2.base.toNat + p.2.len.toNat * p.2.esize.toNat ≤ (scratchAddr 0x108).toNat)
      || decide ((scratchAddr 0x108).toNat + 8 ≤ p.2.base.toNat)) = true
    ∧ bits (sizeless.scratchWord 0x108 0) 0 16 = 0 := by decide
/-- R172: slot 0 is left unbound. -/
theorem test_wmset_sizeless : exec (.wmset h0 1 1 2 0) sizeless = .next (trapAt ⟨Cause.align.code, 0, scratchAddr 0x100, .instr, false⟩ sizeless
    (sizeless.setHere { sizeless.here with wmset := [(1, ⟨scratchAddr 0x200, 2, scratchAddr 0x300, 1, 8⟩)] })) := rfl
/-- R174: 3 records where 4 are asked for: the mark stays and the strand waits. -/
theorem witness_qwait : ¬ ((appendQueue.scratchWord 0x100 2).toNat + (4 : Word).toNat ≤ (appendQueue.scratchWord 0x100 3).toNat)
    ∧ (appendQueue.scratchWord 0x100 2).toNat + (3 : Word).toNat ≤ (appendQueue.scratchWord 0x100 3).toNat := by decide
theorem test_qwait_waits : (match exec (.qwait h0 6 1 3) appendQueue with
      | .next t => (t.pad 0 0x130 8, t.here.part == some (.fill 4 true), t.here.waiting.isSome, t.here.pc)
      | _ => ([], false, false, 0))
    = (leBytes 1 8, true, true, 0) := by decide

/-! ### Further events, images and lines -/

/-- Launch 2 is over; its record asks for its number at byte 0x100 of die 0's scratchpad, at the end of it, or above 2^56. -/
def launchOver (done : Word) : State :=
  { launched with launches := [(2, { aLaunch none 0 with done := done })] }
theorem witness_done : Tab.find (launchOver (scratchAddr 0x1FFFFF8)).launches 2 = some { aLaunch none 0 with done := scratchAddr 0x1FFFFF8 }
    ∧ scratchAddr 0x1FFFFF8 ≠ 0 ∧ 0x1FFFFF8 % 8 = 0 ∧ 0x1FFFFF8 + 8 ≤ 2 ^ 25
    ∧ ((launchOver 0).die (aLaunch none 0).die).owner.contains (0x1FFFFF8 / 65536) = false ∧ (aLaunch none 0).killed = false
    ∧ inWindow (0x100000000000000 : Word) = false ∧ bits (0x100000000000000 : Word) 56 8 ≠ 0 := by decide
/-- R413: the launch's number stands at its DONE address; where it cannot be written the status is 2. -/
theorem test_done : padAfter (exec (.launchComplete 2) (launchOver (scratchAddr 0x1FFFFF8))) 0x1FFFFF8 8 = leBytes 2 8
    ∧ (match exec (.launchComplete 2) (launchOver 0x100000000000000) with
      | .next t => (Tab.find t.launches 2).map Launch.status | _ => none) = some (some 2) := by decide
/-- An image of microcode, version 3, for group 0 or, s2 all ones, for every group; group 9 is held or has version `v`. -/
def replacing (all : Bool) (g : Group) (v : BitVec 32) : State :=
  { pad [(1, .conc (scratchAddr 0x100)), (2, .conc (if all then 0xFFFFFFFFFFFFFFFF else 9))]
      (leBytes 0x4D4C4E4458465331 8 ++ leBytes (2 + 3 * 2 ^ 32) 8) with
    groups := [(9, { g with ucode := some v })] }
theorem witness_replacing (all : Bool) (v : BitVec 32) : (replacing all Group.reset v).guarded h0 = true
    ∧ (replacing all Group.reset v).here.takes 6 = true ∧ (replacing all Group.reset v).here.sup = true
    ∧ Tab.rising (replacing all Group.reset v).groups = true ∧ (replacing all Group.reset v).group 9 = { Group.reset with ucode := some v }
    ∧ (∀ g, g ≠ 9 → (replacing all Group.reset v).group g = Group.reset)
    ∧ ((replacing all { Group.reset with holder := some 3 } v).group 9).holder.isSome = true :=
  ⟨by cases all <;> rfl, by cases all <;> rfl, show (1 : Word).getLsbD 0 = true by decide, rfl, rfl,
    fun g hg => by simp [replacing, State.group, Tab.get, Tab.find, Ne.symm hg], rfl⟩
/-- What the signature is, is open (log 11): each of the two clauses has its image, with versions that are and are not older. -/
theorem witness_signature : let s := replacing true Group.reset 3
    let bytes := s.scratch 0x100 2668
    (imageSigned bytes = true ∨ imageSigned bytes = false)
    ∧ s.local (scratchAddr 0x100) 0x100 2668 = true ∧ imageBad (s.scratch 0x100 64) 2 = false
    ∧ (s.scratchWord 0x100 1).extractLsb' 32 32 = 3 ∧ s.scratchWord 0x100 2 = 0
    ∧ s.here.sources [1, 2] = some ([scratchAddr 0x100, 0xFFFFFFFFFFFFFFFF], s.here)
    ∧ (replacing false Group.reset 4).here.sources [1, 2] = some ([scratchAddr 0x100, 9], (replacing false Group.reset 4).here) := by
  intro s bytes
  refine ⟨by cases imageSigned bytes <;> simp, ?_⟩
  decide
/-- Group 28, of cluster 7, is held by strand 3, which has begun the instruction at the head of its queue; s2 = 7, s4 = 513. -/
def gatingBusy : State :=
  { one (strandWith [(2, .conc 7), (4, .conc 513)]) with
    groups := [(28, { Group.reset with holder := some 3 })]
    strands := [(0, strandWith [(2, .conc 7), (4, .conc 513)]),
      (3, { Strand.reset with queue := [{ entryOf (.mset 1 true) (.conc 0) (.conc 0) none with prog := { Prog.fresh with begun := true } }] })] }
theorem witness_gating_busy : gatingBusy.groupBusy 28 = true ∧ (gatingBusy.cluster 7).gating = none ∧ Tab.rising gatingBusy.groups = true
    ∧ (∀ i, i < 4 → (gatingBusy.group (7 * 4 + i)).gating = none) ∧ gatingBusy.guarded h0 = true ∧ gatingBusy.here.takes 6 = true
    ∧ gatingBusy.here.sup = true ∧ gatingBusy.here.sources [2, 4] = some ([7, 513], gatingBusy.here) := by decide
/-- R22: the cluster's arrays are gated when the group falls idle; ALIM waits. -/
theorem test_alim_waits : (match exec (.alim h0 6 2 4) gatingBusy with
    | .next t => ((t.group 28).gating, (t.cluster 7).gating, (t.cluster 7).alimit, t.here.waiting.isSome)
    | _ => (none, none, 0, false)) = (some 513, some (0, 513), 0, true) := by decide
/-- The translation of `mapped`, with NC. -/
def uncached : State :=
  { mapped with dies := [(0, { Die.reset with tlb := [⟨0, 0x10000, false, 0x40010777, 0⟩] })] }
theorem witness_uncached : uncached.granted .wr false 0x10000 ⟨0, 0x10000, false, 0x40010777, 0⟩ 0x40010000 = true
    ∧ (0x40010777 : Word).getLsbD 10 = true ∧ (0x40010377 : Word).getLsbD 10 = false ∧ uncached.sound 0x40010000 8 = true
    ∧ uncached.here.sources [1, 0, 2] = some ([0x10000, 0, 7], uncached.here)
    ∧ (∀ c ∈ uncached.l2old, c.1 / 128 ≠ 0x40010000 / 128) ∧ (∀ c ∈ uncached.l2bad, c.1 / 2 ≠ 0x40010000 / 128) := by decide
/-- R157, R177: a plain store leaves the older bytes below the die's L2, one of an NC page below the slice only. -/
theorem test_allocates : (match exec (.st h0 2 1 0 0 0) mapped, exec (.st h0 2 1 0 0 0) uncached with
      | .next t, .next u => (t.l2old.map Prod.fst, u.l2old.map Prod.fst, u.mscOld.map Prod.fst, Memory.byte u.mem 0x40010000)
      | _, _ => ([], [], [], 0)) = ([0x40010000], [], [0x40010000], 7) := by decide
/-- A line whose slice holds no error and HBM4 below it both, at 2 MiB; its poison comes back (R470, R480). -/
def cleaned : State := { two with mscBad := [(0x8000, ⟨true, [3]⟩)] }
theorem witness_cleaned : Tab.rising cleaned.mscBad = true ∧ Tab.rising cleaned.flips = true
    ∧ Tab.find cleaned.mscBad 0x8000 = some ⟨true, [3]⟩ ∧ 0x200000 ≤ 0x8000 * 64 ∧ 0x8000 * 64 < 0x200080
    ∧ (∀ c ∈ cleaned.l2old, c.1 / 64 ≠ 0x8000) := by decide
theorem test_cleaned : let u := cleaned.dropMsc 0x200000 0x200080
    (u.poisoned, u.flips, u.mscBad) = ([0x8000], [(0x8000, [3])], []) := by decide
/-- Requests that 17,500,000 cycles have passed since: one whose symbol was given up, one of an overdue symbol, the
read of a load that was held back, for the upper byte of which s6 waits signed. -/
def stale : State :=
  { late with
    cycle := 17500000
    strands := [(0, { late.here with
      outs := [(6, 40)]
      syms := [(1, ⟨.load 0 (.peer 5 0) 1 [], 1, some 5, false, false, false, 0, none⟩),
        (33, ⟨.load 0 (.peer 5 0x40) 1 [], 1, none, true, true, true, 0, some ⟨40, [(6, 0)], 1, true⟩⟩)] })]
    remotes := [⟨4, .late, none, .host 0, 8, .read, 0, 0, none⟩, ⟨5, .symbol 0 1, some 0, .peer 5 0, 1, .read, 0, 0, none⟩,
      ⟨6, .symbol 0 33, some 0, .peer 5 0x40, 1, .read, 0, 0, none⟩] }
theorem witness_stale : let find (i : Nat) := stale.remotes.find? fun q => q.id == i && q.ans.isNone
    (find 4).map Remote.who = some .late ∧ (find 5).map Remote.who = some (.symbol 0 1) ∧ (find 6).map Remote.who = some (.symbol 0 33)
    ∧ 0 + 17500000 ≤ stale.cycle.toNat ∧ (Tab.find (stale.strand 0).syms 1).map Sym.deadline = some (some 5)
    ∧ (Tab.find (stale.strand 0).syms 33).map Sym.dst = some (some ⟨40, [(6, 0)], 1, true⟩)
    ∧ (Tab.find (stale.strand 0).syms 33).map Sym.deadline = some none ∧ Tab.find (stale.strand 0).outs 6 = some 40 := by decide
/-- R200: a timeout is no answer, so it does not count; an answer to what was given up does. -/
theorem test_stale_timeouts : ([4, 5].map fun i => match exec (.remoteCompletionTimeout i) stale with
      | .next t => (t.late.toNat, t.remotes.length) | _ => (9, 9)) = [(0, 2), (0, 2)] := by decide
/-- R147, R93: the byte that comes goes to s6, extended by its sign. -/
theorem test_stale_load : (match exec (.remoteReadCompletion 6 (.data [0x80])) stale with
      | .next t => ((t.strand 0).reg 6, (t.strand 0).syms.map Prod.fst, (t.strand 0).outs) | _ => (.conc 0, [], []))
    = (.conc 0xFFFFFFFFFFFFFF80, [1], []) := by decide
/-- Codes and pairs that the general clauses on the matrix commands' numbers speak of. -/
theorem witness_matrix_numbers : (∃ c ∈ [(0x7F800000 : Nat), 0], (b32.decode c).isFin = false)
    ∧ (∀ c ∈ [(0 : Nat), 0x80000000], c = 0 ∨ c = 0x80000000) ∧ ([(.fin false 1 1, .fin false 1 1)] : List (FV × FV)).length ≤ 1
    ∧ (∀ i, [true, false].getD i false = true → [(0xFF800000 : Nat), 5].getD i 0 = 0xFF800000)
    ∧ (∃ i, [false, true].getD i false = true ∧ (b32.decode ([(0 : Nat), 0x7FC00001].getD i 0)).isNan = true) := by
  refine ⟨by decide, by decide, by decide, fun i hi => ?_, 1, by decide⟩
  rcases i with _ | _ | i <;> simp_all

end Sys2Proof.Tests
end

namespace Sys2Proof.Machine

/-- The frame of an instruction makes a next state of every end of its program: retirement, a wait, a trap. -/
theorem close_next (stall : BitVec 4) (len : Nat) (s : State) (r : EStateM.Result Stop State (Option (BitVec 56))) :
    ∃ t, close stall len s r = .next t := by
  cases r with
  | ok pc t =>
    cases pc with
    | none => exact ⟨_, rfl⟩
    | some pc => exact ⟨_, rfl⟩
  | error e t =>
    cases e with
    | wait w => exact ⟨_, rfl⟩
    | trap x => exact ⟨_, rfl⟩

/-- AMATCH looks at its stream before it is framed (R271): each way it goes on is a framed program. -/
theorem execAmatch_next (h : AHdr) (md fa sb : BitVec 5) (z : BitVec 4) (s : State) :
    ∃ t, execAmatch h md fa sb z s = .next t := by
  unfold execAmatch
  split
  · split
    · exact close_next _ _ _ _
    · exact close_next _ _ _ _
  · split
    · exact close_next _ _ _ _
    · exact close_next _ _ _ _

/-- Every meaning answers a next state: a device event's is one outright, every other is a program in the frame `close`. -/
theorem exec_next (i : Instr) (s : State) : ∃ t, exec i s = .next t := by
  cases i with
  | moduleReset | mboxseqWrite | mgmtRegisterWrite | inboundPcieWrite | inboundPcieRead | inboundPcieAtomic
  | atsInvalidation | ramirMessageArrival | pageRequestAnswer | remoteReadCompletion | remoteCompletionTimeout
  | symbolResolve | symbolDeadline | takeTrap | itemDispatch | itemResume | launchComplete | launchAgeing
  | preemptMark | preemptGraceExpiry | watchdogExpiry | permitChange | assocDispatch | streamFill | streamDrain
  | transferCommandStart | transferCommandComplete | matrixCommandRun | matrixCommandComplete | matrixTaskIssue
  | matrixTaskComplete | treeOpApply | scrub | promotionInstall | demotionRemove | blockThrottleChange
  | tdispStateChange => exact ⟨_, rfl⟩
  | ud => exact ⟨_, rfl⟩
  | amatch h md fa sb z => exact execAmatch_next h md fa sb z s
  | _ => exact close_next _ _ _ _

/-- Fetch and decoding answer a next state: the fetch's wait or trap, the trap of a stream load (R469), that of an illegal
word (R47), or what the instruction does. -/
theorem issue_next (s : State) : ∃ t, issue s = .next t := by
  unfold issue
  split
  · exact ⟨_, rfl⟩
  · exact ⟨_, rfl⟩
  · split
    · exact ⟨_, rfl⟩
    · split
      · exact ⟨_, rfl⟩
      · exact exec_next _ _

/-- A strand's move is its boundary's trap, an issue, or the passing of time (R108). -/
theorem moveStrand_next (n : Nat) (s : State) : ∃ t, moveStrand n s = .next t := by
  unfold moveStrand
  dsimp only
  split
  · exact ⟨_, rfl⟩
  · split
    · exact ⟨_, rfl⟩
    · split
      · exact issue_next _
      · exact ⟨_, rfl⟩

theorem move_next (m : Mover) (s : State) : ∃ t, move m s = .next t := by
  cases m with
  | strand n => exact moveStrand_next n _
  | event e => exact exec_next e _

theorem step_next (s : State) : ∃ t, step s = .next t := by
  unfold step advance
  split
  · exact move_next _ _
  · split
    · exact move_next _ _
    · exact ⟨_, rfl⟩

end Sys2Proof.Machine

namespace Sys2Proof
open Machine

/-- Settles O12: every end of a framed program is a next state, and the step's other branches are next states themselves. -/
theorem noStepStops : Obligations.NoStepStops := ⟨step_next, exec_next⟩

end Sys2Proof

namespace Sys2Proof.Machine

/-! ### Bytes of memory after a store -/

theorem Memory.setBytes_append (m : Memory) (a : Nat) (xs ys : List Byte) :
    Memory.setBytes m a (xs ++ ys) = Memory.setBytes (Memory.setBytes m a xs) (a + xs.length) ys := by
  induction xs generalizing m a with
  | nil => rfl
  | cons x xs ih =>
    simp only [List.cons_append, Memory.setBytes, List.length_cons]
    rw [ih, Nat.add_right_comm, Nat.add_assoc]

theorem Memory.bytes_getD (m : Memory) (a n j : Nat) (h : j < n) :
    (Memory.bytes m a n).getD j 0 = Memory.byte m (a + j) := by
  induction n generalizing a j with
  | zero => omega
  | succ n ih =>
    cases j with
    | zero => rfl
    | succ j =>
      rw [Memory.bytes, List.getD_cons_succ, ih (a + 1) j (by omega), Nat.add_right_comm, Nat.add_assoc]

/-- A byte stored is the byte read back. -/
theorem Memory.byte_setBytes_in (m : Memory) (a j : Nat) (bs : List Byte) (hm : Memory.wf m = true) (hj : j < bs.length) :
    Memory.byte (Memory.setBytes m a bs) (a + j) = bs.getD j 0 := by
  rw [← Memory.bytes_getD _ a bs.length j hj, Memory.bytes_setBytes m a bs hm]

/-! ### Parts of a local access -/

theorem scratchAddr_add (off k : Nat) : scratchAddr off + BitVec.ofNat 64 k = scratchAddr (off + k) := by
  simp only [scratchAddr, ← BitVec.ofNat_add, Nat.add_assoc]

/-- A part of a local access is local. -/
theorem State.local_part (s : State) (va : Word) (off n k m : Nat) (h : s.local va off n = true) (hm : 0 < m)
    (hk : k + m ≤ n) : s.local (va + BitVec.ofNat 64 k) (off + k) m = true := by
  obtain ⟨rfl, h2, h3, h4, h5, h6, h7, h8⟩ := s.local_parts va off n h
  have hblock : (off + k) / 65536 = off / 65536 := by omega
  have hpage : (off + k) % 65536 + m ≤ 65536 := by omega
  have hend : off + k + m ≤ 2 ^ 25 := by omega
  simp only [State.local, State.reaches, scratchAddr_add, hblock, h4, h5, h6, h7, h8, hpage, hend, beq_self_eq_true,
    decide_true, List.isEmpty_nil, Option.isNone_none, Bool.not_false, Bool.and_self]

/-- Reading its sources leaves a strand all that a local access asks of it. -/
theorem State.local_sources (s : State) (cs : List (BitVec 6)) (vs : List Word) (st : Strand) (va : Word) (off n : Nat)
    (hr : s.running = true) (h : s.here.sources cs = some (vs, st)) :
    (s.setHere st).local va off n = s.local va off n := by
  obtain ⟨e, -⟩ := Strand.sources_frame cs s.here st vs h
  exact State.local_setHere s st va off n (s.running_rising hr) (by rw [e]) (by rw [e]) (by rw [e])

theorem State.putScratch_putScratch (s : State) (off : Nat) (xs ys : List Byte) :
    (s.putScratch off xs).putScratch (off + xs.length) ys = s.putScratch off (xs ++ ys) := by
  simp only [State.putScratch, Memory.setBytes_append, scratchKey, Nat.add_assoc]

/-- Without outstanding symbols a plain store to the die's scratchpad that has passed its checks is made. -/
theorem storeMade_local (s : State) (va : Word) (off : Nat) (bs : List Byte) (hs : s.here.syms = []) :
    storeMade s.whoStrand (.scratch (dieOf s.cur) off) 1 va bs plainAnn s = .ok () (s.putScratch off bs) := by
  unfold storeMade
  simp only [M.bind_ok _ _ _ _ _ (M.getHere_eq s), Strand.behind_none _ _ _ _ _ hs]
  simp [orderStores, plainAnn, M.bind_eq, storeOwn_scratch, State.putScratch]

/-- Two accesses of a plain store that are each local store the bytes of both, the lower first (R80). -/
theorem storeTwo_local (s : State) (va : Word) (off k : Nat) (bs : List Byte) (hk : 0 < k) (hn : k < bs.length)
    (h : s.local va off bs.length = true) : storeTwo va k bs plainAnn s = .ok () (s.putScratch off bs) := by
  obtain ⟨-, -, -, -, hs, -⟩ := s.local_parts va off _ h
  have hlen : (bs.take k).length = k := List.length_take_of_le (Nat.le_of_lt hn)
  have hlo : s.local va off k = true := by
    simpa using s.local_part va off bs.length 0 k h hk (by omega)
  have hhi := s.local_part va off bs.length k (bs.length - k) h (by omega) (by omega)
  have hcheck : orTrap (strandCheck .wr (va + BitVec.ofNat 64 k)) s
      = .ok (.ok (s.whoStrand, .scratch (dieOf s.cur) (off + k), 1)) s := by
    simp only [orTrap, strandCheck_local s .wr _ (off + k) _ (by omega) hhi]
  have hmade := storeMade_local (s.putScratch off (bs.take k)) (va + BitVec.ofNat 64 k) (off + k) (bs.drop k) hs
  have hboth : (s.putScratch off (bs.take k)).putScratch (off + k) (bs.drop k) = s.putScratch off bs := by
    have := s.putScratch_putScratch off (bs.take k) (bs.drop k)
    rwa [hlen, List.take_append_drop] at this
  unfold storeTwo
  rw [M.bind_ok _ _ _ _ _ (strandCheck_local s .wr va off k hk hlo)]
  simp only
  rw [M.bind_ok _ _ _ _ _ hcheck]
  simp only
  rw [M.bind_ok _ _ _ _ _ (storeMade_local s va off (bs.take k) hs), ← hboth]
  exact hmade

/-! ### Sources read one after another -/

theorem Strand.sources_cons (st st' : Strand) (c : BitVec 6) (cs : List (BitVec 6)) (v : Word) (vs : List Word)
    (h : st.sources (c :: cs) = some (v :: vs, st')) :
    ∃ st1, st.source c = some (v, st1) ∧ st1.sources cs = some (vs, st') := by
  simp only [Strand.sources] at h
  split at h
  · cases h
  · next w st1 h1 =>
    split at h
    · cases h
    · next ws st2 h2 =>
      cases h
      exact ⟨st1, h1, h2⟩

/-- The first of several sources is taken, and the others can still be read. -/
theorem takeVal_first (s : State) (c : BitVec 6) (cs : List (BitVec 6)) (v : Word) (vs : List Word) (st : Strand)
    (hr : s.running = true) (h : s.here.sources (c :: cs) = some (v :: vs, st)) :
    ∃ s1, takeVal c s = .ok v s1 ∧ s1.running = true ∧ s1.here.sources cs = some (vs, st)
      ∧ s1.setHere st = s.setHere st := by
  obtain ⟨st1, h1, h2⟩ := Strand.sources_cons _ _ _ _ _ _ h
  have i1 : st1.item.isSome = true := by rw [Strand.source_item _ _ _ _ h1]; exact s.running_item hr
  have i2 : st.item.isSome = true := by rw [Strand.sources_item _ _ _ _ h2]; exact i1
  refine ⟨s.setHere st1, takeVal_ok s c v st1 hr h1, State.running_setHere s st1 hr i1, ?_,
    State.setHere_setHere s st1 st i1 i2⟩
  rw [State.here_setHere s st1 (s.running_rising hr)]
  exact h2

/-- What reading four sources, one after another, leaves to the rest of an instruction. -/
theorem takeVals4_ok {β : Type} (s : State) (a b c d : BitVec 6) (w x y z : Word) (st : Strand)
    (f : Word → Word → Word → Word → M β) (hr : s.running = true)
    (h : s.here.sources [a, b, c, d] = some ([w, x, y, z], st)) :
    (do
      ready [a, b, c, d] []
      let w ← takeVal a
      let x ← takeVal b
      let y ← takeVal c
      let z ← takeVal d
      f w x y z) s = f w x y z (s.setHere st) := by
  obtain ⟨s1, t1, r1, h1, e1⟩ := takeVal_first s a _ w _ st hr h
  obtain ⟨s2, t2, r2, h2, e2⟩ := takeVal_first s1 b _ x _ st r1 h1
  obtain ⟨s3, t3, r3, h3, e3⟩ := takeVal_first s2 c _ y _ st r2 h2
  obtain ⟨s4, t4, r4, h4, e4⟩ := takeVal_first s3 d _ z _ st r3 h3
  have hst : s4.here = st := by
    simp only [Strand.sources, Option.some.injEq, Prod.mk.injEq, true_and] at h4; exact h4
  have hs4 : s4 = s.setHere st := by
    rw [← e1, ← e2, ← e3, ← e4, ← hst, State.setHere_here s4 r4]
  rw [M.bind_ok _ _ _ _ _ (ready_ok s _ [] hr (Strand.sources_each _ _ _ _ h) (by simp)), M.bind_ok _ _ _ _ _ t1,
    M.bind_ok _ _ _ _ _ t2, M.bind_ok _ _ _ _ _ t3, M.bind_ok _ _ _ _ _ t4, hs4]

/-! ### Stores to the die's scratchpad -/

/-- What a store of a register leaves before it retires: its low bytes in the scratchpad, and for a release the strand's
earlier stores performed. -/
theorem storeReg_local (s : State) (t base index : BitVec 6) (size : BitVec 2) (disp : BitVec 24) (aligned : Bool)
    (ann : Ann) (b i x : Word) (off : Nat) (st : Strand) (hr : s.running = true)
    (hs : s.here.sources [base, index, t] = some ([b, i, x], st))
    (hl : s.local (effAddr b i (sizeBytes size) disp) off (sizeBytes size) = true)
    (ha : aligned = true → (effAddr b i (sizeBytes size) disp).toNat % sizeBytes size = 0) :
    storeReg t base size index disp aligned ann s = .ok ()
      ((s.setHere (if ann.rel then st.performed else st)).putScratch off (leBytes x.toNat (sizeBytes size))) := by
  have hi : st.item.isSome = true := by rw [Strand.sources_item _ _ _ _ hs]; exact s.running_item hr
  have hn : 0 < (leBytes x.toNat (sizeBytes size)).length := by
    rw [leBytes_length]; exact Nat.two_pow_pos _
  have hl' : (s.setHere st).local (effAddr b i (sizeBytes size) disp) off (leBytes x.toNat (sizeBytes size)).length
      = true := by
    rw [leBytes_length, State.local_sources s _ _ st _ _ _ hr hs]; exact hl
  have hseen : (if ann.rel then (s.setHere st).seen (s.setHere st).cur else s.setHere st)
      = s.setHere (if ann.rel then st.performed else st) := by
    cases ann.rel with
    | false => rfl
    | true =>
      simp only [if_true]
      rw [State.seen_here _ (State.running_setHere s st hr hi), State.here_setHere s st (s.running_rising hr),
        State.setHere_setHere s st st.performed hi hi]
  have hstore := storeBytes_local _ _ off _ ann hn hl'
  rw [hseen] at hstore
  unfold storeReg
  rw [M.bind_ok _ _ _ _ _ (read3_ok s base index t [] b i x st hr hs (by simp))]
  cases aligned with
  | false => exact hstore
  | true => exact (M.bind_ok _ _ _ _ _ (needAlign_ok _ _ _ (ha rfl))).trans hstore

/-- An instruction whose body stores and ends there completes with its bytes stored. -/
theorem runU_stores (s : State) (h : Hdr) (body : M Unit) (st : Strand) (off : Nat) (bs : List Byte)
    (hg : s.guarded h = true) (hb : body s = .ok () ((s.setHere st).putScratch off bs)) :
    runU user h body s = .next (s.stores h 8 st off bs) :=
  runU_done user h body s _ (user_ok s) hg hb

/-- STP stores both registers, the lower first, in one access or in two (R159). -/
theorem execStp_local (s : State) (h : Hdr) (t base index : BitVec 6) (disp : BitVec 24) (b i x y : Word) (off : Nat)
    (st : Strand) (hg : s.guarded h = true) (hs : s.here.sources [base, index, t, t + 1] = some ([b, i, x, y], st))
    (ha : (effAddr b i 16 disp).toNat % 8 = 0) (hl : s.local (effAddr b i 16 disp) off 16 = true) :
    execStp h t base index disp s = .next (s.stores h 8 st off (leBytes x.toNat 8 ++ leBytes y.toNat 8)) := by
  have hr := s.guarded_running h hg
  have hlen : (leBytes x.toNat 8 ++ leBytes y.toNat 8).length = 16 := by
    rw [List.length_append, leBytes_length, leBytes_length]
  have hl' : (s.setHere st).local (effAddr b i 16 disp) off (leBytes x.toNat 8 ++ leBytes y.toNat 8).length = true := by
    rw [hlen, State.local_sources s _ _ st _ _ _ hr hs]; exact hl
  refine runU_stores s h _ st off _ hg ?_
  rw [takeVals4_ok s base index t (t + 1) b i x y st _ hr hs]
  simp only
  rw [M.bind_ok _ _ _ _ _ (needAlign_ok _ _ _ ha)]
  split
  · exact storePart_local _ _ off _ plainAnn (by omega) hl'
  · exact storeTwo_local _ _ off 8 _ (by omega) (by omega) hl'

/-! ### What a store leaves of the rest of the machine -/

theorem Tab.find_map_snd {α β : Type} (f : α → β) (t : Tab α) (k : Nat) :
    Tab.find (t.map fun p => (p.1, f p.2)) k = (Tab.find t k).map f := by
  induction t with
  | nil => rfl
  | cons p t ih =>
    obtain ⟨i, v⟩ := p
    simp only [List.map_cons, Tab.find]
    split
    · rfl
    · exact ih

/-- A strand after every waiting one may try again. -/
theorem wake_strand (s : State) (n : Nat) : (wake s).strand n = { s.strand n with waiting := none } := by
  simp only [State.strand, Tab.get, wake, Tab.find_map_snd (fun st : Strand => { st with waiting := none })]
  cases Tab.find s.strands n with
  | none => rfl
  | some st => rfl

theorem Strand.advance_idle (st : Strand) (n : Nat) (h : st.pend = []) : st.advance n = st := by
  obtain ⟨⟩ := st
  simp only at h
  subst h
  rfl

/-- The running strand after retirement. -/
theorem retire_here (k : BitVec 4) (pc : BitVec 56) (s : State) (h : Tab.rising s.strands = true) :
    (retire k pc s).here = { (s.here.advance (stallOf k)).endWait s.cycle with
      pc := pc, retired := (s.here.advance (stallOf k)).retired + 1 } := by
  show (wake (s.closeAsks.setHere _)).strand s.closeAsks.cur = _
  rw [wake_strand, State.setHere, State.strand_setStrand s.closeAsks s.closeAsks.cur _ h]
  rfl

/-- Retirement leaves every other strand but for its wait. -/
theorem retire_strand_ne (k : BitVec 4) (pc : BitVec 56) (s : State) (n : Nat) (h : n ≠ s.cur) :
    (retire k pc s).strand n = { s.strand n with waiting := none } := by
  show (wake (s.closeAsks.setHere _)).strand n = _
  rw [wake_strand, State.setHere, State.strand_setStrand_ne s.closeAsks s.closeAsks.cur n _ h]
  rfl

section
variable (s : State) (h : Hdr) (st : Strand) (off : Nat) (bs : List Byte)

theorem stores_mem : (s.stores h 8 st off bs).mem = Memory.setBytes s.mem (scratchKey (dieOf s.cur) off) bs := rfl

/-- The registers of a strand with nothing pending are those the store was given. -/
theorem stores_regs (hr : Tab.rising s.strands = true) (hp : st.pend = []) :
    (s.stores h 8 st off bs).here.s = st.s ∧ (s.stores h 8 st off bs).here.p = st.p := by
  have hst : ((s.setHere st).putScratch off bs).here = st := State.here_setHere s st hr
  have hrising : Tab.rising ((s.setHere st).putScratch off bs).strands = true := State.rising_setStrand s s.cur st hr
  rw [State.stores, retire_here _ _ _ hrising, hst, Strand.advance_idle st _ hp]
  exact ⟨rfl, rfl⟩

/-- A store leaves every other strand but for its wait. -/
theorem stores_strand_ne (n : Nat) (hn : n ≠ s.cur) :
    (s.stores h 8 st off bs).strand n = { s.strand n with waiting := none } := by
  have hput : ((s.setHere st).putScratch off bs).strand n = s.strand n := State.strand_setStrand_ne s s.cur n st hn
  rw [State.stores, retire_strand_ne _ _ ((s.setHere st).putScratch off bs) n hn, hput]

end

end Sys2Proof.Machine

namespace Sys2Proof
open Machine

/-- Settles O28: a store's program ends with its bytes in the scratchpad, and retirement changes the rest of the machine by
its strand and the waits of others only. -/
theorem storeResultsAndFrame : Obligations.StoreResultsAndFrame := by
  unfold Obligations.StoreResultsAndFrame
  refine ⟨fun s h t base index size sc disp b i x y off st hg => ⟨fun hs hl => ?_, fun hs _ ha hl => ?_⟩,
    fun s h st off bs hr _ hm => ?_⟩
  · have hrun := s.guarded_running h hg
    exact ⟨runU_stores s h _ st off _ hg
        (storeReg_local s t base index size disp false plainAnn b i x off st hrun hs hl (by simp)),
      runU_stores s h _ st off _ hg
        (storeReg_local s t base index size disp false { plainAnn with far := true } b i x off st hrun hs hl (by simp)),
      fun ha => runU_stores s h _ st.performed off _ hg
        (storeReg_local s t base index size disp true { plainAnn with rel := true } b i x off st hrun hs hl fun _ => ha)⟩
  · exact execStp_local s h t base index disp b i x y off st hg hs ha hl
  · simp only [stores_mem]
    exact ⟨fun j hj => Memory.byte_setBytes_in s.mem _ j bs hm hj,
      fun a ha => Memory.byte_setBytes_out s.mem _ a bs ha,
      Memory.wf_setBytes s.mem _ bs hm, rfl, rfl, rfl, rfl, rfl, rfl, rfl, rfl,
      stores_regs s h st off bs (s.running_rising hr), stores_strand_ne s h st off bs⟩

end Sys2Proof
